-- ==== Sys2Proof/Word.lean ====
section
/-!
DEFINITION. Word.lean: the word types of the block and the shape of its sparse tables.
Multi-byte values are little-endian (spec/00_scope.md R13); the byte-order functions stand in Machine/Bits.lean.
-/
namespace Sys2Proof

/-- One byte. -/
abbrev Byte := BitVec 8
/-- A 16-bit field: status codes, module addresses. -/
abbrev Half := BitVec 16
/-- A register (R17: every register is 32 bits wide). -/
abbrev Word := BitVec 32
/-- A 64-bit value: point values, extended domain times. -/
abbrev DWord := BitVec 64
/-- The bit pattern of an IEEE 754 binary32 number (REAL32). -/
abbrev F32 := BitVec 32
/-- The bit pattern of an IEEE 754 binary64 number (REAL64). -/
abbrev F64 := BitVec 64

/-- A sparse table by index: pairs in strictly rising key order; an index that is not listed holds the
default its reader names. -/
abbrev Tbl (α : Type) := List (Nat × α)

end Sys2Proof
end

