-- ==== Sys2Proof/Syntax.lean ====
section
/-!
DEFINITION. Syntax.lean: the commands of the block, one constructor per row of spec/opcode_table.json
(the rows give no bits; a command's operands are what the rule of its row names).
-/
namespace Sys2Proof

/-- Who makes an access on the register path (spec/01_architecture.md R40, R41): a core of the Cluster, the cask
tag the access carries, and whether the issuer is a cask application partition (Gengal firmware and Vintner are
not, and carry cask 0). -/
structure Issuer where
  core : Fin 4
  cask : Fin 64
  partition : Bool
  deriving DecidableEq, Repr

/-- Gengal firmware on core 0 (R40: cask 0, not a partition). -/
def Issuer.firmware : Issuer := { core := 0, cask := 0, partition := false }

/-- The islands of spec/01_architecture.md Table 1.1. -/
inductive Island where
  | cluster | prog | loop | trellis | ring | fbus | press | safp | safl | key | cellar
  deriving DecidableEq, Repr

/-- The register blocks of Table 1.9, in its order (the block index of R75). -/
inductive Block where
  | sys | cel | key | trl | pge | lpe | prs | saf | net | tim | fbs | bsi | upd | pwr
  deriving DecidableEq, Repr

/-- The lanes of the handshake channels of Table 1.2: the channel number and, on a two-way channel, whether
the lane runs against the first-named direction. -/
structure Lane where
  hc : Fin 17
  back : Bool
  deriving DecidableEq, Repr

/-- The two ring ports (spec/10_ring_and_redundancy.md). -/
inductive Port where
  | a | b
  deriving DecidableEq, Repr

/-- An Announce message as far as the best master clock algorithm reads it (spec/11_network_time.md R352): the
domainNumber, the grandmaster's identity and data set, and the UTC offset it gives. -/
structure Announce where
  dn : Nat
  gm : DWord
  priority1 : Nat
  clockClass : Nat
  accuracy : Nat
  variance : Nat
  priority2 : Nat
  utcOffset : Half
  utcValid : Bool
  deriving DecidableEq, Repr

/-- A peer delay message on a ring link (R347, R349): a request, a response with the link delay its exchange
measured, or a message outside Table 11.4. -/
inductive PdelayMsg where
  | request
  | response (delayNs : Nat)
  | outside
  deriving DecidableEq, Repr

/-- The capture sources of TIM_CAP_n_CFG.SRC. -/
inductive CapSrc where
  | aReceive | aTransmit | bReceive | bTransmit | timeCapIn
  deriving DecidableEq, Repr

/-- What a ring frame is (spec/10_ring_and_redundancy.md Table 10.2; IEEE 1588 and supervision frames; other traffic). -/
inductive FrameKind where
  | flow | heartbeat | fmp | pathTest | bind | sync | announce | pdelay | supervision | other
  deriving DecidableEq, Repr

/-- A frame on a ring port: the Ethernet source, the HSR sequence number, the Falore header fields (R308), the payload
as carried (encrypted for Falore types), the GCM tag, and whether its FCS is correct. `own` marks a frame addressed to this
module; `transit` one that it forwards. -/
structure Frame where
  kind : FrameKind
  src : Nat
  hsrSeq : Nat
  keyPhase : Bool
  cask : Nat
  srcAddr : Nat
  flow : Nat
  fseq : Nat
  stamp : DWord
  keyRef : Nat
  payload : List Byte
  tag : List Byte
  fcsOk : Bool
  own : Bool
  transit : Bool
  deriving DecidableEq, Repr

/-- The header of an FMP request (Table 10.5). `service` marks a request on the service port, `client` its session there, or
the client's 16-bit address on the ring. -/
structure FmpHdr where
  service : Bool
  client : Nat
  ver : Nat
  cask : Fin 64
  seq : Word
  block : Nat
  offset : Nat
  count : Nat
  deriving DecidableEq, Repr

/-- A bind frame's content as a destination reads it (R329). -/
structure BindReq where
  srcAddr : Nat
  srcFlow : Nat
  cask : Fin 64
  dpoint : Nat
  npts : Nat
  promiseNs : Nat
  deriving DecidableEq, Repr

/-- A dynamic flow request (NET_ADM_DEST to NET_ADM_REQ_NS). -/
structure FlowReq where
  node : Nat
  dpoint : Nat
  periodMs : Nat
  spoint : Nat
  npts : Nat
  reqUs : Nat
  deriving DecidableEq, Repr

/-! ### Operands of function-block instructions (spec/04_program_engine.md Tables 4.5 and 4.6) -/

/-- Base of a data address: [IB + IMM], [GB + IMM] or [Dn + IMM]. -/
inductive Base where
  | ib | gb | d (n : Fin 16)
  deriving DecidableEq, Repr

/-- A data address in the cask's partition. -/
structure MemOpnd where
  base : Base
  imm : Half
  deriving DecidableEq, Repr

/-- A second source: a data register, or an immediate as the decoder hands it over. -/
inductive Src where
  | d (n : Fin 16) | imm (v : DWord)
  deriving DecidableEq, Repr

/-- A boolean operand: a bit register, or a bit of a byte in instance memory. -/
inductive BitOpnd where
  | b (n : Fin 8) | mem (m : MemOpnd) (bit : Fin 8)
  deriving DecidableEq, Repr

/-- Conditions of CMP and FCMP. -/
inductive Cond where
  | eq | ne | lt | le | gt | ge
  deriving DecidableEq, Repr

/-- Integer formats a conversion can produce: signed or not, and 8, 16, 32 or 64 bits. -/
inductive IntFmt where
  | i8 | i16 | i32 | i64 | u8 | u16 | u32 | u64
  deriving DecidableEq, Repr

/-- The real conversions (CVT): integer to real, between the two real formats, and real to integer; `single` is binary32. -/
inductive CvtKind where
  | intToReal (single : Bool)
  | realToReal (toSingle : Bool)
  | realToInt (single : Bool) (fmt : IntFmt)
  deriving DecidableEq, Repr

/-- The two channels of the safety island (spec/09_safety_island.md): the safety processor and the safety logic. -/
inductive SafChan where
  | sp | sl
  deriving DecidableEq, Repr

/-- A session message of the safety island (Table 9.11). -/
inductive SafMsg where
  | openSession (password : List Byte) (time : DWord)
  | showPending
  | accept (digest : List Byte)
  | setPassword (old new : List Byte)
  | resetLockout (pair : Nat)
  | readLog (start : Nat)
  | close
  deriving DecidableEq, Repr

/-- What a voltage or clock glitch monitor sees (spec/14_keys_tamper_identity.md Table 14.5): a rail's deviation in thousandths of
nominal and how long it lasts; the crystal's frequency; the key engine clock. -/
inductive GlitchSense where
  | rail (deviation : Int) (ns : Nat)
  | crystal (hz : Nat)
  | keyClock (khz : Nat)
  deriving DecidableEq, Repr


/-- A frame received on a CAN channel: format, identifier, payload (or a remote frame) and the time it took on the bus. -/
structure CanRx where
  ide : Bool
  fdf : Bool
  id : Nat
  payload : List Byte
  remote : Bool
  durationNs : Nat
  deriving DecidableEq, Repr

/-- Replies of an OSDP reader as far as the module acts on them (Table 13.10): ACK, NAK, BUSY, other status replies, LSTATR with the
tamper state, RAW with its format byte and card bits (count and packed bytes), KEYPAD with its digits. -/
inductive OsdpReply where
  | ack | nak | busy | other
  | lstatr (tamper : Bool)
  | raw (format : Byte) (bits : Half) (data : List Byte)
  | keypad (digits : Word)
  deriving DecidableEq, Repr

/-- The commands: one constructor per row of spec/opcode_table.json, in its order. -/
inductive Instr where
  /-- R20. A write to a register that has no row of its own acts as its access code gives: RW sets, RW1C clears ones, RO is ignored. -/
  | registerWrite (iss : Issuer) (addr : Word) (w : Word)
  /-- R22. A read of an RC register returns its value and clears it; an event in the same cycle is kept for the next read. -/
  | rcRegisterRead (iss : Issuer) (addr : Word)
  /-- R17. A byte, halfword or unaligned access to peripheral space ends in a bus error with no side effect. -/
  | narrowOrUnalignedAccess (iss : Issuer) (addr : Word) (size : Fin 5) (isWrite : Bool)
  /-- R46. An access from 0x400E_0000 to 0x4FFF_FFFF ends in a bus error with no side effect. -/
  | unmappedPeripheralAccess (iss : Issuer) (addr : Word) (isWrite : Bool)
  /-- R10. A write of SYS_COMPAT requests prior mode or sets SAVED; PRIOR has no effect once an image is loaded. -/
  | sysCompatWrite (iss : Issuer) (w : Word)
  /-- R27. A transfer presented on a handshake channel lane arrives at the receiving island, in order on its lane. -/
  | handshakeCrossing (lane : Lane)
  /-- R31. A posted CEL write takes effect at the Cellar after the HC14 crossing and WPEND clears. -/
  | celPostedWriteEffect
  /-- R341. An island's local copy of the time domains is updated from TIM, taking any step within 1 µs. -/
  | timeDistributionUpdate (isl : Island)
  /-- R60. UPD_SI_CTRL STAGE validates a sectional set, writes it to flash uncommitted and has islands hold its sections inactive. -/
  | stage (iss : Issuer)
  /-- R60. UPD_SI_CTRL COMMIT repeats checks 15 to 17, writes the commit record and enters SCHEDULED or COMMITTING. -/
  | commit (iss : Issuer) (timed : Bool)
  /-- R60. UPD_SI_CTRL DISCARD in STAGED removes the set from flash and from the islands. -/
  | discard (iss : Issuer)
  /-- R61. At the first Trellis cycle at or after the activation time with domain 0 trusted, class L, S and C changes take effect together and the running vintage changes. -/
  | commitTrellisCycle
  /-- R60. An island reports its section active; when the last has reported, the load state returns to IDLE. -/
  | sectionActiveReport (sec : Fin 16)
  /-- R67. The Cluster abort ends a load in CHECKING or STAGED as DISCARD does, reporting IMAGE_ABORTED. -/
  | sectionalLoadAbort (iss : Issuer)
  /-- R58. At start-up the active slot's whole image and its committed sets are validated and loaded in order of vintage. -/
  | wholeLoad
  /-- R84. At each 1 ms frame boundary Trellis builds the due list, admits starts and runs the slot steps of Table 3.3. -/
  | trellisFrame (readings : List (Nat × F64)) (refs : List (Nat × F64 × F64))
  /-- R105. At the frame boundary k + T_START a start releases its I_START from the group and module budgets. -/
  | startRelease (cell : Fin 256)
  /-- R81. Every 125 µs the DI comparator samples the input with hysteresis. -/
  | diSample (cell : Fin 256) (millivolts : Nat)
  /-- R81. A DI input stable for its FILTER time changes the cell's filtered value, stamped at the first sample of the state. -/
  | diFilterElapsed (cell : Fin 256)
  /-- R81. A filtered rising edge on a COUNT cell increments its hardware counter. -/
  | countEdge (cell : Fin 256) (highUs : Nat) (lowUs : Nat)
  /-- R85. An off command, a lowered AO value or a non-finite command takes effect in the Trellis cycle after the point write. -/
  | outputTurnOff (cell : Fin 256)
  /-- R80. A DO or PWM output at 1.0 A or more trips within 50 µs and reports BAD_OVERLOAD. -/
  | doShortTrip (cell : Fin 256) (milliamps : Nat)
  /-- R82. A tripped DO cell retries once per 1,000 ms as a start under the budget. -/
  | doTripRetry (cell : Fin 256)
  /-- R79. Group FSUP below 16.0 V sets BAD_SUPPLY on its cells and switches their drivers off within 100 µs. -/
  | groupFsupLow (group : Fin 16) (millivolts : Nat)
  /-- R79. Group FSUP at or above 17.0 V for 10 ms resumes outputs, each commanded on as a start. -/
  | groupFsupRestored (group : Fin 16) (millivolts : Nat) (heldMs : Nat)
  /-- R108. A write of TRL_PT_SEL snapshots the selected point entry into TRL_PT_DATA in one Trellis cycle. -/
  | pointSnapshot (iss : Issuer) (index : Fin 16384)
  /-- R109. TRL_PT_WR_CMD writes a partition's own point, or is refused and counted. -/
  | partitionPointWrite (iss : Issuer) (index : Fin 16384) (quality : Byte)
  /-- R100. TRL_TEST_CTRL START begins a cell test, holding the point with UNDER_TEST, or refuses with TEST_BUSY or TEST_MODE. -/
  | cellTestStart (iss : Issuer) (cell : Fin 256) (type : Fin 16) (timeout : Fin 64)
  /-- R104. TRL_TEST_CTRL STOP ends the running test with TEST_STOPPED. -/
  | cellTestStop (iss : Issuer)
  /-- R104. A cell test completes with TEST_PASS or a failure code and records an event. -/
  | cellTestComplete (results : List (F64 × F64)) (wireOk : Bool)
  /-- R104. A cell test whose timeout passes ends with TEST_TIMEOUT. -/
  | cellTestTimeout
  /-- R111. A cyclic task is released at its frame, its input image copied and sent over HC0, or skipped as an overrun. -/
  | taskRelease (cask : Fin 63) (task : Fin 8)
  /-- R112. A point write or RAISE releases an event task, makes one release pending, or is lost with PGE_EVT_LOST. -/
  | eventTaskTrigger (cask : Fin 63) (task : Fin 32)
  /-- R112. A partition's write of PGE_EVT_TRIG triggers its event task with TRIGGER 0x04. -/
  | pgeEvtTrig (iss : Issuer) (task : Fin 32)
  /-- R114. A new 10 ms period starts and every cask's guarantee of processor time is renewed. -/
  | pgeAccountingPeriod
  /-- R116. A running task's cask uses up its guarantee, changing the dispatch order. -/
  | pgeGuaranteeUsed (cask : Fin 63)
  /-- R118. With the whole input image held, a free processor takes the task and runs its instances in order. -/
  | taskExecutionStart (p : Fin 2)
  /-- R119. At the end of execution the output image goes to Trellis over HC1. -/
  | taskOutputPhase (p : Fin 2)
  /-- R119. Trellis commits every entry of a task's output image in one Trellis cycle, then setpoints go over HC2. -/
  | outputImageCommit (cask : Fin 63) (task : Fin 32)
  /-- R129. A cycle journals its changed retentive lines and cask clock, writes the commit marker and ends. -/
  | retentiveCommit (cask : Fin 63) (task : Fin 32)
  /-- R138. A cycle exceeding WDOG_MS before its output phase is abandoned with PGE_WATCHDOG. -/
  | taskWatchdog (cask : Fin 63) (task : Fin 32)
  /-- R139. After a raising cycle ends, the error task is released once for each queued reason. -/
  | errorTaskRelease (cask : Fin 63)
  /-- R135. PGE_CMD RUN_WARM warm-starts a cask in STOP and enters RUN. -/
  | runWarm (iss : Issuer) (target : Fin 64)
  /-- R135. PGE_CMD RUN_COLD cold-starts a cask in STOP and enters RUN. -/
  | runCold (iss : Issuer) (target : Fin 64)
  /-- R132. PGE_CMD HOLD puts a cask in RUN into HOLDING. -/
  | holdCask (iss : Issuer) (target : Fin 64)
  /-- R132. PGE_CMD RESUME returns a cask in HOLD to RUN and restarts its clock. -/
  | resumeCask (iss : Issuer) (target : Fin 64)
  /-- R132. PGE_CMD STOP puts a cask in RUN, HOLD or HOLDING into STOPPING. -/
  | stopCask (iss : Issuer) (target : Fin 64)
  /-- R132. When no cycle or exchange work of a HOLDING or STOPPING cask remains, it enters HOLD or STOP. -/
  | caskDrained (cask : Fin 63)
  /-- R134. A cask in HOLD for HOLD_LIMIT_S passes to STOP and records PGE_HOLD_EXPIRED. -/
  | holdExpired (cask : Fin 63)
  /-- R136. In the first frame after a whole load, each cask acts on its START_MODE. -/
  | caskAutoStart (cask : Fin 63)
  /-- R142. The program engine abort abandons cycles, fails exchanges, puts every cask in STOP and idles both processors. -/
  | programEngineAbort (iss : Issuer)
  /-- R123. A read of PGE_CLK_LO returns the low word of the cask clock and latches the high word. -/
  | pgeClkLoRead (iss : Issuer)
  /-- R141. Vintner writes a bounded target, limited by its bound points and rate, or writes nothing. -/
  | vintnerSetpointWrite (point : Fin 16384) (v : F64)
  /-- R127. Loads 8 bits from a checked partition-relative address. -/
  | opLd8 (p : Fin 2) (d : Fin 16) (m : MemOpnd)
  /-- R127. Loads 16 bits from a checked partition-relative address. -/
  | opLd16 (p : Fin 2) (d : Fin 16) (m : MemOpnd)
  /-- R127. Loads 32 bits from a checked partition-relative address. -/
  | opLd32 (p : Fin 2) (d : Fin 16) (m : MemOpnd)
  /-- R127. Loads 64 bits from a checked partition-relative address. -/
  | opLd64 (p : Fin 2) (d : Fin 16) (m : MemOpnd)
  /-- R127. Stores 8 bits to a checked partition-relative address. -/
  | opSt8 (p : Fin 2) (d : Fin 16) (m : MemOpnd)
  /-- R127. Stores 16 bits to a checked partition-relative address. -/
  | opSt16 (p : Fin 2) (d : Fin 16) (m : MemOpnd)
  /-- R127. Stores 32 bits to a checked partition-relative address. -/
  | opSt32 (p : Fin 2) (d : Fin 16) (m : MemOpnd)
  /-- R127. Stores 64 bits to a checked partition-relative address. -/
  | opSt64 (p : Fin 2) (d : Fin 16) (m : MemOpnd)
  /-- R118. Reads an input image slot's value into D and its quality class into B. -/
  | opIn (p : Fin 2) (d : Fin 16) (b : Fin 8) (slot : Half)
  /-- R118. Reads an input image slot's quality code. -/
  | opInq (p : Fin 2) (d : Fin 16) (slot : Half)
  /-- R119. Writes D to an output image slot. -/
  | opOut (p : Fin 2) (d : Fin 16) (slot : Half)
  /-- R119. Writes D with a quality code to an output image slot. -/
  | opOutq (p : Fin 2) (d : Fin 16) (code : Byte) (slot : Half)
  /-- R125. Integer addition, wrapping in two's complement. -/
  | opAdd (p : Fin 2) (d : Fin 16) (x : Fin 16) (y : Src)
  /-- R125. Integer subtraction, wrapping in two's complement. -/
  | opSub (p : Fin 2) (d : Fin 16) (x : Fin 16) (y : Src)
  /-- R125. Integer negation. -/
  | opNeg (p : Fin 2) (d : Fin 16) (x : Fin 16)
  /-- R125. Integer absolute value. -/
  | opAbs (p : Fin 2) (d : Fin 16) (x : Fin 16)
  /-- R125. Integer minimum. -/
  | opMin (p : Fin 2) (d : Fin 16) (x : Fin 16) (y : Src)
  /-- R125. Integer maximum. -/
  | opMax (p : Fin 2) (d : Fin 16) (x : Fin 16) (y : Src)
  /-- R125. Integer limit to a range. -/
  | opLimit (p : Fin 2) (d : Fin 16) (lo : Src) (x : Fin 16) (hi : Src)
  /-- R125. Integer selection. -/
  | opSel (p : Fin 2) (d : Fin 16) (b : Fin 8) (x : Src) (y : Src)
  /-- R125. Integer multiplication, wrapping. -/
  | opMul (p : Fin 2) (d : Fin 16) (x : Fin 16) (y : Src)
  /-- R125. Integer division; by 0 gives 0 and raises PGE_ARITH. -/
  | opDiv (p : Fin 2) (d : Fin 16) (x : Fin 16) (y : Src)
  /-- R125. Integer remainder; by 0 gives 0 and raises PGE_ARITH. -/
  | opMod (p : Fin 2) (d : Fin 16) (x : Fin 16) (y : Src)
  /-- R125. Integer conversion; out of range saturates and raises PGE_ARITH. -/
  | opIntConv (p : Fin 2) (d : Fin 16) (x : Fin 16) (fmt : IntFmt)
  /-- R125. Bitwise AND. -/
  | opAnd (p : Fin 2) (d : Fin 16) (x : Fin 16) (y : Src)
  /-- R125. Bitwise OR. -/
  | opOr (p : Fin 2) (d : Fin 16) (x : Fin 16) (y : Src)
  /-- R125. Bitwise XOR. -/
  | opXor (p : Fin 2) (d : Fin 16) (x : Fin 16) (y : Src)
  /-- R125. Bitwise NOT. -/
  | opNot (p : Fin 2) (d : Fin 16) (x : Fin 16)
  /-- R125. Shift left. -/
  | opShl (p : Fin 2) (d : Fin 16) (x : Fin 16) (y : Src)
  /-- R125. Shift right. -/
  | opShr (p : Fin 2) (d : Fin 16) (x : Fin 16) (y : Src)
  /-- R125. Rotate left. -/
  | opRol (p : Fin 2) (d : Fin 16) (x : Fin 16) (y : Src)
  /-- R125. Rotate right. -/
  | opRor (p : Fin 2) (d : Fin 16) (x : Fin 16) (y : Src)
  /-- R125. IEEE 754 addition, round to nearest even. -/
  | opFadd (p : Fin 2) (single : Bool) (d : Fin 16) (x : Fin 16) (y : Src)
  /-- R125. IEEE 754 subtraction. -/
  | opFsub (p : Fin 2) (single : Bool) (d : Fin 16) (x : Fin 16) (y : Src)
  /-- R125. IEEE 754 multiplication. -/
  | opFmul (p : Fin 2) (single : Bool) (d : Fin 16) (x : Fin 16) (y : Src)
  /-- R125. IEEE 754 division. -/
  | opFdiv (p : Fin 2) (single : Bool) (d : Fin 16) (x : Fin 16) (y : Src)
  /-- R125. IEEE 754 square root. -/
  | opFsqrt (p : Fin 2) (single : Bool) (d : Fin 16) (x : Fin 16)
  /-- R125. Real minimum. -/
  | opFmin (p : Fin 2) (single : Bool) (d : Fin 16) (x : Fin 16) (y : Src)
  /-- R125. Real maximum. -/
  | opFmax (p : Fin 2) (single : Bool) (d : Fin 16) (x : Fin 16) (y : Src)
  /-- R125. Real limit to a range. -/
  | opFlim (p : Fin 2) (single : Bool) (d : Fin 16) (lo : Src) (x : Fin 16) (hi : Src)
  /-- R125. Real conversion; real to integer out of range saturates and raises PGE_ARITH. -/
  | opCvt (p : Fin 2) (d : Fin 16) (x : Fin 16) (kind : CvtKind)
  /-- R125. Integer comparison by condition into a B register. -/
  | opCmp (p : Fin 2) (cond : Cond) (b : Fin 8) (x : Fin 16) (y : Src)
  /-- R125. Real comparison by condition into a B register. -/
  | opFcmp (p : Fin 2) (single : Bool) (cond : Cond) (b : Fin 8) (x : Fin 16) (y : Src)
  /-- R125. Boolean load into a B register. -/
  | opLdb (p : Fin 2) (b : Fin 8) (x : BitOpnd)
  /-- R125. Boolean AND. -/
  | opAndb (p : Fin 2) (b : Fin 8) (x : Fin 8) (y : Fin 8)
  /-- R125. Boolean OR. -/
  | opOrb (p : Fin 2) (b : Fin 8) (x : Fin 8) (y : Fin 8)
  /-- R125. Boolean XOR. -/
  | opXorb (p : Fin 2) (b : Fin 8) (x : Fin 8) (y : Fin 8)
  /-- R125. Boolean NOT. -/
  | opNotb (p : Fin 2) (b : Fin 8) (x : Fin 8)
  /-- R125. Boolean store. -/
  | opStb (p : Fin 2) (b : Fin 8) (x : BitOpnd)
  /-- R125. Boolean set. -/
  | opSetb (p : Fin 2) (b : Fin 8)
  /-- R125. Boolean reset. -/
  | opRstb (p : Fin 2) (b : Fin 8)
  /-- R126. Jump inside the cask's code region. -/
  | opJmp (p : Fin 2) (target : Word)
  /-- R126. Branch if true. -/
  | opBt (p : Fin 2) (b : Fin 8) (target : Word)
  /-- R126. Branch if false. -/
  | opBf (p : Fin 2) (b : Fin 8) (target : Word)
  /-- R126. Calls an instance, loading IB, up to a depth of 32. -/
  | opCall (p : Fin 2) (inst : Word) (target : Word)
  /-- R126. Returns from an instance call. -/
  | opRet (p : Fin 2)
  /-- R124. Evaluates an on-delay timer against the latched cask clock. -/
  | opTon (p : Fin 2) (m : MemOpnd) (inp : Fin 8) (q : Fin 8)
  /-- R124. Evaluates an off-delay timer against the latched cask clock. -/
  | opTof (p : Fin 2) (m : MemOpnd) (inp : Fin 8) (q : Fin 8)
  /-- R124. Evaluates a pulse timer against the latched cask clock. -/
  | opTp (p : Fin 2) (m : MemOpnd) (inp : Fin 8) (q : Fin 8)
  /-- R124. Evaluates a rising-edge detector. -/
  | opRtrig (p : Fin 2) (m : MemOpnd) (inp : Fin 8) (q : Fin 8)
  /-- R124. Evaluates a falling-edge detector. -/
  | opFtrig (p : Fin 2) (m : MemOpnd) (inp : Fin 8) (q : Fin 8)
  /-- R124. Evaluates an up counter on 64-bit counts. -/
  | opCtu (p : Fin 2) (m : MemOpnd) (cu : Fin 8) (r : Fin 8) (q : Fin 8)
  /-- R124. Evaluates a down counter on 64-bit counts. -/
  | opCtd (p : Fin 2) (m : MemOpnd) (cd : Fin 8) (ld : Fin 8) (q : Fin 8)
  /-- R124. Evaluates an up-down counter on 64-bit counts. -/
  | opCtud (p : Fin 2) (m : MemOpnd) (cu : Fin 8) (cd : Fin 8) (r : Fin 8) (ld : Fin 8) (qu : Fin 8) (qd : Fin 8)
  /-- R123. Returns the cask clock latched at the cycle's release. -/
  | opClk (p : Fin 2) (d : Fin 16)
  /-- R128. Returns the instance's first-cycle flag into a B register. -/
  | opFirst (p : Fin 2) (b : Fin 8)
  /-- R179. Sends a setpoint to a loop slot, checked against the slot's cask. -/
  | opSetp (p : Fin 2) (slot : Half) (d : Fin 16)
  /-- R178. Sends a mode command to a loop slot, checked against the slot's cask. -/
  | opMode (p : Fin 2) (slot : Half) (d : Fin 16)
  /-- R112. Requests release of an event task of the same cask, sent at the output phase. -/
  | opRaise (p : Fin 2) (task : Fin 32)
  /-- R140. Reads the error task's current queue entry. -/
  | opErrinfo (p : Fin 2) (d : Fin 16)
  /-- R140. Sets the action CONTINUE or STOP for the current error entry unless fixed. -/
  | opErrack (p : Fin 2) (stop : Bool)
  /-- R145. An affected task with no cycle in progress at or after the commit makes its exchange work ready. -/
  | exchangeBoundary (cask : Fin 63) (task : Fin 32)
  /-- R154. A processor runs the exchange work: matching, migration routines and initialisation of instances. -/
  | exchangeWork (p : Fin 2)
  /-- R147. The journal commit marker makes the new program the task's program in one step. -/
  | exchangeSwitch (cask : Fin 63) (task : Fin 32)
  /-- R155. Exchange work not switched within WDOG_MS of its boundary fails with EXCH_TIME. -/
  | exchTime (cask : Fin 63) (task : Fin 32)
  /-- R161. A station whose watchdog passes without restart is lost, its inputs substituted and PGE_STATION_LOST raised. -/
  | stationLost (station : Fin 1024)
  /-- R171. At each frame boundary the loop engine builds the due list of slots not OFF. -/
  | loopFrame
  /-- R172. Trellis reads every input point of one due slot in one cycle, its sample instant. -/
  | loopSnapshot (slot : Fin 1024)
  /-- R173. A slot evaluates its law with scheduled parameters and writes OUT_POINT and FE_POINT. -/
  | loopEvaluation (slot : Fin 1024)
  /-- R195. A following error held to T0 + FE_TIME_MS raises the alarm and may force MANUAL. -/
  | lpeFe (slot : Fin 1024)
  /-- R196. A due slot not started by the next frame boundary misses its sample. -/
  | lpeLate (slot : Fin 1024)
  /-- R178. LPE_MODE_CMD OFF stops the slot's evaluation. -/
  | loopModeOff (iss : Issuer) (slot : Fin 1024)
  /-- R178. LPE_MODE_CMD MANUAL sets the slot to MANUAL with LPE_MODE_VAL. -/
  | loopModeManual (iss : Issuer) (slot : Fin 1024)
  /-- R178. LPE_MODE_CMD AUTO sets the slot to AUTO. -/
  | loopModeAuto (iss : Issuer) (slot : Fin 1024)
  /-- R178. LPE_MODE_CMD TRACK sets the slot to TRACK, refused without a TRACK_POINT. -/
  | loopModeTrack (iss : Issuer) (slot : Fin 1024)
  /-- R209. Writing LPE_CTRL.RUN = 1 resumes an idle engine with stored commands. -/
  | lpeResume (iss : Issuer)
  /-- R209. The loop engine abort abandons evaluation, ends shadows and captures, and idles the engine. -/
  | loopEngineAbort (iss : Issuer)
  /-- R198. LPE_SHD_n_CTRL START begins a TEST shadow, or refuses with LPE_SHD_BUSY. -/
  | shadowStart (iss : Issuer) (ctx : Fin 16) (slot : Fin 1024) (count : Byte)
  /-- R198. LPE_SHD_n_CTRL STOP ends the shadow. -/
  | shadowStop (iss : Issuer) (ctx : Fin 16)
  /-- R176. A shadow evaluates the slot's snapshot in idle cycles, or is skipped if it cannot start in the frame. -/
  | shadowEvaluation (ctx : Fin 16)
  /-- R198. A shadow reaching its count of compared samples ends with LPE_OK. -/
  | shadowComplete (ctx : Fin 16)
  /-- R202. A capture reaching 224 samples from the step goes to Vintner over HC4. -/
  | captureComplete (buf : Fin 16)
  /-- R203. Vintner fits the captured response and computes bounded gains, or judges an applied set. -/
  | vintnerRetuneFit (buf : Fin 16)
  /-- R205. LPE_RT_CMD TRY starts a CANDIDATE shadow with the candidate gains. -/
  | tryRetune (iss : Issuer)
  /-- R205. LPE_RT_CMD APPLY applies the retuned set at the next sample, or refuses. -/
  | applyRetune (iss : Issuer)
  /-- R206. LPE_RT_CMD REVERT applies the fallback set with a hand-over. -/
  | revertRetune (iss : Issuer)
  /-- R224. At each 125 µs sample Press converts, computes cycle means and books energy into accumulators, window and tariff. -/
  | pressSample (main : List (Nat × Int)) (guard : List (Nat × Int)) (ref : F64)
  /-- R213. Eight quiet 20 ms blocks raise the gain one step and start a hand-over. -/
  | gainStepUp (ch : Fin 48)
  /-- R214. After three guard samples following the command, the main path at the new gain is used. -/
  | handoverEnd (ch : Fin 48)
  /-- R219. A positive zero crossing updates the frequency and cycle length N. -/
  | zeroCrossing (sys : Fin 2) (phase : Fin 3)
  /-- R226. N consecutive booked samples of opposite sign change the element's direction state. -/
  | prsDirChange (elem : Fin 48)
  /-- R228. A phase below V_MIN for 10 cycles sets PHASE_LOSS; 10 cycles above clears it. -/
  | prsPhaseLoss (elem : Fin 48)
  /-- R243. Press points without update for 3 × PUB_MS are declared lost and substituted. -/
  | pressPointsLost (elem : Fin 48)
  /-- R238. An owed pulse starts at its interpolated instant or once on and off times allow. -/
  | pulseStart (n : Fin 8)
  /-- R236. A pulse's WIDTH_US on time ends. -/
  | pulseEnd (n : Fin 8)
  /-- R232. PRS_MD_RESET resets an element's MD_IMP at the first sample after it reaches Press. -/
  | mdReset (iss : Issuer) (elem : Fin 64)
  /-- R235. PRS_TRF_g_CMD PUSH queues a switch, or refuses with PRS_TRF_ORDER or PRS_TRF_FULL. -/
  | tariffPush (iss : Issuer) (g : Fin 4) (index : Fin 8)
  /-- R235. PRS_TRF_g_CMD CLEAR drops all pending switches. -/
  | tariffClear (iss : Issuer) (g : Fin 4)
  /-- R250. A write of PRS_ACC_SEL requests a snapshot of an element's accumulators between two samples. -/
  | accumulatorSnapshot (iss : Issuer) (elem : Fin 64)
  /-- R250. The snapshot words are filled and BUSY clears. -/
  | snapshotComplete (cask : Fin 63)
  /-- R245. A changed or added element activates at its window end or next minute, keeping or zeroing its accumulators. -/
  | elementActivation (elem : Fin 48)
  /-- R248. The Press abort ends a snapshot with ABORTED and stops tasting. -/
  | pressAbort (iss : Issuer)
  /-- R251. At the first sample of each domain 1 second Press copies its state and writes it to the other bank. -/
  | periodicSave
  /-- R253. A save's commit word is written and the since-save counters are reduced and tagged. -/
  | saveCommit (readBackOk : Bool)
  /-- R255. The final-save command stops tasting, takes a copy and writes it as a save, abandoning any periodic save. -/
  | finalSaveCommand
  /-- R258. With 64 ms of samples held before restoration, Press sums later samples into a restart total. -/
  | pressHoldFull
  /-- R258. Press restores the newer valid bank, settles uncertain energy and books held samples. -/
  | pressRestoreComplete
  /-- R262. A voltage system below 20 V on every phase for 10 cycles starts a measured-loss watch. -/
  | prsWatchStart
  /-- R263. Each watch second forms Irms and charge per phase and may set SUSPECT. -/
  | watchSecond (irms : List (Nat × F64))
  /-- R264. A watch ends on voltage return or Press RUN and records PRS_WATCH_END. -/
  | prsWatchEnd
  /-- R265. VMB below 3.0 V during an unmeasured watch loses the retained record. -/
  | prsWatchLost (millivolts : Nat)
  /-- R269. A 16,000-sample run ends; a valid run updates τ or is rejected. -/
  | tastingRunComplete (zeroPpm : Int) (checkPpm : Int)
  /-- R271. PRS_TST_CTRL START begins tasting in rotation. -/
  | tastingStart (iss : Issuer) (zeroPpm : Int) (checkPpm : Int)
  /-- R271. PRS_TST_CTRL SINGLE tastes one channel repeatedly. -/
  | tastingSingle (iss : Issuer) (ch : Fin 64) (zeroPpm : Int) (checkPpm : Int)
  /-- R271. PRS_TST_CTRL STOP ends tasting after discarding the run. -/
  | tastingStop (iss : Issuer)
  /-- R277. Every 2 ms the safety processor samples its inputs and evaluates its function and pair state machines. -/
  | spSample (si : List Nat) (fb : List Nat)
  /-- R277. Every 16,000 RC cycles the safety logic samples its inputs and evaluates its state machines. -/
  | slSample (si : List Nat) (fb : List Nat)
  /-- R282. The second input not following within DISC_MS puts the function in FAULT with DISCREPANCY. -/
  | discrepancyTimeout (ch : SafChan) (func : Fin 8)
  /-- R285. A hand INTERMEDIATE for DISC_MS puts the two-hand control in FAULT. -/
  | intermediateTimeout (ch : SafChan) (func : Fin 8)
  /-- R285. The 500 ms synchronous window ending in WAIT makes the two-hand control BLOCKED. -/
  | syncWindowEnd (ch : SafChan) (func : Fin 8)
  /-- R282. Inputs off together for 100 ms return a FAULT function to STOPPED. -/
  | functionFaultClear (ch : SafChan) (func : Fin 8)
  /-- R278. A test-pulse output drops to 0 V for 400 µs at its offset in each 10 ms. -/
  | testPulseDrop (tp : Fin 4)
  /-- R279. 300 µs into a drop each channel checks its assigned inputs read low, or FAULT with TP. -/
  | tpCheckSample (tp : Fin 4) (spMv : List Nat) (slMv : List Nat)
  /-- R274. The channels exchange readings and permits; lasting disagreement gives FAULT with CROSS. -/
  | crossLinkExchange (rcKhz : Nat)
  /-- R292. A request-off line change requests or ends off for its pair. -/
  | requestOff (pair : Fin 4)
  /-- R288. Feedback not as required within FB_ON_MS or FB_OFF_MS puts the pair in FAULT. -/
  | fbTimeout (pair : Fin 4)
  /-- R289. One switch is opened or closed for 300 µs in rotation and a stuck switch is classified. -/
  | switchTest (pair : Fin 4) (passed : Bool)
  /-- R299. The degraded timer expiring puts the pair in LOCKOUT. -/
  | degradedTimerExpiry (pair : Fin 4)
  /-- R298. The safety processor completes its hourly processor and memory self-test. -/
  | safetySelfTest (passed : Bool)
  /-- R273. A channel's clock or supply stops and its switches open within 1 ms. -/
  | safetyChannelStop (ch : SafChan)
  /-- R478. The higher of VIN and FSUP at 9.0 V for 10 ms starts the safety channels. -/
  | safetySupplyStart (millivolts : Nat) (heldUs : Nat)
  /-- R478. The island supply below 7.5 V stops both channels with every output off. -/
  | safetySupplyStop (millivolts : Nat)
  /-- R275. A SAFETY section delivered over the map lane is written to the pending store. -/
  | pendingMapDelivery
  /-- R302. Session message OPEN opens a session with the password while SAF_CFG_N is low. -/
  | openSession (password : List Byte) (time : DWord)
  /-- R302. Returns the pending map's vintage and first 4 digest bytes. -/
  | showPending
  /-- R303. Session message ACCEPT makes the pending map the accepted map if the checks pass. -/
  | acceptMap (digest : List Byte)
  /-- R304. Replaces the safety password hash. -/
  | setPassword (old new : List Byte)
  /-- R299. Returns a pair to OFF unless the fault is still found. -/
  | resetLockout (pair : Fin 4)
  /-- R305. Returns up to 32 change-log entries from a sequence number. -/
  | readLog (start : Nat)
  /-- R302. Ends the configuration session. -/
  | closeSession
  /-- R302. A session idle for 10 min ends. -/
  | safTimeout
  /-- R38. SAF_CFG_N going high disables the configuration lane and ends any session. -/
  | keyswitchRelease (millivolts : Nat)
  /-- R304. The 15 min block after three wrong passwords ends. -/
  | pwBlockExpiry
  /-- R294. The abort line ends an open configuration session within 200 µs. -/
  | safetyIslandAbort (iss : Issuer)
  /-- R306. The island writes its status points and the SAF mirror over HC13 on change and every 100 ms. -/
  | safetyStatusReport
  /-- R306. 300 ms without a refresh sets MIRROR_STALE and makes the status points lost. -/
  | mirrorStale
  /-- R310. A frame on a ring port is checked, authenticated, discarded as duplicate or delivered and forwarded. -/
  | ringFrameReceived (port : Port) (frame : Frame)
  /-- R310. A duplicate table entry is forgotten 400 ms after its last frame, counting one-path arrivals. -/
  | dupEntryTimeout (entry : Fin 2048)
  /-- R313. A held lees copy with no second copy is released after 400 ms. -/
  | leesHoldTimeout (buf : Fin 4)
  /-- R313. 10 s without a further mismatch clears SUSPECT. -/
  | suspectClear (node : Fin 64)
  /-- R314. Every 1 ms the module sends a heartbeat on both ports. -/
  | heartbeatSend
  /-- R307. Every 2 s an HSR supervision frame is sent. -/
  | supervisionFrameSend
  /-- R315. 3.5 ms after a node's last heartbeat on a port, the path is FAILED. -/
  | netPathFail (node : Fin 64) (port : Port)
  /-- R316. A path 10 s clean in STANDBY enters UP. -/
  | netPathUp (node : Fin 64) (port : Port)
  /-- R318. A ring port gains link. -/
  | linkUp (port : Port)
  /-- R320. A ring port loses link. -/
  | linkDown (port : Port)
  /-- R322. With the entry conditions held for the slot delay, BYPASS_N is driven high. -/
  | bypassRelease
  /-- R322. A write of NET_CTRL.BYP_HOLD keeps or puts the module in bypass. -/
  | bypHoldSet (iss : Issuer) (w : Word)
  /-- R323. A port egress finishes a frame and starts the next by strict class priority. -/
  | egressTransmit (port : Port)
  /-- R326. At its phase frame a flow reads its source points in one cycle and sends a frame. -/
  | flowSend (flow : Fin 1024)
  /-- R333. FSEQ reaching 0xF000_0000 demands a new bud; frames wait for it. -/
  | flowRekey (flow : Fin 1024)
  /-- R331. NET_ADM_CMD ADMIT queues a dynamic flow request, or refuses a 17th with NET_ADM_BUSY. -/
  | admitFlow (iss : Issuer)
  /-- R332. NET_ADM_CMD RELEASE frees a flow context and its load at the next frame. -/
  | releaseFlow (iss : Issuer) (flow : Fin 1024)
  /-- R327. The admission unit decides one request against its slice and D_calc, and sends BIND. -/
  | admissionDecision
  /-- R329. A destination opens a receive context for a bind frame, or refuses. -/
  | bindReceived (req : BindReq)
  /-- R329. The destination's bind answer completes or refuses the admission. -/
  | bindAnswer (flow : Fin 1024) (accepted : Bool)
  /-- R329. No bind answer within 10 ms releases the admission with NET_ADM_NO_RX. -/
  | bindTimeout (flow : Fin 1024)
  /-- R336. An FMP READ checks every word against the window map and returns the data. -/
  | fmpRead (hdr : FmpHdr)
  /-- R336. An FMP WRITE checks every word and writes in word order. -/
  | fmpWrite (hdr : FmpHdr) (ws : List Word)
  /-- R331. An FMP ADMIT requests a dynamic flow. -/
  | fmpAdmit (hdr : FmpHdr) (req : FlowReq)
  /-- R332. An FMP RELEASE frees a flow context. -/
  | fmpRelease (hdr : FmpHdr) (flow : Fin 1024)
  /-- R302. An FMP SAFETY_MSG is relayed unchanged over the configuration lane. -/
  | safetyMsg (hdr : FmpHdr) (bytes : List Byte)
  /-- R334. NET_PTEST_CTRL START begins a path test on one port. -/
  | pathTestStart (iss : Issuer) (port : Port) (len : Fin 2048)
  /-- R334. A test frame leaves at its spacing on the chosen port. -/
  | pathTestFrameSend
  /-- R334. 100 ms after the last frame the path test passes or fails. -/
  | pathTestEnd
  /-- R339. The Ring MAC abort ends requests, the path test, lees buffers and pending FMP, and ends an ADJUST. -/
  | ringMacAbort (iss : Issuer)
  /-- R351. A Sync on the reference path gives an offset, counts towards acceptance, and may lock, step or slew. -/
  | syncReceived (dn : Nat) (port : Port) (gm : DWord) (node : Fin 64) (masterTime : DWord)
  /-- R351. 1.5 Sync intervals without a Sync restart the acceptance count. -/
  | syncMissing (dom : Fin 4)
  /-- R352. 3 Sync intervals without a Sync make a LOCKED domain enter HOLDOVER. -/
  | timHoldover (dom : Fin 4)
  /-- R352. An Announce runs the best master clock algorithm; a new grandmaster is a loss of master. -/
  | announceReceived (msg : Announce)
  /-- R352. The Announce receipt timeout puts the domain in HOLDOVER. -/
  | announceTimeout (dom : Fin 4)
  /-- R351. A slew or ADJUST removes its remaining amount and ends. -/
  | slewComplete (dom : Fin 4)
  /-- R344. HOLD_S advances one second while the Cluster runs. -/
  | holdSecond (dom : Fin 4)
  /-- R345. HOLD_S reaching HOLD_TRUST_S ends trust in the domain. -/
  | timUntrusted (dom : Fin 4)
  /-- R347. Every 1 s a Pdelay_Req is sent on each ring link. -/
  | pdelayRequestSend
  /-- R349. A Pdelay_Req is answered with a one-step Pdelay_Resp, or a response updates link delay. -/
  | pdelayMessageReceived (port : Port) (msg : PdelayMsg)
  /-- R354. A grandmaster domain sends Sync and Announce on both ports. -/
  | syncSend (dom : Fin 4)
  /-- R355. TIM_DOM_n_CMD SET steps the domain to its SET value, untrusted. -/
  | setDomain (iss : Issuer) (dom : Fin 4)
  /-- R355. TIM_DOM_n_CMD SET_TRUST steps the domain and makes it trusted. -/
  | setTrustDomain (iss : Issuer) (dom : Fin 4)
  /-- R355. TIM_DOM_n_CMD ADJUST slews a FREE domain by a signed amount. -/
  | adjustDomain (iss : Issuer) (dom : Fin 4)
  /-- R356. A read of TIM_DOM_n_NOW_LO latches the high word into the issuer's NOW_HI. -/
  | nowLoRead (iss : Issuer) (dom : Fin 4)
  /-- R356. A write of TIM_XSNAP latches the selected domains in one Ring MAC cycle. -/
  | xsnap (iss : Issuer) (mask : Fin 16)
  /-- R357. A capture source event latches the low 32 bits of its domain and its STEPS bits. -/
  | timeCapture (src : CapSrc)
  /-- R357. A read of TIM_CAP_n_NS returns the capture and clears NEW. -/
  | captureRead (iss : Issuer) (ch : Fin 4)
  /-- R363. The always-on rail falling below VBAT switches the Cellar to battery. -/
  | celToBattery (railMv : Nat) (vbatMv : Nat)
  /-- R364. The always-on rail above VBAT + 120 mV for 2 ms switches the Cellar to main. -/
  | celToMain (railMv : Nat) (vbatMv : Nat) (minRailMv : Nat) (heldUs : Nat)
  /-- R367. An event on battery is kept in the pending store, replacing the oldest of 8. -/
  | pendedEvent
  /-- R368. Every 24 h and at each switch to main VBAT is measured under load and VBAT_LOW follows. -/
  | vbatMeasure (millivolts : Nat)
  /-- R369. The prescaler rolls over and the calendar advances one second under the Gregorian rules. -/
  | rtcSecond (pulses : Nat)
  /-- R372. CEL_RTC_CTRL LOAD sets the calendar, or is rejected with CEL_DATE_INVALID. -/
  | loadCalendar (iss : Issuer) (dst : Bool)
  /-- R378. CEL_RTC_CTRL SYNC is accepted or refused with CEL_UNTRUSTED or CEL_RANGE. -/
  | syncCalendar (iss : Issuer) (dst : Bool)
  /-- R378. At the next whole second of domain 0 the calendar is loaded and the RTC trusted. -/
  | syncTakesEffect
  /-- R375. Adds one hour and sets DST_APPLIED, or refuses. -/
  | dstAdd (iss : Issuer)
  /-- R375. Subtracts one hour and clears DST_APPLIED, or refuses. -/
  | dstSub (iss : Issuer)
  /-- R373. A read of CEL_RTC_TIME latches DATE and SUBSEC of the same cycle. -/
  | rtcTimeRead (iss : Issuer)
  /-- R376. A write of CEL_ZONE sets zone and leap offset, or is refused whole with CEL_RANGE. -/
  | celZoneWrite (iss : Issuer) (w : Word)
  /-- R381. A write of CEL_TRIM sets TRIM at once, records CEL_TRIM and clears a candidate. -/
  | celTrimWrite (iss : Issuer) (w : Word)
  /-- R383. A write of CEL_TRIM_CFG sets AUTO, REF and NOM60, refused whole with CEL_STATE without Press. -/
  | celTrimCfgWrite (iss : Issuer) (w : Word)
  /-- R379. No crystal edge for 1 ms stops the calendar and sets OSF. -/
  | celOscStop (silentUs : Nat)
  /-- R379. The crystal restarting resumes the calendar from where it stopped. -/
  | oscRestart
  /-- R381. At a trim window end a valid count updates TRIM or the candidate. -/
  | trimWindowEnd (pulses : Nat) (crossings : Nat)
  /-- R386. An island's record enters the 64-entry queue, or is dropped and counted. -/
  | eventRecordQueued
  /-- R386. The Cellar writes or merges the next queued record with a new sequence number. -/
  | eventRecordWrite
  /-- R388. Once a second on main, operating seconds and power-cycle count are written to ferroelectric memory. -/
  | opsecSave
  /-- R390. A time mark is written at first trust, at a step, or every 86,400 operating seconds. -/
  | celTimeMark
  /-- R391. CEL_EVQ_CMD START opens a query of a KIND in the issuer's bank. -/
  | queryStart (iss : Issuer) (kind : Fin 4)
  /-- R391. CEL_EVQ_CMD NEXT moves the cursor to the next matching record. -/
  | queryNext (iss : Issuer)
  /-- R391. CEL_EVQ_CMD END ends the query. -/
  | queryEnd (iss : Issuer)
  /-- R391. The record under the cursor is copied to the REC registers and READY is set. -/
  | queryRecordReady (core : Fin 4) (cask : Fin 64)
  /-- R394. The Cellar abort ends every query. -/
  | cellarAbort (iss : Issuer)
  /-- R376. Once a second firmware compares LEAP with currentUtcOffset and rewrites CEL_ZONE if they differ. -/
  | leapCheck
  /-- R378. Every 60 s firmware compares calendar and domain 0 and issues SYNC at 100 ms or more. -/
  | calendarCheck
  /-- R401. A valid CAN frame is matched and writes its points, restarting station and bus watchdogs. -/
  | canFrameReceived (ch : Fin 8) (f : CanRx)
  /-- R402. A periodic transmit record's frame is built and queued or replaced in place. -/
  | canPeriodicTrigger (frame : Nat)
  /-- R406. A frame ends on the wire and the queue offers the next instance under shares and order. -/
  | canTxComplete (ch : Fin 8)
  /-- R406. A frame meeting an error is sent again up to RETRY times, then dropped. -/
  | canTxError (ch : Fin 8)
  /-- R407. Bus-off empties the queue and loses every station of the channel. -/
  | canBusOff (ch : Fin 8)
  /-- R407. BUS_WDOG_MS without a valid frame is a bus-level fault. -/
  | canBusWatchdog (ch : Fin 8)
  /-- R407. The isolated transceiver supply failing is a bus-level fault. -/
  | canSupplyFail (ch : Fin 8)
  /-- R407. After 128 occurrences of 11 recessive bits a recovering channel becomes active. -/
  | canRecoveryComplete (ch : Fin 8)
  /-- R407. FBS_CH_n_CMD START starts a channel with its record. -/
  | fbsChStart (iss : Issuer) (ch : Fin 8)
  /-- R407. FBS_CH_n_CMD STOP stops a channel. -/
  | fbsChStop (iss : Issuer) (ch : Fin 8)
  /-- R407. FBS_CH_n_CMD RECOVER starts recovery from bus-off. -/
  | recoverChannel (iss : Issuer) (ch : Fin 8)
  /-- R408. A basic cycle starts at its domain 2 time and the reference message is sent or FBS_REF_LATE recorded. -/
  | ttCycleStart (ch : Fin 8) (idleNs : Nat)
  /-- R409. At a TX window the frame is sent once, or not sent and LATE_TX counted. -/
  | ttTxWindow (ch : Fin 8) (win : Nat) (idleNs : Nat)
  /-- R409. An RX window ending without its frame counts RX_MISS. -/
  | ttRxWindowEnd (ch : Fin 8) (win : Nat)
  /-- R410. After a domain 2 step the channel finishes its window and restarts at the next cycle boundary. -/
  | fbsTtResync (ch : Fin 8)
  /-- R424. FBS_TEST_CTRL START begins a margin scan, or refuses with FBS_TEST_BUSY. -/
  | marginScanStart (iss : Issuer) (ch : Fin 8) (count : Fin 256)
  /-- R424. FBS_TEST_CTRL STOP ends the scan. -/
  | marginScanStop (iss : Issuer)
  /-- R424. After COUNT frames the scan passes or fails with FBS_TEST_MARGIN. -/
  | marginScanComplete (early late : Fin 385)
  /-- R424. A margin scan ends after 60 s. -/
  | marginScanTimeout
  /-- R413. A device's query is polled once per POLL_MS. -/
  | daliPoll (port : Fin 4)
  /-- R413. A valid backward frame writes the query's point and restarts the watchdog. -/
  | daliBackwardFrame (port : Fin 4) (b : Byte)
  /-- R412. An input device event message writes its point, or is ignored and counted. -/
  | daliEventMessage (port : Fin 4) (short : Fin 64) (inst : Fin 32) (instType : Fin 32) (event : Fin 1024)
  /-- R413. A changed level command point sends its latest value as a forward frame. -/
  | daliLevelCommand (port : Fin 4) (collided : Bool)
  /-- R414. Bus voltage below 9.5 V for more than 500 ms is a bus-level fault. -/
  | bsiDaliFail (port : Fin 4) (millivolts : Nat) (heldMs : Nat)
  /-- R414. Bus voltage restored for 1 s schedules spaced level commands. -/
  | daliBusRestored (port : Fin 4) (millivolts : Nat) (heldMs : Nat)
  /-- R416. A port polls its next reader in address order with one command outstanding. -/
  | osdpPoll (port : Fin 2)
  /-- R416. A valid reply writes its points and restarts the watchdog, or counts SC_FAIL. -/
  | osdpReply (port : Fin 2) (macOk : Bool) (reply : OsdpReply)
  /-- R416. No reply within 200 ms ends the outstanding command. -/
  | osdpReplyTimeout (port : Fin 2)
  /-- R416. The secure channel is set up with session keys sent by the key engine over HC16. -/
  | osdpScSetup (reader : Fin 32) (offered : Bool) (randoms : List Byte)
  /-- R420. A RAW reply is decided as a grant or a deny with a reason. -/
  | accessDecision (port : Fin 2)
  /-- R420. STRIKE_MS after the last grant the strike point returns FALSE. -/
  | strikeExpiry (door : Fin 32)
  /-- R414. BSI_PORT_CMD START starts a DALI or OSDP port. -/
  | bsiPortStart (iss : Issuer) (port : Fin 6)
  /-- R414. BSI_PORT_CMD STOP stops a DALI or OSDP port. -/
  | bsiPortStop (iss : Issuer) (port : Fin 6)
  /-- R417. BSI_PORT_CMD INSTALL puts a reader in install mode and sends its base key by KEYSET. -/
  | install (iss : Issuer) (port : Fin 16) (addr : Fin 128)
  /-- R417. Install mode ends after 10 min. -/
  | installTimeout (reader : Fin 32)
  /-- R419. BSI_CRED_CMD ADD adds a credential within the cask's quota. -/
  | credAdd (iss : Issuer) (sched : Byte) (dest : Byte)
  /-- R419. BSI_CRED_CMD DELETE removes a credential the cask holds. -/
  | credDelete (iss : Issuer)
  /-- R419. BSI_CRED_CMD REPLACE replaces a credential the cask holds. -/
  | credReplace (iss : Issuer) (sched : Byte) (dest : Byte)
  /-- R419. Firmware completes restoring the credential table from flash. -/
  | credTableRestore
  /-- R425. The field-bus abort ends a margin scan, a credential command and an install. -/
  | fieldBusAbort (iss : Issuer)
  /-- R428. KEY_CMD PROVISION writes the site rootstock and first token key, and enters PROVISIONED. -/
  | provision (iss : Issuer)
  /-- R428. KEY_CMD SERVICE_ENTER unwraps the service rootstock and enters SERVICE. -/
  | serviceEnter (iss : Issuer)
  /-- R428. KEY_CMD SERVICE_EXIT erases the service rootstock and returns to OPERATIONAL. -/
  | serviceExit (iss : Issuer)
  /-- R428. 8 h after SERVICE entry the module returns to OPERATIONAL. -/
  | serviceTimeout
  /-- R428. KEY_CMD RETIRE erases every share and enters RETIRED. -/
  | retire (iss : Issuer)
  /-- R450. KEY_CMD ACCEPT verifies the owner's token and sets ACCEPTED. -/
  | acceptIdentity (iss : Issuer)
  /-- R447. KEY_CMD ATTEST starts signing the attestation report with the identity key. -/
  | attest (iss : Issuer)
  /-- R447. The signed report appears in KEY_ATT_0 to KEY_ATT_55. -/
  | attestComplete
  /-- R442. KEY_CMD CLEAR_A clears a class A latch in SERVICE with a valid token. -/
  | clearA (iss : Issuer)
  /-- R441. KEY_CMD ARM writes the armed monitors in SERVICE. -/
  | armMonitors (iss : Issuer)
  /-- R440. KEY_CMD INVALIDATE_SESS raises a cask's SESS GEN and invalidates its descendants. -/
  | invalidateSess (iss : Issuer) (arg : Fin 64)
  /-- R440. KEY_CMD INVALIDATE_RDR raises a cask's RDR1 GEN and invalidates its descendants. -/
  | invalidateRdr (iss : Issuer) (arg : Fin 64)
  /-- R437. KEY_CMD ROLL_STAGE writes the next site rootstock. -/
  | rollStage (iss : Issuer)
  /-- R437. KEY_CMD ROLL schedules the next site rootstock at an activation time. -/
  | roll (iss : Issuer)
  /-- R437. At the trusted activation time the rootstock rolls and the old one is invalidated. -/
  | rollActivation
  /-- R439. KEY_CMD IMPORT imports a wrapped or signed key into a slot. -/
  | importKey (iss : Issuer) (slot : Fin 64)
  /-- R439. KEY_CMD DELETE empties a slot. -/
  | deleteKey (iss : Issuer) (slot : Fin 64)
  /-- R438. KEY_CMD EXPORT exports a slot's key, refused with KEY_EXPORT when EXPORT_NEVER. -/
  | exportKey (iss : Issuer) (slot : Fin 64)
  /-- R439. KEY_OP_CTRL ENCRYPT encrypts with a slot key after the slot checks. -/
  | encrypt (iss : Issuer) (slot : Fin 64)
  /-- R439. KEY_OP_CTRL DECRYPT decrypts with a slot key. -/
  | decrypt (iss : Issuer) (slot : Fin 64)
  /-- R439. KEY_OP_CTRL SIGN signs with a slot key. -/
  | sign (iss : Issuer) (slot : Fin 64)
  /-- R439. KEY_OP_CTRL VERIFY verifies with a slot key. -/
  | verify (iss : Issuer) (slot : Fin 64)
  /-- R439. KEY_OP_CTRL MAC computes a MAC with a slot key. -/
  | computeMac (iss : Issuer) (slot : Fin 64)
  /-- R439. A slot operation completes, writing its output on KEY_OK. -/
  | keyOpComplete (cask : Fin 64)
  /-- R440. The purge of invalidated descendants completes and re-key demands are issued. -/
  | cachePurgeComplete
  /-- R431. The Cellar sends each root's shares over HC15 and the key engine combines them. -/
  | unseal
  /-- R430. At unsealing and every 3,600 operating seconds the shares are re-masked into the other bank. -/
  | remask
  /-- R441. A mesh or light monitor is sampled with a new pseudo-random word. -/
  | meshSample (mon : Fin 3) (same : Bool) (lux : Nat)
  /-- R441. A lid switch open for 10 ms trips its monitor. -/
  | lidOpen (lid : Fin 2) (heldMs : Nat)
  /-- R441. A voltage or clock glitch beyond its limit trips VGLITCH or FGLITCH. -/
  | glitchDetected (sense : GlitchSense)
  /-- R452. The key engine abort abandons an operation in progress with KEY_ABORTED. -/
  | keyEngineAbort (iss : Issuer)
  /-- R458. A TLS handshake on the service port opens a session for cask 0 or 63, or is refused. -/
  | serviceSessionOpen (cert : List Byte) (sig : List Byte)
  /-- R458. A service session without a message for 10 min closes. -/
  | serviceSessionTimeout (session : Fin 2)
  /-- R464. UPD_CMD BEGIN checks the manifest and enters DOWNLOADING. -/
  | rackBegin (iss : Issuer)
  /-- R465. UPD_CMD FRAG authenticates, re-encrypts and writes fragment NEXT_FRAG. -/
  | rackFrag (iss : Issuer) (flashOk : Bool)
  /-- R466. Verification of the target slots ends in VERIFIED or fails with UPD_VERIFY. -/
  | verifyComplete (readBackOk : Bool)
  /-- R467. UPD_CMD ACTIVATE activates at once, or schedules at UPD_AT. -/
  | rackActivate (iss : Issuer) (timed : Bool)
  /-- R468. Activation discards a staged set, takes a final save, writes PENDING and resets. -/
  | rackActivation
  /-- R463. UPD_CMD CANCEL returns to IDLE and marks the target slots empty. -/
  | rackCancel (iss : Issuer)
  /-- R470. UPD_CMD CONFIRM makes the target slots active, or refuses with UPD_EXPIRED. -/
  | rackConfirm (iss : Issuer)
  /-- R471. UPD_CMD REVERT reverts a trial with reason COMMAND. -/
  | rackRevert (iss : Issuer)
  /-- R470. At CONF_END the trial reverts with reason EXPIRED. -/
  | confirmationExpiry
  /-- R470. The whole load with IMAGE_OK and every used island in RUN clear BOOTING and start the confirmation window. -/
  | bootCompletion
  /-- R475. The UPD abort uncounts a fragment in progress and stops verification. -/
  | updAbort (iss : Issuer)
  /-- R477. VIN at or above 9.0 V for 10 ms with rails in regulation releases the logic-side reset. -/
  | vinStart (millivolts : Nat) (heldUs : Nat) (railsOk : Bool)
  /-- R479. VIN below 8.0 V for 20 µs raises the warning, sends the final save, writes PWRFAIL and sheds loads. -/
  | pwrVinWarn (millivolts : Nat) (heldUs : Nat)
  /-- R481. VIN at or above 8.5 V for 10 ms before hold-up ends withdraws the warning and resumes loads. -/
  | pwrVinClear (millivolts : Nat) (heldUs : Nat)
  /-- R481. The hold-up store reaching its threshold asserts the logic-side reset. -/
  | holdupEnd
  /-- R477. VIN below 4.5 V turns the always-on rail off. -/
  | alwaysOnRailStop (millivolts : Nat)
  /-- R477. FSUP below 16.0 V for 1 ms sets FSUP_LOW. -/
  | pwrFsupLow (millivolts : Nat) (heldUs : Nat)
  /-- R477. FSUP at or above 17.0 V for 10 ms clears FSUP_LOW. -/
  | fsupRestored (millivolts : Nat) (heldUs : Nat)
  /-- R483. RESET_N low for 1 ms asserts the logic-side reset. -/
  | resetPin (lowUs : Nat)
  /-- R483. The firmware watchdog not refreshed for 2 s resets the logic side. -/
  | watchdogReset
  /-- R483. A fatal Cluster exception or uncorrectable memory error resets the logic side. -/
  | exceptionReset
  /-- R483. A write of SYS_RESET with the key resets with source SOFTWARE after a final save, or refuses with PWR_KEY. -/
  | sysReset (iss : Issuer) (w : Word)
  /-- R482. The logic-side reset puts islands in OFF, cells OFF and BYPASS_N low, and latches its causes. -/
  | logicReset
  /-- R486. At reset release the Cluster wakes, reads the racking record, unseals, checks firmware and queues wake-ups. -/
  | startUp (strapSamples : List Bool)
  /-- R490. The power budget manager admits the next wake-up when budget and spacing allow. -/
  | wakeAdmission (vinMillivolts : Nat)
  /-- R489. A woken island enters RUN. -/
  | islandRun (isl : Island)
  /-- R489. T_WAKE after admission the wake current is released from the budget. -/
  | wakeRelease (isl : Island)
  /-- R486. An island not in RUN when T_WAKE has passed is put in OFF. -/
  | pwrIslandFail (isl : Island)
  /-- R493. PWR_CMD STANDBY halts engines and cores 1 to 3, or refuses with PWR_STATE. -/
  | standby (iss : Issuer)
  /-- R493. PWR_CMD RESUME wakes halted islands under the budget. -/
  | resumeFromStandby (iss : Issuer)
  /-- R495. The Trellis abort ends a running cell test with TEST_STOPPED. -/
  | trellisAbort (iss : Issuer)
  /-- R496. Without a safety processor report within 200 µs, DONE for the safety island is set. -/
  | abortDoneTimeout
  /-- R513. Withdrawing the module acts as a VIN loss with final save; its outputs go off. -/
  | moduleWithdrawal
  /-- R298. The safety logic's window watchdog of 1.5 ms to 2.5 ms expires when the safety processor's exchange does not come in its window, and the safety processor is treated as a failed channel. -/
  | safetyWindowWatchdog
  /-- R38. SAF_CFG_N going low enables the island's end of the configuration lane and sets KEYSWITCH. -/
  | keyswitchEngage (millivolts : Nat)
  /-- R396. A receive error on a CAN channel raises its receive error counter as the standard gives, which may make the channel error-passive. -/
  | canRxError (ch : Fin 8) (major : Bool)
  /-- R80. A PWM cell's output switches on or off at the duty and period edges it drives, with 10 µs resolution inside its period. -/
  | pwmPhaseEdge (cell : Fin 256)
  /-- R409. At the start of an ARBITRATING window on a TT_MASTER channel, a queued instance whose bound ends within the window starts on the bus. -/
  | ttArbitratingWindowStart (ch : Fin 8) (win : Nat)
  /-- R414. At p × 250 ms after the port start admission, and then every 50 ms, a DALI port sends its next non-zero level command until every gear has its level. -/
  | daliStartCommandDue (port : Fin 4)
  /-- R242. A Press converter reports a fault, or its fault ends, setting or clearing the channel's FAULT bit and BAD_SOURCE on the element's points. -/
  | pressConverterFault (ch : Fin 54) (present : Bool)
  /-- R276. A safety channel that detected a fault calling for a restart restarts by itself, that channel only. -/
  | safetyChannelRestart (ch : SafChan)
  deriving DecidableEq, Repr

end Sys2Proof
end

