-- ==== Sys2Proof/Machine/Bits.lean ====
section
/-!
DEFINITION. Bits.lean: byte order, bit fields, sparse tables and byte memories, the plain data operations
every other file uses. Multi-byte values are little-endian (spec/00_scope.md R13).
-/
namespace Sys2Proof
open Host (Cell)

/-! ### Sparse tables -/

/-- The entry listed at key `k`. -/
def Tbl.get? {α : Type} (t : Tbl α) (k : Nat) : Option α :=
  match t with
  | [] => none
  | (j, v) :: r => if j = k then some v else Tbl.get? r k

/-- The entry at key `k`, `d` where none is listed. -/
def Tbl.at {α : Type} (t : Tbl α) (k : Nat) (d : α) : α := (Tbl.get? t k).getD d

/-- Set the entry at key `k`, keeping the keys in rising order. -/
def Tbl.put {α : Type} (t : Tbl α) (k : Nat) (v : α) : Tbl α :=
  match t with
  | [] => [(k, v)]
  | (j, w) :: r =>
    if k < j then (k, v) :: (j, w) :: r
    else if k = j then (k, v) :: r
    else (j, w) :: Tbl.put r k v

/-- Remove the entry at key `k`. -/
def Tbl.del {α : Type} (t : Tbl α) (k : Nat) : Tbl α := t.filter (fun e => e.1 != k)

/-- Change the entry at key `k`, taken as `d` where none is listed. -/
def Tbl.upd {α : Type} (t : Tbl α) (k : Nat) (d : α) (f : α → α) : Tbl α := Tbl.put t k (f (Tbl.at t k d))

/-- Whether key `k` is listed. -/
def Tbl.has {α : Type} (t : Tbl α) (k : Nat) : Bool := (Tbl.get? t k).isSome

/-- Change every listed entry. -/
def Tbl.mapV {α β : Type} (t : Tbl α) (f : Nat → α → β) : Tbl β := t.map (fun e => (e.1, f e.1 e.2))

/-- The keys listed. -/
def Tbl.keys {α : Type} (t : Tbl α) : List Nat := t.map (·.1)

/-- The keys rise strictly. -/
def Tbl.wf {α : Type} : Tbl α → Bool
  | [] => true
  | [_] => true
  | (i, _) :: (j, w) :: r => (i < j) && Tbl.wf ((j, w) :: r)

/-! ### Byte memories -/

/-- What a byte that no write has set reads as: 0 (DESIGN CHOICE, assumption 2). -/
def memFill : Byte := 0

/-- Read one byte. -/
def memRead (m : List Cell) (a : Nat) : Byte := Tbl.at m a memFill

/-- Write one byte, keeping the canonical form: keys rise and no listed byte equals the fill. -/
def memWrite (m : List Cell) (a : Nat) (b : Byte) : List Cell :=
  if b = memFill then Tbl.del m a else Tbl.put m a b

/-- Write bytes at consecutive addresses, the first at `a`. -/
def memWriteBytes (m : List Cell) (a : Nat) (bs : List Byte) : List Cell :=
  match bs with
  | [] => m
  | b :: r => memWriteBytes (memWrite m a b) (a + 1) r

/-- The `n` bytes from `a` on. -/
def memReadBytes (m : List Cell) (a : Nat) : Nat → List Byte
  | 0 => []
  | n + 1 => memRead m a :: memReadBytes m (a + 1) n

/-- The canonical form: strictly rising addresses, no byte equal to the fill. -/
def memWf (m : List Cell) : Bool := Tbl.wf m && m.all (fun c => c.2 != memFill)

/-! ### Byte order -/

/-- `n` as `k` bytes, least significant first (R13). -/
def toLe : Nat → Nat → List Byte
  | 0, _ => []
  | k + 1, n => BitVec.ofNat 8 n :: toLe k (n / 256)

/-- The number whose bytes, least significant first, are `bs` (R13). -/
def ofLe : List Byte → Nat
  | [] => 0
  | b :: r => b.toNat + 256 * ofLe r

/-- `n` bytes of a byte string from offset `o`. -/
def bytesAt (bs : List Byte) (o n : Nat) : List Byte := (bs.drop o).take n

/-- The little-endian number of `n` bytes at offset `o`. -/
def leAt (bs : List Byte) (o n : Nat) : Nat := ofLe (bytesAt bs o n)

/-- The byte string cut or filled with zero bytes to length `n`. -/
def padTo (n : Nat) (bs : List Byte) : List Byte := (bs ++ List.replicate (n - bs.length) 0).take n

/-- Cut a byte string into whole records of `n` bytes; a remainder shorter than a record is kept as the last.
The first argument bounds the number of records. -/
def chunks (fuel n : Nat) (bs : List Byte) : List (List Byte) :=
  match fuel with
  | 0 => []
  | f + 1 => if bs.isEmpty then [] else bs.take n :: chunks f n (bs.drop n)

/-- Whether every byte is 0. -/
def allZero (bs : List Byte) : Bool := bs.all (· == 0)

/-- One bit of the CRC-32 with the reflected polynomial 0xEDB88320 (PRESUMED; assumption 18). -/
def crcBit (c : Nat) : Nat := if c % 2 = 1 then (c / 2) ^^^ 0xEDB88320 else c / 2

/-- CRC-32 of a byte string (assumption 18: the spec names the width only). -/
def crc32 (bs : List Byte) : Word :=
  let c := bs.foldl (fun c b => crcBit (crcBit (crcBit (crcBit (crcBit (crcBit (crcBit (crcBit (c ^^^ b.toNat)))))))))
    0xFFFFFFFF
  BitVec.ofNat 32 (c ^^^ 0xFFFFFFFF)

/-! ### Bit fields of numbers -/

/-- Field `[lo + w - 1 : lo]` of `n`. -/
def fld (n lo w : Nat) : Nat := n / 2 ^ lo % 2 ^ w

/-- Bit `i` of `n`. -/
def bitOf (n i : Nat) : Bool := n / 2 ^ i % 2 == 1

/-- A Bool as 0 or 1. -/
def b2n (b : Bool) : Nat := if b then 1 else 0

/-- A number as a register word (its low 32 bits). -/
def w32 (n : Nat) : Word := BitVec.ofNat 32 n

/-- The word of fields `(lo, value)`: the sum of the fields, each shifted to its place. -/
def packW (fs : List (Nat × Nat)) : Word := w32 (fs.foldl (fun acc f => acc + f.2 * 2 ^ f.1) 0)

/-- The mask of the set positions among bits 0 to `n - 1` of a predicate. -/
def maskOf (n : Nat) (p : Nat → Bool) : Nat := (List.range n).foldl (fun acc i => acc + b2n (p i) * 2 ^ i) 0

/-- Add 1 up to a ceiling. -/
def satInc (n top : Nat) : Nat := if n < top then n + 1 else n

/-- A number cut to a ceiling. -/
def satTo (n top : Nat) : Nat := min n top

/-- 2^32 - 1, the ceiling of a saturating 32-bit count. -/
def max32 : Nat := 0xFFFFFFFF

/-- Two's complement of an integer in `w` bits, as a number. -/
def twos (w : Nat) (i : Int) : Nat := (i % (2 ^ w : Nat)).toNat

/-- The integer whose two's complement in `w` bits is `n`. -/
def sOf (w n : Nat) : Int := let m := n % 2 ^ w; if m < 2 ^ (w - 1) then m else (m : Int) - (2 ^ w : Nat)

/-- Clamp an integer to `[lo, hi]`. -/
def clampI (x lo hi : Int) : Int := if x < lo then lo else if hi < x then hi else x

/-- The first `n` elements of a list with element `i` changed. -/
def setAt {α : Type} (l : List α) (i : Nat) (v : α) : List α := l.set i v

/-- The element `i` of a list, `d` beyond its end. -/
def nthD {α : Type} (l : List α) (i : Nat) (d : α) : α := l.getD i d

/-- Lexicographic order. -/
def lexLt : List Nat → List Nat → Bool
  | [], _ => false
  | _, [] => false
  | a :: r, b :: q => decide (a < b) || (a == b && lexLt r q)

/-- Put an element into a list sorted by key, after those of an equal key. -/
def insertBy {α : Type} (key : α → List Nat) (x : α) : List α → List α
  | [] => [x]
  | y :: r => if lexLt (key x) (key y) then x :: y :: r else y :: insertBy key x r

/-- Sort by key; elements of equal keys keep their order. -/
def sortBy {α : Type} (key : α → List Nat) (l : List α) : List α := l.foldl (fun acc x => insertBy key x acc) []

end Sys2Proof
end

