-- ==== Sys2Proof/Machine/State.lean ====
section
/-!
DEFINITION. State.lean: everything the spec gives the block, as plain data, and the state right after reset.
Each structure's field defaults are the reset values; INVENTORY.md lists each with the rule that names it. Fields marked
MODEL are the model's own.
-/
namespace Sys2Proof.Machine

/-- Why a step stops the block. The spec gives the block no stopping condition, so no step answers with it
(safe: the model never stops where the hardware goes on). -/
inductive Fault where
  /-- Raised by no command; it keeps the type inhabited. Safe. -/
  | none
  deriving DecidableEq, Repr

/-- Why a command has no meaning. -/
inductive Refusal where
  /-- Answered by `exec`'s arm of a command the model gives no meaning yet; no arm answers so now. Safe. -/
  | notModelled (mnemonic : String)
  deriving DecidableEq, Repr

/-- What the last command answers to its issuer (MODEL: the register path's and FMP's answers). -/
inductive Reply where
  | none
  /-- R17, R41, R46: the access ends in a bus error. -/
  | busError
  /-- The word a register read returns. -/
  | word (w : Word)
  /-- The words an FMP read returns, and the code of an FMP answer. -/
  | words (code : Nat) (ws : List Word)
  /-- A code answered to the issuer. -/
  | code (c : Nat)
  /-- Bytes answered to the issuer (messages of the safety session). -/
  | bytes (bs : List Byte)
  deriving DecidableEq, Repr

/-- Island states (spec/01_architecture.md R26). -/
inductive IslandState where
  | off | waking | run | halt
  deriving DecidableEq, Repr

/-- Ordering variants (spec/00_scope.md R6). -/
inductive Variant where
  | v00 | m0 | ms
  deriving DecidableEq, Repr

/-- An event on its way to the recorder (spec/12_cellar.md R386): code, cask, flag bits it sets, and data. -/
structure Event where
  code : Nat := 0
  cask : Nat := 0
  flags : Nat := 0
  data : List Byte := []
  deriving DecidableEq, Repr

/-- One accepted change of a point entry, as another island asks Trellis for it. -/
structure PtWrite where
  index : Nat := 0
  value : DWord := 0
  quality : Byte := 0
  stamp : DWord := 0
  deriving DecidableEq, Repr

/-! ### Structure image and casks (spec/02_structure_image_and_casks.md) -/

/-- A CASKS entry (Table 2.8). -/
structure CaskRec where
  enabled : Bool := false
  hasPartition : Bool := false
  grantOut : Bool := false
  liftCalls : Bool := false
  tasks : Nat := 0
  pgeShare : Nat := 0
  instKib : Nat := 0
  retainKib : Nat := 0
  partMib : Nat := 0
  points : Nat := 0
  loopSlots : Nat := 0
  flows : Nat := 0
  cells : Nat := 0
  elements : Nat := 0
  canShare : Nat := 0
  beShare : Nat := 0
  cpuShare : Nat := 0
  deriving DecidableEq, Repr

/-- A WINDOWS entry (R75). -/
structure WindowRec where
  block : Nat := 0
  canRead : Bool := false
  canWrite : Bool := false
  first : Nat := 0
  last : Nat := 0
  deriving DecidableEq, Repr

/-- Load states (Table 2.6). -/
inductive LoadState where
  | idle | checking | staged | scheduled | committing
  deriving DecidableEq, Repr

/-- A sectional set in the active slot that is not committed: its bytes, and its activation time once scheduled. -/
structure HeldSet where
  bytes : List Byte := []
  at0 : Option DWord := none
  /-- Kept over a power loss for staging again (Table 2.7). -/
  atStartUp : Bool := false
  /-- The domain 0 wait of R64 has been recorded for it. -/
  waitTold : Bool := false
  deriving DecidableEq, Repr

/-- The structure image: load state, the casks and windows in force, and the held set. -/
structure Img where
  state : LoadState := .idle
  code : Nat := 0
  failSec : Nat := 0
  /-- UPD_SI_VINTAGE (R60). -/
  vintage : Nat := 0
  src : Word := 0
  len : Word := 0
  atLo : Word := 0
  atHi : Word := 0
  held : Option HeldSet := none
  /-- Section IDs whose islands have still to report active (R60). -/
  awaiting : List Nat := []
  /-- A structure image runs. -/
  loaded : Bool := false
  casks : Tbl CaskRec := []
  windows : Tbl (List WindowRec) := []
  /-- Byte address of each cask's partition in dynamic RAM (MODEL: the spec gives none; assumption 6). -/
  partBase : Tbl Nat := []
  deriving DecidableEq, Repr

/-! ### Trellis (spec/03_trellis_point_fabric.md) -/

/-- Cell modes (Table 3.1). -/
inductive CellMode where
  | off | di | count | aiV | aiMa | pt1000 | ntc10k | res | doOut | pwm | aoV | aoMa
  deriving DecidableEq, Repr

/-- A CELLS record (Table 3.8); `periodMs` is the decoded scan period of R83. -/
structure CellRec where
  mode : CellMode := .off
  periodMs : Nat := 1
  filterMs : Nat := 0
  loopPower : Bool := false
  wireCheck : Bool := false
  point : Nat := 0
  rbPoint : Option Nat := none
  iStart : Nat := 0
  tStart : Nat := 1
  phaseMs : Nat := 0
  deriving DecidableEq, Repr

/-- One I/O cell: its active record, a record waiting for its frame boundary (R83), and what it holds. -/
structure CellSt where
  rc : CellRec := {}
  /-- The record a committed load gave, active from the next frame boundary (R83). -/
  next : Option CellRec := none
  /-- DI comparator state and the time of the first sample that showed it (R81). -/
  cmpOn : Bool := false
  cmpSince : Nat := 0
  sampled : Bool := false
  /-- DI filtered state and the stamp of the first sample of it (R81). -/
  filtOn : Bool := false
  filtStamp : DWord := 0
  /-- Stamp of the first sample of the comparator's present state. -/
  cmpStamp : DWord := 0
  /-- COUNT counter (R81). -/
  count : DWord := 0
  /-- The command value the cell drives, as binary64 (DO: 0 or 1), and whether the driver is on. -/
  drive : F64 := 0
  driving : Bool := false
  /-- PWM output level and the start of its present period (R80). -/
  pwmOn : Bool := false
  pwmAt : Nat := 0
  /-- AI_MA loop power switched on. -/
  loopOn : Bool := false
  /-- Quality code of the last due scan's condition (TRL_CELL_n_STAT.FAULT). -/
  fault : Byte := 0
  /-- Running coefficients o and g, CAL_FAULT and its count of consecutive good calibrations (R98, R99). -/
  calO : F64 := 0
  calG : F64 := 0x3FF0000000000000
  calFault : Bool := false
  calGood : Nat := 0
  /-- Time of the last short trip of a tripped cell (R82). -/
  tripAt : Option Nat := none
  /-- A start of the cell has been admitted and not yet driven (R85). -/
  go : Bool := false
  /-- Substitute value of the sealed output table, driven before CELLS activates (R487). -/
  fixed : Option F64 := none
  /-- The frame at which the held start current is released (R105). -/
  holdTo : Option Nat := none
  deriving DecidableEq, Repr

/-- A cell group (R78, R79). -/
structure Group where
  fsupOk : Bool := false
  calSlot : Nat := 0
  deriving DecidableEq, Repr

/-- A point with its entry (Table 3.4) and its POINTS record (Table 3.7). -/
structure Point where
  value : DWord := 0
  stamp : DWord := 0
  type : Nat := 1
  quality : Byte := 0
  cask : Nat := 0
  prov : Nat := 0
  seq : Nat := 0
  src : Nat := 0
  domain : Nat := 0
  srcKind : Nat := 0
  srcIndex : Nat := 0
  onBad : Bool := false
  subst : DWord := 0
  grant : DWord := 0
  /-- Value last written with a code other than bad since the point came into existence (R91). -/
  lastGood : Option DWord := none
  deriving DecidableEq, Repr

/-- A ROUTES record (R96). -/
structure Route where
  point : Nat := 0
  kind : Nat := 0
  index : Nat := 0
  deriving DecidableEq, Repr

/-- State of the cell test (TRL_TEST_STATUS.STATE). -/
inductive TestState where
  | idle | running | done
  deriving DecidableEq, Repr

/-- The cell test (R100 to R104). -/
structure CellTest where
  state : TestState := .idle
  code : Nat := 0
  err : Word := 0
  /-- TRL_TEST_CTRL fields. -/
  cell : Nat := 0
  type : Nat := 0
  timeout : Nat := 0
  startedAt : Nat := 0
  cask : Nat := 0
  /-- The cell whose point is held UNDER_TEST until its next due scan after the end (R104). -/
  heldCell : Option Nat := none
  deriving DecidableEq, Repr

/-- One bank of the point access registers, per core and cask. -/
structure PtBank where
  sel : Nat := 0
  undef : Bool := false
  denied : Bool := false
  wrRefused : Bool := false
  data : List Byte := []
  wrLo : Word := 0
  wrHi : Word := 0
  deriving DecidableEq, Repr

/-- The Trellis island. -/
structure Trl where
  /-- Number of the frame that begins at the next boundary (R83; TRL_FRAME shows the one before it), and the time of that
  boundary. -/
  frame : Nat := 0
  frameAt : Nat := 0
  /-- CELLS has activated in a whole load. -/
  cellsActive : Bool := false
  cells : Tbl CellSt := []
  groups : Tbl Group := []
  points : Tbl Point := []
  routes : List Route := []
  test : CellTest := {}
  banks : Tbl PtBank := []
  /-- TRL_WR_REFUSED (R93). -/
  wrRefused : Nat := 0
  deriving DecidableEq, Repr

/-! ### Program engine (spec/04_program_engine.md, spec/05_program_exchange_and_remote_io.md) -/

/-- A cask program record (Table 4.3) with the initial values of its global region. -/
structure ProgRec where
  startMode : Nat := 0
  holdLimitS : Nat := 0
  globalBytes : Nat := 0
  codeOff : Nat := 0
  codeLen : Nat := 0
  globalInit : List Byte := []
  deriving DecidableEq, Repr

/-- A task record (Table 4.2). -/
structure TaskRec where
  cask : Nat := 0
  task : Nat := 0
  priority : Nat := 0
  trigger : Nat := 0
  periodMs : Nat := 0
  phaseMs : Nat := 0
  wdogMs : Nat := 0
  trigPoint : Nat := 0xFFFF
  entry : Nat := 0
  deriving DecidableEq, Repr

/-- An instance record: its place in the partition, its header (Table 4.7), its initial values, the bytes after the header and
those of the retentive part, and the code offset of a migration routine (R152). -/
structure InstRec where
  off : Nat := 0
  typeHash : DWord := 0
  pathId : DWord := 0
  size : Nat := 32
  retOff : Option Nat := none
  retSize : Nat := 0
  init : List Byte := []
  retInit : List Byte := []
  routine : Option Nat := none
  deriving DecidableEq, Repr

/-- A task's program: its record, instances and code. -/
structure TaskProg where
  rc : TaskRec := {}
  insts : List InstRec := []
  code : List Byte := []
  /-- Input slots (R117) and output slots (R119), by point index. -/
  inSlots : List Nat := []
  outSlots : List Nat := []
  deriving DecidableEq, Repr

/-- A setpoint or a mode command that a cycle sends over HC2 (R121). -/
structure LoopMsg where
  slot : Nat := 0
  isMode : Bool := false
  value : DWord := 0
  deriving DecidableEq, Repr

/-- Registers of a function-block processor, kept with a task that was switched out (R116). -/
structure Ctx where
  d : Tbl DWord := []
  b : Tbl Bool := []
  ib : Nat := 0
  gb : Nat := 0
  pc : Nat := 0
  /-- Return offsets and base registers, newest first (depth at most 32). -/
  stack : List (Nat × Nat) := []
  /-- Inside a migration routine: old and new instance, each as address and bytes with its retentive part (R152). -/
  migr : Option (InstRec × InstRec) := none
  deriving DecidableEq, Repr

/-- Where a cycle stands. -/
inductive Phase where
  | released | ready | running | executed | sent | arrived | committed
  deriving DecidableEq, Repr

/-- An entry of an error queue (R139): reason, raising task, Trellis cycle of the raise, and its further information. -/
structure ErrEntry where
  code : Nat := 0
  task : Nat := 0
  cycle : Nat := 0
  info : Nat := 0
  deriving DecidableEq, Repr

/-- A task cycle in progress. -/
structure Cycle where
  phase : Phase := .released
  releasedAt : Nat := 0
  /-- Cask clock latched at the release (R123). -/
  clk : DWord := 0
  /-- Input image: value and quality of each slot (R117). -/
  image : List (DWord × Byte) := []
  /-- Output image: what OUT wrote, by slot (R119). -/
  out : Tbl (DWord × Byte) := []
  msgs : List LoopMsg := []
  raises : List Nat := []
  /-- Registers kept when a processor switched away from the cycle (R116). -/
  ctx : Option Ctx := none
  overrun : Bool := false
  /-- Error task: its entry, and the action ERRACK set (R140). -/
  err : Option ErrEntry := none
  ack : Option Bool := none
  /-- Reasons raised in the cycle, to be raised when it ends (R164). -/
  later : List ErrEntry := []
  deriving DecidableEq, Repr

/-- State of a task's exchange (PGE_EXCH_TASK_ST). -/
inductive ExchState where
  | current | waiting | failed
  deriving DecidableEq, Repr

/-- A task's exchange (R143 to R158). -/
structure Exch where
  st : ExchState := .current
  code : Nat := 0
  vintage : Nat := 0
  /-- The new program; with `remove`, the task goes. -/
  staged : Option TaskProg := none
  remove : Bool := false
  stagedVintage : Nat := 0
  boundaryAt : Option Nat := none
  /-- The processor the work runs on, whether matching is done, the migrations still to run, and the work's end. -/
  proc : Option Nat := none
  matched : Bool := false
  toMigrate : List (InstRec × InstRec) := []
  done : Bool := false
  ctx : Option Ctx := none
  /-- A release or trigger held during the work (R146). -/
  held : Option Nat := none
  deriving DecidableEq, Repr

/-- One task. -/
structure TaskSt where
  exist : Bool := false
  prog : TaskProg := {}
  cyc : Option Cycle := none
  /-- Pending release of an event task (R113). -/
  pend : Bool := false
  /-- Remembered previous BOOL and the SEQ of the last write looked at (R112). -/
  prev : Bool := false
  seenSeq : Nat := 0
  /-- A RAISE request has arrived (R112). -/
  raised : Bool := false
  /-- Frame of the last release. -/
  lastFrame : Option Nat := none
  lastNs : Nat := 0
  maxNs : Nat := 0
  ovr : Nat := 0
  exch : Exch := {}
  /-- Retentive lines changed since their last commit, by byte address of the line (R129). -/
  dirty : List Nat := []
  deriving DecidableEq, Repr

/-- Program modes (R132). -/
inductive PMode where
  | stop | run | hold | stopping | holding
  deriving DecidableEq, Repr

/-- A cask's program state. -/
structure PCask where
  mode : PMode := .stop
  rc : ProgRec := {}
  /-- The cask has a cask program record. -/
  defined : Bool := false
  clk : DWord := 0
  clkHi : Word := 0
  taskSel : Nat := 0
  holdAt : Nat := 0
  lastStart : Nat := 0
  retainLost : Bool := false
  errs : List ErrEntry := []
  errLost : Nat := 0
  lastExch : Nat := 0
  /-- A whole load has completed and the cask has not yet acted on its START_MODE (R136). -/
  autoDue : Bool := false
  deriving DecidableEq, Repr

/-- The retentive copy's own data per cask in ferroelectric memory (R129 to R131). -/
structure RetCopy where
  valid : Bool := false
  crcOk : Bool := true
  clk : DWord := 0
  vintage : Nat := 0
  hashes : List (DWord × DWord) := []
  deriving DecidableEq, Repr

/-- The journal in ferroelectric memory as last written: lines as address and bytes, the cask clock, and its marker (R129). -/
structure Journal where
  cask : Nat := 0
  lines : List (Nat × List Byte) := []
  clk : DWord := 0
  marked : Bool := false
  deriving DecidableEq, Repr

/-- A function-block processor: the task or exchange work it runs, and its busy cycles in this period and the last. -/
structure Proc where
  task : Option Nat := none
  work : Option Nat := none
  ctx : Ctx := {}
  busy : Nat := 0
  busyLast : Nat := 0
  deriving DecidableEq, Repr

/-- A VINTNER bound record (R141) with the last write of its target. -/
structure VintRec where
  lo : Nat := 0
  hi : Nat := 0
  rate : Nat := 0
  last : Option F64 := none
  lastAt : Nat := 0
  deriving DecidableEq, Repr

/-- The program engine. -/
structure Pge where
  tasks : Tbl TaskSt := []
  casks : Tbl PCask := []
  p0 : Proc := {}
  p1 : Proc := {}
  /-- Processor cycles each cask has used in this accounting period, and its first frame (R114). -/
  used : Tbl Nat := []
  periodFrame : Option Nat := none
  cmdStatus : Tbl Nat := []
  /-- Task selection of cask 0's bank: the cask named by PGE_TASK_SEL.CASK. -/
  selCask : Nat := 0
  retain : Tbl RetCopy := []
  journal : Option Journal := none
  vint : Tbl VintRec := []
  deriving DecidableEq, Repr

/-! ### Remote stations (spec/05_program_exchange_and_remote_io.md) -/

/-- Station states (TRL_STN_n_STAT.STATE). -/
inductive StnState where
  | absent | present | lost | proving
  deriving DecidableEq, Repr

/-- A remote station (Table 5.4, R161 to R167). -/
structure Stn where
  kind : Nat := 0
  cask : Nat := 0
  wdogMs : Nat := 0
  statusPoint : Nat := 0
  addr : Nat := 0
  st : StnState := .absent
  lastAt : Nat := 0
  busFault : Bool := false
  losses : Nat := 0
  returnedAt : Nat := 0
  /-- Tasks whose proving cycle is complete (R165). -/
  proved : List Nat := []
  /-- Output points not sent again since the last loss (R165, R166). -/
  closed : List Nat := []
  /-- Section that defines it (Table 2.4). -/
  sec : Nat := 0
  deriving DecidableEq, Repr

/-- Stations and their loss counts. -/
structure Stns where
  tbl : Tbl Stn := []
  /-- Points Trellis substitutes in the next Trellis cycle (R92, R153, R163). -/
  toSubst : List Nat := []
  /-- TRL_STN_LOST: module total and per cask. -/
  lostTotal : Nat := 0
  lost : Tbl Nat := []
  deriving DecidableEq, Repr

/-! ### Loop engine (spec/06_loop_engine.md) -/

/-- Laws (Table 6.2). -/
inductive Law where
  | pid | leadlag | ss4 | onoff | ramp
  deriving DecidableEq, Repr

/-- Slot modes (Table 6.6). -/
inductive LoopMode where
  | off | manual | auto | track | fault
  deriving DecidableEq, Repr

/-- A slot record (Tables 6.2 to 6.5). Parameter sets are lists of their 32-bit words; binary32 fields are kept as patterns. -/
structure LoopRec where
  slot : Nat := 0
  cask : Nat := 0
  law : Law := .pid
  periodMs : Nat := 1
  phaseMs : Nat := 0
  pv : Option Nat := none
  sp : Option Nat := none
  out : Nat := 0
  ff : Option Nat := none
  sched : Option Nat := none
  track : Option Nat := none
  fe : Option Nat := none
  /-- FLAGS fields. -/
  direct : Bool := false
  linear : Bool := false
  schedSrc : Nat := 0
  feManual : Bool := false
  rtEn : Bool := false
  startMode : Nat := 0
  pvLo : F32 := 0
  pvHi : F32 := 0x3F800000
  outLo : F32 := 0
  outHi : F32 := 0x3F800000
  uLo : F32 := 0
  uHi : F32 := 0x3F800000
  duMax : F32 := 0
  feLimit : F32 := 0
  feTimeMs : Nat := 1
  nreg : Nat := 1
  hyst : F32 := 0
  breaks : List F32 := []
  rtStepMin : F32 := 0
  rtMaxChg : F32 := 0
  rtKpMin : F32 := 0
  rtKpMax : F32 := 0
  rtKiMin : F32 := 0
  rtKiMax : F32 := 0
  rtPerDay : Nat := 0
  rtLambda : Nat := 5
  rtOvsMax : Nat := 0
  rtDevMax : Nat := 0
  sets : List (List Word) := []
  deriving DecidableEq, Repr

/-- Law states, in binary64 (R182), and the last output u. -/
structure LawSt where
  i : F64 := 0
  d : F64 := 0
  edPrev : F64 := 0
  wPrev : F64 := 0
  xPrev : F64 := 0
  x : List F64 := [0, 0, 0, 0]
  q : Bool := false
  /-- Frame of the last change of q; none when its minimum times count as elapsed (Table 6.7). -/
  qAt : Option Nat := none
  uPrev : F64 := 0
  deriving DecidableEq, Repr

/-- A snapshot: every input as binary32 with its quality, and the stamp of the sample instant in domain 0 (R172, R182). -/
structure Snap where
  pv : Option (F32 × Byte) := none
  sp : Option (F32 × Byte) := none
  ff : Option (F32 × Byte) := none
  sched : Option (F32 × Byte) := none
  track : Option (F32 × Byte) := none
  stamp : DWord := 0
  deriving DecidableEq, Repr

/-- What one evaluation starts from: normalised inputs, the frame, the value to initialise from, and the output forced in MANUAL
or TRACK. -/
structure EvalIn where
  y : F64 := 0
  r : F64 := 0
  f : F64 := 0
  k : Nat := 0
  sv : F64 := 0
  region : Nat := 0
  init : Option F64 := none
  zeroD : Bool := false
  handover : Bool := false
  force : Option F64 := none
  deriving DecidableEq, Repr

/-- One sample of a capture (R202). -/
structure CapSample where
  y : F32 := 0
  u : F32 := 0
  r : F32 := 0
  s : F32 := 0
  deriving DecidableEq, Repr

/-- Why a slot has to initialise at its next evaluation (R183). -/
inductive InitWhy where
  | off | fault | law | pv
  deriving DecidableEq, Repr

/-- A retuned set: gains in use, fallback, the capture's J, and its lock (R205, R206). -/
structure RetSet where
  kp : F32 := 0
  ki : F32 := 0
  fbKp : F32 := 0
  fbKi : F32 := 0
  /-- A set applied and not yet judged. -/
  judging : Bool := false
  retuned : Bool := false
  locked : Bool := false
  /-- J of the capture that led to the retune. -/
  j : F64 := 0
  deriving DecidableEq, Repr

/-- A retuned or fallback set to take at the next sample (R205, R206). -/
structure ApplyReq where
  set : Nat := 0
  kp : F32 := 0
  ki : F32 := 0
  revert : Bool := false
  deriving DecidableEq, Repr

/-- A loop slot. -/
structure LoopSlot where
  rc : LoopRec := {}
  /-- A changed record waiting for the next sample instant, and a removal waiting for it (R208). -/
  next : Option LoopRec := none
  removing : Bool := false
  mode : LoopMode := .off
  /-- The latest mode command with its manual value (R180). -/
  cmd : Option (LoopMode × F32) := none
  manual : Option F32 := none
  /-- The latest SETP value (R179). -/
  setp : F32 := 0
  st : LawSt := {}
  init : Option InitWhy := none
  handover : Bool := false
  region : Option Nat := none
  /-- Last good or uncertain values (R194). -/
  lastSp : Option F32 := none
  lastFf : Option F32 := none
  lastSched : Option F32 := none
  /-- Last output written with quality GOOD (R193). -/
  lastGoodU : Option F64 := none
  spUse : F32 := 0
  /-- Following-error timer, alarm, and the stamp and output of the last AUTO sample (R195). -/
  feT0 : Option DWord := none
  feAlarm : Bool := false
  lastStamp : DWord := 0
  lastOut : F32 := 0
  pvBad : Bool := false
  rate : Bool := false
  satHi : Bool := false
  satLo : Bool := false
  misses : Nat := 0
  missRun : Nat := 0
  /-- The snapshot of the present sample. -/
  snap : Option Snap := none
  /-- Last samples, oldest first, at most 32 (R202), and the capture running: buffer and samples. -/
  hist : List CapSample := []
  capBuf : Option Nat := none
  /-- Retuned sets, a set to apply or revert at the next sample, and retunes in the present day window (R205). -/
  rt : Tbl RetSet := []
  applyWait : Option ApplyReq := none
  rtDay : Nat := 0
  rtCount : Nat := 0
  deriving DecidableEq, Repr

/-- Shadow states (LPE_SHD_n_STAT.STATE). -/
inductive ShdState where
  | idle | running | done
  deriving DecidableEq, Repr

/-- A sample a shadow has still to evaluate, with the live result. -/
structure ShdJob where
  inp : EvalIn
  liveU : F64
  liveSt : LawSt
  deriving DecidableEq, Repr

/-- A shadow context (R198 to R201). -/
structure Shadow where
  state : ShdState := .idle
  cand : Bool := false
  slot : Nat := 0
  count : Nat := 0
  compared : Nat := 0
  skipped : Nat := 0
  code : Nat := 0
  dev : F32 := 0
  /-- Mode of the slot at the start. -/
  mode : LoopMode := .off
  set : Nat := 0
  kp : F32 := 0
  ki : F32 := 0
  st : LawSt := {}
  /-- The live states are to be copied at the next sample (R198, R199). -/
  copy : Bool := true
  job : Option ShdJob := none
  deriving DecidableEq, Repr

/-- A capture buffer (R202): the slot, set and breakpoint region at the step, the step, and the samples, oldest first. -/
structure CapBuf where
  slot : Nat := 0
  set : Nat := 0
  sched : F32 := 0
  rPrev : F32 := 0
  rStep : F32 := 0
  /-- The 32 samples before the step, then those from the step on. -/
  before : List CapSample := []
  samples : List CapSample := []
  /-- Sent over HC4, and arrived at the Cluster. -/
  sent : Bool := false
  arrived : Bool := false
  deriving DecidableEq, Repr

/-- A record of an applied retuned set in ferroelectric memory (R207). -/
structure RtRecord where
  vintage : Nat := 0
  rc : LoopRec := {}
  kp : F32 := 0
  ki : F32 := 0
  deriving DecidableEq, Repr

/-- The loop engine. -/
structure Lpe where
  run : Bool := true
  slots : Tbl LoopSlot := []
  /-- Due list of the frame, its frame, the slots whose snapshot has been asked for, and live cycles used in it. -/
  due : List Nat := []
  dueFrame : Option Nat := none
  asked : List Nat := []
  used : Nat := 0
  /-- Live cycles of the last complete frames, newest first, at most 1,000. -/
  loads : List Nat := []
  missTotal : Nat := 0
  missed : Tbl Nat := []
  spIgnored : Nat := 0
  status : Tbl Nat := []
  modeVal : Tbl Word := []
  shadows : Tbl Shadow := []
  bufs : Tbl CapBuf := []
  /-- LPE_RT registers. -/
  rtSlot : Nat := 0
  rtSet : Nat := 0
  rtKp : F32 := 0
  rtKi : F32 := 0
  rtCode : Nat := 0
  rtShadow : Nat := 0
  /-- Applied sets kept in ferroelectric memory, by slot * 8 + set. -/
  rtStore : Tbl RtRecord := []
  deriving DecidableEq, Repr

/-! ### Press (spec/07_press_metering.md, spec/08_press_continuity_and_tasting.md) -/

/-- A METER channel record (Table 7.9); `gain` is FIXED_GAIN as coded. -/
structure ChRec where
  used : Bool := false
  invert : Bool := false
  autoGain : Bool := false
  gain : Nat := 0
  phase : Int := 0
  scale : F32 := 0x3F800000
  cal : F32 := 0x3F800000
  deriving DecidableEq, Repr

/-- A Press channel. -/
structure Chan where
  rc : ChRec := {}
  /-- A changed record waiting for its element (R246). -/
  next : Option ChRec := none
  /-- Main-path gain as coded: x1, x4, x16, x64. -/
  gain : Nat := 0
  /-- Hand-over in progress and the guard samples still to come (R214). -/
  handing : Bool := false
  handLeft : Nat := 0
  /-- Largest main-path code magnitude of the present block of 160 samples, its samples, and the quiet blocks in a row (R213). -/
  blockMax : Nat := 0
  blockN : Nat := 0
  quiet : Nat := 0
  handovers : Nat := 0
  clips : Nat := 0
  clipTold : Bool := false
  fault : Bool := false
  /-- State of the filters of R216 (MODEL: a token of the opaque filter functions; assumption 15). -/
  filt : Nat := 0
  /-- Tasting factors for the four gains and when each last changed (R266). -/
  tau : List F64 := [0x3FF0000000000000, 0x3FF0000000000000, 0x3FF0000000000000, 0x3FF0000000000000]
  tauAt : List Nat := [0, 0, 0, 0]
  tasteFault : Bool := false
  rejected : Nat := 0
  goodRuns : Nat := 0
  faults : Nat := 0
  deriving DecidableEq, Repr

/-- A voltage system (R219): positive-going zero crossings of each phase, newest first, and the squares of the last samples of each
phase, newest first. -/
structure VSys where
  cross : List (List Nat) := [[], [], []]
  sq : List (List F64) := [[], [], []]
  freq : F64 := 0
  n : Nat := 160
  /-- Consecutive samples with every phase below 20 V rms, and with some phase at or above it (R262, R264). -/
  dark : Nat := 0
  lit : Nat := 0
  deriving DecidableEq, Repr

/-- An element record (Table 7.10). -/
structure ElemRec where
  cask : Nat := 0
  scheme : Nat := 1
  sysB : Bool := false
  phase : Nat := 0
  iCh : List Nat := [0xFF, 0xFF, 0xFF]
  netMode : Nat := 0
  trfGroup : Nat := 0
  demandMin : Nat := 15
  pubMs : Nat := 100
  pointBase : Nat := 0
  pointMask : Nat := 0
  un : F32 := 0
  inA : F32 := 0
  sStart : F32 := 0
  vMin : F32 := 0
  deriving DecidableEq, Repr

/-- A demand window: energies in units of 2^-32 mWh (R224, R229). -/
structure Win where
  isOpen : Bool := false
  start : Nat := 0
  endT : Nat := 0
  imp : Nat := 0
  exp : Nat := 0
  samples : Nat := 0
  flags : Nat := 0
  dirs : Nat := 0
  deriving DecidableEq, Repr

/-- An element's block of a save (Table 8.1): accumulators in units of 2^-32, windows, maximum demand, direction and
uncertain energy in units of 2^-32 mWh. -/
structure ElemAcc where
  acc : List Nat := List.replicate 26 0
  win : Win := {}
  last : Win := {}
  mdImp : Nat := 0
  mdStart : Nat := 0
  isExport : Bool := false
  dirCnt : Nat := 0
  uncImp : Nat := 0
  uncExp : Nat := 0
  deriving DecidableEq, Repr

/-- One sample of an element: p, q and the squares of its phases (R220). -/
structure ElSamp where
  p : F64 := 0
  q : F64 := 0
  v2 : List F64 := []
  i2 : List F64 := []
  deriving DecidableEq, Repr

/-- A publication block in progress (R242). -/
structure PubBlk where
  endT : Nat := 0
  n : Nat := 0
  p : F64 := 0
  q : F64 := 0
  s : F64 := 0
  f : F64 := 0
  v2 : List F64 := [0, 0, 0]
  i2 : List F64 := [0, 0, 0]
  range : Bool := false
  deriving DecidableEq, Repr

/-- A theft watch on an element (R262 to R264): charge in Ah and largest Irms per phase as binary64. -/
structure Watch where
  unmeasured : Bool := false
  secs : Nat := 0
  charge : List F64 := [0, 0, 0]
  maxI : F64 := 0
  heavy : Nat := 0
  suspect : Bool := false
  deriving DecidableEq, Repr

/-- A meter element. -/
structure Elem where
  rc : ElemRec := {}
  active : Bool := false
  /-- A changed record, a removal, or the activation instant of an added element (R245). -/
  next : Option ElemRec := none
  removing : Bool := false
  actAt : Nat := 0
  a : ElemAcc := {}
  /-- Last samples, newest first, at most 200. -/
  hist : List ElSamp := []
  /-- Booked samples in a row against the direction state (R226). -/
  opp : Nat := 0
  /-- Per phase: samples in a row below and at or above V_MIN, and PHASE_LOSS bits (R228). -/
  low : List Nat := [0, 0, 0]
  high : List Nat := [0, 0, 0]
  phaseLoss : Nat := 0
  pub : PubBlk := {}
  lastP : F64 := 0
  blkP : F32 := 0
  blkQ : F32 := 0
  blkS : F32 := 0
  /-- Time of the last update over HC6; its points have been declared lost (R243). -/
  pubAt : Nat := 0
  lost : Bool := false
  stepNew : Bool := false
  mdReset : Bool := false
  outages : Nat := 0
  estimated : Bool := false
  suspect : Bool := false
  watch : Option Watch := none
  deriving DecidableEq, Repr

/-- A tariff group (R234). -/
structure Tariff where
  cur : Nat := 0
  queue : List (Nat × Nat) := []
  atLo : Word := 0
  atHi : Word := 0
  deriving DecidableEq, Repr

/-- A pulse record (Table 7.11). -/
structure PulseRec where
  mode : Nat := 0
  elem : Nat := 0
  qty : Nat := 0
  k : Nat := 1
  widthUs : Nat := 40
  deriving DecidableEq, Repr

/-- A pulse output (R236 to R240): residues in units of 2^-32 mWh * K for import and export, owed pulses with their direction and
instant, oldest first. -/
structure Pulse where
  rc : PulseRec := {}
  resImp : Nat := 0
  resExp : Nat := 0
  owed : List (Bool × Nat) := []
  count : Nat := 0
  on : Bool := false
  until0 : Nat := 0
  /-- Direction level of the MODE 0x03 output beside it (true: export) and when it last changed. -/
  dirExport : Bool := false
  dirAt : Nat := 0
  lagTold : Bool := false
  deriving DecidableEq, Repr

/-- Content of a save (Table 8.1). -/
structure SaveData where
  elems : Tbl (ElemRec × ElemAcc) := []
  chans : Tbl (List F64 × List Nat) := []
  pulses : Tbl Pulse := []
  tariffs : Tbl Tariff := []
  deriving DecidableEq, Repr

/-- A save bank in ferroelectric memory. -/
structure SaveBank where
  valid : Bool := false
  seq : Nat := 0
  stamp : Nat := 0
  final : Bool := false
  data : SaveData := {}
  deriving DecidableEq, Repr

/-- The retained record: since-save import and export per element in units of 2^-32 mWh, their samples, and the tag
(R253, R256). -/
structure Retained where
  valid : Bool := false
  tag : Nat := 0
  imp : Tbl Nat := []
  exp : Tbl Nat := []
  samples : Nat := 0
  deriving DecidableEq, Repr

/-- A save being written: its bank (true: B), whether it is the final save, its content, the stamp of the last booked sample, and
the retained amounts when the copy was taken. -/
structure Saving where
  bankB : Bool := false
  final : Bool := false
  data : SaveData := {}
  stamp : Nat := 0
  ret : Retained := {}
  deriving DecidableEq, Repr

/-- What one sample gives an element before it is booked. -/
structure Meas where
  elem : Nat := 0
  p : F64 := 0
  q : F64 := 0
  s : F64 := 0
  f : F64 := 0
  n : Nat := 160
  v2 : List F64 := []
  i2 : List F64 := []
  clip : Bool := false
  deriving DecidableEq, Repr

/-- A sample held before restoration (R258). -/
structure HeldSample where
  stamp : Nat
  /-- Channels whose guard sample clipped (R215). -/
  clipped : List Nat := []
  meas : List Meas
  deriving DecidableEq, Repr

/-- Tasting states (PRS_TST_STAT.STATE). -/
inductive TasteState where
  | idle | rotation | single | halted
  deriving DecidableEq, Repr

/-- Tasting (R267 to R271) with the sums of the run in progress. -/
structure Taste where
  state : TasteState := .idle
  code : Nat := 0
  ch : Nat := 0
  gain : Nat := 0
  /-- A run is in progress, still valid, and its samples and sums. -/
  run : Bool := false
  ok : Bool := true
  n : Nat := 0
  sumRy : F64 := 0
  sumYy : F64 := 0
  sumXx : F64 := 0
  rho : F64 := 0
  ctrlCh : Nat := 0
  selCh : Nat := 0
  selGain : Nat := 0
  deriving DecidableEq, Repr

/-- A cask's snapshot bank (R250). -/
structure SnapBank where
  sel : Nat := 0
  denied : Bool := false
  undef : Bool := false
  busy : Bool := false
  aborted : Bool := false
  words : List Nat := []
  deriving DecidableEq, Repr

/-- Press. -/
structure Prs where
  chans : Tbl Chan := []
  sysA : VSys := {}
  sysB : VSys := {}
  elems : Tbl Elem := []
  tariffs : Tbl Tariff := []
  /-- TRF_INIT has been taken (R234). -/
  trfSet : Bool := false
  pulses : Tbl Pulse := []
  /-- Last sample's stamp, and the differences of consecutive stamps, newest first, at most 8,000 (R212). -/
  lastStamp : Option Nat := none
  diffs : List Nat := []
  banks : Tbl SnapBank := []
  cmdStatus : Tbl Nat := []
  /-- Continuity. -/
  bankA : SaveBank := {}
  bankB : SaveBank := {}
  saving : Option Saving := none
  savedSec : Option Nat := none
  lastFinal : Bool := false
  ret : Retained := {}
  vmbMv : Nat := 0
  restored : Bool := false
  held : List HeldSample := []
  holdFull : Bool := false
  /-- Restart total per element (import, export) and its samples (R258). -/
  total : Tbl (Nat × Nat) := []
  totalN : Nat := 0
  /-- The next booked sample is the first after a restart: the bank's stamp, its final flag and sequence (R260). -/
  restart : Option (Nat × Bool × Nat) := none
  /-- The unmeasured watch lost the retained record (R265). -/
  lostTell : Bool := false
  watchAt : Nat := 0
  taste : Taste := {}
  deriving DecidableEq, Repr

/-! ### Safety island (spec/09_safety_island.md) -/

/-- A function record of the safety map (Table 9.9). -/
structure SafFunc where
  func : Nat := 0
  type : Nat := 0
  pairA : Nat := 0
  pairB : Nat := 255
  coding : Nat := 0
  tp1 : Nat := 15
  tp2 : Nat := 15
  resetIn : Nat := 255
  flags : Nat := 0
  discMs : Nat := 0
  outMask : Nat := 0
  deriving DecidableEq, Repr

/-- An output record of the safety map (Table 9.10). -/
structure SafOut where
  out : Nat := 0
  flags : Nat := 0
  fbIn : Nat := 0
  fbOnMs : Nat := 10
  fbOffMs : Nat := 10
  degMin : Nat := 0
  deriving DecidableEq, Repr

/-- A safety map with the digest of its section body (R300, R302). -/
structure SafMap where
  vintage : Word := 0
  nfunc : Nat := 0
  funcs : List SafFunc := []
  outs : List SafOut := []
  /-- Every reserved byte is 0. -/
  clean : Bool := true
  digest : List Byte := []
  deriving DecidableEq, Repr

/-- One safety input as one channel reads it (R277, R284). -/
structure SafIn where
  last : Option Bool := none
  conf : Option Bool := none
  /-- Time of the last confirmed change. -/
  at0 : Nat := 0
  /-- An ordinary sample displaced to the end of a blanking window (R279). -/
  owed : Option Nat := none
  /-- As a reset input: on when the island started, or on for 3,000 ms or more (R284). -/
  ignored : Bool := false
  deriving DecidableEq, Repr

/-- Function states (Tables 9.2 and 9.3). -/
inductive FnState where
  | stopped | armed | run | fault | wait | blocked
  deriving DecidableEq, Repr

/-- One function's state machine in one channel. -/
structure FnM where
  st : FnState := .stopped
  /-- START_TEST has still to see the door open (R283). -/
  needOpen : Bool := false
  /-- STOPPED with one input on since. -/
  oneOn : Option Nat := none
  /-- STOPPED, entered from RUN: which input has still to go off (false: channel 1), and since when. -/
  oneOff : Option (Bool × Nat) := none
  /-- FAULT: the inputs released since (two-hand control). -/
  hold : Option Nat := none
  /-- Two-hand control: INTERMEDIATE since, for each hand; both RELEASED seen in STOPPED; the window's start and first hand. -/
  interA : Option Nat := none
  interB : Option Nat := none
  released : Bool := false
  winAt : Nat := 0
  firstB : Bool := false
  deriving DecidableEq, Repr

/-- One channel of the island. -/
structure SafCh where
  on : Bool := false
  /-- Passes its checks. -/
  ok : Bool := false
  /-- Time of the next ordinary sample. -/
  nextAt : Nat := 0
  ins : Tbl SafIn := []
  fns : Tbl FnM := []
  deriving DecidableEq, Repr

/-- Output pair states (Table 9.4); a pair with its degraded timer set is in the DEGRADED form of OFF or ON. -/
inductive PairMode where
  | unused | off | on | fault | lockout
  deriving DecidableEq, Repr

/-- One output pair. -/
structure PairM where
  mode : PairMode := .unused
  /-- FB_n level as last sampled (none: not sampled yet), when it has to be right, and since when it is high. -/
  fb : Option Bool := none
  fbDue : Nat := 0
  fbHigh : Option Nat := none
  /-- STUCK bits and the switch next in rotation (R289). -/
  stuck : Nat := 0
  turn : Nat := 0
  reqOff : Bool := false
  /-- The pair has gone OFF since it was last energised, and a manual reset is needed (R293). -/
  gone : Bool := false
  needReset : Bool := false
  /-- FAULT that becomes LOCKOUT when it is left (Table 9.7). -/
  lockAfter : Bool := false
  /-- Expiry time of the degraded timer; its remaining time while the island is without power. -/
  degEnd : Option Nat := none
  degKept : Option Nat := none
  /-- Permits disagree since, and exchanges after the discrepancy times (R274). -/
  disSince : Option Nat := none
  disCount : Nat := 0
  deriving DecidableEq, Repr

/-- A change log entry (R305); `subject` and `detail` fill its last two bytes (assumption 16). -/
structure SafLog where
  seq : Nat := 0
  secs : Nat := 0
  tool : DWord := 0
  code : Nat := 0
  before : Word := 0
  after : Word := 0
  digest : List Byte := []
  subject : Nat := 0
  detail : Nat := 0
  deriving DecidableEq, Repr

/-- The safety island. -/
structure Saf where
  powered : Bool := false
  /-- Time the channels started: the zero of the safety processor's clock. -/
  startAt : Nat := 0
  /-- Operating time in ns up to the present start. -/
  opNs : Nat := 0
  sp : SafCh := {}
  sl : SafCh := {}
  pairs : Tbl PairM := []
  /-- FAULTS and CAUSE of each function. -/
  faults : Tbl Nat := []
  causes : Tbl Nat := []
  acc : Option SafMap := none
  pend : Option SafMap := none
  /-- A SAFETY section body on its way over the map lane. -/
  mapLane : Option (List Byte) := none
  /-- Salted hash of the password, none in factory state, and its salt (R304). -/
  pwHash : Option (List Byte) := none
  salt : List Byte := []
  pwFails : Nat := 0
  blockTill : Nat := 0
  log : List SafLog := []
  logSeq : Nat := 0
  keyLow : Bool := false
  session : Bool := false
  lastMsg : Nat := 0
  tool : DWord := 0
  /-- Test pulse drops: number of the 10 ms period of the last drop plus 1, its time, and whether its check sample was taken. -/
  tpPeriod : Tbl Nat := []
  tpAt : Tbl Nat := []
  tpChecked : Tbl Bool := []
  /-- Time of the last cross link exchange. -/
  exchAt : Nat := 0
  /-- SAF mirror in Trellis: words by offset, time of the last refresh, MIRROR_STALE (R306). -/
  mirror : Tbl Word := []
  mirrorAt : Nat := 0
  stale : Bool := true
  deriving DecidableEq, Repr

/-! ### Ring network, redundancy and admission (spec/10_ring_and_redundancy.md) -/

/-- Path states (R314). -/
inductive PathState where
  | failed | up | resync | standby
  deriving DecidableEq, Repr

/-- One path to a node: its state, when the last heartbeat was accepted and since when it is clean in STANDBY (R316). -/
structure PathSt where
  st : PathState := .failed
  lastHb : Option Nat := none
  cleanFrom : Nat := 0
  deriving DecidableEq, Repr

/-- A ring map entry (Table 10.3) with its path states. -/
structure Node where
  mac : Nat := 0
  addr : Nat := 0
  fMaxNs : Nat := 0
  hb : Bool := false
  exit : Bool := false
  sliceNs : Nat := 0
  extNs : Nat := 0
  pa : PathSt := {}
  pb : PathSt := {}
  fails : Nat := 0
  /-- Time of the last lees mismatch while SUSPECT (R313). -/
  suspect : Option Nat := none
  /-- Reference path (R319). -/
  ref : Option Port := none
  deriving DecidableEq, Repr

/-- One HSR sequence number in a source's window, with the ports it arrived on (R310). -/
structure DupSeq where
  seq : Nat := 0
  onA : Bool := false
  onB : Bool := false
  deriving DecidableEq, Repr

/-- A duplicate table entry: window newest first (R310), and its counters (R312). -/
structure DupEnt where
  mac : Nat := 0
  win : List DupSeq := []
  lastAt : Nat := 0
  oneA : Nat := 0
  oneB : Nat := 0
  oneFail : Nat := 0
  deriving DecidableEq, Repr

/-- A lees buffer: the first copy of a chosen pair (R313). -/
structure LeesBuf where
  frame : Frame
  port : Port
  at0 : Nat := 0
  deriving DecidableEq, Repr

/-- One ring port with its egress (R323). -/
structure PortSt where
  link : Bool := false
  linkDowns : Nat := 0
  /-- Class 1 and class 2 queues, class 3 queue of each cask, and its round-robin deficit in bytes. -/
  q1 : List Frame := []
  q2 : List Frame := []
  q3 : Tbl (List Frame) := []
  deficit : Tbl Nat := []
  deficitAt : Nat := 0
  turn : Nat := 0
  wire : Option Frame := none
  /-- Class 1 event messages sent in the present Trellis frame (R325). -/
  events : Nat := 0
  eventFrame : Nat := 0
  deriving DecidableEq, Repr

/-- States of a flow context (NET_FLOW_n_STAT.STATE). -/
inductive FlowState where
  | free | admitted | binding
  deriving DecidableEq, Repr

/-- A hardware flow context (R326 to R333). -/
structure Flow where
  st : FlowState := .free
  rx : Bool := false
  cask : Nat := 0
  periodMs : Nat := 1
  phase : Nat := 0
  npts : Nat := 0
  spoint : Nat := 0
  dpoint : Nat := 0
  node : Nat := 0
  promiseNs : Nat := 0
  wireNs : Nat := 0
  fseq : Nat := 0
  epoch : Nat := 0
  rekey : Bool := false
  late : Nat := 0
  dropped : Nat := 0
  count : Nat := 0
  /-- Receive: the latest FSEQ values, newest first (R311), the sender and its context. -/
  win : List Nat := []
  srcAddr : Nat := 0
  srcFlow : Nat := 0
  bindAt : Nat := 0
  /-- The FMP request it answers, while it is binding (R335). -/
  fmp : Option FmpHdr := none
  /-- The Trellis frame its phase last came in. -/
  sentAt : Option Nat := none
  /-- Time of the last NET_FLOW_LATE record. -/
  lateAt : Option Nat := none
  /-- Static flow record of the image. -/
  fixed : Bool := false
  deriving DecidableEq, Repr

/-- A flow request waiting for the admission unit (R332). -/
structure AdmReq where
  cask : Nat := 0
  req : FlowReq
  fmp : Option FmpHdr := none
  deriving DecidableEq, Repr

/-- A cask's bank of NET_ADM registers. -/
structure AdmBank where
  dest : Word := 0
  shape : Word := 0
  req : Word := 0
  code : Nat := 0
  waiting : Bool := false
  flow : Nat := 0
  dCalc : Nat := 0
  deriving DecidableEq, Repr

/-- State of the path test (NET_PTEST_STAT.STATE). -/
inductive PtestState where
  | idle | running | done
  deriving DecidableEq, Repr

/-- The path test (R334). -/
structure Ptest where
  state : PtestState := .idle
  port : Port := .a
  len : Nat := 0
  sent : Nat := 0
  good : Nat := 0
  lost : Nat := 0
  code : Nat := 0
  rtt : Nat := 0
  lastAt : Nat := 0
  /-- Frames in flight with their send times. -/
  flight : List (Frame × Nat) := []
  deriving DecidableEq, Repr

/-- An FMP session: the last SEQ values with their answers (R335), newest first. -/
structure FmpSess where
  isOpen : Bool := false
  recent : List (Nat × Reply) := []
  deriving DecidableEq, Repr

/-- An FMP request that arrived on the ring (R335): the client's address, the cask of its session, and its 16-byte header. -/
structure FmpReq where
  client : Nat := 0
  cask : Nat := 0
  hdr : List Byte := []
  deriving DecidableEq, Repr

/-- The Ring MAC. -/
structure Net where
  /-- NET_CTRL. -/
  bypHold : Bool := false
  leesEn : Bool := true
  /-- PORT_MODE 1000BASE-X, and the other header fields of ADMISSION (R324). -/
  fibre : Bool := false
  ringId : Nat := 0
  ringQNs : Nat := 0
  ptpNs : Nat := 0
  portA : PortSt := {}
  portB : PortSt := {}
  /-- BYPASS_N driven high; when the entry conditions first held together; operations since manufacture. -/
  inRing : Bool := false
  waitFrom : Option Nat := none
  bypOps : Nat := 0
  /-- ADMISSION is active, and since when its map is. -/
  admActive : Bool := false
  mapAt : Nat := 0
  nodes : Tbl Node := []
  dup : Tbl DupEnt := []
  evict : Nat := 0
  evictAt : Option Nat := none
  srcSel : Nat := 0
  leesPair : Nat := 0
  leesBufs : Tbl LeesBuf := []
  leesCnt : Nat := 0
  leesMismatch : Nat := 0
  /-- W[0] to W[999] (R327). -/
  loads : Tbl Nat := []
  flows : Tbl Flow := []
  waiting : List AdmReq := []
  /-- Contexts to free, with their loads, at the next Trellis frame (R332). -/
  releasing : List Nat := []
  banks : Tbl AdmBank := []
  ptest : Ptest := {}
  ptestPort : Port := .a
  ptestLen : Nat := 0
  sessions : Tbl FmpSess := []
  /-- Own HSR sequence; FSEQ and epoch of the HBT1 bud (R309). -/
  hsrSeq : Nat := 0
  hbtSeq : Nat := 0
  hbtEpoch : Nat := 0
  /-- Epoch and FSEQ of this module's FMP answers, per cask (R309), and FMP requests accepted and not yet executed, in order
  of arrival. -/
  fmpTx : Tbl (Nat × Nat) := []
  fmpQ : List FmpReq := []
  hbAt : Option Nat := none
  superAt : Option Nat := none
  deriving DecidableEq, Repr

/-! ### Network time (spec/11_network_time.md) -/

/-- Domain sources (Table 11.2). -/
inductive TimeSource where
  | free | ptp | follow
  deriving DecidableEq, Repr

/-- Domain states (Table 11.3). -/
inductive DomState where
  | unset | acquiring | locked | holdover | set | following
  deriving DecidableEq, Repr

/-- Step and slew policies (Table 11.5). -/
inductive TimePolicy where
  | stepSlew | slewOnly | stepFirst
  deriving DecidableEq, Repr

/-- A TIME domain record (Table 11.7); LOG_SYNC is kept as the exponent k of an interval of 2^-k s. -/
structure TimeRec where
  source : TimeSource := .free
  ptpDn : Nat := 0
  utility : Bool := false
  masterCapable : Bool := false
  followSteps : Bool := false
  followOf : Nat := 0
  syncExp : Nat := 0
  policy : TimePolicy := .stepSlew
  priority1 : Nat := 0
  priority2 : Nat := 0
  stepNs : Nat := 1000
  slewPpb : Nat := 1000
  acceptNs : Nat := 10
  holdTrustS : Nat := 0
  offset : Int := 0
  deriving DecidableEq, Repr

/-- One time domain. -/
structure Dom where
  rc : TimeRec := {}
  /-- The value in units of 2^-32 ns (R340); not used by a FOLLOW domain, whose value follows R343. -/
  t : Nat := 0
  st : DomState := .unset
  /-- The SET was a SET_TRUST (Table 11.3). -/
  setTrust : Bool := false
  steps : Nat := 0
  /-- The counted run of offsets, oldest first (R351); its length is ACCEPT_CNT. -/
  offs : List Int := []
  lastOfs : Int := 0
  /-- Frequency correction in 0.1 ppb, and its values at the last Syncs, newest first (R352). -/
  freq : Int := 0
  freqHist : List Int := []
  /-- Slew or ADJUST in progress, and the amount still to remove in units of 2^-32 ns. -/
  slewing : Bool := false
  slewRem : Int := 0
  /-- HOLD_S and the time its present second began. -/
  holdS : Nat := 0
  holdAt : Nat := 0
  /-- Time HOLDOVER was entered. -/
  holdFrom : Nat := 0
  /-- Grandmaster accepted, and the one being evaluated; 0 when none. -/
  gm : DWord := 0
  evalGm : DWord := 0
  master : Bool := false
  /-- Port of the Syncs taken. -/
  ref : Option Port := none
  /-- FOLLOW: absorbed steps in ns (R343). -/
  absorbed : Int := 0
  lastSync : Nat := 0
  lastAnnounce : Nat := 0
  best : Option Announce := none
  accepted : Bool := false
  /-- The domain was trusted when last looked at (R345: the event is recorded once). -/
  seenTrust : Bool := false
  setLo : Word := 0
  setHi : Word := 0
  xs : DWord := 0
  deriving DecidableEq, Repr

/-- A capture channel (TIM_CAP_n). -/
structure Capture where
  isNew : Bool := false
  steps : Nat := 0
  domain : Nat := 0
  en : Bool := false
  src : Nat := 0
  ns : Word := 0
  deriving DecidableEq, Repr

/-- Link delay of one ring port (TIM_PORT_x_PDELAY): the last delays, newest first. -/
structure Pdelay where
  delays : List Nat := []
  valid : Bool := false
  mean : Nat := 0
  ignored : Nat := 0
  pendingAt : Option Nat := none
  deriving DecidableEq, Repr

/-- TIM. -/
structure Tim where
  doms : Tbl Dom := []
  /-- Steps an island's local copy has not taken yet, in ns, by island * 4 + domain (R341). -/
  lag : Tbl Int := []
  caps : Tbl Capture := []
  pdA : Pdelay := {}
  pdB : Pdelay := {}
  utcOfs : Half := 0
  utcValid : Bool := false
  /-- NOW_HI by bank and domain (R356). -/
  nowHi : Tbl Word := []
  cmdStatus : Tbl Nat := []
  /-- A step of trusted domain 0 that CEL_TIME_MARK has still to mark (R390). -/
  markStep : Bool := false
  /-- The module's clock identity (MODEL: identity data). -/
  clockId : DWord := 0
  deriving DecidableEq, Repr

/-! ### Cellar (spec/12_cellar.md) -/

/-- Civil date and time as the calendar holds them (R369). -/
structure Cal where
  year : Nat := 2000
  month : Nat := 1
  day : Nat := 1
  hour : Nat := 0
  min : Nat := 0
  sec : Nat := 0
  deriving DecidableEq, Repr

/-- What a posted CEL write does at the Cellar (R31, R374). -/
inductive PostedOp where
  | load (dst : Bool)
  | sync (dst : Bool)
  | dstAdd
  | dstSub
  | zone (w : Word)
  | trim (w : Word)
  | trimCfg (w : Word)
  | setTime (w : Word)
  | setDate (w : Word)
  | status (w : Word)
  deriving DecidableEq, Repr

/-- A posted CEL write on its way over HC14. -/
structure Posted where
  core : Nat := 0
  cask : Nat := 0
  op : PostedOp
  deriving DecidableEq, Repr

/-- A SYNC waiting for its whole second of domain 0 (R378). -/
structure SyncWait where
  dst : Bool := false
  at0 : Nat := 0
  deriving DecidableEq, Repr

/-- A record of the pending store (R367). -/
structure PendRec where
  ev : Event
  at0 : Nat := 0
  deriving DecidableEq, Repr

/-- A record of the store (Table 12.2); `flags` are the FLAGS bits of Table 12.3. -/
structure EvRec where
  seq : Nat := 0
  code : Nat := 0
  cask : Nat := 0
  flags : Nat := 0
  opSec : Nat := 0
  pcycle : Nat := 0
  rep : Nat := 0
  data : List Byte := []
  crc : Word := 0
  deriving DecidableEq, Repr

/-- States of a query (CEL_EVQ_STAT.STATE). -/
inductive QState where
  | idle | opened | ended
  deriving DecidableEq, Repr

/-- A query bank, with the words latched by a read of CEL_RTC_TIME (R373, R391). -/
structure QBank where
  fromLo : Word := 0
  fromHi : Word := 0
  toLo : Word := 0
  toHi : Word := 0
  st : QState := .idle
  kind : Nat := 0
  /-- Sequence number of the record under the cursor, or the last one read. -/
  cur : Nat := 0
  /-- A record waits under the cursor to be copied. -/
  wait : Bool := false
  ready : Bool := false
  crcBad : Bool := false
  lost : Nat := 0
  unstamped : Nat := 0
  rc : List Byte := []
  stamp : DWord := 0
  date : Word := 0x2000C101
  subsec : Word := 0
  deriving DecidableEq, Repr

/-- The Cellar. -/
structure Cel where
  /-- SOURCE: battery. -/
  battery : Bool := false
  vbat : Nat := 0
  minRail : Nat := 0
  vbatLow : Bool := false
  /-- CEL_VBAT_LOW has been recorded in this power cycle; time of the last measurement, none when one is due. -/
  vbatTold : Bool := false
  vbatAt : Option Nat := none
  /-- Retention was lost at the last switch to main, and firmware has still to restore its settings (R365). -/
  restore : Bool := false
  cal : Cal := {}
  /-- Start of the present second (MODEL: the prescaler is counted from it), and when the crystal stopped. -/
  secAt : Nat := 0
  oscStop : Option Nat := none
  dst : Bool := false
  range : Bool := false
  trusted : Bool := false
  dateInvalid : Bool := true
  nearLoss : Bool := true
  pendLost : Bool := true
  osf : Bool := true
  setTime : Word := 0
  setDate : Word := 0
  cmdStatus : Tbl Nat := []
  zone : Word := 0
  posted : List Posted := []
  sync : Option SyncWait := none
  /-- TRIM, or the capacitance code in prior mode, two's complement as written; candidate; CEL_TRIM_CFG; TRIM_MEAS. -/
  trim : Word := 0
  cand : Option Int := none
  trimCfg : Word := 1
  meas : Word := 0
  trimOk : Bool := false
  valid : Nat := 0
  invalid : Nat := 0
  lastTrim : Nat := 0
  /-- Second counter of the Cellar's own trim period (R382). -/
  secCount : Nat := 0
  /-- The trim window in progress: its number, whether it is still valid, and STEPS of domain 0 at its start. -/
  winK : Nat := 0
  winOk : Bool := false
  winSteps : Nat := 0
  /-- Copies in ferroelectric memory (R365, R388). -/
  savZone : Word := 0
  savTrim : Word := 0
  savCfg : Word := 1
  savDst : Bool := false
  savOpSec : Nat := 0
  savPcycle : Nat := 0
  opSec : Nat := 0
  pcycle : Nat := 0
  pend : List PendRec := []
  /-- The 64-record queue on the Cluster side, records dropped since CEL_EVT_DROPPED was last queued, and CEL_EVT_DROP. -/
  queue : List Event := []
  owed : Nat := 0
  drops : Nat := 0
  lastWrite : Option Nat := none
  /-- The store, oldest first; sequence number of the newest record; CEL_EVT_OVR. -/
  store : List EvRec := []
  seq : Nat := 0
  ovr : Nat := 0
  /-- Power cycle and operating second of the last time mark (R390). -/
  markCycle : Option Nat := none
  markSec : Nat := 0
  banks : Tbl QBank := []
  /-- Firmware's checks of the calendar (R376, R378): times of the last ones, and whether domain 0 was trusted then. -/
  leapAt : Option Nat := none
  calAt : Option Nat := none
  calTrust : Bool := false
  deriving DecidableEq, Repr

/-! ### Field buses and building interfaces (spec/13_field_buses_and_building_interfaces.md) -/

/-- A channel record (Table 13.3); `role` is 0 OFF, 1 EVENT, 2 TT_MASTER, 3 MONITOR, as coded. -/
structure CanRec where
  role : Nat := 0
  cask : Nat := 0
  prio : Bool := false
  autoRec : Bool := false
  fd : Bool := false
  term : Bool := false
  nbt : Word := 0
  dbt : Word := 0
  wdogMs : Nat := 0
  retry : Nat := 0
  cycles : Nat := 0
  bcUs : Nat := 0
  refId : Nat := 0
  deriving DecidableEq, Repr

/-- A frame record (Table 13.4); `trig` is 0 periodic, 1 on change, 2 window only, as coded. -/
structure FrameRec where
  ch : Nat := 0
  tx : Bool := false
  ide : Bool := false
  fdf : Bool := false
  brs : Bool := false
  trig : Nat := 0
  cask : Nat := 0
  len : Nat := 0
  id : Nat := 0
  first : Nat := 0
  npts : Nat := 1
  periodMs : Nat := 1
  phaseMs : Nat := 0
  station : Option Nat := none
  deriving DecidableEq, Repr

/-- A window record (Table 13.5); `kind` is 0 REFERENCE, 1 TX, 2 RX, 3 ARBITRATING, 4 FREE, as coded. -/
structure WinRec where
  startUs : Nat := 0
  lenUs : Nat := 0
  kind : Nat := 0
  rep : Nat := 1
  base : Nat := 0
  ch : Nat := 0
  frame : Nat := 0xFFFF
  deriving DecidableEq, Repr

/-- A frame to send: its frame record (none: the reference message), its payload as built, and the VALUE and quality class of
FIRST_POINT it carries. -/
structure CanInst where
  rc : Option Nat := none
  payload : List Byte := []
  first : DWord := 0
  cls : Nat := 0
  /-- It came from the queue, and counts for RETRY and TX_DROP; errors met so far. -/
  queued : Bool := true
  tries : Nat := 0
  deriving DecidableEq, Repr

/-- Channel states (FBS_CH_n_STAT.STATE). -/
inductive ChState where
  | off | stopped | running | busOff | recovering
  deriving DecidableEq, Repr

/-- One CAN FD channel. -/
structure CanCh where
  rc : CanRec := {}
  st : ChState := .off
  /-- Waiting instances, oldest first, and the frame on the wire followed by window frames that start after it. -/
  q : List CanInst := []
  wire : List CanInst := []
  overwrites : Nat := 0
  txDrop : Nat := 0
  lenErr : Nat := 0
  unmatched : Nat := 0
  tec : Nat := 0
  rcErr : Nat := 0
  busOffs : Nat := 0
  busFault : Bool := false
  /-- Time of the last valid frame (or start) for BUS_WDOG_MS, and the start of recovery. -/
  lastValid : Nat := 0
  recAt : Nat := 0
  /-- Wire time used per cask, in 12.5 ns cycles, in the 10 ms period `period` (R405). -/
  period : Nat := 0
  used : Tbl Nat := []
  /-- Times of the last FBS_TX_DROP and FBS_RX_MISS records. -/
  dropAt : Option Nat := none
  missAt : Option Nat := none
  /-- Time-triggered operation: number of the last basic cycle started, windows done in it, RX windows whose frame came in it, and the
  end of the present ARBITRATING window, in domain 2 ns. -/
  cycle : Option Nat := none
  winDone : Tbl Nat := []
  rxSeen : Tbl Nat := []
  arbTill : Option Nat := none
  /-- The first basic cycle of the matrix: the one after a START or after a step of domain 2 (R410). -/
  firstK : Nat := 0
  rxMiss : Nat := 0
  lateTx : Nat := 0
  /-- STEPS of domain 2 the channel has taken note of (R410). -/
  steps : Nat := 0
  deriving DecidableEq, Repr

/-- States of the margin scan (FBS_TEST_STAT.STATE). -/
inductive ScanState where
  | idle | running | done
  deriving DecidableEq, Repr

/-- The margin scan (R424). -/
structure Scan where
  state : ScanState := .idle
  ch : Nat := 0
  count : Nat := 0
  left : Nat := 0
  startedAt : Nat := 0
  code : Nat := 0
  early : Nat := 0
  late : Nat := 0
  deriving DecidableEq, Repr

/-- A DALI device record (Table 13.11). -/
structure DaliDev where
  bus : Nat := 0
  kind : Nat := 1
  short : Nat := 0
  inst : Nat := 0
  first : Nat := 0
  pollMs : Nat := 100
  station : Nat := 0xFFFF
  deriving DecidableEq, Repr

/-- A forward frame on a DALI bus: a gear's level command with its level, or a device's poll. -/
inductive DaliFwd where
  | level (dev : Nat) (v : Nat)
  | poll (dev : Nat) (status : Bool)
  deriving DecidableEq, Repr

/-- A DALI port. -/
structure DaliPort where
  running : Bool := false
  fault : Bool := false
  /-- Bus voltage in mV as last measured. -/
  busMv : Nat := 0
  collDrop : Nat := 0
  /-- Level commands waiting, by device record in arrival order; the forward frame sent and its collisions. -/
  waiting : List Nat := []
  onBus : Option DaliFwd := none
  tries : Nat := 0
  /-- Start or restoration: gear still to receive their first level; when the last of those commands went. -/
  starting : List Nat := []
  lastFirst : Option Nat := none
  /-- Events of other instance types ignored (R412). -/
  ignored : Nat := 0
  deriving DecidableEq, Repr

/-- A reader record (Table 13.11). -/
structure ReaderRec where
  port : Nat := 0
  addr : Nat := 0
  station : Nat := 0xFFFF
  first : Nat := 0
  deriving DecidableEq, Repr

/-- A command of the module to a reader that the decisions give (R420). -/
inductive ReaderOrder where
  | ledGreen (ms : Nat) | ledRed | buzzer
  deriving DecidableEq, Repr

/-- An OSDP reader: its secure channel with the session keys held for it (R416), install mode (R417), and orders to send. -/
structure Reader where
  rc : ReaderRec := {}
  open0 : Bool := false
  keys : List Byte := []
  /-- Install mode since, and whether KEYSET has been sent in it. -/
  install : Option Nat := none
  keySet : Bool := false
  orders : List ReaderOrder := []
  deriving DecidableEq, Repr

/-- A RAW reply waiting for its decision: reader, domain 0 stamp in ns, HASH. -/
structure RawCard where
  reader : Nat := 0
  stamp : Nat := 0
  hash : DWord := 0
  deriving DecidableEq, Repr

/-- An OSDP port. -/
structure OsdpPort where
  running : Bool := false
  baud : Nat := 0
  scFail : Nat := 0
  /-- Reader of the outstanding command with the time it was sent; the reader polled last. -/
  out : Option (Nat × Nat) := none
  last : Option Nat := none
  raws : List RawCard := []
  deriving DecidableEq, Repr

/-- A door record (Table 13.11). -/
structure DoorRec where
  reader : Nat := 0
  ownerOk : Bool := false
  untrustedDeny : Bool := false
  lift : Bool := false
  strike : Nat := 0
  release : Nat := 0
  strikeMs : Nat := 100
  home : Nat := 0xFF
  deriving DecidableEq, Repr

/-- A schedule record: its cask and intervals in minutes of the week. -/
structure Sched where
  cask : Nat := 0
  ints : List (Nat × Nat) := []
  deriving DecidableEq, Repr

/-- A credential entry (R419). -/
structure Cred where
  cask : Nat := 0
  hash : DWord := 0
  doors : Word := 0
  from0 : Nat := 0
  to0 : Nat := 0
  sched : Nat := 0xFF
  dest : Nat := 0xFF
  deriving DecidableEq, Repr

/-- A cask's bank of BSI_CRED registers. -/
structure CredBank where
  hashLo : Word := 0
  hashHi : Word := 0
  doors : Word := 0
  from0 : Word := 0
  to0 : Word := 0
  code : Nat := 0
  deriving DecidableEq, Repr

/-- The lift record (Table 13.11). -/
structure LiftRec where
  flow : Nat := 0
  floor : Nat := 0
  req : Nat := 0
  mask : Nat := 0
  enable : Tbl Nat := []
  deriving DecidableEq, Repr

/-- A lift request waiting (R423). -/
structure LiftReq where
  dest : Nat := 0
  cask : Nat := 0
  port : Nat := 0
  addr : Nat := 0
  deriving DecidableEq, Repr

/-- The field-bus island. -/
structure Fbs where
  chans : Tbl CanCh := []
  frames : Tbl FrameRec := []
  wins : Tbl WinRec := []
  /-- VALUE and quality class of FIRST_POINT as last sent, by frame record (R402). -/
  sent : Tbl (DWord × Nat) := []
  cmdStatus : Tbl Nat := []
  scan : Scan := {}
  /-- FBS_TEST_CTRL fields. -/
  testCh : Nat := 0
  testCount : Nat := 0
  dali : Tbl DaliPort := []
  devs : Tbl DaliDev := []
  /-- Time each query was last sent, by device record * 2, plus 1 for a gear's status query. -/
  polled : Tbl Nat := []
  osdp : Tbl OsdpPort := []
  readers : Tbl Reader := []
  doors : Tbl DoorRec := []
  /-- Time of the last grant of each door whose strike is active. -/
  strikes : Tbl Nat := []
  scheds : Tbl Sched := []
  quotas : Tbl Nat := []
  creds : List Cred := []
  restored : Bool := false
  /-- The journaled copy in flash (R419). -/
  credFlash : List Cred := []
  /-- On-change records to build in the next Trellis cycle (R34, R402). -/
  toBuild : List Nat := []
  /-- Frame of the last periodic trigger, by frame record. -/
  trigAt : Tbl Nat := []
  banks : Tbl CredBank := []
  bsiStatus : Tbl Nat := []
  lift : Option LiftRec := none
  liftQ : List LiftReq := []
  /-- Sequence number of the last request written; drops. -/
  liftSeq : Nat := 0
  liftDrops : Nat := 0
  deriving DecidableEq, Repr

/-! ### Keys, tamper and identity (spec/14_keys_tamper_identity.md) -/

/-- Life-cycle states (Table 14.1). -/
inductive LifeState where
  | blank | provisioned | operational | service | retired
  deriving DecidableEq, Repr

/-- One bank of the key cells: the two shares of each present rootstock, factory, site and service (R429); none is a share pair
that is erased or absent. -/
structure KeyCells where
  factory : Option (BitVec 256 × BitVec 256) := none
  site : Option (BitVec 256 × BitVec 256) := none
  service : Option (BitVec 256 × BitVec 256) := none
  deriving DecidableEq, Repr

/-- Rootstocks. -/
inductive Root where
  | factory | site | service
  deriving DecidableEq, Repr

/-- A cached cane (level 1, no bud) or bud (R436): its root and label codes, contexts and cask; `stale` once its parent is
invalidated (R440). -/
structure CacheEnt where
  root : Root
  label : Nat
  ctx : List Byte
  bud : Option (Nat × List Byte) := none
  cask : Nat := 0
  stale : Bool := false
  deriving DecidableEq, Repr

/-- A key slot (Table 14.4). -/
structure KSlot where
  attr : Nat := 0
  key : List Byte := []
  uses : Nat := 0
  unusable : Bool := false
  deriving DecidableEq, Repr

/-- An issuer's bank of KEY_OP registers. -/
structure KOpBank where
  src : Word := 0
  dst : Word := 0
  len : Word := 0
  code : Nat := 0
  /-- Operation and slot in progress. -/
  busy : Option (Nat × Nat) := none
  /-- Its input, taken when it started. -/
  input : List Byte := []
  deriving DecidableEq, Repr

/-- An FMP client on the ring (R435): its cask, the present epoch, the highest FSEQ accepted in it, and the epochs up to which a
re-key demand refuses it. -/
structure KClient where
  cask : Nat := 0
  epoch : Nat := 0
  fseq : Option Nat := none
  rekeyFrom : Option Nat := none
  deriving DecidableEq, Repr

/-- An entry of the sealed output table (R445, R487). -/
structure SealedOut where
  mode : CellMode := .off
  subst : F64 := 0
  iStart : Nat := 0
  tStart : Nat := 0
  deriving DecidableEq, Repr

/-- A service port session (R458). -/
structure SvcSess where
  cask : Nat := 0
  lastMsg : Nat := 0
  deriving DecidableEq, Repr

/-- The key engine, the key cells and the tamper monitors. -/
structure Keys where
  lc : LifeState := .blank
  /-- The two banks of shares, and the bank flag. -/
  bankA : KeyCells := { factory := some (0, 0) }
  bankB : KeyCells := {}
  useB : Bool := false
  /-- Latch cells: tamper latches and armed monitors. -/
  latch : Nat := 0
  armed : Nat := 0x7F
  /-- Monitors tripping at the last sample. -/
  tripNow : Nat := 0
  /-- Root registers of the key engine. -/
  factory : Option (BitVec 256) := none
  site : Option (BitVec 256) := none
  service : Option (BitVec 256) := none
  /-- Next site rootstock, and the activation time of the ROLL. -/
  staged : Option (BitVec 256) := none
  rollAt : Option DWord := none
  siteGen : Nat := 0
  entries : Nat := 0
  /-- GEN of each cask's SESS and RDR1 canes. -/
  sessGen : Tbl Nat := []
  rdrGen : Tbl Nat := []
  /-- Highest epoch used for each bud context (R309). -/
  epochs : Tbl Nat := []
  cache : List CacheEnt := []
  purging : Bool := false
  purges : Nat := 0
  staleCount : Nat := 0
  slots : Tbl KSlot := []
  /-- Unsealing window open (R431); unsealing abandoned (R444); class B erasure since the last PROVISION (R445). -/
  window : Bool := false
  abandoned : Bool := false
  erasedB : Bool := false
  accepted : Bool := false
  serviceAt : Nat := 0
  /-- Operating second of the last re-masking (R430). -/
  remaskAt : Nat := 0
  /-- KEY_CMD_STATUS codes by cask, and the issuer of the ATTEST in progress. -/
  cmdStatus : Tbl Nat := []
  attesting : Option Nat := none
  src : Word := 0
  len : Word := 0
  atLo : Word := 0
  atHi : Word := 0
  ops : Tbl KOpBank := []
  nonce : Tbl Word := []
  report : List Byte := []
  clients : Tbl KClient := []
  /-- MAC now used for a ring map entry, recorded once per power cycle (R448). -/
  peerMac : Tbl Nat := []
  outTable : Tbl SealedOut := []
  sessions : Tbl SvcSess := []
  deriving DecidableEq, Repr

/-! ### Update and racking (spec/15_update_and_racking.md) -/

/-- Racking states (Table 15.4). -/
inductive RackState where
  | idle | downloading | verifying | verified | scheduled | pending | trial
  deriving DecidableEq, Repr

/-- A racking record (Table 15.3); `active` and `target` keep bit 0 firmware slot and bit 1 structure-image slot as coded. -/
structure RackRec where
  seq : Nat := 0
  state : RackState := .idle
  kinds : Nat := 0
  booting : Bool := false
  pwrFail : Bool := false
  setsLost : Bool := false
  fails : Nat := 0
  active : Nat := 0
  target : Nat := 0
  confH : Nat := 0
  nfrag : Nat := 0
  next : Nat := 0
  storeGen : Nat := 0
  cfgOld : Nat := 0
  cfgNew : Nat := 0
  at0 : DWord := 0
  confStart : Nat := 0
  confEnd : Nat := 0
  manifest : List Byte := []
  deriving DecidableEq, Repr

/-- A slot in flash (Table 15.1): its head's mark, manifest, store generation (R455), the units written by number with what they
decrypt to, and the committed sectional sets behind a whole image, oldest first. -/
structure FlashSlot where
  used : Bool := false
  rejected : Bool := false
  manifest : List Byte := []
  gen : Nat := 0
  units : Tbl (List Byte) := []
  sets : List (List Byte) := []
  deriving DecidableEq, Repr

/-- Racking. -/
structure Upd where
  /-- The copy of the record in force and the other copy (R462). -/
  rack : RackRec := {}
  older : RackRec := {}
  fwA : FlashSlot := {}
  fwB : FlashSlot := {}
  siA : FlashSlot := {}
  siB : FlashSlot := {}
  /-- Slots in use since the last start-up, coded as ACTIVE. -/
  running : Nat := 0
  fwVintage : Nat := 0
  /-- Configuration format in force, and the trial-format area (R472). -/
  cfg : Nat := 0
  trialCfg : Option Nat := none
  /-- Content key held in the key engine (R464). -/
  contentKey : Option (List Byte) := none
  /-- Registers. -/
  code : Nat := 0
  dlFrag : Word := 0
  atLo : Word := 0
  atHi : Word := 0
  confH : Word := 0x48
  dlTag : Tbl Word := []
  dlBuf : Tbl Word := []
  /-- An activation without a time is in progress (R467, R468); the verification has been stopped by an abort (R475). -/
  activating : Bool := false
  stopped : Bool := false
  deriving DecidableEq, Repr

/-! ### Power, reset and start-up (spec/16_power_reset_startup.md) -/

/-- POWER section values (Table 16.6). -/
structure PowerRec where
  vinWakeMa : Nat := 300
  fsupStartMa : Nat := 2000
  bGrp : List Nat := [1000, 1000, 1000, 1000, 1000, 1000, 1000, 1000, 1000, 1000, 1000, 1000, 1000, 1000, 1000, 1000]
  daliMa : List Nat := [0, 0, 0, 0]
  deriving DecidableEq, Repr

/-- Who waits in the module's start queue (R490, R491). -/
inductive StartWho where
  | cell (n : Nat)
  | port (p : Nat)
  deriving DecidableEq, Repr

/-- One waiting start; `deferred` marks that it has counted once in SYS_PBM_DEFER. -/
structure StartReq where
  who : StartWho
  deferred : Bool := false
  deriving DecidableEq, Repr

/-- A start current held against the module budget: its mA, and the frame (cell) or time (port) of its release. -/
structure StartHold where
  who : StartWho
  ma : Nat := 0
  /-- Cell: release frame; port: release time in ns. -/
  till : Nat := 0
  deriving DecidableEq, Repr

/-- A waiting wake-up; `resume` marks a wake-up of PWR_CMD RESUME (R490). -/
structure WakeReq where
  isl : Island
  resume : Bool := false
  deferred : Bool := false
  deriving DecidableEq, Repr

/-- A wake current held, in nA referred to VIN 24 V, and its release time (R489). -/
structure WakeHold where
  isl : Island
  na : Nat := 0
  till : Nat := 0
  deriving DecidableEq, Repr

/-- Supplies, resets and the power budget manager. -/
structure Pwr where
  /-- PWR_STATUS bits; VIN_OK resets to 1. -/
  vinOk : Bool := true
  warn : Bool := false
  shed : Bool := false
  fsupLow : Bool := false
  standby : Bool := false
  /-- Always-on rail up; logic-side reset asserted. -/
  railUp : Bool := true
  resetOn : Bool := false
  /-- When the reset was asserted (R482). -/
  resetAt : Nat := 0
  /-- Last measured supplies (PWR_VIN, PWR_FSUP). -/
  vinMv : Nat := 0
  vinMa : Nat := 0
  fsupMv : Nat := 0
  fsupMa : Nat := 0
  /-- PWR_RESET_CAUSE: loaded cause and FINAL_SAVE, and the latch of the present assertion (R484). -/
  cause : Nat := 0
  finalSave : Bool := false
  latch : Nat := 0
  latchSave : Bool := false
  /-- A reset waiting for its final save: its source bits and the time of the command (R483). -/
  awaitSave : Option (Nat × Nat) := none
  /-- Last refresh of the firmware watchdog. -/
  wdogAt : Nat := 0
  /-- Recovery (R486), and the whole load done at this start-up. -/
  recovery : Bool := false
  loadDone : Bool := false
  /-- Start-up has run since the reset was released. -/
  started : Bool := false
  /-- Boot completion reached (R470). -/
  bootDone : Bool := false
  /-- Power budget manager (R489 to R491). -/
  power : PowerRec := {}
  /-- Islands that STANDBY halted; RESUME has been commanded (R493). -/
  halted : List Island := []
  resuming : Bool := false
  wakeQ : List WakeReq := []
  wakeHeld : List WakeHold := []
  wakeLast : Option Nat := none
  /-- Of each island in WAKING: the end of its T_WAKE, and whether it had been in HALT. -/
  waking : Tbl (Nat × Bool) := []
  startQ : List StartReq := []
  startHeld : List StartHold := []
  /-- When each DALI port's start was admitted (R491). -/
  portAdmit : Tbl Nat := []
  deferCount : Nat := 0
  deferAt : Option Nat := none
  /-- SYS_ABORT_STAT PENDING and DONE bits, and when the safety island's abort was issued (R496). -/
  abortPending : Nat := 0
  abortDone : Nat := 0
  abortSafAt : Nat := 0
  /-- PWR_CMD_STATUS code per issuer. -/
  cmdStatus : Tbl Nat := []
  deriving DecidableEq, Repr

/-! ### The Cluster's registers and the whole block -/

/-- What travels on a handshake lane. -/
inductive Transfer where
  /-- HC0: the input image of a module task. -/
  | inputImage (task : Nat)
  /-- HC1: the output image of a module task. -/
  | outputImage (task : Nat)
  /-- HC2: setpoints and modes of a cycle. -/
  | loopMsgs (cask : Nat) (ms : List LoopMsg)
  /-- HC4: the number of a complete capture buffer. -/
  | capture (buf : Nat)
  deriving DecidableEq, Repr

/-- Registers and identity on the Cluster (spec/01_architecture.md, spec/02_structure_image_and_casks.md, R485). -/
structure Sys where
  /-- SYS_ISL_STATE: states of the islands by their place in Table 1.1; SAFP and SAFL as last reported. -/
  isl : Tbl IslandState := [(0, .run), (10, .run)]
  /-- SYS_XCH_FAULT (R29). -/
  xchFault : Nat := 0
  lanes : Tbl (List Transfer) := []
  /-- Identity: fitted variant and suffix, module address, serial number, MAC address of port A, port B's being one above (R446). -/
  variant : Variant := .ms
  ext : Bool := false
  address : Half := 0
  serial : DWord := 0
  mac : Nat := 0x020000000000
  /-- SYS_COMPAT (R9, R10, R485). -/
  prior : Bool := false
  saved : Bool := false
  strap : Bool := false
  active : Bool := false
  /-- SYS_CASK_DENIED: module total and one count per cask (R76). -/
  deniedTotal : Nat := 0
  denied : Tbl Nat := []
  /-- RW registers with no home of their own, by address and bank. -/
  regs : Tbl Word := []
  deriving DecidableEq, Repr

/-- Byte memories (Table 1.8), each in canonical form. -/
structure Mem where
  dram : List Host.Cell := []
  inst : List Host.Cell := []
  fram : List Host.Cell := []
  deriving DecidableEq, Repr

/-- The whole block. -/
structure State where
  /-- Commands waiting, first in first out (MODEL). -/
  pending : List Instr := []
  /-- Time since reset in ns (MODEL: the clock every deadline is checked against). -/
  now : Nat := 0
  /-- Counter of the free values drawn so far (MODEL). -/
  fresh : Nat := 0
  /-- The last command's answer (MODEL). -/
  reply : Reply := .none
  /-- Events raised and not yet presented to the recorder's queue (R386). -/
  arising : List Event := []
  sys : Sys := {}
  mem : Mem := {}
  img : Img := {}
  trl : Trl := {}
  pge : Pge := {}
  lpe : Lpe := {}
  prs : Prs := {}
  saf : Saf := {}
  cel : Cel := {}
  key : Keys := {}
  stn : Stns := {}
  fbs : Fbs := {}
  net : Net := {}
  tim : Tim := {}
  upd : Upd := {}
  pwr : Pwr := {}
  deriving DecidableEq, Repr

/-- The state right after reset: every field at its default. -/
def State.reset : State := {}

end Sys2Proof.Machine
end

