-- ==== Sys2Proof/Machine/Flags.lean ====
section
/-!
DEFINITION. Flags.lean: quality codes of point entries and their order (spec/03_trellis_point_fabric.md R88, R89), provenance
codes (R90), and the numeric codes that more than one file uses.
-/
namespace Sys2Proof.Machine

/-! ### Quality codes (Table 3.5) -/

def qGood : Byte := 0x00
def qRange : Byte := 0x40
def qCal : Byte := 0x41
def qTime : Byte := 0x42
def qSubst : Byte := 0x80
def qTest : Byte := 0x81
def qOpen : Byte := 0xC0
def qShort : Byte := 0xC1
def qOverload : Byte := 0xC2
def qSupply : Byte := 0xC3
def qSource : Byte := 0xC4

/-- R88: the class of a quality code is its bits 7:6; 0b11 is bad. -/
def isBad (q : Byte) : Bool := q.toNat / 64 == 3
/-- Class 0b01, uncertain. -/
def isUncertain (q : Byte) : Bool := q.toNat / 64 == 1
/-- Class 0b00, good. -/
def isGoodClass (q : Byte) : Bool := q.toNat / 64 == 0

/-- R89: the order in which conditions show. -/
def qualityOrder : List Byte :=
  [qTest, qOpen, qShort, qOverload, qSupply, qSource, qSubst, qCal, qRange, qTime, qGood]

/-- R89: the first of the order among the conditions that hold, GOOD when none does. -/
def qualityOf (conds : List Byte) : Byte := (qualityOrder.find? (fun q => conds.contains q)).getD qGood

/-! ### Provenance codes (Table 3.6) -/

def pvNever : Nat := 0x00
def pvCell : Nat := 0x01
def pvCan : Nat := 0x02
def pvDali : Nat := 0x03
def pvOsdp : Nat := 0x04
def pvProgram : Nat := 0x05
def pvLoop : Nat := 0x06
def pvPress : Nat := 0x07
def pvFlow : Nat := 0x08
def pvVintner : Nat := 0x09
def pvPartition : Nat := 0x0A
def pvSafety : Nat := 0x0B
def pvTrellis : Nat := 0x0C

/-! ### Codes used across chapters -/

/-- R29. -/
def cISLAND_DOWN : Nat := 0x00A1
/-- R76. -/
def cCASK_DENIED : Nat := 0x0220

end Sys2Proof.Machine
end

