-- ==== Sys2Proof/Config.lean ====
section
/-!
DEFINITION. Config.lean: what one built module fixes and what the spec leaves open. Every opaque constant here
is a FREE VALUE: nothing in Lean can evaluate it, so a statement about it holds whatever it is.
Each is named in a row of notes/assumptions/.
-/
namespace Sys2Proof.Config

/-- The free values of the steps: the spec states no number there (assumption 3). The argument is the
model's own counter `State.fresh`, which every use advances. -/
opaque freeValue : Nat → BitVec 64

/-- Readings a frame does not bring, each its own free value: the counter, and the cell or the reference (assumption 3). -/
opaque freeReading : Nat → Nat → F64

/-- Payload and sign of a NaN that arithmetic makes from two operands (IEEE 754 leaves them open;
assumption 4). -/
opaque nanPayload : Nat → Nat → Nat

/-- Numeric codes of events that the spec calls for without naming a code (assumption 9). -/
opaque openCode : Nat → BitVec 16

/-- Temperature in degrees Celsius of a PT1000 or NTC10K resistance (the spec names the sensors and gives no formula;
assumption 10). The first argument is the mode code. -/
opaque sensorTemp : Nat → F64 → F64

/-- Nominal value of a group's span reference in the units of a mode (spec/03 R98 names it S; assumption 11). -/
opaque spanNominal : Nat → F64

/-- Period of a PWM cell in ns, before its bounds of 10 ms to 60 s are applied (no field of the spec sets it;
assumption 12). -/
opaque pwmPeriod : Nat → Nat

/-- SHA-384 of a byte string, 48 bytes (a published standard, not defined by the spec; assumption 5). -/
opaque sha384 : List Byte → List Byte

/-- ECDSA P-384 verification: public key, message, signature (assumption 5). -/
opaque ecdsaVerify : List Byte → List Byte → List Byte → Bool

/-- ECDSA P-384 signature: secret scalar, message, nonce material (assumption 5). -/
opaque ecdsaSign : List Byte → List Byte → Nat → List Byte

/-- The frequency correction, in 0.1 ppb, that a domain's servo takes from the offsets counted so far and its present
correction (spec/11_network_time.md R342 bounds it; the estimator itself is open; assumption 7). -/
opaque servoFreq : List Int → Int → Int

/-- Least-squares fit of a captured step response: the dead time d in samples, a, beta and the RMS residual (spec/06 R203
names the fit and not its arithmetic; assumption 13). The samples are (y, u) pairs. -/
opaque retuneFit : List (F32 × F32) → Nat × F64 × F64 × F64

/-- Natural logarithm in binary64 (R203; assumption 13). -/
opaque ln : F64 → F64

/-- What ERRINFO puts in its register for an entry's reason, task, Trellis cycle and further information (spec/04 R140 names no
layout; assumption 14). -/
opaque errInfo : Nat → Nat → Nat → Nat → BitVec 64

/-- The filters of a Press channel (spec/07 R216: high-pass, delay, and for voltages the 127-tap Hilbert filter) as a machine
whose coefficients the spec leaves open (assumption 15): the next state, the filtered and delayed value, and v90. The arguments
are the state, PHASE, and the value. -/
opaque filtNext : Nat → Int → F64 → Nat
/-- The filtered value (R216; assumption 15). -/
opaque filtOut : Nat → Int → F64 → F64
/-- The voltage shifted by -90 degrees (R216; assumption 15). -/
opaque filt90 : Nat → Int → F64 → F64

/-- HMAC-SHA-384 of a message under a key, 48 bytes (a published standard; assumption 5). -/
opaque hmac384 : List Byte → List Byte → List Byte

/-- AES-256-GCM: the payload encrypted or decrypted under key and nonce (assumption 5). -/
opaque gcmXor : List Byte → List Byte → List Byte → List Byte

/-- AES-256-GCM: the 16-byte tag over additional data and ciphertext (assumption 5). -/
opaque gcmTag : List Byte → List Byte → List Byte → List Byte → List Byte

/-- A blob opened under a key: its plaintext, none where its tag fails (assumptions 5 and 17). -/
opaque openBlob : List Byte → List Byte → Option (List Byte)

/-- A key wrapped for EXPORT (assumption 17). -/
opaque exportBlob : List Byte → List Byte

/-- Uncompressed ECDSA P-384 public key of a secret scalar (assumption 5). -/
opaque ecdsaPub : Nat → List Byte

/-- A slot operation: operation code, key type, key and input give the output, none where it fails (assumption 5). -/
opaque slotOp : Nat → Nat → List Byte → List Byte → Option (List Byte)

/-- Session keys of the OSDP v2.2 secure channel from a base key and the exchanged random numbers (assumption 5). -/
opaque osdpSession : List Byte → List Byte → List Byte

/-- The default base key of the OSDP standard (assumption 5). -/
opaque osdpDefault : List Byte

/-- The firmware image carries a good signature of its own under the Gengal firmware key (spec/15 R466; assumption 5). -/
opaque firmwareOk : List Byte → Bool

/-- A session message of the safety island from its bytes: Table 9.11 names the messages and no layout (assumption 20). -/
opaque sessionMsg : List Byte → Option SafMsg

/-! ### Section bodies whose framing the spec does not give (assumption 22) -/

/-- The WINDOWS body: each entry's cask and its 8 bytes (R75). -/
opaque windowParts : List Byte → List (Nat × List Byte)

/-- The PROGRAM body: its cask program records, its task records, and its instance records with the module task number each
belongs to (spec/04_program_engine.md R113). -/
opaque programParts : List Byte → Option (List (List Byte) × List (List Byte) × List (Nat × List Byte))

/-- An instance record: its offset in the partition, the header of Table 4.7, the initial values after the header and those of
the retentive part, and the code offset of a migration routine. -/
opaque instParts : List Byte → Nat × List Byte × List Byte × List Byte × Option Nat

/-- Initial values of a cask's global region in a PROGRAM body. -/
opaque globalInit : List Byte → Nat → List Byte

/-- Code that a task's cask runs, in a PROGRAM body, by module task number. -/
opaque taskCode : List Byte → Nat → List Byte

/-- The VINTNER body: each bound record's target, LO_POINT, HI_POINT and RATE_POINT (R141). -/
opaque vintnerParts : List Byte → List (Nat × Nat × Nat × Nat)

/-- A field of a 32-byte static flow record (R324): 0 context, 1 cask, 2 node, 3 destination point, 4 period in ms, 5 first source
point, 6 NPTS, 7 requested time in us, 8 whether it is a receive context, 9 the sender's context. -/
opaque flowField : Nat → List Byte → Nat

/-- First address of the casks' partitions in dynamic RAM (assumption 6). -/
opaque partStart : Nat

end Sys2Proof.Config
end

