-- ==== Sys2Proof/Machine/Float.lean ====
section
/-!
DEFINITION. Float.lean: IEEE 754 binary32 and binary64 arithmetic with round to nearest even (spec/04_program_engine.md
R125; spec/06_loop_engine.md R182; spec/07_press_metering.md R221), computed exactly over Nat and Int and rounded once.
A number is its bit pattern.
-/
namespace Sys2Proof.Float

/-- A binary format: exponent bits and fraction bits. -/
structure Fmt where
  ew : Nat
  mw : Nat
  deriving DecidableEq, Repr

/-- binary32. -/
def b32 : Fmt := { ew := 8, mw := 23 }
/-- binary64. -/
def b64 : Fmt := { ew := 11, mw := 52 }

/-- Exponent bias. -/
def Fmt.bias (f : Fmt) : Nat := 2 ^ (f.ew - 1) - 1
/-- Pattern of +infinity. -/
def Fmt.inf (f : Fmt) : Nat := (2 ^ f.ew - 1) * 2 ^ f.mw
/-- Weight of the sign bit. -/
def Fmt.sgn (f : Fmt) : Nat := 2 ^ (f.ew + f.mw)

/-- The sign bit of a pattern. -/
def neg? (f : Fmt) (n : Nat) : Bool := n / f.sgn % 2 == 1
/-- The magnitude bits of a pattern. -/
def mag (f : Fmt) (n : Nat) : Nat := n % f.sgn
/-- Not a number. -/
def isNan (f : Fmt) (n : Nat) : Bool := f.inf < mag f n
/-- An infinity. -/
def isInf (f : Fmt) (n : Nat) : Bool := mag f n == f.inf
/-- A finite number. -/
def isFin (f : Fmt) (n : Nat) : Bool := mag f n < f.inf
/-- A zero of either sign. -/
def isZero (f : Fmt) (n : Nat) : Bool := mag f n == 0

/-- Exact value of a finite magnitude: significand and exponent of its unit. -/
def unpack (f : Fmt) (n : Nat) : Nat × Int :=
  let m := mag f n
  let e := m / 2 ^ f.mw
  let fr := m % 2 ^ f.mw
  if e = 0 then (fr, 1 - (f.bias : Int) - f.mw) else (fr + 2 ^ f.mw, (e : Int) - f.bias - f.mw)

/-- The pattern of `(-1)^s * m * 2^x`, rounded to nearest, ties to even. -/
def pack (f : Fmt) (s : Bool) (m : Nat) (x : Int) : Nat :=
  let sb := if s then f.sgn else 0
  if m = 0 then sb
  else
    let qmin : Int := 1 - (f.bias : Int) - f.mw
    let q0 : Int := x + (Nat.log2 m : Nat) - f.mw
    let q := if q0 < qmin then qmin else q0
    let r :=
      if q ≤ x then m * 2 ^ (x - q).toNat
      else
        let sh := (q - x).toNat
        let d := m / 2 ^ sh
        let rem := m % 2 ^ sh
        let half := 2 ^ (sh - 1)
        if half < rem || (rem == half && d % 2 == 1) then d + 1 else d
    let p := (q - qmin).toNat * 2 ^ f.mw + r
    sb + (if f.inf ≤ p then f.inf else p)

/-- A quiet NaN made from operands `a` and `b`: the payload and sign are free (assumption 4). -/
def nan (f : Fmt) (a b : Nat) : Nat :=
  let p := Config.nanPayload a b
  p / 2 % 2 * f.sgn + f.inf + 2 ^ (f.mw - 1) + p / 4 % 2 ^ (f.mw - 1)

/-- Sign change. -/
def negate (f : Fmt) (a : Nat) : Nat := if neg? f a then a - f.sgn else a + f.sgn
/-- Magnitude with a clear sign. -/
def abs (f : Fmt) (a : Nat) : Nat := mag f a

/-- Sum of two finite patterns, exact then rounded; an exact zero sum is -0 only when both are. -/
def addFin (f : Fmt) (a b : Nat) : Nat :=
  let (ma, xa) := unpack f a
  let (mb, xb) := unpack f b
  let x := if xa < xb then xa else xb
  let va : Int := (ma * 2 ^ (xa - x).toNat : Nat)
  let vb : Int := (mb * 2 ^ (xb - x).toNat : Nat)
  let v := (if neg? f a then -va else va) + (if neg? f b then -vb else vb)
  if v = 0 then (if neg? f a && neg? f b then f.sgn else 0)
  else pack f (v < 0) v.natAbs x

/-- Addition. -/
def add (f : Fmt) (a b : Nat) : Nat :=
  if isNan f a || isNan f b then nan f a b
  else if isInf f a then (if isInf f b && neg? f a != neg? f b then nan f a b else a)
  else if isInf f b then b
  else addFin f a b

/-- Subtraction. -/
def sub (f : Fmt) (a b : Nat) : Nat := if isNan f b then nan f a b else add f a (negate f b)

/-- Multiplication. -/
def mul (f : Fmt) (a b : Nat) : Nat :=
  let s := neg? f a != neg? f b
  if isNan f a || isNan f b then nan f a b
  else if isInf f a || isInf f b then
    if isZero f a || isZero f b then nan f a b else (if s then f.sgn else 0) + f.inf
  else
    let (ma, xa) := unpack f a
    let (mb, xb) := unpack f b
    pack f s (ma * mb) (xa + xb)

/-- Division. -/
def div (f : Fmt) (a b : Nat) : Nat :=
  let s := neg? f a != neg? f b
  let sb := if s then f.sgn else 0
  if isNan f a || isNan f b then nan f a b
  else if isInf f a then (if isInf f b then nan f a b else sb + f.inf)
  else if isInf f b then sb
  else if isZero f b then (if isZero f a then nan f a b else sb + f.inf)
  else
    let (ma, xa) := unpack f a
    let (mb, xb) := unpack f b
    let k := f.mw + 3 + Nat.log2 mb
    let n := ma * 2 ^ k
    pack f s (2 * (n / mb) + (if n % mb = 0 then 0 else 1)) (xa - xb - k - 1)

/-- Integer square root by bits: `b` is the number of result bits still to try. -/
def isqrtBits (n : Nat) : Nat → Nat → Nat
  | 0, r => r
  | b + 1, r => isqrtBits n b (if (r + 2 ^ b) * (r + 2 ^ b) ≤ n then r + 2 ^ b else r)

/-- Integer square root. -/
def isqrt (n : Nat) : Nat := isqrtBits n (Nat.log2 n / 2 + 1) 0

/-- Square root. -/
def sqrt (f : Fmt) (a : Nat) : Nat :=
  if isNan f a then nan f a a
  else if isZero f a then a
  else if neg? f a then nan f a a
  else if isInf f a then a
  else
    let (m, x) := unpack f a
    let k := 2 * f.mw + 6
    let k := if (x - k) % 2 = 0 then k else k + 1
    let n := m * 2 ^ k
    let r := isqrt n
    pack f false (2 * r + (if r * r = n then 0 else 1)) ((x - k) / 2 - 1)

/-- A pattern ordered as an integer (both zeros are 0). -/
def key (f : Fmt) (a : Nat) : Int := if neg? f a then -(mag f a : Int) else mag f a

/-- Equal numbers (false with a NaN). -/
def eq (f : Fmt) (a b : Nat) : Bool := !isNan f a && !isNan f b && key f a == key f b
/-- Less than (false with a NaN). -/
def lt (f : Fmt) (a b : Nat) : Bool := !isNan f a && !isNan f b && decide (key f a < key f b)
/-- At most (false with a NaN). -/
def le (f : Fmt) (a b : Nat) : Bool := !isNan f a && !isNan f b && decide (key f a ≤ key f b)

/-- The pattern nearest an integer. -/
def ofInt (f : Fmt) (i : Int) : Nat := pack f (i < 0) i.natAbs 0

/-- The integer of a finite pattern, cut toward zero. -/
def truncFin (f : Fmt) (a : Nat) : Int :=
  let (m, x) := unpack f a
  let v : Nat := if 0 ≤ x then m * 2 ^ x.toNat else m / 2 ^ (-x).toNat
  if neg? f a then -(v : Int) else v

/-- `n / d` rounded to the nearest integer, ties to even. -/
def divRne (n d : Nat) : Nat :=
  let q := n / d
  let r := n % d
  if d < 2 * r || (2 * r == d && q % 2 == 1) then q + 1 else q

/-- The integer nearest a finite pattern, ties to even. -/
def roundFin (f : Fmt) (a : Nat) : Int :=
  let (m, x) := unpack f a
  let v : Nat := if 0 ≤ x then m * 2 ^ x.toNat else divRne m (2 ^ (-x).toNat)
  if neg? f a then -(v : Int) else v

/-- The integer nearest `a * 2^k` for a finite pattern, ties to even. -/
def roundScaled (f : Fmt) (a : Nat) (k : Nat) : Int :=
  let (m, x) := unpack f a
  let x := x + k
  let v : Nat := if 0 ≤ x then m * 2 ^ x.toNat else divRne m (2 ^ (-x).toNat)
  if neg? f a then -(v : Int) else v

/-- Conversion between formats, rounded. -/
def convert (f g : Fmt) (a : Nat) : Nat :=
  if isNan f a then nan g a a
  else if isInf f a then (if neg? f a then g.sgn else 0) + g.inf
  else let (m, x) := unpack f a; pack g (neg? f a) m x

/-- Rounding to an integral number of the same format by `r` (a finite pattern with a fraction). -/
def toIntegral (f : Fmt) (r : Nat → Int) (a : Nat) : Nat :=
  if isFin f a then
    let i := r a
    if i = 0 then (if neg? f a then f.sgn else 0) else ofInt f i
  else a

end Sys2Proof.Float

namespace Sys2Proof
open Sys2Proof.Float

/-! ### binary64 on words -/

/-- binary64 sum. -/
def F64.add (a b : F64) : F64 := BitVec.ofNat 64 (Float.add b64 a.toNat b.toNat)
/-- binary64 difference. -/
def F64.sub (a b : F64) : F64 := BitVec.ofNat 64 (Float.sub b64 a.toNat b.toNat)
/-- binary64 product. -/
def F64.mul (a b : F64) : F64 := BitVec.ofNat 64 (Float.mul b64 a.toNat b.toNat)
/-- binary64 quotient. -/
def F64.div (a b : F64) : F64 := BitVec.ofNat 64 (Float.div b64 a.toNat b.toNat)
/-- binary64 square root. -/
def F64.sqrt (a : F64) : F64 := BitVec.ofNat 64 (Float.sqrt b64 a.toNat)
/-- Less than. -/
def F64.lt (a b : F64) : Bool := Float.lt b64 a.toNat b.toNat
/-- At most. -/
def F64.le (a b : F64) : Bool := Float.le b64 a.toNat b.toNat
/-- Equal numbers. -/
def F64.eq (a b : F64) : Bool := Float.eq b64 a.toNat b.toNat
/-- Finite. -/
def F64.fin (a : F64) : Bool := Float.isFin b64 a.toNat
/-- Sign change. -/
def F64.neg (a : F64) : F64 := BitVec.ofNat 64 (Float.negate b64 a.toNat)
/-- Magnitude. -/
def F64.abs (a : F64) : F64 := BitVec.ofNat 64 (Float.abs b64 a.toNat)
/-- The binary64 nearest an integer. -/
def F64.ofInt (i : Int) : F64 := BitVec.ofNat 64 (Float.ofInt b64 i)
/-- The binary64 nearest `n * 10^-k`. -/
def F64.ofDec (i : Int) (k : Nat) : F64 := F64.div (F64.ofInt i) (F64.ofInt ((10 ^ k : Nat)))
/-- Rounding to binary32. -/
def F64.to32 (a : F64) : F32 := BitVec.ofNat 32 (Float.convert b64 b32 a.toNat)
/-- The greater of two (the second where the first is a NaN). -/
def F64.max (a b : F64) : F64 := if F64.lt b a then a else b
/-- The lesser of two (the second where the first is a NaN). -/
def F64.min (a b : F64) : F64 := if F64.lt a b then a else b

/-! ### binary32 on words -/

/-- Widening to binary64, exact. -/
def F32.to64 (a : F32) : F64 := BitVec.ofNat 64 (Float.convert b32 b64 a.toNat)
/-- binary32 sum. -/
def F32.add (a b : F32) : F32 := BitVec.ofNat 32 (Float.add b32 a.toNat b.toNat)
/-- binary32 difference. -/
def F32.sub (a b : F32) : F32 := BitVec.ofNat 32 (Float.sub b32 a.toNat b.toNat)
/-- binary32 product. -/
def F32.mul (a b : F32) : F32 := BitVec.ofNat 32 (Float.mul b32 a.toNat b.toNat)
/-- binary32 quotient. -/
def F32.div (a b : F32) : F32 := BitVec.ofNat 32 (Float.div b32 a.toNat b.toNat)
/-- Less than. -/
def F32.lt (a b : F32) : Bool := Float.lt b32 a.toNat b.toNat
/-- At most. -/
def F32.le (a b : F32) : Bool := Float.le b32 a.toNat b.toNat
/-- Equal numbers. -/
def F32.eq (a b : F32) : Bool := Float.eq b32 a.toNat b.toNat
/-- Finite. -/
def F32.fin (a : F32) : Bool := Float.isFin b32 a.toNat
/-- A zero. -/
def F32.zero (a : F32) : Bool := Float.isZero b32 a.toNat
/-- The binary32 nearest an integer. -/
def F32.ofInt (i : Int) : F32 := BitVec.ofNat 32 (Float.ofInt b32 i)
/-- The binary32 nearest `i * 10^-k`. -/
def F32.ofDec (i : Int) (k : Nat) : F32 := F64.to32 (F64.ofDec i k)
/-- Magnitude. -/
def F32.abs (a : F32) : F32 := BitVec.ofNat 32 (Float.abs b32 a.toNat)

end Sys2Proof
end

