-- ==== Sys2Proof/Machine/Ops.lean ====
section
/-!
DEFINITION. Ops.lean: the shared operations on the state: islands and their refusals (spec/01_architecture.md R26, R29),
events (R386), free values, time (spec/11_network_time.md), cask refusals (R76) and the point table (spec/03).
-/
namespace Sys2Proof.Machine

/-- What a command answers. -/
abbrev Out := Host.Outcome State Fault Refusal

/-! ### Free values -/

/-- The next free value (assumption 3). -/
def freeNow (s : State) : BitVec 64 := Config.freeValue s.fresh

/-- Advance past the free value just used. -/
def bumpFree (s : State) : State := { s with fresh := s.fresh + 1 }

/-! ### Islands -/

/-- Place of an island in Table 1.1; also twice this is its lowest bit in SYS_ISL_STATE. -/
def islNum : Island → Nat
  | .cluster => 0 | .prog => 1 | .loop => 2 | .trellis => 3 | .ring => 4 | .fbus => 5 | .press => 6
  | .safp => 7 | .safl => 8 | .key => 9 | .cellar => 10

/-- The state of an island (R26). -/
def islState (s : State) (i : Island) : IslandState := Tbl.at s.sys.isl (islNum i) .off

/-- Set the state of an island. -/
def setIsl (i : Island) (st : IslandState) (s : State) : State :=
  { s with sys.isl := Tbl.put s.sys.isl (islNum i) st }

/-- The island is in RUN. -/
def isRun (s : State) (i : Island) : Bool := islState s i == .run

/-- The two-bit code of an island state (SYS_ISL_STATE). -/
def islCode : IslandState → Nat
  | .off => 0 | .waking => 1 | .run => 2 | .halt => 3

/-! ### Events -/

/-- Raise an event with flag bits (Table 12.3): it arises and is presented to the recorder's queue by its own command. -/
def recordF (code cask flags : Nat) (data : List Byte) (s : State) : State :=
  { s with arising := s.arising ++ [{ code := code, cask := cask, flags := flags, data := data }] }

/-- Raise an event. -/
def record (code cask : Nat) (data : List Byte) (s : State) : State := recordF code cask 0 data s

/-- One byte of event data. -/
def d1 (n : Nat) : List Byte := toLe 1 n
/-- Two bytes of event data. -/
def d2 (n : Nat) : List Byte := toLe 2 n
/-- Four bytes of event data. -/
def d4 (n : Nat) : List Byte := toLe 4 n
/-- Eight bytes of event data, two's complement of an integer. -/
def d8i (i : Int) : List Byte := toLe 8 (twos 64 i)

/-! ### Handshake channels -/

/-- R29: a transfer on channel `hc` from `src` towards `dst` is refused at the sender: its operation ends with ISLAND_DOWN,
the channel's bit is set and the event names the sender, the channel and the receiver. -/
def xchRefuse (hc : Nat) (src dst : Island) (s : State) : State :=
  let s := { s with reply := .code cISLAND_DOWN,
                    sys.xchFault := s.sys.xchFault ||| 2 ^ hc }
  record cISLAND_DOWN 0 (d1 (islNum src) ++ d1 hc ++ d1 (islNum dst)) s

/-- Key of a lane in the lane table. -/
def laneKey (l : Lane) : Nat := 2 * l.hc.val + b2n l.back

/-- The transfers in flight on a lane, oldest first (R28). -/
def laneQ (s : State) (l : Lane) : List Transfer := Tbl.at s.sys.lanes (laneKey l) []

/-- Set the transfers in flight on a lane. -/
def setLaneQ (l : Lane) (q : List Transfer) (s : State) : State :=
  { s with sys.lanes := Tbl.put s.sys.lanes (laneKey l) q }

/-- Present a transfer on a lane: queued behind the lane's earlier ones, or refused when the receiver is not in RUN
(R28, R29). -/
def present (l : Lane) (src dst : Island) (t : Transfer) (s : State) : State :=
  if isRun s dst then setLaneQ l (laneQ s l ++ [t]) s else xchRefuse l.hc.val src dst s

/-! ### Time -/

/-- A time domain. -/
def dom (s : State) (n : Nat) : Dom := Tbl.at s.tim.doms n {}

/-- Change a time domain. -/
def updDom (n : Nat) (f : Dom → Dom) (s : State) : State :=
  { s with tim.doms := Tbl.upd s.tim.doms n {} f }

/-- One nanosecond in units of a domain's fraction (R340: a 32-bit fraction). -/
def nsUnit : Nat := 2 ^ 32

/-- Value of a domain in units of 2^-32 ns; a FOLLOW domain follows R343. -/
def domT (s : State) (n : Nat) : Nat :=
  let d := dom s n
  match d.rc.source with
  | .follow =>
    let v : Int := (dom s d.rc.followOf).t + (d.rc.offset + d.absorbed) * (nsUnit : Nat)
    (v % ((2 ^ 96 : Nat) : Int)).toNat
  | _ => d.t

/-- The extended 64-bit domain time in ns (R340). -/
def domNs (s : State) (n : Nat) : Nat := domT s n / nsUnit % 2 ^ 64

/-- The time of a domain that an island's local copy shows (R341): TIM's value less the steps not yet taken. -/
def localNs (s : State) (i : Island) (n : Nat) : Nat :=
  twos 64 ((domNs s n : Int) - Tbl.at s.tim.lag (islNum i * 4 + n) 0)

/-- A stamp an island takes of a domain. -/
def stampOf (s : State) (i : Island) (n : Nat) : DWord := BitVec.ofNat 64 (localNs s i n)

/-- HOLD_TRUST_S in force (Table 11.7: 0 means 3,600). -/
def holdTrust (r : TimeRec) : Nat := if r.holdTrustS = 0 then 3600 else r.holdTrustS

/-- Trust of a domain that does not follow (Table 11.3). -/
def ownTrust (d : Dom) : Bool :=
  match d.st with
  | .locked => true
  | .holdover => d.holdS < holdTrust d.rc
  | .set => d.setTrust && d.holdS < holdTrust d.rc
  | _ => false

/-- R345: a domain is trusted exactly when Table 11.3 says so. -/
def trusted (s : State) (n : Nat) : Bool :=
  let d := dom s n
  if d.st == .following then ownTrust (dom s d.rc.followOf) else ownTrust d

/-! ### Casks -/

/-- The CASKS entry of a cask. -/
def caskRec (s : State) (c : Nat) : CaskRec := Tbl.at s.img.casks c {}

/-- R76: a check under R40 refuses an access: CASK_DENIED with the layout of Table 2.12, and the counts. -/
def denied (kind block object target detail cask : Nat) (s : State) : State :=
  let s := { s with sys.deniedTotal := satInc s.sys.deniedTotal max32,
                    sys.denied := Tbl.put s.sys.denied cask (satInc (Tbl.at s.sys.denied cask 0) max32) }
  record cCASK_DENIED cask (d1 kind ++ d1 block ++ d4 object ++ d1 target ++ d2 detail ++ List.replicate 5 0) s

/-! ### Points -/

/-- The point at an index, if the image defines one. -/
def pt? (s : State) (i : Nat) : Option Point := Tbl.get? s.trl.points i

/-- Set the point at an index. -/
def setPt (i : Nat) (p : Point) (s : State) : State := { s with trl.points := Tbl.put s.trl.points i p }

/-- R71, R74: who may read a point: its own cask, cask 0 and the casks of its grant mask; cask 63 reads none. -/
def mayRead (p : Point) (cask : Nat) : Bool :=
  cask != 63 && (cask == p.cask || cask == 0 || p.grant.toNat / 2 ^ cask % 2 == 1)

/-- R91: the value written with a bad code. -/
def badValue (p : Point) : DWord := if p.onBad then p.subst else p.lastGood.getD p.subst

/-- R345, R89: GOOD shows as UNCERTAIN_TIME while the stamp domain is untrusted. -/
def timeQuality (s : State) (p : Point) (q : Byte) : Byte :=
  if q == qGood && !trusted s p.domain then qTime else q

/-- The entry after an accepted write (R86, R87, R90): the five fields change together. -/
def entryWrite (p : Point) (prov : Nat) (v : DWord) (q : Byte) (st : DWord) : Point :=
  { p with value := v, stamp := st, quality := q, prov := prov, seq := (p.seq + 1) % 65536,
           src := p.srcIndex, lastGood := if isBad q then p.lastGood else some v }

/-! ### Typed values (Table 3.4) -/

/-- A point value of TYPE `t` as binary64 (R182: INT types to nearest even, BOOL 0.0 or 1.0). -/
def realOf (t : Nat) (v : DWord) : F64 :=
  match t with
  | 1 => if v.toNat % 2 = 1 then F64.ofInt 1 else 0
  | 2 => F64.ofInt (sOf 32 v.toNat)
  | 3 => F32.to64 (BitVec.ofNat 32 v.toNat)
  | 4 => F64.ofInt (sOf 64 v.toNat)
  | 5 => F64.ofInt (v.toNat : Int)
  | _ => v

/-- A binary64 number as a value of TYPE `t`; integers by round to nearest even, cut to the type's range. -/
def valueOf (t : Nat) (x : F64) : DWord :=
  let i := if F64.fin x then Float.roundFin Float.b64 x.toNat
           else if F64.lt 0 x then (2 ^ 70 : Nat) else if F64.lt x 0 then -((2 ^ 70 : Nat) : Int) else 0
  match t with
  | 1 => if F64.fin x && F64.eq x 0 then 0 else 1
  | 2 => BitVec.ofNat 64 (twos 32 (clampI i (-2147483648) 2147483647))
  | 3 => BitVec.ofNat 64 (F64.to32 x).toNat
  | 4 => BitVec.ofNat 64 (twos 64 (clampI i (-9223372036854775808) 9223372036854775807))
  | 5 => BitVec.ofNat 64 (clampI i 0 18446744073709551615).toNat
  | _ => x

/-- A finite number, whatever its type (R85, R120). -/
def isFinite (t : Nat) (v : DWord) : Bool :=
  match t with
  | 3 => F32.fin (BitVec.ofNat 32 v.toNat)
  | 6 => F64.fin v
  | _ => true

/-! ### Output starts (R105, R106) -/

/-- The cell modes that drive the plant. -/
def isOutput : CellMode → Bool
  | .doOut | .pwm | .aoV | .aoMa => true
  | _ => false

/-- The command a cell's command point gives, taken as 0.0 when it is not finite (R85). -/
def rawCommand (s : State) (c : CellSt) : F64 :=
  match c.fixed with
  | some v => v
  | none =>
    match pt? s c.rc.point with
    | some p => if isFinite p.type p.value then realOf p.type p.value else 0
    | none => 0

/-- The command that drives the cell: one below the range of AO_V or PWM is their 0.0, the off state (DEDUCED, log entry 59). -/
def command (s : State) (c : CellSt) : F64 :=
  let x := rawCommand s c
  if (c.rc.mode == .aoV || c.rc.mode == .pwm) && F64.lt x 0 then 0 else x

/-- A command other than off or zero. -/
def cmdOn (x : F64) : Bool := !F64.eq x 0

/-- A cell. -/
def cell (s : State) (n : Nat) : CellSt := Tbl.at s.trl.cells n {}

/-- Change a cell. -/
def updCell (n : Nat) (f : CellSt → CellSt) (s : State) : State :=
  { s with trl.cells := Tbl.upd s.trl.cells n {} f }

/-- A group. -/
def group (s : State) (g : Nat) : Group := Tbl.at s.trl.groups g {}

/-- The start of this requester waits in the module queue. -/
def startQueued (s : State) (w : StartWho) : Bool := s.pwr.startQ.any (fun r => r.who == w)

/-- Put a start at the end of the queue unless it waits there already (R106, R490). -/
def queueStart (w : StartWho) (s : State) : State :=
  if startQueued s w then s else { s with pwr.startQ := s.pwr.startQ ++ [{ who := w }] }

/-- Take a start out of the queue (R107). -/
def unqueueStart (w : StartWho) (s : State) : State :=
  { s with pwr.startQ := s.pwr.startQ.filter (fun r => r.who != w) }

/-- A write of point `i` reaches the output cells it commands: one that is not driving and is now commanded on joins the
queue, in cell order (R105, R106); a tripped one starts again at its retry (R82). -/
def noteCommand (i : Nat) (s : State) : State :=
  s.trl.cells.foldl (fun s e =>
    if isOutput e.2.rc.mode && e.2.rc.point == i && !e.2.driving && e.2.tripAt.isNone && cmdOn (command s e.2) then
      queueStart (.cell e.1) s else s) s

end Sys2Proof.Machine
end

