-- ==== Sys2Proof/Machine/CanQueue.lean ====
section
/-!
DEFINITION. CanQueue.lean: CAN frames: building them from points, the transmit queues, their order and shares
(spec/13_field_buses_and_building_interfaces.md R400, R402 to R406, Table 13.6).
-/
namespace Sys2Proof.Machine

def cFBS_TX_DROP : Nat := 0x0B11

/-- A channel. -/
def canCh (s : State) (n : Nat) : CanCh := Tbl.at s.fbs.chans n {}
/-- Change a channel. -/
def updCan (n : Nat) (f : CanCh → CanCh) (s : State) : State := { s with fbs.chans := Tbl.upd s.fbs.chans n {} f }

/-! ### Bit times and frame bounds, in 12.5 ns cycles (R397, Table 13.6) -/

/-- Nominal bit time. -/
def nomBit (w : Word) : Nat :=
  let n := w.toNat
  (fld n 0 5 + 1) * (1 + (fld n 16 8 + 1) + (fld n 8 7 + 1))

/-- Data bit time. -/
def dataBit (w : Word) : Nat :=
  let n := w.toNat
  (fld n 0 5 + 1) * (1 + (fld n 8 5 + 1) + (fld n 16 4 + 1))

/-- N_d of Table 13.6 for L payload bytes. -/
def fdBits (l : Nat) : Nat := 5 + 8 * l + (5 + 8 * l) / 4 + 4 + (if l ≤ 16 then 17 + 6 else 21 + 7)

/-- Table 13.6. -/
def boundOf (r : CanRec) (ide fdf brs : Bool) (l : Nat) : Nat :=
  let tn := nomBit r.nbt
  let td := if brs then dataBit r.dbt else tn
  match fdf, ide with
  | false, false => (47 + 8 * l + (33 + 8 * l) / 4) * tn
  | false, true => (67 + 8 * l + (53 + 8 * l) / 4) * tn
  | true, false => 34 * tn + fdBits l * td
  | true, true => 57 * tn + fdBits l * td

/-- Bound of a frame record's frame on its channel. -/
def frameBound (s : State) (f : FrameRec) : Nat := boundOf (canCh s f.ch).rc f.ide f.fdf f.brs f.len

/-- Bound of the reference message: classical, one data byte (R409). -/
def refBound (r : CanRec) : Nat := boundOf r (bitOf r.refId 29) false false 1

/-- Bound of an instance. -/
def instBound (s : State) (ch : Nat) (i : CanInst) : Nat :=
  match i.rc with
  | some k => frameBound s (Tbl.at s.fbs.frames k {})
  | none => refBound (canCh s ch).rc

/-- A span of 12.5 ns cycles is at most a span in ns. -/
def fitsNs (cycles ns : Nat) : Bool := decide (cycles * 25 ≤ ns * 2)

/-- Domain 2 time as the field-bus island sees it (R408). -/
def fbusTime (s : State) : Nat := localNs s .fbus 2

/-! ### Building a frame (R395, R400) -/

/-- The field of a point of TYPE `t`, in bytes (R400). -/
def fieldLen (t : Nat) : Nat := if t == 1 then 1 else if t == 2 || t == 3 then 4 else 8

/-- A point's value in its field (R400). -/
def fieldBytes (t : Nat) (v : DWord) : List Byte :=
  if t == 1 then d1 (v.toNat % 2) else toLe (fieldLen t) v.toNat

/-- The points of a frame record. -/
def framePoints (f : FrameRec) : List Nat := (List.range f.npts).map (fun i => f.first + i)

/-- TYPE of a point, INT32 for one that is not defined. -/
def ptType (s : State) (i : Nat) : Nat := match pt? s i with | some p => p.type | none => 2

/-- Bytes of the fields of a frame record's points. -/
def fieldsLen (s : State) (f : FrameRec) : Nat := (framePoints f).foldl (fun n i => n + fieldLen (ptType s i)) 0

/-- The payload built from the points now; bytes after the last field are 0. -/
def buildPayload (s : State) (f : FrameRec) : List Byte :=
  padTo f.len ((framePoints f).flatMap (fun i =>
    match pt? s i with
    | some p => fieldBytes p.type p.value
    | none => []))

/-- The VALUE and quality class of FIRST_POINT (R402). -/
def firstOf (p : Point) : DWord × Nat := (p.value, p.quality.toNat / 64)

/-- Build an instance of frame record `k`. -/
def buildInst (s : State) (k : Nat) (f : FrameRec) (queued : Bool) : CanInst :=
  let fst := match pt? s f.first with | some p => firstOf p | none => (0, 0)
  { rc := some k, payload := buildPayload s f, first := fst.1, cls := fst.2, queued := queued }

/-! ### Stations of transmit records (R162, R165) -/

/-- The CAN station that a transmit record sends to: on its channel, with the node ID in the identifier's low byte. -/
def txStation (s : State) (f : FrameRec) : Option Nat :=
  (s.stn.tbl.find? (fun e => e.2.kind == 1 && e.2.addr / 256 % 8 == f.ch && e.2.addr % 256 == f.id % 256)).map (·.1)

/-- R162, R165, R166: the record's frame is not sent: its station is lost, or one of its points is still kept back. -/
def heldBack (s : State) (f : FrameRec) : Bool :=
  match txStation s f with
  | some n =>
    let t := Tbl.at s.stn.tbl n {}
    t.st == .lost || (framePoints f).any (fun i => t.closed.contains i)
  | none => false

/-! ### Transmit queue (R402 to R406) -/

/-- Arbitration priority on the wire, the lesser first: base identifier, base before extended, identifier extension, classical
before FD. -/
def prioKey (f : FrameRec) : List Nat :=
  if f.ide then [f.id / 2 ^ 18, 1, f.id % 2 ^ 18, b2n f.fdf] else [f.id, 0, 0, b2n f.fdf]

/-- Priority of a waiting instance. -/
def instKeyOf (s : State) (i : CanInst) : List Nat :=
  match i.rc with
  | some k => prioKey (Tbl.at s.fbs.frames k {})
  | none => []

/-- R403: priority order is in force; never in prior mode. -/
def qpol (s : State) (c : CanCh) : Bool := c.rc.prio && !s.sys.active

/-- The queue in the order in which it is taken (R403). -/
def queueOrder (s : State) (c : CanCh) : List CanInst := if qpol s c then sortBy (instKeyOf s) c.q else c.q

/-- A drop of an instance: TX_DROP, and FBS_TX_DROP at most once a second per channel (R404, R406). -/
def countTxDrop (ch : Nat) (s : State) : State :=
  let c := canCh s ch
  let tell := match c.dropAt with | some t => decide (t + 1000000000 ≤ s.now) | none => true
  let s := updCan ch (fun c => { c with txDrop := satInc c.txDrop 0xFFFF, dropAt := if tell then some s.now else c.dropAt }) s
  if tell then record cFBS_TX_DROP c.rc.cask (d1 ch) s else s

/-- The cask of an instance. -/
def instCask (s : State) (i : CanInst) : Nat :=
  match i.rc with
  | some k => (Tbl.at s.fbs.frames k {}).cask
  | none => 0

/-- Number of the present 10 ms period (R405). -/
def sharePeriod (s : State) : Nat := s.trl.frame / 10

/-- Wire time a cask has used of the channel in the present period. -/
def shareUsed (s : State) (c : CanCh) (cask : Nat) : Nat :=
  if c.period == sharePeriod s then Tbl.at c.used cask 0 else 0

/-- R405, R70: the instance's cask has not used its CAN_SHARE of the channel in the present period. -/
def underShare (s : State) (c : CanCh) (i : CanInst) : Bool :=
  let k := instCask s i
  decide (shareUsed s c k * 100 < (caskRec s k).canShare * 800000)

/-- R405: the instance the queue offers. -/
def offered (s : State) (c : CanCh) : Option CanInst :=
  let o := queueOrder s c
  match o.find? (underShare s c) with
  | some i => some i
  | none => o.head?

/-- A frame starts on an idle wire: its wire time is counted, and what it sends is noted (R402, R405). -/
def wireStart (ch : Nat) (i : CanInst) (s : State) : State :=
  let k := instCask s i
  let n := instBound s ch i
  let s := updCan ch (fun c =>
    let u := if c.period == sharePeriod s then c.used else []
    { c with period := sharePeriod s, used := Tbl.put u k (Tbl.at u k 0 + n) }) s
  match i.rc with
  | some r => { s with fbs.sent := Tbl.put s.fbs.sent r (i.first, i.cls) }
  | none => s

/-- R409: a queued instance may start now: at any time on an EVENT channel; on a TT_MASTER channel only when its bound ends within
the present ARBITRATING window. -/
def mayStart (s : State) (ch : Nat) (i : CanInst) : Bool :=
  let c := canCh s ch
  if c.rc.role == 1 then true
  else if c.rc.role == 2 then
    match c.arbTill with
    | some e => decide (fbusTime s ≤ e) && fitsNs (instBound s ch i) (e - fbusTime s)
    | none => false
  else false

/-- The queue offers an instance to an idle wire (R405). -/
def offer (ch : Nat) (s : State) : State :=
  let c := canCh s ch
  if c.wire.isEmpty && c.st == .running then
    match offered s c with
    | some i =>
      if mayStart s ch i then
        wireStart ch i (updCan ch (fun c => { c with q := c.q.erase i, wire := [i] }) s)
      else s
    | none => s
  else s

/-- The waiting instance that a newcomer of a full queue displaces (R404): the lowest-priority one, when the newcomer outranks it. -/
def displaced (s : State) (c : CanCh) (i : CanInst) : Option CanInst :=
  if qpol s c then
    match (queueOrder s c).getLast? with
    | some l => if lexLt (instKeyOf s i) (instKeyOf s l) then some l else none
    | none => none
  else none

/-- A trigger of a transmit record (R402, R404): its frame is built, and replaces the payload of the instance already queued, or
enters the queue. -/
def canTrigger (k : Nat) (s : State) : State :=
  match Tbl.get? s.fbs.frames k with
  | none => s
  | some f =>
    let c := canCh s f.ch
    if !f.tx || c.st != .running || c.rc.role == 3 || heldBack s f || !isRun s .fbus || !isRun s .trellis then s
    else
      let i := buildInst s k f true
      if c.q.any (fun x => x.rc == some k) then
        let put := fun (x : CanInst) => if x.rc == some k then i else x
        updCan f.ch (fun c => { c with q := c.q.map put, overwrites := satInc c.overwrites 0xFF }) s
      else if c.q.length < 64 then
        let s := updCan f.ch (fun c => { c with q := c.q ++ [i] }) s
        offer f.ch s
      else
        let s1 := countTxDrop f.ch s
        match displaced s c i with
        | some l =>
          let s := updCan f.ch (fun c => { c with q := c.q.erase l ++ [i] }) s1
          offer f.ch s
        | none => s1

/-- R402: an accepted write of an on-change record's FIRST_POINT, whose VALUE or quality class differs from the last sent or whose
record waits in the queue, triggers it; the frame is built in the next Trellis cycle (R34). -/
def noteChange (i : Nat) (p : Point) (s : State) : State :=
  s.fbs.frames.foldl (fun s e =>
    let f := e.2
    if f.tx && f.trig == 1 && f.first == i && !s.fbs.toBuild.contains e.1 &&
       (Tbl.get? s.fbs.sent e.1 != some (firstOf p) || (canCh s f.ch).q.any (fun x => x.rc == some e.1)) then
      { s with fbs.toBuild := s.fbs.toBuild ++ [e.1] }
    else s) s

/-- Build the on-change frames of the last Trellis cycle. -/
def buildChanged (s : State) : State :=
  s.fbs.toBuild.foldl (fun s k => canTrigger k s) { s with fbs.toBuild := [] }

end Sys2Proof.Machine
end

