-- ==== Sys2Proof/Machine/Points.lean ====
section
/-!
DEFINITION. Points.lean: writing point entries (spec/03_trellis_point_fabric.md R33, R86 to R93), with everything that hangs on an
accepted write: output starts, stations that return (R165, R166), CAN records on change (R402), DALI levels (R413), door release and
the lift mask (R420, R422).
-/
namespace Sys2Proof.Machine

def cBSI_GRANT : Nat := 0x0C10

/-- The value of a BOOL point. -/
def boolOf (v : DWord) : Bool := v.toNat % 2 == 1

/-- R165, R166: an output point kept back since its station's loss is sent again from the first write of the task whose proving
cycle is complete, or from another source's first write at least WDOG_MS after the return. -/
def noteOpen (i prov : Nat) (p : Point) (s : State) : State :=
  { s with stn.tbl := Tbl.mapV s.stn.tbl (fun _ t =>
      let opens := if prov == pvProgram then t.proved.contains p.srcIndex
        else prov != pvTrellis && decide (t.returnedAt + t.wdogMs * 1000000 ≤ s.now)
      if t.closed.contains i && (t.st == .proving || t.st == .present) && opens then
        { t with closed := t.closed.filter (· != i) } else t) }

/-- A level command point of DALI gear takes another value: the command waits at its running port, once (R413). -/
def noteLevel (i : Nat) (changed : Bool) (s : State) : State :=
  s.fbs.devs.foldl (fun s e =>
    let d := e.2
    let p := Tbl.at s.fbs.dali d.bus {}
    if changed && d.kind == 1 && d.first == i && p.running && !p.waiting.contains e.1 then
      { s with fbs.dali := Tbl.put s.fbs.dali d.bus { p with waiting := p.waiting ++ [e.1] } }
    else s) s

/-- Write the entry of an existing point, with what hangs on any write of it: outputs it commands, stations, CAN records on change,
and DALI levels. -/
def putEntry0 (i prov : Nat) (v : DWord) (q : Byte) (st : DWord) (s : State) : State :=
  match pt? s i with
  | some p =>
    let n := entryWrite p prov v (timeQuality s p q) st
    noteLevel i (p.value != v) (noteChange i n (noteOpen i prov p (noteCommand i (setPt i n s))))
  | none => s

/-- R420: a grant at a door writes its strike point TRUE and sends its reader LED green for 2 s. -/
def openDoor (d : Nat) (r : DoorRec) (s : State) : State :=
  let stamp := match pt? s r.strike with | some p => stampOf s .trellis p.domain | none => 0
  let s := putEntry0 r.strike pvOsdp 1 qGood stamp s
  let s := { s with fbs.strikes := Tbl.put s.fbs.strikes d s.now }
  { s with fbs.readers := Tbl.upd s.fbs.readers r.reader {} (fun x => { x with orders := x.orders ++ [.ledGreen 2000] }) }

/-- The cask of a door: its reader's station cask (Table 13.11). -/
def doorCask (s : State) (r : DoorRec) : Nat :=
  (Tbl.at s.stn.tbl (Tbl.at s.fbs.readers r.reader {}).rc.station {}).cask

/-- R420, R421: a rising edge of a door's release point acts as a grant with no lift request and no credential. -/
def noteRelease (i : Nat) (old new : DWord) (s : State) : State :=
  if !boolOf old && boolOf new && isRun s .fbus then
    s.fbs.doors.foldl (fun s e =>
      if e.2.release == i then
        record cBSI_GRANT (doorCask s e.2) (d1 e.1 ++ d1 0 ++ d4 0) (openDoor e.1 e.2 s)
      else s) s
  else s

/-- R422: the mask of casks whose lift calls are enabled. -/
def liftMask (s : State) (l : LiftRec) : Nat :=
  maskOf 64 (fun n =>
    (caskRec s n).liftCalls &&
    match Tbl.get? l.enable n with
    | some i => (match pt? s i with | some p => boolOf p.value && (isGoodClass p.quality || isUncertain p.quality) | none => false)
    | none => false)

/-- R422: the island writes MASK_POINT when the mask changes. -/
def noteMask (s : State) : State :=
  match s.fbs.lift with
  | some l =>
    match pt? s l.mask with
    | some p =>
      let v := BitVec.ofNat 64 (liftMask s l)
      if isRun s .fbus && (p.value != v || p.prov == pvNever) then
        putEntry0 l.mask pvOsdp v qGood (stampOf s .trellis p.domain) s
      else s
    | none => s
  | none => s

/-- Write the entry of an existing point, whoever its source is. -/
def putEntry (i prov : Nat) (v : DWord) (q : Byte) (st : DWord) (s : State) : State :=
  match pt? s i with
  | some p =>
    let s := noteRelease i p.value v (putEntry0 i prov v q st s)
    match s.fbs.lift with
    | some l => if l.enable.any (fun e => e.2 == i) then noteMask s else s
    | none => s
  | none => s

/-- R33, R93: a refused write is counted, and recorded as CASK_DENIED when the writer's cask differs from the point's. -/
def refuseWrite (i prov cask : Nat) (s : State) : State :=
  let s := { s with trl.wrRefused := satInc s.trl.wrRefused max32 }
  match pt? s i with
  | some p => if cask == p.cask then s else denied 0x02 3 i p.cask prov cask s
  | none => s

/-- The writing source of a point (R33). -/
def isWriter (p : Point) (kind idx cask : Nat) : Bool := p.srcKind == kind && p.srcIndex == idx && p.cask == cask

/-- A write by a source: accepted from the point's one writing source, refused from any other (R33, R93). -/
def writeBy (kind idx cask i : Nat) (v : DWord) (q : Byte) (st : DWord) (s : State) : State :=
  match pt? s i with
  | some p => if isWriter p kind idx cask then putEntry i kind v q st s else refuseWrite i kind cask s
  | none => refuseWrite i kind cask s

/-- R91: a write with a bad code carries the value ON_BAD chooses. -/
def writeQ (kind idx cask i : Nat) (v : DWord) (q : Byte) (st : DWord) (s : State) : State :=
  match pt? s i with
  | some p => writeBy kind idx cask i (if isBad q then badValue p else v) q st s
  | none => refuseWrite i kind cask s

/-- The stamp of the present Trellis cycle in a point's stamp domain. -/
def ptStamp (s : State) (i : Nat) : DWord :=
  match pt? s i with
  | some p => stampOf s .trellis p.domain
  | none => 0

/-- R92: Trellis writes the substitute value with quality SUBSTITUTED and provenance 0x0C. -/
def substitute (i : Nat) (s : State) : State :=
  match pt? s i with
  | some p => putEntry i pvTrellis p.subst qSubst (ptStamp s i) s
  | none => s

/-- Substitute several points. -/
def substituteAll (is : List Nat) (s : State) : State := is.foldl (fun s i => substitute i s) s

end Sys2Proof.Machine
end

