-- ==== Sys2Proof/Machine/Operands.lean ====
section
/-!
DEFINITION. Operands.lean: the register path: addresses (spec/00_scope.md R16 to R18; spec/01_architecture.md R46), the checks of
every register access (R41, R48, R74, R75), and the banks the spec keeps per issuer.
-/
namespace Sys2Proof.Machine

/-- Index of a block in Table 1.9 (R75). -/
def blockIdx : Block → Nat
  | .sys => 0 | .cel => 1 | .key => 2 | .trl => 3 | .pge => 4 | .lpe => 5 | .prs => 6 | .saf => 7
  | .net => 8 | .tim => 9 | .fbs => 10 | .bsi => 11 | .upd => 12 | .pwr => 13

/-- The block with an index. -/
def blockOfIdx : Nat → Option Block
  | 0 => some .sys | 1 => some .cel | 2 => some .key | 3 => some .trl | 4 => some .pge | 5 => some .lpe
  | 6 => some .prs | 7 => some .saf | 8 => some .net | 9 => some .tim | 10 => some .fbs | 11 => some .bsi
  | 12 => some .upd | 13 => some .pwr | _ => none

/-- First address of peripheral space. -/
def periBase : Nat := 0x40000000

/-- Block and offset of an address of Table 1.9. -/
def blockAt (addr : Nat) : Option (Block × Nat) :=
  if addr < periBase then none
  else match blockOfIdx ((addr - periBase) / 0x10000) with
    | some b => some (b, (addr - periBase) % 0x10000)
    | none => none

/-- The island that holds a block's registers (Table 1.9). -/
def blockIsland : Block → Island
  | .sys | .upd | .pwr => .cluster
  | .cel => .cluster
  | .key => .key
  | .trl | .prs | .saf => .trellis
  | .pge => .prog
  | .lpe => .loop
  | .net | .tim => .ring
  | .fbs | .bsi => .fbus

/-- R48: a block answers when its island is in RUN; SYS, UPD, PWR and CEL always do. On FLO-946-00 the PRS window reads 0 and takes
no write (R8). -/
def blockUp (s : State) : Block → Bool
  | .sys | .upd | .pwr | .cel => true
  | .prs => s.sys.variant != .v00 && isRun s .trellis
  | b => isRun s (blockIsland b)

/-- Registers in every enabled cask's window map: SYS_CASK_SELF, SYS_CASK_DENIED (spec/02), SYS_ID and SYS_ID_VARIANT (spec/16)
to read; CEL_STATUS to read and the query bank (spec/12); the KEY_OP registers (spec/14); PRS_STATUS, PRS_FREQ and PRS_CMD_STATUS to read (R247). -/
def alwaysMapped (b : Block) (off : Nat) (isWrite : Bool) : Bool :=
  match b with
  | .sys => !isWrite && (off == 0x0200 || off == 0x0204 || off == 0x0000 || off == 0x0004)
  | .cel => (off == 0 && !isWrite) || (0x0200 ≤ off && off ≤ 0x0244)
  | .key => 0x0040 ≤ off && off ≤ 0x0050
  | .prs => !isWrite && (off == 0 || off == 4 || off == 8)
  | _ => false

/-- R75: an access is permitted when it falls in an entry of the cask that grants its direction. -/
def windowOk (s : State) (cask : Nat) (b : Block) (off : Nat) (isWrite : Bool) : Bool :=
  ((caskRec s cask).enabled && alwaysMapped b off isWrite) ||
  (Tbl.at s.img.windows cask []).any (fun w =>
    w.block == blockIdx b && w.first ≤ off && off ≤ w.last && (if isWrite then w.canWrite else w.canRead))

/-- Offsets of the query bank of CEL (spec/12). -/
def inQueryBank (off : Nat) : Bool := 0x0200 ≤ off && off ≤ 0x0244

/-- Table 2.9: register access of cask 63, with the test commands its chapters name (R74). -/
def serviceOk (b : Block) (off : Nat) (isWrite : Bool) : Bool :=
  match b with
  | .sys | .pwr | .saf => !isWrite
  | .upd => !isWrite && !(0x0800 ≤ off && off ≤ 0x0820)
  | .net => !isWrite || off == 0x0300
  | .tim => !isWrite
  | .fbs => !isWrite || (0x0800 ≤ off && off < 0x0900)
  | .trl => 0x0100 ≤ off && off ≤ 0x0108
  | .cel => inQueryBank off
  | _ => false

/-- What becomes of a register access. -/
inductive Access where
  | ok | denied | down
  deriving DecidableEq, Repr

/-- The checks of a register access, in order: the window map of a partition (R41), Table 2.9 for cask 63, which exists
only in SERVICE (R74), the island in RUN (R48). -/
def access (s : State) (iss : Issuer) (b : Block) (off : Nat) (isWrite : Bool) : Access :=
  if iss.partition && !windowOk s iss.cask b off isWrite then .denied
  else if iss.cask.val == 63 && !(s.key.lc == .service && serviceOk b off isWrite) then .denied
  else if !blockUp s b then .down
  else .ok

/-- R41: the refused access ends in a bus error and records CASK_DENIED (Table 2.13, kind 0x08). -/
def busDenied (iss : Issuer) (b : Block) (off : Nat) (isWrite : Bool) (s : State) : State :=
  { denied 0x08 (blockIdx b) off 0xFF (b2n isWrite) iss.cask s with reply := .busError }

/-- A register command: a write of the register at `off` that, once it passes the checks, does `op`. -/
def regCmd (iss : Issuer) (b : Block) (off : Nat) (op : State → State) (s : State) : Out :=
  match access s iss b off true with
  | .denied => .next (busDenied iss b off true s)
  | .down => .next { s with reply := .none }
  | .ok => .next (op { s with reply := .none })

/-- A register read that, once it passes the checks, answers `val` and does `op`; in an island not in RUN it answers 0
(R48). -/
def regRead (iss : Issuer) (b : Block) (off : Nat) (val : State → Word) (op : State → State) (s : State) : Out :=
  match access s iss b off false with
  | .denied => .next (busDenied iss b off false s)
  | .down => .next { s with reply := .word 0 }
  | .ok => .next { op s with reply := .word (val s) }

/-- Key of the bank of an issuer where the spec keeps one per core and cask. -/
def bankKey (iss : Issuer) : Nat := iss.cask.val * 4 + iss.core.val

/-- Key of a register without a home of its own. -/
def ctlKey (b : Block) (off : Nat) : Nat := blockIdx b * 0x10000 + off

/-- Set the RW fields of such a register. -/
def setCtl (b : Block) (off : Nat) (w : Word) (s : State) : State :=
  { s with sys.regs := Tbl.put s.sys.regs (ctlKey b off) w }

/-- The issuer is cask 0. -/
def isOwner (iss : Issuer) : Bool := iss.cask.val == 0

/-- Base and length in bytes of a cask's partition in dynamic RAM; the base is free (assumption 6). -/
def partRange (s : State) (cask : Nat) : Nat × Nat :=
  (Tbl.at s.img.partBase cask 0, (caskRec s cask).partMib * 0x100000)

/-- `[a, a + n)` lies wholly inside a cask's partition. Before an image divides the memory, cask 0 (Gengal firmware) is held to no
partition (DEDUCED, log entry 23). -/
def inPartition (s : State) (cask a n : Nat) : Bool :=
  let (b, l) := partRange s cask
  (b ≤ a && a + n ≤ b + l) || (!s.img.loaded && cask == 0)

end Sys2Proof.Machine
end

