-- ==== Sys2Proof/Machine/Trellis.lean ====
section
/-!
DEFINITION. Trellis.lean: the scan frame, cells, output starts and the group budget, calibration, cell tests, and the point access
registers (spec/03_trellis_point_fabric.md; spec/16_power_reset_startup.md R489 to R491 for the start budgets).
-/
namespace Sys2Proof.Machine

/-! ### Codes (Table 3.11) -/

def cTEST_PASS : Nat := 0x0300
def cTEST_FAIL_ACCURACY : Nat := 0x0301
def cTEST_FAIL_WIRING : Nat := 0x0302
def cTEST_BUSY : Nat := 0x0303
def cTEST_MODE : Nat := 0x0304
def cTEST_STOPPED : Nat := 0x0305
def cTEST_TIMEOUT : Nat := 0x0306
def cTEST_RELOAD : Nat := 0x0307
def cPWR_DEFER : Nat := 0x0F14
def cPWR_OVERSIZE : Nat := 0x0F15

/-- Mode code of Table 3.1. -/
def modeCode : CellMode → Nat
  | .off => 0 | .di => 1 | .count => 2 | .aiV => 3 | .aiMa => 4 | .pt1000 => 5 | .ntc10k => 6 | .res => 7
  | .doOut => 8 | .pwm => 9 | .aoV => 10 | .aoMa => 11

/-- The modes with a converter channel: every analogue cell and every output's readback (R98, R99). -/
def isAnalogue : CellMode → Bool
  | .off | .di | .count => false
  | _ => true

/-- The analogue input modes. -/
def isAnalogueIn : CellMode → Bool
  | .aiV | .aiMa | .pt1000 | .ntc10k | .res => true
  | _ => false

/-- Upper and lower end of a mode's range in its units (Table 3.1). -/
def spanOf : CellMode → Int × Int
  | .aiV | .aoV => (0, 10)
  | .aiMa | .aoMa => (4, 20)
  | .pt1000 => (-50, 150)
  | .ntc10k => (-40, 120)
  | .res => (0, 100000)
  | .doOut => (0, 500)
  | .pwm => (0, 1)
  | _ => (0, 1)

/-- Span of a mode in its units. -/
def spanF (m : CellMode) : F64 := F64.ofInt ((spanOf m).2 - (spanOf m).1)

/-- `x` outside a mode's range. -/
def outOfRange (m : CellMode) (x : F64) : Bool :=
  F64.lt x (F64.ofInt (spanOf m).1) || F64.lt (F64.ofInt (spanOf m).2) x

/-! ### Scanning a cell (R82, R84, R518) -/

/-- What one scan of an analogue input gives: the value in the mode's units and the conditions of Table 3.2 that hold. -/
def scanInput (m : CellMode) (x : F64) : F64 × List Byte :=
  match m with
  | .aiV =>
    let lo : F64 := 0
    let hi := F64.ofInt 11
    (F64.max lo (F64.min hi x), if outOfRange .aiV x then [qRange] else [])
  | .aiMa =>
    let v := F64.max 0 (F64.min (F64.ofInt 24) x)
    (v, if F64.lt x (F64.ofDec 36 1) then [qOpen]
        else if F64.lt (F64.ofInt 23) x then [qShort]
        else if F64.lt (F64.ofInt 21) x then [qRange] else [])
  | .pt1000 =>
    let t := Config.sensorTemp 5 x
    (t, if F64.lt (F64.ofInt 40000) x then [qOpen]
        else if F64.lt x (F64.ofInt 500) then [qShort]
        else if outOfRange .pt1000 t then [qRange] else [])
  | .ntc10k =>
    let t := Config.sensorTemp 6 x
    (t, if F64.lt (F64.ofInt 2000000) x then [qOpen]
        else if F64.lt x (F64.ofInt 50) then [qShort]
        else if outOfRange .ntc10k t then [qRange] else [])
  | .res => (F64.max 0 (F64.min (F64.ofInt 100000) x), if outOfRange .res x then [qRange] else [])
  | _ => (x, [])

/-- R98: a raw reading corrected by the running coefficients. -/
def corrected (c : CellSt) (raw : F64) : F64 := F64.mul (F64.sub raw c.calO) c.calG

/-- The command an output drives: clamped to its range (Table 3.2), 0.0 off; in AO_MA exactly 0.0 is the off state (R516). -/
def clampCmd (m : CellMode) (x : F64) : F64 :=
  if F64.eq x 0 then 0
  else match m with
    | .doOut => F64.ofInt 1
    | .pwm => F64.max 0 (F64.min (F64.ofInt 1) x)
    | _ => F64.max (F64.ofInt (spanOf m).1) (F64.min (F64.ofInt (spanOf m).2) x)

/-- The raw command is not finite (R85). -/
def cmdNonFinite (s : State) (c : CellSt) : Bool :=
  c.fixed.isNone && (match pt? s c.rc.point with | some p => !isFinite p.type p.value | none => false)

/-- Conditions of Table 3.2 at an output's scan, `mA` its corrected readback. -/
def scanOutput (s : State) (n : Nat) (c : CellSt) (rb : F64) : List Byte :=
  let cmd := rawCommand s c
  let m := c.rc.mode
  let open' :=
    if (m == .doOut || m == .pwm) && c.driving && (m == .doOut || c.pwmOn) && !startQueued s (.cell n) &&
       F64.lt rb (F64.ofInt 2) then [qOpen] else []
  let overOne :=
    if c.tripAt.isSome || (m == .aoMa && c.driving && F64.lt rb (F64.mul (F64.ofDec 9 1) c.drive)) then [qOverload] else []
  let range :=
    if cmdNonFinite s c then [qRange]
    else if (m == .aoV && outOfRange .aoV cmd) || (m == .aoMa && !F64.eq cmd 0 && outOfRange .aoMa cmd) then [qRange] else []
  open' ++ overOne ++ range

/-- BAD_SUPPLY of the cell's group (R79), first of Table 3.2 that holds shown as FAULT. -/
def withSupply (s : State) (n : Nat) (l : List Byte) : List Byte :=
  if (group s (n / 16)).fsupOk then l else qSupply :: l

/-- FAULT of TRL_CELL_n_STAT: the first condition of Table 3.2, 0 when none holds. -/
def faultOf (l : List Byte) : Byte := if l.isEmpty then 0 else qualityOf l

/-- A cell's point is held UNDER_TEST: its test runs (R101). -/
def testHolds (s : State) (n : Nat) : Bool := s.trl.test.state == .running && s.trl.test.cell == n

/-- A cell writes its point: the source is the cell, which carries no cask tag of its own (R70). -/
def writeCell (n i : Nat) (v : DWord) (q : Byte) (st : DWord) (s : State) : State :=
  match pt? s i with
  | some p => writeQ pvCell n p.cask i v q st s
  | none => s

/-- Stamp of a cell's slot within its frame (Table 3.3: 50 us per slot). -/
def slotStamp (s : State) (n i : Nat) : DWord := ptStamp s i + BitVec.ofNat 64 (50000 * (n % 16))

/-- Stamp of an output cell's readback, sampled 40 us into its slot (Table 3.3, step 4). -/
def readbackStamp (s : State) (n i : Nat) : DWord := slotStamp s n i + 40000

/-- Steps 3 to 5 of a due input cell. -/
def scanIn (n : Nat) (raw : F64) (s : State) : State :=
  let c := cell s n
  let i := c.rc.point
  match c.rc.mode with
  | .di =>
    let l := withSupply s n []
    let s := updCell n (fun c => { c with fault := faultOf l }) s
    if testHolds s n then s
    else writeCell n i (if c.filtOn then 1 else 0) (qualityOf l) (if c.sampled then c.filtStamp else slotStamp s n i) s
  | .count =>
    let l := withSupply s n []
    let s := updCell n (fun c => { c with fault := faultOf l }) s
    if testHolds s n then s else writeCell n i c.count (qualityOf l) (slotStamp s n i) s
  | m =>
    if isAnalogueIn m then
      let r := scanInput m (corrected c raw)
      let l := withSupply s n r.2
      let s := updCell n (fun c => { c with fault := faultOf l }) s
      let ty := match pt? s i with | some p => p.type | none => 3
      if testHolds s n then s
      else writeCell n i (valueOf ty r.1) (qualityOf (l ++ (if c.calFault then [qCal] else []))) (slotStamp s n i) s
    else s

/-- Step 2 of a due output cell: an admitted start drives, a cell already driving follows its command, and nothing is driven
while the group's supply is low or the start is deferred (R79, R85, R105). -/
def applyOutput (n : Nat) (s : State) : State :=
  let cmd := command s (cell s n)
  if !(group s (n / 16)).fsupOk then s
  else if !cmdOn cmd then
    updCell n (fun c => { c with drive := 0, driving := false, pwmOn := false, go := false, tripAt := none }) s
  else if (cell s n).driving then updCell n (fun c => { c with drive := clampCmd c.rc.mode cmd }) s
  else if (cell s n).go then
    updCell n (fun c => { c with drive := clampCmd c.rc.mode cmd, driving := true, go := false, tripAt := none,
                                 pwmOn := true, pwmAt := s.now }) s
  else s

/-- Steps 4 and 5 of a due output cell: its readback. -/
def scanOut (n : Nat) (raw : F64) (s : State) : State :=
  let c := cell s n
  let rb := corrected c raw
  let l := withSupply s n (scanOutput s n c rb)
  let s := updCell n (fun c => { c with fault := faultOf l }) s
  match c.rc.rbPoint with
  | some i =>
    if testHolds s n then s
    else
      let ty := match pt? s i with | some p => p.type | none => 3
      writeCell n i (valueOf ty rb) (qualityOf (l ++ (if c.calFault then [qCal] else []))) (readbackStamp s n i) s
  | none => s

/-- The reading a frame brings for a cell; a cell with no reading listed reads a free value of its own (assumption 3). -/
def readingFor (s : State) (rs : List (Nat × F64)) (n : Nat) : F64 := (Tbl.get? rs n).getD (Config.freeReading s.fresh n)

/-- R83: a cell is due in frame k when k mod P equals its phase; before CELLS activates a sealed-table cell is due in every
frame (R487). -/
def isDue (c : CellSt) (k : Nat) : Bool :=
  c.rc.mode != .off && (c.fixed.isSome || k % c.rc.periodMs == c.rc.phaseMs)

/-- A due cell runs its slot; its test, if ended, no longer holds its point (R104). -/
def runSlot (rs : List (Nat × F64)) (n : Nat) (s : State) : State :=
  let r := readingFor s rs n
  let s := if isOutput (cell s n).rc.mode then scanOut n r (applyOutput n s) else scanIn n r s
  if s.trl.test.heldCell == some n && !testHolds s n then { s with trl.test.heldCell := none } else s

/-! ### Output starts (R105, R489 to R491) -/

/-- Start current held in a group. -/
def groupHeld (s : State) (g : Nat) : Nat :=
  s.pwr.startHeld.foldl (fun a h => match h.who with | .cell n => if n / 16 == g then a + h.ma else a | .port _ => a) 0

/-- Start current held against the module budget. -/
def moduleHeld (s : State) : Nat := s.pwr.startHeld.foldl (fun a h => a + h.ma) 0

/-- Release every start current whose time has come: a cell's at its frame boundary, a port's 250 ms after admission. -/
def releaseStarts (k : Nat) (s : State) : State :=
  let due (h : StartHold) : Bool := match h.who with | .cell _ => h.till ≤ k | .port _ => h.till ≤ s.now
  let gone := s.pwr.startHeld.filter due
  let s := { s with pwr.startHeld := s.pwr.startHeld.filter (fun h => !due h) }
  gone.foldl (fun s h => match h.who with
    | .cell n => updCell n (fun c => { c with holdTo := none }) s
    | .port _ => s) s

/-- R490: a request of `ma` against a budget with `held` held: within the budget, or oversize and nothing held. -/
def fits (held ma budget : Nat) : Bool := held + ma ≤ budget || (budget < ma && held == 0)

/-- PWR_OVERSIZE when an oversize request is admitted (R490). -/
def noteOversize (b : Bool) (ma : Nat) (s : State) : State := if b then record cPWR_OVERSIZE 0 (d2 ma) s else s

/-- R490: a request not admitted when first examined counts once; PWR_DEFER at most once a second. -/
def noteDefer (s : State) : State :=
  let s := { s with pwr.deferCount := satInc s.pwr.deferCount max32 }
  if (match s.pwr.deferAt with | some t => decide (s.now < t + 1000000000) | none => false) then s
  else record cPWR_DEFER 0 [] { s with pwr.deferAt := some s.now }

/-- Mark a waiting start as deferred. -/
def markDeferred (w : StartWho) (s : State) : State :=
  { s with pwr.startQ := s.pwr.startQ.map (fun r => if r.who == w then { r with deferred := true } else r) }

/-- A start examined and not admitted. -/
def deferStart (r : StartReq) (s : State) : State := if r.deferred then s else noteDefer (markDeferred r.who s)

/-- What the examination of one start gives. -/
inductive Verdict where
  | passed | groupFull | moduleFull | accepted
  deriving DecidableEq, Repr

/-- Examine one start at step 1 of frame `k`; `blocked` are the groups with an earlier due start still waiting (R106); none
starts in a group without its supply (R79). -/
def judgeStart (k : Nat) (blocked : List Nat) (r : StartReq) (s : State) : Verdict :=
  match r.who with
  | .cell n =>
    let c := cell s n
    if !isDue c k || blocked.contains (n / 16) || !(group s (n / 16)).fsupOk then .passed
    else if !fits (groupHeld s (n / 16)) c.rc.iStart (nthD s.pwr.power.bGrp (n / 16) 0) then .groupFull
    else if !fits (moduleHeld s) c.rc.iStart s.pwr.power.fsupStartMa then .moduleFull
    else .accepted
  | .port p =>
    let ma := nthD s.pwr.power.daliMa p 0
    if ma == 0 || fits (moduleHeld s) ma s.pwr.power.fsupStartMa then .accepted else .moduleFull

/-- Admit one start: it holds its current until its release. -/
def admitStart (k : Nat) (r : StartReq) (s : State) : State :=
  let s := unqueueStart r.who s
  match r.who with
  | .cell n =>
    let c := cell s n
    let oversize := nthD s.pwr.power.bGrp (n / 16) 0 < c.rc.iStart || s.pwr.power.fsupStartMa < c.rc.iStart
    let s := noteOversize oversize c.rc.iStart s
    let s := updCell n (fun c => { c with holdTo := some (k + c.rc.tStart), go := isOutput c.rc.mode,
                                          loopOn := c.loopOn || (c.rc.mode == .aiMa && c.rc.loopPower) }) s
    { s with pwr.startHeld := s.pwr.startHeld ++ [{ who := r.who, ma := c.rc.iStart, till := k + c.rc.tStart }] }
  | .port p =>
    let ma := nthD s.pwr.power.daliMa p 0
    let s := noteOversize (s.pwr.power.fsupStartMa < ma) ma s
    let s := { s with pwr.portAdmit := Tbl.put s.pwr.portAdmit p s.now }
    if ma == 0 then s
    else { s with pwr.startHeld := s.pwr.startHeld ++ [{ who := r.who, ma := ma, till := s.now + 250000000 }] }

/-- Step 1: work down the module queue (R106, R490): a start refused by its group is passed over and blocks its group; the
first refusal by the module budget ends the pass. -/
def admitPass (k : Nat) (blocked : List Nat) (q : List StartReq) (s : State) : State :=
  match q with
  | [] => s
  | r :: rest =>
    match judgeStart k blocked r s with
    | .passed => admitPass k blocked rest s
    | .groupFull =>
      let b := match r.who with | .cell n => [n / 16] | .port _ => []
      admitPass k (b ++ blocked) rest (deferStart r s)
    | .moduleFull => deferStart r s
    | .accepted => admitPass k blocked rest (admitStart k r s)

/-- Step 1 of a frame: releases first, then admissions, none during a VIN-fail warning or in standby (R490). -/
def startStep (k : Nat) (s : State) : State :=
  let s := releaseStarts k s
  if s.pwr.warn || s.pwr.standby then s else admitPass k [] s.pwr.startQ s

/-! ### Calibration (R98, R99) -/

/-- One calibration of a cell with zero reading `z` and span reading `sp`. -/
def calibrate (n : Nat) (z sp : F64) (s : State) : State :=
  let c := cell s n
  let om := z
  let gm := F64.div (Config.spanNominal (modeCode c.rc.mode)) (F64.sub sp z)
  let lim := F64.ofDec 1 3
  let far := F64.lt (F64.mul lim (spanF c.rc.mode)) (F64.abs (F64.sub om c.calO)) || F64.lt lim (F64.abs (F64.sub gm c.calG))
  if far then
    let s' := updCell n (fun c => { c with calFault := true, calGood := 0 }) s
    if c.calFault then s' else record (Config.openCode 0).toNat 0 (d2 n) s'
  else if c.calFault then
    updCell n (fun c => { c with calGood := c.calGood + 1, calFault := c.calGood + 1 < 4 }) s
  else
    let step (a m : F64) : F64 := F64.add a (F64.div (F64.sub m a) (F64.ofInt 16))
    updCell n (fun c => { c with calO := step c.calO om, calG := step c.calG gm }) s

/-- Steps 6 to 8 of one group: its calibration slot, in rotation. -/
def calibrateGroup (refs : List (Nat × F64 × F64)) (g : Nat) (s : State) : State :=
  let gr := group s g
  let n := 16 * g + gr.calSlot
  let s := { s with trl.groups := Tbl.put s.trl.groups g { gr with calSlot := (gr.calSlot + 1) % 16 } }
  if isAnalogue (cell s n).rc.mode then
    match Tbl.get? refs g with
    | some r => calibrate n r.1 r.2 s
    | none => calibrate n (Config.freeReading s.fresh (256 + 2 * g)) (Config.freeReading s.fresh (257 + 2 * g)) s
  else s

/-! ### The frame (R83, R84) -/

/-- A record takes effect in a cell: a mode it did not have begins anew; a cell that keeps its mode keeps its count, its filter and its
drive (R81, R487), and what its record switches on is a start (R105). -/
def activateCell (n : Nat) (rc : CellRec) (s : State) : State :=
  let c := cell s n
  let same := c.rc.mode == rc.mode
  let c' : CellSt :=
    if same then { c with rc := rc, next := none, fixed := none }
    else { rc := rc }
  let s := updCell n (fun _ => c') (if same then s else unqueueStart (.cell n) s)
  let wants := (isOutput rc.mode && !c'.driving && cmdOn (command s c')) || (rc.mode == .aiMa && rc.loopPower && !c'.loopOn)
  if wants then queueStart (.cell n) s else s

/-- Records waiting for their frame boundary take effect (R83). -/
def activatePending (s : State) : State :=
  s.trl.cells.foldl (fun s e => match e.2.next with | some rc => activateCell e.1 rc s | none => s) s

/-- Cells in the order of their slots. -/
def slotOrder : List Nat := (List.range 16).flatMap (fun sl => (List.range 16).map (fun g => 16 * g + sl))

/-- R332: flow contexts released since the last frame are freed, with their loads. -/
def freeReleased (s : State) : State :=
  let free (s : State) (f : Nat) : State :=
    let fl := Tbl.at s.net.flows f {}
    let pe := min fl.periodMs 1000
    let ws := Tbl.mapV s.net.loads (fun k w => if fl.rx || fl.st == .free || k % pe != fl.phase then w else w - fl.wireNs)
    { s with net.loads := ws, net.flows := Tbl.del s.net.flows f }
  { s.net.releasing.foldl free s with net.releasing := [] }

/-- One frame of Table 3.3: due list and starts, the slots, calibration, and the frame count. -/
def frameOp (rs : List (Nat × F64)) (refs : List (Nat × F64 × F64)) (s : State) : State :=
  let k := s.trl.frame
  let s := bumpFree (freeReleased (activatePending s))
  let s := startStep k s
  let s := slotOrder.foldl (fun s n => if isDue (cell s n) k then runSlot rs n s else s) s
  let s := (List.range 16).foldl (fun s g => calibrateGroup refs g s) s
  { s with trl.frame := k + 1, trl.frameAt := s.trl.frameAt + 1000000 }

/-- TRELLIS_FRAME: at a frame boundary, while Trellis is in RUN. -/
def execTrellisFrame (rs : List (Nat × F64)) (refs : List (Nat × F64 × F64)) (s : State) : Out :=
  .next (if isRun s .trellis && s.trl.frameAt ≤ s.now then frameOp rs refs s else s)

/-- START_RELEASE (R105): the frame boundary at k + T_START has come. -/
def execStartRelease (n : Fin 256) (s : State) : Out :=
  .next (match (cell s n).holdTo with
    | some t =>
      if t ≤ s.trl.frame then
        updCell n (fun c => { c with holdTo := none })
          { s with pwr.startHeld := s.pwr.startHeld.filter (fun h => h.who != .cell n.val) }
      else s
    | none => s)

/-! ### Inputs between scans (R81) -/

/-- DI_SAMPLE: the comparator with its hysteresis, and when it first showed its present state. -/
def diSampleOp (n : Nat) (mv : Nat) (s : State) : State :=
  let c := cell s n
  if c.rc.mode != .di then s
  else
    let on := if 15000 ≤ mv then true else if mv ≤ 5000 then false else c.cmpOn
    let st := ptStamp s c.rc.point
    if !c.sampled then
      updCell n (fun c => { c with sampled := true, cmpOn := on, cmpSince := s.now, cmpStamp := st, filtStamp := st }) s
    else if on == c.cmpOn then s
    else updCell n (fun c => { c with cmpOn := on, cmpSince := s.now, cmpStamp := st }) s

def execDiSample (n : Fin 256) (mv : Nat) (s : State) : Out :=
  .next (if isRun s .trellis then diSampleOp n mv s else s)

/-- DI_FILTER_ELAPSED: the comparator state has been stable for FILTER; the value changes with the stamp of the first
sample of that state. -/
def execDiFilterElapsed (n : Fin 256) (s : State) : Out :=
  let c := cell s n
  .next (if isRun s .trellis && c.rc.mode == .di && c.sampled && c.cmpOn != c.filtOn &&
            c.cmpSince + c.rc.filterMs * 1000000 ≤ s.now then
    updCell n (fun c => { c with filtOn := c.cmpOn, filtStamp := c.cmpStamp }) s else s)

/-- COUNT_EDGE: a pulse with high and low times of at least 40 us counts; one the 20 us glitch filter removes does not;
between the two the spec does not say (a free value decides, assumption 3). -/
def countOp (n : Nat) (hi lo : Nat) (s : State) : State :=
  if (cell s n).rc.mode != .count then s
  else
    let inc := updCell n (fun c => { c with count := c.count + 1 })
    if 40 ≤ hi && 40 ≤ lo then inc s
    else if hi < 20 || lo < 20 then s
    else if (freeNow s).toNat % 2 == 1 then inc (bumpFree s) else bumpFree s

def execCountEdge (n : Fin 256) (hi lo : Nat) (s : State) : Out :=
  .next (if isRun s .trellis then countOp n hi lo s else s)

/-! ### Outputs between scans (R79, R80, R82, R85, R107) -/

/-- OUTPUT_TURN_OFF: an off command, a lowered AO value or a non-finite command takes effect at once; a queued start whose
command is off again is withdrawn (R107). -/
def turnOffOp (n : Nat) (s : State) : State :=
  let c := cell s n
  let cmd := command s c
  if !isOutput c.rc.mode then s
  else if !cmdOn cmd then
    unqueueStart (.cell n) (updCell n (fun c =>
      { c with drive := 0, driving := false, pwmOn := false, go := false, tripAt := none }) s)
  else if (c.rc.mode == .aoV || c.rc.mode == .aoMa) && c.driving && F64.lt (clampCmd c.rc.mode cmd) c.drive then
    updCell n (fun c => { c with drive := clampCmd c.rc.mode cmd }) s
  else s

def execOutputTurnOff (n : Fin 256) (s : State) : Out := .next (if isRun s .trellis then turnOffOp n s else s)

/-- DO_SHORT_TRIP (R80): at 1.0 A or more a DO or PWM output trips; its next scan reports it (R82). -/
def execDoShortTrip (n : Fin 256) (ma : Nat) (s : State) : Out :=
  let c := cell s n
  .next (if (c.rc.mode == .doOut || c.rc.mode == .pwm) && c.driving && 1000 ≤ ma then
    updCell n (fun c => { c with driving := false, pwmOn := false, drive := 0, go := false, tripAt := some s.now }) s else s)

/-- DO_TRIP_RETRY (R82): once per 1,000 ms a tripped DO cell retries as a start. -/
def execDoTripRetry (n : Fin 256) (s : State) : Out :=
  let c := cell s n
  .next (match c.tripAt with
    | some t =>
      if isRun s .trellis && t + 1000000000 ≤ s.now && cmdOn (command s c) then
        queueStart (.cell n) (updCell n (fun c => { c with tripAt := some s.now }) s)
      else s
    | none => s)

/-- The cells of a group. -/
def groupCells (g : Nat) : List Nat := (List.range 16).map (fun i => 16 * g + i)

/-- GROUP_FSUP_LOW (R79): below 16.0 V every driver of the group is off; its cells report BAD_SUPPLY from their next due scan
on (R82). -/
def fsupLowOp (g : Nat) (s : State) : State :=
  let s := { s with trl.groups := Tbl.put s.trl.groups g { group s g with fsupOk := false } }
  (groupCells g).foldl (fun s n =>
    updCell n (fun c => { c with drive := 0, driving := false, pwmOn := false, go := false, loopOn := false })
      (unqueueStart (.cell n) s)) s

def execGroupFsupLow (g : Fin 16) (mv : Nat) (s : State) : Out := .next (if mv < 16000 then fsupLowOp g s else s)

/-- A cell that its command or its record wants on, as a start (R79). -/
def wantsStart (s : State) (n : Nat) : Bool :=
  let c := cell s n
  (isOutput c.rc.mode && cmdOn (command s c) && !c.driving) || (c.rc.mode == .aiMa && c.rc.loopPower && !c.loopOn)

/-- GROUP_FSUP_RESTORED (R79): at or above 17.0 V for 10 ms, each output commanded on resumes as a start. -/
def fsupRestoredOp (g : Nat) (s : State) : State :=
  let s := { s with trl.groups := Tbl.put s.trl.groups g { group s g with fsupOk := true } }
  (groupCells g).foldl (fun s n => if wantsStart s n then queueStart (.cell n) (updCell n (fun c => { c with go := false }) s)
    else s) s

def execGroupFsupRestored (g : Fin 16) (mv heldMs : Nat) (s : State) : Out :=
  .next (if 17000 ≤ mv && 10 ≤ heldMs && !(group s g).fsupOk then fsupRestoredOp g s else s)

/-- Period of a PWM cell in ns, 10 ms to 60 s (Table 3.1; assumption 12). -/
def pwmPeriodNs (n : Nat) : Nat := max 10000000 (min 60000000000 (Config.pwmPeriod n))

/-- On time of a duty in a period, to the larger of 10 us and 1/65,536 of the period (Table 3.1). -/
def pwmOnNs (n : Nat) (duty : F64) : Nat :=
  let p := pwmPeriodNs n
  let res := max 10000 (p / 65536)
  (Float.roundFin Float.b64 (F64.div (F64.mul duty (F64.ofInt p)) (F64.ofInt res)).toNat).toNat * res

/-- PWM_PHASE_EDGE: the output switches off at its duty edge and on at its period edge. -/
def pwmEdgeOp (n : Nat) (s : State) : State :=
  let c := cell s n
  if c.rc.mode != .pwm || !c.driving then s
  else if c.pwmAt + pwmPeriodNs n ≤ s.now then updCell n (fun c => { c with pwmOn := true, pwmAt := s.now }) s
  else if c.pwmOn && c.pwmAt + pwmOnNs n c.drive ≤ s.now then updCell n (fun c => { c with pwmOn := false }) s
  else s

def execPwmPhaseEdge (n : Fin 256) (s : State) : Out := .next (if isRun s .trellis then pwmEdgeOp n s else s)

/-! ### Point access registers (R86, R108, R109) -/

/-- The 32 bytes of an entry (Table 3.4). -/
def entryBytes (p : Point) : List Byte :=
  toLe 8 p.value.toNat ++ toLe 8 p.stamp.toNat ++ toLe 1 p.type ++ [p.quality] ++ toLe 1 p.cask ++ toLe 1 p.prov ++
  toLe 2 p.seq ++ toLe 2 p.src ++ toLe 1 p.domain ++ List.replicate 7 0

/-- An issuer's bank of point access registers. -/
def ptBank (s : State) (iss : Issuer) : PtBank := Tbl.at s.trl.banks (bankKey iss) {}

/-- Change an issuer's bank. -/
def updPtBank (iss : Issuer) (f : PtBank → PtBank) (s : State) : State :=
  { s with trl.banks := Tbl.upd s.trl.banks (bankKey iss) {} f }

/-- POINT_SNAPSHOT: the entry in one Trellis cycle, or DENIED or UNDEFINED with data 0. -/
def snapshotOp (iss : Issuer) (i : Nat) (s : State) : State :=
  match pt? s i with
  | none => updPtBank iss (fun b => { b with sel := i, undef := true, denied := false, data := [] }) s
  | some p =>
    if mayRead p iss.cask then
      updPtBank iss (fun b => { b with sel := i, undef := false, denied := false, data := entryBytes p }) s
    else
      denied 0x01 3 i p.cask 0 iss.cask
        (updPtBank iss (fun b => { b with sel := i, undef := false, denied := true, data := [] }) s)

def execPointSnapshot (iss : Issuer) (i : Fin 16384) (s : State) : Out := regCmd iss .trl 0x0010 (snapshotOp iss i) s

/-- R109, and the quality codes TRL_PT_WR_CMD takes: GOOD or an uncertain code. -/
def partWriteOk (iss : Issuer) (p : Point) (q : Byte) : Bool :=
  iss.partition && p.srcKind == pvPartition && p.srcIndex == iss.cask.val && p.cask == iss.cask.val &&
  [qGood, qRange, qCal, qTime].contains q

/-- PARTITION_POINT_WRITE. -/
def partWriteOp (iss : Issuer) (i : Nat) (q : Byte) (s : State) : State :=
  let b := ptBank s iss
  let v : DWord := BitVec.ofNat 64 (b.wrHi.toNat * 2 ^ 32 + b.wrLo.toNat)
  match pt? s i with
  | some p =>
    if partWriteOk iss p q then
      putEntry i pvPartition v q (ptStamp s i) (updPtBank iss (fun b => { b with wrRefused := false }) s)
    else refuseWrite i pvPartition iss.cask (updPtBank iss (fun b => { b with wrRefused := true }) s)
  | none => refuseWrite i pvPartition iss.cask (updPtBank iss (fun b => { b with wrRefused := true }) s)

def execPartitionPointWrite (iss : Issuer) (i : Fin 16384) (q : Byte) (s : State) : Out :=
  regCmd iss .trl 0x0048 (partWriteOp iss i q) s

/-! ### Cell tests (R100 to R104) -/

/-- R102: the test fits the mode (Table 3.9). -/
def testFits (type : Nat) (m : CellMode) : Bool :=
  match type with
  | 1 => isAnalogueIn m
  | 2 => m == .aiMa || m == .pt1000 || m == .ntc10k || m == .res || m == .doOut
  | 3 => m == .doOut || m == .pwm
  | 4 => m == .aoV || m == .aoMa
  | _ => false

/-- The point a test holds: an input cell's value point, an output cell's readback point (R101). -/
def testPoint (c : CellSt) : Option Nat := if isOutput c.rc.mode then c.rc.rbPoint else some c.rc.point

/-- End the test with a code, recorded with the cell and the type (R104). -/
def endTest (code : Nat) (err : Word) (s : State) : State :=
  let t := s.trl.test
  record code t.cask (d1 t.cell ++ d1 t.type ++ d2 code)
    { s with trl.test := { t with state := .done, code := code, err := err } }

/-- CELL_TEST_START: refused while a test runs; a type that does not fit ends at once; otherwise the point takes UNDER_TEST and
keeps VALUE, STAMP and SEQ (R101); Trellis holds it (R90). -/
def testStartOp (iss : Issuer) (n type timeout : Nat) (s : State) : State :=
  if !(iss.cask.val == 0 || iss.cask.val == 63) then s
  else
  let s := setCtl .trl 0x0100 (packW [(16, timeout % 64), (8, type % 16), (0, n % 256)]) s
  if s.trl.test.state == .running then
    { s with trl.test.code := cTEST_BUSY, reply := .code cTEST_BUSY }
  else
    let c := cell s n
    let s := { s with trl.test.cell := n, trl.test.type := type, trl.test.timeout := timeout,
                      trl.test.cask := iss.cask.val }
    if !testFits type c.rc.mode then endTest cTEST_MODE 0 s
    else
      let s := { s with trl.test.state := .running, trl.test.startedAt := s.now, trl.test.err := 0,
                        trl.test.heldCell := some n }
      match testPoint c with
      | some i => match pt? s i with
        | some p => setPt i { p with quality := qTest, prov := pvTrellis } s
        | none => s
      | none => s

def execCellTestStart (iss : Issuer) (n : Fin 256) (type : Fin 16) (timeout : Fin 64) (s : State) : Out :=
  regCmd iss .trl 0x0100 (testStartOp iss n type timeout) s

/-- CELL_TEST_STOP. -/
def testStopOp (s : State) : State :=
  if s.trl.test.state == .running then endTest cTEST_STOPPED s.trl.test.err s else s

def execCellTestStop (iss : Issuer) (s : State) : Out := regCmd iss .trl 0x0100 testStopOp s

/-- The largest error Table 3.1 allows a reading of a reference (type 1), in the mode's units. -/
def maxError (m : CellMode) (ref reading : F64) : F64 :=
  match m with
  | .pt1000 => F64.ofDec 3 1
  | .ntc10k => if F64.le 0 ref && F64.le ref (F64.ofInt 50) then F64.ofDec 3 1 else F64.ofInt 1
  | .res => F64.add (F64.mul (F64.ofDec 2 3) reading) (F64.ofInt 10)
  | m => F64.mul (F64.ofDec 1 3) (spanF m)

/-- One result (reference or command, reading or readback) passes (Table 3.9). -/
def resultOk (type : Nat) (m : CellMode) (r : F64 × F64) : Bool :=
  let e := F64.abs (F64.sub r.2 r.1)
  match type with
  | 1 => F64.le e (maxError m r.1 r.2)
  | 4 => F64.le e (F64.mul (F64.ofDec 4 3) (spanF m))
  | 3 => F64.lt r.2 (F64.ofInt 1) && F64.le r.1 (F64.ofInt 250)
  | _ => true

/-- Signed error of a result in ppm of span. -/
def errPpm (m : CellMode) (r : F64 × F64) : Int :=
  let e := F64.div (F64.mul (F64.sub r.2 r.1) (F64.ofInt 1000000)) (spanF m)
  if F64.fin e then Float.roundFin Float.b64 e.toNat else 0

/-- The error of greatest magnitude. -/
def worstErr (m : CellMode) (rs : List (F64 × F64)) : Int :=
  rs.foldl (fun w r => if w.natAbs < (errPpm m r).natAbs then errPpm m r else w) 0

/-- CELL_TEST_COMPLETE: every check judged against Table 3.9. For type 3 a result is (microseconds, readback mA); for type 2 the
wire check tells. -/
def testCompleteOp (rs : List (F64 × F64)) (wireOk : Bool) (s : State) : State :=
  let t := s.trl.test
  let m := (cell s t.cell).rc.mode
  if t.state != .running then s
  else
    let ok := rs.all (resultOk t.type m) && (wireOk || t.type != 2)
    let bad := if t.type == 1 || t.type == 4 then cTEST_FAIL_ACCURACY else cTEST_FAIL_WIRING
    let err := if t.type == 1 || t.type == 4 then w32 (twos 32 (worstErr m rs)) else 0
    endTest (if ok then cTEST_PASS else bad) err s

def execCellTestComplete (rs : List (F64 × F64)) (wireOk : Bool) (s : State) : Out :=
  .next (if isRun s .trellis then testCompleteOp rs wireOk s else s)

/-- Timeout in s: 0 and values above 60 mean 60. -/
def testTimeoutS (t : Nat) : Nat := if t = 0 || 60 < t then 60 else t

/-- CELL_TEST_TIMEOUT. -/
def execCellTestTimeout (s : State) : Out :=
  let t := s.trl.test
  .next (if t.state == .running && t.startedAt + testTimeoutS t.timeout * 1000000000 ≤ s.now then
    endTest cTEST_TIMEOUT t.err s else s)

end Sys2Proof.Machine
end

