-- ==== Sys2Proof/Machine/PowerOps.lean ====
section
/-!
DEFINITION. PowerOps.lean: wake-ups under the power budget manager and the shape of an abort, shared by the chapters that use
them (spec/16_power_reset_startup.md R489, R490, R494, R496).
-/
namespace Sys2Proof.Machine

/-- I_WAKE at VIN 24 V in mA and T_WAKE in us (Table 16.5). -/
def wakeFigures : Island → Nat × Nat
  | .key => (50, 300)
  | .trellis => (60, 300)
  | .ring => (150, 1000)
  | .fbus => (90, 500)
  | .prog => (120, 500)
  | .loop => (80, 500)
  | .press => (140, 2000)
  | _ => (0, 0)

/-- Ask for a wake-up: it waits in the one queue, in arrival order (R490). -/
def queueWake (i : Island) (resume : Bool) (s : State) : State :=
  if s.pwr.wakeQ.any (fun r => r.isl == i) || islState s i == .run || islState s i == .waking then s
  else { s with pwr.wakeQ := s.pwr.wakeQ ++ [{ isl := i, resume := resume }] }

/-- Set a target's DONE bit and clear its PENDING bit (R494). -/
def abortDone (bit : Nat) (s : State) : State :=
  { s with pwr.abortDone := s.pwr.abortDone ||| 2 ^ bit,
           pwr.abortPending := if bitOf s.pwr.abortPending bit then s.pwr.abortPending - 2 ^ bit else s.pwr.abortPending }

/-- R494, R496: the abort of a target: one not in RUN is done at once with nothing recorded; otherwise its effect comes about
within its bound and DONE is set. -/
def abortTarget (bit : Nat) (i : Island) (eff : State → State) (s : State) : State :=
  if isRun s i then abortDone bit (eff s) else abortDone bit s

/-- Cask 0 issues an abort by writing SYS_ABORT (R494). -/
def abortCmd (iss : Issuer) (bit : Nat) (i : Island) (eff : State → State) (s : State) : Out :=
  regCmd iss .sys 0x0030 (fun s => if isOwner iss then abortTarget bit i eff s else s) s

/-- TRELLIS_ABORT (R495): a running cell test ends with TEST_STOPPED; scanning, mirrors and starts go on. -/
def execTrellisAbort (iss : Issuer) (s : State) : Out := abortCmd iss 3 .trellis testStopOp s

end Sys2Proof.Machine
end

