-- ==== Sys2Proof/Machine/Cellar.lean ====
section
/-!
DEFINITION. Cellar.lean: the clock, the backup supply and the rate trim of the Cellar (spec/12_cellar.md R362 to R383).
-/
namespace Sys2Proof.Machine

/-! ### Codes (Table 12.5) -/

def cCEL_OK : Nat := 0x0A00
def cCEL_DATE_INVALID : Nat := 0x0A01
def cCEL_DST_STATE : Nat := 0x0A02
def cCEL_RANGE : Nat := 0x0A03
def cCEL_UNTRUSTED : Nat := 0x0A04
def cCEL_STATE : Nat := 0x0A05
def cCEL_RTC_SET : Nat := 0x0A10
def cCEL_RTC_SYNC : Nat := 0x0A11
def cCEL_DST : Nat := 0x0A12
def cCEL_RTC_RANGE : Nat := 0x0A13
def cCEL_OSC_STOP : Nat := 0x0A14
def cCEL_NEAR_LOSS : Nat := 0x0A15
def cCEL_TO_BATTERY : Nat := 0x0A16
def cCEL_TO_MAIN : Nat := 0x0A17
def cCEL_TRIM : Nat := 0x0A18
def cCEL_TRIM_LIMIT : Nat := 0x0A19
def cCEL_TIME_MARK : Nat := 0x0A1A
def cCEL_EVT_DROPPED : Nat := 0x0A1B
def cCEL_VBAT_LOW : Nat := 0x0A1D
def cCEL_ABORTED : Nat := 0x0A1E

/-! ### Calendar arithmetic (R369 to R371, R376) -/

/-- R370. -/
def isLeap (y : Nat) : Bool := y % 4 == 0 && (y % 100 != 0 || y % 400 == 0)

/-- Length of a month. -/
def monthDays (y m : Nat) : Nat :=
  if m == 2 then (if isLeap y then 29 else 28) else if m == 4 || m == 6 || m == 9 || m == 11 then 30 else 31

/-- Days from 1970-01-01 to a date from 1970 on. -/
def daysOf (y m d : Nat) : Nat :=
  let y' := if m ≤ 2 then y - 1 else y
  let yoe := y' % 400
  let doy := (153 * (if m ≤ 2 then m + 9 else m - 3) + 2) / 5 + d - 1
  y' / 400 * 146097 + (yoe * 365 + yoe / 4 - yoe / 100 + doy) - 719468

/-- The date a number of days after 1970-01-01. -/
def dateOf (n : Nat) : Nat × Nat × Nat :=
  let z := n + 719468
  let doe := z % 146097
  let yoe := (doe - doe / 1460 + doe / 36524 - doe / 146096) / 365
  let doy := doe - (365 * yoe + yoe / 4 - yoe / 100)
  let mp := (5 * doy + 2) / 153
  let m := if mp < 10 then mp + 3 else mp - 9
  (yoe + z / 146097 * 400 + (if m ≤ 2 then 1 else 0), m, doy - (153 * mp + 2) / 5 + 1)

/-- WDAY, from 1 Monday to 7 Sunday (R369). -/
def wday (c : Cal) : Nat := (daysOf c.year c.month c.day + 3) % 7 + 1

/-- Seconds of a calendar since 1970-01-01 00:00:00, local. -/
def calSecs (c : Cal) : Nat := daysOf c.year c.month c.day * 86400 + c.hour * 3600 + c.min * 60 + c.sec

/-- The calendar a number of seconds after 1970-01-01 00:00:00. -/
def calOf (n : Nat) : Cal :=
  let d := dateOf (n / 86400)
  { year := d.1, month := d.2.1, day := d.2.2, hour := n % 86400 / 3600, min := n % 3600 / 60, sec := n % 60 }

/-- First and last second of R369's years. -/
def calFirst : Nat := calSecs {}
def calLast : Nat := calSecs { year := 2399, month := 12, day := 31, hour := 23, min := 59, sec := 59 }

/-- A second lies within 2000-01-01 to 2399-12-31. -/
def inRange (n : Int) : Bool := (calFirst : Int) ≤ n && n ≤ (calLast : Int)

/-- Two BCD digits. -/
def bcd2 (n : Nat) : Nat := n / 10 % 10 * 16 + n % 10

/-- CEL_RTC_TIME. -/
def timeWord (c : Cal) : Word := packW [(16, bcd2 c.hour), (8, bcd2 c.min), (0, bcd2 c.sec)]

/-- CEL_RTC_DATE. -/
def dateWord (c : Cal) : Word :=
  packW [(24, bcd2 (c.year / 100)), (16, bcd2 (c.year % 100)), (13, wday c), (8, bcd2 c.month), (0, bcd2 c.day)]

/-- The value of BCD digits, none when a nibble is above 9. -/
def ofBcd (n : Nat) : Option Nat := if n % 16 ≤ 9 && n / 16 ≤ 9 then some (n / 16 * 10 + n % 16) else none

/-- The calendar of written words, none when the date or time is impossible (R372). -/
def calOfWords (t d : Word) : Option Cal :=
  match ofBcd (fld t.toNat 16 6), ofBcd (fld t.toNat 8 7), ofBcd (fld t.toNat 0 7), ofBcd (fld d.toNat 24 8),
        ofBcd (fld d.toNat 16 8), ofBcd (fld d.toNat 8 5), ofBcd (fld d.toNat 0 6) with
  | some h, some mi, some s, some y1, some y2, some mo, some da =>
    let y := y1 * 100 + y2
    if h ≤ 23 && mi ≤ 59 && s ≤ 59 && 2000 ≤ y && y ≤ 2399 && 1 ≤ mo && mo ≤ 12 && 1 ≤ da && da ≤ monthDays y mo then
      some { year := y, month := mo, day := da, hour := h, min := mi, sec := s }
    else none
  | _, _, _, _, _, _, _ => none

/-- LEAP and ZONE_MIN (CEL_ZONE). -/
def leapOf (w : Word) : Int := sOf 16 (fld w.toNat 16 16)
def zoneOf (w : Word) : Int := sOf 16 (fld w.toNat 0 16)

/-- Seconds from local civil time to the domain 0 scale: R376 with the DST flag. -/
def localToDom (s : State) (dst : Bool) : Int :=
  leapOf s.cel.zone - zoneOf s.cel.zone * 60 - (if dst then 3600 else 0)

/-! ### Prescaler and trim (R369, R382) -/

/-- TRIM as a number of pulses (R380), 0 in prior mode, where no pulse is added or skipped (R383). -/
def trimVal (s : State) : Int := if s.sys.active then 0 else sOf 16 s.cel.trim.toNat

/-- R382: adjustments made in second `k` of a period. -/
def adjustments (trim : Int) (k : Nat) : Nat := (k + 1) * trim.natAbs / 16384 - k * trim.natAbs / 16384

/-- Prescaler value after `n` raw pulses of a second: adjustments are made at 16,384 and then at 24,576. -/
def prescAfter (trim : Int) (k n : Nat) : Nat :=
  let a := adjustments trim k
  if trim < 0 then
    let n1 := if 1 ≤ a && 16384 < n then n - 1 else n
    if 2 ≤ a && 24576 < n1 then n1 - 1 else n1
  else
    let n1 := if 1 ≤ a && 16384 < n then n + 1 else n
    if 2 ≤ a && 24576 < n1 then n1 + 1 else n1

/-- Raw pulses since the present second began, by the nominal crystal (MODEL). -/
def rawPulses (s : State) : Nat := ((s.cel.oscStop.getD s.now) - s.cel.secAt) * 32768 / 1000000000

/-- The prescaler (R369, R371). -/
def presc (s : State) : Nat :=
  if s.cel.range then 32767 else min 32767 (prescAfter (trimVal s) (s.cel.secCount % 16384) (rawPulses s))

/-- The domain 0 time the calendar stands for, in ns (R376). -/
def calDomain0 (s : State) : Int :=
  ((calSecs s.cel.cal : Int) + localToDom s s.cel.dst) * 1000000000 + ((presc s * 1000000000 / 32768 : Nat) : Int)

/-! ### Events of the Cellar -/

/-- BCD bytes of a calendar: year, month, day, hour, minute, second. -/
def calBytes (c : Cal) : List Byte :=
  d1 (bcd2 (c.year / 100)) ++ d1 (bcd2 (c.year % 100)) ++ d1 (bcd2 c.month) ++ d1 (bcd2 c.day) ++ d1 (bcd2 c.hour) ++
  d1 (bcd2 c.min) ++ d1 (bcd2 c.sec)

/-- The Cellar's copy of domain 0 in ns. -/
def celNs (s : State) : Nat := localNs s .cellar 0

/-! ### Posted writes (R31, R374) -/

/-- Post a CEL write: it returns at once and waits for its crossing. -/
def postCel (iss : Issuer) (op : PostedOp) (s : State) : State :=
  { s with cel.posted := s.cel.posted ++ [{ core := iss.core, cask := iss.cask, op := op }] }

/-- Code of an issuer's last command. -/
def setCelStatus (cask code : Nat) (s : State) : State := { s with cel.cmdStatus := Tbl.put s.cel.cmdStatus cask code }

/-- Set the calendar with a DST bit, the prescaler 0 (R372, R378). -/
def setCalendar (c : Cal) (dst : Bool) (s : State) : State :=
  { s with cel.cal := c, cel.secAt := s.now, cel.dst := dst, cel.savDst := dst, cel.trusted := true, cel.range := false,
           cel.oscStop := s.cel.oscStop.map (fun _ => s.now) }

/-- LOAD at the Cellar (R372). -/
def celLoadOp (cask : Nat) (dst : Bool) (s : State) : State :=
  match calOfWords s.cel.setTime s.cel.setDate with
  | some c => record cCEL_RTC_SET 0 [] (setCelStatus cask cCEL_OK (setCalendar c dst s))
  | none =>
    let s := setCelStatus cask cCEL_DATE_INVALID { s with cel.dateInvalid := true }
    record cCEL_DATE_INVALID 0 (d4 s.cel.setTime.toNat ++ d4 s.cel.setDate.toNat) s

/-- Local seconds of a whole second of domain 0 (R376 backwards). -/
def domToLocal (s : State) (dst : Bool) (sec : Nat) : Int := (sec : Int) - localToDom s dst

/-- SYNC arriving at the Cellar (R378). -/
def celSyncOp (cask : Nat) (dst : Bool) (s : State) : State :=
  let sec := celNs s / 1000000000 + 1
  if !trusted s 0 then setCelStatus cask cCEL_UNTRUSTED s
  else if !inRange (domToLocal s dst sec) then setCelStatus cask cCEL_RANGE s
  else setCelStatus cask cCEL_OK { s with cel.sync := some { dst := dst, at0 := sec } }

/-- DST_ADD and DST_SUB at the Cellar (R375). -/
def dstOp (cask : Nat) (add : Bool) (s : State) : State :=
  let n : Int := (calSecs s.cel.cal : Int) + (if add then 3600 else -3600)
  if s.cel.dst == add then setCelStatus cask cCEL_DST_STATE s
  else if !inRange n then setCelStatus cask cCEL_RANGE s
  else
    let s := { s with cel.cal := calOf n.toNat, cel.dst := add, cel.savDst := add }
    record cCEL_DST 0 (d1 (b2n add)) (setCelStatus cask cCEL_OK s)

/-- A CEL_ZONE write at the Cellar: refused whole when ZONE_MIN lies outside -720 to +840. -/
def zoneOp (cask : Nat) (w : Word) (s : State) : State :=
  if -720 ≤ zoneOf w && zoneOf w ≤ 840 then setCelStatus cask cCEL_OK { s with cel.zone := w, cel.savZone := w }
  else setCelStatus cask cCEL_RANGE s

/-- TRIM changes: recorded with the old and new values, and the candidate is cleared (R381). -/
def setTrim (w : Word) (s : State) : State :=
  let old := s.cel.trim
  record cCEL_TRIM 0 (d2 old.toNat ++ d2 w.toNat) { s with cel.trim := w, cel.savTrim := w, cel.cand := none }

/-- A CEL_TRIM write at the Cellar (R381); in prior mode only the capacitance code is held (R383). -/
def trimOp (w : Word) (s : State) : State := setTrim (w32 (w.toNat % (if s.sys.active then 64 else 65536))) s

/-- A CEL_TRIM_CFG write at the Cellar (R383): REF is refused whole without Press. -/
def trimCfgOp (cask : Nat) (w : Word) (s : State) : State :=
  if s.sys.variant == .v00 && bitOf w.toNat 1 then setCelStatus cask cCEL_STATE s
  else
    let w := w32 (w.toNat % 8)
    let s := { s with cel.trimCfg := w, cel.savCfg := w, cel.winOk := s.cel.winOk && bitOf w.toNat 0 }
    setCelStatus cask cCEL_OK s

/-- Clear the RW1C bits of CEL_STATUS. -/
def statusOp (w : Word) (s : State) : State :=
  let n := w.toNat
  { s with cel.osf := s.cel.osf && !bitOf n 0, cel.pendLost := s.cel.pendLost && !bitOf n 1,
           cel.nearLoss := s.cel.nearLoss && !bitOf n 2, cel.dateInvalid := s.cel.dateInvalid && !bitOf n 3 }

/-- A posted write takes effect. -/
def postedOp (p : Posted) (s : State) : State :=
  match p.op with
  | .load d => celLoadOp p.cask d s
  | .sync d => celSyncOp p.cask d s
  | .dstAdd => dstOp p.cask true s
  | .dstSub => dstOp p.cask false s
  | .zone w => zoneOp p.cask w s
  | .trim w => trimOp w s
  | .trimCfg w => trimCfgOp p.cask w s
  | .setTime w => { s with cel.setTime := w }
  | .setDate w => { s with cel.setDate := w }
  | .status w => statusOp w s

/-- CEL_POSTED_WRITE_EFFECT (R31, R374): the oldest posted write takes effect at the Cellar. -/
def execCelPostedWriteEffect (s : State) : Out :=
  .next (match s.cel.posted with
    | [] => s
    | p :: r => postedOp p { s with cel.posted := r })

/-- WPEND of a core (R374). -/
def wpend (s : State) (core : Nat) : Bool := s.cel.posted.any (fun p => p.core == core)

def execLoadCalendar (iss : Issuer) (dst : Bool) (s : State) : Out := regCmd iss .cel 0x0028 (postCel iss (.load dst)) s
def execSyncCalendar (iss : Issuer) (dst : Bool) (s : State) : Out := regCmd iss .cel 0x0028 (postCel iss (.sync dst)) s
def execDstAdd (iss : Issuer) (s : State) : Out := regCmd iss .cel 0x0028 (postCel iss .dstAdd) s
def execDstSub (iss : Issuer) (s : State) : Out := regCmd iss .cel 0x0028 (postCel iss .dstSub) s
def execCelZoneWrite (iss : Issuer) (w : Word) (s : State) : Out := regCmd iss .cel 0x0030 (postCel iss (.zone w)) s
def execCelTrimWrite (iss : Issuer) (w : Word) (s : State) : Out := regCmd iss .cel 0x0040 (postCel iss (.trim w)) s
def execCelTrimCfgWrite (iss : Issuer) (w : Word) (s : State) : Out := regCmd iss .cel 0x0044 (postCel iss (.trimCfg w)) s

/-- SYNC_TAKES_EFFECT (R378). -/
def execSyncTakesEffect (s : State) : Out :=
  .next (match s.cel.sync with
    | some w =>
      if w.at0 * 1000000000 ≤ celNs s then
        let old := s.cel.cal
        let s := setCalendar (calOf (domToLocal s w.dst w.at0).toNat) w.dst { s with cel.sync := none }
        record cCEL_RTC_SYNC 0 (calBytes old ++ calBytes s.cel.cal) s
      else s
    | none => s)

/-- Query bank of an issuer, one per core and cask. -/
def qBank (s : State) (k : Nat) : QBank := Tbl.at s.cel.banks k {}

/-- Change it. -/
def updQBank (k : Nat) (f : QBank → QBank) (s : State) : State :=
  { s with cel.banks := Tbl.upd s.cel.banks k {} f }

/-- RTC_TIME_READ (R373): DATE and SUBSEC of the same cycle are latched in the issuer's bank. -/
def execRtcTimeRead (iss : Issuer) (s : State) : Out :=
  regRead iss .cel 0x0010 (fun s => timeWord s.cel.cal)
    (fun s => updQBank (bankKey iss) (fun b => { b with date := dateWord s.cel.cal, subsec := w32 (presc s) }) s) s

/-! ### The crystal (R369, R371, R379) -/

/-- One second of the calendar (R370, R371). -/
def calTick (s : State) : State :=
  let s := { s with cel.secAt := s.now }
  if s.cel.range then s
  else if calSecs s.cel.cal == calLast then record cCEL_RTC_RANGE 0 [] { s with cel.range := true }
  else { s with cel.cal := calOf (calSecs s.cel.cal + 1) }

/-- RTC_SECOND: the prescaler rolls over after the second's raw pulses and adjustments (R382); an operating second is counted on
main (R388). -/
def execRtcSecond (pulses : Nat) (s : State) : Out :=
  .next (if s.cel.oscStop == none && 32768 ≤ prescAfter (trimVal s) (s.cel.secCount % 16384) pulses then
    let s := calTick { s with cel.secCount := s.cel.secCount + 1 }
    if s.cel.battery then s else { s with cel.opSec := satInc s.cel.opSec max32 }
  else s)

/-- CEL_OSC_STOP (R379): no crystal edge for 1 ms. -/
def execCelOscStop (silentUs : Nat) (s : State) : Out :=
  .next (if 1000 ≤ silentUs && s.cel.oscStop == none then
    record cCEL_OSC_STOP 0 []
      { s with cel.oscStop := some s.now, cel.osf := true, cel.trusted := false, cel.winOk := false }
  else s)

/-- OSC_RESTART: the calendar resumes from where it stopped. -/
def execOscRestart (s : State) : Out :=
  .next (match s.cel.oscStop with
    | some t => { s with cel.oscStop := none, cel.secAt := s.cel.secAt + (s.now - t) }
    | none => s)

/-! ### Supply (R362 to R368) -/

/-- CEL_TO_BATTERY (R363). -/
def execCelToBattery (railMv vbatMv : Nat) (s : State) : Out :=
  .next (if !s.cel.battery && railMv < vbatMv then
    record cCEL_TO_BATTERY 0 [] { s with cel.battery := true, cel.winOk := false, cel.minRail := vbatMv / 10 }
  else s)

/-- R365: retention is lost: registers, calendar and pending store take their reset values. -/
def retentionLoss (s : State) : State :=
  let c := s.cel
  let r : Cel :=
    { savZone := c.savZone, savTrim := c.savTrim, savCfg := c.savCfg, savDst := c.savDst, savOpSec := c.savOpSec,
      savPcycle := c.savPcycle, opSec := c.savOpSec, pcycle := satInc c.savPcycle 0xFFFFFF, queue := c.queue, owed := c.owed,
      store := c.store, seq := c.seq, ovr := c.ovr, markCycle := c.markCycle, markSec := c.markSec, lastWrite := c.lastWrite,
      secAt := s.now, minRail := c.minRail, restore := true }
  record cCEL_OSC_STOP 0 [] { s with cel := r }

/-- The pending store is written to the recorder, each record with the seconds since its event (R367). -/
def flushPend (s : State) : State :=
  let s' := s.cel.pend.foldl (fun s p =>
    recordF p.ev.code p.ev.cask (p.ev.flags ||| 2) (padTo 10 p.ev.data ++ d4 ((s.now - p.at0) / 1000000000)) s) s
  { s' with cel.pend := [] }

/-- CEL_TO_MAIN (R364 to R367). -/
def execCelToMain (railMv vbatMv minRailMv heldUs : Nat) (s : State) : Out :=
  .next (if s.cel.battery && vbatMv + 120 < railMv && 2000 ≤ heldUs then
    let s := { s with cel.battery := false, cel.pcycle := satInc s.cel.pcycle 0xFFFFFF, cel.minRail := minRailMv / 10,
                      cel.vbatAt := none, cel.vbatTold := false }
    let s := record cCEL_TO_MAIN 0 [] s
    let s := if minRailMv < 1600 then retentionLoss s else s
    let s := if minRailMv < 2000 then
        record cCEL_NEAR_LOSS 0 (d2 (minRailMv / 10) ++ d2 (vbatMv / 10)) { s with cel.nearLoss := true } else s
    flushPend s
  else s)

/-- An event the Cellar itself raises: it passes no queue of the Cluster side (R386), and on battery it is pended (R367). -/
def celOwn (e : Event) : Bool :=
  (e.code / 256 == 0x0A && e.code != cCEL_EVT_DROPPED) || e.code == 0x0D11 || e.code == 0x0D12

/-- PENDED_EVENT (R367): on battery an event of the Cellar is kept in the pending store; a ninth replaces the oldest. -/
def execPendedEvent (s : State) : Out :=
  .next (match s.cel.battery, s.arising.find? celOwn with
    | true, some e =>
      let l := s.cel.pend ++ [{ ev := e, at0 := s.now }]
      { s with arising := s.arising.eraseP celOwn, cel.pend := l.drop (l.length - 8) }
    | _, _ => s)

/-- VBAT_MEASURE (R368): at each switch to main and every 24 h. -/
def execVbatMeasure (millivolts : Nat) (s : State) : Out :=
  let due : Bool := match s.cel.vbatAt with | some t => decide (t + 86400000000000 ≤ s.now) | none => true
  .next (if !s.cel.battery && due then
    let low : Bool := millivolts < 2200
    let s := { s with cel.vbat := millivolts / 10, cel.vbatAt := some s.now, cel.vbatLow := low }
    if low && !s.cel.vbatTold then record cCEL_VBAT_LOW 0 (d2 (millivolts / 10)) { s with cel.vbatTold := true } else s
  else s)

/-! ### Rate trim (R380 to R383) -/

/-- AUTO, REF and NOM60. -/
def celAuto (s : State) : Bool := bitOf s.cel.trimCfg.toNat 0
def celMains (s : State) : Bool := s.sys.active && bitOf s.cel.trimCfg.toNat 1
def celNom60 (s : State) : Bool := bitOf s.cel.trimCfg.toNat 2

/-- Length of a trim window in s. -/
def winLen (s : State) : Nat := if celMains s then 86400 else 16384

/-- Number of the trim window the Cellar's copy of domain 0 lies in. -/
def winNow (s : State) : Nat := celNs s / 1000000000 / winLen s

/-- A window may be valid at this moment (R380). -/
def winHolds (s : State) : Bool := !s.cel.battery && trusted s 0 && !s.cel.osf && celAuto s

/-- Round half away from zero of `n / d`, for a positive `d`. -/
def roundAway (n d : Int) : Int := if 0 ≤ n then (2 * n + d) / (2 * d) else -((-2 * n + d) / (2 * d))

/-- R381: a valid count `C`. -/
def trimCount (c : Int) (s : State) : State :=
  let t := sOf 16 s.cel.trim.toNat
  let s := { s with cel.meas := BitVec.ofInt 32 c, cel.trimOk := true, cel.lastTrim := 1 }
  let set (v : Int) (s : State) : State :=
    if v == t then s else setTrim (w32 (twos 16 v)) s
  if 32767 < c.natAbs then
    record cCEL_TRIM_LIMIT 0 (d4 (twos 32 c)) { set (if 0 < c then 32767 else -32767) s with cel.lastTrim := 4 }
  else if (c - t).natAbs ≤ 1074 then set c s
  else match s.cel.cand with
    | some c1 => if (c - c1).natAbs ≤ 1074 then set (roundAway (c1 + c) 2) s
      else { s with cel.cand := some c, cel.trimOk := false, cel.lastTrim := 2 }
    | none => { s with cel.cand := some c, cel.trimOk := false, cel.lastTrim := 2 }

/-- R383: the capacitance code follows the rate error, in units of 10^-8. -/
def trimPrior (e : Int) (s : State) : State :=
  let code := sOf 6 s.cel.trim.toNat
  let step := clampI (roundAway e 80) (-4) 4
  let new := clampI (code - step) (-32) 31
  let s := { s with cel.meas := BitVec.ofInt 32 e, cel.trimOk := true, cel.lastTrim := 1 }
  if new == code then s else setTrim (w32 (twos 6 new)) s

/-- The rate error in 0.01 ppm: against the ring, raw pulses of the window; against the mains, its crossings. -/
def rateError (s : State) (pulses crossings : Nat) : Int :=
  if celMains s then
    let x : Int := if celNom60 s then 5184000 else 4320000
    roundAway ((x - crossings) * 100000000) x
  else roundAway (((pulses : Int) - 536870912) * 100000000) 536870912

/-- TRIM_WINDOW_END (R380, R381, R383). -/
def execTrimWindowEnd (pulses crossings : Nat) (s : State) : Out :=
  .next (if s.cel.winK != winNow s then
    let ok := s.cel.winOk && winHolds s && s.cel.winSteps == (dom s 0).steps && (!celMains s || isRun s .press)
    let s := if ok then
        let s := { s with cel.valid := satInc s.cel.valid 0xFFFF }
        if s.sys.active then trimPrior (rateError s pulses crossings) s else trimCount (536870912 - (pulses : Int)) s
      else { s with cel.invalid := satInc s.cel.invalid 0xFF, cel.lastTrim := 3 }
    { s with cel.winK := winNow s, cel.winOk := winHolds s, cel.winSteps := (dom s 0).steps }
  else s)

/-! ### Firmware's checks (R376, R378) -/

/-- LEAP_CHECK (R376): once a second. -/
def execLeapCheck (s : State) : Out :=
  let due : Bool := match s.cel.leapAt with | some t => decide (t + 1000000000 ≤ s.now) | none => true
  .next (if isRun s .cluster && due then
    let s := { s with cel.leapAt := some s.now }
    if s.tim.utcValid && s.tim.utcOfs.toNat != fld s.cel.zone.toNat 16 16 then
      postCel Issuer.firmware (.zone (packW [(16, s.tim.utcOfs.toNat), (0, fld s.cel.zone.toNat 0 16)])) s
    else s
  else s)

/-- CALENDAR_CHECK (R378): each time domain 0 becomes trusted, and every 60 s while it is, at a difference of 100 ms or more. -/
def execCalendarCheck (s : State) : Out :=
  let due : Bool := match s.cel.calAt with | some t => decide (t + 60000000000 ≤ s.now) | none => true
  let tr := trusted s 0
  .next (if !isRun s .cluster then s
    else if tr && !s.cel.calTrust then
      postCel Issuer.firmware (.sync s.cel.savDst) { s with cel.calTrust := true, cel.calAt := some s.now }
    else if !tr then { s with cel.calTrust := false }
    else if due then
      let d := (calDomain0 s - (domNs s 0 : Int)).natAbs
      let s := { s with cel.calAt := some s.now }
      if 100000000 ≤ d then postCel Issuer.firmware (.sync s.cel.savDst) s else s
    else s)

/-- R365: firmware restores ZONE, TRIM and TRIM_CFG by posted writes in the start stage. -/
def restoreCellar (s : State) : State :=
  if s.cel.restore then
    let p (op : PostedOp) := postCel Issuer.firmware op
    p (.trimCfg s.cel.savCfg) (p (.trim s.cel.savTrim) (p (.zone s.cel.savZone) { s with cel.restore := false }))
  else s

/-- OPSEC_SAVE (R388). -/
def execOpsecSave (s : State) : Out :=
  .next (if s.cel.battery then s else { s with cel.savOpSec := s.cel.opSec, cel.savPcycle := s.cel.pcycle })

/-- CEL_STATUS for a core. -/
def celStatus (s : State) (core : Nat) : Word :=
  let c := s.cel
  packW [(11, b2n s.sys.active), (10, b2n c.trimOk), (9, b2n c.vbatLow), (8, b2n c.battery), (7, b2n (wpend s core)),
    (6, b2n c.dst), (5, b2n c.range), (4, b2n c.trusted), (3, b2n c.dateInvalid), (2, b2n c.nearLoss),
    (1, b2n c.pendLost), (0, b2n c.osf)]

end Sys2Proof.Machine
end

