-- ==== Sys2Proof/Machine/Egress.lean ====
section
/-!
DEFINITION. Egress.lean: the module's own frames and the queues of the two ring ports (spec/10_ring_and_redundancy.md R307, R323,
R325).
-/
namespace Sys2Proof.Machine

/-- A frame of the module itself, before its header fields are filled in. -/
def ownFrame (s : State) (k : FrameKind) : Frame :=
  { kind := k, src := s.sys.mac, hsrSeq := s.net.hsrSeq, keyPhase := false, cask := 0,
    srcAddr := s.sys.address.toNat, flow := 0xFFFF, fseq := 0, stamp := stampOf s .ring 0, keyRef := 0,
    payload := [], tag := [], fcsOk := true, own := false, transit := false }

/-- One ring port. -/
def portSt (s : State) : Port → PortSt
  | .a => s.net.portA
  | .b => s.net.portB

/-- Change one ring port. -/
def updPort (p : Port) (f : PortSt → PortSt) (s : State) : State :=
  match p with
  | .a => { s with net.portA := f s.net.portA }
  | .b => { s with net.portB := f s.net.portB }

/-- The other ring port. -/
def otherPort : Port → Port
  | .a => .b
  | .b => .a

/-- Class 1 event messages a port may send in one Trellis frame (R325). -/
def eventAllowance (s : State) : Nat := s.net.ptpNs / 784

/-- IEEE 1588 event messages (R325). -/
def isEventMsg : FrameKind → Bool
  | .sync | .pdelay => true
  | _ => false

/-- A frame joins a port's egress; a port without link takes none (R318). -/
def egressTo (p : Port) (f : PortSt → PortSt) (s : State) : State :=
  updPort p (fun q => if q.link then f q else q) s

/-- R325: queue an event message in class 1 while the frame's allowance lasts, otherwise in class 2. -/
def queueEvent (p : Port) (f : Frame) (s : State) : State :=
  let a := eventAllowance s
  let fr := s.trl.frame
  egressTo p (fun q =>
    let n := if q.eventFrame == fr then q.events else 0
    if n < a then { q with q1 := q.q1 ++ [f], events := n + 1, eventFrame := fr }
    else { q with q2 := q.q2 ++ [f], events := n, eventFrame := fr }) s

/-- Queue a class 1 frame. -/
def queue1 (p : Port) (f : Frame) (s : State) : State := egressTo p (fun q => { q with q1 := q.q1 ++ [f] }) s

/-- Queue a transit best-effort frame. -/
def queue2 (p : Port) (f : Frame) (s : State) : State := egressTo p (fun q => { q with q2 := q.q2 ++ [f] }) s

/-- Queue a local best-effort frame of a cask. -/
def queue3 (p : Port) (cask : Nat) (f : Frame) (s : State) : State :=
  egressTo p (fun q => { q with q3 := Tbl.upd q.q3 cask [] (fun l => l ++ [f]) }) s

/-- The HSR sequence number of the next own frame (16 bits). -/
def nextHsr (s : State) : State := { s with net.hsrSeq := (s.net.hsrSeq + 1) % 65536 }

/-- Send an own frame on both ports as two copies with one HSR sequence number (R307, R318). -/
def sendBoth (q : Port → Frame → State → State) (f : Frame) (s : State) : State :=
  nextHsr (q .b f (q .a f s))

end Sys2Proof.Machine
end

