-- ==== Sys2Proof/Machine/PgeOps.lean ====
section
/-!
DEFINITION. PgeOps.lean: the program engine's shared operations: releases, dispatch order, raised reasons, modes and the end of a
cycle (spec/04_program_engine.md).
-/
namespace Sys2Proof.Machine

/-! ### Codes (Tables 4.12 and 5.2) -/

def cPGE_OK : Nat := 0x0400
def cPGE_OVERRUN : Nat := 0x0401
def cPGE_WATCHDOG : Nat := 0x0402
def cPGE_DENIED : Nat := 0x0403
def cPGE_ARITH : Nat := 0x0404
def cPGE_BAD_REAL : Nat := 0x0405
def cPGE_ILLEGAL : Nat := 0x0406
def cPGE_ISLAND : Nat := 0x0407
def cPGE_STATION_LOST : Nat := 0x0408
def cPGE_EVT_LOST : Nat := 0x0409
def cPGE_RETAIN_LOST : Nat := 0x040A
def cPGE_ERRTASK_FAULT : Nat := 0x040B
def cPGE_CMD_STATE : Nat := 0x0410
def cPGE_NO_TASKS : Nat := 0x0411
def cPGE_SEALED : Nat := 0x0412
def cPGE_ABORTED : Nat := 0x0413
def cPGE_HOLD_EXPIRED : Nat := 0x0414
def cEXCH_DONE : Nat := 0x0420
def cEXCH_MIGRATE_FAULT : Nat := 0x0421
def cEXCH_TIME : Nat := 0x0422
def cEXCH_ABORTED : Nat := 0x0423
def cEXCH_COLD_INIT : Nat := 0x0425

/-- The default action of a reason is STOP (Table 4.12). -/
def defaultStop (code : Nat) : Bool :=
  code == cPGE_WATCHDOG || code == cPGE_DENIED || code == cPGE_ILLEGAL || code == cPGE_ERRTASK_FAULT

/-- The action of a reason is fixed (Table 4.12). -/
def fixedAction (code : Nat) : Bool := code == cPGE_DENIED || code == cPGE_ILLEGAL || code == cPGE_ERRTASK_FAULT

/-! ### Tasks, casks, processors -/

/-- Module task number (R110). -/
def mtn (cask task : Nat) : Nat := 32 * cask + task
/-- A task. -/
def taskSt (s : State) (n : Nat) : TaskSt := Tbl.at s.pge.tasks n {}
/-- Change a task. -/
def updTask (n : Nat) (f : TaskSt → TaskSt) (s : State) : State :=
  { s with pge.tasks := Tbl.upd s.pge.tasks n {} f }
/-- Change a task's cycle, if it has one in progress. -/
def updCyc (n : Nat) (f : Cycle → Cycle) (s : State) : State := updTask n (fun t => { t with cyc := t.cyc.map f }) s
/-- A cask's program state. -/
def pcask (s : State) (c : Nat) : PCask := Tbl.at s.pge.casks c {}
/-- Change a cask's program state. -/
def updPCask (c : Nat) (f : PCask → PCask) (s : State) : State :=
  { s with pge.casks := Tbl.upd s.pge.casks c {} f }
/-- A processor. -/
def proc (s : State) (p : Fin 2) : Proc := if p = 0 then s.pge.p0 else s.pge.p1
/-- Change a processor. -/
def updProc (p : Fin 2) (f : Proc → Proc) (s : State) : State :=
  if p = 0 then { s with pge.p0 := f s.pge.p0 } else { s with pge.p1 := f s.pge.p1 }
/-- Set the registers a processor holds. -/
def setCtx (p : Fin 2) (c : Ctx) (s : State) : State := updProc p (fun q => { q with ctx := c }) s

/-- The module task numbers of a cask's tasks. -/
def caskTasks (s : State) (c : Nat) : List Nat :=
  (s.pge.tasks.filter (fun e => e.1 / 32 == c && e.2.exist)).map (·.1)

/-- The cask has a task. -/
def hasTasks (s : State) (c : Nat) : Bool := !(caskTasks s c).isEmpty

/-- Exchange work of a task is ready or running: its boundary is reached and it has neither switched nor failed. -/
def inWork (t : TaskSt) : Bool := t.exch.st == .waiting && t.exch.boundaryAt.isSome

/-- A cycle or exchange work of the cask is in progress (R132, R158). -/
def caskBusy (s : State) (c : Nat) : Bool :=
  s.pge.tasks.any (fun e => e.1 / 32 == c && (e.2.cyc.isSome || inWork e.2))

/-- WDOG_MS in force in ns (Table 4.2). -/
def wdogNs (r : TaskRec) : Nat :=
  let ms := if r.wdogMs ≠ 0 then r.wdogMs else if r.task < 8 then min (4 * r.periodMs) 60000 else 1000
  ms * 1000000

/-! ### Reasons (R139, R140) -/

/-- STOP as an action: the cask goes to STOPPING (R140, Table 4.9). -/
def stopCaskOp (c : Nat) (s : State) : State :=
  updPCask c (fun k => match k.mode with
    | .run | .hold | .holding => { k with mode := .stopping }
    | _ => k) s

/-- Raise a reason: recorded as an event with the cask's tag, and queued (R139). A reason inside the error task is not queued:
its faults become PGE_ERRTASK_FAULT, applied directly. A cask without an error task, and an entry that does not fit, take the
default action at once (R139, R140). -/
def raise (code cask task info : Nat) (s : State) : State :=
  let s := record code cask (d1 task ++ d4 info) s
  if task == 31 then
    if defaultStop code then stopCaskOp cask (record cPGE_ERRTASK_FAULT cask (d1 task) s) else s
  else
    let k := pcask s cask
    let fitsQ := decide (k.errs.length < 16)
    let s := updPCask cask (fun k =>
      if fitsQ then { k with errs := k.errs ++ [{ code := code, task := task, cycle := s.now / 10, info := info }] }
      else { k with errLost := satInc k.errLost max32 }) s
    if defaultStop code && (!fitsQ || !(taskSt s (mtn cask 31)).exist) then stopCaskOp cask s else s

/-- Raise a reason for a module task. -/
def raiseFor (code n info : Nat) (s : State) : State := raise code (n / 32) (n % 32) info s

/-! ### Releases (R111 to R117, R137, R146) -/

/-- R117, R144: what an input slot is filled with. -/
def readSlot (s : State) (cask i : Nat) : DWord × Byte :=
  match pt? s i with
  | some p => if mayRead p cask then (p.value, p.quality) else (p.subst, qSubst)
  | none => (0, qSubst)

/-- Count an overrun or a lost trigger (PGE_TASK_OVR). -/
def countOvr (n : Nat) (s : State) : State := updTask n (fun t => { t with ovr := satInc t.ovr max32 }) s

/-- Release a task: its input image is copied in this Trellis cycle and sent over HC0, and the cask clock is latched (R117,
R123). Refused on HC0, the image is dropped and counts as an overrun with PGE_ISLAND (R122). -/
def releaseTask (n : Nat) (s : State) : State :=
  let t := taskSt s n
  let c := n / 32
  if isRun s .prog then
    let img := t.prog.inSlots.map (readSlot s c)
    let clk := (pcask s c).clk
    let errE := if n % 32 == 31 then (pcask s c).errs.head? else none
    let cy : Cycle := { releasedAt := s.now, clk := clk, image := img, err := errE }
    present { hc := 0, back := false } .trellis .prog (.inputImage n) (updTask n (fun t => { t with cyc := some cy }) s)
  else
    raiseFor cPGE_ISLAND n 0 (countOvr n (present { hc := 0, back := false } .trellis .prog (.inputImage n) s))

/-- R113, R146: a trigger of an event task: it releases an idle task, makes one release pending, is held during exchange work, or
is lost. -/
def triggerTask (n : Nat) (s : State) : State :=
  let t := taskSt s n
  let lost := raiseFor cPGE_EVT_LOST n 0 (countOvr n s)
  if inWork t then
    if t.exch.held.isNone then updTask n (fun t => { t with exch.held := some s.now }) s else lost
  else if t.cyc.isNone then releaseTask n s
  else if !t.pend then updTask n (fun t => { t with pend := true }) s
  else lost

/-! ### Dispatch (R114 to R116) -/

/-- Cycles of the guarantee of a cask in an accounting period: 0.2 ms of 2.5 ns cycles per percent (R114). -/
def guarantee (s : State) (c : Nat) : Nat := (caskRec s c).pgeShare * 80000

/-- Cycles a cask has used in this period. -/
def usedBy (s : State) (c : Nat) : Nat := Tbl.at s.pge.used c 0

/-- What a processor can take: a task's cycle, or a task's exchange work. -/
structure Item where
  n : Nat
  work : Bool
  deriving DecidableEq, Repr

/-- Release time of an item; of work, its boundary (R145). -/
def itemTime (s : State) (i : Item) : Nat :=
  let t := taskSt s i.n
  if i.work then t.exch.boundaryAt.getD 0 else match t.cyc with | some c => c.releasedAt | none => 0

/-- The keys of R115 in order; the lesser list comes first. -/
def itemKey (s : State) (i : Item) : List Nat :=
  let c := i.n / 32
  let t := taskSt s i.n
  [b2n (guarantee s c ≤ usedBy s c), b2n (i.n % 32 != 31), if i.n % 32 == 31 then 0 else t.prog.rc.priority,
   itemTime s i, i.n]

/-- The ready items. -/
def readyItems (s : State) : List Item :=
  s.pge.tasks.flatMap (fun e =>
    (match e.2.cyc with | some c => if c.phase == .ready then [{ n := e.1, work := false }] else [] | none => []) ++
    (if inWork e.2 && e.2.exch.proc.isNone && !e.2.exch.done then [{ n := e.1, work := true }] else []))

/-- The first of items in the order of R115. -/
def firstItem (s : State) : List Item → Option Item
  | [] => none
  | i :: r => match firstItem s r with
    | none => some i
    | some j => if lexLt (itemKey s j) (itemKey s i) then some j else some i

/-- What a processor runs. -/
def running (s : State) (p : Fin 2) : Option Item :=
  match (proc s p).task, (proc s p).work with
  | some n, _ => some { n := n, work := false }
  | none, some n => some { n := n, work := true }
  | none, none => none

/-- Count cycles as the running cask's and as the processor's busy time. -/
def charge (p : Fin 2) (c k : Nat) (s : State) : State :=
  let s := updProc p (fun q => { q with busy := q.busy + k }) s
  { s with pge.used := Tbl.put s.pge.used c (usedBy s c + k) }

/-- A processor takes an item: a switched-out one with its kept registers, a new cycle at its entry with the global base at the
partition's start; other registers hold what the processor last left in them. -/
def startItem (p : Fin 2) (i : Item) (s : State) : State :=
  let t := taskSt s i.n
  let left := (proc s p).ctx
  if i.work then
    let cx := t.exch.ctx.getD { left with stack := [], migr := none }
    let s := updTask i.n (fun t => { t with exch.proc := some p.val, exch.ctx := none }) s
    updProc p (fun q => { q with task := none, work := some i.n, ctx := cx }) s
  else
    let new : Ctx := { left with pc := t.prog.rc.entry, gb := 0, stack := [], migr := none }
    let cx := match t.cyc with | some c => c.ctx.getD new | none => new
    let s := updCyc i.n (fun c => { c with phase := .running, ctx := none }) s
    updProc p (fun q => { q with task := some i.n, work := none, ctx := cx }) s

/-- A processor lets its item go, keeping its registers for it (R116). -/
def switchOut (p : Fin 2) (s : State) : State :=
  let cx := (proc s p).ctx
  match running s p with
  | some i =>
    let s := if i.work then updTask i.n (fun t => { t with exch.proc := none, exch.ctx := some cx }) s
             else updCyc i.n (fun c => { c with phase := .ready, ctx := some cx }) s
    updProc p (fun q => { q with task := none, work := none }) s
  | none => s

/-- Free a processor. -/
def freeProc (p : Fin 2) (s : State) : State := updProc p (fun q => { q with task := none, work := none }) s

/-- A processor whose cycle has executed and waits for its output phase. -/
def finishing (s : State) (p : Fin 2) : Bool :=
  match (proc s p).task with
  | some n => (match (taskSt s n).cyc with | some c => c.phase == .executed | none => false)
  | none => false

/-- R116: when a ready item comes ahead of the last-ordered running one and no processor is free or about to be, that processor
switches, at a cost of 24 cycles. -/
def maybeSwitch (s : State) : State :=
  if finishing s 0 || finishing s 1 then s
  else match running s 0, running s 1, firstItem s (readyItems s) with
  | some a, some b, some r =>
    let p : Fin 2 := if lexLt (itemKey s a) (itemKey s b) then 1 else 0
    let last := if p = 1 then b else a
    if lexLt (itemKey s r) (itemKey s last) then startItem p r (charge p (r.n / 32) 24 (switchOut p s)) else s
  | _, _, _ => s

/-! ### End of a cycle -/

/-- Free whichever processor runs this item. -/
def freeItem (i : Item) (s : State) : State :=
  let s := if running s 0 == some i then freeProc 0 s else s
  if running s 1 == some i then freeProc 1 s else s

/-- The error task's entry leaves the queue and its action applies: ERRACK's unless it is fixed, otherwise the default
(R140). -/
def endErrorRun (c : Nat) (e : ErrEntry) (ack : Option Bool) (s : State) : State :=
  let s := updPCask c (fun k => { k with errs := k.errs.drop 1 }) s
  let stop := if fixedAction e.code then true else ack.getD (defaultStop e.code)
  if stop then stopCaskOp c s else s

/-- A reason that waited for the earliest-ending of several cycles of a cask is raised once (R164). -/
def dropLater (c : Nat) (es : List ErrEntry) (s : State) : State :=
  if es.isEmpty then s
  else { s with pge.tasks := Tbl.mapV s.pge.tasks (fun n t =>
    if n / 32 == c then { t with cyc := t.cyc.map (fun y => { y with later := y.later.filter (fun e => !es.contains e) }) }
    else t) }

/-- A cycle ends, complete or abandoned: its times are kept (R137 skips are told once), reasons that waited for it are raised
(R164), an error run's action applies, and a pending event release follows (R113, Table 4.10). -/
def endCycle (n : Nat) (complete : Bool) (s : State) : State :=
  match (taskSt s n).cyc with
  | none => s
  | some cy =>
    let c := n / 32
    let dt := min (s.now - cy.releasedAt) max32
    let s := freeItem { n := n, work := false } s
    let s := updTask n (fun t =>
      if complete then { t with cyc := none, lastNs := dt, maxNs := max t.maxNs dt } else { t with cyc := none }) s
    let s := cy.later.foldl (fun s e => raise e.code c e.task e.info s) s
    let s := dropLater c cy.later s
    let s := if cy.overrun then raiseFor cPGE_OVERRUN n 0 s else s
    let s := match cy.err with | some e => endErrorRun c e cy.ack s | none => s
    if (taskSt s n).pend then
      let s := updTask n (fun t => { t with pend := false }) s
      match (pcask s c).mode with
      | .run | .holding | .stopping => releaseTask n s
      | _ => s
    else s

/-- A cycle is abandoned with a reason: no output image, no setpoints, no retentive commit (R126, R127, R138). -/
def abandon (n code info : Nat) (s : State) : State := endCycle n false (raiseFor code n info s)

/-! ### Exchange (R146, R156) -/

/-- A release or trigger held during exchange work is taken when the work ends (R146). -/
def takeHeld (n : Nat) (s : State) : State :=
  let t := taskSt s n
  match t.exch.held with
  | none => s
  | some _ =>
    let s := updTask n (fun t => { t with exch.held := none }) s
    match (pcask s (n / 32)).mode with
    | .run | .holding | .stopping => if t.exist then releaseTask n s else s
    | _ => s

/-- An exchange fails: the old program stays, the staged one is dropped, an event tells the code, and the task is marked failed
(R156). -/
def failExchange (n code : Nat) (s : State) : State :=
  let s := freeItem { n := n, work := true } s
  let s := updTask n (fun t => { t with exch := { t.exch with
    st := .failed, code := code, staged := none, remove := false, boundaryAt := none, proc := none, matched := false,
    toMigrate := [], done := false, ctx := none } }) s
  let s := updPCask (n / 32) (fun k => { k with lastExch := code }) s
  takeHeld n (record code (n / 32) (d1 (n % 32)) s)

end Sys2Proof.Machine
end

