-- ==== Sys2Proof/Machine/Station.lean ====
section
/-!
DEFINITION. Station.lean: remote stations: watchdogs, loss, return and proving
(spec/05_program_exchange_and_remote_io.md R160 to R167).
-/
namespace Sys2Proof.Machine

def cSTATION_LOST : Nat := 0x0430
def cSTATION_RETURN : Nat := 0x0431
def cSTATION_PROVEN : Nat := 0x0432

/-- Change a station. -/
def updStn (n : Nat) (f : Stn → Stn) (s : State) : State := { s with stn.tbl := Tbl.upd s.stn.tbl n {} f }

/-- The points whose writing source is the source of a kind and index. -/
def pointsOf (s : State) (kind idx : Nat) : List Nat :=
  (s.trl.points.filter (fun e => e.2.srcKind == kind && e.2.srcIndex == idx)).map (·.1)

/-- Points of a DALI device that the mirror writes (Table 13.9). -/
def daliInputs (d : DaliDev) : List Nat := if d.kind == 1 then [d.first + 1, d.first + 2] else [d.first]

/-- R160: a station's input points. -/
def stnInputs (s : State) (n : Nat) (t : Stn) : List Nat :=
  match t.kind with
  | 1 => s.fbs.frames.flatMap (fun e => if !e.2.tx && e.2.station == some n then pointsOf s 2 e.1 else [])
  | 2 => s.net.flows.flatMap (fun e =>
      if e.2.rx && e.2.st == .admitted && e.2.srcAddr == t.addr % 65536 then pointsOf s 8 e.1 else [])
  | 3 => s.fbs.devs.flatMap (fun e => if e.2.station == n then daliInputs e.2 else [])
  | 4 => s.fbs.readers.flatMap (fun e => if e.2.rc.station == n then [e.2.rc.first, e.2.rc.first + 1] else [])
  | _ => []

/-- The transmitting flow contexts to a peer module's station. -/
def stnFlows (s : State) (t : Stn) : List Nat :=
  (s.net.flows.filter (fun e =>
    !e.2.rx && e.2.st != .free && (Tbl.at s.net.nodes e.2.node {}).addr == t.addr % 65536)).map (·.1)

/-- R160: a station's output points. -/
def stnOutputs (s : State) (n : Nat) (t : Stn) : List Nat :=
  match t.kind with
  | 1 => s.fbs.frames.flatMap (fun e => if e.2.tx && txStation s e.2 == some n then framePoints e.2 else [])
  | 2 => (stnFlows s t).flatMap (fun k =>
      let f := Tbl.at s.net.flows k {}
      (List.range f.npts).map (fun i => f.spoint + i))
  | 3 => s.fbs.devs.flatMap (fun e => if e.2.station == n && e.2.kind == 1 then [e.2.first] else [])
  | _ => []

/-- Two lists share an element. -/
def meets (a b : List Nat) : Bool := a.any (fun x => b.contains x)

/-- Tasks that route points to these outputs. -/
def outTasks (s : State) (outs : List Nat) : List Nat :=
  (s.pge.tasks.filter (fun e => e.2.exist && meets e.2.prog.outSlots outs)).map (·.1)

/-- Tasks that route points from or to a station. -/
def stnTasks (s : State) (ins outs : List Nat) : List Nat :=
  (s.pge.tasks.filter (fun e => e.2.exist && (meets e.2.prog.inSlots ins || meets e.2.prog.outSlots outs))).map (·.1)

/-- R162: transmissions to a lost station that have not started are withdrawn. -/
def withdraw (n : Nat) (t : Stn) (s : State) : State :=
  let s := { s with fbs.chans := Tbl.mapV s.fbs.chans (fun _ c => { c with
    q := c.q.filter (fun i => match i.rc with
      | some k => txStation s (Tbl.at s.fbs.frames k {}) != some n
      | none => true) }) }
  let s := { s with fbs.dali := Tbl.mapV s.fbs.dali (fun _ p => { p with
    waiting := p.waiting.filter (fun d => t.kind != 3 || (Tbl.at s.fbs.devs d {}).station != n) }) }
  if t.kind == 2 then
    let fs := stnFlows s t
    let keep := fun (f : Frame) => !(f.kind == .flow && f.own == false && !f.transit && fs.contains f.flow)
    let s := updPort .a (fun p => { p with q1 := p.q1.filter keep }) s
    updPort .b (fun p => { p with q1 := p.q1.filter keep }) s
  else s

/-- R164: PGE_STATION_LOST once in each cask with a task routing points from or to the station: at the end of the earliest-ending
such cycle in progress, otherwise at once. -/
def raiseLost (n : Nat) (ts : List Nat) (s : State) : State :=
  (List.range 64).foldl (fun s c =>
    match ts.filter (fun t => t / 32 == c) with
    | [] => s
    | t0 :: r =>
      let busy := (t0 :: r).filter (fun t => (taskSt s t).cyc.isSome)
      let e : ErrEntry := { code := cPGE_STATION_LOST, task := t0 % 32, cycle := s.now / 10, info := n }
      if busy.isEmpty then raiseFor cPGE_STATION_LOST t0 n s
      else busy.foldl (fun s t => updCyc t (fun y => { y with later := y.later ++ [e] }) s) s) s

/-- A station that is present or proving is lost (R161 to R164); `bus` marks a bus-level fault. -/
def loseStation (n : Nat) (bus : Bool) (s : State) : State :=
  match Tbl.get? s.stn.tbl n with
  | none => s
  | some t =>
    if t.st == .absent || t.st == .lost then s
    else
      let ins := stnInputs s n t
      let outs := stnOutputs s n t
      let s := withdraw n t s
      let s := updStn n (fun t => { t with st := .lost, busFault := bus, losses := satInc t.losses 0xFFFF,
                                           proved := [], closed := outs }) s
      let total := satInc s.stn.lostTotal max32
      let own := satInc (Tbl.at s.stn.lost t.cask 0) max32
      let s := { s with stn := { s.stn with
        lostTotal := total, lost := Tbl.put s.stn.lost t.cask own, toSubst := s.stn.toSubst ++ ins ++ [t.statusPoint] } }
      raiseLost n (stnTasks s ins outs) (record cSTATION_LOST t.cask (d2 n) s)

/-- Every station that satisfies a condition is lost on a bus-level fault (R161). -/
def loseBus (p : Stn → Bool) (s : State) : State :=
  ((s.stn.tbl.filter (fun e => p e.2)).map (·.1)).foldl (fun s n => loseStation n true s) s

/-- The mirror writes the station's status point TRUE, GOOD (R160). -/
def statusTrue (t : Stn) (s : State) : State :=
  match pt? s t.statusPoint with
  | some p => putEntry t.statusPoint p.srcKind 1 qGood (ptStamp s t.statusPoint) s
  | none => s

/-- R165: every task with outputs to the station has completed its proving cycle: the station is PRESENT. -/
def checkProven (n : Nat) (s : State) : State :=
  let t := Tbl.at s.stn.tbl n {}
  if t.st == .proving && (outTasks s (stnOutputs s n t)).all (fun k => t.proved.contains k) then
    record cSTATION_PROVEN t.cask (d2 n) (updStn n (fun t => { t with st := .present }) s)
  else s

/-- A station's watchdog is restarted (R161); a lost station returns and is PROVING (R165). -/
def heardStation (n : Nat) (s : State) : State :=
  match Tbl.get? s.stn.tbl n with
  | none => s
  | some t =>
    match t.st with
    | .absent => statusTrue t (updStn n (fun t => { t with st := .present, lastAt := s.now }) s)
    | .lost =>
      let outs := stnOutputs s n t
      let s := updStn n (fun t => { t with st := .proving, lastAt := s.now, returnedAt := s.now, proved := [], closed := outs }) s
      checkProven n (record cSTATION_RETURN t.cask (d2 n) (statusTrue t s))
    | _ => updStn n (fun t => { t with lastAt := s.now }) s

/-- R165: a completed cycle of a task is its proving cycle for a station it outputs to when it was released after the return and its
input image held no input of the station with quality SUBSTITUTED. -/
def provingCycle (task : Nat) (cy : Cycle) (s : State) : State :=
  let slots := (taskSt s task).prog.inSlots
  s.stn.tbl.foldl (fun s e =>
    let t := e.2
    let ins := stnInputs s e.1 t
    let mine := meets (taskSt s task).prog.outSlots (stnOutputs s e.1 t)
    let clean := (slots.zip cy.image).all (fun x => !(ins.contains x.1 && x.2.2 == qSubst))
    if t.st == .proving && mine && !t.proved.contains task && decide (t.returnedAt < cy.releasedAt) && clean then
      checkProven e.1 (updStn e.1 (fun t => { t with proved := t.proved ++ [task] }) s)
    else s) s

/-- STATION_LOST (R161): the station's watchdog passes without a restart. -/
def execStationLost (n : Fin 1024) (s : State) : Out :=
  .next (match Tbl.get? s.stn.tbl n.val with
    | some t => if t.lastAt + t.wdogMs * 1000000 ≤ s.now then loseStation n.val false s else s
    | none => s)

/-- R92, R163: in the next Trellis cycle Trellis writes the points of lost sources with their substitute values. -/
def substituteDue (s : State) : State := substituteAll s.stn.toSubst { s with stn.toSubst := [] }

end Sys2Proof.Machine
end

