-- ==== Sys2Proof/Machine/FieldBus.lean ====
section
/-!
DEFINITION. FieldBus.lean: CAN FD channels: reception, transmission, bus faults, time-triggered operation, the margin scan and the
island's abort (spec/13_field_buses_and_building_interfaces.md R395 to R411, R424, R425).
-/
namespace Sys2Proof.Machine

def cFBS_OK : Nat := 0x0B00
def cFBS_CMD_STATE : Nat := 0x0B01
def cFBS_TEST_BUSY : Nat := 0x0B02
def cFBS_ABORTED : Nat := 0x0B03
def cFBS_TEST_PASS : Nat := 0x0B04
def cFBS_TEST_MARGIN : Nat := 0x0B05
def cFBS_BUS_FAIL : Nat := 0x0B10
def cFBS_REF_LATE : Nat := 0x0B12
def cFBS_RX_MISS : Nat := 0x0B13
def cFBS_TT_RESYNC : Nat := 0x0B14

/-- A channel takes part in traffic: its island and the channel are running. -/
def canUp (s : State) (ch : Nat) : Bool := isRun s .fbus && (canCh s ch).st == .running

/-! ### Mirrors (R395, R400, R401) -/

/-- The value of a field of TYPE `t` (R400). -/
def fieldValue (t : Nat) (bs : List Byte) : DWord :=
  if t == 1 then (if ofLe bs = 0 then 0 else 1) else BitVec.ofNat 64 (ofLe bs)

/-- The points and values that a payload carries, from its offset on. -/
def unpackPoints (s : State) (pts : List Nat) (bs : List Byte) : List (Nat × DWord) :=
  match pts with
  | [] => []
  | i :: r =>
    let n := fieldLen (ptType s i)
    (i, fieldValue (ptType s i) (bs.take n)) :: unpackPoints s r (bs.drop n)

/-- A mirror of the field-bus island writes points in one Trellis cycle over HC5, quality GOOD, each stamped in its own domain
(R395). -/
def mirror (kind idx cask : Nat) (ws : List (Nat × DWord)) (s : State) : State :=
  if isRun s .trellis then
    ws.foldl (fun s w =>
      let st := match pt? s w.1 with | some p => stampOf s .fbus p.domain | none => 0
      writeBy kind idx cask w.1 w.2 qGood st s) s
  else xchRefuse 5 .fbus .trellis s

/-- A valid frame restarts BUS_WDOG_MS and ends a bus-level fault of a running channel (R401, R407). -/
def busAlive (ch : Nat) (s : State) : State := updCan ch (fun c => { c with lastValid := s.now, busFault := false }) s

/-- ISO 11898-1: a frame received without error lowers the receive error counter (R396). -/
def lowerRec (n : Nat) : Nat := if 127 < n then 127 else n - 1

/-- R409: a received frame that started and ended within an RX window of the present cycle that expects it. -/
def markRx (ch k durationNs : Nat) (s : State) : State :=
  let c := canCh s ch
  match c.cycle with
  | none => s
  | some kc =>
    let t0 := kc * c.rc.bcUs * 1000
    let seen := fun (w : WinRec) =>
      w.kind == 2 && w.ch == ch && w.frame == k && (kc % c.rc.cycles) % w.rep == w.base &&
      decide (t0 + w.startUs * 1000 + durationNs ≤ fbusTime s) && decide (fbusTime s ≤ t0 + (w.startUs + w.lenUs) * 1000)
    updCan ch (fun c => { c with
      rxSeen := s.fbs.wins.foldl (fun acc e => if seen e.2 then Tbl.put acc e.1 kc else acc) c.rxSeen }) s

/-- The receive record a frame matches (R401); a remote frame matches none (Table 13.2). -/
def matchFrame (s : State) (ch : Nat) (x : CanRx) : Option (Nat × FrameRec) :=
  if x.remote then none
  else s.fbs.frames.find? (fun e => !e.2.tx && e.2.ch == ch && e.2.ide == x.ide && e.2.fdf == x.fdf && e.2.id == x.id)

/-- R401. -/
def canReceiveOp (ch : Nat) (x : CanRx) (s : State) : State :=
  let s := updCan ch (fun c => { c with rcErr := lowerRec c.rcErr }) s
  let s := if s.fbs.scan.state == .running && s.fbs.scan.ch == ch then
      { s with fbs.scan.left := s.fbs.scan.left - 1 } else s
  match matchFrame s ch x with
  | none => busAlive ch (updCan ch (fun c => { c with unmatched := satInc c.unmatched 0xFF }) s)
  | some (k, f) =>
    if x.payload.length < fieldsLen s f then updCan ch (fun c => { c with lenErr := satInc c.lenErr 0xFF }) s
    else
      let s := markRx ch k x.durationNs (busAlive ch s)
      let s := match f.station with | some n => heardStation n s | none => s
      mirror 2 k f.cask (unpackPoints s (framePoints f) x.payload) s

/-- CAN_FRAME_RECEIVED (R401). -/
def execCanFrameReceived (ch : Fin 8) (x : CanRx) (s : State) : Out :=
  .next (if canUp s ch then canReceiveOp ch x s else s)

/-- CAN_PERIODIC_TRIGGER (R402): a periodic record at its frame; an on-change record whose write has been accepted. -/
def execCanPeriodicTrigger (k : Nat) (s : State) : Out :=
  let f := Tbl.at s.fbs.frames k {}
  let n := s.trl.frame - 1
  .next (
    if f.trig == 1 then
      if s.fbs.toBuild.contains k then canTrigger k { s with fbs.toBuild := s.fbs.toBuild.filter (· != k) } else s
    else if f.trig == 0 && n % f.periodMs == f.phaseMs && Tbl.get? s.fbs.trigAt k != some n then
      canTrigger k { s with fbs.trigAt := Tbl.put s.fbs.trigAt k n }
    else s)

/-! ### The wire (R405, R406) -/

/-- The frame on the wire is gone: a window's frame that waited for it starts, or the queue offers its next instance. -/
def wireNext (ch : Nat) (s : State) : State :=
  let s := updCan ch (fun c => { c with wire := c.wire.drop 1 }) s
  match (canCh s ch).wire with
  | i :: _ => wireStart ch i s
  | [] => offer ch s

/-- CAN_TX_COMPLETE (R406): the frame ends on the wire; it is a valid frame on the bus, and lowers the transmit error counter. -/
def execCanTxComplete (ch : Fin 8) (s : State) : Out :=
  .next (if isRun s .fbus && !(canCh s ch).wire.isEmpty then
      let s := updCan ch (fun c => { c with tec := c.tec - 1 }) s
      wireNext ch (if (canCh s ch).st == .running then busAlive ch s else s)
    else s)

/-- R406: the frame on the wire meets an error: it is sent again up to RETRY times, then dropped and counted; a window's frame is
never repeated (R409). -/
def txErrorOp (ch : Nat) (s : State) : State :=
  match (canCh s ch).wire with
  | [] => s
  | i :: r =>
    let c := canCh s ch
    let s := updCan ch (fun c => { c with tec := c.tec + 8 }) s
    if i.queued && (c.rc.retry == 0 || i.tries < c.rc.retry) then
      let j := { i with tries := i.tries + 1 }
      wireStart ch j (updCan ch (fun c => { c with wire := j :: r }) s)
    else wireNext ch (if i.queued then countTxDrop ch s else s)

/-- CAN_TX_ERROR. -/
def execCanTxError (ch : Fin 8) (s : State) : Out := .next (if canUp s ch then txErrorOp ch s else s)

/-- CAN_RX_ERROR (R396): ISO 11898-1 raises the receive error counter by 1, or by 8. -/
def execCanRxError (ch : Fin 8) (major : Bool) (s : State) : Out :=
  .next (if canUp s ch then
      updCan ch (fun c => { c with rcErr := min 255 (c.rcErr + (if major then 8 else 1)) }) s
    else s)

/-! ### Bus faults (R407) -/

/-- A bus-level fault: recorded, and every station on the channel is lost. -/
def busFaultOp (ch why : Nat) (s : State) : State :=
  let s := updCan ch (fun c => { c with busFault := true }) s
  let s := record cFBS_BUS_FAIL (canCh s ch).rc.cask (d1 ch ++ d1 why) s
  loseBus (fun t => t.kind == 1 && t.addr / 256 % 8 == ch) s

/-- Bus-off: the queue and the frame on the wire are dropped, each counted. -/
def busOffOp (ch : Nat) (s : State) : State :=
  let c := canCh s ch
  let s := (c.wire.filter (·.queued) ++ c.q).foldl (fun s _ => countTxDrop ch s) s
  let s := updCan ch (fun c => { c with
    st := if c.rc.autoRec then .recovering else .busOff, recAt := s.now, q := [], wire := [],
    busOffs := satInc c.busOffs 0xFFFF }) s
  busFaultOp ch 1 s

/-- CAN_BUS_OFF: the transmit error counter has passed 255 (ISO 11898-1). -/
def execCanBusOff (ch : Fin 8) (s : State) : Out :=
  .next (if canUp s ch && 255 < (canCh s ch).tec then busOffOp ch s else s)

/-- CAN_BUS_WATCHDOG. -/
def execCanBusWatchdog (ch : Fin 8) (s : State) : Out :=
  let c := canCh s ch
  .next (if canUp s ch && c.rc.wdogMs != 0 && !c.busFault && c.lastValid + c.rc.wdogMs * 1000000 ≤ s.now then
      busFaultOp ch 2 s else s)

/-- CAN_SUPPLY_FAIL. -/
def execCanSupplyFail (ch : Fin 8) (s : State) : Out := .next (if canUp s ch then busFaultOp ch 3 s else s)

/-- CAN_RECOVERY_COMPLETE: 128 occurrences of 11 consecutive recessive bits. -/
def execCanRecoveryComplete (ch : Fin 8) (s : State) : Out :=
  let c := canCh s ch
  .next (if isRun s .fbus && c.st == .recovering && fitsNs (1408 * nomBit c.rc.nbt) (s.now - c.recAt) then
      let s := updCan ch (fun c => { c with st := .running, tec := 0, rcErr := 0, busFault := false, lastValid := s.now }) s
      offer ch s
    else s)

/-! ### Channel commands -/

/-- Set the code of an issuer's last command (FBS_CMD_STATUS). -/
def fbsStatus (iss : Issuer) (c : Nat) (s : State) : State :=
  { s with fbs.cmdStatus := Tbl.put s.fbs.cmdStatus iss.cask.val c, reply := .code c }

/-- A write of FBS_CH_n_CMD: from the channel's cask or cask 0, in a state and role the command fits (Table 13.12). -/
def chCmd (iss : Issuer) (ch : Nat) (fits : CanCh → Bool) (eff : State → State) (s : State) : Out :=
  regCmd iss .fbs (0x0100 + 0x20 * ch) (fun s =>
    let c := canCh s ch
    if (isOwner iss || iss.cask.val == c.rc.cask) && fits c then fbsStatus iss cFBS_OK (eff s)
    else fbsStatus iss cFBS_CMD_STATE s) s

/-- Number of the basic cycle in progress (R408). -/
def cycleNow (s : State) (c : CanCh) : Nat := fbusTime s / (c.rc.bcUs * 1000)

/-- FBS_CH_START: the channel runs its record. -/
def execFbsChStart (iss : Issuer) (ch : Fin 8) (s : State) : Out :=
  chCmd iss ch (fun c => c.st == .stopped) (fun s =>
    updCan ch (fun c => { c with st := .running, tec := 0, rcErr := 0, busFault := false, lastValid := s.now,
                                 cycle := some (cycleNow s c), steps := (dom s 2).steps, arbTill := none,
                                 firstK := cycleNow s c + 1 }) s) s

/-- FBS_CH_STOP: a frame on the wire still ends there (R406). -/
def execFbsChStop (iss : Issuer) (ch : Fin 8) (s : State) : Out :=
  chCmd iss ch (fun c => c.st == .running || c.st == .busOff || c.st == .recovering) (fun s =>
    updCan ch (fun c => { c with st := .stopped, q := [], wire := c.wire.take 1, cycle := none, arbTill := none }) s) s

/-- RECOVER. -/
def execRecoverChannel (iss : Issuer) (ch : Fin 8) (s : State) : Out :=
  chCmd iss ch (fun c => c.st == .busOff) (fun s =>
    updCan ch (fun c => { c with st := .recovering, recAt := s.now }) s) s

/-! ### Time-triggered operation (R408 to R410) -/

/-- The channel runs its matrix in the time it has taken note of. -/
def ttUp (s : State) (ch : Nat) : Bool :=
  canUp s ch && (canCh s ch).rc.role == 2 && (canCh s ch).rc.bcUs != 0 && (canCh s ch).steps == (dom s 2).steps

/-- A window's frame goes on the wire, or waits there for the frame before it. -/
def windowSend (ch : Nat) (i : CanInst) (s : State) : State :=
  if (canCh s ch).wire.isEmpty then wireStart ch i (updCan ch (fun c => { c with wire := [i] }) s)
  else updCan ch (fun c => { c with wire := c.wire ++ [i] }) s

/-- A window applies in basic cycle `k` (R408). -/
def winApplies (c : CanCh) (w : WinRec) (k : Nat) : Bool := (k % c.rc.cycles) % w.rep == w.base

/-- Start of a window in basic cycle `k`, domain 2 ns. -/
def winStart (c : CanCh) (w : WinRec) (k : Nat) : Nat := (k * c.rc.bcUs + w.startUs) * 1000
/-- Its end. -/
def winEnd (c : CanCh) (w : WinRec) (k : Nat) : Nat := (k * c.rc.bcUs + w.startUs + w.lenUs) * 1000

/-- R409 REFERENCE: the reference message of cycle `k`, when the bus is idle early enough. -/
def refOp (ch k idleNs : Nat) (s : State) : State :=
  let c := canCh s ch
  match s.fbs.wins.find? (fun e => e.2.ch == ch && e.2.kind == 0 && winApplies c e.2 k) with
  | none => s
  | some (_, w) =>
    let start := fbusTime s + idleNs
    if start ≤ winEnd c w k && fitsNs (refBound c.rc) (winEnd c w k - start) then
      windowSend ch { rc := none, payload := d1 (k % c.rc.cycles), queued := false } s
    else record cFBS_REF_LATE c.rc.cask (d1 ch) s

/-- TT_CYCLE_START: a basic cycle begins; the operand is the time until the bus is idle. -/
def execTtCycleStart (ch : Fin 8) (idleNs : Nat) (s : State) : Out :=
  let c := canCh s ch
  let k := cycleNow s c
  .next (if ttUp s ch && c.cycle != some k then
      refOp ch k idleNs (updCan ch (fun c => { c with cycle := some k, arbTill := none }) s)
    else s)

/-- R409 TX: the frame of window `w` in cycle `k`. -/
def txWindowOp (ch : Nat) (w : WinRec) (k idleNs : Nat) (s : State) : State :=
  let c := canCh s ch
  let f := Tbl.at s.fbs.frames w.frame {}
  let start := max (winStart c w k) (fbusTime s + idleNs)
  if heldBack s f then s
  else if start ≤ winEnd c w k && fitsNs (frameBound s f) (winEnd c w k - start) then
    windowSend ch (buildInst s w.frame f false) s
  else updCan ch (fun c => { c with lateTx := satInc c.lateTx 0xFF }) s

/-- TT_TX_WINDOW: from 100 us before the window's start, when its points are read. -/
def execTtTxWindow (ch : Fin 8) (win : Nat) (idleNs : Nat) (s : State) : Out :=
  let c := canCh s ch
  .next (match Tbl.get? s.fbs.wins win with
    | none => s
    | some w =>
      let k := (fbusTime s + 100000) / (c.rc.bcUs * 1000)
      if ttUp s ch && w.ch == ch.val && w.kind == 1 && c.cycle.isSome && c.firstK ≤ k && winApplies c w k &&
         winStart c w k ≤ fbusTime s + 100000 && fbusTime s < winEnd c w k && Tbl.get? c.winDone win != some k then
        txWindowOp ch w k idleNs (updCan ch (fun c => { c with winDone := Tbl.put c.winDone win k }) s)
      else s)

/-- R409 RX: a window of cycle `k` ended without its frame. -/
def rxMissOp (ch : Nat) (s : State) : State :=
  let c := canCh s ch
  let tell := match c.missAt with | some t => decide (t + 1000000000 ≤ s.now) | none => true
  let s := updCan ch (fun c => { c with rxMiss := satInc c.rxMiss 0xFFFF, missAt := if tell then some s.now else c.missAt }) s
  if tell then record cFBS_RX_MISS c.rc.cask (d1 ch) s else s

/-- TT_RX_WINDOW_END. -/
def execTtRxWindowEnd (ch : Fin 8) (win : Nat) (s : State) : Out :=
  let c := canCh s ch
  .next (match Tbl.get? s.fbs.wins win, c.cycle with
    | some w, some kc =>
      let k := if winEnd c w kc ≤ fbusTime s then kc else kc - 1
      if ttUp s ch && w.ch == ch.val && w.kind == 2 && c.firstK ≤ k && winApplies c w k && winEnd c w k ≤ fbusTime s &&
         Tbl.get? c.winDone win != some k then
        let s := updCan ch (fun c => { c with winDone := Tbl.put c.winDone win k }) s
        if Tbl.get? c.rxSeen win == some k then s else rxMissOp ch s
      else s
    | _, _ => s)

/-- TT_ARBITRATING_WINDOW_START: queued instances may start until the window's end. -/
def execTtArbitratingWindowStart (ch : Fin 8) (win : Nat) (s : State) : Out :=
  let c := canCh s ch
  .next (match Tbl.get? s.fbs.wins win, c.cycle with
    | some w, some k =>
      if ttUp s ch && w.ch == ch.val && w.kind == 3 && c.firstK ≤ k && winApplies c w k && winStart c w k ≤ fbusTime s &&
         fbusTime s < winEnd c w k then
        offer ch (updCan ch (fun c => { c with arbTill := some (winEnd c w k) }) s)
      else s
    | _, _ => s)

/-- FBS_TT_RESYNC (R410): after a step of domain 2 the channel starts afresh at the next cycle boundary. -/
def execFbsTtResync (ch : Fin 8) (s : State) : Out :=
  let c := canCh s ch
  .next (if canUp s ch && c.rc.role == 2 && c.steps != (dom s 2).steps then
      let s := updCan ch (fun c => { c with
        steps := (dom s 2).steps, cycle := some (cycleNow s c), winDone := [], rxSeen := [], arbTill := none,
        firstK := cycleNow s c + 1 }) s
      record cFBS_TT_RESYNC c.rc.cask (d1 ch) s
    else s)

/-! ### Margin scan and abort (R424, R425) -/

/-- MARGIN_SCAN_START. -/
def execMarginScanStart (iss : Issuer) (ch : Fin 8) (count : Fin 256) (s : State) : Out :=
  regCmd iss .fbs 0x0400 (fun s =>
    let s := { s with fbs.testCh := ch.val, fbs.testCount := count.val }
    if !(isOwner iss || iss.cask.val == 63) then fbsStatus iss cFBS_CMD_STATE s
    else if s.fbs.scan.state == .running then fbsStatus iss cFBS_TEST_BUSY s
    else
      let n := if count.val = 0 then 255 else count.val
      let scan : Scan := { state := .running, ch := ch.val, count := n, left := n, startedAt := s.now }
      fbsStatus iss cFBS_OK { s with fbs.scan := scan }) s

/-- A running scan ends with a code. -/
def endScan (code : Nat) (s : State) : State :=
  if s.fbs.scan.state == .running then { s with fbs.scan := { s.fbs.scan with state := .done, code := code } } else s

/-- MARGIN_SCAN_STOP. -/
def execMarginScanStop (iss : Issuer) (s : State) : Out :=
  regCmd iss .fbs 0x0400 (fun s =>
    if isOwner iss || iss.cask.val == 63 then fbsStatus iss cFBS_OK (endScan 0 s) else fbsStatus iss cFBS_CMD_STATE s) s

/-- The sample point in tq from the start of the bit (R397). -/
def samplePoint (r : CanRec) : Nat := 1 + (fld r.nbt.toNat 16 8 + 1)

/-- MARGIN_SCAN_COMPLETE: COUNT frames have been received; the operands are the earliest and latest agreeing positions. -/
def execMarginScanComplete (early late : Fin 385) (s : State) : Out :=
  let c := s.fbs.scan
  .next (if isRun s .fbus && c.state == .running && c.left == 0 then
      let p := samplePoint (canCh s c.ch).rc
      let ok := early.val + 2 ≤ p && p + 2 ≤ late.val
      let s := { s with fbs.scan.early := early.val, fbs.scan.late := late.val }
      endScan (if ok then cFBS_TEST_PASS else cFBS_TEST_MARGIN) s
    else s)

/-- MARGIN_SCAN_TIMEOUT: 60 s. -/
def execMarginScanTimeout (s : State) : Out :=
  .next (if isRun s .fbus && s.fbs.scan.startedAt + 60000000000 ≤ s.now then endScan 0 s else s)

/-- R425. -/
def fieldBusAbortOp (s : State) : State :=
  let s := endScan cFBS_ABORTED s
  let busy := s.fbs.readers.any (fun e => e.2.install.isSome)
  let s := { s with fbs.readers := Tbl.mapV s.fbs.readers (fun _ r => { r with install := none, keySet := false }),
                    fbs.bsiStatus := if busy then Tbl.put s.fbs.bsiStatus 0 0x0C06 else s.fbs.bsiStatus }
  record cFBS_ABORTED 0 [] s

/-- FIELD_BUS_ABORT. -/
def execFieldBusAbort (iss : Issuer) (s : State) : Out := abortCmd iss 7 .fbus fieldBusAbortOp s

end Sys2Proof.Machine
end

