-- ==== Sys2Proof/Machine/LoopOps.lean ====
section
/-!
DEFINITION. LoopOps.lean: the laws of the loop engine as functions of a record, its parameters, its states and one sample's
inputs (spec/06_loop_engine.md R182 to R192).
-/
namespace Sys2Proof.Machine

/-! ### Codes (Table 6.8) -/

def cLPE_OK : Nat := 0x0500
def cLPE_CMD_STATE : Nat := 0x0501
def cLPE_SHD_MISMATCH : Nat := 0x0502
def cLPE_SHD_BUSY : Nat := 0x0503
def cLPE_RT_BOUND : Nat := 0x0504
def cLPE_RT_UNTRIED : Nat := 0x0505
def cLPE_RT_QUOTA : Nat := 0x0506
def cLPE_RT_LOCKED : Nat := 0x0507
def cLPE_ABORTED : Nat := 0x0508
def cLPE_LATE : Nat := 0x0509
def cLPE_FAULT : Nat := 0x050A
def cLPE_SHD_RELOAD : Nat := 0x050B
def cLPE_RT_REVERTED : Nat := 0x050C
def cLPE_FE : Nat := 0x050D

/-! ### Numbers (R182) -/

/-- A point value as the engine reads it: binary32, integers to nearest even, BOOL 0.0 or 1.0, REAL64 rounded. -/
def real32Of (t : Nat) (v : DWord) : F32 :=
  match t with
  | 1 => if v.toNat % 2 = 1 then F32.ofInt 1 else 0
  | 2 => F32.ofInt (sOf 32 v.toNat)
  | 3 => BitVec.ofNat 32 v.toNat
  | 4 => F32.ofInt (sOf 64 v.toNat)
  | 5 => F32.ofInt (v.toNat : Int)
  | _ => F64.to32 v

/-- `limit(x, lo, hi)`. -/
def lim (x lo hi : F64) : F64 := if F64.lt x lo then lo else if F64.lt hi x then hi else x

/-- `(x - lo) / (hi - lo)`, not clamped. -/
def norm (x lo hi : F32) : F64 :=
  F64.div (F64.sub (F32.to64 x) (F32.to64 lo)) (F64.sub (F32.to64 hi) (F32.to64 lo))

/-- Sample time in s (R174). -/
def tsOf (rc : LoopRec) : F64 := F64.div (F64.ofInt rc.periodMs) (F64.ofInt 1000)

/-- Output in output units of a normalised output. -/
def outUnits (rc : LoopRec) (u : F64) : F64 :=
  F64.add (F32.to64 rc.outLo) (F64.mul u (F64.sub (F32.to64 rc.outHi) (F32.to64 rc.outLo)))

/-- A value in output units, normalised. -/
def normOut (rc : LoopRec) (x : F32) : F64 := norm x rc.outLo rc.outHi

/-- The setpoint normalised: by the output span for RAMP, otherwise by the PV span. -/
def normSp (rc : LoopRec) (x : F32) : F64 := if rc.law == .ramp then normOut rc x else norm x rc.pvLo rc.pvHi

/-- Middle of the output limits. -/
def midU (rc : LoopRec) : F64 := F64.div (F64.add (F32.to64 rc.uLo) (F32.to64 rc.uHi)) (F64.ofInt 2)

/-! ### Gain schedule (R189 to R191) -/

/-- Breakpoint j. -/
def breakAt (rc : LoopRec) (j : Nat) : F64 := F32.to64 (nthD rc.breaks j 0)

/-- The region that contains `s`: the last j with S_j at or below it, 0 below S_0. -/
def regionOf (rc : LoopRec) (sv : F64) : Nat :=
  (List.range rc.nreg).foldl (fun a j => if F64.le (breakAt rc j) sv then j else a) 0

/-- R190, R191: the region of this sample, given the present one. -/
def nextRegion (rc : LoopRec) (cur : Option Nat) (sv : F64) : Nat :=
  if rc.nreg ≤ 1 then 0
  else
    let j' := regionOf rc sv
    if rc.linear then j'
    else match cur with
      | none => j'
      | some j =>
        let h := F32.to64 rc.hyst
        if F64.lt sv (F64.sub (breakAt rc j) h) || (j + 1 < rc.nreg && F64.le (F64.add (breakAt rc (j + 1)) h) sv)
        then j' else j

/-- Word i of set j. -/
def setWord (sets : List (List Word)) (j i : Nat) : Word := nthD (nthD sets j []) i 0

/-- Parameter i in region j: interpolated with SCHED_LINEAR inside the breakpoints, otherwise the set's (R190, R191). -/
def param (rc : LoopRec) (sets : List (List Word)) (sv : F64) (j i : Nat) : F64 :=
  let p := F32.to64 (setWord sets j i)
  if rc.linear && j + 1 < rc.nreg && F64.le (breakAt rc 0) sv then
    let fr := F64.div (F64.sub sv (breakAt rc j)) (F64.sub (breakAt rc (j + 1)) (breakAt rc j))
    F64.add p (F64.mul fr (F64.sub (F32.to64 (setWord sets (j + 1) i)) p))
  else p

/-! ### Laws -/

/-- What one evaluation gives: v, u before its rounding to binary32, the new states, and whether DU_MAX held the output. -/
structure EvalOut where
  v : F64 := 0
  u : F64 := 0
  st : LawSt := {}
  rate : Bool := false
  deriving DecidableEq, Repr

/-- u rounded to binary32, as the next sample sees it. -/
def roundU (u : F64) : F64 := F32.to64 (F64.to32 u)

/-- Limits of R184: the span, then the rate from `up`. -/
def limitOut (rc : LoopRec) (up v : F64) : F64 × Bool :=
  let u := lim v (F32.to64 rc.uLo) (F32.to64 rc.uHi)
  if F64.lt 0 (F32.to64 rc.duMax) then
    let du := F64.mul (F32.to64 rc.duMax) (tsOf rc)
    let w := lim u (F64.sub up du) (F64.add up du)
    (w, !F64.eq w u)
  else (u, false)

/-- Sign of the action. -/
def sigma (rc : LoopRec) (x : F64) : F64 := if rc.direct then F64.neg x else x

/-- e_i of R184. -/
def errI (rc : LoopRec) (e : EvalIn) : F64 := sigma rc (F64.sub e.r e.y)

/-- Integrator limits. -/
def limU (rc : LoopRec) (x : F64) : F64 := lim x (F32.to64 rc.uLo) (F32.to64 rc.uHi)

/-- R184 with the initialisation of Table 6.7 and the hand-over of R192. -/
def evalPid (rc : LoopRec) (p : Nat → F64) (st : LawSt) (e : EvalIn) : EvalOut :=
  let ts := tsOf rc
  let ep := sigma rc (F64.sub (F64.mul (p 4) e.r) e.y)
  let ed := sigma rc (F64.sub (F64.mul (p 5) e.r) e.y)
  let pp := F64.mul (p 0) ep
  let den := F64.add (p 3) ts
  let d := if e.zeroD then 0
           else F64.add (F64.mul (F64.div (p 3) den) st.d) (F64.mul (F64.div (p 2) den) (F64.sub ed st.edPrev))
  let from0 := match e.force, e.init with
    | some u, _ => some u
    | none, some u => some u
    | none, none => if e.handover then some st.uPrev else none
  let i0 := match from0 with
    | some u => limU rc (F64.sub (F64.sub (F64.sub u pp) d) e.f)
    | none => st.i
  match e.force with
  | some u => { v := u, u := u, st := { st with i := i0, d := d, edPrev := ed, uPrev := roundU u } }
  | none =>
    let i1 := F64.add i0 (F64.mul (F64.mul (p 1) ts) (errI rc e))
    let v := F64.add (F64.add (F64.add pp i1) d) e.f
    let r := limitOut rc (from0.getD st.uPrev) v
    let i2 := limU rc (F64.sub i1 (F64.sub v r.1))
    { v := v, u := r.1, rate := r.2, st := { st with i := i2, d := d, edPrev := ed, uPrev := roundU r.1 } }

/-- R185; `inputSel` is the INPUT byte of the set. -/
def evalLeadlag (rc : LoopRec) (p : Nat → F64) (inputSel : Nat) (st : LawSt) (e : EvalIn) : EvalOut :=
  let ts := tsOf rc
  let x := match inputSel with | 0 => errI rc e | 1 => e.f | _ => e.y
  let from0 := match e.force with | some u => some u | none => e.init
  let (w, xp) := match from0 with | some u => (u, x) | none => (st.wPrev, st.xPrev)
  match e.force with
  | some u => { v := u, u := u, st := { st with wPrev := u, xPrev := x, uPrev := roundU u } }
  | none =>
    let two := F64.ofInt 2
    let t1 := F64.mul two (p 1)
    let t2 := F64.mul two (p 2)
    let den := F64.add t2 ts
    let a1 := F64.div (F64.sub t2 ts) den
    let b0 := F64.div (F64.mul (p 0) (F64.add t1 ts)) den
    let b1 := F64.div (F64.mul (p 0) (F64.sub ts t1)) den
    let v := F64.add (F64.add (F64.mul a1 w) (F64.mul b0 x)) (F64.mul b1 xp)
    let r := limitOut rc (from0.getD st.uPrev) v
    { v := v, u := r.1, rate := r.2, st := { st with wPrev := r.1, xPrev := x, uPrev := roundU r.1 } }

/-- Sum of products, in the order of the terms. -/
def dot (l : List (F64 × F64)) : F64 := l.foldl (fun a t => F64.add a (F64.mul t.1 t.2)) 0

/-- R186. The set's words: A 0 to 15, BM 16 to 27, CM 28 to 31, DM 32 and 33, X_INIT 34 to 37. -/
def evalSs4 (rc : LoopRec) (p : Nat → F64) (st : LawSt) (e : EvalIn) : EvalOut :=
  let xi (u : F64) : List F64 := (List.range 4).map (fun i => F64.mul (p (34 + i)) u)
  let from0 := match e.force, e.init with
    | some u, _ => some u
    | none, some u => some u
    | none, none => if e.handover then some st.uPrev else none
  let x := match from0 with | some u => xi u | none => st.x
  match e.force with
  | some u => { v := u, u := u, st := { st with x := x, uPrev := roundU u } }
  | none =>
    let ei := errI rc e
    let v := dot (((List.range 4).map (fun i => (p (28 + i), nthD x i 0))) ++ [(p 32, ei), (p 33, e.f)])
    let r := limitOut rc (from0.getD st.uPrev) v
    let aw := F64.sub r.1 v
    let row (i : Nat) : F64 :=
      dot (((List.range 4).map (fun j => (p (4 * i + j), nthD x j 0))) ++
        [(p (16 + 3 * i), ei), (p (17 + 3 * i), e.f), (p (18 + 3 * i), aw)])
    { v := v, u := r.1, rate := r.2, st := { st with x := (List.range 4).map row, uPrev := roundU r.1 } }

/-- R187; the minimum times are counted in frames of 1 ms. -/
def evalOnoff (rc : LoopRec) (p : Nat → F64) (minOn minOff : Nat) (st : LawSt) (e : EvalIn) : EvalOut :=
  let from0 := match e.force with | some u => some u | none => e.init
  let st := match from0 with
    | some u => { st with q := F64.le (midU rc) u, qAt := none }
    | none => st
  match e.force with
  | some u => { v := u, u := u, st := { st with uPrev := roundU u } }
  | none =>
    let ei := errI rc e
    let been (n : Nat) : Bool := match st.qAt with | some k => n ≤ e.k - k | none => true
    let st :=
      if !st.q && F64.le (p 1) ei && been minOff then { st with q := true, qAt := some e.k }
      else if st.q && F64.le ei (F64.neg (p 0)) && been minOn then { st with q := false, qAt := some e.k }
      else st
    let u := F32.to64 (if st.q then rc.uHi else rc.uLo)
    { v := u, u := u, st := { st with uPrev := roundU u } }

/-- R188. -/
def evalRamp (rc : LoopRec) (p : Nat → F64) (st : LawSt) (e : EvalIn) : EvalOut :=
  match e.force with
  | some u => { v := u, u := u, st := { st with uPrev := roundU u } }
  | none =>
    let ts := tsOf rc
    let up := e.init.getD st.uPrev
    let u := limU rc (lim e.r (F64.sub up (F64.mul (p 1) ts)) (F64.add up (F64.mul (p 0) ts)))
    { v := u, u := u, st := { st with uPrev := roundU u } }

/-- One evaluation of a slot's law with the parameter sets given. -/
def evalLaw (rc : LoopRec) (sets : List (List Word)) (st : LawSt) (e : EvalIn) : EvalOut :=
  let p := param rc sets e.sv e.region
  match rc.law with
  | .pid => evalPid rc p st e
  | .leadlag => evalLeadlag rc p ((setWord sets e.region 3).toNat % 256) st e
  | .ss4 => evalSs4 rc p st e
  | .onoff => evalOnoff rc p (setWord sets e.region 2).toNat (setWord sets e.region 3).toNat st e
  | .ramp => evalRamp rc p st e

/-- Loop engine cycles of one evaluation (Table 6.5). -/
def lawCost : Law → Nat
  | .pid => 125 | .leadlag => 70 | .ss4 => 250 | .onoff => 40 | .ramp => 50

/-! ### Slots -/

/-- The slot with a number, if the image defines it. -/
def slot? (s : State) (n : Nat) : Option LoopSlot := Tbl.get? s.lpe.slots n

/-- Change a defined slot. -/
def updSlot (n : Nat) (f : LoopSlot → LoopSlot) (s : State) : State :=
  match slot? s n with
  | some l => { s with lpe.slots := Tbl.put s.lpe.slots n (f l) }
  | none => s

/-- The sets in force: the record's, with retuned gains in place (R205). -/
def liveSets (l : LoopSlot) : List (List Word) :=
  (List.range l.rc.sets.length).map (fun j =>
    let ws := nthD l.rc.sets j []
    match Tbl.get? l.rt j with
    | some r => if r.retuned then (ws.set 0 r.kp).set 1 r.ki else ws
    | none => ws)

/-- A slot command's checks: a mode command TRACK needs a track point (R178). -/
def storeCmd (n : Nat) (m : LoopMode) (man : F32) (s : State) : State × Nat :=
  match slot? s n with
  | none => (s, cLPE_CMD_STATE)
  | some l =>
    if m == .track && l.rc.track.isNone then (s, cLPE_CMD_STATE)
    else (updSlot n (fun l => { l with cmd := some (m, man) }) s, cLPE_OK)

/-- The mode of D[1:0] (R178). -/
def modeOfCode : Nat → LoopMode
  | 0 => .off | 1 => .manual | 2 => .auto | _ => .track

/-- One setpoint or mode command arrives over HC2 (R178, R179). -/
def takeLoopMsg (m : LoopMsg) (s : State) : State :=
  if m.isMode then
    (storeCmd m.slot (modeOfCode (m.value.toNat % 4)) (BitVec.ofNat 32 (m.value.toNat / 2 ^ 32)) s).1
  else match slot? s m.slot with
    | none => s
    | some l =>
      if l.rc.sp.isNone then updSlot m.slot (fun l => { l with setp := BitVec.ofNat 32 m.value.toNat }) s
      else { s with lpe.spIgnored := satInc s.lpe.spIgnored 0xFFFF }

end Sys2Proof.Machine
end

