-- ==== Sys2Proof/Machine/PressOps.lean ====
section
/-!
DEFINITION. PressOps.lean: what Press does with one sample: channels and gain (spec/07_press_metering.md R213 to R216), elements
(R219, R220), booking, windows, tariffs, pulses and publication (R224 to R242).
-/
namespace Sys2Proof.Machine

/-! ### Codes (Tables 7.12 and 8.5) -/

def cPRS_OK : Nat := 0x0600
def cPRS_TRF_ORDER : Nat := 0x0601
def cPRS_TRF_FULL : Nat := 0x0602
def cPRS_NO_ELEMENT : Nat := 0x0603
def cPRS_TST_STATE : Nat := 0x0604
def cPRS_DIR_CHANGE : Nat := 0x0610
def cPRS_CLIP : Nat := 0x0611
def cPRS_PULSE_LAG : Nat := 0x0612
def cPRS_TIME_STEP : Nat := 0x0613
def cPRS_PHASE_LOSS : Nat := 0x0614
def cPRS_MD_RESET : Nat := 0x0615
def cPRS_ELEM_CLOSED : Nat := 0x0618
def cPRS_ABORTED : Nat := 0x0619
def cPRS_SAVE_FAIL : Nat := 0x061A
def cPRS_RESTART : Nat := 0x061C
def cPRS_UNCERTAIN : Nat := 0x061D
def cPRS_WATCH_START : Nat := 0x061E
def cPRS_WATCH_END : Nat := 0x061F
def cPRS_WATCH_LOST : Nat := 0x0620
def cPRS_TASTE_FAULT : Nat := 0x0621
def cPRS_TASTE_LIMIT : Nat := 0x0622
def cPRS_TASTE_REF : Nat := 0x0623

/-! ### Parts of Press -/

/-- A channel. -/
def chan (s : State) (n : Nat) : Chan := Tbl.at s.prs.chans n {}
/-- Change a channel. -/
def updChan (n : Nat) (f : Chan → Chan) (s : State) : State := { s with prs.chans := Tbl.upd s.prs.chans n {} f }
/-- The element with a number, if defined. -/
def elem? (s : State) (n : Nat) : Option Elem := Tbl.get? s.prs.elems n
/-- Change a defined element. -/
def updElem (n : Nat) (f : Elem → Elem) (s : State) : State :=
  match elem? s n with
  | some e => { s with prs.elems := Tbl.put s.prs.elems n (f e) }
  | none => s
/-- A pulse output. -/
def pulse (s : State) (n : Nat) : Pulse := Tbl.at s.prs.pulses n {}
/-- Change a pulse output. -/
def updPulse (n : Nat) (f : Pulse → Pulse) (s : State) : State := { s with prs.pulses := Tbl.upd s.prs.pulses n {} f }
/-- A tariff group. -/
def tariff (s : State) (g : Nat) : Tariff := Tbl.at s.prs.tariffs g {}
/-- A voltage system: 0 A, 1 B. -/
def vsys (s : State) (b : Bool) : VSys := if b then s.prs.sysB else s.prs.sysA
/-- Change a voltage system. -/
def updVsys (b : Bool) (f : VSys → VSys) (s : State) : State :=
  if b then { s with prs.sysB := f s.prs.sysB } else { s with prs.sysA := f s.prs.sysA }

/-- The channels of an element's currents. -/
def elemChans (r : ElemRec) : List Nat := r.iCh.filter (· != 0xFF)

/-! ### Channels (R213 to R216) -/

/-- Full code of a sample. -/
def fullCode : Nat := 8388608

/-- What one sample of a channel gives: input voltage of the path used, the value of R216, v90, whether the guard sample is
clipped, and whether the main path was used. -/
structure ChOut where
  x : F64 := 0
  w : F64 := 0
  w90 : F64 := 0
  clip : Bool := false
  main : Bool := true
  deriving DecidableEq, Repr

/-- A hand-over ends: the main path is used again and the count of quiet blocks restarts (R214). -/
def endHandover (c : Chan) : Chan := { c with handing := false, handLeft := 0, blockMax := 0, blockN := 0, quiet := 0 }

/-- A gain change starts a hand-over of `k` further guard samples (R214). -/
def startHandover (gain k : Nat) (c : Chan) : Chan :=
  { c with gain := gain, handing := true, handLeft := k, handovers := satInc c.handovers 0xFFFF, blockMax := 0, blockN := 0,
           quiet := 0 }

/-- The sample counts for the step-up blocks of 160 (R213). -/
def countBlock (mag : Nat) (c : Chan) : Chan :=
  let m := max c.blockMax mag
  if c.blockN + 1 < 160 then { c with blockMax := m, blockN := c.blockN + 1 }
  else { c with blockMax := 0, blockN := 0, quiet := if m * 20 < fullCode then c.quiet + 1 else 0 }

/-- Gain control of one sample: the channel after it, and whether the guard path is used. -/
def gainStep (c : Chan) (cm cg : Int) : Chan × Bool :=
  let c := if c.handing && c.handLeft == 0 then endHandover c else c
  let overRange : Bool :=
    c.rc.autoGain && 0 < c.gain &&
    (if c.handing then decide (95 * fullCode ≤ cg.natAbs * 4 ^ c.gain * 100) else decide (95 * fullCode ≤ cm.natAbs * 100))
  if overRange then (startHandover (c.gain - 1) 3 c, true)
  else if c.handing then ({ c with handLeft := c.handLeft - 1 }, true)
  else if c.rc.autoGain then (countBlock cm.natAbs c, false)
  else (c, false)

/-- One sample of a channel; `cur` marks a current channel. -/
def chanStep (cur : Bool) (c : Chan) (cm cg : Int) : Chan × ChOut :=
  let g := if cur then gainStep c cm cg else (c, false)
  let c' := g.1
  let code := if g.2 then cg else cm
  let gain := if g.2 || !cur then 0 else c.gain
  let x := F64.div (F64.ofInt code) (F64.ofInt (fullCode * 4 ^ gain : Nat))
  let w0 := F64.mul (F64.mul (F64.mul x (F32.to64 c.rc.scale)) (F32.to64 c.rc.cal)) (nthD c.tau gain 0x3FF0000000000000)
  let w0 := if c.rc.invert then F64.neg w0 else w0
  let clip := cur && decide (999 * fullCode ≤ cg.natAbs * 1000)
  ({ c' with filt := Config.filtNext c.filt c.rc.phase w0, clips := if clip then satInc c'.clips 255 else c'.clips },
   { x := x, w := Config.filtOut c.filt c.rc.phase w0, w90 := Config.filt90 c.filt c.rc.phase w0, clip := clip,
     main := !g.2 })

/-- A code the sample brings for a channel; one not listed is a free value of 24 bits. -/
def codeFor (s : State) (l : List (Nat × Int)) (n : Nat) : Int := (Tbl.get? l n).getD (sOf 24 (freeNow s).toNat)

/-- One sample of every channel whose record is USED. -/
def sampleChans (main guard : List (Nat × Int)) (s : State) : State × Tbl ChOut :=
  let outs := s.prs.chans.filterMap (fun e =>
    if e.2.rc.used then some (e.1, chanStep (e.1 < 48) e.2 (codeFor s main e.1) (codeFor s guard e.1)) else none)
  ({ s with prs.chans := outs.foldl (fun t o => Tbl.put t o.1 o.2.1) s.prs.chans },
   outs.map (fun o => (o.1, o.2.2)))

/-! ### Voltage systems (R219) -/

/-- Sum of a list kept newest first, added in the order of the samples. -/
def sumOld (l : List F64) : F64 := l.reverse.foldl F64.add 0

/-- Root of the mean of `n` squares. -/
def rmsOf (n : Nat) (l : List F64) : F64 := F64.sqrt (F64.div (sumOld (l.take n)) (F64.ofInt n))

/-- RMS of each phase of a system over its last cycle. -/
def vsysRms (v : VSys) : List F64 := v.sq.map (rmsOf v.n)

/-- A phase at or above 20 V rms. -/
def phaseOk (x : F64) : Bool := F64.le (F64.ofInt 20) x

/-- Frequency a phase gives over its last 10 cycles, when within 40 to 70 Hz. -/
def phaseFreq (ts : List Nat) : Option F64 :=
  match ts[0]?, ts[10]? with
  | some a, some b =>
    if b < a then
      let f := F64.div (F64.ofInt 10000000000) (F64.ofInt (a - b : Nat))
      if F64.le (F64.ofInt 40) f && F64.le f (F64.ofInt 70) then some f else none
    else none
  | _, _ => none

/-- The first phase with a valid frequency: its number and frequency (R219). -/
def validPhase (v : VSys) : Option (Nat × F64) :=
  (List.range 3).findSome? (fun i =>
    if phaseOk (nthD (vsysRms v) i 0) then (phaseFreq (nthD v.cross i [])).map (fun f => (i, f)) else none)

/-- N of a frequency. -/
def cycleLen (f : F64) : Nat := (Float.roundFin Float.b64 (F64.div (F64.ofInt 8000) f).toNat).toNat

/-- One sample of a system: squares kept, the counts of R262 and R264, and f = 0 when no phase is valid. -/
def vsysSample (ws : List F64) (v : VSys) : VSys :=
  let sq := (List.range 3).map (fun i => let w := nthD ws i 0; (F64.mul w w :: nthD v.sq i []).take 200)
  let v := { v with sq := sq }
  let any := (vsysRms v).any phaseOk
  let v := if any then { v with lit := v.lit + 1, dark := 0 } else { v with dark := v.dark + 1, lit := 0 }
  if (validPhase v).isNone then { v with freq := 0, n := 160 } else v

/-- First voltage channel of a system. -/
def vBase (b : Bool) : Nat := if b then 51 else 48

/-- Channels an element names: its current channels and those of its voltages (R217, R218). -/
def namedChans (r : ElemRec) : List Nat :=
  elemChans r ++ (if r.scheme == 1 then [vBase r.sysB + r.phase] else [vBase r.sysB, vBase r.sysB + 1, vBase r.sysB + 2])

/-- Value of a channel in this sample. -/
def outW (o : Tbl ChOut) (n : Nat) : F64 := (Tbl.at o n {}).w
/-- v90 of a channel in this sample. -/
def outW90 (o : Tbl ChOut) (n : Nat) : F64 := (Tbl.at o n {}).w90

/-- One sample of both systems. -/
def sampleSystems (o : Tbl ChOut) (s : State) : State :=
  let ws (b : Bool) : List F64 := (List.range 3).map (fun i => outW o (vBase b + i))
  updVsys true (vsysSample (ws true)) (updVsys false (vsysSample (ws false)) s)

/-! ### Elements (R220) -/

/-- Voltage, v90 and current of each phase (or measuring pair) of an element in this sample. -/
def elemPhases (r : ElemRec) (o : Tbl ChOut) : List (F64 × F64 × F64) :=
  let b := vBase r.sysB
  let i (k : Nat) : F64 := outW o (nthD r.iCh k 0xFF)
  match r.scheme with
  | 1 => [(outW o (b + r.phase), outW90 o (b + r.phase), outW o ((elemChans r).headD 0xFF))]
  | 2 => [(F64.sub (outW o b) (outW o (b + 1)), F64.sub (outW90 o b) (outW90 o (b + 1)), i 0),
          (F64.sub (outW o (b + 2)) (outW o (b + 1)), F64.sub (outW90 o (b + 2)) (outW90 o (b + 1)), i 2)]
  | _ => [(outW o b, outW90 o b, i 0), (outW o (b + 1), outW90 o (b + 1), i 1), (outW o (b + 2), outW90 o (b + 2), i 2)]

/-- The sample of an element. -/
def elemSample (r : ElemRec) (o : Tbl ChOut) : ElSamp :=
  let ph := elemPhases r o
  { p := ph.foldl (fun a x => F64.add a (F64.mul x.1 x.2.2)) 0,
    q := ph.foldl (fun a x => F64.add a (F64.mul x.2.1 x.2.2)) 0,
    v2 := ph.map (fun x => F64.mul x.1 x.1), i2 := ph.map (fun x => F64.mul x.2.2 x.2.2) }

/-- Cycle means of R220 from the kept samples. -/
def measure (n : Nat) (r : ElemRec) (h : List ElSamp) (f : F64) (len : Nat) (clip : Bool) : Meas :=
  let hs := h.take len
  let m := F64.ofInt len
  let p := F64.div (sumOld (hs.map (·.p))) m
  let q := F64.div (sumOld (hs.map (·.q))) m
  let now : ElSamp := hs.headD {}
  let k := now.v2.length
  let rms (g : ElSamp → List F64) (i : Nat) : F64 := rmsOf len (hs.map (fun x => nthD (g x) i 0))
  let sp := if r.scheme == 2 then F64.sqrt (F64.add (F64.mul p p) (F64.mul q q))
            else (List.range k).foldl (fun a i => F64.add a (F64.mul (rms (·.v2) i) (rms (·.i2) i))) 0
  { elem := n, p := p, q := q, s := sp, f := f, n := len, v2 := now.v2, i2 := now.i2, clip := clip }

/-- V_MIN in force (Table 7.10). -/
def vMinOf (r : ElemRec) : F64 :=
  if F64.eq (F32.to64 r.vMin) 0 then F64.mul (F64.ofDec 1 1) (F32.to64 r.un) else F32.to64 r.vMin

/-- Phases of an element for S_START: its single-phase equivalents (Table 7.4). -/
def phasesOf (r : ElemRec) : Nat := if r.scheme == 1 then 1 else 3

/-- S_START in force (R224). -/
def sStartOf (r : ElemRec) : F64 :=
  if F64.eq (F32.to64 r.sStart) 0 then
    F64.mul (F64.mul (F64.mul (F64.ofDec 4 4) (F32.to64 r.un)) (F32.to64 r.inA)) (F64.ofInt (phasesOf r))
  else F32.to64 r.sStart

/-- Count a phase's samples below and at or above V_MIN (R228). -/
def countPhase (r : ElemRec) (len : Nat) (e : Elem) : Elem :=
  let hs := e.hist.take len
  let lowNow (i : Nat) : Bool := F64.lt (rmsOf len (hs.map (fun x => nthD x.v2 i 0))) (vMinOf r)
  let k := (hs.headD {}).v2.length
  { e with low := (List.range 3).map (fun i => if i < k && lowNow i then nthD e.low i 0 + 1 else 0),
           high := (List.range 3).map (fun i => if i < k && !lowNow i then nthD e.high i 0 + 1 else 0) }

/-- One sample of every element: its history grows, and its cycle means are formed. -/
def sampleElems (o : Tbl ChOut) (s : State) : State × List Meas :=
  let upd := s.prs.elems.map (fun e =>
    let v := vsys s e.2.rc.sysB
    let h := (elemSample e.2.rc o :: e.2.hist).take 200
    let el := countPhase e.2.rc v.n { e.2 with hist := h }
    let clip := (elemChans e.2.rc).any (fun c => (Tbl.at o c {}).clip)
    ((e.1, el), measure e.1 e.2.rc h v.freq v.n clip))
  ({ s with prs.elems := upd.map (·.1) }, upd.map (·.2))

/-! ### Energies (R212, R224) -/

/-- Ts_meas in s: the mean difference of consecutive stamps; 125 us before there is one. -/
def tsMeas (s : State) : F64 :=
  if s.prs.diffs.isEmpty then F64.ofDec 125 6
  else F64.div (F64.ofInt (s.prs.diffs.foldl (· + ·) 0 : Nat)) (F64.ofInt (s.prs.diffs.length * 1000000000 : Nat))

/-- A power for one sample period as energy in units of 2^-32 mWh (or mvarh, mVAh), to nearest, ties to even. -/
def energyUnits (x ts : F64) : Nat :=
  let e := F64.div (F64.mul (F64.mul (F64.abs x) ts) (F64.ofInt 1000)) (F64.ofInt 3600)
  if F64.fin e then (Float.roundScaled Float.b64 e.toNat 32).toNat else 0

/-- One whole unit of an accumulator. -/
def unit32 : Nat := 2 ^ 32

/-- Add to accumulator `i` (a 64-bit integer part and a 32-bit fraction). -/
def addAcc (i k : Nat) (a : List Nat) : List Nat := a.set i ((nthD a i 0 + k) % 2 ^ 96)

/-- Integer part of an accumulator. -/
def accInt (a : List Nat) (i : Nat) : Nat := nthD a i 0 / unit32

/-- Length of an element's demand window in ns. -/
def demandNs (r : ElemRec) : Nat := r.demandMin * 60000000000

/-- Quadrant's accumulator (R220, Table 7.6), Q = 0 taken as positive. -/
def quadIdx (isExp : Bool) (q : F64) : Nat :=
  let lag := F64.le 0 q
  if isExp then (if lag then 3 else 4) else (if lag then 2 else 5)

/-! ### Published points (R241, R242) -/

/-- Bits of POINT_MASK with their phase, in the order of Table 7.8. -/
def pointLayout (r : ElemRec) : List (Nat × Nat) :=
  (List.range 14).flatMap (fun b =>
    if bitOf r.pointMask b then
      (List.range (if (b == 5 || b == 6) && r.scheme != 1 then 3 else 1)).map (fun i => (b, i))
    else [])

/-- Conditions of the element's quality (R242). -/
def elemConds (s : State) (e : Elem) : List Byte :=
  let cs := namedChans e.rc
  (if e.pub.range then [qRange] else []) ++
  (if cs.any (fun c => (chan s c).tasteFault) then [qCal] else []) ++
  (if trusted s 1 then [] else [qTime]) ++
  (if cs.any (fun c => (chan s c).fault) then [qSource] else [])

/-- Write some of an element's points over HC6: those of the layout for which `f` gives a value. -/
def writeElem (n : Nat) (stamp : Nat) (f : Nat → Nat → Option DWord) (s : State) : State :=
  match elem? s n with
  | none => s
  | some e =>
    let q := qualityOf (elemConds s e)
    let items := (pointLayout e.rc).zipIdx.filterMap (fun x => (f x.1.1 x.1.2).map (fun v => (x.2, v)))
    if items.isEmpty then s
    else if isRun s .trellis then
      let s := items.foldl (fun s x =>
        writeQ pvPress (n * 32 + x.1) e.rc.cask (e.rc.pointBase + x.1) x.2 q (BitVec.ofNat 64 stamp) s) s
      updElem n (fun e => { e with pubAt := s.now, lost := false }) s
    else xchRefuse 6 .press .trellis s

/-- A binary64 number as a REAL32 point value. -/
def realPt (x : F64) : DWord := BitVec.ofNat 64 (F64.to32 x).toNat

/-- Projected demand of R231 in W. -/
def projected (e : Elem) (en : Nat) (p : F64) (t : Nat) : F64 :=
  let w := F64.mul (F64.div (F64.ofInt en) (F64.ofInt unit32)) (F64.ofInt 3600000000)
  let more := F64.mul (F64.max p 0) (F64.ofInt (e.a.win.endT - t : Nat))
  F64.div (F64.add w more) (F64.ofInt (demandNs e.rc))

/-- Root of a mean square kept as a sum. -/
def rootMean (sum : F64) (n : Nat) : F64 := F64.sqrt (F64.div sum (F64.ofInt n))

/-- The points of a complete publication block (R231, R242), stamped with the block's last sample. -/
def publishBlock (n : Nat) (t : Nat) (s : State) : State :=
  match elem? s n with
  | none => s
  | some e =>
    let b := e.pub
    if b.n == 0 then s
    else
      let m := F64.ofInt b.n
      let p := F64.div b.p m
      let q := F64.div b.q m
      let sp := F64.div b.s m
      let ph (l : List F64) (i : Nat) : F64 :=
        if e.rc.scheme == 2 then
          (if i == 0 then rootMean (nthD l 0 0) b.n else if i == 2 then rootMean (nthD l 1 0) b.n else freeNow s)
        else rootMean (nthD l i 0) b.n
      let val (bit i : Nat) : Option DWord :=
        match bit with
        | 0 => some (realPt p)
        | 1 => some (realPt q)
        | 2 => some (realPt sp)
        | 3 => some (realPt (if F64.eq sp 0 then 0 else F64.div p sp))
        | 4 => some (realPt (F64.div b.f m))
        | 5 => some (realPt (ph b.v2 i))
        | 6 => some (realPt (ph b.i2 i))
        | 7 => some (realPt (projected e e.a.win.imp e.lastP t))
        | 8 => some (realPt (projected e e.a.win.exp (F64.neg e.lastP) t))
        | 11 => some (BitVec.ofNat 64 (accInt e.a.acc 0))
        | 12 => some (BitVec.ofNat 64 (accInt e.a.acc 1))
        | 13 => some (if e.a.isExport then 1 else 0)
        | _ => none
      let s := writeElem n t val s
      let s := if e.rc.scheme == 2 then bumpFree s else s
      updElem n (fun e => { e with blkP := F64.to32 p, blkQ := F64.to32 q, blkS := F64.to32 sp }) s

/-- A new publication block that contains stamp `t`. -/
def newBlock (n t : Nat) (s : State) : State :=
  updElem n (fun e =>
    let l := e.rc.pubMs * 1000000
    { e with pub := { endT := (t / l + 1) * l } }) s

/-! ### Windows (R229 to R233, R245, R260) -/

/-- Flag bits of Table 7.7. -/
def fTIME_STEP : Nat := 1
def fSHORT : Nat := 2
def fUNC_TIME : Nat := 4
def fCLIP : Nat := 8
def fPHASE_LOSS : Nat := 16
def fPOWER : Nat := 32

/-- Set a flag of the open window. -/
def flagWin (n f : Nat) (s : State) : State :=
  updElem n (fun e => { e with a.win.flags := e.a.win.flags ||| f }) s

/-- A window takes TIME_STEP (R233). -/
def stepFlag (n : Nat) (s : State) : State :=
  match elem? s n with
  | some e => record cPRS_TIME_STEP e.rc.cask (d1 n) (flagWin n fTIME_STEP s)
  | none => s

/-- Open the window that contains instant `t`, beginning at `start` (R229); off its grid it takes SHORT (R245). -/
def openWin (n start t : Nat) (s : State) : State :=
  updElem n (fun e =>
    let l := demandNs e.rc
    { e with a.win := { isOpen := true, start := start, endT := (t / l + 1) * l,
                        flags := if start % l == 0 then 0 else fSHORT } }) s

/-- Demand of a closed window in mW (R230): over T, or over its samples with TIME_STEP or SHORT. -/
def demandMw (s : State) (r : ElemRec) (w : Win) : Nat :=
  let byN := w.flags &&& (fTIME_STEP + fSHORT) != 0
  let k := s.prs.diffs.length
  -- divisor in ns as num / den
  let num := if byN then w.samples * (if k = 0 then 125000 else s.prs.diffs.foldl (· + ·) 0) else demandNs r
  let den := if byN && k ≠ 0 then k else 1
  if num = 0 then 0 else w.imp * 3600000000000 * den / (unit32 * num)

/-- The open window closes (R230): recorded, published, netted (R227), and the maximum demand updated (R232). -/
def closeWin (n : Nat) (s : State) : State :=
  match elem? s n with
  | none => s
  | some e =>
    let w := e.a.win
    let s := updElem n (fun e => { e with a.last := w, a.win := { e.a.win with isOpen := false } }) s
    let s := writeElem n w.start (fun b _ => match b with
      | 9 => some (BitVec.ofNat 64 (w.imp / unit32))
      | 10 => some (BitVec.ofNat 64 (w.exp / unit32))
      | _ => none) s
    let d := demandMw s e.rc w
    let s := updElem n (fun e =>
      let acc := if e.rc.netMode == 1 then
          (if w.exp < w.imp then addAcc 8 (w.imp - w.exp) e.a.acc else addAcc 9 (w.exp - w.imp) e.a.acc) else e.a.acc
      { e with a.acc := acc, a.mdImp := max e.a.mdImp d, a.mdStart := if e.a.mdImp < d then w.start else e.a.mdStart }) s
    let s := (elemChans e.rc).foldl (fun s c => updChan c (fun c => { c with clipTold := false }) s) s
    { s with prs.pulses := Tbl.mapV s.prs.pulses (fun _ p => if p.rc.elem == n then { p with lagTold := false } else p) }

/-- A channel takes its changed record (R246); a change of GAIN_CAL or PHASE resets its factors (R266). -/
def takeChan (c : Nat) (s : State) : State :=
  updChan c (fun h => match h.next with
    | some r =>
      let h := { h with rc := r, next := none, gain := if r.autoGain then h.gain else r.gain }
      if r.cal != (chan s c).rc.cal || r.phase != (chan s c).rc.phase then
        { h with tau := List.replicate 4 0x3FF0000000000000, tauAt := List.replicate 4 s.now } else h
    | none => h) s

/-- The accumulators, residues and maximum demand of an element go back to 0, after PRS_ELEM_CLOSED (R245). -/
def zeroElem (n : Nat) (s : State) : State :=
  match elem? s n with
  | none => s
  | some e =>
    let s := record cPRS_ELEM_CLOSED e.rc.cask
      (d1 n ++ toLe 6 (accInt e.a.acc 0) ++ toLe 6 (accInt e.a.acc 1)) s
    let s := { s with prs.pulses := Tbl.mapV s.prs.pulses (fun _ p =>
                 if p.rc.elem == n then { p with resImp := 0, resExp := 0 } else p) }
    updElem n (fun e => { e with a := { e.a with acc := List.replicate 26 0, mdImp := 0, mdStart := 0 } }) s

/-- Two records measure the same circuit (R245). -/
def sameCircuit (a b : ElemRec) : Bool :=
  a.cask == b.cask && a.scheme == b.scheme && a.sysB == b.sysB && a.phase == b.phase && a.iCh == b.iCh

/-- A changed record takes effect after the close of the old window (R245). -/
def changeElem (n : Nat) (s : State) : State :=
  match elem? s n with
  | none => s
  | some e => match e.next with
    | none => s
    | some r =>
      let s := if sameCircuit e.rc r then s else zeroElem n s
      updElem n (fun e => { e with rc := r, next := none, hist := if sameCircuit e.rc r then e.hist else [] }) s

/-- Points of an element. -/
def elemPoints (e : Elem) : List Nat := (List.range (pointLayout e.rc).length).map (fun m => e.rc.pointBase + m)

/-- A removed element goes, and its points are lost (R245, R92). -/
def removeElem (n : Nat) (s : State) : State :=
  match elem? s n with
  | none => s
  | some e => substituteAll (elemPoints e) { s with prs.elems := Tbl.del s.prs.elems n }

/-- The element's open window ends at or before stamp `t`: it closes, a waiting record or removal takes effect, and the window
that contains `t` opens. -/
def rollWin (n t : Nat) (s : State) : State :=
  match elem? s n with
  | none => s
  | some e =>
    let endT := e.a.win.endT
    let s := closeWin n s
    let s := (namedChans e.rc).foldl (fun s c => takeChan c s) s
    if e.removing then removeElem n s
    else match e.next with
      | none => openWin n (t / demandNs e.rc * demandNs e.rc) t s
      | some r =>
        let s := changeElem n s
        let s := (namedChans r).foldl (fun s c => takeChan c s) s
        let l := demandNs r
        openWin n (if t < endT + l then endT else t / l * l) t s

/-- An added element activates at a stamp at or after its instant, with a first window from there (R245). -/
def activateElem (n t : Nat) (s : State) : State :=
  match elem? s n with
  | none => s
  | some e =>
    let s := (namedChans e.rc).foldl (fun s c => takeChan c s) s
    let l := demandNs e.rc
    let start := if e.actAt < t / l * l then t / l * l else e.actAt
    newBlock n t (openWin n start t (updElem n (fun e => { e with active := true, pubAt := s.now }) s))

/-! ### Pulses (R237, R239) -/

/-- Residue threshold: 10^6 mWh in units of 2^-32 mWh * K. -/
def pulseUnit : Nat := 1000000 * unit32

/-- What a booked sample feeds an output: direction (true: export) and energy. -/
def pulseFeed (r : PulseRec) (isExp : Bool) (quad e eq es : Nat) : Bool × Nat :=
  if r.mode == 2 then (isExp, e)
  else match r.qty with
    | 0 => (false, if isExp then 0 else e)
    | 1 => (false, if isExp then e else 0)
    | 6 => (false, if isExp then 0 else es)
    | 7 => (false, if isExp then es else 0)
    | k => (false, if k == quad then eq else 0)

/-- Width of an output in ns. -/
def pulseWidth (p : Pulse) : Nat := p.rc.widthUs * 1000

/-- The direction level changes when no pulse of the old direction is owed (R240). -/
def turnLevel (p : Pulse) (now : Nat) : Pulse :=
  if p.rc.mode == 2 && !p.owed.isEmpty && !p.owed.any (fun x => x.1 == p.dirExport) then
    { p with dirExport := !p.dirExport, dirAt := now } else p

/-- Feed one output: its residue grows, and each threshold crossed owes a pulse at its interpolated instant (R238). -/
def feedPulse (n : Nat) (dir : Bool) (amt : Nat) (cask : Nat) (s : State) : State :=
  let p := pulse s n
  let add := amt * p.rc.k
  if add == 0 then s
  else
    let old := if dir then p.resExp else p.resImp
    let sum := old + add
    let cnt := sum / pulseUnit
    let base := s.now - 125000
    let new := (List.range cnt).map (fun j => (dir, base + 125000 * (pulseUnit * (j + 1) - old) / add))
    let owed := p.owed ++ new
    let lag := decide (1 < owed.length) && !p.lagTold
    let s := updPulse n (fun p =>
      let p := if dir then { p with resExp := sum % pulseUnit } else { p with resImp := sum % pulseUnit }
      turnLevel { p with owed := owed, lagTold := p.lagTold || lag } s.now) s
    if lag then record cPRS_PULSE_LAG cask (d1 n) s else s

/-- Feed every output of an element (R236). -/
def feedPulses (el : Nat) (isExp : Bool) (quad e eq es cask : Nat) (s : State) : State :=
  s.prs.pulses.foldl (fun s x =>
    if (x.2.rc.mode == 1 || x.2.rc.mode == 2) && x.2.rc.elem == el then
      let f := pulseFeed x.2.rc isExp quad e eq es
      feedPulse x.1 f.1 f.2 cask s
    else s) s

/-! ### Booking (R224 to R226) -/

/-- Element-wise sum of squares into a block. -/
def addList (a b : List F64) : List F64 := (List.range 3).map (fun i => F64.add (nthD a i 0) (nthD b i 0))

/-- Clipped channels of an element: interval flag, block quality, and the event once per channel and interval (R215). -/
def noteClips (n : Nat) (m : Meas) (o : List Nat) (s : State) : State :=
  if !m.clip then s
  else match elem? s n with
    | none => s
    | some e =>
      let s := flagWin n fCLIP s
      (elemChans e.rc).foldl (fun s c =>
        if o.contains c && !(chan s c).clipTold then
          record cPRS_CLIP e.rc.cask (d1 n ++ d1 c) (updChan c (fun c => { c with clipTold := true }) s)
        else s) s

/-- Count a sample for its block and its window's flags, whether or not it is booked. -/
def countSample (n : Nat) (m : Meas) (s : State) : State :=
  let unT := !trusted s 1
  let far := F64.lt m.f (F64.ofInt 45) || F64.lt (F64.ofInt 65) m.f
  updElem n (fun e =>
    let b := e.pub
    { e with a.win.samples := e.a.win.samples + 1,
             a.win.flags := if unT then e.a.win.flags ||| fUNC_TIME else e.a.win.flags,
             lastP := m.p,
             pub := { b with n := b.n + 1, p := F64.add b.p m.p, q := F64.add b.q m.q, s := F64.add b.s m.s,
                             f := F64.add b.f m.f, v2 := addList b.v2 m.v2, i2 := addList b.i2 m.i2,
                             range := b.range || far || m.clip } }) s

/-- Book one sample of an element (R224): a sample below S_START is not booked. -/
def bookEnergy (n : Nat) (m : Meas) (s : State) : State :=
  match elem? s n with
  | none => s
  | some e =>
    if F64.lt m.s (sStartOf e.rc) then s
    else
      let ts := tsMeas s
      let en := energyUnits m.p ts
      let eq := energyUnits m.q ts
      let es := energyUnits m.s ts
      let isExp := F64.lt m.p 0
      let t := (tariff s e.rc.trfGroup).cur
      let quad := quadIdx isExp m.q
      let s := updElem n (fun e =>
        let a := addAcc (if isExp then 1 else 0) en e.a.acc
        let a := addAcc ((if isExp then 11 else 10) + 2 * t) en a
        let a := addAcc (if isExp then 7 else 6) es a
        let a := addAcc quad eq a
        { e with a.acc := a, a.win.imp := if isExp then e.a.win.imp else e.a.win.imp + en,
                 a.win.exp := if isExp then e.a.win.exp + en else e.a.win.exp,
                 opp := if isExp == e.a.isExport then 0 else e.opp + 1 }) s
      let s := { s with prs.ret := { s.prs.ret with
                   imp := if isExp then s.prs.ret.imp else Tbl.upd s.prs.ret.imp n 0 (· + en),
                   exp := if isExp then Tbl.upd s.prs.ret.exp n 0 (· + en) else s.prs.ret.exp } }
      feedPulses n isExp quad en eq es e.rc.cask s

/-- MD_IMP is reset after a close in the same sample (R232). -/
def takeMdReset (n : Nat) (s : State) : State :=
  match elem? s n with
  | none => s
  | some e =>
    if e.mdReset then
      record cPRS_MD_RESET e.rc.cask (d1 n ++ toLe 8 e.a.mdImp)
        (updElem n (fun e => { e with mdReset := false, a.mdImp := 0, a.mdStart := 0 }) s)
    else s

/-- One sample of an element at stamp `t`, `prev` the stamp before it: block and window boundaries, then booking. -/
def bookElem (t prev : Nat) (step restart : Bool) (clipped : List Nat) (m : Meas) (s : State) : State :=
  let n := m.elem
  let s := match elem? s n with
    | some e => if !e.active && e.actAt ≤ t && e.actAt != 0 then activateElem n t s else s
    | none => s
  match elem? s n with
  | none => s
  | some e =>
    if !e.active then s
    else
      let l := e.rc.pubMs * 1000000
      let s := if e.pub.endT == 0 then newBlock n t s
               else if e.pub.endT ≤ t || t + l < e.pub.endT then newBlock n t (publishBlock n prev s) else s
      let s := if restart && e.a.win.isOpen then flagWin n fPOWER s else s
      let s := if step && e.a.win.isOpen then stepFlag n s else s
      let rolled := e.a.win.isOpen && e.a.win.endT ≤ t
      let s := if !e.a.win.isOpen then openWin n (t / demandNs e.rc * demandNs e.rc) t s
               else if rolled then rollWin n t s else s
      let s := if rolled && step then stepFlag n s else s
      let s := if restart then flagWin n fPOWER s else s
      bookEnergy n m (countSample n m (noteClips n m clipped (takeMdReset n s)))

/-- Take every tariff switch whose instant lies at or before the stamp (R234). -/
def takeSwitches (t : Nat) (s : State) : State :=
  { s with prs.tariffs := Tbl.mapV s.prs.tariffs (fun _ g =>
      let due := g.queue.takeWhile (fun x => x.1 ≤ t)
      { g with cur := (due.getLast?.map (·.2)).getD g.cur, queue := g.queue.dropWhile (fun x => x.1 ≤ t) }) }

/-- The first booked sample after a restart tells the gap, whether a final save preceded it, and the sequence (R260). -/
def noteRestart (t : Nat) (s : State) : State :=
  match s.prs.restart with
  | some (st, fin, sq) => record cPRS_RESTART 0 (d4 ((t - st) / 1000000) ++ d1 (b2n fin) ++ d4 sq) s
  | none => s

/-- Book one sample of all elements, stamped `t` (R224, R233, R260). The first booked sample after a restart is the first one with a
structure image in force, since elements are booked from then on. -/
def bookSample (t : Nat) (clipped : List Nat) (ms : List Meas) (s : State) : State :=
  let restart := s.prs.restart.isSome && s.img.loaded
  let prev := s.prs.lastStamp.getD t
  let step := s.prs.lastStamp.isSome && !restart && (decide (prev + 126000 < t) || decide (t < prev + 124000))
  let s := if s.prs.lastStamp.isSome && !restart && !step then
             { s with prs.diffs := ((t - prev) :: s.prs.diffs).take 8000 } else s
  let s := takeSwitches t s
  let s := if restart then noteRestart t s else s
  let s := ms.foldl (fun s m => bookElem t prev step restart clipped m s) s
  { s with prs.lastStamp := some t, prs.restart := if restart then none else s.prs.restart,
           prs.ret.samples := s.prs.ret.samples + 1 }

end Sys2Proof.Machine
end

