-- ==== Sys2Proof/Machine/Press.lean ====
section
/-!
DEFINITION. Press.lean: the commands of Press: sampling, gain, crossings, pulses, tariffs, snapshots, saves, restart, theft watch and
tasting (spec/07_press_metering.md, spec/08_press_continuity_and_tasting.md).
-/
namespace Sys2Proof.Machine

/-! ### Beginning a tasting run (R267) -/

/-- The reference check departs by more than 200 ppm (R267). -/
def refBad (z c : Int) : Bool := decide (200 < z.natAbs) || decide (200 < c.natAbs)

/-- The next USED channel after `c` in rotation. -/
def nextTaste (s : State) (c : Nat) : Option Nat :=
  ((List.range 54).map (fun i => (c + 1 + i) % 54)).find? (fun i => (chan s i).rc.used)

/-- Begin a run on a channel, unless the reference check fails. -/
def beginRun (ch : Nat) (z c : Int) (s : State) : State :=
  if refBad z c then
    record cPRS_TASTE_REF 0 (d1 ch)
      { s with prs.taste := { s.prs.taste with state := .halted, code := cPRS_TASTE_REF, run := false } }
  else
    { s with prs.taste := { s.prs.taste with ch := ch, gain := if ch < 48 then (chan s ch).gain else 0, run := true, ok := true,
                                             n := 0, sumRy := 0, sumYy := 0, sumXx := 0 } }

/-- Begin the run that follows, by state. -/
def followRun (z c : Int) (s : State) : State :=
  match s.prs.taste.state with
  | .rotation => match nextTaste s s.prs.taste.ch with
    | some ch => beginRun ch z c s
    | none => { s with prs.taste.run := false }
  | .single => beginRun s.prs.taste.ch z c s
  | _ => { s with prs.taste.run := false }

/-- Tasting that has no run in progress begins the next one (R257, R271). No command carries the reference check of such a run: its
two readings are free values. -/
def restartTaste (s : State) : State :=
  let t := s.prs.taste
  if t.run || s.pwr.warn || s.pwr.awaitSave.isSome then s
  else
    let z := sOf 64 (freeNow s).toNat
    let c := sOf 64 (freeNow (bumpFree s)).toNat
    match t.state with
    | .rotation => if (nextTaste s t.ch).isSome then followRun z c (bumpFree (bumpFree s)) else s
    | .single => followRun z c (bumpFree (bumpFree s))
    | _ => s

/-! ### One sample (R212 to R258) -/

/-- A tasting run takes the sample: valid while the main path keeps one gain with no hand-over and no clip (R268, R269). -/
def tasteSample (o : Tbl ChOut) (ref : F64) (s : State) : State :=
  let t := s.prs.taste
  if !t.run then s
  else
    let c := chan s t.ch
    let x := Tbl.at o t.ch {}
    let y := F64.mul x.x (nthD c.tau t.gain 0)
    { s with prs.taste := { t with
        n := t.n + 1, ok := t.ok && x.main && !x.clip && c.gain == t.gain,
        sumRy := F64.add t.sumRy (F64.mul ref y), sumYy := F64.add t.sumYy (F64.mul y y),
        sumXx := F64.add t.sumXx (F64.mul x.x x.x) } }

/-- Energy of a sample that is neither held nor booked joins the restart total (R258). -/
def addTotal (ms : List Meas) (s : State) : State :=
  let ts := tsMeas s
  { s with
    prs.total := ms.foldl (fun t m =>
      let en := energyUnits m.p ts
      Tbl.upd t m.elem (0, 0) (fun x => if F64.lt m.p 0 then (x.1, x.2 + en) else (x.1 + en, x.2))) s.prs.total,
    prs.totalN := s.prs.totalN + 1 }

/-- PRESS_SAMPLE: every channel converts, every element forms its cycle means, and the sample is booked; before restoration it is
held for up to 64 ms, then summed (R258). -/
def pressSampleOp (main guard : List (Nat × Int)) (ref : F64) (s : State) : State :=
  let t := localNs s .press 1
  let r := sampleChans main guard s
  let o := r.2
  let s := sampleSystems o r.1
  let r2 := sampleElems o s
  let s := restartTaste (tasteSample o ref r2.1)
  let s := bumpFree s
  let clipped := (o.filter (fun x => x.2.clip)).map (·.1)
  if s.prs.restored then bookSample t clipped r2.2 s
  else if !s.prs.holdFull && s.prs.held.length < 512 then
    { s with prs.held := s.prs.held ++ [{ stamp := t, clipped := clipped, meas := r2.2 }] }
  else addTotal r2.2 s

def execPressSample (main guard : List (Nat × Int)) (ref : F64) (s : State) : Out :=
  .next (if isRun s .press then pressSampleOp main guard ref s else s)

/-- GAIN_STEP_UP (Table 7.2). -/
def execGainStepUp (ch : Fin 48) (s : State) : Out :=
  let c := chan s ch
  .next (if isRun s .press && c.rc.used && c.rc.autoGain && !c.handing && 8 ≤ c.quiet && c.gain < 3 then
    updChan ch (startHandover (c.gain + 1) 3) s else s)

/-- HANDOVER_END (R214). -/
def execHandoverEnd (ch : Fin 48) (s : State) : Out :=
  let c := chan s ch
  .next (if isRun s .press && c.handing && c.handLeft == 0 then updChan ch endHandover s else s)

/-- ZERO_CROSSING: the crossing is kept, and when its phase is the one used the frequency and cycle length follow (R219). -/
def zeroCrossOp (b : Bool) (ph : Nat) (s : State) : State :=
  let v := vsys s b
  let v := { v with cross := v.cross.set ph ((s.now :: nthD v.cross ph []).take 11) }
  let v := match validPhase v with
    | some (i, f) => if i == ph then { v with freq := f, n := cycleLen f } else v
    | none => { v with freq := 0, n := 160 }
  updVsys b (fun _ => v) s

def execZeroCrossing (sys : Fin 2) (phase : Fin 3) (s : State) : Out :=
  .next (if isRun s .press then zeroCrossOp (sys == 1) phase s else s)

/-- PRS_DIR_CHANGE (R226). -/
def execPrsDirChange (elem : Fin 48) (s : State) : Out :=
  match elem? s elem with
  | none => .next s
  | some e =>
    let n := (vsys s e.rc.sysB).n
    .next (if isRun s .press && e.active && n ≤ e.opp then
      let x := !e.a.isExport
      let s := updElem elem (fun e => { e with opp := 0, a.isExport := x, a.dirCnt := satInc e.a.dirCnt max32,
                                               a.win.dirs := e.a.win.dirs + 1 }) s
      let s := writeElem elem (s.prs.lastStamp.getD 0) (fun b _ => if b == 13 then some (if x then 1 else 0) else none) s
      record cPRS_DIR_CHANGE e.rc.cask (d1 elem ++ d1 (b2n x)) s
    else s)

/-- One phase of PRS_PHASE_LOSS. -/
def phaseLossOp (n i : Nat) (s : State) : State :=
  match elem? s n with
  | none => s
  | some e =>
    let len := 10 * (vsys s e.rc.sysB).n
    if !bitOf e.phaseLoss i && len ≤ nthD e.low i 0 then
      let s := flagWin n fPHASE_LOSS (updElem n (fun e => { e with phaseLoss := e.phaseLoss + 2 ^ i }) s)
      record cPRS_PHASE_LOSS e.rc.cask (d1 n ++ d1 (2 ^ i)) s
    else if bitOf e.phaseLoss i && len ≤ nthD e.high i 0 then
      updElem n (fun e => { e with phaseLoss := e.phaseLoss - 2 ^ i }) s
    else s

/-- PRS_PHASE_LOSS (R228). -/
def execPrsPhaseLoss (elem : Fin 48) (s : State) : Out :=
  .next (if isRun s .press then (List.range 3).foldl (fun s i => phaseLossOp elem i s) s else s)

/-- PRESS_POINTS_LOST (R243). -/
def execPressPointsLost (elem : Fin 48) (s : State) : Out :=
  match elem? s elem with
  | none => .next s
  | some e =>
    .next (if isRun s .trellis && e.active && !e.lost && e.pubAt + 3 * e.rc.pubMs * 1000000 ≤ s.now then
      substituteAll (elemPoints e) (updElem elem (fun e => { e with lost := true }) s) else s)

/-- PRESS_CONVERTER_FAULT: the channel's FAULT bit follows, and the points of its elements are written with the quality that then
holds (R242). -/
def converterFaultOp (ch : Nat) (present : Bool) (s : State) : State :=
  let s := updChan ch (fun c => { c with fault := present }) s
  s.prs.elems.foldl (fun s e =>
    if e.2.active && (namedChans e.2.rc).contains ch then
      publishBlock e.1 (s.prs.lastStamp.getD 0) s else s) s

def execPressConverterFault (ch : Fin 54) (present : Bool) (s : State) : Out :=
  .next (if isRun s .press && (chan s ch).fault != present then converterFaultOp ch present s else s)

/-! ### Pulses (R236 to R240, R256) -/

/-- The next pulse: the oldest one owed in the direction the level shows. -/
def nextPulse (p : Pulse) : Option (Bool × Nat) :=
  if p.rc.mode == 2 then p.owed.find? (fun x => x.1 == p.dirExport) else p.owed.head?

/-- PULSE_START (R238): not before its instant, the previous pulse's times, or WIDTH_US after a change of direction level, and
not while a VIN-fail warning holds pulses. -/
def execPulseStart (n : Fin 8) (s : State) : Out :=
  let p := turnLevel (pulse s n) s.now
  let s' := { s with prs.pulses := Tbl.put s.prs.pulses n p }
  .next (if !isRun s .press || s.pwr.warn || p.on || p.rc.mode == 0 || p.rc.mode == 3 then s
    else match nextPulse p with
      | none => s
      | some x =>
        if x.2 ≤ s.now && p.until0 ≤ s.now && (p.rc.mode != 2 || p.dirAt == 0 || p.dirAt + pulseWidth p ≤ s.now) then
          let p' := { p with on := true, until0 := s.now + pulseWidth p, count := (p.count + 1) % 2 ^ 32, owed := p.owed.erase x }
          { s with prs.pulses := Tbl.put s.prs.pulses n p' }
        else s')

/-- PULSE_END (R236): the off time of WIDTH_US follows. -/
def execPulseEnd (n : Fin 8) (s : State) : Out :=
  let p := pulse s n
  let p' := turnLevel { p with on := false, until0 := s.now + pulseWidth p } s.now
  .next (if p.on && p.until0 ≤ s.now then { s with prs.pulses := Tbl.put s.prs.pulses n p' } else s)

/-! ### Register commands -/

/-- Code of the issuer's last PRS command. -/
def setPrsStatus (iss : Issuer) (code : Nat) (s : State) : State :=
  { s with prs.cmdStatus := Tbl.put s.prs.cmdStatus iss.cask code, reply := .code code }

/-- A command that travels to Press over HC7 (R29). -/
def toPress (f : State → State) (s : State) : State :=
  if isRun s .press then f s else xchRefuse 7 .cluster .press s

/-- A command of cask 0's map only (R247). -/
def prsCmd (iss : Issuer) (off : Nat) (f : State → State) (s : State) : Out :=
  regCmd iss .prs off (fun s => if isOwner iss then toPress f s else s) s

/-- PRS_MD_RESET. -/
def execMdReset (iss : Issuer) (elem : Fin 64) (s : State) : Out :=
  prsCmd iss 0x0010 (fun s =>
    match elem? s elem with
    | none => setPrsStatus iss cPRS_NO_ELEMENT s
    | some _ => setPrsStatus iss cPRS_OK (updElem elem (fun e => { e with mdReset := true }) s)) s

/-- PRS_TRF_g_CMD PUSH (R235). -/
def execTariffPush (iss : Issuer) (g : Fin 4) (index : Fin 8) (s : State) : Out :=
  prsCmd iss (0x0608 + 16 * g.val) (fun s =>
    let t := tariff s g
    let at0 := t.atLo.toNat + 2 ^ 32 * t.atHi.toNat
    let last := (t.queue.getLast?.map (·.1)).getD 0
    if (!t.queue.isEmpty && at0 ≤ last) || at0 ≤ localNs s .press 1 then setPrsStatus iss cPRS_TRF_ORDER s
    else if 16 ≤ t.queue.length then setPrsStatus iss cPRS_TRF_FULL s
    else setPrsStatus iss cPRS_OK
      { s with prs.tariffs := Tbl.put s.prs.tariffs g { t with queue := t.queue ++ [(at0, index.val)] } }) s

/-- PRS_TRF_g_CMD CLEAR. -/
def execTariffClear (iss : Issuer) (g : Fin 4) (s : State) : Out :=
  prsCmd iss (0x0608 + 16 * g.val) (fun s =>
    setPrsStatus iss cPRS_OK
      { s with prs.tariffs := Tbl.upd s.prs.tariffs g {} (fun t => { t with queue := [] }) }) s

/-! ### Snapshots (R247, R250) -/

/-- A cask's snapshot bank. -/
def snapBank (s : State) (c : Nat) : SnapBank := Tbl.at s.prs.banks c {}
/-- Set a cask's snapshot bank. -/
def setSnapBank (c : Nat) (b : SnapBank) (s : State) : State := { s with prs.banks := Tbl.put s.prs.banks c b }

/-- PRS_ACC_SEL: a request, refused under R40 for another cask's element. -/
def execAccumulatorSnapshot (iss : Issuer) (elem : Fin 64) (s : State) : Out :=
  regCmd iss .prs 0x0300 (fun s =>
    let c := iss.cask.val
    let b := snapBank s c
    match elem? s elem with
    | none => setSnapBank c { sel := elem, undef := true } s
    | some e =>
      if c != 0 && c != e.rc.cask then
        denied 0x05 6 elem e.rc.cask 0x0300 c (setSnapBank c { sel := elem, denied := true } s)
      else toPress (setSnapBank c { b with sel := elem, busy := true, denied := false, undef := false, aborted := false }) s) s

/-- Snapshot values 0 to 33 of an element. -/
def snapWords (s : State) (e : Elem) : List Nat :=
  let l := e.a.last
  (List.range 26).map (accInt e.a.acc) ++
  [l.start, l.imp / unit32, l.exp / unit32,
   l.samples % 2 ^ 32 + 2 ^ 32 * (l.flags % 256 + 256 * (min l.dirs 0xFFFF)),
   e.a.mdImp, 0, e.a.mdStart, s.prs.lastStamp.getD 0]

/-- SNAPSHOT_COMPLETE of a cask's bank. -/
def execSnapshotComplete (cask : Fin 63) (s : State) : Out :=
  let b := snapBank s cask
  .next (if b.busy && isRun s .press then
    match elem? s b.sel with
    | some e => setSnapBank cask { b with busy := false, words := snapWords s e } s
    | none => setSnapBank cask { b with busy := false, undef := true, words := [] } s
    else s)

/-! ### Activation (R245) -/

/-- ELEMENT_ACTIVATION: a changed or removed element at the end of its open window, an added one at its instant. -/
def elementActivationOp (n : Nat) (s : State) : State :=
  match elem? s n with
  | none => s
  | some e =>
    let t := localNs s .press 1
    if e.active then
      if (e.next.isSome || e.removing) && e.a.win.isOpen && e.a.win.endT ≤ t then rollWin n t s else s
    else if e.actAt ≤ t && e.actAt != 0 then activateElem n t s
    else s

def execElementActivation (elem : Fin 48) (s : State) : Out :=
  .next (if isRun s .press then elementActivationOp elem s else s)

/-! ### Tasting (R267 to R271) -/

/-- A rejected run (R269, R270). -/
def rejectRun (ch : Nat) (s : State) : State :=
  let c := chan s ch
  let fault := 3 ≤ c.rejected + 1 && !c.tasteFault
  let s := updChan ch (fun c => { c with rejected := c.rejected + 1, faults := c.faults + 1, goodRuns := 0,
                                         tasteFault := c.tasteFault || fault }) s
  if fault then record cPRS_TASTE_FAULT 0 (d1 ch) s else s

/-- A run whose rho is accepted moves its factor by one eighth, limited (R269, R270). -/
def acceptRun (ch g : Nat) (rho : F64) (s : State) : State :=
  let one := F64.ofInt 1
  let lo := F64.ofDec 995 3
  let hi := F64.ofDec 1005 3
  let old := nthD (chan s ch).tau g one
  let new := lim (F64.mul old (F64.add one (F64.div (F64.sub rho one) (F64.ofInt 8)))) lo hi
  let atLim := F64.eq new lo || F64.eq new hi
  let was := (chan s ch).tasteFault
  let s := updChan ch (fun c =>
    let good := if atLim then 0 else c.goodRuns + 1
    { c with tau := c.tau.set g new, tauAt := c.tauAt.set g s.now, rejected := 0, goodRuns := good,
             tasteFault := if atLim then true else c.tasteFault && good < 4 }) s
  if atLim && !was then record cPRS_TASTE_LIMIT 0 (d1 ch) s else s

/-- Judge a complete run (R268, R269). -/
def judgeRun (s : State) : State :=
  let t := s.prs.taste
  let rms := rootMean t.sumXx 16000
  let fs := F64.div (F64.ofInt 1) (F64.ofInt (4 ^ t.gain : Nat))
  if !t.ok || F64.lt rms (F64.mul (F64.ofDec 5 2) fs) then s
  else
    let rho := F64.div t.sumRy t.sumYy
    let s := { s with prs.taste.rho := rho }
    if F64.lt (F64.ofDec 2 3) (F64.abs (F64.sub rho (F64.ofInt 1))) then rejectRun t.ch s
    else { acceptRun t.ch t.gain rho s with prs.taste.code := cPRS_OK }

/-- TASTING_RUN_COMPLETE: a run of 16,000 samples is judged, and the next begins after its reference check. -/
def execTastingRunComplete (zeroPpm checkPpm : Int) (s : State) : Out :=
  .next (if isRun s .press && s.prs.taste.run && 16000 ≤ s.prs.taste.n then followRun zeroPpm checkPpm (judgeRun s) else s)

/-- Code of a tasting command. -/
def setTasteCode (code : Nat) (s : State) : State := { s with prs.taste.code := code, reply := .code code }

/-- PRS_TST_CTRL START. -/
def execTastingStart (iss : Issuer) (zeroPpm checkPpm : Int) (s : State) : Out :=
  prsCmd iss 0x0810 (fun s =>
    let s := setTasteCode cPRS_OK { s with prs.taste.state := .rotation }
    followRun zeroPpm checkPpm s) s

/-- PRS_TST_CTRL SINGLE: an unused channel gives PRS_TST_STATE. -/
def execTastingSingle (iss : Issuer) (ch : Fin 64) (zeroPpm checkPpm : Int) (s : State) : Out :=
  prsCmd iss 0x0810 (fun s =>
    let s := { s with prs.taste.ctrlCh := ch.val }
    if ch.val < 54 && (chan s ch).rc.used then
      let s := setTasteCode cPRS_OK { s with prs.taste.state := .single }
      beginRun ch zeroPpm checkPpm s
    else setTasteCode cPRS_TST_STATE s) s

/-- The run in progress is discarded and tasting ends (R271). -/
def stopTaste (s : State) : State := { s with prs.taste := { s.prs.taste with state := .idle, run := false } }

/-- PRS_TST_CTRL STOP. -/
def execTastingStop (iss : Issuer) (s : State) : Out :=
  prsCmd iss 0x0810 (fun s => setTasteCode cPRS_OK (stopTaste s)) s

/-! ### Abort (R248) -/

/-- Snapshots in progress end with ABORTED, and tasting stops. -/
def pressAbortOp (s : State) : State :=
  let s := { s with prs.banks := Tbl.mapV s.prs.banks (fun _ b => if b.busy then { b with busy := false, aborted := true } else b) }
  record cPRS_ABORTED 0 [] (stopTaste s)

def execPressAbort (iss : Issuer) (s : State) : Out := abortCmd iss 4 .press pressAbortOp s

/-! ### Saves (R251 to R257) -/

/-- The copy a save holds (Table 8.1). -/
def saveCopy (s : State) : SaveData :=
  { elems := (s.prs.elems.filter (fun e => e.2.active)).map (fun e => (e.1, e.2.rc, e.2.a)),
    chans := s.prs.chans.map (fun c => (c.1, c.2.tau, c.2.tauAt)),
    pulses := s.prs.pulses, tariffs := s.prs.tariffs }

/-- The newest valid bank: true is B (R252). -/
def newestB (s : State) : Bool :=
  s.prs.bankB.valid && (!s.prs.bankA.valid || s.prs.bankA.seq < s.prs.bankB.seq)

/-- The newest valid bank's record, if one is valid. -/
def newestBank (s : State) : Option SaveBank :=
  if newestB s then some s.prs.bankB else if s.prs.bankA.valid then some s.prs.bankA else none

/-- Begin a save: to the bank that does not hold the newest valid record, or to that of the save it replaces (R252, R255). -/
def beginSave (final : Bool) (s : State) : State :=
  let b := match s.prs.saving with
    | some v => v.bankB
    | none => if (newestBank s).isSome then !newestB s else false
  let v : Saving := { bankB := b, final := final, data := saveCopy s, stamp := s.prs.lastStamp.getD 0, ret := s.prs.ret }
  { s with prs.saving := some v }

/-- PERIODIC_SAVE: at the first sample of each second of domain 1. -/
def execPeriodicSave (s : State) : Out :=
  let sec := localNs s .press 1 / 1000000000
  .next (if isRun s .press && s.prs.restored && s.prs.savedSec != some sec &&
      !(match s.prs.saving with | some v => v.final | none => false) then
    beginSave false { s with prs.savedSec := some sec } else s)

/-- Reduce the since-save counters by what the copy held (R253). -/
def reduceRet (r c : Retained) (tag : Nat) : Retained :=
  { valid := true, tag := tag, imp := Tbl.mapV r.imp (fun k v => v - Tbl.at c.imp k 0),
    exp := Tbl.mapV r.exp (fun k v => v - Tbl.at c.exp k 0), samples := r.samples - c.samples }

/-- SAVE_COMMIT: the commit word is written, or the bank fails its read-back (R253, R254). -/
def saveCommitOp (ok : Bool) (s : State) : State :=
  match s.prs.saving with
  | none => s
  | some v =>
    let seq := ((newestBank s).map (·.seq)).getD 0 + 1
    let s := { s with prs.saving := none }
    if ok then
      let b : SaveBank := { valid := true, seq := seq % 2 ^ 32, stamp := v.stamp, final := v.final, data := v.data }
      let r := reduceRet s.prs.ret v.ret (seq % 2 ^ 32)
      let s := { s with pwr.latchSave := v.final }
      if v.bankB then { s with prs.bankB := b, prs.ret := r } else { s with prs.bankA := b, prs.ret := r }
    else
      let s := if v.bankB then { s with prs.bankB.valid := false } else { s with prs.bankA.valid := false }
      record cPRS_SAVE_FAIL 0 (d1 (b2n v.bankB)) s

def execSaveCommit (readBackOk : Bool) (s : State) : Out := .next (saveCommitOp readBackOk s)

/-- FINAL_SAVE_COMMAND: the tasting run is stopped, and a copy is written, a periodic save in progress being abandoned (R255). -/
def finalSaveOp (s : State) : State := beginSave true { s with prs.taste.run := false, pwr.latchSave := false }

/-- Press, in RUN, takes the final-save command; before its state is restored it has nothing to save. -/
def takeFinalSave (s : State) : State := if s.prs.restored then finalSaveOp s else s

def execFinalSaveCommand (s : State) : Out :=
  .next (if isRun s .press then takeFinalSave s else xchRefuse 7 .cluster .press s)

/-! ### Restart (R258 to R261, R265) -/

/-- PRESS_HOLD_FULL: no further sample is held. -/
def execPressHoldFull (s : State) : Out :=
  .next (if isRun s .press && !s.prs.restored && 512 ≤ s.prs.held.length then { s with prs.holdFull := true } else s)

/-- Restore an element's block; of another circuit's record it is closed (R245, R258). Before the structure image gives the element its
record, the block is held with the record it was saved with. -/
def restoreElem (n : Nat) (r : ElemRec) (a : ElemAcc) (s : State) : State :=
  if !s.img.loaded then
    let w := (elem? s n).bind (fun e => e.watch)
    { s with prs.elems := Tbl.put s.prs.elems n { rc := r, a := a, outages := 1, watch := w } }
  else match elem? s n with
  | none => s
  | some e =>
    if sameCircuit r e.rc then
      updElem n (fun e => { e with a := a, active := true, pubAt := s.now, outages := satInc e.outages 0xFFFF }) s
    else zeroElem n (updElem n (fun e => { e with a := { acc := a.acc } }) s)

/-- Restore every item of a bank (Table 8.1). -/
def restoreBank (b : SaveBank) (s : State) : State :=
  let s := b.data.elems.foldl (fun s e => restoreElem e.1 e.2.1 e.2.2 s) s
  let s := b.data.chans.foldl (fun s c => updChan c.1 (fun h => { h with tau := c.2.1, tauAt := c.2.2 }) s) s
  let s := b.data.pulses.foldl (fun s p => updPulse p.1 (fun q =>
    if q.rc == p.2.rc || !s.img.loaded then { p.2 with on := false, until0 := 0 } else q) s) s
  { s with prs.tariffs := b.data.tariffs, prs.trfSet := true, prs.lastFinal := b.final,
           prs.restart := some (b.stamp, b.final, b.seq) }

/-- Add uncertain energy to an element, told when it is not 0 (R259). -/
def addUncertain (n imp exp samples : Nat) (est : Bool) (s : State) : State :=
  match elem? s n with
  | none => s
  | some e =>
    let s := updElem n (fun e => { e with a.uncImp := e.a.uncImp + imp, a.uncExp := e.a.uncExp + exp,
                                          estimated := est || (e.estimated && imp == 0 && exp == 0) }) s
    if imp == 0 && exp == 0 then s
    else record cPRS_UNCERTAIN e.rc.cask (d1 n ++ d4 (imp / unit32) ++ d4 (exp / unit32) ++ d4 samples ++ d1 (b2n est)) s

/-- Settle the since-save counters against the restored bank (R259). -/
def settleRet (b : SaveBank) (other : SaveBank) (s : State) : State :=
  let r := s.prs.ret
  if r.valid && r.tag == b.seq then
    b.data.elems.foldl (fun s e => addUncertain e.1 (Tbl.at r.imp e.1 0) (Tbl.at r.exp e.1 0) r.samples false s) s
  else
    b.data.elems.foldl (fun s e =>
      let o := if other.valid then Tbl.get? other.data.elems e.1 else none
      match o with
      | some (_, a) =>
        addUncertain e.1 (nthD e.2.2.acc 0 0 - nthD a.acc 0 0) (nthD e.2.2.acc 1 0 - nthD a.acc 1 0) 0 true s
      | none => addUncertain e.1 0 0 0 true s) s

/-- PRESS_RESTORE_COMPLETE: the newer bank is restored, uncertain energy settled, held samples booked in order, and the restart total
added (R258, R259). -/
def restoreOp (s : State) : State :=
  let s := { s with prs.restored := true }
  let s := if s.prs.lostTell then record cPRS_WATCH_LOST 0 [] { s with prs.lostTell := false } else s
  let s := match newestBank s with
    | none => s
    | some b => settleRet b (if newestB s then s.prs.bankA else s.prs.bankB) (restoreBank b s)
  let tag := ((newestBank s).map (·.seq)).getD 0
  let s := { s with prs.ret := { valid := true, tag := tag } }
  let held := s.prs.held
  let s := held.foldl (fun s h => bookSample h.stamp h.clipped h.meas s) s
  let n := s.prs.totalN
  let s := s.prs.total.foldl (fun s x => addUncertain x.1 x.2.1 x.2.2 n false s) s
  { s with prs.held := [], prs.holdFull := false, prs.total := [], prs.totalN := 0 }

def execPressRestoreComplete (s : State) : Out :=
  .next (if isRun s .press && !s.prs.restored then restoreOp s else s)

/-- What Press does when it enters RUN: it samples at once with its state to be restored, and tasting starts in rotation (R258,
R271). -/
def pressEnterRun (s : State) : State :=
  { s with
    prs.restored := false, prs.held := [], prs.holdFull := false, prs.total := [], prs.totalN := 0,
    prs.lastStamp := none, prs.diffs := [], prs.savedSec := none, prs.saving := none,
    prs.taste := { s.prs.taste with state := .rotation, run := false } }

/-! ### Theft watch (R262 to R265) -/

/-- Start a watch on every element of a system. -/
def startWatches (b : Bool) (s : State) : State :=
  s.prs.elems.foldl (fun s e =>
    if e.2.active && e.2.rc.sysB == b && e.2.watch.isNone then
      record cPRS_WATCH_START e.2.rc.cask (d1 e.1)
        (updElem e.1 (fun e => { e with watch := some {}, suspect := false }) { s with prs.watchAt := s.now })
    else s) s

/-- PRS_WATCH_START: a voltage system whose phases have all been below 20 V rms for 10 cycles. -/
def execPrsWatchStart (s : State) : Out :=
  let go (b : Bool) (s : State) : State :=
    if 10 * (vsys s b).n ≤ (vsys s b).dark then startWatches b s else s
  .next (if isRun s .press then go true (go false s) else s)

/-- The unmeasured watch at the end of hold-up, with VMB within 3.0 V to 4.2 V (R262). -/
def startUnmeasured (s : State) : State :=
  if 3000 ≤ s.prs.vmbMv && s.prs.vmbMv ≤ 4200 then
    { s with prs.watchAt := s.now,
             prs.elems := Tbl.mapV s.prs.elems (fun _ e =>
               if e.active then { e with watch := some { unmeasured := true }, suspect := false } else e) }
  else { s with prs.ret.valid := false, prs.lostTell := true }

/-- One second of an element's watch, from the Irms of its phases in A (R263). -/
def watchStep (r : ElemRec) (is : List F64) (w : Watch) : Watch :=
  let heavy := is.any (fun i => F64.le (F64.mul (F64.ofDec 1 2) (F32.to64 r.inA)) i)
  let h := if heavy then w.heavy + 1 else w.heavy
  { w with secs := w.secs + 1, heavy := h,
           charge := (List.range 3).map (fun k =>
             F64.add (nthD w.charge k 0) (F64.div (nthD is k 0) (F64.ofInt 3600))),
           maxI := is.foldl F64.max w.maxI, suspect := w.suspect || (!w.unmeasured && 10 ≤ h) }

/-- WATCH_SECOND: the Irms each current channel has had over the second; a channel not listed carries a free value. -/
def execWatchSecond (irms : List (Nat × F64)) (s : State) : Out :=
  if s.prs.elems.any (fun e => e.2.watch.isSome) && s.prs.watchAt + 1000000000 ≤ s.now then
    let rd (c : Nat) : F64 := if c == 0xFF then 0 else (Tbl.get? irms c).getD (F64.abs (freeNow s))
    .next (bumpFree { s with
      prs.watchAt := s.prs.watchAt + 1000000000,
      prs.elems := Tbl.mapV s.prs.elems (fun _ e => match e.watch with
        | some w =>
          let w := watchStep e.rc (e.rc.iCh.map rd) w
          { e with watch := some w, suspect := w.suspect }
        | none => e) })
  else .next s

/-- A charge or current in tenths, as the two bytes of the event. -/
def tenths (x : F64) : Nat :=
  if F64.fin x then min (Float.truncFin Float.b64 (F64.mul x (F64.ofInt 10)).toNat).toNat 0xFFFF else 0xFFFF

/-- The 14 data bytes of PRS_WATCH_END (R264). -/
def watchData (n : Nat) (w : Watch) : List Byte :=
  d1 n ++ d1 (b2n w.suspect + 2 * b2n w.unmeasured) ++ d4 w.secs ++
  d2 (tenths (nthD w.charge 0 0)) ++ d2 (tenths (nthD w.charge 1 0)) ++ d2 (tenths (nthD w.charge 2 0)) ++ d2 (tenths w.maxI)

/-- PRS_WATCH_END: a measured watch once its system has had a phase at 20 V rms for 10 cycles, an unmeasured one once Press is in
RUN. -/
def execPrsWatchEnd (s : State) : Out :=
  .next (if isRun s .press then
    s.prs.elems.foldl (fun s e => match e.2.watch with
      | some w =>
        if w.unmeasured || 10 * (vsys s e.2.rc.sysB).n ≤ (vsys s e.2.rc.sysB).lit then
          record cPRS_WATCH_END e.2.rc.cask (watchData e.1 w) (updElem e.1 (fun e => { e with watch := none }) s)
        else s
      | none => s) s
    else s)

/-- PRS_WATCH_LOST: VMB below 3.0 V during an unmeasured watch loses the retained record (R265). -/
def execPrsWatchLost (millivolts : Nat) (s : State) : Out :=
  let un (e : Nat × Elem) : Bool := match e.2.watch with | some w => w.unmeasured | none => false
  .next (if millivolts < 3000 && s.prs.elems.any un then
    { s with prs.vmbMv := millivolts, prs.ret := {}, prs.lostTell := true,
             prs.elems := Tbl.mapV s.prs.elems (fun _ e => { e with watch := none }) }
    else s)

end Sys2Proof.Machine
end

