-- ==== Sys2Proof/Machine/ResetOps.lean ====
section
/-!
DEFINITION. ResetOps.lean: reset requests and their final save (spec/16_power_reset_startup.md R483, R484).
-/
namespace Sys2Proof.Machine

/-- The logic side runs: its reset is released and the Cluster is up. -/
def logicUp (s : State) : Bool := isRun s .cluster && !s.pwr.resetOn

/-- A reset source triggers (R483): with a final save, the reset waits for Press to commit it, at most 2 ms; otherwise it is
asserted at once. Every source is latched (R484). -/
def requestReset (bit : Nat) (withSave : Bool) (s : State) : State :=
  if withSave && isRun s .press then
    match s.pwr.awaitSave with
    | some (m, t) => { s with pwr.awaitSave := some (m ||| 2 ^ bit, t) }
    | none => takeFinalSave { s with pwr.awaitSave := some (2 ^ bit, s.now) }
  else { s with pwr.latch := s.pwr.latch ||| 2 ^ bit }

/-- The awaited final save has committed, or its 2 ms have passed (R483). -/
def saveAwaited (s : State) : Bool :=
  match s.pwr.awaitSave with
  | some (_, t) => s.pwr.latchSave || decide (t + 2000000 ≤ s.now)
  | none => false

end Sys2Proof.Machine
end

