-- ==== Sys2Proof/Machine/KeyOps.lean ====
section
/-!
DEFINITION. KeyOps.lean: derivation of canes and buds, the key cache, invalidation and erasure, the sealed state and slots
(spec/14_keys_tamper_identity.md R432 to R440, R445).
-/
namespace Sys2Proof.Machine

/-! ### Codes (Table 14.9) -/

def cKEY_OK : Nat := 0x0D00
def cKEY_SEALED : Nat := 0x0D01
def cKEY_TAMPER : Nat := 0x0D02
def cKEY_INVALIDATED : Nat := 0x0D03
def cKEY_USAGE : Nat := 0x0D04
def cKEY_SLOT_BUSY : Nat := 0x0D05
def cKEY_SLOT_EMPTY : Nat := 0x0D06
def cKEY_UNUSABLE : Nat := 0x0D07
def cKEY_TOKEN : Nat := 0x0D08
def cKEY_LC_STATE : Nat := 0x0D09
def cKEY_NOT_ACCEPTED : Nat := 0x0D0A
def cKEY_TAMPER_ACTIVE : Nat := 0x0D0B
def cKEY_EXPORT : Nat := 0x0D0C
def cKEY_ABORTED : Nat := 0x0D0D
def cKEY_BUSY : Nat := 0x0D0E
def cKEY_UNTRUSTED : Nat := 0x0D0F
def cKEY_LC_CHANGE : Nat := 0x0D10
def cKEY_TAMPER_A : Nat := 0x0D11
def cKEY_TAMPER_B : Nat := 0x0D12
def cKEY_UNSEAL_ABANDONED : Nat := 0x0D14
def cKEY_REKEY : Nat := 0x0D15
def cKEY_ROLLED : Nat := 0x0D16
def cKEY_PEER_MAC : Nat := 0x0D17
def cKEY_ACCEPTED : Nat := 0x0D18

/-! ### Derivation (R433, R434, Table 14.3) -/

/-- `n` as `k` bytes, most significant first (the counter and length of R433). -/
def toBe (k n : Nat) : List Byte := (toLe k n).reverse

/-- The four ASCII bytes of a label. -/
def ascii4 (a b c d : Nat) : List Byte := d1 a ++ d1 b ++ d1 c ++ d1 d

/-- Cane labels of Table 14.3, by the code a cache entry keeps. -/
inductive Cane where
  | ring | flow | sess | rdr1 | stor | idnt | trns | svc1
  deriving DecidableEq, Repr

/-- Bud labels of Table 14.3. -/
inductive Bud where
  | hbt1 | flb1 | ssb1 | osb1 | wrap | jrnl | trb1 | svb1 | clra
  deriving DecidableEq, Repr

/-- Code of a cane label in the cache. -/
def caneCode : Cane → Nat
  | .ring => 1 | .flow => 2 | .sess => 3 | .rdr1 => 4 | .stor => 5 | .idnt => 6 | .trns => 7 | .svc1 => 8

/-- Code of a bud label in the cache. -/
def budCode : Bud → Nat
  | .hbt1 => 1 | .flb1 => 2 | .ssb1 => 3 | .osb1 => 4 | .wrap => 5 | .jrnl => 6 | .trb1 => 7 | .svb1 => 8 | .clra => 9

/-- Bytes of a cane label. -/
def caneLabel : Cane → List Byte
  | .ring => ascii4 0x52 0x49 0x4E 0x47
  | .flow => ascii4 0x46 0x4C 0x4F 0x57
  | .sess => ascii4 0x53 0x45 0x53 0x53
  | .rdr1 => ascii4 0x52 0x44 0x52 0x31
  | .stor => ascii4 0x53 0x54 0x4F 0x52
  | .idnt => ascii4 0x49 0x44 0x4E 0x54
  | .trns => ascii4 0x54 0x52 0x4E 0x53
  | .svc1 => ascii4 0x53 0x56 0x43 0x31

/-- Bytes of a bud label. -/
def budLabel : Bud → List Byte
  | .hbt1 => ascii4 0x48 0x42 0x54 0x31
  | .flb1 => ascii4 0x46 0x4C 0x42 0x31
  | .ssb1 => ascii4 0x53 0x53 0x42 0x31
  | .osb1 => ascii4 0x4F 0x53 0x42 0x31
  | .wrap => ascii4 0x57 0x52 0x41 0x50
  | .jrnl => ascii4 0x4A 0x52 0x4E 0x4C
  | .trb1 => ascii4 0x54 0x52 0x42 0x31
  | .svb1 => ascii4 0x53 0x56 0x42 0x31
  | .clra => ascii4 0x43 0x4C 0x52 0x41

/-- One block of the counter-mode KDF. -/
def kdfBlock (key label ctx : List Byte) (i len : Nat) : List Byte :=
  Config.hmac384 key (toBe 4 i ++ label ++ d1 0 ++ ctx ++ toBe 4 len)

/-- R433: the derived key of 256 bits. -/
def kdf (key label ctx : List Byte) : List Byte := (kdfBlock key label ctx 1 256).take 32

/-- P-384 group order. -/
def orderN : Nat := 0xFFFFFFFFFFFFFFFFFFFFFFFFFFFFFFFFFFFFFFFFFFFFFFFFC7634D81F4372DDF581A0DB248B0A77AECEC196ACCC52973

/-- R433: the identity key's secret scalar from K_out of 512 bits. -/
def idScalar (root ctx : List Byte) : Nat :=
  let l := caneLabel .idnt
  let k := (kdfBlock root l ctx 1 512 ++ kdfBlock root l ctx 2 512).take 64
  ofLe k.reverse % (orderN - 1) + 1

/-- Bytes of a root register. -/
def rootBytes (r : BitVec 256) : List Byte := toLe 32 r.toNat

/-- The key engine's copy of a root. -/
def rootOf (s : State) : Root → Option (BitVec 256)
  | .factory => s.key.factory
  | .site => s.key.site
  | .service => s.key.service

/-- The module's serial as context. -/
def serialBytes (s : State) : List Byte := toLe 8 s.sys.serial.toNat

/-- Context of a cane (Table 14.3) for a cask. -/
def caneCtx (s : State) (root : Root) (c : Cane) (cask : Nat) : List Byte :=
  match c with
  | .ring | .flow => d2 s.net.ringId
  | .sess => d1 cask ++ d4 (Tbl.at s.key.sessGen cask 0)
  | .rdr1 => d1 cask ++ d4 (Tbl.at s.key.rdrGen cask 0)
  | .svc1 => serialBytes s ++ d4 s.key.entries
  | .stor => if root == .service then serialBytes s ++ d4 s.key.entries else serialBytes s
  | .idnt | .trns => serialBytes s

/-- Enter a key into the cache as most recently used; beyond 2,048 entries the least recently used leaves (R436). -/
def cacheUse (e : CacheEnt) (s : State) : State :=
  { s with key.cache := (e :: s.key.cache.filter (· != e)).take 2048 }

/-- Derive a cane: none when its root is absent or erased (R436). -/
def deriveCane (s : State) (root : Root) (c : Cane) (cask : Nat) : Option (List Byte) :=
  (rootOf s root).map (fun r => kdf (rootBytes r) (caneLabel c) (caneCtx s root c cask))

/-- Derive a bud. -/
def deriveBud (s : State) (root : Root) (c : Cane) (cask : Nat) (b : Bud) (ctx : List Byte) : Option (List Byte) :=
  (deriveCane s root c cask).map (fun k => kdf k (budLabel b) ctx)

/-- The cache entries of a cane and a bud under it. -/
def caneEnt (s : State) (root : Root) (c : Cane) (cask : Nat) : CacheEnt :=
  { root := root, label := caneCode c, ctx := caneCtx s root c cask, cask := cask }
def budEnt (s : State) (root : Root) (c : Cane) (cask : Nat) (b : Bud) (ctx : List Byte) : CacheEnt :=
  { caneEnt s root c cask with bud := some (budCode b, ctx) }

/-- Derive and use a bud: the cane and the bud enter the cache. -/
def useBud (root : Root) (c : Cane) (cask : Nat) (b : Bud) (ctx : List Byte) (s : State) : State :=
  if (rootOf s root).isSome then cacheUse (budEnt s root c cask b ctx) (cacheUse (caneEnt s root c cask) s) else s

/-! ### Sealed state (R445) -/

/-- The life-cycle state needs a site rootstock (Table 14.1). -/
def needsSite : LifeState → Bool
  | .provisioned | .operational | .service => true
  | _ => false

/-- The bank of key cells in force (R430). -/
def cells (s : State) : KeyCells := if s.key.useB then s.key.bankB else s.key.bankA

/-- R445. -/
def isSealed (s : State) : Bool :=
  s.key.abandoned || (needsSite s.key.lc && (cells s).site.isNone) || s.key.erasedB

/-- Code of a life-cycle state (Table 14.1). -/
def lcCode : LifeState → Nat
  | .blank => 0 | .provisioned => 1 | .operational => 2 | .service => 3 | .retired => 4

/-- R428: a life-cycle change is recorded with the old and new state. -/
def setLc (l : LifeState) (s : State) : State :=
  record cKEY_LC_CHANGE 0 (d1 (lcCode s.key.lc) ++ d1 (lcCode l)) { s with key.lc := l }

/-! ### Slots (R438, R439, Table 14.4) -/

/-- A slot. -/
def kslot (s : State) (n : Nat) : KSlot := Tbl.at s.key.slots n {}
/-- TYPE; 0 is an empty slot. -/
def slotType (k : KSlot) : Nat := fld k.attr 0 4
/-- The slot is empty. -/
def slotEmpty (k : KSlot) : Bool := slotType k == 0
/-- CASK. -/
def slotCask (k : KSlot) : Nat := fld k.attr 16 6
/-- ROOT; the reserved code names none. -/
def slotRoot (k : KSlot) : Option Root :=
  match fld k.attr 28 2 with
  | 0 => some .factory | 1 => some .site | 2 => some .service | _ => none
/-- LC_MASK allows the present state. -/
def slotLc (s : State) (k : KSlot) : Bool := lcCode s.key.lc < 4 && bitOf k.attr (24 + lcCode s.key.lc)
/-- R439, R440: the bound root is absent, erased or has been invalidated. -/
def slotUnusable (s : State) (k : KSlot) : Bool :=
  k.unusable || (match slotRoot k with | some r => (rootOf s r).isNone | none => true)
/-- STATE of KEY_SLOT_n_STAT. -/
def slotState (s : State) (k : KSlot) : Nat := if slotEmpty k then 0 else if slotUnusable s k then 2 else 1

/-- A slot that may be used with a USAGE bit, whoever asks. -/
def slotFor (s : State) (k : KSlot) (usage : Nat) : Bool :=
  !slotEmpty k && bitOf k.attr usage && slotLc s k && !slotUnusable s k

/-- A message and signature verify under some public-key slot with a USAGE bit; the first such slot. -/
def verifySlot (s : State) (usage : Nat) (msg sig : List Byte) : Option KSlot :=
  (s.key.slots.find? (fun e =>
    slotFor s e.2 usage && slotType e.2 == 2 && Config.ecdsaVerify e.2.key msg sig)).map (·.2)

/-! ### Invalidation and erasure (R432, R440) -/

/-- A parent is invalidated: its cached descendants are marked for the purge; slots bound to an invalidated root become
unusable. -/
def invalidate (p : CacheEnt → Bool) (s : State) : State :=
  { s with key.cache := s.key.cache.map (fun e => if p e then { e with stale := true } else e), key.purging := true }

/-- Slots whose ROOT names the root become unusable (R440). -/
def spoilSlots (r : Root) (s : State) : State :=
  { s with key.slots := Tbl.mapV s.key.slots (fun _ k => if slotRoot k == some r then { k with unusable := true } else k) }

/-- A root is invalidated with everything derived from it. -/
def invalidateRoot (r : Root) (s : State) : State := spoilSlots r (invalidate (fun e => e.root == r) s)

/-- Clear a root in a bank. -/
def clearCell (r : Root) (c : KeyCells) : KeyCells :=
  match r with
  | .factory => { c with factory := none }
  | .site => { c with site := none }
  | .service => { c with service := none }

/-- R432: both banks of a root's shares are zeroed, and the key engine's copy with them. -/
def eraseRoot (r : Root) (s : State) : State :=
  let s := { s with key.bankA := clearCell r s.key.bankA, key.bankB := clearCell r s.key.bankB }
  let s := match r with
    | .factory => { s with key.factory := none }
    | .site => { s with key.site := none }
    | .service => { s with key.service := none }
  invalidateRoot r s

/-- 256 free bits (R429, R430: random masks; assumption 3). -/
def free256 (s : State) : BitVec 256 :=
  BitVec.ofNat 256 ((Config.freeValue s.fresh).toNat + (Config.freeValue (s.fresh + 1)).toNat * 2 ^ 64 +
    (Config.freeValue (s.fresh + 2)).toNat * 2 ^ 128 + (Config.freeValue (s.fresh + 3)).toNat * 2 ^ 192)

/-- Set a root in a bank. -/
def putCell (r : Root) (v : Option (BitVec 256 × BitVec 256)) (c : KeyCells) : KeyCells :=
  match r with
  | .factory => { c with factory := v }
  | .site => { c with site := v }
  | .service => { c with service := v }

/-- A new root is written as two shares under a fresh mask (R429), and held by the key engine. -/
def writeRoot (r : Root) (v : BitVec 256) (s : State) : State :=
  let m := free256 s
  let put := putCell r (some (v ^^^ m, m))
  let s := { s with fresh := s.fresh + 4 }
  let s := if s.key.useB then { s with key.bankB := put s.key.bankB } else { s with key.bankA := put s.key.bankA }
  match r with
  | .factory => { s with key.factory := some v }
  | .site => { s with key.site := some v }
  | .service => { s with key.service := some v }

/-- R430: the shares are re-masked with one fresh random into the other bank, and the flag is switched. -/
def remaskOp (s : State) : State :=
  let r := free256 s
  let mask := fun (p : BitVec 256 × BitVec 256) => (p.1 ^^^ r, p.2 ^^^ r)
  let c := cells s
  let n : KeyCells := { factory := c.factory.map mask, site := c.site.map mask, service := c.service.map mask }
  let s := { s with fresh := s.fresh + 4, key.remaskAt := s.cel.opSec }
  if s.key.useB then { s with key.bankA := n, key.useB := false } else { s with key.bankB := n, key.useB := true }

/-- Operations in progress end with a code before any result leaves the engine; their working buffers are cleared (Table 14.6,
R452). -/
def endKeyOps (code : Nat) (s : State) : State :=
  let stop := fun (b : KOpBank) => if b.busy.isSome then { b with busy := none, input := [], code := code } else b
  let s := match s.key.attesting with
    | some c => { s with key.cmdStatus := Tbl.put s.key.cmdStatus c code, key.attesting := none }
    | none => s
  { s with key.ops := Tbl.mapV s.key.ops (fun _ b => stop b) }

def cUPD_SESSION : Nat := 0x0E14

/-- A service session closes (R458): UPD_SESSION tells its number, its cask and why (0 opened, 1 no message for 10 min, 2 SERVICE
left, 3 PHY off, 4 certificate refused, 5 cask 63 outside SERVICE, 6 a third session). -/
def closeSession (n why : Nat) (s : State) : State :=
  match Tbl.get? s.key.sessions n with
  | some x => record cUPD_SESSION x.cask (d1 n ++ d1 x.cask ++ d1 why) { s with key.sessions := Tbl.del s.key.sessions n }
  | none => s

/-- Close every session that satisfies a condition. -/
def closeSessions (p : SvcSess → Bool) (why : Nat) (s : State) : State :=
  ((s.key.sessions.filter (fun e => p e.2)).map (·.1)).foldl (fun s n => closeSession n why s) s

/-- The life-cycle leaves SERVICE (Table 14.2): the service rootstock is erased, the slots bound to it are emptied (R439), and
sessions of cask 63 end. -/
def leaveService (s : State) : State :=
  let s := closeSessions (fun x => x.cask == 63) 2 (eraseRoot .service s)
  setLc .operational { s with key.slots := s.key.slots.filter (fun e => slotRoot e.2 != some .service) }

end Sys2Proof.Machine
end

