-- ==== Sys2Proof/Machine/Building.lean ====
section
/-!
DEFINITION. Building.lean: DALI ports, OSDP readers, credentials, access decisions and the lift profile
(spec/13_field_buses_and_building_interfaces.md R412 to R423).
-/
namespace Sys2Proof.Machine

def cBSI_OK : Nat := 0x0C00
def cBSI_CRED_FULL : Nat := 0x0C01
def cBSI_CRED_QUOTA : Nat := 0x0C02
def cBSI_CRED_EXISTS : Nat := 0x0C03
def cBSI_CRED_NONE : Nat := 0x0C04
def cBSI_CMD_STATE : Nat := 0x0C05
def cBSI_DENY : Nat := 0x0C11
def cBSI_DALI_FAIL : Nat := 0x0C12
def cBSI_OSDP_SC_FAIL : Nat := 0x0C13
def cBSI_OSDP_TAMPER : Nat := 0x0C14
def cBSI_LIFT_DROP : Nat := 0x0C15
def cBSI_KEYSET : Nat := 0x0C16

/-! ### DALI (R412 to R414) -/

/-- A DALI port. -/
def daliPort (s : State) (p : Nat) : DaliPort := Tbl.at s.fbs.dali p {}
/-- Change a DALI port. -/
def updDali (p : Nat) (f : DaliPort → DaliPort) (s : State) : State := { s with fbs.dali := Tbl.upd s.fbs.dali p {} f }
/-- A device record. -/
def daliDev (s : State) (d : Nat) : DaliDev := Tbl.at s.fbs.devs d {}
/-- The cask of a station. -/
def stnCask (s : State) (n : Nat) : Nat := (Tbl.at s.stn.tbl n {}).cask

/-- The port sends and receives. -/
def daliUp (s : State) (p : Nat) : Bool := isRun s .fbus && (daliPort s p).running && !(daliPort s p).fault

/-- The gear of a port, in record order. -/
def gearOf (s : State) (p : Nat) : List Nat := (s.fbs.devs.filter (fun e => e.2.bus == p && e.2.kind == 1)).map (·.1)

/-- The level a gear's command point gives: rounded to 0 to 254 (R413). -/
def levelOf (s : State) (d : Nat) : Nat :=
  match pt? s (daliDev s d).first with
  | some p =>
    let x := realOf p.type p.value
    if F64.fin x then (clampI (Float.roundFin Float.b64 x.toNat) 0 254).toNat else 0
  | none => 0

/-- R491: a port's first level commands are due: the port start joins the queue; a DALI_MA of 0 admits it at once. -/
def portStart (p : Nat) (s : State) : State :=
  let gear := gearOf s p
  let s := updDali p (fun x => { x with starting := gear, lastFirst := none }) s
  let s := { s with pwr.portAdmit := Tbl.del s.pwr.portAdmit p }
  if nthD s.pwr.power.daliMa p 0 == 0 && !s.pwr.warn && !s.pwr.standby then
    { s with pwr.portAdmit := Tbl.put s.pwr.portAdmit p s.now }
  else queueStart (.port p) s

/-- A gear's level command goes on the bus. -/
def sendLevel (p d : Nat) (s : State) : State :=
  let v := levelOf s d
  updDali p (fun x => { x with onBus := some (.level d v), tries := 0, waiting := x.waiting.filter (· != d) }) s

/-- R412: the frame on the bus collided: it is sent again, and dropped and counted at its 10th collision. -/
def collide (p : Nat) (s : State) : State :=
  updDali p (fun x =>
    if x.onBus.isNone then x
    else if x.tries + 1 < 10 then { x with tries := x.tries + 1 }
    else { x with onBus := none, tries := 0, collDrop := satInc x.collDrop 0xFFFF }) s

/-- DALI_LEVEL_COMMAND (R413): the next level command waiting is sent; or the frame on the bus has collided. -/
def execDaliLevelCommand (p : Fin 4) (collided : Bool) (s : State) : Out :=
  .next (if !daliUp s p then s
    else if collided then collide p s
    else match (daliPort s p).waiting with
    | d :: _ => if (daliPort s p).starting.isEmpty || levelOf s d == 0 then sendLevel p d s else s
    | [] => s)

/-- Send the zero levels at the head of the gear still to receive their first level. -/
def sendZeros (p : Nat) (ds : List Nat) (s : State) : State :=
  match ds with
  | [] => updDali p (fun x => { x with starting := [] }) s
  | d :: r =>
    if levelOf s d == 0 then sendZeros p r (sendLevel p d s)
    else updDali p (fun x => { x with starting := r, lastFirst := some s.now }) (sendLevel p d s)

/-- DALI_START_COMMAND_DUE (R414, R491): from p x 250 ms after the admission, one non-zero level command every 50 ms. -/
def execDaliStartCommandDue (p : Fin 4) (s : State) : Out :=
  let x := daliPort s p
  .next (match Tbl.get? s.pwr.portAdmit p.val with
    | some a =>
      let spaced := match x.lastFirst with | some t => decide (t + 50000000 ≤ s.now) | none => true
      if daliUp s p && a + p.val * 250000000 ≤ s.now && spaced then sendZeros p x.starting s else s
    | none => s)

/-- The queries of a device: its key in `polled`. -/
def queriesOf (d : Nat) (r : DaliDev) : List Nat := if r.kind == 1 then [2 * d, 2 * d + 1] else [2 * d]

/-- The query due next on a port, in round robin: the one that has waited longest. -/
def nextQueryDue (s : State) (p : Nat) : Option Nat :=
  let qs := s.fbs.devs.flatMap (fun e =>
    if e.2.bus == p then
      (queriesOf e.1 e.2).filter (fun q => match Tbl.get? s.fbs.polled q with
        | some t => decide (t + e.2.pollMs * 1000000 ≤ s.now)
        | none => true)
    else [])
  (sortBy (fun q => [match Tbl.get? s.fbs.polled q with | some t => t + 1 | none => 0, q]) qs).head?

/-- DALI_POLL (R413): level commands go before polls. -/
def execDaliPoll (p : Fin 4) (s : State) : Out :=
  .next (if daliUp s p && (daliPort s p).waiting.isEmpty then
      match nextQueryDue s p with
      | some q =>
        let s := { s with fbs.polled := Tbl.put s.fbs.polled q s.now }
        updDali p (fun x => { x with onBus := some (.poll (q / 2) (q % 2 == 1)), tries := 0 }) s
      | none => s
    else s)

/-- What a backward frame writes: the point and its value (Table 13.9). -/
def backwardWrite (s : State) (d : Nat) (status : Bool) (b : Byte) : Nat × DWord :=
  let r := daliDev s d
  let n := b.toNat
  match r.kind with
  | 1 => if status then (r.first + 2, valueOf 2 (F64.ofInt n))
         else (r.first + 1, valueOf (ptType s (r.first + 1)) (F64.ofInt n))
  | 3 => (r.first, if n = 0 then 0 else 1)
  | _ => (r.first, BitVec.ofNat 64 n)

/-- DALI_BACKWARD_FRAME (R413). -/
def execDaliBackwardFrame (p : Fin 4) (b : Byte) (s : State) : Out :=
  .next (match (daliPort s p).onBus with
    | some (.poll d status) =>
      if daliUp s p then
        let n := (daliDev s d).station
        let s := updDali p (fun x => { x with onBus := none }) s
        mirror 3 d (stnCask s n) [backwardWrite s d status b] (heardStation n s)
      else s
    | _ => s)

/-- DALI_EVENT_MESSAGE (R412): events of instance types 1 and 3 write their point; others are ignored and counted. -/
def execDaliEventMessage (p : Fin 4) (short : Fin 64) (inst instType : Fin 32) (event : Fin 1024) (s : State) : Out :=
  let kind := if instType.val = 1 then 2 else if instType.val = 3 then 3 else 0
  .next (if !daliUp s p then s
    else if kind = 0 then updDali p (fun x => { x with ignored := x.ignored + 1 }) s
    else match s.fbs.devs.find? (fun e =>
        e.2.bus == p.val && e.2.kind == kind && e.2.short == short.val && e.2.inst == inst.val) with
    | some (d, r) =>
      let v : DWord := if kind = 3 then (if bitOf event.val 1 then 1 else 0) else BitVec.ofNat 64 event.val
      mirror 3 d (stnCask s r.station) [(r.first, v)] s
    | none => s)

/-- BSI_DALI_FAIL (R414): below 9.5 V for more than 500 ms. -/
def execBsiDaliFail (p : Fin 4) (mv heldMs : Nat) (s : State) : Out :=
  let s := updDali p (fun x => { x with busMv := mv }) s
  .next (if daliUp s p && mv < 9500 && 500 < heldMs then
      let s := updDali p (fun x => { x with fault := true, onBus := none }) s
      loseBus (fun t => t.kind == 3 && t.addr / 64 % 4 == p.val) (record cBSI_DALI_FAIL 0 (d1 p.val) s)
    else s)

/-- DALI_BUS_RESTORED (R414): restored for 1 s. -/
def execDaliBusRestored (p : Fin 4) (mv heldMs : Nat) (s : State) : Out :=
  let s := updDali p (fun x => { x with busMv := mv }) s
  .next (if isRun s .fbus && (daliPort s p).fault && 9500 ≤ mv && 1000 ≤ heldMs then
      portStart p (updDali p (fun x => { x with fault := false }) s)
    else s)

/-! ### OSDP (R415 to R417) -/

/-- An OSDP port. -/
def osdpPort (s : State) (p : Nat) : OsdpPort := Tbl.at s.fbs.osdp p {}
/-- Change an OSDP port. -/
def updOsdp (p : Nat) (f : OsdpPort → OsdpPort) (s : State) : State := { s with fbs.osdp := Tbl.upd s.fbs.osdp p {} f }
/-- A reader. -/
def reader (s : State) (r : Nat) : Reader := Tbl.at s.fbs.readers r {}
/-- Change a reader. -/
def updReader (r : Nat) (f : Reader → Reader) (s : State) : State := { s with fbs.readers := Tbl.upd s.fbs.readers r {} f }

/-- The port's readers in address order. -/
def readersOf (s : State) (p : Nat) : List Nat :=
  sortBy (fun r => [(reader s r).rc.addr]) ((s.fbs.readers.filter (fun e => e.2.rc.port == p)).map (·.1))

/-- The next reader to poll, in address order after the last. -/
def nextReader (s : State) (p : Nat) : Option Nat :=
  let rs := readersOf s p
  let later := match (osdpPort s p).last with
    | some l => rs.filter (fun r => (reader s l).rc.addr < (reader s r).rc.addr)
    | none => rs
  later.head?.orElse (fun _ => rs.head?)

/-- R416: the reader's base key is the first 16 bytes of its OSB1 bud. -/
def baseCtx (s : State) (r : Nat) : List Byte := d2 (reader s r).rc.station ++ d4 0
def baseKey (s : State) (r : Nat) : Option (List Byte) :=
  (deriveBud s .site .rdr1 (stnCask s (reader s r).rc.station) .osb1 (baseCtx s r)).map (fun k => k.take 16)

/-- OSDP_POLL (R416, R417): one command outstanding; in an open install-mode channel KEYSET goes first; an order of a decision goes
in place of a poll. -/
def execOsdpPoll (p : Fin 2) (s : State) : Out :=
  .next (if isRun s .fbus && (osdpPort s p).running && (osdpPort s p).out.isNone then
      match nextReader s p with
      | some r =>
        let x := reader s r
        let keyset := x.install.isSome && x.open0 && !x.keySet && isRun s .key && (baseKey s r).isSome
        let s := updOsdp p (fun o => { o with out := some (r, s.now), last := some r }) s
        updReader r (fun y => if keyset then { y with keySet := true }
                              else if y.open0 then { y with orders := y.orders.drop 1 } else y) s
      | none => s
    else s)

/-- R416: SC_FAIL, with the secure channel to be set up again at the next poll. -/
def scFail (p r : Nat) (s : State) : State :=
  let s := updOsdp p (fun o => { o with scFail := satInc o.scFail 0xFFFF }) s
  let s := updReader r (fun y => { y with open0 := false, keys := [] }) s
  record cBSI_OSDP_SC_FAIL (stnCask s (reader s r).rc.station) (d1 p ++ d1 (reader s r).rc.addr) s

/-- R417: the outcome of an installation: 0 done, 1 refused by the reader, 2 timed out. -/
def keysetEvent (r outcome : Nat) (s : State) : State :=
  record cBSI_KEYSET (stnCask s (reader s r).rc.station) (d1 (reader s r).rc.port ++ d1 (reader s r).rc.addr ++ d1 outcome) s

/-- R419: HASH of a RAW reply. -/
def cardHash (format : Byte) (bits : Half) (data : List Byte) : DWord :=
  BitVec.ofNat 64 (leAt (Config.sha384 (format :: (d2 bits.toNat ++ data))) 0 8)

/-- A valid reply writes what it carries (R415 to R417). -/
def replyOp (p r : Nat) (x : OsdpReply) (s : State) : State :=
  let rd := reader s r
  let cask := stnCask s rd.rc.station
  match x with
  | .lstatr t =>
    let s := mirror 4 r cask [(rd.rc.first, if t then 1 else 0)] s
    if t then record cBSI_OSDP_TAMPER cask (d1 p ++ d1 rd.rc.addr) s else s
  | .keypad k => mirror 4 r cask [(rd.rc.first + 1, BitVec.ofNat 64 k.toNat)] s
  | .raw f b ds =>
    updOsdp p (fun o => { o with raws := o.raws ++ [{ reader := r, stamp := localNs s .fbus 0, hash := cardHash f b ds }] }) s
  | .ack =>
    if rd.install.isSome && rd.keySet then
      keysetEvent r 0 (updReader r (fun y => { y with install := none, keySet := false, open0 := false, keys := [] }) s)
    else s
  | .nak =>
    if rd.install.isSome && rd.keySet then keysetEvent r 1 (updReader r (fun y => { y with keySet := false }) s) else s
  | _ => s

/-- OSDP_REPLY (R416): the outstanding command is answered; without an open secure channel a reply does nothing. -/
def execOsdpReply (p : Fin 2) (macOk : Bool) (x : OsdpReply) (s : State) : Out :=
  .next (match (osdpPort s p).out with
    | some (r, _) =>
      if isRun s .fbus then
        let s := updOsdp p (fun o => { o with out := none }) s
        if !(reader s r).open0 then s
        else if !macOk then scFail p r s
        else replyOp p r x (heardStation (reader s r).rc.station s)
      else s
    | none => s)

/-- OSDP_REPLY_TIMEOUT (R416): 200 ms. -/
def execOsdpReplyTimeout (p : Fin 2) (s : State) : Out :=
  .next (match (osdpPort s p).out with
    | some (_, t) =>
      if isRun s .fbus && t + 200000000 ≤ s.now then updOsdp p (fun o => { o with out := none }) s else s
    | none => s)

/-- The secure channel of a reader is set up (R416): in install mode with the default key, otherwise with session keys that the key
engine derives from the base key and sends over HC16. -/
def scSetup (r : Nat) (randoms : List Byte) (s : State) : State :=
  let rd := reader s r
  if rd.install.isSome then
    updReader r (fun y => { y with open0 := true, keys := Config.osdpSession Config.osdpDefault randoms }) s
  else match baseKey s r with
  | some k =>
    if isRun s .key then
      let s := useBud .site .rdr1 (stnCask s rd.rc.station) .osb1 (baseCtx s r) s
      updReader r (fun y => { y with open0 := true, keys := Config.osdpSession k randoms }) s
    else s
  | none => s

/-- OSDP_SC_SETUP: the reader whose challenge is outstanding offers a secure channel, or none. -/
def execOsdpScSetup (r : Fin 32) (offered : Bool) (randoms : List Byte) (s : State) : Out :=
  let p := (reader s r).rc.port
  .next (match (osdpPort s p).out with
    | some (r', _) =>
      if isRun s .fbus && r' == r.val && !(reader s r).open0 then
        let s := updOsdp p (fun o => { o with out := none }) s
        if offered then scSetup r randoms s
        else if (reader s r).install.isSome then s
        else scFail p r s
      else s
    | none => s)

/-! ### Access decisions (R420, R421, R423) -/

/-- The minute of the week of a domain 0 time in local time (R420): Monday 00:00 is minute 0; 1970-01-01 was a Thursday. -/
def minuteOfWeek (s : State) (ns : Nat) : Nat :=
  (((domToLocal s s.cel.dst (ns / 1000000000)) / 60 + 4320) % 10080).toNat

/-- The entry that a card finds at a door. -/
def credFor (s : State) (r : DoorRec) (hash : DWord) : Option Cred :=
  let c := doorCask s r
  (s.fbs.creds.find? (fun e => e.hash == hash && e.cask == c)).orElse
    (fun _ => if r.ownerOk then s.fbs.creds.find? (fun e => e.hash == hash && e.cask == 0) else none)

/-- The schedule's intervals take in the minute (half-open, R15). -/
def inSchedule (s : State) (n m : Nat) : Bool := (Tbl.at s.fbs.scheds n {}).ints.any (fun i => i.1 ≤ m && m < i.2)

/-- R420: the reason of a refusal (Table 13.13), 0 for a grant. -/
def decide0 (s : State) (d : Nat) (r : DoorRec) (k : RawCard) : Nat :=
  if !s.fbs.restored then 6
  else match credFor s r k.hash with
  | none => 1
  | some e =>
    if !bitOf e.doors.toNat d then 2
    else if !(e.from0 * 60000000000 ≤ k.stamp && k.stamp < e.to0 * 60000000000) then 3
    else if !trusted s 0 && r.untrustedDeny then 4
    else if e.sched != 0xFF && !inSchedule s e.sched (minuteOfWeek s k.stamp) then 5
    else 0

/-- R423: a grant at a LIFT door queues a request; a 17th is dropped. -/
def liftRequest (r : DoorRec) (e : Cred) (s : State) : State :=
  let dest := if e.dest == 0xFF then r.home else e.dest
  let rd := (reader s r.reader).rc
  if !r.lift || s.fbs.lift.isNone || dest == 0xFF then s
  else if s.fbs.liftQ.length < 16 then
    { s with fbs.liftQ := s.fbs.liftQ ++ [{ dest := dest, cask := doorCask s r, port := rd.port, addr := rd.addr }] }
  else record cBSI_LIFT_DROP (doorCask s r) (d1 dest) { s with fbs.liftDrops := satInc s.fbs.liftDrops 0xFFFF }

/-- R422, R423: the island writes the next queued request after the flow has read REQ_POINT. -/
def liftNext (s : State) : State :=
  match s.fbs.lift, s.fbs.liftQ with
  | some l, q :: rest =>
    let n := (s.fbs.liftSeq + 1) % 65536
    let v := q.dest + l.floor * 2 ^ 8 + q.cask * 2 ^ 16 + (q.port * 128 + q.addr) * 2 ^ 24 + n * 2 ^ 32
    let s := { s with fbs.liftQ := rest, fbs.liftSeq := n }
    writeBy 4 0x200 (match pt? s l.req with | some p => p.cask | none => 0) l.req (BitVec.ofNat 64 v) qGood (ptStamp s l.req) s
  | _, _ => s

/-- R420, R421: the decision at one door. -/
def decideDoor (k : RawCard) (d : Nat) (r : DoorRec) (s : State) : State :=
  let why := decide0 s d r k
  let data := d1 d ++ d1 why ++ d4 k.hash.toNat
  if why = 0 then
    let s := match credFor s r k.hash with | some e => liftRequest r e s | none => s
    record cBSI_GRANT (doorCask s r) data (openDoor d r s)
  else
    let s := updReader r.reader (fun y => { y with orders := y.orders ++ [.ledRed, .buzzer] }) s
    record cBSI_DENY (doorCask s r) data s

/-- ACCESS_DECISION: the port's first RAW reply is decided at its reader's doors. -/
def execAccessDecision (p : Fin 2) (s : State) : Out :=
  .next (match (osdpPort s p).raws with
    | k :: rest =>
      if isRun s .fbus then
        let s := updOsdp p (fun o => { o with raws := rest }) s
        s.fbs.doors.foldl (fun s e => if e.2.reader == k.reader then decideDoor k e.1 e.2 s else s) s
      else s
    | [] => s)

/-- STRIKE_EXPIRY (R420). -/
def execStrikeExpiry (d : Fin 32) (s : State) : Out :=
  .next (match Tbl.get? s.fbs.strikes d.val, Tbl.get? s.fbs.doors d.val with
    | some t, some r =>
      if isRun s .fbus && t + r.strikeMs * 1000000 ≤ s.now then
        putEntry0 r.strike pvOsdp 0 qGood (ptStamp s r.strike) { s with fbs.strikes := Tbl.del s.fbs.strikes d.val }
      else s
    | _, _ => s)

/-! ### Port commands (R414, R417) -/

/-- Set the code of an issuer's last command (BSI_CMD_STATUS). -/
def bsiStatus (iss : Issuer) (c : Nat) (s : State) : State :=
  { s with fbs.bsiStatus := Tbl.put s.fbs.bsiStatus iss.cask.val c, reply := .code c }

/-- BSI_PORT_START: DALI ports 0 to 3, OSDP ports 4 and 5. -/
def execBsiPortStart (iss : Issuer) (port : Fin 6) (s : State) : Out :=
  regCmd iss .bsi 0x0004 (fun s =>
    let p := port.val
    if p < 4 then
      if (daliPort s p).running then bsiStatus iss cBSI_CMD_STATE s
      else bsiStatus iss cBSI_OK (portStart p (updDali p (fun x => { x with running := true, fault := false, waiting := [] }) s))
    else if (osdpPort s (p - 4)).running then bsiStatus iss cBSI_CMD_STATE s
    else bsiStatus iss cBSI_OK (updOsdp (p - 4) (fun o => { o with running := true }) s)) s

/-- BSI_PORT_STOP. -/
def execBsiPortStop (iss : Issuer) (port : Fin 6) (s : State) : Out :=
  regCmd iss .bsi 0x0004 (fun s =>
    let p := port.val
    if p < 4 then
      if (daliPort s p).running then
        let s := updDali p (fun x => { x with running := false, fault := false, waiting := [], onBus := none, starting := [] }) s
        bsiStatus iss cBSI_OK (unqueueStart (.port p) s)
      else bsiStatus iss cBSI_CMD_STATE s
    else if (osdpPort s (p - 4)).running then
      let s := updOsdp (p - 4) (fun o => { o with running := false, out := none }) s
      bsiStatus iss cBSI_OK ((readersOf s (p - 4)).foldl (fun s r =>
        updReader r (fun y => { y with open0 := false, keys := [] }) s) s)
    else bsiStatus iss cBSI_CMD_STATE s) s

/-- INSTALL (R417), cask 0 only: a reader of a running OSDP port enters install mode for 10 min. -/
def execInstall (iss : Issuer) (port : Fin 16) (addr : Fin 128) (s : State) : Out :=
  regCmd iss .bsi 0x0004 (fun s =>
    let p := port.val - 4
    match (readersOf s p).find? (fun r => (reader s r).rc.addr == addr.val) with
    | some r =>
      if isOwner iss && 4 ≤ port.val && (osdpPort s p).running then
        bsiStatus iss cBSI_OK (updReader r (fun y => { y with install := some s.now, keySet := false, open0 := false }) s)
      else bsiStatus iss cBSI_CMD_STATE s
    | none => bsiStatus iss cBSI_CMD_STATE s) s

/-- INSTALL_TIMEOUT. -/
def execInstallTimeout (r : Fin 32) (s : State) : Out :=
  .next (match (reader s r).install with
    | some t =>
      if isRun s .fbus && t + 600000000000 ≤ s.now then
        keysetEvent r 2 (updReader r (fun y => { y with install := none, keySet := false, open0 := false, keys := [] }) s)
      else s
    | none => s)

/-! ### Credentials (R419) -/

/-- A cask's bank of BSI_CRED registers. -/
def credBank (s : State) (c : Nat) : CredBank := Tbl.at s.fbs.banks c {}

/-- Entries a cask holds. -/
def credsHeld (s : State) (c : Nat) : Nat := (s.fbs.creds.filter (fun e => e.cask == c)).length

/-- HASH in a cask's bank. -/
def bankHash (b : CredBank) : DWord := b.hashHi ++ b.hashLo

/-- The entry a bank and a command describe. -/
def bankCred (c : Nat) (b : CredBank) (sched dest : Byte) : Cred :=
  { cask := c, hash := bankHash b, doors := b.doors, from0 := b.from0.toNat, to0 := b.to0.toNat, sched := sched.toNat,
    dest := dest.toNat }

/-- Change the table and its journaled copy. -/
def changeCreds (f : List Cred → List Cred) (s : State) : State :=
  { s with fbs.creds := f s.fbs.creds, fbs.credFlash := f s.fbs.credFlash }

/-- Set the outcome of a credential command. -/
def credCode (iss : Issuer) (code : Nat) (s : State) : State :=
  { s with fbs.banks := Tbl.put s.fbs.banks iss.cask.val { credBank s iss.cask with code := code }, reply := .code code }

/-- The cask holds an entry with this HASH. -/
def holdsCred (s : State) (c : Nat) (h : DWord) : Bool := s.fbs.creds.any (fun e => e.cask == c && e.hash == h)

/-- CRED_ADD. -/
def execCredAdd (iss : Issuer) (sched dest : Byte) (s : State) : Out :=
  regCmd iss .bsi 0x0214 (fun s =>
    let c := iss.cask.val
    let e := bankCred c (credBank s c) sched dest
    if holdsCred s c e.hash then credCode iss cBSI_CRED_EXISTS s
    else if Tbl.at s.fbs.quotas c 0 ≤ credsHeld s c then credCode iss cBSI_CRED_QUOTA s
    else if 16384 ≤ s.fbs.creds.length then credCode iss cBSI_CRED_FULL s
    else credCode iss cBSI_OK (changeCreds (fun l => l ++ [e]) s)) s

/-- CRED_DELETE. -/
def execCredDelete (iss : Issuer) (s : State) : Out :=
  regCmd iss .bsi 0x0214 (fun s =>
    let c := iss.cask.val
    let h := bankHash (credBank s c)
    if !holdsCred s c h then credCode iss cBSI_CRED_NONE s
    else credCode iss cBSI_OK (changeCreds (fun l => l.filter (fun e => !(e.cask == c && e.hash == h))) s)) s

/-- CRED_REPLACE. -/
def execCredReplace (iss : Issuer) (sched dest : Byte) (s : State) : Out :=
  regCmd iss .bsi 0x0214 (fun s =>
    let c := iss.cask.val
    let n := bankCred c (credBank s c) sched dest
    if !holdsCred s c n.hash then credCode iss cBSI_CRED_NONE s
    else credCode iss cBSI_OK (changeCreds (fun l => l.map (fun e => if e.cask == c && e.hash == n.hash then n else e)) s)) s

/-- CRED_TABLE_RESTORE (R419): firmware has restored the journaled copy; while ACCEPTED is clear the restored table stays empty
(R451). -/
def execCredTableRestore (s : State) : Out :=
  .next (if isRun s .fbus && !s.fbs.restored then
      if s.key.accepted then { s with fbs.creds := s.fbs.credFlash, fbs.restored := true }
      else { s with fbs.creds := [], fbs.restored := true, reply := .code cKEY_NOT_ACCEPTED }
    else s)

end Sys2Proof.Machine
end

