-- ==== Sys2Proof/Machine/RingOps.lean ====
section
/-!
DEFINITION. RingOps.lean: Falore headers and buds, duplicate discard with its one-path counts, path states and reference paths
(spec/10_ring_and_redundancy.md R308 to R320; spec/14_keys_tamper_identity.md R435, R436).
-/
namespace Sys2Proof.Machine

def cNET_DUP_EVICT : Nat := 0x0820
def cNET_LEES_MISMATCH : Nat := 0x0821
def cNET_PATH_FAIL : Nat := 0x0822
def cNET_PATH_UP : Nat := 0x0823
def cNET_REF_STANDBY : Nat := 0x0824
def cNET_FLOW_LATE : Nat := 0x0825

/-! ### Header and keys (R308, R309, R435) -/

/-- TYPE of a Falore frame (Table 10.2); 0 for other traffic. -/
def typeCode : FrameKind → Nat
  | .flow => 1 | .heartbeat => 2 | .fmp => 3 | .pathTest => 4 | .bind => 5 | _ => 0

/-- The frame has a Falore type. -/
def isFalore (f : Frame) : Bool := typeCode f.kind != 0

/-- The 32-byte Falore header (Table 10.2). -/
def hdrBytes (f : Frame) : List Byte :=
  d1 (typeCode f.kind) ++ d1 (b2n f.keyPhase) ++ d1 f.cask ++ d1 0 ++ d2 f.srcAddr ++ d2 f.flow ++ d4 f.fseq ++
  d2 f.payload.length ++ d2 0 ++ toLe 8 f.stamp.toNat ++ d4 f.keyRef ++ d4 0

/-- The 12-byte GCM nonce (R308). -/
def nonceBytes (f : Frame) : List Byte := d2 f.srcAddr ++ d2 f.flow ++ d4 f.fseq ++ d4 0

/-- The bud a frame is sealed under: its root, cane, cask, label and context. -/
structure BudRef where
  root : Root
  cane : Cane
  cask : Nat
  bud : Bud
  ctx : List Byte

/-- EPOCH of a KEY_REF. -/
def epochOf (keyRef : Nat) : Nat := fld keyRef 0 27

/-- The bud of TREE, with the header's SRC_ADDR, FLOW and CASK (Table 14.3, R435); none for another TREE. -/
def budRef (tree : Nat) (f : Frame) (epoch : Nat) : Option BudRef :=
  match tree with
  | 1 => some ⟨.site, .ring, 0, .hbt1, d2 f.srcAddr ++ d4 epoch⟩
  | 2 => some ⟨.site, .flow, 0, .flb1, d2 f.srcAddr ++ d2 f.flow ++ d4 epoch⟩
  | 3 => some ⟨.site, .sess, f.cask, .ssb1, d2 f.srcAddr ++ d4 epoch⟩
  | 4 => some ⟨.service, .svc1, f.cask, .svb1, d2 f.srcAddr ++ d4 epoch⟩
  | _ => none

/-- TREE fits TYPE (Table 14.3). -/
def treeFits (k : FrameKind) (tree : Nat) : Bool :=
  match k with
  | .flow => tree == 2
  | .fmp => tree == 3 || tree == 4
  | .heartbeat | .pathTest | .bind => tree == 1
  | _ => false

/-- KEY_REF of a tree and epoch in this module (R435). -/
def keyRefOf (s : State) (tree epoch : Nat) : Nat := tree * 2 ^ 28 + s.key.siteGen % 2 * 2 ^ 27 + epoch % 2 ^ 27

/-- The key of a bud. -/
def budKey (s : State) (b : BudRef) : Option (List Byte) := deriveBud s b.root b.cane b.cask b.bud b.ctx

/-- A derived bud enters the cache (R436). -/
def noteBud (b : BudRef) (s : State) : State := useBud b.root b.cane b.cask b.bud b.ctx s

/-- R436: a frame whose bud cannot be derived is dropped and counted. -/
def dropStale (s : State) : State := { s with key.staleCount := satInc s.key.staleCount 0xFFFF }

/-- R309: the epoch a sender starts for a bud context: one above the highest it has used, kept in ferroelectric memory. -/
def newEpoch (key : Nat) (s : State) : Nat × State :=
  let e := Tbl.at s.key.epochs key 0 + 1
  (e, { s with key.epochs := Tbl.put s.key.epochs key e })

/-- FSEQ at which a sender moves on (R309, R333). -/
def fseqEnd : Nat := 0xF0000000

/-- Seal an own frame under the bud of a tree and epoch: header fields, ciphertext and tag; none while the bud cannot be derived. -/
def sealFrame (s : State) (tree epoch : Nat) (f : Frame) : Option Frame :=
  let f := { f with keyPhase := epoch % 2 == 1, keyRef := keyRefOf s tree epoch }
  match budRef tree f epoch with
  | none => none
  | some b =>
    match budKey s b with
    | none => none
    | some k =>
      let c := Config.gcmXor k (nonceBytes f) f.payload
      let f := { f with payload := c }
      some { f with tag := Config.gcmTag k (nonceBytes f) (hdrBytes f) c }

/-- Note the bud an own frame uses. -/
def noteSealed (tree epoch : Nat) (f : Frame) (s : State) : State :=
  match budRef tree f epoch with
  | some b => noteBud b s
  | none => s

/-- A frame of TYPE 0x02, 0x04 or 0x05 under the module's HBT1 bud (R309): sealed, with the shared frame sequence advanced, and handed
to `send`. -/
def sendHbt (k : FrameKind) (payload : List Byte) (send : Frame → State → State) (s : State) : State :=
  if !isRun s .key then xchRefuse 11 .ring .key s
  else
    let s := if s.net.hbtEpoch = 0 || fseqEnd ≤ s.net.hbtSeq then
        let (e, s) := newEpoch 0 s
        { s with net.hbtEpoch := e, net.hbtSeq := 0 }
      else s
    let f := { ownFrame s k with payload := payload, fseq := s.net.hbtSeq }
    match sealFrame s 1 s.net.hbtEpoch f with
    | none => dropStale s
    | some g => send g (noteSealed 1 s.net.hbtEpoch f { s with net.hbtSeq := s.net.hbtSeq + 1 })

/-- What authentication of a received Falore frame gives. -/
inductive AuthRes where
  | ok (plain : List Byte) | stale | bad
  deriving DecidableEq, Repr

/-- Authenticate and decrypt (R308, R435, R436): a bud of an absent or superseded parent cannot be derived. -/
def authFrame (s : State) (f : Frame) : AuthRes :=
  let tree := fld f.keyRef 28 4
  let epoch := epochOf f.keyRef
  if !treeFits f.kind tree || f.keyPhase != (epoch % 2 == 1) then .bad
  else if bitOf f.keyRef 27 != (s.key.siteGen % 2 == 1) then .stale
  else match budRef tree f epoch with
    | none => .bad
    | some b =>
      match budKey s b with
      | none => .stale
      | some k =>
        if Config.gcmTag k (nonceBytes f) (hdrBytes f) f.payload == f.tag then
          .ok (Config.gcmXor k (nonceBytes f) f.payload)
        else .bad

/-! ### Nodes and path states (R314 to R317) -/

/-- A ring map entry. -/
def node (s : State) (n : Nat) : Node := Tbl.at s.net.nodes n {}

/-- Number of ring map entries. -/
def nNodes (s : State) : Nat := s.net.nodes.length

/-- Change a ring map entry. -/
def updNode (n : Nat) (f : Node → Node) (s : State) : State := { s with net.nodes := Tbl.upd s.net.nodes n {} f }

/-- The other nodes of the ring map. -/
def peers (s : State) : List Nat := (s.net.nodes.map (·.1)).filter (· != 0)

/-- One path of a node. -/
def pathSt (x : Node) : Port → PathSt
  | .a => x.pa
  | .b => x.pb

/-- Change one path of a node. -/
def updPath (n : Nat) (p : Port) (f : PathSt → PathSt) (s : State) : State :=
  updNode n (fun x => match p with
    | .a => { x with pa := f x.pa }
    | .b => { x with pb := f x.pb }) s

/-- Nodes beyond node `n` in a port's direction, nearest first: the path over port A goes on to the next higher entries, over port B to
the next lower ones (R324, Table 10.6). -/
def beyond (s : State) (n : Nat) : Port → List Nat
  | .a => (List.range (nNodes s)).filter (fun k => n < k)
  | .b => ((List.range n).filter (fun k => k != 0)).reverse

/-- R315: the path state of a node over a port. -/
def pathOf (s : State) (n : Nat) (p : Port) : PathState :=
  let x := node s n
  if x.hb then (pathSt x p).st
  else match (beyond s n p).find? (fun k => (node s k).hb) with
    | some k => (pathSt (node s k) p).st
    | none => if (portSt s p).link then .up else .failed

/-- A path neither carries heartbeats nor has shown the common stream again: arrivals over the other one are counted apart (R312,
R316). -/
def pathOut (s : State) (n : Nat) (p : Port) : Bool :=
  pathOf s n p == .failed || pathOf s n p == .resync

/-- R319: the path may newly take the reference role. -/
def refOk (s : State) (n : Nat) (st : PathState) (p : Port) : Bool :=
  pathOf s n p == st && ((node s n).suspect.isNone || pathOf s n (otherPort p) == .failed)

/-- R319: the reference path a node has now, given the one it had. -/
def nextRef (s : State) (n : Nat) : Option Port :=
  let cur := (node s n).ref
  let up := match cur with | some p => pathOf s n p == PathState.up | none => false
  if up then cur
  else if refOk s n .up .a then some .a
  else if refOk s n .up .b then some .b
  else
    let stay := match cur with | some p => pathOf s n p == PathState.standby | none => false
    if stay then cur
    else if refOk s n .standby .a then some .a
    else if refOk s n .standby .b then some .b
    else none

/-- Bring the reference paths of all nodes up to date (R319): taking a STANDBY path is recorded, but for the first 12 s after reset or
a new map (R317). -/
def updRefs (s : State) : State :=
  (peers s).foldl (fun s n =>
    let old := (node s n).ref
    let r := nextRef s n
    if r == old then s
    else
      let s := updNode n (fun x => { x with ref := r }) s
      match r with
      | some p =>
        if pathOf s n p == PathState.standby && decide (s.net.mapAt + 12000000000 ≤ s.now) then
          record cNET_REF_STANDBY 0 (d2 (node s n).addr ++ d1 (if p == .a then 0 else 1)) s
        else s
      | none => s) s

/-- R320: peer stations whose both paths are FAILED, or all of them when both ports have lost link, are lost. -/
def losePeers (s : State) : State :=
  if !s.net.portA.link && !s.net.portB.link then loseBus (fun t => t.kind == 2) s
  else
    (peers s).foldl (fun s n =>
      if pathOf s n .a == .failed && pathOf s n .b == .failed then
        loseBus (fun t => t.kind == 2 && t.addr % 65536 == (node s n).addr) s
      else s) s

/-- Change paths, and note what hangs on their states: FAILS of nodes whose path takes its state from another's (R315), and reference
paths. -/
def withPaths (f : State → State) (s : State) : State :=
  let t := f s
  let t := (peers s).foldl (fun t n =>
    let newly := fun (p : Port) => pathOf s n p != .failed && pathOf t n p == .failed
    let k := b2n (newly .a) + b2n (newly .b)
    if k = 0 then t else updNode n (fun x => { x with fails := satTo (x.fails + k) 0xFFFF }) t) t
  updRefs t

/-- R316: a heartbeat of node `n` accepted on port `p`; `seen` when its sequence number was already accepted from the other port. -/
def pathHb (n : Nat) (p : Port) (seen : Bool) (s : State) : State :=
  withPaths (updPath n p (fun x =>
    let x' := { x with lastHb := some s.now }
    match x.st with
    | .failed => { x' with st := .resync }
    | .resync => if seen then { x' with st := .standby, cleanFrom := s.now } else x'
    | .standby =>
      let gap := match x.lastHb with | some t => decide (1500000 < s.now - t) | none => true
      if gap then { x' with cleanFrom := s.now } else x'
    | .up => x')) s

/-! ### Duplicate table (R310 to R312) -/

/-- The MAC in use for a node (R448). -/
def macOf (s : State) (n : Nat) : Nat := Tbl.at s.key.peerMac n (node s n).mac

/-- The node with a source MAC. -/
def nodeByMac (s : State) (mac : Nat) : Option Nat := (peers s).find? (fun n => macOf s n == mac)

/-- The node with a module address. -/
def nodeByAddr (s : State) (a : Nat) : Option Nat := ((s.net.nodes.find? (fun e => e.1 != 0 && e.2.addr == a)).map (·.1))

/-- R312: one sequence number leaves an entry: when only one copy was accepted, its one-path arrival is counted. -/
def countOne (s : State) (e : DupEnt) (q : DupSeq) : DupEnt :=
  if q.onA && q.onB then e
  else
    let p : Port := if q.onA then .a else .b
    let out := match nodeByMac s e.mac with | some n => pathOut s n (otherPort p) | none => false
    if out then { e with oneFail := satInc e.oneFail max32 }
    else match p with
      | .a => { e with oneA := satInc e.oneA max32 }
      | .b => { e with oneB := satInc e.oneB max32 }

/-- The table entry of a source. -/
def dupOf (s : State) (mac : Nat) : Option (Nat × DupEnt) := s.net.dup.find? (fun e => e.2.mac == mac && mac != 0)

/-- The least recently used entry. -/
def dupOldest (s : State) : Option (Nat × DupEnt) :=
  s.net.dup.foldl (fun b e => match b with
    | some o => if e.2.lastAt < o.2.lastAt then some e else b
    | none => some e) none

/-- R310: an entry for a new source; with the table full, the least recently used one is evicted. -/
def dupTake (s : State) (mac : Nat) : Nat × State :=
  match (List.range 2048).find? (fun i => (Tbl.at s.net.dup i {}).mac == 0) with
  | some i => (i, { s with net.dup := Tbl.put s.net.dup i { mac := mac } })
  | none =>
    match dupOldest s with
    | none => (0, s)
    | some (i, _) =>
      let s := { s with net.evict := satInc s.net.evict 0xFFFF, net.dup := Tbl.put s.net.dup i { mac := mac } }
      let due := match s.net.evictAt with | some t => decide (t + 1000000000 ≤ s.now) | none => true
      (i, if due then record cNET_DUP_EVICT 0 [] { s with net.evictAt := some s.now } else s)

/-- What the duplicate table says of an accepted copy. -/
inductive Copy where
  | first
  /-- The second copy of a pair. -/
  | pair
  /-- A further copy on a port it has already come on. -/
  | again
  deriving DecidableEq, Repr

/-- R310: note an accepted copy. -/
def dupNote (f : Frame) (p : Port) (s : State) : Copy × State :=
  let (i, s) := match dupOf s f.src with | some (i, _) => (i, s) | none => dupTake s f.src
  let e := Tbl.at s.net.dup i {}
  let put := fun (x : DupEnt) => { s with net.dup := Tbl.put s.net.dup i { x with lastAt := s.now } }
  match e.win.find? (fun q => q.seq == f.hsrSeq) with
  | some q =>
    let was := match p with | .a => q.onA | .b => q.onB
    if was then (.again, put e)
    else
      let mark := fun (q : DupSeq) => match p with
        | .a => { q with onA := true }
        | .b => { q with onB := true }
      (.pair, put { e with win := e.win.map (fun q => if q.seq == f.hsrSeq then mark q else q) })
  | none =>
    let q : DupSeq := { seq := f.hsrSeq, onA := p == .a, onB := p == .b }
    let leaving := e.win.drop 63
    let e := leaving.foldl (fun e q => countOne s e q) e
    (.first, put { e with win := q :: e.win.take 63 })

/-- R310, R312: an entry is forgotten; what is still in its window is counted. The place shows MAC 0, and its counters until another
source takes it. -/
def dupForget (i : Nat) (s : State) : State :=
  let e := Tbl.at s.net.dup i {}
  let e := e.win.foldl (fun e q => countOne s e q) e
  { s with net.dup := Tbl.put s.net.dup i { e with mac := 0, win := [] } }

/-! ### Answers (R309, R335) -/

/-- Header of an FMP request as it travels (Table 10.5). -/
def fmpHdrBytes (op : Nat) (h : FmpHdr) : List Byte :=
  d1 h.ver ++ d1 op ++ d1 h.cask.val ++ d1 0 ++ d4 h.seq.toNat ++ d4 (h.block * 2 ^ 16 + h.offset) ++ d2 h.count ++ d2 0

/-- Key of a client's FMP session. -/
def sessKey (service : Bool) (client : Nat) : Nat := if service then 0x10000 + client else client

/-- The answer of an FMP request is kept with its SEQ: the last 16 of the session (R335). -/
def keepAnswer (key seq : Nat) (r : Reply) (s : State) : State :=
  { s with net.sessions := Tbl.upd s.net.sessions key {} (fun x =>
      { x with isOpen := true, recent := ((seq, r) :: x.recent.filter (fun e => e.1 != seq)).take 16 }) }

/-- An FMP answer frame leaves on the ring under the session bud of its cask, in class 3 of that cask (R323, R335). -/
def sendAnswer (cask : Nat) (hdr : List Byte) (status : Nat) (ws : List Word) (s : State) : State :=
  if !isRun s .key then xchRefuse 11 .ring .key s
  else
    let old := Tbl.at s.net.fmpTx cask (0, 0)
    let fresh := old.1 = 0 || fseqEnd ≤ old.2
    let (e, s) := if fresh then newEpoch (2000 + cask) s else (old.1, s)
    let q := if fresh then 0 else old.2
    let tree := if cask = 63 then 4 else 3
    let body := hdr.take 14 ++ d2 status ++ ws.flatMap (fun w => toLe 4 w.toNat)
    let f := { ownFrame s .fmp with cask := cask, fseq := q, payload := body }
    match sealFrame s tree e f with
    | none => dropStale s
    | some g =>
      let s := noteSealed tree e f { s with net.fmpTx := Tbl.put s.net.fmpTx cask (e, q + 1) }
      sendBoth (fun p f s => queue3 p cask f s) g s

/-- Status and words of an answer. -/
def replyParts : Reply → Nat × List Word
  | .words c ws => (c, ws)
  | .code c => (c, [])
  | _ => (0x0830, [])

end Sys2Proof.Machine
end

