-- ==== Sys2Proof/Machine/Time.lean ====
section
/-!
DEFINITION. Time.lean: the time domains, their servo, master loss and commands (spec/11_network_time.md).
-/
namespace Sys2Proof.Machine

/-! ### Codes (Table 11.10) -/

def cTIM_OK : Nat := 0x0900
def cTIM_STATE : Nat := 0x0901
def cTIM_STEP : Nat := 0x0910
def cTIM_HOLDOVER : Nat := 0x0911
def cTIM_LOCKED : Nat := 0x0912
def cTIM_UNTRUSTED : Nat := 0x0913
def cTIM_ABORTED : Nat := 0x0914

/-- The four domain numbers. -/
def domains : List Nat := [0, 1, 2, 3]

/-- Code of a source (Table 11.2). -/
def sourceCode : TimeSource → Nat
  | .free => 0 | .ptp => 1 | .follow => 2

/-- Code of a state (Table 11.3). -/
def domStCode : DomState → Nat
  | .unset => 0 | .acquiring => 1 | .locked => 2 | .holdover => 3 | .set => 4 | .following => 5

/-- Sync interval in ns (LOG_SYNC). -/
def syncInterval (r : TimeRec) : Nat := 1000000000 / 2 ^ r.syncExp

/-- Announce receipt timeout of the profile in ns: three announce intervals, of 2 s in the default profile and of 1 s
in the power utility profile (PRESUMED from the standards the spec names, assumption 8). -/
def announceTimeoutNs (r : TimeRec) : Nat := if r.utility then 3000000000 else 6000000000

/-! ### Trust (R345) -/

/-- R345: record TIM_UNTRUSTED for each domain that was trusted and no longer is, and note those that are. -/
def noteTrust (s : State) : State :=
  domains.foldl (fun s n =>
    let t := trusted s n
    if t then updDom n (fun d => { d with seenTrust := true }) s
    else if (dom s n).seenTrust then
      record cTIM_UNTRUSTED 0 (d1 n) (updDom n (fun d => { d with seenTrust := false }) s)
    else s) s

/-! ### Steps (R341, R343) -/

/-- Domains that follow domain `n`. -/
def followers (s : State) (n : Nat) : List Nat :=
  domains.filter (fun m => (dom s m).rc.source == .follow && (dom s m).rc.followOf == n)

/-- One domain's part of a step of `ns`: STEPS, the event, and every island's copy still to take it (the Ring MAC holds the
domains themselves; the safety island has no copy). -/
def noteStep (n : Nat) (ns : Int) (s : State) : State :=
  let s := updDom n (fun d => { d with steps := (d.steps + 1) % 65536 }) s
  let s := [0, 1, 2, 3, 5, 6, 9, 10].foldl (fun s i =>
    { s with tim.lag := Tbl.upd s.tim.lag (i * 4 + n) 0 (· + ns) }) s
  record cTIM_STEP 0 (d1 n ++ d8i ns) s

/-- R341: a step of `ns` of domain `n`, repeated in the same cycle in each follower with FOLLOW_STEPS set; a follower without
it absorbs the step and keeps its value (R343). -/
def stepDom (n : Nat) (ns : Int) (s : State) : State :=
  let mark := n == 0 && trusted s 0
  let s := updDom n (fun d =>
    { d with t := (((d.t : Int) + ns * (nsUnit : Nat)) % ((2 ^ 96 : Nat) : Int)).toNat }) s
  let s := noteStep n ns s
  let s := (followers s n).foldl (fun s m =>
    if (dom s m).rc.followSteps then noteStep m ns s
    else updDom m (fun d => { d with absorbed := d.absorbed - ns }) s) s
  if mark then { s with tim.markStep := true } else s

/-- Start a slew that removes `ns` (R342, R351): what remains of an earlier one is replaced. -/
def slewDom (n : Nat) (ns : Int) (s : State) : State :=
  updDom n (fun d => { d with slewing := true, slewRem := ns * (nsUnit : Nat) }) s

/-! ### The servo (R351) -/

/-- Greatest of a list of integers, 0 of none. -/
def maxI : List Int → Int
  | [] => 0
  | a :: r => r.foldl (fun m x => if m < x then x else m) a
/-- Least of a list of integers, 0 of none. -/
def minI : List Int → Int
  | [] => 0
  | a :: r => r.foldl (fun m x => if x < m then x else m) a

/-- R351: drop the oldest counted offsets until the rest lie within ACCEPT_NS of one another. -/
def trimRun (acceptNs : Nat) : List Int → List Int
  | [] => []
  | a :: r => if maxI (a :: r) - minI (a :: r) ≤ acceptNs then a :: r else trimRun acceptNs r

/-- The counted run with a new offset, at most the 8 latest. -/
def countOffset (acceptNs : Nat) (run : List Int) (off : Int) : List Int :=
  let r := trimRun acceptNs (run ++ [off])
  r.drop (r.length - 8)

/-- Table 11.5: whether the offset is removed by a step. -/
def policySteps (d : Dom) (atAccept : Bool) (off : Int) : Bool :=
  let big := decide ((d.rc.stepNs : Int) < off.natAbs)
  match d.rc.policy with
  | .stepSlew => big
  | .slewOnly => false
  | .stepFirst => atAccept && !d.accepted && big

/-- Correct an offset as POLICY gives: the domain moves by minus the offset. -/
def correct (n : Nat) (atAccept : Bool) (off : Int) (s : State) : State :=
  if policySteps (dom s n) atAccept off then
    stepDom n (-off) (updDom n (fun d => { d with slewing := false, slewRem := 0 }) s)
  else slewDom n (-off) s

/-- The servo's frequency correction at a Sync, within 2 ppm (R342; the estimator is free, assumption 7). -/
def takeFreq (n : Nat) (s : State) : State :=
  updDom n (fun d =>
    let f := clampI (Config.servoFreq d.offs d.freq) (-20000) 20000
    { d with freq := f, freqHist := (f :: d.freqHist).take 8 }) s

/-- R351: acceptance of a master; LOCKED, the offset corrected, TIM_LOCKED with the holdover in ms and the offset. -/
def acceptMaster (n : Nat) (gm : DWord) (off : Int) (s : State) : State :=
  let d := dom s n
  let held := if d.st == .holdover then (s.now - d.holdFrom) / 1000000 else 0
  let s := updDom n (fun d => { d with st := .locked, gm := gm, setTrust := false, holdS := 0, master := false }) s
  let s := correct n true off s
  let s := updDom n (fun d => { d with accepted := true }) s
  record cTIM_LOCKED 0 (d1 n ++ d4 held ++ d8i off) s

/-- R352: the loss of the master: HOLDOVER at the mean frequency correction of the last 8 intervals; a slew in progress
stops with the rest uncorrected. -/
def loseMaster (n : Nat) (s : State) : State :=
  let s := updDom n (fun d =>
    { d with st := .holdover, gm := 0, offs := [], slewing := false, slewRem := 0, holdS := 0, holdAt := s.now,
             holdFrom := s.now,
             freq := if d.freqHist.isEmpty then d.freq else (d.freqHist.foldl (· + ·) 0) / (d.freqHist.length : Int) }) s
  record cTIM_HOLDOVER 0 (d1 n) s

/-- The PTP domain on a domainNumber. -/
def ptpDomain (s : State) (dn : Nat) : Option Nat :=
  domains.find? (fun n => (dom s n).rc.source == .ptp && (dom s n).rc.ptpDn == dn)

/-- The reference path of a ring node (R319). -/
def refOf (s : State) (node : Nat) : Option Port := (Tbl.at s.net.nodes node {}).ref

/-- One Sync taken for domain `n` (R350): measure the offset, count it, and act on it (R351, R353). -/
def takeSync (n : Nat) (port : Port) (gm : DWord) (master : DWord) (s : State) : State :=
  let d := dom s n
  let off : Int := sOf 64 (twos 64 ((domNs s n : Int) - master.toNat))
  let moved := d.ref.isSome && d.ref != some port
  let s := updDom n (fun d => { d with ref := some port, lastSync := s.now }) s
  if d.st == .locked then
    if gm != d.gm then s
    else if moved && decide ((d.rc.acceptNs : Int) < (off - d.lastOfs).natAbs) then
      loseMaster n (updDom n (fun d => { d with lastOfs := off }) s)
    else
      let s := updDom n (fun d => { d with lastOfs := off, offs := countOffset d.rc.acceptNs d.offs off }) s
      correct n false off (takeFreq n s)
  else
    let run := if gm == d.evalGm then d.offs else []
    let run := countOffset d.rc.acceptNs run off
    let s := updDom n (fun d =>
      { d with lastOfs := off, offs := run, evalGm := gm,
               st := if d.st == .unset then .acquiring else d.st }) s
    let s := takeFreq n s
    if 8 ≤ run.length then acceptMaster n gm off s else s

/-- SYNC_RECEIVED (R350, R351): a Sync on the reference path of its grandmaster's node; a copy from the other path is not
taken for time. -/
def syncOp (dn : Nat) (port : Port) (gm : DWord) (node : Nat) (master : DWord) (s : State) : State :=
  match ptpDomain s dn with
  | none => s
  | some n =>
    let d := dom s n
    if refOf s node != some port then s
    else if (match d.best with | some b => b.gm != gm | none => false) then s
    else noteTrust (takeSync n port gm master s)

def execSyncReceived (dn : Nat) (port : Port) (gm : DWord) (node : Fin 64) (masterTime : DWord) (s : State) : Out :=
  .next (if isRun s .ring then syncOp dn port gm node masterTime s else s)

/-- SYNC_MISSING (R351): 1.5 intervals after the last Sync taken, the count restarts at 0. -/
def execSyncMissing (n : Fin 4) (s : State) : Out :=
  let d := dom s n
  .next (if d.rc.source == .ptp && 3 * syncInterval d.rc ≤ 2 * (s.now - d.lastSync) then
    updDom n (fun d => { d with offs := [] }) s else s)

/-- TIM_HOLDOVER (R352): 3 Sync intervals without a Sync taken. -/
def execTimHoldover (n : Fin 4) (s : State) : Out :=
  let d := dom s n
  .next (if d.st == .locked && !d.master && 3 * syncInterval d.rc ≤ s.now - d.lastSync then
    noteTrust (loseMaster n s) else s)

/-! ### The best master clock algorithm (R347, R352, R354) -/

/-- The order of the data sets the default algorithm compares: priority1, class, accuracy, variance, priority2, identity. -/
def announceKey (a : Announce) : List Nat :=
  [a.priority1, a.clockClass, a.accuracy, a.variance, a.priority2, a.gm.toNat]

/-- Lexicographic comparison: the first data set is better. -/
def better : List Nat → List Nat → Bool
  | a :: r, b :: t => a < b || (a == b && better r t)
  | _, _ => false

/-- The module's own data set as a master-capable clock: the class, accuracy and variance a clock of no better source
carries in the standard (PRESUMED, assumption 8). -/
def ownAnnounce (s : State) (d : Dom) : Announce :=
  { dn := d.rc.ptpDn, gm := s.tim.clockId, priority1 := d.rc.priority1, clockClass := 248, accuracy := 0xFE,
    variance := 0xFFFF, priority2 := d.rc.priority2, utcOffset := s.tim.utcOfs, utcValid := s.tim.utcValid }

/-- The module becomes grandmaster of its domain and keeps its own time (R354). -/
def becomeMaster (n : Nat) (s : State) : State :=
  updDom n (fun d => { d with master := true, best := none }) s

/-- ANNOUNCE_RECEIVED (R352, R354). -/
def announceOp (a : Announce) (s : State) : State :=
  match ptpDomain s a.dn with
  | none => s
  | some n =>
    let d := dom s n
    let replace := match d.best with
      | none => true
      | some b => b.gm == a.gm || better (announceKey a) (announceKey b)
    if d.rc.masterCapable && better (announceKey (ownAnnounce s d)) (announceKey a) then
      if replace then becomeMaster n s else s
    else if replace then
      let s := updDom n (fun d => { d with best := some a, master := false, lastAnnounce := s.now }) s
      let s := if n == 0 then { s with tim.utcOfs := a.utcOffset, tim.utcValid := a.utcValid } else s
      if d.st == .locked && d.gm != a.gm then noteTrust (loseMaster n s) else s
    else s

def execAnnounceReceived (a : Announce) (s : State) : Out :=
  .next (if isRun s .ring then announceOp a s else s)

/-- ANNOUNCE_TIMEOUT (R352, R354): the receipt timeout of the profile passes. -/
def execAnnounceTimeout (n : Fin 4) (s : State) : Out :=
  let d := dom s n
  .next (if d.rc.source == .ptp && announceTimeoutNs d.rc ≤ s.now - d.lastAnnounce && !d.master then
    if d.rc.masterCapable then becomeMaster n s
    else
      let s := updDom n (fun d => { d with best := none }) s
      if d.st == .locked then noteTrust (loseMaster n s) else s
  else s)

/-- SLEW_COMPLETE (R351): the slew or ADJUST has removed its amount and ends. -/
def execSlewComplete (n : Fin 4) (s : State) : Out :=
  let d := dom s n
  .next (if d.slewing && d.slewRem == 0 then updDom n (fun d => { d with slewing := false }) s else s)

/-- HOLD_SECOND (R344): HOLD_S counts a whole second of HOLDOVER or since SET_TRUST, while the Cluster runs. -/
def execHoldSecond (n : Fin 4) (s : State) : Out :=
  let d := dom s n
  .next (if isRun s .cluster && (d.st == .holdover || (d.st == .set && d.setTrust)) && 1000000000 ≤ s.now - d.holdAt then
    updDom n (fun d => { d with holdS := satInc d.holdS max32, holdAt := d.holdAt + 1000000000 }) s else s)

/-- TIM_UNTRUSTED (R345): HOLD_S has reached HOLD_TRUST_S: trust has ended in the domain and in those that follow it, and the
event is recorded. -/
def execTimUntrusted (n : Fin 4) (s : State) : Out :=
  .next (if isRun s .ring && !trusted s n then
    let s := noteTrust s
    if n.val == 0 then { s with cel.winOk := false } else s
  else s)

/-! ### Peer delay (R347, R349) -/

/-- A port's link delay record. -/
def pdelayOf (s : State) : Port → Pdelay
  | .a => s.tim.pdA
  | .b => s.tim.pdB

/-- Change a port's link delay record. -/
def updPdelay (p : Port) (f : Pdelay → Pdelay) (s : State) : State :=
  match p with
  | .a => { s with tim.pdA := f s.tim.pdA }
  | .b => { s with tim.pdB := f s.tim.pdB }

/-- A Pdelay_Req is due on a port: it has link and the last one is 1 s old. -/
def pdelayDue (p : Port) (s : State) : Bool :=
  (portSt s p).link && (match (pdelayOf s p).pendingAt with | some t => 1000000000 ≤ s.now - t | none => true)

/-- The Pdelay_Req of one port; Pdelay messages carry no HSR tag (R348). -/
def pdelaySend (p : Port) (s : State) : State :=
  if pdelayDue p s then
    queueEvent p { ownFrame s .pdelay with hsrSeq := 0 } (updPdelay p (fun d => { d with pendingAt := some s.now }) s)
  else s

/-- PDELAY_REQUEST_SEND: a Pdelay_Req on each ring link, every 1 s. -/
def execPdelayRequestSend (s : State) : Out :=
  .next (if isRun s .ring then pdelaySend .b (pdelaySend .a s) else s)

/-- PDELAY_MESSAGE_RECEIVED: a request is answered with a one-step Pdelay_Resp (R349); a response updates the mean of the last 8
exchanges; a message outside Table 11.4 is ignored and counted (R347). -/
def pdelayOp (p : Port) (m : PdelayMsg) (s : State) : State :=
  match m with
  | .request => queueEvent p { ownFrame s .pdelay with hsrSeq := 0 } s
  | .response ns => updPdelay p (fun d =>
      let l := (ns :: d.delays).take 8
      { d with delays := l, valid := l.length == 8, mean := l.foldl (· + ·) 0 / l.length }) s
  | .outside => updPdelay p (fun d => { d with ignored := satInc d.ignored 0xFF }) s

def execPdelayMessageReceived (p : Port) (m : PdelayMsg) (s : State) : Out :=
  .next (if isRun s .ring then pdelayOp p m s else s)

/-- SYNC_SEND (R349, R354): a grandmaster domain sends Sync, stamped as it leaves, and Announce on both ports. -/
def execSyncSend (n : Fin 4) (s : State) : Out :=
  .next (if isRun s .ring && (dom s n).master then
    let f := { ownFrame s .sync with stamp := BitVec.ofNat 64 (domNs s n), flow := (dom s n).rc.ptpDn }
    let s := sendBoth queueEvent f s
    sendBoth (fun p f s => queue3 p 0 f s) { ownFrame s .announce with flow := (dom s n).rc.ptpDn } s
  else s)

/-! ### Register commands (R355) -/

/-- Offset of register `k` of domain `n` (0x0100 + 0x40n). -/
def domOff (n k : Nat) : Nat := 0x0100 + 0x40 * n + k

/-- Set the code of the issuer's last TIM command. -/
def timStatus (iss : Issuer) (c : Nat) (s : State) : State :=
  { s with tim.cmdStatus := Tbl.put s.tim.cmdStatus (bankKey iss) c, reply := .code c }

/-- R355: who may command a domain: cask 0; domain 3 also a cask its window map let through. -/
def mayCommand (iss : Issuer) (n : Nat) : Bool := isOwner iss || n == 3

/-- R355: a refused command does nothing but set the code and record TIM_STATE with its four data bytes. -/
def timRefuse (iss : Issuer) (n cmd : Nat) (s : State) : State :=
  let d := dom s n
  record cTIM_STATE iss.cask (d1 n ++ d1 cmd ++ d1 (sourceCode d.rc.source) ++ d1 (domStCode d.st))
    (timStatus iss cTIM_STATE s)

/-- Table 11.6: SET and SET_TRUST are accepted for FREE, and for PTP in UNSET or HOLDOVER. -/
def setFits (d : Dom) : Bool :=
  d.rc.source == .free || (d.rc.source == .ptp && (d.st == .unset || d.st == .holdover))

/-- The SET value of a domain. -/
def setValue (d : Dom) : Nat := d.setHi.toNat * 2 ^ 32 + d.setLo.toNat

/-- SET and SET_TRUST: step to the SET value, state SET, trusted or not. -/
def setOp (iss : Issuer) (n : Nat) (trust : Bool) (s : State) : State :=
  let d := dom s n
  if !(mayCommand iss n && setFits d) then timRefuse iss n (if trust then 2 else 1) s
  else
    let ns : Int := (setValue d : Int) - domNs s n
    let s := updDom n (fun d => { d with t := d.t / nsUnit * nsUnit, slewing := false, slewRem := 0 }) s
    let s := stepDom n ns s
    let s := updDom n (fun d =>
      { d with st := .set, setTrust := trust, holdS := if trust then 0 else d.holdS, holdAt := s.now, master := d.master,
               gm := 0, offs := [] }) s
    noteTrust (timStatus iss cTIM_OK s)

/-- ADJUST: slew a FREE domain in SET by the signed ns of SET_LO. -/
def adjustOp (iss : Issuer) (n : Nat) (s : State) : State :=
  let d := dom s n
  if !(mayCommand iss n && d.rc.source == .free && d.st == .set) then timRefuse iss n 3 s
  else timStatus iss cTIM_OK (slewDom n (sOf 32 d.setLo.toNat) s)

def execSetDomain (iss : Issuer) (n : Fin 4) (s : State) : Out := regCmd iss .tim (domOff n 0x28) (setOp iss n false) s
def execSetTrustDomain (iss : Issuer) (n : Fin 4) (s : State) : Out := regCmd iss .tim (domOff n 0x28) (setOp iss n true) s
def execAdjustDomain (iss : Issuer) (n : Fin 4) (s : State) : Out := regCmd iss .tim (domOff n 0x28) (adjustOp iss n) s

/-! ### Snapshots and captures (R356, R357) -/

/-- NOW_LO_READ: answers the low word and latches the high word of the same cycle in the issuer's bank. -/
def nowLatch (iss : Issuer) (n : Nat) (s : State) : State :=
  { s with tim.nowHi := Tbl.put s.tim.nowHi (bankKey iss * 4 + n) (w32 (domNs s n / 2 ^ 32)) }

def execNowLoRead (iss : Issuer) (n : Fin 4) (s : State) : Out :=
  regRead iss .tim (domOff n 0) (fun s => w32 (domNs s n)) (nowLatch iss n) s

/-- XSNAP: every selected domain latched in one cycle. -/
def xsnapOp (mask : Nat) (s : State) : State :=
  domains.foldl (fun s n =>
    if bitOf mask n then updDom n (fun d => { d with xs := BitVec.ofNat 64 (domNs s n) }) s else s) s

def execXsnap (iss : Issuer) (mask : Fin 16) (s : State) : Out := regCmd iss .tim 0x0000 (xsnapOp mask) s

/-- Code of a capture source (TIM_CAP_n_CFG.SRC). -/
def capCode : CapSrc → Nat
  | .aReceive => 0 | .aTransmit => 1 | .bReceive => 2 | .bTransmit => 3 | .timeCapIn => 4

/-- A capture channel. -/
def capture (s : State) (n : Nat) : Capture := Tbl.at s.tim.caps n {}

/-- A capture channel enabled on this source latches the low 32 bits of its domain and the low 8 bits of STEPS. -/
def captureOne (src : CapSrc) (s : State) (n : Nat) : State :=
  let c := capture s n
  if c.en && c.src == capCode src then
    let c := { c with isNew := true, steps := (dom s c.domain).steps % 256, ns := w32 (domNs s c.domain) }
    { s with tim.caps := Tbl.put s.tim.caps n c }
  else s

/-- TIME_CAPTURE: the four channels, each for itself. -/
def captureOp (src : CapSrc) (s : State) : State := [0, 1, 2, 3].foldl (captureOne src) s

def execTimeCapture (src : CapSrc) (s : State) : Out := .next (if isRun s .ring then captureOp src s else s)

/-- CAPTURE_READ: answers the capture and clears NEW. -/
def execCaptureRead (iss : Issuer) (n : Fin 4) (s : State) : Out :=
  regRead iss .tim (0x0044 + 8 * n) (fun s => (capture s n).ns)
    (fun s => { s with tim.caps := Tbl.upd s.tim.caps n {} (fun c => { c with isNew := false }) }) s

/-- TIME_DISTRIBUTION_UPDATE (R341): the island's copy takes every step TIM has made. -/
def distribute (i : Island) (s : State) : State :=
  domains.foldl (fun s n => { s with tim.lag := Tbl.put s.tim.lag (islNum i * 4 + n) 0 }) s

def execTimeDistributionUpdate (i : Island) (s : State) : Out :=
  .next (if isRun s .ring then distribute i s else s)

/-- R360: the Ring MAC abort ends an ADJUST in progress at its current amount. -/
def timAbort (s : State) : State :=
  let s := domains.foldl (fun s n =>
    if (dom s n).rc.source == .free && (dom s n).slewing then
      updDom n (fun d => { d with slewing := false, slewRem := 0 }) s else s) s
  record cTIM_ABORTED 0 [] s

/-! ### The clock -/

/-- One domain over 10 ns of the reference clock: its rate correction (frequency and slew) in 2^-32 ns (R340, R342). -/
def runDom (d : Dom) : Dom :=
  let base : Int := 10 * (nsUnit : Nat)
  let cap : Int := base * d.rc.slewPpb / 1000000000
  let sl := if d.slewing then clampI d.slewRem (-cap) cap else 0
  let f := base * d.freq / 10000000000
  { d with t := (((d.t : Int) + base + f + sl) % ((2 ^ 96 : Nat) : Int)).toNat,
           slewRem := d.slewRem - sl }

/-- The domains over one Trellis cycle. -/
def runDomains (s : State) : State := { s with tim.doms := Tbl.mapV s.tim.doms (fun _ d => runDom d) }

end Sys2Proof.Machine
end

