-- ==== Sys2Proof/Machine/Ring.lean ====
section
/-!
DEFINITION. Ring.lean: frames on the ring ports, heartbeats, paths, links, bypass, egress and the path test
(spec/10_ring_and_redundancy.md R307 to R323, R330, R334).
-/
namespace Sys2Proof.Machine

def cNET_PTEST_PASS : Nat := 0x0810
def cNET_PTEST_FAIL : Nat := 0x0811

/-! ### Lees check (R313) -/

/-- What the lees check compares: everything but the LanId, the FCS and the correctionField of event messages. -/
def leesView (f : Frame) : Frame :=
  { f with fcsOk := true, own := false, transit := false,
           payload := if isEventMsg f.kind then f.payload.take 8 ++ List.replicate 8 0 ++ f.payload.drop 16 else f.payload }

/-- A first copy is accepted: one pair in 1,024 is chosen and its first copy held, or the next one when every buffer is busy. -/
def leesFirst (f : Frame) (p : Port) (s : State) : State :=
  if !s.net.leesEn then s
  else if s.net.leesPair + 1 < 1024 then { s with net.leesPair := s.net.leesPair + 1 }
  else match (List.range 4).find? (fun i => !Tbl.has s.net.leesBufs i) with
    | some i =>
      { s with net := { s.net with
          leesPair := 0, leesBufs := Tbl.put s.net.leesBufs i { frame := f, port := p, at0 := s.now } } }
    | none => s

/-- A lees mismatch: counted, recorded, and both paths to the source SUSPECT, their 10 s clean starting again (R313, R316). -/
def leesBad (b : LeesBuf) (s : State) : State :=
  let s := { s with net.leesMismatch := satInc s.net.leesMismatch max32 }
  let s := record cNET_LEES_MISMATCH 0 (toLe 6 b.frame.src ++ d2 b.frame.hsrSeq ++ d1 (if b.port == .a then 0 else 1)) s
  match nodeByMac s b.frame.src with
  | some n =>
    let dirty := fun (x : PathSt) => { x with cleanFrom := s.now }
    updRefs (updNode n (fun x => { x with suspect := some s.now, pa := dirty x.pa, pb := dirty x.pb }) s)
  | none => s

/-- The second copy of a held pair is compared byte for byte. -/
def leesSecond (f : Frame) (s : State) : State :=
  match s.net.leesBufs.find? (fun e => e.2.frame.src == f.src && e.2.frame.hsrSeq == f.hsrSeq) with
  | some (i, b) =>
    let s := { s with net := { s.net with
      leesBufs := Tbl.del s.net.leesBufs i, leesCnt := (s.net.leesCnt + 1) % 2 ^ 32 } }
    if leesView b.frame == leesView f then s else leesBad b s
  | none => s

/-! ### Delivery -/

/-- The open receive context of a sender's flow. -/
def rxOf (s : State) (addr flow : Nat) : Option (Nat × Flow) :=
  s.net.flows.find? (fun e => e.2.rx && e.2.st == .admitted && e.2.srcAddr == addr && e.2.srcFlow == flow)

/-- Change a flow context. -/
def updFlow (n : Nat) (f : Flow → Flow) (s : State) : State := { s with net.flows := Tbl.upd s.net.flows n {} f }

/-- Lost deliveries of a context (R330). -/
def countDropped (n k : Nat) (s : State) : State := updFlow n (fun x => { x with dropped := satTo (x.dropped + k) 0xFF }) s

/-- FSEQ values between two of a window, which is kept highest first, that have not arrived. -/
def fseqGap : List Nat → Nat
  | a :: b :: r => (a - b - 1) + fseqGap (b :: r)
  | _ => 0

/-- The window of the 64 latest FSEQ values; those missing that fall below it can no longer be accepted and are lost deliveries (R311,
R330). -/
def takeFseq (x : Flow) (fseq : Nat) : Flow :=
  let w := insertBy (fun n => [max32 - n]) fseq x.win
  { x with win := w.take 64, dropped := satTo (x.dropped + fseqGap (w.drop 63)) 0xFF }

/-- R311: the FSEQ is in the window or lies below it. -/
def isDupFseq (x : Flow) (fseq : Nat) : Bool :=
  x.win.contains fseq || (match x.win.getLast? with | some low => x.win.length == 64 && fseq < low | none => false)

/-- R330: a late frame is counted; the first of a context in a 1 s window is recorded. -/
def countLate (n : Nat) (s : State) : State :=
  let x := Tbl.at s.net.flows n {}
  let due := match x.lateAt with | some t => decide (t + 1000000000 ≤ s.now) | none => true
  let s := updFlow n (fun x => { x with late := satInc x.late 0xFF }) s
  if due then record cNET_FLOW_LATE x.cask (d2 n) (updFlow n (fun x => { x with lateAt := some s.now }) s) else s

/-- R326: the destination points take the carried VALUE, QUALITY and STAMP; while domain 0 is untrusted GOOD becomes UNCERTAIN_TIME
(R330). -/
def writeEntries (n cask first : Nat) (es : List (List Byte)) (s : State) : State :=
  (es.zipIdx).foldl (fun s e =>
    let q : Byte := BitVec.ofNat 8 (leAt e.1 17 1)
    let q := if q == qGood && !trusted s 0 then qTime else q
    writeBy 8 n cask (first + e.2) (BitVec.ofNat 64 (leAt e.1 0 8)) q (BitVec.ofNat 64 (leAt e.1 8 8)) s) s

/-- Stations of KIND 0x02 with this module address hear from their peer (R161). -/
def heardPeer (addr : Nat) (s : State) : State :=
  ((s.stn.tbl.filter (fun e => e.2.kind == 2 && e.2.addr % 65536 == addr)).map (·.1)).foldl (fun s n => heardStation n s) s

/-- FLOW_DELIVERY (R311, R326, R330): an accepted flow frame. -/
def deliverFlow (f : Frame) (plain : List Byte) (s : State) : State :=
  match rxOf s f.srcAddr f.flow with
  | none => s
  | some (n, x) =>
    let e := epochOf f.keyRef
    if e < x.epoch then s
    else
      let s := if x.epoch < e then updFlow n (fun x =>
          { x with epoch := e, win := [], rekey := false, dropped := satTo (x.dropped + fseqGap x.win) 0xFF }) s else s
      let x := Tbl.at s.net.flows n {}
      if isDupFseq x f.fseq then s
      else if f.cask != x.cask then denied 0x06 8 n x.cask 1 f.cask s
      else
        let s := updFlow n (fun x => takeFseq x f.fseq) s
        if trusted s 0 && decide (f.stamp.toNat + x.promiseNs < localNs s .ring 0) then countLate n s
        else if !isRun s .trellis then xchRefuse 9 .ring .trellis s
        else
          let s := writeEntries n x.cask x.dpoint ((chunks 32 32 plain).take x.npts) s
          heardPeer f.srcAddr (updFlow n (fun x => { x with count := (x.count + 1) % 2 ^ 32 }) s)

/-- A request whose header is short, whose reserved byte or STATUS is not 0, or whose OP is none of Table 10.5. -/
def badHeader (hdr : List Byte) : Bool :=
  hdr.length != 16 || leAt hdr 3 1 != 0 || leAt hdr 14 2 != 0 || !([0x01, 0x02, 0x10, 0x11, 0x30].contains (leAt hdr 1 1))

/-- An accepted FMP frame waits for its execution (R335, R435); a malformed one is answered at once (R336): the client's FSEQ must rise within an epoch, and an epoch a re-key
demand names is stale. -/
def deliverFmp (f : Frame) (plain : List Byte) (s : State) : State :=
  let e := epochOf f.keyRef
  let old := Tbl.get? s.key.clients f.srcAddr
  let c := old.getD {}
  let late := match c.rekeyFrom with | some r => decide (e ≤ r) | none => false
  if late then dropStale s
  else if old.isNone && 256 ≤ s.key.clients.length then s
  else
    let seen := e == c.epoch && (match c.fseq with | some h => decide (f.fseq ≤ h) | none => false)
    if e < c.epoch || seen then s
    else
      let c : KClient := { c with cask := f.cask, epoch := e, fseq := some f.fseq }
      let q : FmpReq := { client := f.srcAddr, cask := f.cask, hdr := plain.take 16 }
      let s := { s with key.clients := Tbl.put s.key.clients f.srcAddr c }
      if badHeader q.hdr then sendAnswer f.cask (padTo 16 q.hdr) 0x0832 [] s else { s with net.fmpQ := s.net.fmpQ ++ [q] }

/-- R448: an authenticated heartbeat with another MAC for its node gives the MAC in use. -/
def noteMac (n : Nat) (f : Frame) (s : State) : State :=
  if macOf s n == f.src then s
  else
    let told := Tbl.has s.key.peerMac n
    let old := (node s n).mac
    let s := { s with key.peerMac := Tbl.put s.key.peerMac n f.src }
    if told then s else record cKEY_PEER_MAC 0 (d2 f.srcAddr ++ toLe 6 old ++ toLe 6 f.src) s

/-- A copy that passed its checks (R310, R313, R316). -/
def acceptCopy (p : Port) (f : Frame) (plain : List Byte) (s : State) : State :=
  let (c, s) := dupNote f p s
  let s := match c with
    | .first => leesFirst f p s
    | .pair => leesSecond f s
    | .again => s
  let s := match f.kind, nodeByAddr s f.srcAddr with
    | .heartbeat, some n => pathHb n p (c == .pair) (noteMac n f s)
    | _, _ => s
  if c != .first then s
  else match f.kind with
    | .flow => deliverFlow f plain s
    | .fmp => deliverFmp f plain s
    | _ => s

/-- R310, R436: a frame for this module is checked, authenticated and accepted or dropped. -/
def receiveOwn (p : Port) (f : Frame) (s : State) : State :=
  if !f.fcsOk then s
  else if !isFalore f then acceptCopy p f f.payload s
  else if !isRun s .key then xchRefuse 11 .ring .key s
  else match authFrame s f with
    | .bad => s
    | .stale =>
      let s := dropStale s
      if f.kind == .flow then
        match rxOf s f.srcAddr f.flow with
        | some (n, _) => countDropped n 1 s
        | none => s
      else s
    | .ok plain =>
      let s := match budRef (fld f.keyRef 28 4) f (epochOf f.keyRef) with | some b => noteBud b s | none => s
      acceptCopy p f plain s

/-- A transit frame leaves by the other port, cut-through (R307, R323, R325). -/
def forward (p : Port) (f : Frame) (s : State) : State :=
  let o := otherPort p
  if isEventMsg f.kind then queueEvent o f s
  else if f.kind == .heartbeat || f.kind == .flow then queue1 o f s
  else queue2 o f s

/-- R334: a test frame that has travelled the ring is removed and compared. -/
def testReturn (p : Port) (f : Frame) (s : State) : State :=
  let t := s.net.ptest
  if f.kind != .pathTest || t.state != .running || p == t.port || !f.fcsOk then s
  else match t.flight.find? (fun e => e.1.fseq == f.fseq) with
    | some e =>
      let good := leesView e.1 == leesView f
      let rtt := if good then max t.rtt (s.now - e.2) else t.rtt
      { s with net.ptest := { t with
          flight := t.flight.filter (fun e => e.1.fseq != f.fseq), good := t.good + b2n good, rtt := rtt } }
    | none => s

/-- The MAC of this module (R446). -/
def ownMac (s : State) : Nat := s.sys.mac

/-- RING_FRAME_RECEIVED: a frame of the module itself is removed; other frames are forwarded and, when for this module, received. -/
def ringFrameOp (p : Port) (f : Frame) (s : State) : State :=
  if !isRun s .ring || !(portSt s p).link then s
  else if f.src == ownMac s && s.net.admActive then testReturn p f s
  else
    let s := if f.transit && s.net.inRing then forward p f s else s
    if f.own then receiveOwn p f s else s

def execRingFrameReceived (p : Port) (f : Frame) (s : State) : Out := .next (ringFrameOp p f s)

/-- DUP_ENTRY_TIMEOUT (R310). -/
def execDupEntryTimeout (i : Fin 2048) (s : State) : Out :=
  .next (match Tbl.get? s.net.dup i with
    | some e => if isRun s .ring && e.mac != 0 && decide (e.lastAt + 400000000 ≤ s.now) then dupForget i s else s
    | none => s)

/-- LEES_HOLD_TIMEOUT (R313). -/
def execLeesHoldTimeout (i : Fin 4) (s : State) : Out :=
  .next (match Tbl.get? s.net.leesBufs i with
    | some b => if isRun s .ring && decide (b.at0 + 400000000 ≤ s.now) then
        { s with net.leesBufs := Tbl.del s.net.leesBufs i } else s
    | none => s)

/-- SUSPECT_CLEAR (R313). -/
def execSuspectClear (n : Fin 64) (s : State) : Out :=
  .next (match (node s n).suspect with
    | some t => if isRun s .ring && decide (t + 10000000000 ≤ s.now) then
        updRefs (updNode n (fun x => { x with suspect := none }) s) else s
    | none => s)

/-! ### Heartbeats and paths -/

/-- HEARTBEAT_SEND (R314): once in each own Trellis frame, on both ports. -/
def heartbeatOp (s : State) : State :=
  if isRun s .ring && isRun s .trellis && s.net.admActive && s.net.hbAt != some s.trl.frame then
    sendHbt .heartbeat [] (fun f s => sendBoth queue1 f s) { s with net.hbAt := some s.trl.frame }
  else s

def execHeartbeatSend (s : State) : Out := .next (heartbeatOp s)

/-- SUPERVISION_FRAME_SEND (Table 10.1): every 2 s. -/
def execSupervisionFrameSend (s : State) : Out :=
  let due := match s.net.superAt with | some t => decide (t + 2000000000 ≤ s.now) | none => true
  .next (if isRun s .ring && s.net.admActive && due then
      sendBoth (fun p f s => queue3 p 0 f s) (ownFrame s .supervision) { s with net.superAt := some s.now }
    else s)

/-- R315: a path fails. -/
def pathFailOp (n : Nat) (p : Port) (s : State) : State :=
  let s := withPaths (updPath n p (fun x => { x with st := .failed })) s
  losePeers (record cNET_PATH_FAIL 0 (d2 (node s n).addr ++ d1 (if p == .a then 0 else 1)) s)

/-- NET_PATH_FAIL: 3.5 ms after the last heartbeat accepted on the port. -/
def execNetPathFail (n : Fin 64) (p : Port) (s : State) : Out :=
  let x := pathSt (node s n) p
  let tooLong := match x.lastHb with | some t => decide (t + 3500000 ≤ s.now) | none => false
  .next (if isRun s .ring && (node s n).hb && x.st != .failed && tooLong then pathFailOp n p s else s)

/-- NET_PATH_UP (R316): 10 s in STANDBY with no heartbeat gap above 1.5 ms and no lees mismatch. -/
def execNetPathUp (n : Fin 64) (p : Port) (s : State) : Out :=
  let x := pathSt (node s n) p
  let fresh := match x.lastHb with | some t => decide (s.now ≤ t + 1500000) | none => false
  .next (if isRun s .ring && (node s n).hb && x.st == .standby && fresh && decide (x.cleanFrom + 10000000000 ≤ s.now) then
      record cNET_PATH_UP 0 (d2 (node s n).addr ++ d1 (if p == .a then 0 else 1))
        (withPaths (updPath n p (fun x => { x with st := .up })) s)
    else s)

/-- LINK_UP. -/
def execLinkUp (p : Port) (s : State) : Out :=
  .next (if isRun s .ring && !(portSt s p).link then withPaths (updPort p (fun q => { q with link := true })) s else s)

/-- A port without link has no egress. -/
def dropLink (q : PortSt) : PortSt :=
  { q with link := false, linkDowns := satInc q.linkDowns 0xFFFF, q1 := [], q2 := [], q3 := [], wire := none }

/-- LINK_DOWN (R320): with both links lost, every peer station is lost. -/
def execLinkDown (p : Port) (s : State) : Out :=
  .next (if isRun s .ring && (portSt s p).link then losePeers (withPaths (updPort p dropLink) s) else s)

/-! ### Bypass (R321, R322) -/

/-- The entry conditions of R322, but for the slot delay. -/
def mayEnter (s : State) : Bool := isRun s .ring && s.net.admActive && !s.net.bypHold

/-- Drive BYPASS_N; each change is an operation commanded. -/
def setBypass (high : Bool) (s : State) : State :=
  if s.net.inRing == high then s
  else { s with net := { s.net with inRing := high, bypOps := satInc s.net.bypOps max32 } }

/-- The entry conditions may have changed: the slot delay starts when they first hold together; BYPASS_N is driven low when they do not
hold. -/
def noteBypass (s : State) : State :=
  if !mayEnter s then setBypass false { s with net.waitFrom := none }
  else if s.net.inRing || s.net.waitFrom.isSome then s
  else { s with net.waitFrom := some s.now }

/-- BYPASS_RELEASE: a further (address mod 16) times 4 s has passed. -/
def execBypassRelease (s : State) : Out :=
  .next (match s.net.waitFrom with
    | some t => if mayEnter s && decide (t + s.sys.address.toNat % 16 * 4000000000 ≤ s.now) then
        setBypass true { s with net.waitFrom := none } else s
    | none => s)

/-- BYP_HOLD_SET: a write of NET_CTRL. -/
def execBypHoldSet (iss : Issuer) (w : Word) (s : State) : Out :=
  regCmd iss .net 0 (fun s => noteBypass { s with net.bypHold := bitOf w.toNat 1, net.leesEn := bitOf w.toNat 0 }) s

/-! ### Egress (R323) -/

/-- Bytes a frame occupies for the round robin: payload and 92 bytes of wire (R308). -/
def wireBytes (f : Frame) : Nat := f.payload.length + 92

/-- The next cask in cyclic order that has frames waiting. -/
def nextCask (q : PortSt) (c : Nat) : Option Nat :=
  let has := fun k => !(Tbl.at q.q3 k []).isEmpty
  match (List.range 64).find? (fun k => c < k && has k) with
  | some k => some k
  | none => (List.range 64).find? has

/-- Take the first frame of a cask's queue. -/
def take3 (q : PortSt) (c : Nat) : PortSt :=
  match Tbl.at q.q3 c [] with
  | f :: r => { q with q3 := Tbl.put q.q3 c r, wire := some f }
  | [] => q

/-- Deficit round robin with a quantum of 128 bytes for each percent of BE_SHARE. -/
def drr (share : Nat → Nat) : Nat → PortSt → PortSt
  | 0, q => match nextCask q q.turn with | some c => take3 { q with turn := c } c | none => q
  | n + 1, q =>
    match Tbl.at q.q3 q.turn [] with
    | f :: _ =>
      let d := Tbl.at q.deficit q.turn 0
      if wireBytes f ≤ d then take3 { q with deficit := Tbl.put q.deficit q.turn (d - wireBytes f) } q.turn
      else match nextCask q q.turn with
        | some c => drr share n { q with turn := c, deficit := Tbl.put q.deficit c (Tbl.at q.deficit c 0 + share c * 128) }
        | none => q
    | [] =>
      match nextCask q q.turn with
      | some c => drr share n { q with turn := c, deficit := Tbl.put q.deficit c (share c * 128) }
      | none => q

/-- The next frame by strict class priority; deficits are not carried over 10 ms (R70). -/
def pickNext (s : State) (q : PortSt) : PortSt :=
  match q.q1, q.q2 with
  | f :: r, _ => { q with q1 := r, wire := some f }
  | [], f :: r => { q with q2 := r, wire := some f }
  | [], [] =>
    let p := s.now / 10000000
    drr (fun c => (caskRec s c).beShare) 1024 (if q.deficitAt == p then q else { q with deficitAt := p, deficit := [] })

/-- EGRESS_TRANSMIT: the frame on the wire completes and the next one starts. -/
def execEgressTransmit (p : Port) (s : State) : Out :=
  .next (if isRun s .ring && (portSt s p).link then updPort p (fun q => pickNext s { q with wire := none }) s else s)

/-! ### Path test (R334) -/

/-- PATH_TEST_START: a write of NET_PTEST_CTRL with START. -/
def ptestStartOp (iss : Issuer) (p : Port) (len : Nat) (s : State) : State :=
  let s := { s with net.ptestPort := p, net.ptestLen := len }
  if (isOwner iss || iss.cask.val == 63) && s.net.ptest.state != .running && 46 ≤ len && len ≤ 1408 then
    { s with net.ptest := { state := .running, port := p, len := len, lastAt := s.now } }
  else s

def execPathTestStart (iss : Issuer) (p : Port) (len : Fin 2048) (s : State) : Out :=
  regCmd iss .net 0x0300 (ptestStartOp iss p len) s

/-- Spacing of test frames in ns. -/
def ptestGap (len : Nat) : Nat := max 10000 ((len + 92) * 10)

/-- One test frame leaves on the chosen port only, in class 3 of cask 0. -/
def ptestSendOp (s : State) : State :=
  let t := s.net.ptest
  let s := { s with net.ptest := { t with sent := t.sent + 1, lastAt := s.now } }
  sendHbt .pathTest (List.replicate t.len 0) (fun f s =>
    let s := { s with net.ptest := { s.net.ptest with flight := s.net.ptest.flight ++ [(f, s.now)] } }
    nextHsr (queue3 t.port 0 f s)) s

/-- PATH_TEST_FRAME_SEND. -/
def execPathTestFrameSend (s : State) : Out :=
  let t := s.net.ptest
  .next (if isRun s .ring && t.state == .running && t.sent < 1000 &&
            (t.sent == 0 || decide (t.lastAt + ptestGap t.len ≤ s.now)) then ptestSendOp s else s)

/-- The test is over. -/
def ptestEnd (code : Nat) (s : State) : State :=
  let t := s.net.ptest
  { s with net.ptest := { t with state := .done, code := code, lost := 1000 - t.good, flight := [] } }

/-- PATH_TEST_END: 100 ms after the last frame was sent. -/
def execPathTestEnd (s : State) : Out :=
  let t := s.net.ptest
  .next (if isRun s .ring && t.state == .running && t.sent == 1000 && decide (t.lastAt + 100000000 ≤ s.now) then
      ptestEnd (if t.good == 1000 then cNET_PTEST_PASS else cNET_PTEST_FAIL) s
    else s)

end Sys2Proof.Machine
end

