-- ==== Sys2Proof/Machine/Admission.lean ====
section
/-!
DEFINITION. Admission.lean: flows and their admission, binding, sending and re-keying, and the Ring MAC abort
(spec/10_ring_and_redundancy.md R326 to R333, R338, R339).
-/
namespace Sys2Proof.Machine

def cNET_ADM_OK : Nat := 0x0800
def cNET_ADM_CAPACITY : Nat := 0x0801
def cNET_ADM_DEADLINE : Nat := 0x0802
def cNET_ADM_NO_CONTEXT : Nat := 0x0803
def cNET_ADM_QUOTA : Nat := 0x0804
def cNET_ADM_CASK : Nat := 0x0805
def cNET_ADM_ROUTE : Nat := 0x0806
def cNET_ADM_NO_RX : Nat := 0x0807
def cNET_ADM_PARAM : Nat := 0x0808
def cNET_ADM_BUSY : Nat := 0x0809
def cNET_ADM_ABORTED : Nat := 0x080A

/-! ### The admission arithmetic (R308, R326 to R328) -/

/-- R326: a flow's periods. -/
def periodOk (p : Nat) : Bool :=
  [1, 2, 5, 10, 20, 50, 100, 200, 500, 1000].contains p || (p % 1000 == 0 && 1000 ≤ p && p ≤ 60000)

/-- Wire time of a flow frame of `npts` entries in ns (R308, R326). -/
def wireNsOf (npts : Nat) : Nat := (32 * npts + 92) * 8

/-- W[k]. -/
def loadAt (w : Tbl Nat) (k : Nat) : Nat := Tbl.at w k 0

/-- m(phi): the largest load of the windows of a phase. -/
def phaseMax (w : Tbl Nat) (pe phi : Nat) : Nat :=
  ((List.range 1000).filter (fun k => k % pe == phi)).foldl (fun m k => max m (loadAt w k)) 0

/-- The lowest phase with the smallest m(phi), with that value. -/
def bestPhase (w : Tbl Nat) (pe : Nat) : Nat × Nat :=
  (List.range pe).foldl (fun b phi =>
    let m := phaseMax w pe phi
    if phi = 0 || m < b.2 then (phi, m) else b) (0, 0)

/-- Add a wire time to every window of a phase. -/
def addLoad (w : Tbl Nat) (pe phi ns : Nat) : Tbl Nat :=
  ((List.range 1000).filter (fun k => k % pe == phi)).foldl (fun t k => Tbl.put t k (loadAt t k + ns)) w

/-- D_path over `h` egresses with the given intermediate nodes (R328). -/
def dPath (s : State) (h : Nat) (mid : List Nat) (w tEnd : Nat) : Nat :=
  30000 + h * (12416 + 2 * s.net.ringQNs) + mid.foldl (fun n k => n + (node s k).fMaxNs) 0 + w + tEnd

/-- D_calc: the larger D_path of the two directions (R328). -/
def dCalc (s : State) (n w : Nat) : Nat :=
  let tEnd := if (node s n).exit then (node s n).extNs else 20000
  let all := List.range (nNodes s)
  max (dPath s n (all.filter (fun k => 1 ≤ k && k < n)) w tEnd)
      (dPath s (nNodes s - n) (all.filter (fun k => n < k)) w tEnd)

/-- The outcome of R327 for a request: a refusal, or a phase with D_calc. -/
def fitFlow (s : State) (w : Tbl Nat) (r : FlowReq) : Nat × Nat × Nat :=
  let ns := wireNsOf r.npts
  let (phi, m) := bestPhase w (min r.periodMs 1000)
  if (node s 0).sliceNs < m + ns then (cNET_ADM_CAPACITY, 0, 0)
  else
    let d := dCalc s r.node ns
    if r.reqUs * 1000 < d then (cNET_ADM_DEADLINE, 0, d) else (cNET_ADM_OK, phi, d)

/-- Source points of a request. -/
def srcPoints (first n : Nat) : List Nat := (List.range n).map (fun i => first + i)

/-- R331, R40: the first source point that the cask may not read. -/
def unreadable (s : State) (cask first n : Nat) : Option Nat :=
  (srcPoints first n).find? (fun i => match pt? s i with | some p => !mayRead p cask | none => true)

/-- Contexts that destination points name are kept for receiving (R326). -/
def isRxContext (s : State) (n : Nat) : Bool := s.trl.points.any (fun e => e.2.srcKind == 8 && e.2.srcIndex == n)

/-- The lowest context a new flow can take. -/
def freeContext (s : State) : Option Nat :=
  (List.range 1024).find? (fun n => (Tbl.at s.net.flows n {}).st == .free && !isRxContext s n)

/-- Send contexts a cask holds (R70). -/
def flowsOf (s : State) (cask : Nat) : Nat :=
  (s.net.flows.filter (fun e => !e.2.rx && e.2.st != .free && e.2.cask == cask)).length

/-- The checks of a dynamic request before R327: the refusal, if any. -/
def admRefusal (s : State) (cask : Nat) (r : FlowReq) : Option Nat :=
  if !periodOk r.periodMs || r.npts < 1 || 32 < r.npts then some cNET_ADM_PARAM
  else if r.node = 0 || nNodes s ≤ r.node then some cNET_ADM_ROUTE
  else if (unreadable s cask r.spoint r.npts).isSome then some cNET_ADM_CASK
  else if (caskRec s cask).flows ≤ flowsOf s cask then some cNET_ADM_QUOTA
  else if (freeContext s).isNone then some cNET_ADM_NO_CONTEXT
  else none

/-- Answer an FMP request: over TLS on the service port, in a frame on the ring. -/
def fmpAnswer (op : Nat) (h : FmpHdr) (r : Reply) (s : State) : State :=
  let s := keepAnswer (sessKey h.service h.client) h.seq.toNat r { s with reply := r }
  if h.service then s
  else sendAnswer h.cask.val (fmpHdrBytes op h) (replyParts r).1 (replyParts r).2 s

/-- A cask's bank of NET_ADM registers. -/
def admBank (s : State) (cask : Nat) : AdmBank := Tbl.at s.net.banks cask {}

/-- Change a bank. -/
def updAdmBank (cask : Nat) (f : AdmBank → AdmBank) (s : State) : State :=
  { s with net.banks := Tbl.upd s.net.banks cask {} f }

/-- Report the end of a request: in the cask's bank, or as the FMP answer with the context and D_calc. -/
def admReport (cask : Nat) (fmp : Option FmpHdr) (code flow d : Nat) (s : State) : State :=
  match fmp with
  | some h => fmpAnswer 0x10 h (.words code [w32 flow, w32 d]) s
  | none => updAdmBank cask (fun b =>
      { b with code := code, waiting := false, flow := if code == cNET_ADM_OK then flow else b.flow, dCalc := d }) s

/-! ### Requests (R331, R332) -/

/-- The unit takes a request, or refuses a 17th waiting one. -/
def admQueue (q : AdmReq) (s : State) : State :=
  if 16 ≤ s.net.waiting.length then admReport q.cask q.fmp cNET_ADM_BUSY 0 (admBank s q.cask).dCalc s
  else
    let s := { s with net.waiting := s.net.waiting ++ [q] }
    if q.fmp.isSome then s else updAdmBank q.cask (fun b => { b with waiting := true }) s

/-- The request the NET_ADM registers of a bank name. -/
def bankReq (b : AdmBank) : FlowReq :=
  { node := fld b.dest.toNat 16 6, dpoint := fld b.dest.toNat 0 14, periodMs := fld b.shape.toNat 16 16,
    spoint := fld b.shape.toNat 0 14, npts := fld b.req.toNat 26 6, reqUs := fld b.req.toNat 0 26 }

/-- ADMIT: NET_ADM_CMD with CMD 0b01. -/
def execAdmitFlow (iss : Issuer) (s : State) : Out :=
  regCmd iss .net 0x020C (fun s => admQueue { cask := iss.cask, req := bankReq (admBank s iss.cask) } s) s

/-- A context is freed with its load at the next Trellis frame (R332). -/
def release (n : Nat) (s : State) : State :=
  { s with net.releasing := if s.net.releasing.contains n then s.net.releasing else s.net.releasing ++ [n] }

/-- RELEASE by a cask: the code. -/
def releaseOp (cask n : Nat) (s : State) : Nat × State :=
  let x := Tbl.at s.net.flows n {}
  if x.st == .free || s.net.releasing.contains n then (cNET_ADM_PARAM, s)
  else if cask != 0 && cask != x.cask then (cNET_ADM_CASK, denied 0x06 8 n x.cask (b2n x.rx) cask s)
  else (cNET_ADM_OK, release n s)

def execReleaseFlow (iss : Issuer) (n : Fin 1024) (s : State) : Out :=
  regCmd iss .net 0x020C (fun s =>
    let (c, s) := releaseOp iss.cask n s
    updAdmBank iss.cask (fun b => { b with code := c }) s) s

/-- R329: the BIND frame to an FLO-946 destination: the sender's context and cask in the header, then DPOINT, NPTS and the promise. -/
def sendBind (n : Nat) (x : Flow) (s : State) : State :=
  let body := d2 n ++ d2 x.dpoint ++ d1 x.npts ++ d4 x.promiseNs ++ d1 x.cask
  sendHbt .bind body (fun f s => sendBoth (fun p f s => queue3 p x.cask f s) f s) s

/-- An admitted request takes its context and its windows; for an FLO-946 destination it is binding until the answer comes. -/
def admTake (q : AdmReq) (n phi d : Nat) (s : State) : State :=
  let r := q.req
  let w := wireNsOf r.npts
  let out := (node s r.node).exit || (node s r.node).addr == 0xFFFF
  let x : Flow :=
    { st := if out then .admitted else .binding, cask := q.cask, periodMs := r.periodMs, phase := phi, npts := r.npts,
      spoint := r.spoint, dpoint := r.dpoint, node := r.node, promiseNs := r.reqUs * 1000, wireNs := w, bindAt := s.now,
      fmp := q.fmp }
  let s := { s with net.flows := Tbl.put s.net.flows n x,
                    net.loads := addLoad s.net.loads (min r.periodMs 1000) phi w }
  if out then admReport q.cask q.fmp cNET_ADM_OK n d s
  else
    let s := updAdmBank q.cask (fun b => if q.fmp.isSome then b else { b with dCalc := d, flow := n }) s
    sendBind n x s

/-- One request is decided (R43, R327): its own slice and schedule tables alone. -/
def decideOp (q : AdmReq) (s : State) : State :=
  match admRefusal s q.cask q.req with
  | some c =>
    let s := match unreadable s q.cask q.req.spoint q.req.npts with
      | some i => if c == cNET_ADM_CASK then
          denied 0x01 3 i (match pt? s i with | some p => p.cask | none => 0xFF) 0 q.cask s else s
      | none => s
    admReport q.cask q.fmp c 0 0 s
  | none =>
    let (c, phi, d) := fitFlow s s.net.loads q.req
    if c != cNET_ADM_OK then admReport q.cask q.fmp c 0 d s
    else match freeContext s with
      | some n => admTake q n phi d s
      | none => admReport q.cask q.fmp cNET_ADM_NO_CONTEXT 0 d s

/-- A bind is being waited for: the request is still being decided. -/
def binding (s : State) : Bool := s.net.flows.any (fun e => e.2.st == .binding)

/-- ADMISSION_DECISION: the oldest waiting request, one at a time (R43, R332). -/
def execAdmissionDecision (s : State) : Out :=
  .next (match s.net.waiting with
    | q :: r => if isRun s .ring && !binding s then decideOp q { s with net.waiting := r } else s
    | [] => s)

/-! ### Binding (R329) -/

/-- The receive context a bind names: the SRC_INDEX its destination points share, with SRC_KIND 0x08 and the flow's cask. -/
def bindContext (s : State) (b : BindReq) : Option Nat :=
  match pt? s b.dpoint with
  | none => none
  | some p0 =>
    let ok := (srcPoints b.dpoint b.npts).all (fun i => match pt? s i with
      | some p => p.srcKind == 8 && p.srcIndex == p0.srcIndex && p.cask == b.cask.val
      | none => false)
    let x := Tbl.at s.net.flows p0.srcIndex {}
    let mine := x.st == .free || (x.rx && !x.fixed && x.srcAddr == b.srcAddr && x.srcFlow == b.srcFlow)
    if ok && mine && 1 ≤ b.npts && b.npts ≤ 32 && p0.srcIndex < 1024 then some p0.srcIndex else none

/-- The bind answer frame: the sender's context and whether the destination accepted. -/
def answerBind (b : BindReq) (ok : Bool) (s : State) : State :=
  let s := { s with reply := .code (if ok then cNET_ADM_OK else cNET_ADM_NO_RX) }
  sendHbt .bind (d2 b.srcAddr ++ d2 b.srcFlow ++ d1 (b2n ok)) (fun f s => sendBoth (fun p f s => queue3 p b.cask f s) f s) s

/-- BIND_RECEIVED: the destination opens a receive context with the promise, the cask and its points, or refuses. -/
def bindOp (b : BindReq) (s : State) : State :=
  match bindContext s b with
  | some n =>
    let x : Flow := { st := .admitted, rx := true, cask := b.cask, npts := b.npts, dpoint := b.dpoint,
                      promiseNs := b.promiseNs, srcAddr := b.srcAddr, srcFlow := b.srcFlow, bindAt := s.now }
    answerBind b true { s with net.flows := Tbl.put s.net.flows n x }
  | none =>
    let s := match pt? s b.dpoint with
      | some p => if p.cask != b.cask.val && p.srcKind == 8 then denied 0x06 8 p.srcIndex p.cask 1 b.cask s else s
      | none => s
    answerBind b false s

def execBindReceived (b : BindReq) (s : State) : Out :=
  .next (if isRun s .ring && s.net.admActive then bindOp b s else s)

/-- The end of a bind: the flow is admitted, or its admission is released and reported. -/
def bindEnd (n : Nat) (code : Nat) (s : State) : State :=
  let x := Tbl.at s.net.flows n {}
  let s := updFlow n (fun x => { x with st := .admitted, fmp := none }) s
  let s := if code == cNET_ADM_OK then s else release n s
  admReport x.cask x.fmp code n (dCalc s x.node x.wireNs) s

/-- BIND_ANSWER. -/
def execBindAnswer (n : Fin 1024) (ok : Bool) (s : State) : Out :=
  .next (if isRun s .ring && (Tbl.at s.net.flows n.val {}).st == .binding then
      bindEnd n (if ok then cNET_ADM_OK else cNET_ADM_NO_RX) s else s)

/-- BIND_TIMEOUT: no answer within 10 ms. -/
def execBindTimeout (n : Fin 1024) (s : State) : Out :=
  let x := Tbl.at s.net.flows n.val {}
  .next (if isRun s .ring && x.st == .binding && decide (x.bindAt + 10000000 ≤ s.now) then bindEnd n cNET_ADM_NO_RX s else s)

/-! ### Sending (R326, R327, R333) -/

/-- R327: the frame `k` is one of the flow's. -/
def flowDue (x : Flow) (k : Nat) : Bool :=
  let pe := min x.periodMs 1000
  k % pe == x.phase && (x.periodMs ≤ 1000 || (k - x.phase) / 1000 % (x.periodMs / 1000) == 0)

/-- R162, R165, R166: the flow's station is lost, or one of its points is still kept back. -/
def flowHeld (s : State) (x : Flow) : Bool :=
  s.stn.tbl.any (fun e => e.2.kind == 2 && e.2.addr % 65536 == (node s x.node).addr &&
    (e.2.st == .lost || (srcPoints x.spoint x.npts).any (fun i => e.2.closed.contains i)))

/-- The bytes of the source points, read in one Trellis cycle (R326). -/
def flowBody (s : State) (x : Flow) : List Byte :=
  (srcPoints x.spoint x.npts).flatMap (fun i => entryBytes ((pt? s i).getD {}))

/-- The frame of a flow: sealed under its bud, counted, and queued in class 1 on both ports. -/
def flowFrameOp (n : Nat) (s : State) : State :=
  if !isRun s .ring then xchRefuse 9 .trellis .ring s
  else if !isRun s .key then xchRefuse 11 .ring .key s
  else
    let x := Tbl.at s.net.flows n {}
    let (e, s) := if x.epoch = 0 then newEpoch (1 + n) s else (x.epoch, s)
    let s := updFlow n (fun x => { x with epoch := e }) s
    let f := { ownFrame s .flow with cask := x.cask, flow := n, fseq := x.fseq, payload := flowBody s x }
    match sealFrame s 2 e f with
    | none => countDropped n 1 (dropStale s)
    | some g =>
      let s := noteSealed 2 e f (updFlow n (fun x => { x with fseq := x.fseq + 1, count := (x.count + 1) % 2 ^ 32 }) s)
      sendBoth queue1 g s

/-- One period of a flow. -/
def flowSendOp (n : Nat) (s : State) : State :=
  let x := Tbl.at s.net.flows n {}
  let s := updFlow n (fun x => { x with sentAt := some (s.trl.frame - 1) }) s
  if x.rekey || fseqEnd ≤ x.fseq then countDropped n 1 s
  else if flowHeld s x then s
  else match unreadable s x.cask x.spoint x.npts with
    | some i => denied 0x06 8 n (match pt? s i with | some p => p.cask | none => 0xFF) 0 x.cask s
    | none =>
      let s := flowFrameOp n s
      match s.fbs.lift with
      | some l => if l.flow == n then liftNext s else s
      | none => s

/-- FLOW_SEND: in the Trellis frame of its phase, once. -/
def execFlowSend (n : Fin 1024) (s : State) : Out :=
  let x := Tbl.at s.net.flows n.val {}
  let k := s.trl.frame - 1
  .next (if isRun s .trellis && x.st == .admitted && !x.rx && !s.net.releasing.contains n.val && 1 ≤ s.trl.frame &&
            flowDue x k && x.sentAt != some k then flowSendOp n s else s)

/-- FLOW_REKEY (R333): the demand at FSEQ 0xF000_0000; and, with a demand standing, the next epoch once its bud can be derived. -/
def rekeyOp (n : Nat) (s : State) : State :=
  let x := Tbl.at s.net.flows n {}
  if !x.rekey then
    if fseqEnd ≤ x.fseq then updFlow n (fun x => { x with rekey := true }) s else s
  else if isRun s .key && s.key.site.isSome && !s.key.purging then
    let (e, s) := newEpoch (1 + n) s
    updFlow n (fun x => { x with epoch := e, fseq := 0, rekey := false }) s
  else s

def execFlowRekey (n : Fin 1024) (s : State) : Out :=
  let x := Tbl.at s.net.flows n.val {}
  .next (if isRun s .ring && x.st != .free && !x.rx then rekeyOp n s else s)

/-! ### Abort (R338, R339) -/

/-- The request being decided and every waiting one end with NET_ADM_ABORTED. -/
def abortRequests (s : State) : State :=
  let ws := s.net.waiting
  let s := ws.foldl (fun s q => admReport q.cask q.fmp cNET_ADM_ABORTED 0 (admBank s q.cask).dCalc s) { s with net.waiting := [] }
  ((s.net.flows.filter (fun e => e.2.st == .binding)).map (·.1)).foldl (fun s n => bindEnd n cNET_ADM_ABORTED s) s

/-- FMP requests not yet executed are answered with NET_ADM_ABORTED. -/
def abortFmp (s : State) : State :=
  s.net.fmpQ.foldl (fun s q =>
    sendAnswer q.cask q.hdr cNET_ADM_ABORTED []
      (keepAnswer (sessKey false q.client) (leAt q.hdr 4 4) (.code cNET_ADM_ABORTED) s)) { s with net.fmpQ := [] }

/-- Effects of the Ring MAC abort (R339), with TIM's (R360). -/
def ringAbortOp (s : State) : State :=
  let s := abortFmp (abortRequests s)
  let s := if s.net.ptest.state == .running then ptestEnd cNET_PTEST_FAIL s else s
  timAbort (record cNET_ADM_ABORTED 0 [] { s with net.leesBufs := [] })

def execRingMacAbort (iss : Issuer) (s : State) : Out := abortCmd iss 6 .ring ringAbortOp s

end Sys2Proof.Machine
end

