-- ==== Sys2Proof/Machine/Loop.lean ====
section
/-!
DEFINITION. Loop.lean: the commands of the loop engine (spec/06_loop_engine.md R168 to R209).
-/
namespace Sys2Proof.Machine

/-! ### Shadows and captures of a slot -/

/-- Shadow context. -/
def shadow (s : State) (n : Nat) : Shadow := Tbl.at s.lpe.shadows n {}

/-- Change a shadow context. -/
def updShadow (n : Nat) (f : Shadow → Shadow) (s : State) : State :=
  { s with lpe.shadows := Tbl.upd s.lpe.shadows n {} f }

/-- Change every running shadow of a slot. -/
def slotShadows (n : Nat) (f : Shadow → Shadow) (s : State) : State :=
  { s with lpe.shadows := Tbl.mapV s.lpe.shadows (fun _ h => if h.state == .running && h.slot == n then f h else h) }

/-- End every running shadow of a slot with a code (R201). -/
def endShadows (n code : Nat) (s : State) : State :=
  slotShadows n (fun h => { h with state := .done, code := code, job := none }) s

/-- R199: the shadows of a slot copy the live states again. -/
def recopy (n : Nat) (s : State) : State := slotShadows n (fun h => { h with copy := true, job := none }) s

/-- R202: a running capture of a slot is abandoned and its buffer freed; one that is complete stays. -/
def dropCapture (n : Nat) (s : State) : State :=
  match slot? s n with
  | some l => match l.capBuf with
    | some b =>
      if 224 ≤ (Tbl.at s.lpe.bufs b {}).samples.length then s
      else { updSlot n (fun l => { l with capBuf := none }) s with lpe.bufs := Tbl.del s.lpe.bufs b }
    | none => s
  | none => s

/-! ### Writes over HC3 -/

/-- Do a write towards Trellis, or have it refused when Trellis is not in RUN (R29). -/
def viaTrellis (f : State → State) (s : State) : State :=
  if isRun s .trellis then f s else xchRefuse 3 .loop .trellis s

/-- The loop engine's write of one of its points (R173). -/
def loopWrite (l : LoopSlot) (i : Nat) (v : DWord) (q : Byte) (s : State) : State :=
  writeQ pvLoop l.rc.slot l.rc.cask i v q (ptStamp s i) s

/-- FE_POINT, where the slot has one. -/
def writeFe (l : LoopSlot) (b : Bool) (s : State) : State :=
  match l.rc.fe with
  | some i => loopWrite l i (if b then 1 else 0) qGood s
  | none => s

/-- OUT_POINT with BAD_SOURCE, the value by ON_BAD (R193, R197). -/
def writeBadOut (l : LoopSlot) (s : State) : State := viaTrellis (loopWrite l l.rc.out 0 qSource) s

/-! ### Faults and misses (R196, R197) -/

/-- R197: the slot enters FAULT; `cause` numbers the causes in the order the rule lists them. -/
def faultSlot (n cause : Nat) (s : State) : State :=
  match slot? s n with
  | none => s
  | some l =>
    let s := dropCapture n (endShadows n cLPE_CMD_STATE s)
    let s := updSlot n (fun l => { l with mode := .fault, feT0 := none, feAlarm := false, missRun := 0, snap := none }) s
    let s := viaTrellis (fun s => writeFe l false (loopWrite l l.rc.out 0 qSource s)) s
    record cLPE_FAULT l.rc.cask (d2 n ++ d1 cause) s

/-- R196: a due slot misses its sample. -/
def missSlot (n : Nat) (s : State) : State :=
  match slot? s n with
  | none => { s with lpe.due := s.lpe.due.filter (· != n) }
  | some l =>
    let s := recopy n (dropCapture n s)
    let s := updSlot n (fun l => { l with misses := satInc l.misses 0xFFFF, missRun := l.missRun + 1, snap := none }) s
    let s := { s with lpe.due := s.lpe.due.filter (· != n),
                      lpe.missTotal := satInc s.lpe.missTotal max32,
                      lpe.missed := Tbl.upd s.lpe.missed l.rc.cask 0 (fun k => satInc k max32) }
    let s := record cLPE_LATE l.rc.cask (d2 n) s
    if 3 ≤ l.missRun + 1 then faultSlot n 0 s else s

/-- LPE_LATE: a slot of an earlier frame's due list that has not started. -/
def execLpeLate (slot : Fin 1024) (s : State) : Out :=
  .next (if s.lpe.due.contains slot.val && s.lpe.dueFrame != some (s.trl.frame - 1) then missSlot slot s else s)

/-! ### Frames (R171, R208) -/

/-- The slot is due in frame k. -/
def loopDue (l : LoopSlot) (k : Nat) : Bool := k % l.rc.periodMs == l.rc.phaseMs

/-- The slot has a sample to evaluate: it is neither OFF nor in FAULT, or a command waits to take it out of there. -/
def wantsSample (l : LoopSlot) : Bool :=
  match l.mode, l.cmd with
  | .off, some (m, _) => m != .off
  | .off, none => false
  | .fault, c => c.isSome
  | _, _ => true

/-- R208: a slot takes its changed record; its retuned sets, capture and shadows go. -/
def reloadSlot (n : Nat) (s : State) : State :=
  match slot? s n with
  | none => s
  | some l => match l.next with
    | none => s
    | some rc =>
      let s := dropCapture n (endShadows n cLPE_SHD_RELOAD s)
      let s := if l.applyWait.isSome then { s with lpe.rtCode := cLPE_RT_LOCKED } else s
      let s := { s with lpe.rtStore := s.lpe.rtStore.filter (fun e => e.1 / 8 != n) }
      let same := rc.law == l.rc.law
      updSlot n (fun l => { l with rc := rc, next := none, rt := [], applyWait := none, region := none,
                                   handover := l.handover || same,
                                   init := if same then l.init else some (l.init.getD .law) }) s

/-- R208: a removed slot stops, and its points count as lost (R92). -/
def removeSlot (n : Nat) (s : State) : State :=
  match slot? s n with
  | none => s
  | some l =>
    let s := dropCapture n (endShadows n cLPE_SHD_RELOAD s)
    let s := { s with lpe.slots := Tbl.del s.lpe.slots n, lpe.rtStore := s.lpe.rtStore.filter (fun e => e.1 / 8 != n) }
    substituteAll (l.rc.out :: l.rc.fe.toList) s

/-- The slots due in frame k, in increasing slot number. -/
def dueSlots (s : State) (k : Nat) : List Nat :=
  (s.lpe.slots.filter (fun e => loopDue e.2 k && wantsSample e.2)).map (·.1)

/-- Removals and records of slots without evaluation whose sample instant falls in frame k (R208). -/
def settleReloads (k : Nat) (s : State) : State :=
  s.lpe.slots.foldl (fun s e =>
    if loopDue e.2 k then
      if e.2.removing then removeSlot e.1 s
      else if e.2.next.isSome && !wantsSample e.2 then reloadSlot e.1 s else s
    else s) s

/-- LOOP_FRAME: what is left of the last due list is missed, the frame's cost is kept for LPE_LOAD, and the due list is
built. -/
def loopFrameOp (s : State) : State :=
  let k := s.trl.frame - 1
  if !(isRun s .loop && s.lpe.run) || s.trl.frame == 0 || s.lpe.dueFrame == some k then s
  else
    let s := s.lpe.due.foldl (fun s n => missSlot n s) s
    let s := settleReloads k s
    { s with lpe.loads := (s.lpe.used :: s.lpe.loads).take 1000, lpe.used := 0, lpe.dueFrame := some k,
             lpe.due := dueSlots s k, lpe.asked := [] }

def execLoopFrame (s : State) : Out := .next (loopFrameOp s)

/-! ### Snapshots (R172) -/

/-- One input of a snapshot. -/
def snapPoint (s : State) (i : Option Nat) : Option (F32 × Byte) :=
  match i with
  | none => none
  | some i => match pt? s i with
    | some p => some (real32Of p.type p.value, p.quality)
    | none => some (0, qSubst)

/-- The snapshot of a slot record: every point it uses, read in one Trellis cycle. -/
def takeSnap (s : State) (rc : LoopRec) : Snap :=
  { pv := snapPoint s rc.pv, sp := snapPoint s rc.sp, ff := snapPoint s rc.ff, sched := snapPoint s rc.sched,
    track := snapPoint s rc.track, stamp := stampOf s .trellis 0 }

/-- The next slot of the due list whose snapshot has not been asked for. -/
def nextAsk (s : State) : Option Nat := s.lpe.due.find? (fun n => !s.lpe.asked.contains n)

/-- LOOP_SNAPSHOT: in the list's order; a record that waits for this instant names the points. -/
def loopSnapshotOp (n : Nat) (s : State) : State :=
  if isRun s .loop && s.lpe.run && nextAsk s == some n then
    let s := { s with lpe.asked := s.lpe.asked ++ [n] }
    match slot? s n with
    | none => s
    | some l =>
      if isRun s .trellis then
        let sn := takeSnap s (l.next.getD l.rc)
        updSlot n (fun l => { l with snap := some sn }) s
      else xchRefuse 3 .loop .trellis s
  else s

def execLoopSnapshot (slot : Fin 1024) (s : State) : Out := .next (loopSnapshotOp slot s)

/-! ### Evaluation (R173 to R195) -/

/-- R180: the latest mode command takes effect; leaving a mode ends what belonged to it (R195, R201, R202). -/
def takeCmd (n : Nat) (s : State) : State :=
  match slot? s n with
  | none => s
  | some l => match l.cmd with
    | none => s
    | some (m, man) =>
      let why : Option InitWhy :=
        if m == .off then l.init
        else match l.mode with | .off => some .off | .fault => some .fault | _ => l.init
      let s := if m == l.mode then s else endShadows n cLPE_CMD_STATE s
      let s := if m == .auto then s else dropCapture n s
      updSlot n (fun l => { l with cmd := none, mode := m, init := why,
                                   manual := if m == .manual then some man else l.manual,
                                   feT0 := if m == .auto then l.feT0 else none,
                                   feAlarm := l.feAlarm && m == .auto }) s

/-- Class bad or substituted. -/
def qFails (q : Byte) : Bool := 2 ≤ q.toNat / 64

/-- R193: the process value, or in TRACK the track value, is bad or substituted. -/
def inputsFail (l : LoopSlot) (sn : Snap) : Bool :=
  (match sn.pv with | some x => qFails x.2 | none => false) ||
  (l.mode == .track && (match sn.track with | some x => qFails x.2 | none => false))

/-- R194: an input as it is used, and the uncertain code it gives the output. -/
def useInput (x : Option (F32 × Byte)) (last : Option F32) (free : F32) : F32 × List Byte :=
  match x with
  | none => (0, [])
  | some (v, q) =>
    if qFails q then (last.getD free, [qRange])
    else (v, if isUncertain q then [q] else [])

/-- Keep an input's last good or uncertain value (R194). -/
def keepInput (x : Option (F32 × Byte)) (last : Option F32) : Option F32 :=
  match x with
  | some (v, q) => if qFails q then last else some v
  | none => last

/-- The value to initialise from (R183, R193): OUT_POINT's present value on leaving OFF, the last GOOD output after a bad process
value, otherwise the last output. -/
def initFrom (s : State) (l : LoopSlot) : Option F64 :=
  match l.init with
  | none => none
  | some .off =>
    match pt? s l.rc.out with
    | some p => some (normOut l.rc (real32Of p.type p.value))
    | none => some l.st.uPrev
  | some .pv => some (l.lastGoodU.getD l.st.uPrev)
  | some _ => some l.st.uPrev

/-- The output forced in MANUAL or TRACK, limited (Table 6.6). -/
def forced (s : State) (l : LoopSlot) (sn : Snap) : Option F64 :=
  match l.mode with
  | .manual => some (limU l.rc (normOut l.rc (l.manual.getD (BitVec.ofNat 32 (freeNow s).toNat))))
  | .track => some (limU l.rc (normOut l.rc (match sn.track with | some x => x.1 | none => 0)))
  | _ => none

/-- The value written to OUT_POINT (R182). -/
def outValue (s : State) (rc : LoopRec) (u : F64) (q : Bool) : DWord :=
  match pt? s rc.out with
  | some p =>
    if p.type == 1 then (if (if rc.law == .onoff then q else F64.le (midU rc) u) then 1 else 0)
    else valueOf p.type (outUnits rc u)
  | none => 0

/-- The day window of domain 0 (R205). -/
def dayOf (s : State) : Nat := domNs s 0 / 86400000000000

/-- Retunes applied to a slot in the present day window (R205). -/
def retunesToday (s : State) (l : LoopSlot) : Nat := if l.rtDay == dayOf s then l.rtCount else 0

/-- R205: a retuned or fallback set is taken at this sample with a hand-over; a retune counts for its day window. A revert to the
record's own gains leaves no retuned set in use. -/
def takeApply (n : Nat) (s : State) : State :=
  match slot? s n with
  | none => s
  | some l => match l.applyWait with
    | none => s
    | some a =>
      let w := liveSets l
      let r := Tbl.at l.rt a.set {}
      let r' : RetSet :=
        if a.revert then { r with kp := a.kp, ki := a.ki,
                                  retuned := a.kp != setWord l.rc.sets a.set 0 || a.ki != setWord l.rc.sets a.set 1 }
        else { r with fbKp := setWord w a.set 0, fbKi := setWord w a.set 1, kp := a.kp, ki := a.ki, judging := true,
                      retuned := true }
      let inUse := l.rc.linear || l.region == some a.set
      let s := { s with lpe.rtStore := Tbl.put s.lpe.rtStore (n * 8 + a.set)
                          { vintage := s.img.vintage, rc := l.rc, kp := a.kp, ki := a.ki } }
      let day := dayOf s
      let count := if a.revert then retunesToday s l else retunesToday s l + 1
      updSlot n (fun l => { l with rt := Tbl.put l.rt a.set r', applyWait := none, handover := l.handover || inUse,
                                   rtDay := day, rtCount := count }) s

/-- R202: the sample joins the slot's history and its capture; a step may start one. -/
def captureStep (n : Nat) (x : CapSample) (s : State) : State :=
  match slot? s n with
  | none => s
  | some l =>
    if !l.rc.rtEn then s
    else
      let prev := l.hist.getLast?
      let hist := (l.hist ++ [x]).drop ((l.hist.length + 1) - 32)
      let s := updSlot n (fun l => { l with hist := hist }) s
      match l.capBuf, prev with
      | some b, some p =>
        if F32.eq p.r x.r then
          { s with lpe.bufs := Tbl.upd s.lpe.bufs b {} (fun c =>
              if c.samples.length < 224 then { c with samples := c.samples ++ [x] } else c) }
        else dropCapture n s
      | none, some p =>
        let d := F64.abs (F64.sub (F32.to64 x.r) (F32.to64 p.r))
        match (List.range 16).find? (fun b => !Tbl.has s.lpe.bufs b) with
        | some b =>
          if l.mode == .auto && F64.le (F32.to64 l.rc.rtStepMin) d then
            let c : CapBuf := { slot := n, set := l.region.getD 0, sched := x.s, rPrev := p.r, rStep := x.r, before := l.hist,
                                samples := [x] }
            updSlot n (fun l => { l with capBuf := some b }) { s with lpe.bufs := Tbl.put s.lpe.bufs b c }
          else s
        | none => s
      | _, none => s

/-- R195: the following-error timer at a sample; the alarm itself is LPE_FE's. -/
def feStep (n : Nat) (e : EvalIn) (stamp : DWord) (out : F32) (s : State) : State :=
  updSlot n (fun l =>
    if l.mode == .auto && F64.lt 0 (F32.to64 l.rc.feLimit) then
      if F64.lt (F32.to64 l.rc.feLimit) (F64.abs (F64.sub e.r e.y)) then
        { l with feT0 := some (l.feT0.getD stamp), lastStamp := stamp, lastOut := out }
      else { l with feT0 := none, feAlarm := false, lastStamp := stamp, lastOut := out }
    else { l with feT0 := none, feAlarm := false, lastStamp := stamp, lastOut := out }) s

/-- Hand the sample to the slot's shadows: one that is to copy takes the live states from before the evaluation
(R198, R199). -/
def feedShadows (n : Nat) (before : LawSt) (e : EvalIn) (o : EvalOut) (s : State) : State :=
  slotShadows n (fun h =>
    { h with st := if h.copy || h.job.isSome then before else h.st, copy := false,
             skipped := if h.job.isSome then satInc h.skipped 255 else h.skipped,
             job := some { inp := e, liveU := o.u, liveSt := o.st } }) s

/-- The inputs of one evaluation, normalised (R182), and the uncertain codes its output takes (R194). -/
def evalInputs (s : State) (l : LoopSlot) (sn : Snap) (k : Nat) : EvalIn × List Byte × F32 :=
  let fr : F32 := BitVec.ofNat 32 (freeNow s).toNat
  let pv := useInput sn.pv none fr
  let sp := if l.rc.sp.isSome then useInput sn.sp l.lastSp fr else (l.setp, [])
  let ff := useInput sn.ff l.lastFf fr
  let sc := useInput sn.sched l.lastSched fr
  let sv : F64 := match l.rc.schedSrc with
    | 0 => F32.to64 sc.1
    | 1 => F32.to64 pv.1
    | 2 => F32.to64 sp.1
    | _ => outUnits l.rc l.st.uPrev
  let y := norm pv.1 l.rc.pvLo l.rc.pvHi
  let f := if l.rc.ff.isSome then normOut l.rc ff.1 else 0
  ({ y := if l.rc.pv.isSome then y else 0, r := normSp l.rc sp.1, f := f, k := k, sv := sv,
     region := nextRegion l.rc l.region sv, init := initFrom s l,
     zeroD := (match l.init with | some .off => true | some .fault => true | some .law => true | _ => false),
     handover := l.handover || (!l.rc.linear && (match l.region with
       | some j => nextRegion l.rc l.region sv != j
       | none => false)),
     force := forced s l sn },
   pv.2 ++ sp.2 ++ ff.2 ++ (if l.rc.schedSrc == 0 then sc.2 else []), sp.1)

/-- An evaluation proper: the law runs, OUT_POINT and FE_POINT are written in one Trellis cycle, and captures and shadows take the
sample. -/
def runEval (n : Nat) (sn : Snap) (s : State) : State :=
  match slot? s n with
  | none => s
  | some l =>
    let ei := evalInputs s l sn (s.lpe.dueFrame.getD 0)
    let e := ei.1
    let o := evalLaw l.rc (liveSets l) l.st e
    let s := bumpFree s
    let s := { s with lpe.used := s.lpe.used + lawCost l.rc.law }
    if !F64.fin o.v then recopy n (faultSlot n 1 s)
    else
      let q := qualityOf ei.2.1
      let ur := roundU o.u
      let before := l.st
      let s := updSlot n (fun l => { l with
        st := o.st, init := none, handover := false, region := some e.region, pvBad := false, rate := o.rate,
        satHi := F64.le (F32.to64 l.rc.uHi) o.u, satLo := F64.le o.u (F32.to64 l.rc.uLo),
        spUse := ei.2.2, lastSp := keepInput sn.sp l.lastSp, lastFf := keepInput sn.ff l.lastFf,
        lastSched := keepInput sn.sched l.lastSched, missRun := 0,
        lastGoodU := if q == qGood then some ur else l.lastGoodU }) s
      let s := feStep n e sn.stamp (F64.to32 (outUnits l.rc o.u)) s
      let al := match slot? s n with | some l => l.feAlarm | none => false
      let v := outValue s l.rc ur o.st.q
      let s := viaTrellis (fun s => writeFe l al (loopWrite l l.rc.out v q s)) s
      let s := captureStep n { y := F64.to32 e.y, u := F64.to32 o.u, r := F64.to32 e.r, s := F64.to32 e.sv } s
      feedShadows n before e o s

/-- LOOP_EVALUATION: the slot takes its new record (R208), its command (R180) and a waiting set (R205), then evaluates. -/
def evalSlot (n : Nat) (sn : Snap) (s : State) : State :=
  let was : Bool := match slot? s n with | some l => l.mode == .auto | none => false
  let s := takeApply n (takeCmd n (reloadSlot n s))
  match slot? s n with
  | none => s
  | some l =>
    match l.mode with
    | .off => if was then viaTrellis (writeFe l false) s else s
    | .fault => s
    | _ =>
      if inputsFail l sn then
        let s := recopy n (dropCapture n s)
        writeBadOut l (updSlot n (fun l => { l with pvBad := true, init := some (l.init.getD .pv), missRun := 0 }) s)
      else runEval n sn s

/-- The slot whose evaluation comes next: the first of the due list with its snapshot held. -/
def nextEval (s : State) : Option Nat :=
  s.lpe.due.find? (fun n => match slot? s n with | some l => l.snap.isSome | none => false)

def loopEvaluationOp (n : Nat) (s : State) : State :=
  if isRun s .loop && s.lpe.run && s.lpe.dueFrame == some (s.trl.frame - 1) && nextEval s == some n then
    match slot? s n with
    | none => s
    | some l => match l.snap with
      | none => s
      | some sn =>
        let s := { s with lpe.due := s.lpe.due.filter (· != n) }
        evalSlot n sn (updSlot n (fun l => { l with snap := none }) s)
  else s

def execLoopEvaluation (slot : Fin 1024) (s : State) : Out := .next (loopEvaluationOp slot s)

/-- LPE_FE: the first sample with the timer running at or after T0 + FE_TIME_MS raises the alarm; FE_ACTION 0b01 puts the slot
in MANUAL at that sample's output (R195). -/
def lpeFeOp (n : Nat) (s : State) : State :=
  match slot? s n with
  | none => s
  | some l => match l.feT0 with
    | none => s
    | some t0 =>
      if l.mode == .auto && !l.feAlarm && t0.toNat + l.rc.feTimeMs * 1000000 ≤ l.lastStamp.toNat then
        let s := updSlot n (fun l =>
          if l.rc.feManual then { l with feT0 := none, feAlarm := true, mode := .manual, manual := some l.lastOut }
          else { l with feAlarm := true }) s
        let s := if l.rc.feManual then dropCapture n (endShadows n cLPE_CMD_STATE s) else s
        record cLPE_FE l.rc.cask (d2 n) (viaTrellis (writeFe l true) s)
      else s

def execLpeFe (slot : Fin 1024) (s : State) : Out := .next (lpeFeOp slot s)

/-! ### Register commands -/

/-- Code of the issuer's last command (LPE_STATUS.CODE). -/
def setLpeStatus (iss : Issuer) (code : Nat) (s : State) : State :=
  { s with lpe.status := Tbl.put s.lpe.status iss.cask code, reply := .code code }

/-- R40: the slot belongs to the issuer's cask, or the issuer is cask 0. -/
def ownsSlot (iss : Issuer) (l : LoopSlot) : Bool := iss.cask.val == 0 || iss.cask.val == l.rc.cask

/-- R76, kind 0x04. -/
def loopDenied (iss : Issuer) (n : Nat) (l : LoopSlot) (s : State) : State := denied 0x04 5 n l.rc.cask 0 iss.cask s

/-- LPE_MODE_CMD (R178). -/
def loopModeCmd (iss : Issuer) (n : Nat) (m : LoopMode) (s : State) : Out :=
  regCmd iss .lpe 0x0010 (fun s =>
    match slot? s n with
    | none => setLpeStatus iss cLPE_CMD_STATE s
    | some l =>
      if ownsSlot iss l then
        let r := storeCmd n m (Tbl.at s.lpe.modeVal iss.cask 0) s
        setLpeStatus iss r.2 r.1
      else loopDenied iss n l s) s

def execLoopModeOff (iss : Issuer) (slot : Fin 1024) (s : State) : Out := loopModeCmd iss slot .off s
def execLoopModeManual (iss : Issuer) (slot : Fin 1024) (s : State) : Out := loopModeCmd iss slot .manual s
def execLoopModeAuto (iss : Issuer) (slot : Fin 1024) (s : State) : Out := loopModeCmd iss slot .auto s
def execLoopModeTrack (iss : Issuer) (slot : Fin 1024) (s : State) : Out := loopModeCmd iss slot .track s

/-- LPE_CTRL.RUN = 1 from cask 0 (R209). -/
def execLpeResume (iss : Issuer) (s : State) : Out :=
  regCmd iss .lpe 0x0000 (fun s => if isOwner iss then { s with lpe.run := true } else s) s

/-- R209. -/
def lpeAbortOp (s : State) : State :=
  let s := { s with
    lpe.run := false, lpe.due := [], lpe.asked := [],
    lpe.shadows := Tbl.mapV s.lpe.shadows (fun _ h =>
      if h.state == .running then { h with state := .done, code := cLPE_ABORTED, job := none } else h),
    lpe.slots := Tbl.mapV s.lpe.slots (fun _ l => { l with snap := none, feT0 := none, capBuf := none }),
    lpe.bufs := s.lpe.bufs.filter (fun e => e.2.sent) }
  record cLPE_ABORTED 0 [] s

def execLoopEngineAbort (iss : Issuer) (s : State) : Out := abortCmd iss 2 .loop lpeAbortOp s

/-! ### Shadows (R198 to R201) -/

/-- LPE_SHD_n_CTRL START. -/
def execShadowStart (iss : Issuer) (ctx : Fin 16) (slot : Fin 1024) (count : Byte) (s : State) : Out :=
  regCmd iss .lpe (0x0200 + 16 * ctx.val) (fun s =>
    let s := setCtl .lpe (0x0200 + 16 * ctx.val) (packW [(16, slot.val), (0, count.toNat)]) s
    match slot? s slot with
    | none => setLpeStatus iss cLPE_CMD_STATE s
    | some l =>
      if !ownsSlot iss l then loopDenied iss slot l s
      else if (shadow s ctx).state == .running then setLpeStatus iss cLPE_SHD_BUSY s
      else
        let h : Shadow := { state := .running, slot := slot, count := if count = 0 then 255 else count.toNat, mode := l.mode }
        setLpeStatus iss cLPE_OK (updShadow ctx (fun _ => h) s)) s

/-- LPE_SHD_n_CTRL STOP. -/
def execShadowStop (iss : Issuer) (ctx : Fin 16) (s : State) : Out :=
  regCmd iss .lpe (0x0200 + 16 * ctx.val) (fun s =>
    let h := shadow s ctx
    match slot? s h.slot with
    | none => setLpeStatus iss cLPE_CMD_STATE s
    | some l =>
      if h.state != .running then setLpeStatus iss cLPE_CMD_STATE s
      else if ownsSlot iss l then
        setLpeStatus iss cLPE_OK (updShadow ctx (fun h => { h with state := .done, code := cLPE_OK, job := none }) s)
      else loopDenied iss h.slot l s) s

/-- The sets a shadow evaluates with: the live ones, a candidate's gains in its set (R198). -/
def shadowSets (h : Shadow) (l : LoopSlot) : List (List Word) :=
  let w := liveSets l
  if h.cand then w.set h.set (((nthD w h.set []).set 0 h.kp).set 1 h.ki) else w

/-- SHADOW_EVALUATION: the same sample after the live evaluation; one not started in its frame is skipped (R176, R200). -/
def shadowEvaluationOp (c : Nat) (s : State) : State :=
  let h := shadow s c
  match h.state, h.job, slot? s h.slot with
  | .running, some j, some l =>
    if h.count ≤ h.compared then s
    else if s.trl.frame - 1 != j.inp.k then
      updShadow c (fun h => { h with skipped := satInc h.skipped 255, copy := true, job := none }) s
    else
      let o := evalLaw l.rc (shadowSets h l) h.st j.inp
      if h.cand then
        let d := F64.to32 (F64.abs (F64.sub (roundU o.u) (roundU j.liveU)))
        updShadow c (fun h => { h with job := none, compared := h.compared + 1, st := o.st,
                                       dev := if F32.lt h.dev d then d else h.dev }) s
      else if o.u == j.liveU && o.st == j.liveSt then
        updShadow c (fun h => { h with job := none, compared := h.compared + 1, st := o.st }) s
      else
        let s := updShadow c (fun h => { h with state := .done, code := cLPE_SHD_MISMATCH, job := none }) s
        faultSlot h.slot 2 s
  | _, _, _ => s

def execShadowEvaluation (ctx : Fin 16) (s : State) : Out :=
  .next (if isRun s .loop && s.lpe.run then shadowEvaluationOp ctx s else s)

/-- SHADOW_COMPLETE. -/
def execShadowComplete (ctx : Fin 16) (s : State) : Out :=
  let h := shadow s ctx
  .next (if h.state == .running && h.count ≤ h.compared then
    updShadow ctx (fun h => { h with state := .done, code := cLPE_OK, job := none }) s else s)

/-! ### Retuning (R202 to R206) -/

/-- CAPTURE_COMPLETE: a capture with 224 samples from the step goes to Vintner over HC4. -/
def execCaptureComplete (buf : Fin 16) (s : State) : Out :=
  match Tbl.get? s.lpe.bufs buf with
  | none => .next s
  | some c =>
    .next (if !c.sent && 224 ≤ c.samples.length then
      let s := updSlot c.slot (fun l => { l with capBuf := none }) s
      let s := { s with lpe.bufs := Tbl.put s.lpe.bufs buf { c with sent := true } }
      present { hc := 4, back := false } .loop .cluster (.capture buf) s
    else s)

/-- |r_step - r_prev| of a capture. -/
def capDr (c : CapBuf) : F64 := F64.abs (F64.sub (F32.to64 c.rStep) (F32.to64 c.rPrev))

/-- J of R206, in s. -/
def capJ (rc : LoopRec) (c : CapBuf) : F64 :=
  let e (x : CapSample) : F64 := F64.abs (F64.sub (F32.to64 x.r) (F32.to64 x.y))
  F64.div (F64.mul (c.samples.foldl (fun a x => F64.add a (e x)) 0) (tsOf rc)) (capDr c)

/-- Overshoot of R206 in percent of the step. -/
def capOvershoot (c : CapBuf) : F64 :=
  let up := F32.lt c.rPrev c.rStep
  let o (x : CapSample) : F64 :=
    let d := F64.sub (F32.to64 x.y) (F32.to64 x.r)
    if up then d else F64.neg d
  let m := c.samples.foldl (fun a x => F64.max a (o x)) 0
  F64.div (F64.mul m (F64.ofInt 100)) (capDr c)

/-- R204: the set a capture retunes. -/
def retuneSet (rc : LoopRec) (c : CapBuf) : Nat :=
  if !rc.linear then c.set
  else
    let sv := F32.to64 c.sched
    let dist (j : Nat) : F64 := F64.abs (F64.sub (breakAt rc j) sv)
    (List.range rc.nreg).foldl (fun a j => if F64.lt (dist j) (dist a) then j else a) 0

/-- Bounds of R204 for a gain as it stands: the change bounds, then the fixed ones, as binary32. -/
def gainBounds (now chg lo hi : F32) : F32 × F32 × F32 × F32 :=
  let one := F64.ofInt 1
  (F64.to32 (F64.mul (F32.to64 now) (F64.sub one (F32.to64 chg))),
   F64.to32 (F64.mul (F32.to64 now) (F64.add one (F32.to64 chg))), lo, hi)

/-- `limit` on binary32. -/
def lim32 (x lo hi : F32) : F32 := if F32.lt x lo then lo else if F32.lt hi x then hi else x

/-- The two stages of R204. -/
def boundGain (x now chg lo hi : F32) : F32 :=
  let b := gainBounds now chg lo hi
  lim32 (lim32 x b.1 b.2.1) b.2.2.1 b.2.2.2

/-- A gain lies within its bounds (R205). -/
def gainOk (x now chg lo hi : F32) : Bool :=
  let b := gainBounds now chg lo hi
  F32.le b.1 x && F32.le x b.2.1 && F32.le b.2.2.1 x && F32.le x b.2.2.2

/-- R35: a clipped gain is recorded. -/
def noteClip (n j which : Nat) (clipped : Bool) (s : State) : State :=
  if clipped then record (Config.openCode 2).toNat 0 (d2 n ++ d1 j ++ d1 which) s else s

/-- R206: the applied set is reverted and locked until its slot is reloaded. -/
def revertOp (n j : Nat) (s : State) : State :=
  match slot? s n with
  | none => s
  | some l =>
    let r := Tbl.at l.rt j {}
    let s := updSlot n (fun l => { l with
      applyWait := some { set := j, kp := r.fbKp, ki := r.fbKi, revert := true },
      rt := Tbl.put l.rt j { r with judging := false, locked := true } }) s
    record cLPE_RT_REVERTED l.rc.cask (d2 n ++ d1 j) s

/-- A fit that is accepted gives new gains: R203's process model and R204's bounds. -/
def fitOp (n j : Nat) (c : CapBuf) (l : LoopSlot) (s : State) : State :=
  let (d, a, beta, rms) := Config.retuneFit ((c.before ++ c.samples).map (fun x => (x.y, x.u)))
  let one := F64.ofInt 1
  if F64.lt (F64.mul (F64.ofDec 5 2) (capDr c)) rms || !(F64.lt 0 a && F64.lt a one) then s
  else
    let ts := tsOf l.rc
    let k := F64.div beta (F64.sub one a)
    let t := F64.div (F64.neg ts) (Config.ln a)
    let ll := F64.mul (F64.ofInt d) ts
    let lam := F64.mul (F64.div (F64.ofInt l.rc.rtLambda) (F64.ofInt 10)) (F64.max ll ts)
    let sum := F64.add lam ll
    let kp := F64.div t (F64.mul (F64.abs k) sum)
    let ki := F64.div kp (F64.min t (F64.mul (F64.ofInt 4) sum))
    let w := liveSets l
    let kp32 := F64.to32 kp
    let ki32 := F64.to32 ki
    let kpN := boundGain kp32 (setWord w j 0) l.rc.rtMaxChg l.rc.rtKpMin l.rc.rtKpMax
    let kiN := boundGain ki32 (setWord w j 1) l.rc.rtMaxChg l.rc.rtKiMin l.rc.rtKiMax
    let s := noteClip n j 0 (kpN != kp32) s
    let s := noteClip n j 1 (kiN != ki32) s
    let s := updSlot n (fun l => { l with rt := Tbl.upd l.rt j {} (fun r => { r with j := capJ l.rc c }) }) s
    { s with lpe.rtSlot := n, lpe.rtSet := j, lpe.rtKp := kpN, lpe.rtKi := kiN }

/-- VINTNER_RETUNE_FIT: an arrived capture judges an applied set of its slot, or is fitted; its buffer is then free. -/
def vintnerFitOp (b : Nat) (s : State) : State :=
  match Tbl.get? s.lpe.bufs b with
  | none => s
  | some c =>
    if !c.arrived then s
    else
      let s := { s with lpe.bufs := Tbl.del s.lpe.bufs b }
      match slot? s c.slot with
      | none => s
      | some l =>
        let j := retuneSet l.rc c
        let r := Tbl.at l.rt j {}
        if r.judging then
          let worse := F64.lt (F64.mul (F64.ofDec 125 2) r.j) (capJ l.rc c) ||
                       F64.lt (F64.ofInt l.rc.rtOvsMax) (capOvershoot c)
          if worse then revertOp c.slot j s
          else updSlot c.slot (fun l => { l with
            rt := Tbl.put l.rt j { r with judging := false, fbKp := r.kp, fbKi := r.ki } }) s
        else if l.rc.rtEn && !r.locked then fitOp c.slot j c l s
        else s

def execVintnerRetuneFit (buf : Fin 16) (s : State) : Out := .next (vintnerFitOp buf s)

/-- Answer of an LPE_RT_CMD (LPE_RT_STATUS.CODE). -/
def setRtCode (code : Nat) (s : State) : State := { s with lpe.rtCode := code, reply := .code code }

/-- An LPE_RT_CMD: the registers are in cask 0's map only. -/
def rtCmd (iss : Issuer) (op : State → State) (s : State) : Out :=
  regCmd iss .lpe 0x030C (fun s => if isOwner iss then op s else s) s

/-- TRY: a CANDIDATE shadow of 32 compared samples with the candidate gains (R198, R205). -/
def tryOp (s : State) : State :=
  match slot? s s.lpe.rtSlot, (List.range 16).find? (fun c => (shadow s c).state != .running) with
  | none, _ => setRtCode cLPE_CMD_STATE s
  | some _, none => setRtCode cLPE_SHD_BUSY s
  | some l, some c =>
    if l.rc.law != .pid || l.rc.nreg ≤ s.lpe.rtSet then setRtCode cLPE_CMD_STATE s
    else
      let h : Shadow := { state := .running, cand := true, slot := s.lpe.rtSlot, count := 32, mode := l.mode,
                          set := s.lpe.rtSet, kp := s.lpe.rtKp, ki := s.lpe.rtKi }
      setRtCode cLPE_OK { updShadow c (fun _ => h) s with lpe.rtShadow := c }

def execTryRetune (iss : Issuer) (s : State) : Out := rtCmd iss tryOp s

/-- The last TRY's shadow completed for these gains within RT_DEV_MAX (R205). -/
def tried (s : State) (l : LoopSlot) : Bool :=
  let h := shadow s s.lpe.rtShadow
  h.state == .done && h.code == cLPE_OK && h.cand && h.slot == s.lpe.rtSlot && h.set == s.lpe.rtSet &&
  h.kp == s.lpe.rtKp && h.ki == s.lpe.rtKi && h.count ≤ h.compared &&
  F64.le (F64.mul (F32.to64 h.dev) (F64.ofInt 100)) (F64.ofInt l.rc.rtDevMax)

/-- APPLY: the refusals of R205 in their order; a reload that waits for the same sample wins (R208). -/
def applyOp (s : State) : State :=
  match slot? s s.lpe.rtSlot with
  | none => setRtCode cLPE_CMD_STATE s
  | some l =>
    let j := s.lpe.rtSet
    let w := liveSets l
    let r := Tbl.at l.rt j {}
    if l.rc.law != .pid || l.rc.nreg ≤ j then setRtCode cLPE_CMD_STATE s
    else if !(gainOk s.lpe.rtKp (setWord w j 0) l.rc.rtMaxChg l.rc.rtKpMin l.rc.rtKpMax &&
              gainOk s.lpe.rtKi (setWord w j 1) l.rc.rtMaxChg l.rc.rtKiMin l.rc.rtKiMax) then setRtCode cLPE_RT_BOUND s
    else if !tried s l then setRtCode cLPE_RT_UNTRIED s
    else if l.rc.rtPerDay ≤ retunesToday s l then setRtCode cLPE_RT_QUOTA s
    else if r.locked || l.next.isSome then setRtCode cLPE_RT_LOCKED s
    else
      let req : ApplyReq := { set := j, kp := s.lpe.rtKp, ki := s.lpe.rtKi }
      setRtCode cLPE_OK (updSlot s.lpe.rtSlot (fun l => { l with applyWait := some req }) s)

def execApplyRetune (iss : Issuer) (s : State) : Out := rtCmd iss applyOp s

/-- REVERT. -/
def revertCmdOp (s : State) : State :=
  match slot? s s.lpe.rtSlot with
  | none => setRtCode cLPE_CMD_STATE s
  | some l =>
    if !(Tbl.at l.rt s.lpe.rtSet {}).retuned then setRtCode cLPE_CMD_STATE s
    else if l.next.isSome then setRtCode cLPE_RT_LOCKED s
    else setRtCode cLPE_OK (revertOp s.lpe.rtSlot s.lpe.rtSet s)

def execRevertRetune (iss : Issuer) (s : State) : Out := rtCmd iss revertCmdOp s

end Sys2Proof.Machine
end

