-- ==== Sys2Proof/Machine/PgeIsa.lean ====
section
/-!
DEFINITION. PgeIsa.lean: the function-block instructions (spec/04_program_engine.md Tables 4.4 to 4.8, R123 to R128). A command
names the processor that executes it; one that executes nothing leaves the state as it is.
-/
namespace Sys2Proof.Machine

/-! ### Registers of a processor -/

/-- Data register. -/
def dReg (c : Ctx) (n : Fin 16) : DWord := Tbl.at c.d n 0
/-- Set a data register. -/
def putD (n : Fin 16) (v : DWord) (c : Ctx) : Ctx := { c with d := Tbl.put c.d n v }
/-- Bit register. -/
def bReg (c : Ctx) (n : Fin 8) : Bool := Tbl.at c.b n false
/-- Set a bit register. -/
def putB (n : Fin 8) (v : Bool) (c : Ctx) : Ctx := { c with b := Tbl.put c.b n v }
/-- A second source. -/
def srcVal (c : Ctx) : Src → DWord
  | .d n => dReg c n
  | .imm v => v

/-- The partition-relative address of a data operand (Table 4.6). -/
def memAddr (c : Ctx) (m : MemOpnd) : Nat :=
  (match m.base with | .ib => c.ib | .gb => c.gb | .d n => (dReg c n).toNat) + m.imm.toNat

/-! ### Executing one instruction -/

/-- The item executes: a task's cycle in its execution phase, or a migration routine. -/
def executing (s : State) (p : Fin 2) : Option Item :=
  match running s p with
  | none => none
  | some i =>
    if i.work then (if (proc s p).ctx.migr.isSome then some i else none)
    else match (taskSt s i.n).cyc with
      | some c => if c.phase == .running then some i else none
      | none => none

/-- One instruction on a processor: its cycles are counted (Table 4.6), the code offset moves on by one instruction, and `f` does the
rest. -/
def instr (p : Fin 2) (cycles : Nat) (f : Item → Ctx → State → State) (s : State) : Out :=
  .next (match executing s p with
    | some i =>
      if isRun s .prog then
        let s := charge p (i.n / 32) cycles s
        let c := { (proc s p).ctx with pc := (proc s p).ctx.pc + 4 }
        f i c (setCtx p c s)
      else s
    | none => s)

/-- R126: the cycle is abandoned with PGE_ILLEGAL; a migration routine fails its exchange (R156). -/
def illegalAt (i : Item) (s : State) : State :=
  if i.work then failExchange i.n cEXCH_MIGRATE_FAULT s else abandon i.n cPGE_ILLEGAL 0 s

/-- R127: the refused access is recorded under R76, and the cycle is abandoned with PGE_DENIED; a migration routine fails its
exchange. -/
def deniedAt (i : Item) (kind block object target detail : Nat) (s : State) : State :=
  let s := denied kind block object target detail (i.n / 32) s
  if i.work then failExchange i.n cEXCH_MIGRATE_FAULT s else abandon i.n cPGE_DENIED 0 s

/-- R152: instructions a migration routine may not use. -/
def notInRoutine (i : Item) (c : Ctx) (k : State → State) (s : State) : State :=
  if c.migr.isSome then illegalAt i s else k s

/-! ### Instance memory (R127, R152) -/

/-- Key of a byte of a cask's partition in instance memory. -/
def instKey (cask a : Nat) : Nat := cask * 0x1000000 + a

/-- `n` bytes at `a` of a cask's partition, as a number. -/
def instLoad (s : State) (cask a n : Nat) : Nat := ofLe (memReadBytes s.mem.inst (instKey cask a) n)

/-- Store `n` bytes at `a` of a cask's partition. -/
def instStore (cask a n v : Nat) (s : State) : State :=
  { s with mem.inst := memWriteBytes s.mem.inst (instKey cask a) (toLe n v) }

/-- `[a, a + n)` lies in an instance: its part after the header start, or its retentive part. -/
def inInstance (r : InstRec) (a n : Nat) : Bool :=
  (r.off ≤ a && a + n ≤ r.off + r.size) ||
  (match r.retOff with | some o => o ≤ a && a + n ≤ o + r.retSize | none => false)

/-- A load is permitted: inside INST_KIB, and inside the old instance for a migration routine. -/
def loadOk (s : State) (i : Item) (c : Ctx) (a n : Nat) : Bool :=
  a + n ≤ (caskRec s (i.n / 32)).instKib * 1024 &&
  (match c.migr with | some (o, _) => inInstance o a n | none => true)

/-- A store is permitted: inside INST_KIB, and inside the new instance for a migration routine. -/
def storeOk (s : State) (i : Item) (c : Ctx) (a n : Nat) : Bool :=
  a + n ≤ (caskRec s (i.n / 32)).instKib * 1024 &&
  (match c.migr with | some (_, w) => inInstance w a n | none => true)

/-- Start of a cask's retentive region: the top RETAIN_KIB of its partition. -/
def retBase (s : State) (cask : Nat) : Nat := ((caskRec s cask).instKib - (caskRec s cask).retainKib) * 1024

/-- Add a line to a sorted list of lines. -/
def addLine (l : Nat) (ls : List Nat) : List Nat := if ls.contains l then ls else ls ++ [l]

/-- A store by a task's program: its changed retentive lines are noted (R129). -/
def taskStore (n a k v : Nat) (s : State) : State :=
  let cask := n / 32
  let s := instStore cask a k v s
  if a + k ≤ retBase s cask then s
  else updTask n (fun t => { t with dirty := addLine ((a + k - 1) / 64 * 64) (addLine (a / 64 * 64) t.dirty) }) s

/-- The refusal of an access to instance or global memory (Table 2.13 kind 0x03). -/
def memDenied (i : Item) (a : Nat) (s : State) : State := deniedAt i 0x03 4 a 0xFF i.n s

/-- Do `k` when `n` bytes at `a` may be loaded and stored. -/
def withElement (i : Item) (c : Ctx) (a n : Nat) (k : State → State) (s : State) : State :=
  if loadOk s i c a n && storeOk s i c a n then k s else memDenied i a s

/-! ### Loads and stores -/

/-- A load of `n` bytes: the upper bits of a narrow load are a free value; a refused load gives 0 and abandons the cycle. -/
def loadOp (p : Fin 2) (n : Nat) (d : Fin 16) (m : MemOpnd) (s : State) : Out :=
  instr p 2 (fun i c s =>
    let a := memAddr c m
    if loadOk s i c a n then
      let v := instLoad s (i.n / 32) a n
      let hi := (freeNow s).toNat / 2 ^ (8 * n) * 2 ^ (8 * n)
      setCtx p (putD d (BitVec.ofNat 64 (hi % 2 ^ 64 + v)) c) (if n == 8 then s else bumpFree s)
    else memDenied i a (setCtx p (putD d 0 c) s)) s

/-- A store of the low `n` bytes. -/
def storeOp (p : Fin 2) (n : Nat) (d : Fin 16) (m : MemOpnd) (s : State) : Out :=
  instr p 1 (fun i c s =>
    let a := memAddr c m
    if storeOk s i c a n then taskStore i.n a n (dReg c d).toNat s else memDenied i a s) s

def execOpLd8 (p : Fin 2) (d : Fin 16) (m : MemOpnd) (s : State) : Out := loadOp p 1 d m s
def execOpLd16 (p : Fin 2) (d : Fin 16) (m : MemOpnd) (s : State) : Out := loadOp p 2 d m s
def execOpLd32 (p : Fin 2) (d : Fin 16) (m : MemOpnd) (s : State) : Out := loadOp p 4 d m s
def execOpLd64 (p : Fin 2) (d : Fin 16) (m : MemOpnd) (s : State) : Out := loadOp p 8 d m s
def execOpSt8 (p : Fin 2) (d : Fin 16) (m : MemOpnd) (s : State) : Out := storeOp p 1 d m s
def execOpSt16 (p : Fin 2) (d : Fin 16) (m : MemOpnd) (s : State) : Out := storeOp p 2 d m s
def execOpSt32 (p : Fin 2) (d : Fin 16) (m : MemOpnd) (s : State) : Out := storeOp p 4 d m s
def execOpSt64 (p : Fin 2) (d : Fin 16) (m : MemOpnd) (s : State) : Out := storeOp p 8 d m s

/-! ### Images (R117 to R119) -/

/-- The image slot of a cycle; a slot beyond the image is a free value. -/
def imageSlot (s : State) (n slot : Nat) : DWord × Byte :=
  match (taskSt s n).cyc with
  | some c => (c.image[slot]?).getD (freeNow s, BitVec.ofNat 8 (freeNow s).toNat)
  | none => (freeNow s, BitVec.ofNat 8 (freeNow s).toNat)

def execOpIn (p : Fin 2) (d : Fin 16) (b : Fin 8) (slot : Half) (s : State) : Out :=
  instr p 2 (fun i c => notInRoutine i c (fun s =>
    let v := imageSlot s i.n slot.toNat
    bumpFree (setCtx p (putB b (v.2.toNat / 64 < 2) (putD d v.1 c)) s))) s

def execOpInq (p : Fin 2) (d : Fin 16) (slot : Half) (s : State) : Out :=
  instr p 2 (fun i c => notInRoutine i c (fun s =>
    bumpFree (setCtx p (putD d (BitVec.ofNat 64 (imageSlot s i.n slot.toNat).2.toNat) c) s))) s

/-- Write a slot of the output image; a slot beyond it is written nowhere. -/
def outSlot (n slot : Nat) (v : DWord) (q : Byte) (s : State) : State :=
  if slot < (taskSt s n).prog.outSlots.length then
    updCyc n (fun c => { c with out := Tbl.put c.out slot (v, q) }) s
  else s

def execOpOut (p : Fin 2) (d : Fin 16) (slot : Half) (s : State) : Out :=
  instr p 2 (fun i c => notInRoutine i c (outSlot i.n slot.toNat (dReg c d) qGood)) s

/-- R119: an uncertain code is kept, any other code counts as GOOD. -/
def execOpOutq (p : Fin 2) (d : Fin 16) (code : Byte) (slot : Half) (s : State) : Out :=
  instr p 2 (fun i c =>
    notInRoutine i c (outSlot i.n slot.toNat (dReg c d) (if isUncertain code then code else qGood))) s

/-! ### Integers (R125) -/

/-- An operation that writes a data register. -/
def alu (p : Fin 2) (cycles : Nat) (d : Fin 16) (f : Ctx → DWord) (s : State) : Out :=
  instr p cycles (fun _ c s => setCtx p (putD d (f c) c) s) s

/-- An operation that may use a free value and may raise PGE_ARITH. -/
def aluF (p : Fin 2) (cycles : Nat) (d : Fin 16) (f : Ctx → DWord → DWord × Bool) (s : State) : Out :=
  instr p cycles (fun i c s =>
    let r := f c (freeNow s)
    let s := bumpFree (setCtx p (putD d r.1 c) s)
    if r.2 then raiseFor cPGE_ARITH i.n 0 s else s) s

/-- Two-source form. -/
def alu2 (p : Fin 2) (cycles : Nat) (d x : Fin 16) (y : Src) (f : DWord → DWord → DWord) (s : State) : Out :=
  alu p cycles d (fun c => f (dReg c x) (srcVal c y)) s

/-- The most negative 64-bit integer. -/
def minI64 : DWord := 0x8000000000000000

/-- Lesser of two signed integers. -/
def sMin (a b : DWord) : DWord := if b.slt a then b else a
/-- Greater of two signed integers. -/
def sMax (a b : DWord) : DWord := if a.slt b then b else a

def execOpAdd (p : Fin 2) (d x : Fin 16) (y : Src) (s : State) : Out := alu2 p 1 d x y (· + ·) s
def execOpSub (p : Fin 2) (d x : Fin 16) (y : Src) (s : State) : Out := alu2 p 1 d x y (· - ·) s
def execOpNeg (p : Fin 2) (d x : Fin 16) (s : State) : Out := alu p 1 d (fun c => 0 - dReg c x) s

/-- ABS; of the most negative integer a free value. -/
def execOpAbs (p : Fin 2) (d x : Fin 16) (s : State) : Out :=
  aluF p 1 d (fun c fr =>
    let v := dReg c x
    (if v == minI64 then fr else if v.msb then 0 - v else v, false)) s

def execOpMin (p : Fin 2) (d x : Fin 16) (y : Src) (s : State) : Out := alu2 p 1 d x y sMin s
def execOpMax (p : Fin 2) (d x : Fin 16) (y : Src) (s : State) : Out := alu2 p 1 d x y sMax s

/-- LIMIT: MIN(MAX(x, lo), hi). -/
def execOpLimit (p : Fin 2) (d : Fin 16) (lo : Src) (x : Fin 16) (hi : Src) (s : State) : Out :=
  alu p 1 d (fun c => sMin (sMax (dReg c x) (srcVal c lo)) (srcVal c hi)) s

/-- SEL: the first of the two when the bit is FALSE, the second when it is TRUE. -/
def execOpSel (p : Fin 2) (d : Fin 16) (b : Fin 8) (x y : Src) (s : State) : Out :=
  alu p 1 d (fun c => if bReg c b then srcVal c y else srcVal c x) s

def execOpMul (p : Fin 2) (d x : Fin 16) (y : Src) (s : State) : Out := alu2 p 3 d x y (· * ·) s

/-- Quotient toward zero; the most negative integer by -1 is a free value; by 0, 0 with PGE_ARITH. -/
def divVal (a b fr : DWord) : DWord × Bool :=
  if b == 0 then (0, true) else if a == minI64 && b == -1 then (fr, false) else (a.sdiv b, false)

/-- Remainder with the sign of the dividend; by 0, 0 with PGE_ARITH. -/
def modVal (a b : DWord) : DWord × Bool := if b == 0 then (0, true) else (a.srem b, false)

def execOpDiv (p : Fin 2) (d x : Fin 16) (y : Src) (s : State) : Out :=
  aluF p 18 d (fun c fr => divVal (dReg c x) (srcVal c y) fr) s
def execOpMod (p : Fin 2) (d x : Fin 16) (y : Src) (s : State) : Out :=
  aluF p 18 d (fun c _ => modVal (dReg c x) (srcVal c y)) s

/-- Width and signedness of a format. -/
def fmtOf : IntFmt → Nat × Bool
  | .i8 => (8, true) | .i16 => (16, true) | .i32 => (32, true) | .i64 => (64, true)
  | .u8 => (8, false) | .u16 => (16, false) | .u32 => (32, false) | .u64 => (64, false)

/-- Least and greatest integer of a format. -/
def fmtRange (f : IntFmt) : Int × Int :=
  let (w, sg) := fmtOf f
  if sg then (-((2 ^ (w - 1) : Nat) : Int), ((2 ^ (w - 1) : Nat) : Int) - 1) else (0, ((2 ^ w : Nat) : Int) - 1)

/-- Bits of a register as an integer of a format. -/
def fmtVal (f : IntFmt) (v : DWord) : Int := let (w, sg) := fmtOf f; if sg then sOf w v.toNat else (v.toNat % 2 ^ w : Nat)

/-- Conversion of the register's signed value to an integer format: out of range it saturates with PGE_ARITH (the opcode table's
row INTEGER_CONVERSION). -/
def convInt (f : IntFmt) (v : DWord) : DWord × Bool :=
  let i := sOf 64 v.toNat
  let r := fmtRange f
  (BitVec.ofNat 64 (twos 64 (clampI i r.1 r.2)), decide (i < r.1) || decide (r.2 < i))

def execOpIntConv (p : Fin 2) (d x : Fin 16) (f : IntFmt) (s : State) : Out :=
  aluF p 1 d (fun c _ => convInt f (dReg c x)) s

/-! ### Bit and logic -/

def execOpAnd (p : Fin 2) (d x : Fin 16) (y : Src) (s : State) : Out := alu2 p 1 d x y (· &&& ·) s
def execOpOr (p : Fin 2) (d x : Fin 16) (y : Src) (s : State) : Out := alu2 p 1 d x y (· ||| ·) s
def execOpXor (p : Fin 2) (d x : Fin 16) (y : Src) (s : State) : Out := alu2 p 1 d x y (· ^^^ ·) s
def execOpNot (p : Fin 2) (d x : Fin 16) (s : State) : Out := alu p 1 d (fun c => ~~~ (dReg c x)) s

/-- A shift by 64 or more is a free value. -/
def shiftVal (f : DWord → Nat → DWord) (a b fr : DWord) : DWord := if 64 ≤ b.toNat then fr else f a b.toNat

def execOpShl (p : Fin 2) (d x : Fin 16) (y : Src) (s : State) : Out :=
  aluF p 1 d (fun c fr => (shiftVal (fun a n => a <<< n) (dReg c x) (srcVal c y) fr, false)) s
def execOpShr (p : Fin 2) (d x : Fin 16) (y : Src) (s : State) : Out :=
  aluF p 1 d (fun c fr => (shiftVal (fun a n => a >>> n) (dReg c x) (srcVal c y) fr, false)) s
def execOpRol (p : Fin 2) (d x : Fin 16) (y : Src) (s : State) : Out :=
  alu2 p 1 d x y (fun a b => a.rotateLeft (b.toNat % 64)) s
def execOpRor (p : Fin 2) (d x : Fin 16) (y : Src) (s : State) : Out :=
  alu2 p 1 d x y (fun a b => a.rotateRight (b.toNat % 64)) s

/-! ### Reals (R125) -/

/-- The format of a real operation. -/
def realFmt (single : Bool) : Float.Fmt := if single then Float.b32 else Float.b64

/-- A register as a number of the format. -/
def realIn (single : Bool) (v : DWord) : Nat := if single then v.toNat % 2 ^ 32 else v.toNat

/-- A result as a register: the upper half beside a binary32 result is free. -/
def realOut (single : Bool) (r : Nat) (fr : DWord) : DWord :=
  if single then BitVec.ofNat 64 (fr.toNat / 2 ^ 32 * 2 ^ 32 + r % 2 ^ 32) else BitVec.ofNat 64 r

/-- A two-source real operation; it also sees the free value. -/
def real2 (p : Fin 2) (cycles : Nat) (single : Bool) (d x : Fin 16) (y : Src) (f : Float.Fmt → Nat → Nat → Nat → Nat)
    (s : State) : Out :=
  aluF p cycles d (fun c fr =>
    (realOut single (f (realFmt single) (realIn single (dReg c x)) (realIn single (srcVal c y)) fr.toNat) fr, false)) s

/-- Lesser of two; with a NaN a free value; of two zeros either. -/
def fMinVal (f : Float.Fmt) (a b fr : Nat) : Nat :=
  if Float.isNan f a || Float.isNan f b then fr
  else if Float.lt f a b then a else if Float.lt f b a then b else if fr % 2 = 0 then a else b

/-- Greater of two; with a NaN a free value; of two zeros either. -/
def fMaxVal (f : Float.Fmt) (a b fr : Nat) : Nat :=
  if Float.isNan f a || Float.isNan f b then fr
  else if Float.lt f a b then b else if Float.lt f b a then a else if fr % 2 = 0 then a else b

def execOpFadd (p : Fin 2) (single : Bool) (d x : Fin 16) (y : Src) (s : State) : Out :=
  real2 p 3 single d x y (fun f a b _ => Float.add f a b) s
def execOpFsub (p : Fin 2) (single : Bool) (d x : Fin 16) (y : Src) (s : State) : Out :=
  real2 p 3 single d x y (fun f a b _ => Float.sub f a b) s
def execOpFmul (p : Fin 2) (single : Bool) (d x : Fin 16) (y : Src) (s : State) : Out :=
  real2 p 3 single d x y (fun f a b _ => Float.mul f a b) s
def execOpFdiv (p : Fin 2) (single : Bool) (d x : Fin 16) (y : Src) (s : State) : Out :=
  real2 p 14 single d x y (fun f a b _ => Float.div f a b) s
def execOpFsqrt (p : Fin 2) (single : Bool) (d x : Fin 16) (s : State) : Out :=
  aluF p 16 d (fun c fr => (realOut single (Float.sqrt (realFmt single) (realIn single (dReg c x))) fr, false)) s
def execOpFmin (p : Fin 2) (single : Bool) (d x : Fin 16) (y : Src) (s : State) : Out :=
  real2 p 3 single d x y fMinVal s
def execOpFmax (p : Fin 2) (single : Bool) (d x : Fin 16) (y : Src) (s : State) : Out :=
  real2 p 3 single d x y fMaxVal s

/-- FLIM: FMIN(FMAX(x, lo), hi). -/
def execOpFlim (p : Fin 2) (single : Bool) (d : Fin 16) (lo : Src) (x : Fin 16) (hi : Src) (s : State) : Out :=
  aluF p 3 d (fun c fr =>
    let f := realFmt single
    let g (v : Src) : Nat := realIn single (srcVal c v)
    (realOut single (fMinVal f (fMaxVal f (realIn single (dReg c x)) (g lo) fr.toNat) (g hi) fr.toNat) fr, false)) s

/-- Real to integer: to nearest even; out of range it saturates with PGE_ARITH; of a NaN a free value with PGE_ARITH. -/
def realToInt (single : Bool) (f : IntFmt) (v fr : DWord) : DWord × Bool :=
  let g := realFmt single
  let a := realIn single v
  let r := fmtRange f
  if Float.isNan g a then (BitVec.ofNat 64 (twos 64 (fmtVal f fr)), true)
  else if Float.isInf g a then (BitVec.ofNat 64 (twos 64 (if Float.neg? g a then r.1 else r.2)), true)
  else
    let i := Float.roundFin g a
    (BitVec.ofNat 64 (twos 64 (clampI i r.1 r.2)), decide (i < r.1) || decide (r.2 < i))

/-- CVT of a register. -/
def cvtVal (k : CvtKind) (v fr : DWord) : DWord × Bool :=
  match k with
  | .intToReal single => (realOut single (Float.ofInt (realFmt single) (sOf 64 v.toNat)) fr, false)
  | .realToReal toSingle =>
    (realOut toSingle (Float.convert (realFmt (!toSingle)) (realFmt toSingle) (realIn (!toSingle) v)) fr, false)
  | .realToInt single f => realToInt single f v fr

def execOpCvt (p : Fin 2) (d x : Fin 16) (kind : CvtKind) (s : State) : Out :=
  aluF p 3 d (fun c fr => cvtVal kind (dReg c x) fr) s

/-! ### Compare and boolean -/

/-- An operation that writes a bit register. -/
def bitOp (p : Fin 2) (b : Fin 8) (f : Ctx → Bool) (s : State) : Out :=
  instr p 1 (fun _ c s => setCtx p (putB b (f c) c) s) s

/-- A condition on signed integers. -/
def condI (k : Cond) (a b : DWord) : Bool :=
  match k with
  | .eq => a == b | .ne => a != b | .lt => a.slt b | .le => a.sle b | .gt => b.slt a | .ge => b.sle a

/-- A condition on reals (IEEE 754: with a NaN only NE holds). -/
def condF (f : Float.Fmt) (k : Cond) (a b : Nat) : Bool :=
  match k with
  | .eq => Float.eq f a b | .ne => !Float.eq f a b | .lt => Float.lt f a b | .le => Float.le f a b
  | .gt => Float.lt f b a | .ge => Float.le f b a

def execOpCmp (p : Fin 2) (k : Cond) (b : Fin 8) (x : Fin 16) (y : Src) (s : State) : Out :=
  bitOp p b (fun c => condI k (dReg c x) (srcVal c y)) s
def execOpFcmp (p : Fin 2) (single : Bool) (k : Cond) (b : Fin 8) (x : Fin 16) (y : Src) (s : State) : Out :=
  bitOp p b (fun c => condF (realFmt single) k (realIn single (dReg c x)) (realIn single (srcVal c y))) s

/-- LDB: from a bit register, or a bit of a byte of instance memory. -/
def execOpLdb (p : Fin 2) (b : Fin 8) (x : BitOpnd) (s : State) : Out :=
  instr p 1 (fun i c s =>
    match x with
    | .b k => setCtx p (putB b (bReg c k) c) s
    | .mem m bit =>
      let a := memAddr c m
      if loadOk s i c a 1 then setCtx p (putB b (bitOf (instLoad s (i.n / 32) a 1) bit) c) s
      else memDenied i a (setCtx p (putB b false c) s)) s

def execOpAndb (p : Fin 2) (b x y : Fin 8) (s : State) : Out := bitOp p b (fun c => bReg c x && bReg c y) s
def execOpOrb (p : Fin 2) (b x y : Fin 8) (s : State) : Out := bitOp p b (fun c => bReg c x || bReg c y) s
def execOpXorb (p : Fin 2) (b x y : Fin 8) (s : State) : Out := bitOp p b (fun c => bReg c x != bReg c y) s
def execOpNotb (p : Fin 2) (b x : Fin 8) (s : State) : Out := bitOp p b (fun c => !bReg c x) s

/-- `n` with bit `i` set to `v`. -/
def setBit (n i : Nat) (v : Bool) : Nat := if bitOf n i == v then n else if v then n + 2 ^ i else n - 2 ^ i

/-- STB: into a bit register, or one bit of a byte of instance memory. -/
def execOpStb (p : Fin 2) (b : Fin 8) (x : BitOpnd) (s : State) : Out :=
  instr p 1 (fun i c s =>
    match x with
    | .b k => setCtx p (putB k (bReg c b) c) s
    | .mem m bit =>
      let a := memAddr c m
      if storeOk s i c a 1 then taskStore i.n a 1 (setBit (instLoad s (i.n / 32) a 1) bit (bReg c b)) s
      else memDenied i a s) s

def execOpSetb (p : Fin 2) (b : Fin 8) (s : State) : Out := bitOp p b (fun _ => true) s
def execOpRstb (p : Fin 2) (b : Fin 8) (s : State) : Out := bitOp p b (fun _ => false) s

/-! ### Control (R126) -/

/-- A code offset lies in the cask's code region (Table 4.3). -/
def inCode (s : State) (cask t : Nat) : Bool :=
  let r := (pcask s cask).rc
  r.codeOff ≤ t && t < r.codeOff + r.codeLen

/-- Go to a code offset, or abandon the cycle when it lies outside the region. -/
def jumpTo (p : Fin 2) (i : Item) (c : Ctx) (t : Nat) (s : State) : State :=
  if inCode s (i.n / 32) t then setCtx p { c with pc := t } s else illegalAt i s

def execOpJmp (p : Fin 2) (target : Word) (s : State) : Out := instr p 2 (fun i c s => jumpTo p i c target.toNat s) s

/-- A conditional branch: one cycle, a second when taken. -/
def branch (p : Fin 2) (want : Bool) (b : Fin 8) (target : Word) (s : State) : Out :=
  instr p 1 (fun i c s =>
    if bReg c b == want then jumpTo p i c target.toNat (charge p (i.n / 32) 1 s) else s) s

def execOpBt (p : Fin 2) (b : Fin 8) (target : Word) (s : State) : Out := branch p true b target s
def execOpBf (p : Fin 2) (b : Fin 8) (target : Word) (s : State) : Out := branch p false b target s

/-- CALL: IB takes the instance; at most 32 deep. -/
def execOpCall (p : Fin 2) (inst : Word) (target : Word) (s : State) : Out :=
  instr p 4 (fun i c => notInRoutine i c (fun s =>
    if 32 ≤ c.stack.length then illegalAt i s
    else jumpTo p i { c with stack := (c.pc, c.ib) :: c.stack, ib := inst.toNat } target.toNat s)) s

/-- Address of an instance's FLAGS byte (Table 4.7). -/
def flagsAddr (off : Nat) : Nat := off + 26

/-- Change an instance's FLAGS byte. -/
def putFlags (cask off bit : Nat) (v : Bool) (s : State) : State :=
  instStore cask (flagsAddr off) 1 (setBit (instLoad s cask (flagsAddr off) 1) bit v) s

/-- The next migration routine of a work's list starts, or the work is done and its processor free (R152, R154). -/
def nextRoutine (p : Fin 2) (n : Nat) (s : State) : State :=
  match (taskSt s n).exch.toMigrate with
  | (o, w) :: _ =>
    let c := (proc s p).ctx
    let c := putD 15 (BitVec.ofNat 64 o.off) { c with ib := w.off, gb := 0, pc := w.routine.getD 0, stack := [],
                                                      migr := some (o, w) }
    setCtx p c s
  | [] => updTask n (fun t => { t with exch.done := true, exch.proc := none }) (freeProc p s)

/-- A migration routine has ended: MIGRATED is set in its instance, and the next one follows. -/
def endRoutine (p : Fin 2) (n : Nat) (w : InstRec) (s : State) : State :=
  let s := putFlags (n / 32) w.off 1 true s
  let s := updTask n (fun t => { t with exch.toMigrate := t.exch.toMigrate.drop 1 }) s
  nextRoutine p n s

/-- RET: back to the caller, FIRST of the instance cleared after its first execution (Table 4.7); outside a CALL it ends the
execution phase, or the migration routine. -/
def execOpRet (p : Fin 2) (s : State) : Out :=
  instr p 4 (fun i c s =>
    match c.stack with
    | (pc, ib) :: st =>
      let s := if flagsAddr c.ib < (caskRec s (i.n / 32)).instKib * 1024 then putFlags (i.n / 32) c.ib 0 false s else s
      setCtx p { c with pc := pc, ib := ib, stack := st } s
    | [] =>
      match c.migr with
      | some (_, w) => endRoutine p i.n w (setCtx p { c with migr := none } s)
      | none => updCyc i.n (fun y => { y with phase := .executed }) s) s

/-! ### Elements (R124, Tables 4.4 and 4.8) -/

/-- The latched cask clock of a cycle; in a migration routine the cask clock itself. -/
def clkOf (s : State) (i : Item) : DWord :=
  match (taskSt s i.n).cyc with
  | some c => if i.work then (pcask s (i.n / 32)).clk else c.clk
  | none => (pcask s (i.n / 32)).clk

/-- A timing element as it stands in memory. -/
structure Timer where
  pt : DWord := 0
  start : DWord := 0
  m : Bool := false
  q : Bool := false
  run : Bool := false
  deriving DecidableEq, Repr

/-- TON of Table 4.4. -/
def stepTon (c : DWord) (inp : Bool) (t : Timer) : Timer :=
  if inp then
    let t := if t.run then t else { t with start := c, run := true }
    { t with q := t.pt.toNat ≤ (c - t.start).toNat, m := inp }
  else { t with run := false, q := false, m := inp }

/-- TOF of Table 4.4. -/
def stepTof (c : DWord) (inp : Bool) (t : Timer) : Timer :=
  if inp then { t with run := false, q := true, m := inp }
  else
    let t := if t.m then { t with start := c, run := true } else t
    if t.run then
      let q : Bool := (c - t.start).toNat < t.pt.toNat
      { t with q := q, run := q, m := inp }
    else { t with m := inp }

/-- TP of Table 4.4. -/
def stepTp (c : DWord) (inp : Bool) (t : Timer) : Timer :=
  let t := if inp && !t.q && !t.m then { t with start := c, q := true } else t
  { t with q := t.q && decide ((c - t.start).toNat < t.pt.toNat), m := inp }

/-- Run a timing element at `m`. -/
def timerOp (p : Fin 2) (m : MemOpnd) (inp q : Fin 8) (f : DWord → Bool → Timer → Timer) (s : State) : Out :=
  instr p 4 (fun i c s =>
    let a := memAddr c m
    withElement i c a 24 (fun s =>
      let cask := i.n / 32
      let fl := instLoad s cask (a + 16) 1
      let t : Timer := { pt := BitVec.ofNat 64 (instLoad s cask a 8), start := BitVec.ofNat 64 (instLoad s cask (a + 8) 8),
                         m := bitOf fl 0, q := bitOf fl 1, run := bitOf fl 2 }
      let t := f (clkOf s i) (bReg c inp) t
      let s := taskStore i.n (a + 8) 8 t.start.toNat s
      let s := taskStore i.n (a + 16) 1 (setBit (setBit (setBit fl 0 t.m) 1 t.q) 2 t.run) s
      setCtx p (putB q t.q c) s) s) s

def execOpTon (p : Fin 2) (m : MemOpnd) (inp q : Fin 8) (s : State) : Out := timerOp p m inp q stepTon s
def execOpTof (p : Fin 2) (m : MemOpnd) (inp q : Fin 8) (s : State) : Out := timerOp p m inp q stepTof s
def execOpTp (p : Fin 2) (m : MemOpnd) (inp q : Fin 8) (s : State) : Out := timerOp p m inp q stepTp s

/-- Run an edge element: `f` gives Q from IN and M. -/
def edgeOp (p : Fin 2) (m : MemOpnd) (inp q : Fin 8) (f : Bool → Bool → Bool) (s : State) : Out :=
  instr p 4 (fun i c s =>
    let a := memAddr c m
    withElement i c a 8 (fun s =>
      let fl := instLoad s (i.n / 32) a 1
      let x := bReg c inp
      let r := f x (bitOf fl 0)
      setCtx p (putB q r c) (taskStore i.n a 1 (setBit (setBit fl 0 x) 1 r) s)) s) s

def execOpRtrig (p : Fin 2) (m : MemOpnd) (inp q : Fin 8) (s : State) : Out := edgeOp p m inp q (fun x m => x && !m) s
def execOpFtrig (p : Fin 2) (m : MemOpnd) (inp q : Fin 8) (s : State) : Out := edgeOp p m inp q (fun x m => !x && m) s

/-- A counter as it stands in memory; M bits of CU, CD and reset. -/
structure Counter where
  pv : DWord := 0
  cv : DWord := 0
  mCu : Bool := false
  mCd : Bool := false
  mR : Bool := false
  qu : Bool := false
  qd : Bool := false
  deriving DecidableEq, Repr

/-- Greatest and least 64-bit counts. -/
def maxI64 : DWord := 0x7FFFFFFFFFFFFFFF

/-- One more, up to the greatest count. -/
def countUp (v : DWord) : DWord := if v == maxI64 then v else v + 1
/-- One less, down to the least count. -/
def countDown (v : DWord) : DWord := if v == minI64 then v else v - 1

/-- CTU (IEC 61131-3). -/
def stepCtu (cu r : Bool) (k : Counter) : Counter :=
  let cv := if r then 0 else if cu && !k.mCu then countUp k.cv else k.cv
  { k with cv := cv, mCu := cu, mR := r, qu := k.pv.sle cv }

/-- CTD (IEC 61131-3). -/
def stepCtd (cd ld : Bool) (k : Counter) : Counter :=
  let cv := if ld then k.pv else if cd && !k.mCd then countDown k.cv else k.cv
  { k with cv := cv, mCd := cd, qd := cv.sle 0 }

/-- CTUD (IEC 61131-3). -/
def stepCtud (cu cd r ld : Bool) (k : Counter) : Counter :=
  let up := cu && !k.mCu
  let dn := cd && !k.mCd
  let cv := if r then 0 else if ld then k.pv
            else if up && dn then k.cv else if up then countUp k.cv else if dn then countDown k.cv else k.cv
  { k with cv := cv, mCu := cu, mCd := cd, mR := r, qu := k.pv.sle cv, qd := cv.sle 0 }

/-- Run a counter at `m`; `out` puts its outputs in the bit registers. -/
def counterOp (p : Fin 2) (m : MemOpnd) (f : Ctx → Counter → Counter) (out : Counter → Ctx → Ctx) (s : State) : Out :=
  instr p 4 (fun i c s =>
    let a := memAddr c m
    withElement i c a 24 (fun s =>
      let cask := i.n / 32
      let fl := instLoad s cask (a + 16) 1
      let k : Counter := { pv := BitVec.ofNat 64 (instLoad s cask a 8), cv := BitVec.ofNat 64 (instLoad s cask (a + 8) 8),
                           mCu := bitOf fl 0, mCd := bitOf fl 1, mR := bitOf fl 2, qu := bitOf fl 3, qd := bitOf fl 4 }
      let k := f c k
      let fl' := setBit (setBit (setBit (setBit (setBit fl 0 k.mCu) 1 k.mCd) 2 k.mR) 3 k.qu) 4 k.qd
      let s := taskStore i.n (a + 8) 8 k.cv.toNat s
      let s := taskStore i.n (a + 16) 1 fl' s
      setCtx p (out k c) s) s) s

def execOpCtu (p : Fin 2) (m : MemOpnd) (cu r q : Fin 8) (s : State) : Out :=
  counterOp p m (fun c => stepCtu (bReg c cu) (bReg c r)) (fun k => putB q k.qu) s
def execOpCtd (p : Fin 2) (m : MemOpnd) (cd ld q : Fin 8) (s : State) : Out :=
  counterOp p m (fun c => stepCtd (bReg c cd) (bReg c ld)) (fun k => putB q k.qd) s
def execOpCtud (p : Fin 2) (m : MemOpnd) (cu cd r ld qu qd : Fin 8) (s : State) : Out :=
  counterOp p m (fun c => stepCtud (bReg c cu) (bReg c cd) (bReg c r) (bReg c ld))
    (fun k c => putB qd k.qd (putB qu k.qu c)) s

/-! ### Engine services -/

def execOpClk (p : Fin 2) (d : Fin 16) (s : State) : Out :=
  instr p 2 (fun i c s => setCtx p (putD d (clkOf s i) c) s) s

/-- FIRST: bit 0 of FLAGS of the instance at IB. -/
def execOpFirst (p : Fin 2) (b : Fin 8) (s : State) : Out :=
  instr p 2 (fun i c s =>
    let a := flagsAddr c.ib
    if loadOk s i c a 1 then setCtx p (putB b (bitOf (instLoad s (i.n / 32) a 1) 0) c) s
    else memDenied i a (setCtx p (putB b false c) s)) s

/-- A setpoint or mode for a loop slot, checked against the slot's cask tag (R127, Table 2.13 kind 0x04); it is sent after the
output image is committed (R121). -/
def slotMsg (p : Fin 2) (isMode : Bool) (slot : Half) (d : Fin 16) (s : State) : Out :=
  instr p 4 (fun i c => notInRoutine i c (fun s =>
    let k := slot.toNat
    match slot? s k with
    | some l =>
      if l.rc.cask == i.n / 32 then
        updCyc i.n (fun y => { y with msgs := y.msgs ++ [{ slot := k, isMode := isMode, value := dReg c d }] }) s
      else deniedAt i 0x04 5 k l.rc.cask 0 s
    | none => deniedAt i 0x04 5 k 0xFF 0 s)) s

def execOpSetp (p : Fin 2) (slot : Half) (d : Fin 16) (s : State) : Out := slotMsg p false slot d s
def execOpMode (p : Fin 2) (slot : Half) (d : Fin 16) (s : State) : Out := slotMsg p true slot d s

/-- RAISE: the request goes with the output image (Table 4.1, 0x03). -/
def execOpRaise (p : Fin 2) (task : Fin 32) (s : State) : Out :=
  instr p 2 (fun i c => notInRoutine i c (updCyc i.n (fun y => { y with raises := y.raises ++ [task.val] }))) s

/-- ERRINFO: the error task's entry; elsewhere a free value. -/
def execOpErrinfo (p : Fin 2) (d : Fin 16) (s : State) : Out :=
  instr p 2 (fun i c s =>
    match (taskSt s i.n).cyc.bind (·.err) with
    | some e => setCtx p (putD d (Config.errInfo e.code e.task e.cycle e.info) c) s
    | none => bumpFree (setCtx p (putD d (freeNow s) c) s)) s

/-- ERRACK: the action of the error task's entry. -/
def execOpErrack (p : Fin 2) (stop : Bool) (s : State) : Out :=
  instr p 2 (fun i c => notInRoutine i c (updCyc i.n (fun y => if y.err.isSome then { y with ack := some stop } else y))) s

end Sys2Proof.Machine
end

