-- ==== Sys2Proof/Machine/Program.lean ====
section
/-!
DEFINITION. Program.lean: task cycles from release to retentive commit, casks' modes and starts, Vintner's setpoints, and program
exchange (spec/04_program_engine.md R110 to R142; spec/05_program_exchange_and_remote_io.md R143 to R159).
-/
namespace Sys2Proof.Machine

/-! ### Releases (R111 to R113) -/

/-- The Trellis frame in progress. -/
def curFrame (s : State) : Nat := s.trl.frame - 1

/-- The cask is in RUN. -/
def caskRuns (s : State) (c : Nat) : Bool := (pcask s c).mode == .run

/-- A cyclic task is released at its frame, held during exchange work (R146), or skipped as an overrun (R137). -/
def taskReleaseOp (n : Nat) (s : State) : State :=
  let s := updTask n (fun t => { t with lastFrame := some (curFrame s) }) s
  let t := taskSt s n
  if inWork t then
    if t.exch.held.isNone then updTask n (fun t => { t with exch.held := some s.now }) s else countOvr n s
  else if t.cyc.isSome then updCyc n (fun c => { c with overrun := true }) (countOvr n s)
  else releaseTask n s

/-- TASK_RELEASE (R111): at the boundary of frame k with k mod P equal to the phase. -/
def execTaskRelease (c : Fin 63) (t : Fin 8) (s : State) : Out :=
  let n := mtn c t
  let x := taskSt s n
  .next (if isRun s .trellis && 1 ≤ s.trl.frame && x.exist && caskRuns s c && 1 ≤ x.prog.rc.periodMs &&
            curFrame s % x.prog.rc.periodMs == x.prog.rc.phaseMs && x.lastFrame != some (curFrame s) then
      taskReleaseOp n s else s)

/-- A counted write for TRIGGER 0x01: quality class good or uncertain. -/
def counted (p : Point) : Bool := isGoodClass p.quality || isUncertain p.quality

/-- The trigger of an event task has occurred (Table 4.1), with the state after looking at it. -/
def seeTrigger (n : Nat) (s : State) : Bool × State :=
  let x := taskSt s n
  match x.prog.rc.trigger with
  | 1 =>
    match pt? s x.prog.rc.trigPoint with
    | some p =>
      if p.seq == x.seenSeq then (false, s)
      else
        let v := boolOf p.value
        let s := updTask n (fun t => { t with seenSeq := p.seq, prev := if counted p then v else t.prev }) s
        (counted p && v && !x.prev, s)
    | none => (false, s)
  | 2 =>
    match pt? s x.prog.rc.trigPoint with
    | some p => (p.seq != x.seenSeq, updTask n (fun t => { t with seenSeq := p.seq }) s)
    | none => (false, s)
  | 3 => (x.raised, updTask n (fun t => { t with raised := false }) s)
  | _ => (false, s)

/-- Writes and requests from before a task may be triggered release nothing (R112). -/
def passTrigger (n : Nat) (s : State) : State := (seeTrigger n s).2

/-- EVENT_TASK_TRIGGER (R112): the trigger is looked at in the Trellis cycle of the write or request; outside RUN it is ignored. -/
def execEventTaskTrigger (c : Fin 63) (t : Fin 32) (s : State) : Out :=
  let n := mtn c t
  .next (if isRun s .trellis && (taskSt s n).exist && 8 ≤ t.val && t.val ≤ 23 then
      let (hit, s) := seeTrigger n s
      if hit && caskRuns s c then triggerTask n s else s
    else s)

/-- PGE_EVT_TRIG: a write of the task number of an event task of the issuer's cask with TRIGGER 0x04. -/
def execPgeEvtTrig (iss : Issuer) (t : Fin 32) (s : State) : Out :=
  regCmd iss .pge 0x0040 (fun s =>
    let n := mtn iss.cask t
    let x := taskSt s n
    if x.exist && x.prog.rc.trigger == 4 && 8 ≤ t.val && t.val ≤ 23 && caskRuns s iss.cask then triggerTask n s else s) s

/-! ### Accounting and dispatch (R114 to R118) -/

/-- Close an accounting period for a processor. -/
def closePeriod (q : Proc) : Proc := { q with busyLast := q.busy, busy := 0 }

/-- PGE_ACCOUNTING_PERIOD: at frames with k mod 10 = 0. -/
def execPgeAccountingPeriod (s : State) : Out :=
  let k := curFrame s
  .next (if isRun s .prog && 1 ≤ s.trl.frame && k % 10 == 0 && s.pge.periodFrame != some k then
      let s := { s with pge.p0 := closePeriod s.pge.p0, pge.p1 := closePeriod s.pge.p1 }
      maybeSwitch { s with pge.used := [], pge.periodFrame := some k }
    else s)

/-- PGE_GUARANTEE_USED: a running task's cask has used up its guarantee. -/
def execPgeGuaranteeUsed (c : Fin 63) (s : State) : Out :=
  let mine := fun (p : Fin 2) => match running s p with | some i => i.n / 32 == c.val | none => false
  .next (if isRun s .prog && (mine 0 || mine 1) && guarantee s c ≤ usedBy s c then maybeSwitch s else s)

/-- TASK_EXECUTION_START: a free processor takes the first ready task. -/
def execTaskExecutionStart (p : Fin 2) (s : State) : Out :=
  .next (if isRun s .prog && (running s p).isNone then
      match firstItem s (readyItems s) with
      | some i => if i.work then s else startItem p i s
      | none => s
    else s)

/-! ### Output phase (R119 to R122) -/

/-- The task has retentive data (R121). -/
def hasRetain (t : TaskSt) : Bool := t.prog.insts.any (fun r => r.retOff.isSome && r.retSize != 0)

/-- A complete cycle ends: it may be a proving cycle (R165). -/
def finishCycle (n : Nat) (s : State) : State :=
  match (taskSt s n).cyc with
  | some cy => endCycle n true (provingCycle n cy s)
  | none => s

/-- After the output image: setpoints and modes over HC2, refused ones not sent again (R121, R122); then the retentive commit, or the
end of the cycle. -/
def afterOutput (n : Nat) (s : State) : State :=
  match (taskSt s n).cyc with
  | none => s
  | some cy =>
    let s := updCyc n (fun c => { c with phase := .committed }) s
    let s := if cy.msgs.isEmpty then s
      else
        let t := present { hc := 2, back := false } .prog .loop (.loopMsgs (n / 32) cy.msgs) s
        if isRun s .loop then t else raiseFor cPGE_ISLAND n 2 t
    if hasRetain (taskSt s n) then s else finishCycle n s

/-- TASK_OUTPUT_PHASE: at the end of execution the whole image goes over HC1; refused, it is discarded (R122). -/
def outputPhaseOp (p : Fin 2) (n : Nat) (s : State) : State :=
  let s := freeProc p s
  let t := present { hc := 1, back := false } .prog .trellis (.outputImage n) s
  if isRun s .trellis then updCyc n (fun c => { c with phase := .sent }) t
  else afterOutput n (raiseFor cPGE_ISLAND n 1 t)

def execTaskOutputPhase (p : Fin 2) (s : State) : Out :=
  .next (match running s p with
    | some i =>
      let done := match (taskSt s i.n).cyc with | some c => c.phase == .executed | none => false
      if isRun s .prog && !i.work && done then outputPhaseOp p i.n s else s
    | none => s)

/-- VALUE of a point in its type (Table 3.4). -/
def fitType (t : Nat) (v : DWord) : DWord :=
  match t with
  | 1 => BitVec.ofNat 64 (v.toNat % 2)
  | 2 | 3 => BitVec.ofNat 64 (v.toNat % 2 ^ 32)
  | _ => v

/-- One output point is committed: what OUT gave it, otherwise its present value; one that is no finite number is bad (R119, R120).
A point that no longer names the task as its writing source is left out (R144). -/
def commitSlot (n : Nat) (out : Tbl (DWord × Byte)) (slot i : Nat) (s : State) : State × Bool :=
  match pt? s i with
  | none => (s, false)
  | some p =>
    if !isWriter p pvProgram n (n / 32) then (s, false)
    else
      let (v, q) := match Tbl.get? out slot with | some x => x | none => (p.value, qGood)
      let v := fitType p.type v
      if isFinite p.type v then (writeQ pvProgram n (n / 32) i v q (ptStamp s i) s, false)
      else (writeQ pvProgram n (n / 32) i v qSource (ptStamp s i) s, true)

/-- Every entry of the image is committed in this Trellis cycle. -/
def commitImage (n : Nat) (cy : Cycle) (s : State) : State :=
  let (s, bad) := ((taskSt s n).prog.outSlots.zipIdx).foldl (fun a e =>
    let (t, b) := commitSlot n cy.out e.2 e.1 a.1
    (t, a.2 || b)) (s, false)
  if bad then raiseFor cPGE_BAD_REAL n 0 s else s

/-- OUTPUT_IMAGE_COMMIT. -/
def execOutputImageCommit (c : Fin 63) (t : Fin 32) (s : State) : Out :=
  let n := mtn c t
  .next (match (taskSt s n).cyc with
    | some cy => if isRun s .trellis && cy.phase == .arrived then afterOutput n (commitImage n cy s) else s
    | none => s)

/-! ### Retentive data (R129 to R131) -/

/-- The retentive copy of a cask's data in ferroelectric memory, at the same place as the data in instance memory. -/
def retCopy (s : State) (c : Nat) : RetCopy := Tbl.at s.pge.retain c {}

/-- PATH_ID and TYPE_HASH of a task's instances with retentive data. -/
def hashTable (insts : List InstRec) : List (DWord × DWord) :=
  (insts.filter (fun r => r.retOff.isSome)).map (fun r => (r.pathId, r.typeHash))

/-- Journal lines of a cask with its clock, mark them, and copy them into the retentive copy (R129), with a task's table of PATH_ID and
TYPE_HASH. -/
def journalOp (c : Nat) (lines : List Nat) (clk : DWord) (table : List (DWord × DWord)) (s : State) : State :=
  let body := lines.map (fun l => (l, memReadBytes s.mem.inst (instKey c l) 64))
  let fram := body.foldl (fun m e => memWriteBytes m (instKey c e.1) e.2) s.mem.fram
  let old := retCopy s c
  let hashes := old.hashes.filter (fun h => !table.any (fun x => x.1 == h.1)) ++ table
  { s with mem.fram := fram,
           pge.journal := some { cask := c, lines := body, clk := clk, marked := true },
           pge.retain := Tbl.put s.pge.retain c { old with valid := true, clk := clk, vintage := s.img.vintage, hashes := hashes } }

/-- RETENTIVE_COMMIT: the changed lines and the cask clock; the marker ends the cycle. -/
def retentiveCommitOp (n : Nat) (cy : Cycle) (s : State) : State :=
  let t := taskSt s n
  let s := journalOp (n / 32) t.dirty cy.clk (hashTable t.prog.insts) s
  finishCycle n (updTask n (fun t => { t with dirty := [] }) s)

def execRetentiveCommit (c : Fin 63) (t : Fin 32) (s : State) : Out :=
  let n := mtn c t
  .next (match (taskSt s n).cyc with
    | some cy => if isRun s .prog && cy.phase == .committed then retentiveCommitOp n cy s else s
    | none => s)

/-! ### Watchdog and error task (R138, R139) -/

/-- The cycle has not reached its output phase. -/
def beforeOutput : Phase → Bool
  | .released | .ready | .running | .executed => true
  | _ => false

/-- TASK_WATCHDOG. -/
def execTaskWatchdog (c : Fin 63) (t : Fin 32) (s : State) : Out :=
  let n := mtn c t
  .next (match (taskSt s n).cyc with
    | some cy => if beforeOutput cy.phase && decide (cy.releasedAt + wdogNs (taskSt s n).prog.rc < s.now) then
        abandon n cPGE_WATCHDOG 0 s else s
    | none => s)

/-- The cycle that raised an entry is still in progress. -/
def raiserBusy (s : State) (c : Nat) (e : ErrEntry) : Bool :=
  match (taskSt s (mtn c e.task)).cyc with
  | some cy => cy.releasedAt ≤ e.cycle * 10
  | none => false

/-- ERROR_TASK_RELEASE: once for the oldest entry. -/
def execErrorTaskRelease (c : Fin 63) (s : State) : Out :=
  let n := mtn c 31
  let x := taskSt s n
  let open0 := match (pcask s c).mode with | .run | .holding | .stopping => true | _ => false
  .next (match (pcask s c).errs with
    | e :: _ => if isRun s .trellis && x.exist && x.cyc.isNone && !inWork x && open0 && !raiserBusy s c e then
        releaseTask n s else s
    | [] => s)

/-! ### Starts (R135, R136) -/

/-- An instance header (Table 4.7). -/
def headerBytes (r : InstRec) (task flags : Nat) : List Byte :=
  toLe 8 r.typeHash.toNat ++ toLe 8 r.pathId.toNat ++ d4 r.size ++ d4 (r.retOff.getD 0xFFFFFFFF) ++ d2 r.retSize ++
  d1 flags ++ d1 task ++ d4 0

/-- Write bytes into a cask's partition of instance memory. -/
def instPut (c a : Nat) (bs : List Byte) (s : State) : State :=
  { s with mem.inst := memWriteBytes s.mem.inst (instKey c a) bs }

/-- Non-retentive data of an instance takes its initial values, with FLAGS. -/
def initInst (c task flags : Nat) (r : InstRec) (s : State) : State :=
  instPut c r.off (headerBytes r task flags ++ padTo (r.size - 32) r.init) s

/-- Retentive data of an instance takes its initial values. -/
def initRet (c : Nat) (r : InstRec) (s : State) : State :=
  match r.retOff with
  | some o => instPut c o (padTo r.retSize r.retInit) s
  | none => s

/-- Retentive lines of an instance. -/
def retLines (r : InstRec) : List Nat :=
  match r.retOff with
  | some o => (List.range ((o + r.retSize + 63) / 64)).filterMap (fun k => if o / 64 ≤ k then some (64 * k) else none)
  | none => []

/-- Note lines as changed by a task. -/
def noteLines (n : Nat) (ls : List Nat) (s : State) : State :=
  updTask n (fun t => { t with dirty := ls.foldl (fun d l => addLine l d) t.dirty }) s

/-- Retentive data of an instance at a warm start: kept where the copy holds its PATH_ID and TYPE_HASH (R131, R159); otherwise its
initial values, with an event. -/
def warmRet (n : Nat) (r : InstRec) (s : State) : State :=
  let c := n / 32
  match r.retOff with
  | none => s
  | some o =>
    if (retCopy s c).hashes.contains (r.pathId, r.typeHash) then instPut c o (memReadBytes s.mem.fram (instKey c o) r.retSize) s
    else
      let s := noteLines n (retLines r) (initRet c r s)
      record (Config.openCode 3).toNat c (toLe 8 r.pathId.toNat) s

/-- The instances of a task start (Table 4.11): FIRST is set in each. -/
def startInsts (n : Nat) (cold : Bool) (s : State) : State :=
  (taskSt s n).prog.insts.foldl (fun s r =>
    let s := initInst (n / 32) (n % 32) 1 r s
    if cold then noteLines n (retLines r) (initRet (n / 32) r s) else warmRet n r s) s

/-- A task at a start: statistics cleared, first released at its next release time or by a trigger still to come. -/
def startTask (n : Nat) (s : State) : State :=
  passTrigger n <| updTask n (fun t => { t with ovr := 0, maxNs := 0, pend := false, raised := false, lastFrame := some (curFrame s) }) s

/-- R130: a warm start has no good copy to start from. A cask with no retentive data needs none. -/
def copyLost (s : State) (c : Nat) : Bool :=
  (caskTasks s c).any (fun n => hasRetain (taskSt s n)) && !((retCopy s c).valid && (retCopy s c).crcOk)

/-- A warm or cold start (R130, R135, Table 4.11), then RUN. -/
def startCask (c : Nat) (wantCold : Bool) (s : State) : State :=
  let fell := !wantCold && copyLost s c
  let cold := wantCold || fell
  let k := pcask s c
  let s := instPut c 0 (padTo k.rc.globalBytes k.rc.globalInit) s
  let s := (caskTasks s c).foldl (fun s n => startTask n (startInsts n cold s)) s
  let s := updPCask c (fun k =>
    { k with mode := .run, errs := [], lastStart := if cold then 2 else 1, retainLost := fell,
             clk := if cold then 0 else k.clk }) s
  if fell then raise cPGE_RETAIN_LOST c 0 0 s else s

/-! ### Mode commands (R132 to R134) -/

/-- The cask a PGE_CMD addresses: cask 0 names it; others command their own. -/
def cmdCask (iss : Issuer) (target : Fin 64) : Nat := if isOwner iss then target.val else iss.cask.val

/-- Answer a mode command in PGE_CMD_STATUS. -/
def pgeStatus (iss : Issuer) (code : Nat) (s : State) : State :=
  { s with pge.cmdStatus := Tbl.put s.pge.cmdStatus iss.cask code }

/-- A mode command accepted in the modes `ok`. -/
def modeCmd (iss : Issuer) (target : Fin 64) (ok : PMode → Bool) (op : Nat → State → State) (s : State) : Out :=
  regCmd iss .pge 0 (fun s =>
    let c := cmdCask iss target
    if ok (pcask s c).mode then pgeStatus iss cPGE_OK (op c s) else pgeStatus iss cPGE_CMD_STATE s) s

/-- A start command: refused for a cask without tasks and while the module is sealed. -/
def startCmd (iss : Issuer) (target : Fin 64) (cold : Bool) (s : State) : Out :=
  regCmd iss .pge 0 (fun s =>
    let c := cmdCask iss target
    if (pcask s c).mode != .stop then pgeStatus iss cPGE_CMD_STATE s
    else if !hasTasks s c then pgeStatus iss cPGE_NO_TASKS s
    else if isSealed s then pgeStatus iss cPGE_SEALED s
    else pgeStatus iss cPGE_OK (startCask c cold s)) s

def execRunWarm (iss : Issuer) (target : Fin 64) (s : State) : Out := startCmd iss target false s
def execRunCold (iss : Issuer) (target : Fin 64) (s : State) : Out := startCmd iss target true s

def execHoldCask (iss : Issuer) (target : Fin 64) (s : State) : Out :=
  modeCmd iss target (· == .run) (fun c s => updPCask c (fun k => { k with mode := .holding }) s) s

/-- RESUME: each cyclic task is released at its next release time, an event task by its next trigger. -/
def resumeOp (c : Nat) (s : State) : State :=
  let s := updPCask c (fun k => { k with mode := .run }) s
  (caskTasks s c).foldl (fun s n => passTrigger n (updTask n (fun t => { t with lastFrame := some (curFrame s) }) s)) s

def execResumeCask (iss : Issuer) (target : Fin 64) (s : State) : Out := modeCmd iss target (· == .hold) resumeOp s

def execStopCask (iss : Issuer) (target : Fin 64) (s : State) : Out :=
  modeCmd iss target (fun m => m == .run || m == .hold || m == .holding) stopCaskOp s

/-- STOP is entered: output points of the cask's tasks are substituted in the next Trellis cycle; pending releases are discarded
(Table 4.10). -/
def enterStop (c : Nat) (s : State) : State :=
  let outs := (caskTasks s c).flatMap (fun n => (taskSt s n).prog.outSlots)
  let s := (caskTasks s c).foldl (fun s n => updTask n (fun t => { t with pend := false }) s) s
  let s := updPCask c (fun k => { k with mode := .stop }) s
  { s with stn.toSubst := s.stn.toSubst ++ outs }

/-- HOLD is entered: pending releases are discarded. -/
def enterHold (c : Nat) (s : State) : State :=
  let s := (caskTasks s c).foldl (fun s n => updTask n (fun t => { t with pend := false }) s) s
  updPCask c (fun k => { k with mode := .hold, holdAt := s.now }) s

/-- CASK_DRAINED. -/
def execCaskDrained (c : Fin 63) (s : State) : Out :=
  .next (if caskBusy s c then s
    else match (pcask s c).mode with
      | .holding => enterHold c s
      | .stopping => enterStop c s
      | _ => s)

/-- HOLD_LIMIT_S in force in ns (Table 4.3). -/
def holdLimitNs (k : PCask) : Nat := (if k.rc.holdLimitS = 0 then 600 else k.rc.holdLimitS) * 1000000000

/-- HOLD_EXPIRED. -/
def execHoldExpired (c : Fin 63) (s : State) : Out :=
  let k := pcask s c
  .next (if k.mode == .hold && decide (k.holdAt + holdLimitNs k ≤ s.now) then
      record cPGE_HOLD_EXPIRED c [] (enterStop c s) else s)

/-- CASK_AUTO_START: the cask acts on its START_MODE once, in the first frame after a whole load; none leaves STOP while the module is
sealed. -/
def autoStartOp (c : Nat) (s : State) : State :=
  let s := updPCask c (fun k => { k with autoDue := false }) s
  let k := pcask s c
  if isSealed s || !hasTasks s c || k.mode != .stop then s
  else match k.rc.startMode with
    | 1 => startCask c false s
    | 2 => startCask c true s
    | _ => s

def execCaskAutoStart (c : Fin 63) (s : State) : Out :=
  .next (if isRun s .prog && isRun s .trellis && (pcask s c).autoDue then autoStartOp c s else s)

/-! ### Abort (R142) -/

/-- Drop a task's cycle and releases. -/
def dropCycle (t : TaskSt) : TaskSt := { t with cyc := none, pend := false, exch.held := none }

/-- Effects of the program engine's abort. -/
def progAbortOp (s : State) : State :=
  let s := { s with pge.tasks := Tbl.mapV s.pge.tasks (fun _ t => dropCycle t) }
  let s := freeProc 0 (freeProc 1 s)
  let s := ((s.pge.casks.filter (fun e => e.2.mode != .stop)).map (·.1)).foldl (fun s c => enterStop c s) s
  let s := ((s.pge.tasks.filter (fun e => e.2.exch.st == .waiting)).map (·.1)).foldl
    (fun s n => failExchange n cEXCH_ABORTED s) s
  record cPGE_ABORTED 0 [] s

def execProgramEngineAbort (iss : Issuer) (s : State) : Out := abortCmd iss 1 .prog progAbortOp s

/-! ### Cask clock register (R123) -/

/-- The cask whose bank of PGE registers an issuer reaches. -/
def pgeBank (s : State) (iss : Issuer) : Nat := if isOwner iss then s.pge.selCask else iss.cask.val

/-- PGE_CLK_LO_READ. -/
def execPgeClkLoRead (iss : Issuer) (s : State) : Out :=
  regRead iss .pge 0x0010 (fun s => w32 (pcask s (pgeBank s iss)).clk.toNat)
    (fun s => updPCask (pgeBank s iss) (fun k => { k with clkHi := w32 (k.clk.toNat / 2 ^ 32) }) s) s

/-! ### Vintner's setpoints (R141, R35) -/

/-- limit(v, lo, hi). -/
def limitF (v lo hi : F64) : F64 := F64.min (F64.max v lo) hi

/-- A bound point's value, none while its quality class is bad or substituted. -/
def boundVal (s : State) (i : Nat) : Option F64 :=
  match pt? s i with
  | some p => if counted p then some (realOf p.type p.value) else none
  | none => none

/-- One write of a target. -/
def vintnerOp (i : Nat) (r : VintRec) (v : F64) (s : State) : State :=
  match boundVal s r.lo, boundVal s r.hi, boundVal s r.rate with
  | some lo, some hi, some rate =>
    if F64.lt hi lo then record (Config.openCode 4).toNat 0 (d2 i) s
    else
      let v1 := limitF v lo hi
      let v2 := match r.last with
        | some l =>
          let step := F64.mul rate (F64.div (F64.ofInt (s.now - r.lastAt : Nat)) (F64.ofInt 1000000000))
          limitF v1 (F64.sub l step) (F64.add l step)
        | none => v1
      let s := { s with pge.vint := Tbl.put s.pge.vint i { r with last := some v2, lastAt := s.now } }
      let s := match pt? s i with
        | some p => putEntry i pvVintner (valueOf p.type v2) qGood (ptStamp s i) s
        | none => s
      if v2 == v then s else record (Config.openCode 2).toNat 0 (d2 i) s
  | _, _, _ => record (Config.openCode 4).toNat 0 (d2 i) s

/-- VINTNER_SETPOINT_WRITE: for a target with a bound record. -/
def execVintnerSetpointWrite (i : Fin 16384) (v : F64) (s : State) : Out :=
  .next (match Tbl.get? s.pge.vint i.val, pt? s i.val with
    | some r, some p => if isRun s .cluster && isRun s .trellis && p.srcKind == pvVintner then vintnerOp i r v s else s
    | _, _ => s)

/-! ### Program exchange (R143 to R159) -/

/-- EXCHANGE_BOUNDARY (R145): no cycle of an affected task is in progress; the exchange work is ready (R154, R116). -/
def execExchangeBoundary (c : Fin 63) (t : Fin 32) (s : State) : Out :=
  let n := mtn c t
  let x := taskSt s n
  .next (if isRun s .prog && x.exch.st == .waiting && x.exch.boundaryAt.isNone && x.cyc.isNone then
      maybeSwitch (updTask n (fun t => { t with exch.boundaryAt := some s.now }) s) else s)

/-- How an instance of the new program relates to the old one (Table 5.1). -/
inductive InstFate where
  | kept | migrated (old : InstRec) | cold | fresh

/-- The instance of the old program with the same PATH_ID decides. -/
def fateOf (old : List InstRec) (r : InstRec) : InstFate :=
  match old.find? (fun o => o.pathId == r.pathId) with
  | none => .fresh
  | some o => if o.typeHash == r.typeHash then .kept else if r.routine.isSome then .migrated o else .cold

/-- Cycles of matching and initialising one instance (R154). -/
def fateCycles (r : InstRec) (matched : Bool) (written : Bool) : Nat :=
  (if matched then 4 else 0) + (if written then (r.size + r.retSize + 7) / 8 else 0)

/-- Matching of one instance on processor `p`: initial values where Table 5.1 gives them, a migration to run, and the cycles. -/
def matchInst (p : Fin 2) (n : Nat) (old : List InstRec) (s : State) (r : InstRec) : State :=
  let c := n / 32
  let init := fun (flags : Nat) (s : State) => initRet c r (initInst c (n % 32) flags r s)
  match fateOf old r with
  | .kept => charge p c (fateCycles r true false) s
  | .migrated o =>
    let s := charge p c (fateCycles r true true) (init 0 s)
    updTask n (fun t => { t with exch.toMigrate := t.exch.toMigrate ++ [(o, r)] }) s
  | .cold => charge p c (fateCycles r true true) (init 1 s)
  | .fresh => charge p c (fateCycles r false true) (init 1 s)

/-- The work a processor has taken: matching and initialisation, then the migration routines one after another (R152, R154). -/
def matchWork (p : Fin 2) (i : Item) (s : State) : State :=
  let x := taskSt s i.n
  if x.exch.matched then s
  else
    let s := charge p (i.n / 32) 200 s
    let new := match x.exch.staged with | some g => g.insts | none => []
    let s := new.foldl (fun s r => matchInst p i.n x.prog.insts s r) s
    nextRoutine p i.n (updTask i.n (fun t => { t with exch.matched := true }) s)

/-- A processor takes work. -/
def workOp (p : Fin 2) (i : Item) (s : State) : State := matchWork p i (startItem p i s)

/-- EXCHANGE_WORK: a free processor takes the first ready item, if that is work; one that a switch gave work (R116) goes on with it. -/
def execExchangeWork (p : Fin 2) (s : State) : Out :=
  .next (if isRun s .prog then
      match running s p with
      | some i => if i.work then matchWork p i s else s
      | none =>
        match firstItem s (readyItems s) with
        | some i => if i.work then workOp p i s else s
        | none => s
    else s)

/-- Events of cold-initialised instances (Table 5.1). -/
def coldEvents (n : Nat) (old new : List InstRec) (s : State) : State :=
  new.foldl (fun s r => match fateOf old r with
    | .cold => record cEXCH_COLD_INIT (n / 32) (toLe 8 r.pathId.toNat) s
    | _ => s) s

/-- The switch (R147, R153, R154): the new program in one step; changed retentive lines and the new table are journaled; outputs no
longer in the image are substituted; a held release is taken. -/
def switchOp (n : Nat) (s : State) : State :=
  let t := taskSt s n
  let c := n / 32
  let new := t.exch.staged.getD { rc := t.prog.rc }
  let changed := new.insts.filter (fun r => match fateOf t.prog.insts r with | .kept => false | _ => true)
  let lines := changed.foldl (fun ls r => (retLines r).foldl (fun d l => addLine l d) ls) []
  let gone := t.prog.outSlots.filter (fun i => !new.outSlots.contains i)
  let s := coldEvents n t.prog.insts new.insts s
  let s := if lines.isEmpty && (hashTable new.insts).isEmpty then s
           else journalOp c lines (pcask s c).clk (hashTable new.insts) s
  let s := updTask n (fun t => { t with
    exist := !t.exch.remove, prog := new, dirty := t.dirty.filter (fun l => !lines.contains l),
    exch := { t.exch with st := .current, code := cEXCH_DONE, vintage := t.exch.stagedVintage, staged := none, remove := false,
                          boundaryAt := none, proc := none, matched := false, toMigrate := [], done := false, ctx := none } }) s
  let s := updPCask c (fun k => { k with lastExch := cEXCH_DONE }) s
  let s := if t.exist && t.prog.rc.trigger == new.rc.trigger && t.prog.rc.trigPoint == new.rc.trigPoint then s else passTrigger n s
  takeHeld n { s with stn.toSubst := s.stn.toSubst ++ gone }

/-- EXCHANGE_SWITCH. -/
def execExchangeSwitch (c : Fin 63) (t : Fin 32) (s : State) : Out :=
  let n := mtn c t
  .next (if isRun s .prog && (taskSt s n).exch.st == .waiting && (taskSt s n).exch.done then switchOp n s else s)

/-- EXCH_TIME (R155). -/
def execExchTime (c : Fin 63) (t : Fin 32) (s : State) : Out :=
  let n := mtn c t
  let x := taskSt s n
  let rc := if x.exist then x.prog.rc else (match x.exch.staged with | some g => g.rc | none => x.prog.rc)
  .next (match x.exch.boundaryAt with
    | some b => if x.exch.st == .waiting && decide (b + wdogNs rc < s.now) then failExchange n cEXCH_TIME s else s
    | none => s)

end Sys2Proof.Machine
end

