-- ==== Sys2Proof/Machine/Crossing.lean ====
section
/-!
DEFINITION. Crossing.lean: a transfer crosses its handshake channel and arrives (spec/01_architecture.md R27, R28, Table 1.2).
-/
namespace Sys2Proof.Machine

/-- RAISE requests that come with an output image reach the event tasks they name (R112, TRIGGER 0x03). -/
def deliverRaises (n : Nat) (ts : List Nat) (s : State) : State :=
  ts.foldl (fun s t =>
    let m := 32 * (n / 32) + t
    if (taskSt s m).prog.rc.trigger == 3 then updTask m (fun x => { x with raised := true }) s else s) s

/-- What an arrived transfer does at its receiver. A held input image makes its task ready (R118), which may switch a processor
(R116). -/
def deliver (t : Transfer) (s : State) : State :=
  match t with
  | .inputImage n =>
    match (taskSt s n).cyc with
    | some cy =>
      if cy.phase == .released then maybeSwitch (updCyc n (fun c => { c with phase := .ready }) s) else s
    | none => s
  | .outputImage n =>
    match (taskSt s n).cyc with
    | some cy =>
      if cy.phase == .sent then deliverRaises n cy.raises (updCyc n (fun c => { c with phase := .arrived }) s) else s
    | none => s
  | .loopMsgs _ ms => ms.foldl (fun s m => takeLoopMsg m s) s
  | .capture b =>
    match Tbl.get? s.lpe.bufs b with
    | some x => { s with lpe.bufs := Tbl.put s.lpe.bufs b { x with arrived := true } }
    | none => s

/-- HANDSHAKE_CROSSING: the oldest transfer of the lane arrives (R28). -/
def crossingOp (l : Lane) (s : State) : State :=
  match laneQ s l with
  | [] => s
  | t :: q => deliver t (setLaneQ l q s)

def execHandshakeCrossing (l : Lane) (s : State) : Out := .next (crossingOp l s)

end Sys2Proof.Machine
end

