-- ==== Sys2Proof/Machine/Keys.lean ====
section
/-!
DEFINITION. Keys.lean: key commands, slot operations, unsealing, tamper monitors, service sessions and the key engine's abort
(spec/14_keys_tamper_identity.md R427 to R452; spec/15_update_and_racking.md R458).
-/
namespace Sys2Proof.Machine

/-! ### KEY_CMD -/

/-- Set the code of an issuer's last command. -/
def keyStatus (iss : Issuer) (c : Nat) (s : State) : State :=
  { s with key.cmdStatus := Tbl.put s.key.cmdStatus iss.cask.val c, reply := .code c }

/-- A write of KEY_CMD: refused with KEY_BUSY while ATTEST is in progress; sealed, only ATTEST and PROVISION run (R445). -/
def keyCmd (iss : Issuer) (whileSealed : Bool) (eff : State → State) (s : State) : Out :=
  regCmd iss .key 0x0004 (fun s =>
    if s.key.attesting.isSome then keyStatus iss cKEY_BUSY s
    else if isSealed s && !whileSealed then keyStatus iss cKEY_SEALED s
    else eff s) s

/-- The life-cycle commands come from cask 0 (R428). -/
def ownerCmd (iss : Issuer) (whileSealed : Bool) (eff : State → State) (s : State) : Out :=
  keyCmd iss whileSealed (fun s => if isOwner iss then eff s else keyStatus iss cKEY_USAGE s) s

/-- R40: the range of an access outside the issuer's partition is refused and recorded (Table 2.13). -/
def rangeDenied (iss : Issuer) (addr off : Nat) (s : State) : State := denied 0x0B 2 addr 0xFF off iss.cask.val s

/-- The token or blob at KEY_SRC, of KEY_LEN bytes. -/
def blobOf (s : State) : List Byte := memReadBytes s.mem.dram s.key.src.toNat s.key.len.toNat

/-- A command that reads a token or blob: its place must lie in the issuer's partition, 16-byte aligned, at most 4,096 bytes. -/
def withBlob (iss : Issuer) (eff : List Byte → State → State) (s : State) : State :=
  if s.key.src.toNat % 16 != 0 || 4096 < s.key.len.toNat then keyStatus iss cKEY_TOKEN s
  else if !inPartition s iss.cask.val s.key.src.toNat s.key.len.toNat then
    keyStatus iss cKEY_USAGE (rangeDenied iss s.key.src.toNat 0x000C s)
  else eff (blobOf s) s

/-- A token: its body and the 96-byte signature behind it (assumption 17). -/
def tokenBody (bs : List Byte) : List Byte := bs.take (bs.length - 96)
def tokenSig (bs : List Byte) : List Byte := bs.drop (bs.length - 96)

/-- USAGE bit TOKEN (Table 14.4). -/
def uTOKEN : Nat := 13

/-- The token verifies under some slot with USAGE bit TOKEN. -/
def tokenOk (s : State) (bs : List Byte) : Bool :=
  96 ≤ bs.length && (verifySlot s uTOKEN (tokenBody bs) (tokenSig bs)).isSome

/-- Opened under the factory TRNS bud whose NONCE is the blob's first 16 bytes (Table 14.3, assumption 17). -/
def openTransport (s : State) (bs : List Byte) : Option (List Byte) :=
  match deriveBud s .factory .trns 0 .trb1 (bs.take 16) with
  | some k => Config.openBlob k (bs.drop 16)
  | none => none

/-- Armed class B monitors that trip at the last sample (Table 14.5). -/
def classB : Nat := 0x7C
def classA : Nat := 0x03

/-- R428, Table 14.2. -/
def provisionOp (iss : Issuer) (bs : List Byte) (s : State) : State :=
  if (s.key.tripNow &&& s.key.armed &&& classB) != 0 then keyStatus iss cKEY_TAMPER_ACTIVE s
  else match openTransport s bs with
  | none => keyStatus iss cKEY_TOKEN s
  | some p =>
    let s := useBud .factory .trns 0 .trb1 (bs.take 16) s
    let s := invalidateRoot .site s
    let s := writeRoot .site (BitVec.ofNat 256 (leAt p 0 32)) s
    let s0 : KSlot := { attr := leAt p 36 4, key := p.drop 40 }
    let s := { s with
      key.siteGen := leAt p 32 4, key.slots := Tbl.put s.key.slots 0 s0, key.latch := s.key.latch &&& classA,
      key.armed := 0x7F, key.erasedB := false, key.accepted := false }
    keyStatus iss cKEY_OK (setLc .provisioned s)

/-- PROVISION. -/
def execProvision (iss : Issuer) (s : State) : Out :=
  ownerCmd iss true (fun s =>
    if !(s.key.lc == .blank || (isSealed s && s.key.lc != .retired)) then keyStatus iss cKEY_LC_STATE s
    else if s.key.factory.isNone then keyStatus iss cKEY_SEALED s
    else withBlob iss (provisionOp iss) s) s

/-- SERVICE_ENTER: the token carries the service rootstock wrapped under the factory TRNS bud. -/
def execServiceEnter (iss : Issuer) (s : State) : Out :=
  ownerCmd iss false (fun s =>
    if s.key.lc != .operational then keyStatus iss cKEY_LC_STATE s
    else withBlob iss (fun bs s =>
      match openTransport s (tokenBody bs) with
      | some p =>
        if tokenOk s bs then
          let s := useBud .factory .trns 0 .trb1 (bs.take 16) s
          let s := writeRoot .service (BitVec.ofNat 256 (leAt p 0 32)) s
          let s := { s with key.entries := (s.key.entries + 1) % 2 ^ 32, key.serviceAt := s.now }
          keyStatus iss cKEY_OK (setLc .service s)
        else keyStatus iss cKEY_TOKEN s
      | none => keyStatus iss cKEY_TOKEN s) s) s

/-- SERVICE_EXIT. -/
def execServiceExit (iss : Issuer) (s : State) : Out :=
  ownerCmd iss false (fun s =>
    if s.key.lc != .service then keyStatus iss cKEY_LC_STATE s else keyStatus iss cKEY_OK (leaveService s)) s

/-- SERVICE_TIMEOUT: 8 h after entry. -/
def execServiceTimeout (s : State) : Out :=
  .next (if s.key.lc == .service && s.key.serviceAt + 28800000000000 ≤ s.now then leaveService s else s)

/-- RETIRE: the token names the module's serial. -/
def execRetire (iss : Issuer) (s : State) : Out :=
  ownerCmd iss false (fun s =>
    if s.key.lc == .retired then keyStatus iss cKEY_LC_STATE s
    else withBlob iss (fun bs s =>
      if tokenOk s bs && bs.take 8 == serialBytes s then
        let s := eraseRoot .factory (eraseRoot .site (eraseRoot .service s))
        keyStatus iss cKEY_OK (setLc .retired { s with key.accepted := false })
      else keyStatus iss cKEY_TOKEN s) s) s

/-- The uncompressed identity public key; none without a factory rootstock (R446). -/
def idPublic (s : State) : Option (List Byte) :=
  s.key.factory.map (fun r => Config.ecdsaPub (idScalar (rootBytes r) (serialBytes s)))

/-- What the acceptance token signs (R450). -/
def acceptMsg (s : State) (pub : List Byte) : List Byte :=
  ascii4 0x41 0x43 0x50 0x54 ++ serialBytes s ++ (Config.sha384 pub).take 32 ++ d2 s.sys.address.toNat

/-- ACCEPT (R450). -/
def execAcceptIdentity (iss : Issuer) (s : State) : Out :=
  ownerCmd iss false (fun s => withBlob iss (fun bs s =>
    match idPublic s with
    | some pub =>
      if (verifySlot s uTOKEN (acceptMsg s pub) bs).isSome then
        keyStatus iss cKEY_OK (record cKEY_ACCEPTED 0 [] { s with key.accepted := true })
      else keyStatus iss cKEY_TOKEN s
    | none => keyStatus iss cKEY_TOKEN s) s) s

/-- ATTEST (R447): refused while the factory rootstock is not unsealed. -/
def execAttest (iss : Issuer) (s : State) : Out :=
  ownerCmd iss true (fun s =>
    if s.key.factory.isNone then keyStatus iss cKEY_SEALED s
    else { keyStatus iss cKEY_OK s with key.attesting := some iss.cask.val }) s

/-- FLAGS of the attestation report (Table 14.7). -/
def attestFlags (s : State) : Nat :=
  b2n (isSealed s) + 2 * b2n ((s.key.latch &&& classA) != 0) + 4 * b2n ((s.key.latch &&& classB) != 0) +
  8 * b2n s.key.accepted + 16 * b2n s.sys.active + 32 * b2n (trusted s 0)

/-- Variant byte of the attestation report. -/
def variantByte (s : State) : Nat :=
  (match s.sys.variant with | .v00 => 0 | .m0 => 1 | .ms => 2) + 4 * b2n s.sys.ext

/-- Bytes 0 to 127 of the attestation report (Table 14.7). -/
def attestBody (s : State) : List Byte :=
  let nonce := (List.range 8).flatMap (fun i => d4 (Tbl.at s.key.nonce i 0).toNat)
  let ring := match deriveCane s .site .ring 0 with
    | some k => padTo 16 (Config.sha384 k)
    | none => List.replicate 16 0
  let map := match s.saf.acc with | some m => m.vintage.toNat | none => 0
  padTo 128 (nonce ++ serialBytes s ++ toLe 6 (Tbl.at s.net.nodes 0 {}).mac ++ d2 s.sys.address.toNat ++
    d1 (lcCode s.key.lc) ++ d1 (attestFlags s) ++ d1 (variantByte s) ++ d1 0 ++ d4 s.img.vintage ++ d4 s.upd.fwVintage ++
    d4 map ++ d4 s.cel.opSec ++ toLe 3 s.cel.pcycle ++ d1 0 ++ toLe 8 (localNs s .key 0) ++ d4 s.key.siteGen ++ ring)

/-- ATTEST_COMPLETE: the signed report appears. -/
def execAttestComplete (s : State) : Out :=
  .next (match s.key.attesting, s.key.factory with
    | some c, some r =>
      if isRun s .key then
        let b := attestBody s
        let sig := Config.ecdsaSign (toLe 48 (idScalar (rootBytes r) (serialBytes s))) b s.fresh
        { bumpFree s with key.report := b ++ padTo 96 sig, key.attesting := none,
                          key.cmdStatus := Tbl.put s.key.cmdStatus c cKEY_OK }
      else s
    | _, _ => s)

/-- CLEAR_A (R442). -/
def execClearA (iss : Issuer) (s : State) : Out :=
  ownerCmd iss false (fun s =>
    if s.key.lc != .service then keyStatus iss cKEY_LC_STATE s
    else if (s.key.latch &&& s.key.tripNow &&& classA) != 0 then keyStatus iss cKEY_TAMPER_ACTIVE s
    else withBlob iss (fun bs s =>
      let pc := toLe 3 s.cel.pcycle
      match deriveBud s .service .svc1 0 .clra pc with
      | some k =>
        if bs == Config.hmac384 k (serialBytes s ++ pc) then
          keyStatus iss cKEY_OK (useBud .service .svc1 0 .clra pc { s with key.latch := s.key.latch &&& classB })
        else keyStatus iss cKEY_TOKEN s
      | none => keyStatus iss cKEY_TOKEN s) s) s

/-- ARM (R441): the blob's first byte gives the armed monitors. -/
def execArmMonitors (iss : Issuer) (s : State) : Out :=
  ownerCmd iss false (fun s =>
    if s.key.lc != .service then keyStatus iss cKEY_LC_STATE s
    else withBlob iss (fun bs s => keyStatus iss cKEY_OK { s with key.armed := leAt bs 0 1 % 128 }) s) s

/-- INVALIDATE_SESS (R440). -/
def execInvalidateSess (iss : Issuer) (arg : Fin 64) (s : State) : Out :=
  ownerCmd iss false (fun s =>
    let s := { s with key.sessGen := Tbl.upd s.key.sessGen arg.val 0 (fun g => (g + 1) % 2 ^ 32) }
    keyStatus iss cKEY_OK (invalidate (fun e => e.label == caneCode .sess && e.cask == arg.val) s)) s

/-- INVALIDATE_RDR (R440). -/
def execInvalidateRdr (iss : Issuer) (arg : Fin 64) (s : State) : Out :=
  ownerCmd iss false (fun s =>
    let s := { s with key.rdrGen := Tbl.upd s.key.rdrGen arg.val 0 (fun g => (g + 1) % 2 ^ 32) }
    keyStatus iss cKEY_OK (invalidate (fun e => e.label == caneCode .rdr1 && e.cask == arg.val) s)) s

/-- Context of the site STOR bud WRAP for imports (R439: SLOT 0xFF). -/
def importCtx (s : State) : List Byte := d1 0xFF ++ d4 s.key.siteGen

/-- ROLL_STAGE (R437): the next site rootstock, wrapped under the present site STOR bud. -/
def execRollStage (iss : Issuer) (s : State) : Out :=
  ownerCmd iss false (fun s => withBlob iss (fun bs s =>
    match deriveBud s .site .stor 0 .wrap (importCtx s) with
    | some k =>
      match Config.openBlob k bs with
      | some p => keyStatus iss cKEY_OK (useBud .site .stor 0 .wrap (importCtx s)
          { s with key.staged := some (BitVec.ofNat 256 (leAt p 0 32)) })
      | none => keyStatus iss cKEY_TOKEN s
    | none => keyStatus iss cKEY_INVALIDATED s) s) s

/-- ROLL (R437). -/
def execRoll (iss : Issuer) (s : State) : Out :=
  ownerCmd iss false (fun s =>
    if s.key.staged.isNone then keyStatus iss cKEY_LC_STATE s
    else keyStatus iss cKEY_OK { s with key.rollAt := some (s.key.atHi ++ s.key.atLo) }) s

/-- ROLL_ACTIVATION: at the activation time with domain 0 trusted the next rootstock becomes current; while it is untrusted the roll
waits and KEY_UNTRUSTED is reported. -/
def execRollActivation (s : State) : Out :=
  .next (match s.key.rollAt, s.key.staged with
    | some t, some r =>
      if !isRun s .key || localNs s .key 0 < t.toNat then s
      else if !trusted s 0 then { s with key.cmdStatus := Tbl.put s.key.cmdStatus 0 cKEY_UNTRUSTED }
      else
        let s := writeRoot .site r (invalidateRoot .site s)
        let s := { s with key.siteGen := (s.key.siteGen + 1) % 2 ^ 32, key.staged := none, key.rollAt := none }
        record cKEY_ROLLED 0 (d4 s.key.siteGen) s
    | _, _ => s)

/-! ### Slot commands (R438, R439) -/

/-- What an import blob carries: attributes, target slot, key (assumption 17). -/
def importPlain (s : State) (bs : List Byte) : Option (List Byte) :=
  match (deriveBud s .site .stor 0 .wrap (importCtx s)).bind (fun k => Config.openBlob k bs) with
  | some p => some p
  | none => if tokenOk s bs && fld (leAt bs 0 4) 0 4 == 2 then some (tokenBody bs) else none

/-- IMPORT of a blob's content into a slot. -/
def importOp (iss : Issuer) (n : Nat) (p : List Byte) (s : State) : State :=
  let k : KSlot := { attr := leAt p 0 4, key := p.drop 8 }
  if leAt p 4 4 != n || slotType k == 0 || (slotRoot k).isNone then keyStatus iss cKEY_TOKEN s
  else if slotCask k != iss.cask.val then keyStatus iss cKEY_USAGE s
  else if !s.key.accepted && (slotType k == 1 || slotType k == 3 || slotType k == 4) then keyStatus iss cKEY_NOT_ACCEPTED s
  else keyStatus iss cKEY_OK { s with key.slots := Tbl.put s.key.slots n k }

/-- IMPORT. -/
def execImportKey (iss : Issuer) (slot : Fin 64) (s : State) : Out :=
  keyCmd iss false (fun s =>
    if slot.val < 16 && !isOwner iss then keyStatus iss cKEY_USAGE s
    else if !slotEmpty (kslot s slot) then keyStatus iss cKEY_SLOT_BUSY s
    else withBlob iss (fun bs s =>
      match importPlain s bs with
      | some p => importOp iss slot p s
      | none => keyStatus iss cKEY_TOKEN s) s) s

/-- R76, R439: a refusal by cask is also recorded as CASK_DENIED. -/
def slotDenied (iss : Issuer) (n off : Nat) (s : State) : State :=
  denied 0x0A 2 n (slotCask (kslot s n)) off iss.cask.val s

/-- DELETE: by the slot's cask or by cask 0. -/
def execDeleteKey (iss : Issuer) (slot : Fin 64) (s : State) : Out :=
  keyCmd iss false (fun s =>
    if slotEmpty (kslot s slot) then keyStatus iss cKEY_SLOT_EMPTY s
    else if !(isOwner iss || slotCask (kslot s slot) == iss.cask.val) then
      keyStatus iss cKEY_USAGE (slotDenied iss slot 0x0004 s)
    else keyStatus iss cKEY_OK { s with key.slots := Tbl.del s.key.slots slot }) s

/-- A bank of KEY_OP registers. -/
def opBank (s : State) (cask : Nat) : KOpBank := Tbl.at s.key.ops cask {}
/-- Change a bank of KEY_OP registers. -/
def updOp (cask : Nat) (f : KOpBank → KOpBank) (s : State) : State := { s with key.ops := Tbl.upd s.key.ops cask {} f }

/-- EXPORT: the wrapped key is written at the issuer's KEY_OP_DST. -/
def execExportKey (iss : Issuer) (slot : Fin 64) (s : State) : Out :=
  keyCmd iss false (fun s =>
    let k := kslot s slot
    let dst := (opBank s iss.cask).dst.toNat
    let out := Config.exportBlob k.key
    if slotEmpty k then keyStatus iss cKEY_SLOT_EMPTY s
    else if slotCask k != iss.cask.val then keyStatus iss cKEY_USAGE (slotDenied iss slot 0x0004 s)
    else if bitOf k.attr 31 then keyStatus iss cKEY_EXPORT s
    else if slotUnusable s k then keyStatus iss cKEY_UNUSABLE s
    else if !inPartition s iss.cask dst out.length then keyStatus iss cKEY_USAGE (rangeDenied iss dst 0x0048 s)
    else keyStatus iss cKEY_OK { s with mem.dram := memWriteBytes s.mem.dram dst out }) s

/-! ### Slot operations (R439) -/

/-- Set the outcome of an issuer's operation. -/
def opCode (iss : Issuer) (c : Nat) (s : State) : State := updOp iss.cask (fun b => { b with code := c }) { s with reply := .code c }

/-- KEY_OP_CTRL: the checks of R439 and R40, then the operation is in progress. `op` is the coded operation, `usage` its USAGE
bit. -/
def slotOpStart (op usage : Nat) (iss : Issuer) (n : Nat) (s : State) : State :=
  let k := kslot s n
  let b := opBank s iss.cask
  if b.busy.isSome then opCode iss cKEY_BUSY s
  else if isSealed s then opCode iss cKEY_SEALED s
  else if slotEmpty k then opCode iss cKEY_SLOT_EMPTY s
  else if slotCask k != iss.cask.val then opCode iss cKEY_USAGE (slotDenied iss n 0x0040 s)
  else if !bitOf k.attr usage || !slotLc s k then opCode iss cKEY_USAGE s
  else if slotUnusable s k then opCode iss cKEY_UNUSABLE s
  else if 65536 < b.len.toNat then opCode iss cKEY_USAGE s
  else if !inPartition s iss.cask b.src.toNat b.len.toNat then opCode iss cKEY_USAGE (rangeDenied iss b.src.toNat 0x0044 s)
  else
    let inp := memReadBytes s.mem.dram b.src.toNat b.len.toNat
    updOp iss.cask (fun b => { b with busy := some (op, n), input := inp, code := 0 }) s

/-- One slot operation as a command. -/
def slotOpCmd (op usage : Nat) (iss : Issuer) (slot : Fin 64) (s : State) : Out :=
  regCmd iss .key 0x0040 (slotOpStart op usage iss slot) s

def execEncrypt (iss : Issuer) (slot : Fin 64) (s : State) : Out := slotOpCmd 1 8 iss slot s
def execDecrypt (iss : Issuer) (slot : Fin 64) (s : State) : Out := slotOpCmd 2 9 iss slot s
def execSign (iss : Issuer) (slot : Fin 64) (s : State) : Out := slotOpCmd 3 10 iss slot s
def execVerify (iss : Issuer) (slot : Fin 64) (s : State) : Out := slotOpCmd 4 11 iss slot s
def execComputeMac (iss : Issuer) (slot : Fin 64) (s : State) : Out := slotOpCmd 5 15 iss slot s

/-- A slot operation ends: its output is written only on KEY_OK, within the issuer's partition (R40). -/
def opCompleteOp (cask op n : Nat) (s : State) : State :=
  let b := opBank s cask
  let k := kslot s n
  let stop := fun (c : Nat) (s : State) => updOp cask (fun b => { b with busy := none, input := [], code := c }) s
  match Config.slotOp op (slotType k) k.key b.input with
  | none => stop cKEY_TOKEN s
  | some out =>
    if inPartition s cask b.dst.toNat out.length then
      let s := { s with mem.dram := memWriteBytes s.mem.dram b.dst.toNat out }
      stop cKEY_OK { s with key.slots := Tbl.put s.key.slots n { k with uses := satInc k.uses 0xFFFF } }
    else stop cKEY_USAGE (denied 0x0B 2 b.dst.toNat 0xFF 0x0048 cask s)

/-- KEY_OP_COMPLETE. -/
def execKeyOpComplete (cask : Fin 64) (s : State) : Out :=
  .next (match (opBank s cask).busy with
    | some (op, n) => if isRun s .key then opCompleteOp cask op n s else s
    | none => s)

/-! ### Purge (R440) -/

/-- A re-key demand for the flow contexts that used a purged flow bud. -/
def rekeyFlows (gone : List CacheEnt) (s : State) : State :=
  let hit := fun (f : Flow) (n : Nat) => f.st != .free && gone.any (fun e =>
    match e.bud with
    | some (b, ctx) => b == budCode .flb1 &&
        ctx.take 4 == (if f.rx then d2 f.srcAddr ++ d2 f.srcFlow else d2 s.sys.address.toNat ++ d2 n)
    | none => false)
  { s with net.flows := Tbl.mapV s.net.flows (fun n f => if hit f n then { f with rekey := true } else f) }

/-- A session whose bud was purged is marked for re-key, and KEY_REKEY is recorded with the client address. -/
def rekeySession (e : CacheEnt) (s : State) : State :=
  match e.bud with
  | some (b, ctx) =>
    if b == budCode .ssb1 || b == budCode .svb1 then
      let a := leAt ctx 0 2
      let c := Tbl.at s.key.clients a {}
      let s := { s with key.clients := Tbl.put s.key.clients a { c with rekeyFrom := some (leAt ctx 2 4) } }
      record cKEY_REKEY e.cask (d2 a) s
    else s
  | none => s

/-- CACHE_PURGE_COMPLETE. -/
def execCachePurgeComplete (s : State) : Out :=
  .next (if s.key.purging && isRun s .key then
      let gone := s.key.cache.filter (·.stale)
      let s := { s with key.cache := s.key.cache.filter (fun e => !e.stale), key.purging := false,
                        key.purges := satInc s.key.purges 0xFFFF }
      gone.foldl (fun s e => rekeySession e s) (rekeyFlows gone s)
    else s)

/-! ### Unsealing and re-masking (R430, R431) -/

/-- Unsealing in progress is abandoned (Table 14.6). -/
def abandonUnseal (s : State) : State :=
  if s.key.window then record cKEY_UNSEAL_ABANDONED 0 [] { s with key.window := false, key.abandoned := true } else s

/-- Each present root's shares are combined in the key engine, which closes the unsealing window; the shares are then
re-masked. -/
def unsealOp (s : State) : State :=
  let c := cells s
  let comb := fun (p : BitVec 256 × BitVec 256) => p.1 ^^^ p.2
  remaskOp { s with key.factory := c.factory.map comb, key.site := c.site.map comb, key.service := c.service.map comb,
                    key.window := false }

/-- An armed monitor trips at its last sample. -/
def tripping (s : State) : Bool := (s.key.tripNow &&& s.key.armed) != 0

/-- UNSEAL: a monitor that trips inside the window abandons it (R444, R514). -/
def execUnseal (s : State) : Out :=
  .next (if !s.key.window then s
    else if tripping s then abandonUnseal s
    else if isRun s .key then unsealOp s else xchRefuse 15 .cellar .key s)

/-- REMASK: every 3,600 operating seconds. -/
def execRemask (s : State) : Out := .next (if s.key.remaskAt + 3600 ≤ s.cel.opSec then remaskOp s else s)

/-! ### Tamper (R441 to R444) -/

/-- A sampled monitor trips or no longer trips (CEL_TMP_STAT.NOW). -/
def setNow (m : Nat) (trips : Bool) (s : State) : State :=
  { s with key.tripNow := if bitOf s.key.tripNow m == trips then s.key.tripNow
                          else if trips then s.key.tripNow + 2 ^ m else s.key.tripNow - 2 ^ m }

/-- R442: a class A monitor trips. -/
def tripA (m : Nat) (s : State) : State :=
  abandonUnseal (record cKEY_TAMPER_A 0 (d1 m) { s with key.latch := s.key.latch ||| 2 ^ m })

/-- R443, Table 14.6: a class B monitor trips. -/
def tripB (m : Nat) (s : State) : State :=
  let running := logicUp s && !s.key.window
  let s := record cKEY_TAMPER_B 0 (d1 m) { s with key.latch := s.key.latch ||| 2 ^ m, key.erasedB := true }
  let s := abandonUnseal (endKeyOps cKEY_TAMPER (eraseRoot .site (eraseRoot .service s)))
  if running then requestReset 7 true s else s

/-- R441: a monitor's sample; an armed one that begins to trip, or whose latch is not set, trips. One that goes on tripping with its
latch set only abandons an unsealing in progress (R444, R514). -/
def sampleMonitor (m : Nat) (trips : Bool) (s : State) : State :=
  let seen := bitOf s.key.tripNow m
  let s := setNow m trips s
  if !(trips && bitOf s.key.armed m) then s
  else if bitOf s.key.latch m && seen then abandonUnseal s
  else if m < 2 then tripA m s else tripB m s

/-- MESH_SAMPLE (Table 14.5): MESH_0, MESH_1 or LIGHT. -/
def execMeshSample (mon : Fin 3) (same : Bool) (lux : Nat) (s : State) : Out :=
  .next (sampleMonitor (2 + mon.val) (if mon.val < 2 then !same else decide (20 < lux)) s)

/-- LID_OPEN: open for 10 ms. -/
def execLidOpen (lid : Fin 2) (heldMs : Nat) (s : State) : Out := .next (sampleMonitor lid (decide (10 ≤ heldMs)) s)

/-- What a glitch monitor sees lies outside its limits (Table 14.5); on VBAT only the crystal is watched. -/
def glitchTrips (s : State) : GlitchSense → Bool
  | .rail dev ns => decide (150 < dev.natAbs) && decide (20 ≤ ns)
  | .crystal hz => decide (40000 < hz)
  | .keyClock khz => !s.cel.battery && (decide (khz < 180000) || decide (220000 < khz))

/-- The monitor of a glitch. -/
def glitchMonitor : GlitchSense → Nat
  | .rail _ _ => 5
  | _ => 6

/-- GLITCH_DETECTED. -/
def execGlitchDetected (g : GlitchSense) (s : State) : Out := .next (sampleMonitor (glitchMonitor g) (glitchTrips s g) s)

/-! ### Abort and service sessions -/

/-- R452. -/
def keyAbortOp (s : State) : State := record cKEY_ABORTED 0 [] (endKeyOps cKEY_ABORTED s)

/-- KEY_ENGINE_ABORT. -/
def execKeyEngineAbort (iss : Issuer) (s : State) : Out := abortCmd iss 8 .key keyAbortOp s

/-- A refused handshake. -/
def refuseSession (cask why : Nat) (s : State) : State := record cUPD_SESSION cask (d1 0xFF ++ d1 cask ++ d1 why) s

/-- SERVICE_SESSION_OPEN (R458): the client certificate verifies under a slot with USAGE bit VERIFY, whose CASK gives the session's
cask; at most two sessions. -/
def execServiceSessionOpen (cert sig : List Byte) (s : State) : Out :=
  .next (
    if !logicUp s || s.pwr.shed then s
    else match verifySlot s 11 cert sig with
    | none => refuseSession 0 4 s
    | some k =>
      let c := slotCask k
      if c == 63 && s.key.lc != .service then refuseSession c 5 s
      else if c != 0 && c != 63 then refuseSession c 4 s
      else if 2 ≤ s.key.sessions.length then refuseSession c 6 s
      else
        let n := if Tbl.has s.key.sessions 0 then 1 else 0
        record cUPD_SESSION c (d1 n ++ d1 c ++ d1 0)
          { s with key.sessions := Tbl.put s.key.sessions n { cask := c, lastMsg := s.now },
                   net.sessions := Tbl.del s.net.sessions (0x10000 + n) })

/-- SERVICE_SESSION_TIMEOUT: 10 min without a message. -/
def execServiceSessionTimeout (n : Fin 2) (s : State) : Out :=
  .next (match Tbl.get? s.key.sessions n.val with
    | some x => if x.lastMsg + 600000000000 ≤ s.now then closeSession n 1 s else s
    | none => s)

end Sys2Proof.Machine
end

