-- ==== Sys2Proof/Machine/Recorder.lean ====
section
/-!
DEFINITION. Recorder.lean: the event recorder and its query banks (spec/12_cellar.md R384 to R394).
-/
namespace Sys2Proof.Machine

/-! ### Records -/

/-- Records the store holds (R384). -/
def storeSize : Nat := 16384

/-- Bytes 0 to 27 of a record (Table 12.2). -/
def recBody (r : EvRec) : List Byte :=
  toLe 2 r.code ++ toLe 2 (r.cask % 64 + r.flags * 64) ++ toLe 4 r.opSec ++ toLe 3 r.pcycle ++ [0] ++ toLe 2 r.rep ++ padTo 14 r.data

/-- A record with its CRC. -/
def sealRec (r : EvRec) : EvRec := { r with crc := crc32 (recBody r) }

/-- R387: CODE, cask and all 14 DATA bytes are equal. -/
def sameRec (r : EvRec) (e : Event) : Bool := r.code == e.code && r.cask == e.cask && r.data == padTo 14 e.data

/-! ### Derived stamps (R390) -/

/-- A time mark of a power cycle. -/
def isMark (pc : Nat) (r : EvRec) : Bool := r.code == cCEL_TIME_MARK && r.pcycle == pc && bitOf r.flags 3

/-- The mark that serves a record: the latest of its power cycle at or before it, or the earliest later one. -/
def markFor (store : List EvRec) (r : EvRec) : Option EvRec :=
  match (store.filter (fun m => isMark r.pcycle m && m.seq ≤ r.seq)).getLast? with
  | some m => some m
  | none => store.find? (fun m => isMark r.pcycle m && r.seq < m.seq)

/-- The derived stamp of a record. -/
def derived (store : List EvRec) (r : EvRec) : Option Int :=
  (markFor store r).map (fun m => (leAt m.data 0 8 : Int) + ((r.opSec : Int) - m.opSec) * 1000000000)

/-! ### Queries (R391, R392) -/

/-- Cask 0 reads every record, another cask those of its own. -/
def readable (cask : Nat) (r : EvRec) : Bool := cask == 0 || r.cask == cask

/-- The cask a bank belongs to. -/
def bankCask (k : Nat) : Nat := k / 4

/-- Bounds of a query's window. -/
def qFrom (b : QBank) : Nat := b.fromLo.toNat + b.fromHi.toNat * 2 ^ 32
def qTo (b : QBank) : Nat := b.toLo.toNat + b.toHi.toNat * 2 ^ 32

/-- A record matches a query. -/
def matchesQ (store : List EvRec) (k : Nat) (b : QBank) (r : EvRec) : Bool :=
  readable (bankCask k) r &&
  (match b.kind with
   | 1 => decide (qFrom b ≤ r.opSec ∧ r.opSec < qTo b)
   | 2 => match derived store r with
     | some t => decide ((qFrom b : Int) ≤ t ∧ t < (qTo b : Int))
     | none => false
   | _ => true)

/-- A readable record that a query of KIND 0b10 skips for want of a derived stamp. -/
def skipsQ (store : List EvRec) (k : Nat) (b : QBank) (r : EvRec) : Bool :=
  b.kind == 2 && readable (bankCask k) r && (derived store r).isNone

/-- Move the cursor to the oldest matching record from sequence number `from0` on; END when there is none. -/
def seek (k from0 : Nat) (s : State) : State :=
  let b := qBank s k
  let st := s.cel.store
  let l := st.filter (fun r => from0 ≤ r.seq)
  match l.find? (fun r => matchesQ st k b r) with
  | some r =>
    let n := (l.filter (fun x => x.seq < r.seq && skipsQ st k b x)).length
    updQBank k (fun b => { b with st := .opened, cur := r.seq, wait := true, ready := false,
                                  unstamped := satTo (b.unstamped + n) 255 }) s
  | none =>
    let n := (l.filter (fun x => skipsQ st k b x)).length
    updQBank k (fun b => { b with st := .ended, cur := s.cel.seq, wait := false, ready := false,
                                  unstamped := satTo (b.unstamped + n) 255 }) s

/-- QUERY_START: a START with KIND 0b11 is ignored. -/
def startQuery (iss : Issuer) (kind : Nat) (s : State) : State :=
  if kind == 3 then s
  else seek (bankKey iss) 0 (updQBank (bankKey iss) (fun b =>
    { b with kind := kind, lost := 0, unstamped := 0, crcBad := false, rc := [], stamp := 0 }) s)

def execQueryStart (iss : Issuer) (kind : Fin 4) (s : State) : Out := regCmd iss .cel 0x0210 (startQuery iss kind) s

/-- QUERY_NEXT. -/
def nextQuery (iss : Issuer) (s : State) : State :=
  let b := qBank s (bankKey iss)
  if b.st == .idle then s else seek (bankKey iss) (b.cur + 1) s

def execQueryNext (iss : Issuer) (s : State) : Out := regCmd iss .cel 0x0210 (nextQuery iss) s

/-- QUERY_END. -/
def execQueryEnd (iss : Issuer) (s : State) : Out :=
  regCmd iss .cel 0x0210 (updQBank (bankKey iss) (fun b => { b with st := .idle, wait := false, ready := false })) s

/-- A record as the query bank shows it; in prior mode OP_SEC shows the sequence number, with SEQ set (R393). -/
def shownRec (s : State) (r : EvRec) : List Byte :=
  let x := if s.sys.active then { r with opSec := r.seq, flags := r.flags ||| 1 } else r
  recBody x ++ toLe 4 r.crc.toNat

/-- QUERY_RECORD_READY: the record under the cursor is copied to the REC registers (R391). -/
def execQueryRecordReady (core : Fin 4) (cask : Fin 64) (s : State) : Out :=
  let k := cask.val * 4 + core.val
  let b := qBank s k
  .next (if b.st == .opened && b.wait then
    match s.cel.store.find? (fun r => r.seq == b.cur) with
    | some r =>
      let st := (derived s.cel.store r).getD 0
      updQBank k (fun b => { b with wait := false, ready := true, rc := shownRec s r, crcBad := r.crc != crc32 (recBody r),
                                    stamp := BitVec.ofInt 64 st }) s
    | none => s
  else s)

/-- R392: record `q` is about to be overwritten: every open query that has not read it loses it. -/
def overwriteQ (q : EvRec) (s : State) : State :=
  let st := s.cel.store
  { s with cel.banks := s.cel.banks.mapV (fun k b =>
      if b.st == .opened && matchesQ st k b q && (b.cur < q.seq || (b.cur == q.seq && b.wait)) then
        { b with lost := satInc b.lost 0xFFFF } else b) }

/-- Cursors that stood on an overwritten record not yet copied move to the oldest matching record that remains. -/
def reseek (q : Nat) (s : State) : State :=
  s.cel.banks.foldl (fun s e => if e.2.st == .opened && e.2.wait && e.2.cur == q then seek e.1 q s else s) s

/-! ### The queue and the store (R386, R387, R389) -/

/-- Records in the queue of 64 on the Cluster side: the Cellar's own ones wait at the Cellar (R386). -/
def queued (s : State) : Nat := s.cel.queue.countP (fun e => !celOwn e)

/-- EVENT_RECORD_QUEUED: an island's record enters the queue of 64, or is dropped and counted. -/
def execEventRecordQueued (s : State) : Out :=
  .next (match s.cel.battery, s.arising with
    | false, e :: r =>
      if celOwn e || queued s < 64 then { s with arising := r, cel.queue := s.cel.queue ++ [e] }
      else { s with arising := r, cel.owed := s.cel.owed + 1, cel.drops := satInc s.cel.drops max32 }
    | _, _ => s)

/-- The record of dropped records takes the room that has come, ahead of any other (R386). -/
def queueDropped (s : State) : State :=
  if 0 < s.cel.owed && queued s < 64 then
    { s with cel.queue := { code := cCEL_EVT_DROPPED, data := d4 s.cel.owed } :: s.cel.queue, cel.owed := 0 }
  else s

/-- Append a new record, overwriting the oldest when the store is full (R389). -/
def appendRec (e : Event) (s : State) : State :=
  let seq := s.cel.seq + 1
  let r := sealRec { seq := seq, code := e.code, cask := e.cask, flags := e.flags ||| (if s.cel.trusted then 0 else 4),
                     opSec := s.cel.opSec, pcycle := s.cel.pcycle, data := padTo 14 e.data }
  if s.cel.store.length < storeSize then { s with cel.store := s.cel.store ++ [r], cel.seq := seq }
  else match s.cel.store with
    | [] => s
    | q :: rest =>
      let s := overwriteQ q s
      let s := { s with cel.store := rest ++ [r], cel.seq := seq, cel.ovr := satInc s.cel.ovr max32 }
      reseek q.seq s

/-- Write a record, or merge it into the newest (R387). -/
def writeRec (e : Event) (s : State) : State :=
  match s.cel.store.getLast? with
  | some r =>
    if sameRec r e then
      let rep := satInc r.rep 0xFFFF
      let r' := sealRec { r with rep := rep, flags := if rep == 0xFFFF then r.flags ||| 16 else r.flags }
      { s with cel.store := s.cel.store.dropLast ++ [r'] }
    else appendRec e s
  | none => appendRec e s

/-- EVENT_RECORD_WRITE: the next queued record, at most one every 8 Cellar cycles. -/
def execEventRecordWrite (s : State) : Out :=
  let due : Bool := match s.cel.lastWrite with | some t => decide (t + 244140 ≤ s.now) | none => true
  .next (match s.cel.queue with
    | e :: r =>
      if due && !s.cel.battery then
        queueDropped (writeRec e { s with cel.queue := r, cel.lastWrite := some s.now })
      else s
    | [] => s)

/-- A time mark is due (R390). -/
def markDue (s : State) : Bool :=
  (trusted s 0 && s.cel.markCycle != some s.cel.pcycle) || (trusted s 0 && s.tim.markStep) ||
  (s.cel.markCycle == some s.cel.pcycle && s.cel.markSec + 86400 ≤ s.cel.opSec)

/-- CEL_TIME_MARK: DATA bytes 0 to 7 hold domain 0 at the start of the present operating second. -/
def execCelTimeMark (s : State) : Out :=
  .next (if !s.cel.battery && markDue s then
    let t := celNs s - (s.now - s.cel.secAt)
    appendRec { code := cCEL_TIME_MARK, flags := 8, data := toLe 8 t }
      { s with tim.markStep := false, cel.markCycle := some s.cel.pcycle, cel.markSec := s.cel.opSec }
  else s)

/-- CELLAR_ABORT (R394): every query ends. -/
def cellarAbortOp (s : State) : State :=
  record cCEL_ABORTED 0 []
    { s with cel.banks := s.cel.banks.mapV (fun _ b => { b with st := .idle, wait := false, ready := false }) }

def execCellarAbort (iss : Issuer) (s : State) : Out := abortCmd iss 9 .cellar cellarAbortOp s

end Sys2Proof.Machine
end

