-- ==== Sys2Proof/Machine/SafetyOps.lean ====
section
/-!
DEFINITION. SafetyOps.lean: the safety map, the input readings, the function state machines and the output pairs of the safety
island (spec/09_safety_island.md).
-/
namespace Sys2Proof.Machine

/-! ### Codes (Table 9.12) -/

def cSAF_OK : Nat := 0x0700
def cSAF_NO_KEYSWITCH : Nat := 0x0701
def cSAF_PASSWORD : Nat := 0x0702
def cSAF_PW_BLOCKED : Nat := 0x0703
def cSAF_NO_PENDING : Nat := 0x0704
def cSAF_DIGEST : Nat := 0x0705
def cSAF_BUSY : Nat := 0x0706
def cSAF_MAP_INVALID : Nat := 0x0707
def cSAF_FAULT_PRESENT : Nat := 0x0708
def cSAF_SESSION_ABORTED : Nat := 0x0709
def cSAF_SESSION_OPEN : Nat := 0x070A
def cSAF_TIMEOUT : Nat := 0x070B
def cSAF_FUNC_FAULT : Nat := 0x0710
def cSAF_FB_FAULT : Nat := 0x0713
def cSAF_DEGRADED : Nat := 0x0714
def cSAF_LOCKOUT : Nat := 0x0715
def cSAF_SWITCH_FAULT : Nat := 0x0716
def cSAF_CHANNEL_FAULT : Nat := 0x0717
def cSAF_MAP_ACCEPTED : Nat := 0x0718
def cSAF_PASSWORD_SET : Nat := 0x0719
def cSAF_LOCKOUT_RESET : Nat := 0x071A

/-! ### The safety map (R300, R301) -/

/-- A function record (Table 9.9). -/
def safFuncOf (b : List Byte) : SafFunc :=
  { func := leAt b 0 1, type := leAt b 1 1, pairA := leAt b 2 1, pairB := leAt b 3 1, coding := leAt b 4 1,
    tp1 := leAt b 5 1 % 16, tp2 := leAt b 5 1 / 16, resetIn := leAt b 6 1, flags := leAt b 7 1, discMs := leAt b 8 2,
    outMask := leAt b 10 1 }

/-- An output record (Table 9.10). -/
def safOutOf (b : List Byte) : SafOut :=
  { out := leAt b 0 1, flags := leAt b 1 1, fbIn := leAt b 2 1, fbOnMs := leAt b 4 2, fbOffMs := leAt b 6 2,
    degMin := leAt b 8 2 }

/-- The SAFETY section body as a map (Table 9.8). -/
def safMapOf (b : List Byte) : SafMap :=
  { vintage := w32 (leAt b 0 4), nfunc := leAt b 4 1,
    funcs := (List.range 8).map (fun i => safFuncOf (bytesAt b (32 + 32 * i) 32)),
    outs := (List.range 4).map (fun i => safOutOf (bytesAt b (288 + 16 * i) 16)),
    clean := allZero (bytesAt b 5 27) && (List.range 8).all (fun i => allZero (bytesAt b (32 + 32 * i + 11) 21)) &&
      (List.range 4).all (fun i => allZero (bytesAt b (288 + 16 * i + 3) 1) && allZero (bytesAt b (288 + 16 * i + 10) 6)),
    digest := Config.sha384 b }

/-- DISC_MS range and the value used for 0 (Table 9.1). -/
def discTable : Nat → Nat × Nat × Nat
  | 1 => (10, 3000, 500)
  | 2 => (10, 3000, 300)
  | 3 => (10, 500, 100)
  | _ => (10, 500, 100)

/-- DISC_MS of a function in ns. -/
def discNs (f : SafFunc) : Nat := (if f.discMs = 0 then (discTable f.type).2.2 else f.discMs) * 1000000

/-- Test pulses are required (Table 9.1). -/
def needsTp (t : Nat) : Bool := t == 1 || t == 2 || t == 3

/-- Every byte of an unused record but its FUNC is 0 (R300). -/
def unusedClean (f : SafFunc) : Bool :=
  f == { func := f.func, type := 0, pairA := 0, pairB := 0, coding := 0, tp1 := 0, tp2 := 0, resetIn := 0, flags := 0,
         discMs := 0, outMask := 0 }

/-- A function record at place `i` has every field in range (R300). -/
def funcFormOk (i : Nat) (f : SafFunc) : Bool :=
  if f.type == 0 then unusedClean f && (f.func == i || f.func == 0)
  else
    f.func == i && 1 ≤ f.type && f.type ≤ 4 && f.pairA ≤ 7 && (f.pairB ≤ 7 || f.pairB == 255) && f.coding ≤ 1 &&
    (f.type == 2 || f.coding == 0) && (f.tp1 ≤ 3 || f.tp1 == 15) && (f.tp2 ≤ 3 || f.tp2 == 15) &&
    (f.resetIn ≤ 15 || f.resetIn == 255) && f.flags ≤ 1 && f.outMask ≤ 15 &&
    (f.discMs == 0 || ((discTable f.type).1 ≤ f.discMs && f.discMs ≤ (discTable f.type).2.1))

/-- An output record at place `i` has every field in range (R300). -/
def outFormOk (i : Nat) (o : SafOut) : Bool :=
  o.out == i && o.flags ≤ 3 &&
  (!bitOf o.flags 0 || (o.fbIn ≤ 3 && 10 ≤ o.fbOnMs && o.fbOnMs ≤ 500 && 10 ≤ o.fbOffMs && o.fbOffMs ≤ 1000 && o.degMin ≤ 1440))

/-- The functions of a map in use, and its outputs in use. -/
def usedFuncs (m : SafMap) : List SafFunc := m.funcs.filter (fun f => f.type != 0)
def usedOuts (m : SafMap) : List SafOut := m.outs.filter (fun o => bitOf o.flags 0)

/-- The record-level checks of R300 but for the vintage and the variant. -/
def mapFormOk (m : SafMap) : Bool :=
  m.clean && m.nfunc == (usedFuncs m).length && (m.funcs.zipIdx.all (fun x => funcFormOk x.2 x.1)) &&
  (m.outs.zipIdx.all (fun x => outFormOk x.2 x.1))

/-- The input pairs of a function. -/
def pairsOf (f : SafFunc) : List Nat := if f.type == 3 then [f.pairA, f.pairB] else [f.pairA]

/-- No number occurs twice. -/
def noDup : List Nat → Bool
  | [] => true
  | x :: r => !r.contains x && noDup r

/-- The test pulses and the reset a type requires (Table 9.1, R301). -/
def typeRules (f : SafFunc) : Bool :=
  (if needsTp f.type then f.tp1 ≤ 3 && f.tp2 ≤ 3 && f.tp1 != f.tp2 else f.tp1 == 15 && f.tp2 == 15) &&
  (match f.type with
   | 1 => f.resetIn ≤ 15
   | 3 => f.resetIn == 255
   | _ => f.resetIn ≤ 15 || f.resetIn == 255) &&
  (if f.type == 3 then f.pairB ≤ 7 else f.pairB == 255) && (f.type == 2 || !bitOf f.flags 0)

/-- R301: the island's own checks before it accepts a map. -/
def mapOk (m : SafMap) : Bool :=
  let fs := usedFuncs m
  let outs := (usedOuts m).map (·.out)
  let inPairs := fs.flatMap pairsOf
  let resets := (fs.filter (fun f => f.resetIn != 255)).map (·.resetIn)
  mapFormOk m && noDup inPairs && resets.all (fun r => !inPairs.contains (r / 2)) && fs.all typeRules &&
  fs.all (fun f => (List.range 4).all (fun n => !bitOf f.outMask n || outs.contains n)) &&
  outs.all (fun n => fs.any (fun f => bitOf f.outMask n)) && noDup ((usedOuts m).map (·.fbIn))

/-- The accepted map's functions in use. -/
def safFuncs (s : State) : List SafFunc :=
  match s.saf.acc with
  | some m => usedFuncs m
  | none => []

/-- An accepted function by number. -/
def safFunc? (s : State) (n : Nat) : Option SafFunc := (safFuncs s).find? (fun f => f.func == n)

/-- The record of an output pair in use. -/
def safOut? (s : State) (n : Nat) : Option SafOut :=
  match s.saf.acc with
  | some m => (usedOuts m).find? (fun o => o.out == n)
  | none => none

/-- The functions that drive a pair. -/
def drivers (s : State) (n : Nat) : List SafFunc := (safFuncs s).filter (fun f => bitOf f.outMask n)

/-! ### Channels, pairs and the change log -/

/-- A channel. -/
def safCh (s : State) : SafChan → SafCh
  | .sp => s.saf.sp
  | .sl => s.saf.sl

/-- Change a channel. -/
def updCh (c : SafChan) (f : SafCh → SafCh) (s : State) : State :=
  match c with
  | .sp => { s with saf.sp := f s.saf.sp }
  | .sl => { s with saf.sl := f s.saf.sl }

/-- The other channel. -/
def otherCh : SafChan → SafChan
  | .sp => .sl
  | .sl => .sp

/-- A function's state machine in a channel. -/
def fnm (s : State) (c : SafChan) (n : Nat) : FnM := Tbl.at (safCh s c).fns n {}

/-- Set it. -/
def setFnm (c : SafChan) (n : Nat) (m : FnM) (s : State) : State :=
  updCh c (fun x => { x with fns := Tbl.put x.fns n m }) s

/-- An output pair. -/
def safPair (s : State) (n : Nat) : PairM := Tbl.at s.saf.pairs n {}

/-- Set it. -/
def setPair (n : Nat) (p : PairM) (s : State) : State := { s with saf.pairs := Tbl.put s.saf.pairs n p }

/-- Operating seconds of the island. -/
def safSecs (s : State) : Nat := (s.saf.opNs + (if s.saf.powered then s.now - s.saf.startAt else 0)) / 1000000000

/-- Vintage of the accepted map, 0 for none. -/
def accVintage (s : State) : Word :=
  match s.saf.acc with
  | some m => m.vintage
  | none => 0

/-- First four bytes of a map's digest. -/
def dig4 (m : Option SafMap) : List Byte :=
  match m with
  | some m => padTo 4 (m.digest.take 4)
  | none => [0, 0, 0, 0]

/-- R305: one change log entry, also recorded as an event with cask 0 that carries 14 bytes of it: subject, detail, sequence
number, vintage after and digest bytes (assumption 16). -/
def safLog (code subject detail : Nat) (before : Word) (dig : List Byte) (s : State) : State :=
  let e : SafLog :=
    { seq := s.saf.logSeq, secs := safSecs s, tool := if s.saf.session then s.saf.tool else 0, code := code, before := before,
      after := accVintage s, digest := dig, subject := subject, detail := detail }
  let l := s.saf.log ++ [e]
  let s := { s with saf.log := l.drop (l.length - 4096), saf.logSeq := s.saf.logSeq + 1 }
  record code 0 (d1 subject ++ d1 detail ++ d4 e.seq ++ d4 e.after.toNat ++ dig) s

/-- A log entry that changes no map. -/
def safNote (code subject detail : Nat) (s : State) : State :=
  safLog code subject detail (accVintage s) (dig4 s.saf.acc) s

/-! ### Inputs (R277 to R280, R284) -/

/-- An input level is an on-state from 15 V up (R277: a level between 5 V and 15 V reads as off). -/
def safLevel (mv : List Nat) (i : Nat) : Bool := 15000 ≤ nthD mv i 0

/-- The test pulse of an input: that of the function whose pair holds it. -/
def inputTp (s : State) (i : Nat) : Option Nat :=
  match (safFuncs s).find? (fun f => (pairsOf f).contains (i / 2)) with
  | some f => let t := if i % 2 = 0 then f.tp1 else f.tp2; if t ≤ 3 then some t else none
  | none => none

/-- R279: the end of the blanking window an input is in. -/
def blankEnd (s : State) (i : Nat) : Option Nat :=
  match inputTp s i with
  | some t =>
    let a := Tbl.at s.saf.tpAt t 0
    if Tbl.has s.saf.tpAt t && a ≤ s.now && s.now < a + 1000000 then some (a + 1000000) else none
  | none => none

/-- One sample of an input: a state is confirmed when two consecutive samples show it (R277). -/
def sampleIn (now : Nat) (v : Bool) (x : SafIn) : SafIn :=
  if x.last == some v && x.conf != some v then
    { x with last := some v, conf := some v, at0 := now, owed := none, ignored := x.ignored || (v && x.conf == none) }
  else { x with last := some v, owed := none }

/-- R284: an input on for 3,000 ms is ignored until it has been off for 100 ms. -/
def ageReset (now : Nat) (x : SafIn) : SafIn :=
  if x.conf == some true && x.at0 + 3000000000 ≤ now then { x with ignored := true }
  else if x.conf == some false && x.ignored && x.at0 + 100000000 ≤ now then { x with ignored := false }
  else x

/-- R284: a change of an input from `x` to `y` is a valid manual reset: it falls after an on-time in [50 ms, 3,000 ms). -/
def isPulse (x y : SafIn) : Bool :=
  x.conf == some true && y.conf == some false && !x.ignored && x.at0 + 50000000 ≤ y.at0 && y.at0 < x.at0 + 3000000000

/-- One channel samples its inputs: those due, and those whose blanking window has ended. Answers the inputs that gave a valid
manual reset. -/
def sampleInputs (c : SafChan) (mv : List Nat) (ordinary : Bool) (s : State) : State × List Nat :=
  (List.range 16).foldl (fun r i =>
    let x := ageReset r.1.now (Tbl.at (safCh r.1 c).ins i {})
    let due := ordinary || (match x.owed with | some t => decide (t ≤ r.1.now) | none => false : Bool)
    let y := match due, blankEnd r.1 i with
      | true, some t => { x with owed := some t }
      | true, none => sampleIn r.1.now (safLevel mv i) x
      | false, _ => x
    (updCh c (fun h => { h with ins := Tbl.put h.ins i y }) r.1, if isPulse x y then r.2 ++ [i] else r.2)) (s, [])

/-- Confirmed state of an input in a channel, and when it was confirmed. -/
def confOf (s : State) (c : SafChan) (i : Nat) : Option Bool := (Tbl.at (safCh s c).ins i {}).conf
def confAt (s : State) (c : SafChan) (i : Nat) : Nat := (Tbl.at (safCh s c).ins i {}).at0

/-- On-state of the two inputs of a function's pair (Table 9.1: an antivalent door's channel 2 is on at 0 V). -/
def onStates (s : State) (c : SafChan) (f : SafFunc) : Option Bool × Option Bool :=
  let b := confOf s c (2 * f.pairA + 1)
  (confOf s c (2 * f.pairA), if f.type == 2 && bitOf f.coding 0 then b.map (!·) else b)

/-- Distance of two times. -/
def apart (a b : Nat) : Nat := (a - b) + (b - a)

/-! ### Function state machines (Tables 9.2 and 9.3) -/

/-- A fresh state machine (R286, R283). -/
def freshFn (f : SafFunc) : FnM := { needOpen := f.type == 2 && bitOf f.flags 0 }

/-- A function enters FAULT in a channel; the island counts and logs it once while either channel stays in FAULT. -/
def fnFault (c : SafChan) (n cause : Nat) (s : State) : State :=
  let fresh := (fnm s (otherCh c) n).st != .fault
  let s := setFnm c n { (fnm s c n) with st := .fault, oneOn := none, oneOff := none, hold := none, interA := none, interB := none } s
  if fresh then
    safNote cSAF_FUNC_FAULT n cause
      { s with saf.faults := Tbl.put s.saf.faults n (satInc (Tbl.at s.saf.faults n 0) 0xFFFF),
               saf.causes := Tbl.put s.saf.causes n cause }
  else s

/-- The discrepancy window of Table 9.2 has passed. -/
def discLate (now disc : Nat) (m : FnM) : Bool :=
  (match m.oneOn with | some t => decide (t + disc ≤ now) | none => false : Bool) ||
  (match m.oneOff with | some (_, t) => decide (t + disc ≤ now) | none => false : Bool)

/-- The inputs of a FAULT function have been off together for 100 ms (Table 9.2), or both hands released so long (Table 9.3). -/
def faultCleared (s : State) (c : SafChan) (f : SafFunc) (m : FnM) : Bool :=
  if f.type == 3 then (match m.hold with | some t => decide (t + 100000000 ≤ s.now) | none => false : Bool)
  else
    let x := onStates s c f
    let ta := confAt s c (2 * f.pairA)
    let tb := confAt s c (2 * f.pairA + 1)
    x.1 == some false && x.2 == some false && apart ta tb < discNs f && max ta tb + 100000000 ≤ s.now

/-- Follow the inputs of a function of Table 9.2 that is not in FAULT, before its discrepancy window is judged. -/
def stdFollow (now : Nat) (a b : Option Bool) (m : FnM) : FnM :=
  let offA := a == some false
  let offB := b == some false
  let m := if offA && offB then { m with needOpen := false } else m
  let m := if (m.st == .run || m.st == .armed) && (offA || offB) then
      { m with st := .stopped, oneOff := if m.st == .run && offA != offB then some (offA, now) else none }
    else m
  if m.st != .stopped then m
  else
    let m := match m.oneOff with
      | some (second, _) => if (if second then offB else offA) then { m with oneOff := none } else m
      | none => m
    if (a == some true) == (b == some true) then
      (if a == some true then m else { m with oneOn := none })
    else if m.oneOn == none then { m with oneOn := some now } else m

/-- Both inputs on, the second within DISC_MS of the first, and START_TEST met (Table 9.2). -/
def stdReady (s : State) (c : SafChan) (f : SafFunc) (m : FnM) : Bool :=
  let x := onStates s c f
  m.st == .stopped && x.1 == some true && x.2 == some true && !m.needOpen && m.oneOff == none &&
  apart (confAt s c (2 * f.pairA)) (confAt s c (2 * f.pairA + 1)) < discNs f

/-- One evaluation of Table 9.2. -/
def stdEval (c : SafChan) (f : SafFunc) (s : State) : State :=
  let m := fnm s c f.func
  if m.st == .fault then
    (if faultCleared s c f m then setFnm c f.func { m with st := .stopped, oneOn := none, oneOff := none } s else s)
  else
    let x := onStates s c f
    let m := stdFollow s.now x.1 x.2 m
    let s := setFnm c f.func m s
    if discLate s.now (discNs f) m then fnFault c f.func 1 s
    else if stdReady s c f m then
      setFnm c f.func { m with st := if f.resetIn != 255 then .armed else .run, oneOn := none } s
    else s

/-- State of a hand (R285): ACTUATED, RELEASED or neither. -/
inductive Hand where
  | actuated | released | intermediate
  deriving DecidableEq, Repr

/-- The hand on an input pair: NO on channel 1, NC on channel 2. -/
def handOf (s : State) (c : SafChan) (p : Nat) : Hand :=
  match confOf s c (2 * p), confOf s c (2 * p + 1) with
  | some true, some false => .actuated
  | some false, some true => .released
  | _, _ => .intermediate

/-- How long a hand has been INTERMEDIATE. -/
def interNext (now : Nat) (h : Hand) (x : Option Nat) : Option Nat :=
  if h == .intermediate then (match x with | some t => some t | none => some now) else none

/-- An INTERMEDIATE condition has lasted for DISC_MS. -/
def interLate (now disc : Nat) (m : FnM) : Bool :=
  (match m.interA with | some t => decide (t + disc ≤ now) | none => false : Bool) ||
  (match m.interB with | some t => decide (t + disc ≤ now) | none => false : Bool)

/-- The synchronous window in ns (R285). -/
def syncNs : Nat := 500000000

/-- One transition of Table 9.3, outside FAULT. -/
def twoStep (now : Nat) (a b : Hand) (m : FnM) : FnM :=
  let both := a == .actuated && b == .actuated
  let rel := a == .released && b == .released
  let m := { m with released := m.released || rel }
  match m.st with
  | .stopped =>
    if m.released && (a == .actuated || b == .actuated) then
      { m with st := if both then .run else .wait, released := false, winAt := now, firstB := a != .actuated }
    else m
  | .wait =>
    if m.winAt + syncNs ≤ now then { m with st := .blocked }
    else if both then { m with st := .run }
    else if (if m.firstB then b else a) != .actuated then { m with st := .blocked }
    else m
  | .run => if both then m else { m with st := .blocked, released := rel }
  | .blocked => if rel then { m with st := .stopped, released := true } else m
  | _ => m

/-- One evaluation of Table 9.3. -/
def twoEval (c : SafChan) (f : SafFunc) (s : State) : State :=
  let a := handOf s c f.pairA
  let b := handOf s c f.pairB
  let m := fnm s c f.func
  if m.st == .fault then
    let rel := a == .released && b == .released
    let hold := if rel then (match m.hold with | some t => some t | none => some s.now) else none
    let m := { m with hold := hold }
    if faultCleared s c f m then setFnm c f.func { m with st := .stopped, released := true, hold := none } s
    else setFnm c f.func m s
  else
    let m := { m with interA := interNext s.now a m.interA, interB := interNext s.now b m.interB }
    if interLate s.now (discNs f) m then fnFault c f.func 3 (setFnm c f.func m s)
    else setFnm c f.func (twoStep s.now a b m) s

/-- Evaluate a function in a channel. -/
def fnEval (c : SafChan) (f : SafFunc) (s : State) : State := if f.type == 3 then twoEval c f s else stdEval c f s

/-! ### Output pairs (Table 9.4) -/

/-- The permit of a channel for a pair. -/
def permit (s : State) (c : SafChan) (n : Nat) : Bool :=
  let fs := drivers s n
  (safCh s c).on && !fs.isEmpty && fs.all (fun f => (fnm s c f.func).st == .run)

/-- R291, R292: the level of request-off line `n`, none while Trellis drives no line; a line without a route requests nothing. -/
def reqLine (s : State) (n : Nat) : Option Bool :=
  if !isRun s .trellis || s.pwr.resetOn then none
  else match s.trl.routes.find? (fun r => r.kind == 0x0B && r.index == n) with
    | some r =>
      match pt? s r.point with
      | some p => some (p.value.toNat % 2 == 1)
      | none => none
    | none => some false

/-- R292: a request-off in force for a pair. -/
def reqOffNow (s : State) (n : Nat) (o : SafOut) : Bool :=
  match reqLine s n with
  | some b => b
  | none => bitOf o.flags 1

/-- Some function of the pair has a RESET_IN. -/
def hasReset (s : State) (n : Nat) : Bool := (drivers s n).any (fun f => f.resetIn != 255)

/-- A pair is energised. -/
def energised (p : PairM) : Bool := p.mode == .on

/-- A pair enters LOCKOUT, both outputs off. -/
def lockout (n : Nat) (s : State) : State :=
  let p := safPair s n
  if p.mode == .lockout || p.mode == .unused then s
  else safNote cSAF_LOCKOUT n 0
    (setPair n { p with mode := .lockout, lockAfter := false, degEnd := none, gone := true } s)

/-- The feedback is wrong: FAULT, both outputs off at once (Table 9.4). -/
def fbFault (n : Nat) (s : State) : State :=
  safNote cSAF_FB_FAULT n 0 (setPair n { (safPair s n) with mode := .fault, fbHigh := none, gone := true } s)

/-- FB_n is not as the pair's state requires, its time having passed. -/
def fbWrong (now : Nat) (p : PairM) : Bool :=
  p.fbDue ≤ now && ((p.mode == .on && p.fb == some true) || (p.mode == .off && p.fb == some false))

/-- DEG_MIN in ns (R299). -/
def degNs (o : SafOut) : Nat := (if o.degMin = 0 then 60 else o.degMin) * 60000000000

/-- A fault that leaves one channel able to de-energise: DEGRADED, with its timer started (Table 9.4). -/
def degrade (n cause : Nat) (s : State) : State :=
  let p := safPair s n
  match safOut? s n with
  | some o =>
    if (p.mode == .on || p.mode == .off) && p.degEnd == none then
      safNote cSAF_DEGRADED n cause (setPair n { p with degEnd := some (s.now + degNs o) } s)
    else s
  | none => s

/-- The pairs in use. -/
def pairsUsed (s : State) : List Nat := (List.range 4).filter (fun n => (safOut? s n).isSome)

/-- One evaluation of a pair by Table 9.4, R292 and R293. -/
def pairEval (n : Nat) (s : State) : State :=
  match safOut? s n with
  | none => s
  | some o =>
    let req := reqOffNow s n o
    let p : PairM := { (safPair s n) with reqOff := req }
    let allow := permit s .sp n && permit s .sl n && !req
    let p : PairM := { p with needReset := p.needReset || (req && hasReset s n && (p.mode == .on || (p.mode == .off && p.gone))) }
    let p : PairM := match p.mode with
      | .on => if allow then p else { p with mode := .off, gone := true, fbDue := s.now + o.fbOffMs * 1000000 }
      | .off =>
        if allow && p.fb == some true && !p.needReset then { p with mode := .on, fbDue := s.now + o.fbOnMs * 1000000 } else p
      | _ => p
    let s := setPair n p s
    if fbWrong s.now p then fbFault n s else s

/-- Evaluate every pair. -/
def pairsEval (s : State) : State := (List.range 4).foldl (fun s n => pairEval n s) s

/-- A pair leaves FAULT: to OFF, or to LOCKOUT (Table 9.7). -/
def leaveFault (n : Nat) (s : State) : State :=
  let p := safPair s n
  if p.lockAfter then lockout n s else setPair n { p with mode := .off, gone := true, fbDue := s.now } s

/-- A valid manual reset on an input, seen by one channel (R284, R293, Table 9.4). -/
def manualReset (c : SafChan) (i : Nat) (s : State) : State :=
  let fs := (safFuncs s).filter (fun f => f.resetIn == i)
  let s := fs.foldl (fun s f =>
    let m := fnm s c f.func
    if m.st == .armed then setFnm c f.func { m with st := .run } s else s) s
  (pairsUsed s).foldl (fun s n =>
    if fs.any (fun f => bitOf f.outMask n) then
      let s := setPair n { (safPair s n) with needReset := false } s
      let p := safPair s n
      if p.mode == .fault && (match p.fbHigh with | some t => decide (t + 1000000000 ≤ s.now) | none => false : Bool) then
        leaveFault n s else s
    else s) s

/-- Take the feedback levels of a sample. -/
def takeFb (mv : List Nat) (s : State) : State :=
  (pairsUsed s).foldl (fun s n =>
    match safOut? s n with
    | some o =>
      let v := safLevel mv o.fbIn
      let p := safPair s n
      setPair n { p with fb := some v, fbHigh := if v then (match p.fbHigh with | some t => some t | none => some s.now) else none } s
    | none => s) s

/-- A sample of a channel (R277): inputs, functions, manual resets, pairs. -/
def channelSample (c : SafChan) (mv fb : List Nat) (period : Nat) (s : State) : State :=
  let h := safCh s c
  let ordinary : Bool := h.nextAt ≤ s.now
  let s := if ordinary then updCh c (fun h => { h with nextAt := s.now + period }) s else s
  let r := sampleInputs c mv ordinary s
  let s := takeFb fb r.1
  let s := (safFuncs s).foldl (fun s f => fnEval c f s) s
  pairsEval (r.2.foldl (fun s i => manualReset c i s) s)

/-! ### Energised outputs and registers -/

/-- A channel's switch of output `o` (0 A, 1 B) of pair `n` is closed (R272); a stuck switch stays closed. -/
def switchClosed (s : State) (c : SafChan) (n o : Nat) : Bool :=
  let p := safPair s n
  bitOf p.stuck (2 * o + (match c with | .sp => 0 | .sl => 1)) || (p.mode == .on && permit s c n)

/-- An output is energised only while both switches are closed (R272); outputs are fitted on FLO-946-MS only (R7). -/
def outOn (s : State) (n o : Nat) : Bool :=
  s.saf.powered && s.sys.variant == .ms && switchClosed s .sp n o && switchClosed s .sl n o

/-- STATE of a function (SAF_FUNC_n_STAT): the safety processor's, or the safety logic's while the processor is stopped. -/
def fnCode (s : State) (n : Nat) : Nat :=
  match safFunc? s n with
  | none => 0
  | some _ =>
    match (fnm s (if s.saf.sp.on || !s.saf.sl.on then .sp else .sl) n).st with
    | .stopped => 1 | .armed => 2 | .run => 3 | .fault => 4 | .wait => 5 | .blocked => 6

/-- STATE of a pair (SAF_OUT_n_STAT). -/
def pairCode (p : PairM) : Nat :=
  match p.mode with
  | .unused => 0
  | .off => if p.degEnd == none then 1 else 4
  | .on => if p.degEnd == none then 2 else 3
  | .fault => 5
  | .lockout => 6

/-- DEG_LEFT in s. -/
def degLeft (s : State) (n : Nat) : Nat :=
  match (safPair s n).degEnd with
  | some t => (t - s.now + 999999999) / 1000000000
  | none => 0

/-- Confirmed inputs of a channel as a mask. -/
def inputMask (s : State) (c : SafChan) : Nat := maskOf 16 (fun i => confOf s c i == some true)

/-- OPEN is blocked (R304). -/
def pwBlocked (s : State) : Bool := 3 ≤ s.saf.pwFails

/-- SAF_ISL_STAT but for MIRROR_STALE. -/
def islStat (s : State) : Word :=
  packW [(8, b2n (s.sys.variant == .ms)), (6, b2n (pwBlocked s)), (5, b2n (s.saf.acc == none)), (4, b2n (s.saf.pend != none)),
    (3, b2n s.saf.keyLow), (2, b2n s.saf.session), (1, b2n (s.saf.sl.on && s.saf.sl.ok)), (0, b2n (s.saf.sp.on && s.saf.sp.ok))]

/-- The words of the SAF window as the island would report them now. -/
def safWords (s : State) : Tbl Word :=
  [(0x0000, islStat s), (0x0004, accVintage s),
   (0x0008, match s.saf.pend with | some m => m.vintage | none => 0), (0x000C, w32 s.saf.logSeq),
   (0x0010, packW [(16, inputMask s .sl), (0, inputMask s .sp)])] ++
  (List.range 8).map (fun n => (0x0100 + 4 * n,
    match safFunc? s n with
    | some f => packW [(16, Tbl.at s.saf.faults n 0), (8, Tbl.at s.saf.causes n 0), (4, f.type), (0, fnCode s n)]
    | none => 0)) ++
  (List.range 4).flatMap (fun n =>
    let p := safPair s n
    [(0x0200 + 8 * n, packW [(16, p.stuck), (7, b2n (p.fb == some true)), (6, b2n p.reqOff), (5, b2n (outOn s n 1)), (4, b2n (outOn s n 0)),
        (0, pairCode p)]),
     (0x0204 + 8 * n, w32 (degLeft s n))])

/-- A read of the SAF window answers the mirror (R39). -/
def safMirror (s : State) (off : Nat) : Word :=
  let w := Tbl.at s.saf.mirror off 0
  if off == 0 then (if s.saf.stale then w ||| 0x80 else w) else w

/-- Value of a status point by SRC_INDEX (R306). -/
def statusValue (s : State) (i : Nat) : Option DWord :=
  if i < 16 then some (BitVec.ofNat 64 (b2n (confOf s .sp i == some true)))
  else if 0x100 ≤ i && i < 0x108 then some (BitVec.ofNat 64 (fnCode s (i - 0x100)))
  else if 0x200 ≤ i && i < 0x204 then some (BitVec.ofNat 64 (pairCode (safPair s (i - 0x200))))
  else if 0x280 ≤ i && i < 0x284 then some (BitVec.ofNat 64 (degLeft s (i - 0x280)))
  else if i == 0x300 then some (BitVec.ofNat 64 (islStat s).toNat)
  else none

end Sys2Proof.Machine
end

