-- ==== Sys2Proof/Machine/SafetyCmds.lean ====
section
/-!
DEFINITION. SafetyCmds.lean: the commands of the safety island (spec/09_safety_island.md): samples and timeouts of the two channels,
test pulses, feedback, switch tests, channel faults, supply, the configuration session and the status report.
-/
namespace Sys2Proof.Machine

/-! ### Samples and timeouts -/

/-- A channel works: the island is powered and the channel runs. -/
def chRuns (s : State) (c : SafChan) : Bool := s.saf.powered && (safCh s c).on

/-- SP_SAMPLE (R277): every 2.000 ms of the processor's oscillator; displaced samples are taken when their window has ended. -/
def execSpSample (si fb : List Nat) (s : State) : Out :=
  .next (if chRuns s .sp then channelSample .sp si fb 2000000 s else s)

/-- SL_SAMPLE (R277): every 16,000 RC cycles, at the earliest 2 ms less 15 % after the last. -/
def execSlSample (si fb : List Nat) (s : State) : Out :=
  .next (if chRuns s .sl then channelSample .sl si fb 1700000 s else s)

/-- DISCREPANCY_TIMEOUT (R282). -/
def execDiscrepancyTimeout (ch : SafChan) (func : Fin 8) (s : State) : Out :=
  .next (match safFunc? s func with
    | some f =>
      let m := fnm s ch func
      if chRuns s ch && f.type != 3 && m.st == .stopped && discLate s.now (discNs f) m then
        pairsEval (fnFault ch func 1 s)
      else s
    | none => s)

/-- INTERMEDIATE_TIMEOUT (R285). -/
def execIntermediateTimeout (ch : SafChan) (func : Fin 8) (s : State) : Out :=
  .next (match safFunc? s func with
    | some f =>
      let m := fnm s ch func
      if chRuns s ch && f.type == 3 && m.st != .fault && interLate s.now (discNs f) m then
        pairsEval (fnFault ch func 3 s)
      else s
    | none => s)

/-- SYNC_WINDOW_END (R285): the window ending in WAIT makes the control BLOCKED. -/
def execSyncWindowEnd (ch : SafChan) (func : Fin 8) (s : State) : Out :=
  let m := fnm s ch func
  .next (if chRuns s ch && m.st == .wait && m.winAt + syncNs ≤ s.now then setFnm ch func { m with st := .blocked } s else s)

/-- FUNCTION_FAULT_CLEAR (Tables 9.2 and 9.3). -/
def execFunctionFaultClear (ch : SafChan) (func : Fin 8) (s : State) : Out :=
  .next (match safFunc? s func with
    | some f =>
      let m := fnm s ch func
      if chRuns s ch && m.st == .fault && faultCleared s ch f m then
        setFnm ch func { m with st := .stopped, oneOn := none, oneOff := none, hold := none, released := f.type == 3 } s
      else s
    | none => s)

/-! ### Test pulses (R278, R279) -/

/-- Number, from 1, of the 10 ms period of test pulse `t` that has begun; 0 before its first drop. -/
def tpPeriodNow (s : State) (t : Nat) : Nat := (s.now - s.saf.startAt + 10000000 - 2500000 * t) / 10000000

/-- TEST_PULSE_DROP: once in each 10 ms period of the processor's clock, at the pulse's offset. -/
def execTestPulseDrop (tp : Fin 4) (s : State) : Out :=
  let k := tpPeriodNow s tp
  .next (if chRuns s .sp && Tbl.at s.saf.tpPeriod tp 0 < k then
    { s with saf.tpPeriod := Tbl.put s.saf.tpPeriod tp k, saf.tpAt := Tbl.put s.saf.tpAt tp s.now,
             saf.tpChecked := Tbl.put s.saf.tpChecked tp false }
    else s)

/-- R278: a test pulse output carries 0 V for 400 us of its drop, otherwise 24 V from FSUP. -/
def tpLow (s : State) (t : Nat) : Bool :=
  Tbl.has s.saf.tpAt t && decide (Tbl.at s.saf.tpAt t 0 ≤ s.now ∧ s.now < Tbl.at s.saf.tpAt t 0 + 400000)

/-- A check sample of one channel: an input of test pulse `t` that reads high puts its function in FAULT with cause TP. -/
def checkCh (c : SafChan) (t : Nat) (mv : List Nat) (s : State) : State :=
  if !(safCh s c).on then s
  else (safFuncs s).foldl (fun s f =>
    let hit := (pairsOf f).any (fun p => (f.tp1 == t && safLevel mv (2 * p)) || (f.tp2 == t && safLevel mv (2 * p + 1)))
    if needsTp f.type && hit && (fnm s c f.func).st != .fault then fnFault c f.func 2 s else s) s

/-- TP_CHECK_SAMPLE (R279): 300 us after the start of the drop, inside its blanking window. -/
def execTpCheckSample (tp : Fin 4) (spMv slMv : List Nat) (s : State) : Out :=
  let a := Tbl.at s.saf.tpAt tp 0
  .next (if s.saf.powered && Tbl.at s.saf.tpChecked tp true == false && a + 300000 ≤ s.now && s.now < a + 1000000 then
    let s := { s with saf.tpChecked := Tbl.put s.saf.tpChecked tp true }
    pairsEval (checkCh .sl tp slMv (checkCh .sp tp spMv s))
  else s)

/-! ### Cross link (R274, R298) -/

/-- A fault of a channel that still runs: every pair in use becomes DEGRADED (Table 9.7). -/
def channelFault (c : SafChan) (cause : Nat) (s : State) : State :=
  if (safCh s c).ok then
    let s := updCh c (fun h => { h with ok := false }) s
    let s := record cSAF_CHANNEL_FAULT 0 (d1 (match c with | .sp => 0 | .sl => 1) ++ d1 cause) s
    (pairsUsed s).foldl (fun s n => degrade n 2 s) s
  else s

/-- R274: permits of a pair that disagree for 3 exchanges after every discrepancy time has passed put each differing function in
FAULT with cause CROSS. -/
def crossPair (n : Nat) (s : State) : State :=
  let p := safPair s n
  if permit s .sp n == permit s .sl n then setPair n { p with disSince := none, disCount := 0 } s
  else
    let since := p.disSince.getD s.now
    let disc := (drivers s n).foldl (fun a f => max a (discNs f)) 0
    let count := if since + disc ≤ s.now then p.disCount + 1 else 0
    if 3 ≤ count then
      let s := setPair n { p with disSince := none, disCount := 0 } s
      (drivers s n).foldl (fun s f =>
        if ((fnm s .sp f.func).st == .run) != ((fnm s .sl f.func).st == .run) then
          fnFault .sl f.func 4 (fnFault .sp f.func 4 s) else s) s
    else setPair n { p with disSince := some since, disCount := count } s

/-- CROSS_LINK_EXCHANGE: permits are compared, and the processor measures the logic's clock, which must lie within 8 MHz ±15 %. -/
def execCrossLinkExchange (rcKhz : Nat) (s : State) : Out :=
  .next (if chRuns s .sp && chRuns s .sl then
    let s := { s with saf.exchAt := s.now }
    let s := if rcKhz < 6800 || 9200 < rcKhz then channelFault .sl 2 s else updCh .sl (fun h => { h with ok := true }) s
    pairsEval ((pairsUsed s).foldl (fun s n => crossPair n s) s)
  else s)

/-- SAFETY_WINDOW_WATCHDOG (R298): no exchange came by 2.5 ms after the last, or one came before 1.5 ms; the window is judged as
expired. -/
def execSafetyWindowWatchdog (s : State) : Out :=
  .next (if chRuns s .sp && chRuns s .sl && (s.now < s.saf.exchAt + 1500000 || s.saf.exchAt + 2500000 ≤ s.now) then
    channelFault .sp 3 s else s)

/-! ### Pairs -/

/-- REQUEST_OFF (R292): a change of the line acts in the same evaluation as a permit 0. -/
def execRequestOff (pair : Fin 4) (s : State) : Out :=
  .next (if chRuns s .sp || chRuns s .sl then pairEval pair s else s)

/-- FB_TIMEOUT (R288). -/
def execFbTimeout (pair : Fin 4) (s : State) : Out :=
  .next (if s.saf.powered && fbWrong s.now (safPair s pair) then fbFault pair s else s)

/-- Table 9.7: what a stuck switch makes of its pair. -/
def stuckResult (n : Nat) (s : State) : State :=
  let p := safPair s n
  let a := p.stuck % 4
  let b := p.stuck / 4 % 4
  let s := safNote cSAF_SWITCH_FAULT n p.stuck s
  if a == 3 || b == 3 || (a != 0 && b != 0) then
    if p.mode == .lockout then s
    else setPair n { p with mode := .fault, lockAfter := true, fbHigh := none, gone := true } s
  else degrade n 1 s

/-- SWITCH_TEST (R289): the next switch in rotation; one that fails is stuck, one that passes is not. -/
def execSwitchTest (pair : Fin 4) (passed : Bool) (s : State) : Out :=
  let p := safPair s pair
  .next (if s.saf.powered && p.mode != .unused then
    let was := bitOf p.stuck p.turn
    let stuck := if passed then (if was then p.stuck - 2 ^ p.turn else p.stuck) else p.stuck ||| 2 ^ p.turn
    let s := setPair pair { p with stuck := stuck, turn := (p.turn + 1) % 4 } s
    if !passed && !was then stuckResult pair s else s
  else s)

/-- DEGRADED_TIMER_EXPIRY (R299): at DEG_MIN, or from 0.75 of it when the safety logic times it. -/
def execDegradedTimerExpiry (pair : Fin 4) (s : State) : Out :=
  .next (match safOut? s pair, (safPair s pair).degEnd with
    | some o, some t =>
      let early := if s.saf.sp.on && s.saf.sp.ok then 0 else degNs o / 4
      if s.saf.powered && t ≤ s.now + early then lockout pair s else s
    | _, _ => s)

/-! ### Channels and supply -/

/-- SAFETY_SELF_TEST (R298): the result of the safety processor's hourly self-test. -/
def execSafetySelfTest (passed : Bool) (s : State) : Out :=
  .next (if chRuns s .sp then
    (if passed then updCh .sp (fun h => { h with ok := true }) s else channelFault .sp 1 s)
  else s)

/-- SAFETY_CHANNEL_STOP (R273, Table 9.7): the channel's switches open, and every pair in use is in LOCKOUT. -/
def execSafetyChannelStop (ch : SafChan) (s : State) : Out :=
  .next (if chRuns s ch then
    let s := updCh ch (fun h => { h with on := false, ok := false }) s
    (pairsUsed s).foldl (fun s n => lockout n s) s
  else s)

/-- A channel begins afresh: no reading confirmed, every function in STOPPED (R286). -/
def freshChannel (c : SafChan) (s : State) : State :=
  updCh c (fun _ => { on := true, ok := true, nextAt := s.now, fns := (safFuncs s).map (fun f => (f.func, freshFn f)) }) s

/-- SAFETY_CHANNEL_RESTART (R276): that channel only. -/
def execSafetyChannelRestart (ch : SafChan) (s : State) : Out :=
  .next (if s.saf.powered then pairsEval (freshChannel ch s) else s)

/-- A pair at the start of the island: its lockout and its degraded timer are kept (R275, R299). -/
def startPair (s : State) (used : Bool) (p : PairM) : PairM :=
  { mode := if !used then .unused else if p.mode == .lockout || p.lockAfter then .lockout else .off,
    fbDue := s.now, turn := p.turn, degEnd := p.degKept.map (fun r => s.now + r) }

/-- SAFETY_SUPPLY_START (R478). -/
def execSafetySupplyStart (millivolts heldUs : Nat) (s : State) : Out :=
  .next (if !s.saf.powered && 9000 ≤ millivolts && 10000 ≤ heldUs then
    let s := { s with saf.powered := true, saf.startAt := s.now, saf.exchAt := s.now,
                      saf.tpPeriod := [], saf.tpAt := [], saf.tpChecked := [],
                      saf.pairs := (List.range 4).map (fun n => (n, startPair s (safOut? s n).isSome (safPair s n))) }
    freshChannel .sl (freshChannel .sp s)
  else s)

/-- The island loses its supply (R478): both channels stop with every output off; the store keeps each pair's degraded and lockout
state. -/
def safetySupplyOff (s : State) : State :=
  { s with saf.powered := false, saf.opNs := s.saf.opNs + (s.now - s.saf.startAt), saf.session := false,
           saf.sp := {}, saf.sl := {},
           saf.pairs := s.saf.pairs.mapV (fun _ p =>
             { p with mode := if p.mode == .on then .off else p.mode,
                      degKept := p.degEnd.map (fun t => t - s.now), degEnd := none }) }

/-- SAFETY_SUPPLY_STOP. -/
def execSafetySupplyStop (millivolts : Nat) (s : State) : Out :=
  .next (if s.saf.powered && millivolts < 7500 then safetySupplyOff s else s)

/-! ### Maps and sessions -/

/-- R303: a delivered section with the accepted map's digest empties the pending store; another becomes the pending map. -/
def deliverMap (body : List Byte) (s : State) : State :=
  let m := safMapOf body
  let same := match s.saf.acc with | some a => a.digest == m.digest | none => false
  { s with saf.pend := if same then none else some m, saf.mapLane := none }

/-- PENDING_MAP_DELIVERY (R275): the section on the map lane is written to the pending store, which no channel reads. -/
def execPendingMapDelivery (s : State) : Out :=
  .next (match s.saf.mapLane with
    | some b => deliverMap b s
    | none => s)

/-- Answer a session message with its code. -/
def safAnswer (code : Nat) (s : State) : State := { s with reply := .code code }

/-- R304: the salted hash of a password. -/
def pwHashOf (salt pw : List Byte) : List Byte := Config.sha384 (salt ++ pw)

/-- The password is the stored one; in factory state any is. -/
def pwRight (s : State) (pw : List Byte) : Bool :=
  match s.saf.pwHash with
  | some h => pwHashOf s.saf.salt pw == h
  | none => true

/-- OPEN on an open lane with no session (R302, R304). -/
def openOp (pw : List Byte) (time : DWord) (s : State) : State :=
  let told (code : Nat) (s : State) : State :=
    let t := s.saf.tool
    let was := s.saf.session
    let s := safNote code 1 0 { s with saf.tool := time, saf.session := true }
    safAnswer code { s with saf.session := was, saf.tool := t }
  if pwBlocked s then told cSAF_PW_BLOCKED s
  else if pwRight s pw then
    let s := { s with saf.pwFails := 0, saf.session := true, saf.lastMsg := s.now, saf.tool := time }
    safAnswer cSAF_OK (safNote cSAF_OK 1 0 s)
  else
    let s := { s with saf.pwFails := s.saf.pwFails + 1, saf.blockTill := s.now + 900000000000 }
    told cSAF_PASSWORD s

/-- The functions a new map changes (R303). -/
def changedFuncs (s : State) (m : SafMap) : List Nat :=
  (List.range 8).filter (fun n => (safFuncs s).find? (fun f => f.func == n) != (usedFuncs m).find? (fun f => f.func == n))

/-- The pairs whose functions a new map changes. -/
def changedPairs (s : State) (m : SafMap) : List Nat :=
  let ch := changedFuncs s m
  (List.range 4).filter (fun n => (safFuncs s ++ usedFuncs m).any (fun f => ch.contains f.func && bitOf f.outMask n))

/-- A pair may change under a new map: it is OFF, FAULT, LOCKOUT or unused. -/
def pairIdle (p : PairM) : Bool :=
  match p.mode with
  | .on => false
  | .off => p.degEnd == none
  | _ => true

/-- R303: the pending map becomes the accepted map; each changed function enters STOPPED. -/
def installMap (m : SafMap) (s : State) : State :=
  let ch := changedFuncs s m
  let fns (h : SafCh) : SafCh := { h with fns := (usedFuncs m).map (fun f =>
    (f.func, if ch.contains f.func then freshFn f else Tbl.at h.fns f.func (freshFn f))) }
  let used (n : Nat) : Bool := (usedOuts m).any (fun o => o.out == n)
  let pair (n : Nat) : PairM :=
    let p := safPair s n
    if !used n then { p with mode := .unused, degEnd := none, gone := false, needReset := false, lockAfter := false }
    else if p.mode == .unused then { p with mode := .off, fb := none, fbDue := s.now }
    else if (safOut? s n).map (·.fbIn) != ((usedOuts m).find? (fun o => o.out == n)).map (·.fbIn) then { p with fb := none, fbHigh := none }
    else p
  { s with saf.acc := some m, saf.pend := none, saf.faults := [], saf.causes := [],
           saf.sp := fns s.saf.sp, saf.sl := fns s.saf.sl, saf.pairs := (List.range 4).map (fun n => (n, pair n)) }

/-- ACCEPT in an open session (Table 9.11). -/
def acceptOp (digest : List Byte) (s : State) : State :=
  match s.saf.pend with
  | none => safAnswer cSAF_NO_PENDING (safNote cSAF_NO_PENDING 3 0 s)
  | some m =>
    let before := accVintage s
    let told (code : Nat) (s : State) : State := safAnswer code (safLog code 3 0 before (dig4 (some m)) s)
    if digest != dig4 (some m) then told cSAF_DIGEST s
    else if !mapOk m || (s.sys.variant != .ms && !(usedOuts m).isEmpty) then told cSAF_MAP_INVALID s
    else if !(changedPairs s m).all (fun n => pairIdle (safPair s n)) then told cSAF_BUSY s
    else
      let s := safLog cSAF_MAP_ACCEPTED 3 0 before (dig4 (some m)) (installMap m s)
      safAnswer cSAF_OK (pairsEval s)

/-- 10 to 32 printable ASCII characters (R304). -/
def pwFormat (pw : List Byte) : Bool :=
  10 ≤ pw.length && pw.length ≤ 32 && pw.all (fun b => 0x20 ≤ b.toNat && b.toNat ≤ 0x7E)

/-- A new 16-byte salt: its bytes are free (assumption 3). -/
def newSalt (s : State) : List Byte := toLe 8 (freeNow s).toNat ++ toLe 8 (freeNow (bumpFree s)).toNat

/-- SET_PASSWORD in an open session. -/
def setPasswordOp (old new : List Byte) (s : State) : State :=
  if pwRight s old && pwFormat new then
    let salt := newSalt s
    let s := bumpFree (bumpFree s)
    safAnswer cSAF_OK (safNote cSAF_PASSWORD_SET 4 0
      { s with saf.salt := salt, saf.pwHash := some (pwHashOf salt new) })
  else safAnswer cSAF_PASSWORD (safNote cSAF_PASSWORD 4 0 s)

/-- The island still finds a fault of the pair (R299). -/
def faultPresent (s : State) (n : Nat) : Bool :=
  (safPair s n).stuck != 0 || !(s.saf.sp.on && s.saf.sp.ok) || !(s.saf.sl.on && s.saf.sl.ok)

/-- RESET_LOCKOUT acts on a pair in LOCKOUT, in its degraded form, or in FAULT when its functions all reset automatically. -/
def lockoutActs (s : State) (n : Nat) : Bool :=
  let p := safPair s n
  match p.mode with
  | .lockout => true
  | .fault => !hasReset s n
  | .on | .off => p.degEnd != none
  | .unused => false

/-- RESET_LOCKOUT in an open session (R299, Table 9.4). -/
def resetLockoutOp (n : Nat) (s : State) : State :=
  if !lockoutActs s n then safAnswer cSAF_OK (safNote cSAF_LOCKOUT_RESET 5 n s)
  else if faultPresent s n then safAnswer cSAF_FAULT_PRESENT (safNote cSAF_FAULT_PRESENT 5 n s)
  else
    let p := safPair s n
    safAnswer cSAF_OK (safNote cSAF_LOCKOUT_RESET 5 n
      (setPair n { p with mode := .off, degEnd := none, lockAfter := false, gone := true, fbDue := s.now } s))

/-- Bytes of a change log entry in the order R305 lists them (assumption 16). -/
def logBytes (e : SafLog) : List Byte :=
  toLe 4 e.seq ++ toLe 4 e.secs ++ toLe 8 e.tool.toNat ++ toLe 2 e.code ++ toLe 4 e.before.toNat ++ toLe 4 e.after.toNat ++
  padTo 4 e.digest ++ toLe 1 e.subject ++ toLe 1 e.detail

/-- READ_LOG: up to 32 entries from a sequence number. -/
def readLogOp (start : Nat) (s : State) : State :=
  { s with reply := .bytes (((s.saf.log.filter (fun e => start ≤ e.seq)).take 32).flatMap logBytes) }

/-- SHOW_PENDING. -/
def showPendingOp (s : State) : State :=
  match s.saf.pend with
  | some m => { s with reply := .bytes (toLe 4 m.vintage.toNat ++ dig4 (some m)) }
  | none => safAnswer cSAF_NO_PENDING s

/-- CLOSE. -/
def closeOp (s : State) : State :=
  let s := safNote cSAF_OK 7 0 s
  safAnswer cSAF_OK { s with saf.session := false }

/-- A message inside an open session. -/
def sessionMsg (m : SafMsg) (s : State) : State :=
  match m with
  | .openSession _ _ => safAnswer cSAF_SESSION_OPEN (safNote cSAF_SESSION_OPEN 1 0 s)
  | .setPassword o n => setPasswordOp o n s
  | .showPending => showPendingOp s
  | .accept d => acceptOp d s
  | .resetLockout p => resetLockoutOp p s
  | .readLog n => readLogOp n s
  | .close => closeOp s

/-- A message is SET_PASSWORD. -/
def isSetPassword : SafMsg → Bool
  | .setPassword _ _ => true
  | _ => false

/-- A session message on the configuration lane (R38, R302, R304): nothing passes while SAF_CFG_N is high, only OPEN while no
session is open, and only SET_PASSWORD in factory state. -/
def safMessage (m : SafMsg) (s : State) : State :=
  if !s.saf.powered then { s with reply := .none }
  else if !s.saf.keyLow then safAnswer cSAF_NO_KEYSWITCH s
  else if !s.saf.session then
    match m with
    | .openSession pw t => openOp pw t s
    | _ => { s with reply := .none }
  else
    let s := { s with saf.lastMsg := s.now }
    match m with
    | .openSession _ _ => sessionMsg m s
    | _ => if s.saf.pwHash == none && !isSetPassword m then safAnswer cSAF_PASSWORD s else sessionMsg m s

def execOpenSession (password : List Byte) (time : DWord) (s : State) : Out := .next (safMessage (.openSession password time) s)
def execShowPending (s : State) : Out := .next (safMessage .showPending s)
def execAcceptMap (digest : List Byte) (s : State) : Out := .next (safMessage (.accept digest) s)
def execSetPassword (old new : List Byte) (s : State) : Out := .next (safMessage (.setPassword old new) s)
def execResetLockout (pair : Fin 4) (s : State) : Out := .next (safMessage (.resetLockout pair) s)
def execReadLog (start : Nat) (s : State) : Out := .next (safMessage (.readLog start) s)
def execCloseSession (s : State) : Out := .next (safMessage .close s)

/-- SAF_TIMEOUT (R302): 10 min without a message. -/
def execSafTimeout (s : State) : Out :=
  .next (if s.saf.powered && s.saf.session && s.saf.lastMsg + 600000000000 ≤ s.now then
    record cSAF_TIMEOUT 0 [] { s with saf.session := false } else s)

/-- SAF_CFG_N reads as high from 5 V up (R277). -/
def keyHigh (mv : Nat) : Bool := 5000 ≤ mv

/-- KEYSWITCH_RELEASE (R38): the island disables its end of the lane and ends any session. -/
def execKeyswitchRelease (millivolts : Nat) (s : State) : Out :=
  .next (if keyHigh millivolts then { s with saf.keyLow := false, saf.session := false } else s)

/-- KEYSWITCH_ENGAGE (R38). -/
def execKeyswitchEngage (millivolts : Nat) (s : State) : Out :=
  .next (if keyHigh millivolts then s else { s with saf.keyLow := true })

/-- PW_BLOCK_EXPIRY (R304): 15 min after the third wrong password. -/
def execPwBlockExpiry (s : State) : Out :=
  .next (if pwBlocked s && s.saf.blockTill ≤ s.now then { s with saf.pwFails := 0 } else s)

/-- What the abort line does in the island (R294). -/
def abortLine (s : State) : State :=
  if s.saf.powered && s.saf.session then record cSAF_SESSION_ABORTED 0 [] { s with saf.session := false } else s

/-- SAFETY_ISLAND_ABORT (R294, R496): the line is driven whatever the island's state; DONE follows the island's report. -/
def execSafetyIslandAbort (iss : Issuer) (s : State) : Out :=
  regCmd iss .sys 0x0030 (fun s =>
    if !isOwner iss then s
    else
      let s := abortLine s
      if bitOf s.pwr.abortPending 5 then s
      else { s with pwr.abortPending := s.pwr.abortPending ||| 2 ^ 5, pwr.abortSafAt := s.now }) s

/-! ### Status (R306) -/

/-- SRC_KIND of the status points. -/
def kSafety : Nat := 0x0B

/-- Write the status points. -/
def writeStatus (s : State) : State :=
  s.trl.points.foldl (fun s e =>
    if e.2.srcKind == kSafety then
      match statusValue s e.2.srcIndex with
      | some v => putEntry e.1 pvSafety v qGood (ptStamp s e.1) s
      | none => s
    else s) s

/-- SAFETY_STATUS_REPORT: over HC13 on every change and at least every 100 ms; the report also sets DONE of a pending abort. -/
def statusReportOp (s : State) : State :=
  if isRun s .trellis then
    let s := setIsl .safp (if s.saf.sp.on then .run else .off) (setIsl .safl (if s.saf.sl.on then .run else .off) s)
    let s := if bitOf s.pwr.abortPending 5 then abortDone 5 s else s
    writeStatus { s with saf.mirror := safWords s, saf.mirrorAt := s.now, saf.stale := false }
  else xchRefuse 13 .safp .trellis s

def execSafetyStatusReport (s : State) : Out :=
  .next (if s.saf.powered && (s.saf.stale || s.saf.mirror != safWords s || s.saf.mirrorAt + 100000000 ≤ s.now ||
      bitOf s.pwr.abortPending 5) then statusReportOp s else s)

/-- MIRROR_STALE: 300 ms without a refresh; the status points are lost (R92). -/
def execMirrorStale (s : State) : Out :=
  .next (if !s.saf.stale && s.saf.mirrorAt + 300000000 ≤ s.now then
    let s := { s with saf.stale := true }
    substituteAll ((s.trl.points.filter (fun e => e.2.srcKind == kSafety && (statusValue s e.2.srcIndex).isSome)).map (·.1)) s
  else s)

end Sys2Proof.Machine
end

