-- ==== Sys2Proof/Machine/Sections.lean ====
section
/-!
DEFINITION. Sections.lean: the section bodies of a structure image as tables, with their record-level checks
(spec/02_structure_image_and_casks.md R53, R55 and the chapters of the sections' consumers).
-/
namespace Sys2Proof.Machine

/-- The tables an image and its committed sets define. -/
structure Tabs where
  casks : Tbl CaskRec := []
  caskBody : List Byte := []
  windows : Tbl (List WindowRec) := []
  cells : Tbl CellRec := []
  points : Tbl Point := []
  routes : List Route := []
  progs : Tbl ProgRec := []
  tasks : Tbl TaskProg := []
  loops : Tbl LoopRec := []
  chans : Tbl ChRec := []
  elems : Tbl ElemRec := []
  pulses : Tbl PulseRec := []
  trfInit : Nat := 0
  can : Tbl CanRec := []
  frames : Tbl FrameRec := []
  wins : Tbl WinRec := []
  fbStns : Tbl Stn := []
  bauds : List Nat := [0, 0]
  devs : Tbl DaliDev := []
  readers : Tbl ReaderRec := []
  doors : Tbl DoorRec := []
  scheds : Tbl Sched := []
  quotas : Tbl Nat := []
  lift : Option LiftRec := none
  bsStns : Tbl Stn := []
  ringId : Nat := 0
  fibre : Bool := false
  ringQNs : Nat := 0
  ptpNs : Nat := 0
  nodes : Tbl Node := []
  flows : List (Nat × Flow) := []
  /-- Requested time and destination point of each static flow, in record order. -/
  reqs : List FlowReq := []
  adStns : Tbl Stn := []
  time : Tbl TimeRec := []
  vint : Tbl VintRec := []
  power : PowerRec := {}
  safety : Option (List Byte) := none
  deriving DecidableEq, Repr

/-! ### Helpers -/

/-- Whole records of `n` bytes; none when the length does not fit. -/
def records (n : Nat) (b : List Byte) : Option (List (List Byte)) :=
  if b.length % n = 0 then some (chunks (b.length / n) n b) else none

/-- Parse every record; none when one is malformed. -/
def parseAll {α : Type} (f : List Byte → Option α) : List (List Byte) → Option (List α)
  | [] => some []
  | r :: rs => match f r, parseAll f rs with
    | some x, some xs => some (x :: xs)
    | _, _ => none

/-- A condition of a parse. -/
def want (c : Bool) : Option Unit := if c then some () else none

/-- Keys rise strictly, as a body in increasing order has them. -/
def rising : List Nat → Bool
  | [] => true
  | [_] => true
  | a :: b :: r => a < b && rising (b :: r)

/-- Merge entries over a table, or take the listed ones out (Table 2.2, REMOVE). -/
def mergeTbl {α : Type} (remove : Bool) (t new : Tbl α) : Tbl α :=
  if remove then new.foldl (fun t e => Tbl.del t e.1) t else new.foldl (fun t e => Tbl.put t e.1 e.2) t

/-- A point index, or none for 0xFFFF. -/
def optPt (n : Nat) : Option Nat := if n = 0xFFFF then none else some n

/-- A binary32 field. -/
def f32At (b : List Byte) (o : Nat) : F32 := w32 (leAt b o 4)

/-- The 32-bit words of a byte string. -/
def wordsOf (b : List Byte) : List Word := (chunks (b.length / 4) 4 b).map (fun w => w32 (ofLe w))

def f32zero : F32 := 0
def f32one : F32 := 0x3F800000

/-! ### CASKS and WINDOWS (R68, R75) -/

/-- A cask entry (Table 2.8). -/
def caskOf (b : List Byte) : CaskRec :=
  let f := leAt b 1 1
  { enabled := bitOf f 0, hasPartition := bitOf f 1, grantOut := bitOf f 2, liftCalls := bitOf f 3,
    tasks := leAt b 2 1, pgeShare := leAt b 3 1, instKib := leAt b 4 4, retainKib := leAt b 8 2, partMib := leAt b 10 2,
    points := leAt b 12 2, loopSlots := leAt b 14 2, flows := leAt b 16 2, cells := leAt b 18 2, elements := leAt b 20 1,
    canShare := leAt b 21 1, beShare := leAt b 22 1, cpuShare := leAt b 23 1 }

/-- The CASKS body: 64 entries in order; the entry of cask 63 is judged under R69. -/
def parseCasks (b : List Byte) (t : Tabs) : Option Tabs := do
  let rs ← records 32 b
  want (rs.length == 64)
  want (rs.zipIdx.all (fun r => r.2 == 63 || (leAt r.1 0 1 == r.2 && leAt r.1 1 1 < 16 &&
    allZero (bytesAt r.1 24 8))))
  pure { t with casks := rs.zipIdx.map (fun r => (r.2, caskOf r.1)), caskBody := b }

/-- A window entry (R75). -/
def windowOf (b : List Byte) : WindowRec :=
  { block := leAt b 0 1, canRead := bitOf (leAt b 1 1) 0, canWrite := bitOf (leAt b 1 1) 1, first := leAt b 2 2, last := leAt b 4 2 }

/-- The WINDOWS body, merged by cask. -/
def parseWindows (remove : Bool) (b : List Byte) (t : Tabs) : Option Tabs := do
  let ps := Config.windowParts b
  want (ps.all (fun e => e.1 < 63 && e.2.length == 8 && leAt e.2 0 1 ≤ 13 && leAt e.2 1 1 < 4 && allZero (bytesAt e.2 6 2)))
  let new : Tbl (List WindowRec) := (List.range 63).filterMap (fun c =>
    let es := ps.filter (fun e => e.1 == c)
    if es.isEmpty then none else some (c, es.map (fun e => windowOf e.2)))
  pure { t with windows := mergeTbl remove t.windows new }

/-! ### CELLS, POINTS and ROUTES (spec/03 R83, R94 to R97) -/

/-- Modes of Table 3.1. -/
def cellModeOf : Nat → Option CellMode
  | 0 => some .off | 1 => some .di | 2 => some .count | 3 => some .aiV | 4 => some .aiMa | 5 => some .pt1000
  | 6 => some .ntc10k | 7 => some .res | 8 => some .doOut | 9 => some .pwm | 10 => some .aoV | 11 => some .aoMa | _ => none

/-- Scan periods in ms, in the order of R83. -/
def scanPeriods : List Nat := [1, 2, 5, 10, 20, 50, 100, 200, 500, 1000]

/-- A CELLS record at place `n` (Table 3.8, R97). -/
def cellRecOf (n : Nat) (b : List Byte) : Option CellRec := do
  let mode ← cellModeOf (leAt b 1 1)
  let period ← scanPeriods[leAt b 2 1]?
  let opts := leAt b 5 1
  let rb := leAt b 8 2
  let rc : CellRec :=
    { mode := mode, periodMs := period, filterMs := leAt b 4 1, loopPower := bitOf opts 0, wireCheck := bitOf opts 1,
      point := leAt b 6 2, rbPoint := optPt rb, iStart := leAt b 10 2, tStart := leAt b 12 2, phaseMs := leAt b 14 2 }
  let canStart := isOutput mode || (mode == .aiMa && rc.loopPower)
  want (leAt b 0 1 == n && leAt b 3 1 == 0 && opts < 4 && rc.phaseMs < period)
  want (!canStart || (1 ≤ rc.tStart && rc.tStart ≤ 10000))
  want (isOutput mode || mode == .off || rb == 0xFFFF)
  pure rc

/-- The CELLS body: 256 records in cell order. A set holds them all; with REMOVE the cells are OFF. -/
def parseCells (remove : Bool) (b : List Byte) (t : Tabs) : Option Tabs := do
  let rs ← records 16 b
  want (rs.length == 256)
  let cs ← parseAll (fun r => cellRecOf r.2 r.1) rs.zipIdx
  pure { t with cells := if remove then [] else cs.zipIdx.map (fun c => (c.2, c.1)) }
where
  parseAll (f : List Byte × Nat → Option CellRec) : List (List Byte × Nat) → Option (List CellRec)
    | [] => some []
    | r :: rs => match f r, parseAll f rs with
      | some x, some xs => some (x :: xs)
      | _, _ => none

/-- A POINTS record (Table 3.7). -/
def pointOf (b : List Byte) : Option (Nat × Point) := do
  let kind := leAt b 4 1
  let flags := leAt b 5 1
  want (leAt b 0 2 < 16384 && 1 ≤ leAt b 2 1 && leAt b 2 1 ≤ 6 && leAt b 3 1 < 64 && 1 ≤ kind && kind ≤ 0x0B && flags < 8 &&
    allZero (bytesAt b 24 8))
  pure (leAt b 0 2,
    { type := leAt b 2 1, cask := leAt b 3 1, srcKind := kind, domain := fld flags 0 2, onBad := bitOf flags 2,
      srcIndex := leAt b 6 2, subst := BitVec.ofNat 64 (leAt b 8 8), grant := BitVec.ofNat 64 (leAt b 16 8),
      value := BitVec.ofNat 64 (leAt b 8 8), quality := qSubst, prov := pvTrellis, src := leAt b 6 2 })

/-- The POINTS body, in increasing INDEX. -/
def parsePoints (remove : Bool) (b : List Byte) (t : Tabs) : Option Tabs := do
  let rs ← records 32 b
  let ps ← parseAll pointOf rs
  want (rising (ps.map (·.1)))
  pure { t with points := mergeTbl remove t.points ps }

/-- A ROUTES record (R96). -/
def routeOf (b : List Byte) : Option Route := do
  want (leAt b 0 2 < 16384 && 1 ≤ leAt b 2 1 && leAt b 2 1 ≤ 0x0B && leAt b 3 1 == 0 && allZero (bytesAt b 6 2))
  pure { point := leAt b 0 2, kind := leAt b 2 1, index := leAt b 4 2 }

/-- The ROUTES body, added to the routes in force or taken out of them. -/
def parseRoutes (remove : Bool) (b : List Byte) (t : Tabs) : Option Tabs := do
  let rs ← records 8 b
  let new ← parseAll routeOf rs
  let kept := t.routes.filter (fun r => !new.contains r)
  pure { t with routes := if remove then kept else kept ++ new }

/-! ### PROGRAM (spec/04 Tables 4.2, 4.3, 4.7; spec/05 R149) -/

/-- A cask program record (Table 4.3). -/
def progOf (body b : List Byte) : Option (Nat × ProgRec) := do
  want (b.length == 16 && leAt b 0 1 < 63 && leAt b 1 1 ≤ 2 && leAt b 2 2 ≤ 3600 && leAt b 4 4 % 64 == 0)
  pure (leAt b 0 1,
    { startMode := leAt b 1 1, holdLimitS := leAt b 2 2, globalBytes := leAt b 4 4, codeOff := leAt b 8 4, codeLen := leAt b 12 4,
      globalInit := Config.globalInit body (leAt b 0 1) })

/-- A task record (Table 4.2). -/
def taskOf (b : List Byte) : Option TaskRec := do
  let r : TaskRec :=
    { cask := leAt b 0 1, task := leAt b 1 1, priority := leAt b 2 1, trigger := leAt b 3 1, periodMs := leAt b 4 2,
      phaseMs := leAt b 6 2, wdogMs := leAt b 8 2, trigPoint := leAt b 10 2, entry := leAt b 12 4 }
  want (b.length == 32 && allZero (bytesAt b 16 16) && r.cask < 63 && r.priority ≤ 15 && r.wdogMs ≤ 60000)
  want (if r.task < 8 then r.trigger == 0 && 1 ≤ r.periodMs && r.periodMs ≤ 10000 && r.phaseMs < r.periodMs && r.trigPoint == 0xFFFF
        else if r.task < 24 then
          1 ≤ r.trigger && r.trigger ≤ 4 && r.periodMs == 0 && r.phaseMs == 0 &&
          (if r.trigger ≤ 2 then r.trigPoint < 16384 else r.trigPoint == 0xFFFF)
        else r.task == 31 && r.trigger == 0 && r.periodMs == 0 && r.phaseMs == 0 && r.trigPoint == 0xFFFF)
  pure r

/-- An instance record with its header (Table 4.7). -/
def instOf (b : List Byte) : InstRec :=
  let p := Config.instParts b
  let h := p.2.1
  { off := p.1, typeHash := BitVec.ofNat 64 (leAt h 0 8), pathId := BitVec.ofNat 64 (leAt h 8 8), size := leAt h 16 4,
    retOff := if leAt h 20 4 = 0xFFFFFFFF then none else some (leAt h 20 4), retSize := leAt h 24 2,
    init := p.2.2.1, retInit := p.2.2.2.1, routine := p.2.2.2.2 }

/-- The PROGRAM body, merged by cask and task. A set keeps GLOBAL_BYTES of a cask and may only add at the end of its globals (R149). -/
def parseProgram (whole remove : Bool) (b : List Byte) (t : Tabs) : Option Tabs := do
  let (pb, tb, ib) ← Config.programParts b
  let ps ← parseAll (progOf b) pb
  let ts ← parseAll taskOf tb
  want (whole || remove || ps.all (fun p => match Tbl.get? t.progs p.1 with
    | some q => q.globalBytes == p.2.globalBytes && q.globalInit.length ≤ p.2.globalInit.length
    | none => true))
  let new : Tbl TaskProg := ts.map (fun r =>
    let n := mtn r.cask r.task
    (n, { rc := r, insts := (ib.filter (fun e => e.1 == n)).map (fun e => instOf e.2), code := Config.taskCode b n }))
  pure { t with progs := mergeTbl remove t.progs ps, tasks := mergeTbl remove t.tasks new }

/-! ### LOOPS (spec/06 Tables 6.2 to 6.5, R168, R169) -/

/-- Laws by code, with the size of a parameter set in bytes. -/
def lawOf : Nat → Option (Law × Nat)
  | 1 => some (.pid, 32) | 2 => some (.leadlag, 16) | 3 => some (.ss4, 160) | 4 => some (.onoff, 16) | 5 => some (.ramp, 16) | _ => none

/-- Breakpoints rise strictly. -/
def breaksRise : List F32 → Bool
  | [] => true
  | [_] => true
  | a :: b :: r => F32.lt a b && breaksRise (b :: r)

/-- One parameter set keeps its zero bytes and codes (Table 6.5). -/
def setOk (l : Law) (b : List Byte) : Bool :=
  match l with
  | .pid => allZero (bytesAt b 24 8)
  | .leadlag => F32.lt 0 (f32At b 8) && leAt b 12 1 ≤ 2 && allZero (bytesAt b 13 3)
  | .ss4 => allZero (bytesAt b 152 8)
  | .onoff => true
  | .ramp => allZero (bytesAt b 8 8)

/-- The slot record at the head of a byte string, with what follows it. -/
def loopOf (b : List Byte) : Option (LoopRec × List Byte) := do
  let (law, sz) ← lawOf (leAt b 3 1)
  let fl := leAt b 26 2
  let s := b.drop 64
  let q := b.drop 112
  let nreg := leAt s 0 1
  let sets := (List.range nreg).map (fun i => bytesAt b (144 + sz * i) sz)
  let r : LoopRec :=
    { slot := leAt b 0 2, cask := leAt b 2 1, law := law, periodMs := leAt b 4 4, phaseMs := leAt b 8 4,
      pv := optPt (leAt b 12 2), sp := optPt (leAt b 14 2), out := leAt b 16 2, ff := optPt (leAt b 18 2),
      sched := optPt (leAt b 20 2), track := optPt (leAt b 22 2), fe := optPt (leAt b 24 2),
      direct := bitOf fl 0, linear := bitOf fl 1, schedSrc := fld fl 2 2, feManual := fld fl 4 2 == 1, rtEn := bitOf fl 6,
      startMode := fld fl 7 2, pvLo := f32At b 28, pvHi := f32At b 32, outLo := f32At b 36, outHi := f32At b 40, uLo := f32At b 44,
      uHi := f32At b 48, duMax := f32At b 52, feLimit := f32At b 56, feTimeMs := leAt b 60 4, nreg := nreg, hyst := f32At s 4,
      breaks := (List.range 8).map (fun i => f32At s (8 + 4 * i)), rtStepMin := f32At q 0, rtMaxChg := f32At q 4,
      rtKpMin := f32At q 8, rtKpMax := f32At q 12, rtKiMin := f32At q 16, rtKiMax := f32At q 20, rtPerDay := leAt q 24 1,
      rtLambda := leAt q 25 1, rtOvsMax := leAt q 26 1, rtDevMax := leAt q 27 1, sets := sets.map wordsOf }
  want (144 + sz * nreg ≤ b.length && 1 ≤ nreg && nreg ≤ 8)
  want (r.slot < 1024 && r.cask < 64 && 1 ≤ r.periodMs && r.periodMs ≤ 3600000 && r.phaseMs < r.periodMs)
  want ((r.out :: (r.pv.toList ++ r.sp.toList ++ r.ff.toList ++ r.sched.toList ++ r.track.toList ++ r.fe.toList)).all (· < 16384))
  want ((r.pv.isSome || law == .ramp) && (r.schedSrc == 0 || r.sched.isNone) && fld fl 4 2 ≤ 1 && r.startMode ≤ 2 && fld fl 9 7 == 0)
  want (F32.lt r.pvLo r.pvHi && F32.lt r.outLo r.outHi && F32.le 0 r.uLo && F32.lt r.uLo r.uHi && F32.le r.uHi f32one)
  want (F32.le 0 r.duMax && F32.le 0 r.feLimit && 1 ≤ r.feTimeMs && r.feTimeMs ≤ 86400000)
  want (allZero (bytesAt s 1 3) && allZero (bytesAt s 40 8) && F32.le 0 r.hyst && breaksRise (r.breaks.take nreg) &&
    (r.breaks.drop nreg).all (· == 0))
  want (allZero (bytesAt q 28 4) && F32.le 0 r.rtMaxChg && F32.le r.rtMaxChg 0x3F000000 && r.rtPerDay ≤ 8 && 5 ≤ r.rtLambda &&
    r.rtLambda ≤ 40)
  want (sets.all (setOk law) && !(law == .ss4 && r.linear) && (!r.rtEn || law == .pid))
  pure (r, b.drop (144 + sz * nreg))

/-- The slot records of a body; the first argument bounds their number. -/
def loopsOf : Nat → List Byte → Option (List LoopRec)
  | 0, b => if b.isEmpty then some [] else none
  | n + 1, b =>
    if b.isEmpty then some []
    else match loopOf b with
      | some (r, rest) => (loopsOf n rest).map (fun rs => r :: rs)
      | none => none

/-- A point names a writing source. -/
def namesSrc (t : Tabs) (i kind idx : Nat) : Bool :=
  match Tbl.get? t.points i with
  | some p => p.srcKind == kind && p.srcIndex == idx
  | none => false

/-- The LOOPS body, merged by slot; OUT_POINT and FE_POINT name the slot in the POINTS as they will stand (R169). -/
def parseLoops (remove : Bool) (b : List Byte) (t : Tabs) : Option Tabs := do
  let rs ← loopsOf 1024 b
  want (rising (rs.map (·.slot)))
  want (remove || rs.all (fun r => namesSrc t r.out 6 r.slot &&
    (match r.fe with
     | some i => namesSrc t i 6 r.slot && (match Tbl.get? t.points i with | some p => p.type == 1 | none => false)
     | none => true)))
  pure { t with loops := mergeTbl remove t.loops (rs.map (fun r => (r.slot, r))) }

/-! ### METER (spec/07 R218, R244) -/

/-- A channel record at place `n` (Table 7.9). -/
def chRecOf (n : Nat) (b : List Byte) : Option ChRec := do
  let f := leAt b 1 1
  let r : ChRec :=
    { used := bitOf f 0, invert := bitOf f 1, autoGain := bitOf f 2, gain := fld f 3 2, phase := sOf 16 (leAt b 2 2),
      scale := f32At b 4, cal := f32At b 8 }
  want (leAt b 0 1 == n && f < 32 && allZero (bytesAt b 12 4))
  want (!r.used || (F32.lt 0 r.scale && F32.fin r.scale && F32.le 0x3F666666 r.cal && F32.le r.cal 0x3F8CCCCD))
  want (n < 48 || (!r.autoGain && r.gain == 0))
  pure r

/-- An element record (Table 7.10). -/
def elemOf (b : List Byte) : Option (Nat × ElemRec) := do
  let v := leAt b 3 1
  let f := leAt b 7 1
  let r : ElemRec :=
    { cask := leAt b 1 1, scheme := leAt b 2 1, sysB := bitOf v 0, phase := fld v 2 2,
      iCh := [leAt b 4 1, leAt b 5 1, leAt b 6 1], netMode := fld f 0 2, trfGroup := fld f 2 2, demandMin := leAt b 8 1,
      pubMs := leAt b 10 2, pointBase := leAt b 12 2, pointMask := leAt b 14 2, un := f32At b 16, inA := f32At b 20,
      sStart := f32At b 24, vMin := f32At b 28 }
  let used := r.iCh.map (· != 0xFF)
  want (leAt b 0 1 < 48 && r.cask < 64 && (v == 0 || v == 1 || (r.scheme == 1 && v < 16 && !bitOf v 1 && fld v 2 2 ≤ 2)))
  want (r.netMode ≤ 1 && f < 16 && leAt b 9 1 == 0 && [1, 5, 10, 15, 30, 60].contains r.demandMin)
  want (100 ≤ r.pubMs && r.pubMs ≤ 10000 && r.pubMs % 100 == 0 && 60000 % r.pubMs == 0 && r.pointMask < 0x4000)
  want (F32.lt 0 r.un && F32.lt 0 r.inA && F32.le 0 r.sStart && F32.le 0 r.vMin && allZero (bytesAt b 32 32))
  want (r.iCh.all (fun c => c < 48 || c == 0xFF))
  want (match r.scheme with
    | 1 => (used.filter (fun u => u)).length == 1
    | 2 => used == [true, false, true]
    | 3 => used == [true, true, true]
    | _ => false)
  pure (leAt b 0 1, r)

/-- Pulse records (Table 7.11): the record at place `n`. -/
def pulseOf (n : Nat) (b : List Byte) : Option PulseRec := do
  let r : PulseRec := { mode := leAt b 1 1, elem := leAt b 2 1, qty := leAt b 3 1, k := leAt b 4 4, widthUs := leAt b 8 4 }
  want (leAt b 0 1 == n && r.mode ≤ 3 && allZero (bytesAt b 12 4))
  want (r.mode == 0 || (r.elem < 48 && 1 ≤ r.k && r.k ≤ 100000 && 40 ≤ r.widthUs && r.widthUs ≤ 500000))
  want (if r.mode == 1 then r.qty ≤ 7 else r.qty == 0)
  pure r

/-- TYPE of a quantity's points (Table 7.8). -/
def elemPointType (bit : Nat) : Nat := if bit ≤ 8 then 3 else if bit ≤ 12 then 5 else 1

/-- The points an element names have the right source and TYPE (R218). -/
def elemPointsOk (t : Tabs) (n : Nat) (r : ElemRec) : Bool :=
  (pointLayout r).zipIdx.all (fun x => namesSrc t (r.pointBase + x.2) 7 (32 * n + x.2) &&
    (match Tbl.get? t.points (r.pointBase + x.2) with
     | some p => p.type == elemPointType x.1.1
     | none => false))

/-- MODE 0x02 only on an even output whose neighbour is in MODE 0x03 (Table 7.11). -/
def pulsesOk (ps : Tbl PulseRec) : Bool :=
  ps.all (fun e => match e.2.mode with
    | 2 => e.1 % 2 == 0 && (Tbl.at ps (e.1 + 1) {}).mode == 3
    | 3 => e.1 % 2 == 1 && (Tbl.at ps (e.1 - 1) {}).mode == 2
    | _ => true)

/-- The METER body: elements merged by number; channels and pulses are there whole. -/
def parseMeter (remove : Bool) (b : List Byte) (t : Tabs) : Option Tabs := do
  let n := leAt b 0 1
  let trf := leAt b 2 2
  want (b.length == 16 + 54 * 16 + 64 * n + 8 * 16 && leAt b 1 1 == 0 && allZero (bytesAt b 4 12))
  want ((List.range 4).all (fun g => fld trf (4 * g) 4 ≤ 7))
  let cs ← chAll (List.range 54) b
  let es ← parseAll elemOf (chunks n 64 (bytesAt b 880 (64 * n)))
  let ps ← puAll n (List.range 8) b
  want (rising (es.map (·.1)))
  let elems := mergeTbl remove t.elems es
  let chans := cs.zipIdx.map (fun c => (c.2, c.1))
  let pulses := ps.zipIdx.map (fun p => (p.2, p.1))
  want (noDup (elems.flatMap (fun e => elemChans e.2)))
  want (elems.all (fun e => (namedChans e.2).all (fun c => (Tbl.at chans c {}).used)))
  want (remove || es.all (fun e => elemPointsOk t e.1 e.2))
  want (pulsesOk pulses)
  pure { t with elems := elems, chans := chans, pulses := pulses, trfInit := trf }
where
  chAll : List Nat → List Byte → Option (List ChRec)
    | [], _ => some []
    | k :: r, b => match chRecOf k (bytesAt b (16 + 16 * k) 16), chAll r b with
      | some x, some xs => some (x :: xs)
      | _, _ => none
  puAll (n : Nat) : List Nat → List Byte → Option (List PulseRec)
    | [], _ => some []
    | k :: r, b => match pulseOf k (bytesAt b (880 + 64 * n + 16 * k) 16), puAll n r b with
      | some x, some xs => some (x :: xs)
      | _, _ => none

/-! ### Station records (spec/05 R160) -/

/-- A station record (Table 5.4) carried in a section. -/
def stnOf (sec : Nat) (b : List Byte) : Option (Nat × Stn) := do
  let t : Stn :=
    { kind := leAt b 2 1, cask := leAt b 3 1, wdogMs := leAt b 4 2, statusPoint := leAt b 6 2, addr := leAt b 8 4, sec := sec }
  want (leAt b 0 2 < 1024 && 1 ≤ t.kind && t.kind ≤ 4 && t.cask < 64 && 10 ≤ t.wdogMs && t.wdogMs ≤ 60000 && allZero (bytesAt b 12 4))
  want (match t.kind with
    | 1 => t.addr < 2 ^ 11
    | 2 => t.addr < 2 ^ 16
    | 3 => t.addr < 2 ^ 8
    | _ => t.addr % 256 < 128 && t.addr < 2 ^ 9)
  want (match sec with
    | 9 => t.kind == 1
    | 11 => t.kind == 2
    | _ => t.kind == 3 || t.kind == 4)
  pure (leAt b 0 2, t)

/-! ### FIELDBUS (spec/13 R398 to R411) -/

/-- The bit timing of a channel is in range (R398). -/
def timingOk (r : CanRec) : Bool :=
  let n := r.nbt.toNat
  let d := r.dbt.toNat
  let nt1 := fld n 16 8 + 1
  let nt2 := fld n 8 7 + 1
  let dt1 := fld d 8 5 + 1
  let dt2 := fld d 16 4 + 1
  !bitOf n 31 && !bitOf n 15 && fld n 5 3 == 0 && 2 ≤ nt1 && 8 ≤ 1 + nt1 + nt2 && fld n 24 7 + 1 ≤ nt2 && 80 ≤ nomBit r.nbt &&
  (if r.fd then fld d 13 3 == 0 && fld d 5 3 == 0 && 8 ≤ 1 + dt1 + dt2 && fld d 20 4 + 1 ≤ dt2 && 16 ≤ dataBit r.dbt &&
      (80 ≤ dataBit r.dbt || bitOf d 31)
   else d == 0)

/-- A channel record at place `n` (Table 13.3). -/
def canOf (n : Nat) (b : List Byte) : Option CanRec := do
  let f := leAt b 3 1
  let r : CanRec :=
    { role := leAt b 1 1, cask := leAt b 2 1, prio := bitOf f 0, autoRec := bitOf f 1, fd := bitOf f 2, term := bitOf f 3,
      nbt := w32 (leAt b 4 4), dbt := w32 (leAt b 8 4), wdogMs := leAt b 12 2, retry := leAt b 14 1, cycles := leAt b 15 1,
      bcUs := leAt b 16 4, refId := leAt b 20 4 }
  want (leAt b 0 1 == n && r.role ≤ 3 && r.cask < 64 && f < 16 && allZero (bytesAt b 24 8))
  want (r.wdogMs == 0 || (10 ≤ r.wdogMs && r.wdogMs ≤ 60000))
  want (r.retry ≤ 15 && (bitOf f 2 || r.dbt == 0) && (r.role == 0 || timingOk r))
  want (if r.role == 2 then
      [1, 2, 4, 8, 16, 32, 64].contains r.cycles && 1000 ≤ r.bcUs && r.bcUs ≤ 1000000 && r.refId < 2 ^ 30 &&
      (bitOf r.refId 29 || r.refId % 2 ^ 29 < 2 ^ 11)
    else r.cycles == 0 && r.bcUs == 0 && r.refId == 0)
  pure r

/-- Payload lengths of a frame format (Table 13.2). -/
def lenOk (fdf : Bool) (l : Nat) : Bool := l ≤ 8 || (fdf && [12, 16, 20, 24, 32, 48, 64].contains l)

/-- A frame record (Table 13.4). -/
def frameOf (b : List Byte) : Option FrameRec := do
  let f := leAt b 1 1
  let x := leAt b 12 2
  let tx := bitOf f 0
  let trig := fld f 4 2
  let periodic := tx && trig == 0
  let r : FrameRec :=
    { ch := leAt b 0 1, tx := tx, ide := bitOf f 1, fdf := bitOf f 2, brs := bitOf f 3, trig := trig, cask := leAt b 2 1,
      len := leAt b 3 1, id := leAt b 4 4, first := leAt b 8 2, npts := leAt b 10 1, periodMs := if periodic then x else 1,
      phaseMs := leAt b 14 2, station := if tx then none else optPt x }
  want (r.ch < 8 && f < 64 && trig ≤ 2 && r.cask < 64 && lenOk r.fdf r.len && (if r.ide then r.id < 2 ^ 29 else r.id < 2 ^ 11))
  want (1 ≤ r.npts && r.npts ≤ 32 && leAt b 11 1 == 0 && (!r.brs || r.fdf))
  want (if periodic then 1 ≤ x && x ≤ 10000 && r.phaseMs < x
        else if tx then x == 0 && r.phaseMs == 0 else (x == 0xFFFF || x < 1024) && r.phaseMs == 0 && trig == 0)
  pure r

/-- A window record (Table 13.5). -/
def winOf (b : List Byte) : Option WinRec := do
  let r : WinRec :=
    { startUs := leAt b 0 4, lenUs := leAt b 4 4, kind := leAt b 8 1, rep := leAt b 9 1, base := leAt b 10 1, ch := leAt b 11 1,
      frame := leAt b 12 2 }
  want (r.kind ≤ 4 && [1, 2, 4, 8, 16, 32, 64].contains r.rep && r.base < r.rep && r.ch < 8 && leAt b 14 2 == 0)
  want (r.kind == 1 || r.kind == 2 || r.frame == 0xFFFF)
  pure r

/-- Points fit in LEN (R400). -/
def fieldsFit (t : Tabs) (f : FrameRec) : Bool :=
  (framePoints f).foldl (fun n i => n + fieldLen (match Tbl.get? t.points i with | some p => p.type | none => 1)) 0 ≤ f.len

/-- Two windows never share a cycle, or do not overlap (R411). -/
def winsApart (a b : WinRec) : Bool :=
  let g := min a.rep b.rep
  a.base % g != b.base % g || a.startUs + a.lenUs ≤ b.startUs || b.startUs + b.lenUs ≤ a.startUs

/-- Every pair of a list satisfies a relation. -/
def pairwise {α : Type} (r : α → α → Bool) : List α → Bool
  | [] => true
  | a :: l => l.all (r a) && pairwise r l

/-- The windows of a channel (R411). -/
def winsOk (can : Tbl CanRec) (fs : Tbl FrameRec) (ws : List WinRec) (ch : Nat) : Bool :=
  let rc := Tbl.at can ch {}
  let mine := ws.filter (fun w => w.ch == ch)
  let bound (w : WinRec) : Bool := match w.kind with
    | 0 => fitsNs (refBound rc) (w.lenUs * 1000)
    | 1 | 2 =>
      let f := Tbl.at fs w.frame {}
      Tbl.has fs w.frame && f.ch == ch && f.tx == (w.kind == 1) && fitsNs (boundOf rc f.ide f.fdf f.brs f.len) (w.lenUs * 1000)
    | _ => true
  if rc.role != 2 then mine.isEmpty
  else
    (match mine.head? with
     | some w => w.kind == 0 && w.startUs == 0 && w.rep == 1
     | none => false) &&
    mine.all (fun w => w.startUs + w.lenUs ≤ rc.bcUs && w.rep ≤ rc.cycles && bound w) && pairwise winsApart mine &&
    pairwise (fun a b => a.startUs ≤ b.startUs) mine

/-- Two receive records with the same CH, IDE, FDF and ID (R400). -/
def sameRx (a b : FrameRec) : Bool := !a.tx && !b.tx && a.ch == b.ch && a.ide == b.ide && a.fdf == b.fdf && a.id == b.id

/-- Nothing of a FIELDBUS section. -/
def noFieldbus (t : Tabs) : Tabs := { t with can := [], frames := [], wins := [], fbStns := [] }

/-- The FIELDBUS body, which replaces the section in force. -/
def parseFieldbus (remove : Bool) (b : List Byte) (t : Tabs) : Option Tabs := do
  let nf := leAt b 0 2
  let nw := leAt b 2 2
  let ns := leAt b 4 2
  want (b.length == 16 + 256 + 16 * (nf + nw + ns) && allZero (bytesAt b 6 10))
  let cs ← canAll (List.range 8) b
  let fs ← parseAll frameOf (chunks nf 16 (b.drop 272))
  let ws ← parseAll winOf (chunks nw 16 (b.drop (272 + 16 * nf)))
  let ss ← parseAll (stnOf 9) (chunks ns 16 (b.drop (272 + 16 * (nf + nw))))
  let can := cs.zipIdx.map (fun c => (c.2, c.1))
  let frames := fs.zipIdx.map (fun f => (f.2, f.1))
  want (fs.all (fieldsFit t) && fs.all (fun f => !f.fdf || (Tbl.at can f.ch {}).fd) && pairwise (fun a b => !sameRx a b) fs)
  want ((List.range 8).all (winsOk can frames ws))
  pure (if remove then noFieldbus t else
    { t with can := can, frames := frames, wins := ws.zipIdx.map (fun w => (w.2, w.1)), fbStns := sortBy (fun e => [e.1]) ss })
where
  canAll : List Nat → List Byte → Option (List CanRec)
    | [], _ => some []
    | k :: r, b => match canOf k (bytesAt b (16 + 32 * k) 32), canAll r b with
      | some x, some xs => some (x :: xs)
      | _, _ => none

/-! ### BUILDING (spec/13 Table 13.11) -/

/-- A DALI device record. -/
def daliOf (b : List Byte) : Option DaliDev := do
  let d : DaliDev :=
    { bus := leAt b 0 1, kind := leAt b 1 1, short := leAt b 2 1, inst := leAt b 3 1, first := leAt b 4 2, pollMs := leAt b 6 2,
      station := leAt b 8 2 }
  want (d.bus < 4 && 1 ≤ d.kind && d.kind ≤ 3 && d.short < 64 && d.inst < 32 && 100 ≤ d.pollMs && d.pollMs ≤ 60000 &&
    (d.station < 1024 || d.station == 0xFFFF) && allZero (bytesAt b 10 6))
  pure d

/-- A reader record. -/
def readerOf (b : List Byte) : Option ReaderRec := do
  let r : ReaderRec := { port := leAt b 0 1, addr := leAt b 1 1, station := leAt b 2 2, first := leAt b 4 2 }
  want (r.port < 2 && r.addr < 0x7F && (r.station < 1024 || r.station == 0xFFFF) && leAt b 6 2 == 0)
  pure r

/-- A door record. -/
def doorOf (b : List Byte) : Option (Nat × DoorRec) := do
  let f := leAt b 2 1
  let d : DoorRec :=
    { reader := leAt b 1 1, ownerOk := bitOf f 0, untrustedDeny := bitOf f 1, lift := bitOf f 2, strike := leAt b 4 2,
      release := leAt b 6 2, strikeMs := leAt b 8 2, home := leAt b 10 1 }
  want (leAt b 0 1 < 32 && f < 8 && leAt b 3 1 == 0 && 100 ≤ d.strikeMs && d.strikeMs ≤ 60000 && allZero (bytesAt b 11 5))
  pure (leAt b 0 1, d)

/-- A schedule record. -/
def schedOf (b : List Byte) : Option (Nat × Sched) := do
  let n := leAt b 2 1
  let ints := (List.range n).map (fun i => (leAt b (4 + 4 * i) 2, leAt b (6 + 4 * i) 2))
  want (1 ≤ n && n ≤ 8 && leAt b 1 1 < 64 && leAt b 3 1 == 0 && ints.all (fun i => i.1 < i.2 && i.2 ≤ 10080))
  pure (leAt b 0 1, { cask := leAt b 1 1, ints := ints })

/-- The lift record. -/
def liftOf (b : List Byte) : Option LiftRec := do
  want (leAt b 3 1 == 0 && allZero (bytesAt b 8 8))
  pure { flow := leAt b 0 2, floor := leAt b 2 1, req := leAt b 4 2, mask := leAt b 6 2,
         enable := (List.range 64).filterMap (fun c => (optPt (leAt b (16 + 2 * c) 2)).map (fun i => (c, i))) }

/-- Nothing of a BUILDING section. -/
def noBuilding (t : Tabs) : Tabs :=
  { t with bauds := [0, 0], devs := [], readers := [], doors := [], scheds := [], quotas := [], lift := none, bsStns := [] }

/-- A BOOL written by a source. -/
def boolSrc (t : Tabs) (i kind idx : Nat) : Bool :=
  namesSrc t i kind idx && (match Tbl.get? t.points i with | some p => p.type == 1 | none => false)

/-- A door names its strike and release points rightly (R418). -/
def doorOk (t : Tabs) (readers : Tbl ReaderRec) (stns : Tbl Stn) (d : Nat) (r : DoorRec) : Bool :=
  let cask := (Tbl.at stns (Tbl.at readers r.reader {}).station {}).cask
  Tbl.has readers r.reader && boolSrc t r.strike 4 (0x100 + d) &&
  (match Tbl.get? t.points r.release with
   | some p => p.type == 1 && p.cask == cask
   | none => false)

/-- The BUILDING body, which replaces the section in force. -/
def parseBuilding (remove : Bool) (b : List Byte) (t : Tabs) : Option Tabs := do
  let nd := leAt b 2 2
  let nr := leAt b 4 2
  let no := leAt b 6 1
  let nsc := leAt b 7 1
  let nst := leAt b 8 2
  let nl := leAt b 10 1
  let oR := 32 + 16 * nd
  let oD := oR + 8 * nr
  let oS := oD + 16 * no
  let oQ := oS + 36 * nsc
  let oL := oQ + 128
  let oT := oL + 144 * nl
  want (b.length == oT + 16 * nst && leAt b 0 1 ≤ 4 && leAt b 1 1 ≤ 4 && nl ≤ 1 && allZero (bytesAt b 11 21))
  let ds ← parseAll daliOf (chunks nd 16 (b.drop 32))
  let rs ← parseAll readerOf (chunks nr 8 (b.drop oR))
  let os ← parseAll doorOf (chunks no 16 (b.drop oD))
  let ss ← parseAll schedOf (chunks nsc 36 (b.drop oS))
  let ls ← parseAll liftOf (chunks nl 144 (b.drop oL))
  let ts ← parseAll (stnOf 10) (chunks nst 16 (b.drop oT))
  let readers : Tbl ReaderRec := rs.zipIdx.map (fun r => (r.2, r.1))
  let stns := sortBy (fun e => [e.1]) ts
  let quotas := (List.range 64).map (fun c => (c, leAt b (oQ + 2 * c) 2))
  want ((List.range 2).all (fun p => (rs.filter (fun r => r.port == p)).length ≤ 16) && (quotas.map (·.2)).sum ≤ 16384)
  want (noDup (os.map (·.1)) && noDup (ss.map (·.1)))
  want (remove || os.all (fun o => doorOk t readers stns o.1 o.2))
  want (remove || ls.all (fun l => namesSrc t l.req 4 0x200 && namesSrc t l.mask 4 0x201))
  pure (if remove then noBuilding t else
    { t with bauds := [leAt b 0 1, leAt b 1 1], devs := ds.zipIdx.map (fun d => (d.2, d.1)), readers := readers,
             doors := sortBy (fun e => [e.1]) os, scheds := sortBy (fun e => [e.1]) ss, quotas := quotas, lift := ls.head?,
             bsStns := stns })

/-! ### ADMISSION (spec/10 R324, Table 10.3) -/

/-- A ring map entry. -/
def nodeOf (b : List Byte) : Option Node := do
  let f := leAt b 10 1
  want (f < 4 && leAt b 11 1 == 0 && allZero (bytesAt b 20 4))
  pure { mac := leAt b 0 6, addr := leAt b 6 2, fMaxNs := leAt b 8 2, hb := bitOf f 0, exit := bitOf f 1, sliceNs := leAt b 12 4,
         extNs := leAt b 16 4 }

/-- A static flow record: its context, the context's state once admitted, and its request. -/
def staticFlow (b : List Byte) : Nat × Flow × FlowReq :=
  let g := fun k => Config.flowField k b
  (g 0, { st := .admitted, rx := g 8 != 0, cask := g 1, periodMs := g 4, npts := g 6, spoint := g 5, dpoint := g 3, node := g 2,
          promiseNs := g 7 * 1000, wireNs := wireNsOf (g 6), srcFlow := g 9, fixed := true },
   { node := g 2, dpoint := g 3, periodMs := g 4, spoint := g 5, npts := g 6, reqUs := g 7 })

/-- The ADMISSION body, which replaces the section in force. -/
def parseAdmission (b : List Byte) (t : Tabs) : Option Tabs := do
  let nn := leAt b 2 1
  let nf := leAt b 8 2
  let ns := leAt b 10 2
  let oF := 32 + 24 * nn
  let oT := oF + 32 * nf
  want (b.length == oT + 16 * ns && 2 ≤ nn && nn ≤ 64 && leAt b 3 1 ≤ 1 && leAt b 4 4 ≤ 250000 && allZero (bytesAt b 16 16))
  let nodes ← parseAll nodeOf (chunks nn 24 (b.drop 32))
  let stns ← parseAll (stnOf 11) (chunks ns 16 (b.drop oT))
  let fl := (chunks nf 32 (b.drop oF)).map staticFlow
  want (fl.all (fun f => f.1 < 1024) && noDup (fl.map (·.1)))
  pure { t with ringId := leAt b 0 2, fibre := leAt b 3 1 == 1, ringQNs := leAt b 4 4, ptpNs := leAt b 12 4,
                nodes := nodes.zipIdx.map (fun n => (n.2, n.1)), adStns := sortBy (fun e => [e.1]) stns,
                flows := fl.map (fun f => (f.1, f.2.1)), reqs := fl.map (fun f => f.2.2) }

/-! ### SAFETY, TIME, VINTNER, POWER -/

/-- The SAFETY body (R300). -/
def parseSafety (vintage : Nat) (b : List Byte) (t : Tabs) : Option Tabs := do
  want (b.length == 352)
  let m := safMapOf b
  want (mapFormOk m && m.vintage == w32 vintage)
  pure { t with safety := some b }

/-- A TIME domain record at place `n` (Table 11.7). -/
def timeOf (n : Nat) (b : List Byte) : Option TimeRec := do
  let src ← match leAt b 1 1 with
    | 0 => some TimeSource.free
    | 1 => some .ptp
    | 2 => some .follow
    | _ => none
  let pol ← match leAt b 8 1 with
    | 0 => some TimePolicy.stepSlew
    | 1 => some .slewOnly
    | 2 => some .stepFirst
    | _ => none
  let ls := sOf 8 (leAt b 7 1)
  let r : TimeRec :=
    { source := src, ptpDn := leAt b 2 1, utility := leAt b 3 1 == 1, masterCapable := leAt b 4 1 == 1,
      followSteps := bitOf (leAt b 5 1) 0, followOf := leAt b 6 1, syncExp := (-ls).toNat, policy := pol, priority1 := leAt b 9 1,
      priority2 := leAt b 10 1, stepNs := leAt b 12 4, slewPpb := leAt b 16 4, acceptNs := leAt b 20 4, holdTrustS := leAt b 24 4,
      offset := sOf 64 (leAt b 28 8) }
  want (leAt b 0 1 == n && leAt b 3 1 ≤ 1 && leAt b 4 1 ≤ 1 && leAt b 5 1 ≤ 1 && -4 ≤ ls && ls ≤ 0 && leAt b 11 1 == 0 &&
    allZero (bytesAt b 36 12))
  want (if src == .ptp then r.ptpDn ≤ 127 else r.ptpDn == 0)
  want (if src == .follow then r.followOf < n else r.followOf == 0)
  want (1000 ≤ r.stepNs && r.stepNs ≤ 1000000000 && 1000 ≤ r.slewPpb && r.slewPpb ≤ 100000 && 10 ≤ r.acceptNs && r.acceptNs ≤ 1000000)
  want (r.holdTrustS ≤ 604800)
  pure r

/-- The TIME body (R359). -/
def parseTime (b : List Byte) (t : Tabs) : Option Tabs := do
  want (b.length == 208 && leAt b 0 1 == 4 && allZero (bytesAt b 1 15))
  let rs ← timeAll (List.range 4) b
  let doms := rs.zipIdx.map (fun r => (r.2, r.1))
  want (doms.all (fun d => d.2.source != .follow || (Tbl.at doms d.2.followOf {}).source != .follow))
  want (noDup ((rs.filter (fun r => r.source == .ptp)).map (·.ptpDn)))
  pure { t with time := doms }
where
  timeAll : List Nat → List Byte → Option (List TimeRec)
    | [], _ => some []
    | k :: r, b => match timeOf k (bytesAt b (16 + 48 * k) 48), timeAll r b with
      | some x, some xs => some (x :: xs)
      | _, _ => none

/-- The VINTNER body, merged by target (R141). -/
def parseVintner (remove : Bool) (b : List Byte) (t : Tabs) : Option Tabs :=
  let new : Tbl VintRec := (Config.vintnerParts b).map (fun e => (e.1, { lo := e.2.1, hi := e.2.2.1, rate := e.2.2.2 }))
  some { t with vint := mergeTbl remove t.vint new }

/-- The POWER body (R492). -/
def parsePower (remove : Bool) (b : List Byte) (t : Tabs) : Option Tabs := do
  let p : PowerRec :=
    { vinWakeMa := leAt b 0 2, fsupStartMa := leAt b 2 2, bGrp := (List.range 16).map (fun g => leAt b (4 + 2 * g) 2),
      daliMa := (List.range 4).map (fun g => leAt b (36 + 2 * g) 2) }
  want (b.length == 64 && 150 ≤ p.vinWakeMa && p.vinWakeMa ≤ 2000 && 100 ≤ p.fsupStartMa && p.fsupStartMa ≤ 16000)
  want (p.bGrp.all (fun x => 100 ≤ x && x ≤ 4000) && p.daliMa.all (fun x => x ≤ 1000) && allZero (bytesAt b 44 20))
  pure { t with power := if remove then {} else p }

/-! ### A section in its turn -/

/-- One section's body applied to the tables so far; none: a record-level fault (R55). -/
def applySection (whole remove : Bool) (id vintage : Nat) (b : List Byte) (t : Tabs) : Option Tabs :=
  match id with
  | 1 => parseCasks b t
  | 2 => parseWindows remove b t
  | 3 => parseCells remove b t
  | 4 => parsePoints remove b t
  | 5 => parseRoutes remove b t
  | 6 => parseProgram whole remove b t
  | 7 => parseLoops remove b t
  | 8 => parseMeter remove b t
  | 9 => parseFieldbus remove b t
  | 10 => parseBuilding remove b t
  | 11 => parseAdmission b t
  | 12 => parseSafety vintage b t
  | 13 => parseTime b t
  | 14 => parseVintner remove b t
  | 15 => parsePower remove b t
  | _ => some t

/-- Points routed to a consumer, in increasing index. -/
def routedTo (t : Tabs) (kind idx : Nat) : List Nat :=
  sortBy (fun i => [i]) ((t.routes.filter (fun r => r.kind == kind && r.index == idx)).map (·.point))

/-- Points written by a source, in increasing index. -/
def writtenBy (t : Tabs) (kind idx : Nat) : List Nat :=
  (t.points.filter (fun e => e.2.srcKind == kind && e.2.srcIndex == idx)).map (·.1)

/-- Tasks with their slot lists (R117, R119). -/
def withSlots (t : Tabs) : Tabs :=
  { t with tasks := Tbl.mapV t.tasks (fun n p => { p with inSlots := routedTo t 5 n, outSlots := writtenBy t 5 n }) }

end Sys2Proof.Machine
end

