-- ==== Sys2Proof/Machine/UpdOps.lean ====
section
/-!
DEFINITION. UpdOps.lean: the racking record and the revert (spec/15_update_and_racking.md R462, R471).
-/
namespace Sys2Proof.Machine

def cUPD_OK : Nat := 0x0E00
def cUPD_STATE : Nat := 0x0E01
def cUPD_MANIFEST : Nat := 0x0E02
def cUPD_SIGNATURE : Nat := 0x0E03
def cUPD_UNWRAP : Nat := 0x0E04
def cUPD_FRAG_AUTH : Nat := 0x0E05
def cUPD_FRAG_ORDER : Nat := 0x0E06
def cUPD_VERIFY : Nat := 0x0E07
def cUPD_VINTAGE_OLD : Nat := 0x0E08
def cUPD_UNTRUSTED : Nat := 0x0E09
def cUPD_EXPIRED : Nat := 0x0E0A
def cUPD_SEALED : Nat := 0x0E0B
def cUPD_ABORTED : Nat := 0x0E0C
def cUPD_FLASH : Nat := 0x0E0D
def cUPD_PARAM : Nat := 0x0E0E
def cUPD_ACTIVATED : Nat := 0x0E10
def cUPD_TRIAL_FAIL : Nat := 0x0E11
def cUPD_REVERTED : Nat := 0x0E12
def cUPD_CONFIRMED : Nat := 0x0E13
def cUPD_SETS_LOST : Nat := 0x0E15

/-- A write of the racking record: it goes to the older copy, with SEQ one above the copy in force (R462). -/
def writeRack (f : RackRec → RackRec) (s : State) : State :=
  let r := f s.upd.rack
  { s with upd.older := s.upd.rack, upd.rack := { r with seq := s.upd.rack.seq + 1 } }

/-- An item is written to flash: the store generation increases (R455). -/
def nextStore (s : State) : State := writeRack (fun r => { r with storeGen := r.storeGen + 1 }) s

/-- The structure-image slot in use. -/
def siSlot (s : State) : FlashSlot := if bitOf s.upd.running 1 then s.upd.siB else s.upd.siA

/-- Change the structure-image slot in use. -/
def updSiSlot (f : FlashSlot → FlashSlot) (s : State) : State :=
  if bitOf s.upd.running 1 then { s with upd.siB := f s.upd.siB } else { s with upd.siA := f s.upd.siA }

/-- Change the TARGET slots of the racking in progress, firmware and structure image as KINDS has them. -/
def updTargets (f : FlashSlot → FlashSlot) (s : State) : State :=
  let r := s.upd.rack
  let s := if !bitOf r.kinds 0 then s
    else if bitOf r.target 0 then { s with upd.fwB := f s.upd.fwB } else { s with upd.fwA := f s.upd.fwA }
  if !bitOf r.kinds 1 then s
  else if bitOf r.target 1 then { s with upd.siB := f s.upd.siB } else { s with upd.siA := f s.upd.siA }

/-- The TARGET structure-image slot. -/
def targetSi (s : State) : FlashSlot := if bitOf s.upd.rack.target 1 then s.upd.siB else s.upd.siA

/-- R471: the revert in one record write, its events, and the restart. -/
def rackRevertOp (reason : Nat) (s : State) : State :=
  let lost := if bitOf s.upd.rack.kinds 1 then (targetSi s).sets.length else 0
  let s := updTargets (fun x => { x with rejected := true, sets := [] }) s
  let s := writeRack (fun r => { r with state := .idle, booting := false, pwrFail := false, setsLost := r.setsLost || lost != 0 }) s
  let s := record cUPD_REVERTED 0 (d1 reason) { s with upd.trialCfg := none }
  let s := if lost = 0 then s else record cUPD_SETS_LOST 0 (d2 lost) s
  requestReset 6 true s

end Sys2Proof.Machine
end

