-- ==== Sys2Proof/Machine/Validate.lean ====
section
/-!
DEFINITION. Validate.lean: the image container and the checks of Table 2.5, in their order
(spec/02_structure_image_and_casks.md R49 to R56, R69 to R72).
-/
namespace Sys2Proof.Machine

def cIMAGE_OK : Nat := 0x0000
def cIMAGE_FORMAT : Nat := 0x0201
def cIMAGE_TARGET : Nat := 0x0202
def cIMAGE_SIGNATURE : Nat := 0x0203
def cIMAGE_DIGEST : Nat := 0x0204
def cIMAGE_VINTAGE_OLD : Nat := 0x0205
def cIMAGE_BASE_MISMATCH : Nat := 0x0206
def cIMAGE_VARIANT : Nat := 0x0207
def cIMAGE_CAPACITY : Nat := 0x0208
def cIMAGE_SHARE : Nat := 0x0209
def cIMAGE_CASK_REF : Nat := 0x020A
def cIMAGE_WRITER : Nat := 0x020B
def cIMAGE_CLASS : Nat := 0x020C
def cIMAGE_STATE : Nat := 0x020D
def cIMAGE_IN_USE : Nat := 0x020E
def cIMAGE_ADMISSION : Nat := 0x020F
def cIMAGE_BUSY : Nat := 0x0210
def cIMAGE_SEALED : Nat := 0x0211
def cIMAGE_ABORTED : Nat := 0x0212
def cIMAGE_PATCH_FULL : Nat := 0x0213
def cIMAGE_SET_LOST : Nat := 0x0214
def cIMAGE_SET_FAILED : Nat := 0x0215
def cIMAGE_LOAD_FAILED : Nat := 0x0216

/-! ### The container (Tables 2.1, 2.2) -/

/-- A directory entry with its section's bytes (Table 2.2). -/
structure SecEnt where
  id : Nat := 0
  cls : Nat := 0
  flags : Nat := 0
  vintage : Nat := 0
  off : Nat := 0
  len : Nat := 0
  digest : List Byte := []
  body : List Byte := []
  deriving DecidableEq, Repr

/-- Header fields (Table 2.1). -/
def imKind (b : List Byte) : Nat := leAt b 6 1
def imCount (b : List Byte) : Nat := leAt b 7 1
def imVintage (b : List Byte) : Nat := leAt b 8 4
def imBase (b : List Byte) : Nat := leAt b 12 4
def imTarget (b : List Byte) : Nat := leAt b 16 2
def imVariants (b : List Byte) : Nat := leAt b 18 1
def imSigner (b : List Byte) : Nat := leAt b 19 1
def imLength (b : List Byte) : Nat := leAt b 20 4

/-- End of the directory. -/
def dirEnd (b : List Byte) : Nat := 64 + 64 * imCount b

/-- Directory entry `i`. -/
def secEnt (b : List Byte) (i : Nat) : SecEnt :=
  let e := bytesAt b (64 + 64 * i) 64
  let off := leAt e 8 4
  let len := leAt e 12 4
  { id := leAt e 0 2, cls := leAt e 2 1, flags := leAt e 3 1, vintage := leAt e 4 4, off := off, len := len,
    digest := bytesAt e 16 48, body := bytesAt b off len }

/-- The directory. -/
def secEnts (b : List Byte) : List SecEnt := (List.range (imCount b)).map (secEnt b)

/-- The sections in increasing ID. -/
def secsById (b : List Byte) : List SecEnt := sortBy (fun e => [e.id]) (secEnts b)

/-- REMOVE of a section. -/
def isRemove (e : SecEnt) : Bool := bitOf e.flags 0

/-- Check 3 on the container of an image of KIND `kind` that is `len` bytes long. -/
def containerOk (kind len : Nat) (b : List Byte) : Bool :=
  leAt b 0 4 == 0x424D4C43 && leAt b 4 2 == 3 && imKind b == kind && 1 ≤ imCount b && imCount b ≤ 16 && imLength b == len &&
  len ≤ 64 * 0x100000 && dirEnd b + 96 ≤ len && imVariants b < 8 && allZero (bytesAt b 28 36) &&
  (secEnts b).all (fun e => e.flags < 2 && (kind != 1 || e.flags == 0) && e.off % 16 == 0 && dirEnd b ≤ e.off &&
    e.off + e.len + 96 ≤ len) &&
  pairwise (fun x y => x.off + x.len ≤ y.off || y.off + y.len ≤ x.off) (secEnts b)

/-- R51, R52: the signature over header and directory verifies with slot SIGNER_SLOT, as issued by cask 0. -/
def signatureOk (s : State) (b : List Byte) : Bool :=
  let k := kslot s (imSigner b)
  imSigner b < 64 && slotFor s k 12 && slotType k == 2 && slotCask k == 0 &&
  Config.ecdsaVerify k.key (b.take (dirEnd b)) (bytesAt b (imLength b - 96) 96)

/-- Class of Table 2.4, and whether the section is required. -/
def sectionClass : Nat → Option (Nat × Bool)
  | 1 => some (1, true) | 2 => some (2, true) | 3 => some (3, true) | 4 => some (2, true) | 5 => some (2, true)
  | 6 => some (2, false) | 7 => some (2, false) | 8 => some (2, false) | 9 => some (3, false) | 10 => some (3, false)
  | 11 => some (4, true) | 12 => some (5, false) | 13 => some (1, true) | 14 => some (2, true) | 15 => some (2, true)
  | _ => none

/-- Apply the sections in increasing ID; the first with a record-level fault is reported (R55), else 0. -/
def applyAll (whole : Bool) : List SecEnt → Tabs → Nat × Tabs
  | [], t => (0, t)
  | e :: r, t => match applySection whole (isRemove e) e.id e.vintage e.body t with
    | some t' => applyAll whole r t'
    | none => (e.id, t)

/-- The section concerned, when a condition does not hold. -/
def orSec (ok : Bool) (sec : Nat) : Option Nat := if ok then none else some sec

/-- The first check of a list that reports a section. -/
def firstOfAll (cs : List (Option Nat)) : Option Nat := cs.findSome? (fun c => c)

/-! ### Checks 9 to 12 -/

/-- Check 9. -/
def classCheck (whole : Bool) (es : List SecEnt) : Option Nat :=
  firstOfAll (
    (es.map (fun e => orSec (whole || (sectionClass e.id).map (·.1) != some 1) e.id)) ++
    ((List.range 16).map (fun i => orSec (!whole || (match sectionClass i with
      | some (_, true) => es.any (fun e => e.id == i)
      | _ => true)) i)) ++
    (es.map (fun e => orSec ((es.filter (fun x => x.id == e.id)).length == 1) e.id)) ++
    (es.map (fun e => orSec ((sectionClass e.id).map (·.1) == some e.cls) e.id)))

/-- Check 10. -/
def variantCheck (s : State) (b : List Byte) (t : Tabs) : Option Nat :=
  let bit := match s.sys.variant with
    | .v00 => 0
    | .m0 => 1
    | .ms => 2
  firstOfAll [orSec (bitOf (imVariants b) bit) 0,
    orSec (s.sys.variant != .v00 || t.elems.isEmpty) 8,
    orSec (match t.safety with
      | some sb => s.sys.variant == .ms || ((usedOuts (safMapOf sb)).isEmpty && (safMapOf sb).funcs.all (fun f => f.outMask == 0))
      | none => true) 12]

/-- Single-phase equivalents of an element (Table 7.4). -/
def elemSize (r : ElemRec) : Nat := if r.scheme == 1 then 1 else 3

/-- L(m) of R175. -/
def loopLoad (t : Tabs) (m : Nat) : Nat :=
  t.loops.foldl (fun n e =>
    let g := Nat.gcd e.2.periodMs 1000
    if m % g == e.2.phaseMs % g then n + lawCost e.2.law else n) 0

/-- Bytes a cask's globals and instances take: outside the retentive part, and in it (R70). -/
def instBytes (t : Tabs) (c : Nat) : Nat × Nat :=
  let is := (t.tasks.filter (fun e => e.1 / 32 == c)).flatMap (fun e => e.2.insts)
  ((Tbl.at t.progs c {}).globalBytes + (is.map (fun r => r.size)).sum, (is.map (fun r => r.retSize)).sum)

/-- Check 11 for one cask. -/
def caskCapacity (t : Tabs) (c : Nat) : List (Option Nat) :=
  let r := Tbl.at t.casks c {}
  let pt := fun i => match Tbl.get? t.points i with
    | some p => p.cask == c
    | none => false
  let m := instBytes t c
  [orSec ((Tbl.at t.windows c []).length ≤ 256) 2,
   orSec ((t.cells.filter (fun e => e.2.mode != .off && pt e.2.point)).length ≤ r.cells) 3,
   orSec ((t.points.filter (fun e => e.2.cask == c)).length ≤ r.points) 4,
   orSec ((t.tasks.filter (fun e => e.1 / 32 == c && e.1 % 32 < 8)).length ≤ r.tasks) 6,
   orSec (m.1 ≤ (r.instKib - r.retainKib) * 1024 && m.2 ≤ r.retainKib * 1024) 6,
   orSec ((t.loops.filter (fun e => e.2.cask == c)).length ≤ r.loopSlots) 7,
   orSec (((t.elems.filter (fun e => e.2.cask == c)).map (fun e => elemSize e.2)).sum ≤ r.elements) 8]

/-- Check 11. -/
def capacityCheck (t : Tabs) : Option Nat :=
  firstOfAll ((List.range 63).flatMap (caskCapacity t) ++
    [orSec ((t.elems.map (fun e => elemSize e.2)).sum ≤ 48) 8,
     orSec ((List.range 1000).all (fun m => loopLoad t m ≤ 250000)) 7,
     orSec (t.fbStns.length + t.bsStns.length + t.adStns.length ≤ 1024) 11,
     orSec (t.flows.length ≤ 1024) 11])

/-- Check 12: R69. -/
def shareOk (t : Tabs) : Bool :=
  let all := t.casks.map (·.2)
  let sum := fun (f : CaskRec → Nat) => (all.map f).sum
  (Tbl.at t.casks 0 {}).enabled &&
  leAt (bytesAt t.caskBody (63 * 32) 32) 0 1 == 63 && allZero (bytesAt t.caskBody (63 * 32 + 1) 31) &&
  all.all (fun r => r.retainKib ≤ r.instKib && (r.hasPartition || r.partMib == 0) &&
    (r.enabled || (r.tasks == 0 && r.pgeShare == 0 && r.instKib == 0 && r.retainKib == 0 && r.partMib == 0 && r.points == 0 &&
      r.loopSlots == 0 && r.flows == 0 && r.cells == 0 && r.elements == 0 && r.canShare == 0 && r.beShare == 0 &&
      r.cpuShare == 0))) &&
  sum (·.pgeShare) ≤ 100 && sum (·.instKib) ≤ 16384 && sum (·.retainKib) ≤ 1024 && sum (·.partMib) ≤ 1024 &&
  sum (·.points) ≤ 16384 && sum (·.loopSlots) ≤ 1024 && sum (·.flows) ≤ 1024 && sum (·.cells) ≤ 256 && sum (·.elements) ≤ 48 &&
  sum (·.canShare) ≤ 100 && sum (·.beShare) ≤ 100 && sum (·.cpuShare) ≤ 60

/-! ### Check 13: cask references (R71, R72, R291) -/

/-- The cask is enabled and is not cask 63. -/
def caskOn (t : Tabs) (c : Nat) : Bool := c != 63 && (Tbl.at t.casks c {}).enabled

/-- Every tagged object: its section and cask. -/
def tagged (t : Tabs) : List (Nat × Nat) :=
  t.points.map (fun e => (4, e.2.cask)) ++ t.progs.map (fun e => (6, e.1)) ++ t.tasks.map (fun e => (6, e.1 / 32)) ++
  t.loops.map (fun e => (7, e.2.cask)) ++ t.elems.map (fun e => (8, e.2.cask)) ++
  (t.can.filter (fun e => e.2.role != 0)).map (fun e => (9, e.2.cask)) ++ t.frames.map (fun e => (9, e.2.cask)) ++
  t.fbStns.map (fun e => (9, e.2.cask)) ++ t.bsStns.map (fun e => (10, e.2.cask)) ++ t.scheds.map (fun e => (10, e.2.cask)) ++
  t.flows.map (fun e => (11, e.2.cask)) ++ t.adStns.map (fun e => (11, e.2.cask))

/-- The station record with a number. -/
def stnRec (t : Tabs) (n : Nat) : Stn :=
  match Tbl.get? t.fbStns n with
  | some x => x
  | none => match Tbl.get? t.bsStns n with
    | some x => x
    | none => Tbl.at t.adStns n {}

/-- The cask of a consumer that a route names. -/
def consumerCask (t : Tabs) (kind idx : Nat) : Option Nat :=
  match kind with
  | 2 => (Tbl.get? t.frames idx).map (·.cask)
  | 3 => (Tbl.get? t.devs idx).map (fun d => (stnRec t d.station).cask)
  | 5 => some (idx / 32)
  | 6 => (Tbl.get? t.loops idx).map (·.cask)
  | 7 => (Tbl.get? t.elems idx).map (·.cask)
  | 8 => (t.flows.find? (fun f => f.1 == idx)).map (fun f => f.2.cask)
  | 9 => some 0
  | 10 => some idx
  | _ => none

/-- A cask may read a defined point. -/
def canRead0 (t : Tabs) (c i : Nat) : Bool :=
  match Tbl.get? t.points i with
  | some p => mayRead p c
  | none => true

/-- A route respects R72; a request-off point belongs to cask 0 (R291). -/
def routeOk (t : Tabs) (r : Route) : Bool :=
  if r.kind == 11 then (match Tbl.get? t.points r.point with | some p => p.cask == 0 | none => true)
  else match consumerCask t r.kind r.index with
    | some c => canRead0 t c r.point
    | none => true

/-- The cask of a point's writing source. -/
def sourceCask (t : Tabs) (p : Point) : Option Nat :=
  match p.srcKind with
  | 2 => (Tbl.get? t.frames p.srcIndex).map (·.cask)
  | 5 => some (p.srcIndex / 32)
  | 6 => (Tbl.get? t.loops p.srcIndex).map (·.cask)
  | 7 => (Tbl.get? t.elems (p.srcIndex / 32)).map (·.cask)
  | 9 => some 0
  | 10 => some p.srcIndex
  | _ => none

/-- Check 13. -/
def caskRefCheck (t : Tabs) : Option Nat :=
  firstOfAll (
    (tagged t).map (fun o => orSec (caskOn t o.2) o.1) ++
    t.points.map (fun e => orSec (e.2.grant == 0 || (Tbl.at t.casks e.2.cask {}).grantOut) 4) ++
    t.points.map (fun e => orSec (match sourceCask t e.2 with | some c => c == e.2.cask | none => true) 4) ++
    t.routes.map (fun r => orSec (routeOk t r) 5) ++
    t.loops.map (fun e => orSec ((e.2.pv.toList ++ e.2.sp.toList ++ e.2.ff.toList ++ e.2.sched.toList ++ e.2.track.toList).all
      (canRead0 t e.2.cask)) 7) ++
    t.frames.map (fun e => orSec (!e.2.tx || (framePoints e.2).all (canRead0 t e.2.cask)) 9) ++
    t.flows.map (fun f => orSec (f.2.rx || (srcPoints f.2.spoint f.2.npts).all (canRead0 t f.2.cask)) 11) ++
    [orSec (match t.lift with
      | some l => l.enable.all (fun e => (Tbl.at t.casks e.1 {}).liftCalls &&
          (match Tbl.get? t.points e.2 with | some p => p.cask == 0 | none => true))
      | none => true) 10])

/-! ### Check 14: one writing source per point (R33) -/

/-- The points that objects of the image write, each with its source kind and index. -/
def claims (t : Tabs) : List (Nat × Nat × Nat) :=
  t.cells.flatMap (fun e => if e.2.mode == .off then []
    else if isOutput e.2.mode then e.2.rbPoint.toList.map (fun i => (i, 1, e.1)) else [(e.2.point, 1, e.1)]) ++
  t.frames.flatMap (fun e => if e.2.tx then [] else (framePoints e.2).map (fun i => (i, 2, e.1))) ++
  t.devs.flatMap (fun e => (daliInputs e.2).map (fun i => (i, 3, e.1))) ++
  t.readers.flatMap (fun e => [(e.2.first, 4, e.1), (e.2.first + 1, 4, e.1)]) ++
  t.loops.flatMap (fun e => (e.2.out :: e.2.fe.toList).map (fun i => (i, 6, e.1))) ++
  t.elems.flatMap (fun e => (pointLayout e.2).zipIdx.map (fun x => (e.2.pointBase + x.2, 7, 32 * e.1 + x.2))) ++
  t.vint.map (fun e => (e.1, 9, (Tbl.at t.points e.1 {}).srcIndex)) ++
  t.flows.flatMap (fun f => if f.2.rx then (srcPoints f.2.dpoint f.2.npts).map (fun i => (i, 8, f.1)) else [])

/-- The point is the status point of a station of a kind. -/
def isStatus (stns : Tbl Stn) (kind i : Nat) : Bool := stns.any (fun e => e.2.kind == kind && e.2.statusPoint == i)

/-- Index of a safety status point (R306). -/
def safetyIndex (i : Nat) : Bool :=
  i < 16 || (0x100 ≤ i && i < 0x108) || (0x200 ≤ i && i < 0x204) || (0x280 ≤ i && i < 0x284) || i == 0x300

/-- The source a point names exists and names the point. -/
def srcOk (t : Tabs) (i : Nat) (p : Point) : Bool :=
  let mine := (claims t).any (fun c => c.1 == i && c.2.1 == p.srcKind && c.2.2 == p.srcIndex)
  match p.srcKind with
  | 2 => mine || isStatus t.fbStns 1 i
  | 3 => mine || isStatus t.bsStns 3 i
  | 4 => mine || isStatus t.bsStns 4 i ||
    t.doors.any (fun e => e.2.strike == i && p.srcIndex == 0x100 + e.1) ||
    (match t.lift with
     | some l => (l.req == i && p.srcIndex == 0x200) || (l.mask == i && p.srcIndex == 0x201)
     | none => false)
  | 5 => Tbl.has t.tasks p.srcIndex
  | 8 => isStatus t.adStns 2 i || (match t.flows.find? (fun f => f.2.rx && f.1 == p.srcIndex) with
    | some _ => mine
    | none => p.srcIndex < 1024)
  | 10 => (Tbl.at t.casks p.srcIndex {}).hasPartition
  | 11 => safetyIndex p.srcIndex
  | _ => mine

/-- Check 14. -/
def writerCheck (t : Tabs) : Option Nat :=
  firstOfAll (
    t.points.map (fun e => orSec (srcOk t e.1 e.2) 4) ++
    (claims t).map (fun c => orSec (match Tbl.get? t.points c.1 with
      | some p => p.srcKind == c.2.1 && p.srcIndex == c.2.2
      | none => true) 4))

/-! ### Checks 15 to 17: against the module's state (R54, R56) -/

/-- Input points of a loop record. -/
def loopInputs (r : LoopRec) : List Nat := r.pv.toList ++ r.sp.toList ++ r.ff.toList ++ r.sched.toList ++ r.track.toList

/-- R54: the casks of the running consumers of a point: tasks in RUN or HOLD, slots in AUTO, admitted flows, Press elements. -/
def consumersOf (s : State) (old : Tabs) (i : Nat) : List Nat :=
  (s.pge.tasks.filterMap (fun e =>
    if e.2.exist && (pcask s (e.1 / 32)).mode != .stop && e.2.prog.inSlots.contains i then some (e.1 / 32) else none)) ++
  (s.lpe.slots.filterMap (fun e => if e.2.mode == .auto && (loopInputs e.2.rc).contains i then some e.2.rc.cask else none)) ++
  (s.net.flows.filterMap (fun e =>
    if !e.2.rx && e.2.st == .admitted && (srcPoints e.2.spoint e.2.npts).contains i then some e.2.cask else none)) ++
  (old.routes.filterMap (fun r => if r.kind == 7 && r.point == i then (Tbl.get? old.elems r.index).map (·.cask) else none))

/-- A cell record changes. -/
def cellChanged (old new : Tabs) (n : Nat) : Bool := Tbl.at old.cells n {} != Tbl.at new.cells n {}

/-- Frame and window records of a channel. -/
def chanParts (t : Tabs) (ch : Nat) : List (Nat × FrameRec) × List WinRec :=
  (t.frames.filter (fun e => e.2.ch == ch), (t.wins.map (·.2)).filter (fun w => w.ch == ch))

/-- A CAN channel changes. -/
def canChanged (old new : Tabs) (ch : Nat) : Bool :=
  Tbl.at old.can ch {} != Tbl.at new.can ch {} || chanParts old ch != chanParts new ch

/-- A DALI port changes. -/
def daliChanged (old new : Tabs) (p : Nat) : Bool :=
  old.devs.filter (fun e => e.2.bus == p) != new.devs.filter (fun e => e.2.bus == p)

/-- An OSDP port changes. -/
def osdpChanged (old new : Tabs) (p : Nat) : Bool :=
  nthD old.bauds p 0 != nthD new.bauds p 0 || old.readers.filter (fun e => e.2.port == p) != new.readers.filter (fun e => e.2.port == p)

/-- Check 15: the class S conditions of Table 2.4. The lift profile has no stop command; it is stopped while the field-bus island
holds no request of it (log entry 22). -/
def stateCheck (s : State) (old new : Tabs) : Option Nat :=
  firstOfAll (
    ((List.range 256).filter (cellChanged old new)).map (fun n =>
      let c := Tbl.at old.cells n {}
      orSec (c.mode == .off || (s.trl.test.state == .running && s.trl.test.cell == n) || (consumersOf s old c.point).isEmpty) 3) ++
    ((List.range 8).filter (canChanged old new)).map (fun ch =>
      orSec ((canCh s ch).st == .off || (canCh s ch).st == .stopped) 9) ++
    ((List.range 4).filter (daliChanged old new)).map (fun p => orSec (!(Tbl.at s.fbs.dali p {}).running) 10) ++
    ((List.range 2).filter (osdpChanged old new)).map (fun p => orSec (!(Tbl.at s.fbs.osdp p {}).running) 10) ++
    [orSec (old.lift == new.lift || s.fbs.liftQ.isEmpty) 10])

/-- Points of an element record. -/
def recPoints (r : ElemRec) : List Nat := (List.range (pointLayout r).length).map (fun m => r.pointBase + m)

/-- Check 16: removals and re-tags of what is in use, and read grants withdrawn from a running reader (R54, R181). -/
def inUseCheck (s : State) (old new : Tabs) : Option Nat :=
  let used := fun i => !(consumersOf s old i).isEmpty
  firstOfAll (
    old.points.map (fun e => match Tbl.get? new.points e.1 with
      | none => orSec (!used e.1) 4
      | some p =>
        orSec ((p.cask == e.2.cask || !used e.1) &&
          (consumersOf s old e.1).all (fun n => !(bitOf e.2.grant.toNat n && !bitOf p.grant.toNat n))) 4) ++
    old.loops.map (fun e =>
      let kept := match Tbl.get? new.loops e.1 with
        | some r => r.cask == e.2.cask
        | none => false
      orSec (kept || (Tbl.at s.lpe.slots e.1 {}).mode != .auto) 7) ++
    old.elems.map (fun e =>
      let kept := match Tbl.get? new.elems e.1 with
        | some r => r.cask == e.2.cask
        | none => false
      orSec (kept || (recPoints e.2).all (fun i => !used i)) 8) ++
    old.flows.map (fun f =>
      let kept := new.flows.any (fun g => g.1 == f.1 && g.2.cask == f.2.cask)
      orSec (kept || !f.2.rx || (srcPoints f.2.dpoint f.2.npts).all (fun i => !used i)) 11))

/-- The state with the new ring tables, for the arithmetic of R327 and R328. -/
def withRing (t : Tabs) (s : State) : State :=
  { s with net.nodes := t.nodes, net.ringQNs := t.ringQNs, net.ptpNs := t.ptpNs }

/-- R324, R325: the ring's sums. -/
def ringSumOk (t : Tabs) : Bool :=
  (t.nodes.map (fun e => e.2.sliceNs + (if e.2.hb then 736 else 0))).sum + t.ptpNs ≤ t.ringQNs && 784 * 2 ≤ t.ptpNs

/-- The flows to admit: static flows in record order, then the dynamic ones admitted now. -/
def flowsToAdmit (s : State) (t : Tabs) : List (Nat × FlowReq) :=
  ((t.flows.zip t.reqs).filterMap (fun x => if x.1.2.rx then none else some (x.1.1, x.2))) ++
  (s.net.flows.filterMap (fun e =>
    if e.2.rx || e.2.fixed || e.2.st != .admitted then none
    else some (e.1, { node := e.2.node, dpoint := e.2.dpoint, periodMs := e.2.periodMs, spoint := e.2.spoint, npts := e.2.npts,
                      reqUs := e.2.promiseNs / 1000 })))

/-- Admit flows in order (R327, R331): the phases and loads, none when one is refused. -/
def admitAll (s : State) : List (Nat × FlowReq) → Tbl Nat → Option (List (Nat × Nat) × Tbl Nat)
  | [], w => some ([], w)
  | (n, r) :: rest, w =>
    let f := fitFlow s w r
    if f.1 == cNET_ADM_OK && periodOk r.periodMs && 1 ≤ r.npts && r.npts ≤ 32 && 0 < r.node && r.node < nNodes s then
      match admitAll s rest (addLoad w (min r.periodMs 1000) f.2.1 (wireNsOf r.npts)) with
      | some (ps, w') => some ((n, f.2.1) :: ps, w')
      | none => none
    else none

/-- R70: the flows to admit keep to each cask's FLOWS. -/
def flowQuotasOk (s : State) (t : Tabs) : Bool :=
  let owners := ((t.flows.filter (fun f => !f.2.rx)).map (fun f => f.2.cask)) ++
    ((s.net.flows.filter (fun e => !e.2.rx && !e.2.fixed && e.2.st == .admitted)).map (fun e => e.2.cask))
  owners.all (fun c => (owners.filter (fun d => d == c)).length ≤ (Tbl.at t.casks c {}).flows)

/-- Check 17. -/
def admissionCheck (s : State) (t : Tabs) : Option Nat :=
  orSec (ringSumOk t && flowQuotasOk s t && (admitAll (withRing t s) (flowsToAdmit s t) []).isSome) 11

/-! ### The order of Table 2.5 -/

/-- What a validation gives: the code, the section concerned, and the tables it leads to. -/
structure LoadVerdict where
  code : Nat := 0
  sec : Nat := 0
  tabs : Tabs := {}
  deriving DecidableEq, Repr

/-- Checks 15 to 17 of a sectional set, made again at COMMIT (R60). -/
def stateChecks (s : State) (old new : Tabs) : Option (Nat × Nat) :=
  (((stateCheck s old new).map (fun x => (cIMAGE_STATE, x))).orElse (fun _ =>
   ((inUseCheck s old new).map (fun x => (cIMAGE_IN_USE, x))))).orElse (fun _ =>
   ((admissionCheck s new).map (fun x => (cIMAGE_ADMISSION, x))))

/-- Checks 4 to 18 of an image whose container is in order. `whole` images have no base and meet the empty start-up state. -/
def checkImage (s : State) (whole : Bool) (b : List Byte) (old : Tabs) (running sets : Nat) : LoadVerdict :=
  let es := secsById b
  let r := applyAll whole es old
  let t := withSlots r.2
  let sec (c : Option Nat) (code : Nat) : Option (Nat × Nat) := c.map (fun x => (code, x))
  let checks : List (Option (Nat × Nat)) :=
    [sec (orSec (imTarget b == s.sys.address.toNat) 0) cIMAGE_TARGET,
     sec (orSec (signatureOk s b) 0) cIMAGE_SIGNATURE,
     sec (firstOfAll (es.map (fun e => orSec (Config.sha384 e.body == e.digest) e.id))) cIMAGE_DIGEST,
     sec (orSec (r.1 == 0) r.1) cIMAGE_FORMAT,
     sec (orSec (!whole || running < imVintage b) 0) cIMAGE_VINTAGE_OLD,
     sec (orSec (whole || (imBase b == running && imBase b < imVintage b)) 0) cIMAGE_BASE_MISMATCH,
     sec (classCheck whole es) cIMAGE_CLASS,
     sec (variantCheck s b t) cIMAGE_VARIANT,
     sec (capacityCheck t) cIMAGE_CAPACITY,
     sec (orSec (shareOk t) 1) cIMAGE_SHARE,
     sec (caskRefCheck t) cIMAGE_CASK_REF,
     sec (writerCheck t) cIMAGE_WRITER,
     stateChecks s old t,
     sec (orSec (sets < 15) 0) cIMAGE_PATCH_FULL]
  match checks.findSome? (fun c => c) with
  | some (code, x) => { code := code, sec := x }
  | none => { code := cIMAGE_OK, sec := 0, tabs := t }

/-! ### The tables in force -/

/-- The whole image a slot holds: its units in order, without the padding (R460). -/
def slotImage (f : FlashSlot) : List Byte := (f.units.flatMap (·.2)).take (leAt f.manifest 28 4)

/-- The tables of an image's sections over others. -/
def tabsOver (whole : Bool) (b : List Byte) (old : Tabs) : Tabs := withSlots (applyAll whole (secsById b) old).2

/-- The committed sets in force: a set whose commit Trellis cycle has still to come is not. -/
def setsInForce (s : State) : List (List Byte) :=
  let sets := (siSlot s).sets
  if s.img.state == .committing && s.img.held.isSome then sets.dropLast else sets

/-- The tables in force: the whole image in use with its committed sets applied in order. -/
def tabsNow (s : State) : Tabs :=
  if s.img.loaded then (setsInForce s).foldl (fun t b => tabsOver false b t) (tabsOver true (slotImage (siSlot s)) {}) else {}

end Sys2Proof.Machine
end

