-- ==== Sys2Proof/Machine/Activate.lean ====
section
/-!
DEFINITION. Activate.lean: the tables of an image taking effect in the islands: those that change together in the commit Trellis
cycle or in a whole load, and those that wait for a point of their own (spec/02_structure_image_and_casks.md R58 to R64).
-/
namespace Sys2Proof.Machine

/-! ### What changes in one Trellis cycle (R62, R63) -/

/-- The entry of a point after the change: one that stays keeps its value; a new one, or one of another TYPE, comes into existence now
(R63). -/
def enterPoint (s : State) (i : Nat) (p : Point) : Point :=
  let new : Point := { p with stamp := stampOf s .trellis p.domain }
  match pt? s i with
  | some q =>
    if q.type == p.type then
      { q with cask := p.cask, domain := p.domain, srcKind := p.srcKind, srcIndex := p.srcIndex, onBad := p.onBad, subst := p.subst,
               grant := p.grant }
    else new
  | none => new

/-- Points, routes and windows. -/
def putPoints (t : Tabs) (s : State) : State :=
  let ps := Tbl.mapV t.points (enterPoint s)
  { s with trl.points := ps, trl.routes := t.routes, img.windows := t.windows }

/-- The stations of a set of tables, keeping those whose record is unchanged. -/
def putStns (t : Tabs) (s : State) : State :=
  let all := sortBy (fun e => [e.1]) (t.fbStns ++ t.bsStns ++ t.adStns)
  let keep := fun (n : Nat) (x : Stn) => match Tbl.get? s.stn.tbl n with
    | some y =>
      if y.kind == x.kind && y.cask == x.cask && y.wdogMs == x.wdogMs && y.statusPoint == x.statusPoint && y.addr == x.addr &&
         y.sec == x.sec then y else x
    | none => x
  { s with stn.tbl := Tbl.mapV all keep }

/-- A CAN channel with its new record, stopped until its next START; a margin scan of it ends (R424). -/
def putChan (t : Tabs) (ch : Nat) (s : State) : State :=
  let r := Tbl.at t.can ch {}
  let s := if s.fbs.scan.ch == ch then endScan 0 s else s
  updCan ch (fun c => { c with rc := r, st := if r.role == 0 then .off else .stopped, q := [], wire := [], cycle := none, winDone := [],
                               rxSeen := [], arbTill := none }) s

/-- FIELDBUS: changed channels take their records (R62). -/
def putFieldbus (old t : Tabs) (s : State) : State :=
  let s := ((List.range 8).filter (canChanged old t)).foldl (fun s ch => putChan t ch s) s
  if old.frames == t.frames && old.wins == t.wins then s
  else { s with fbs.frames := t.frames, fbs.wins := t.wins, fbs.sent := [], fbs.trigAt := [], fbs.toBuild := [] }

/-- BUILDING: changed ports take their records; doors, schedules and quotas change at once. -/
def putBuilding (old t : Tabs) (s : State) : State :=
  let s := ((List.range 4).filter (daliChanged old t)).foldl (fun s p =>
    { s with fbs.dali := Tbl.upd s.fbs.dali p {} (fun d => { d with waiting := [], onBus := none, starting := [] }) }) s
  let s := { s with fbs.osdp := (List.range 2).foldl (fun o p =>
    Tbl.upd o p {} (fun x => { x with baud := nthD t.bauds p 0 })) s.fbs.osdp }
  let readers := Tbl.mapV t.readers (fun n r => match Tbl.get? s.fbs.readers n with
    | some x => if x.rc == r then x else { rc := r }
    | none => ({ rc := r } : Reader))
  { s with fbs.devs := t.devs, fbs.readers := readers, fbs.doors := t.doors, fbs.scheds := t.scheds, fbs.quotas := t.quotas,
           fbs.lift := t.lift }

/-- The ring map, keeping the paths of the nodes that stay. -/
def putNodes (old t : Tabs) (s : State) : State :=
  let keep := fun (_ : Nat) (n : Node) => match s.net.nodes.find? (fun e => e.2.mac == n.mac) with
    | some e => { n with pa := e.2.pa, pb := e.2.pb, fails := e.2.fails, suspect := e.2.suspect, ref := e.2.ref }
    | none => n
  let nodes := Tbl.mapV t.nodes keep
  { s with net := { s.net with
      nodes := nodes, ringId := t.ringId, fibre := t.fibre, ringQNs := t.ringQNs, ptpNs := t.ptpNs,
      mapAt := if old.nodes == t.nodes && s.net.admActive then s.net.mapAt else s.now } }

/-- A static flow context: one whose record stays keeps its counters. -/
def putFlow (s : State) (n : Nat) (x : Flow) : Flow :=
  match Tbl.get? s.net.flows n with
  | some y =>
    if y.fixed && y.rx == x.rx && y.cask == x.cask && y.periodMs == x.periodMs && y.npts == x.npts && y.spoint == x.spoint &&
       y.dpoint == x.dpoint && y.node == x.node && y.promiseNs == x.promiseNs && y.srcFlow == x.srcFlow then y else x
  | none => x

/-- ADMISSION: the map, the static flows and the loads of the admission that check 17 made (R331). -/
def putAdmission (old t : Tabs) (s : State) : State :=
  let adm := (admitAll (withRing t s) (flowsToAdmit s t) []).getD ([], [])
  let s := putNodes old t s
  let kept := s.net.flows.filter (fun e => !e.2.fixed)
  let flows := t.flows.foldl (fun fs f => Tbl.put fs f.1 (putFlow s f.1 f.2)) kept
  let phased := adm.1.foldl (fun fs p => Tbl.upd fs p.1 {} (fun x => { x with phase := p.2 })) flows
  { s with net := { s.net with flows := phased, loads := adm.2, admActive := true } }

/-- VINTNER bounds, keeping the last write of a target whose record stays. -/
def putVintner (t : Tabs) (s : State) : State :=
  let keep := fun (i : Nat) (r : VintRec) => match Tbl.get? s.pge.vint i with
    | some q => { r with last := q.last, lastAt := q.lastAt }
    | none => r
  { s with pge.vint := Tbl.mapV t.vint keep }

/-- Everything that changes together. -/
def putTables (old t : Tabs) (s : State) : State :=
  let s := putVintner t (putPoints t s)
  let s := putBuilding old t (putFieldbus old t s)
  let s := putStns t (putAdmission old t s)
  { s with pwr.power := t.power }

/-! ### CELLS -/

/-- A committed set changes a cell: its record waits for the next frame boundary (R83), and a test of it ends. -/
def changeCell (t : Tabs) (n : Nat) (s : State) : State :=
  let rc := Tbl.at t.cells n {}
  let s := if s.trl.test.state == .running && s.trl.test.cell == n then endTest cTEST_RELOAD s.trl.test.err s else s
  updCell n (fun c => { c with next := some rc }) s

/-! ### PROGRAM (R143 to R149) -/

/-- An affected task waits for its exchange boundary. -/
def affectTask (t : Tabs) (vintage n : Nat) (s : State) : State :=
  let staged := Tbl.get? t.tasks n
  updTask n (fun x =>
    let base := if x.exist then x.prog else { rc := (staged.getD {}).rc }
    let ex : Exch := { x.exch with
      st := .waiting, staged := staged, remove := staged.isNone, stagedVintage := vintage, boundaryAt := none, proc := none,
      matched := false, toMigrate := [], done := false, ctx := none, held := none }
    { x with prog := base, exch := ex }) s

/-- Cask program records of a set: added globals take their initial values (R149). -/
def changeProg (old : Tabs) (c : Nat) (r : ProgRec) (s : State) : State :=
  let had := (Tbl.at old.progs c {}).globalInit.length
  let s := if had < r.globalInit.length then instPut c had (r.globalInit.drop had) s else s
  updPCask c (fun k => { k with rc := r, defined := true }) s

/-- PROGRAM of a set. -/
def changeProgram (old t : Tabs) (vintage : Nat) (s : State) : State :=
  let s := t.progs.foldl (fun s e => if Tbl.get? old.progs e.1 == some e.2 then s else changeProg old e.1 e.2 s) s
  let ns := sortBy (fun n => [n]) ((old.tasks.map (·.1)) ++ ((t.tasks.map (·.1)).filter (fun n => !Tbl.has old.tasks n)))
  (ns.filter (fun n => Tbl.get? old.tasks n != Tbl.get? t.tasks n)).foldl (fun s n => affectTask t vintage n s) s

/-! ### LOOPS (R208) -/

/-- Mode of START_MODE (Table 6.2). -/
def startLoop (r : LoopRec) (s : State) : LoopSlot :=
  { rc := r, mode := if r.startMode == 1 then .manual else if r.startMode == 2 then .auto else .off,
    init := if r.startMode == 0 then none else some .off,
    manual := if r.startMode == 1 then some (w32 (freeNow s).toNat) else none }

/-- A new slot. The manual value that START_MODE MANUAL begins with is free: the spec gives none. -/
def addSlot (r : LoopRec) (s : State) : State :=
  let l := startLoop r s
  bumpFree { s with lpe.slots := Tbl.put s.lpe.slots r.slot l }

/-- LOOPS of a set: changed and removed slots act at their next sample instant. -/
def changeLoops (old t : Tabs) (s : State) : State :=
  let s := t.loops.foldl (fun s e => match Tbl.get? old.loops e.1 with
    | none => addSlot e.2 s
    | some r => if r == e.2 then s else updSlot e.1 (fun l => { l with next := some e.2, removing := false }) s) s
  old.loops.foldl (fun s e => if Tbl.has t.loops e.1 then s else updSlot e.1 (fun l => { l with removing := true, next := none }) s) s

/-! ### METER (R245, R246) -/

/-- The next whole minute of domain 1. -/
def nextMinute (s : State) : Nat := (localNs s .press 1 / 60000000000 + 1) * 60000000000

/-- A changed channel: it waits for an element that uses it, or takes effect at once. -/
def changeChan (t : Tabs) (n : Nat) (r : ChRec) (s : State) : State :=
  let s := updChan n (fun h => { h with next := some r }) s
  if t.elems.any (fun e => (namedChans e.2).contains n) || s.prs.elems.any (fun e => (namedChans e.2.rc).contains n) then s else takeChan n s

/-- METER of a set. -/
def changeMeter (old t : Tabs) (s : State) : State :=
  let s := t.chans.foldl (fun s e => if Tbl.get? old.chans e.1 == some e.2 then s else changeChan t e.1 e.2 s) s
  let s := t.elems.foldl (fun s e => match Tbl.get? old.elems e.1 with
    | none => { s with prs.elems := Tbl.put s.prs.elems e.1 { rc := e.2, actAt := nextMinute s } }
    | some r => if r == e.2 then s else updElem e.1 (fun x => { x with next := some e.2, removing := false }) s) s
  let s := old.elems.foldl (fun s e => if Tbl.has t.elems e.1 then s else updElem e.1 (fun x => { x with removing := true, next := none }) s) s
  t.pulses.foldl (fun s e => if Tbl.get? old.pulses e.1 == some e.2 then s
    else { s with prs.pulses := Tbl.put s.prs.pulses e.1 { rc := e.2 } }) s

/-! ### The commit Trellis cycle -/

/-- A set's tables take effect (R62, R63): those that change together now, the others at points of their own. -/
def activateSet (old t : Tabs) (vintage : Nat) (s : State) : State :=
  let s := putTables old t s
  let s := ((List.range 256).filter (cellChanged old t)).foldl (fun s n => changeCell t n s) s
  let s := changeMeter old t (changeLoops old t (changeProgram old t vintage s))
  let s := if t.safety == old.safety then s else { s with saf.mapLane := t.safety }
  noteBypass { s with img.vintage := vintage }

/-! ### The whole load -/

/-- The partitions in dynamic RAM, one behind the other in cask order (assumption 6). -/
def layPartitions (t : Tabs) : Tbl Nat :=
  (t.casks.foldl (fun (a : Nat × Tbl Nat) e => (a.1 + e.2.partMib * 0x100000, Tbl.put a.2 e.1 a.1)) (Config.partStart, [])).2

/-- Retuned sets that a slot gets back: those recorded with the same slot record (R207). -/
def rtBack (s : State) (r : LoopRec) : Tbl RetSet :=
  (s.lpe.rtStore.filter (fun e => e.1 / 8 == r.slot && e.2.rc == r)).map (fun e =>
    (e.1 % 8, { kp := e.2.kp, ki := e.2.ki, fbKp := e.2.kp, fbKi := e.2.ki, retuned := true }))

/-- Tasks and casks of the program engine (R136): every cask in STOP, its start still to come. -/
def loadProgram (t : Tabs) (vintage : Nat) (s : State) : State :=
  let tasks := Tbl.mapV t.tasks (fun _ p => ({ exist := true, prog := p, exch := { vintage := vintage } } : TaskSt))
  let s := { s with pge.tasks := tasks }
  t.progs.foldl (fun s e => updPCask e.1 (fun k =>
    { k with rc := e.2, defined := true, autoDue := true, clk := (retCopy s e.1).clk }) s) s

/-- Slots of the loop engine with their retuned sets. -/
def loadLoops (t : Tabs) (s : State) : State :=
  let s := t.loops.foldl (fun s e => updSlot e.1 (fun l => { l with rt := rtBack s e.2 }) (addSlot e.2 s)) s
  { s with lpe.rtStore := s.lpe.rtStore.filter (fun e => match Tbl.get? t.loops (e.1 / 8) with
      | some r => e.2.rc == r
      | none => false) }

/-- An element of the image: with the block Press restored before the load, closed when it is another circuit's (R245, R258); new
otherwise. A theft watch in progress goes on. -/
def loadElem (n : Nat) (r : ElemRec) (restored : Elem) (s : State) : State :=
  let fresh : Elem := { rc := r, actAt := nextMinute s, watch := restored.watch }
  if restored.outages == 0 then { s with prs.elems := Tbl.put s.prs.elems n fresh }
  else if sameCircuit restored.rc r then
    { s with prs.elems := Tbl.put s.prs.elems n { restored with rc := r, active := true, pubAt := s.now } }
  else
    let s := zeroElem n { s with prs.elems := Tbl.put s.prs.elems n restored }
    { s with prs.elems := Tbl.put s.prs.elems n { fresh with a := { acc := List.replicate 26 0 } } }

/-- Press: channels, elements, pulse outputs and tariff groups. -/
def loadMeter (t : Tabs) (s : State) : State :=
  let s := t.chans.foldl (fun s e =>
    updChan e.1 (fun h => { h with rc := e.2, next := none, gain := if e.2.autoGain then h.gain else e.2.gain }) s) s
  let old := s.prs.elems
  let s := { s with prs.elems := [] }
  let s := t.elems.foldl (fun s e => loadElem e.1 e.2 (Tbl.at old e.1 {}) s) s
  let s := { s with prs.pulses := Tbl.mapV t.pulses (fun n r =>
    let p := pulse s n
    if p.rc == r then p else { rc := r }) }
  if s.prs.trfSet then s
  else { s with prs.trfSet := true,
                prs.tariffs := (List.range 4).map (fun g => (g, { cur := fld t.trfInit (4 * g) 4 })) }

/-- Domains take their records and enter UNSET, or FOLLOWING (R344). -/
def loadTime (t : Tabs) (s : State) : State :=
  t.time.foldl (fun s e => updDom e.1 (fun d =>
    { rc := e.2, t := d.t, steps := d.steps, st := if e.2.source == .follow then .following else .unset, setLo := d.setLo,
      setHi := d.setHi, xs := d.xs }) s) s

/-- CELLS activates: frames are counted from here, start currents held go on for the frames left to them, and every cell takes its record
(R83, R105, R487). -/
def loadCells (t : Tabs) (s : State) : State :=
  let k := s.trl.frame
  let held := s.pwr.startHeld.map (fun h => match h.who with
    | .cell _ => { h with till := h.till - k }
    | .port _ => h)
  let cells := Tbl.mapV s.trl.cells (fun _ c => { c with holdTo := c.holdTo.map (fun f => f - k) })
  let s := { s with trl.cellsActive := true, trl.frame := 0, trl.frameAt := s.now, trl.cells := cells, pwr.startHeld := held }
  (List.range 256).foldl (fun s n => activateCell n (Tbl.at t.cells n {}) s) s

/-- R488: the running image uses an island. -/
def usesIsland (t : Tabs) : Island → Bool
  | .prog => !t.tasks.isEmpty
  | .loop => !t.loops.isEmpty
  | .fbus => t.can.any (fun e => e.2.role != 0) || !t.devs.isEmpty || !t.readers.isEmpty || !t.doors.isEmpty || t.lift.isSome
  | .press => !t.elems.isEmpty
  | _ => true

/-- The islands that R488 may halt. -/
def haltable : List Island := [.prog, .loop, .fbus, .press]

/-- Unused islands in RUN go to HALT (R488). -/
def haltUnused (t : Tabs) (s : State) : State :=
  haltable.foldl (fun s i => if isRun s i && !usesIsland t i then setIsl i .halt s else s) s

/-- The whole image with its applied sets takes effect. -/
def installImage (t : Tabs) (vintage : Nat) (s : State) : State :=
  let s := { s with img.casks := t.casks, img.partBase := layPartitions t, img.loaded := true, img.vintage := vintage }
  let s := putTables {} t s
  let s := loadCells t (loadTime t s)
  let s := loadMeter t (loadLoops t (loadProgram t vintage s))
  let s := match t.safety with
    | some b => { s with saf.mapLane := some b }
    | none => s
  let s := if s.key.lc == .provisioned then setLc .operational s else s
  noteBypass (haltUnused t s)

end Sys2Proof.Machine
end

