-- ==== Sys2Proof/Machine/Image.lean ====
section
/-!
DEFINITION. Image.lean: the structure-image commands: sectional sets and the whole load
(spec/02_structure_image_and_casks.md R55 to R67, R77, R517).
-/
namespace Sys2Proof.Machine

/-- End a load in IDLE with a code and the section concerned. -/
def endLoad (code sec : Nat) (s : State) : State :=
  { s with img.state := .idle, img.code := code, img.failSec := sec, img.held := none, img.awaiting := [], reply := .code code }

/-! ### STAGE (R60, R488) -/

/-- The set in cask 0's staging area. -/
def stagedBytes (s : State) : List Byte := memReadBytes s.mem.dram s.img.src.toNat s.img.len.toNat

/-- Check 3 of a STAGE on the staging registers. -/
def stageAreaOk (s : State) : Bool := s.img.src.toNat % 16 == 0 && inPartition s 0 s.img.src.toNat s.img.len.toNat

/-- Checks 2 to 18 of a set. -/
def validateSet (s : State) (b : List Byte) : LoadVerdict :=
  if isSealed s then { code := cIMAGE_SEALED }
  else if !containerOk 2 b.length b then { code := cIMAGE_FORMAT }
  else checkImage s false b (tabsNow s) s.img.vintage (siSlot s).sets.length

/-- Halted islands to which a set gives an object. -/
def islandsToWake (s : State) (t : Tabs) : List Island := haltable.filter (fun i => usesIsland t i && islState s i == .halt)

/-- The set is valid: it is written to the active slot as uncommitted, and the islands hold it (R60). -/
def holdSet (b : List Byte) (s : State) : State :=
  nextStore { s with img.state := .staged, img.code := cIMAGE_OK, img.failSec := 0, img.held := some { bytes := b },
                     reply := .code cIMAGE_OK }

/-- Validation of a set that has no island to wait for. -/
def finishStage (b : List Byte) (s : State) : State :=
  let v := validateSet s b
  if v.code == cIMAGE_OK then holdSet b s else endLoad v.code v.sec s

/-- STAGE: validation; a set that gives an object to a halted island wakes it first and stays in CHECKING until it runs. -/
def stageOp (s : State) : State :=
  if s.img.state != .idle then { s with img.code := cIMAGE_BUSY, reply := .code cIMAGE_BUSY }
  else
    let b := stagedBytes s
    if !isSealed s && !inPartition s 0 s.img.src.toNat s.img.len.toNat then
      endLoad cIMAGE_FORMAT 0 (denied 0x0B 12 s.img.src.toNat 0xFF 0x0804 0 s)
    else if !isSealed s && !stageAreaOk s then endLoad cIMAGE_FORMAT 0 s
    else
      let v := validateSet s b
      let wake := islandsToWake s v.tabs
      if v.code == cIMAGE_OK && !wake.isEmpty then
        wake.foldl (fun s i => queueWake i false s) { s with img.state := .checking, img.held := some { bytes := b } }
      else finishStage b s

/-- An island has entered RUN: a set in CHECKING goes on once every island it needs is in RUN (R488). -/
def continueStage (s : State) : State :=
  match s.img.state, s.img.held with
  | .checking, some h =>
    let v := validateSet s h.bytes
    if v.code != cIMAGE_OK || haltable.all (fun i => !usesIsland v.tabs i || isRun s i) then finishStage h.bytes s else s
  | _, _ => s

def execStage (iss : Issuer) (s : State) : Out :=
  regCmd iss .upd 0x0800 (fun s => if isOwner iss then stageOp s else s) s

/-! ### COMMIT and DISCARD -/

/-- The set goes behind the whole image as committed (R454). -/
def keepSet (b : List Byte) (s : State) : State := updSiSlot (fun f => { f with sets := f.sets ++ [b] }) s

/-- COMMIT: checks 15 to 17 again; then SCHEDULED with an activation time, or COMMITTING. -/
def commitOp (timed : Bool) (s : State) : State :=
  match s.img.state, s.img.held with
  | .staged, some h =>
    match stateChecks s (tabsNow s) (tabsOver false h.bytes (tabsNow s)) with
    | some (code, sec) => endLoad code sec s
    | none =>
      let s := { s with img.code := cIMAGE_OK, img.failSec := 0, reply := .code cIMAGE_OK }
      if timed then
        { s with img.state := .scheduled, img.held := some { h with at0 := some (s.img.atHi ++ s.img.atLo) } }
      else keepSet h.bytes { s with img.state := .committing }
  | _, _ => { s with img.code := cIMAGE_BUSY, reply := .code cIMAGE_BUSY }

def execCommit (iss : Issuer) (timed : Bool) (s : State) : Out :=
  regCmd iss .upd 0x0800 (fun s => if isOwner iss then commitOp timed s else s) s

/-- A staged set goes from flash and from the islands (R60). -/
def dropSet (code : Nat) (s : State) : State := endLoad code 0 s

/-- DISCARD. -/
def discardOp (s : State) : State :=
  if s.img.state == .staged then dropSet cIMAGE_OK s else { s with img.code := cIMAGE_BUSY, reply := .code cIMAGE_BUSY }

def execDiscard (iss : Issuer) (s : State) : Out :=
  regCmd iss .upd 0x0800 (fun s => if isOwner iss then discardOp s else s) s

/-! ### The commit Trellis cycle (R61 to R65) -/

/-- Sections of a set whose islands have to report (R65: not SAFETY). -/
def reporting (b : List Byte) : List Nat := ((secsById b).map (·.id)).filter (fun i => i != 12)

/-- Activation of the held set: the running vintage changes, and the islands report their sections one by one. -/
def commitCycle (b : List Byte) (s : State) : State :=
  let old := tabsNow s
  let t := tabsOver false b old
  let s := activateSet old t (imVintage b) s
  let s := { s with img.state := .committing, img.held := none, img.awaiting := reporting b }
  if s.img.awaiting.isEmpty then { s with img.state := .idle, img.code := cIMAGE_OK } else s

/-- A scheduled set whose time has come under trusted time; one kept over a power loss past its time is checked again (Table 2.7). -/
def scheduledCycle (h : HeldSet) (s : State) : State :=
  let old := tabsNow s
  match (if h.atStartUp then stateChecks s old (tabsOver false h.bytes old) else none) with
  | some (code, sec) => endLoad code sec s
  | none => keepSet h.bytes (commitCycle h.bytes s)

/-- COMMIT_TRELLIS_CYCLE. -/
def commitTrellisOp (s : State) : State :=
  match s.img.state, s.img.held with
  | .committing, some h => commitCycle h.bytes s
  | .scheduled, some h =>
    let reached := decide ((h.at0.getD 0).toNat ≤ localNs s .trellis 0)
    if !reached then
      if trusted s 0 then { s with img.held := some { h with atStartUp := false } } else s
    else if trusted s 0 then scheduledCycle h s
    else if h.waitTold then s
    else record (Config.openCode 1).toNat 0 (d4 (imVintage h.bytes)) { s with img.held := some { h with waitTold := true } }
  | _, _ => s

def execCommitTrellisCycle (s : State) : Out := .next (if isRun s .trellis then commitTrellisOp s else s)

/-- The island of a section has the whole of it active (R63). -/
def sectionActive (s : State) (sec : Nat) : Bool :=
  match sec with
  | 3 => s.trl.cells.all (fun e => e.2.next.isNone)
  | 6 => s.pge.tasks.all (fun e => e.2.exch.st != .waiting)
  | 7 => s.lpe.slots.all (fun e => e.2.next.isNone && !e.2.removing)
  | 8 => s.prs.elems.all (fun e => e.2.active && e.2.next.isNone && !e.2.removing)
  | _ => true

/-- SECTION_ACTIVE_REPORT: the last report ends the load. -/
def sectionReportOp (sec : Nat) (s : State) : State :=
  if s.img.state == .committing && s.img.held.isNone && s.img.awaiting.contains sec && sectionActive s sec then
    let left := s.img.awaiting.filter (· != sec)
    if left.isEmpty then { s with img.awaiting := [], img.state := .idle, img.code := cIMAGE_OK }
    else { s with img.awaiting := left }
  else s

def execSectionActiveReport (sec : Fin 16) (s : State) : Out := .next (sectionReportOp sec s)

/-! ### Abort (R67) -/

/-- The abort of a sectional load; in SCHEDULED and COMMITTING it is only recorded. -/
def loadAbortOp (s : State) : State :=
  match s.img.state with
  | .idle => s
  | .checking | .staged => dropSet cIMAGE_ABORTED s
  | .scheduled => record cIMAGE_ABORTED 0 (d1 3) s
  | .committing => record cIMAGE_ABORTED 0 (d1 4) s

def execSectionalLoadAbort (iss : Issuer) (s : State) : Out := abortCmd iss 0 .cluster loadAbortOp s

/-! ### The whole load (R58, R66, R517) -/

/-- What applying the committed sets in order gives: tables, vintage, the sets that applied, and the failure that stopped it with its
set. -/
structure SetsRun where
  tabs : Tabs := {}
  vintage : Nat := 0
  good : List (List Byte) := []
  failed : Option (Nat × Nat × List Byte) := none
  deriving DecidableEq, Repr

/-- Apply committed sets in order of vintage, each against the state the loads before it produced. -/
def applySets (s : State) : List (List Byte) → SetsRun → SetsRun
  | [], r => r
  | b :: rest, r =>
    let v := if containerOk 2 b.length b then checkImage s false b r.tabs r.vintage r.good.length
             else { code := cIMAGE_FORMAT }
    if v.code == cIMAGE_OK then applySets s rest { tabs := v.tabs, vintage := imVintage b, good := r.good ++ [b] }
    else { r with failed := some (v.code, v.sec, b) }

/-- What becomes of a sectional load that a power loss or reset caught (Table 2.7). -/
def settleHeld (s : State) : State :=
  match s.img.held with
  | none => { s with img.state := .idle }
  | some h =>
    match s.img.state with
    | .checking | .staged =>
      record cIMAGE_SET_LOST 0 (d1 (if s.img.state == .checking then 1 else 2) ++ d4 (imVintage h.bytes) ++ d4 (imBase h.bytes))
        { s with img.state := .idle, img.held := none }
    | .scheduled => { s with img.held := some { h with atStartUp := true } }
    | _ => { s with img.state := .idle, img.held := none }

/-- The verdict on the whole image of the slot in use. -/
def validateWhole (s : State) (b : List Byte) : LoadVerdict :=
  if isSealed s then { code := cIMAGE_SEALED }
  else if !containerOk 1 b.length b then { code := cIMAGE_FORMAT }
  else checkImage s true b {} 0 0

/-- No structure image runs (R517); inside a trial the module reverts (R470). -/
def loadFailed (v : LoadVerdict) (b : List Byte) (s : State) : State :=
  let s := { s with img.state := .idle, img.held := none, img.code := v.code, img.failSec := v.sec, img.vintage := 0 }
  if s.upd.rack.state == .trial then rackRevertOp 4 s
  else record cIMAGE_LOAD_FAILED 0 (d2 v.code ++ d4 (imVintage b) ++ d2 v.sec) s

/-- The image applies: with the sets before a failing one, which goes with every later one (R58). -/
def loadDone (r : SetsRun) (s : State) : State :=
  let s := updSiSlot (fun f => { f with sets := r.good }) s
  let s := installImage r.tabs r.vintage s
  match r.failed with
  | some (code, sec, b) =>
    record cIMAGE_SET_FAILED 0 (d2 code ++ d4 (imVintage b) ++ d4 (imBase b) ++ d2 sec)
      { s with img.code := code, img.failSec := sec }
  | none => { s with img.code := cIMAGE_OK, img.failSec := 0 }

/-- WHOLE_LOAD: prior mode is decided as it begins (R9, R485). -/
def wholeLoadOp (s : State) : State :=
  let s := settleHeld { s with sys.active := s.sys.strap || s.sys.prior, pwr.loadDone := true, img.awaiting := [] }
  let b := slotImage (siSlot s)
  let v := validateWhole s b
  if v.code == cIMAGE_OK then loadDone (applySets s (siSlot s).sets { tabs := v.tabs, vintage := imVintage b }) s
  else loadFailed v b s

/-- The whole load of a start-up may run: once, outside recovery, when no island is still to be woken (R486). -/
def mayLoad (s : State) : Bool :=
  logicUp s && s.pwr.started && !s.pwr.recovery && !s.pwr.loadDone && s.pwr.wakeQ.isEmpty &&
  s.sys.isl.all (fun e => e.2 != .waking)

def execWholeLoad (s : State) : Out := .next (if mayLoad s then wholeLoadOp s else s)

end Sys2Proof.Machine
end

