-- ==== Sys2Proof/Machine/Update.lean ====
section
/-!
DEFINITION. Update.lean: racking commands (spec/15_update_and_racking.md R454 to R475).
-/
namespace Sys2Proof.Machine

/-! ### Packages (R460, R461, R464) -/

/-- Bytes of the download buffer, and of the tag registers. -/
def dlBytes (s : State) (words : Nat) : List Byte := (List.range words).flatMap (fun i => toLe 4 (Tbl.at s.upd.dlBuf i 0).toNat)
def dlTagBytes (s : State) : List Byte := (List.range 4).flatMap (fun i => toLe 4 (Tbl.at s.upd.dlTag i 0).toNat)

/-- Fields of the manifest (Table 15.2). -/
def mKinds (m : List Byte) : Nat := leAt m 6 1
def mFwLen (m : List Byte) : Nat := leAt m 20 4
def mSiLen (m : List Byte) : Nat := leAt m 28 4
def mFwVintage (m : List Byte) : Nat := leAt m 16 4
def mSiVintage (m : List Byte) : Nat := leAt m 24 4

/-- Fragments of an image (R460: padded to a multiple of 4,096 bytes). -/
def fragsOf (len : Nat) : Nat := (len + 4095) / 4096

/-- Check 1: MAGIC, FORMAT, KINDS and lengths. -/
def manifestForm (m : List Byte) : Bool :=
  let k := mKinds m
  leAt m 0 4 == 0x4B434152 && leAt m 4 2 == 1 && 1 ≤ k && k ≤ 3 && allZero (bytesAt m 184 8) &&
  (if bitOf k 0 then 1 ≤ mFwLen m && mFwLen m ≤ 120 * 0x100000
   else mFwLen m == 0 && mFwVintage m == 0 && leAt m 36 2 == 0) &&
  (if bitOf k 1 then 1 ≤ mSiLen m && mSiLen m ≤ 64 * 0x100000 else mSiLen m == 0 && mSiVintage m == 0) &&
  leAt m 32 4 == fragsOf (mFwLen m) + fragsOf (mSiLen m)

/-- The module's bit of a VARIANTS field (Table 2.1). -/
def variantBit (v : Variant) : Nat :=
  match v with
  | .v00 => 0
  | .m0 => 1
  | .ms => 2

/-- Check 2: TARGET and VARIANTS. -/
def manifestTarget (s : State) (m : List Byte) : Bool :=
  (leAt m 12 2 == s.sys.address.toNat || (leAt m 12 2 == 0xFFFF && !bitOf (mKinds m) 1)) &&
  bitOf (leAt m 14 1) (variantBit s.sys.variant)

/-- Check 3: the signature under SIGNER_SLOT (R439). -/
def manifestSigned (s : State) (m : List Byte) : Bool :=
  let k := kslot s (leAt m 7 1)
  leAt m 7 1 < 64 && slotFor s k 12 && slotType k == 2 && slotCask k == 0 &&
  Config.ecdsaVerify k.key (m.take 192) (bytesAt m 192 96)

/-- Check 4: the content key, unwrapped under WRAP_SLOT. -/
def unwrapKey (s : State) (m : List Byte) : Option (List Byte) :=
  let k := kslot s (leAt m 15 1)
  let nonce := bytesAt m 8 4 ++ d4 0xFFFFFFFF ++ d4 0
  let ct := bytesAt m 40 32
  if leAt m 15 1 < 64 && slotFor s k 14 && slotType k == 1 && slotCask k == 0 &&
     Config.gcmTag k.key nonce [] ct == bytesAt m 72 16 then some (Config.gcmXor k.key nonce ct) else none

/-- Check 5: vintages above the running ones. -/
def manifestNew (s : State) (m : List Byte) : Bool :=
  (!bitOf (mKinds m) 0 || s.upd.fwVintage < mFwVintage m) && (!bitOf (mKinds m) 1 || s.img.vintage < mSiVintage m)

/-- R464: the checks in order; the content key once all pass. -/
def checkManifest (s : State) (m : List Byte) : Nat × List Byte :=
  if !manifestForm m || !manifestTarget s m then (cUPD_MANIFEST, [])
  else if !manifestSigned s m then (cUPD_SIGNATURE, [])
  else match unwrapKey s m with
    | none => (cUPD_UNWRAP, [])
    | some k =>
      if !manifestNew s m then (cUPD_VINTAGE_OLD, [])
      else if s.upd.cfg < leAt m 38 2 then (cUPD_MANIFEST, [])
      else (cUPD_OK, k)

/-! ### The command register (R463) -/

/-- Set the code of UPD_CMD_STATUS and answer it. -/
def updCode (c : Nat) (s : State) : State := { s with upd.code := c, reply := .code c }

/-- An activation waits for its final save, or for a load. -/
def activationBusy (s : State) : Bool :=
  s.upd.activating || (s.upd.rack.state == .scheduled && (match s.pwr.awaitSave with | some (m, _) => bitOf m 6 | none => false))

/-- A write of UPD_CMD by cask 0: sealed and unfitting states refuse it (R463); any command ends the halt of a verification (R475). -/
def updCmd (iss : Issuer) (fits : RackState → Bool) (op : State → State) (s : State) : Out :=
  regCmd iss .upd 0x0004 (fun s =>
    if !isOwner iss then s
    else
      let s := { s with upd.stopped := false }
      if isSealed s then updCode cUPD_SEALED s
      else if activationBusy s || !fits s.upd.rack.state then updCode cUPD_STATE s
      else op s) s

/-- Bits of ACTIVE with those of KINDS changed over: the slots to rack into. -/
def targetOf (active kinds : Nat) : Nat := maskOf 2 (fun i => bitOf active i != bitOf kinds i)

/-- BEGIN with a good manifest: the TARGET slots take it, each as an item with its own store generation (R455). -/
def beginOp (m key : List Byte) (s : State) : State :=
  let k := mKinds m
  let gen := s.upd.rack.storeGen
  let n := b2n (bitOf k 0) + b2n (bitOf k 1)
  let r := fun (r : RackRec) => { r with
    state := .downloading, kinds := k, setsLost := false, fails := 0, target := targetOf r.active k, nfrag := leAt m 32 4, next := 0,
    storeGen := r.storeGen + n, cfgOld := s.upd.cfg, cfgNew := leAt m 36 2, at0 := 0, confStart := 0, confEnd := 0,
    manifest := (Config.sha384 m).take 12 }
  let s := writeRack r { s with upd.contentKey := some key }
  updCode cUPD_OK (updTargets (fun _ => { used := true, manifest := m, gen := gen + 1 }) s)

def execRackBegin (iss : Issuer) (s : State) : Out :=
  updCmd iss (· == .idle) (fun s =>
    let m := dlBytes s 72
    let c := checkManifest s m
    if s.pwr.shed then s
    else if c.1 == cUPD_OK then beginOp m c.2 s else updCode c.1 s) s

/-! ### Fragments (R461, R465) -/

/-- The manifest in the TARGET slots. -/
def rackManifest (s : State) : List Byte :=
  let r := s.upd.rack
  if bitOf r.kinds 0 then (if bitOf r.target 0 then s.upd.fwB else s.upd.fwA).manifest else (targetSi s).manifest

/-- Write unit `f` of the package body to the slot it belongs to. -/
def writeUnit (f : Nat) (b : List Byte) (s : State) : State :=
  let r := s.upd.rack
  let nfw := if bitOf r.kinds 0 then fragsOf (mFwLen (rackManifest s)) else 0
  let put := fun (u : Nat) (x : FlashSlot) => { x with units := Tbl.put x.units u b }
  if f < nfw then
    (if bitOf r.target 0 then { s with upd.fwB := put f s.upd.fwB } else { s with upd.fwA := put f s.upd.fwA })
  else if bitOf r.target 1 then { s with upd.siB := put (f - nfw) s.upd.siB } else { s with upd.siA := put (f - nfw) s.upd.siA }

/-- A fragment is authenticated, written and counted; after the last one verification begins. After a start-up the content key is
unwrapped again from the stored manifest (R464). During a VIN-fail warning no program of the flash starts (Table 16.2). -/
def fragOp (flashOk : Bool) (s : State) : State :=
  let f := s.upd.dlFrag.toNat
  let m := rackManifest s
  if s.pwr.shed then s
  else if f != s.upd.rack.next then updCode cUPD_FRAG_ORDER s
  else match s.upd.contentKey.orElse (fun _ => unwrapKey s m) with
  | none => updCode cUPD_UNWRAP s
  | some key =>
    let s := { s with upd.contentKey := some key }
    let nonce := bytesAt m 8 4 ++ d4 f ++ d4 0
    let ct := dlBytes s 1024
    if Config.gcmTag key nonce ((Config.sha384 m).take 16) ct != dlTagBytes s then updCode cUPD_FRAG_AUTH s
    else if !flashOk then updCode cUPD_FLASH s
    else
      let s := writeUnit f (Config.gcmXor key nonce ct) s
      let s := writeRack (fun r =>
        { r with next := r.next + 1, state := if r.next + 1 == r.nfrag then .verifying else .downloading }) s
      updCode cUPD_OK s

def execRackFrag (iss : Issuer) (flashOk : Bool) (s : State) : Out := updCmd iss (· == .downloading) (fragOp flashOk) s

/-! ### Verification (R466) -/

/-- The firmware image a slot holds. -/
def fwImage (f : FlashSlot) : List Byte := (f.units.flatMap (·.2)).take (mFwLen f.manifest)

/-- The firmware slot that a bit of ACTIVE or TARGET names. -/
def fwSlot (s : State) (bits : Nat) : FlashSlot := if bitOf bits 0 then s.upd.fwB else s.upd.fwA

/-- The firmware image: digest and its own signature. -/
def fwVerified (s : State) : Bool :=
  let b := fwImage (fwSlot s s.upd.rack.target)
  Config.sha384 b == bytesAt (rackManifest s) 88 48 && Config.firmwareOk b

/-- The structure image: digest, checks 3 to 6, the body row and check 10 of Table 2.5. -/
def siVerified (s : State) : Bool :=
  let b := slotImage (targetSi s)
  let es := secsById b
  let r := applyAll true es {}
  Config.sha384 b == bytesAt (rackManifest s) 136 48 && containerOk 1 b.length b && imTarget b == s.sys.address.toNat &&
  signatureOk s b && es.all (fun e => Config.sha384 e.body == e.digest) && r.1 == 0 && (variantCheck s b (withSlots r.2)).isNone

/-- The verification of every stored unit ends. -/
def verifyOp (readBackOk : Bool) (s : State) : State :=
  let k := s.upd.rack.kinds
  let ok := readBackOk && (!bitOf k 0 || fwVerified s) && (!bitOf k 1 || siVerified s)
  let s := { s with upd.contentKey := none }
  if ok then writeRack (fun r => { r with state := .verified }) s
  else updCode cUPD_VERIFY (writeRack (fun r => { r with state := .idle }) (updTargets (fun _ => {}) s))

def execVerifyComplete (readBackOk : Bool) (s : State) : Out :=
  .next (if logicUp s && s.upd.rack.state == .verifying && !s.upd.stopped && !isSealed s then verifyOp readBackOk s else s)

/-! ### Activation (R467, R468) -/

/-- The activation in progress, or the scheduled one whose time has come under trusted time. -/
def activationDue (s : State) : Bool :=
  match s.upd.rack.state with
  | .verified => s.upd.activating
  | .scheduled => trusted s 0 && s.upd.rack.at0.toNat ≤ localNs s .cluster 0
  | _ => false

/-- Steps 3 and 4: the record is written PENDING and the reset asserted, with any other source that has waited for the save. -/
def pendingOp (s : State) : State :=
  let m := (s.pwr.awaitSave.map (·.1)).getD 0
  let s := writeRack (fun r => { r with state := .pending, fails := 0 }) { s with upd.activating := false, pwr.awaitSave := none }
  let s := record cUPD_ACTIVATED 0 [] s
  { s with pwr.latch := s.pwr.latch ||| m ||| 64 }

/-- Steps 1 to 4: a staged set is discarded, a load further on is waited for, and Press commits its final save first. -/
def activationOp (s : State) : State :=
  match s.img.state with
  | .scheduled | .committing => s
  | st =>
    let s := if st == .idle then s else dropSet cIMAGE_OK s
    match s.pwr.awaitSave with
    | some (m, _) => if bitOf m 6 && saveAwaited s then pendingOp s else requestReset 6 true s
    | none => if isRun s .press then requestReset 6 true s else pendingOp s

def execRackActivation (s : State) : Out := .next (if logicUp s && activationDue s then activationOp s else s)

/-- ACTIVATE takes the confirmation window and the activation time. -/
def activateOp (timed : Bool) (s : State) : State :=
  let h := fld s.upd.confH.toNat 0 10
  if h < 1 || 720 < h then updCode cUPD_PARAM s
  else if timed then
    let t := s.upd.atHi ++ s.upd.atLo
    updCode cUPD_OK (writeRack (fun r => { r with state := .scheduled, at0 := t, confH := h }) s)
  else activationOp { updCode cUPD_OK (writeRack (fun r => { r with at0 := 0, confH := h }) s) with upd.activating := true }

def execRackActivate (iss : Issuer) (timed : Bool) (s : State) : Out := updCmd iss (· == .verified) (activateOp timed) s

/-- CANCEL. -/
def cancelOp (s : State) : State :=
  updCode cUPD_OK (writeRack (fun r => { r with state := .idle }) (updTargets (fun _ => {}) { s with upd.contentKey := none }))

def execRackCancel (iss : Issuer) (s : State) : Out :=
  updCmd iss (fun r => r == .downloading || r == .verifying || r == .verified || r == .scheduled) cancelOp s

/-! ### Confirmation and revert (R470, R471) -/

/-- CONFIRM below CONF_END; before boot completion there is no window yet, and CONFIRM is accepted (DEDUCED: R470 refuses at or after
CONF_END only). -/
def confirmOp (s : State) : State :=
  let r := s.upd.rack
  if r.confEnd != 0 && r.confEnd ≤ s.cel.opSec then updCode cUPD_EXPIRED s
  else
    let s := writeRack (fun r => { r with active := r.target, state := .idle, booting := false, pwrFail := false }) s
    let s := { s with upd.cfg := s.upd.trialCfg.getD s.upd.cfg, upd.trialCfg := none }
    updCode cUPD_OK (record cUPD_CONFIRMED 0 [] s)

def execRackConfirm (iss : Issuer) (s : State) : Out := updCmd iss (· == .trial) confirmOp s

def execRackRevert (iss : Issuer) (s : State) : Out :=
  updCmd iss (· == .trial) (fun s => rackRevertOp 3 (updCode cUPD_OK s)) s

/-- CONFIRMATION_EXPIRY: operating seconds have reached CONF_END. -/
def execConfirmationExpiry (s : State) : Out :=
  let r := s.upd.rack
  .next (if logicUp s && r.state == .trial && r.confEnd != 0 && r.confEnd ≤ s.cel.opSec then rackRevertOp 2 s else s)

/-- The whole image passed its load and every island the image uses is in RUN; a committed set that failed was dropped (R58). -/
def bootReached (s : State) : Bool :=
  let t := tabsNow s
  s.img.loaded && s.pwr.loadDone && !s.pwr.bootDone &&
  [Island.cluster, .key, .trellis, .ring].all (isRun s) && haltable.all (fun i => !usesIsland t i || isRun s i)

/-- BOOT_COMPLETION: in a trial BOOTING and PWRFAIL are cleared, and the first one opens the confirmation window. -/
def bootOp (s : State) : State :=
  let s := { s with pwr.bootDone := true }
  if s.upd.rack.state != .trial then s
  else writeRack (fun r =>
    let w := r.confEnd == 0
    { r with booting := false, pwrFail := false, confStart := if w then s.cel.opSec else r.confStart,
             confEnd := if w then s.cel.opSec + r.confH * 3600 else r.confEnd }) s

def execBootCompletion (s : State) : Out := .next (if logicUp s && bootReached s then bootOp s else s)

/-! ### Abort (R475) -/

/-- A verification stops; a fragment being written is not counted (a FRAG command writes and counts at once). -/
def updAbortOp (s : State) : State :=
  let s := if s.upd.rack.state == .verifying then { s with upd.stopped := true, upd.code := cUPD_ABORTED } else s
  record cUPD_ABORTED 0 [] s

def execUpdAbort (iss : Issuer) (s : State) : Out := abortCmd iss 10 .cluster updAbortOp s

/-! ### The start stage (R464, R469, R472) -/

/-- Boot the TARGET slots: BOOTING set, the content of the trial-format area converted when the format differs. -/
def bootTarget (f : RackRec → RackRec) (s : State) : State :=
  let s := writeRack (fun r => { f r with state := .trial, booting := true }) s
  let r := s.upd.rack
  { s with upd.running := r.target,
           upd.trialCfg := if bitOf r.kinds 0 && r.cfgNew != r.cfgOld then some (s.upd.trialCfg.getD r.cfgNew) else none }

/-- The start stage reads the record before it boots any image. -/
def startStage (s : State) : State :=
  let r := s.upd.rack
  match r.state with
  | .pending => bootTarget (fun r => { r with fails := 0, pwrFail := false }) s
  | .trial =>
    if !r.booting then bootTarget id s
    else if r.pwrFail then bootTarget (fun r => { r with pwrFail := false }) s
    else
      let n := r.fails + 1
      let s := record cUPD_TRIAL_FAIL 0 (d1 n) s
      if 3 ≤ n then rackRevertOp 1 (writeRack (fun r => { r with fails := 3 }) s)
      else bootTarget (fun r => { r with fails := n }) s
  | _ => { s with upd.running := r.active }

end Sys2Proof.Machine
end

