-- ==== Sys2Proof/Machine/Power.lean ====
section
/-!
DEFINITION. Power.lean: supplies, resets, start-up, the power budget manager and the reduced states
(spec/16_power_reset_startup.md R477 to R496; spec/17_electrical_mechanical_service.md R513).
-/
namespace Sys2Proof.Machine

def cPWR_OK : Nat := 0x0F00
def cPWR_STATE : Nat := 0x0F01
def cPWR_KEY : Nat := 0x0F02
def cPWR_VIN_WARN : Nat := 0x0F10
def cPWR_VIN_CLEAR : Nat := 0x0F11
def cPWR_RESET : Nat := 0x0F12
def cPWR_FSUP_LOW : Nat := 0x0F13
def cPWR_STANDBY : Nat := 0x0F16
def cPWR_ISLAND_FAIL : Nat := 0x0F17
def cPWR_RECOVERY : Nat := 0x0F18

/-! ### Supplies (R477) -/

/-- VIN_START: VIN qualifies; an always-on rail that starts from off latches POWER_ON (Table 16.4). A warning in force is withdrawn
by PWR_VIN_CLEAR alone. -/
def execVinStart (millivolts heldUs : Nat) (railsOk : Bool) (s : State) : Out :=
  .next (if 9000 ≤ millivolts && 10000 ≤ heldUs && railsOk then
    let s := if s.pwr.railUp || !s.pwr.resetOn then s else { s with pwr.latch := 1 }
    { s with pwr.vinOk := s.pwr.vinOk || !s.pwr.warn, pwr.railUp := true, pwr.vinMv := millivolts }
  else s)

/-- The VIN-fail warning (R479). -/
def vinWarnOp (s : State) : State :=
  let s := if isRun s .press then takeFinalSave s else s
  let s := if s.upd.rack.state == .trial && s.upd.rack.booting then writeRack (fun r => { r with pwrFail := true }) s else s
  let s := { s with pwr.warn := true, pwr.shed := true, pwr.vinOk := false }
  record cPWR_VIN_WARN 0 [] (closeSessions (fun _ => true) 3 s)

def execPwrVinWarn (millivolts heldUs : Nat) (s : State) : Out :=
  .next (if logicUp s && !s.pwr.warn && millivolts < 8000 && 20 ≤ heldUs then vinWarnOp { s with pwr.vinMv := millivolts } else s)

/-- The warning is withdrawn before hold-up ends (R481); Press goes on by itself at its next samples (R257). -/
def vinClearOp (s : State) : State :=
  record cPWR_VIN_CLEAR 0 [] { s with pwr.warn := false, pwr.shed := false, pwr.vinOk := true, pwr.latchSave := false }

def execPwrVinClear (millivolts heldUs : Nat) (s : State) : Out :=
  .next (if logicUp s && s.pwr.warn && s.pwr.latch == 0 && 8500 ≤ millivolts && 10000 ≤ heldUs then
    vinClearOp { s with pwr.vinMv := millivolts } else s)

/-- The hold-up store reaches its threshold (R481): Press stops measuring (R262), and the reset is asserted with its source. -/
def holdupOp (s : State) : State :=
  let s := if isRun s .press then startUnmeasured s else s
  { s with pwr.latch := s.pwr.latch ||| (if s.pwr.railUp then 2 else 1) }

def execHoldupEnd (s : State) : Out := .next (if logicUp s && s.pwr.warn then holdupOp s else s)

/-- ALWAYS_ON_RAIL_STOP: the rail is off, and with it the latch of PWR_RESET_CAUSE (R484). -/
def execAlwaysOnRailStop (millivolts : Nat) (s : State) : Out :=
  .next (if s.pwr.railUp && millivolts < 4500 then
    let s := { s with pwr.railUp := false, pwr.vinOk := false, pwr.vinMv := millivolts }
    if s.pwr.resetOn then { s with pwr.latch := 0 } else s
  else s)

/-- PWR_FSUP_LOW. -/
def execPwrFsupLow (millivolts heldUs : Nat) (s : State) : Out :=
  .next (if logicUp s && !s.pwr.fsupLow && millivolts < 16000 && 1000 ≤ heldUs then
    record cPWR_FSUP_LOW 0 [] { s with pwr.fsupLow := true, pwr.fsupMv := millivolts } else s)

/-- FSUP_RESTORED. -/
def execFsupRestored (millivolts heldUs : Nat) (s : State) : Out :=
  .next (if logicUp s && s.pwr.fsupLow && 17000 ≤ millivolts && 10000 ≤ heldUs then
    { s with pwr.fsupLow := false, pwr.fsupMv := millivolts } else s)

/-! ### Reset sources (R483, R484) -/

/-- RESET_PIN: RESET_N low for 1 ms; a source seen during an assertion is latched too. -/
def execResetPin (lowUs : Nat) (s : State) : Out :=
  .next (if s.pwr.railUp && 1000 ≤ lowUs then requestReset 2 false s else s)

/-- WATCHDOG_RESET: not refreshed for 2 s. -/
def execWatchdogReset (s : State) : Out :=
  .next (if logicUp s && s.pwr.wdogAt + 2000000000 ≤ s.now then requestReset 3 false s else s)

def execExceptionReset (s : State) : Out := .next (if logicUp s then requestReset 4 false s else s)

/-- Set the issuer's PWR_CMD_STATUS code. -/
def pwrCode (iss : Issuer) (c : Nat) (s : State) : State :=
  { s with pwr.cmdStatus := Tbl.put s.pwr.cmdStatus iss.cask c, reply := .code c }

/-- A write of SYS_RESET. -/
def sysResetOp (iss : Issuer) (w : Word) (s : State) : State :=
  if fld w.toNat 16 16 != 0xA5C3 then pwrCode iss cPWR_KEY s
  else if bitOf w.toNat 0 then requestReset 5 true (pwrCode iss cPWR_OK s)
  else s

def execSysReset (iss : Issuer) (w : Word) (s : State) : Out := regCmd iss .sys 0x0020 (sysResetOp iss w) s

/-! ### The logic-side reset (R482) -/

/-- A reset source is in force: one that acts at once, or one whose final save has been waited for; an activation first writes
PENDING (R468). -/
def resetDue (s : State) : Bool :=
  s.pwr.latch != 0 ||
  (saveAwaited s && !((match s.pwr.awaitSave with | some (m, _) => m == 64 | none => false) &&
    (s.upd.activating || s.upd.rack.state == .scheduled)))

/-- Bits of the sources of this assertion. -/
def resetSources (s : State) : Nat :=
  match s.pwr.awaitSave with
  | some (m, _) => s.pwr.latch ||| m
  | none => s.pwr.latch

/-- The islands that lose their state: what stays is ferroelectric memory, flash, the key cells, the Cellar, the retained record of Press
and the safety island. -/
def clearIslands (s : State) : State :=
  { s with
    sys := { variant := s.sys.variant, ext := s.sys.ext, address := s.sys.address, serial := s.sys.serial,
             mac := s.sys.mac, saved := s.sys.saved,
             isl := [(0, .off), (10, islState s .cellar)] },
    mem := { fram := s.mem.fram },
    img := { state := s.img.state, held := s.img.held },
    trl := {}, stn := {}, reply := .none,
    pge := { retain := s.pge.retain, journal := s.pge.journal },
    lpe := { rtStore := s.lpe.rtStore },
    prs := { bankA := s.prs.bankA, bankB := s.prs.bankB, ret := s.prs.ret, vmbMv := s.prs.vmbMv, lostTell := s.prs.lostTell,
             watchAt := s.prs.watchAt,
             elems := (s.prs.elems.filter (fun e => e.2.watch.isSome)).map (fun e => (e.1, { rc := e.2.rc, watch := e.2.watch })) },
    fbs := { credFlash := s.fbs.credFlash },
    net := { bypOps := if s.net.inRing then satInc s.net.bypOps max32 else s.net.bypOps },
    tim := { clockId := s.tim.clockId } }

/-- What the Cluster side keeps for the Cellar, the safety island and the key engine goes too. -/
def clearMirrors (s : State) : State :=
  let k := s.key
  { s with
    cel := { s.cel with banks := [], posted := [], cmdStatus := [], sync := none, leapAt := none, calAt := none, calTrust := false,
                        winOk := false },
    saf := { s.saf with mirror := [], stale := true, mapLane := none },
    key := { k with
      factory := none, site := none, service := none, cache := [], purging := false, purges := 0, staleCount := 0, window := false,
      cmdStatus := [], attesting := none, src := 0, len := 0, atLo := 0, atHi := 0, ops := [], nonce := [], report := [],
      clients := [], peerMac := [], sessions := [] } }

/-- The racking record and the slots stay; UPD's registers and the content key go. -/
def clearUpd (s : State) : State :=
  let u := s.upd
  { s with upd := { rack := u.rack, older := u.older, fwA := u.fwA, fwB := u.fwB, siA := u.siA, siB := u.siB, running := u.running,
                    fwVintage := u.fwVintage, cfg := u.cfg, trialCfg := u.trialCfg } }

/-- PWR: supplies, the latch and PWR_RESET_CAUSE stay, since they lie on the always-on rail. -/
def clearPwr (s : State) : State :=
  let p := s.pwr
  { s with pwr := { vinOk := p.vinOk, railUp := p.railUp, resetOn := true, resetAt := s.now, vinMv := p.vinMv, vinMa := p.vinMa,
                    fsupMv := p.fsupMv, fsupMa := p.fsupMa, cause := p.cause, finalSave := p.finalSave, latch := resetSources s,
                    latchSave := p.latchSave } }

/-- LOGIC_RESET. -/
def logicResetOp (s : State) : State := clearPwr (clearUpd (clearMirrors (clearIslands s)))

def execLogicReset (s : State) : Out := .next (if logicUp s && resetDue s then logicResetOp s else s)

/-! ### Start-up (R485, R486) -/

/-- The islands woken at start-up, in order; on FLO-946-00 Press stays OFF (R488). -/
def wakeOrder (v : Variant) : List Island :=
  [Island.key, .trellis, .ring, .fbus, .prog, .loop] ++ (if v == .v00 then [] else [.press])

/-- The firmware image of the slots to boot passes its check; a slot no racking has written holds the firmware fitted at
manufacture. -/
def firmwareGood (s : State) : Bool :=
  let f := fwSlot s s.upd.running
  !f.used || Config.firmwareOk (fwImage f)

/-- The firmware check fails (R486): a trial reverts; otherwise the module stays in recovery, with no further wake-up. -/
def firmwareFailed (s : State) : State :=
  let s := { s with pwr.wakeQ := [] }
  if s.upd.rack.state == .trial then rackRevertOp 1 s
  else record cPWR_RECOVERY 0 [] { s with pwr.recovery := true }

/-- A marked journal is completed (R129). -/
def completeJournal (s : State) : State :=
  match s.pge.journal with
  | some j =>
    if j.marked then { s with mem.fram := j.lines.foldl (fun m e => memWriteBytes m (instKey j.cask e.1) e.2) s.mem.fram } else s
  | none => s

/-- The reset is released: causes are loaded, the strap is sampled, and SAVED asks for prior mode (R484, R485). -/
def releaseReset (strap : List Bool) (s : State) : State :=
  let s := { s with
    pwr := { s.pwr with
      resetOn := false, started := true, cause := s.pwr.latch, latch := 0,
      finalSave := ((newestBank s).map (·.final)).getD false, latchSave := false, awaitSave := none, wdogAt := s.now, wakeQ := [],
      recovery := false, loadDone := false, bootDone := false },
    sys := { s.sys with strap := strap.length == 8 && strap.all (fun high => !high), prior := s.sys.prior || s.sys.saved } }
  let s := setIsl .cluster .run s
  record cPWR_RESET 0 (d1 s.pwr.cause ++ d1 (b2n s.pwr.finalSave)) s

/-- START_UP up to the wake-up requests. -/
def startUpOp (strap : List Bool) (s : State) : State :=
  let s := completeJournal (restoreCellar (releaseReset strap s))
  let s := startStage { s with key.abandoned := false, upd.stopped := false }
  if s.pwr.latch != 0 then s
  else
    let s := { s with upd.fwVintage := mFwVintage (fwSlot s s.upd.running).manifest }
    let s := queueWake .key false s
    if firmwareGood s then (wakeOrder s.sys.variant).foldl (fun s i => queueWake i false s) s
    else
      let s := firmwareFailed s
      if s.pwr.recovery then queueWake .key false s else s

/-- START_UP: once VIN is qualified, the Cellar is on main (R486) and the reset has been held for 1 ms (R482). -/
def execStartUp (strapSamples : List Bool) (s : State) : Out :=
  .next (if !s.pwr.started && s.pwr.vinOk && !s.cel.battery && (!s.pwr.resetOn || decide (s.pwr.resetAt + 1000000 ≤ s.now)) then
    startUpOp strapSamples s else s)

/-! ### Wake-ups (R489, R490) -/

/-- Current of a wake-up at a measured VIN, referred to 24 V, in nA. -/
def wakeNa (i : Island) (vinMv : Nat) : Nat := ((wakeFigures i).1 * 24000 * 1000000 + (vinMv - 1)) / vinMv

/-- Wake currents not yet released. -/
def wakeLive (s : State) : List WakeHold := s.pwr.wakeHeld.filter (fun h => s.now < h.till)

/-- The request to look at next: in standby only a resume wake-up. -/
def nextWake (s : State) : Option WakeReq :=
  if s.pwr.standby then s.pwr.wakeQ.find? (fun r => r.resume) else s.pwr.wakeQ.head?

/-- Admit a request: its island is WAKING and its current held for T_WAKE. -/
def admitWake (r : WakeReq) (na : Nat) (s : State) : State :=
  let till := s.now + (wakeFigures r.isl).2 * 1000
  let h : WakeHold := { isl := r.isl, na := na, till := till }
  let s := { s with pwr.waking := Tbl.put s.pwr.waking (islNum r.isl) (till, islState s r.isl == IslandState.halt) }
  let s := { s with pwr.wakeQ := s.pwr.wakeQ.filter (fun q => q.isl != r.isl), pwr.wakeHeld := wakeLive s ++ [h],
                    pwr.wakeLast := some s.now }
  setIsl r.isl .waking s

/-- The budget manager looks at the next wake-up, after releases, at least 200 us after the last admission. -/
def wakeOp (vinMv : Nat) (s : State) : State :=
  let spaced := match s.pwr.wakeLast with
    | some t => decide (t + 200000 ≤ s.now)
    | none => true
  match nextWake s with
  | some r =>
    let held := ((wakeLive s).map (fun h => h.na)).sum
    let na := wakeNa r.isl vinMv
    let budget := s.pwr.power.vinWakeMa * 1000000
    if s.pwr.warn || !spaced then s
    else if held + na ≤ budget then admitWake r na s
    else if budget < na && held == 0 then noteOversize true (na / 1000000) (admitWake r na s)
    else if r.deferred then s
    else
      noteDefer { s with pwr.wakeQ := s.pwr.wakeQ.map (fun q => if q.isl == r.isl then { q with deferred := true } else q) }
  | none => s

def execWakeAdmission (vinMillivolts : Nat) (s : State) : Out :=
  .next (if logicUp s && 0 < vinMillivolts then wakeOp vinMillivolts { s with pwr.vinMv := vinMillivolts } else s)

/-- WAKE_RELEASE. -/
def execWakeRelease (i : Island) (s : State) : Out :=
  .next { s with pwr.wakeHeld := s.pwr.wakeHeld.filter (fun h => h.isl != i || s.now < h.till) }

/-- The sealed output table drives its cells from Trellis RUN until CELLS activates (R487); each turn-on is a start. -/
def driveSealed (s : State) : State :=
  (s.key.outTable.filter (fun e => isOutput e.2.mode)).foldl (fun s e =>
    let c : CellSt := { rc := { mode := e.2.mode, iStart := e.2.iStart, tStart := e.2.tStart }, fixed := some e.2.subst }
    let s := updCell e.1 (fun _ => c) s
    if cmdOn e.2.subst then queueStart (.cell e.1) s else s) s

/-- What an island does as it enters RUN from OFF. -/
def firstRun (i : Island) (s : State) : State :=
  match i with
  | .key => { s with key.window := true }
  | .trellis => driveSealed { s with trl.frame := 0, trl.frameAt := s.now }
  | .press => pressEnterRun s
  | .ring =>
    let t := twos 64 (calDomain0 s) * nsUnit
    noteBypass (updDom 0 (fun d => { d with t := t }) s)
  | _ => s

/-- Standby is left once every island it halted is back (R493). -/
def leaveStandby (s : State) : State :=
  if s.pwr.standby && s.pwr.resuming && s.pwr.halted.all (fun i => islState s i != .halt && islState s i != .waking) then
    record cPWR_STANDBY 0 (d1 0) { s with pwr.standby := false, pwr.resuming := false, pwr.halted := [] }
  else s

/-- End of T_WAKE of an island in WAKING, and whether it had been in HALT. -/
def wakingOf (s : State) (i : Island) : Nat × Bool := Tbl.at s.pwr.waking (islNum i) (0, false)

/-- An island enters RUN. One that was in HALT has kept its state; Press begins its tasting rotation anew (R271). -/
def islandRunOp (i : Island) (s : State) : State :=
  let kept := (wakingOf s i).2
  let s := setIsl i .run { s with pwr.waking := Tbl.del s.pwr.waking (islNum i) }
  let s := if !kept then firstRun i s
    else if i == .press then { s with prs.taste := { s.prs.taste with state := .rotation, run := false } }
    else s
  continueStage (leaveStandby s)

/-- Its T_WAKE has passed. -/
def wakeOver (s : State) (i : Island) : Bool := (wakingOf s i).1 < s.now

/-- ISLAND_RUN: within T_WAKE of its admission. -/
def execIslandRun (i : Island) (s : State) : Out :=
  .next (if islState s i == .waking && !wakeOver s i then islandRunOp i s else s)

/-- The island is put in OFF; without the key engine the firmware cannot be checked. -/
def islandFailOp (i : Island) (s : State) : State :=
  let s := record cPWR_ISLAND_FAIL 0 (d1 (islNum i)) (setIsl i .off s)
  let s := leaveStandby s
  if i == .key && !s.pwr.loadDone then firmwareFailed s else s

def execPwrIslandFail (i : Island) (s : State) : Out :=
  .next (if islState s i == .waking && wakeOver s i then islandFailOp i s else s)

/-! ### Standby (R493) -/

/-- Every condition of STANDBY holds. -/
def mayStandby (iss : Issuer) (s : State) : Bool :=
  isOwner iss && !s.pwr.standby && s.pge.casks.all (fun e => e.2.mode == .stop) && s.img.state == .idle &&
  (s.upd.rack.state == .idle || s.upd.rack.state == .verified) && !activationBusy s

/-- The islands STANDBY halts. -/
def standbyIslands : List Island := [.prog, .loop, .fbus]

/-- STANDBY: engines halt, and the stations of the field-bus island are lost as on a bus-level fault. -/
def standbyOp (s : State) : State :=
  let halt := standbyIslands.filter (isRun s)
  let s := if halt.contains .fbus then loseBus (fun t => t.kind != 2) s else s
  let s := halt.foldl (fun s i => setIsl i .halt s) s
  record cPWR_STANDBY 0 (d1 1) { s with pwr.standby := true, pwr.halted := halt, pwr.resuming := false }

def execStandby (iss : Issuer) (s : State) : Out :=
  regCmd iss .pwr 0x0020 (fun s => if mayStandby iss s then pwrCode iss cPWR_OK (standbyOp s) else pwrCode iss cPWR_STATE s) s

/-- RESUME: the halted islands are woken under the budget. -/
def resumeStandby (s : State) : State :=
  let mark : WakeReq → WakeReq := fun r => if s.pwr.halted.contains r.isl then { r with resume := true } else r
  let s := { s with pwr.resuming := true, pwr.wakeQ := s.pwr.wakeQ.map mark }
  leaveStandby (s.pwr.halted.foldl (fun s i => queueWake i true s) s)

def execResumeFromStandby (iss : Issuer) (s : State) : Out :=
  regCmd iss .pwr 0x0020 (fun s =>
    if isOwner iss && s.pwr.standby && !s.pwr.resuming then pwrCode iss cPWR_OK (resumeStandby s) else pwrCode iss cPWR_STATE s) s

/-! ### Abort of the safety island, and withdrawal -/

/-- ABORT_DONE_TIMEOUT: no report within 200 us (R496). -/
def execAbortDoneTimeout (s : State) : Out :=
  .next (if bitOf s.pwr.abortPending 5 && s.pwr.abortSafAt + 200000 ≤ s.now then abortDone 5 s else s)

/-- MODULE_WITHDRAWAL (R513): a VIN loss with its final save; every cell and safety output goes off. -/
def withdrawOp (s : State) : State :=
  let s := if logicUp s && !s.pwr.warn then vinWarnOp s else s
  let s := (List.range 16).foldl (fun s g => fsupLowOp g s) s
  if s.saf.powered then safetySupplyOff s else s

def execModuleWithdrawal (s : State) : Out := .next (withdrawOp { s with pwr.vinMv := 0, pwr.fsupMv := 0 })

end Sys2Proof.Machine
end

