-- ==== Sys2Proof/Machine/RegRead.lean ====
section
/-!
DEFINITION. RegRead.lean: what each register of Table 1.9 reads as, block by block, from the register tables of the chapters
(spec/01 to spec/16), and what a read does beside (RC registers, latches).
-/
namespace Sys2Proof.Machine

/-! ### Register tables -/

/-- A row of a register table: first offset, distance and number of its registers, and what register `n` stands for. -/
structure RegRow (α : Type) where
  base : Nat
  step : Nat := 4
  count : Nat := 1
  act : Nat → α

/-- A single register. -/
def r1 {α : Type} (base : Nat) (x : α) : RegRow α := { base := base, act := fun _ => x }

/-- Registers `n` below `count`, `step` apart. -/
def rn {α : Type} (base step count : Nat) (f : Nat → α) : RegRow α := { base := base, step := step, count := count, act := f }

/-- The register at an offset; an offset that holds none has none (R18). -/
def regAt {α : Type} (off : Nat) : List (RegRow α) → Option α
  | [] => none
  | r :: q =>
    if r.base ≤ off && (off - r.base) % r.step == 0 && decide ((off - r.base) / r.step < r.count) then
      some (r.act ((off - r.base) / r.step))
    else regAt off q

/-- A word with a status code in its upper half. -/
def codeW (c : Nat) : Word := packW [(16, c % 65536)]

/-- Low and high word of a 64-bit value. -/
def loW (n : Nat) : Word := w32 n
def hiW (n : Nat) : Word := w32 (n / 2 ^ 32)

/-- Register `n` of a byte string read as words. -/
def wordOf (bs : List Byte) (n : Nat) : Word := w32 (leAt bs (4 * n) 4)

/-- A control register that keeps its RW fields apart from what they last started (spec/03 TRL_TEST_CTRL, spec/06 LPE_SHD_n_CTRL). -/
def ctlReg (s : State) (b : Block) (off : Nat) : Word := Tbl.at s.sys.regs (ctlKey b off) 0

/-! ### SYS (spec/01, spec/02, spec/16) -/

/-- SYS_ISL_STATE. -/
def islWord (s : State) : Word := packW ((List.range 11).map (fun i => (2 * i, islCode (Tbl.at s.sys.isl i .off))))

/-- Code of the ordering variant (SYS_ID_VARIANT). -/
def variantCode : Variant → Nat
  | .v00 => 0 | .m0 => 1 | .ms => 2

def compatWord (s : State) : Word :=
  packW [(9, b2n s.sys.active), (8, b2n s.sys.strap), (1, b2n s.sys.saved), (0, b2n s.sys.prior)]

/-- SYS_PBM_STAT: start current held, wake-ups waiting, wake current held. -/
def pbmWord (s : State) : Word :=
  packW [(16, satTo (moduleHeld s) 0xFFFF), (12, satTo s.pwr.wakeQ.length 15),
    (0, satTo (((wakeLive s).map (fun h => h.na)).sum / 1000000) 0xFFF)]

def sysRegs (s : State) (iss : Issuer) : List (RegRow Word) :=
  [r1 0x0000 0x09460000, r1 0x0004 (packW [(2, b2n s.sys.ext), (0, variantCode s.sys.variant)]), r1 0x0010 (compatWord s),
   r1 0x0034 (packW [(16, s.pwr.abortPending % 2048), (0, s.pwr.abortDone % 2048)]), r1 0x0040 (pbmWord s),
   r1 0x0044 (w32 s.pwr.deferCount), r1 0x0100 (islWord s), r1 0x0104 (w32 s.sys.xchFault), r1 0x0200 (w32 iss.cask),
   r1 0x0204 (w32 (if isOwner iss then s.sys.deniedTotal else Tbl.at s.sys.denied iss.cask 0))]

/-! ### UPD (spec/02, spec/15) -/

def loadCode : LoadState → Nat
  | .idle => 0 | .checking => 1 | .staged => 2 | .scheduled => 3 | .committing => 4

def rackCode : RackState → Nat
  | .idle => 0 | .downloading => 1 | .verifying => 2 | .verified => 3 | .scheduled => 4 | .pending => 5 | .trial => 6

def rackWord (r : RackRec) : Word :=
  packW [(24, r.target % 256), (16, r.active % 256), (15, b2n r.setsLost), (14, b2n r.pwrFail), (13, b2n r.booting),
    (10, r.fails % 8), (8, r.kinds % 4), (0, rackCode r.state)]

/-- UPD_CMD_STATUS: while a timed activation waits for a trusted domain 0, CODE shows it (R468); BUSY while a command is in
progress. -/
def updStatusWord (s : State) : Word :=
  let c := if s.upd.rack.state == .scheduled && !trusted s 0 then cUPD_UNTRUSTED else s.upd.code
  packW [(16, c), (0, b2n (activationBusy s || (s.upd.rack.state == .verifying && !s.upd.stopped)))]

def updRegs (s : State) : List (RegRow Word) :=
  let r := s.upd.rack
  [r1 0x0000 (rackWord r), r1 0x0008 (updStatusWord s), r1 0x000C s.upd.dlFrag, r1 0x0010 (w32 r.next), r1 0x0014 (w32 r.nfrag),
   r1 0x0018 s.upd.atLo, r1 0x001C s.upd.atHi, r1 0x0020 s.upd.confH,
   r1 0x0024 (w32 (if r.state == .trial then r.confEnd - s.cel.opSec else 0)), r1 0x0028 (w32 s.upd.fwVintage),
   r1 0x002C (packW [(16, if r.state == .trial then r.cfgNew % 65536 else 0), (0, s.upd.cfg % 65536)]),
   rn 0x0100 4 4 (fun n => Tbl.at s.upd.dlTag n 0), rn 0x1000 4 1024 (fun n => Tbl.at s.upd.dlBuf n 0),
   r1 0x0804 s.img.src, r1 0x0808 s.img.len, r1 0x080C s.img.atLo, r1 0x0810 s.img.atHi,
   r1 0x0814 (packW [(16, s.img.code), (0, loadCode s.img.state)]), r1 0x0818 (w32 s.img.failSec), r1 0x081C (w32 s.img.vintage),
   r1 0x0820 (w32 (satTo (siSlot s).sets.length 15))]

/-! ### PWR (spec/16) -/

def pwrRegs (s : State) (iss : Issuer) : List (RegRow Word) :=
  let p := s.pwr
  [r1 0x0000 (packW [(4, b2n p.standby), (3, b2n p.fsupLow), (2, b2n p.shed), (1, b2n p.warn), (0, b2n p.vinOk)]),
   r1 0x0004 (packW [(16, satTo p.vinMa 0xFFFF), (0, satTo p.vinMv 0xFFFF)]),
   r1 0x0008 (packW [(16, satTo p.fsupMa 0xFFFF), (0, satTo p.fsupMv 0xFFFF)]),
   r1 0x0010 (packW [(8, b2n p.finalSave), (0, p.cause % 256)]), r1 0x0024 (codeW (Tbl.at p.cmdStatus iss.cask 0))]

/-! ### TRL (spec/03, spec/05) -/

def testCode : TestState → Nat
  | .idle => 0 | .running => 1 | .done => 2

/-- TRL_GRP_n_LOAD. -/
def groupWord (s : State) (g : Nat) : Word :=
  let waits (r : StartReq) : Bool := match r.who with | .cell n => n / 16 == g | .port _ => false
  packW [(24, b2n (group s g).fsupOk), (16, satTo (s.pwr.startQ.filter waits).length 0xFF), (0, satTo (groupHeld s g) 0xFFFF)]

/-- TRL_CELL_n_STAT. -/
def cellWord (s : State) (n : Nat) : Word :=
  let c := cell s n
  packW [(19, b2n (s.pwr.startHeld.any (fun h => h.who == .cell n))), (18, b2n (startQueued s (.cell n))), (17, b2n c.calFault),
    (16, b2n (testHolds s n || s.trl.test.heldCell == some n)), (8, c.fault.toNat), (0, modeCode c.rc.mode)]

def stnCode : StnState → Nat
  | .absent => 0 | .present => 1 | .lost => 2 | .proving => 3

/-- TRL_STN_n_STAT. -/
def stnWord (s : State) (n : Nat) : Word :=
  match Tbl.get? s.stn.tbl n with
  | some t => packW [(16, satTo t.losses 0xFFFF), (8, t.cask % 64), (2, b2n t.busFault), (0, stnCode t.st)]
  | none => 0

def trlRegs (s : State) (iss : Issuer) : List (RegRow Word) :=
  let k := ptBank s iss
  [r1 0x0000 (w32 (s.trl.frame - 1)), r1 0x0004 (w32 s.trl.wrRefused), r1 0x0010 (w32 k.sel),
   r1 0x0014 (packW [(2, b2n k.wrRefused), (1, b2n k.undef), (0, b2n k.denied)]), rn 0x0020 4 8 (wordOf k.data),
   r1 0x0040 k.wrLo, r1 0x0044 k.wrHi, r1 0x0100 (ctlReg s .trl 0x0100),
   r1 0x0104 (packW [(16, s.trl.test.code), (0, testCode s.trl.test.state)]), r1 0x0108 s.trl.test.err,
   r1 0x0060 (w32 (if isOwner iss then s.stn.lostTotal else Tbl.at s.stn.lost iss.cask 0)),
   rn 0x0200 4 16 (groupWord s), rn 0x1000 4 256 (cellWord s), rn 0x2000 4 1024 (stnWord s)]

/-! ### PGE (spec/04, spec/05) -/

def pmodeCode : PMode → Nat
  | .stop => 0 | .run => 1 | .hold => 2 | .stopping => 3 | .holding => 4

/-- PGE_TASK_STAT.STATE. -/
def taskPhase (t : TaskSt) : Nat :=
  if t.pend then 3
  else match t.cyc with
    | none => 0
    | some c => match c.phase with
      | .released | .ready => 1
      | _ => 2

/-- PGE_CASK_n_STAT. -/
def caskWord (s : State) (n : Nat) : Word :=
  let k := pcask s n
  let left := if k.mode == .hold then (k.holdAt + holdLimitNs k - s.now) / 1000000000 else 0
  packW [(16, satTo left 0xFFFF), (6, b2n k.retainLost), (4, k.lastStart % 4), (0, pmodeCode k.mode)]

def exchCode : ExchState → Nat
  | .current => 0 | .waiting => 1 | .failed => 2

/-- Busy share of a processor in the last accounting period: 10 ms of 800 MHz cycles (R114). -/
def busyPct (p : Proc) : Nat := satTo (p.busyLast * 100 / 8000000) 100

/-- PGE_ERR_HEAD. -/
def errHead (k : PCask) : Word :=
  match k.errs with
  | [] => 0
  | e :: r => packW [(16, e.code), (8, e.task % 32), (0, satTo (r.length + 1) 16)]

/-- Tasks of a cask whose exchange is in a state. -/
def exchCount (s : State) (c : Nat) (x : ExchState) : Nat :=
  (s.pge.tasks.filter (fun e => e.1 / 32 == c && e.2.exch.st == x)).length

def pgeRegs (s : State) (iss : Issuer) : List (RegRow Word) :=
  let c := pgeBank s iss
  let k := pcask s c
  let t := taskSt s (mtn c k.taskSel)
  [r1 0x0004 (codeW (Tbl.at s.pge.cmdStatus iss.cask 0)),
   r1 0x0008 (packW [(8, busyPct s.pge.p1), (0, busyPct s.pge.p0)]), r1 0x0010 (w32 k.clk.toNat), r1 0x0014 k.clkHi,
   r1 0x0020 (packW [(8, c % 64), (0, k.taskSel % 32)]),
   r1 0x0024 (if t.exist then packW [(8, 1), (4, t.prog.rc.priority % 16), (0, taskPhase t)] else 0),
   r1 0x0028 (w32 (satTo t.lastNs max32)), r1 0x002C (w32 (satTo t.maxNs max32)), r1 0x0030 (w32 (satTo t.ovr max32)),
   r1 0x0034 (w32 t.exch.vintage), r1 0x0038 (packW [(16, t.exch.code), (0, exchCode t.exch.st)]), r1 0x0044 (errHead k),
   r1 0x0048 (w32 (satTo k.errLost max32)),
   r1 0x0050 (packW [(24, satTo (exchCount s c .waiting) 0xFF), (16, satTo (exchCount s c .failed) 0xFF), (0, k.lastExch % 65536)]),
   rn 0x0100 4 63 (caskWord s)]

/-! ### LPE (spec/06) -/

def shdCode : ShdState → Nat
  | .idle => 0 | .running => 1 | .done => 2

def loopModeCode : LoopMode → Nat
  | .off => 0 | .manual => 1 | .auto => 2 | .track => 3 | .fault => 4

/-- LPE_SLOT_n_STAT. -/
def slotWord (s : State) (n : Nat) (l : LoopSlot) : Word :=
  packW [(16, satTo l.misses 0xFFFF), (15, b2n (l.rt.any (fun e => e.2.retuned))), (14, b2n l.capBuf.isSome),
    (13, b2n ((List.range 16).any (fun c => (shadow s c).state == .running && (shadow s c).slot == n))), (12, b2n l.feAlarm),
    (11, b2n l.pvBad), (10, b2n l.rate), (9, b2n l.satHi), (8, b2n l.satLo), (5, l.region.getD 0 % 8), (0, loopModeCode l.mode)]

/-- The four registers of a slot; an undefined slot reads 0. -/
def slotReg (s : State) (k n : Nat) : Word :=
  match slot? s n with
  | none => 0
  | some l => match k with
    | 0 => slotWord s n l
    | 1 => l.spUse
    | 2 => F64.to32 l.st.uPrev
    | _ => if l.rc.law == .pid then F64.to32 l.st.i else 0

/-- LPE_RT_STATUS. -/
def rtWord (s : State) : Word :=
  let today := match slot? s s.lpe.rtSlot with
    | some l => retunesToday s l
    | none => 0
  packW [(16, s.lpe.rtCode), (8, satTo today 0xFF), (0, s.lpe.rtShadow % 16)]

/-- LPE_SHD_n_STAT. -/
def shdWord (h : Shadow) : Word :=
  packW [(16, h.code), (8, satTo h.skipped 0xFF), (2, b2n h.cand), (0, shdCode h.state)]

def lpeRegs (s : State) (iss : Issuer) : List (RegRow Word) :=
  [r1 0x0000 (w32 (b2n s.lpe.run)),
   r1 0x0004 (packW [(16, Tbl.at s.lpe.status iss.cask 0), (0, satTo s.lpe.spIgnored 0xFFFF)]),
   r1 0x0008 (w32 (satTo (s.lpe.loads.foldl max 0) 0x3FFFF)),
   r1 0x000C (w32 (if isOwner iss then s.lpe.missTotal else Tbl.at s.lpe.missed iss.cask 0)),
   r1 0x0014 (Tbl.at s.lpe.modeVal iss.cask 0),
   rn 0x0200 16 16 (fun c => ctlReg s .lpe (0x0200 + 16 * c)), rn 0x0204 16 16 (fun c => shdWord (shadow s c)),
   rn 0x0208 16 16 (fun c => (shadow s c).dev), rn 0x020C 16 16 (fun c => w32 (shadow s c).compared),
   r1 0x0300 (packW [(16, s.lpe.rtSlot % 1024), (0, s.lpe.rtSet % 8)]), r1 0x0304 s.lpe.rtKp, r1 0x0308 s.lpe.rtKi,
   r1 0x0310 (rtWord s),
   rn 0x4000 16 1024 (slotReg s 0), rn 0x4004 16 1024 (slotReg s 1), rn 0x4008 16 1024 (slotReg s 2), rn 0x400C 16 1024 (slotReg s 3)]

/-- The slot whose registers an LPE offset lies in. -/
def slotOfOff (off : Nat) : Option Nat := if 0x4000 ≤ off && off < 0x8000 then some ((off - 0x4000) / 16) else none

/-! ### PRS (spec/07, spec/08) -/

/-- A binary64 number to the nearest integer. -/
def nearest (x : F64) : Int := if F64.fin x then Float.roundFin Float.b64 x.toNat else 0

/-- (x - 1) in 0.01 ppm, two's complement. -/
def ppmWord (x : F64) : Word := w32 (twos 32 (clampI (nearest (F64.mul (F64.sub x (F64.ofInt 1)) (F64.ofInt 100000000)))
  (-2147483648) 2147483647))

/-- Frequency of a system in 0.01 Hz. -/
def freqCode (v : VSys) : Nat := satTo (nearest (F64.mul v.freq (F64.ofInt 100))).toNat 0xFFFF

/-- PRS_CH_n_STAT. -/
def chWord (s : State) (n : Nat) : Word :=
  let c := chan s n
  packW [(16, satTo c.handovers 0xFFFF), (8, satTo c.clips 0xFF), (4, b2n c.handing), (3, b2n c.fault), (2, b2n c.rc.used),
    (0, c.gain % 4)]

/-- PRS_PLS_n_STAT. -/
def plsWord (s : State) (n : Nat) : Word :=
  let p := pulse s n
  let dir := p.rc.mode == 2 && (match nextPulse p with | some x => x.1 | none => false)
  packW [(29, b2n dir), (28, b2n (decide (1 < p.owed.length))), (0, satTo p.owed.length 0xFFFFFF)]

/-- PRS_ELEM_n_STAT. -/
def elemWord (e : Elem) : Word :=
  packW [(16, satTo e.a.win.dirs 0xFF), (12, b2n e.a.isExport), (9, e.phaseLoss % 8), (8, b2n (bitOf e.a.win.flags 3)),
    (1, e.rc.trfGroup % 4), (0, b2n e.active)]

/-- PRS_ELEM_n_CONT. -/
def contWord (s : State) (e : Elem) : Word :=
  packW [(16, satTo e.outages 0xFFFF), (4, b2n e.suspect), (3, b2n (match e.watch with | some w => !w.unmeasured | none => false)),
    (2, b2n ((namedChans e.rc).any (fun c => (chan s c).tasteFault))), (1, b2n e.estimated), (0, b2n (bitOf e.a.win.flags 5))]

/-- The eight registers of an element; an undefined element reads 0. -/
def elemReg (s : State) (k n : Nat) : Word :=
  match elem? s n with
  | none => 0
  | some e => match k with
    | 0 => elemWord e
    | 1 => e.blkP
    | 2 => e.blkQ
    | 3 => e.blkS
    | 4 => w32 (satTo e.a.dirCnt max32)
    | 5 => w32 (satTo (e.a.uncImp / unit32) max32)
    | 6 => w32 (satTo (e.a.uncExp / unit32) max32)
    | _ => contWord s e

/-- The element whose registers a PRS offset lies in. -/
def elemOfOff (off : Nat) : Option Nat := if 0x1000 ≤ off && off < 0x1600 then some ((off - 0x1000) / 32) else none

/-- A measured-loss watch runs on an element of a system. -/
def watching (s : State) (b : Bool) : Bool :=
  s.prs.elems.any (fun e => e.2.rc.sysB == b && (match e.2.watch with | some w => !w.unmeasured | none => false))

def tasteCode : TasteState → Nat
  | .idle => 0 | .rotation => 1 | .single => 2 | .halted => 3

/-- Index of the factor PRS_TST_SEL selects: a voltage channel has one. -/
def selGainOf (s : State) : Nat := if s.prs.taste.selCh < 48 then s.prs.taste.selGain else 0

def prsRegs (s : State) (iss : Issuer) : List (RegRow Word) :=
  let p := s.prs
  let k := snapBank s iss.cask
  let t := p.taste
  let c := chan s t.selCh
  [r1 0x0000 (packW [(2, b2n (!trusted s 1)), (1, b2n ((vsysRms p.sysB).any phaseOk)), (0, b2n ((vsysRms p.sysA).any phaseOk))]),
   r1 0x0004 (packW [(16, freqCode p.sysB), (0, freqCode p.sysA)]), r1 0x0008 (codeW (Tbl.at p.cmdStatus iss.cask 0)),
   rn 0x0100 4 54 (chWord s), r1 0x0300 (w32 k.sel),
   r1 0x0304 (packW [(3, b2n k.aborted), (2, b2n k.busy), (1, b2n k.undef), (0, b2n k.denied)]),
   rn 0x0400 8 34 (fun m => loW (nthD k.words m 0)), rn 0x0404 8 34 (fun m => hiW (nthD k.words m 0)),
   rn 0x0600 16 4 (fun g => (tariff s g).atLo), rn 0x0604 16 4 (fun g => (tariff s g).atHi),
   rn 0x060C 16 4 (fun g => packW [(3, satTo (tariff s g).queue.length 16), (0, (tariff s g).cur % 8)]),
   rn 0x0700 8 8 (plsWord s), rn 0x0704 8 8 (fun n => w32 (pulse s n).count),
   r1 0x0800 (packW [(2, b2n (3000 ≤ p.vmbMv && p.vmbMv ≤ 4200)), (1, b2n p.lastFinal), (0, b2n (newestB s))]),
   r1 0x0804 (w32 (match newestBank s with | some b => b.seq | none => 0)),
   r1 0x0808 (packW [(1, b2n (watching s true)), (0, b2n (watching s false))]), r1 0x0810 (w32 (t.ctrlCh % 64)),
   r1 0x0814 (packW [(16, t.code), (8, t.ch % 256), (6, t.gain % 4), (0, tasteCode t.state)]),
   r1 0x0818 (if F64.eq t.rho 0 then 0 else ppmWord t.rho),
   r1 0x081C (packW [(8, selGainOf s % 4), (0, t.selCh % 64)]), r1 0x0820 (ppmWord (nthD c.tau (selGainOf s) (F64.ofInt 1))),
   r1 0x0824 (w32 (satTo ((s.now - nthD c.tauAt (selGainOf s) 0) / 1000000000) max32)),
   rn 0x1000 32 48 (elemReg s 0), rn 0x1004 32 48 (elemReg s 1), rn 0x1008 32 48 (elemReg s 2), rn 0x100C 32 48 (elemReg s 3),
   rn 0x1010 32 48 (elemReg s 4), rn 0x1014 32 48 (elemReg s 5), rn 0x1018 32 48 (elemReg s 6), rn 0x101C 32 48 (elemReg s 7)]

/-! ### NET (spec/10) -/

def pathCode : PathState → Nat
  | .failed => 0 | .up => 1 | .resync => 2 | .standby => 3

def portRefCode : Option Port → Nat
  | none => 0 | some .a => 1 | some .b => 2

def portWord (s : State) (p : Port) : Word :=
  packW [(16, satTo (portSt s p).linkDowns 0xFFFF), (1, b2n (portSt s p).link), (0, b2n s.net.fibre)]

/-- Whole seconds clean of a path in STANDBY. -/
def cleanS (s : State) (p : PathSt) : Nat := if p.st == .standby then satTo ((s.now - p.cleanFrom) / 1000000000) 10 else 0

/-- NET_NODE_n_PATH; CLEAN_S of the path that is in STANDBY. -/
def pathWord (s : State) (n : Nat) : Word :=
  match Tbl.get? s.net.nodes n with
  | none => 0
  | some x => packW [(16, satTo x.fails 0xFFFF), (12, max (cleanS s x.pa) (cleanS s x.pb)), (9, b2n x.suspect.isSome),
      (6, portRefCode x.ref), (2, pathCode x.pb.st), (0, pathCode x.pa.st)]

def flowStCode : FlowState → Nat
  | .free => 0 | .admitted => 1 | .binding => 2

/-- NET_FLOW_n_STAT. -/
def flowWord (s : State) (n : Nat) : Word :=
  match Tbl.get? s.net.flows n with
  | none => 0
  | some x => packW [(24, satTo x.late 0xFF), (16, satTo x.dropped 0xFF), (8, x.cask % 64), (3, b2n x.rekey), (2, b2n x.rx),
      (0, flowStCode x.st)]

def ptestCode : PtestState → Nat
  | .idle => 0 | .running => 1 | .done => 2

/-- The duplicate table entry NET_SRC_SEL shows. -/
def srcEnt (s : State) : DupEnt := Tbl.at s.net.dup s.net.srcSel {}

def netRegs (s : State) (iss : Issuer) : List (RegRow Word) :=
  let n := s.net
  let k := admBank s iss.cask
  [r1 0x0000 (packW [(1, b2n n.bypHold), (0, b2n n.leesEn)]), r1 0x0004 (portWord s .a), r1 0x0008 (portWord s .b),
   r1 0x000C (packW [(4, s.sys.address.toNat % 16), (1, b2n n.waitFrom.isSome), (0, b2n n.inRing)]),
   r1 0x0010 (w32 (satTo n.bypOps max32)),
   r1 0x0020 (packW [(16, satTo n.evict 0xFFFF), (0, satTo (n.dup.filter (fun e => e.2.mac != 0)).length 2048)]),
   r1 0x0024 (w32 n.leesCnt), r1 0x0028 (w32 n.leesMismatch), r1 0x0030 (w32 n.srcSel), r1 0x0034 (w32 (srcEnt s).mac),
   r1 0x0038 (w32 ((srcEnt s).mac / 2 ^ 32 % 65536)), r1 0x003C (w32 (srcEnt s).oneA), r1 0x0040 (w32 (srcEnt s).oneB),
   r1 0x0044 (w32 (srcEnt s).oneFail), rn 0x0100 4 64 (pathWord s),
   r1 0x0200 k.dest, r1 0x0204 k.shape, r1 0x0208 k.req,
   r1 0x0210 (packW [(16, k.code), (15, b2n k.waiting), (0, k.flow % 1024)]), r1 0x0214 (w32 (satTo k.dCalc max32)),
   rn 0x1000 8 1024 (flowWord s), rn 0x1004 8 1024 (fun i => w32 (Tbl.at n.flows i {}).count),
   r1 0x0300 (packW [(11, b2n (n.ptestPort == .b)), (0, n.ptestLen % 2048)]),
   r1 0x0304 (packW [(16, n.ptest.code), (2, satTo n.ptest.lost 0x3FFF), (0, ptestCode n.ptest.state)]),
   r1 0x0308 (w32 (satTo n.ptest.rtt max32))]

/-! ### TIM (spec/11) -/

def pdelayWord (p : Pdelay) : Word := packW [(24, satTo p.ignored 0xFF), (23, b2n p.valid), (0, satTo p.mean 0xFFFF)]

/-- TIM_CAP_n_CFG. -/
def capWord (c : Capture) : Word :=
  packW [(31, b2n c.isNew), (16, c.steps % 256), (5, c.domain % 4), (4, b2n c.en), (0, c.src % 8)]

/-- TIM_DOM_n_STAT. -/
def domWord (s : State) (n : Nat) : Word :=
  let d := dom s n
  packW [(16, d.steps % 65536), (12, satTo d.offs.length 8), (10, portRefCode d.ref), (9, b2n d.master),
    (8, b2n d.slewing), (4, b2n (trusted s n)), (0, domStCode d.st)]

/-- The twelve registers of a domain beside NOW_LO. -/
def domReg (s : State) (iss : Issuer) (n k : Nat) : Word :=
  let d := dom s n
  match k with
  | 0 => w32 (domNs s n)
  | 1 => Tbl.at s.tim.nowHi (bankKey iss * 4 + n) 0
  | 2 => domWord s n
  | 3 => w32 (twos 32 (clampI d.lastOfs (-2147483648) 2147483647))
  | 4 => w32 (twos 32 d.freq)
  | 5 => w32 d.holdS
  | 6 => loW d.gm.toNat
  | 7 => hiW d.gm.toNat
  | 8 => d.setLo
  | 9 => d.setHi
  | 11 => loW d.xs.toNat
  | 12 => hiW d.xs.toNat
  | _ => 0

def timRegs (s : State) (iss : Issuer) : List (RegRow Word) :=
  [r1 0x0004 (codeW (Tbl.at s.tim.cmdStatus (bankKey iss) 0)),
   r1 0x0008 (packW [(16, b2n s.tim.utcValid), (0, s.tim.utcOfs.toNat)]), r1 0x0010 (pdelayWord s.tim.pdA),
   r1 0x0014 (pdelayWord s.tim.pdB), rn 0x0040 8 4 (fun n => capWord (capture s n)), rn 0x0044 8 4 (fun n => (capture s n).ns)] ++
  domains.map (fun n => rn (0x0100 + 0x40 * n) 4 13 (domReg s iss n))

/-! ### CEL (spec/12, spec/14) -/

def qCode : QState → Nat
  | .idle => 0 | .opened => 1 | .ended => 2

def celRegs (s : State) (iss : Issuer) : List (RegRow Word) :=
  let c := s.cel
  let k := qBank s (bankKey iss)
  [r1 0x0000 (celStatus s iss.core), r1 0x0010 (timeWord c.cal), r1 0x0014 k.date, r1 0x0018 k.subsec, r1 0x0020 c.setTime,
   r1 0x0024 c.setDate, r1 0x002C (codeW (Tbl.at c.cmdStatus iss.cask 0)), r1 0x0030 c.zone, r1 0x0040 c.trim, r1 0x0044 c.trimCfg,
   r1 0x0048 c.meas, r1 0x004C (packW [(16, satTo c.valid 0xFFFF), (8, satTo c.invalid 0xFF), (0, c.lastTrim % 8)]),
   r1 0x0050 (packW [(16, satTo c.minRail 0x3FF), (0, satTo c.vbat 0x3FF)]), r1 0x0060 (w32 c.opSec),
   r1 0x0064 (w32 (c.pcycle % 2 ^ 24)), r1 0x0100 (w32 c.seq), r1 0x0104 (w32 (satTo c.ovr max32)), r1 0x0108 (w32 (satTo c.drops max32)),
   r1 0x0200 k.fromLo, r1 0x0204 k.fromHi, r1 0x0208 k.toLo, r1 0x020C k.toHi,
   r1 0x0214 (packW [(16, satTo k.lost 0xFFFF), (8, satTo k.unstamped 0xFF), (3, b2n k.crcBad), (2, b2n k.ready), (0, qCode k.st)]),
   rn 0x0220 4 8 (wordOf k.rc), r1 0x0240 (loW k.stamp.toNat), r1 0x0244 (hiW k.stamp.toNat),
   r1 0x0400 (packW [(16, s.key.tripNow % 128), (0, s.key.latch % 128)]), r1 0x0404 (w32 (s.key.armed % 128))]

/-! ### FBS and BSI (spec/13) -/

def chCode : ChState → Nat
  | .off => 0 | .stopped => 1 | .running => 2 | .busOff => 3 | .recovering => 4

/-- The registers of a channel: BTIM, DTIM, STAT, ERR, DROP and TT. -/
def chReg (s : State) (n k : Nat) : Word :=
  let c := canCh s n
  match k with
  | 1 => c.rc.nbt
  | 2 => c.rc.dbt
  | 3 => packW [(24, satTo c.q.length 64), (16, satTo c.overwrites 0xFF), (10, b2n (128 ≤ c.tec || 128 ≤ c.rcErr)),
      (9, b2n c.busFault), (8, b2n (qpol s c)), (6, c.rc.role % 4), (0, chCode c.st)]
  | 4 => packW [(16, satTo c.busOffs 0xFFFF), (8, satTo c.rcErr 0xFF), (0, satTo c.tec 0xFF)]
  | 5 => packW [(16, satTo c.txDrop 0xFFFF), (8, satTo c.lenErr 0xFF), (0, satTo c.unmatched 0xFF)]
  | 6 => packW [(16, satTo c.rxMiss 0xFFFF), (8, satTo c.lateTx 0xFF), (0, c.cycle.getD 0 % max 1 c.rc.cycles % 64)]
  | _ => 0

def scanCode : ScanState → Nat
  | .idle => 0 | .running => 1 | .done => 2

def fbsRegs (s : State) (iss : Issuer) : List (RegRow Word) :=
  [r1 0x0000 (codeW (Tbl.at s.fbs.cmdStatus iss.cask 0)), r1 0x0400 (packW [(8, s.fbs.testCount % 256), (0, s.fbs.testCh % 8)]),
   r1 0x0404 (packW [(16, s.fbs.scan.code), (0, scanCode s.fbs.scan.state)]),
   r1 0x0408 (packW [(16, s.fbs.scan.late % 512), (0, s.fbs.scan.early % 512)])] ++
  (List.range 8).map (fun n => rn (0x0100 + 0x20 * n) 4 7 (chReg s n))

/-- BSI_DALI_n_STAT. -/
def daliWord (s : State) (p : Nat) : Word :=
  let d := daliPort s p
  packW [(16, satTo d.collDrop 0xFFFF), (8, satTo (d.busMv / 100) 0xFF), (0, if !d.running then 0 else if d.fault then 2 else 1)]

/-- BSI_OSDP_n_STAT: bit i for the port's i-th reader record, its station PRESENT. -/
def osdpWord (s : State) (p : Nat) : Word :=
  let rs := readersOf s p
  let on (i : Nat) : Bool := match rs[i]? with
    | some r => (Tbl.at s.stn.tbl (reader s r).rc.station {}).st == .present
    | none => false
  packW [(16, satTo (osdpPort s p).scFail 0xFFFF), (0, maskOf 16 on)]

def bsiRegs (s : State) (iss : Issuer) : List (RegRow Word) :=
  let k := credBank s iss.cask
  [r1 0x0000 (codeW (Tbl.at s.fbs.bsiStatus iss.cask 0)), rn 0x0100 4 4 (daliWord s), rn 0x0110 4 2 (osdpWord s),
   r1 0x0200 k.hashLo, r1 0x0204 k.hashHi, r1 0x0208 k.doors, r1 0x020C k.from0, r1 0x0210 k.to0,
   r1 0x0218 (packW [(16, k.code), (0, credsHeld s iss.cask % 32768)]),
   r1 0x0300 (packW [(16, satTo s.fbs.liftDrops 0xFFFF), (0, satTo s.fbs.liftQ.length 16)])]

/-! ### KEY (spec/14) -/

def keyWord (s : State) : Word :=
  let k := s.key
  packW [(16, k.siteGen % 65536), (9, b2n k.accepted), (8, b2n k.abandoned), (7, b2n (isSealed s)), (6, b2n k.service.isSome),
    (5, b2n k.site.isSome), (4, b2n k.factory.isSome), (0, lcCode k.lc)]

def keyRegs (s : State) (iss : Issuer) : List (RegRow Word) :=
  let k := s.key
  let b := opBank s iss.cask
  [r1 0x0000 (keyWord s), r1 0x0008 (packW [(16, Tbl.at k.cmdStatus iss.cask 0), (0, b2n (k.attesting == some iss.cask.val))]),
   r1 0x000C k.src, r1 0x0010 k.len, r1 0x0014 k.atLo, r1 0x0018 k.atHi, r1 0x0044 b.src, r1 0x0048 b.dst, r1 0x004C b.len,
   r1 0x0050 (packW [(16, b.code), (0, b2n b.busy.isSome)]),
   r1 0x0060 (packW [(16, satTo k.purges 0xFFFF), (0, satTo k.cache.length 2048)]), r1 0x0064 (w32 (satTo k.staleCount max32)),
   r1 0x0080 (loW s.sys.serial.toNat), r1 0x0084 (hiW s.sys.serial.toNat), rn 0x0100 4 8 (fun n => Tbl.at k.nonce n 0),
   rn 0x0200 4 56 (wordOf k.report), rn 0x0400 8 64 (fun n => w32 (kslot s n).attr),
   rn 0x0404 8 64 (fun n => packW [(16, satTo (kslot s n).uses 0xFFFF), (0, slotState s (kslot s n))])]

/-! ### SAF (spec/09): the mirror in Trellis -/

/-- The register tables, by block. WO registers and offsets without a register read 0 (R18, R20). -/
def readValue (s : State) (iss : Issuer) (b : Block) (off : Nat) : Word :=
  match b with
  | .sys => (regAt off (sysRegs s iss)).getD 0
  | .upd => (regAt off (updRegs s)).getD 0
  | .pwr => (regAt off (pwrRegs s iss)).getD 0
  | .trl => (regAt off (trlRegs s iss)).getD 0
  | .pge => (regAt off (pgeRegs s iss)).getD 0
  | .lpe => (regAt off (lpeRegs s iss)).getD 0
  | .prs => (regAt off (prsRegs s iss)).getD 0
  | .saf => safMirror s off
  | .net => (regAt off (netRegs s iss)).getD 0
  | .tim => (regAt off (timRegs s iss)).getD 0
  | .cel => (regAt off (celRegs s iss)).getD 0
  | .fbs => (regAt off (fbsRegs s iss)).getD 0
  | .bsi => (regAt off (bsiRegs s iss)).getD 0
  | .key => (regAt off (keyRegs s iss)).getD 0

/-! ### What a read does beside (R20, R22) -/

/-- RC registers of SYS. -/
def sysRead (iss : Issuer) (s : State) : List (RegRow State) :=
  [r1 0x0044 { s with pwr.deferCount := 0 },
   r1 0x0204 (if isOwner iss then { s with sys.deniedTotal := 0 } else { s with sys.denied := Tbl.put s.sys.denied iss.cask 0 })]

def trlRead (iss : Issuer) (s : State) : List (RegRow State) :=
  [r1 0x0004 { s with trl.wrRefused := 0 },
   r1 0x0060 (if isOwner iss then { s with stn.lostTotal := 0 } else { s with stn.lost := Tbl.put s.stn.lost iss.cask 0 })]

/-- PGE_CLK_LO latches the high word; the statistics and PGE_ERR_LOST clear. -/
def pgeRead (iss : Issuer) (s : State) : List (RegRow State) :=
  let c := pgeBank s iss
  let n := mtn c (pcask s c).taskSel
  let zero (f : TaskSt → TaskSt) : State := if (taskSt s n).exist then updTask n f s else s
  [r1 0x0010 (updPCask c (fun k => { k with clkHi := w32 (k.clk.toNat / 2 ^ 32) }) s),
   r1 0x002C (zero (fun t => { t with maxNs := 0 })), r1 0x0030 (zero (fun t => { t with ovr := 0 })),
   r1 0x0048 (updPCask c (fun k => { k with errLost := 0 }) s)]

def lpeRead (iss : Issuer) (s : State) : List (RegRow State) :=
  [r1 0x000C (if isOwner iss then { s with lpe.missTotal := 0 } else { s with lpe.missed := Tbl.put s.lpe.missed iss.cask 0 })]

def netRead (s : State) : List (RegRow State) :=
  let zero (f : DupEnt → DupEnt) : State :=
    if Tbl.has s.net.dup s.net.srcSel then { s with net.dup := Tbl.upd s.net.dup s.net.srcSel {} f } else s
  [r1 0x0028 { s with net.leesMismatch := 0 }, r1 0x003C (zero (fun e => { e with oneA := 0 })),
   r1 0x0040 (zero (fun e => { e with oneB := 0 })), r1 0x0044 (zero (fun e => { e with oneFail := 0 }))]

/-- NOW_LO latches (R356); a capture's NS clears NEW. -/
def timRead (iss : Issuer) (s : State) : List (RegRow State) :=
  [rn 0x0100 0x40 4 (fun n => nowLatch iss n s),
   rn 0x0044 8 4 (fun n => { s with tim.caps := Tbl.upd s.tim.caps n {} (fun c => { c with isNew := false }) })]

/-- CEL_RTC_TIME latches date and prescaler (R373). -/
def celRead (iss : Issuer) (s : State) : List (RegRow State) :=
  [r1 0x0010 (updQBank (bankKey iss) (fun b => { b with date := dateWord s.cel.cal, subsec := w32 (presc s) }) s),
   r1 0x0108 { s with cel.drops := 0 }]

def fbsRead (s : State) : List (RegRow State) :=
  [rn 0x0114 0x20 8 (fun n => updCan n (fun c => { c with txDrop := 0, lenErr := 0, unmatched := 0 }) s)]

/-- Who reads a loop slot's or a metering element's registers of another cask without being cask 0 is refused (R40): the read
returns 0. -/
def foreignRead (s : State) (iss : Issuer) (b : Block) (off : Nat) : Option (State → State) :=
  match b with
  | .lpe => match slotOfOff off with
    | some n => match slot? s n with
      | some l => if ownsSlot iss l then none else some (loopDenied iss n l)
      | none => none
    | none => none
  | .prs => match elemOfOff off with
    | some n => match elem? s n with
      | some e => if isOwner iss || iss.cask.val == e.rc.cask then none
                  else some (denied 0x05 (blockIdx .prs) n e.rc.cask off iss.cask)
      | none => none
    | none => none
  | _ => none

/-- The state after a read. -/
def readEffect (s : State) (iss : Issuer) (b : Block) (off : Nat) : State :=
  match b with
  | .sys => (regAt off (sysRead iss s)).getD s
  | .trl => (regAt off (trlRead iss s)).getD s
  | .pge => (regAt off (pgeRead iss s)).getD s
  | .lpe => (regAt off (lpeRead iss s)).getD s
  | .net => (regAt off (netRead s)).getD s
  | .tim => (regAt off (timRead iss s)).getD s
  | .cel => (regAt off (celRead iss s)).getD s
  | .fbs => (regAt off (fbsRead s)).getD s
  | .key => if off == 0x0064 then { s with key.staleCount := 0 } else s
  | _ => s

/-- A read of the register at an offset, once its checks have passed: the word and the state after it (R22: the value before
any new event). -/
def regReadOp (iss : Issuer) (b : Block) (off : Nat) (s : State) : Word × State :=
  match foreignRead s iss b off with
  | some refuse => (0, refuse s)
  | none => (readValue s iss b off, readEffect s iss b off)

end Sys2Proof.Machine
end

