-- ==== Sys2Proof/Machine/RegWrite.lean ====
section
/-!
DEFINITION. RegWrite.lean: what a write of each register of Table 1.9 does, block by block (spec/00_scope.md R20, and the register
tables of spec/01 to spec/16). A write of a register whose command has a row of its own is that command. Offsets not listed hold no
register or a read-only one: the write is ignored (R18, R20). Where a write sets two command bits at once, the first in the
table's order acts (DESIGN CHOICE, log entry 24).
-/
namespace Sys2Proof.Machine

/-- The state a command leaves. -/
def after (o : Out) (s : State) : State :=
  match o with
  | .next t => t
  | _ => s

/-- Clear the bits of `n` that `w` has set. -/
def clearBits (n w : Nat) : Nat := n - (n &&& w)

/-- The eleven aborts of Table 16.8, in its order. -/
def aborts (iss : Issuer) : List (State → Out) :=
  [execSectionalLoadAbort iss, execProgramEngineAbort iss, execLoopEngineAbort iss, execTrellisAbort iss, execPressAbort iss,
   execSafetyIslandAbort iss, execRingMacAbort iss, execFieldBusAbort iss, execKeyEngineAbort iss, execCellarAbort iss,
   execUpdAbort iss]

/-- SYS_ABORT: every target whose bit is set, in rising order. -/
def abortWrite (iss : Issuer) (n : Nat) (s : State) : State :=
  (List.range 11).foldl (fun s i =>
    if bitOf n i then match (aborts iss)[i]? with
      | some f => after (f s) s
      | none => s
    else s) s

/-- SYS_COMPAT: SAVED is set; PRIOR only before an image is loaded (R10). -/
def compatWrite (n : Nat) (s : State) : State :=
  { s with sys.saved := bitOf n 1, sys.prior := if s.img.loaded then s.sys.prior else bitOf n 0 }

def sysWrites (iss : Issuer) (w : Word) (s : State) : List (RegRow State) :=
  let n := w.toNat
  [r1 0x0010 (compatWrite n s), r1 0x0020 (after (execSysReset iss w s) s), r1 0x0030 (abortWrite iss n s),
   r1 0x0034 { s with pwr.abortDone := clearBits s.pwr.abortDone n }, r1 0x0104 { s with sys.xchFault := clearBits s.sys.xchFault n }]

/-- UPD_CMD. -/
def updCmdWrite (iss : Issuer) (n : Nat) (s : State) : State :=
  match fld n 0 4 with
  | 1 => after (execRackBegin iss s) s
  | 2 => after (execRackFrag iss true s) s
  | 3 => after (execRackActivate iss (bitOf n 4) s) s
  | 4 => after (execRackCancel iss s) s
  | 5 => after (execRackConfirm iss s) s
  | 6 => after (execRackRevert iss s) s
  | _ => s

/-- UPD_SI_CTRL. -/
def siCtrlWrite (iss : Issuer) (n : Nat) (s : State) : State :=
  match fld n 0 4 with
  | 1 => after (execStage iss s) s
  | 2 => after (execCommit iss (bitOf n 4) s) s
  | 3 => after (execDiscard iss s) s
  | _ => s

/-- UPD registers are written by cask 0 only. -/
def updWrites (iss : Issuer) (w : Word) (s : State) : List (RegRow State) :=
  if !isOwner iss then []
  else
    let n := w.toNat
    [r1 0x0004 (updCmdWrite iss n s), r1 0x000C { s with upd.dlFrag := w }, r1 0x0018 { s with upd.atLo := w },
     r1 0x001C { s with upd.atHi := w }, r1 0x0020 { s with upd.confH := w32 (n % 1024) },
     rn 0x0100 4 4 (fun i => { s with upd.dlTag := Tbl.put s.upd.dlTag i w }),
     rn 0x1000 4 1024 (fun i => { s with upd.dlBuf := Tbl.put s.upd.dlBuf i w }),
     r1 0x0800 (siCtrlWrite iss n s), r1 0x0804 { s with img.src := w }, r1 0x0808 { s with img.len := w },
     r1 0x080C { s with img.atLo := w }, r1 0x0810 { s with img.atHi := w }]

def pwrWrites (iss : Issuer) (w : Word) (s : State) : List (RegRow State) :=
  [r1 0x0020 (match fld w.toNat 0 2 with
    | 1 => after (execStandby iss s) s
    | 2 => after (execResumeFromStandby iss s) s
    | _ => s)]

/-- TRL_TEST_CTRL keeps TIMEOUT, TYPE and CELL, and starts or stops a test. -/
def testCtrlWrite (iss : Issuer) (n : Nat) (s : State) : State :=
  if !(isOwner iss || iss.cask.val == 63) then s
  else
    let s := setCtl .trl 0x0100 (packW [(16, fld n 16 6), (8, fld n 8 4), (0, fld n 0 8)]) s
    if bitOf n 31 then
      after (execCellTestStart iss (Fin.ofNat 256 n) (Fin.ofNat 16 (fld n 8 4)) (Fin.ofNat 64 (fld n 16 6)) s) s
    else if bitOf n 30 then after (execCellTestStop iss s) s
    else s

def trlWrites (iss : Issuer) (w : Word) (s : State) : List (RegRow State) :=
  let n := w.toNat
  [r1 0x0010 (after (execPointSnapshot iss (Fin.ofNat 16384 n) s) s), r1 0x0040 (updPtBank iss (fun b => { b with wrLo := w }) s),
   r1 0x0044 (updPtBank iss (fun b => { b with wrHi := w }) s),
   r1 0x0048 (after (execPartitionPointWrite iss (Fin.ofNat 16384 n) (BitVec.ofNat 8 (fld n 16 8)) s) s),
   r1 0x0100 (testCtrlWrite iss n s)]

/-- PGE_CMD. -/
def pgeCmdWrite (iss : Issuer) (n : Nat) (s : State) : State :=
  let t : Fin 64 := Fin.ofNat 64 (fld n 8 6)
  match fld n 0 3 with
  | 1 => after (execRunWarm iss t s) s
  | 2 => after (execRunCold iss t s) s
  | 3 => after (execHoldCask iss t s) s
  | 4 => after (execResumeCask iss t s) s
  | 5 => after (execStopCask iss t s) s
  | _ => s

/-- PGE_TASK_SEL: CASK is written by cask 0 only; TASK goes to the bank it names. -/
def taskSelWrite (iss : Issuer) (n : Nat) (s : State) : State :=
  let s := if isOwner iss then { s with pge.selCask := fld n 8 6 } else s
  updPCask (pgeBank s iss) (fun k => { k with taskSel := fld n 0 5 }) s

def pgeWrites (iss : Issuer) (w : Word) (s : State) : List (RegRow State) :=
  let n := w.toNat
  [r1 0x0000 (pgeCmdWrite iss n s), r1 0x0020 (taskSelWrite iss n s), r1 0x0040 (after (execPgeEvtTrig iss (Fin.ofNat 32 n) s) s)]

/-- LPE_MODE_CMD. -/
def modeCmdWrite (iss : Issuer) (n : Nat) (s : State) : State :=
  let l : Fin 1024 := Fin.ofNat 1024 (fld n 16 10)
  match fld n 0 2 with
  | 0 => after (execLoopModeOff iss l s) s
  | 1 => after (execLoopModeManual iss l s) s
  | 2 => after (execLoopModeAuto iss l s) s
  | _ => after (execLoopModeTrack iss l s) s

/-- LPE_SHD_n_CTRL keeps SLOT and COUNT, and starts or stops a shadow. -/
def shdCtrlWrite (iss : Issuer) (n c : Nat) (s : State) : State :=
  let s := setCtl .lpe (0x0200 + 16 * c) (packW [(16, fld n 16 10), (0, fld n 0 8)]) s
  if bitOf n 31 then
    after (execShadowStart iss (Fin.ofNat 16 c) (Fin.ofNat 1024 (fld n 16 10)) (BitVec.ofNat 8 n) s) s
  else if bitOf n 30 then after (execShadowStop iss (Fin.ofNat 16 c) s) s
  else s

/-- LPE_CTRL.RUN: 1 resumes (R209); a 0 stops evaluation, as the register is RW. -/
def lpeCtrlWrite (iss : Issuer) (n : Nat) (s : State) : State :=
  if bitOf n 0 then after (execLpeResume iss s) s else if isOwner iss then { s with lpe.run := false } else s

/-- LPE_RT_CMD. -/
def rtCmdWrite (iss : Issuer) (n : Nat) (s : State) : State :=
  match fld n 0 2 with
  | 1 => after (execTryRetune iss s) s
  | 2 => after (execApplyRetune iss s) s
  | 3 => after (execRevertRetune iss s) s
  | _ => s

/-- The LPE_RT registers are cask 0's (spec/06). -/
def lpeWrites (iss : Issuer) (w : Word) (s : State) : List (RegRow State) :=
  let n := w.toNat
  [r1 0x0000 (lpeCtrlWrite iss n s), r1 0x0010 (modeCmdWrite iss n s),
   r1 0x0014 { s with lpe.modeVal := Tbl.put s.lpe.modeVal iss.cask w }, rn 0x0200 16 16 (fun c => shdCtrlWrite iss n c s),
   r1 0x0300 (if isOwner iss then { s with lpe.rtSlot := fld n 16 10, lpe.rtSet := fld n 0 3 } else s),
   r1 0x0304 (if isOwner iss then { s with lpe.rtKp := w } else s), r1 0x0308 (if isOwner iss then { s with lpe.rtKi := w } else s),
   r1 0x030C (rtCmdWrite iss n s)]

/-- PRS_TST_CTRL; the reference readings a write cannot carry are free values. -/
def tstCtrlWrite (iss : Issuer) (n : Nat) (s : State) : State :=
  let z := sOf 16 (freeNow s).toNat
  let c := sOf 16 (freeNow (bumpFree s)).toNat
  if !isOwner iss then s
  else
    let s' := { s with prs.taste.ctrlCh := fld n 0 6 }
    if bitOf n 31 then after (execTastingStart iss z c (bumpFree (bumpFree s'))) s'
    else if bitOf n 30 then after (execTastingSingle iss (Fin.ofNat 64 n) z c (bumpFree (bumpFree s'))) s'
    else if bitOf n 29 then after (execTastingStop iss s') s'
    else s'

/-- PRS_TRF_g_CMD. -/
def trfCmdWrite (iss : Issuer) (n g : Nat) (s : State) : State :=
  if bitOf n 7 then after (execTariffPush iss (Fin.ofNat 4 g) (Fin.ofNat 8 n) s) s
  else if bitOf n 6 then after (execTariffClear iss (Fin.ofNat 4 g) s) s
  else s

/-- Change a tariff group's registers; they are cask 0's (R247). -/
def trfWrite (iss : Issuer) (g : Nat) (f : Tariff → Tariff) (s : State) : State :=
  if isOwner iss then { s with prs.tariffs := Tbl.upd s.prs.tariffs g {} f } else s

def prsWrites (iss : Issuer) (w : Word) (s : State) : List (RegRow State) :=
  let n := w.toNat
  [r1 0x0010 (after (execMdReset iss (Fin.ofNat 64 n) s) s), r1 0x0300 (after (execAccumulatorSnapshot iss (Fin.ofNat 64 n) s) s),
   rn 0x0600 16 4 (fun g => trfWrite iss g (fun t => { t with atLo := w }) s),
   rn 0x0604 16 4 (fun g => trfWrite iss g (fun t => { t with atHi := w }) s), rn 0x0608 16 4 (fun g => trfCmdWrite iss n g s),
   r1 0x0810 (tstCtrlWrite iss n s),
   r1 0x081C (if isOwner iss then { s with prs.taste.selCh := fld n 0 6, prs.taste.selGain := fld n 8 2 } else s)]

/-- NET_PTEST_CTRL. -/
def ptestCtrlWrite (iss : Issuer) (n : Nat) (s : State) : State :=
  let p : Port := if bitOf n 11 then .b else .a
  if bitOf n 31 then after (execPathTestStart iss p (Fin.ofNat 2048 n) s) s
  else if isOwner iss || iss.cask.val == 63 then { s with net.ptestPort := p, net.ptestLen := fld n 0 11 }
  else s

/-- NET_ADM_CMD. -/
def admCmdWrite (iss : Issuer) (n : Nat) (s : State) : State :=
  match fld n 14 2 with
  | 1 => after (execAdmitFlow iss s) s
  | 2 => after (execReleaseFlow iss (Fin.ofNat 1024 n) s) s
  | _ => s

def netWrites (iss : Issuer) (w : Word) (s : State) : List (RegRow State) :=
  let n := w.toNat
  let bank (f : AdmBank → AdmBank) : State := updAdmBank iss.cask f s
  [r1 0x0000 (after (execBypHoldSet iss w s) s), r1 0x0030 { s with net.srcSel := fld n 0 11 },
   r1 0x0200 (bank (fun b => { b with dest := packW [(16, fld n 16 6), (0, fld n 0 14)] })),
   r1 0x0204 (bank (fun b => { b with shape := packW [(16, fld n 16 16), (0, fld n 0 14)] })),
   r1 0x0208 (bank (fun b => { b with req := w })), r1 0x020C (admCmdWrite iss n s), r1 0x0300 (ptestCtrlWrite iss n s)]

/-- TIM_DOM_n_CMD. -/
def domCmdWrite (iss : Issuer) (n d : Nat) (s : State) : State :=
  let k : Fin 4 := Fin.ofNat 4 d
  match fld n 0 2 with
  | 1 => after (execSetDomain iss k s) s
  | 2 => after (execSetTrustDomain iss k s) s
  | 3 => after (execAdjustDomain iss k s) s
  | _ => s

def timWrites (iss : Issuer) (w : Word) (s : State) : List (RegRow State) :=
  let n := w.toNat
  [r1 0x0000 (after (execXsnap iss (Fin.ofNat 16 n) s) s),
   rn 0x0040 8 4 (fun i =>
    { s with tim.caps := Tbl.upd s.tim.caps i {} (fun c => { c with domain := fld n 5 2, en := bitOf n 4, src := fld n 0 3 }) }),
   rn 0x0120 0x40 4 (fun d => updDom d (fun x => { x with setLo := w }) s),
   rn 0x0124 0x40 4 (fun d => updDom d (fun x => { x with setHi := w }) s), rn 0x0128 0x40 4 (fun d => domCmdWrite iss n d s)]

/-- CEL_RTC_CTRL. -/
def rtcCtrlWrite (iss : Issuer) (n : Nat) (s : State) : State :=
  match fld n 0 3 with
  | 1 => after (execLoadCalendar iss (bitOf n 3) s) s
  | 2 => after (execSyncCalendar iss (bitOf n 3) s) s
  | 3 => after (execDstAdd iss s) s
  | 4 => after (execDstSub iss s) s
  | _ => s

/-- CEL_EVQ_CMD. -/
def evqCmdWrite (iss : Issuer) (n : Nat) (s : State) : State :=
  match fld n 0 2 with
  | 1 => after (execQueryStart iss (Fin.ofNat 4 (fld n 4 2)) s) s
  | 2 => after (execQueryNext iss s) s
  | 3 => after (execQueryEnd iss s) s
  | _ => s

/-- CEL writes are posted (R31, R374); only cask 0 writes CEL_STATUS, another cask's write is refused under R41 (spec/12). -/
def celWrites (iss : Issuer) (w : Word) (s : State) : List (RegRow State) :=
  let n := w.toNat
  let bank (f : QBank → QBank) : State := updQBank (bankKey iss) f s
  [r1 0x0000 (if isOwner iss then postCel iss (.status w) s else busDenied iss .cel 0 true s), r1 0x0020 (postCel iss (.setTime w) s),
   r1 0x0024 (postCel iss (.setDate w) s), r1 0x0028 (rtcCtrlWrite iss n s), r1 0x0030 (after (execCelZoneWrite iss w s) s),
   r1 0x0040 (after (execCelTrimWrite iss w s) s), r1 0x0044 (after (execCelTrimCfgWrite iss w s) s),
   r1 0x0200 (bank (fun b => { b with fromLo := w })), r1 0x0204 (bank (fun b => { b with fromHi := w })),
   r1 0x0208 (bank (fun b => { b with toLo := w })), r1 0x020C (bank (fun b => { b with toHi := w })), r1 0x0210 (evqCmdWrite iss n s)]

/-- FBS_CH_n_CMD. -/
def chCmdWrite (iss : Issuer) (n ch : Nat) (s : State) : State :=
  let c : Fin 8 := Fin.ofNat 8 ch
  match fld n 0 2 with
  | 1 => after (execFbsChStart iss c s) s
  | 2 => after (execFbsChStop iss c s) s
  | 3 => after (execRecoverChannel iss c s) s
  | _ => s

/-- FBS_TEST_CTRL. -/
def scanCtrlWrite (iss : Issuer) (n : Nat) (s : State) : State :=
  let s' := if isOwner iss || iss.cask.val == 63 then { s with fbs.testCh := fld n 0 3, fbs.testCount := fld n 8 8 } else s
  if bitOf n 31 then after (execMarginScanStart iss (Fin.ofNat 8 n) (Fin.ofNat 256 (fld n 8 8)) s) s
  else if bitOf n 30 then after (execMarginScanStop iss s') s'
  else s'

def fbsWrites (iss : Issuer) (w : Word) (s : State) : List (RegRow State) :=
  let n := w.toNat
  [rn 0x0100 0x20 8 (fun c => chCmdWrite iss n c s), r1 0x0400 (scanCtrlWrite iss n s)]

/-- BSI_PORT_CMD; a PORT that names no port does not fit. -/
def portCmdWrite (iss : Issuer) (n : Nat) (s : State) : State :=
  let p := fld n 8 4
  match fld n 0 2 with
  | 0 => s
  | 1 => if p < 6 then after (execBsiPortStart iss (Fin.ofNat 6 p) s) s else bsiStatus iss cBSI_CMD_STATE s
  | 2 => if p < 6 then after (execBsiPortStop iss (Fin.ofNat 6 p) s) s else bsiStatus iss cBSI_CMD_STATE s
  | _ => after (execInstall iss (Fin.ofNat 16 p) (Fin.ofNat 128 (fld n 16 7)) s) s

/-- BSI_CRED_CMD. -/
def credCmdWrite (iss : Issuer) (n : Nat) (s : State) : State :=
  let sched := BitVec.ofNat 8 (fld n 8 8)
  let dest := BitVec.ofNat 8 (fld n 16 8)
  match fld n 0 2 with
  | 1 => after (execCredAdd iss sched dest s) s
  | 2 => after (execCredDelete iss s) s
  | 3 => after (execCredReplace iss sched dest s) s
  | _ => s

def bsiWrites (iss : Issuer) (w : Word) (s : State) : List (RegRow State) :=
  let n := w.toNat
  let bank (f : CredBank → CredBank) : State := { s with fbs.banks := Tbl.upd s.fbs.banks iss.cask {} f }
  [r1 0x0004 (portCmdWrite iss n s), r1 0x0200 (bank (fun b => { b with hashLo := w })), r1 0x0204 (bank (fun b => { b with hashHi := w })),
   r1 0x0208 (bank (fun b => { b with doors := w })), r1 0x020C (bank (fun b => { b with from0 := w })),
   r1 0x0210 (bank (fun b => { b with to0 := w })), r1 0x0214 (credCmdWrite iss n s)]

/-- KEY_CMD. -/
def keyCmdWrite (iss : Issuer) (n : Nat) (s : State) : State :=
  let a : Fin 64 := Fin.ofNat 64 (fld n 16 6)
  match fld n 0 8 with
  | 0x01 => after (execProvision iss s) s
  | 0x02 => after (execServiceEnter iss s) s
  | 0x03 => after (execServiceExit iss s) s
  | 0x04 => after (execRetire iss s) s
  | 0x05 => after (execAcceptIdentity iss s) s
  | 0x06 => after (execAttest iss s) s
  | 0x07 => after (execClearA iss s) s
  | 0x08 => after (execArmMonitors iss s) s
  | 0x10 => after (execInvalidateSess iss a s) s
  | 0x11 => after (execInvalidateRdr iss a s) s
  | 0x12 => after (execRollStage iss s) s
  | 0x13 => after (execRoll iss s) s
  | 0x20 => after (execImportKey iss a s) s
  | 0x21 => after (execDeleteKey iss a s) s
  | 0x22 => after (execExportKey iss a s) s
  | _ => s

/-- KEY_OP_CTRL. -/
def keyOpWrite (iss : Issuer) (n : Nat) (s : State) : State :=
  let a : Fin 64 := Fin.ofNat 64 (fld n 16 6)
  match fld n 28 4 with
  | 1 => after (execEncrypt iss a s) s
  | 2 => after (execDecrypt iss a s) s
  | 3 => after (execSign iss a s) s
  | 4 => after (execVerify iss a s) s
  | 5 => after (execComputeMac iss a s) s
  | _ => s

def keyWrites (iss : Issuer) (w : Word) (s : State) : List (RegRow State) :=
  let n := w.toNat
  let bank (f : KOpBank → KOpBank) : State := updOp iss.cask f s
  [r1 0x0004 (keyCmdWrite iss n s), r1 0x000C { s with key.src := w }, r1 0x0010 { s with key.len := w }, r1 0x0014 { s with key.atLo := w },
   r1 0x0018 { s with key.atHi := w }, r1 0x0040 (keyOpWrite iss n s), r1 0x0044 (bank (fun b => { b with src := w })),
   r1 0x0048 (bank (fun b => { b with dst := w })), r1 0x004C (bank (fun b => { b with len := w })),
   rn 0x0100 4 8 (fun i => { s with key.nonce := Tbl.put s.key.nonce i w })]

/-- A write of the register at an offset, once its checks have passed. SAF holds no register that can be written. -/
def regWriteOp (iss : Issuer) (b : Block) (off : Nat) (w : Word) (s : State) : State :=
  match b with
  | .sys => (regAt off (sysWrites iss w s)).getD s
  | .upd => (regAt off (updWrites iss w s)).getD s
  | .pwr => (regAt off (pwrWrites iss w s)).getD s
  | .trl => (regAt off (trlWrites iss w s)).getD s
  | .pge => (regAt off (pgeWrites iss w s)).getD s
  | .lpe => (regAt off (lpeWrites iss w s)).getD s
  | .prs => (regAt off (prsWrites iss w s)).getD s
  | .saf => s
  | .net => (regAt off (netWrites iss w s)).getD s
  | .tim => (regAt off (timWrites iss w s)).getD s
  | .cel => (regAt off (celWrites iss w s)).getD s
  | .fbs => (regAt off (fbsWrites iss w s)).getD s
  | .bsi => (regAt off (bsiWrites iss w s)).getD s
  | .key => (regAt off (keyWrites iss w s)).getD s

end Sys2Proof.Machine
end

