-- ==== Sys2Proof/Machine/Registers.lean ====
section
/-!
DEFINITION. Registers.lean: the register path itself: word reads and writes of a register, accesses that are narrow or not aligned,
and addresses without a block (spec/00_scope.md R16 to R22; spec/01_architecture.md R41, R46, R48; rows 0 to 4).
-/
namespace Sys2Proof.Machine

/-- An access that ends in a bus error, without side effect (R17, R46). -/
def busError (s : State) : State := { s with reply := .busError }

/-- A word write at an address of peripheral space. -/
def writeAt (iss : Issuer) (addr : Nat) (w : Word) (s : State) : Out :=
  match blockAt addr with
  | some (b, off) => if addr % 4 = 0 then regCmd iss b off (regWriteOp iss b off w) s else .next (busError s)
  | none => .next (busError s)

/-- A word read at an address of peripheral space. -/
def readAt (iss : Issuer) (addr : Nat) (s : State) : Out :=
  match blockAt addr with
  | some (b, off) =>
    if addr % 4 = 0 then regRead iss b off (fun s => (regReadOp iss b off s).1) (fun s => (regReadOp iss b off s).2) s
    else .next (busError s)
  | none => .next (busError s)

/-- REGISTER_WRITE (R20). -/
def execRegisterWrite (iss : Issuer) (addr w : Word) (s : State) : Out := writeAt iss addr.toNat w s

/-- RC_REGISTER_READ (R20, R22): the value, then the clearing of an RC register; any other register is read as its access code
says. -/
def execRcRegisterRead (iss : Issuer) (addr : Word) (s : State) : Out := readAt iss addr.toNat s

/-- NARROW_OR_UNALIGNED_ACCESS (R17); `size` is the access's bytes. An aligned word access is none of these. -/
def execNarrowOrUnalignedAccess (_iss : Issuer) (addr : Word) (size : Fin 5) (_isWrite : Bool) (s : State) : Out :=
  .next (if size.val == 4 && addr.toNat % 4 == 0 then s else busError s)

/-- UNMAPPED_PERIPHERAL_ACCESS (R46); an address below 0x400E_0000 is none of these. -/
def execUnmappedPeripheralAccess (_iss : Issuer) (addr : Word) (_isWrite : Bool) (s : State) : Out :=
  .next (if 0x400E0000 ≤ addr.toNat then busError s else s)

/-- SYS_COMPAT_WRITE (R10, R485). -/
def execSysCompatWrite (iss : Issuer) (w : Word) (s : State) : Out := regCmd iss .sys 0x0010 (compatWrite w.toNat) s

end Sys2Proof.Machine
end

