-- ==== Sys2Proof/Machine/Fmp.lean ====
section
/-!
DEFINITION. Fmp.lean: the Falore Management Protocol on the ring and on the service port (spec/10_ring_and_redundancy.md R335 to R337,
spec/15_update_and_racking.md R458, R459; rows 230 to 234).
-/
namespace Sys2Proof.Machine

def cNET_FMP_OK : Nat := 0x0830
def cNET_FMP_DENIED : Nat := 0x0831
def cNET_FMP_FORMAT : Nat := 0x0832
def cNET_FMP_STATE : Nat := 0x0833

/-! ### Sessions and repeats (R335, R458) -/

/-- Take the request: on the service port its session must be open (a message keeps it open); on the ring the frame of this request
must have arrived and waits to be executed. Answers the session's cask and the state. -/
def fmpTake (op : Nat) (h : FmpHdr) (s : State) : Option (Nat × State) :=
  if h.service then
    match Tbl.get? s.key.sessions h.client with
    | some x => some (x.cask, { s with key.sessions := Tbl.put s.key.sessions h.client { x with lastMsg := s.now } })
    | none => none
  else if !isRun s .ring then none
  else
    let is (q : FmpReq) : Bool := q.client == h.client && q.hdr == fmpHdrBytes op h
    match s.net.fmpQ.find? is with
    | some q => some (q.cask, { s with net.fmpQ := s.net.fmpQ.eraseP is })
    | none => none

/-- The answer kept for a repeated SEQ. -/
def kept (s : State) (h : FmpHdr) : Option Reply :=
  ((Tbl.at s.net.sessions (sessKey h.service h.client) {}).recent.find? (fun e => e.1 == h.seq.toNat)).map (·.2)

/-- Answer again from the record; a request that has not been answered yet gets its one answer later. -/
def answerAgain (op : Nat) (h : FmpHdr) (r : Reply) (s : State) : State :=
  match r with
  | .none => { s with reply := .none }
  | r =>
    let s := { s with reply := r }
    if h.service then s else sendAnswer h.cask.val (fmpHdrBytes op h) (replyParts r).1 (replyParts r).2 s

/-- Only UPD is reached in recovery (spec/16 R486). -/
def recoveryOnly (s : State) (op : Nat) (h : FmpHdr) : Bool := s.pwr.recovery && !((op == 1 || op == 2) && h.block == blockIdx .upd)

/-- A request is taken, checked for its form and its session, and then carried out by `act`. -/
def fmpRequest (op : Nat) (h : FmpHdr) (formOk : Bool) (act : State → State) (s : State) : Out :=
  .next (match fmpTake op h s with
    | none => s
    | some (cask, s) =>
      match kept s h with
      | some r => answerAgain op h r s
      | none =>
        if h.ver != 1 || h.cask.val != cask || h.count < 1 || 64 < h.count || !formOk then
          fmpAnswer op h (.words cNET_FMP_FORMAT []) s
        else if h.cask.val == 63 && s.key.lc != .service then fmpAnswer op h (.words cNET_FMP_STATE []) s
        else if recoveryOnly s op h then fmpAnswer op h (.words cNET_FMP_DENIED []) s
        else act s)

/-! ### READ and WRITE (R336, R337) -/

/-- The packed view of a cask in prior mode: the words of its WINDOWS entries, end to end. -/
def packedView (s : State) (cask : Nat) : List (Nat × Nat) :=
  (Tbl.at s.img.windows cask []).flatMap (fun w => (List.range ((w.last - w.first) / 4 + 1)).map (fun k => (w.block, w.first + 4 * k)))

/-- Block and offset of each word of a request; none where the address has no such form (R335, R337). Before an image there is no
packed view (DEDUCED, log entry 23). -/
def fmpWords (s : State) (h : FmpHdr) : Option (List (Nat × Nat)) :=
  if s.sys.active && s.img.loaded then
    let v := packedView s h.cask.val
    let a := h.block * 2 ^ 16 + h.offset
    if a + h.count ≤ v.length then some ((v.drop a).take h.count) else none
  else if 13 < h.block || h.offset % 4 != 0 || 65536 < h.offset + 4 * h.count then none
  else some ((List.range h.count).map (fun k => (h.block, h.offset + 4 * k)))

/-- R336: a word is permitted; cask 63 by Table 2.9, cask 0 before an image by R517. -/
def fmpAllowed (s : State) (h : FmpHdr) (isWrite : Bool) (x : Nat × Nat) : Bool :=
  match blockOfIdx x.1 with
  | none => false
  | some b =>
    if h.cask.val == 63 then serviceOk b x.2 isWrite
    else (!s.img.loaded && h.service && h.cask.val == 0) || windowOk s h.cask.val b x.2 isWrite

/-- The first word refused is recorded (Table 2.13, kind 0x07), and the whole request is refused. -/
def fmpRefuse (op : Nat) (h : FmpHdr) (x : Nat × Nat) (s : State) : State :=
  fmpAnswer op h (.words cNET_FMP_DENIED []) (denied 0x07 x.1 x.2 0xFF (op - 1) h.cask.val s)

/-- Who issues the local access of a request (R336). -/
def fmpIssuer (h : FmpHdr) : Issuer := { core := 0, cask := h.cask, partition := false }

/-- One word read. -/
def fmpReadWord (h : FmpHdr) (acc : List Word × State) (x : Nat × Nat) : List Word × State :=
  match readAt (fmpIssuer h) (periBase + x.1 * 0x10000 + x.2) acc.2 with
  | .next t => (acc.1 ++ [match t.reply with | .word w => w | _ => 0], t)
  | _ => acc

/-- One word written. -/
def fmpWriteWord (h : FmpHdr) (s : State) (x : (Nat × Nat) × Word) : State :=
  after (writeAt (fmpIssuer h) (periBase + x.1.1 * 0x10000 + x.1.2) x.2 s) s

/-- Check every word, then read in word order. -/
def fmpReadOp (h : FmpHdr) (s : State) : State :=
  match fmpWords s h with
  | none => fmpAnswer 1 h (.words cNET_FMP_FORMAT []) s
  | some xs =>
    match xs.find? (fun x => !fmpAllowed s h false x) with
    | some x => fmpRefuse 1 h x s
    | none =>
      let r := xs.foldl (fmpReadWord h) ([], s)
      fmpAnswer 1 h (.words cNET_FMP_OK r.1) r.2

/-- FMP_READ. -/
def execFmpRead (h : FmpHdr) (s : State) : Out := fmpRequest 1 h true (fmpReadOp h) s

/-- Check every word, then write in word order. -/
def fmpWriteOp (h : FmpHdr) (ws : List Word) (s : State) : State :=
  match fmpWords s h with
  | none => fmpAnswer 2 h (.words cNET_FMP_FORMAT []) s
  | some xs =>
    match xs.find? (fun x => !fmpAllowed s h true x) with
    | some x => fmpRefuse 2 h x s
    | none => fmpAnswer 2 h (.words cNET_FMP_OK []) ((xs.zip ws).foldl (fmpWriteWord h) s)

/-- FMP_WRITE; its data words are as many as COUNT. -/
def execFmpWrite (h : FmpHdr) (ws : List Word) (s : State) : Out := fmpRequest 2 h (ws.length == h.count) (fmpWriteOp h ws) s

/-! ### ADMIT, RELEASE, SAFETY_MSG -/

/-- ADDR is 0. -/
def noAddr (h : FmpHdr) : Bool := h.block == 0 && h.offset == 0

/-- FMP_ADMIT (R331): the request waits at the admission unit like one of the NET_ADM registers; its answer follows the decision. -/
def execFmpAdmit (h : FmpHdr) (req : FlowReq) (s : State) : Out :=
  fmpRequest 0x10 h (noAddr h) (fun s =>
    admQueue { cask := h.cask.val, req := req, fmp := some h }
      (keepAnswer (sessKey h.service h.client) h.seq.toNat .none { s with reply := .none })) s

/-- FMP_RELEASE (R332). -/
def execFmpRelease (h : FmpHdr) (n : Fin 1024) (s : State) : Out :=
  fmpRequest 0x11 h (noAddr h) (fun s =>
    let r := releaseOp h.cask.val n s
    fmpAnswer 0x11 h (.words r.1 []) r.2) s

/-- The island's answer as words: a code, or its bytes. -/
def safReplyWords : Reply → List Word
  | .code c => [w32 c]
  | .bytes bs => (chunks (bs.length + 1) 4 bs).map (fun b => w32 (ofLe b))
  | _ => []

/-- The message goes over the configuration lane, and the island's answer back. -/
def safetyMsgOp (h : FmpHdr) (bytes : List Byte) (s : State) : State :=
  if h.cask.val != 0 then
    fmpAnswer 0x30 h (.words cNET_FMP_DENIED []) (denied 0x07 (blockIdx .saf) 0 0xFF 1 h.cask.val s)
  else
    let s := match Config.sessionMsg bytes with
      | some m => safMessage m { s with reply := .none }
      | none => { s with reply := .none }
    fmpAnswer 0x30 h (.words cNET_FMP_OK (safReplyWords s.reply)) s

/-- SAFETY_MSG (R302): relayed unchanged; only a cask 0 client may ask. -/
def execSafetyMsg (h : FmpHdr) (bytes : List Byte) (s : State) : Out := fmpRequest 0x30 h true (safetyMsgOp h bytes) s

end Sys2Proof.Machine
end

