-- ==== Sys2Proof/Machine/Dispatch.lean ====
section
/-!
DEFINITION. Dispatch.lean: one arm per command, each one call of its meaning.
-/
namespace Sys2Proof.Machine

def exec (i : Instr) (s : State) : Host.Outcome State Fault Refusal :=
  match i with
  | .registerWrite iss addr w => Sys2Proof.Machine.execRegisterWrite iss addr w s
  | .rcRegisterRead iss addr => Sys2Proof.Machine.execRcRegisterRead iss addr s
  | .narrowOrUnalignedAccess iss addr size isWrite => Sys2Proof.Machine.execNarrowOrUnalignedAccess iss addr size isWrite s
  | .unmappedPeripheralAccess iss addr isWrite => Sys2Proof.Machine.execUnmappedPeripheralAccess iss addr isWrite s
  | .sysCompatWrite iss w => Sys2Proof.Machine.execSysCompatWrite iss w s
  | .handshakeCrossing lane => Sys2Proof.Machine.execHandshakeCrossing lane s
  | .celPostedWriteEffect => Sys2Proof.Machine.execCelPostedWriteEffect s
  | .timeDistributionUpdate isl => Sys2Proof.Machine.execTimeDistributionUpdate isl s
  | .stage iss => Sys2Proof.Machine.execStage iss s
  | .commit iss timed => Sys2Proof.Machine.execCommit iss timed s
  | .discard iss => Sys2Proof.Machine.execDiscard iss s
  | .commitTrellisCycle => Sys2Proof.Machine.execCommitTrellisCycle s
  | .sectionActiveReport sec => Sys2Proof.Machine.execSectionActiveReport sec s
  | .sectionalLoadAbort iss => Sys2Proof.Machine.execSectionalLoadAbort iss s
  | .wholeLoad => Sys2Proof.Machine.execWholeLoad s
  | .trellisFrame readings refs => Sys2Proof.Machine.execTrellisFrame readings refs s
  | .startRelease cell => Sys2Proof.Machine.execStartRelease cell s
  | .diSample cell millivolts => Sys2Proof.Machine.execDiSample cell millivolts s
  | .diFilterElapsed cell => Sys2Proof.Machine.execDiFilterElapsed cell s
  | .countEdge cell highUs lowUs => Sys2Proof.Machine.execCountEdge cell highUs lowUs s
  | .outputTurnOff cell => Sys2Proof.Machine.execOutputTurnOff cell s
  | .doShortTrip cell milliamps => Sys2Proof.Machine.execDoShortTrip cell milliamps s
  | .doTripRetry cell => Sys2Proof.Machine.execDoTripRetry cell s
  | .groupFsupLow group millivolts => Sys2Proof.Machine.execGroupFsupLow group millivolts s
  | .groupFsupRestored group millivolts heldMs => Sys2Proof.Machine.execGroupFsupRestored group millivolts heldMs s
  | .pointSnapshot iss index => Sys2Proof.Machine.execPointSnapshot iss index s
  | .partitionPointWrite iss index quality => Sys2Proof.Machine.execPartitionPointWrite iss index quality s
  | .cellTestStart iss cell type timeout => Sys2Proof.Machine.execCellTestStart iss cell type timeout s
  | .cellTestStop iss => Sys2Proof.Machine.execCellTestStop iss s
  | .cellTestComplete results wireOk => Sys2Proof.Machine.execCellTestComplete results wireOk s
  | .cellTestTimeout => Sys2Proof.Machine.execCellTestTimeout s
  | .taskRelease cask task => Sys2Proof.Machine.execTaskRelease cask task s
  | .eventTaskTrigger cask task => Sys2Proof.Machine.execEventTaskTrigger cask task s
  | .pgeEvtTrig iss task => Sys2Proof.Machine.execPgeEvtTrig iss task s
  | .pgeAccountingPeriod => Sys2Proof.Machine.execPgeAccountingPeriod s
  | .pgeGuaranteeUsed cask => Sys2Proof.Machine.execPgeGuaranteeUsed cask s
  | .taskExecutionStart p => Sys2Proof.Machine.execTaskExecutionStart p s
  | .taskOutputPhase p => Sys2Proof.Machine.execTaskOutputPhase p s
  | .outputImageCommit cask task => Sys2Proof.Machine.execOutputImageCommit cask task s
  | .retentiveCommit cask task => Sys2Proof.Machine.execRetentiveCommit cask task s
  | .taskWatchdog cask task => Sys2Proof.Machine.execTaskWatchdog cask task s
  | .errorTaskRelease cask => Sys2Proof.Machine.execErrorTaskRelease cask s
  | .runWarm iss target => Sys2Proof.Machine.execRunWarm iss target s
  | .runCold iss target => Sys2Proof.Machine.execRunCold iss target s
  | .holdCask iss target => Sys2Proof.Machine.execHoldCask iss target s
  | .resumeCask iss target => Sys2Proof.Machine.execResumeCask iss target s
  | .stopCask iss target => Sys2Proof.Machine.execStopCask iss target s
  | .caskDrained cask => Sys2Proof.Machine.execCaskDrained cask s
  | .holdExpired cask => Sys2Proof.Machine.execHoldExpired cask s
  | .caskAutoStart cask => Sys2Proof.Machine.execCaskAutoStart cask s
  | .programEngineAbort iss => Sys2Proof.Machine.execProgramEngineAbort iss s
  | .pgeClkLoRead iss => Sys2Proof.Machine.execPgeClkLoRead iss s
  | .vintnerSetpointWrite point v => Sys2Proof.Machine.execVintnerSetpointWrite point v s
  | .opLd8 p d m => Sys2Proof.Machine.execOpLd8 p d m s
  | .opLd16 p d m => Sys2Proof.Machine.execOpLd16 p d m s
  | .opLd32 p d m => Sys2Proof.Machine.execOpLd32 p d m s
  | .opLd64 p d m => Sys2Proof.Machine.execOpLd64 p d m s
  | .opSt8 p d m => Sys2Proof.Machine.execOpSt8 p d m s
  | .opSt16 p d m => Sys2Proof.Machine.execOpSt16 p d m s
  | .opSt32 p d m => Sys2Proof.Machine.execOpSt32 p d m s
  | .opSt64 p d m => Sys2Proof.Machine.execOpSt64 p d m s
  | .opIn p d b slot => Sys2Proof.Machine.execOpIn p d b slot s
  | .opInq p d slot => Sys2Proof.Machine.execOpInq p d slot s
  | .opOut p d slot => Sys2Proof.Machine.execOpOut p d slot s
  | .opOutq p d code slot => Sys2Proof.Machine.execOpOutq p d code slot s
  | .opAdd p d x y => Sys2Proof.Machine.execOpAdd p d x y s
  | .opSub p d x y => Sys2Proof.Machine.execOpSub p d x y s
  | .opNeg p d x => Sys2Proof.Machine.execOpNeg p d x s
  | .opAbs p d x => Sys2Proof.Machine.execOpAbs p d x s
  | .opMin p d x y => Sys2Proof.Machine.execOpMin p d x y s
  | .opMax p d x y => Sys2Proof.Machine.execOpMax p d x y s
  | .opLimit p d lo x hi => Sys2Proof.Machine.execOpLimit p d lo x hi s
  | .opSel p d b x y => Sys2Proof.Machine.execOpSel p d b x y s
  | .opMul p d x y => Sys2Proof.Machine.execOpMul p d x y s
  | .opDiv p d x y => Sys2Proof.Machine.execOpDiv p d x y s
  | .opMod p d x y => Sys2Proof.Machine.execOpMod p d x y s
  | .opIntConv p d x fmt => Sys2Proof.Machine.execOpIntConv p d x fmt s
  | .opAnd p d x y => Sys2Proof.Machine.execOpAnd p d x y s
  | .opOr p d x y => Sys2Proof.Machine.execOpOr p d x y s
  | .opXor p d x y => Sys2Proof.Machine.execOpXor p d x y s
  | .opNot p d x => Sys2Proof.Machine.execOpNot p d x s
  | .opShl p d x y => Sys2Proof.Machine.execOpShl p d x y s
  | .opShr p d x y => Sys2Proof.Machine.execOpShr p d x y s
  | .opRol p d x y => Sys2Proof.Machine.execOpRol p d x y s
  | .opRor p d x y => Sys2Proof.Machine.execOpRor p d x y s
  | .opFadd p single d x y => Sys2Proof.Machine.execOpFadd p single d x y s
  | .opFsub p single d x y => Sys2Proof.Machine.execOpFsub p single d x y s
  | .opFmul p single d x y => Sys2Proof.Machine.execOpFmul p single d x y s
  | .opFdiv p single d x y => Sys2Proof.Machine.execOpFdiv p single d x y s
  | .opFsqrt p single d x => Sys2Proof.Machine.execOpFsqrt p single d x s
  | .opFmin p single d x y => Sys2Proof.Machine.execOpFmin p single d x y s
  | .opFmax p single d x y => Sys2Proof.Machine.execOpFmax p single d x y s
  | .opFlim p single d lo x hi => Sys2Proof.Machine.execOpFlim p single d lo x hi s
  | .opCvt p d x kind => Sys2Proof.Machine.execOpCvt p d x kind s
  | .opCmp p cond b x y => Sys2Proof.Machine.execOpCmp p cond b x y s
  | .opFcmp p single cond b x y => Sys2Proof.Machine.execOpFcmp p single cond b x y s
  | .opLdb p b x => Sys2Proof.Machine.execOpLdb p b x s
  | .opAndb p b x y => Sys2Proof.Machine.execOpAndb p b x y s
  | .opOrb p b x y => Sys2Proof.Machine.execOpOrb p b x y s
  | .opXorb p b x y => Sys2Proof.Machine.execOpXorb p b x y s
  | .opNotb p b x => Sys2Proof.Machine.execOpNotb p b x s
  | .opStb p b x => Sys2Proof.Machine.execOpStb p b x s
  | .opSetb p b => Sys2Proof.Machine.execOpSetb p b s
  | .opRstb p b => Sys2Proof.Machine.execOpRstb p b s
  | .opJmp p target => Sys2Proof.Machine.execOpJmp p target s
  | .opBt p b target => Sys2Proof.Machine.execOpBt p b target s
  | .opBf p b target => Sys2Proof.Machine.execOpBf p b target s
  | .opCall p inst target => Sys2Proof.Machine.execOpCall p inst target s
  | .opRet p => Sys2Proof.Machine.execOpRet p s
  | .opTon p m inp q => Sys2Proof.Machine.execOpTon p m inp q s
  | .opTof p m inp q => Sys2Proof.Machine.execOpTof p m inp q s
  | .opTp p m inp q => Sys2Proof.Machine.execOpTp p m inp q s
  | .opRtrig p m inp q => Sys2Proof.Machine.execOpRtrig p m inp q s
  | .opFtrig p m inp q => Sys2Proof.Machine.execOpFtrig p m inp q s
  | .opCtu p m cu r q => Sys2Proof.Machine.execOpCtu p m cu r q s
  | .opCtd p m cd ld q => Sys2Proof.Machine.execOpCtd p m cd ld q s
  | .opCtud p m cu cd r ld qu qd => Sys2Proof.Machine.execOpCtud p m cu cd r ld qu qd s
  | .opClk p d => Sys2Proof.Machine.execOpClk p d s
  | .opFirst p b => Sys2Proof.Machine.execOpFirst p b s
  | .opSetp p slot d => Sys2Proof.Machine.execOpSetp p slot d s
  | .opMode p slot d => Sys2Proof.Machine.execOpMode p slot d s
  | .opRaise p task => Sys2Proof.Machine.execOpRaise p task s
  | .opErrinfo p d => Sys2Proof.Machine.execOpErrinfo p d s
  | .opErrack p stop => Sys2Proof.Machine.execOpErrack p stop s
  | .exchangeBoundary cask task => Sys2Proof.Machine.execExchangeBoundary cask task s
  | .exchangeWork p => Sys2Proof.Machine.execExchangeWork p s
  | .exchangeSwitch cask task => Sys2Proof.Machine.execExchangeSwitch cask task s
  | .exchTime cask task => Sys2Proof.Machine.execExchTime cask task s
  | .stationLost station => Sys2Proof.Machine.execStationLost station s
  | .loopFrame => Sys2Proof.Machine.execLoopFrame s
  | .loopSnapshot slot => Sys2Proof.Machine.execLoopSnapshot slot s
  | .loopEvaluation slot => Sys2Proof.Machine.execLoopEvaluation slot s
  | .lpeFe slot => Sys2Proof.Machine.execLpeFe slot s
  | .lpeLate slot => Sys2Proof.Machine.execLpeLate slot s
  | .loopModeOff iss slot => Sys2Proof.Machine.execLoopModeOff iss slot s
  | .loopModeManual iss slot => Sys2Proof.Machine.execLoopModeManual iss slot s
  | .loopModeAuto iss slot => Sys2Proof.Machine.execLoopModeAuto iss slot s
  | .loopModeTrack iss slot => Sys2Proof.Machine.execLoopModeTrack iss slot s
  | .lpeResume iss => Sys2Proof.Machine.execLpeResume iss s
  | .loopEngineAbort iss => Sys2Proof.Machine.execLoopEngineAbort iss s
  | .shadowStart iss ctx slot count => Sys2Proof.Machine.execShadowStart iss ctx slot count s
  | .shadowStop iss ctx => Sys2Proof.Machine.execShadowStop iss ctx s
  | .shadowEvaluation ctx => Sys2Proof.Machine.execShadowEvaluation ctx s
  | .shadowComplete ctx => Sys2Proof.Machine.execShadowComplete ctx s
  | .captureComplete buf => Sys2Proof.Machine.execCaptureComplete buf s
  | .vintnerRetuneFit buf => Sys2Proof.Machine.execVintnerRetuneFit buf s
  | .tryRetune iss => Sys2Proof.Machine.execTryRetune iss s
  | .applyRetune iss => Sys2Proof.Machine.execApplyRetune iss s
  | .revertRetune iss => Sys2Proof.Machine.execRevertRetune iss s
  | .pressSample main guard ref => Sys2Proof.Machine.execPressSample main guard ref s
  | .gainStepUp ch => Sys2Proof.Machine.execGainStepUp ch s
  | .handoverEnd ch => Sys2Proof.Machine.execHandoverEnd ch s
  | .zeroCrossing sys phase => Sys2Proof.Machine.execZeroCrossing sys phase s
  | .prsDirChange elem => Sys2Proof.Machine.execPrsDirChange elem s
  | .prsPhaseLoss elem => Sys2Proof.Machine.execPrsPhaseLoss elem s
  | .pressPointsLost elem => Sys2Proof.Machine.execPressPointsLost elem s
  | .pulseStart n => Sys2Proof.Machine.execPulseStart n s
  | .pulseEnd n => Sys2Proof.Machine.execPulseEnd n s
  | .mdReset iss elem => Sys2Proof.Machine.execMdReset iss elem s
  | .tariffPush iss g index => Sys2Proof.Machine.execTariffPush iss g index s
  | .tariffClear iss g => Sys2Proof.Machine.execTariffClear iss g s
  | .accumulatorSnapshot iss elem => Sys2Proof.Machine.execAccumulatorSnapshot iss elem s
  | .snapshotComplete cask => Sys2Proof.Machine.execSnapshotComplete cask s
  | .elementActivation elem => Sys2Proof.Machine.execElementActivation elem s
  | .pressAbort iss => Sys2Proof.Machine.execPressAbort iss s
  | .periodicSave => Sys2Proof.Machine.execPeriodicSave s
  | .saveCommit readBackOk => Sys2Proof.Machine.execSaveCommit readBackOk s
  | .finalSaveCommand => Sys2Proof.Machine.execFinalSaveCommand s
  | .pressHoldFull => Sys2Proof.Machine.execPressHoldFull s
  | .pressRestoreComplete => Sys2Proof.Machine.execPressRestoreComplete s
  | .prsWatchStart => Sys2Proof.Machine.execPrsWatchStart s
  | .watchSecond irms => Sys2Proof.Machine.execWatchSecond irms s
  | .prsWatchEnd => Sys2Proof.Machine.execPrsWatchEnd s
  | .prsWatchLost millivolts => Sys2Proof.Machine.execPrsWatchLost millivolts s
  | .tastingRunComplete zeroPpm checkPpm => Sys2Proof.Machine.execTastingRunComplete zeroPpm checkPpm s
  | .tastingStart iss zeroPpm checkPpm => Sys2Proof.Machine.execTastingStart iss zeroPpm checkPpm s
  | .tastingSingle iss ch zeroPpm checkPpm => Sys2Proof.Machine.execTastingSingle iss ch zeroPpm checkPpm s
  | .tastingStop iss => Sys2Proof.Machine.execTastingStop iss s
  | .spSample si fb => Sys2Proof.Machine.execSpSample si fb s
  | .slSample si fb => Sys2Proof.Machine.execSlSample si fb s
  | .discrepancyTimeout ch func => Sys2Proof.Machine.execDiscrepancyTimeout ch func s
  | .intermediateTimeout ch func => Sys2Proof.Machine.execIntermediateTimeout ch func s
  | .syncWindowEnd ch func => Sys2Proof.Machine.execSyncWindowEnd ch func s
  | .functionFaultClear ch func => Sys2Proof.Machine.execFunctionFaultClear ch func s
  | .testPulseDrop tp => Sys2Proof.Machine.execTestPulseDrop tp s
  | .tpCheckSample tp spMv slMv => Sys2Proof.Machine.execTpCheckSample tp spMv slMv s
  | .crossLinkExchange rcKhz => Sys2Proof.Machine.execCrossLinkExchange rcKhz s
  | .requestOff pair => Sys2Proof.Machine.execRequestOff pair s
  | .fbTimeout pair => Sys2Proof.Machine.execFbTimeout pair s
  | .switchTest pair passed => Sys2Proof.Machine.execSwitchTest pair passed s
  | .degradedTimerExpiry pair => Sys2Proof.Machine.execDegradedTimerExpiry pair s
  | .safetySelfTest passed => Sys2Proof.Machine.execSafetySelfTest passed s
  | .safetyChannelStop ch => Sys2Proof.Machine.execSafetyChannelStop ch s
  | .safetySupplyStart millivolts heldUs => Sys2Proof.Machine.execSafetySupplyStart millivolts heldUs s
  | .safetySupplyStop millivolts => Sys2Proof.Machine.execSafetySupplyStop millivolts s
  | .pendingMapDelivery => Sys2Proof.Machine.execPendingMapDelivery s
  | .openSession password time => Sys2Proof.Machine.execOpenSession password time s
  | .showPending => Sys2Proof.Machine.execShowPending s
  | .acceptMap digest => Sys2Proof.Machine.execAcceptMap digest s
  | .setPassword old new => Sys2Proof.Machine.execSetPassword old new s
  | .resetLockout pair => Sys2Proof.Machine.execResetLockout pair s
  | .readLog start => Sys2Proof.Machine.execReadLog start s
  | .closeSession => Sys2Proof.Machine.execCloseSession s
  | .safTimeout => Sys2Proof.Machine.execSafTimeout s
  | .keyswitchRelease millivolts => Sys2Proof.Machine.execKeyswitchRelease millivolts s
  | .pwBlockExpiry => Sys2Proof.Machine.execPwBlockExpiry s
  | .safetyIslandAbort iss => Sys2Proof.Machine.execSafetyIslandAbort iss s
  | .safetyStatusReport => Sys2Proof.Machine.execSafetyStatusReport s
  | .mirrorStale => Sys2Proof.Machine.execMirrorStale s
  | .ringFrameReceived port frame => Sys2Proof.Machine.execRingFrameReceived port frame s
  | .dupEntryTimeout entry => Sys2Proof.Machine.execDupEntryTimeout entry s
  | .leesHoldTimeout buf => Sys2Proof.Machine.execLeesHoldTimeout buf s
  | .suspectClear node => Sys2Proof.Machine.execSuspectClear node s
  | .heartbeatSend => Sys2Proof.Machine.execHeartbeatSend s
  | .supervisionFrameSend => Sys2Proof.Machine.execSupervisionFrameSend s
  | .netPathFail node port => Sys2Proof.Machine.execNetPathFail node port s
  | .netPathUp node port => Sys2Proof.Machine.execNetPathUp node port s
  | .linkUp port => Sys2Proof.Machine.execLinkUp port s
  | .linkDown port => Sys2Proof.Machine.execLinkDown port s
  | .bypassRelease => Sys2Proof.Machine.execBypassRelease s
  | .bypHoldSet iss w => Sys2Proof.Machine.execBypHoldSet iss w s
  | .egressTransmit port => Sys2Proof.Machine.execEgressTransmit port s
  | .flowSend flow => Sys2Proof.Machine.execFlowSend flow s
  | .flowRekey flow => Sys2Proof.Machine.execFlowRekey flow s
  | .admitFlow iss => Sys2Proof.Machine.execAdmitFlow iss s
  | .releaseFlow iss flow => Sys2Proof.Machine.execReleaseFlow iss flow s
  | .admissionDecision => Sys2Proof.Machine.execAdmissionDecision s
  | .bindReceived req => Sys2Proof.Machine.execBindReceived req s
  | .bindAnswer flow accepted => Sys2Proof.Machine.execBindAnswer flow accepted s
  | .bindTimeout flow => Sys2Proof.Machine.execBindTimeout flow s
  | .fmpRead hdr => Sys2Proof.Machine.execFmpRead hdr s
  | .fmpWrite hdr ws => Sys2Proof.Machine.execFmpWrite hdr ws s
  | .fmpAdmit hdr req => Sys2Proof.Machine.execFmpAdmit hdr req s
  | .fmpRelease hdr flow => Sys2Proof.Machine.execFmpRelease hdr flow s
  | .safetyMsg hdr bytes => Sys2Proof.Machine.execSafetyMsg hdr bytes s
  | .pathTestStart iss port len => Sys2Proof.Machine.execPathTestStart iss port len s
  | .pathTestFrameSend => Sys2Proof.Machine.execPathTestFrameSend s
  | .pathTestEnd => Sys2Proof.Machine.execPathTestEnd s
  | .ringMacAbort iss => Sys2Proof.Machine.execRingMacAbort iss s
  | .syncReceived dn port gm node masterTime => Sys2Proof.Machine.execSyncReceived dn port gm node masterTime s
  | .syncMissing dom => Sys2Proof.Machine.execSyncMissing dom s
  | .timHoldover dom => Sys2Proof.Machine.execTimHoldover dom s
  | .announceReceived msg => Sys2Proof.Machine.execAnnounceReceived msg s
  | .announceTimeout dom => Sys2Proof.Machine.execAnnounceTimeout dom s
  | .slewComplete dom => Sys2Proof.Machine.execSlewComplete dom s
  | .holdSecond dom => Sys2Proof.Machine.execHoldSecond dom s
  | .timUntrusted dom => Sys2Proof.Machine.execTimUntrusted dom s
  | .pdelayRequestSend => Sys2Proof.Machine.execPdelayRequestSend s
  | .pdelayMessageReceived port msg => Sys2Proof.Machine.execPdelayMessageReceived port msg s
  | .syncSend dom => Sys2Proof.Machine.execSyncSend dom s
  | .setDomain iss dom => Sys2Proof.Machine.execSetDomain iss dom s
  | .setTrustDomain iss dom => Sys2Proof.Machine.execSetTrustDomain iss dom s
  | .adjustDomain iss dom => Sys2Proof.Machine.execAdjustDomain iss dom s
  | .nowLoRead iss dom => Sys2Proof.Machine.execNowLoRead iss dom s
  | .xsnap iss mask => Sys2Proof.Machine.execXsnap iss mask s
  | .timeCapture src => Sys2Proof.Machine.execTimeCapture src s
  | .captureRead iss ch => Sys2Proof.Machine.execCaptureRead iss ch s
  | .celToBattery railMv vbatMv => Sys2Proof.Machine.execCelToBattery railMv vbatMv s
  | .celToMain railMv vbatMv minRailMv heldUs => Sys2Proof.Machine.execCelToMain railMv vbatMv minRailMv heldUs s
  | .pendedEvent => Sys2Proof.Machine.execPendedEvent s
  | .vbatMeasure millivolts => Sys2Proof.Machine.execVbatMeasure millivolts s
  | .rtcSecond pulses => Sys2Proof.Machine.execRtcSecond pulses s
  | .loadCalendar iss dst => Sys2Proof.Machine.execLoadCalendar iss dst s
  | .syncCalendar iss dst => Sys2Proof.Machine.execSyncCalendar iss dst s
  | .syncTakesEffect => Sys2Proof.Machine.execSyncTakesEffect s
  | .dstAdd iss => Sys2Proof.Machine.execDstAdd iss s
  | .dstSub iss => Sys2Proof.Machine.execDstSub iss s
  | .rtcTimeRead iss => Sys2Proof.Machine.execRtcTimeRead iss s
  | .celZoneWrite iss w => Sys2Proof.Machine.execCelZoneWrite iss w s
  | .celTrimWrite iss w => Sys2Proof.Machine.execCelTrimWrite iss w s
  | .celTrimCfgWrite iss w => Sys2Proof.Machine.execCelTrimCfgWrite iss w s
  | .celOscStop silentUs => Sys2Proof.Machine.execCelOscStop silentUs s
  | .oscRestart => Sys2Proof.Machine.execOscRestart s
  | .trimWindowEnd pulses crossings => Sys2Proof.Machine.execTrimWindowEnd pulses crossings s
  | .eventRecordQueued => Sys2Proof.Machine.execEventRecordQueued s
  | .eventRecordWrite => Sys2Proof.Machine.execEventRecordWrite s
  | .opsecSave => Sys2Proof.Machine.execOpsecSave s
  | .celTimeMark => Sys2Proof.Machine.execCelTimeMark s
  | .queryStart iss kind => Sys2Proof.Machine.execQueryStart iss kind s
  | .queryNext iss => Sys2Proof.Machine.execQueryNext iss s
  | .queryEnd iss => Sys2Proof.Machine.execQueryEnd iss s
  | .queryRecordReady core cask => Sys2Proof.Machine.execQueryRecordReady core cask s
  | .cellarAbort iss => Sys2Proof.Machine.execCellarAbort iss s
  | .leapCheck => Sys2Proof.Machine.execLeapCheck s
  | .calendarCheck => Sys2Proof.Machine.execCalendarCheck s
  | .canFrameReceived ch f => Sys2Proof.Machine.execCanFrameReceived ch f s
  | .canPeriodicTrigger frame => Sys2Proof.Machine.execCanPeriodicTrigger frame s
  | .canTxComplete ch => Sys2Proof.Machine.execCanTxComplete ch s
  | .canTxError ch => Sys2Proof.Machine.execCanTxError ch s
  | .canBusOff ch => Sys2Proof.Machine.execCanBusOff ch s
  | .canBusWatchdog ch => Sys2Proof.Machine.execCanBusWatchdog ch s
  | .canSupplyFail ch => Sys2Proof.Machine.execCanSupplyFail ch s
  | .canRecoveryComplete ch => Sys2Proof.Machine.execCanRecoveryComplete ch s
  | .fbsChStart iss ch => Sys2Proof.Machine.execFbsChStart iss ch s
  | .fbsChStop iss ch => Sys2Proof.Machine.execFbsChStop iss ch s
  | .recoverChannel iss ch => Sys2Proof.Machine.execRecoverChannel iss ch s
  | .ttCycleStart ch idleNs => Sys2Proof.Machine.execTtCycleStart ch idleNs s
  | .ttTxWindow ch win idleNs => Sys2Proof.Machine.execTtTxWindow ch win idleNs s
  | .ttRxWindowEnd ch win => Sys2Proof.Machine.execTtRxWindowEnd ch win s
  | .fbsTtResync ch => Sys2Proof.Machine.execFbsTtResync ch s
  | .marginScanStart iss ch count => Sys2Proof.Machine.execMarginScanStart iss ch count s
  | .marginScanStop iss => Sys2Proof.Machine.execMarginScanStop iss s
  | .marginScanComplete early late => Sys2Proof.Machine.execMarginScanComplete early late s
  | .marginScanTimeout => Sys2Proof.Machine.execMarginScanTimeout s
  | .daliPoll port => Sys2Proof.Machine.execDaliPoll port s
  | .daliBackwardFrame port b => Sys2Proof.Machine.execDaliBackwardFrame port b s
  | .daliEventMessage port short inst instType event => Sys2Proof.Machine.execDaliEventMessage port short inst instType event s
  | .daliLevelCommand port collided => Sys2Proof.Machine.execDaliLevelCommand port collided s
  | .bsiDaliFail port millivolts heldMs => Sys2Proof.Machine.execBsiDaliFail port millivolts heldMs s
  | .daliBusRestored port millivolts heldMs => Sys2Proof.Machine.execDaliBusRestored port millivolts heldMs s
  | .osdpPoll port => Sys2Proof.Machine.execOsdpPoll port s
  | .osdpReply port macOk reply => Sys2Proof.Machine.execOsdpReply port macOk reply s
  | .osdpReplyTimeout port => Sys2Proof.Machine.execOsdpReplyTimeout port s
  | .osdpScSetup reader offered randoms => Sys2Proof.Machine.execOsdpScSetup reader offered randoms s
  | .accessDecision port => Sys2Proof.Machine.execAccessDecision port s
  | .strikeExpiry door => Sys2Proof.Machine.execStrikeExpiry door s
  | .bsiPortStart iss port => Sys2Proof.Machine.execBsiPortStart iss port s
  | .bsiPortStop iss port => Sys2Proof.Machine.execBsiPortStop iss port s
  | .install iss port addr => Sys2Proof.Machine.execInstall iss port addr s
  | .installTimeout reader => Sys2Proof.Machine.execInstallTimeout reader s
  | .credAdd iss sched dest => Sys2Proof.Machine.execCredAdd iss sched dest s
  | .credDelete iss => Sys2Proof.Machine.execCredDelete iss s
  | .credReplace iss sched dest => Sys2Proof.Machine.execCredReplace iss sched dest s
  | .credTableRestore => Sys2Proof.Machine.execCredTableRestore s
  | .fieldBusAbort iss => Sys2Proof.Machine.execFieldBusAbort iss s
  | .provision iss => Sys2Proof.Machine.execProvision iss s
  | .serviceEnter iss => Sys2Proof.Machine.execServiceEnter iss s
  | .serviceExit iss => Sys2Proof.Machine.execServiceExit iss s
  | .serviceTimeout => Sys2Proof.Machine.execServiceTimeout s
  | .retire iss => Sys2Proof.Machine.execRetire iss s
  | .acceptIdentity iss => Sys2Proof.Machine.execAcceptIdentity iss s
  | .attest iss => Sys2Proof.Machine.execAttest iss s
  | .attestComplete => Sys2Proof.Machine.execAttestComplete s
  | .clearA iss => Sys2Proof.Machine.execClearA iss s
  | .armMonitors iss => Sys2Proof.Machine.execArmMonitors iss s
  | .invalidateSess iss arg => Sys2Proof.Machine.execInvalidateSess iss arg s
  | .invalidateRdr iss arg => Sys2Proof.Machine.execInvalidateRdr iss arg s
  | .rollStage iss => Sys2Proof.Machine.execRollStage iss s
  | .roll iss => Sys2Proof.Machine.execRoll iss s
  | .rollActivation => Sys2Proof.Machine.execRollActivation s
  | .importKey iss slot => Sys2Proof.Machine.execImportKey iss slot s
  | .deleteKey iss slot => Sys2Proof.Machine.execDeleteKey iss slot s
  | .exportKey iss slot => Sys2Proof.Machine.execExportKey iss slot s
  | .encrypt iss slot => Sys2Proof.Machine.execEncrypt iss slot s
  | .decrypt iss slot => Sys2Proof.Machine.execDecrypt iss slot s
  | .sign iss slot => Sys2Proof.Machine.execSign iss slot s
  | .verify iss slot => Sys2Proof.Machine.execVerify iss slot s
  | .computeMac iss slot => Sys2Proof.Machine.execComputeMac iss slot s
  | .keyOpComplete cask => Sys2Proof.Machine.execKeyOpComplete cask s
  | .cachePurgeComplete => Sys2Proof.Machine.execCachePurgeComplete s
  | .unseal => Sys2Proof.Machine.execUnseal s
  | .remask => Sys2Proof.Machine.execRemask s
  | .meshSample mon same lux => Sys2Proof.Machine.execMeshSample mon same lux s
  | .lidOpen lid heldMs => Sys2Proof.Machine.execLidOpen lid heldMs s
  | .glitchDetected sense => Sys2Proof.Machine.execGlitchDetected sense s
  | .keyEngineAbort iss => Sys2Proof.Machine.execKeyEngineAbort iss s
  | .serviceSessionOpen cert sig => Sys2Proof.Machine.execServiceSessionOpen cert sig s
  | .serviceSessionTimeout session => Sys2Proof.Machine.execServiceSessionTimeout session s
  | .rackBegin iss => Sys2Proof.Machine.execRackBegin iss s
  | .rackFrag iss flashOk => Sys2Proof.Machine.execRackFrag iss flashOk s
  | .verifyComplete readBackOk => Sys2Proof.Machine.execVerifyComplete readBackOk s
  | .rackActivate iss timed => Sys2Proof.Machine.execRackActivate iss timed s
  | .rackActivation => Sys2Proof.Machine.execRackActivation s
  | .rackCancel iss => Sys2Proof.Machine.execRackCancel iss s
  | .rackConfirm iss => Sys2Proof.Machine.execRackConfirm iss s
  | .rackRevert iss => Sys2Proof.Machine.execRackRevert iss s
  | .confirmationExpiry => Sys2Proof.Machine.execConfirmationExpiry s
  | .bootCompletion => Sys2Proof.Machine.execBootCompletion s
  | .updAbort iss => Sys2Proof.Machine.execUpdAbort iss s
  | .vinStart millivolts heldUs railsOk => Sys2Proof.Machine.execVinStart millivolts heldUs railsOk s
  | .pwrVinWarn millivolts heldUs => Sys2Proof.Machine.execPwrVinWarn millivolts heldUs s
  | .pwrVinClear millivolts heldUs => Sys2Proof.Machine.execPwrVinClear millivolts heldUs s
  | .holdupEnd => Sys2Proof.Machine.execHoldupEnd s
  | .alwaysOnRailStop millivolts => Sys2Proof.Machine.execAlwaysOnRailStop millivolts s
  | .pwrFsupLow millivolts heldUs => Sys2Proof.Machine.execPwrFsupLow millivolts heldUs s
  | .fsupRestored millivolts heldUs => Sys2Proof.Machine.execFsupRestored millivolts heldUs s
  | .resetPin lowUs => Sys2Proof.Machine.execResetPin lowUs s
  | .watchdogReset => Sys2Proof.Machine.execWatchdogReset s
  | .exceptionReset => Sys2Proof.Machine.execExceptionReset s
  | .sysReset iss w => Sys2Proof.Machine.execSysReset iss w s
  | .logicReset => Sys2Proof.Machine.execLogicReset s
  | .startUp strapSamples => Sys2Proof.Machine.execStartUp strapSamples s
  | .wakeAdmission vinMillivolts => Sys2Proof.Machine.execWakeAdmission vinMillivolts s
  | .islandRun isl => Sys2Proof.Machine.execIslandRun isl s
  | .wakeRelease isl => Sys2Proof.Machine.execWakeRelease isl s
  | .pwrIslandFail isl => Sys2Proof.Machine.execPwrIslandFail isl s
  | .standby iss => Sys2Proof.Machine.execStandby iss s
  | .resumeFromStandby iss => Sys2Proof.Machine.execResumeFromStandby iss s
  | .trellisAbort iss => Sys2Proof.Machine.execTrellisAbort iss s
  | .abortDoneTimeout => Sys2Proof.Machine.execAbortDoneTimeout s
  | .moduleWithdrawal => Sys2Proof.Machine.execModuleWithdrawal s
  | .safetyWindowWatchdog => Sys2Proof.Machine.execSafetyWindowWatchdog s
  | .keyswitchEngage millivolts => Sys2Proof.Machine.execKeyswitchEngage millivolts s
  | .canRxError ch major => Sys2Proof.Machine.execCanRxError ch major s
  | .pwmPhaseEdge cell => Sys2Proof.Machine.execPwmPhaseEdge cell s
  | .ttArbitratingWindowStart ch win => Sys2Proof.Machine.execTtArbitratingWindowStart ch win s
  | .daliStartCommandDue port => Sys2Proof.Machine.execDaliStartCommandDue port s
  | .pressConverterFault ch present => Sys2Proof.Machine.execPressConverterFault ch present s
  | .safetyChannelRestart ch => Sys2Proof.Machine.execSafetyChannelRestart ch s

end Sys2Proof.Machine
end

