-- ==== Sys2Proof/Machine/Tick.lean ====
section
/-!
DEFINITION. Tick.lean: what passing time does by itself, one Trellis cycle of 10 ns at a time (R25, R340, R123; DESIGN CHOICE, log
entry 1): the four domains and the cask clocks advance, and what the next Trellis cycle owes comes about.
-/
namespace Sys2Proof.Machine

/-- A Trellis cycle in ns. -/
def cycleNs : Nat := 10

/-- A cask clock runs in RUN, HOLDING and STOPPING (R123). -/
def clockRuns : PMode → Bool
  | .run | .holding | .stopping => true
  | .stop | .hold => false

/-- One Trellis cycle of the cask clocks. -/
def runClocks (s : State) : State :=
  if isRun s .prog then
    { s with pge.casks := Tbl.mapV s.pge.casks (fun _ k => if clockRuns k.mode then { k with clk := k.clk + 10 } else k) }
  else s

/-- What Trellis and the field-bus island owe in this cycle (R92, R163, R402). -/
def runOwed (s : State) : State :=
  let s := if isRun s .trellis then substituteDue s else s
  if isRun s .fbus then buildChanged s else s

/-- One Trellis cycle passes. -/
def tick (s : State) : State := runOwed (runClocks (runDomains { s with now := s.now + cycleNs }))

end Sys2Proof.Machine
end

