-- ==== Sys2Proof/Safety.lean ====
section
/-!
DEFINITION. Safety.lean: what a safe step and a sound state are, in the terms the statements use.
-/
namespace Sys2Proof.Machine

/-- The outcome is a next state: neither a fault nor a refusal. -/
def Completes (o : Out) : Prop := ∃ t, o = .next t

/-- The command at this state answers a next state, and that state has the property. -/
def Answers (c : Instr) (s : State) (p : State → Prop) : Prop := ∃ t, exec c s = .next t ∧ p t

/-- The register access passes the checks of R41, R74 and R48. -/
abbrev Permits (s : State) (iss : Issuer) (b : Block) (off : Nat) (isWrite : Bool) : Prop := access s iss b off isWrite = .ok

/-- A byte memory in its canonical form: addresses strictly rising, no entry equal to what an unlisted address reads as. -/
def CanonMem (m : List Host.Cell) : Prop := memWf m = true

/-- The memories of the block are in canonical form. -/
def CanonState (s : State) : Prop := CanonMem s.mem.dram ∧ CanonMem s.mem.inst ∧ CanonMem s.mem.fram

/-- A request over the service port in order (R335, R458): its session is open with the cask it names, the request is not one answered
already, its header is well formed, cask 63 asks in the SERVICE state only, and the module is not in recovery. -/
def FmpInOrder (h : FmpHdr) (s : State) : Prop :=
  h.service = true ∧ (∃ x, Tbl.get? s.key.sessions h.client = some x ∧ x.cask = h.cask.val) ∧ kept s h = none ∧ h.ver = 1 ∧
  1 ≤ h.count ∧ h.count ≤ 64 ∧ (h.cask.val = 63 → s.key.lc = .service) ∧ s.pwr.recovery = false

/-- The state in which such a request is carried out: the session's time runs anew (R459). -/
def fmpAt (h : FmpHdr) (s : State) : State :=
  { s with key.sessions := Tbl.put s.key.sessions h.client { cask := h.cask.val, lastMsg := s.now } }

/-- A point on which no door's release and no lift enable hangs (R420, R422): writing it writes its own entry alone. -/
def Plain (s : State) (i : Nat) : Prop :=
  (∀ e ∈ s.fbs.doors, e.2.release ≠ i) ∧ ∀ l, s.fbs.lift = some l → ∀ e ∈ l.enable, e.2 ≠ i

/-! ### Instructions of the program engine -/

/-- A processor executes an instruction of this item: the program engine is in RUN and the item runs there in its execution phase. -/
abbrev Runs (p : Fin 2) (i : Item) (s : State) : Prop := executing s p = some i ∧ isRun s .prog = true

/-- The registers an instruction starts from, with the code offset moved on by one instruction (4 bytes). -/
def adv (p : Fin 2) (s : State) : Ctx := { (proc s p).ctx with pc := (proc s p).ctx.pc + 4 }

/-- The cycles are counted as the cask's and the processor's, the processor holds the registers `c`, and nothing else changes. -/
def ran (p : Fin 2) (i : Item) (cycles : Nat) (c : Ctx) (s : State) : State := setCtx p c (charge p (i.n / 32) cycles s)

/-- The instruction puts `f` of the registers into `d` and changes nothing else but the code offset and the cycle counts. -/
def Alu (c : Instr) (p : Fin 2) (cycles : Nat) (d : Fin 16) (f : Ctx → DWord) : Prop :=
  ∀ s i, Runs p i s → exec c s = .next (ran p i cycles (putD d (f (adv p s)) (adv p s)) s)

/-- As `Alu`, with a value that may use the free value, which is then used up; with the flag set PGE_ARITH is raised. -/
def AluFree (c : Instr) (p : Fin 2) (cycles : Nat) (d : Fin 16) (f : Ctx → DWord → DWord × Bool) : Prop :=
  ∀ s i, Runs p i s →
    let r := f (adv p s) (freeNow s)
    let t := bumpFree (ran p i cycles (putD d r.1 (adv p s)) s)
    exec c s = .next (if r.2 then raiseFor 0x0404 i.n 0 t else t)

/-- The instruction puts `f` of the registers into the bit register `b` and changes nothing else but the code offset and the cycle
counts. -/
def BitAlu (c : Instr) (p : Fin 2) (b : Fin 8) (f : Ctx → Bool) : Prop :=
  ∀ s i, Runs p i s → exec c s = .next (ran p i 1 (putB b (f (adv p s)) (adv p s)) s)

end Sys2Proof.Machine
end

