-- ==== Sys2Proof/WellFormed.lean ====
section
/-!
DEFINITION. WellFormed.lean: which commands a sender can present: operands inside the ranges their fields have in the spec. `exec`
answers for every command; a statement takes `wf` as a hypothesis only where it needs one.
-/
namespace Sys2Proof

/-- Who issues a local access (R40): a partition with its own cask number (0 to 62), Gengal firmware and Vintner as cask 0, service
access as cask 63. -/
def issuerOk (i : Issuer) : Bool := if i.partition then i.cask.val != 63 else i.cask.val == 0 || i.cask.val == 63

/-- An address of peripheral space (R46). -/
def periAddr (a : Word) : Bool := decide (0x40000000 ≤ a.toNat) && decide (a.toNat < 0x50000000)

/-- Keys rise strictly and stay below a bound. -/
def keysBelow {α : Type} (n : Nat) : List (Nat × α) → Bool
  | [] => true
  | [e] => decide (e.1 < n)
  | e :: f :: r => decide (e.1 < f.1) && keysBelow n (f :: r)

/-- A converter code of 24 bits (R214). -/
def isCode (i : Int) : Bool := decide (-8388608 ≤ i) && decide (i ≤ 8388607)

/-- A frame's fields fit its header (R308). -/
def frameOk (f : Frame) : Bool :=
  decide (f.src < 2 ^ 48) && decide (f.hsrSeq < 65536) && decide (f.cask < 64) && decide (f.srcAddr < 65536) &&
  decide (f.flow < 65536) && decide (f.fseq < 2 ^ 32) && decide (f.keyRef < 2 ^ 32) && decide (f.payload.length ≤ 1408)

/-- A bind frame's fields (R329). -/
def bindOk (b : BindReq) : Bool :=
  decide (b.srcAddr < 65536) && decide (b.srcFlow < 1024) && decide (b.dpoint < 16384) && decide (b.npts < 64)

/-- An FMP header's fields (Table 10.5); a service session is 0 or 1. -/
def hdrOk (h : FmpHdr) : Bool :=
  decide (h.client < if h.service then 2 else 65536) && decide (h.ver < 256) && decide (h.block < 65536) && decide (h.offset < 65536) &&
  decide (h.count < 65536)

/-- A flow request's fields (NET_ADM_DEST to NET_ADM_REQ_NS). -/
def flowReqOk (r : FlowReq) : Bool :=
  decide (r.node < 64) && decide (r.dpoint < 16384) && decide (r.periodMs < 65536) && decide (r.spoint < 16384) && decide (r.npts < 64) &&
  decide (r.reqUs < 2 ^ 26)

/-- A CAN frame's identifier and length. -/
def canRxOk (f : CanRx) : Bool := decide (f.id < if f.ide then 2 ^ 29 else 2048) && decide (f.payload.length ≤ if f.fdf then 64 else 8)

/-- The command's operands lie in the ranges of the spec. -/
def wf : Instr → Bool
  | .registerWrite iss addr _ => issuerOk iss && periAddr addr
  | .rcRegisterRead iss addr => issuerOk iss && periAddr addr
  | .narrowOrUnalignedAccess iss addr size _ => issuerOk iss && periAddr addr && (size.val == 1 || size.val == 2 || (size.val == 4 && addr.toNat % 4 != 0))
  | .unmappedPeripheralAccess iss addr _ => issuerOk iss && periAddr addr && decide (0x400E0000 ≤ addr.toNat)
  | .sysCompatWrite iss _ => issuerOk iss
  | .stage iss => issuerOk iss
  | .commit iss _ => issuerOk iss
  | .discard iss => issuerOk iss
  | .sectionalLoadAbort iss => issuerOk iss
  | .trellisFrame rs refs => keysBelow 256 rs && keysBelow 256 refs
  | .pointSnapshot iss _ => issuerOk iss
  | .partitionPointWrite iss _ _ => issuerOk iss
  | .cellTestStart iss _ _ _ => issuerOk iss
  | .cellTestStop iss => issuerOk iss
  | .pgeEvtTrig iss _ => issuerOk iss
  | .runWarm iss _ => issuerOk iss
  | .runCold iss _ => issuerOk iss
  | .holdCask iss _ => issuerOk iss
  | .resumeCask iss _ => issuerOk iss
  | .stopCask iss _ => issuerOk iss
  | .programEngineAbort iss => issuerOk iss
  | .pgeClkLoRead iss => issuerOk iss
  | .loopModeOff iss _ => issuerOk iss
  | .loopModeManual iss _ => issuerOk iss
  | .loopModeAuto iss _ => issuerOk iss
  | .loopModeTrack iss _ => issuerOk iss
  | .lpeResume iss => issuerOk iss
  | .loopEngineAbort iss => issuerOk iss
  | .shadowStart iss _ _ _ => issuerOk iss
  | .shadowStop iss _ => issuerOk iss
  | .tryRetune iss => issuerOk iss
  | .applyRetune iss => issuerOk iss
  | .revertRetune iss => issuerOk iss
  | .pressSample main guard _ => keysBelow 54 main && keysBelow 48 guard && main.all (fun e => isCode e.2) && guard.all (fun e => isCode e.2)
  | .mdReset iss _ => issuerOk iss
  | .tariffPush iss _ _ => issuerOk iss
  | .tariffClear iss _ => issuerOk iss
  | .accumulatorSnapshot iss _ => issuerOk iss
  | .pressAbort iss => issuerOk iss
  | .watchSecond irms => keysBelow 48 irms
  | .tastingStart iss _ _ => issuerOk iss
  | .tastingSingle iss _ _ _ => issuerOk iss
  | .tastingStop iss => issuerOk iss
  | .spSample si fb => si.length == 16 && fb.length == 4
  | .slSample si fb => si.length == 16 && fb.length == 4
  | .tpCheckSample _ a b => a.length == 16 && b.length == 16
  | .acceptMap d => d.length == 48
  | .safetyIslandAbort iss => issuerOk iss
  | .ringFrameReceived _ f => frameOk f
  | .bypHoldSet iss _ => issuerOk iss
  | .admitFlow iss => issuerOk iss
  | .releaseFlow iss _ => issuerOk iss
  | .bindReceived b => bindOk b
  | .fmpRead h => hdrOk h
  | .fmpWrite h ws => hdrOk h && decide (ws.length ≤ 64)
  | .fmpAdmit h r => hdrOk h && flowReqOk r
  | .fmpRelease h _ => hdrOk h
  | .safetyMsg h _ => hdrOk h
  | .pathTestStart iss _ _ => issuerOk iss
  | .ringMacAbort iss => issuerOk iss
  | .setDomain iss _ => issuerOk iss
  | .setTrustDomain iss _ => issuerOk iss
  | .adjustDomain iss _ => issuerOk iss
  | .nowLoRead iss _ => issuerOk iss
  | .xsnap iss _ => issuerOk iss
  | .captureRead iss _ => issuerOk iss
  | .loadCalendar iss _ => issuerOk iss
  | .syncCalendar iss _ => issuerOk iss
  | .dstAdd iss => issuerOk iss
  | .dstSub iss => issuerOk iss
  | .rtcTimeRead iss => issuerOk iss
  | .celZoneWrite iss _ => issuerOk iss
  | .celTrimWrite iss _ => issuerOk iss
  | .celTrimCfgWrite iss _ => issuerOk iss
  | .queryStart iss _ => issuerOk iss
  | .queryNext iss => issuerOk iss
  | .queryEnd iss => issuerOk iss
  | .cellarAbort iss => issuerOk iss
  | .canFrameReceived _ f => canRxOk f
  | .fbsChStart iss _ => issuerOk iss
  | .fbsChStop iss _ => issuerOk iss
  | .recoverChannel iss _ => issuerOk iss
  | .marginScanStart iss _ _ => issuerOk iss
  | .marginScanStop iss => issuerOk iss
  | .bsiPortStart iss _ => issuerOk iss
  | .bsiPortStop iss _ => issuerOk iss
  | .install iss _ _ => issuerOk iss
  | .credAdd iss _ _ => issuerOk iss
  | .credDelete iss => issuerOk iss
  | .credReplace iss _ _ => issuerOk iss
  | .fieldBusAbort iss => issuerOk iss
  | .provision iss => issuerOk iss
  | .serviceEnter iss => issuerOk iss
  | .serviceExit iss => issuerOk iss
  | .retire iss => issuerOk iss
  | .acceptIdentity iss => issuerOk iss
  | .attest iss => issuerOk iss
  | .clearA iss => issuerOk iss
  | .armMonitors iss => issuerOk iss
  | .invalidateSess iss _ => issuerOk iss
  | .invalidateRdr iss _ => issuerOk iss
  | .rollStage iss => issuerOk iss
  | .roll iss => issuerOk iss
  | .importKey iss _ => issuerOk iss
  | .deleteKey iss _ => issuerOk iss
  | .exportKey iss _ => issuerOk iss
  | .encrypt iss _ => issuerOk iss
  | .decrypt iss _ => issuerOk iss
  | .sign iss _ => issuerOk iss
  | .verify iss _ => issuerOk iss
  | .computeMac iss _ => issuerOk iss
  | .keyEngineAbort iss => issuerOk iss
  | .rackBegin iss => issuerOk iss
  | .rackFrag iss _ => issuerOk iss
  | .rackActivate iss _ => issuerOk iss
  | .rackCancel iss => issuerOk iss
  | .rackConfirm iss => issuerOk iss
  | .rackRevert iss => issuerOk iss
  | .updAbort iss => issuerOk iss
  | .sysReset iss _ => issuerOk iss
  | .startUp l => l.length == 8
  | .standby iss => issuerOk iss
  | .resumeFromStandby iss => issuerOk iss
  | .trellisAbort iss => issuerOk iss
  | .handshakeCrossing _ | .celPostedWriteEffect | .timeDistributionUpdate _ | .commitTrellisCycle | .sectionActiveReport _
  | .wholeLoad | .startRelease _ | .diSample _ _ | .diFilterElapsed _ | .countEdge _ _ _ | .outputTurnOff _ | .doShortTrip _ _
  | .doTripRetry _ | .groupFsupLow _ _ | .groupFsupRestored _ _ _ | .cellTestComplete _ _ | .cellTestTimeout
  | .taskRelease _ _ | .eventTaskTrigger _ _ | .pgeAccountingPeriod | .pgeGuaranteeUsed _ | .taskExecutionStart _
  | .taskOutputPhase _ | .outputImageCommit _ _ | .retentiveCommit _ _ | .taskWatchdog _ _ | .errorTaskRelease _
  | .caskDrained _ | .holdExpired _ | .caskAutoStart _ | .vintnerSetpointWrite _ _ | .opLd8 _ _ _ | .opLd16 _ _ _
  | .opLd32 _ _ _ | .opLd64 _ _ _ | .opSt8 _ _ _ | .opSt16 _ _ _ | .opSt32 _ _ _ | .opSt64 _ _ _ | .opIn _ _ _ _
  | .opInq _ _ _ | .opOut _ _ _ | .opOutq _ _ _ _ | .opAdd _ _ _ _ | .opSub _ _ _ _ | .opNeg _ _ _ | .opAbs _ _ _
  | .opMin _ _ _ _ | .opMax _ _ _ _ | .opLimit _ _ _ _ _ | .opSel _ _ _ _ _ | .opMul _ _ _ _ | .opDiv _ _ _ _ | .opMod _ _ _ _
  | .opIntConv _ _ _ _ | .opAnd _ _ _ _ | .opOr _ _ _ _ | .opXor _ _ _ _ | .opNot _ _ _ | .opShl _ _ _ _ | .opShr _ _ _ _
  | .opRol _ _ _ _ | .opRor _ _ _ _ | .opFadd _ _ _ _ _ | .opFsub _ _ _ _ _ | .opFmul _ _ _ _ _ | .opFdiv _ _ _ _ _
  | .opFsqrt _ _ _ _ | .opFmin _ _ _ _ _ | .opFmax _ _ _ _ _ | .opFlim _ _ _ _ _ _ | .opCvt _ _ _ _ | .opCmp _ _ _ _ _
  | .opFcmp _ _ _ _ _ _ | .opLdb _ _ _ | .opAndb _ _ _ _ | .opOrb _ _ _ _ | .opXorb _ _ _ _ | .opNotb _ _ _ | .opStb _ _ _
  | .opSetb _ _ | .opRstb _ _ | .opJmp _ _ | .opBt _ _ _ | .opBf _ _ _ | .opCall _ _ _ | .opRet _ | .opTon _ _ _ _
  | .opTof _ _ _ _ | .opTp _ _ _ _ | .opRtrig _ _ _ _ | .opFtrig _ _ _ _ | .opCtu _ _ _ _ _ | .opCtd _ _ _ _ _
  | .opCtud _ _ _ _ _ _ _ _ | .opClk _ _ | .opFirst _ _ | .opSetp _ _ _ | .opMode _ _ _ | .opRaise _ _ | .opErrinfo _ _
  | .opErrack _ _ | .exchangeBoundary _ _ | .exchangeWork _ | .exchangeSwitch _ _ | .exchTime _ _ | .stationLost _
  | .loopFrame | .loopSnapshot _ | .loopEvaluation _ | .lpeFe _ | .lpeLate _ | .shadowEvaluation _ | .shadowComplete _
  | .captureComplete _ | .vintnerRetuneFit _ | .gainStepUp _ | .handoverEnd _ | .zeroCrossing _ _ | .prsDirChange _
  | .prsPhaseLoss _ | .pressPointsLost _ | .pulseStart _ | .pulseEnd _ | .snapshotComplete _ | .elementActivation _
  | .periodicSave | .saveCommit _ | .finalSaveCommand | .pressHoldFull | .pressRestoreComplete | .prsWatchStart | .prsWatchEnd
  | .prsWatchLost _ | .tastingRunComplete _ _ | .discrepancyTimeout _ _ | .intermediateTimeout _ _ | .syncWindowEnd _ _
  | .functionFaultClear _ _ | .testPulseDrop _ | .crossLinkExchange _ | .requestOff _ | .fbTimeout _ | .switchTest _ _
  | .degradedTimerExpiry _ | .safetySelfTest _ | .safetyChannelStop _ | .safetySupplyStart _ _ | .safetySupplyStop _
  | .pendingMapDelivery | .openSession _ _ | .showPending | .setPassword _ _ | .resetLockout _ | .readLog _ | .closeSession
  | .safTimeout | .keyswitchRelease _ | .pwBlockExpiry | .safetyStatusReport | .mirrorStale | .dupEntryTimeout _
  | .leesHoldTimeout _ | .suspectClear _ | .heartbeatSend | .supervisionFrameSend | .netPathFail _ _ | .netPathUp _ _
  | .linkUp _ | .linkDown _ | .bypassRelease | .egressTransmit _ | .flowSend _ | .flowRekey _ | .admissionDecision
  | .bindAnswer _ _ | .bindTimeout _ | .pathTestFrameSend | .pathTestEnd | .syncReceived _ _ _ _ _ | .syncMissing _
  | .timHoldover _ | .announceReceived _ | .announceTimeout _ | .slewComplete _ | .holdSecond _ | .timUntrusted _
  | .pdelayRequestSend | .pdelayMessageReceived _ _ | .syncSend _ | .timeCapture _ | .celToBattery _ _ | .celToMain _ _ _ _
  | .pendedEvent | .vbatMeasure _ | .rtcSecond _ | .syncTakesEffect | .celOscStop _ | .oscRestart | .trimWindowEnd _ _
  | .eventRecordQueued | .eventRecordWrite | .opsecSave | .celTimeMark | .queryRecordReady _ _ | .leapCheck | .calendarCheck
  | .canPeriodicTrigger _ | .canTxComplete _ | .canTxError _ | .canBusOff _ | .canBusWatchdog _ | .canSupplyFail _
  | .canRecoveryComplete _ | .ttCycleStart _ _ | .ttTxWindow _ _ _ | .ttRxWindowEnd _ _ | .fbsTtResync _
  | .marginScanComplete _ _ | .marginScanTimeout | .daliPoll _ | .daliBackwardFrame _ _ | .daliEventMessage _ _ _ _ _
  | .daliLevelCommand _ _ | .bsiDaliFail _ _ _ | .daliBusRestored _ _ _ | .osdpPoll _ | .osdpReply _ _ _ | .osdpReplyTimeout _
  | .osdpScSetup _ _ _ | .accessDecision _ | .strikeExpiry _ | .installTimeout _ | .credTableRestore | .serviceTimeout
  | .attestComplete | .rollActivation | .keyOpComplete _ | .cachePurgeComplete | .unseal | .remask | .meshSample _ _ _
  | .lidOpen _ _ | .glitchDetected _ | .serviceSessionOpen _ _ | .serviceSessionTimeout _ | .verifyComplete _
  | .rackActivation | .confirmationExpiry | .bootCompletion | .vinStart _ _ _ | .pwrVinWarn _ _ | .pwrVinClear _ _
  | .holdupEnd | .alwaysOnRailStop _ | .pwrFsupLow _ _ | .fsupRestored _ _ | .resetPin _ | .watchdogReset | .exceptionReset
  | .logicReset | .wakeAdmission _ | .islandRun _ | .wakeRelease _ | .pwrIslandFail _ | .abortDoneTimeout | .moduleWithdrawal
  | .safetyWindowWatchdog | .keyswitchEngage _ | .canRxError _ _ | .pwmPhaseEdge _ | .ttArbitratingWindowStart _ _
  | .daliStartCommandDue _ | .pressConverterFault _ _ | .safetyChannelRestart _ => true

end Sys2Proof
end

