-- ==== Sys2Proof/Certificates/Slice0/Obligations.lean ====
section
/-!
DEFINITION. Obligations.lean: the statements for the provers. `Answers c s p` says that command `c` at state `s` answers a next
state that has `p`.
-/
open Sys2Proof Sys2Proof.Machine

/-- A byte, halfword or unaligned access answers a next state that differs in the answer alone, a bus error (R17). The same holds
of an access to an address from 0x400E_0000 to 0x4FFF_FFFF (R46, of which this states the last sentence). -/
def Obligations.NarrowAndUnmappedAccessesEndInBusError : Prop :=
  (∀ (iss : Issuer) (addr : Word) (size : Fin 5) (isWrite : Bool) (s : State), size.val ≠ 4 ∨ addr.toNat % 4 ≠ 0 →
    exec (.narrowOrUnalignedAccess iss addr size isWrite) s = .next { s with reply := .busError }) ∧
  (∀ (iss : Issuer) (addr : Word) (isWrite : Bool) (s : State), 0x400E0000 ≤ addr.toNat → addr.toNat ≤ 0x4FFFFFFF →
    exec (.unmappedPeripheralAccess iss addr isWrite) s = .next { s with reply := .busError })

/-- Once an access passes its checks: a word write at SYS_COMPAT's address sets SAVED to bit 1, and PRIOR to bit 0 only while no
structure image is loaded (R10); so does SYS_COMPAT_WRITE; a write of UPD_SI_SRC by cask 0 sets the staging source; a read of
TRL_WR_REFUSED answers the count and clears it (access code RC, Table 0.2, R22). A write to an island that is not in RUN, or a
read of it, changes only the answer, which for a read is 0 (R48). The answer (reply) is the model's own field. -/
def Obligations.RegisterAccessEffects : Prop :=
  (∀ (iss : Issuer) (w : Word) (s : State), Permits s iss .sys 0x0010 true →
    Answers (.registerWrite iss 0x40000010 w) s (fun t =>
      t.sys.saved = w.getLsbD 1 ∧ t.sys.prior = (if s.img.loaded then s.sys.prior else w.getLsbD 0))) ∧
  (∀ (iss : Issuer) (w : Word) (s : State), Permits s iss .sys 0x0010 true →
    exec (.sysCompatWrite iss w) s = .next { s with
      reply := .none, sys := { s.sys with saved := w.getLsbD 1, prior := if s.img.loaded then s.sys.prior else w.getLsbD 0 } }) ∧
  (∀ (iss : Issuer) (w : Word) (s : State), iss.cask = 0 → Permits s iss .upd 0x0804 true →
    exec (.registerWrite iss 0x400C0804 w) s = .next { s with reply := .none, img := { s.img with src := w } }) ∧
  (∀ (iss : Issuer) (s : State), Permits s iss .trl 0x0004 false →
    Answers (.rcRegisterRead iss 0x40030004) s (fun t => t.reply = .word (BitVec.ofNat 32 s.trl.wrRefused) ∧ t.trl.wrRefused = 0)) ∧
  (∀ (iss : Issuer) (w : Word) (s : State), access s iss .trl 0x0040 true = .down →
    exec (.registerWrite iss 0x40030040 w) s = .next { s with reply := .none }) ∧
  (∀ (iss : Issuer) (s : State), access s iss .trl 0x0004 false = .down →
    exec (.rcRegisterRead iss 0x40030004) s = .next { s with reply := .word 0 })

/-- For a request in order over the service port (session open, header well formed, not repeated, not in recovery). FMP_READ whose
words are all permitted answers NET_FMP_OK with COUNT words, the ones the register path reads in word order, and changes
nothing else but what those reads do (R336). FMP_WRITE likewise answers NET_FMP_OK with no words once every word has been
written. FMP_ADMIT with ADDR 0 joins the admission unit's waiting requests when fewer than 16 wait (R332), and nothing is
answered yet. FMP_RELEASE by the owner of an admitted context marks it for release at the next Trellis frame and answers
NET_ADM_OK. SAFETY_MSG by a cask 0 client answers NET_FMP_OK with the words of the island's reply (R302). Every answer is kept
for repeats (R335). -/
def Obligations.FmpRequestsAreCarriedOut : Prop :=
  (∀ (h : FmpHdr) (s : State) (xs : List (Nat × Nat)), FmpInOrder h s → fmpWords (fmpAt h s) h = some xs →
    xs.all (fmpAllowed (fmpAt h s) h false) = true →
    Answers (.fmpRead h) s (fun t =>
      let u := xs.foldl (fmpReadWord h) ([], fmpAt h s)
      t.reply = .words 0x0830 u.1 ∧ u.1.length = xs.length ∧ { t with reply := u.2.reply, net := u.2.net } = u.2)) ∧
  (∀ (h : FmpHdr) (ws : List Word) (s : State) (xs : List (Nat × Nat)), FmpInOrder h s → ws.length = h.count →
    fmpWords (fmpAt h s) h = some xs → xs.all (fmpAllowed (fmpAt h s) h true) = true →
    Answers (.fmpWrite h ws) s (fun t =>
      let u := (xs.zip ws).foldl (fmpWriteWord h) (fmpAt h s)
      t.reply = .words 0x0830 [] ∧ { t with reply := u.reply, net := u.net } = u)) ∧
  (∀ (h : FmpHdr) (req : FlowReq) (s : State), FmpInOrder h s → h.block = 0 → h.offset = 0 → s.net.waiting.length < 16 →
    Answers (.fmpAdmit h req) s (fun t =>
      t.net.waiting = s.net.waiting ++ [{ cask := h.cask.val, req := req, fmp := some h }] ∧ t.reply = .none)) ∧
  (∀ (h : FmpHdr) (n : Fin 1024) (s : State), FmpInOrder h s → h.block = 0 → h.offset = 0 →
    (Tbl.at s.net.flows n {}).st = .admitted → (Tbl.at s.net.flows n {}).cask = h.cask.val → s.net.releasing.contains n.val = false →
    Answers (.fmpRelease h n) s (fun t =>
      t.net.releasing = s.net.releasing ++ [n.val] ∧ t.reply = .words 0x0800 [] ∧ t.net.flows = s.net.flows)) ∧
  (∀ (h : FmpHdr) (bytes : List Byte) (s : State), FmpInOrder h s → h.cask = 0 →
    Answers (.safetyMsg h bytes) s (fun t =>
      let r : State := { fmpAt h s with reply := .none }
      let u := match Config.sessionMsg bytes with
        | some m => safMessage m r
        | none => r
      t.reply = .words 0x0830 (safReplyWords u.reply) ∧ t.saf = u.saf))

/-- While a processor executes an item in RUN: ADD, SUB and MUL wrap in two's complement; NEG is 0 less the source; MIN, MAX and
LIMIT compare signed integers; SEL takes its first source when the bit is FALSE, else the second; DIV and MOD by 0 give 0 and
raise PGE_ARITH (R125), otherwise DIV truncates toward zero and MOD has the sign of the dividend; a conversion out of the
range of its format saturates and raises PGE_ARITH. ABS of the most negative integer and that integer divided by -1 are free
values. Frame: beside the destination register, the code offset (4 on) and the cycle counts of Table 4.6, nothing changes (a
raise of PGE_ARITH apart, and the model's counter of free values). DIV's truncation, SEL's order and LIMIT's order of
comparison are the model's choices, noted in the assumption log (entry 25). -/
def Obligations.IntegerInstructions : Prop :=
  (∀ p d x y, Alu (.opAdd p d x y) p 1 d (fun c => dReg c x + srcVal c y)) ∧
  (∀ p d x y, Alu (.opSub p d x y) p 1 d (fun c => dReg c x - srcVal c y)) ∧
  (∀ p d x, Alu (.opNeg p d x) p 1 d (fun c => 0 - dReg c x)) ∧
  (∀ p d x, AluFree (.opAbs p d x) p 1 d (fun c fr =>
    (if dReg c x = 0x8000000000000000 then fr else if (dReg c x).toInt < 0 then 0 - dReg c x else dReg c x, false))) ∧
  (∀ p d x y, Alu (.opMin p d x y) p 1 d (fun c => if (srcVal c y).toInt < (dReg c x).toInt then srcVal c y else dReg c x)) ∧
  (∀ p d x y, Alu (.opMax p d x y) p 1 d (fun c => if (dReg c x).toInt < (srcVal c y).toInt then srcVal c y else dReg c x)) ∧
  (∀ p d lo x hi, Alu (.opLimit p d lo x hi) p 1 d (fun c =>
    let m := if (dReg c x).toInt < (srcVal c lo).toInt then srcVal c lo else dReg c x
    if (srcVal c hi).toInt < m.toInt then srcVal c hi else m)) ∧
  (∀ p d b x y, Alu (.opSel p d b x y) p 1 d (fun c => if bReg c b then srcVal c y else srcVal c x)) ∧
  (∀ p d x y, Alu (.opMul p d x y) p 3 d (fun c => dReg c x * srcVal c y)) ∧
  (∀ p d x y, AluFree (.opDiv p d x y) p 18 d (fun c fr =>
    if srcVal c y = 0 then (0, true)
    else (if dReg c x = 0x8000000000000000 ∧ srcVal c y = -1 then fr
          else BitVec.ofInt 64 ((dReg c x).toInt.tdiv (srcVal c y).toInt), false))) ∧
  (∀ p d x y, AluFree (.opMod p d x y) p 18 d (fun c _ =>
    if srcVal c y = 0 then (0, true) else (BitVec.ofInt 64 ((dReg c x).toInt.tmod (srcVal c y).toInt), false))) ∧
  (∀ p d x f, AluFree (.opIntConv p d x f) p 1 d (fun c _ =>
    let v := (dReg c x).toInt
    let r := fmtRange f
    (BitVec.ofInt 64 (max r.1 (min v r.2)), decide (v < r.1 ∨ r.2 < v))))

/-- While a processor executes an item in RUN: AND, OR, XOR and NOT act bit by bit; SHL and SHR shift by less than 64, by 64 or
more the result is a free value; ROL and ROR rotate by the count modulo 64; CMP compares signed integers under its condition;
ANDB, ORB, XORB and NOTB combine bit registers; SETB and RSTB set and clear one; LDB and STB between bit registers copy. Each
counts 1 cycle, moves the code offset on by 4 and changes nothing else but its destination register (and, for the shifts, the
model's counter of free values). SHR filling with zeros and ROL's modulus are the model's choices (entry 25). -/
def Obligations.LogicAndCompareInstructions : Prop :=
  (∀ p d x y, Alu (.opAnd p d x y) p 1 d (fun c => dReg c x &&& srcVal c y)) ∧
  (∀ p d x y, Alu (.opOr p d x y) p 1 d (fun c => dReg c x ||| srcVal c y)) ∧
  (∀ p d x y, Alu (.opXor p d x y) p 1 d (fun c => dReg c x ^^^ srcVal c y)) ∧
  (∀ p d x, Alu (.opNot p d x) p 1 d (fun c => ~~~ dReg c x)) ∧
  (∀ p d x y, AluFree (.opShl p d x y) p 1 d (fun c fr =>
    (if (srcVal c y).toNat < 64 then BitVec.ofNat 64 ((dReg c x).toNat * 2 ^ (srcVal c y).toNat) else fr, false))) ∧
  (∀ p d x y, AluFree (.opShr p d x y) p 1 d (fun c fr =>
    (if (srcVal c y).toNat < 64 then BitVec.ofNat 64 ((dReg c x).toNat / 2 ^ (srcVal c y).toNat) else fr, false))) ∧
  (∀ p d x y, Alu (.opRol p d x y) p 1 d (fun c => (dReg c x).rotateLeft ((srcVal c y).toNat % 64))) ∧
  (∀ p d x y, Alu (.opRor p d x y) p 1 d (fun c => (dReg c x).rotateRight ((srcVal c y).toNat % 64))) ∧
  (∀ p k b x y, BitAlu (.opCmp p k b x y) p b (fun c =>
    let l := (dReg c x).toInt
    let r := (srcVal c y).toInt
    match k with
    | .eq => decide (l = r) | .ne => decide (l ≠ r) | .lt => decide (l < r)
    | .le => decide (l ≤ r) | .gt => decide (r < l) | .ge => decide (r ≤ l))) ∧
  (∀ p b x y, BitAlu (.opAndb p b x y) p b (fun c => bReg c x && bReg c y)) ∧
  (∀ p b x y, BitAlu (.opOrb p b x y) p b (fun c => bReg c x || bReg c y)) ∧
  (∀ p b x y, BitAlu (.opXorb p b x y) p b (fun c => xor (bReg c x) (bReg c y))) ∧
  (∀ p b x, BitAlu (.opNotb p b x) p b (fun c => !bReg c x)) ∧
  (∀ p b, BitAlu (.opSetb p b) p b (fun _ => true)) ∧
  (∀ p b, BitAlu (.opRstb p b) p b (fun _ => false)) ∧
  (∀ p b k, BitAlu (.opLdb p b (.b k)) p b (fun c => bReg c k)) ∧
  (∀ p b k, BitAlu (.opStb p b (.b k)) p k (fun c => bReg c b))

/-- The result of a binary32 or binary64 operation in a register: the upper half beside a binary32 result is free. -/
def RealResult (single : Bool) (r : Nat) (fr v : DWord) : Prop :=
  if single then v.toNat % 2 ^ 32 = r % 2 ^ 32 ∧ v.toNat / 2 ^ 32 = fr.toNat / 2 ^ 32 else v = BitVec.ofNat 64 r

/-- A two-source real instruction: the result in `d`, the cycles counted, nothing else changed. -/
def RealAlu (c : Instr) (p : Fin 2) (cycles : Nat) (single : Bool) (d : Fin 16) (f : Ctx → DWord → Nat) : Prop :=
  ∀ s i, Runs p i s → ∃ v, RealResult single (f (adv p s) (freeNow s)) (freeNow s) v ∧
    exec c s = .next (bumpFree (ran p i cycles (putD d v (adv p s)) s))

/-- While a processor executes an item in RUN, for binary32 (single) and binary64: FADD, FSUB, FMUL, FDIV and FSQRT give the IEEE
754 result, rounded to nearest even (the model's Float operations); FMIN, FMAX and FLIM select; FCMP compares, with a NaN only
NE holding; CVT converts, and a real outside the range of its integer format saturates and raises PGE_ARITH (R125). Beside a
binary32 result the upper half of the register is free; with a NaN FMIN, FMAX and FLIM give a free value, and CVT to an
integer a free value of the format with PGE_ARITH. Frame: beside the destination register, the code offset (4 on), the cycle
counts of Table 4.6 and the model's counter of free values nothing changes, a raise of PGE_ARITH apart. The free values are
the model's own (entries 3 and 25). -/
def Obligations.RealInstructions : Prop :=
  (∀ p b d x y, RealAlu (.opFadd p b d x y) p 3 b d (fun c _ => Sys2Proof.Float.add (realFmt b) (realIn b (dReg c x)) (realIn b (srcVal c y)))) ∧
  (∀ p b d x y, RealAlu (.opFsub p b d x y) p 3 b d (fun c _ => Sys2Proof.Float.sub (realFmt b) (realIn b (dReg c x)) (realIn b (srcVal c y)))) ∧
  (∀ p b d x y, RealAlu (.opFmul p b d x y) p 3 b d (fun c _ => Sys2Proof.Float.mul (realFmt b) (realIn b (dReg c x)) (realIn b (srcVal c y)))) ∧
  (∀ p b d x y, RealAlu (.opFdiv p b d x y) p 14 b d (fun c _ => Sys2Proof.Float.div (realFmt b) (realIn b (dReg c x)) (realIn b (srcVal c y)))) ∧
  (∀ p b d x, RealAlu (.opFsqrt p b d x) p 16 b d (fun c _ => Sys2Proof.Float.sqrt (realFmt b) (realIn b (dReg c x)))) ∧
  (∀ p b d x y, RealAlu (.opFmin p b d x y) p 3 b d (fun c fr =>
    fMinVal (realFmt b) (realIn b (dReg c x)) (realIn b (srcVal c y)) fr.toNat)) ∧
  (∀ p b d x y, RealAlu (.opFmax p b d x y) p 3 b d (fun c fr =>
    fMaxVal (realFmt b) (realIn b (dReg c x)) (realIn b (srcVal c y)) fr.toNat)) ∧
  (∀ p b d lo x hi, RealAlu (.opFlim p b d lo x hi) p 3 b d (fun c fr =>
    fMinVal (realFmt b) (fMaxVal (realFmt b) (realIn b (dReg c x)) (realIn b (srcVal c lo)) fr.toNat) (realIn b (srcVal c hi)) fr.toNat)) ∧
  (∀ p d x b, RealAlu (.opCvt p d x (.intToReal b)) p 3 b d (fun c _ => Sys2Proof.Float.ofInt (realFmt b) (sOf 64 (dReg c x).toNat))) ∧
  (∀ p d x b, RealAlu (.opCvt p d x (.realToReal b)) p 3 b d (fun c _ =>
    Sys2Proof.Float.convert (realFmt !b) (realFmt b) (realIn (!b) (dReg c x)))) ∧
  (∀ p d x b f s i, Runs p i s →
    let a := realIn b (dReg (adv p s) x)
    let v := Sys2Proof.Float.roundFin (realFmt b) a
    let t (r : Int) : State := (bumpFree (ran p i 3 (putD d (BitVec.ofNat 64 (twos 64 r)) (adv p s)) s))
    (Sys2Proof.Float.isNan (realFmt b) a = false → Sys2Proof.Float.isInf (realFmt b) a = false → (fmtRange f).1 ≤ v → v ≤ (fmtRange f).2 →
      exec (.opCvt p d x (.realToInt b f)) s = .next (t v)) ∧
    (Sys2Proof.Float.isNan (realFmt b) a = false → Sys2Proof.Float.isInf (realFmt b) a = false → v < (fmtRange f).1 →
      exec (.opCvt p d x (.realToInt b f)) s = .next (raiseFor 0x0404 i.n 0 (t (fmtRange f).1))) ∧
    (Sys2Proof.Float.isNan (realFmt b) a = false → Sys2Proof.Float.isInf (realFmt b) a = false → (fmtRange f).1 ≤ v → (fmtRange f).2 < v →
      exec (.opCvt p d x (.realToInt b f)) s = .next (raiseFor 0x0404 i.n 0 (t (fmtRange f).2)))) ∧
  (∀ p b k r x y, BitAlu (.opFcmp p b k r x y) p r (fun c =>
    let g := realFmt b
    let u := realIn b (dReg c x)
    let w := realIn b (srcVal c y)
    match k with
    | .eq => Sys2Proof.Float.eq g u w | .ne => !Sys2Proof.Float.eq g u w | .lt => Sys2Proof.Float.lt g u w
    | .le => Sys2Proof.Float.le g u w | .gt => Sys2Proof.Float.lt g w u | .ge => Sys2Proof.Float.le g w u))

/-- A load of `n` bytes into `d`. -/
def Loads (c : Instr) (p : Fin 2) (n : Nat) (d : Fin 16) (m : MemOpnd) : Prop :=
  ∀ s i, Runs p i s → loadOk s i (adv p s) (memAddr (adv p s) m) n = true →
    ∃ v : DWord, v.toNat % 2 ^ (8 * n) = ofLe (memReadBytes s.mem.inst (instKey (i.n / 32) (memAddr (adv p s) m)) n) ∧
      exec c s = .next (if n = 8 then ran p i 2 (putD d v (adv p s)) s else bumpFree (ran p i 2 (putD d v (adv p s)) s))

/-- A store of the low `n` bytes of the value that `v` gives. -/
def Stores (c : Instr) (p : Fin 2) (n : Nat) (m : MemOpnd) (v : State → Item → Ctx → Nat) : Prop :=
  ∀ s i, Runs p i s → storeOk s i (adv p s) (memAddr (adv p s) m) n = true →
    let a := instKey (i.n / 32) (memAddr (adv p s) m)
    Answers c s (fun t =>
      (∀ k, memRead t.mem.inst k = if a ≤ k ∧ k < a + n then BitVec.ofNat 8 (v s i (adv p s) / 2 ^ (8 * (k - a))) else memRead s.mem.inst k) ∧
      { t with mem := s.mem, pge := s.pge } = s ∧ t.mem = { s.mem with inst := t.mem.inst } ∧
      t.pge = { (ran p i 1 (adv p s) s).pge with tasks := t.pge.tasks } ∧
      (∀ k, k ≠ i.n → taskSt t k = taskSt s k) ∧ taskSt t i.n = { taskSt s i.n with dirty := (taskSt t i.n).dirty })

/-- While a processor executes an item in RUN and the access is permitted (inside INST_KIB; for a migration routine inside the old
instance to load, the new one to store): LD8, LD16, LD32 and LD64 put the little-endian value of the bytes at the address
(base IB, GB or Dn plus the offset) in the low bits of D, change no memory, and nothing else but the registers and cycle
counts (a narrow load's upper bits are free). ST8 to ST64 store the low bytes of D there: every byte outside them reads as
before, and outside memory only the program engine's record of changed retentive lines and its cycle counts differ. LDB and
STB do so with one bit of a byte. Little-endian order, and which bits a narrow load leaves free, are the model's choices
(entry 25). -/
def Obligations.LoadsAndStoresMoveExactlyTheirBytes : Prop :=
  (∀ p d m, Loads (.opLd8 p d m) p 1 d m) ∧ (∀ p d m, Loads (.opLd16 p d m) p 2 d m) ∧
  (∀ p d m, Loads (.opLd32 p d m) p 4 d m) ∧ (∀ p d m, Loads (.opLd64 p d m) p 8 d m) ∧
  (∀ p d m, Stores (.opSt8 p d m) p 1 m (fun _ _ c => (dReg c d).toNat)) ∧
  (∀ p d m, Stores (.opSt16 p d m) p 2 m (fun _ _ c => (dReg c d).toNat)) ∧
  (∀ p d m, Stores (.opSt32 p d m) p 4 m (fun _ _ c => (dReg c d).toNat)) ∧
  (∀ p d m, Stores (.opSt64 p d m) p 8 m (fun _ _ c => (dReg c d).toNat)) ∧
  (∀ p b m (bit : Fin 8) s i, Runs p i s → loadOk s i (adv p s) (memAddr (adv p s) m) 1 = true →
    exec (.opLdb p b (.mem m bit)) s = .next (ran p i 1 (putB b
      ((ofLe (memReadBytes s.mem.inst (instKey (i.n / 32) (memAddr (adv p s) m)) 1)).testBit bit) (adv p s)) s)) ∧
  (∀ p b m (bit : Fin 8), Stores (.opStb p b (.mem m bit)) p 1 m (fun s i c =>
    let x := ofLe (memReadBytes s.mem.inst (instKey (i.n / 32) (memAddr c m)) 1)
    if bReg c b then x ||| 2 ^ bit.val else x - (x &&& 2 ^ bit.val)))

/-- An address outside INST_KIB (in a task's cycle): a load gives D = 0, LDB and FIRST give FALSE, a store writes nothing. In each
case CASK_DENIED is recorded with kind 0x03, and the cycle is abandoned with PGE_DENIED (R127, steps 1 to 3). The timing, edge
and counter elements are refused in the same way, and so are SETP and MODE to a slot of another cask (kind 0x04). -/
def Obligations.RefusedDataAccesses : Prop :=
  (∀ p n d m s i (c : Instr), (c, n) ∈ [(Instr.opLd8 p d m, 1), (.opLd16 p d m, 2), (.opLd32 p d m, 4), (.opLd64 p d m, 8)] →
    Runs p i s → i.work = false → loadOk s i (adv p s) (memAddr (adv p s) m) n = false →
    exec c s = .next (abandon i.n 0x0403 0 (denied 0x03 4 (memAddr (adv p s) m) 0xFF i.n (i.n / 32) (ran p i 2 (putD d 0 (adv p s)) s)))) ∧
  (∀ p n d m s i (c : Instr), (c, n) ∈ [(Instr.opSt8 p d m, 1), (.opSt16 p d m, 2), (.opSt32 p d m, 4), (.opSt64 p d m, 8)] →
    Runs p i s → i.work = false → storeOk s i (adv p s) (memAddr (adv p s) m) n = false →
    exec c s = .next (abandon i.n 0x0403 0 (denied 0x03 4 (memAddr (adv p s) m) 0xFF i.n (i.n / 32) (ran p i 1 (adv p s) s)))) ∧
  (∀ p m x y q s i (c : Instr), c ∈ [Instr.opTon p m x q, .opTof p m x q, .opTp p m x q, .opCtu p m x y q, .opCtd p m x y q] →
    Runs p i s → i.work = false → loadOk s i (adv p s) (memAddr (adv p s) m) 24 = false →
    exec c s = .next (abandon i.n 0x0403 0 (denied 0x03 4 (memAddr (adv p s) m) 0xFF i.n (i.n / 32) (ran p i 4 (adv p s) s)))) ∧
  (∀ p (slot : Half) d l s i (c : Instr), c ∈ [Instr.opSetp p slot d, .opMode p slot d] →
    Runs p i s → i.work = false → (adv p s).migr = none → slot? s slot.toNat = some l → l.rc.cask ≠ i.n / 32 →
    exec c s = .next (abandon i.n 0x0403 0 (denied 0x04 5 slot.toNat l.rc.cask 0 (i.n / 32) (ran p i 4 (adv p s) s))))

/-- A task's cycle executes, in no migration routine. -/
def InCycle (p : Fin 2) (i : Item) (y : Cycle) (s : State) : Prop :=
  Runs p i s ∧ i.work = false ∧ (taskSt s i.n).cyc = some y ∧ (adv p s).migr = none

/-- The state with this cycle in progress for the item's task. -/
def withCyc (i : Item) (y : Cycle) (s : State) : State := updTask i.n (fun t => { t with cyc := some y }) s

/-- In a cycle that executes (no migration routine): IN puts the slot's value in D and in B whether its quality class is good or
uncertain; INQ puts its quality code in D. OUT writes D to the slot with GOOD; OUTQ keeps an uncertain code, any other counts
as GOOD (R119). CLK gives the latched cask clock (R123). FIRST gives bit 0 of FLAGS at IB (Table 4.7). SETP and MODE to a slot
of the same cask, and RAISE, join what the cycle sends (R121). ERRINFO gives the error task's entry, and ERRACK sets its
action (R140). Each moves the code offset on, counts its cycles, and changes nothing else. How ERRINFO packs an entry is the
model's opaque function (entry 14); a good or uncertain class counting as TRUE in B is the model's reading (entry 25). -/
def Obligations.ImageAndServiceInstructions : Prop :=
  (∀ p d b (slot : Half) s i y v q, InCycle p i y s → y.image[slot.toNat]? = some (v, q) →
    exec (.opIn p d b slot) s = .next (bumpFree (ran p i 2 (putB b (decide (q.toNat / 64 < 2)) (putD d v (adv p s))) s)) ∧
    exec (.opInq p d slot) s = .next (bumpFree (ran p i 2 (putD d (BitVec.ofNat 64 q.toNat) (adv p s)) s))) ∧
  (∀ p d (slot : Half) s i y, InCycle p i y s → slot.toNat < (taskSt s i.n).prog.outSlots.length →
    exec (.opOut p d slot) s =
      .next (withCyc i { y with out := Tbl.put y.out slot.toNat (dReg (adv p s) d, 0) } (ran p i 2 (adv p s) s))) ∧
  (∀ p d (code : Byte) (slot : Half) s i y, InCycle p i y s → slot.toNat < (taskSt s i.n).prog.outSlots.length →
    exec (.opOutq p d code slot) s =
      .next (withCyc i { y with out := Tbl.put y.out slot.toNat (dReg (adv p s) d, if code.toNat / 64 = 1 then code else 0) }
        (ran p i 2 (adv p s) s))) ∧
  (∀ p d s i y, InCycle p i y s → exec (.opClk p d) s = .next (ran p i 2 (putD d y.clk (adv p s)) s)) ∧
  (∀ p b s i y, InCycle p i y s → (adv p s).ib + 27 ≤ (caskRec s (i.n / 32)).instKib * 1024 →
    exec (.opFirst p b) s = .next (ran p i 2 (putB b
      ((ofLe (memReadBytes s.mem.inst (instKey (i.n / 32) ((adv p s).ib + 26)) 1)).testBit 0) (adv p s)) s)) ∧
  (∀ p (slot : Half) d s i y l, InCycle p i y s → slot? s slot.toNat = some l → l.rc.cask = i.n / 32 →
    exec (.opSetp p slot d) s = .next (withCyc i { y with msgs := y.msgs ++ [{ slot := slot.toNat, isMode := false, value := dReg (adv p s) d }] }
      (ran p i 4 (adv p s) s)) ∧
    exec (.opMode p slot d) s = .next (withCyc i { y with msgs := y.msgs ++ [{ slot := slot.toNat, isMode := true, value := dReg (adv p s) d }] }
      (ran p i 4 (adv p s) s))) ∧
  (∀ p (task : Fin 32) s i y, InCycle p i y s →
    exec (.opRaise p task) s = .next (withCyc i { y with raises := y.raises ++ [task.val] } (ran p i 2 (adv p s) s))) ∧
  (∀ p d s i y e, InCycle p i y s → y.err = some e →
    exec (.opErrinfo p d) s = .next (ran p i 2 (putD d (Config.errInfo e.code e.task e.cycle e.info) (adv p s)) s)) ∧
  (∀ p stop s i y e, InCycle p i y s → y.err = some e →
    exec (.opErrack p stop) s = .next (withCyc i { y with ack := some stop } (ran p i 2 (adv p s) s)))

/-- While a processor executes an item in RUN: JMP to an offset in the cask's code region goes there; BT and BF go there when the
bit is TRUE, FALSE, with a second cycle, and otherwise only move on. CALL at a depth below 32 pushes the code offset and IB
and goes to the target with IB naming the instance; RET returns to the offset and IB it pushed, clearing FIRST of the instance
at IB where its FLAGS byte lies in the partition; RET outside a CALL ends a task's execution phase. A jump or call outside the
code region, and a CALL beyond a depth of 32, abandon the cycle with PGE_ILLEGAL (R126). Nothing else changes. -/
def Obligations.ControlInstructions : Prop :=
  (∀ p (target : Word) s i, Runs p i s → i.work = false →
    let r := (pcask s (i.n / 32)).rc
    exec (.opJmp p target) s = .next (if r.codeOff ≤ target.toNat ∧ target.toNat < r.codeOff + r.codeLen
      then ran p i 2 { adv p s with pc := target.toNat } s else abandon i.n 0x0406 0 (ran p i 2 (adv p s) s))) ∧
  (∀ p b (want : Bool) (target : Word) s i, Runs p i s →
    let r := (pcask s (i.n / 32)).rc
    let c : Instr := if want then .opBt p b target else .opBf p b target
    (bReg (adv p s) b ≠ want → exec c s = .next (ran p i 1 (adv p s) s)) ∧
    (bReg (adv p s) b = want → r.codeOff ≤ target.toNat → target.toNat < r.codeOff + r.codeLen →
      exec c s = .next (ran p i 2 { adv p s with pc := target.toNat } s))) ∧
  (∀ p (inst target : Word) s i, Runs p i s → i.work = false → (adv p s).migr = none →
    let r := (pcask s (i.n / 32)).rc
    exec (.opCall p inst target) s = .next (
      if (adv p s).stack.length < 32 ∧ r.codeOff ≤ target.toNat ∧ target.toNat < r.codeOff + r.codeLen then
        ran p i 4 { adv p s with pc := target.toNat, ib := inst.toNat, stack := ((adv p s).pc, (adv p s).ib) :: (adv p s).stack } s
      else abandon i.n 0x0406 0 (ran p i 4 (adv p s) s))) ∧
  (∀ p s i pc ib st, Runs p i s → (adv p s).stack = (pc, ib) :: st →
    Answers (.opRet p) s (fun t =>
      (proc t p).ctx = { adv p s with pc := pc, ib := ib, stack := st } ∧
      { t with mem := s.mem, pge := s.pge } = s ∧ t.pge = (ran p i 4 { adv p s with pc := pc, ib := ib, stack := st } s).pge ∧
      t.mem = { s.mem with inst := t.mem.inst } ∧
      (∀ k, k ≠ instKey (i.n / 32) ((adv p s).ib + 26) → memRead t.mem.inst k = memRead s.mem.inst k) ∧
      ((adv p s).ib + 26 < (caskRec s (i.n / 32)).instKib * 1024 →
        (memRead t.mem.inst (instKey (i.n / 32) ((adv p s).ib + 26))).getLsbD 0 = false))) ∧
  (∀ p s i y, InCycle p i y s → (adv p s).stack = [] →
    exec (.opRet p) s = .next (withCyc i { y with phase := .executed } (ran p i 4 (adv p s) s)))

/-- A 64-bit word of a cask's partition. -/
def inst64 (s : State) (i : Item) (a : Nat) : DWord := BitVec.ofNat 64 (ofLe (memReadBytes s.mem.inst (instKey (i.n / 32) a) 8))

/-- A flag bit of a byte of a cask's partition. -/
def instBit (s : State) (i : Item) (a k : Nat) : Bool := (ofLe (memReadBytes s.mem.inst (instKey (i.n / 32) a) 1)).testBit k

/-- The element at `a` of `n` bytes may be read and written. -/
def ElementOk (p : Fin 2) (i : Item) (y : Cycle) (a n : Nat) (s : State) : Prop :=
  InCycle p i y s ∧ a + n ≤ (caskRec s (i.n / 32)).instKib * 1024

/-- Outside memory and the record of changed retentive lines, the instruction changes the registers to `c` and the cycle counts. -/
def ElementFrame (p : Fin 2) (i : Item) (c : Ctx) (s t : State) : Prop :=
  { t with mem := s.mem, pge := s.pge } = s ∧ t.mem = { s.mem with inst := t.mem.inst } ∧
  t.pge = { (ran p i 4 c s).pge with tasks := t.pge.tasks } ∧ (∀ k, k ≠ i.n → taskSt t k = taskSt s k) ∧
  taskSt t i.n = { taskSt s i.n with dirty := (taskSt t i.n).dirty }

/-- Every byte of the partition outside the `n` bytes at `a` reads as before. -/
def ByteFrame (i : Item) (s t : State) (a n : Nat) : Prop :=
  ∀ k, k < instKey (i.n / 32) a ∨ instKey (i.n / 32) a + n ≤ k → memRead t.mem.inst k = memRead s.mem.inst k

/-- In a cycle that executes, with the element in the partition: TON, TOF and TP read PT, START and their flags, follow Table 4.4
with c the latched cask clock, store START and the flags (M = IN), and put Q in B. R_TRIG gives Q on a rising edge, F_TRIG on
a falling one. CTU, CTD and CTUD count the rising edges of their inputs on 64-bit counts and give QU and QD. Each changes the
element's START or CV and its flag byte, the registers, the cycle counts and the record of changed retentive lines, and
nothing else. That a counter stops at the greatest and least count, and that a reset comes before a load and a load before
counting, is the model's reading of IEC 61131-3 (entry 25). -/
def Obligations.ElementInstructions : Prop :=
  (∀ p m x q s i y, ElementOk p i y (memAddr (adv p s) m) 24 s →
    let a := memAddr (adv p s) m
    let on := bReg (adv p s) x
    let start := if instBit s i (a + 16) 2 then inst64 s i (a + 8) else y.clk
    let out := on && decide ((inst64 s i a).toNat ≤ (y.clk - start).toNat)
    Answers (.opTon p m x q) s (fun t => ElementFrame p i (putB q out (adv p s)) s t ∧ ByteFrame i s t (a + 8) 9 ∧
      inst64 t i (a + 8) = (if on then start else inst64 s i (a + 8)) ∧
      instBit t i (a + 16) 0 = on ∧ instBit t i (a + 16) 1 = out ∧ instBit t i (a + 16) 2 = on)) ∧
  (∀ p m x q s i y, ElementOk p i y (memAddr (adv p s) m) 24 s →
    let a := memAddr (adv p s) m
    let on := bReg (adv p s) x
    let fall := !on && instBit s i (a + 16) 0
    let start := if fall then y.clk else inst64 s i (a + 8)
    let timing := !on && (fall || instBit s i (a + 16) 2)
    let more := timing && decide ((y.clk - start).toNat < (inst64 s i a).toNat)
    Answers (.opTof p m x q) s (fun t =>
      let out := if on then true else if timing then more else instBit s i (a + 16) 1
      ElementFrame p i (putB q out (adv p s)) s t ∧ ByteFrame i s t (a + 8) 9 ∧ inst64 t i (a + 8) = start ∧
      instBit t i (a + 16) 0 = on ∧ instBit t i (a + 16) 1 = out ∧ instBit t i (a + 16) 2 = more)) ∧
  (∀ p m x q s i y, ElementOk p i y (memAddr (adv p s) m) 24 s →
    let a := memAddr (adv p s) m
    let on := bReg (adv p s) x
    let begin0 := on && !instBit s i (a + 16) 1 && !instBit s i (a + 16) 0
    let start := if begin0 then y.clk else inst64 s i (a + 8)
    let out := (begin0 || instBit s i (a + 16) 1) && decide ((y.clk - start).toNat < (inst64 s i a).toNat)
    Answers (.opTp p m x q) s (fun t => ElementFrame p i (putB q out (adv p s)) s t ∧ ByteFrame i s t (a + 8) 9 ∧
      inst64 t i (a + 8) = start ∧ instBit t i (a + 16) 0 = on ∧ instBit t i (a + 16) 1 = out)) ∧
  (∀ p m x q s i y (rise : Bool), ElementOk p i y (memAddr (adv p s) m) 8 s →
    let a := memAddr (adv p s) m
    let on := bReg (adv p s) x
    let out := if rise then on && !instBit s i a 0 else !on && instBit s i a 0
    Answers (if rise then .opRtrig p m x q else .opFtrig p m x q) s (fun t =>
      ElementFrame p i (putB q out (adv p s)) s t ∧ ByteFrame i s t a 1 ∧ instBit t i a 0 = on ∧ instBit t i a 1 = out)) ∧
  (∀ p m cu r q s i y, ElementOk p i y (memAddr (adv p s) m) 24 s →
    let a := memAddr (adv p s) m
    let up := bReg (adv p s) cu && !instBit s i (a + 16) 0
    let cv := if bReg (adv p s) r then 0 else if up then countUp (inst64 s i (a + 8)) else inst64 s i (a + 8)
    let out := decide ((inst64 s i a).toInt ≤ cv.toInt)
    Answers (.opCtu p m cu r q) s (fun t => ElementFrame p i (putB q out (adv p s)) s t ∧ ByteFrame i s t (a + 8) 9 ∧
      inst64 t i (a + 8) = cv ∧ instBit t i (a + 16) 0 = bReg (adv p s) cu ∧ instBit t i (a + 16) 3 = out)) ∧
  (∀ p m cd ld q s i y, ElementOk p i y (memAddr (adv p s) m) 24 s →
    let a := memAddr (adv p s) m
    let dn := bReg (adv p s) cd && !instBit s i (a + 16) 1
    let cv := if bReg (adv p s) ld then inst64 s i a else if dn then countDown (inst64 s i (a + 8)) else inst64 s i (a + 8)
    let out := decide (cv.toInt ≤ 0)
    Answers (.opCtd p m cd ld q) s (fun t => ElementFrame p i (putB q out (adv p s)) s t ∧ ByteFrame i s t (a + 8) 9 ∧
      inst64 t i (a + 8) = cv ∧ instBit t i (a + 16) 1 = bReg (adv p s) cd ∧ instBit t i (a + 16) 4 = out)) ∧
  (∀ p m cu cd r ld qu qd s i y, ElementOk p i y (memAddr (adv p s) m) 24 s →
    let a := memAddr (adv p s) m
    let c := adv p s
    let up := bReg c cu && !instBit s i (a + 16) 0
    let dn := bReg c cd && !instBit s i (a + 16) 1
    let v := inst64 s i (a + 8)
    let cv := if bReg c r then 0 else if bReg c ld then inst64 s i a
              else if up && !dn then countUp v else if dn && !up then countDown v else v
    let hi := decide ((inst64 s i a).toInt ≤ cv.toInt)
    let lo := decide (cv.toInt ≤ 0)
    Answers (.opCtud p m cu cd r ld qu qd) s (fun t => ElementFrame p i (putB qd lo (putB qu hi c)) s t ∧ ByteFrame i s t (a + 8) 9 ∧
      inst64 t i (a + 8) = cv ∧ instBit t i (a + 16) 3 = hi ∧ instBit t i (a + 16) 4 = lo))

/-- With the Ring MAC in RUN: a Sync on the reference path for a PTP domain that is acquiring from the same grandmaster counts its
offset, and at the eighth counted offset the domain is LOCKED to that grandmaster (R351). 1.5 intervals without a Sync empty
the count. 3 intervals put a LOCKED domain in HOLDOVER with no grandmaster, no count and no slew, and TIM_HOLDOVER is recorded
(R352). An Announce that is better becomes the best master, and a LOCKED domain whose grandmaster it replaces goes to
HOLDOVER; the Announce receipt timeout does so too. A completed slew ends. HOLD_S counts a second. Where trust has ended,
TIM_UNTRUSTED is recorded once (R345). The frame: in each case the domain's other fields named here keep their values. -/
def Obligations.SyncAndMasterLoss : Prop :=
  (∀ dn port gm (node : Fin 64) master (s : State) n, isRun s .ring = true → ptpDomain s dn = some n → refOf s node = some port →
    (∀ b, (dom s n).best = some b → b.gm = gm) → (dom s n).st = .acquiring → (dom s n).evalGm = gm →
    let off : Int := (BitVec.ofInt 64 ((domNs s n : Int) - master.toNat)).toInt
    let run := countOffset (dom s n).rc.acceptNs (dom s n).offs off
    Answers (.syncReceived dn port gm node master) s (fun t =>
      (dom t n).ref = some port ∧ (dom t n).lastSync = s.now ∧ (dom t n).lastOfs = off ∧ (dom t n).rc = (dom s n).rc ∧
      (run.length < 8 → (dom t n).st = .acquiring ∧ (dom t n).offs = run ∧ (dom t n).gm = (dom s n).gm ∧ (dom t n).t = (dom s n).t) ∧
      (8 ≤ run.length → (dom t n).st = .locked ∧ (dom t n).gm = gm))) ∧
  (∀ (n : Fin 4) (s : State), (dom s n).rc.source = .ptp → 3 * syncInterval (dom s n).rc ≤ 2 * (s.now - (dom s n).lastSync) →
    exec (.syncMissing n) s = .next (updDom n (fun d => { d with offs := [] }) s)) ∧
  (∀ (n : Fin 4) (s : State), (dom s n).st = .locked → (dom s n).master = false →
    3 * syncInterval (dom s n).rc ≤ s.now - (dom s n).lastSync →
    Answers (.timHoldover n) s (fun t => (dom t n).st = .holdover ∧ (dom t n).gm = 0 ∧ (dom t n).offs = [] ∧ (dom t n).slewing = false ∧
      (dom t n).slewRem = 0 ∧ (dom t n).holdS = 0 ∧ (dom t n).t = (dom s n).t ∧
      { code := 0x0911, data := [BitVec.ofNat 8 n] } ∈ t.arising ∧ { t with tim := s.tim, arising := s.arising } = s)) ∧
  (∀ (a : Announce) (s : State) n, isRun s .ring = true → ptpDomain s a.dn = some n → (dom s n).rc.masterCapable = false →
    ((dom s n).best = none ∨ ∃ b, (dom s n).best = some b ∧ better (announceKey a) (announceKey b) = true) →
    Answers (.announceReceived a) s (fun t => (dom t n).best = some a ∧ (dom t n).lastAnnounce = s.now ∧
      (dom t n).st = (if (dom s n).st = .locked ∧ (dom s n).gm ≠ a.gm then .holdover else (dom s n).st))) ∧
  (∀ (n : Fin 4) (s : State), (dom s n).rc.source = .ptp → announceTimeoutNs (dom s n).rc ≤ s.now - (dom s n).lastAnnounce →
    (dom s n).master = false → (dom s n).rc.masterCapable = false →
    Answers (.announceTimeout n) s (fun t => (dom t n).best = none ∧
      (dom t n).st = (if (dom s n).st = .locked then .holdover else (dom s n).st))) ∧
  (∀ (n : Fin 4) (s : State), (dom s n).slewing = true → (dom s n).slewRem = 0 →
    exec (.slewComplete n) s = .next (updDom n (fun d => { d with slewing := false }) s)) ∧
  (∀ (n : Fin 4) (s : State), isRun s .cluster = true → (dom s n).st = .holdover → 1000000000 ≤ s.now - (dom s n).holdAt →
    (dom s n).holdS < 4294967295 →
    Answers (.holdSecond n) s (fun t => dom t n = { dom s n with holdS := (dom s n).holdS + 1, holdAt := (dom s n).holdAt + 1000000000 } ∧
      { t with tim := { t.tim with doms := s.tim.doms } } = s)) ∧
  (∀ (n : Fin 4) (s : State), isRun s .ring = true → trusted s n = false →
    Answers (.timUntrusted n) s (fun t => (dom t n).seenTrust = false ∧ (n = 0 → t.cel.winOk = false) ∧
      ((dom s n).seenTrust = true → { code := 0x0913, data := [BitVec.ofNat 8 n] } ∈ t.arising) ∧
      { t with tim := s.tim, arising := s.arising, cel := s.cel } = s))

/-- Once the access passes its checks: SET and SET_TRUST by cask 0 on a FREE domain (or a PTP domain in UNSET or HOLDOVER) step it
to its SET value, count a step, and give TIM_OK, trusted only for SET_TRUST (R355); a refused one gives TIM_STATE and records
it. ADJUST starts a slew by the signed SET_LO. A read of NOW_LO answers the low word and latches the high word of the same
cycle (R356). XSNAP latches every selected domain. A capture event latches the low 32 bits of its domain and the low 8 bits of
STEPS, and a read of the capture answers it and clears NEW (R357). Every second a Pdelay_Req goes to both linked ports; a
response updates the mean of the last 8, a message outside Table 11.4 is ignored and counted. A grandmaster domain sends Sync
with its time on both ports. An island's copy takes the steps made (R341). Every other domain keeps its value. That the
domain's value is below 2^96 is the model's invariant (kept by every step). -/
def Obligations.TimeRegistersAndMessages : Prop :=
  (∀ (iss : Issuer) (n : Fin 4) (trust : Bool) (s : State), Permits s iss .tim (0x0128 + 0x40 * n) true → iss.cask = 0 →
    ((dom s n).rc.source = .free ∨ ((dom s n).rc.source = .ptp ∧ ((dom s n).st = .unset ∨ (dom s n).st = .holdover))) →
    (dom s n).t < 2 ^ 96 →
    Answers (if trust then .setTrustDomain iss n else .setDomain iss n) s (fun t =>
      domNs t n = (dom s n).setHi.toNat * 2 ^ 32 + (dom s n).setLo.toNat ∧ (dom t n).st = .set ∧ (dom t n).setTrust = trust ∧
      (dom t n).steps = ((dom s n).steps + 1) % 65536 ∧ (trust = true → (dom t n).holdS = 0) ∧ t.reply = .code 0x0900)) ∧
  (∀ (iss : Issuer) (n : Fin 4) (trust : Bool) (s : State), Permits s iss .tim (0x0128 + 0x40 * n) true →
    ((iss.cask ≠ 0 ∧ n ≠ 3) ∨ (dom s n).rc.source = .follow ∨ ((dom s n).rc.source = .ptp ∧ (dom s n).st = .locked)) →
    Answers (if trust then .setTrustDomain iss n else .setDomain iss n) s (fun t =>
      t.reply = .code 0x0901 ∧ t.tim.doms = s.tim.doms ∧ (t.arising.getLast?).map (·.code) = some 0x0901)) ∧
  (∀ (iss : Issuer) (n : Fin 4) (s : State), Permits s iss .tim (0x0128 + 0x40 * n) true → iss.cask = 0 →
    (dom s n).rc.source = .free → (dom s n).st = .set →
    Answers (.adjustDomain iss n) s (fun t => (dom t n).slewing = true ∧ (dom t n).slewRem = (dom s n).setLo.toInt * 2 ^ 32 ∧
      (dom t n).t = (dom s n).t ∧ t.reply = .code 0x0900)) ∧
  (∀ (iss : Issuer) (n : Fin 4) (s : State), Permits s iss .tim (0x0100 + 0x40 * n) false →
    Answers (.nowLoRead iss n) s (fun t => t.reply = .word (BitVec.ofNat 32 (domNs s n)) ∧
      Tbl.at t.tim.nowHi (bankKey iss * 4 + n) 0 = BitVec.ofNat 32 (domNs s n / 2 ^ 32) ∧
      { t with tim := { t.tim with nowHi := s.tim.nowHi }, reply := s.reply } = s)) ∧
  (∀ (iss : Issuer) (mask : Fin 16) (s : State), Permits s iss .tim 0x0000 true →
    Answers (.xsnap iss mask) s (fun t => ∀ n : Fin 4,
      (dom t n).xs = (if mask.val.testBit n then BitVec.ofNat 64 (domNs s n) else (dom s n).xs) ∧ (dom t n).t = (dom s n).t)) ∧
  (∀ (src : CapSrc) (s : State) (n : Fin 4), isRun s .ring = true → (capture s n).en = true → (capture s n).src = capCode src →
    Answers (.timeCapture src) s (fun t => (capture t n).isNew = true ∧ (capture t n).ns = BitVec.ofNat 32 (domNs s (capture s n).domain) ∧
      (capture t n).steps = (dom s (capture s n).domain).steps % 256 ∧ { t with tim := { t.tim with caps := s.tim.caps } } = s)) ∧
  (∀ (iss : Issuer) (n : Fin 4) (s : State), Permits s iss .tim (0x0044 + 8 * n) false →
    Answers (.captureRead iss n) s (fun t => t.reply = .word (capture s n).ns ∧ (capture t n).isNew = false ∧
      (capture t n).ns = (capture s n).ns ∧ ∀ m, m ≠ n.val → capture t m = capture s m)) ∧
  (∀ (s : State), isRun s .ring = true → s.net.portA.link = true → s.net.portB.link = true → s.tim.pdA.pendingAt = none →
    s.tim.pdB.pendingAt = none →
    Answers .pdelayRequestSend s (fun t => t.tim.pdA.pendingAt = some s.now ∧ t.tim.pdB.pendingAt = some s.now ∧
      ∀ p, ∃ f, f.kind = .pdelay ∧ (f ∈ (portSt t p).q1 ∨ f ∈ (portSt t p).q2))) ∧
  (∀ p ns (s : State), isRun s .ring = true →
    Answers (.pdelayMessageReceived p (.response ns)) s (fun t => (pdelayOf t p).delays = (ns :: (pdelayOf s p).delays).take 8 ∧
      (pdelayOf t p).mean = ((ns :: (pdelayOf s p).delays).take 8).sum / ((ns :: (pdelayOf s p).delays).take 8).length) ∧
    Answers (.pdelayMessageReceived p .outside) s (fun t => (pdelayOf t p).delays = (pdelayOf s p).delays ∧
      ((pdelayOf s p).ignored < 255 → (pdelayOf t p).ignored = (pdelayOf s p).ignored + 1))) ∧
  (∀ (n : Fin 4) (s : State), isRun s .ring = true → (dom s n).master = true → s.net.portA.link = true → s.net.portB.link = true →
    Answers (.syncSend n) s (fun t => ∀ p, ∃ f, f.kind = .sync ∧ f.stamp = BitVec.ofNat 64 (domNs s n) ∧
      (f ∈ (portSt t p).q1 ∨ f ∈ (portSt t p).q2))) ∧
  (∀ (i : Island) (s : State), isRun s .ring = true →
    Answers (.timeDistributionUpdate i) s (fun t => (∀ n : Fin 4, Tbl.at t.tim.lag (islNum i * 4 + n) 0 = 0) ∧ t.tim.doms = s.tim.doms))

/-- With the Ring MAC in RUN. A frame in transit that arrives on a linked port leaves by the other one: an event message in class
1 or 2, a heartbeat or flow frame in class 1, any other frame in class 2, and the port it came on keeps its queues (R307,
R323, R325). A frame for the module with a wrong FCS, or one that fails authentication, changes nothing; one whose bud cannot
be derived changes STALE_COUNT alone (R436). Of two copies of one frame the first enters the source's window; the second, on
the other port, is marked there and not delivered (R310). After 400 ms an entry is forgotten and a lees buffer freed (R310,
R313). A suspicion ends after 10 s. A path is FAILED 3.5 ms after the last heartbeat on its port, and NET_PATH_FAIL is
recorded (R315); after 10 s clean in STANDBY it is UP, and NET_PATH_UP is recorded (R316). Link comes and goes; a port that
loses it loses its queues. -/
def Obligations.RingFramesAndPaths : Prop :=
  (∀ (p : Port) (f : Frame) (s : State), isRun s .ring = true → (portSt s p).link = true → (f.src ≠ ownMac s ∨ s.net.admActive = false) →
    f.transit = true → s.net.inRing = true → f.own = false → (portSt s (otherPort p)).link = true →
    Answers (.ringFrameReceived p f) s (fun t =>
      portSt t p = portSt s p ∧ { t with net := s.net } = s ∧
      (if isEventMsg f.kind then (f ∈ (portSt t (otherPort p)).q1 ∨ f ∈ (portSt t (otherPort p)).q2)
       else if f.kind = .heartbeat ∨ f.kind = .flow then
         portSt t (otherPort p) = { portSt s (otherPort p) with q1 := (portSt s (otherPort p)).q1 ++ [f] }
       else portSt t (otherPort p) = { portSt s (otherPort p) with q2 := (portSt s (otherPort p)).q2 ++ [f] }))) ∧
  (∀ (p : Port) (f : Frame) (s : State), isRun s .ring = true → (portSt s p).link = true → (f.src ≠ ownMac s ∨ s.net.admActive = false) →
    f.transit = false → f.own = true → (f.fcsOk = false ∨ (isFalore f = true ∧ isRun s .key = true ∧ authFrame s f = .bad)) →
    exec (.ringFrameReceived p f) s = .next s) ∧
  (∀ (p : Port) (f : Frame) (s : State), isRun s .ring = true → (portSt s p).link = true → (f.src ≠ ownMac s ∨ s.net.admActive = false) →
    f.transit = false → f.own = true → f.fcsOk = true → isFalore f = true → f.kind ≠ .flow → isRun s .key = true →
    authFrame s f = .stale →
    exec (.ringFrameReceived p f) s = .next { s with key.staleCount := if s.key.staleCount < 65535 then s.key.staleCount + 1 else s.key.staleCount }) ∧
  (∀ (p : Port) (f : Frame) (s : State) i e, isRun s .ring = true → (portSt s p).link = true →
    (f.src ≠ ownMac s ∨ s.net.admActive = false) → f.transit = false → f.own = true → f.fcsOk = true → isFalore f = false →
    s.net.leesEn = false → dupOf s f.src = some (i, e) → Tbl.get? s.net.dup i = some e →
    (e.win.find? (fun q => q.seq == f.hsrSeq) = none → e.win.length < 64 →
      let q : DupSeq := { seq := f.hsrSeq, onA := p == .a, onB := p == .b }
      let e' : DupEnt := { e with win := q :: e.win, lastAt := s.now }
      exec (.ringFrameReceived p f) s = .next { s with net.dup := Tbl.put s.net.dup i e' }) ∧
    (∀ q, e.win.find? (fun q => q.seq == f.hsrSeq) = some q → (match p with | .a => q.onA | .b => q.onB) = true →
      exec (.ringFrameReceived p f) s = .next { s with net.dup := Tbl.put s.net.dup i { e with lastAt := s.now } })) ∧
  (∀ (i : Fin 2048) (s : State) e, isRun s .ring = true → Tbl.get? s.net.dup i = some e → e.mac ≠ 0 → e.lastAt + 400000000 ≤ s.now →
    Answers (.dupEntryTimeout i) s (fun t => (Tbl.at t.net.dup i {}).mac = 0 ∧ (Tbl.at t.net.dup i {}).win = [] ∧
      (∀ j, j ≠ i.val → Tbl.get? t.net.dup j = Tbl.get? s.net.dup j) ∧ { t with net := { t.net with dup := s.net.dup } } = s)) ∧
  (∀ (i : Fin 4) (s : State) b, isRun s .ring = true → Tbl.get? s.net.leesBufs i = some b → b.at0 + 400000000 ≤ s.now →
    exec (.leesHoldTimeout i) s = .next { s with net.leesBufs := Tbl.del s.net.leesBufs i }) ∧
  (∀ (n : Fin 64) (s : State) a, isRun s .ring = true → (node s n).suspect = some a → a + 10000000000 ≤ s.now →
    Answers (.suspectClear n) s (fun t => (node t n).suspect = none ∧ (node t n).pa = (node s n).pa ∧ (node t n).pb = (node s n).pb)) ∧
  (∀ (n : Fin 64) (p : Port) (s : State) a, isRun s .ring = true → (node s n).hb = true → (pathSt (node s n) p).st ≠ .failed →
    (pathSt (node s n) p).lastHb = some a → a + 3500000 ≤ s.now →
    Answers (.netPathFail n p) s (fun t => (pathSt (node t n) p).st = .failed ∧
      pathSt (node t n) (otherPort p) = pathSt (node s n) (otherPort p) ∧
      { code := 0x0822, data := toLe 2 (node s n).addr ++ [if p = .a then 0 else 1] } ∈ t.arising)) ∧
  (∀ (n : Fin 64) (p : Port) (s : State) a, isRun s .ring = true → (node s n).hb = true → (pathSt (node s n) p).st = .standby →
    (pathSt (node s n) p).lastHb = some a → s.now ≤ a + 1500000 → (pathSt (node s n) p).cleanFrom + 10000000000 ≤ s.now →
    Answers (.netPathUp n p) s (fun t => (pathSt (node t n) p).st = .up ∧
      pathSt (node t n) (otherPort p) = pathSt (node s n) (otherPort p) ∧
      { code := 0x0823, data := toLe 2 (node s n).addr ++ [if p = .a then 0 else 1] } ∈ t.arising)) ∧
  (∀ (p : Port) (s : State), isRun s .ring = true → (portSt s p).link = false →
    Answers (.linkUp p) s (fun t => (portSt t p) = { portSt s p with link := true } ∧ portSt t (otherPort p) = portSt s (otherPort p))) ∧
  (∀ (p : Port) (s : State), isRun s .ring = true → (portSt s p).link = true →
    Answers (.linkDown p) s (fun t => (portSt t p).link = false ∧ (portSt t p).q1 = [] ∧ (portSt t p).q2 = [] ∧ (portSt t p).q3 = [] ∧
      (portSt t p).wire = none ∧ ((portSt s p).linkDowns < 65535 → (portSt t p).linkDowns = (portSt s p).linkDowns + 1) ∧
      (portSt t (otherPort p)).link = (portSt s (otherPort p)).link ∧ (portSt t (otherPort p)).q2 = (portSt s (otherPort p)).q2))

/-- With the Ring MAC in RUN. Once in each own Trellis frame a heartbeat is sealed under the module's HBT1 bud with the next FSEQ
and queued in class 1 on both ports; where the bud cannot be derived STALE_COUNT alone counts (R309, R314, R436). Every 2 s a
supervision frame joins class 3 of cask 0 on both ports. BYPASS_N is driven high when the entry conditions hold and the slot
delay (address mod 16 times 4 s) has passed, and that counts as an operation; a write of NET_CTRL with BYP_HOLD drives it low
(R321, R322). A port takes its next frame from class 1, then class 2, before any local best-effort frame (R323). START of the
path test with a length from 46 to 1,408 begins a test of that port with nothing sent; a test frame is counted when it is
sent, and 100 ms after the thousandth the test ends with PASS when every frame came back, else FAIL, LOST being the rest
(R334). -/
def Obligations.RingSendingAndPathTest : Prop :=
  (∀ (s : State), isRun s .ring = true → isRun s .trellis = true → isRun s .key = true → s.net.admActive = true →
    s.net.hbAt ≠ some s.trl.frame → s.net.hbtEpoch ≠ 0 → s.net.hbtSeq < 0xF0000000 → s.net.portA.link = true → s.net.portB.link = true →
    let s1 : State := { s with net.hbAt := some s.trl.frame }
    Answers .heartbeatSend s (fun t => t.net.hbAt = some s.trl.frame ∧
      match sealFrame s1 1 s.net.hbtEpoch { ownFrame s1 .heartbeat with payload := [], fseq := s.net.hbtSeq } with
      | none => t.net.portA = s.net.portA ∧ t.net.portB = s.net.portB ∧ t.net.hbtSeq = s.net.hbtSeq ∧
          (s.key.staleCount < 65535 → t.key.staleCount = s.key.staleCount + 1)
      | some g => t.net.portA = { s.net.portA with q1 := s.net.portA.q1 ++ [g] } ∧ t.net.portB = { s.net.portB with q1 := s.net.portB.q1 ++ [g] } ∧
          t.net.hbtSeq = s.net.hbtSeq + 1)) ∧
  (∀ (s : State), isRun s .ring = true → s.net.admActive = true →
    (s.net.superAt = none ∨ ∃ a, s.net.superAt = some a ∧ a + 2000000000 ≤ s.now) → s.net.portA.link = true → s.net.portB.link = true →
    Answers .supervisionFrameSend s (fun t => t.net.superAt = some s.now ∧ t.net.hsrSeq = (s.net.hsrSeq + 1) % 65536 ∧
      ∃ f, f.kind = .supervision ∧ f.hsrSeq = s.net.hsrSeq ∧
        t.net.portA = { s.net.portA with q3 := Tbl.upd s.net.portA.q3 0 [] (· ++ [f]) } ∧
        t.net.portB = { s.net.portB with q3 := Tbl.upd s.net.portB.q3 0 [] (· ++ [f]) })) ∧
  (∀ (s : State) a, isRun s .ring = true → s.net.admActive = true → s.net.bypHold = false → s.net.inRing = false →
    s.net.waitFrom = some a → a + s.sys.address.toNat % 16 * 4000000000 ≤ s.now → s.net.bypOps < 4294967295 →
    exec .bypassRelease s = .next { s with net.waitFrom := none, net.inRing := true, net.bypOps := s.net.bypOps + 1 }) ∧
  (∀ (iss : Issuer) (w : Word) (s : State), Permits s iss .net 0x0000 true →
    Answers (.bypHoldSet iss w) s (fun t => t.net.bypHold = w.toNat.testBit 1 ∧ t.net.leesEn = w.toNat.testBit 0 ∧
      (w.toNat.testBit 1 = true → t.net.inRing = false ∧ t.net.waitFrom = none ∧
        (s.net.inRing = true → s.net.bypOps < 4294967295 → t.net.bypOps = s.net.bypOps + 1)))) ∧
  (∀ (p : Port) (s : State), isRun s .ring = true → (portSt s p).link = true →
    (∀ f r, (portSt s p).q1 = f :: r →
      exec (.egressTransmit p) s = .next (updPort p (fun q => { q with q1 := r, wire := some f }) s)) ∧
    (∀ f r, (portSt s p).q1 = [] → (portSt s p).q2 = f :: r →
      exec (.egressTransmit p) s = .next (updPort p (fun q => { q with q2 := r, wire := some f }) s))) ∧
  (∀ (iss : Issuer) (p : Port) (len : Fin 2048) (s : State), Permits s iss .net 0x0300 true → (iss.cask = 0 ∨ iss.cask = 63) →
    s.net.ptest.state ≠ .running → 46 ≤ len.val → len.val ≤ 1408 →
    Answers (.pathTestStart iss p len) s (fun t => t.net.ptest.state = .running ∧ t.net.ptest.port = p ∧ t.net.ptest.len = len ∧
      t.net.ptest.sent = 0 ∧ t.net.ptest.good = 0 ∧ t.net.portA = s.net.portA ∧ t.net.portB = s.net.portB)) ∧
  (∀ (s : State), isRun s .ring = true → s.net.ptest.state = .running → s.net.ptest.sent < 1000 →
    s.net.ptest.lastAt + max 10000 ((s.net.ptest.len + 92) * 10) ≤ s.now →
    Answers .pathTestFrameSend s (fun t => t.net.ptest.sent = s.net.ptest.sent + 1 ∧ t.net.ptest.lastAt = s.now ∧
      t.net.ptest.good = s.net.ptest.good ∧ t.net.ptest.state = .running)) ∧
  (∀ (s : State), isRun s .ring = true → s.net.ptest.state = .running → s.net.ptest.sent = 1000 → s.net.ptest.lastAt + 100000000 ≤ s.now →
    exec .pathTestEnd s = .next { s with net.ptest := { s.net.ptest with state := .done, code := if s.net.ptest.good = 1000 then 0x0810 else 0x0811, lost := 1000 - s.net.ptest.good, flight := [] } })

/-- ADMIT by a cask puts the request its NET_ADM bank names last in the queue and marks the bank waiting; a 17th waiting request
ends with BUSY (R331, R332). RELEASE by the flow's cask or cask 0 marks the context for freeing and answers OK; of a free
context PARAM, of another cask's CASK (R332). With the Ring MAC in RUN and no bind awaited, the oldest request is decided: one
whose period is none of Table 10.9's, or whose node is not on the ring map, is refused with its code in the bank and no
context changes (R327, R331). A bind answer, or 10 ms without one, ends the bind: the context is admitted, and released again
when refused; the code is reported (R329). An admitted flow whose re-key is standing sends nothing in its frame and counts a
lost delivery (R333). At FSEQ 0xF0000000 a flow demands a re-key; with the site key present it then starts the next epoch at
FSEQ 0 (R333). The Ring MAC abort ends every waiting request with NET_ADM_ABORTED and a running path test (R338, R339). -/
def Obligations.AdmissionAndFlows : Prop :=
  (∀ (iss : Issuer) (s : State), Permits s iss .net 0x020C true →
    let q : AdmReq := { cask := iss.cask, req := bankReq (Tbl.at s.net.banks iss.cask {}) }
    Answers (.admitFlow iss) s (fun t =>
      (s.net.waiting.length < 16 → t.net.waiting = s.net.waiting ++ [q] ∧ (Tbl.at t.net.banks iss.cask {}).waiting = true) ∧
      (16 ≤ s.net.waiting.length → t.net.waiting = s.net.waiting ∧ (Tbl.at t.net.banks iss.cask {}).code = cNET_ADM_BUSY) ∧
      t.net.flows = s.net.flows)) ∧
  (∀ (iss : Issuer) (n : Fin 1024) (s : State), Permits s iss .net 0x020C true →
    let x := Tbl.at s.net.flows n.val {}
    Answers (.releaseFlow iss n) s (fun t => t.net.flows = s.net.flows ∧
      (x.st = .free → (Tbl.at t.net.banks iss.cask {}).code = cNET_ADM_PARAM ∧ t.net.releasing = s.net.releasing) ∧
      (x.st ≠ .free → s.net.releasing.contains n.val = false → iss.cask ≠ 0 → x.cask ≠ iss.cask.val →
        (Tbl.at t.net.banks iss.cask {}).code = cNET_ADM_CASK ∧ t.net.releasing = s.net.releasing) ∧
      (x.st ≠ .free → s.net.releasing.contains n.val = false → (iss.cask = 0 ∨ x.cask = iss.cask.val) →
        (Tbl.at t.net.banks iss.cask {}).code = cNET_ADM_OK ∧ t.net.releasing = s.net.releasing ++ [n.val]))) ∧
  (∀ (s : State) q r, isRun s .ring = true → binding s = false → s.net.waiting = q :: r → q.fmp = none →
    (periodOk q.req.periodMs = false →
      Answers .admissionDecision s (fun t => t.net.waiting = r ∧ t.net.flows = s.net.flows ∧
        (Tbl.at t.net.banks q.cask {}).code = cNET_ADM_PARAM ∧ (Tbl.at t.net.banks q.cask {}).waiting = false)) ∧
    (periodOk q.req.periodMs = true → 1 ≤ q.req.npts → q.req.npts ≤ 32 → (q.req.node = 0 ∨ s.net.nodes.length ≤ q.req.node) →
      Answers .admissionDecision s (fun t => t.net.waiting = r ∧ t.net.flows = s.net.flows ∧
        (Tbl.at t.net.banks q.cask {}).code = cNET_ADM_ROUTE ∧ (Tbl.at t.net.banks q.cask {}).waiting = false))) ∧
  (∀ (s : State) q r n phi d, isRun s .ring = true → binding s = false → s.net.waiting = q :: r → q.fmp = none →
    admRefusal s q.cask q.req = none → fitFlow s s.net.loads q.req = (cNET_ADM_OK, phi, d) → freeContext s = some n →
    (node s q.req.node).exit = true →
    Answers .admissionDecision s (fun t => t.net.waiting = r ∧ (Tbl.at t.net.flows n {}).st = .admitted ∧
      (Tbl.at t.net.flows n {}).cask = q.cask ∧ (Tbl.at t.net.flows n {}).periodMs = q.req.periodMs ∧
      (Tbl.at t.net.flows n {}).phase = phi ∧ (Tbl.at t.net.flows n {}).npts = q.req.npts ∧
      (Tbl.at t.net.flows n {}).spoint = q.req.spoint ∧ (Tbl.at t.net.flows n {}).promiseNs = q.req.reqUs * 1000 ∧
      (Tbl.at t.net.banks q.cask {}).code = cNET_ADM_OK ∧ (Tbl.at t.net.banks q.cask {}).flow = n ∧
      (Tbl.at t.net.banks q.cask {}).dCalc = d ∧ ∀ k, k ≠ n → Tbl.get? t.net.flows k = Tbl.get? s.net.flows k)) ∧
  (∀ (n : Fin 1024) (ok : Bool) (s : State), isRun s .ring = true → (Tbl.at s.net.flows n.val {}).st = .binding →
    (Tbl.at s.net.flows n.val {}).fmp = none →
    (let c := (Tbl.at s.net.flows n.val {}).cask
     Answers (.bindAnswer n ok) s (fun t => (Tbl.at t.net.flows n.val {}).st = .admitted ∧
      (Tbl.at t.net.banks c {}).code = (if ok then cNET_ADM_OK else cNET_ADM_NO_RX) ∧
      (ok = false → n.val ∈ t.net.releasing) ∧ (ok = true → t.net.releasing = s.net.releasing) ∧
      ∀ k, k ≠ n.val → Tbl.get? t.net.flows k = Tbl.get? s.net.flows k)) ∧
    ((Tbl.at s.net.flows n.val {}).bindAt + 10000000 ≤ s.now → exec (.bindTimeout n) s = exec (.bindAnswer n false) s)) ∧
  (∀ (b : BindReq) (s : State), isRun s .ring = true → s.net.admActive = true →
    Answers (.bindReceived b) s (fun t => match bindContext s b with
      | some n => t.net.flows = Tbl.put s.net.flows n { st := .admitted, rx := true, cask := b.cask, npts := b.npts, dpoint := b.dpoint, promiseNs := b.promiseNs, srcAddr := b.srcAddr, srcFlow := b.srcFlow, bindAt := s.now }
      | none => t.net.flows = s.net.flows)) ∧
  (∀ (n : Fin 1024) (s : State), isRun s .trellis = true → (Tbl.at s.net.flows n.val {}).st = .admitted →
    (Tbl.at s.net.flows n.val {}).rx = false → (Tbl.at s.net.flows n.val {}).rekey = true → s.net.releasing.contains n.val = false →
    1 ≤ s.trl.frame → flowDue (Tbl.at s.net.flows n.val {}) (s.trl.frame - 1) = true →
    (Tbl.at s.net.flows n.val {}).sentAt ≠ some (s.trl.frame - 1) →
    Answers (.flowSend n) s (fun t => (Tbl.at t.net.flows n.val {}).sentAt = some (s.trl.frame - 1) ∧
      (Tbl.at t.net.flows n.val {}).fseq = (Tbl.at s.net.flows n.val {}).fseq ∧
      (Tbl.at t.net.flows n.val {}).dropped = min ((Tbl.at s.net.flows n.val {}).dropped + 1) 255 ∧
      t.net.portA = s.net.portA ∧ t.net.portB = s.net.portB)) ∧
  (∀ (n : Fin 1024) (s : State), isRun s .ring = true → (Tbl.at s.net.flows n.val {}).st ≠ .free →
    (Tbl.at s.net.flows n.val {}).rx = false →
    ((Tbl.at s.net.flows n.val {}).rekey = false → 0xF0000000 ≤ (Tbl.at s.net.flows n.val {}).fseq →
      exec (.flowRekey n) s = .next (updFlow n (fun x => { x with rekey := true }) s)) ∧
    ((Tbl.at s.net.flows n.val {}).rekey = true → isRun s .key = true → s.key.site.isSome = true → s.key.purging = false →
      Answers (.flowRekey n) s (fun t => (Tbl.at t.net.flows n.val {}).epoch = Tbl.at s.key.epochs (1 + n.val) 0 + 1 ∧
        (Tbl.at t.net.flows n.val {}).fseq = 0 ∧ (Tbl.at t.net.flows n.val {}).rekey = false ∧
        Tbl.at t.key.epochs (1 + n.val) 0 = Tbl.at s.key.epochs (1 + n.val) 0 + 1))) ∧
  (∀ (iss : Issuer) (s : State), Permits s iss .sys 0x0030 true → iss.cask = 0 → isRun s .ring = true →
    Answers (.ringMacAbort iss) s (fun t => t.net.waiting = [] ∧ t.net.fmpQ = [] ∧ t.net.leesBufs = [] ∧ t.net.ptest.state ≠ .running))

/-- In each Trellis frame the engine keeps the cost of the last one and builds its due list of the slots due in this frame in slot
order (R171). A snapshot reads all points of the next slot of that list in one Trellis cycle (R172). A sample with a bad
process value writes OUT_POINT with BAD_SOURCE and the value ON_BAD chooses (R193). A sample with good inputs takes the law's
new state and writes OUT_POINT with the law's output, rounded and in the point's type (R173, R182). The following-error alarm
is recorded once its time has passed; FE_ACTION 0b01 puts the slot in MANUAL (R195). A slot not evaluated in its frame misses
its sample and LPE_LATE is recorded (R196). A mode command from the slot's cask or cask 0 waits for the next sample and
answers OK; TRACK without a track point, and a slot that does not exist, answer LPE_CMD_STATE (R178, R180). RUN from cask 0
resumes the engine; its abort stops it, ends running shadows with LPE_ABORTED and frees captures (R209). -/
def Obligations.LoopFramesEvaluationsAndModes : Prop :=
  (∀ (s : State), isRun s .loop = true → s.lpe.run = true → s.trl.frame ≠ 0 → s.lpe.dueFrame ≠ some (s.trl.frame - 1) → s.lpe.due = [] →
    (∀ e ∈ s.lpe.slots, e.2.next = none ∧ e.2.removing = false) →
    exec .loopFrame s = .next { s with lpe.loads := (s.lpe.used :: s.lpe.loads).take 1000, lpe.used := 0, lpe.dueFrame := some (s.trl.frame - 1), lpe.due := dueSlots s (s.trl.frame - 1), lpe.asked := [] }) ∧
  (∀ (n : Fin 1024) (s : State) l, isRun s .loop = true → s.lpe.run = true → isRun s .trellis = true → nextAsk s = some n.val →
    slot? s n = some l →
    Answers (.loopSnapshot n) s (fun t => slot? t n = some { l with snap := some (takeSnap s (l.next.getD l.rc)) } ∧
      t.lpe.asked = s.lpe.asked ++ [n.val] ∧ t.trl = s.trl ∧ ∀ k, k ≠ n.val → slot? t k = slot? s k)) ∧
  (∀ (n : Fin 1024) (s : State) l sn p, isRun s .loop = true → s.lpe.run = true → isRun s .trellis = true →
    s.lpe.dueFrame = some (s.trl.frame - 1) → nextEval s = some n.val → slot? s n = some l → l.snap = some sn → l.next = none →
    l.cmd = none → l.applyWait = none → (l.mode = .manual ∨ l.mode = .auto ∨ l.mode = .track) → pt? s l.rc.out = some p →
    isWriter p pvLoop l.rc.slot l.rc.cask = true → Plain s l.rc.out →
    (inputsFail l sn = true →
      Answers (.loopEvaluation n) s (fun t => n.val ∉ t.lpe.due ∧
        ∃ l', slot? t n = some l' ∧ l'.pvBad = true ∧ l'.missRun = 0 ∧ l'.st = l.st ∧
        ∃ q, pt? t l.rc.out = some q ∧ q.value = badValue p ∧ q.quality = qSource ∧ q.prov = pvLoop)) ∧
    (inputsFail l sn = false → (∀ f, l.rc.fe = some f → f ≠ l.rc.out ∧ Plain s f) →
      let e := evalInputs s l sn (s.trl.frame - 1)
      let o := evalLaw l.rc (liveSets l) l.st e.1
      F64.fin o.v = true →
      Answers (.loopEvaluation n) s (fun t => n.val ∉ t.lpe.due ∧
        ∃ l', slot? t n = some l' ∧ l'.pvBad = false ∧ l'.missRun = 0 ∧ l'.st = o.st ∧ l'.region = some e.1.region ∧
        ∃ q, pt? t l.rc.out = some q ∧
          (isBad (qualityOf e.2.1) = false → q.value = outValue s l.rc (roundU o.u) o.st.q) ∧ q.prov = pvLoop))) ∧
  (∀ (n : Fin 1024) (s : State) l t0, slot? s n = some l → l.feT0 = some t0 → l.mode = .auto → l.feAlarm = false →
    t0.toNat + l.rc.feTimeMs * 1000000 ≤ l.lastStamp.toNat →
    Answers (.lpeFe n) s (fun t => ∃ l', slot? t n = some l' ∧ l'.feAlarm = true ∧
      (l.rc.feManual = true → l'.mode = .manual ∧ l'.manual = some l.lastOut) ∧ (l.rc.feManual = false → l'.mode = .auto) ∧
      { code := 0x050D, cask := l.rc.cask, data := toLe 2 n } ∈ t.arising)) ∧
  (∀ (n : Fin 1024) (s : State) l, n.val ∈ s.lpe.due → s.lpe.dueFrame ≠ some (s.trl.frame - 1) → slot? s n = some l → l.missRun < 2 →
    Answers (.lpeLate n) s (fun t => n.val ∉ t.lpe.due ∧ (∃ l', slot? t n = some l' ∧ l'.missRun = l.missRun + 1 ∧
      (l.misses < 65535 → l'.misses = l.misses + 1) ∧ l'.snap = none ∧ l'.mode = l.mode) ∧
      { code := 0x0509, cask := l.rc.cask, data := toLe 2 n } ∈ t.arising)) ∧
  (∀ (iss : Issuer) (n : Fin 1024) (m : LoopMode) (s : State), Permits s iss .lpe 0x0010 true → m ≠ .fault →
    let c : Instr := match m with | .off => .loopModeOff iss n | .manual => .loopModeManual iss n | .auto => .loopModeAuto iss n | _ => .loopModeTrack iss n
    (∀ l, slot? s n = some l → (iss.cask = 0 ∨ iss.cask.val = l.rc.cask) → (m = .track → l.rc.track.isSome = true) →
      Answers c s (fun t => slot? t n = some { l with cmd := some (m, Tbl.at s.lpe.modeVal iss.cask 0) } ∧ t.reply = .code 0x0500 ∧
        (∀ k, k ≠ n.val → slot? t k = slot? s k) ∧ { t with lpe := s.lpe, reply := s.reply } = s)) ∧
    (∀ l, slot? s n = some l → (iss.cask = 0 ∨ iss.cask.val = l.rc.cask) → m = .track → l.rc.track = none →
      Answers c s (fun t => t.lpe.slots = s.lpe.slots ∧ t.reply = .code 0x0501)) ∧
    (slot? s n = none → Answers c s (fun t => t.lpe.slots = s.lpe.slots ∧ t.reply = .code 0x0501))) ∧
  (∀ (iss : Issuer) (s : State), Permits s iss .lpe 0x0000 true → iss.cask = 0 →
    exec (.lpeResume iss) s = .next { s with lpe.run := true, reply := .none }) ∧
  (∀ (iss : Issuer) (s : State), Permits s iss .sys 0x0030 true → iss.cask = 0 → isRun s .loop = true →
    Answers (.loopEngineAbort iss) s (fun t => t.lpe.run = false ∧ t.lpe.due = [] ∧ (∀ e ∈ t.lpe.shadows, e.2.state ≠ .running) ∧
      (∀ n l, slot? t n = some l → l.capBuf = none ∧ l.snap = none) ∧ { code := 0x0508, data := [] } ∈ t.arising))

/-- START by the slot's cask or cask 0 on an idle context gives it a fresh shadow of that slot with COUNT comparisons (255 for 0),
and answers OK; a running one answers SHD_BUSY (R198, R200). A shadow whose output and states agree with the live ones counts
a comparison; one that differs ends with SHD_MISMATCH and its slot enters FAULT (R199, R201); a candidate shadow keeps its
largest deviation. A sample not taken in its frame is skipped (R176). With COUNT comparisons made it is DONE with OK. STOP
ends it with OK. A capture with 224 samples is sent to Vintner over HC4 and its slot may capture again (R202). An arrived
capture of a set under judgement that did worse reverts it; every arrived capture frees its buffer (R206). TRY starts a
CANDIDATE shadow of 32 samples; APPLY is refused for gains outside their bounds or not tried, else the set waits for the next
sample (R205); REVERT sets the fallback gains to be taken and locks the set (R206). -/
def Obligations.ShadowsAndRetuning : Prop :=
  (∀ (iss : Issuer) (c : Fin 16) (n : Fin 1024) (k : Byte) (s : State) l, Permits s iss .lpe (0x0200 + 16 * c.val) true →
    slot? s n = some l → (iss.cask = 0 ∨ iss.cask.val = l.rc.cask) →
    ((shadow s c).state ≠ .running →
      Answers (.shadowStart iss c n k) s (fun t =>
        shadow t c = { state := .running, slot := n, count := if k = 0 then 255 else k.toNat, mode := l.mode } ∧
        (∀ d, d ≠ c.val → shadow t d = shadow s d) ∧ t.lpe.slots = s.lpe.slots ∧ t.reply = .code 0x0500)) ∧
    ((shadow s c).state = .running →
      Answers (.shadowStart iss c n k) s (fun t => t.lpe.shadows = s.lpe.shadows ∧ t.reply = .code 0x0503))) ∧
  (∀ (iss : Issuer) (c : Fin 16) (s : State) l, Permits s iss .lpe (0x0200 + 16 * c.val) true → slot? s (shadow s c).slot = some l →
    (iss.cask = 0 ∨ iss.cask.val = l.rc.cask) → (shadow s c).state = .running →
    Answers (.shadowStop iss c) s (fun t => shadow t c = { shadow s c with state := .done, code := 0x0500, job := none } ∧
      (∀ d, d ≠ c.val → shadow t d = shadow s d) ∧ t.reply = .code 0x0500)) ∧
  (∀ (c : Fin 16) (s : State) l j, isRun s .loop = true → s.lpe.run = true → (shadow s c).state = .running →
    (shadow s c).job = some j → slot? s (shadow s c).slot = some l → (shadow s c).compared < (shadow s c).count →
    (s.trl.frame - 1 ≠ j.inp.k →
      exec (.shadowEvaluation c) s = .next (updShadow c (fun h => { h with skipped := if h.skipped < 255 then h.skipped + 1 else h.skipped, copy := true, job := none }) s)) ∧
    (s.trl.frame - 1 = j.inp.k → (shadow s c).cand = false →
      let o := evalLaw l.rc (shadowSets (shadow s c) l) (shadow s c).st j.inp
      (o.u = j.liveU ∧ o.st = j.liveSt →
        exec (.shadowEvaluation c) s = .next (updShadow c (fun h => { h with job := none, compared := h.compared + 1, st := o.st }) s)) ∧
      (¬ (o.u = j.liveU ∧ o.st = j.liveSt) →
        Answers (.shadowEvaluation c) s (fun t => (shadow t c).state = .done ∧ (shadow t c).code = 0x0502 ∧
          ∃ l', slot? t (shadow s c).slot = some l' ∧ l'.mode = .fault)))) ∧
  (∀ (c : Fin 16) (s : State), (shadow s c).state = .running → (shadow s c).count ≤ (shadow s c).compared →
    exec (.shadowComplete c) s = .next (updShadow c (fun h => { h with state := .done, code := 0x0500, job := none }) s)) ∧
  (∀ (b : Fin 16) (s : State) x, Tbl.get? s.lpe.bufs b = some x → x.sent = false → 224 ≤ x.samples.length → isRun s .cluster = true →
    Answers (.captureComplete b) s (fun t => Tbl.get? t.lpe.bufs b = some { x with sent := true } ∧
      laneQ t { hc := 4, back := false } = laneQ s { hc := 4, back := false } ++ [.capture b] ∧
      (∀ l, slot? s x.slot = some l → slot? t x.slot = some { l with capBuf := none }))) ∧
  (∀ (b : Fin 16) (s : State) x l, Tbl.get? s.lpe.bufs b = some x → x.arrived = true → slot? s x.slot = some l →
    Answers (.vintnerRetuneFit b) s (fun t => Tbl.get? t.lpe.bufs b = none ∧
      ((Tbl.at l.rt (retuneSet l.rc x) {}).judging = true →
        F64.lt (F64.mul (F64.ofDec 125 2) (Tbl.at l.rt (retuneSet l.rc x) {}).j) (capJ l.rc x) = true →
        ∃ l', slot? t x.slot = some l' ∧ (Tbl.at l'.rt (retuneSet l.rc x) {}).locked = true ∧
          (Tbl.at l'.rt (retuneSet l.rc x) {}).judging = false ∧
          l'.applyWait = some { set := retuneSet l.rc x, kp := (Tbl.at l.rt (retuneSet l.rc x) {}).fbKp, ki := (Tbl.at l.rt (retuneSet l.rc x) {}).fbKi, revert := true }))) ∧
  (∀ (iss : Issuer) (s : State) l c, Permits s iss .lpe 0x030C true → iss.cask = 0 → slot? s s.lpe.rtSlot = some l → l.rc.law = .pid →
    s.lpe.rtSet < l.rc.nreg → (List.range 16).find? (fun c => (shadow s c).state != .running) = some c →
    Answers (.tryRetune iss) s (fun t => t.reply = .code 0x0500 ∧ (shadow t c).state = .running ∧ (shadow t c).cand = true ∧
      (shadow t c).slot = s.lpe.rtSlot ∧ (shadow t c).count = 32 ∧ (shadow t c).set = s.lpe.rtSet ∧ (shadow t c).kp = s.lpe.rtKp ∧
      (shadow t c).ki = s.lpe.rtKi ∧ t.lpe.rtShadow = c ∧ t.lpe.slots = s.lpe.slots)) ∧
  (∀ (iss : Issuer) (s : State) l, Permits s iss .lpe 0x030C true → iss.cask = 0 → slot? s s.lpe.rtSlot = some l → l.rc.law = .pid →
    s.lpe.rtSet < l.rc.nreg →
    let inBounds := gainOk s.lpe.rtKp (setWord (liveSets l) s.lpe.rtSet 0) l.rc.rtMaxChg l.rc.rtKpMin l.rc.rtKpMax &&
      gainOk s.lpe.rtKi (setWord (liveSets l) s.lpe.rtSet 1) l.rc.rtMaxChg l.rc.rtKiMin l.rc.rtKiMax
    (inBounds = false → Answers (.applyRetune iss) s (fun t => t.reply = .code 0x0504 ∧ t.lpe.slots = s.lpe.slots)) ∧
    (inBounds = true → tried s l = false → Answers (.applyRetune iss) s (fun t => t.reply = .code 0x0505 ∧ t.lpe.slots = s.lpe.slots)) ∧
    (inBounds = true → tried s l = true → (if l.rtDay = dayOf s then l.rtCount else 0) < l.rc.rtPerDay →
      (Tbl.at l.rt s.lpe.rtSet {}).locked = false → l.next = none →
      Answers (.applyRetune iss) s (fun t => t.reply = .code 0x0500 ∧ slot? t s.lpe.rtSlot =
        some { l with applyWait := some { set := s.lpe.rtSet, kp := s.lpe.rtKp, ki := s.lpe.rtKi } }))) ∧
  (∀ (iss : Issuer) (s : State) l, Permits s iss .lpe 0x030C true → iss.cask = 0 → slot? s s.lpe.rtSlot = some l → l.next = none →
    (Tbl.at l.rt s.lpe.rtSet {}).retuned = true →
    Answers (.revertRetune iss) s (fun t => t.reply = .code 0x0500 ∧ ∃ l', slot? t s.lpe.rtSlot = some l' ∧
      (Tbl.at l'.rt s.lpe.rtSet {}).locked = true ∧
      l'.applyWait = some { set := s.lpe.rtSet, kp := (Tbl.at l.rt s.lpe.rtSet {}).fbKp, ki := (Tbl.at l.rt s.lpe.rtSet {}).fbKi, revert := true } ∧
      { code := 0x050C, cask := l.rc.cask, data := toLe 2 s.lpe.rtSlot ++ toLe 1 s.lpe.rtSet } ∈ t.arising))

/-- Each sample is stamped with Press's copy of domain 1, and a restored Press books it under that stamp (R212, R224); before
restoration the first 512 are held and no accumulator changes (R258). Eight quiet blocks raise the gain one step with a hand-
over of three further guard samples, whose end returns to the main path (R213, R214). A zero crossing is kept for its phase,
and the first valid phase sets frequency and cycle length (R219). N booked samples against an element's direction turn it,
count it and record it (R226). A phase below V_MIN for 10 cycles takes PHASE_LOSS, and one above for 10 cycles loses it
(R228). Elements without an update for three blocks lose their points (R243). An added element becomes active at its instant
(R245). A converter fault sets the channel's FAULT (R242). -/
def Obligations.PressSamplesAndElements : Prop :=
  (∀ (main guard : List (Nat × Int)) (ref : F64) (s : State), isRun s .press = true →
    (s.prs.restored = true → Answers (.pressSample main guard ref) s (fun t => t.prs.lastStamp = some (localNs s .press 1))) ∧
    (s.prs.restored = false → s.prs.holdFull = false → s.prs.held.length < 512 →
      Answers (.pressSample main guard ref) s (fun t => t.prs.lastStamp = s.prs.lastStamp ∧
        t.prs.held.length = s.prs.held.length + 1 ∧ (∃ c m, { stamp := localNs s .press 1, clipped := c, meas := m } ∈ t.prs.held) ∧
        (∀ n, (elem? t n).map (·.a) = (elem? s n).map (·.a)) ∧ t.prs.total = s.prs.total)) ∧
    (s.prs.restored = false → s.prs.holdFull = true →
      Answers (.pressSample main guard ref) s (fun t => t.prs.held = s.prs.held ∧ t.prs.totalN = s.prs.totalN + 1 ∧
        (∀ n, (elem? t n).map (·.a) = (elem? s n).map (·.a))))) ∧
  (∀ (ch : Fin 48) (s : State), isRun s .press = true → (chan s ch).rc.used = true → (chan s ch).rc.autoGain = true →
    (chan s ch).handing = false → 8 ≤ (chan s ch).quiet → (chan s ch).gain < 3 →
    Answers (.gainStepUp ch) s (fun t => (chan t ch).gain = (chan s ch).gain + 1 ∧ (chan t ch).handing = true ∧ (chan t ch).handLeft = 3 ∧
      (chan t ch).tau = (chan s ch).tau ∧ (∀ d, d ≠ ch.val → chan t d = chan s d) ∧ t.prs.elems = s.prs.elems)) ∧
  (∀ (ch : Fin 48) (s : State), isRun s .press = true → (chan s ch).handing = true → (chan s ch).handLeft = 0 →
    Answers (.handoverEnd ch) s (fun t => (chan t ch).handing = false ∧ (chan t ch).gain = (chan s ch).gain ∧
      (∀ d, d ≠ ch.val → chan t d = chan s d) ∧ t.prs.elems = s.prs.elems)) ∧
  (∀ (sys : Fin 2) (ph : Fin 3) (s : State), isRun s .press = true → (vsys s (sys == 1)).cross.length = 3 →
    Answers (.zeroCrossing sys ph) s (fun t =>
      nthD (vsys t (sys == 1)).cross ph [] = (s.now :: nthD (vsys s (sys == 1)).cross ph []).take 11 ∧
      (∀ k, k ≠ ph.val → nthD (vsys t (sys == 1)).cross k [] = nthD (vsys s (sys == 1)).cross k []) ∧
      vsys t (!(sys == 1)) = vsys s (!(sys == 1)) ∧ t.prs.elems = s.prs.elems ∧
      (let v := { vsys s (sys == 1) with cross := (vsys s (sys == 1)).cross.set ph ((s.now :: nthD (vsys s (sys == 1)).cross ph []).take 11) }
       (∀ f, validPhase v = some (ph.val, f) → (vsys t (sys == 1)).freq = f ∧ (vsys t (sys == 1)).n = cycleLen f) ∧
       (validPhase v = none → (vsys t (sys == 1)).freq = 0 ∧ (vsys t (sys == 1)).n = 160)))) ∧
  (∀ (n : Fin 48) (s : State) e, isRun s .press = true → elem? s n = some e → e.active = true → (vsys s e.rc.sysB).n ≤ e.opp → e.a.dirCnt < 4294967295 →
    Answers (.prsDirChange n) s (fun t => (∃ e', elem? t n = some e' ∧ e'.a.isExport = !e.a.isExport ∧ e'.opp = 0 ∧
      e'.a.dirCnt = e.a.dirCnt + 1 ∧ e'.a.acc = e.a.acc) ∧
      { code := 0x0610, cask := e.rc.cask, data := toLe 1 n ++ toLe 1 (if e.a.isExport then 0 else 1) } ∈ t.arising)) ∧
  (∀ (n : Fin 48) (s : State) e i, isRun s .press = true → elem? s n = some e → i < 3 →
    (bitOf e.phaseLoss i = false → 10 * (vsys s e.rc.sysB).n ≤ nthD e.low i 0 →
      Answers (.prsPhaseLoss n) s (fun t => (∃ e', elem? t n = some e' ∧ bitOf e'.phaseLoss i = true ∧ e'.a.acc = e.a.acc ∧
          bitOf e'.a.win.flags 4 = true) ∧
        { code := 0x0614, cask := e.rc.cask, data := toLe 1 n ++ toLe 1 (2 ^ i) } ∈ t.arising)) ∧
    (bitOf e.phaseLoss i = true → 10 * (vsys s e.rc.sysB).n ≤ nthD e.high i 0 →
      Answers (.prsPhaseLoss n) s (fun t => ∃ e', elem? t n = some e' ∧ bitOf e'.phaseLoss i = false ∧ e'.a.acc = e.a.acc))) ∧
  (∀ (n : Fin 48) (s : State) e, isRun s .trellis = true → elem? s n = some e → e.active = true → e.lost = false →
    e.pubAt + 3 * e.rc.pubMs * 1000000 ≤ s.now →
    (∀ i ∈ elemPoints e, Plain s i) →
    Answers (.pressPointsLost n) s (fun t => elem? t n = some { e with lost := true } ∧
      (∀ i ∈ elemPoints e, ∀ p, pt? s i = some p → ∃ q, pt? t i = some q ∧ q.value = p.subst ∧ q.quality = qSubst) ∧
      (∀ i, i ∉ elemPoints e → pt? t i = pt? s i))) ∧
  (∀ (n : Fin 48) (s : State) e, isRun s .press = true → elem? s n = some e → e.active = false → e.actAt ≠ 0 →
    e.actAt ≤ localNs s .press 1 →
    Answers (.elementActivation n) s (fun t => ∃ e', elem? t n = some e' ∧ e'.active = true ∧ e'.a.win.isOpen = true ∧
      e'.a.win.start ≤ localNs s .press 1 ∧ e'.a.acc = e.a.acc ∧ e'.rc = e.rc)) ∧
  (∀ (ch : Fin 54) (p : Bool) (s : State), isRun s .press = true → (chan s ch).fault ≠ p →
    Answers (.pressConverterFault ch p) s (fun t => (chan t ch).fault = p ∧ ∀ d, d ≠ ch.val → chan t d = chan s d))

/-- An owed pulse starts at its instant once the off time has passed, is counted, and leaves the list of those owed (R238); its
end begins an off time of WIDTH_US (R236); none starts during a VIN-fail warning (R256). In direction mode only pulses of the
direction shown start (R240). PRS_MD_RESET of a defined element waits for the next sample, else PRS_NO_ELEMENT (R232). PUSH
queues a switch; one not later than the last or than the time is PRS_TRF_ORDER, a seventeenth PRS_TRF_FULL; CLEAR drops all
(R235). PRS_ACC_SEL requests a snapshot; another cask's element answers with DENIED, CASK_DENIED and no value, an absent one
with UNDEF (R40, R250); between two samples the words take the accumulators' integer parts. The abort ends snapshots with
ABORTED and stops tasting (R248). -/
def Obligations.PressPulsesTariffsAndSnapshots : Prop :=
  (∀ (n : Fin 8) (s : State) x rest, isRun s .press = true → (pulse s n).on = false → (pulse s n).owed = x :: rest →
    (s.pwr.warn = true → exec (.pulseStart n) s = .next s) ∧
    (s.pwr.warn = false → (pulse s n).rc.mode = 1 → x.2 ≤ s.now → (pulse s n).until0 ≤ s.now →
      Answers (.pulseStart n) s (fun t => (∀ d, d ≠ n.val → pulse t d = pulse s d) ∧ t.prs.elems = s.prs.elems ∧
        pulse t n = { pulse s n with on := true, until0 := s.now + (pulse s n).rc.widthUs * 1000, count := ((pulse s n).count + 1) % 2 ^ 32, owed := rest })) ∧
    (s.pwr.warn = false → (pulse s n).rc.mode = 1 → (s.now < x.2 ∨ s.now < (pulse s n).until0) →
      Answers (.pulseStart n) s (fun t => ∀ d, pulse t d = pulse s d)) ∧
    (s.pwr.warn = false → (pulse s n).rc.mode = 2 → 0 < s.now → 0 < (pulse s n).rc.widthUs → (∀ y ∈ (pulse s n).owed, y.1 ≠ (pulse s n).dirExport) →
      Answers (.pulseStart n) s (fun t => (pulse t n).on = false ∧ (pulse t n).dirExport = !(pulse s n).dirExport ∧
        (pulse t n).dirAt = s.now ∧ (pulse t n).owed = (pulse s n).owed))) ∧
  (∀ (n : Fin 8) (s : State), (pulse s n).on = true → (pulse s n).until0 ≤ s.now →
    Answers (.pulseEnd n) s (fun t => (pulse t n).on = false ∧ (pulse t n).until0 = s.now + (pulse s n).rc.widthUs * 1000 ∧
      (pulse t n).count = (pulse s n).count ∧ (pulse t n).owed = (pulse s n).owed ∧ ∀ d, d ≠ n.val → pulse t d = pulse s d)) ∧
  (∀ (iss : Issuer) (n : Fin 64) (s : State), Permits s iss .prs 0x0010 true → iss.cask = 0 → isRun s .press = true →
    (∀ e, elem? s n = some e → Answers (.mdReset iss n) s (fun t => elem? t n = some { e with mdReset := true } ∧
      t.reply = .code 0x0600 ∧ ∀ d, d ≠ n.val → elem? t d = elem? s d)) ∧
    (elem? s n = none → Answers (.mdReset iss n) s (fun t => t.prs.elems = s.prs.elems ∧ t.reply = .code 0x0603))) ∧
  (∀ (iss : Issuer) (g : Fin 4) (k : Fin 8) (s : State), Permits s iss .prs (0x0608 + 16 * g.val) true → iss.cask = 0 → isRun s .press = true →
    let at0 := (tariff s g).atLo.toNat + 2 ^ 32 * (tariff s g).atHi.toNat
    let ordered : Prop := localNs s .press 1 < at0 ∧ ∀ x, (tariff s g).queue.getLast? = some x → x.1 < at0
    (ordered → (tariff s g).queue.length < 16 → Answers (.tariffPush iss g k) s (fun t => t.reply = .code 0x0600 ∧
      tariff t g = { tariff s g with queue := (tariff s g).queue ++ [(at0, k.val)] } ∧ ∀ d, d ≠ g.val → tariff t d = tariff s d)) ∧
    (ordered → 16 ≤ (tariff s g).queue.length →
      Answers (.tariffPush iss g k) s (fun t => t.reply = .code 0x0602 ∧ t.prs.tariffs = s.prs.tariffs)) ∧
    (¬ ordered → Answers (.tariffPush iss g k) s (fun t => t.reply = .code 0x0601 ∧ t.prs.tariffs = s.prs.tariffs)) ∧
    (Answers (.tariffClear iss g) s (fun t => t.reply = .code 0x0600 ∧ tariff t g = { tariff s g with queue := [] } ∧
      ∀ d, d ≠ g.val → tariff t d = tariff s d))) ∧
  (∀ (iss : Issuer) (n : Fin 64) (s : State), Permits s iss .prs 0x0300 true →
    (∀ e, elem? s n = some e → (iss.cask = 0 ∨ iss.cask.val = e.rc.cask) → isRun s .press = true →
      Answers (.accumulatorSnapshot iss n) s (fun t => snapBank t iss.cask =
        { snapBank s iss.cask with sel := n, busy := true, denied := false, undef := false, aborted := false } ∧ t.prs.elems = s.prs.elems)) ∧
    (∀ e, elem? s n = some e → iss.cask ≠ 0 → iss.cask.val ≠ e.rc.cask →
      Answers (.accumulatorSnapshot iss n) s (fun t => snapBank t iss.cask = { sel := n, denied := true } ∧ t.prs.elems = s.prs.elems ∧
        { code := 0x0220, cask := iss.cask, data := d1 5 ++ d1 6 ++ d4 n ++ d1 e.rc.cask ++ d2 0x0300 ++ List.replicate 5 0 } ∈ t.arising)) ∧
    (elem? s n = none → Answers (.accumulatorSnapshot iss n) s (fun t => snapBank t iss.cask = { sel := n, undef := true } ∧
      t.prs.elems = s.prs.elems))) ∧
  (∀ (c : Fin 63) (s : State) e, (snapBank s c).busy = true → isRun s .press = true → elem? s (snapBank s c).sel = some e →
    Answers (.snapshotComplete c) s (fun t => t.prs.elems = s.prs.elems ∧ (snapBank t c).busy = false ∧
      (∀ i, i < 26 → (snapBank t c).words[i]? = some (nthD e.a.acc i 0 / 2 ^ 32)) ∧
      (snapBank t c).words[26]? = some e.a.last.start ∧ (snapBank t c).words[27]? = some (e.a.last.imp / 2 ^ 32) ∧
      (snapBank t c).words[28]? = some (e.a.last.exp / 2 ^ 32) ∧ (snapBank t c).words[30]? = some e.a.mdImp ∧
      (snapBank t c).words[32]? = some e.a.mdStart ∧ ∀ d, d ≠ c.val → snapBank t d = snapBank s d)) ∧
  (∀ (iss : Issuer) (s : State), Permits s iss .sys 0x0030 true → iss.cask = 0 → isRun s .press = true →
    Answers (.pressAbort iss) s (fun t => (∀ c, (snapBank t c).busy = false ∧ ((snapBank s c).busy = true → (snapBank t c).aborted = true)) ∧
      t.prs.taste.state = .idle ∧ t.prs.taste.run = false ∧ t.prs.elems = s.prs.elems ∧ { code := 0x0619, data := [] } ∈ t.arising))

/-- Once in a second of domain 1 a copy of Press's state begins to be written to the bank that does not hold the newest valid
record (R251, R252). Its commit makes that bank valid with the next sequence number; a bank that fails its read-back is
invalid and PRS_SAVE_FAIL is recorded (R253, R254). The final-save command stops the tasting run and writes a copy over the
bank of a periodic save in progress (R255). With 512 samples held no more are (R258). Restoration takes the newer bank's
tariffs, books the held samples and leaves none held. A dark system starts a watch on its active elements (R262); each second
is counted (R263); a watch ends on voltage or at RUN with PRS_WATCH_END (R264); a low VMB loses an unmeasured watch and the
retained record (R265). A complete good run moves its factor by one eighth of rho - 1 within 0.995 to 1.005 (R269); one off by
more than 0.002 is rejected, the third in a row with PRS_TASTE_FAULT (R270). START rotates, SINGLE of an unused channel is
PRS_TST_STATE, STOP discards the run (R271); a reference off by more than 200 ppm halts it (R267). -/
def Obligations.PressSavesWatchAndTasting : Prop :=
  (∀ (s : State), isRun s .press = true → s.prs.restored = true → s.prs.saving = none →
    (s.prs.savedSec ≠ some (localNs s .press 1 / 1000000000) →
      Answers .periodicSave s (fun t => ∃ v, t.prs.saving = some v ∧ v.final = false ∧ v.data = saveCopy s ∧
        v.bankB = (if (newestBank s).isSome then !newestB s else false) ∧ t.prs.bankA = s.prs.bankA ∧ t.prs.bankB = s.prs.bankB ∧
        t.prs.savedSec = some (localNs s .press 1 / 1000000000))) ∧
    (s.prs.savedSec = some (localNs s .press 1 / 1000000000) → exec .periodicSave s = .next s)) ∧
  (∀ (s : State) v, s.prs.saving = some v →
    Answers (.saveCommit true) s (fun t => t.prs.saving = none ∧
      (if v.bankB then t.prs.bankB else t.prs.bankA) = { valid := true, seq := (((newestBank s).map (·.seq)).getD 0 + 1) % 2 ^ 32, stamp := v.stamp, final := v.final, data := v.data } ∧
      (if v.bankB then t.prs.bankA = s.prs.bankA else t.prs.bankB = s.prs.bankB) ∧
      t.prs.ret.tag = (((newestBank s).map (·.seq)).getD 0 + 1) % 2 ^ 32 ∧ t.prs.ret.samples = s.prs.ret.samples - v.ret.samples) ∧
    Answers (.saveCommit false) s (fun t => t.prs.saving = none ∧ (if v.bankB then t.prs.bankB.valid else t.prs.bankA.valid) = false ∧
      t.prs.ret = s.prs.ret ∧ { code := 0x061A, data := toLe 1 (if v.bankB then 1 else 0) } ∈ t.arising)) ∧
  (∀ (s : State), isRun s .press = true → s.prs.restored = true →
    Answers .finalSaveCommand s (fun t => t.prs.taste.run = false ∧ t.prs.elems = s.prs.elems ∧ ∃ v, t.prs.saving = some v ∧ v.final = true ∧ v.data = saveCopy s ∧
      ∀ w, s.prs.saving = some w → v.bankB = w.bankB)) ∧
  (∀ (s : State), isRun s .press = true → s.prs.restored = false → 512 ≤ s.prs.held.length →
    exec .pressHoldFull s = .next { s with prs.holdFull := true }) ∧
  (∀ (s : State), isRun s .press = true → s.prs.restored = false →
    Answers .pressRestoreComplete s (fun t => t.prs.restored = true ∧ t.prs.held = [] ∧ t.prs.holdFull = false ∧ t.prs.total = [] ∧
      t.prs.totalN = 0 ∧ t.prs.ret.valid = true ∧
      (∀ b, newestBank s = some b → s.prs.held = [] → t.prs.tariffs = b.data.tariffs ∧ t.prs.lastFinal = b.final ∧
        t.prs.ret.tag = b.seq ∧ t.prs.ret.samples = 0))) ∧
  (∀ (s : State) n e, isRun s .press = true → elem? s n = some e → (∀ x ∈ s.prs.elems, x.1 = n → x.2 = e) → e.active = true → e.watch = none →
    10 * (vsys s e.rc.sysB).n ≤ (vsys s e.rc.sysB).dark →
    Answers .prsWatchStart s (fun t => (∃ e', elem? t n = some e' ∧ e'.watch = some {} ∧ e'.suspect = false ∧ e'.a = e.a) ∧
      { code := 0x061E, cask := e.rc.cask, data := toLe 1 n } ∈ t.arising)) ∧
  (∀ (irms : List (Nat × F64)) (s : State) n e w, elem? s n = some e → e.watch = some w → s.prs.watchAt + 1000000000 ≤ s.now →
    Answers (.watchSecond irms) s (fun t => t.prs.watchAt = s.prs.watchAt + 1000000000 ∧
      ∃ e' w', elem? t n = some e' ∧ e'.watch = some w' ∧ w'.secs = w.secs + 1 ∧ w'.unmeasured = w.unmeasured ∧
        w.heavy ≤ w'.heavy ∧ w'.heavy ≤ w.heavy + 1 ∧ (w.suspect = true → w'.suspect = true) ∧
        (w.unmeasured = false → 10 ≤ w'.heavy → w'.suspect = true) ∧ e'.a = e.a)) ∧
  (∀ (s : State) n e w, isRun s .press = true → elem? s n = some e → e.watch = some w →
    (w.unmeasured = true ∨ 10 * (vsys s e.rc.sysB).n ≤ (vsys s e.rc.sysB).lit) →
    Answers .prsWatchEnd s (fun t => (∃ e', elem? t n = some e' ∧ e'.watch = none ∧ e'.suspect = e.suspect) ∧
      { code := 0x061F, cask := e.rc.cask, data := watchData n w } ∈ t.arising)) ∧
  (∀ (mv : Nat) (s : State) n e w, mv < 3000 → (n, e) ∈ s.prs.elems → e.watch = some w → w.unmeasured = true →
    Answers (.prsWatchLost mv) s (fun t => t.prs.ret = {} ∧ t.prs.lostTell = true ∧ ∀ x ∈ t.prs.elems, x.2.watch = none)) ∧
  (∀ (z c : Int) (s : State), isRun s .press = true → s.prs.taste.run = true → 16000 ≤ s.prs.taste.n → s.prs.taste.ok = true →
    F64.lt (rootMean s.prs.taste.sumXx 16000) (F64.mul (F64.ofDec 5 2) (F64.div (F64.ofInt 1) (F64.ofInt (4 ^ s.prs.taste.gain : Nat)))) = false →
    let rho := F64.div s.prs.taste.sumRy s.prs.taste.sumYy
    let ch := s.prs.taste.ch
    let g := s.prs.taste.gain
    let off := F64.lt (F64.ofDec 2 3) (F64.abs (F64.sub rho (F64.ofInt 1)))
    (off = false → g < (chan s ch).tau.length →
      Answers (.tastingRunComplete z c) s (fun t => (chan t ch).rejected = 0 ∧
        (chan t ch).tau[g]? = some (lim (F64.mul (nthD (chan s ch).tau g (F64.ofInt 1)) (F64.add (F64.ofInt 1) (F64.div (F64.sub rho (F64.ofInt 1)) (F64.ofInt 8)))) (F64.ofDec 995 3) (F64.ofDec 1005 3)))) ∧
    (off = true → Answers (.tastingRunComplete z c) s (fun t => (chan t ch).rejected = (chan s ch).rejected + 1 ∧ (chan t ch).tau = (chan s ch).tau ∧
        (2 ≤ (chan s ch).rejected → (chan t ch).tasteFault = true ∧
          ((chan s ch).tasteFault = false → { code := 0x0621, data := toLe 1 ch } ∈ t.arising))))) ∧
  (∀ (iss : Issuer) (z c : Int) (s : State), Permits s iss .prs 0x0810 true → iss.cask = 0 → isRun s .press = true →
    (∀ k, nextTaste s s.prs.taste.ch = some k → refBad z c = false →
      Answers (.tastingStart iss z c) s (fun t => t.prs.taste.state = .rotation ∧ t.prs.taste.run = true ∧ t.prs.taste.n = 0 ∧
        t.prs.taste.ch = k ∧ t.reply = .code 0x0600)) ∧
    (∀ k, nextTaste s s.prs.taste.ch = some k → refBad z c = true →
      Answers (.tastingStart iss z c) s (fun t => t.prs.taste.state = .halted ∧ t.prs.taste.run = false ∧ t.prs.taste.code = 0x0623 ∧
        { code := 0x0623, data := toLe 1 k } ∈ t.arising)) ∧
    (∀ k : Fin 64, k.val < 54 → (chan s k).rc.used = true → refBad z c = false →
      Answers (.tastingSingle iss k z c) s (fun t => t.prs.taste.state = .single ∧ t.prs.taste.run = true ∧ t.prs.taste.n = 0 ∧
        t.prs.taste.ch = k.val ∧ t.reply = .code 0x0600)) ∧
    (∀ k : Fin 64, (54 ≤ k.val ∨ (chan s k).rc.used = false) →
      Answers (.tastingSingle iss k z c) s (fun t => t.prs.taste.state = s.prs.taste.state ∧ t.prs.taste.run = s.prs.taste.run ∧
        t.prs.taste.code = 0x0604 ∧ t.reply = .code 0x0604)) ∧
    Answers (.tastingStop iss) s (fun t => t.prs.taste.state = .idle ∧ t.prs.taste.run = false ∧ t.prs.chans = s.prs.chans ∧
      t.reply = .code 0x0600))

/-- A due sample takes each input outside a blanking window: a level seen twice in a row is confirmed, another only noted (R277,
R279); a function of Table 9.2 with an input off is neither ARMED nor RUN. A passed discrepancy or INTERMEDIATE time puts the
function in FAULT with its cause (R282, R285); the synchronous window's end blocks a waiting two-hand control (R285); a fault
clears to STOPPED. A test pulse drops once per period (R278); an input of the pulse that reads high in it faults its function
(R279). A clock outside 8 MHz +-15 %, a wrong window or a failed self-test is a channel fault that starts the degraded timer
of each pair in use (R298, R299). Request-off removes a pair's energy and asks for its reset (R292, R293); wrong feedback is
FAULT (R288). A failed switch test marks the switch stuck and degrades the pair, a second one of the same output faults it
(R289); expiry locks the pair out (R299); a stopped channel locks out every pair (R273). -/
def Obligations.SafetySamplesFunctionsAndPairs : Prop :=
  (∀ (c : SafChan) (si fb : List Nat) (s : State), chRuns s c = true →
    Answers (match c with | .sp => .spSample si fb | .sl => .slSample si fb) s (fun t =>
      ((safCh s c).nextAt ≤ s.now →
        (safCh t c).nextAt = s.now + (match c with | .sp => 2000000 | .sl => 1700000) ∧
        (∀ i, i < 16 → blankEnd s i = none →
          confOf t c i = if (Tbl.at (safCh s c).ins i {}).last = some (safLevel si i) then some (safLevel si i) else confOf s c i)) ∧
      (∀ i, i < 16 → blankEnd s i ≠ none → confOf t c i = confOf s c i) ∧
      (∀ f ∈ safFuncs s, (∀ g ∈ safFuncs s, g.func = f.func → g = f) → f.type ≠ 3 →
        ((onStates t c f).1 = some false ∨ (onStates t c f).2 = some false) →
        (fnm t c f.func).st ≠ .run ∧ (fnm t c f.func).st ≠ .armed) ∧
      (safCh t (otherCh c)).ins = (safCh s (otherCh c)).ins ∧ t.saf.acc = s.saf.acc)) ∧
  (∀ (c : SafChan) (n : Fin 8) (s : State) f, safFunc? s n = some f → chRuns s c = true →
    (f.type ≠ 3 → (fnm s c n).st = .stopped → discLate s.now (discNs f) (fnm s c n) = true →
      Answers (.discrepancyTimeout c n) s (fun t => (fnm t c n).st = .fault ∧ (∀ k, k ≠ n.val → fnm t c k = fnm s c k) ∧
        ((fnm s (otherCh c) n).st ≠ .fault → Tbl.at t.saf.causes n 0 = 1))) ∧
    (f.type = 3 → (fnm s c n).st ≠ .fault → interLate s.now (discNs f) (fnm s c n) = true →
      Answers (.intermediateTimeout c n) s (fun t => (fnm t c n).st = .fault ∧ (∀ k, k ≠ n.val → fnm t c k = fnm s c k) ∧
        ((fnm s (otherCh c) n).st ≠ .fault → Tbl.at t.saf.causes n 0 = 3))) ∧
    ((fnm s c n).st = .wait → (fnm s c n).winAt + 500000000 ≤ s.now →
      exec (.syncWindowEnd c n) s = .next (setFnm c n { fnm s c n with st := .blocked } s)) ∧
    ((fnm s c n).st = .fault → faultCleared s c f (fnm s c n) = true →
      Answers (.functionFaultClear c n) s (fun t => (fnm t c n).st = .stopped ∧ (∀ k, k ≠ n.val → fnm t c k = fnm s c k) ∧
        t.saf.pairs = s.saf.pairs))) ∧
  (∀ (p : Fin 4) (s : State), chRuns s .sp = true → Tbl.at s.saf.tpPeriod p 0 < tpPeriodNow s p →
    Answers (.testPulseDrop p) s (fun t => tpLow t p = true ∧ Tbl.at t.saf.tpChecked p true = false ∧ t.saf.pairs = s.saf.pairs ∧
      exec (.testPulseDrop p) t = .next t)) ∧
  (∀ (p : Fin 4) (sp sl : List Nat) (s : State) f, s.saf.powered = true → Tbl.at s.saf.tpChecked p true = false →
    Tbl.at s.saf.tpAt p 0 + 300000 ≤ s.now → s.now < Tbl.at s.saf.tpAt p 0 + 1000000 →
    f ∈ safFuncs s → needsTp f.type = true → (f.tp1 = p.val ∧ (safLevel sp (2 * f.pairA) = true) ∨ f.tp2 = p.val ∧ safLevel sp (2 * f.pairA + 1) = true) →
    (safCh s .sp).on = true →
    Answers (.tpCheckSample p sp sl) s (fun t => (fnm t .sp f.func).st = .fault ∧ Tbl.at t.saf.tpChecked p false = true)) ∧
  (∀ (khz : Nat) (s : State), chRuns s .sp = true → chRuns s .sl = true →
    (6800 ≤ khz ∧ khz ≤ 9200 → Answers (.crossLinkExchange khz) s (fun t => t.saf.exchAt = s.now ∧ t.saf.sl.ok = true)) ∧
    (¬ (6800 ≤ khz ∧ khz ≤ 9200) → s.saf.sl.ok = true →
      Answers (.crossLinkExchange khz) s (fun t => t.saf.exchAt = s.now ∧ t.saf.sl.ok = false ∧
        ∀ n o, n < 4 → safOut? s n = some o → ((safPair s n).mode = .on ∨ (safPair s n).mode = .off) → (safPair s n).degEnd = none →
          (safPair t n).degEnd = some (s.now + degNs o)))) ∧
  (∀ (s : State), chRuns s .sp = true → s.saf.sp.ok = true →
    (chRuns s .sl = true → (s.now < s.saf.exchAt + 1500000 ∨ s.saf.exchAt + 2500000 ≤ s.now) →
      Answers .safetyWindowWatchdog s (fun t => t.saf.sp.ok = false ∧ { code := 0x0717, data := [0, 3] } ∈ t.arising)) ∧
    Answers (.safetySelfTest false) s (fun t => t.saf.sp.ok = false ∧ { code := 0x0717, data := [0, 1] } ∈ t.arising ∧
      ∀ n o, n < 4 → safOut? s n = some o → ((safPair s n).mode = .on ∨ (safPair s n).mode = .off) → (safPair s n).degEnd = none →
          (safPair t n).degEnd = some (s.now + degNs o)) ∧
    exec (.safetySelfTest true) s = .next s) ∧
  (∀ (n : Fin 4) (s : State) o, (chRuns s .sp = true ∨ chRuns s .sl = true) → safOut? s n = some o → reqOffNow s n o = true →
    (safPair s n).mode = .on →
    Answers (.requestOff n) s (fun t => (safPair t n).mode ≠ .on ∧ (safPair t n).reqOff = true ∧ (safPair t n).gone = true ∧
      (hasReset s n = true → (safPair t n).needReset = true) ∧ ∀ k, k ≠ n.val → safPair t k = safPair s k)) ∧
  (∀ (n : Fin 4) (s : State), s.saf.powered = true → fbWrong s.now (safPair s n) = true →
    Answers (.fbTimeout n) s (fun t => (safPair t n).mode = .fault ∧ ∀ k, k ≠ n.val → safPair t k = safPair s k)) ∧
  (∀ (n : Fin 4) (s : State) o, s.saf.powered = true → safOut? s n = some o → ((safPair s n).mode = .on ∨ (safPair s n).mode = .off) →
    ((safPair s n).stuck = 0 → (safPair s n).turn < 4 → (safPair s n).degEnd = none →
      Answers (.switchTest n false) s (fun t => (safPair t n).stuck = 2 ^ (safPair s n).turn ∧ (safPair t n).turn = ((safPair s n).turn + 1) % 4 ∧
        (safPair t n).mode = (safPair s n).mode ∧ (safPair t n).degEnd = some (s.now + degNs o))) ∧
    ((safPair s n).stuck = 1 → (safPair s n).turn = 1 →
      Answers (.switchTest n false) s (fun t => (safPair t n).stuck = 3 ∧ (safPair t n).mode = .fault ∧ (safPair t n).lockAfter = true)) ∧
    ((safPair s n).stuck = 1 → (safPair s n).turn = 0 →
      Answers (.switchTest n true) s (fun t => (safPair t n).stuck = 0 ∧ (safPair t n).mode = (safPair s n).mode ∧ (safPair t n).turn = 1)) ∧
    (∀ e, (safPair s n).degEnd = some e → e ≤ s.now →
      Answers (.degradedTimerExpiry n) s (fun t => (safPair t n).mode = .lockout ∧ (safPair t n).degEnd = none ∧
        ∀ k, k ≠ n.val → safPair t k = safPair s k))) ∧
  (∀ (c : SafChan) (s : State), chRuns s c = true →
    Answers (.safetyChannelStop c) s (fun t => (safCh t c).on = false ∧ safCh t (otherCh c) = safCh s (otherCh c) ∧
      ∀ n o, n < 4 → safOut? s n = some o → (safPair s n).mode ≠ .unused → (safPair t n).mode = .lockout)) ∧
  (∀ (c : SafChan) (s : State), s.saf.powered = true →
    Answers (.safetyChannelRestart c) s (fun t => (safCh t c).on = true ∧ (safCh t c).ok = true ∧ (∀ i, confOf t c i = none) ∧
      (∀ f ∈ safFuncs s, (fnm t c f.func).st = .stopped) ∧ safCh t (otherCh c) = safCh s (otherCh c) ∧
      ∀ n o, n < 4 → safOut? s n = some o → (safPair t n).mode ≠ .on))

/-- After a sample of either channel, a check sample, an exchange, a discrepancy or INTERMEDIATE timeout that faults, or a
channel's restart, every output pair in use that is ON has the permit of both channels, a permit meaning that the channel runs
and every function driving the pair is in RUN there, and no request-off is in force for it (R272, R274, R288, R292). With a
stopped channel no pair in use is ON after such a command. -/
def Obligations.EnergisedPairsHavePermits : Prop :=
  ∀ (c : Instr) (s t : State),
    ((∃ si fb, c = .spSample si fb ∧ chRuns s .sp = true) ∨ (∃ si fb, c = .slSample si fb ∧ chRuns s .sl = true) ∨
     (∃ k, c = .crossLinkExchange k ∧ chRuns s .sp = true ∧ chRuns s .sl = true) ∨
     (∃ ch, c = .safetyChannelRestart ch ∧ s.saf.powered = true) ∨
     (∃ ch n f, c = .discrepancyTimeout ch n ∧ chRuns s ch = true ∧ safFunc? s n = some f ∧ f.type ≠ 3 ∧ (fnm s ch n).st = .stopped ∧
        discLate s.now (discNs f) (fnm s ch n) = true) ∨
     (∃ ch n f, c = .intermediateTimeout ch n ∧ chRuns s ch = true ∧ safFunc? s n = some f ∧ f.type = 3 ∧ (fnm s ch n).st ≠ .fault ∧
        interLate s.now (discNs f) (fnm s ch n) = true) ∨
     (∃ p a b, c = .tpCheckSample p a b ∧ s.saf.powered = true ∧ Tbl.at s.saf.tpChecked p true = false ∧
        Tbl.at s.saf.tpAt p 0 + 300000 ≤ s.now ∧ s.now < Tbl.at s.saf.tpAt p 0 + 1000000)) →
    exec c s = .next t →
    ∀ n o, n < 4 → safOut? t n = some o → (safPair t n).mode = .on →
      permit t .sp n = true ∧ permit t .sl n = true ∧ reqOffNow t n o = false ∧
      (safCh t .sp).on = true ∧ (safCh t .sl).on = true ∧
      ∀ f ∈ safFuncs t, bitOf f.outMask n = true → (fnm t .sp f.func).st = .run ∧ (fnm t .sl f.func).st = .run

/-- A supply of 9.0 V for 10 ms starts both channels with every function in STOPPED, each used pair OFF or in the LOCKOUT it had;
below 7.5 V everything is off (R478, R275). A delivered map only fills the pending store (R303). OPEN with the right password
opens a session and clears the count; a wrong one counts and leaves it closed; with three wrong it answers SAF_PW_BLOCKED
(R304). With SAF_CFG_N high a message answers SAF_NO_KEYSWITCH (R302). In a session: a wrong digest, a map that fails R301 and
a pair in use that would change are refused; an accepted map replaces the map and its changed functions enter STOPPED (R303);
RESET_LOCKOUT frees a pair unless its fault is still there (R299); READ_LOG answers up to 32 entries; a password of bad format
is refused; CLOSE ends it. Ten minutes without a message, the key's release and the abort line end it (R302, R38, R294). The
status report refreshes the mirror, which goes stale after 300 ms (R306). -/
def Obligations.SafetySupplyMapsAndSessions : Prop :=
  (∀ (mv us : Nat) (s : State), s.saf.powered = false → 9000 ≤ mv → 10000 ≤ us →
    Answers (.safetySupplyStart mv us) s (fun t => t.saf.powered = true ∧ t.saf.sp.on = true ∧ t.saf.sl.on = true ∧ t.saf.startAt = s.now ∧
      (∀ c, ∀ f ∈ safFuncs s, (fnm t c f.func).st = .stopped) ∧
      (∀ n, n < 4 → (safOut? s n = none → (safPair t n).mode = .unused) ∧
        (safOut? s n ≠ none → (safPair t n).mode = (if (safPair s n).mode = .lockout ∨ (safPair s n).lockAfter = true then .lockout else .off)) ∧
        (safPair t n).degEnd = (safPair s n).degKept.map (fun r => s.now + r)) ∧ t.saf.acc = s.saf.acc)) ∧
  (∀ (mv : Nat) (s : State), s.saf.powered = true → mv < 7500 →
    Answers (.safetySupplyStop mv) s (fun t => t.saf.powered = false ∧ t.saf.sp.on = false ∧ t.saf.sl.on = false ∧ t.saf.session = false ∧
      (∀ n o, outOn t n o = false) ∧ t.saf.acc = s.saf.acc ∧ t.saf.log = s.saf.log)) ∧
  (∀ (b : List Byte) (s : State), s.saf.mapLane = some b →
    Answers .pendingMapDelivery s (fun t => t.saf.mapLane = none ∧ t.saf.acc = s.saf.acc ∧ t.saf.sp = s.saf.sp ∧ t.saf.sl = s.saf.sl ∧
      t.saf.pairs = s.saf.pairs ∧ t.saf.pend = (match s.saf.acc with
        | some a => if a.digest = (safMapOf b).digest then none else some (safMapOf b) | none => some (safMapOf b)))) ∧
  (∀ (pw : List Byte) (tm : DWord) (s : State), s.saf.powered = true →
    (s.saf.keyLow = false → exec (.openSession pw tm) s = .next { s with reply := .code 0x0701 }) ∧
    (s.saf.keyLow = true → s.saf.session = false → 3 ≤ s.saf.pwFails →
      Answers (.openSession pw tm) s (fun t => t.saf.session = false ∧ t.saf.pwFails = s.saf.pwFails ∧ t.reply = .code 0x0703)) ∧
    (s.saf.keyLow = true → s.saf.session = false → s.saf.pwFails < 3 → pwRight s pw = true →
      Answers (.openSession pw tm) s (fun t => t.saf.session = true ∧ t.saf.pwFails = 0 ∧ t.saf.lastMsg = s.now ∧ t.reply = .code 0x0700)) ∧
    (s.saf.keyLow = true → s.saf.session = false → s.saf.pwFails < 3 → pwRight s pw = false →
      Answers (.openSession pw tm) s (fun t => t.saf.session = false ∧ t.saf.pwFails = s.saf.pwFails + 1 ∧ t.reply = .code 0x0702)) ∧
    (s.saf.keyLow = true → s.saf.session = true →
      Answers (.openSession pw tm) s (fun t => t.saf.session = true ∧ t.reply = .code 0x070A))) ∧
  (∀ (s : State) h, s.saf.powered = true → s.saf.keyLow = true → s.saf.session = true → s.saf.pwHash = some h →
    (∀ m, s.saf.pend = some m → Answers .showPending s (fun t => t.reply = .bytes (toLe 4 m.vintage.toNat ++ padTo 4 (m.digest.take 4)) ∧
      t.saf.pend = s.saf.pend ∧ t.saf.lastMsg = s.now)) ∧
    (s.saf.pend = none → Answers .showPending s (fun t => t.reply = .code 0x0704)) ∧
    (∀ d, s.saf.pend = none → Answers (.acceptMap d) s (fun t => t.saf.acc = s.saf.acc ∧ t.reply = .code 0x0704)) ∧
    (∀ m d, s.saf.pend = some m → d ≠ padTo 4 (m.digest.take 4) →
      Answers (.acceptMap d) s (fun t => t.saf.acc = s.saf.acc ∧ t.saf.pend = s.saf.pend ∧ t.reply = .code 0x0705)) ∧
    (∀ m, s.saf.pend = some m → mapOk m = false →
      Answers (.acceptMap (padTo 4 (m.digest.take 4))) s (fun t => t.saf.acc = s.saf.acc ∧ t.saf.pend = s.saf.pend ∧ t.reply = .code 0x0707)) ∧
    (∀ m, s.saf.pend = some m → mapOk m = true → s.sys.variant = .ms → (∃ n ∈ changedPairs s m, pairIdle (safPair s n) = false) →
      Answers (.acceptMap (padTo 4 (m.digest.take 4))) s (fun t => t.saf.acc = s.saf.acc ∧ t.saf.pend = s.saf.pend ∧ t.reply = .code 0x0706)) ∧
    (∀ m, s.saf.pend = some m → mapOk m = true → s.sys.variant = .ms → (∀ n ∈ changedPairs s m, pairIdle (safPair s n) = true) →
      Answers (.acceptMap (padTo 4 (m.digest.take 4))) s (fun t => t.saf.acc = some m ∧ t.saf.pend = none ∧ t.reply = .code 0x0700 ∧
        (∀ c, ∀ f ∈ usedFuncs m, f.func ∈ changedFuncs s m → (fnm t c f.func).st = .stopped))) ∧
    (∀ o n, pwRight s o = true → pwFormat n = true → Answers (.setPassword o n) s (fun t => t.saf.pwHash = some (pwHashOf t.saf.salt n) ∧
      t.saf.salt.length = 16 ∧ t.reply = .code 0x0700)) ∧
    (∀ o n, (pwRight s o = false ∨ pwFormat n = false) → Answers (.setPassword o n) s (fun t => t.saf.pwHash = s.saf.pwHash ∧ t.reply = .code 0x0702)) ∧
    (∀ n : Fin 4, lockoutActs s n = true → faultPresent s n = false →
      Answers (.resetLockout n) s (fun t => (safPair t n).mode = .off ∧ (safPair t n).degEnd = none ∧ t.reply = .code 0x0700 ∧
        ∀ k, k ≠ n.val → safPair t k = safPair s k)) ∧
    (∀ n : Fin 4, lockoutActs s n = true → faultPresent s n = true →
      Answers (.resetLockout n) s (fun t => t.saf.pairs = s.saf.pairs ∧ t.reply = .code 0x0708)) ∧
    (∀ k, Answers (.readLog k) s (fun t => t.saf.log = s.saf.log ∧
      t.reply = .bytes (((s.saf.log.filter (fun e => k ≤ e.seq)).take 32).flatMap logBytes))) ∧
    Answers .closeSession s (fun t => t.saf.session = false ∧ t.reply = .code 0x0700)) ∧
  (∀ (s : State), s.saf.powered = true → s.saf.session = true → s.saf.lastMsg + 600000000000 ≤ s.now →
    Answers .safTimeout s (fun t => t.saf = { s.saf with session := false } ∧ { code := 0x070B, data := [] } ∈ t.arising)) ∧
  (∀ (mv : Nat) (s : State),
    (5000 ≤ mv → exec (.keyswitchRelease mv) s = .next { s with saf.keyLow := false, saf.session := false }) ∧
    (mv < 5000 → exec (.keyswitchEngage mv) s = .next { s with saf.keyLow := true })) ∧
  (∀ (s : State), 3 ≤ s.saf.pwFails → s.saf.blockTill ≤ s.now → exec .pwBlockExpiry s = .next { s with saf.pwFails := 0 }) ∧
  (∀ (iss : Issuer) (s : State), Permits s iss .sys 0x0030 true → iss.cask = 0 →
    Answers (.safetyIslandAbort iss) s (fun t => bitOf t.pwr.abortPending 5 = true ∧ t.saf.pairs = s.saf.pairs ∧ t.saf.sp = s.saf.sp ∧
      t.saf.sl = s.saf.sl ∧ (s.saf.powered = true → t.saf.session = false) ∧
      (s.saf.powered = true → s.saf.session = true → { code := 0x0709, data := [] } ∈ t.arising))) ∧
  (∀ (s : State), s.saf.powered = true → isRun s .trellis = true → (s.saf.stale = true ∨ s.saf.mirrorAt + 100000000 ≤ s.now) →
    Answers .safetyStatusReport s (fun t => t.saf.stale = false ∧ t.saf.mirrorAt = s.now ∧ t.saf.pairs = s.saf.pairs ∧ t.saf.sp = s.saf.sp)) ∧
  (∀ (s : State), s.saf.stale = false → s.saf.mirrorAt + 300000000 ≤ s.now →
    Answers .mirrorStale s (fun t => t.saf = { s.saf with stale := true } ∧
      ∀ i p, pt? s i = some p → p.srcKind = 0x0B → p.srcIndex < 16 → (∀ j, Plain s j) → ∃ q, pt? t i = some q ∧ q.value = p.subst ∧ q.quality = qSubst))

/-- A CEL write of a command, ZONE, TRIM or TRIM_CFG returns at once, leaves the calendar as it is and waits as a posted write
(R31, R374). At its effect LOAD of a possible date sets calendar, DST bit and trust with the prescaler at 0, an impossible one
sets nothing but DATE_INVALID (R372); DST_ADD and DST_SUB move the calendar by 3,600 s or answer CEL_DST_STATE (R375); a
ZONE_MIN outside -720 to 840 is refused whole (R376); SYNC without trust is CEL_UNTRUSTED and takes effect at its second of
domain 0 (R378). A read of the time latches date and subsecond (R373). Each rollover adds one second, stopping at the end of
2399 (R369 to R371), and one operating second on main (R388). A crystal without edges for 1 ms stops the clock, untrusted
(R379). The supply changes by Table 12.1, retention is lost below 1.60 V and near loss noted below 2.00 V (R363 to R366); on
battery events go to a pending store of eight (R367). VBAT is measured daily (R368). Firmware checks leap seconds and calendar
(R376, R378). -/
def Obligations.CellarClockAndSupply : Prop :=
  (∀ (iss : Issuer) (s : State) (d : Bool) (w : Word),
    (Permits s iss .cel 0x0028 true →
      (∀ c op, (c, op) ∈ [(Instr.loadCalendar iss d, PostedOp.load d), (.syncCalendar iss d, .sync d), (.dstAdd iss, .dstAdd), (.dstSub iss, .dstSub)] →
        exec c s = .next { s with reply := .none, cel.posted := s.cel.posted ++ [{ core := iss.core, cask := iss.cask, op := op }] })) ∧
    (Permits s iss .cel 0x0030 true → exec (.celZoneWrite iss w) s = .next { s with reply := .none, cel.posted := s.cel.posted ++ [{ core := iss.core, cask := iss.cask, op := .zone w }] }) ∧
    (Permits s iss .cel 0x0040 true → exec (.celTrimWrite iss w) s = .next { s with reply := .none, cel.posted := s.cel.posted ++ [{ core := iss.core, cask := iss.cask, op := .trim w }] }) ∧
    (Permits s iss .cel 0x0044 true → exec (.celTrimCfgWrite iss w) s = .next { s with reply := .none, cel.posted := s.cel.posted ++ [{ core := iss.core, cask := iss.cask, op := .trimCfg w }] })) ∧
  (∀ (s : State) p r, s.cel.posted = p :: r → Answers .celPostedWriteEffect s (fun t => t.cel.posted = r ∧
    (∀ d c, p.op = .load d → calOfWords s.cel.setTime s.cel.setDate = some c → t.cel.cal = c ∧ t.cel.dst = d ∧ t.cel.trusted = true ∧
      t.cel.secAt = s.now ∧ t.cel.range = false ∧ Tbl.at t.cel.cmdStatus p.cask 0 = 0x0A00) ∧
    (∀ d, p.op = .load d → calOfWords s.cel.setTime s.cel.setDate = none → t.cel.cal = s.cel.cal ∧ t.cel.dst = s.cel.dst ∧
      t.cel.trusted = s.cel.trusted ∧ t.cel.dateInvalid = true ∧ Tbl.at t.cel.cmdStatus p.cask 0 = 0x0A01) ∧
    (p.op = .dstAdd → s.cel.dst = false → calSecs s.cel.cal + 3600 ≤ calLast → calFirst ≤ calSecs s.cel.cal → t.cel.cal = calOf (calSecs s.cel.cal + 3600) ∧ t.cel.dst = true ∧
      t.cel.secAt = s.cel.secAt ∧ Tbl.at t.cel.cmdStatus p.cask 0 = 0x0A00) ∧
    (p.op = .dstSub → s.cel.dst = true → calSecs s.cel.cal ≤ calLast + 3600 → calFirst + 3600 ≤ calSecs s.cel.cal → t.cel.cal = calOf (calSecs s.cel.cal - 3600) ∧ t.cel.dst = false ∧
      t.cel.secAt = s.cel.secAt ∧ Tbl.at t.cel.cmdStatus p.cask 0 = 0x0A00) ∧
    ((p.op = .dstAdd ∧ s.cel.dst = true ∨ p.op = .dstSub ∧ s.cel.dst = false) → t.cel.cal = s.cel.cal ∧ t.cel.dst = s.cel.dst ∧
      Tbl.at t.cel.cmdStatus p.cask 0 = 0x0A02) ∧
    (∀ w, p.op = .zone w → -720 ≤ zoneOf w → zoneOf w ≤ 840 → t.cel.zone = w ∧ t.cel.cal = s.cel.cal) ∧
    (∀ w, p.op = .zone w → (zoneOf w < -720 ∨ 840 < zoneOf w) → t.cel.zone = s.cel.zone ∧ Tbl.at t.cel.cmdStatus p.cask 0 = 0x0A03) ∧
    (∀ w, p.op = .trim w → s.sys.active = false → t.cel.trim.toNat = w.toNat % 65536 ∧ t.cel.cand = none) ∧
    (∀ w, p.op = .trimCfg w → (s.sys.variant = .v00 → bitOf w.toNat 1 = false) → t.cel.trimCfg.toNat = w.toNat % 8) ∧
    (∀ w, p.op = .trimCfg w → s.sys.variant = .v00 → bitOf w.toNat 1 = true → t.cel.trimCfg = s.cel.trimCfg ∧ Tbl.at t.cel.cmdStatus p.cask 0 = 0x0A05) ∧
    (∀ d, p.op = .sync d → trusted s 0 = false → t.cel.sync = s.cel.sync ∧ t.cel.cal = s.cel.cal ∧ Tbl.at t.cel.cmdStatus p.cask 0 = 0x0A04) ∧
    (∀ d, p.op = .sync d → trusted s 0 = true → inRange (domToLocal s d (celNs s / 1000000000 + 1)) = true →
      t.cel.sync = some { dst := d, at0 := celNs s / 1000000000 + 1 } ∧ t.cel.cal = s.cel.cal))) ∧
  (∀ (s : State) w, s.cel.sync = some w → w.at0 * 1000000000 ≤ celNs s →
    Answers .syncTakesEffect s (fun t => t.cel.sync = none ∧ t.cel.cal = calOf (domToLocal s w.dst w.at0).toNat ∧ t.cel.dst = w.dst ∧
      t.cel.trusted = true ∧ t.cel.secAt = s.now ∧ { code := 0x0A11, data := calBytes s.cel.cal ++ calBytes t.cel.cal } ∈ t.arising)) ∧
  (∀ (iss : Issuer) (s : State), Permits s iss .cel 0x0010 false →
    Answers (.rtcTimeRead iss) s (fun t => t.reply = .word (timeWord s.cel.cal) ∧ (qBank t (bankKey iss)).date = dateWord s.cel.cal ∧
      (qBank t (bankKey iss)).subsec = w32 (presc s) ∧ t.cel.cal = s.cel.cal)) ∧
  (∀ (k : Nat) (s : State), s.cel.oscStop = none → 32768 ≤ prescAfter (trimVal s) (s.cel.secCount % 16384) k → s.cel.range = false →
    Answers (.rtcSecond k) s (fun t =>
      (calSecs s.cel.cal ≠ calLast → t.cel.cal = calOf (calSecs s.cel.cal + 1) ∧ t.cel.secAt = s.now ∧ t.cel.range = false) ∧
      (calSecs s.cel.cal = calLast → t.cel.cal = s.cel.cal ∧ t.cel.range = true ∧ { code := 0x0A13, data := [] } ∈ t.arising) ∧
      (s.cel.battery = true → t.cel.opSec = s.cel.opSec) ∧
      (s.cel.battery = false → s.cel.opSec < 4294967295 → t.cel.opSec = s.cel.opSec + 1))) ∧
  (∀ (us : Nat) (s : State), 1000 ≤ us → s.cel.oscStop = none →
    Answers (.celOscStop us) s (fun t => t.cel.oscStop = some s.now ∧ t.cel.osf = true ∧ t.cel.trusted = false ∧ t.cel.cal = s.cel.cal ∧
      { code := 0x0A14, data := [] } ∈ t.arising)) ∧
  (∀ (s : State) t0, s.cel.oscStop = some t0 → Answers .oscRestart s (fun t => t.cel.oscStop = none ∧ t.cel.cal = s.cel.cal ∧ t.cel.osf = s.cel.osf)) ∧
  (∀ (a b : Nat) (s : State), s.cel.battery = false → a < b →
    Answers (.celToBattery a b) s (fun t => t.cel.battery = true ∧ t.cel.cal = s.cel.cal ∧ t.cel.winOk = false ∧ { code := 0x0A16, data := [] } ∈ t.arising)) ∧
  (∀ (rail vbat low us : Nat) (s : State), s.cel.battery = true → vbat + 120 < rail → 2000 ≤ us →
    Answers (.celToMain rail vbat low us) s (fun t => t.cel.battery = false ∧ t.cel.pend = [] ∧ t.cel.store = s.cel.store ∧
      { code := 0x0A17, data := [] } ∈ t.arising ∧
      (1600 ≤ low → t.cel.cal = s.cel.cal ∧ t.cel.trusted = s.cel.trusted ∧ t.cel.opSec = s.cel.opSec ∧
        (s.cel.pcycle < 16777215 → t.cel.pcycle = s.cel.pcycle + 1)) ∧
      (low < 1600 → t.cel.cal = { } ∧ t.cel.trusted = false ∧ t.cel.restore = true ∧ t.cel.opSec = s.cel.savOpSec ∧ { code := 0x0A14, data := [] } ∈ t.arising) ∧
      (low < 2000 → t.cel.nearLoss = true ∧ { code := 0x0A15, data := d2 (low / 10) ++ d2 (vbat / 10) } ∈ t.arising))) ∧
  (∀ (s : State) e, s.cel.battery = true → s.arising.find? celOwn = some e →
    Answers .pendedEvent s (fun t => t.arising = s.arising.eraseP celOwn ∧ t.cel.pendLost = s.cel.pendLost ∧ { ev := e, at0 := s.now } ∈ t.cel.pend ∧ (s.cel.pend.length ≤ 8 → t.cel.pend.length ≤ 8) ∧
      (s.cel.pend.length < 8 → t.cel.pend = s.cel.pend ++ [{ ev := e, at0 := s.now }]) ∧
      (s.cel.pend.length = 8 → t.cel.pend = s.cel.pend.tail ++ [{ ev := e, at0 := s.now }]))) ∧
  (∀ (mv : Nat) (s : State), s.cel.battery = false → (∀ x, s.cel.vbatAt = some x → x + 86400000000000 ≤ s.now) →
    Answers (.vbatMeasure mv) s (fun t => t.cel.vbat = mv / 10 ∧ t.cel.vbatAt = some s.now ∧ (t.cel.vbatLow = true ↔ mv < 2200) ∧
      (mv < 2200 → s.cel.vbatTold = false → { code := 0x0A1D, data := d2 (mv / 10) } ∈ t.arising))) ∧
  (∀ (s : State), isRun s .cluster = true →
    ((∀ x, s.cel.leapAt = some x → x + 1000000000 ≤ s.now) → s.tim.utcValid = true → s.tim.utcOfs.toNat ≠ fld s.cel.zone.toNat 16 16 →
      Answers .leapCheck s (fun t => t.cel.leapAt = some s.now ∧ ∃ w, fld w.toNat 16 16 = s.tim.utcOfs.toNat % 65536 ∧ fld w.toNat 0 16 = fld s.cel.zone.toNat 0 16 ∧
        t.cel.posted = s.cel.posted ++ [{ op := .zone w }])) ∧
    (trusted s 0 = true → s.cel.calTrust = false →
      Answers .calendarCheck s (fun t => t.cel.calTrust = true ∧ t.cel.posted = s.cel.posted ++ [{ op := .sync s.cel.savDst }])) ∧
    (trusted s 0 = true → s.cel.calTrust = true → (∀ x, s.cel.calAt = some x → x + 60000000000 ≤ s.now) →
      Answers .calendarCheck s (fun t => t.cel.calAt = some s.now ∧
        t.cel.posted = s.cel.posted ++ (if 100000000 ≤ (calDomain0 s - (domNs s 0 : Int)).natAbs then [{ op := .sync s.cel.savDst }] else []))))

/-- A trim window that was valid throughout counts as valid and gives C = 2^29 less its pulses: within 1,074 of TRIM it becomes
TRIM, else a first such count is only a candidate, and a magnitude above 32,767 is clamped with CEL_TRIM_LIMIT (R380, R381);
any other window is invalid and changes no TRIM. An event enters the queue of 64 or is dropped and counted (R386). The next
queued record is written at most every 8 cycles: equal CODE, cask and DATA merge into the newest record's repeat count,
another is appended with the next sequence number, its CRC and the operating second (R387, R389). A due time mark records
domain 0 at the start of the operating second (R390). START opens the issuer's bank at the oldest matching record or ends it,
NEXT moves on, END idles it (R391); another cask's records never match (R391). The record under the cursor is copied with its
CRC judged. Counters are saved on main (R388). The abort idles every bank (R394). -/
def Obligations.CellarTrimRecorderAndQueries : Prop :=
  (∀ (k x : Nat) (s : State), s.cel.winK ≠ winNow s →
    Answers (.trimWindowEnd k x) s (fun t => t.cel.winK = winNow s ∧ t.cel.winOk = winHolds s ∧
      ((s.cel.winOk = false ∨ winHolds s = false) → t.cel.trim = s.cel.trim ∧ t.cel.lastTrim = 3 ∧ t.cel.valid = s.cel.valid ∧
        (s.cel.invalid < 255 → t.cel.invalid = s.cel.invalid + 1)) ∧
      (s.cel.winOk = true → winHolds s = true → s.cel.winSteps = (dom s 0).steps → s.sys.active = false →
        let c : Int := 536870912 - (k : Int)
        let now := sOf 16 s.cel.trim.toNat
        (s.cel.valid < 65535 → t.cel.valid = s.cel.valid + 1) ∧ t.cel.invalid = s.cel.invalid ∧
        (c.natAbs ≤ 32767 → (c - now).natAbs ≤ 1074 → sOf 16 t.cel.trim.toNat = c ∧ t.cel.cand = (if c = now then s.cel.cand else none) ∧ t.cel.lastTrim = 1) ∧
        (c.natAbs ≤ 32767 → 1074 < (c - now).natAbs → s.cel.cand = none → t.cel.trim = s.cel.trim ∧ t.cel.cand = some c ∧ t.cel.lastTrim = 2) ∧
        (∀ c1, c.natAbs ≤ 32767 → 1074 < (c - now).natAbs → s.cel.cand = some c1 → 1074 < (c - c1).natAbs →
          t.cel.trim = s.cel.trim ∧ t.cel.cand = some c) ∧
        (32767 < c.natAbs → sOf 16 t.cel.trim.toNat = (if 0 < c then 32767 else -32767) ∧ t.cel.lastTrim = 4 ∧
          { code := 0x0A19, data := d4 (twos 32 c) } ∈ t.arising)))) ∧
  (∀ (s : State) e r, s.cel.battery = false → s.arising = e :: r →
    Answers .eventRecordQueued s (fun t => t.arising = r ∧
      ((celOwn e = true ∨ queued s < 64) → t.cel.queue = s.cel.queue ++ [e] ∧ t.cel.drops = s.cel.drops) ∧
      (celOwn e = false → 64 ≤ queued s → t.cel.queue = s.cel.queue ∧ t.cel.owed = s.cel.owed + 1 ∧
        (s.cel.drops < 4294967295 → t.cel.drops = s.cel.drops + 1)))) ∧
  (∀ (s : State) e q, s.cel.queue = e :: q → s.cel.battery = false → (∀ x, s.cel.lastWrite = some x → x + 244140 ≤ s.now) →
    Answers .eventRecordWrite s (fun t => t.cel.lastWrite = some s.now ∧
      (s.cel.owed = 0 → t.cel.queue = q) ∧
      (0 < s.cel.owed → q.length < 64 → t.cel.queue = { code := 0x0A1B, data := d4 s.cel.owed } :: q ∧ t.cel.owed = 0) ∧
      (∀ r, s.cel.store.getLast? = some r → sameRec r e = true → r.rep < 65535 →
        t.cel.store.length = s.cel.store.length ∧ t.cel.seq = s.cel.seq ∧ t.cel.store.dropLast = s.cel.store.dropLast ∧
        ∃ r', t.cel.store.getLast? = some r' ∧ r'.rep = r.rep + 1 ∧ r'.code = r.code ∧ r'.data = r.data ∧ r'.seq = r.seq ∧
          r'.crc = crc32 (recBody r')) ∧
      ((∀ r, s.cel.store.getLast? = some r → sameRec r e = false) →
        t.cel.seq = s.cel.seq + 1 ∧ (∃ r', t.cel.store.getLast? = some r' ∧ r'.code = e.code ∧ r'.cask = e.cask ∧ r'.data = padTo 14 e.data ∧
          r'.seq = s.cel.seq + 1 ∧ r'.opSec = s.cel.opSec ∧ r'.rep = 0 ∧ r'.crc = crc32 (recBody r')) ∧
        (s.cel.store.length < 16384 → t.cel.store.dropLast = s.cel.store ∧ t.cel.ovr = s.cel.ovr) ∧
        (16384 ≤ s.cel.store.length → t.cel.store.dropLast = s.cel.store.tail ∧ (s.cel.ovr < 4294967295 → t.cel.ovr = s.cel.ovr + 1))))) ∧
  (∀ (s : State), s.cel.battery = false → markDue s = true →
    Answers .celTimeMark s (fun t => t.cel.markCycle = some s.cel.pcycle ∧ t.cel.markSec = s.cel.opSec ∧ t.cel.seq = s.cel.seq + 1 ∧
      ∃ r, t.cel.store.getLast? = some r ∧ r.code = 0x0A1A ∧ r.opSec = s.cel.opSec ∧ r.pcycle = s.cel.pcycle ∧
        r.data = padTo 14 (toLe 8 (celNs s - (s.now - s.cel.secAt))))) ∧
  (∀ (iss : Issuer) (k : Fin 4) (s : State), Permits s iss .cel 0x0210 true →
    (k.val < 3 → Answers (.queryStart iss k) s (fun t => (qBank t (bankKey iss)).kind = k.val ∧ (qBank t (bankKey iss)).lost = 0 ∧
      (qBank t (bankKey iss)).ready = false ∧ t.cel.store = s.cel.store ∧
      ((qBank t (bankKey iss)).st = .opened ∧ (qBank t (bankKey iss)).wait = true ∧
        (∃ r ∈ s.cel.store, r.seq = (qBank t (bankKey iss)).cur ∧ readable iss.cask r = true) ∨
       (qBank t (bankKey iss)).st = .ended))) ∧
    (k.val = 0 → ∀ r rest, s.cel.store = r :: rest → readable iss.cask r = true →
      Answers (.queryStart iss k) s (fun t => (qBank t (bankKey iss)).st = .opened ∧ (qBank t (bankKey iss)).cur = r.seq)) ∧
    (s.cel.store = [] → Answers (.queryStart iss 0) s (fun t => (qBank t (bankKey iss)).st = .ended)) ∧
    (k.val = 3 → exec (.queryStart iss k) s = .next { s with reply := .none }) ∧
    ((qBank s (bankKey iss)).st ≠ .idle → Answers (.queryNext iss) s (fun t => (qBank t (bankKey iss)).ready = false ∧
      ((qBank t (bankKey iss)).st = .opened ∧ (qBank s (bankKey iss)).cur < (qBank t (bankKey iss)).cur ∨ (qBank t (bankKey iss)).st = .ended))) ∧
    Answers (.queryEnd iss) s (fun t => (qBank t (bankKey iss)).st = .idle ∧ (qBank t (bankKey iss)).ready = false ∧
      ∀ b, b ≠ bankKey iss → qBank t b = qBank s b)) ∧
  (∀ (core : Fin 4) (c : Fin 64) (s : State) r, (qBank s (c.val * 4 + core.val)).st = .opened → (qBank s (c.val * 4 + core.val)).wait = true →
    s.cel.store.find? (fun r => r.seq == (qBank s (c.val * 4 + core.val)).cur) = some r → s.sys.active = false →
    Answers (.queryRecordReady core c) s (fun t => (qBank t (c.val * 4 + core.val)).ready = true ∧ (qBank t (c.val * 4 + core.val)).wait = false ∧
      (qBank t (c.val * 4 + core.val)).rc = recBody r ++ toLe 4 r.crc.toNat ∧
      ((qBank t (c.val * 4 + core.val)).crcBad = true ↔ r.crc ≠ crc32 (recBody r)))) ∧
  (∀ (s : State), s.cel.battery = false → exec .opsecSave s = .next { s with cel.savOpSec := s.cel.opSec, cel.savPcycle := s.cel.pcycle }) ∧
  (∀ (iss : Issuer) (s : State), Permits s iss .sys 0x0030 true → iss.cask = 0 → isRun s .cellar = true →
    Answers (.cellarAbort iss) s (fun t => (∀ k, (qBank t k).st = .idle ∧ (qBank t k).ready = false) ∧ t.cel.store = s.cel.store ∧
      t.cel.cal = s.cel.cal ∧ { code := 0x0A1E, data := [] } ∈ t.arising))

/-- A received frame that matches no record is counted; one shorter than its fields is counted and writes nothing; a matching one
restarts the watchdog and writes its points with provenance 0x02 (R401, R395). A periodic trigger in its frame builds the
frame from the points: an instance of the record already queued takes the new payload, else it joins the queue, or starts at
once on an idle EVENT channel (R402, R404, R405). A sent frame leaves the wire (R406); an error repeats a queued frame up to
RETRY times, then drops and counts it. Errors move the counters of ISO 11898-1 (R396). Bus-off drops queue and wire and
records FBS_BUS_FAIL, as a watchdog or supply failure does (R407); recovery runs again with counters 0. START, STOP and
RECOVER act for the channel's cask or cask 0 in the states they fit, otherwise FBS_CMD_STATE. -/
def Obligations.CanReceptionTransmissionAndFaults : Prop :=
  (∀ (ch : Fin 8) (x : CanRx) (s : State), canUp s ch = true →
    (matchFrame s ch x = none →
      Answers (.canFrameReceived ch x) s (fun t => t.trl = s.trl ∧ (canCh t ch).lastValid = s.now ∧ (canCh t ch).busFault = false ∧
        (canCh t ch).rcErr = lowerRec (canCh s ch).rcErr ∧ ((canCh s ch).unmatched < 255 → (canCh t ch).unmatched = (canCh s ch).unmatched + 1))) ∧
    (∀ k f, matchFrame s ch x = some (k, f) → x.payload.length < fieldsLen s f →
      Answers (.canFrameReceived ch x) s (fun t => t.trl = s.trl ∧ (canCh t ch).lastValid = (canCh s ch).lastValid ∧
        ((canCh s ch).lenErr < 255 → (canCh t ch).lenErr = (canCh s ch).lenErr + 1))) ∧
    (∀ k f p, matchFrame s ch x = some (k, f) → fieldsLen s f ≤ x.payload.length → f.station = none → isRun s .trellis = true →
      f.npts = 1 → pt? s f.first = some p → isWriter p 2 k f.cask = true → Plain s f.first →
      Answers (.canFrameReceived ch x) s (fun t => (canCh t ch).lastValid = s.now ∧ (canCh t ch).busFault = false ∧
        ∃ q, pt? t f.first = some q ∧ q.value = fieldValue p.type (x.payload.take (fieldLen p.type)) ∧ q.prov = 2))) ∧
  (∀ (k : Nat) (s : State) f, Tbl.get? s.fbs.frames k = some f → f.tx = true → (canCh s f.ch).st = .running → (canCh s f.ch).rc.role = 1 →
    heldBack s f = false → isRun s .fbus = true → isRun s .trellis = true → f.trig = 0 → (s.trl.frame - 1) % f.periodMs = f.phaseMs →
    Tbl.get? s.fbs.trigAt k ≠ some (s.trl.frame - 1) →
    Answers (.canPeriodicTrigger k) s (fun t => Tbl.get? t.fbs.trigAt k = some (s.trl.frame - 1) ∧ t.trl = s.trl ∧
      (∀ i, i ∈ (canCh s f.ch).q → i.rc = some k → (canCh t f.ch).q.length = (canCh s f.ch).q.length ∧ buildInst s k f true ∈ (canCh t f.ch).q ∧
        (canCh t f.ch).wire = (canCh s f.ch).wire) ∧
      ((∀ i ∈ (canCh s f.ch).q, i.rc ≠ some k) → (canCh s f.ch).q.length < 64 → (canCh s f.ch).wire ≠ [] →
        (canCh t f.ch).q = (canCh s f.ch).q ++ [buildInst s k f true] ∧ (canCh t f.ch).wire = (canCh s f.ch).wire) ∧
      ((canCh s f.ch).q = [] → (canCh s f.ch).wire = [] →
        (canCh t f.ch).q = [] ∧ (canCh t f.ch).wire = [buildInst s k f true] ∧
        Tbl.get? t.fbs.sent k = some ((buildInst s k f true).first, (buildInst s k f true).cls)))) ∧
  (∀ (ch : Fin 8) (s : State) i, isRun s .fbus = true → (canCh s ch).st = .running → (canCh s ch).wire = [i] → (canCh s ch).q = [] →
    Answers (.canTxComplete ch) s (fun t => (canCh t ch).wire = [] ∧ (canCh t ch).q = [] ∧ (canCh t ch).tec = (canCh s ch).tec - 1 ∧
      (canCh t ch).lastValid = s.now) ∧
    (i.queued = true → ((canCh s ch).rc.retry = 0 ∨ i.tries < (canCh s ch).rc.retry) →
      Answers (.canTxError ch) s (fun t => (canCh t ch).wire = [{ i with tries := i.tries + 1 }] ∧ (canCh t ch).tec = (canCh s ch).tec + 8)) ∧
    (i.queued = true → (canCh s ch).rc.retry ≠ 0 → (canCh s ch).rc.retry ≤ i.tries →
      Answers (.canTxError ch) s (fun t => (canCh t ch).wire = [] ∧ (canCh t ch).tec = (canCh s ch).tec + 8 ∧
        ((canCh s ch).txDrop < 65535 → (canCh t ch).txDrop = (canCh s ch).txDrop + 1) ∧
        ((canCh s ch).dropAt = none → { code := 0x0B11, cask := (canCh s ch).rc.cask, data := toLe 1 ch } ∈ t.arising)))) ∧
  (∀ (ch : Fin 8) (major : Bool) (s : State), canUp s ch = true →
    exec (.canRxError ch major) s = .next (updCan ch (fun c => { c with rcErr := min 255 (c.rcErr + (if major then 8 else 1)) }) s)) ∧
  (∀ (ch : Fin 8) (s : State), canUp s ch = true →
    (255 < (canCh s ch).tec → Answers (.canBusOff ch) s (fun t => (canCh t ch).q = [] ∧ (canCh t ch).wire = [] ∧ (canCh t ch).busFault = true ∧
      (canCh t ch).st = (if (canCh s ch).rc.autoRec then .recovering else .busOff) ∧
      { code := 0x0B10, cask := (canCh s ch).rc.cask, data := toLe 1 ch ++ toLe 1 1 } ∈ t.arising)) ∧
    ((canCh s ch).rc.wdogMs ≠ 0 → (canCh s ch).busFault = false → (canCh s ch).lastValid + (canCh s ch).rc.wdogMs * 1000000 ≤ s.now →
      Answers (.canBusWatchdog ch) s (fun t => (canCh t ch).busFault = true ∧ (canCh t ch).st = .running ∧
        { code := 0x0B10, cask := (canCh s ch).rc.cask, data := toLe 1 ch ++ toLe 1 2 } ∈ t.arising)) ∧
    Answers (.canSupplyFail ch) s (fun t => (canCh t ch).busFault = true ∧
        { code := 0x0B10, cask := (canCh s ch).rc.cask, data := toLe 1 ch ++ toLe 1 3 } ∈ t.arising)) ∧
  (∀ (ch : Fin 8) (s : State), isRun s .fbus = true → (canCh s ch).st = .recovering →
    1408 * nomBit (canCh s ch).rc.nbt * 25 ≤ (s.now - (canCh s ch).recAt) * 2 →
    Answers (.canRecoveryComplete ch) s (fun t => (canCh t ch).st = .running ∧ (canCh t ch).tec = 0 ∧ (canCh t ch).rcErr = 0 ∧
      (canCh t ch).busFault = false)) ∧
  (∀ (iss : Issuer) (ch : Fin 8) (s : State), Permits s iss .fbs (0x0100 + 0x20 * ch.val) true →
    (iss.cask = 0 ∨ iss.cask.val = (canCh s ch).rc.cask) →
    ((canCh s ch).st = .stopped → Answers (.fbsChStart iss ch) s (fun t => (canCh t ch).st = .running ∧ (canCh t ch).tec = 0 ∧
      (canCh t ch).q = (canCh s ch).q ∧ t.reply = .code 0x0B00 ∧ ∀ d, d ≠ ch.val → canCh t d = canCh s d)) ∧
    ((canCh s ch).st = .running → Answers (.fbsChStop iss ch) s (fun t => (canCh t ch).st = .stopped ∧ (canCh t ch).q = [] ∧
      (canCh t ch).wire = (canCh s ch).wire.take 1 ∧ t.reply = .code 0x0B00 ∧ ∀ d, d ≠ ch.val → canCh t d = canCh s d)) ∧
    ((canCh s ch).st = .busOff → Answers (.recoverChannel iss ch) s (fun t => (canCh t ch).st = .recovering ∧ (canCh t ch).recAt = s.now ∧
      t.reply = .code 0x0B00 ∧ ∀ d, d ≠ ch.val → canCh t d = canCh s d)) ∧
    ((canCh s ch).st ≠ .stopped → Answers (.fbsChStart iss ch) s (fun t => t.fbs.chans = s.fbs.chans ∧ t.reply = .code 0x0B01)) ∧
    ((canCh s ch).st = .stopped → Answers (.fbsChStop iss ch) s (fun t => t.fbs.chans = s.fbs.chans ∧ t.reply = .code 0x0B01)) ∧
    ((canCh s ch).st ≠ .busOff → Answers (.recoverChannel iss ch) s (fun t => t.fbs.chans = s.fbs.chans ∧ t.reply = .code 0x0B01)))

/-- At the start of a basic cycle the master sends the reference message with the cycle number when the bus is idle early enough,
else FBS_REF_LATE (R408, R409). A TX window reads its points 100 us before its start and sends the frame, or counts it late
when its bound no longer fits (R409). An RX window that ends without its frame counts FBS_RX_MISS. An ARBITRATING window opens
the queue until its end. A step of domain 2 makes the channel start afresh at the next basic cycle with FBS_TT_RESYNC (R410).
START of the margin scan by cask 0 or 63 counts down COUNT frames, 255 for 0, and answers FBS_TEST_BUSY while one runs; with
all frames received it passes when two time quanta lie free on both sides of the sample point, else FBS_TEST_MARGIN; STOP and
60 s end it (R424). The abort ends the scan with FBS_ABORTED and every install mode (R425). -/
def Obligations.TimeTriggeredScanAndAbort : Prop :=
  (∀ (ch : Fin 8) (idle : Nat) (s : State) n w, ttUp s ch = true → (canCh s ch).cycle ≠ some (cycleNow s (canCh s ch)) →
    s.fbs.wins.find? (fun e => e.2.ch == ch.val && e.2.kind == 0 && winApplies (canCh s ch) e.2 (cycleNow s (canCh s ch))) = some (n, w) →
    (canCh s ch).wire = [] →
    let wend := winEnd (canCh s ch) w (cycleNow s (canCh s ch))
    let fits := decide (fbusTime s + idle ≤ wend) && fitsNs (refBound (canCh s ch).rc) (wend - (fbusTime s + idle))
    Answers (.ttCycleStart ch idle) s (fun t => (canCh t ch).cycle = some (cycleNow s (canCh s ch)) ∧ (canCh t ch).arbTill = none ∧
      (fits = true → (canCh t ch).wire = [{ rc := none, payload := d1 (cycleNow s (canCh s ch) % (canCh s ch).rc.cycles), queued := false }]) ∧
      (fits = false → (canCh t ch).wire = [] ∧ { code := 0x0B12, cask := (canCh s ch).rc.cask, data := toLe 1 ch } ∈ t.arising))) ∧
  (∀ (ch : Fin 8) (idle : Nat) (s : State) n w, ttUp s ch = true → Tbl.get? s.fbs.wins n = some w → w.ch = ch.val → w.kind = 1 →
    let k := (fbusTime s + 100000) / ((canCh s ch).rc.bcUs * 1000)
    let f := Tbl.at s.fbs.frames w.frame {}
    let start := max (winStart (canCh s ch) w k) (fbusTime s + idle)
    let fits := decide (start ≤ winEnd (canCh s ch) w k) && fitsNs (frameBound s f) (winEnd (canCh s ch) w k - start)
    (canCh s ch).cycle.isSome = true → (canCh s ch).firstK ≤ k → winApplies (canCh s ch) w k = true → winStart (canCh s ch) w k ≤ fbusTime s + 100000 →
    fbusTime s < winEnd (canCh s ch) w k → Tbl.get? (canCh s ch).winDone n ≠ some k → heldBack s f = false → (canCh s ch).wire = [] →
    Answers (.ttTxWindow ch n idle) s (fun t => Tbl.get? (canCh t ch).winDone n = some k ∧
      (fits = true → (canCh t ch).wire = [buildInst s w.frame f false]) ∧
      (fits = false → (canCh t ch).wire = [] ∧ ((canCh s ch).lateTx < 255 → (canCh t ch).lateTx = (canCh s ch).lateTx + 1)))) ∧
  (∀ (ch : Fin 8) (s : State) n w k, ttUp s ch = true → Tbl.get? s.fbs.wins n = some w → (canCh s ch).cycle = some k → w.ch = ch.val → w.kind = 2 →
    (canCh s ch).firstK ≤ k → winApplies (canCh s ch) w k = true → winEnd (canCh s ch) w k ≤ fbusTime s → Tbl.get? (canCh s ch).winDone n ≠ some k →
    Answers (.ttRxWindowEnd ch n) s (fun t => Tbl.get? (canCh t ch).winDone n = some k ∧
      (Tbl.get? (canCh s ch).rxSeen n = some k → (canCh t ch).rxMiss = (canCh s ch).rxMiss) ∧
      (Tbl.get? (canCh s ch).rxSeen n ≠ some k → ((canCh s ch).rxMiss < 65535 → (canCh t ch).rxMiss = (canCh s ch).rxMiss + 1) ∧
        ((canCh s ch).missAt = none → { code := 0x0B13, cask := (canCh s ch).rc.cask, data := toLe 1 ch } ∈ t.arising)))) ∧
  (∀ (ch : Fin 8) (s : State) n w k, ttUp s ch = true → Tbl.get? s.fbs.wins n = some w → (canCh s ch).cycle = some k → w.ch = ch.val → w.kind = 3 →
    (canCh s ch).firstK ≤ k → winApplies (canCh s ch) w k = true → winStart (canCh s ch) w k ≤ fbusTime s → fbusTime s < winEnd (canCh s ch) w k →
    Answers (.ttArbitratingWindowStart ch n) s (fun t => (canCh t ch).arbTill = some (winEnd (canCh s ch) w k) ∧
      ((canCh s ch).q = [] → (canCh t ch).wire = (canCh s ch).wire))) ∧
  (∀ (ch : Fin 8) (s : State), canUp s ch = true → (canCh s ch).rc.role = 2 → (canCh s ch).steps ≠ (dom s 2).steps →
    Answers (.fbsTtResync ch) s (fun t => (canCh t ch).steps = (dom s 2).steps ∧ (canCh t ch).cycle = some (cycleNow s (canCh s ch)) ∧
      (canCh t ch).firstK = cycleNow s (canCh s ch) + 1 ∧ (canCh t ch).winDone = [] ∧ (canCh t ch).arbTill = none ∧ (canCh t ch).q = (canCh s ch).q ∧
      { code := 0x0B14, cask := (canCh s ch).rc.cask, data := toLe 1 ch } ∈ t.arising)) ∧
  (∀ (iss : Issuer) (ch : Fin 8) (n : Fin 256) (s : State), Permits s iss .fbs 0x0400 true →
    ((iss.cask = 0 ∨ iss.cask = 63) → s.fbs.scan.state ≠ .running →
      Answers (.marginScanStart iss ch n) s (fun t => t.reply = .code 0x0B00 ∧ t.fbs.chans = s.fbs.chans ∧
        t.fbs.scan = { state := .running, ch := ch, count := if n.val = 0 then 255 else n.val, left := if n.val = 0 then 255 else n.val, startedAt := s.now })) ∧
    ((iss.cask = 0 ∨ iss.cask = 63) → s.fbs.scan.state = .running →
      Answers (.marginScanStart iss ch n) s (fun t => t.reply = .code 0x0B02 ∧ t.fbs.scan = s.fbs.scan)) ∧
    (iss.cask ≠ 0 → iss.cask ≠ 63 → Answers (.marginScanStart iss ch n) s (fun t => t.reply = .code 0x0B01 ∧ t.fbs.scan = s.fbs.scan)) ∧
    ((iss.cask = 0 ∨ iss.cask = 63) → s.fbs.scan.state = .running →
      Answers (.marginScanStop iss) s (fun t => t.reply = .code 0x0B00 ∧ t.fbs.scan.state = .done ∧ t.fbs.scan.ch = s.fbs.scan.ch))) ∧
  (∀ (early late : Fin 385) (s : State), isRun s .fbus = true → s.fbs.scan.state = .running → s.fbs.scan.left = 0 →
    let p := 2 + fld (canCh s s.fbs.scan.ch).rc.nbt.toNat 16 8
    Answers (.marginScanComplete early late) s (fun t => t.fbs.scan.state = .done ∧ t.fbs.scan.early = early.val ∧ t.fbs.scan.late = late.val ∧
      t.fbs.scan.code = if early.val + 2 ≤ p ∧ p + 2 ≤ late.val then 0x0B04 else 0x0B05)) ∧
  (∀ (s : State), isRun s .fbus = true → s.fbs.scan.state = .running → s.fbs.scan.startedAt + 60000000000 ≤ s.now →
    Answers .marginScanTimeout s (fun t => t.fbs.scan.state = .done ∧ t.fbs.scan.left = s.fbs.scan.left)) ∧
  (∀ (iss : Issuer) (s : State), Permits s iss .sys 0x0030 true → iss.cask = 0 → isRun s .fbus = true →
    Answers (.fieldBusAbort iss) s (fun t => (s.fbs.scan.state = .running → t.fbs.scan.state = .done ∧ t.fbs.scan.code = 0x0B03) ∧
      (∀ e ∈ t.fbs.readers, e.2.install = none) ∧ t.fbs.chans = s.fbs.chans ∧ { code := 0x0B03, data := [] } ∈ t.arising))

/-- A DALI port with no level command waiting polls the device that has waited longest (R413); the reply writes the device's point
with provenance 0x03. An event of another instance type is ignored and counted (R412). A waiting level is sent, a frame in
collision is repeated and dropped at the tenth (R412). First levels follow the admission one every 50 ms (R491). Below 9.5 V
for more than 500 ms a port fails; it starts again after 1 s at 9.5 V (R414). An OSDP port has one command outstanding and
polls in address order (R416); a reply with a bad MAC closes the secure channel and counts SC_FAIL; RAW waits for its
decision, with domain 0's time and the hash of its bits (R419, R420); ACK to KEYSET ends install mode (R417); 200 ms end a
command. A channel opens with keys of the base key, or of the default key in install mode only; a reader that offers none in
operation counts SC_FAIL. START, STOP and INSTALL fit their ports' states; INSTALL ends after 10 min (R417). -/
def Obligations.DaliPortsAndOsdpReaders : Prop :=
  (∀ (p : Fin 4) (s : State), daliUp s p = true → (daliPort s p).waiting = [] →
    (∀ q, nextQueryDue s p = some q → Answers (.daliPoll p) s (fun t => (daliPort t p).onBus = some (.poll (q / 2) (q % 2 == 1)) ∧
      (daliPort t p).tries = 0 ∧ Tbl.get? t.fbs.polled q = some s.now ∧ ∀ k, k ≠ q → Tbl.get? t.fbs.polled k = Tbl.get? s.fbs.polled k)) ∧
    (nextQueryDue s p = none → exec (.daliPoll p) s = .next s)) ∧
  (∀ (p : Fin 4) (b : Byte) (s : State) d st w q, daliUp s p = true → (daliPort s p).onBus = some (.poll d st) →
    Tbl.get? s.stn.tbl (daliDev s d).station = some w → w.st = .present → isRun s .trellis = true →
    pt? s (backwardWrite s d st b).1 = some q → isWriter q 3 d w.cask = true → Plain s (backwardWrite s d st b).1 →
    Answers (.daliBackwardFrame p b) s (fun t => (∃ w', Tbl.get? t.stn.tbl (daliDev s d).station = some w' ∧ w'.lastAt = s.now) ∧
      ∃ q', pt? t (backwardWrite s d st b).1 = some q' ∧ q'.value = (backwardWrite s d st b).2 ∧ q'.prov = 3)) ∧
  (∀ (p : Fin 4) (sh : Fin 64) (inst ty : Fin 32) (ev : Fin 1024) (s : State), daliUp s p = true →
    (ty.val ≠ 1 → ty.val ≠ 3 → Answers (.daliEventMessage p sh inst ty ev) s (fun t => t.trl = s.trl ∧ (daliPort t p).ignored = (daliPort s p).ignored + 1)) ∧
    (∀ d r q, ty.val = 1 → s.fbs.devs.find? (fun e => e.2.bus == p.val && e.2.kind == 2 && e.2.short == sh.val && e.2.inst == inst.val) = some (d, r) →
      isRun s .trellis = true → pt? s r.first = some q → isWriter q 3 d (stnCask s r.station) = true → Plain s r.first →
      Answers (.daliEventMessage p sh inst ty ev) s (fun t => ∃ q', pt? t r.first = some q' ∧ q'.value.toNat = ev.val ∧ q'.prov = 3))) ∧
  (∀ (p : Fin 4) (s : State), daliUp s p = true →
    (∀ d r, (daliPort s p).waiting = d :: r → (daliPort s p).starting = [] →
      Answers (.daliLevelCommand p false) s (fun t => (daliPort t p).onBus = some (.level d (levelOf s d)) ∧ (daliPort t p).tries = 0 ∧
        d ∉ (daliPort t p).waiting)) ∧
    ((daliPort s p).onBus ≠ none → (daliPort s p).tries < 9 →
      Answers (.daliLevelCommand p true) s (fun t => (daliPort t p).onBus = (daliPort s p).onBus ∧ (daliPort t p).tries = (daliPort s p).tries + 1)) ∧
    ((daliPort s p).onBus ≠ none → 9 ≤ (daliPort s p).tries → (daliPort s p).collDrop < 65535 →
      Answers (.daliLevelCommand p true) s (fun t => (daliPort t p).onBus = none ∧ (daliPort t p).collDrop = (daliPort s p).collDrop + 1)) ∧
    (∀ a d r, Tbl.get? s.pwr.portAdmit p.val = some a → a + p.val * 250000000 ≤ s.now →
      (∀ x, (daliPort s p).lastFirst = some x → x + 50000000 ≤ s.now) → (daliPort s p).starting = d :: r → levelOf s d ≠ 0 →
      Answers (.daliStartCommandDue p) s (fun t => (daliPort t p).onBus = some (.level d (levelOf s d)) ∧ (daliPort t p).starting = r ∧
        (daliPort t p).lastFirst = some s.now)) ∧
    (∀ mv ms, mv < 9500 → 500 < ms → Answers (.bsiDaliFail p mv ms) s (fun t => (daliPort t p).fault = true ∧ (daliPort t p).onBus = none ∧
      { code := 0x0C12, data := toLe 1 p } ∈ t.arising))) ∧
  (∀ (p : Fin 4) (mv ms : Nat) (s : State), isRun s .fbus = true → (daliPort s p).fault = true → 9500 ≤ mv → 1000 ≤ ms →
    Answers (.daliBusRestored p mv ms) s (fun t => (daliPort t p).fault = false ∧ (daliPort t p).starting = gearOf s p)) ∧
  (∀ (p : Fin 2) (s : State) r, isRun s .fbus = true → (osdpPort s p).running = true → (osdpPort s p).out = none → nextReader s p = some r →
    Answers (.osdpPoll p) s (fun t => (osdpPort t p).out = some (r, s.now) ∧ (osdpPort t p).last = some r ∧ (reader t r).open0 = (reader s r).open0 ∧
      ((reader s r).install = none → (reader s r).open0 = true → (reader t r).orders = (reader s r).orders.drop 1))) ∧
  (∀ (p : Fin 2) (s : State) r t0, isRun s .fbus = true → (osdpPort s p).out = some (r, t0) →
    (∀ x ok, (reader s r).open0 = false → Answers (.osdpReply p ok x) s (fun t => (osdpPort t p).out = none ∧ t.trl = s.trl ∧ t.stn = s.stn ∧ t.fbs.readers = s.fbs.readers)) ∧
    (∀ x, (reader s r).open0 = true → (osdpPort s p).scFail < 65535 → Answers (.osdpReply p false x) s (fun t => (osdpPort t p).out = none ∧ (reader t r).open0 = false ∧
      (reader t r).keys = [] ∧ (osdpPort t p).scFail = (osdpPort s p).scFail + 1 ∧ t.trl = s.trl ∧
      { code := 0x0C13, cask := stnCask s (reader s r).rc.station, data := toLe 1 p ++ toLe 1 (reader s r).rc.addr } ∈ t.arising)) ∧
    (∀ f b ds, (reader s r).open0 = true → Answers (.osdpReply p true (.raw f b ds)) s (fun t => (osdpPort t p).out = none ∧
      (osdpPort t p).raws = (osdpPort s p).raws ++ [{ reader := r, stamp := localNs s .fbus 0, hash := cardHash f b ds }])) ∧
    (∀ i, (reader s r).open0 = true → (reader s r).install = some i → (reader s r).keySet = true →
      Answers (.osdpReply p true .ack) s (fun t => (reader t r).install = none ∧ (reader t r).open0 = false ∧
        ∃ c, { code := 0x0C16, cask := c, data := toLe 1 (reader s r).rc.port ++ toLe 1 (reader s r).rc.addr ++ toLe 1 0 } ∈ t.arising)) ∧
    (t0 + 200000000 ≤ s.now → exec (.osdpReplyTimeout p) s = .next (updOsdp p (fun o => { o with out := none }) s))) ∧
  (∀ (r : Fin 32) (rnd : List Byte) (s : State) t0, isRun s .fbus = true → (osdpPort s (reader s r).rc.port).out = some (r.val, t0) → (reader s r).open0 = false →
    ((reader s r).install.isSome = true → Answers (.osdpScSetup r true rnd) s (fun t => (reader t r).open0 = true ∧
      (reader t r).keys = Config.osdpSession Config.osdpDefault rnd)) ∧
    (∀ k, (reader s r).install = none → baseKey s r = some k → isRun s .key = true →
      Answers (.osdpScSetup r true rnd) s (fun t => (reader t r).open0 = true ∧ (reader t r).keys = Config.osdpSession k rnd)) ∧
    ((reader s r).install = none → (osdpPort s (reader s r).rc.port).scFail < 65535 →
      Answers (.osdpScSetup r false rnd) s (fun t => (reader t r).open0 = false ∧ (osdpPort t (reader s r).rc.port).scFail = (osdpPort s (reader s r).rc.port).scFail + 1))) ∧
  (∀ (iss : Issuer) (n : Fin 6) (s : State), Permits s iss .bsi 0x0004 true →
    (n.val < 4 → (daliPort s n).running = false → Answers (.bsiPortStart iss n) s (fun t => (daliPort t n).running = true ∧ (daliPort t n).starting = gearOf s n ∧ t.reply = .code 0x0C00)) ∧
    (n.val < 4 → (daliPort s n).running = true → Answers (.bsiPortStart iss n) s (fun t => t.fbs.dali = s.fbs.dali ∧ t.reply = .code 0x0C05)) ∧
    (4 ≤ n.val → (osdpPort s (n - 4)).running = false → Answers (.bsiPortStart iss n) s (fun t => (osdpPort t (n - 4)).running = true ∧ t.reply = .code 0x0C00)) ∧
    (n.val < 4 → (daliPort s n).running = true → Answers (.bsiPortStop iss n) s (fun t => (daliPort t n).running = false ∧ (daliPort t n).waiting = [] ∧
      (daliPort t n).onBus = none ∧ t.reply = .code 0x0C00)) ∧
    (4 ≤ n.val → (osdpPort s (n - 4)).running = true → Answers (.bsiPortStop iss n) s (fun t => (osdpPort t (n - 4)).running = false ∧
      (osdpPort t (n - 4)).out = none ∧ (∀ r ∈ readersOf s (n - 4), (reader t r).open0 = false ∧ (reader t r).keys = []) ∧ t.reply = .code 0x0C00))) ∧
  (∀ (iss : Issuer) (n : Fin 16) (a : Fin 128) (s : State) r, Permits s iss .bsi 0x0004 true → 4 ≤ n.val →
    (readersOf s (n.val - 4)).find? (fun r => (reader s r).rc.addr == a.val) = some r → (osdpPort s (n.val - 4)).running = true →
    (iss.cask = 0 → Answers (.install iss n a) s (fun t => (reader t r).install = some s.now ∧ (reader t r).open0 = false ∧ t.reply = .code 0x0C00)) ∧
    (iss.cask ≠ 0 → Answers (.install iss n a) s (fun t => t.fbs.readers = s.fbs.readers ∧ t.reply = .code 0x0C05))) ∧
  (∀ (r : Fin 32) (s : State) i, isRun s .fbus = true → (reader s r).install = some i → i + 600000000000 ≤ s.now →
    Answers (.installTimeout r) s (fun t => (reader t r).install = none ∧ (reader t r).open0 = false ∧
      { code := 0x0C16, cask := stnCask s (reader s r).rc.station, data := toLe 1 (reader s r).rc.port ++ toLe 1 (reader s r).rc.addr ++ toLe 1 2 } ∈ t.arising))

/-- R420's conditions for a grant of an entry at door `d`. -/
def GrantOk (s : State) (d : Nat) (r : DoorRec) (k : RawCard) (e : Cred) : Prop :=
  bitOf e.doors.toNat d = true ∧ e.from0 * 60000000000 ≤ k.stamp ∧ k.stamp < e.to0 * 60000000000 ∧
  (trusted s 0 = true ∨ r.untrustedDeny = false) ∧
  (e.sched = 0xFF ∨ ∃ i ∈ (Tbl.at s.fbs.scheds e.sched {}).ints, i.1 ≤ minuteOfWeek s k.stamp ∧ minuteOfWeek s k.stamp < i.2)

/-- A RAW reply is decided at each door of its reader by R420: before the table is restored the reason is 6; a card with no entry
of the door's cask (or of cask 0 where the door allows) is 1; an entry that names the door, whose time holds the card's stamp,
with domain 0 trusted or the door not denying without it, and whose schedule holds the minute, is a GRANT that opens the
strike; any other entry is a refusal. A grant is recorded with reason 0 and the hash, a refusal as DENY with its reason. The
strike point goes FALSE when its time has passed. ADD refuses an existing hash (EXISTS), a cask at its quota (QUOTA) and a
full table (FULL); DELETE and REPLACE change only the issuing cask's entry of that hash, or answer NONE (R419). Restoration
takes the journaled copy, or an empty table while ACCEPTED is clear (R451). -/
def Obligations.AccessDecisionsAndCredentials : Prop :=
  (∀ (p : Fin 2) (s : State) k rest d r, isRun s .fbus = true → (osdpPort s p).raws = k :: rest → (d, r) ∈ s.fbs.doors → r.reader = k.reader →
    Answers (.accessDecision p) s (fun t => (osdpPort t p).raws = rest ∧
      (s.fbs.restored = false → { code := 0x0C11, cask := doorCask s r, data := d1 d ++ d1 6 ++ d4 k.hash.toNat } ∈ t.arising) ∧
      (s.fbs.restored = true → credFor s r k.hash = none → { code := 0x0C11, cask := doorCask s r, data := d1 d ++ d1 1 ++ d4 k.hash.toNat } ∈ t.arising) ∧
      (∀ e, s.fbs.restored = true → credFor s r k.hash = some e → GrantOk s d r k e →
        { code := 0x0C10, cask := doorCask s r, data := d1 d ++ d1 0 ++ d4 k.hash.toNat } ∈ t.arising ∧ Tbl.get? t.fbs.strikes d = some s.now) ∧
      (∀ e, s.fbs.restored = true → credFor s r k.hash = some e → ¬ GrantOk s d r k e →
        ∃ w, 2 ≤ w ∧ w ≤ 5 ∧ { code := 0x0C11, cask := doorCask s r, data := d1 d ++ d1 w ++ d4 k.hash.toNat } ∈ t.arising))) ∧
  (∀ (p : Fin 2) (s : State) k rest d r q, isRun s .fbus = true → (osdpPort s p).raws = k :: rest → s.fbs.doors = [(d, r)] → r.reader = k.reader →
    pt? s r.strike = some q → (s.fbs.restored = false ∨ credFor s r k.hash = none ∨ ∃ e, credFor s r k.hash = some e ∧ ¬ GrantOk s d r k e) →
    Answers (.accessDecision p) s (fun t => pt? t r.strike = some q ∧ t.fbs.strikes = s.fbs.strikes)) ∧
  (∀ (d : Fin 32) (s : State) t0 r q, isRun s .fbus = true → Tbl.get? s.fbs.strikes d.val = some t0 → Tbl.get? s.fbs.doors d.val = some r →
    pt? s r.strike = some q → t0 + r.strikeMs * 1000000 ≤ s.now →
    Answers (.strikeExpiry d) s (fun t => Tbl.get? t.fbs.strikes d.val = none ∧ ∃ q', pt? t r.strike = some q' ∧ q'.value = 0)) ∧
  (∀ (iss : Issuer) (sc de : Byte) (s : State), Permits s iss .bsi 0x0214 true →
    let c := iss.cask.val
    let e := bankCred c (credBank s c) sc de
    (holdsCred s c e.hash = true → Answers (.credAdd iss sc de) s (fun t => t.fbs.creds = s.fbs.creds ∧ t.reply = .code 0x0C03)) ∧
    (holdsCred s c e.hash = false → Tbl.at s.fbs.quotas c 0 ≤ credsHeld s c →
      Answers (.credAdd iss sc de) s (fun t => t.fbs.creds = s.fbs.creds ∧ t.reply = .code 0x0C02)) ∧
    (holdsCred s c e.hash = false → credsHeld s c < Tbl.at s.fbs.quotas c 0 → 16384 ≤ s.fbs.creds.length →
      Answers (.credAdd iss sc de) s (fun t => t.fbs.creds = s.fbs.creds ∧ t.reply = .code 0x0C01)) ∧
    (holdsCred s c e.hash = false → credsHeld s c < Tbl.at s.fbs.quotas c 0 → s.fbs.creds.length < 16384 →
      Answers (.credAdd iss sc de) s (fun t => t.fbs.creds = s.fbs.creds ++ [e] ∧ t.fbs.credFlash = s.fbs.credFlash ++ [e] ∧
        t.reply = .code 0x0C00 ∧ credsHeld t c = credsHeld s c + 1)) ∧
    (holdsCred s c e.hash = false → Answers (.credDelete iss) s (fun t => t.fbs.creds = s.fbs.creds ∧ t.reply = .code 0x0C04) ∧
      Answers (.credReplace iss sc de) s (fun t => t.fbs.creds = s.fbs.creds ∧ t.reply = .code 0x0C04)) ∧
    (holdsCred s c e.hash = true →
      Answers (.credDelete iss) s (fun t => holdsCred t c e.hash = false ∧ t.reply = .code 0x0C00 ∧
        ∀ x, (x.cask ≠ c ∨ x.hash ≠ e.hash) → (x ∈ t.fbs.creds ↔ x ∈ s.fbs.creds)) ∧
      Answers (.credReplace iss sc de) s (fun t => e ∈ t.fbs.creds ∧ t.fbs.creds.length = s.fbs.creds.length ∧ t.reply = .code 0x0C00 ∧
        ∀ x, (x.cask ≠ c ∨ x.hash ≠ e.hash) → (x ∈ t.fbs.creds ↔ x ∈ s.fbs.creds)))) ∧
  (∀ (s : State), isRun s .fbus = true → s.fbs.restored = false →
    Answers .credTableRestore s (fun t => t.fbs.restored = true ∧ t.fbs.creds = if s.key.accepted then s.fbs.credFlash else []))

/-- The issuer is cask 0, may write KEY_CMD, no attestation is in progress, and the engine is not sealed. -/
def KeyFree (s : State) (iss : Issuer) : Prop :=
  Permits s iss .key 0x0004 true ∧ iss.cask = 0 ∧ s.key.attesting = none ∧ isSealed s = false
/-- The blob at KEY_SRC is aligned, of at most 4,096 bytes and within the issuer's partition. -/
def BlobOk (s : State) (iss : Issuer) : Prop :=
  s.key.src.toNat % 16 = 0 ∧ s.key.len.toNat ≤ 4096 ∧ inPartition s iss.cask s.key.src.toNat s.key.len.toNat = true

/-- PROVISION opens its blob under the factory TRNS bud: with it the site rootstock is replaced, class B latches clear, all
monitors are armed and the module is PROVISIONED; a tripping class B monitor answers KEY_TAMPER_ACTIVE, a wrong state
KEY_LC_STATE (R428). SERVICE_ENTER with a good token enters SERVICE with the service rootstock, exit or 8 h leave it, erasing
that rootstock and emptying its slots (R428, R439). RETIRE with a token that names the serial erases every root. ACCEPT sets
ACCEPTED only for a token that verifies (R450). ATTEST is in progress until the signed report appears (R447). CLEAR_A is
refused while a latched monitor trips (R442). ARM sets the armed monitors (R441). An invalidation advances GEN and marks the
descendants (R440); the purge removes them. ROLL takes effect at its time with domain 0 trusted, else KEY_UNTRUSTED (R437).
Unsealing combines the shares of each root and closes the window (R431), and an armed monitor that trips then abandons it,
with the module sealed and the roots kept (R444); re-masking changes the shares and no root (R430). -/
def Obligations.KeyLifeCycleAndRoots : Prop :=
  (∀ (iss : Issuer) (s : State), KeyFree s iss → s.key.factory.isSome = true →
    (s.key.lc = .blank → BlobOk s iss → s.key.tripNow &&& s.key.armed &&& 0x7C = 0 →
      Answers (.provision iss) s (fun t => match openTransport s (blobOf s) with
        | none => t.key.lc = .blank ∧ t.key.site = s.key.site ∧ t.reply = .code 0x0D08
        | some p => t.key.lc = .provisioned ∧ t.key.site = some (BitVec.ofNat 256 (leAt p 0 32)) ∧ t.key.siteGen = leAt p 32 4 ∧
            t.key.latch = s.key.latch &&& 3 ∧ t.key.armed = 0x7F ∧ t.key.accepted = false ∧ t.key.factory = s.key.factory ∧ t.reply = .code 0x0D00 ∧
            { code := 0x0D10, data := [0, 1] } ∈ t.arising)) ∧
    (s.key.lc = .blank → BlobOk s iss → s.key.tripNow &&& s.key.armed &&& 0x7C ≠ 0 →
      Answers (.provision iss) s (fun t => t.key.lc = .blank ∧ t.key.site = s.key.site ∧ t.reply = .code 0x0D0B)) ∧
    (s.key.lc = .operational → Answers (.provision iss) s (fun t => t.key.lc = .operational ∧ t.key.site = s.key.site ∧ t.reply = .code 0x0D09))) ∧
  (∀ (iss : Issuer) (s : State), KeyFree s iss →
    (s.key.lc = .operational → BlobOk s iss →
      Answers (.serviceEnter iss) s (fun t => match openTransport s (tokenBody (blobOf s)) with
        | none => t.key.lc = .operational ∧ t.reply = .code 0x0D08
        | some p => if tokenOk s (blobOf s) then t.key.lc = .service ∧ t.key.service = some (BitVec.ofNat 256 (leAt p 0 32)) ∧
              t.key.entries = (s.key.entries + 1) % 2 ^ 32 ∧ t.key.serviceAt = s.now ∧ t.reply = .code 0x0D00
            else t.key.lc = .operational ∧ t.key.service = s.key.service ∧ t.reply = .code 0x0D08)) ∧
    (s.key.lc = .service → Answers (.serviceExit iss) s (fun t => t.key.lc = .operational ∧ t.key.service = none ∧
      (∀ e ∈ t.key.slots, slotRoot e.2 ≠ some .service) ∧ t.key.site = s.key.site ∧ t.reply = .code 0x0D00)) ∧
    (s.key.lc ≠ .service → Answers (.serviceExit iss) s (fun t => t.key.lc = s.key.lc ∧ t.key.service = s.key.service ∧ t.reply = .code 0x0D09)) ∧
    (s.key.lc ≠ .retired → BlobOk s iss →
      Answers (.retire iss) s (fun t => if tokenOk s (blobOf s) && (blobOf s).take 8 == serialBytes s then
          t.key.lc = .retired ∧ t.key.factory = none ∧ t.key.site = none ∧ t.key.service = none ∧ t.key.accepted = false ∧ t.reply = .code 0x0D00
        else t.key.lc = s.key.lc ∧ t.key.factory = s.key.factory ∧ t.reply = .code 0x0D08)) ∧
    (BlobOk s iss → Answers (.acceptIdentity iss) s (fun t => t.key.lc = s.key.lc ∧ match idPublic s with
        | none => t.key.accepted = s.key.accepted ∧ t.reply = .code 0x0D08
        | some pub => if (verifySlot s 13 (acceptMsg s pub) (blobOf s)).isSome then t.key.accepted = true ∧ t.reply = .code 0x0D00
            else t.key.accepted = s.key.accepted ∧ t.reply = .code 0x0D08)) ∧
    (s.key.factory.isSome = true → Answers (.attest iss) s (fun t => t.key.attesting = some 0 ∧ t.reply = .code 0x0D00)) ∧
    (s.key.lc = .service → s.key.latch &&& s.key.tripNow &&& 3 ≠ 0 → Answers (.clearA iss) s (fun t => t.key.latch = s.key.latch ∧ t.reply = .code 0x0D0B)) ∧
    (s.key.lc = .service → s.key.latch &&& s.key.tripNow &&& 3 = 0 → BlobOk s iss →
      Answers (.clearA iss) s (fun t => match deriveBud s .service .svc1 0 .clra (toLe 3 s.cel.pcycle) with
        | none => t.key.latch = s.key.latch ∧ t.reply = .code 0x0D08
        | some k => if blobOf s = Config.hmac384 k (serialBytes s ++ toLe 3 s.cel.pcycle) then t.key.latch = s.key.latch &&& 0x7C ∧ t.reply = .code 0x0D00
            else t.key.latch = s.key.latch ∧ t.reply = .code 0x0D08)) ∧
    (s.key.lc = .service → BlobOk s iss → Answers (.armMonitors iss) s (fun t => t.key.armed = leAt (blobOf s) 0 1 % 128 ∧ t.key.latch = s.key.latch ∧ t.reply = .code 0x0D00)) ∧
    (∀ c : Fin 64, Answers (.invalidateSess iss c) s (fun t => Tbl.at t.key.sessGen c 0 = (Tbl.at s.key.sessGen c 0 + 1) % 2 ^ 32 ∧ t.key.purging = true ∧
        (∀ e ∈ t.key.cache, e.label = 3 → e.cask = c.val → e.stale = true) ∧ t.key.cache.length = s.key.cache.length ∧ t.reply = .code 0x0D00) ∧
      Answers (.invalidateRdr iss c) s (fun t => Tbl.at t.key.rdrGen c 0 = (Tbl.at s.key.rdrGen c 0 + 1) % 2 ^ 32 ∧ t.key.purging = true ∧
        (∀ e ∈ t.key.cache, e.label = 4 → e.cask = c.val → e.stale = true) ∧ t.key.cache.length = s.key.cache.length ∧ t.reply = .code 0x0D00)) ∧
    (BlobOk s iss → Answers (.rollStage iss) s (fun t => t.key.site = s.key.site ∧ match deriveBud s .site .stor 0 .wrap (importCtx s) with
        | none => t.key.staged = s.key.staged ∧ t.reply = .code 0x0D03
        | some k => match Config.openBlob k (blobOf s) with
          | none => t.key.staged = s.key.staged ∧ t.reply = .code 0x0D08
          | some p => t.key.staged = some (BitVec.ofNat 256 (leAt p 0 32)) ∧ t.reply = .code 0x0D00)) ∧
    (s.key.staged = none → Answers (.roll iss) s (fun t => t.key.rollAt = s.key.rollAt ∧ t.reply = .code 0x0D09)) ∧
    (s.key.staged.isSome = true → Answers (.roll iss) s (fun t => t.key.rollAt = some (s.key.atHi ++ s.key.atLo) ∧ t.key.site = s.key.site ∧ t.reply = .code 0x0D00))) ∧
  (∀ (s : State), s.key.lc = .service → s.key.serviceAt + 28800000000000 ≤ s.now →
    Answers .serviceTimeout s (fun t => t.key.lc = .operational ∧ t.key.service = none ∧ (∀ e ∈ t.key.slots, slotRoot e.2 ≠ some .service))) ∧
  (∀ (s : State) c r, s.key.attesting = some c → s.key.factory = some r → isRun s .key = true →
    Answers .attestComplete s (fun t => t.key.attesting = none ∧ t.key.report.take 128 = attestBody s ∧ t.key.report.length = 224 ∧
      Tbl.at t.key.cmdStatus c 0 = 0x0D00)) ∧
  (∀ (s : State) x r, s.key.rollAt = some x → s.key.staged = some r → isRun s .key = true →
    (localNs s .key 0 < x.toNat → exec .rollActivation s = .next s) ∧
    (x.toNat ≤ localNs s .key 0 → trusted s 0 = false → Answers .rollActivation s (fun t => t.key.site = s.key.site ∧ t.key.rollAt = some x ∧ Tbl.at t.key.cmdStatus 0 0 = 0x0D0F)) ∧
    (x.toNat ≤ localNs s .key 0 → trusted s 0 = true → Answers .rollActivation s (fun t => t.key.site = some r ∧ t.key.rollAt = none ∧ t.key.staged = none ∧
      t.key.siteGen = (s.key.siteGen + 1) % 2 ^ 32 ∧ (∀ e ∈ t.key.cache, e.root = .site → e.stale = true) ∧ { code := 0x0D16, data := toLe 4 t.key.siteGen } ∈ t.arising))) ∧
  (∀ (s : State), s.key.purging = true → isRun s .key = true → s.key.purges < 65535 →
    Answers .cachePurgeComplete s (fun t => t.key.purging = false ∧ t.key.cache = s.key.cache.filter (fun e => !e.stale) ∧ t.key.purges = s.key.purges + 1)) ∧
  (∀ (s : State), s.key.window = true → tripping s = true →
    Answers .unseal s (fun t => t.key.window = false ∧ t.key.abandoned = true ∧ isSealed t = true ∧ t.key.site = s.key.site ∧
      t.key.bankA = s.key.bankA ∧ t.key.bankB = s.key.bankB ∧ { code := 0x0D14, data := [] } ∈ t.arising)) ∧
  (∀ (s : State), s.key.window = true → tripping s = false → isRun s .key = true →
    Answers .unseal s (fun t => t.key.window = false ∧ t.key.factory = (cells s).factory.map (fun p => p.1 ^^^ p.2) ∧
      t.key.site = (cells s).site.map (fun p => p.1 ^^^ p.2) ∧ t.key.service = (cells s).service.map (fun p => p.1 ^^^ p.2) ∧ t.key.useB = !s.key.useB)) ∧
  (∀ (s : State), s.key.window = false → exec .unseal s = .next s) ∧
  (∀ (s : State), s.key.remaskAt + 3600 ≤ s.cel.opSec →
    Answers .remask s (fun t => t.key.useB = !s.key.useB ∧ t.key.remaskAt = s.cel.opSec ∧
      (cells t).factory.map (fun p => p.1 ^^^ p.2) = (cells s).factory.map (fun p => p.1 ^^^ p.2) ∧
      (cells t).site.map (fun p => p.1 ^^^ p.2) = (cells s).site.map (fun p => p.1 ^^^ p.2) ∧
      (cells t).service.map (fun p => p.1 ^^^ p.2) = (cells s).service.map (fun p => p.1 ^^^ p.2) ∧ t.key.factory = s.key.factory ∧ t.key.site = s.key.site))

/-- The commands of slot operations, with their code and USAGE bit (Tables 14.4 and 14.10). -/
def SlotCmd (c : Instr) (iss : Issuer) (n : Fin 64) (op us : Nat) : Prop :=
  c = .encrypt iss n ∧ op = 1 ∧ us = 8 ∨ c = .decrypt iss n ∧ op = 2 ∧ us = 9 ∨ c = .sign iss n ∧ op = 3 ∧ us = 10 ∨
  c = .verify iss n ∧ op = 4 ∧ us = 11 ∨ c = .computeMac iss n ∧ op = 5 ∧ us = 15

/-- IMPORT into an empty slot, of cask 0 alone for slots 0 to 15, stores the key its blob carries for that slot and the issuer's
cask; a full slot answers KEY_SLOT_BUSY; a secret key needs ACCEPTED (R439, R451). DELETE by the slot's cask or cask 0 empties
it; another cask is refused and recorded (R439, R76). EXPORT of an exportable usable slot writes its wrapped key within the
issuer's partition only (R40). An operation is refused while one is in progress (KEY_BUSY), sealed (KEY_SEALED), on an empty
slot, another cask's slot, without its USAGE bit or life-cycle state, unusable, or outside the partition; otherwise it takes
its input at once (R439). Its result is written only on KEY_OK within the partition, and the slot's uses are counted; the
destination range outside the partition is KEY_USAGE with CASK_DENIED and nothing written. -/
def Obligations.KeySlotsAndSlotOperations : Prop :=
  (∀ (iss : Issuer) (n : Fin 64) (s : State), Permits s iss .key 0x0004 true → s.key.attesting = none → isSealed s = false →
    (slotEmpty (kslot s n) = false → (16 ≤ n.val ∨ iss.cask = 0) → Answers (.importKey iss n) s (fun t => t.key.slots = s.key.slots ∧ t.reply = .code 0x0D05)) ∧
    (n.val < 16 → iss.cask ≠ 0 → Answers (.importKey iss n) s (fun t => t.key.slots = s.key.slots ∧ t.reply = .code 0x0D04)) ∧
    (slotEmpty (kslot s n) = true → (16 ≤ n.val ∨ iss.cask = 0) → BlobOk s iss →
      Answers (.importKey iss n) s (fun t => match importPlain s (blobOf s) with
        | none => t.key.slots = s.key.slots ∧ t.reply = .code 0x0D08
        | some p =>
          let k : KSlot := { attr := leAt p 0 4, key := p.drop 8 }
          (leAt p 4 4 = n.val → slotType k ≠ 0 → (slotRoot k).isSome = true → slotCask k = iss.cask.val →
            ((s.key.accepted = true ∨ slotType k = 2) → kslot t n = k ∧ (∀ m, m ≠ n.val → kslot t m = kslot s m) ∧ t.reply = .code 0x0D00) ∧
            (s.key.accepted = false → slotType k = 1 → t.key.slots = s.key.slots ∧ t.reply = .code 0x0D0A)) ∧
          (leAt p 4 4 ≠ n.val → t.key.slots = s.key.slots ∧ t.reply = .code 0x0D08))) ∧
    (slotEmpty (kslot s n) = true → Answers (.deleteKey iss n) s (fun t => t.key.slots = s.key.slots ∧ t.reply = .code 0x0D06)) ∧
    (slotEmpty (kslot s n) = false → (iss.cask = 0 ∨ iss.cask.val = slotCask (kslot s n)) →
      Answers (.deleteKey iss n) s (fun t => slotEmpty (kslot t n) = true ∧ (∀ m, m ≠ n.val → kslot t m = kslot s m) ∧ t.reply = .code 0x0D00)) ∧
    (slotEmpty (kslot s n) = false → iss.cask ≠ 0 → iss.cask.val ≠ slotCask (kslot s n) →
      Answers (.deleteKey iss n) s (fun t => t.key.slots = s.key.slots ∧ t.reply = .code 0x0D04 ∧
        ∃ d, { code := 0x0220, cask := iss.cask, data := d } ∈ t.arising)) ∧
    (slotEmpty (kslot s n) = false → iss.cask.val = slotCask (kslot s n) →
      (bitOf (kslot s n).attr 31 = true → Answers (.exportKey iss n) s (fun t => t.mem = s.mem ∧ t.reply = .code 0x0D0C)) ∧
      (bitOf (kslot s n).attr 31 = false → slotUnusable s (kslot s n) = true → Answers (.exportKey iss n) s (fun t => t.mem = s.mem ∧ t.reply = .code 0x0D07)) ∧
      (bitOf (kslot s n).attr 31 = false → slotUnusable s (kslot s n) = false →
        let dst := (opBank s iss.cask).dst.toNat
        let out := Config.exportBlob (kslot s n).key
        Answers (.exportKey iss n) s (fun t => t.key.slots = s.key.slots ∧
          if inPartition s iss.cask dst out.length then t.reply = .code 0x0D00 ∧ t.mem.dram = memWriteBytes s.mem.dram dst out
          else t.reply = .code 0x0D04 ∧ t.mem = s.mem)))) ∧
  (∀ (iss : Issuer) (n : Fin 64) (s : State) c op us, SlotCmd c iss n op us → Permits s iss .key 0x0040 true →
    let b := opBank s iss.cask
    let k := kslot s n
    (b.busy.isSome = true → Answers c s (fun t => t.reply = .code 0x0D0E ∧ (opBank t iss.cask).busy = b.busy ∧ (opBank t iss.cask).input = b.input)) ∧
    (b.busy = none → isSealed s = true → Answers c s (fun t => t.reply = .code 0x0D01 ∧ (opBank t iss.cask).busy = none)) ∧
    (b.busy = none → isSealed s = false → slotEmpty k = true → Answers c s (fun t => t.reply = .code 0x0D06 ∧ (opBank t iss.cask).busy = none)) ∧
    (b.busy = none → isSealed s = false → slotEmpty k = false →
      (slotCask k ≠ iss.cask.val → Answers c s (fun t => t.reply = .code 0x0D04 ∧ (opBank t iss.cask).busy = none ∧
        ∃ d, { code := 0x0220, cask := iss.cask, data := d } ∈ t.arising)) ∧
      (slotCask k = iss.cask.val → (bitOf k.attr us = false ∨ slotLc s k = false) →
        Answers c s (fun t => t.reply = .code 0x0D04 ∧ (opBank t iss.cask).busy = none ∧ t.arising = s.arising)) ∧
      (slotCask k = iss.cask.val → bitOf k.attr us = true → slotLc s k = true → slotUnusable s k = true →
        Answers c s (fun t => t.reply = .code 0x0D07 ∧ (opBank t iss.cask).busy = none)) ∧
      (slotCask k = iss.cask.val → bitOf k.attr us = true → slotLc s k = true → slotUnusable s k = false → b.len.toNat ≤ 65536 →
        inPartition s iss.cask b.src.toNat b.len.toNat = true →
        Answers c s (fun t => (opBank t iss.cask).busy = some (op, n.val) ∧
          (opBank t iss.cask).input = memReadBytes s.mem.dram b.src.toNat b.len.toNat ∧ t.key.slots = s.key.slots ∧ t.mem = s.mem)) ∧
      (slotCask k = iss.cask.val → bitOf k.attr us = true → slotLc s k = true → slotUnusable s k = false → b.len.toNat ≤ 65536 →
        inPartition s iss.cask b.src.toNat b.len.toNat = false →
        Answers c s (fun t => t.reply = .code 0x0D04 ∧ (opBank t iss.cask).busy = none ∧ ∃ d, { code := 0x0220, cask := iss.cask, data := d } ∈ t.arising)))) ∧
  (∀ (c : Fin 64) (s : State) op n, (opBank s c).busy = some (op, n) → isRun s .key = true →
    Answers (.keyOpComplete c) s (fun t => (opBank t c).busy = none ∧ (opBank t c).input = [] ∧
      (∀ d, d ≠ c.val → opBank t d = opBank s d) ∧
      match Config.slotOp op (slotType (kslot s n)) (kslot s n).key (opBank s c).input with
      | none => t.mem = s.mem ∧ t.key.slots = s.key.slots ∧ (opBank t c).code = 0x0D08
      | some out =>
        if inPartition s c (opBank s c).dst.toNat out.length then
          t.mem.dram = memWriteBytes s.mem.dram (opBank s c).dst.toNat out ∧ (opBank t c).code = 0x0D00 ∧
          ((kslot s n).uses < 65535 → kslot t n = { kslot s n with uses := (kslot s n).uses + 1 })
        else t.mem = s.mem ∧ t.key.slots = s.key.slots ∧ (opBank t c).code = 0x0D04 ∧
          ∃ d, { code := 0x0220, cask := c, data := d } ∈ t.arising))

/-- A monitor's sample as a command: its number, and whether it trips by Table 14.5. -/
def Sampled (c : Instr) (s : State) (m : Nat) (trips : Bool) : Prop :=
  (∃ (k : Fin 3) (same : Bool) (lux : Nat), c = .meshSample k same lux ∧ m = 2 + k.val ∧ trips = (if k.val < 2 then !same else decide (20 < lux))) ∨
  (∃ (k : Fin 2) (ms : Nat), c = .lidOpen k ms ∧ m = k.val ∧ trips = decide (10 ≤ ms)) ∨
  (∃ dev ns, c = .glitchDetected (.rail dev ns) ∧ m = 5 ∧ trips = decide (150 < dev.natAbs ∧ 20 ≤ ns)) ∨
  (∃ hz, c = .glitchDetected (.crystal hz) ∧ m = 6 ∧ trips = decide (40000 < hz)) ∨
  (∃ k, c = .glitchDetected (.keyClock k) ∧ m = 6 ∧ trips = decide (s.cel.battery = false ∧ (k < 180000 ∨ 220000 < k)))

/-- A sample of a monitor shows whether it trips (R441); one that is armed and begins to trip, or has no latch set, trips: it sets
its latch. Class A (the lids, open 10 ms) does nothing more than record KEY_TAMPER_A (R442). Class B (meshes, light above 20
lux, glitches) zeroes both banks of the site and service rootstocks and the engine's copies, makes their slots unusable and
seals the module (R443, R445); the factory rootstock stays. A monitor that is not armed, or latched and tripping already,
changes nothing but its state now. An armed monitor that trips inside the unsealing window abandons the unsealing, and the
module is sealed (R444). A service session needs a certificate that verifies: cask 63 only in SERVICE, at most two sessions,
and none for other casks than 0 and 63; ten minutes without a message close it (R458). The abort ends every operation with
KEY_ABORTED and keeps roots, slots and latches (R452). -/
def Obligations.TamperMonitorsSessionsAndAbort : Prop :=
  (∀ (c : Instr) (s : State) m, Sampled c s m false →
    Answers c s (fun t => bitOf t.key.tripNow m = false ∧ t.key.latch = s.key.latch ∧ t.key.site = s.key.site ∧ t.key.slots = s.key.slots ∧ t.arising = s.arising)) ∧
  (∀ (c : Instr) (s : State) m, Sampled c s m true →
    Answers c s (fun t => bitOf t.key.tripNow m = true ∧
      ((bitOf s.key.armed m = false ∨ bitOf s.key.latch m = true ∧ bitOf s.key.tripNow m = true ∧ s.key.window = false) → t.key.latch = s.key.latch ∧ t.key.site = s.key.site ∧ t.key.service = s.key.service ∧
        t.arising = s.arising) ∧
      (bitOf s.key.armed m = true → s.key.window = true → t.key.window = false ∧ t.key.abandoned = true ∧ isSealed t = true) ∧
      (bitOf s.key.armed m = true → (bitOf s.key.latch m = false ∨ bitOf s.key.tripNow m = false) →
        bitOf t.key.latch m = true ∧ t.key.factory = s.key.factory ∧
        (m < 2 → t.key.site = s.key.site ∧ t.key.service = s.key.service ∧ t.key.slots = s.key.slots ∧ { code := 0x0D11, data := toLe 1 m } ∈ t.arising) ∧
        (2 ≤ m → t.key.site = none ∧ t.key.service = none ∧ t.key.bankA.site = none ∧ t.key.bankB.site = none ∧ t.key.bankA.service = none ∧
          t.key.bankB.service = none ∧ isSealed t = true ∧ (∀ e ∈ t.key.cache, (e.root = .site ∨ e.root = .service) → e.stale = true) ∧
          (∀ n, (slotRoot (kslot s n) = some .site ∨ slotRoot (kslot s n) = some .service) → slotUnusable t (kslot t n) = true) ∧
          (∀ k, (opBank t k).busy = none) ∧ { code := 0x0D12, data := toLe 1 m } ∈ t.arising)))) ∧
  (∀ (iss : Issuer) (s : State), Permits s iss .sys 0x0030 true → iss.cask = 0 → isRun s .key = true →
    Answers (.keyEngineAbort iss) s (fun t => (∀ k, (opBank t k).busy = none ∧ ((opBank s k).busy.isSome = true → (opBank t k).code = 0x0D0D)) ∧
      t.key.attesting = none ∧ t.key.site = s.key.site ∧ t.key.factory = s.key.factory ∧ t.key.slots = s.key.slots ∧ t.key.latch = s.key.latch ∧
      { code := 0x0D0D, data := [] } ∈ t.arising)) ∧
  (∀ (cert sig : List Byte) (s : State), logicUp s = true → s.pwr.shed = false →
    Answers (.serviceSessionOpen cert sig) s (fun t => match verifySlot s 11 cert sig with
      | none => t.key.sessions = s.key.sessions ∧ { code := 0x0E14, data := [0xFF, 0, 4] } ∈ t.arising
      | some k =>
        ((slotCask k = 0 ∨ slotCask k = 63 ∧ s.key.lc = .service) → s.key.sessions.length < 2 →
          ∃ n, n < 2 ∧ Tbl.get? t.key.sessions n = some { cask := slotCask k, lastMsg := s.now }) ∧
        ((slotCask k = 0 ∨ slotCask k = 63 ∧ s.key.lc = .service) → 2 ≤ s.key.sessions.length → t.key.sessions = s.key.sessions ∧
          { code := 0x0E14, cask := slotCask k, data := d1 0xFF ++ d1 (slotCask k) ++ d1 6 } ∈ t.arising) ∧
        (slotCask k = 63 → s.key.lc ≠ .service → t.key.sessions = s.key.sessions) ∧
        (slotCask k ≠ 0 → slotCask k ≠ 63 → t.key.sessions = s.key.sessions))) ∧
  (∀ (n : Fin 2) (s : State) x, Tbl.get? s.key.sessions n.val = some x →
    (x.lastMsg + 600000000000 ≤ s.now → Answers (.serviceSessionTimeout n) s (fun t => Tbl.get? t.key.sessions n.val = none ∧
      { code := 0x0E14, cask := x.cask, data := toLe 1 n ++ toLe 1 x.cask ++ toLe 1 1 } ∈ t.arising)) ∧
    (s.now < x.lastMsg + 600000000000 → exec (.serviceSessionTimeout n) s = .next s))

/-- STAGE of a set that fails a check ends in IDLE with that check's code and section, the running image in force unchanged (R55):
sealed, a staging area outside cask 0's partition or off a 16-byte boundary, or the checks of the set. A valid set becomes
STAGED, or stays in CHECKING while islands it needs are woken (R488). COMMIT makes checks 15 to 17 again (R56), then
COMMITTING, or SCHEDULED with the activation time, and stores the set behind the whole image. DISCARD drops the set. The
commit Trellis cycle of a committed set, or of a scheduled one whose time is reached, puts its vintage and windows in force
(R61, R62) and waits for the reports of its sections; the last report ends the load; a scheduled set before its time stays
(R61), and one whose time comes untrusted stays with an event (R64). The Cluster abort ends CHECKING and STAGED with
IMAGE_ABORTED, and is only recorded in SCHEDULED and COMMITTING (R67). -/
def Obligations.SectionalLoadSteps : Prop :=
  (∀ (iss : Issuer) (s : State), iss.cask.val = 0 → Permits s iss .upd 0x0800 true →
    let u : State := { s with reply := .none }
    (s.img.state = .idle → isSealed s = true → Answers (.stage iss) s (fun t =>
      t.img.state = .idle ∧ t.img.code = 0x0211 ∧ t.img.failSec = 0 ∧ t.img.held = none ∧ t.img.vintage = s.img.vintage ∧ t.upd = s.upd)) ∧
    (s.img.state = .idle → isSealed s = false → inPartition s 0 s.img.src.toNat s.img.len.toNat = false → Answers (.stage iss) s (fun t =>
      t.img.state = .idle ∧ t.img.code = 0x0201 ∧ t.img.held = none ∧ t.img.vintage = s.img.vintage ∧ t.upd = s.upd ∧
      ∃ d, { code := 0x0220, data := d } ∈ t.arising)) ∧
    (s.img.state = .idle → isSealed s = false → s.img.src.toNat % 16 ≠ 0 → Answers (.stage iss) s (fun t =>
      t.img.state = .idle ∧ t.img.code = 0x0201 ∧ t.img.held = none ∧ t.img.vintage = s.img.vintage ∧ t.upd = s.upd)) ∧
    (s.img.state = .idle → isSealed s = false → inPartition s 0 s.img.src.toNat s.img.len.toNat = true → s.img.src.toNat % 16 = 0 →
      let v := validateSet u (stagedBytes s)
      Answers (.stage iss) s (fun t => t.img.vintage = s.img.vintage ∧
        if v.code ≠ 0 then t.img.state = .idle ∧ t.img.code = v.code ∧ t.img.failSec = v.sec ∧ t.img.held = none ∧ t.upd = s.upd
        else if islandsToWake u v.tabs ≠ [] then t.img.state = .checking ∧ t.img.held = some { bytes := stagedBytes s } ∧ t.upd = s.upd ∧
          ∀ i ∈ islandsToWake u v.tabs, ∃ r ∈ t.pwr.wakeQ, r.isl = i
        else t.img.state = .staged ∧ t.img.code = 0 ∧ t.img.held = some { bytes := stagedBytes s } ∧ (siSlot t).sets = (siSlot s).sets)) ∧
    (∀ b h, s.img.state = .staged → s.img.held = some h → Answers (.commit iss b) s (fun t => t.img.vintage = s.img.vintage ∧
      match stateChecks u (tabsNow u) (tabsOver false h.bytes (tabsNow u)) with
      | some (c, sec) => t.img.state = .idle ∧ t.img.code = c ∧ t.img.failSec = sec ∧ t.img.held = none ∧ t.upd = s.upd
      | none => t.img.code = 0 ∧
        if b then t.img.state = .scheduled ∧ t.img.held = some { h with at0 := some (s.img.atHi ++ s.img.atLo) } ∧ t.upd = s.upd
        else t.img.state = .committing ∧ t.img.held = some h ∧ (siSlot t).sets = (siSlot s).sets ++ [h.bytes])) ∧
    (s.img.state = .staged → exec (.discard iss) s = .next { s with
      img.state := .idle, img.code := 0, img.failSec := 0, img.held := none, img.awaiting := [], reply := .code 0 })) ∧
  (∀ (s : State) h, isRun s .trellis = true → s.img.held = some h →
    let put : State → Prop := fun t => t.img.vintage = imVintage h.bytes ∧ t.img.held = none ∧
      t.img.windows = (tabsOver false h.bytes (tabsNow s)).windows ∧
      (if reporting h.bytes = [] then t.img.state = .idle ∧ t.img.code = 0
        else t.img.state = .committing ∧ t.img.awaiting = reporting h.bytes)
    (s.img.state = .committing → Answers .commitTrellisCycle s put) ∧
    (s.img.state = .scheduled → localNs s .trellis 0 < (h.at0.getD 0).toNat → Answers .commitTrellisCycle s (fun t =>
      t.img.state = .scheduled ∧ t.img.held.isSome = true ∧ t.img.vintage = s.img.vintage ∧ t.upd = s.upd ∧ t.trl = s.trl)) ∧
    (s.img.state = .scheduled → (h.at0.getD 0).toNat ≤ localNs s .trellis 0 → trusted s 0 = false → Answers .commitTrellisCycle s (fun t =>
      t.img.state = .scheduled ∧ t.img.held = some { h with waitTold := true } ∧ t.img.vintage = s.img.vintage ∧ t.upd = s.upd ∧ t.trl = s.trl ∧
      (h.waitTold = false → t.arising.length = s.arising.length + 1))) ∧
    (s.img.state = .scheduled → (h.at0.getD 0).toNat ≤ localNs s .trellis 0 → trusted s 0 = true → Answers .commitTrellisCycle s (fun t =>
      match (if h.atStartUp then stateChecks s (tabsNow s) (tabsOver false h.bytes (tabsNow s)) else none) with
      | some (c, sec) => t.img.state = .idle ∧ t.img.code = c ∧ t.img.failSec = sec ∧ t.img.held = none ∧ t.img.vintage = s.img.vintage ∧ t.upd = s.upd
      | none => put t ∧ (siSlot t).sets = (siSlot s).sets ++ [h.bytes]))) ∧
  (∀ (s : State), isRun s .trellis = true → s.img.state ≠ .committing → s.img.state ≠ .scheduled → exec .commitTrellisCycle s = .next s) ∧
  (∀ (s : State) (n : Fin 16), s.img.state = .committing → s.img.held = none → n.val ∈ s.img.awaiting → sectionActive s n = true →
    let left := s.img.awaiting.filter (fun x => x != n.val)
    exec (.sectionActiveReport n) s = .next (if left = [] then { s with img.awaiting := [], img.state := .idle, img.code := 0 }
      else { s with img.awaiting := left })) ∧
  (∀ (s : State) (n : Fin 16), (s.img.state ≠ .committing ∨ sectionActive s n = false) → exec (.sectionActiveReport n) s = .next s) ∧
  (∀ (iss : Issuer) (s : State), iss.cask.val = 0 → Permits s iss .sys 0x0030 true → isRun s .cluster = true →
    ((s.img.state = .checking ∨ s.img.state = .staged) → Answers (.sectionalLoadAbort iss) s (fun t => t.img.state = .idle ∧
      t.img.code = 0x0212 ∧ t.img.held = none ∧ t.img.vintage = s.img.vintage ∧ t.upd = s.upd ∧ bitOf t.pwr.abortDone 0 = true)) ∧
    ((s.img.state = .scheduled ∨ s.img.state = .committing) → Answers (.sectionalLoadAbort iss) s (fun t => t.img = s.img ∧ t.upd = s.upd ∧
      bitOf t.pwr.abortDone 0 = true ∧ ∃ d, { code := 0x0212, data := d } ∈ t.arising)))

/-- WHOLE_LOAD, once at a start-up after its wake-ups, decides prior mode (R9, R485) and loads the whole image of the active
structure-image slot with the committed sets that validate in order (R58): the vintage is that of the last good set, and a
failing set goes with every later one, its code reported. If the whole image fails outside a trial no structure image runs,
the vintage reads 0 and IMAGE_LOAD_FAILED is recorded with cask 0 (R517); inside a trial the module reverts with the whole
image's failure (R470). A staged set that a power loss caught is lost with an event, a scheduled one kept, and a committed one
applied with the others (R66). Otherwise the command changes nothing. The state after Table 2.7's rule is the model's
settleHeld. -/
def Obligations.WholeLoadFromActiveSlot : Prop :=
  (∀ (s : State), mayLoad s = true →
    let u := settleHeld { s with sys.active := s.sys.strap || s.sys.prior, pwr.loadDone := true, img.awaiting := [] }
    let v := validateWhole u (slotImage (siSlot s))
    let r := applySets u (siSlot s).sets { tabs := v.tabs, vintage := imVintage (slotImage (siSlot s)) }
    Answers .wholeLoad s (fun t => t.pwr.loadDone = true ∧ t.sys.active = (s.sys.strap || s.sys.prior) ∧
      if v.code ≠ 0 then t.img.vintage = 0 ∧ t.img.code = v.code ∧ t.img.failSec = v.sec ∧ t.img.state = .idle ∧ t.img.held = none ∧
        (s.upd.rack.state ≠ .trial → ∃ d, { code := 0x0216, data := d } ∈ t.arising) ∧
        (s.upd.rack.state = .trial → t.upd.rack.state = .idle ∧ { code := 0x0E12, data := [4] } ∈ t.arising)
      else t.img.loaded = true ∧ t.img.vintage = r.vintage ∧ (siSlot t).sets = r.good ∧ t.img.casks = r.tabs.casks ∧
        (match r.failed with
        | none => t.img.code = 0
        | some (c, sec, _) => t.img.code = c ∧ t.img.failSec = sec ∧ ∃ d, { code := 0x0215, data := d } ∈ t.arising))) ∧
  (∀ (s : State), mayLoad s = false → exec .wholeLoad s = .next s) ∧
  (∀ (s : State) h, s.img.held = some h →
    ((s.img.state = .checking ∨ s.img.state = .staged) → (settleHeld s).img.held = none ∧ (settleHeld s).img.state = .idle ∧
      ∃ d, { code := 0x0214, data := d } ∈ (settleHeld s).arising) ∧
    (s.img.state = .scheduled → settleHeld s = { s with img.held := some { h with atStartUp := true } }) ∧
    (s.img.state = .committing → settleHeld s = { s with img.state := .idle, img.held := none }))

/-- A UPD command of cask 0 reaches the racking state machine: it passes the register checks, the module is not sealed and no activation
is in progress. -/
def UpdFree (s : State) (iss : Issuer) : Prop :=
  iss.cask.val = 0 ∧ Permits s iss .upd 0x0004 true ∧ isSealed s = false ∧ activationBusy s = false

/-- The commands of Table 15.5 with a state of Table 15.4 that each fits. -/
def UpdFits (c : Instr) (iss : Issuer) (st : RackState) : Prop :=
  c = .rackBegin iss ∧ st = .idle ∨ (∃ b, c = .rackFrag iss b) ∧ st = .downloading ∨ (∃ b, c = .rackActivate iss b) ∧ st = .verified ∨
  c = .rackCancel iss ∧ (st = .downloading ∨ st = .verifying ∨ st = .verified ∨ st = .scheduled) ∨
  (c = .rackConfirm iss ∨ c = .rackRevert iss) ∧ st = .trial

/-- The commands of Table 15.5. -/
def UpdCommand (c : Instr) (iss : Issuer) : Prop := ∃ st, UpdFits c iss st

/-- The racking record and the four slots are those of the first state. -/
def RackKept (s t : State) : Prop :=
  t.upd.rack = s.upd.rack ∧ t.upd.older = s.upd.older ∧ t.upd.fwA = s.upd.fwA ∧ t.upd.fwB = s.upd.fwB ∧ t.upd.siA = s.upd.siA ∧
  t.upd.siB = s.upd.siB

/-- The record was written once: SEQ is one above, and the other copy is the record before. -/
def RackWritten (s t : State) : Prop := t.upd.rack.seq = s.upd.rack.seq + 1 ∧ t.upd.older = s.upd.rack

/-- The TARGET slots of the racking are empty. -/
def TargetsEmpty (s t : State) : Prop :=
  (bitOf s.upd.rack.kinds 0 = true → fwSlot t s.upd.rack.target = {}) ∧
  (bitOf s.upd.rack.kinds 1 = true → (if bitOf s.upd.rack.target 1 then t.upd.siB else t.upd.siA) = {})

/-- UPD commands are cask 0's. Sealed, each is refused with UPD_SEALED; in a state that does not fit, or with an activation in
progress, with UPD_STATE, changing nothing else (R463). BEGIN with a manifest that passes its checks starts a download of its
KINDS into the inactive slots with the content key held, otherwise it reports the first failing check (R464). FRAG takes
fragment NEXT_FRAG alone (UPD_FRAG_ORDER), refuses one whose tag fails, and writes an authenticated one to its place in a
TARGET slot; the last one begins verification (R461, R465). A verification that passes makes the racking VERIFIED, one that
fails empties the TARGET slots, with UPD_VERIFY (R466). CANCEL empties the TARGET slots and returns to IDLE. Each record write
goes to the other copy with SEQ one above (R462). The abort of UPD stops a verification with UPD_ABORTED (R475). -/
def Obligations.RackingDownloadAndVerification : Prop :=
  (∀ (iss : Issuer) (s : State) c, UpdCommand c iss → iss.cask.val = 0 → Permits s iss .upd 0x0004 true →
    (isSealed s = true → exec c s = .next { s with upd.stopped := false, upd.code := 0x0E0B, reply := .code 0x0E0B }) ∧
    (isSealed s = false → (activationBusy s = true ∨ ¬ UpdFits c iss s.upd.rack.state) →
      exec c s = .next { s with upd.stopped := false, upd.code := 0x0E01, reply := .code 0x0E01 })) ∧
  (∀ (iss : Issuer) (s : State), UpdFree s iss →
    let u : State := { s with reply := .none, upd.stopped := false }
    (s.upd.rack.state = .idle → s.pwr.shed = false →
      let m := dlBytes s 72
      let c := checkManifest u m
      Answers (.rackBegin iss) s (fun t => t.upd.code = c.1 ∧ t.reply = .code c.1 ∧
        if c.1 = 0x0E00 then RackWritten s t ∧ t.upd.rack.state = .downloading ∧ t.upd.rack.kinds = mKinds m ∧
          t.upd.rack.active = s.upd.rack.active ∧ t.upd.rack.target = targetOf s.upd.rack.active (mKinds m) ∧ t.upd.rack.nfrag = leAt m 32 4 ∧
          t.upd.rack.next = 0 ∧ t.upd.contentKey = some c.2 ∧ rackManifest t = m
        else RackKept s t)) ∧
    (∀ ok, s.upd.rack.state = .downloading → s.pwr.shed = false → s.upd.dlFrag.toNat ≠ s.upd.rack.next →
      Answers (.rackFrag iss ok) s (fun t => t.upd.code = 0x0E06 ∧ RackKept s t)) ∧
    (∀ ok, s.upd.rack.state = .downloading → s.pwr.shed = false → s.upd.dlFrag.toNat = s.upd.rack.next →
      let m := rackManifest s
      let f := s.upd.rack.next
      let nonce := bytesAt m 8 4 ++ d4 f ++ d4 0
      let ct := dlBytes s 1024
      let nfw := if bitOf s.upd.rack.kinds 0 then fragsOf (mFwLen m) else 0
      Answers (.rackFrag iss ok) s (fun t =>
        match s.upd.contentKey.orElse (fun _ => unwrapKey u m) with
        | none => t.upd.code = 0x0E04 ∧ RackKept s t
        | some key =>
          if Config.gcmTag key nonce ((Config.sha384 m).take 16) ct ≠ dlTagBytes s then t.upd.code = 0x0E05 ∧ RackKept s t
          else if ok = false then t.upd.code = 0x0E0D ∧ RackKept s t
          else t.upd.code = 0x0E00 ∧ RackWritten s t ∧ t.upd.rack.next = f + 1 ∧
            t.upd.rack.state = (if f + 1 = s.upd.rack.nfrag then .verifying else .downloading) ∧
            (if f < nfw then (fwSlot t s.upd.rack.target).units = Tbl.put (fwSlot s s.upd.rack.target).units f (Config.gcmXor key nonce ct) ∧
                t.upd.siA = s.upd.siA ∧ t.upd.siB = s.upd.siB
              else (targetSi t).units = Tbl.put (targetSi s).units (f - nfw) (Config.gcmXor key nonce ct) ∧
                t.upd.fwA = s.upd.fwA ∧ t.upd.fwB = s.upd.fwB))) ∧
    (s.upd.rack.state ∈ [RackState.downloading, .verifying, .verified, .scheduled] → Answers (.rackCancel iss) s (fun t =>
      t.upd.code = 0x0E00 ∧ RackWritten s t ∧ t.upd.rack.state = .idle ∧ t.upd.rack.active = s.upd.rack.active ∧ t.upd.contentKey = none ∧
      TargetsEmpty s t))) ∧
  (∀ (s : State) (ok : Bool), logicUp s = true → s.upd.rack.state = .verifying → s.upd.stopped = false → isSealed s = false →
    Answers (.verifyComplete ok) s (fun t => t.upd.contentKey = none ∧ RackWritten s t ∧ t.upd.rack.active = s.upd.rack.active ∧
      if (ok && (!bitOf s.upd.rack.kinds 0 || fwVerified s) && (!bitOf s.upd.rack.kinds 1 || siVerified s)) = true then
        t.upd.rack.state = .verified ∧ t.upd.fwA = s.upd.fwA ∧ t.upd.fwB = s.upd.fwB ∧ t.upd.siA = s.upd.siA ∧ t.upd.siB = s.upd.siB
      else t.upd.rack.state = .idle ∧ t.upd.code = 0x0E07 ∧ TargetsEmpty s t)) ∧
  (∀ (s : State) (ok : Bool), (s.upd.rack.state ≠ .verifying ∨ s.upd.stopped = true ∨ isSealed s = true) → exec (.verifyComplete ok) s = .next s) ∧
  (∀ (iss : Issuer) (s : State), iss.cask.val = 0 → Permits s iss .sys 0x0030 true → isRun s .cluster = true →
    Answers (.updAbort iss) s (fun t => RackKept s t ∧ bitOf t.pwr.abortDone 10 = true ∧ { code := 0x0E0C, data := [] } ∈ t.arising ∧
      (s.upd.rack.state = .verifying → t.upd.stopped = true ∧ t.upd.code = 0x0E0C) ∧
      (s.upd.rack.state ≠ .verifying → t.upd = s.upd)))

/-- What a revert leaves (R471): one record write, the reason's event, the TARGET slots rejected, the reset asked for. -/
def Reverted (reason : Nat) (s t : State) : Prop :=
  let lost := if bitOf s.upd.rack.kinds 1 then (targetSi s).sets.length else 0
  RackWritten s t ∧ t.upd.rack.state = .idle ∧ t.upd.rack.active = s.upd.rack.active ∧ t.upd.trialCfg = none ∧
  { code := 0x0E12, data := d1 reason } ∈ t.arising ∧
  (bitOf s.upd.rack.kinds 0 = true → (fwSlot t s.upd.rack.target).rejected = true) ∧
  (bitOf s.upd.rack.kinds 1 = true → (targetSi t).rejected = true ∧ (targetSi t).sets = []) ∧
  (lost ≠ 0 → t.upd.rack.setsLost = true ∧ { code := 0x0E15, data := d2 lost } ∈ t.arising) ∧
  (isRun s .press = false → bitOf t.pwr.latch 6 = true) ∧ (isRun s .press = true → t.pwr.awaitSave.isSome = true)

/-- What the last steps of an activation leave (R468). -/
def Activated (s t : State) : Prop :=
  RackWritten s t ∧ t.upd.rack = { s.upd.rack with state := .pending, fails := 0, seq := s.upd.rack.seq + 1 } ∧
  { code := 0x0E10, data := [] } ∈ t.arising ∧ bitOf t.pwr.latch 6 = true ∧ t.pwr.awaitSave = none ∧ t.upd.activating = false

/-- ACTIVATE with a confirmation window outside 1 to 720 h is refused with UPD_PARAM; with a time it makes the racking SCHEDULED,
without one the activation is taken at once (R467). An activation waits for a load in SCHEDULED or COMMITTING, has Press
commit its final save where Press runs, then writes PENDING, records UPD_ACTIVATED and asserts the reset (R468). A scheduled
racking waits while domain 0 is untrusted or below AT (R467). Boot completion clears BOOTING and PWRFAIL, and the first of a
trial writes the confirmation window (R470). CONFIRM below CONF_END makes the TARGET slots active, with the trial-format
configuration (R472), at or after it is refused with UPD_EXPIRED. REVERT, and operating seconds at CONF_END, return to the
previous slots in one record write, reject the TARGET slots, record UPD_REVERTED with the reason and the lost sets, and
restart the module (R471). -/
def Obligations.RackingActivationTrialAndRevert : Prop :=
  (∀ (iss : Issuer) (s : State), UpdFree s iss →
    let h := fld s.upd.confH.toNat 0 10
    (∀ b, s.upd.rack.state = .verified → (h < 1 ∨ 720 < h) → Answers (.rackActivate iss b) s (fun t => t.upd.code = 0x0E0E ∧ RackKept s t)) ∧
    (s.upd.rack.state = .verified → 1 ≤ h → h ≤ 720 → Answers (.rackActivate iss true) s (fun t => t.upd.code = 0x0E00 ∧ RackWritten s t ∧
      t.upd.rack.state = .scheduled ∧ t.upd.rack.at0 = s.upd.atHi ++ s.upd.atLo ∧ t.upd.rack.confH = h)) ∧
    (s.upd.rack.state = .verified → 1 ≤ h → h ≤ 720 →
      ((s.img.state = .idle ∨ s.img.state = .checking ∨ s.img.state = .staged) → s.pwr.awaitSave = none →
        (isRun s .press = false → Answers (.rackActivate iss false) s (fun t => t.upd.rack.state = .pending ∧ t.upd.rack.confH = h ∧
          t.img.state = .idle ∧ { code := 0x0E10, data := [] } ∈ t.arising ∧ bitOf t.pwr.latch 6 = true)) ∧
        (isRun s .press = true → Answers (.rackActivate iss false) s (fun t => t.upd.rack.state = .verified ∧ t.upd.activating = true ∧
          t.img.state = .idle ∧ t.pwr.awaitSave = some (64, s.now) ∧ t.pwr.latch = s.pwr.latch))) ∧
      ((s.img.state = .scheduled ∨ s.img.state = .committing) → Answers (.rackActivate iss false) s (fun t =>
        t.upd.rack.state = .verified ∧ t.upd.activating = true ∧ t.img = s.img ∧ t.pwr = s.pwr))) ∧
    (s.upd.rack.state = .trial → (s.upd.rack.confEnd = 0 ∨ s.cel.opSec < s.upd.rack.confEnd) → Answers (.rackConfirm iss) s (fun t =>
      t.upd.code = 0x0E00 ∧ RackWritten s t ∧ t.upd.rack.active = s.upd.rack.target ∧ t.upd.rack.state = .idle ∧
      t.upd.cfg = s.upd.trialCfg.getD s.upd.cfg ∧ t.upd.trialCfg = none ∧ { code := 0x0E13, data := [] } ∈ t.arising ∧ t.pwr = s.pwr)) ∧
    (s.upd.rack.state = .trial → s.upd.rack.confEnd ≠ 0 → s.upd.rack.confEnd ≤ s.cel.opSec →
      Answers (.rackConfirm iss) s (fun t => t.upd.code = 0x0E0A ∧ RackKept s t)) ∧
    (s.upd.rack.state = .trial → Answers (.rackRevert iss) s (fun t => t.upd.code = 0x0E00 ∧ Reverted 3 s t))) ∧
  (∀ (s : State), logicUp s = true →
    (s.upd.rack.state = .trial → s.upd.rack.confEnd ≠ 0 → s.upd.rack.confEnd ≤ s.cel.opSec → Answers .confirmationExpiry s (Reverted 2 s)) ∧
    ((s.upd.rack.state ≠ .trial ∨ s.cel.opSec < s.upd.rack.confEnd) → exec .confirmationExpiry s = .next s) ∧
    ((s.upd.rack.state = .verified ∧ s.upd.activating = true ∨
        s.upd.rack.state = .scheduled ∧ trusted s 0 = true ∧ s.upd.rack.at0.toNat ≤ localNs s .cluster 0) →
      ((s.img.state = .scheduled ∨ s.img.state = .committing) → exec .rackActivation s = .next s) ∧
      ((s.img.state = .idle ∨ s.img.state = .checking ∨ s.img.state = .staged) →
        (s.pwr.awaitSave = none → isRun s .press = false → Answers .rackActivation s (fun t => Activated s t ∧ t.img.state = .idle)) ∧
        (s.pwr.awaitSave = none → isRun s .press = true → Answers .rackActivation s (fun t => RackKept s t ∧ t.img.state = .idle ∧
          t.pwr.awaitSave = some (64, s.now))) ∧
        (∀ m a, s.pwr.awaitSave = some (m, a) → bitOf m 6 = true → saveAwaited s = true →
          Answers .rackActivation s (fun t => Activated s t ∧ t.img.state = .idle)))) ∧
    (s.upd.rack.state = .scheduled → (trusted s 0 = false ∨ localNs s .cluster 0 < s.upd.rack.at0.toNat) → exec .rackActivation s = .next s) ∧
    (bootReached s = true →
      (s.upd.rack.state ≠ .trial → exec .bootCompletion s = .next { s with pwr.bootDone := true }) ∧
      (s.upd.rack.state = .trial → s.upd.rack.confEnd = 0 → Answers .bootCompletion s (fun t => t.pwr.bootDone = true ∧
        RackWritten s t ∧ t.upd.rack.booting = false ∧ t.upd.rack.pwrFail = false ∧ t.upd.rack.confStart = s.cel.opSec ∧
        t.upd.rack.confEnd = s.cel.opSec + s.upd.rack.confH * 3600)) ∧
      (s.upd.rack.state = .trial → s.upd.rack.confEnd ≠ 0 → Answers .bootCompletion s (fun t => t.pwr.bootDone = true ∧
        RackWritten s t ∧ t.upd.rack.booting = false ∧ t.upd.rack.pwrFail = false ∧ t.upd.rack.confStart = s.upd.rack.confStart ∧
        t.upd.rack.confEnd = s.upd.rack.confEnd))))

/-- VIN at 9.0 V for 10 ms with the rails up qualifies, below 4.5 V the always-on rail stops and with it the latch (R477, R484).
VIN below 8.0 V for 20 us raises the warning: loads shed, service sessions closed, PWRFAIL set in a trial that is booting, the
event recorded (R479); at 8.5 V for 10 ms it is withdrawn without a reset (R481), and the end of hold-up latches its source.
FSUP below 16.0 V for 1 ms and at 17.0 V for 10 ms set and clear FSUP_LOW (R477). RESET_N low for 1 ms, a watchdog not
refreshed for 2 s and an exception latch their source at once; SYS_RESET needs its key, and with Press in RUN first asks for
the final save (R483). The logic-side reset, once a source is due, puts every island but the Cellar and the safety island in
OFF, empties the memories but the ferroelectric one, keeps the racking record and slots, the Cellar's calendar, the safety
pairs, Press's saved banks and the key cells, and holds the reset with the sources latched (R482, R484). -/
def Obligations.PowerSuppliesAndResetSources : Prop :=
  (∀ (mv us : Nat) (rails : Bool) (s : State),
    (9000 ≤ mv → 10000 ≤ us → rails = true → Answers (.vinStart mv us rails) s (fun t => (s.pwr.warn = false → t.pwr.vinOk = true) ∧ t.pwr.railUp = true ∧
      t.pwr.vinMv = mv ∧ t.pwr.latch = (if s.pwr.railUp = false ∧ s.pwr.resetOn = true then 1 else s.pwr.latch))) ∧
    ((mv < 9000 ∨ us < 10000 ∨ rails = false) → exec (.vinStart mv us rails) s = .next s) ∧
    (s.pwr.railUp = true → mv < 4500 → Answers (.alwaysOnRailStop mv) s (fun t => t.pwr.railUp = false ∧ t.pwr.vinOk = false ∧
      t.pwr.vinMv = mv ∧ t.pwr.latch = (if s.pwr.resetOn then 0 else s.pwr.latch))) ∧
    (4500 ≤ mv → exec (.alwaysOnRailStop mv) s = .next s)) ∧
  (∀ (mv us : Nat) (s : State), logicUp s = true →
    (s.pwr.warn = false → mv < 8000 → 20 ≤ us → Answers (.pwrVinWarn mv us) s (fun t => t.pwr.warn = true ∧ t.pwr.shed = true ∧
      t.pwr.vinOk = false ∧ t.pwr.vinMv = mv ∧ { code := 0x0F10, data := [] } ∈ t.arising ∧ t.key.sessions = [] ∧
      (s.upd.rack.state = .trial → s.upd.rack.booting = true → t.upd.rack.pwrFail = true) ∧
      ((s.upd.rack.state ≠ .trial ∨ s.upd.rack.booting = false) → t.upd = s.upd) ∧
      (isRun s .press = false → t.prs = s.prs))) ∧
    ((8000 ≤ mv ∨ us < 20) → exec (.pwrVinWarn mv us) s = .next s) ∧
    (s.pwr.warn = true → s.pwr.latch = 0 → 8500 ≤ mv → 10000 ≤ us → Answers (.pwrVinClear mv us) s (fun t => t.pwr.warn = false ∧
      t.pwr.shed = false ∧ t.pwr.vinOk = true ∧ t.pwr.latch = 0 ∧ t.prs = s.prs ∧ { code := 0x0F11, data := [] } ∈ t.arising)) ∧
    ((mv < 8500 ∨ us < 10000 ∨ s.pwr.latch ≠ 0) → exec (.pwrVinClear mv us) s = .next s) ∧
    (s.pwr.warn = true → Answers .holdupEnd s (fun t => t.pwr.latch = s.pwr.latch ||| (if s.pwr.railUp then 2 else 1) ∧ t.mem.fram = s.mem.fram)) ∧
    (s.pwr.fsupLow = false → mv < 16000 → 1000 ≤ us → Answers (.pwrFsupLow mv us) s (fun t => t.pwr.fsupLow = true ∧ t.pwr.fsupMv = mv ∧
      t.trl = s.trl ∧ { code := 0x0F13, data := [] } ∈ t.arising)) ∧
    (16000 ≤ mv → exec (.pwrFsupLow mv us) s = .next s) ∧
    (s.pwr.fsupLow = true → 17000 ≤ mv → 10000 ≤ us →
      exec (.fsupRestored mv us) s = .next { s with pwr.fsupLow := false, pwr.fsupMv := mv }) ∧
    ((mv < 17000 ∨ us < 10000) → exec (.fsupRestored mv us) s = .next s) ∧
    (s.pwr.wdogAt + 2000000000 ≤ s.now → exec .watchdogReset s = .next { s with pwr.latch := s.pwr.latch ||| 8 }) ∧
    (s.now < s.pwr.wdogAt + 2000000000 → exec .watchdogReset s = .next s) ∧
    exec .exceptionReset s = .next { s with pwr.latch := s.pwr.latch ||| 16 } ∧
    (s.pwr.railUp = true → 1000 ≤ us → exec (.resetPin us) s = .next { s with pwr.latch := s.pwr.latch ||| 4 }) ∧
    (us < 1000 → exec (.resetPin us) s = .next s)) ∧
  (∀ (iss : Issuer) (w : Word) (s : State), Permits s iss .sys 0x0020 true →
    let st (c : Nat) : State := { s with pwr.cmdStatus := Tbl.put s.pwr.cmdStatus iss.cask c, reply := .code c }
    (w.toNat / 65536 ≠ 0xA5C3 → exec (.sysReset iss w) s = .next (st 0x0F02)) ∧
    (w.toNat / 65536 = 0xA5C3 → w.toNat % 2 = 0 → exec (.sysReset iss w) s = .next { s with reply := .none }) ∧
    (w.toNat / 65536 = 0xA5C3 → w.toNat % 2 = 1 → isRun s .press = false →
      exec (.sysReset iss w) s = .next { st 0x0F00 with pwr.latch := s.pwr.latch ||| 32 }) ∧
    (w.toNat / 65536 = 0xA5C3 → w.toNat % 2 = 1 → isRun s .press = true → s.pwr.awaitSave = none →
      Answers (.sysReset iss w) s (fun t => t.pwr.awaitSave = some (32, s.now) ∧ t.pwr.latch = s.pwr.latch ∧
        (s.prs.restored = true → t.prs.taste.run = false)))) ∧
  (∀ (s : State), logicUp s = true →
    (resetDue s = false → exec .logicReset s = .next s) ∧
    (resetDue s = true → Answers .logicReset s (fun t => t.pwr.resetOn = true ∧ t.pwr.resetAt = s.now ∧ t.pwr.latch = resetSources s ∧
      t.pwr.cause = s.pwr.cause ∧ (∀ i, i ≠ .cellar → i ≠ .safp → i ≠ .safl → islState t i = .off) ∧ islState t .cellar = islState s .cellar ∧
      t.mem.fram = s.mem.fram ∧ t.mem.dram = [] ∧ t.mem.inst = [] ∧ t.trl.points = [] ∧ t.pge.tasks = [] ∧ t.lpe.slots = [] ∧
      t.net.flows = [] ∧ t.key.sessions = [] ∧ t.img.loaded = false ∧ t.upd.rack = s.upd.rack ∧ t.upd.fwA = s.upd.fwA ∧ t.upd.fwB = s.upd.fwB ∧
      t.upd.siA = s.upd.siA ∧ t.upd.siB = s.upd.siB ∧ t.cel.cal = s.cel.cal ∧ t.cel.store = s.cel.store ∧ t.saf.pairs = s.saf.pairs ∧
      t.saf.acc = s.saf.acc ∧ t.prs.bankA = s.prs.bankA ∧ t.prs.bankB = s.prs.bankB ∧ t.key.lc = s.key.lc ∧ t.key.bankA = s.key.bankA ∧
      t.key.slots = s.key.slots)))

/-- START_UP, with VIN qualified, the Cellar on main and the reset held for 1 ms, releases the reset, loads PWR_RESET_CAUSE,
samples the strap low only when all 8 samples are (R484, R485), puts the Cluster in RUN and queues the wake-ups in order;
firmware that fails its check leaves recovery with the key engine alone (R486), and a pending racking boots its TARGET slots
as a trial or reverts (R469). A wake-up is admitted only within its budget, 200 us apart, none under the warning; an oversize
one alone (R489, R490). An island that reports in its T_WAKE is in RUN, with its state kept if it had been in HALT; one that
does not is put in OFF with PWR_ISLAND_FAIL. STANDBY halts the engines where every cask is stopped and no load or racking is
under way, RESUME queues their wake-ups, both refused with PWR_STATE otherwise (R493). An abort of the safety island is done
after 200 us (R496). Withdrawal of the module drops both supplies: every group is without FSUP and the safety outputs are off
(R513). -/
def Obligations.StartUpWakeUpsAndStandby : Prop :=
  (∀ (st : List Bool) (s : State), s.pwr.started = false → s.pwr.vinOk = true → s.cel.battery = false → (s.pwr.resetOn = false ∨ s.pwr.resetAt + 1000000 ≤ s.now) →
    Answers (.startUp st) s (fun t => t.pwr.started = true ∧ t.pwr.resetOn = false ∧ isRun t .cluster = true ∧ t.pwr.cause = s.pwr.latch ∧
      (t.sys.strap = true ↔ st = List.replicate 8 false) ∧ (∃ d, { code := 0x0F12, data := d1 s.pwr.latch ++ d } ∈ t.arising) ∧
      (s.upd.rack.state ≠ .trial → s.upd.rack.state ≠ .pending → t.upd.running = s.upd.rack.active ∧ t.upd.rack = s.upd.rack ∧
        ((∀ i, i ≠ .cluster → islState s i = .off) →
          let f := fwSlot s s.upd.rack.active
          if (!f.used || Config.firmwareOk (fwImage f)) = true then
            t.pwr.wakeQ.map (fun r => r.isl) = wakeOrder s.sys.variant ∧ t.pwr.recovery = false
          else t.pwr.wakeQ.map (fun r => r.isl) = [.key] ∧ t.pwr.recovery = true ∧ { code := 0x0F18, data := [] } ∈ t.arising)) ∧
      (s.upd.rack.state = .pending → t.upd.running = s.upd.rack.target ∧
        let f := fwSlot s s.upd.rack.target
        if (!f.used || Config.firmwareOk (fwImage f)) = true then t.upd.rack.state = .trial ∧ t.upd.rack.booting = true ∧ t.upd.rack.fails = 0
        else t.upd.rack.state = .idle ∧ t.upd.rack.active = s.upd.rack.active ∧ { code := 0x0E12, data := [1] } ∈ t.arising) ∧
      (s.upd.rack.state = .trial → s.upd.rack.booting = true → s.upd.rack.pwrFail = false →
        { code := 0x0E11, data := d1 (s.upd.rack.fails + 1) } ∈ t.arising ∧
        (2 ≤ s.upd.rack.fails → t.upd.rack.state = .idle ∧ t.upd.rack.active = s.upd.rack.active ∧ { code := 0x0E12, data := [1] } ∈ t.arising) ∧
        (s.upd.rack.fails < 2 → t.upd.rack.fails = s.upd.rack.fails + 1 ∧ t.upd.running = s.upd.rack.target)))) ∧
  (∀ (st : List Bool) (s : State), (s.pwr.started = true ∨ s.pwr.vinOk = false ∨ s.cel.battery = true ∨ s.pwr.resetOn = true ∧ s.now < s.pwr.resetAt + 1000000) →
    exec (.startUp st) s = .next s) ∧
  (∀ (mv : Nat) (s : State) r, logicUp s = true → 0 < mv → nextWake s = some r → s.pwr.warn = false →
    (∀ a, s.pwr.wakeLast = some a → a + 200000 ≤ s.now) →
    let held := ((wakeLive s).map (fun h => h.na)).sum
    let na := wakeNa r.isl mv
    let budget := s.pwr.power.vinWakeMa * 1000000
    ((held + na ≤ budget ∨ (budget < na ∧ held = 0)) → Answers (.wakeAdmission mv) s (fun t => islState t r.isl = .waking ∧
      t.pwr.wakeQ = s.pwr.wakeQ.filter (fun q => q.isl != r.isl) ∧ t.pwr.wakeLast = some s.now ∧
      (wakingOf t r.isl).1 = s.now + (wakeFigures r.isl).2 * 1000)) ∧
    (budget < held + na → (na ≤ budget ∨ held ≠ 0) → Answers (.wakeAdmission mv) s (fun t => islState t r.isl = islState s r.isl ∧
      t.pwr.wakeQ.map (fun q => q.isl) = s.pwr.wakeQ.map (fun q => q.isl) ∧
      t.pwr.deferCount = (if r.deferred then s.pwr.deferCount else satInc s.pwr.deferCount 4294967295)))) ∧
  (∀ (mv : Nat) (s : State), logicUp s = true → 0 < mv → (nextWake s = none ∨ s.pwr.warn = true) →
    exec (.wakeAdmission mv) s = .next { s with pwr.vinMv := mv }) ∧
  (∀ (i : Island) (s : State),
    exec (.wakeRelease i) s = .next { s with pwr.wakeHeld := s.pwr.wakeHeld.filter (fun h => h.isl != i || s.now < h.till) } ∧
    (islState s i = .waking → wakeOver s i = false → Answers (.islandRun i) s (fun t => isRun t i = true ∧
      ((wakingOf s i).2 = true → i ≠ .press → t.trl = s.trl ∧ t.pge = s.pge ∧ t.lpe = s.lpe ∧ t.fbs = s.fbs) ∧
      ((wakingOf s i).2 = false → i = .key → t.key.window = true))) ∧
    (islState s i = .waking → wakeOver s i = true → Answers (.pwrIslandFail i) s (fun t => islState t i = .off ∧
      { code := 0x0F17, data := d1 (islNum i) } ∈ t.arising ∧
      (i = .key → s.pwr.loadDone = false → s.upd.rack.state ≠ .trial → t.pwr.recovery = true ∧ t.pwr.wakeQ = []))) ∧
    (islState s i ≠ .waking → exec (.islandRun i) s = .next s ∧ exec (.pwrIslandFail i) s = .next s)) ∧
  (∀ (iss : Issuer) (s : State), Permits s iss .pwr 0x0020 true →
    let refused : Host.Outcome State Fault Refusal := .next { s with pwr.cmdStatus := Tbl.put s.pwr.cmdStatus iss.cask 0x0F01, reply := .code 0x0F01 }
    (mayStandby iss s = true → Answers (.standby iss) s (fun t => t.pwr.standby = true ∧ t.reply = .code 0x0F00 ∧
      (∀ i ∈ [Island.prog, .loop, .fbus], isRun s i = true → islState t i = .halt) ∧
      (∀ i, i ∉ [Island.prog, .loop, .fbus] → islState t i = islState s i) ∧ { code := 0x0F16, data := [1] } ∈ t.arising)) ∧
    (mayStandby iss s = false → exec (.standby iss) s = refused) ∧
    (iss.cask.val = 0 → s.pwr.standby = true → s.pwr.resuming = false → Answers (.resumeFromStandby iss) s (fun t => t.reply = .code 0x0F00 ∧
      (∀ i ∈ s.pwr.halted, islState s i = .halt → t.pwr.standby = true ∧ t.pwr.resuming = true ∧ ∃ r ∈ t.pwr.wakeQ, r.isl = i ∧ r.resume = true) ∧
      (s.pwr.halted = [] → t.pwr.standby = false ∧ { code := 0x0F16, data := [0] } ∈ t.arising))) ∧
    ((iss.cask.val ≠ 0 ∨ s.pwr.standby = false ∨ s.pwr.resuming = true) → exec (.resumeFromStandby iss) s = refused)) ∧
  (∀ (s : State),
    (bitOf s.pwr.abortPending 5 = true → s.pwr.abortSafAt + 200000 ≤ s.now → Answers .abortDoneTimeout s (fun t =>
      bitOf t.pwr.abortDone 5 = true ∧ bitOf t.pwr.abortPending 5 = false)) ∧
    ((bitOf s.pwr.abortPending 5 = false ∨ s.now < s.pwr.abortSafAt + 200000) → exec .abortDoneTimeout s = .next s) ∧
    Answers .moduleWithdrawal s (fun t => t.pwr.vinMv = 0 ∧ t.pwr.fsupMv = 0 ∧ t.saf.powered = false ∧
      (∀ g, g < 16 → (group t g).fsupOk = false) ∧ (∀ n, n < 256 → (cell t n).driving = false) ∧
      (s.saf.powered = true → ∀ p, (Tbl.at t.saf.pairs p {}).mode ≠ .on) ∧
      (logicUp s = true → s.pwr.warn = false → t.pwr.warn = true ∧ { code := 0x0F10, data := [] } ∈ t.arising)))

/-- A frame, at its boundary, counts TRL_FRAME on by 1, lasts 1 ms, moves each group's calibration slot on and frees the flows
released (R83, R84, R332). A scan of an analogue input outside a test writes the point with the corrected reading cut to the
mode's range and the first condition that holds, a bad code writing the value ON_BAD chooses (R82, R89, R91, R518). A DI
comparator shows on at 15 V or above and off at 5 V or below, keeps its state between, and the filtered value follows after
FILTER, with the stamp of the state's first sample (R81). A pulse of at least 40 us high and low counts, one below the 20 us
glitch filter does not; between them the model's free value decides (assumption 3). POINT_SNAPSHOT takes the 32-byte entry for
a reader that R71 allows, otherwise data 0 with DENIED, recorded, or UNDEFINED (R108, R76). A partition writes the points it
is the writing source of with GOOD or an uncertain code; any other write changes no entry and counts (R93, R109). -/
def Obligations.TrellisFramesInputsAndPointAccess : Prop :=
  (∀ rs refs (s : State), isRun s .trellis = true →
    (s.trl.frameAt ≤ s.now → Answers (.trellisFrame rs refs) s (fun t => t.trl.frame = s.trl.frame + 1 ∧ t.trl.frameAt = s.trl.frameAt + 1000000 ∧
      t.net.releasing = [] ∧ (∀ g, g < 16 → (group t g).calSlot = ((group s g).calSlot + 1) % 16 ∧ (group t g).fsupOk = (group s g).fsupOk) ∧
      t.mem = s.mem ∧ t.img = s.img ∧ t.pge = s.pge ∧ t.lpe = s.lpe ∧ t.prs = s.prs ∧ t.saf = s.saf ∧ t.cel = s.cel ∧ t.key = s.key ∧
      t.upd = s.upd)) ∧
    (s.now < s.trl.frameAt → exec (.trellisFrame rs refs) s = .next s)) ∧
  (∀ (n : Nat) (raw : F64) (s : State) p, isAnalogueIn (cell s n).rc.mode = true → testHolds s n = false →
    pt? s (cell s n).rc.point = some p → p.srcKind = pvCell → p.srcIndex = n → Plain s (cell s n).rc.point →
    let r := scanInput (cell s n).rc.mode (corrected (cell s n) raw)
    let l := if (group s (n / 16)).fsupOk then r.2 else qSupply :: r.2
    let q := qualityOf (l ++ (if (cell s n).calFault then [qCal] else []))
    pt? (scanIn n raw s) (cell s n).rc.point = some (entryWrite p pvCell (if isBad q then badValue p else valueOf p.type r.1)
      (timeQuality s p q) (slotStamp s n (cell s n).rc.point)) ∧
    (cell (scanIn n raw s) n).fault = (if l = [] then 0 else qualityOf l)) ∧
  (∀ (n : Fin 256) (mv : Nat) (s : State), isRun s .trellis = true →
    ((cell s n).rc.mode = .di →
      Answers (.diSample n mv) s (fun t => (cell t n).sampled = true ∧ (cell t n).filtOn = (cell s n).filtOn ∧
        (15000 ≤ mv → (cell t n).cmpOn = true) ∧ (mv ≤ 5000 → (cell t n).cmpOn = false) ∧
        (5000 < mv → mv < 15000 → (cell t n).cmpOn = (cell s n).cmpOn) ∧
        ((cell s n).sampled = true → (cell t n).cmpOn = (cell s n).cmpOn → t = s) ∧
        ((cell t n).cmpOn ≠ (cell s n).cmpOn → (cell t n).cmpSince = s.now ∧ (cell t n).cmpStamp = ptStamp s (cell s n).rc.point)) ∧
      ((cell s n).sampled = true → (cell s n).cmpOn ≠ (cell s n).filtOn → (cell s n).cmpSince + (cell s n).rc.filterMs * 1000000 ≤ s.now →
        Answers (.diFilterElapsed n) s (fun t => (cell t n).filtOn = (cell s n).cmpOn ∧ (cell t n).filtStamp = (cell s n).cmpStamp ∧
          t.trl.points = s.trl.points)) ∧
      (s.now < (cell s n).cmpSince + (cell s n).rc.filterMs * 1000000 → exec (.diFilterElapsed n) s = .next s)) ∧
    (∀ hi lo, (cell s n).rc.mode = .count →
      (40 ≤ hi → 40 ≤ lo → Answers (.countEdge n hi lo) s (fun t => (cell t n).count = (cell s n).count + 1 ∧ t.trl.points = s.trl.points)) ∧
      ((hi < 20 ∨ lo < 20) → exec (.countEdge n hi lo) s = .next s)) ∧
    (∀ hi lo, (cell s n).rc.mode ≠ .count → exec (.countEdge n hi lo) s = .next s) ∧
    ((cell s n).rc.mode ≠ .di → exec (.diSample n mv) s = .next s)) ∧
  (∀ (iss : Issuer) (i : Fin 16384) (s : State), Permits s iss .trl 0x0010 true →
    (∀ p, pt? s i = some p → mayRead p iss.cask = true → Answers (.pointSnapshot iss i) s (fun t => (ptBank t iss).sel = i ∧
      (ptBank t iss).undef = false ∧ (ptBank t iss).denied = false ∧ (ptBank t iss).data = entryBytes p ∧ t.trl.points = s.trl.points ∧ t.arising = s.arising)) ∧
    (∀ p, pt? s i = some p → mayRead p iss.cask = false → Answers (.pointSnapshot iss i) s (fun t => (ptBank t iss).denied = true ∧
      (ptBank t iss).data = [] ∧ t.trl.points = s.trl.points ∧ ∃ d, { code := 0x0220, cask := iss.cask, data := d } ∈ t.arising)) ∧
    (pt? s i = none → Answers (.pointSnapshot iss i) s (fun t => (ptBank t iss).undef = true ∧ (ptBank t iss).denied = false ∧
      (ptBank t iss).data = [] ∧ t.arising = s.arising))) ∧
  (∀ (iss : Issuer) (i : Fin 16384) (q : Byte) (s : State), Permits s iss .trl 0x0048 true →
    let b := ptBank s iss
    (∀ p, pt? s i = some p → partWriteOk iss p q = true → Plain s i → Answers (.partitionPointWrite iss i q) s (fun t =>
      pt? t i = some (entryWrite p pvPartition (b.wrHi ++ b.wrLo) (timeQuality s p q) (ptStamp s i)) ∧
      (ptBank t iss).wrRefused = false ∧ ∀ k, k ≠ i.val → pt? t k = pt? s k)) ∧
    ((∀ p, pt? s i = some p → partWriteOk iss p q = false) → Answers (.partitionPointWrite iss i q) s (fun t =>
      t.trl.points = s.trl.points ∧ (ptBank t iss).wrRefused = true ∧ t.trl.wrRefused = satInc s.trl.wrRefused 4294967295)))

/-- The running test has ended with a code, recorded with its cell, type and code. -/
def TestEnded (code : Nat) (s t : State) : Prop :=
  t.trl.test.state = .done ∧ t.trl.test.code = code ∧ t.trl.points = s.trl.points ∧
  { code := code, cask := s.trl.test.cask, data := d1 s.trl.test.cell ++ d1 s.trl.test.type ++ d2 code } ∈ t.arising

/-- A start's current is released at the frame boundary at k + T_START (R105). An off command turns a DO or PWM output off and
withdraws its queued start at once (R85, R107). A DO or PWM output at 1.0 A or more trips, and after 1,000 ms retries as a
start while commanded on (R80, R82). FSUP below 16.0 V at a group turns every driver of it off, and at 17.0 V for 10 ms each
output commanded on resumes as a start (R79). A PWM output goes off at its duty edge and on at its period edge. A cell test
starts for casks 0 and 63 alone, is refused with TEST_BUSY while one runs, ends at once with TEST_MODE where the type does not
fit, and otherwise holds its point with UNDER_TEST and provenance 0x0C, value, stamp and SEQ kept (R90, R100 to R102). It ends
on its result, STOP, the Trellis abort (R495) or the timeout, each recorded with its code (R104). -/
def Obligations.TrellisOutputsSuppliesAndCellTests : Prop :=
  (∀ (n : Fin 256) (s : State) k, (cell s n).holdTo = some k →
    (k ≤ s.trl.frame → Answers (.startRelease n) s (fun t => (cell t n).holdTo = none ∧
      t.pwr.startHeld = s.pwr.startHeld.filter (fun h => h.who != .cell n.val) ∧ (cell t n).driving = (cell s n).driving)) ∧
    (s.trl.frame < k → exec (.startRelease n) s = .next s)) ∧
  (∀ (n : Fin 256) (s : State), isRun s .trellis = true → isOutput (cell s n).rc.mode = true →
    (cmdOn (command s (cell s n)) = false → Answers (.outputTurnOff n) s (fun t => (cell t n).drive = 0 ∧ (cell t n).driving = false ∧
      (cell t n).pwmOn = false ∧ (cell t n).go = false ∧ (cell t n).tripAt = none ∧ startQueued t (.cell n) = false ∧ t.trl.points = s.trl.points)) ∧
    (cmdOn (command s (cell s n)) = true → ((cell s n).rc.mode = .doOut ∨ (cell s n).rc.mode = .pwm) → exec (.outputTurnOff n) s = .next s) ∧
    (∀ k, (cell s n).tripAt = some k → k + 1000000000 ≤ s.now → cmdOn (command s (cell s n)) = true →
      Answers (.doTripRetry n) s (fun t => startQueued t (.cell n) = true ∧ (cell t n).tripAt = some s.now ∧ (cell t n).driving = (cell s n).driving)) ∧
    (∀ k, (cell s n).tripAt = some k → (s.now < k + 1000000000 ∨ cmdOn (command s (cell s n)) = false) → exec (.doTripRetry n) s = .next s)) ∧
  (∀ (n : Fin 256) (ma : Nat) (s : State), (((cell s n).rc.mode = .doOut ∨ (cell s n).rc.mode = .pwm) → (cell s n).driving = true → 1000 ≤ ma →
      Answers (.doShortTrip n ma) s (fun t => (cell t n).driving = false ∧ (cell t n).drive = 0 ∧ (cell t n).tripAt = some s.now ∧
        (cell t n).fault = (cell s n).fault)) ∧
    (ma < 1000 → exec (.doShortTrip n ma) s = .next s)) ∧
  (∀ (g : Fin 16) (mv ms : Nat) (s : State),
    (mv < 16000 → Answers (.groupFsupLow g mv) s (fun t => (group t g).fsupOk = false ∧ (∀ h, h ≠ g.val → group t h = group s h) ∧
      (∀ n, n / 16 = g.val → (cell t n).driving = false ∧ (cell t n).loopOn = false ∧ startQueued t (.cell n) = false ∧
        (cell t n).fault = (cell s n).fault) ∧ (∀ n, n / 16 ≠ g.val → cell t n = cell s n))) ∧
    (16000 ≤ mv → exec (.groupFsupLow g mv) s = .next s) ∧
    (17000 ≤ mv → 10 ≤ ms → (group s g).fsupOk = false → Answers (.groupFsupRestored g mv ms) s (fun t => (group t g).fsupOk = true ∧
      (∀ n, n / 16 = g.val → (startQueued t (.cell n) = true ↔ startQueued s (.cell n) = true ∨ wantsStart s n = true)) ∧
      ∀ n, (cell t n).driving = (cell s n).driving)) ∧
    ((mv < 17000 ∨ ms < 10 ∨ (group s g).fsupOk = true) → exec (.groupFsupRestored g mv ms) s = .next s)) ∧
  (∀ (n : Fin 256) (s : State), isRun s .trellis = true → (cell s n).rc.mode = .pwm → (cell s n).driving = true →
    Answers (.pwmPhaseEdge n) s (fun t =>
      if (cell s n).pwmAt + pwmPeriodNs n ≤ s.now then (cell t n).pwmOn = true ∧ (cell t n).pwmAt = s.now
      else if (cell s n).pwmOn = true ∧ (cell s n).pwmAt + pwmOnNs n (cell s n).drive ≤ s.now then
        (cell t n).pwmOn = false ∧ (cell t n).pwmAt = (cell s n).pwmAt
      else t = s) ∧
    10000000 ≤ pwmPeriodNs n ∧ pwmPeriodNs n ≤ 60000000000) ∧
  (∀ (iss : Issuer) (n : Fin 256) (ty : Fin 16) (tmo : Fin 64) (s : State), Permits s iss .trl 0x0100 true →
    (iss.cask.val ≠ 0 → iss.cask.val ≠ 63 → exec (.cellTestStart iss n ty tmo) s = .next { s with reply := .none }) ∧
    ((iss.cask.val = 0 ∨ iss.cask.val = 63) →
      (s.trl.test.state = .running → Answers (.cellTestStart iss n ty tmo) s (fun t => t.trl.test = { s.trl.test with code := 0x0303 } ∧
        t.reply = .code 0x0303 ∧ t.trl.points = s.trl.points)) ∧
      (s.trl.test.state ≠ .running → testFits ty (cell s n).rc.mode = false → Answers (.cellTestStart iss n ty tmo) s (fun t =>
        t.trl.test.state = .done ∧ t.trl.test.code = 0x0304 ∧ t.trl.points = s.trl.points ∧
        { code := 0x0304, cask := iss.cask, data := d1 n ++ d1 ty ++ d2 0x0304 } ∈ t.arising)) ∧
      (s.trl.test.state ≠ .running → testFits ty (cell s n).rc.mode = true → Answers (.cellTestStart iss n ty tmo) s (fun t =>
        t.trl.test.state = .running ∧ t.trl.test.cell = n ∧ t.trl.test.type = ty ∧ t.trl.test.startedAt = s.now ∧
        ∀ i, testPoint (cell s n) = some i → ∀ p, pt? s i = some p → pt? t i = some { p with quality := qTest, prov := pvTrellis }))) ∧
    (s.trl.test.state = .running → Answers (.cellTestStop iss) s (TestEnded 0x0305 s)) ∧
    (s.trl.test.state ≠ .running → exec (.cellTestStop iss) s = .next { s with reply := .none })) ∧
  (∀ rs wire (s : State), isRun s .trellis = true → s.trl.test.state = .running →
    let t := s.trl.test
    let ok := rs.all (resultOk t.type (cell s t.cell).rc.mode) && (wire || t.type != 2)
    Answers (.cellTestComplete rs wire) s
      (TestEnded (if ok then 0x0300 else if t.type = 1 ∨ t.type = 4 then 0x0301 else 0x0302) s)) ∧
  (∀ (s : State), s.trl.test.state = .running →
    let lim := if s.trl.test.timeout = 0 ∨ 60 < s.trl.test.timeout then 60 else s.trl.test.timeout
    (s.trl.test.startedAt + lim * 1000000000 ≤ s.now → Answers .cellTestTimeout s (TestEnded 0x0306 s)) ∧
    (s.now < s.trl.test.startedAt + lim * 1000000000 → exec .cellTestTimeout s = .next s)) ∧
  (∀ (iss : Issuer) (s : State), iss.cask.val = 0 → Permits s iss .sys 0x0030 true → isRun s .trellis = true →
    (s.trl.test.state = .running → Answers (.trellisAbort iss) s (fun t => TestEnded 0x0305 s t ∧ bitOf t.pwr.abortDone 3 = true)) ∧
    (s.trl.test.state ≠ .running → Answers (.trellisAbort iss) s (fun t => t.trl = s.trl ∧ t.arising = s.arising ∧ bitOf t.pwr.abortDone 3 = true)))

/-- The task has been released at this state: its cycle, and its input image on HC0. -/
def Released (n : Nat) (s t : State) : Prop :=
  (∃ cy, (taskSt t n).cyc = some cy ∧ cy.phase = .released ∧ cy.releasedAt = s.now ∧ cy.clk = (pcask s (n / 32)).clk ∧
    cy.image = (taskSt s n).prog.inSlots.map (readSlot s (n / 32))) ∧
  laneQ t { hc := 0, back := false } = laneQ s { hc := 0, back := false } ++ [.inputImage n] ∧ t.trl = s.trl

/-- The task's cycle and the lanes are as before. -/
def NotReleased (n : Nat) (s t : State) : Prop := (taskSt t n).cyc = (taskSt s n).cyc ∧ t.sys = s.sys ∧ t.trl = s.trl

/-- The cyclic task is due for a release in the frame in progress. -/
def CyclicDue (c : Fin 63) (k : Fin 8) (s : State) : Prop :=
  isRun s .trellis = true ∧ 1 ≤ s.trl.frame ∧ (taskSt s (32 * c + k)).exist = true ∧ (pcask s c).mode = .run ∧
  1 ≤ (taskSt s (32 * c + k)).prog.rc.periodMs ∧
  (s.trl.frame - 1) % (taskSt s (32 * c + k)).prog.rc.periodMs = (taskSt s (32 * c + k)).prog.rc.phaseMs ∧
  (taskSt s (32 * c + k)).lastFrame ≠ some (s.trl.frame - 1)

/-- What a trigger of an existing event task of a cask in RUN does (R113). -/
def Triggered (n : Nat) (s t : State) : Prop :=
  (inWork (taskSt s n) = true → (taskSt s n).exch.held = none → (taskSt t n).exch.held = some s.now ∧ NotReleased n s t) ∧
  (inWork (taskSt s n) = false → (taskSt s n).cyc = none → isRun s .prog = true → Released n s t) ∧
  (inWork (taskSt s n) = false → (taskSt s n).cyc ≠ none → (taskSt s n).pend = false → (taskSt t n).pend = true ∧ NotReleased n s t) ∧
  (inWork (taskSt s n) = false → (taskSt s n).cyc ≠ none → (taskSt s n).pend = true → NotReleased n s t ∧
    (taskSt t n).ovr = satInc (taskSt s n).ovr 4294967295 ∧ { code := 0x0409, cask := n / 32, data := d1 (n % 32) ++ d4 0 } ∈ t.arising)

/-- A cyclic task of a cask in RUN, due in the frame, is released: its input image is copied in this Trellis cycle, the cask clock
latched, and the image sent over HC0 (R111, R117, R123); in a cycle it counts an overrun (R137), during exchange work it is
held once (R146), with the program engine down the image is dropped with PGE_ISLAND (R122). An event task is triggered by a
rising edge counted only from good or uncertain values, by any write, or by PGE_EVT_TRIG (R112); busy, one release is pending
and a further trigger is lost with PGE_EVT_LOST (R113). A free processor takes the first ready item by R115, and a ready item
ahead of the last-ordered running one takes its processor at a cost of 24 cycles (R116). Transfers of a handshake lane arrive
in order: an input image makes its cycle ready, an output image lies ready for its commit (R28). -/
def Obligations.ProgramReleasesTriggersAndDispatch : Prop :=
  (∀ (c : Fin 63) (k : Fin 8) (s : State), CyclicDue c k s →
    let n := 32 * c.val + k.val
    (inWork (taskSt s n) = false → (taskSt s n).cyc = none → isRun s .prog = true →
      Answers (.taskRelease c k) s (fun t => Released n s t ∧ (taskSt t n).lastFrame = some (s.trl.frame - 1))) ∧
    (inWork (taskSt s n) = false → (taskSt s n).cyc = none → isRun s .prog = false →
      Answers (.taskRelease c k) s (fun t => (taskSt t n).cyc = none ∧ (taskSt t n).ovr = satInc (taskSt s n).ovr 4294967295 ∧
        { code := 0x0407, cask := c, data := d1 k ++ d4 0 } ∈ t.arising ∧ t.trl = s.trl)) ∧
    (∀ cy, inWork (taskSt s n) = false → (taskSt s n).cyc = some cy →
      Answers (.taskRelease c k) s (fun t => (taskSt t n).cyc = some { cy with overrun := true } ∧
        (taskSt t n).ovr = satInc (taskSt s n).ovr 4294967295 ∧ t.sys = s.sys)) ∧
    (inWork (taskSt s n) = true → (taskSt s n).exch.held = none →
      Answers (.taskRelease c k) s (fun t => (taskSt t n).exch.held = some s.now ∧ NotReleased n s t))) ∧
  (∀ (c : Fin 63) (k : Fin 8) (s : State), ((pcask s c).mode ≠ .run ∨ s.trl.frame = 0 ∨
      (taskSt s (32 * c + k)).lastFrame = some (s.trl.frame - 1)) → exec (.taskRelease c k) s = .next s) ∧
  (∀ (c : Fin 63) (k : Fin 32) (s : State) p, isRun s .trellis = true → 8 ≤ k.val → k.val ≤ 23 →
    let n := 32 * c.val + k.val
    (taskSt s n).exist = true → (pcask s c).mode = .run → pt? s (taskSt s n).prog.rc.trigPoint = some p →
    ((taskSt s n).prog.rc.trigger = 2 → p.seq ≠ (taskSt s n).seenSeq →
      Answers (.eventTaskTrigger c k) s (fun t => (taskSt t n).seenSeq = p.seq ∧ Triggered n s t)) ∧
    ((taskSt s n).prog.rc.trigger = 1 → p.seq ≠ (taskSt s n).seenSeq → counted p = true → boolOf p.value = true → (taskSt s n).prev = false →
      Answers (.eventTaskTrigger c k) s (fun t => (taskSt t n).seenSeq = p.seq ∧ (taskSt t n).prev = true ∧ Triggered n s t)) ∧
    ((taskSt s n).prog.rc.trigger = 1 → p.seq ≠ (taskSt s n).seenSeq → counted p = true → (boolOf p.value = false ∨ (taskSt s n).prev = true) →
      Answers (.eventTaskTrigger c k) s (fun t => (taskSt t n).prev = boolOf p.value ∧ NotReleased n s t)) ∧
    ((taskSt s n).prog.rc.trigger = 1 → p.seq ≠ (taskSt s n).seenSeq → counted p = false →
      Answers (.eventTaskTrigger c k) s (fun t => (taskSt t n).prev = (taskSt s n).prev ∧ NotReleased n s t)) ∧
    ((taskSt s n).prog.rc.trigger = 1 ∨ (taskSt s n).prog.rc.trigger = 2 → p.seq = (taskSt s n).seenSeq →
      Answers (.eventTaskTrigger c k) s (NotReleased n s))) ∧
  (∀ (iss : Issuer) (k : Fin 32) (s : State), Permits s iss .pge 0x0040 true →
    let n := 32 * iss.cask.val + k.val
    ((taskSt s n).exist = true → (taskSt s n).prog.rc.trigger = 4 → 8 ≤ k.val → k.val ≤ 23 → (pcask s iss.cask).mode = .run →
      Answers (.pgeEvtTrig iss k) s (Triggered n s)) ∧
    (((taskSt s n).exist = false ∨ (taskSt s n).prog.rc.trigger ≠ 4 ∨ (pcask s iss.cask).mode ≠ .run) →
      exec (.pgeEvtTrig iss k) s = .next { s with reply := .none })) ∧
  (∀ (s : State), isRun s .prog = true → 1 ≤ s.trl.frame → (s.trl.frame - 1) % 10 = 0 → s.pge.periodFrame ≠ some (s.trl.frame - 1) →
    Answers .pgeAccountingPeriod s (fun t => t.pge.periodFrame = some (s.trl.frame - 1) ∧
      (∀ p, (proc t p).busyLast = (proc s p).busy) ∧
      ((running s 0 = none ∨ running s 1 = none) → t.pge.used = [] ∧ ∀ p, (proc t p).busy = 0))) ∧
  (∀ (c : Fin 63) (s : State) a b r, isRun s .prog = true → running s 0 = some a → running s 1 = some b →
    finishing s 0 = false → finishing s 1 = false → (a.n / 32 = c.val ∨ b.n / 32 = c.val) → guarantee s c ≤ usedBy s c → firstItem s (readyItems s) = some r →
    let p : Fin 2 := if lexLt (itemKey s a) (itemKey s b) then 1 else 0
    let last := if lexLt (itemKey s a) (itemKey s b) then b else a
    (lexLt (itemKey s r) (itemKey s last) = true → Answers (.pgeGuaranteeUsed c) s (fun t => running t p = some r ∧
      (proc t p).busy = (proc s p).busy + 24 ∧ usedBy t (r.n / 32) = usedBy s (r.n / 32) + 24)) ∧
    (lexLt (itemKey s r) (itemKey s last) = false → exec (.pgeGuaranteeUsed c) s = .next s)) ∧
  (∀ (c : Fin 63) (s : State), usedBy s c < guarantee s c → exec (.pgeGuaranteeUsed c) s = .next s) ∧
  (∀ (p : Fin 2) (s : State) i cy, isRun s .prog = true → running s p = none → firstItem s (readyItems s) = some i → i.work = false →
    (taskSt s i.n).cyc = some cy → Answers (.taskExecutionStart p) s (fun t => running t p = some i ∧
      (taskSt t i.n).cyc = some { cy with phase := .running, ctx := none } ∧
      (∀ x, cy.ctx = some x → (proc t p).ctx = x) ∧
      (cy.ctx = none → (proc t p).ctx = { (proc s p).ctx with pc := (taskSt s i.n).prog.rc.entry, gb := 0, stack := [], migr := none }))) ∧
  (∀ (p : Fin 2) (s : State), (running s p ≠ none ∨ firstItem s (readyItems s) = none) → exec (.taskExecutionStart p) s = .next s) ∧
  (∀ (l : Lane) (s : State),
    (laneQ s l = [] → exec (.handshakeCrossing l) s = .next s) ∧
    (∀ x q, laneQ s l = x :: q → Answers (.handshakeCrossing l) s (fun t => laneQ t l = q ∧
      (∀ n cy, x = .inputImage n → (taskSt s n).cyc = some cy → cy.phase = .released →
        ((running s 0 = none ∨ running s 1 = none) → (taskSt t n).cyc = some { cy with phase := .ready }) ∧
        ∃ cy', (taskSt t n).cyc = some cy' ∧ cy'.image = cy.image ∧ (cy'.phase = .ready ∨ cy'.phase = .running)) ∧
      (∀ n cy, x = .outputImage n → (taskSt s n).cyc = some cy → cy.phase = .sent → ∃ cy', (taskSt t n).cyc = some cy' ∧ cy'.phase = .arrived ∧
        cy'.out = cy.out ∧ ∀ k ∈ cy.raises, (taskSt s (32 * (n / 32) + k)).prog.rc.trigger = 3 → (taskSt t (32 * (n / 32) + k)).raised = true) ∧
      (∀ b y, x = .capture b → Tbl.get? s.lpe.bufs b = some y → Tbl.get? t.lpe.bufs b = some { y with arrived := true }))))

/-- At the end of execution the whole output image goes over HC1 and the processor is free; with Trellis down the image is
discarded with PGE_ISLAND (R121, R122). The commit writes each output point in this Trellis cycle with what OUT gave it, a
value that is no finite number as bad with PGE_BAD_REAL (R119, R120), and a point that no longer names the task as its source
is left out (R144). A cycle without retentive data then ends, its time kept. A retentive commit journals the changed lines
with the cask clock, marks the journal and copies the lines into the retentive copy (R129). A task whose output phase has not
begun by its watchdog time abandons the cycle with PGE_WATCHDOG and no output (R138), and with no error task its cask goes to
STOPPING. The error task is released once for the oldest entry of the queue (R139). -/
def Obligations.ProgramOutputsCommitsAndFaults : Prop :=
  (∀ (p : Fin 2) (s : State) n cy, isRun s .prog = true → running s p = some ⟨n, false⟩ → (taskSt s n).cyc = some cy →
    (cy.phase = .executed → isRun s .trellis = true → Answers (.taskOutputPhase p) s (fun t => running t p = none ∧
      (taskSt t n).cyc = some { cy with phase := .sent } ∧ t.trl = s.trl ∧
      laneQ t { hc := 1, back := false } = laneQ s { hc := 1, back := false } ++ [.outputImage n])) ∧
    (cy.phase = .executed → isRun s .trellis = false → Answers (.taskOutputPhase p) s (fun t => t.trl = s.trl ∧
      { code := 0x0407, cask := n / 32, data := d1 (n % 32) ++ d4 1 } ∈ t.arising)) ∧
    (cy.phase ≠ .executed → exec (.taskOutputPhase p) s = .next s)) ∧
  (∀ (c : Fin 63) (k : Fin 32) (s : State) cy, isRun s .trellis = true →
    let n := 32 * c.val + k.val
    (taskSt s n).cyc = some cy →
    (∀ i p, cy.phase = .arrived → (taskSt s n).prog.outSlots = [i] → pt? s i = some p → Plain s i →
      let x := (Tbl.get? cy.out 0).getD (p.value, qGood)
      let v := fitType p.type x.1
      Answers (.outputImageCommit c k) s (fun t => (∀ j, j ≠ i → pt? t j = pt? s j) ∧
        (isWriter p pvProgram n c = false → pt? t i = some p) ∧
        (isWriter p pvProgram n c = true → isFinite p.type v = true →
          pt? t i = some (entryWrite p pvProgram (if isBad x.2 then badValue p else v) (timeQuality s p x.2) (ptStamp s i))) ∧
        (isWriter p pvProgram n c = true → isFinite p.type v = false →
          pt? t i = some (entryWrite p pvProgram (badValue p) qSource (ptStamp s i)) ∧
          { code := 0x0405, cask := c, data := d1 k ++ d4 0 } ∈ t.arising))) ∧
    (cy.phase = .arrived → (taskSt s n).prog.outSlots = [] → cy.msgs = [] → hasRetain (taskSt s n) = true →
      Answers (.outputImageCommit c k) s (fun t => (taskSt t n).cyc = some { cy with phase := .committed } ∧ t.trl = s.trl)) ∧
    (cy.phase = .arrived → (taskSt s n).prog.outSlots = [] → cy.msgs = [] → hasRetain (taskSt s n) = false → (taskSt s n).pend = false →
      Answers (.outputImageCommit c k) s (fun t => (taskSt t n).cyc = none ∧
        (taskSt t n).lastNs = min (s.now - cy.releasedAt) 4294967295 ∧ t.mem = s.mem)) ∧
    (cy.phase ≠ .arrived → exec (.outputImageCommit c k) s = .next s)) ∧
  (∀ (c : Fin 63) (k : Fin 32) (s : State) cy, isRun s .prog = true →
    let n := 32 * c.val + k.val
    (taskSt s n).cyc = some cy →
    (cy.phase = .committed → Answers (.retentiveCommit c k) s (fun t => (taskSt t n).dirty = [] ∧ t.mem.inst = s.mem.inst ∧
      t.mem.fram = ((taskSt s n).dirty.map (fun l => (l, memReadBytes s.mem.inst (instKey c l) 64))).foldl
        (fun m e => memWriteBytes m (instKey c e.1) e.2) s.mem.fram ∧
      (retCopy t c).valid = true ∧ (retCopy t c).clk = cy.clk ∧ (retCopy t c).vintage = s.img.vintage ∧
      (∃ j, t.pge.journal = some j ∧ j.marked = true ∧ j.cask = c ∧ j.clk = cy.clk ∧ j.lines.map (·.1) = (taskSt s n).dirty) ∧
      ((taskSt s n).pend = false → (taskSt t n).cyc = none))) ∧
    (cy.phase ≠ .committed → exec (.retentiveCommit c k) s = .next s)) ∧
  (∀ (c : Fin 63) (k : Fin 32) (s : State) cy,
    let n := 32 * c.val + k.val
    (taskSt s n).cyc = some cy →
    (beforeOutput cy.phase = true → cy.releasedAt + wdogNs (taskSt s n).prog.rc < s.now →
      Answers (.taskWatchdog c k) s (fun t => t.trl = s.trl ∧ t.mem = s.mem ∧ { code := 0x0402, cask := c, data := d1 k ++ d4 0 } ∈ t.arising ∧
        ((taskSt s n).pend = false → (taskSt t n).cyc = none) ∧
        (k.val ≠ 31 → (taskSt s (32 * c.val + 31)).exist = false → (pcask s c).mode = .run → (pcask t c).mode = .stopping))) ∧
    ((beforeOutput cy.phase = false ∨ s.now ≤ cy.releasedAt + wdogNs (taskSt s n).prog.rc) → exec (.taskWatchdog c k) s = .next s)) ∧
  (∀ (c : Fin 63) (s : State) e r,
    let n := 32 * c.val + 31
    (pcask s c).errs = e :: r → isRun s .trellis = true → (taskSt s n).exist = true → (taskSt s n).cyc = none → inWork (taskSt s n) = false →
    ((pcask s c).mode = .run ∨ (pcask s c).mode = .holding ∨ (pcask s c).mode = .stopping) →
    (raiserBusy s c e = true → exec (.errorTaskRelease c) s = .next s) ∧
    (raiserBusy s c e = false → isRun s .prog = true → Answers (.errorTaskRelease c) s (fun t =>
      Released n s t ∧ ∃ cy, (taskSt t n).cyc = some cy ∧ cy.err = some e))) ∧
  (∀ (c : Fin 63) (s : State), (pcask s c).errs = [] → exec (.errorTaskRelease c) s = .next s)

/-- RUN_WARM and RUN_COLD are refused with PGE_CMD_STATE outside STOP, PGE_NO_TASKS without tasks, PGE_SEALED while sealed;
otherwise the cask is in RUN, its error queue cleared, a cold start with its clock at 0, and a warm start without a good
retentive copy falls back to a cold one with PGE_RETAIN_LOST (R130, R133 to R135). HOLD, RESUME and STOP are taken in the
modes Table 4.9 gives, else refused with PGE_CMD_STATE. Once no cycle is in progress HOLDING becomes HOLD and STOPPING becomes
STOP, with the outputs to be substituted; HOLD ends in STOP at its limit (R132). A cask acts on its START_MODE once, none
while sealed (R136). The abort ends every cycle, stops every cask and fails the exchanges waiting (R142). A read of PGE_CLK_LO
latches the high half (R123). A setpoint of Vintner is limited by its bounds and its rate and written with the value as
limited; without good bounds nothing is written (R35, R141). -/
def Obligations.ProgramModesStartsAndSetpoints : Prop :=
  (∀ (iss : Issuer) (x : Fin 64) (s : State), Permits s iss .pge 0 true →
    let c := cmdCask iss x
    let st (code : Nat) : State := { s with reply := .none, pge.cmdStatus := Tbl.put s.pge.cmdStatus iss.cask code }
    (∀ b, (b = .runWarm iss x ∨ b = .runCold iss x) →
      ((pcask s c).mode ≠ .stop → exec b s = .next (st 0x0410)) ∧
      ((pcask s c).mode = .stop → hasTasks s c = false → exec b s = .next (st 0x0411)) ∧
      ((pcask s c).mode = .stop → hasTasks s c = true → isSealed s = true → exec b s = .next (st 0x0412))) ∧
    ((pcask s c).mode = .stop → hasTasks s c = true → isSealed s = false →
      Answers (.runCold iss x) s (fun t => (pcask t c).mode = .run ∧ (pcask t c).errs = [] ∧ (pcask t c).lastStart = 2 ∧ (pcask t c).clk = 0 ∧
        Tbl.at t.pge.cmdStatus iss.cask 0 = 0x0400 ∧ t.mem.fram = s.mem.fram ∧ t.trl = s.trl) ∧
      (copyLost s c = false → Answers (.runWarm iss x) s (fun t => (pcask t c).mode = .run ∧ (pcask t c).errs = [] ∧ (pcask t c).lastStart = 1 ∧
        (pcask t c).clk = (pcask s c).clk ∧ Tbl.at t.pge.cmdStatus iss.cask 0 = 0x0400 ∧ t.trl = s.trl)) ∧
      (copyLost s c = true → Answers (.runWarm iss x) s (fun t => (pcask t c).mode = .run ∧ (pcask t c).lastStart = 2 ∧
        (pcask t c).retainLost = true ∧ (pcask t c).clk = 0 ∧ ∃ d, { code := 0x040A, cask := c, data := d } ∈ t.arising))) ∧
    (∀ b m m', (b = .holdCask iss x ∧ m = .run ∧ m' = .holding ∨ b = .resumeCask iss x ∧ m = .hold ∧ m' = .run ∨
        b = .stopCask iss x ∧ (m = .run ∨ m = .hold ∨ m = .holding) ∧ m' = .stopping) → (pcask s c).mode = m →
      Answers b s (fun t => (pcask t c).mode = m' ∧ Tbl.at t.pge.cmdStatus iss.cask 0 = 0x0400 ∧ t.trl = s.trl ∧ t.mem = s.mem ∧
        ∀ n, (taskSt t n).cyc = (taskSt s n).cyc)) ∧
    ((pcask s c).mode ≠ .run → exec (.holdCask iss x) s = .next (st 0x0410)) ∧
    ((pcask s c).mode ≠ .hold → exec (.resumeCask iss x) s = .next (st 0x0410)) ∧
    (((pcask s c).mode = .stop ∨ (pcask s c).mode = .stopping) → exec (.stopCask iss x) s = .next (st 0x0410))) ∧
  (∀ (c : Fin 63) (s : State),
    (caskBusy s c = true → exec (.caskDrained c) s = .next s) ∧
    (caskBusy s c = false → (pcask s c).mode = .holding → Answers (.caskDrained c) s (fun t => (pcask t c).mode = .hold ∧
      (pcask t c).holdAt = s.now ∧ t.stn = s.stn ∧ t.trl = s.trl)) ∧
    (caskBusy s c = false → (pcask s c).mode = .stopping → Answers (.caskDrained c) s (fun t => (pcask t c).mode = .stop ∧
      ∀ n ∈ caskTasks s c, ∀ i ∈ (taskSt s n).prog.outSlots, i ∈ t.stn.toSubst)) ∧
    ((pcask s c).mode = .hold → (pcask s c).holdAt + holdLimitNs (pcask s c) ≤ s.now → Answers (.holdExpired c) s (fun t =>
      (pcask t c).mode = .stop ∧ { code := 0x0414, cask := c, data := [] } ∈ t.arising)) ∧
    (((pcask s c).mode ≠ .hold ∨ s.now < (pcask s c).holdAt + holdLimitNs (pcask s c)) → exec (.holdExpired c) s = .next s) ∧
    (isRun s .prog = true → isRun s .trellis = true → (pcask s c).autoDue = true →
      ((isSealed s = true ∨ hasTasks s c = false ∨ (pcask s c).rc.startMode = 0) → Answers (.caskAutoStart c) s (fun t =>
        (pcask t c).mode = (pcask s c).mode ∧ (pcask t c).autoDue = false ∧ t.mem = s.mem)) ∧
      (isSealed s = false → hasTasks s c = true → (pcask s c).mode = .stop → (pcask s c).rc.startMode = 2 →
        Answers (.caskAutoStart c) s (fun t => (pcask t c).mode = .run ∧ (pcask t c).lastStart = 2 ∧ (pcask t c).autoDue = false)) ∧
      (isSealed s = false → hasTasks s c = true → (pcask s c).mode = .stop → (pcask s c).rc.startMode = 1 → copyLost s c = false →
        Answers (.caskAutoStart c) s (fun t => (pcask t c).mode = .run ∧ (pcask t c).lastStart = 1 ∧ (pcask t c).autoDue = false))) ∧
    ((pcask s c).autoDue = false → exec (.caskAutoStart c) s = .next s)) ∧
  (∀ (iss : Issuer) (s : State), iss.cask.val = 0 → Permits s iss .sys 0x0030 true → isRun s .prog = true →
    Answers (.programEngineAbort iss) s (fun t => (∀ n, (taskSt t n).cyc = none) ∧ (∀ c, (pcask t c).mode = .stop) ∧
      (∀ p, running t p = none) ∧ (∀ n, (taskSt s n).exch.st = .waiting → (taskSt t n).exch.st = .failed ∧ (taskSt t n).exch.code = 0x0423) ∧
      { code := 0x0413, data := [] } ∈ t.arising ∧ bitOf t.pwr.abortDone 1 = true ∧ t.mem = s.mem ∧ t.trl = s.trl)) ∧
  (∀ (iss : Issuer) (s : State), Permits s iss .pge 0x0010 false →
    Answers (.pgeClkLoRead iss) s (fun t => t.reply = .word ((pcask s (pgeBank s iss)).clk.setWidth 32) ∧
      (pcask t (pgeBank s iss)).clkHi = ((pcask s (pgeBank s iss)).clk >>> 32).setWidth 32 ∧
      (pcask t (pgeBank s iss)).clk = (pcask s (pgeBank s iss)).clk)) ∧
  (∀ (i : Fin 16384) (v : F64) (s : State) r p, Tbl.get? s.pge.vint i = some r → pt? s i = some p → isRun s .cluster = true →
    isRun s .trellis = true → p.srcKind = pvVintner → Plain s i →
    (∀ lo hi rate, boundVal s r.lo = some lo → boundVal s r.hi = some hi → boundVal s r.rate = some rate → F64.lt hi lo = false →
      let v1 := limitF v lo hi
      let step := fun l => F64.mul rate (F64.div (F64.ofInt (s.now - r.lastAt : Nat)) (F64.ofInt 1000000000)) |> fun x => limitF v1 (F64.sub l x) (F64.add l x)
      let v2 := (r.last.map step).getD v1
      Answers (.vintnerSetpointWrite i v) s (fun t => Tbl.get? t.pge.vint i = some { r with last := some v2, lastAt := s.now } ∧
        pt? t i = some (entryWrite p pvVintner (valueOf p.type v2) (timeQuality s p qGood) (ptStamp s i)) ∧
        t.arising.length = s.arising.length + (if v2 = v then 0 else 1))) ∧
    ((boundVal s r.lo = none ∨ boundVal s r.hi = none ∨ boundVal s r.rate = none) →
      Answers (.vintnerSetpointWrite i v) s (fun t => t.trl = s.trl ∧ t.pge = s.pge ∧ t.arising.length = s.arising.length + 1)))

/-- The boundary of an affected task is reached when no cycle of it is in progress (R145). The work, taken in the order of R115 by
a free processor, matches the instances once, keeps the data of those with the same PATH_ID and TYPE_HASH (Table 5.1, R147)
and is done when no migration routine is left. The switch puts the staged program in force in one step with EXCH_DONE and its
vintage, outputs no longer in the image to be substituted (R153). Work that lasts longer than the watchdog time of the task
fails with EXCH_TIME, the old program staying (R155, R156). A station whose watchdog passes without a restart is LOST: its
losses are counted, its input points and status point wait for their substitute values, and STATION_LOST is recorded with its
cask (R161 to R163); one already lost or absent changes nothing. -/
def Obligations.ProgramExchangeAndStationLoss : Prop :=
  (∀ (c : Fin 63) (k : Fin 32) (s : State),
    let n := 32 * c.val + k.val
    (isRun s .prog = true → (taskSt s n).exch.st = .waiting → (taskSt s n).exch.boundaryAt = none → (taskSt s n).cyc = none →
      Answers (.exchangeBoundary c k) s (fun t => inWork (taskSt t n) = true ∧ (taskSt t n).exch.boundaryAt = some s.now ∧
        (∀ m, (taskSt t m).prog = (taskSt s m).prog) ∧ t.trl = s.trl ∧
        ((running s 0 = none ∨ running s 1 = none) → ∀ m, m ≠ n → taskSt t m = taskSt s m))) ∧
    (((taskSt s n).cyc ≠ none ∨ (taskSt s n).exch.st ≠ .waiting) → exec (.exchangeBoundary c k) s = .next s) ∧
    (∀ new, isRun s .prog = true → (taskSt s n).exch.st = .waiting → (taskSt s n).exch.done = true → (taskSt s n).exch.staged = some new →
      (taskSt s n).exch.held = none →
      Answers (.exchangeSwitch c k) s (fun t => (taskSt t n).prog = new ∧ (taskSt t n).exist = !(taskSt s n).exch.remove ∧
        (taskSt t n).exch.st = .current ∧ (taskSt t n).exch.code = 0x0420 ∧ (taskSt t n).exch.vintage = (taskSt s n).exch.stagedVintage ∧
        (pcask t c).lastExch = 0x0420 ∧ t.mem.inst = s.mem.inst ∧ t.trl = s.trl ∧
        ∀ i ∈ (taskSt s n).prog.outSlots, i ∉ new.outSlots → i ∈ t.stn.toSubst)) ∧
    ((taskSt s n).exch.done = false → exec (.exchangeSwitch c k) s = .next s) ∧
    (∀ b, (taskSt s n).exch.boundaryAt = some b → (taskSt s n).exch.st = .waiting → (taskSt s n).exist = true →
      (b + wdogNs (taskSt s n).prog.rc < s.now → (taskSt s n).exch.held = none → Answers (.exchTime c k) s (fun t =>
        (taskSt t n).exch.st = .failed ∧ (taskSt t n).exch.code = 0x0422 ∧ (taskSt t n).exch.staged = none ∧
        (taskSt t n).prog = (taskSt s n).prog ∧ { code := 0x0422, cask := c, data := d1 k } ∈ t.arising)) ∧
      (s.now ≤ b + wdogNs (taskSt s n).prog.rc → exec (.exchTime c k) s = .next s))) ∧
  (∀ (p : Fin 2) (s : State) i g, isRun s .prog = true → running s p = none → firstItem s (readyItems s) = some i → i.work = true →
    (taskSt s i.n).exch.staged = some g →
    ((taskSt s i.n).exch.matched = true → Answers (.exchangeWork p) s (fun t => running t p = some i ∧ t.mem = s.mem ∧
      (taskSt t i.n).exch.proc = some p.val)) ∧
    ((taskSt s i.n).exch.matched = false → (taskSt s i.n).exch.toMigrate = [] → (∀ r ∈ g.insts, fateOf (taskSt s i.n).prog.insts r = .kept) →
      Answers (.exchangeWork p) s (fun t => (taskSt t i.n).exch.matched = true ∧ (taskSt t i.n).exch.done = true ∧ running t p = none ∧
        t.mem = s.mem ∧ usedBy t (i.n / 32) = usedBy s (i.n / 32) + 200 + 4 * g.insts.length))) ∧
  (∀ (p : Fin 2) (s : State), ((∃ i, running s p = some i ∧ (i.work = false ∨ (taskSt s i.n).exch.matched = true)) ∨
      running s p = none ∧ firstItem s (readyItems s) = none) → exec (.exchangeWork p) s = .next s) ∧
  (∀ (n : Fin 1024) (s : State) x, Tbl.get? s.stn.tbl n = some x →
    (x.lastAt + x.wdogMs * 1000000 ≤ s.now → (x.st = .present ∨ x.st = .proving) → Answers (.stationLost n) s (fun t =>
      (∃ y, Tbl.get? t.stn.tbl n = some y ∧ y.st = .lost ∧ y.busFault = false ∧ y.losses = satInc x.losses 0xFFFF ∧ y.proved = [] ∧
        y.closed = stnOutputs s n x) ∧
      t.stn.lostTotal = satInc s.stn.lostTotal 4294967295 ∧ (∀ i ∈ stnInputs s n x, i ∈ t.stn.toSubst) ∧ x.statusPoint ∈ t.stn.toSubst ∧
      { code := 0x0430, cask := x.cask, data := d2 n } ∈ t.arising ∧ t.trl = s.trl)) ∧
    (s.now < x.lastAt + x.wdogMs * 1000000 → exec (.stationLost n) s = .next s) ∧
    ((x.st = .absent ∨ x.st = .lost) → exec (.stationLost n) s = .next s))

/-- STAGE outside IDLE, COMMIT outside STAGED and DISCARD outside STAGED, written by cask 0, have no effect other than setting
UPD_SI_STATUS.CODE to IMAGE_BUSY (0x0210), for every state and form (R77). The answer is the model's own field. -/
def Obligations.CommandsThatDoNotFitAreBusy : Prop :=
  ∀ (iss : Issuer) (s : State), iss.cask.val = 0 → Permits s iss .upd 0x0800 true →
    (s.img.state ≠ .idle → exec (.stage iss) s = .next { s with img.code := 0x0210, reply := .code 0x0210 }) ∧
    (∀ b, s.img.state ≠ .staged → exec (.commit iss b) s = .next { s with img.code := 0x0210, reply := .code 0x0210 }) ∧
    (s.img.state ≠ .staged → exec (.discard iss) s = .next { s with img.code := 0x0210, reply := .code 0x0210 })

/-- A write of a point by a source that is not its one writing source leaves every entry unchanged and increments TRL_WR_REFUSED,
which saturates at 0xFFFF_FFFF. If the writer's cask differs from the point's cask tag, the write is also refused under R40
and recorded as CASK_DENIED with the issuing cask, and SYS_CASK_DENIED is incremented; otherwise nothing is recorded (R93).
writeBy is the operation every source writes with. -/
def Obligations.RefusedWritesOfPoints : Prop :=
  ∀ (kind idx cask i : Nat) (v st : DWord) (q : Byte) (s : State) p, pt? s i = some p → isWriter p kind idx cask = false →
    let t := writeBy kind idx cask i v q st s
    t.trl = { s.trl with wrRefused := satInc s.trl.wrRefused 4294967295 } ∧
    (cask = p.cask → t.arising = s.arising ∧ t.sys = s.sys) ∧
    (cask ≠ p.cask → (∃ d, t.arising = s.arising ++ [{ code := 0x0220, cask := cask, data := d }]) ∧
      t.sys.deniedTotal = satInc s.sys.deniedTotal 4294967295)

/-- A transfer towards an island that is not in RUN leaves every lane as it is, ends the sender's operation with ISLAND_DOWN
(0x00A1), and sets the channel's bit in SYS_XCH_FAULT, the other bits kept (R29). Towards an island in RUN it queues behind
the lane's earlier transfers, and no other lane changes (R28). present is the operation every engine sends with. -/
def Obligations.TransfersToStoppedIslandsAreRefused : Prop :=
  ∀ (l : Lane) (src dst : Island) (x : Transfer) (s : State),
    (isRun s dst = false →
      let t := present l src dst x s
      t.sys.lanes = s.sys.lanes ∧ t.reply = .code 0x00A1 ∧ bitOf t.sys.xchFault l.hc.val = true ∧
      ∀ k, k ≠ l.hc.val → bitOf t.sys.xchFault k = bitOf s.sys.xchFault k) ∧
    (isRun s dst = true → laneQ (present l src dst x s) l = laneQ s l ++ [x] ∧
      ∀ m : Lane, laneKey m ≠ laneKey l → laneQ (present l src dst x s) m = laneQ s m)

/-- When the store is full, each new record overwrites the oldest and CEL_EVT_OVR increases by 1, saturating. No command clears
the store or any record: after any command, every record of the store is still there with its number, code and data, but for
the oldest of a full store (R389). -/
def Obligations.EventStoreIsNeverCleared : Prop :=
  (∀ (e : Event) (s : State) r rest, s.cel.store = r :: rest → storeSize ≤ s.cel.store.length →
    (appendRec e s).cel.ovr = satInc s.cel.ovr 4294967295 ∧
    ∃ n, (appendRec e s).cel.store = rest ++ [n] ∧ n.code = e.code ∧ n.cask = e.cask ∧ n.seq = s.cel.seq + 1) ∧
  (∀ (c : Instr) (s t : State), exec c s = .next t → ∀ r ∈ s.cel.store,
    (∃ r' ∈ t.cel.store, r'.seq = r.seq ∧ r'.code = r.code ∧ r'.data = r.data) ∨
    (storeSize ≤ s.cel.store.length ∧ s.cel.store.head? = some r))

/-- An image is loaded only in a start-up that has run and has made its whole load. -/
def ImageRuns (s : State) : Prop := s.img.loaded = true → s.pwr.started = true ∧ s.pwr.loadDone = true

/-- Once a structure image has been loaded, a write to SYS_COMPAT.PRIOR has no effect until the next reset, and prior mode never
changes while an image is running: from every state with an image loaded in which its start-up has run (the invariant
ImageRuns, stated apart), a step to a state with an image loaded leaves SYS_COMPAT.PRIOR and the mode in force as they are
(R10). -/
def Obligations.PriorModeNeverChangesWhileAnImageRuns : Prop :=
  ∀ (s t : State), ImageRuns s → s.img.loaded = true → step s = .next t → t.img.loaded = true →
    t.sys.prior = s.sys.prior ∧ t.sys.active = s.sys.active

/-- From every state in which a loaded image implies that its start-up has run and its whole load is done, every step (any
command, or time passing) leads to such a state (R9, R58, R482, R486: the image comes in the whole load alone, and a logic-
side reset takes it away). -/
def Obligations.LoadedImageHasItsStartUp : Prop :=
  ∀ (s t : State), ImageRuns s → step s = .next t → ImageRuns t

/-- From every state whose three memories are in canonical form (addresses strictly rising, no entry equal to what an unlisted
address reads as), every step leads to such a state: equal memories are equal data. What an unlisted byte reads as is the
model's choice (log entry 2). -/
def Obligations.MemoriesStayCanonical : Prop :=
  ∀ (s t : State), CanonState s → step s = .next t → CanonState t

/-- From every state in which each domain's value is below 2^96 (64 bits of nanoseconds with a fraction of 32 bits, R340), every
step (a SET, a step or slew, the calendar's start value, a whole load, 10 ns of time) leads to such a state. -/
def Obligations.DomainTimesStayBelowTheirWidth : Prop :=
  ∀ (s t : State), (∀ n, (dom s n).t < 2 ^ 96) → step s = .next t → ∀ n, (dom t n).t < 2 ^ 96

/-- A port without link holds no frame. -/
def LinklessEmpty (s : State) : Prop :=
  ∀ p : Port, (portSt s p).link = false → (portSt s p).q1 = [] ∧ (portSt s p).q2 = [] ∧ (portSt s p).q3 = [] ∧ (portSt s p).wire = none

/-- From every state in which a ring port without link has empty egress queues and nothing on the wire, every step leads to such a
state: LINK_DOWN empties the port, and a frame joins only a port with link (R318, R320). -/
def Obligations.PortsWithoutLinkHoldNoFrames : Prop :=
  ∀ (s t : State), LinklessEmpty s → step s = .next t → LinklessEmpty t

/-- The chapter of the command list a command belongs to. -/
inductive Chapter where
  | registers | crossing | cellar | time | image | trellis | program | instruction | station | loop | press | safety |
  ring | admission | fmp | recorder | fieldBus | building | keys | racking | power | trellisAbort
  deriving DecidableEq, Repr

/-- The chapter of each command. -/
def chapterOf : Instr → Chapter
  | .registerWrite .. | .rcRegisterRead .. | .narrowOrUnalignedAccess .. | .unmappedPeripheralAccess .. |
  .sysCompatWrite .. => .registers
  | .handshakeCrossing .. => .crossing
  | .celPostedWriteEffect .. | .celToBattery .. | .celToMain .. | .pendedEvent .. | .vbatMeasure .. | .rtcSecond .. |
  .loadCalendar .. | .syncCalendar .. | .syncTakesEffect .. | .dstAdd .. | .dstSub .. | .rtcTimeRead .. |
  .celZoneWrite .. | .celTrimWrite .. | .celTrimCfgWrite .. | .celOscStop .. | .oscRestart .. | .trimWindowEnd .. |
  .opsecSave .. | .leapCheck .. | .calendarCheck .. => .cellar
  | .timeDistributionUpdate .. | .syncReceived .. | .syncMissing .. | .timHoldover .. | .announceReceived .. |
  .announceTimeout .. | .slewComplete .. | .holdSecond .. | .timUntrusted .. | .pdelayRequestSend .. |
  .pdelayMessageReceived .. | .syncSend .. | .setDomain .. | .setTrustDomain .. | .adjustDomain .. | .nowLoRead .. |
  .xsnap .. | .timeCapture .. | .captureRead .. => .time
  | .stage .. | .commit .. | .discard .. | .commitTrellisCycle .. | .sectionActiveReport .. | .sectionalLoadAbort .. |
  .wholeLoad .. => .image
  | .trellisFrame .. | .startRelease .. | .diSample .. | .diFilterElapsed .. | .countEdge .. | .outputTurnOff .. |
  .doShortTrip .. | .doTripRetry .. | .groupFsupLow .. | .groupFsupRestored .. | .pointSnapshot .. |
  .partitionPointWrite .. | .cellTestStart .. | .cellTestStop .. | .cellTestComplete .. | .cellTestTimeout .. |
  .pwmPhaseEdge .. => .trellis
  | .taskRelease .. | .eventTaskTrigger .. | .pgeEvtTrig .. | .pgeAccountingPeriod .. | .pgeGuaranteeUsed .. |
  .taskExecutionStart .. | .taskOutputPhase .. | .outputImageCommit .. | .retentiveCommit .. | .taskWatchdog .. |
  .errorTaskRelease .. | .runWarm .. | .runCold .. | .holdCask .. | .resumeCask .. | .stopCask .. | .caskDrained .. |
  .holdExpired .. | .caskAutoStart .. | .programEngineAbort .. | .pgeClkLoRead .. | .vintnerSetpointWrite .. |
  .exchangeBoundary .. | .exchangeWork .. | .exchangeSwitch .. | .exchTime .. => .program
  | .opLd8 .. | .opLd16 .. | .opLd32 .. | .opLd64 .. | .opSt8 .. | .opSt16 .. | .opSt32 .. | .opSt64 .. | .opIn .. |
  .opInq .. | .opOut .. | .opOutq .. | .opAdd .. | .opSub .. | .opNeg .. | .opAbs .. | .opMin .. | .opMax .. |
  .opLimit .. | .opSel .. | .opMul .. | .opDiv .. | .opMod .. | .opIntConv .. | .opAnd .. | .opOr .. | .opXor .. |
  .opNot .. | .opShl .. | .opShr .. | .opRol .. | .opRor .. | .opFadd .. | .opFsub .. | .opFmul .. | .opFdiv .. |
  .opFsqrt .. | .opFmin .. | .opFmax .. | .opFlim .. | .opCvt .. | .opCmp .. | .opFcmp .. | .opLdb .. | .opAndb .. |
  .opOrb .. | .opXorb .. | .opNotb .. | .opStb .. | .opSetb .. | .opRstb .. | .opJmp .. | .opBt .. | .opBf .. |
  .opCall .. | .opRet .. | .opTon .. | .opTof .. | .opTp .. | .opRtrig .. | .opFtrig .. | .opCtu .. | .opCtd .. |
  .opCtud .. | .opClk .. | .opFirst .. | .opSetp .. | .opMode .. | .opRaise .. | .opErrinfo .. | .opErrack .. => .instruction
  | .stationLost .. => .station
  | .loopFrame .. | .loopSnapshot .. | .loopEvaluation .. | .lpeFe .. | .lpeLate .. | .loopModeOff .. |
  .loopModeManual .. | .loopModeAuto .. | .loopModeTrack .. | .lpeResume .. | .loopEngineAbort .. | .shadowStart .. |
  .shadowStop .. | .shadowEvaluation .. | .shadowComplete .. | .captureComplete .. | .vintnerRetuneFit .. |
  .tryRetune .. | .applyRetune .. | .revertRetune .. => .loop
  | .pressSample .. | .gainStepUp .. | .handoverEnd .. | .zeroCrossing .. | .prsDirChange .. | .prsPhaseLoss .. |
  .pressPointsLost .. | .pulseStart .. | .pulseEnd .. | .mdReset .. | .tariffPush .. | .tariffClear .. |
  .accumulatorSnapshot .. | .snapshotComplete .. | .elementActivation .. | .pressAbort .. | .periodicSave .. |
  .saveCommit .. | .finalSaveCommand .. | .pressHoldFull .. | .pressRestoreComplete .. | .prsWatchStart .. |
  .watchSecond .. | .prsWatchEnd .. | .prsWatchLost .. | .tastingRunComplete .. | .tastingStart .. | .tastingSingle .. |
  .tastingStop .. | .pressConverterFault .. => .press
  | .spSample .. | .slSample .. | .discrepancyTimeout .. | .intermediateTimeout .. | .syncWindowEnd .. |
  .functionFaultClear .. | .testPulseDrop .. | .tpCheckSample .. | .crossLinkExchange .. | .requestOff .. |
  .fbTimeout .. | .switchTest .. | .degradedTimerExpiry .. | .safetySelfTest .. | .safetyChannelStop .. |
  .safetySupplyStart .. | .safetySupplyStop .. | .pendingMapDelivery .. | .openSession .. | .showPending .. |
  .acceptMap .. | .setPassword .. | .resetLockout .. | .readLog .. | .closeSession .. | .safTimeout .. |
  .keyswitchRelease .. | .pwBlockExpiry .. | .safetyIslandAbort .. | .safetyStatusReport .. | .mirrorStale .. |
  .safetyWindowWatchdog .. | .keyswitchEngage .. | .safetyChannelRestart .. => .safety
  | .ringFrameReceived .. | .dupEntryTimeout .. | .leesHoldTimeout .. | .suspectClear .. | .heartbeatSend .. |
  .supervisionFrameSend .. | .netPathFail .. | .netPathUp .. | .linkUp .. | .linkDown .. | .bypassRelease .. |
  .bypHoldSet .. | .egressTransmit .. | .pathTestStart .. | .pathTestFrameSend .. | .pathTestEnd .. => .ring
  | .flowSend .. | .flowRekey .. | .admitFlow .. | .releaseFlow .. | .admissionDecision .. | .bindReceived .. |
  .bindAnswer .. | .bindTimeout .. | .ringMacAbort .. => .admission
  | .fmpRead .. | .fmpWrite .. | .fmpAdmit .. | .fmpRelease .. | .safetyMsg .. => .fmp
  | .eventRecordQueued .. | .eventRecordWrite .. | .celTimeMark .. | .queryStart .. | .queryNext .. | .queryEnd .. |
  .queryRecordReady .. | .cellarAbort .. => .recorder
  | .canFrameReceived .. | .canPeriodicTrigger .. | .canTxComplete .. | .canTxError .. | .canBusOff .. |
  .canBusWatchdog .. | .canSupplyFail .. | .canRecoveryComplete .. | .fbsChStart .. | .fbsChStop .. | .recoverChannel ..
  | .ttCycleStart .. | .ttTxWindow .. | .ttRxWindowEnd .. | .fbsTtResync .. | .marginScanStart .. | .marginScanStop .. |
  .marginScanComplete .. | .marginScanTimeout .. | .fieldBusAbort .. | .canRxError .. | .ttArbitratingWindowStart .. => .fieldBus
  | .daliPoll .. | .daliBackwardFrame .. | .daliEventMessage .. | .daliLevelCommand .. | .bsiDaliFail .. |
  .daliBusRestored .. | .osdpPoll .. | .osdpReply .. | .osdpReplyTimeout .. | .osdpScSetup .. | .accessDecision .. |
  .strikeExpiry .. | .bsiPortStart .. | .bsiPortStop .. | .install .. | .installTimeout .. | .credAdd .. |
  .credDelete .. | .credReplace .. | .credTableRestore .. | .daliStartCommandDue .. => .building
  | .provision .. | .serviceEnter .. | .serviceExit .. | .serviceTimeout .. | .retire .. | .acceptIdentity .. |
  .attest .. | .attestComplete .. | .clearA .. | .armMonitors .. | .invalidateSess .. | .invalidateRdr .. |
  .rollStage .. | .roll .. | .rollActivation .. | .importKey .. | .deleteKey .. | .exportKey .. | .encrypt .. |
  .decrypt .. | .sign .. | .verify .. | .computeMac .. | .keyOpComplete .. | .cachePurgeComplete .. | .unseal .. |
  .remask .. | .meshSample .. | .lidOpen .. | .glitchDetected .. | .keyEngineAbort .. | .serviceSessionOpen .. |
  .serviceSessionTimeout .. => .keys
  | .rackBegin .. | .rackFrag .. | .verifyComplete .. | .rackActivate .. | .rackActivation .. | .rackCancel .. |
  .rackConfirm .. | .rackRevert .. | .confirmationExpiry .. | .bootCompletion .. | .updAbort .. => .racking
  | .vinStart .. | .pwrVinWarn .. | .pwrVinClear .. | .holdupEnd .. | .alwaysOnRailStop .. | .pwrFsupLow .. |
  .fsupRestored .. | .resetPin .. | .watchdogReset .. | .exceptionReset .. | .sysReset .. | .logicReset .. | .startUp ..
  | .wakeAdmission .. | .islandRun .. | .wakeRelease .. | .pwrIslandFail .. | .standby .. | .resumeFromStandby .. |
  .abortDoneTimeout .. | .moduleWithdrawal .. => .power
  | .trellisAbort .. => .trellisAbort

/-- For every command, by the chapter of the table it stands in, the parts of the block it never changes: memories, image,
Trellis, program engine, loop engine, Press, safety island, Cellar, keys, stations, field buses, ring, time, racking and
power. The engines reach one another only over the channels of R27; what each command changes inside its own chapter is stated
with the command. -/
def Obligations.ChaptersLeaveOtherChaptersAlone : Prop :=
  ∀ (c : Instr) (s t : State), exec c s = .next t →
    (chapterOf c = .crossing → t.mem = s.mem ∧ t.img = s.img ∧ t.trl = s.trl ∧ t.prs = s.prs ∧ t.saf = s.saf ∧ t.cel = s.cel ∧
      t.key = s.key ∧ t.stn = s.stn ∧ t.fbs = s.fbs ∧ t.net = s.net ∧ t.tim = s.tim ∧ t.upd = s.upd ∧ t.pwr = s.pwr) ∧
    (chapterOf c = .cellar → t.mem = s.mem ∧ t.img = s.img ∧ t.trl = s.trl ∧ t.pge = s.pge ∧ t.lpe = s.lpe ∧ t.prs = s.prs ∧
      t.saf = s.saf ∧ t.key = s.key ∧ t.stn = s.stn ∧ t.fbs = s.fbs ∧ t.net = s.net ∧ t.tim = s.tim ∧ t.upd = s.upd ∧ t.pwr =
      s.pwr) ∧
    (chapterOf c = .time → t.mem = s.mem ∧ t.img = s.img ∧ t.trl = s.trl ∧ t.pge = s.pge ∧ t.lpe = s.lpe ∧ t.prs = s.prs ∧
      t.saf = s.saf ∧ t.key = s.key ∧ t.stn = s.stn ∧ t.fbs = s.fbs ∧ t.upd = s.upd ∧ t.pwr = s.pwr) ∧
    (chapterOf c = .image → t.cel = s.cel) ∧
    (chapterOf c = .trellis → t.mem = s.mem ∧ t.img = s.img ∧ t.pge = s.pge ∧ t.lpe = s.lpe ∧ t.prs = s.prs ∧ t.saf = s.saf ∧
      t.cel = s.cel ∧ t.key = s.key ∧ t.tim = s.tim ∧ t.upd = s.upd) ∧
    (chapterOf c = .program → t.img = s.img ∧ t.lpe = s.lpe ∧ t.prs = s.prs ∧ t.saf = s.saf ∧ t.cel = s.cel ∧ t.key = s.key ∧
      t.net = s.net ∧ t.tim = s.tim ∧ t.upd = s.upd) ∧
    (chapterOf c = .instruction → t.img = s.img ∧ t.trl = s.trl ∧ t.lpe = s.lpe ∧ t.prs = s.prs ∧ t.saf = s.saf ∧ t.cel =
      s.cel ∧ t.key = s.key ∧ t.stn = s.stn ∧ t.fbs = s.fbs ∧ t.net = s.net ∧ t.tim = s.tim ∧ t.upd = s.upd ∧ t.pwr = s.pwr) ∧
    (chapterOf c = .station → t.sys = s.sys ∧ t.mem = s.mem ∧ t.img = s.img ∧ t.trl = s.trl ∧ t.lpe = s.lpe ∧ t.prs = s.prs ∧
      t.saf = s.saf ∧ t.cel = s.cel ∧ t.key = s.key ∧ t.tim = s.tim ∧ t.upd = s.upd ∧ t.pwr = s.pwr) ∧
    (chapterOf c = .loop → t.mem = s.mem ∧ t.img = s.img ∧ t.pge = s.pge ∧ t.prs = s.prs ∧ t.saf = s.saf ∧ t.cel = s.cel ∧
      t.key = s.key ∧ t.net = s.net ∧ t.tim = s.tim ∧ t.upd = s.upd) ∧
    (chapterOf c = .press → t.mem = s.mem ∧ t.img = s.img ∧ t.pge = s.pge ∧ t.lpe = s.lpe ∧ t.saf = s.saf ∧ t.cel = s.cel ∧
      t.key = s.key ∧ t.net = s.net ∧ t.tim = s.tim ∧ t.upd = s.upd) ∧
    (chapterOf c = .safety → t.mem = s.mem ∧ t.img = s.img ∧ t.pge = s.pge ∧ t.lpe = s.lpe ∧ t.prs = s.prs ∧ t.cel = s.cel ∧
      t.key = s.key ∧ t.net = s.net ∧ t.tim = s.tim ∧ t.upd = s.upd) ∧
    (chapterOf c = .ring → t.mem = s.mem ∧ t.img = s.img ∧ t.lpe = s.lpe ∧ t.prs = s.prs ∧ t.saf = s.saf ∧ t.cel = s.cel ∧
      t.tim = s.tim ∧ t.upd = s.upd) ∧
    (chapterOf c = .admission → t.mem = s.mem ∧ t.img = s.img ∧ t.pge = s.pge ∧ t.lpe = s.lpe ∧ t.prs = s.prs ∧ t.saf = s.saf
      ∧ t.cel = s.cel ∧ t.upd = s.upd) ∧
    (chapterOf c = .recorder → t.mem = s.mem ∧ t.img = s.img ∧ t.trl = s.trl ∧ t.pge = s.pge ∧ t.lpe = s.lpe ∧ t.prs = s.prs ∧
      t.saf = s.saf ∧ t.key = s.key ∧ t.stn = s.stn ∧ t.fbs = s.fbs ∧ t.net = s.net ∧ t.upd = s.upd) ∧
    (chapterOf c = .fieldBus → t.mem = s.mem ∧ t.img = s.img ∧ t.lpe = s.lpe ∧ t.prs = s.prs ∧ t.saf = s.saf ∧ t.cel = s.cel ∧
      t.key = s.key ∧ t.tim = s.tim ∧ t.upd = s.upd) ∧
    (chapterOf c = .building → t.mem = s.mem ∧ t.img = s.img ∧ t.lpe = s.lpe ∧ t.prs = s.prs ∧ t.saf = s.saf ∧ t.cel = s.cel ∧
      t.tim = s.tim ∧ t.upd = s.upd) ∧
    (chapterOf c = .keys → t.img = s.img ∧ t.trl = s.trl ∧ t.pge = s.pge ∧ t.lpe = s.lpe ∧ t.saf = s.saf ∧ t.cel = s.cel ∧
      t.stn = s.stn ∧ t.fbs = s.fbs ∧ t.tim = s.tim ∧ t.upd = s.upd) ∧
    (chapterOf c = .racking → t.mem = s.mem ∧ t.trl = s.trl ∧ t.pge = s.pge ∧ t.lpe = s.lpe ∧ t.saf = s.saf ∧ t.cel = s.cel ∧
      t.key = s.key ∧ t.stn = s.stn ∧ t.fbs = s.fbs ∧ t.net = s.net ∧ t.tim = s.tim) ∧
    (chapterOf c = .trellisAbort → t.mem = s.mem ∧ t.img = s.img ∧ t.pge = s.pge ∧ t.lpe = s.lpe ∧ t.prs = s.prs ∧ t.saf =
      s.saf ∧ t.cel = s.cel ∧ t.key = s.key ∧ t.stn = s.stn ∧ t.fbs = s.fbs ∧ t.net = s.net ∧ t.tim = s.tim ∧ t.upd = s.upd)

/-- No instruction of the program engine changes a byte of the instance memory of a cask that neither processor is running,
whatever its operands: the partition is the cask's own (R127, R40), and dynamic RAM and ferroelectric memory are not reached
at all. Premises: the running casks' INST_KIB is at most 16,384, and a migrating instance begins inside it. The place of each
cask's partition in the one byte memory is the model's. -/
def Obligations.InstructionsKeepToTheirOwnCask : Prop :=
  ∀ (c : Instr) (s t : State) (k : Nat), chapterOf c = .instruction → exec c s = .next t →
    (∀ p i, running s p = some i → i.n / 32 ≠ k ∧ (caskRec s (i.n / 32)).instKib ≤ 16384 ∧
      ∀ o w, (proc s p).ctx.migr = some (o, w) → w.off < 0x1000000 - 64) →
    t.mem.dram = s.mem.dram ∧ t.mem.fram = s.mem.fram ∧
    ∀ a, a < 0x1000000 → memRead t.mem.inst (instKey k a) = memRead s.mem.inst (instKey k a)

/-- Every command leaves the racking record as it is or writes it with a higher SEQ (R462), and ACTIVE changes only from TRIAL to
the TARGET slots of that trial (R470, R471): a power loss, a failed start or a revert never does. The two register write
paths, REGISTER_WRITE and FMP_WRITE, run these same commands and are left out here. -/
def Obligations.RackingRecordOnlyMovesForward : Prop :=
  ∀ (c : Instr) (s t : State), chapterOf c ≠ .registers → chapterOf c ≠ .fmp → exec c s = .next t →
    (t.upd.rack = s.upd.rack ∨ s.upd.rack.seq < t.upd.rack.seq) ∧
    (t.upd.rack.active = s.upd.rack.active ∨
      s.upd.rack.state = .trial ∧ t.upd.rack.active = s.upd.rack.target ∧ t.upd.rack.state = .idle)

/-- Whatever the state and the operands, a command is carried out, refused as the spec refuses it, or ignored, and the block goes
on: no command ends in a fault or a refusal of the model, and so no step does. Every command leaves the queue of waiting
commands and the time (the model's own fields, log entry 1) as they are, and the serial number, the fitted variant and suffix,
and the module address, which are fixed items of the module (R446). -/
def Obligations.EveryCommandCompletesAndKeepsTheQueue : Prop :=
  (∀ (c : Instr) (s : State), ∃ t, exec c s = .next t ∧ t.pending = s.pending ∧ t.now = s.now ∧ t.sys.serial = s.sys.serial ∧
    t.sys.variant = s.sys.variant ∧ t.sys.ext = s.sys.ext ∧ t.sys.address = s.sys.address) ∧
  (∀ s : State, Completes (step s))

/-- For every command c and state s, a step of s with c at the front of its queue is exec of c on s with the queue's rest. With no
command waiting, a step passes 10 ns (the model's choice, log entry 1): every time domain runs on with its frequency and slew
correction (R340, R342), the cask clocks of casks in RUN, HOLDING and STOPPING advance while the program engine runs (R123),
and the substitutions Trellis owes come about (R92); memories, image, loops, Press, safety, Cellar, keys, ring and racking are
as before. -/
def Obligations.StepRunsTheFrontCommand : Prop :=
  (∀ (c : Instr) (r : List Instr) (s : State), step { s with pending := c :: r } = exec c { s with pending := r }) ∧
  ∀ (s : State), s.pending = [] → ∃ t, step s = .next t ∧ t.pending = [] ∧ t.now = s.now + 10 ∧
    (∀ n d, Tbl.get? s.tim.doms n = some d → dom t n = runDom d) ∧
    (∀ c k, isRun s .prog = true → Tbl.get? s.pge.casks c = some k → (k.mode = .run ∨ k.mode = .holding ∨ k.mode = .stopping) →
      (pcask t c).clk = k.clk + 10) ∧
    (∀ c k, Tbl.get? s.pge.casks c = some k → (isRun s .prog = false ∨ k.mode = .stop ∨ k.mode = .hold) → (pcask t c).clk = k.clk) ∧
    (isRun s .trellis = true → t.stn.toSubst = []) ∧
    t.mem = s.mem ∧ t.img = s.img ∧ t.lpe = s.lpe ∧ t.prs = s.prs ∧ t.saf = s.saf ∧ t.cel = s.cel ∧ t.key = s.key ∧ t.net = s.net ∧
    t.upd = s.upd ∧ t.sys = s.sys

/-- At State.reset every register the spec defines, at its offset (of a numbered register the first and the last of its header
row), reads the Reset value of its header table, as issued by Gengal firmware; PRS_STATUS alone is left out, whose
TIME_UNTRUSTED follows domain 1 and which reads 0 until Press runs (R48). No command waits, the Cluster and the Cellar are in
RUN and every other island in OFF, no image is loaded, and the invariants stated apart hold. Values the model chose (log
entries) are not among these. -/
def Obligations.ResetRegistersAndInvariants : Prop :=
  (∀ e ∈ [(Block.sys, 0x0100, (0x00200002 : Word)), (Block.lpe, 0x0000, (0x00000001 : Word)), (Block.saf, 0x0000, (0x00000080 :
    Word)), (Block.net, 0x0000, (0x00000001 : Word)), (Block.cel, 0x0000, (0x0000000F : Word)), (Block.cel, 0x0014, (0x2000C101 :
    Word)), (Block.cel, 0x0044, (0x00000001 : Word)), (Block.cel, 0x0404, (0x0000007F : Word)), (Block.upd, 0x0020, (0x00000048 :
    Word)), (Block.sys, 0x0000, (0x09460000 : Word)), (Block.pwr, 0x0000, (0x00000001 : Word))],
    readValue State.reset .firmware e.1 e.2.1 = e.2.2) ∧
  (∀ e ∈ [(Block.sys, [0x104, 0x200, 0x204, 0x10, 0x20, 0x30, 0x34, 0x40, 0x44]), (Block.upd, [0x800, 0x804, 0x808, 0x80C,
    0x810, 0x814, 0x818, 0x81C, 0x820, 0x0, 0x4, 0x8, 0xC, 0x10, 0x14, 0x18, 0x1C, 0x24, 0x28, 0x2C, 0x100, 0x10C, 0x1000, 0x1FFC]),
    (Block.trl, [0x0, 0x4, 0x10, 0x14, 0x20, 0x3C, 0x40, 0x44, 0x48, 0x100, 0x104, 0x108, 0x200, 0x23C, 0x1000, 0x13FC, 0x60,
    0x2000, 0x2FFC]), (Block.pge, [0x0, 0x4, 0x8, 0x10, 0x14, 0x20, 0x24, 0x28, 0x2C, 0x30, 0x40, 0x44, 0x48, 0x100, 0x1F8, 0x34,
    0x38, 0x50]), (Block.lpe, [0x4, 0x8, 0xC, 0x10, 0x14, 0x200, 0x2F0, 0x204, 0x208, 0x20C, 0x300, 0x304, 0x308, 0x30C, 0x310,
    0x4000, 0x7FF0, 0x4004, 0x4008, 0x400C]), (Block.prs, [0x4, 0x8, 0x10, 0x100, 0x1D4, 0x300, 0x304, 0x400, 0x404, 0x600, 0x604,
    0x608, 0x60C, 0x700, 0x738, 0x704, 0x1000, 0x15E0, 0x1004, 0x1008, 0x100C, 0x1010, 0x800, 0x804, 0x808, 0x810, 0x814, 0x818,
    0x81C, 0x820, 0x824, 0x1014, 0x15F4, 0x1018, 0x101C]), (Block.saf, [0x4, 0x8, 0xC, 0x10, 0x100, 0x11C, 0x200, 0x218, 0x204]),
    (Block.net, [0x4, 0x8, 0xC, 0x10, 0x20, 0x24, 0x28, 0x30, 0x34, 0x38, 0x3C, 0x40, 0x44, 0x100, 0x1FC, 0x200, 0x204, 0x208,
    0x20C, 0x210, 0x214, 0x1000, 0x2FF8, 0x1004, 0x300, 0x304, 0x308]), (Block.tim, [0x0, 0x4, 0x8, 0x10, 0x14, 0x40, 0x58, 0x44,
    0x100, 0x104, 0x108, 0x10C, 0x110, 0x114, 0x118, 0x11C, 0x120, 0x124, 0x128, 0x12C, 0x130]), (Block.cel, [0x10, 0x18, 0x20,
    0x24, 0x28, 0x2C, 0x30, 0x40, 0x48, 0x4C, 0x50, 0x60, 0x64, 0x100, 0x104, 0x108, 0x200, 0x204, 0x208, 0x20C, 0x210, 0x214,
    0x220, 0x23C, 0x240, 0x244, 0x400]), (Block.fbs, [0x0, 0x100, 0x1E0, 0x104, 0x108, 0x10C, 0x110, 0x114, 0x118, 0x400, 0x404,
    0x408]), (Block.bsi, [0x0, 0x4, 0x100, 0x10C, 0x110, 0x114, 0x200, 0x204, 0x208, 0x20C, 0x210, 0x214, 0x218, 0x300]),
    (Block.key, [0x0, 0x4, 0x8, 0xC, 0x10, 0x14, 0x18, 0x40, 0x44, 0x48, 0x4C, 0x50, 0x60, 0x64, 0x80, 0x84, 0x100, 0x11C, 0x200,
    0x2DC, 0x400, 0x5F8, 0x404]), (Block.pwr, [0x4, 0x8, 0x10, 0x20, 0x24])], ∀ o ∈ e.2, readValue State.reset .firmware e.1 o = 0)
    ∧
  State.reset.pending = [] ∧ isRun State.reset .cluster = true ∧ isRun State.reset .cellar = true ∧
  (∀ i, i ≠ .cluster → i ≠ .cellar → islState State.reset i = .off) ∧ State.reset.img.loaded = false ∧ State.reset.trl.points = [] ∧
  CanonState State.reset ∧ ImageRuns State.reset ∧ LinklessEmpty State.reset ∧ ∀ n, (dom State.reset n).t < 2 ^ 96
end

