-- ==== Sys2Proof/Laws/Tables.lean ====
section
/-!
SUPPORT. Tables.lean: the laws of sparse tables and byte memories: what a read gives after a write, and that every memory operation
keeps the canonical form.
-/
namespace Sys2Proof
open Host (Cell)

variable {α β : Type}

/-! ### Reads after writes -/

@[simp] theorem Tbl.get?_put_self (t : Tbl α) (k : Nat) (v : α) : (Tbl.put t k v).get? k = some v := by
  induction t with
  | nil => simp [Tbl.put, Tbl.get?]
  | cons e r ih =>
    obtain ⟨j, w⟩ := e
    simp only [Tbl.put]
    split
    · simp [Tbl.get?]
    · split
      · simp [Tbl.get?]
      · next h => simp [Tbl.get?, ih, Ne.symm h]

theorem Tbl.get?_put_ne (t : Tbl α) {k i : Nat} (v : α) (h : i ≠ k) : (Tbl.put t k v).get? i = t.get? i := by
  induction t with
  | nil => simp [Tbl.put, Tbl.get?, Ne.symm h]
  | cons e r ih =>
    obtain ⟨j, w⟩ := e
    simp only [Tbl.put]
    split
    · simp [Tbl.get?, Ne.symm h]
    · split
      · next hk => subst hk; simp [Tbl.get?, Ne.symm h]
      · simp [Tbl.get?, ih]

@[simp] theorem Tbl.at_put_self (t : Tbl α) (k : Nat) (v d : α) : (Tbl.put t k v).at k d = v := by simp [Tbl.at]

theorem Tbl.at_put_ne (t : Tbl α) {k i : Nat} (v d : α) (h : i ≠ k) : (Tbl.put t k v).at i d = t.at i d := by
  simp [Tbl.at, Tbl.get?_put_ne t v h]

@[simp] theorem Tbl.at_upd_self (t : Tbl α) (k : Nat) (d : α) (f : α → α) : (Tbl.upd t k d f).at k d = f (t.at k d) := by
  simp [Tbl.upd]

theorem Tbl.at_upd_ne (t : Tbl α) {k i : Nat} (d d' : α) (f : α → α) (h : i ≠ k) : (Tbl.upd t k d f).at i d' = t.at i d' := by
  simp [Tbl.upd, Tbl.at_put_ne t _ _ h]

@[simp] theorem Tbl.get?_upd_self (t : Tbl α) (k : Nat) (d : α) (f : α → α) : (Tbl.upd t k d f).get? k = some (f (t.at k d)) := by
  simp [Tbl.upd]

theorem Tbl.get?_upd_ne (t : Tbl α) {k i : Nat} (d : α) (f : α → α) (h : i ≠ k) : (Tbl.upd t k d f).get? i = t.get? i := by
  simp [Tbl.upd, Tbl.get?_put_ne t _ h]

@[simp] theorem Tbl.get?_del_self (t : Tbl α) (k : Nat) : (Tbl.del t k).get? k = none := by
  induction t with
  | nil => rfl
  | cons e r ih =>
    obtain ⟨j, w⟩ := e
    by_cases h : j = k
    · simpa [Tbl.del, h] using ih
    · simpa [Tbl.del, h, Tbl.get?] using ih

theorem Tbl.get?_del_ne (t : Tbl α) {k i : Nat} (h : i ≠ k) : (Tbl.del t k).get? i = t.get? i := by
  induction t with
  | nil => rfl
  | cons e r ih =>
    obtain ⟨j, w⟩ := e
    by_cases hj : j = k
    · subst hj; simpa [Tbl.del, Tbl.get?, Ne.symm h] using ih
    · simp only [Tbl.del] at ih
      simp [Tbl.del, hj, Tbl.get?, ih]

@[simp] theorem Tbl.at_del_self (t : Tbl α) (k : Nat) (d : α) : (Tbl.del t k).at k d = d := by simp [Tbl.at]

theorem Tbl.at_del_ne (t : Tbl α) {k i : Nat} (d : α) (h : i ≠ k) : (Tbl.del t k).at i d = t.at i d := by
  simp [Tbl.at, Tbl.get?_del_ne t h]

theorem Tbl.at_of_get? {t : Tbl α} {k : Nat} {v d : α} (h : t.get? k = some v) : t.at k d = v := by simp [Tbl.at, h]

/-! ### Rising keys -/

/-- Rising keys, as a proposition over the whole list. -/
theorem Tbl.wf_iff (t : Tbl α) : Tbl.wf t = true ↔ t.Pairwise (fun a b => a.1 < b.1) := by
  induction t with
  | nil => simp [Tbl.wf]
  | cons e r ih =>
    obtain ⟨i, v⟩ := e
    cases r with
    | nil => simp [Tbl.wf]
    | cons f q =>
      obtain ⟨j, w⟩ := f
      simp only [Tbl.wf, Bool.and_eq_true, decide_eq_true_eq, ih, List.pairwise_cons]
      constructor
      · rintro ⟨h, hq, hp⟩
        refine ⟨?_, hq, hp⟩
        intro b hb
        rcases List.mem_cons.mp hb with rfl | hb
        · exact h
        · exact Nat.lt_trans h (hq b hb)
      · rintro ⟨h, hq, hp⟩
        exact ⟨h _ (List.mem_cons_self ..), hq, hp⟩

/-- A subset of a table in order is in order. -/
theorem Tbl.wf_filter (t : Tbl α) (p : Nat × α → Bool) (h : Tbl.wf t = true) : Tbl.wf (t.filter p) = true :=
  (Tbl.wf_iff _).mpr (((Tbl.wf_iff t).mp h).filter p)

theorem Tbl.wf_del (t : Tbl α) (k : Nat) (h : Tbl.wf t = true) : Tbl.wf (Tbl.del t k) = true := Tbl.wf_filter t _ h

/-- Entries of a table after a write: the written one, or an old one. -/
theorem Tbl.mem_put {t : Tbl α} {k : Nat} {v : α} {e : Nat × α} (h : e ∈ Tbl.put t k v) : e = (k, v) ∨ e ∈ t := by
  induction t with
  | nil => simpa [Tbl.put] using h
  | cons f r ih =>
    obtain ⟨j, w⟩ := f
    simp only [Tbl.put] at h
    split at h
    · simpa using h
    · split at h
      · rcases List.mem_cons.mp h with h | h
        · exact .inl h
        · exact .inr (List.mem_cons_of_mem _ h)
      · rcases List.mem_cons.mp h with h | h
        · exact .inr (h ▸ List.mem_cons_self ..)
        · rcases ih h with h | h
          · exact .inl h
          · exact .inr (List.mem_cons_of_mem _ h)

theorem Tbl.wf_put (t : Tbl α) (k : Nat) (v : α) (h : Tbl.wf t = true) : Tbl.wf (Tbl.put t k v) = true := by
  rw [Tbl.wf_iff] at h ⊢
  induction t with
  | nil => simp [Tbl.put]
  | cons e r ih =>
    obtain ⟨j, w⟩ := e
    have hr := List.pairwise_cons.mp h
    simp only [Tbl.put]
    split
    · next hk =>
      refine List.pairwise_cons.mpr ⟨?_, h⟩
      intro b hb
      rcases List.mem_cons.mp hb with rfl | hb
      · exact hk
      · exact Nat.lt_trans hk (hr.1 b hb)
    · split
      · next hk => subst hk; exact List.pairwise_cons.mpr ⟨hr.1, hr.2⟩
      · next h1 h2 =>
        refine List.pairwise_cons.mpr ⟨?_, ih hr.2⟩
        intro b hb
        rcases Tbl.mem_put hb with rfl | hb
        · exact Nat.lt_of_le_of_ne (Nat.le_of_not_lt h1) (Ne.symm h2)
        · exact hr.1 b hb

/-- Of two puts at one key the later stands. -/
@[simp] theorem Tbl.put_put (t : Tbl α) (k : Nat) (v w : α) : Tbl.put (Tbl.put t k v) k w = Tbl.put t k w := by
  induction t with
  | nil => simp [Tbl.put]
  | cons e r ih =>
    obtain ⟨i, x⟩ := e
    simp only [Tbl.put]
    split
    · simp [Tbl.put]
    · next h1 =>
      split
      · next h2 => subst h2; simp [Tbl.put]
      · next h2 => simp [Tbl.put, h1, h2, ih]

/-! ### Byte memories -/

@[simp] theorem memRead_memWrite_self (m : List Cell) (a : Nat) (b : Byte) : memRead (memWrite m a b) a = b := by
  unfold memRead memWrite
  split
  · next h => rw [Tbl.at_del_self, h]
  · simp

theorem memRead_memWrite_ne (m : List Cell) {a i : Nat} (b : Byte) (h : i ≠ a) : memRead (memWrite m a b) i = memRead m i := by
  unfold memRead memWrite
  split
  · exact Tbl.at_del_ne m _ h
  · exact Tbl.at_put_ne m _ _ h

/-- A write of bytes leaves every address outside them alone. -/
theorem memRead_memWriteBytes_out (bs : List Byte) (m : List Cell) {a i : Nat} (h : i < a ∨ a + bs.length ≤ i) :
    memRead (memWriteBytes m a bs) i = memRead m i := by
  induction bs generalizing m a with
  | nil => rfl
  | cons b r ih =>
    simp only [memWriteBytes, List.length_cons] at h ⊢
    rw [ih _ (by omega), memRead_memWrite_ne _ _ (by omega)]

/-- Bytes read where they were written are the bytes written. -/
theorem memReadBytes_memWriteBytes (bs : List Byte) (m : List Cell) (a : Nat) :
    memReadBytes (memWriteBytes m a bs) a bs.length = bs := by
  induction bs generalizing m a with
  | nil => rfl
  | cons b r ih =>
    simp only [memWriteBytes, List.length_cons, memReadBytes]
    rw [ih, memRead_memWriteBytes_out _ _ (.inl (Nat.lt_succ_self a)), memRead_memWrite_self]

/-- A write of one byte keeps the canonical form. -/
theorem memWf_memWrite (m : List Cell) (a : Nat) (b : Byte) (h : memWf m = true) : memWf (memWrite m a b) = true := by
  simp only [memWf, Bool.and_eq_true, List.all_eq_true] at h ⊢
  unfold memWrite
  split
  · exact ⟨Tbl.wf_del m a h.1, fun e he => h.2 e (List.mem_filter.mp he).1⟩
  · next hb =>
    refine ⟨Tbl.wf_put m a b h.1, fun e he => ?_⟩
    rcases Tbl.mem_put he with rfl | he
    · simpa using hb
    · exact h.2 e he

/-- A write of bytes keeps the canonical form. -/
theorem memWf_memWriteBytes (bs : List Byte) (m : List Cell) (a : Nat) (h : memWf m = true) :
    memWf (memWriteBytes m a bs) = true := by
  induction bs generalizing m a with
  | nil => exact h
  | cons b r ih => exact ih _ _ (memWf_memWrite m a b h)

@[simp] theorem length_toLe (n v : Nat) : (toLe n v).length = n := by
  induction n generalizing v with
  | zero => rfl
  | succ n ih => simp [toLe, ih]

@[simp] theorem length_memReadBytes (m : List Cell) (a n : Nat) : (memReadBytes m a n).length = n := by
  induction n generalizing a with
  | zero => rfl
  | succ n ih => simp [memReadBytes, ih]

theorem ofLe_lt (bs : List Byte) : ofLe bs < 2 ^ (8 * bs.length) := by
  induction bs with
  | nil => simp [ofLe]
  | cons b r ih =>
    have hb := b.isLt
    simp only [ofLe, List.length_cons]
    rw [show 8 * (r.length + 1) = 8 * r.length + 8 by omega, Nat.pow_add]
    omega

/-- The number whose bytes are those of `v` is `v`, cut to their count. -/
@[simp] theorem ofLe_toLe (n v : Nat) : ofLe (toLe n v) = v % 2 ^ (8 * n) := by
  induction n generalizing v with
  | zero => simp [toLe, ofLe, Nat.mod_one]
  | succ n ih =>
    simp only [toLe, ofLe, ih, BitVec.toNat_ofNat]
    rw [show 8 * (n + 1) = 8 + 8 * n by omega, Nat.pow_add, Nat.mod_mul]

/-- A number stored least significant byte first reads back byte by byte, and every other byte as before. -/
theorem memRead_memWriteBytes_toLe (m : List Cell) (a n v k : Nat) :
    memRead (memWriteBytes m a (toLe n v)) k =
      if a ≤ k ∧ k < a + n then BitVec.ofNat 8 (v / 2 ^ (8 * (k - a))) else memRead m k := by
  induction n generalizing m a v with
  | zero => simp [toLe, memWriteBytes] <;> omega
  | succ n ih =>
    simp only [toLe, memWriteBytes, ih]
    by_cases h1 : k = a
    · subst h1; simp <;> omega
    · by_cases h2 : a + 1 ≤ k ∧ k < a + 1 + n
      · have h3 : a ≤ k ∧ k < a + (n + 1) := by omega
        simp only [h2, h3, and_self, if_true]
        rw [Nat.div_div_eq_div_mul, show 256 = 2 ^ 8 by rfl, ← Nat.pow_add, show 8 + 8 * (k - (a + 1)) = 8 * (k - a) by omega]
      · have h3 : ¬ (a ≤ k ∧ k < a + (n + 1)) := by omega
        simp only [h2, h3, if_false]
        exact memRead_memWrite_ne m _ h1

/-- Bytes read depend on those bytes alone. -/
theorem memReadBytes_congr {m m' : List Cell} {a n : Nat} (h : ∀ k, a ≤ k → k < a + n → memRead m k = memRead m' k) :
    memReadBytes m a n = memReadBytes m' a n := by
  induction n generalizing a with
  | zero => rfl
  | succ n ih =>
    simp only [memReadBytes]
    rw [h a (Nat.le_refl a) (by omega), ih fun k h1 h2 => h k (by omega) (by omega)]

/-- A number reads back where it was stored. -/
@[simp] theorem memReadBytes_toLe (m : List Cell) (a n v : Nat) :
    memReadBytes (memWriteBytes m a (toLe n v)) a n = toLe n v := by
  have := memReadBytes_memWriteBytes (toLe n v) m a
  rwa [length_toLe] at this

/-- Bytes outside those written read as before. -/
theorem memReadBytes_out (m : List Cell) (bs : List Byte) {a b n : Nat} (h : b + n ≤ a ∨ a + bs.length ≤ b) :
    memReadBytes (memWriteBytes m a bs) b n = memReadBytes m b n :=
  memReadBytes_congr fun k h1 h2 => memRead_memWriteBytes_out bs m (by omega)

/-- What holds at the start of a fold and survives each of its steps holds at its end. -/
theorem foldl_keeps {α β : Type} {P : β → Prop} {f : β → α → β} (hf : ∀ s a, P s → P (f s a)) (l : List α) {s : β} (h : P s) :
    P (l.foldl f s) := by
  induction l generalizing s with
  | nil => exact h
  | cons a l ih => exact ih (hf s a h)

end Sys2Proof
end

