-- ==== Sys2Proof/Laws/Ops.lean ====
section
/-!
SUPPORT. Ops.lean: what the shared operations of the register path, the events, the islands and the handshake lanes answer.
-/
namespace Sys2Proof.Machine

/-! ### The register path (R17, R41, R48) -/

/-- A register command that passes its checks does its own part, with no answer before it. -/
theorem regCmd_ok {s : State} {iss : Issuer} {b : Block} {off : Nat} (h : Permits s iss b off true) (op : State → State) :
    regCmd iss b off op s = .next (op { s with reply := .none }) := by simp only [regCmd, h]

/-- A register read that passes its checks answers its value and does its own part. -/
theorem regRead_ok {s : State} {iss : Issuer} {b : Block} {off : Nat} (h : Permits s iss b off false) (val : State → Word)
    (op : State → State) : regRead iss b off val op s = .next { op s with reply := .word (val s) } := by simp only [regRead, h]

/-- A register command to an island that is not in RUN changes the answer alone. -/
theorem regCmd_down {s : State} {iss : Issuer} {b : Block} {off : Nat} (h : access s iss b off true = .down)
    (op : State → State) : regCmd iss b off op s = .next { s with reply := .none } := by simp only [regCmd, h]

/-- A register command answers a next state, whatever its checks give. -/
theorem regCmd_next (iss : Issuer) (b : Block) (off : Nat) (op : State → State) (s : State) :
    ∃ t, regCmd iss b off op s = .next t ∧
      (t = op { s with reply := .none } ∨ t = { s with reply := .none } ∨ t = busDenied iss b off true s) := by
  unfold regCmd
  cases access s iss b off true
  · exact ⟨_, rfl, .inl rfl⟩
  · exact ⟨_, rfl, .inr (.inr rfl)⟩
  · exact ⟨_, rfl, .inr (.inl rfl)⟩

/-- A register read answers a next state, whatever its checks give. -/
theorem regRead_next (iss : Issuer) (b : Block) (off : Nat) (val : State → Word) (op : State → State) (s : State) :
    ∃ t, regRead iss b off val op s = .next t ∧
      (t = { op s with reply := .word (val s) } ∨ t = { s with reply := .word 0 } ∨ t = busDenied iss b off false s) := by
  unfold regRead
  cases access s iss b off false
  · exact ⟨_, rfl, .inl rfl⟩
  · exact ⟨_, rfl, .inr (.inr rfl)⟩
  · exact ⟨_, rfl, .inr (.inl rfl)⟩

/-- From a command's meaning as a register command to what it answers. -/
theorem answers_regCmd {c : Instr} {s : State} {p : State → Prop} {iss : Issuer} {b : Block} {off : Nat} {op : State → State}
    (h : Permits s iss b off true) (he : exec c s = regCmd iss b off op s) (hp : p (op { s with reply := .none })) :
    Answers c s p := ⟨_, he.trans (regCmd_ok h op), hp⟩

/-- From a command's meaning as a register read to what it answers. -/
theorem answers_regRead {c : Instr} {s : State} {p : State → Prop} {iss : Issuer} {b : Block} {off : Nat}
    {val : State → Word} {op : State → State} (h : Permits s iss b off false) (he : exec c s = regRead iss b off val op s)
    (hp : p { op s with reply := .word (val s) }) : Answers c s p := ⟨_, he.trans (regRead_ok h val op), hp⟩

/-! ### Events and refusals (R76, R386) -/

/-- The event that a record raises is the last to arise. -/
@[simp] theorem record_arising (code cask : Nat) (data : List Byte) (s : State) :
    (record code cask data s).arising = s.arising ++ [{ code := code, cask := cask, data := data }] := rfl

/-- A record changes the events that arise and nothing else. -/
theorem record_frame (code cask : Nat) (data : List Byte) (s : State) :
    { record code cask data s with arising := s.arising } = s := rfl

/-- A refusal under R40 changes its two counts and the events that arise, and nothing else. -/
theorem denied_frame (k b o t d c : Nat) (s : State) :
    { denied k b o t d c s with
      arising := s.arising, sys := { (denied k b o t d c s).sys with deniedTotal := s.sys.deniedTotal, denied := s.sys.denied } } = s := rfl

/-! ### Islands and lanes (R26, R28, R29) -/

@[simp] theorem islState_setIsl_self (i : Island) (st : IslandState) (s : State) : islState (setIsl i st s) i = st := by
  simp [islState, setIsl]

theorem islNum_inj {i j : Island} (h : islNum i = islNum j) : i = j := by
  cases i <;> cases j <;> first | rfl | exact absurd h (by decide)

theorem islState_setIsl_ne {i j : Island} (h : j ≠ i) (st : IslandState) (s : State) :
    islState (setIsl i st s) j = islState s j := by
  have : islNum j ≠ islNum i := fun e => h (islNum_inj e)
  simp [islState, setIsl, Tbl.at_put_ne _ _ _ this]

@[simp] theorem laneQ_setLaneQ_self (l : Lane) (q : List Transfer) (s : State) : laneQ (setLaneQ l q s) l = q := by
  simp [laneQ, setLaneQ]

/-- A transfer presented to an island in RUN waits behind the lane's earlier ones. -/
theorem present_run {s : State} {dst : Island} (h : isRun s dst = true) (l : Lane) (src : Island) (t : Transfer) :
    present l src dst t s = setLaneQ l (laneQ s l ++ [t]) s := by simp [present, h]

/-- A transfer presented to an island that is not in RUN is refused with ISLAND_DOWN (R29). -/
theorem present_down {s : State} {dst : Island} (h : isRun s dst = false) (l : Lane) (src : Island) (t : Transfer) :
    present l src dst t s = xchRefuse l.hc.val src dst s := by simp [present, h]

/-- A transfer presented leaves everything but the lanes, the fault bits, the answer and the events. -/
theorem present_frame (l : Lane) (src dst : Island) (t : Transfer) (s : State) :
    { present l src dst t s with
      sys := { (present l src dst t s).sys with lanes := s.sys.lanes, xchFault := s.sys.xchFault },
      reply := s.reply, arising := s.arising } = s := by
  unfold present; split <;> rfl

end Sys2Proof.Machine
end

