-- ==== Sys2Proof/Laws/Egress.lean ====
section
/-!
SUPPORT. Egress.lean: what queueing a frame on a ring port changes.
-/
namespace Sys2Proof.Machine

@[simp] theorem portSt_updPort_self (p : Port) (f : PortSt → PortSt) (s : State) : portSt (updPort p f s) p = f (portSt s p) := by
  cases p <;> rfl
theorem portSt_updPort_ne {p q : Port} (h : q ≠ p) (f : PortSt → PortSt) (s : State) :
    portSt (updPort p f s) q = portSt s q := by
  cases p <;> cases q <;> first | rfl | exact absurd rfl h
@[simp] theorem portSt_nextHsr (s : State) (p : Port) : portSt (nextHsr s) p = portSt s p := by cases p <;> rfl

/-- A frame waits in class 1 or class 2 of a port. -/
def Waits (s : State) (p : Port) (f : Frame) : Prop := f ∈ (portSt s p).q1 ∨ f ∈ (portSt s p).q2

/-- What queueing an event message does to its port: nothing without link, else the frame joins class 1 or class 2 (R325). -/
theorem portSt_queueEvent (p : Port) (f : Frame) (s : State) : ∃ n,
    portSt (queueEvent p f s) p =
      if (portSt s p).link then
        (if n < eventAllowance s then
          { portSt s p with q1 := (portSt s p).q1 ++ [f], events := n + 1, eventFrame := s.trl.frame }
        else { portSt s p with q2 := (portSt s p).q2 ++ [f], events := n, eventFrame := s.trl.frame })
      else portSt s p :=
  ⟨if (portSt s p).eventFrame == s.trl.frame then (portSt s p).events else 0, by
    unfold queueEvent egressTo; rw [portSt_updPort_self]⟩

theorem portSt_queueEvent_ne {p q : Port} (h : q ≠ p) (f : Frame) (s : State) : portSt (queueEvent p f s) q = portSt s q := by
  unfold queueEvent egressTo; rw [portSt_updPort_ne h]

/-- An event message offered to a linked port waits there. -/
theorem waits_queueEvent {p : Port} {s : State} (h : (portSt s p).link = true) (f : Frame) : Waits (queueEvent p f s) p f := by
  obtain ⟨n, e⟩ := portSt_queueEvent p f s
  unfold Waits
  rw [e, if_pos h]
  split
  · exact .inl (by simp)
  · exact .inr (by simp)

/-- Queueing an event message keeps the frames that wait, on every port. -/
theorem waits_queueEvent_keep {p q : Port} {s : State} {g : Frame} (h : Waits s q g) (f : Frame) : Waits (queueEvent p f s) q g := by
  unfold Waits at *
  by_cases e : q = p
  · subst e
    obtain ⟨n, e⟩ := portSt_queueEvent q f s
    rw [e]
    split
    · split
      · exact h.imp (List.mem_append_left _) id
      · exact h.imp id (List.mem_append_left _)
    · exact h
  · rw [portSt_queueEvent_ne e]
    exact h

/-- Queueing a best-effort frame keeps the frames of class 1 and class 2. -/
theorem waits_queue3_keep {p q : Port} {s : State} {g : Frame} (h : Waits s q g) (c : Nat) (f : Frame) :
    Waits (queue3 p c f s) q g := by
  unfold queue3 egressTo
  by_cases e : q = p
  · subst e
    unfold Waits
    simp only [portSt_updPort_self]
    split <;> exact h
  · unfold Waits
    rw [portSt_updPort_ne e]
    exact h

/-- Queueing an event message leaves a port linked as it is. -/
@[simp] theorem link_queueEvent (p q : Port) (f : Frame) (s : State) : (portSt (queueEvent p f s) q).link = (portSt s q).link := by
  by_cases e : q = p
  · subst e
    obtain ⟨n, e⟩ := portSt_queueEvent q f s
    rw [e]
    split
    · split <;> rfl
    · rfl
  · rw [portSt_queueEvent_ne e]

/-- Queueing an event message changes nothing outside NET. -/
theorem queueEvent_frame (p : Port) (f : Frame) (s : State) : { queueEvent p f s with net := s.net } = s := by
  cases p <;> rfl

end Sys2Proof.Machine
end

