-- ==== Sys2Proof/Laws/Same.lean ====
section
/-!
SUPPORT. Same.lean: `Same m s t` says that `t` agrees with `s` on every component of State whose bit in `m` is 0.
-/
namespace Sys2Proof.Machine
structure Same (m : Nat) (s t : State) : Prop where
  pending : m.testBit 0 = false → t.pending = s.pending
  now : m.testBit 1 = false → t.now = s.now
  fresh : m.testBit 2 = false → t.fresh = s.fresh
  reply : m.testBit 3 = false → t.reply = s.reply
  arising : m.testBit 4 = false → t.arising = s.arising
  sys : m.testBit 5 = false → t.sys = s.sys
  mem : m.testBit 6 = false → t.mem = s.mem
  img : m.testBit 7 = false → t.img = s.img
  trl : m.testBit 8 = false → t.trl = s.trl
  pge : m.testBit 9 = false → t.pge = s.pge
  lpe : m.testBit 10 = false → t.lpe = s.lpe
  prs : m.testBit 11 = false → t.prs = s.prs
  saf : m.testBit 12 = false → t.saf = s.saf
  cel : m.testBit 13 = false → t.cel = s.cel
  key : m.testBit 14 = false → t.key = s.key
  stn : m.testBit 15 = false → t.stn = s.stn
  fbs : m.testBit 16 = false → t.fbs = s.fbs
  net : m.testBit 17 = false → t.net = s.net
  tim : m.testBit 18 = false → t.tim = s.tim
  upd : m.testBit 19 = false → t.upd = s.upd
  pwr : m.testBit 20 = false → t.pwr = s.pwr
theorem Same.refl (m : Nat) (s : State) : Same m s s :=
  ⟨fun _ => rfl, fun _ => rfl, fun _ => rfl, fun _ => rfl, fun _ => rfl, fun _ => rfl, fun _ => rfl, fun _ => rfl, fun _ => rfl, fun _ => rfl, fun _ => rfl, fun _ => rfl, fun _ => rfl, fun _ => rfl, fun _ => rfl, fun _ => rfl, fun _ => rfl, fun _ => rfl, fun _ => rfl, fun _ => rfl, fun _ => rfl⟩
theorem Same.bit {a m k : Nat} (hm : a ||| m = m) (h : a.testBit k = true) : m.testBit k = true := by rw [← hm, Nat.testBit_or, h, Bool.true_or]
theorem Same.sub {a b m : Nat} (hm : b ||| m = m) (h : a ||| b = b) : a ||| m = m := by rw [← hm, ← Nat.or_assoc, h]
theorem Same.up_pending {m : Nat} {s t : State} {x} (h : Same m s t) (hm : 1 ||| m = m) : Same m s { t with pending := x } :=
  have hm := Same.bit (k := 0) hm (by decide)
  ⟨fun b => absurd (b.symm.trans hm) (by decide), h.now, h.fresh, h.reply, h.arising, h.sys, h.mem, h.img, h.trl, h.pge, h.lpe, h.prs, h.saf, h.cel, h.key, h.stn, h.fbs, h.net, h.tim, h.upd, h.pwr⟩
theorem Same.up_now {m : Nat} {s t : State} {x} (h : Same m s t) (hm : 2 ||| m = m) : Same m s { t with now := x } :=
  have hm := Same.bit (k := 1) hm (by decide)
  ⟨h.pending, fun b => absurd (b.symm.trans hm) (by decide), h.fresh, h.reply, h.arising, h.sys, h.mem, h.img, h.trl, h.pge, h.lpe, h.prs, h.saf, h.cel, h.key, h.stn, h.fbs, h.net, h.tim, h.upd, h.pwr⟩
theorem Same.up_fresh {m : Nat} {s t : State} {x} (h : Same m s t) (hm : 4 ||| m = m) : Same m s { t with fresh := x } :=
  have hm := Same.bit (k := 2) hm (by decide)
  ⟨h.pending, h.now, fun b => absurd (b.symm.trans hm) (by decide), h.reply, h.arising, h.sys, h.mem, h.img, h.trl, h.pge, h.lpe, h.prs, h.saf, h.cel, h.key, h.stn, h.fbs, h.net, h.tim, h.upd, h.pwr⟩
theorem Same.up_reply {m : Nat} {s t : State} {x} (h : Same m s t) (hm : 8 ||| m = m) : Same m s { t with reply := x } :=
  have hm := Same.bit (k := 3) hm (by decide)
  ⟨h.pending, h.now, h.fresh, fun b => absurd (b.symm.trans hm) (by decide), h.arising, h.sys, h.mem, h.img, h.trl, h.pge, h.lpe, h.prs, h.saf, h.cel, h.key, h.stn, h.fbs, h.net, h.tim, h.upd, h.pwr⟩
theorem Same.up_arising {m : Nat} {s t : State} {x} (h : Same m s t) (hm : 16 ||| m = m) : Same m s { t with arising := x } :=
  have hm := Same.bit (k := 4) hm (by decide)
  ⟨h.pending, h.now, h.fresh, h.reply, fun b => absurd (b.symm.trans hm) (by decide), h.sys, h.mem, h.img, h.trl, h.pge, h.lpe, h.prs, h.saf, h.cel, h.key, h.stn, h.fbs, h.net, h.tim, h.upd, h.pwr⟩
theorem Same.up_sys {m : Nat} {s t : State} {x} (h : Same m s t) (hm : 32 ||| m = m) : Same m s { t with sys := x } :=
  have hm := Same.bit (k := 5) hm (by decide)
  ⟨h.pending, h.now, h.fresh, h.reply, h.arising, fun b => absurd (b.symm.trans hm) (by decide), h.mem, h.img, h.trl, h.pge, h.lpe, h.prs, h.saf, h.cel, h.key, h.stn, h.fbs, h.net, h.tim, h.upd, h.pwr⟩
theorem Same.up_mem {m : Nat} {s t : State} {x} (h : Same m s t) (hm : 64 ||| m = m) : Same m s { t with mem := x } :=
  have hm := Same.bit (k := 6) hm (by decide)
  ⟨h.pending, h.now, h.fresh, h.reply, h.arising, h.sys, fun b => absurd (b.symm.trans hm) (by decide), h.img, h.trl, h.pge, h.lpe, h.prs, h.saf, h.cel, h.key, h.stn, h.fbs, h.net, h.tim, h.upd, h.pwr⟩
theorem Same.up_img {m : Nat} {s t : State} {x} (h : Same m s t) (hm : 128 ||| m = m) : Same m s { t with img := x } :=
  have hm := Same.bit (k := 7) hm (by decide)
  ⟨h.pending, h.now, h.fresh, h.reply, h.arising, h.sys, h.mem, fun b => absurd (b.symm.trans hm) (by decide), h.trl, h.pge, h.lpe, h.prs, h.saf, h.cel, h.key, h.stn, h.fbs, h.net, h.tim, h.upd, h.pwr⟩
theorem Same.up_trl {m : Nat} {s t : State} {x} (h : Same m s t) (hm : 256 ||| m = m) : Same m s { t with trl := x } :=
  have hm := Same.bit (k := 8) hm (by decide)
  ⟨h.pending, h.now, h.fresh, h.reply, h.arising, h.sys, h.mem, h.img, fun b => absurd (b.symm.trans hm) (by decide), h.pge, h.lpe, h.prs, h.saf, h.cel, h.key, h.stn, h.fbs, h.net, h.tim, h.upd, h.pwr⟩
theorem Same.up_pge {m : Nat} {s t : State} {x} (h : Same m s t) (hm : 512 ||| m = m) : Same m s { t with pge := x } :=
  have hm := Same.bit (k := 9) hm (by decide)
  ⟨h.pending, h.now, h.fresh, h.reply, h.arising, h.sys, h.mem, h.img, h.trl, fun b => absurd (b.symm.trans hm) (by decide), h.lpe, h.prs, h.saf, h.cel, h.key, h.stn, h.fbs, h.net, h.tim, h.upd, h.pwr⟩
theorem Same.up_lpe {m : Nat} {s t : State} {x} (h : Same m s t) (hm : 1024 ||| m = m) : Same m s { t with lpe := x } :=
  have hm := Same.bit (k := 10) hm (by decide)
  ⟨h.pending, h.now, h.fresh, h.reply, h.arising, h.sys, h.mem, h.img, h.trl, h.pge, fun b => absurd (b.symm.trans hm) (by decide), h.prs, h.saf, h.cel, h.key, h.stn, h.fbs, h.net, h.tim, h.upd, h.pwr⟩
theorem Same.up_prs {m : Nat} {s t : State} {x} (h : Same m s t) (hm : 2048 ||| m = m) : Same m s { t with prs := x } :=
  have hm := Same.bit (k := 11) hm (by decide)
  ⟨h.pending, h.now, h.fresh, h.reply, h.arising, h.sys, h.mem, h.img, h.trl, h.pge, h.lpe, fun b => absurd (b.symm.trans hm) (by decide), h.saf, h.cel, h.key, h.stn, h.fbs, h.net, h.tim, h.upd, h.pwr⟩
theorem Same.up_saf {m : Nat} {s t : State} {x} (h : Same m s t) (hm : 4096 ||| m = m) : Same m s { t with saf := x } :=
  have hm := Same.bit (k := 12) hm (by decide)
  ⟨h.pending, h.now, h.fresh, h.reply, h.arising, h.sys, h.mem, h.img, h.trl, h.pge, h.lpe, h.prs, fun b => absurd (b.symm.trans hm) (by decide), h.cel, h.key, h.stn, h.fbs, h.net, h.tim, h.upd, h.pwr⟩
theorem Same.up_cel {m : Nat} {s t : State} {x} (h : Same m s t) (hm : 8192 ||| m = m) : Same m s { t with cel := x } :=
  have hm := Same.bit (k := 13) hm (by decide)
  ⟨h.pending, h.now, h.fresh, h.reply, h.arising, h.sys, h.mem, h.img, h.trl, h.pge, h.lpe, h.prs, h.saf, fun b => absurd (b.symm.trans hm) (by decide), h.key, h.stn, h.fbs, h.net, h.tim, h.upd, h.pwr⟩
theorem Same.up_key {m : Nat} {s t : State} {x} (h : Same m s t) (hm : 16384 ||| m = m) : Same m s { t with key := x } :=
  have hm := Same.bit (k := 14) hm (by decide)
  ⟨h.pending, h.now, h.fresh, h.reply, h.arising, h.sys, h.mem, h.img, h.trl, h.pge, h.lpe, h.prs, h.saf, h.cel, fun b => absurd (b.symm.trans hm) (by decide), h.stn, h.fbs, h.net, h.tim, h.upd, h.pwr⟩
theorem Same.up_stn {m : Nat} {s t : State} {x} (h : Same m s t) (hm : 32768 ||| m = m) : Same m s { t with stn := x } :=
  have hm := Same.bit (k := 15) hm (by decide)
  ⟨h.pending, h.now, h.fresh, h.reply, h.arising, h.sys, h.mem, h.img, h.trl, h.pge, h.lpe, h.prs, h.saf, h.cel, h.key, fun b => absurd (b.symm.trans hm) (by decide), h.fbs, h.net, h.tim, h.upd, h.pwr⟩
theorem Same.up_fbs {m : Nat} {s t : State} {x} (h : Same m s t) (hm : 65536 ||| m = m) : Same m s { t with fbs := x } :=
  have hm := Same.bit (k := 16) hm (by decide)
  ⟨h.pending, h.now, h.fresh, h.reply, h.arising, h.sys, h.mem, h.img, h.trl, h.pge, h.lpe, h.prs, h.saf, h.cel, h.key, h.stn, fun b => absurd (b.symm.trans hm) (by decide), h.net, h.tim, h.upd, h.pwr⟩
theorem Same.up_net {m : Nat} {s t : State} {x} (h : Same m s t) (hm : 131072 ||| m = m) : Same m s { t with net := x } :=
  have hm := Same.bit (k := 17) hm (by decide)
  ⟨h.pending, h.now, h.fresh, h.reply, h.arising, h.sys, h.mem, h.img, h.trl, h.pge, h.lpe, h.prs, h.saf, h.cel, h.key, h.stn, h.fbs, fun b => absurd (b.symm.trans hm) (by decide), h.tim, h.upd, h.pwr⟩
theorem Same.up_tim {m : Nat} {s t : State} {x} (h : Same m s t) (hm : 262144 ||| m = m) : Same m s { t with tim := x } :=
  have hm := Same.bit (k := 18) hm (by decide)
  ⟨h.pending, h.now, h.fresh, h.reply, h.arising, h.sys, h.mem, h.img, h.trl, h.pge, h.lpe, h.prs, h.saf, h.cel, h.key, h.stn, h.fbs, h.net, fun b => absurd (b.symm.trans hm) (by decide), h.upd, h.pwr⟩
theorem Same.up_upd {m : Nat} {s t : State} {x} (h : Same m s t) (hm : 524288 ||| m = m) : Same m s { t with upd := x } :=
  have hm := Same.bit (k := 19) hm (by decide)
  ⟨h.pending, h.now, h.fresh, h.reply, h.arising, h.sys, h.mem, h.img, h.trl, h.pge, h.lpe, h.prs, h.saf, h.cel, h.key, h.stn, h.fbs, h.net, h.tim, fun b => absurd (b.symm.trans hm) (by decide), h.pwr⟩
theorem Same.up_pwr {m : Nat} {s t : State} {x} (h : Same m s t) (hm : 1048576 ||| m = m) : Same m s { t with pwr := x } :=
  have hm := Same.bit (k := 20) hm (by decide)
  ⟨h.pending, h.now, h.fresh, h.reply, h.arising, h.sys, h.mem, h.img, h.trl, h.pge, h.lpe, h.prs, h.saf, h.cel, h.key, h.stn, h.fbs, h.net, h.tim, h.upd, fun b => absurd (b.symm.trans hm) (by decide)⟩
theorem Same.trans {m : Nat} {s t u : State} (h : Same m s t) (k : Same m t u) : Same m s u :=
  ⟨fun b => (k.pending b).trans (h.pending b), fun b => (k.now b).trans (h.now b), fun b => (k.fresh b).trans (h.fresh b), fun b => (k.reply b).trans (h.reply b), fun b => (k.arising b).trans (h.arising b), fun b => (k.sys b).trans (h.sys b), fun b => (k.mem b).trans (h.mem b), fun b => (k.img b).trans (h.img b), fun b => (k.trl b).trans (h.trl b), fun b => (k.pge b).trans (h.pge b), fun b => (k.lpe b).trans (h.lpe b), fun b => (k.prs b).trans (h.prs b), fun b => (k.saf b).trans (h.saf b), fun b => (k.cel b).trans (h.cel b), fun b => (k.key b).trans (h.key b), fun b => (k.stn b).trans (h.stn b), fun b => (k.fbs b).trans (h.fbs b), fun b => (k.net b).trans (h.net b), fun b => (k.tim b).trans (h.tim b), fun b => (k.upd b).trans (h.upd b), fun b => (k.pwr b).trans (h.pwr b)⟩
theorem Same.mono {a m : Nat} {s t : State} (h : Same a s t) (hm : a ||| m = m) : Same m s t :=
  have key : ∀ k, m.testBit k = false → a.testBit k = false := fun k hk => by
    rw [← hm, Nat.testBit_or] at hk
    exact (Bool.or_eq_false_iff.mp hk).1
  ⟨fun b => h.pending (key _ b), fun b => h.now (key _ b), fun b => h.fresh (key _ b), fun b => h.reply (key _ b), fun b => h.arising (key _ b), fun b => h.sys (key _ b), fun b => h.mem (key _ b), fun b => h.img (key _ b), fun b => h.trl (key _ b), fun b => h.pge (key _ b), fun b => h.lpe (key _ b), fun b => h.prs (key _ b), fun b => h.saf (key _ b), fun b => h.cel (key _ b), fun b => h.key (key _ b), fun b => h.stn (key _ b), fun b => h.fbs (key _ b), fun b => h.net (key _ b), fun b => h.tim (key _ b), fun b => h.upd (key _ b), fun b => h.pwr (key _ b)⟩
theorem Same.foldl {m : Nat} {s0 : State} {α : Type} {f : State → α → State} (hf : ∀ s a, Same m s0 s → Same m s0 (f s a)) :
    ∀ {l : List α} {s : State}, Same m s0 s → Same m s0 (l.foldl f s)
  | [], _, h => h
  | a :: l, s, h => show Same m s0 (l.foldl f (f s a)) from Same.foldl hf (hf s a h)
theorem Same.foldl1 {m : Nat} {s0 : State} {α β : Type} {f : State × β → α → State × β}
    (hf : ∀ r a, Same m s0 r.1 → Same m s0 (f r a).1) : ∀ {l : List α} {r : State × β}, Same m s0 r.1 → Same m s0 (l.foldl f r).1
  | [], _, h => h
  | a :: l, r, h => show Same m s0 (l.foldl f (f r a)).1 from Same.foldl1 hf (hf r a h)
theorem Same.foldl2 {m : Nat} {s0 : State} {α β : Type} {f : β × State → α → β × State}
    (hf : ∀ r a, Same m s0 r.2 → Same m s0 (f r a).2) : ∀ {l : List α} {r : β × State}, Same m s0 r.2 → Same m s0 (l.foldl f r).2
  | [], _, h => h
  | a :: l, r, h => show Same m s0 (l.foldl f (f r a)).2 from Same.foldl2 hf (hf r a h)
theorem Same.cut (m : Nat) (s x : State) {P : Prop} (h : Same m s x) (k : Same m s x → P) : P := k h
theorem Same.snd {m : Nat} {s t : State} {α : Type} {e : α × State} {a : α} (h : e = (a, t)) (k : Same m s e.2) : Same m s t := by
  subst h; exact k
theorem Same.fst {m : Nat} {s t : State} {α : Type} {e : State × α} {a : α} (h : e = (t, a)) (k : Same m s e.1) : Same m s t := by
  subst h; exact k
/-- The outcome, when it is a next state, agrees so. -/
def OutSame (m : Nat) (s : State) (o : Out) : Prop := match o with | .next t => Same m s t | _ => True
theorem OutSame.next {m : Nat} {s t : State} (h : Same m s t) : OutSame m s (.next t) := h
theorem OutSame.of {m : Nat} {s t : State} {o : Out} (h : o = .next t) (k : OutSame m s o) : Same m s t := by subst h; exact k
/-- Every register row's state agrees so. -/
def RowsSame (m : Nat) (s : State) (l : List (RegRow State)) : Prop := ∀ r ∈ l, ∀ n, Same m s (r.act n)
theorem RowsSame.nil {m : Nat} {s : State} : RowsSame m s [] := fun _ h => absurd h (by simp)
theorem RowsSame.r1 {m : Nat} {s x : State} {b : Nat} {l : List (RegRow State)} (h : Same m s x) (k : RowsSame m s l) :
    RowsSame m s (r1 b x :: l) := fun r hr n => by
  rcases List.mem_cons.mp hr with rfl | hr
  · exact h
  · exact k r hr n
theorem RowsSame.rn {m : Nat} {s : State} {b p c : Nat} {f : Nat → State} {l : List (RegRow State)} (h : ∀ n, Same m s (f n))
    (k : RowsSame m s l) : RowsSame m s (rn b p c f :: l) := fun r hr n => by
  rcases List.mem_cons.mp hr with rfl | hr
  · exact h n
  · exact k r hr n
theorem RowsSame.at {m : Nat} {s t : State} {off : Nat} : ∀ {l : List (RegRow State)}, RowsSame m s l → Same m s t →
    Same m s ((regAt off l).getD t)
  | [], _, k => k
  | r :: l, h, k => by
    unfold regAt
    split
    · exact h r (List.mem_cons_self ..) _
    · exact RowsSame.at (l := l) (fun x hx n => h x (List.mem_cons_of_mem _ hx) n) k
theorem Same.up_arising_cel {m : Nat} {s t : State} {x0 x1} (h : Same m s t) (hm0 : 16 ||| m = m) (hm1 : 8192 ||| m = m) :
    Same m s { t with arising := x0, cel := x1 } :=
  have hm0 := Same.bit (k := 4) hm0 (by decide)
  have hm1 := Same.bit (k := 13) hm1 (by decide)
  ⟨h.pending, h.now, h.fresh, h.reply, fun b => absurd (b.symm.trans hm0) (by decide), h.sys, h.mem, h.img, h.trl, h.pge, h.lpe, h.prs, h.saf, fun b => absurd (b.symm.trans hm1) (by decide), h.key, h.stn, h.fbs, h.net, h.tim, h.upd, h.pwr⟩
theorem Same.up_cel_tim {m : Nat} {s t : State} {x0 x1} (h : Same m s t) (hm0 : 8192 ||| m = m) (hm1 : 262144 ||| m = m) :
    Same m s { t with cel := x0, tim := x1 } :=
  have hm0 := Same.bit (k := 13) hm0 (by decide)
  have hm1 := Same.bit (k := 18) hm1 (by decide)
  ⟨h.pending, h.now, h.fresh, h.reply, h.arising, h.sys, h.mem, h.img, h.trl, h.pge, h.lpe, h.prs, h.saf, fun b => absurd (b.symm.trans hm0) (by decide), h.key, h.stn, h.fbs, h.net, fun b => absurd (b.symm.trans hm1) (by decide), h.upd, h.pwr⟩
theorem Same.up_fresh_key {m : Nat} {s t : State} {x0 x1} (h : Same m s t) (hm0 : 4 ||| m = m) (hm1 : 16384 ||| m = m) :
    Same m s { t with fresh := x0, key := x1 } :=
  have hm0 := Same.bit (k := 2) hm0 (by decide)
  have hm1 := Same.bit (k := 14) hm1 (by decide)
  ⟨h.pending, h.now, fun b => absurd (b.symm.trans hm0) (by decide), h.reply, h.arising, h.sys, h.mem, h.img, h.trl, h.pge, h.lpe, h.prs, h.saf, h.cel, fun b => absurd (b.symm.trans hm1) (by decide), h.stn, h.fbs, h.net, h.tim, h.upd, h.pwr⟩
theorem Same.up_img_trl {m : Nat} {s t : State} {x0 x1} (h : Same m s t) (hm0 : 128 ||| m = m) (hm1 : 256 ||| m = m) :
    Same m s { t with img := x0, trl := x1 } :=
  have hm0 := Same.bit (k := 7) hm0 (by decide)
  have hm1 := Same.bit (k := 8) hm1 (by decide)
  ⟨h.pending, h.now, h.fresh, h.reply, h.arising, h.sys, h.mem, fun b => absurd (b.symm.trans hm0) (by decide), fun b => absurd (b.symm.trans hm1) (by decide), h.pge, h.lpe, h.prs, h.saf, h.cel, h.key, h.stn, h.fbs, h.net, h.tim, h.upd, h.pwr⟩
theorem Same.up_key_net {m : Nat} {s t : State} {x0 x1} (h : Same m s t) (hm0 : 16384 ||| m = m) (hm1 : 131072 ||| m = m) :
    Same m s { t with key := x0, net := x1 } :=
  have hm0 := Same.bit (k := 14) hm0 (by decide)
  have hm1 := Same.bit (k := 17) hm1 (by decide)
  ⟨h.pending, h.now, h.fresh, h.reply, h.arising, h.sys, h.mem, h.img, h.trl, h.pge, h.lpe, h.prs, h.saf, h.cel, fun b => absurd (b.symm.trans hm0) (by decide), h.stn, h.fbs, fun b => absurd (b.symm.trans hm1) (by decide), h.tim, h.upd, h.pwr⟩
theorem Same.up_key_upd {m : Nat} {s t : State} {x0 x1} (h : Same m s t) (hm0 : 16384 ||| m = m) (hm1 : 524288 ||| m = m) :
    Same m s { t with key := x0, upd := x1 } :=
  have hm0 := Same.bit (k := 14) hm0 (by decide)
  have hm1 := Same.bit (k := 19) hm1 (by decide)
  ⟨h.pending, h.now, h.fresh, h.reply, h.arising, h.sys, h.mem, h.img, h.trl, h.pge, h.lpe, h.prs, h.saf, h.cel, fun b => absurd (b.symm.trans hm0) (by decide), h.stn, h.fbs, h.net, h.tim, fun b => absurd (b.symm.trans hm1) (by decide), h.pwr⟩
theorem Same.up_mem_pge {m : Nat} {s t : State} {x0 x1} (h : Same m s t) (hm0 : 64 ||| m = m) (hm1 : 512 ||| m = m) :
    Same m s { t with mem := x0, pge := x1 } :=
  have hm0 := Same.bit (k := 6) hm0 (by decide)
  have hm1 := Same.bit (k := 9) hm1 (by decide)
  ⟨h.pending, h.now, h.fresh, h.reply, h.arising, h.sys, fun b => absurd (b.symm.trans hm0) (by decide), h.img, h.trl, fun b => absurd (b.symm.trans hm1) (by decide), h.lpe, h.prs, h.saf, h.cel, h.key, h.stn, h.fbs, h.net, h.tim, h.upd, h.pwr⟩
theorem Same.up_prs_pwr {m : Nat} {s t : State} {x0 x1} (h : Same m s t) (hm0 : 2048 ||| m = m) (hm1 : 1048576 ||| m = m) :
    Same m s { t with prs := x0, pwr := x1 } :=
  have hm0 := Same.bit (k := 11) hm0 (by decide)
  have hm1 := Same.bit (k := 20) hm1 (by decide)
  ⟨h.pending, h.now, h.fresh, h.reply, h.arising, h.sys, h.mem, h.img, h.trl, h.pge, h.lpe, fun b => absurd (b.symm.trans hm0) (by decide), h.saf, h.cel, h.key, h.stn, h.fbs, h.net, h.tim, h.upd, fun b => absurd (b.symm.trans hm1) (by decide)⟩
theorem Same.up_reply_fbs {m : Nat} {s t : State} {x0 x1} (h : Same m s t) (hm0 : 8 ||| m = m) (hm1 : 65536 ||| m = m) :
    Same m s { t with reply := x0, fbs := x1 } :=
  have hm0 := Same.bit (k := 3) hm0 (by decide)
  have hm1 := Same.bit (k := 16) hm1 (by decide)
  ⟨h.pending, h.now, h.fresh, fun b => absurd (b.symm.trans hm0) (by decide), h.arising, h.sys, h.mem, h.img, h.trl, h.pge, h.lpe, h.prs, h.saf, h.cel, h.key, h.stn, fun b => absurd (b.symm.trans hm1) (by decide), h.net, h.tim, h.upd, h.pwr⟩
theorem Same.up_reply_img {m : Nat} {s t : State} {x0 x1} (h : Same m s t) (hm0 : 8 ||| m = m) (hm1 : 128 ||| m = m) :
    Same m s { t with reply := x0, img := x1 } :=
  have hm0 := Same.bit (k := 3) hm0 (by decide)
  have hm1 := Same.bit (k := 7) hm1 (by decide)
  ⟨h.pending, h.now, h.fresh, fun b => absurd (b.symm.trans hm0) (by decide), h.arising, h.sys, h.mem, fun b => absurd (b.symm.trans hm1) (by decide), h.trl, h.pge, h.lpe, h.prs, h.saf, h.cel, h.key, h.stn, h.fbs, h.net, h.tim, h.upd, h.pwr⟩
theorem Same.up_reply_key {m : Nat} {s t : State} {x0 x1} (h : Same m s t) (hm0 : 8 ||| m = m) (hm1 : 16384 ||| m = m) :
    Same m s { t with reply := x0, key := x1 } :=
  have hm0 := Same.bit (k := 3) hm0 (by decide)
  have hm1 := Same.bit (k := 14) hm1 (by decide)
  ⟨h.pending, h.now, h.fresh, fun b => absurd (b.symm.trans hm0) (by decide), h.arising, h.sys, h.mem, h.img, h.trl, h.pge, h.lpe, h.prs, h.saf, h.cel, fun b => absurd (b.symm.trans hm1) (by decide), h.stn, h.fbs, h.net, h.tim, h.upd, h.pwr⟩
theorem Same.up_reply_lpe {m : Nat} {s t : State} {x0 x1} (h : Same m s t) (hm0 : 8 ||| m = m) (hm1 : 1024 ||| m = m) :
    Same m s { t with reply := x0, lpe := x1 } :=
  have hm0 := Same.bit (k := 3) hm0 (by decide)
  have hm1 := Same.bit (k := 10) hm1 (by decide)
  ⟨h.pending, h.now, h.fresh, fun b => absurd (b.symm.trans hm0) (by decide), h.arising, h.sys, h.mem, h.img, h.trl, h.pge, fun b => absurd (b.symm.trans hm1) (by decide), h.prs, h.saf, h.cel, h.key, h.stn, h.fbs, h.net, h.tim, h.upd, h.pwr⟩
theorem Same.up_reply_prs {m : Nat} {s t : State} {x0 x1} (h : Same m s t) (hm0 : 8 ||| m = m) (hm1 : 2048 ||| m = m) :
    Same m s { t with reply := x0, prs := x1 } :=
  have hm0 := Same.bit (k := 3) hm0 (by decide)
  have hm1 := Same.bit (k := 11) hm1 (by decide)
  ⟨h.pending, h.now, h.fresh, fun b => absurd (b.symm.trans hm0) (by decide), h.arising, h.sys, h.mem, h.img, h.trl, h.pge, h.lpe, fun b => absurd (b.symm.trans hm1) (by decide), h.saf, h.cel, h.key, h.stn, h.fbs, h.net, h.tim, h.upd, h.pwr⟩
theorem Same.up_reply_pwr {m : Nat} {s t : State} {x0 x1} (h : Same m s t) (hm0 : 8 ||| m = m) (hm1 : 1048576 ||| m = m) :
    Same m s { t with reply := x0, pwr := x1 } :=
  have hm0 := Same.bit (k := 3) hm0 (by decide)
  have hm1 := Same.bit (k := 20) hm1 (by decide)
  ⟨h.pending, h.now, h.fresh, fun b => absurd (b.symm.trans hm0) (by decide), h.arising, h.sys, h.mem, h.img, h.trl, h.pge, h.lpe, h.prs, h.saf, h.cel, h.key, h.stn, h.fbs, h.net, h.tim, h.upd, fun b => absurd (b.symm.trans hm1) (by decide)⟩
theorem Same.up_reply_sys {m : Nat} {s t : State} {x0 x1} (h : Same m s t) (hm0 : 8 ||| m = m) (hm1 : 32 ||| m = m) :
    Same m s { t with reply := x0, sys := x1 } :=
  have hm0 := Same.bit (k := 3) hm0 (by decide)
  have hm1 := Same.bit (k := 5) hm1 (by decide)
  ⟨h.pending, h.now, h.fresh, fun b => absurd (b.symm.trans hm0) (by decide), h.arising, fun b => absurd (b.symm.trans hm1) (by decide), h.mem, h.img, h.trl, h.pge, h.lpe, h.prs, h.saf, h.cel, h.key, h.stn, h.fbs, h.net, h.tim, h.upd, h.pwr⟩
theorem Same.up_reply_sys_mem_img_trl_pge_lpe_prs_stn_fbs_net_tim {m : Nat} {s t : State} {x0 x1 x2 x3 x4 x5 x6 x7 x8 x9 x10 x11} (h : Same m s t) (hm0 : 8 ||| m = m) (hm1 : 32 ||| m = m) (hm2 : 64 ||| m = m) (hm3 : 128 ||| m = m) (hm4 : 256 ||| m = m) (hm5 : 512 ||| m = m) (hm6 : 1024 ||| m = m) (hm7 : 2048 ||| m = m) (hm8 : 32768 ||| m = m) (hm9 : 65536 ||| m = m) (hm10 : 131072 ||| m = m) (hm11 : 262144 ||| m = m) :
    Same m s { t with reply := x0, sys := x1, mem := x2, img := x3, trl := x4, pge := x5, lpe := x6, prs := x7, stn := x8, fbs := x9, net := x10, tim := x11 } :=
  have hm0 := Same.bit (k := 3) hm0 (by decide)
  have hm1 := Same.bit (k := 5) hm1 (by decide)
  have hm2 := Same.bit (k := 6) hm2 (by decide)
  have hm3 := Same.bit (k := 7) hm3 (by decide)
  have hm4 := Same.bit (k := 8) hm4 (by decide)
  have hm5 := Same.bit (k := 9) hm5 (by decide)
  have hm6 := Same.bit (k := 10) hm6 (by decide)
  have hm7 := Same.bit (k := 11) hm7 (by decide)
  have hm8 := Same.bit (k := 15) hm8 (by decide)
  have hm9 := Same.bit (k := 16) hm9 (by decide)
  have hm10 := Same.bit (k := 17) hm10 (by decide)
  have hm11 := Same.bit (k := 18) hm11 (by decide)
  ⟨h.pending, h.now, h.fresh, fun b => absurd (b.symm.trans hm0) (by decide), h.arising, fun b => absurd (b.symm.trans hm1) (by decide), fun b => absurd (b.symm.trans hm2) (by decide), fun b => absurd (b.symm.trans hm3) (by decide), fun b => absurd (b.symm.trans hm4) (by decide), fun b => absurd (b.symm.trans hm5) (by decide), fun b => absurd (b.symm.trans hm6) (by decide), fun b => absurd (b.symm.trans hm7) (by decide), h.saf, h.cel, h.key, fun b => absurd (b.symm.trans hm8) (by decide), fun b => absurd (b.symm.trans hm9) (by decide), fun b => absurd (b.symm.trans hm10) (by decide), fun b => absurd (b.symm.trans hm11) (by decide), h.upd, h.pwr⟩
theorem Same.up_reply_tim {m : Nat} {s t : State} {x0 x1} (h : Same m s t) (hm0 : 8 ||| m = m) (hm1 : 262144 ||| m = m) :
    Same m s { t with reply := x0, tim := x1 } :=
  have hm0 := Same.bit (k := 3) hm0 (by decide)
  have hm1 := Same.bit (k := 18) hm1 (by decide)
  ⟨h.pending, h.now, h.fresh, fun b => absurd (b.symm.trans hm0) (by decide), h.arising, h.sys, h.mem, h.img, h.trl, h.pge, h.lpe, h.prs, h.saf, h.cel, h.key, h.stn, h.fbs, h.net, fun b => absurd (b.symm.trans hm1) (by decide), h.upd, h.pwr⟩
theorem Same.up_reply_trl {m : Nat} {s t : State} {x0 x1} (h : Same m s t) (hm0 : 8 ||| m = m) (hm1 : 256 ||| m = m) :
    Same m s { t with reply := x0, trl := x1 } :=
  have hm0 := Same.bit (k := 3) hm0 (by decide)
  have hm1 := Same.bit (k := 8) hm1 (by decide)
  ⟨h.pending, h.now, h.fresh, fun b => absurd (b.symm.trans hm0) (by decide), h.arising, h.sys, h.mem, h.img, fun b => absurd (b.symm.trans hm1) (by decide), h.pge, h.lpe, h.prs, h.saf, h.cel, h.key, h.stn, h.fbs, h.net, h.tim, h.upd, h.pwr⟩
theorem Same.up_reply_upd {m : Nat} {s t : State} {x0 x1} (h : Same m s t) (hm0 : 8 ||| m = m) (hm1 : 524288 ||| m = m) :
    Same m s { t with reply := x0, upd := x1 } :=
  have hm0 := Same.bit (k := 3) hm0 (by decide)
  have hm1 := Same.bit (k := 19) hm1 (by decide)
  ⟨h.pending, h.now, h.fresh, fun b => absurd (b.symm.trans hm0) (by decide), h.arising, h.sys, h.mem, h.img, h.trl, h.pge, h.lpe, h.prs, h.saf, h.cel, h.key, h.stn, h.fbs, h.net, h.tim, fun b => absurd (b.symm.trans hm1) (by decide), h.pwr⟩
theorem Same.up_saf_cel_key {m : Nat} {s t : State} {x0 x1 x2} (h : Same m s t) (hm0 : 4096 ||| m = m) (hm1 : 8192 ||| m = m) (hm2 : 16384 ||| m = m) :
    Same m s { t with saf := x0, cel := x1, key := x2 } :=
  have hm0 := Same.bit (k := 12) hm0 (by decide)
  have hm1 := Same.bit (k := 13) hm1 (by decide)
  have hm2 := Same.bit (k := 14) hm2 (by decide)
  ⟨h.pending, h.now, h.fresh, h.reply, h.arising, h.sys, h.mem, h.img, h.trl, h.pge, h.lpe, h.prs, fun b => absurd (b.symm.trans hm0) (by decide), fun b => absurd (b.symm.trans hm1) (by decide), fun b => absurd (b.symm.trans hm2) (by decide), h.stn, h.fbs, h.net, h.tim, h.upd, h.pwr⟩
theorem Same.up_sys_img_pwr {m : Nat} {s t : State} {x0 x1 x2} (h : Same m s t) (hm0 : 32 ||| m = m) (hm1 : 128 ||| m = m) (hm2 : 1048576 ||| m = m) :
    Same m s { t with sys := x0, img := x1, pwr := x2 } :=
  have hm0 := Same.bit (k := 5) hm0 (by decide)
  have hm1 := Same.bit (k := 7) hm1 (by decide)
  have hm2 := Same.bit (k := 20) hm2 (by decide)
  ⟨h.pending, h.now, h.fresh, h.reply, h.arising, fun b => absurd (b.symm.trans hm0) (by decide), h.mem, fun b => absurd (b.symm.trans hm1) (by decide), h.trl, h.pge, h.lpe, h.prs, h.saf, h.cel, h.key, h.stn, h.fbs, h.net, h.tim, h.upd, fun b => absurd (b.symm.trans hm2) (by decide)⟩
theorem Same.up_sys_pwr {m : Nat} {s t : State} {x0 x1} (h : Same m s t) (hm0 : 32 ||| m = m) (hm1 : 1048576 ||| m = m) :
    Same m s { t with sys := x0, pwr := x1 } :=
  have hm0 := Same.bit (k := 5) hm0 (by decide)
  have hm1 := Same.bit (k := 20) hm1 (by decide)
  ⟨h.pending, h.now, h.fresh, h.reply, h.arising, fun b => absurd (b.symm.trans hm0) (by decide), h.mem, h.img, h.trl, h.pge, h.lpe, h.prs, h.saf, h.cel, h.key, h.stn, h.fbs, h.net, h.tim, h.upd, fun b => absurd (b.symm.trans hm1) (by decide)⟩
theorem Same.up_trl_pwr {m : Nat} {s t : State} {x0 x1} (h : Same m s t) (hm0 : 256 ||| m = m) (hm1 : 1048576 ||| m = m) :
    Same m s { t with trl := x0, pwr := x1 } :=
  have hm0 := Same.bit (k := 8) hm0 (by decide)
  have hm1 := Same.bit (k := 20) hm1 (by decide)
  ⟨h.pending, h.now, h.fresh, h.reply, h.arising, h.sys, h.mem, h.img, fun b => absurd (b.symm.trans hm0) (by decide), h.pge, h.lpe, h.prs, h.saf, h.cel, h.key, h.stn, h.fbs, h.net, h.tim, h.upd, fun b => absurd (b.symm.trans hm1) (by decide)⟩
theorem Same.up_upd_pwr {m : Nat} {s t : State} {x0 x1} (h : Same m s t) (hm0 : 524288 ||| m = m) (hm1 : 1048576 ||| m = m) :
    Same m s { t with upd := x0, pwr := x1 } :=
  have hm0 := Same.bit (k := 19) hm0 (by decide)
  have hm1 := Same.bit (k := 20) hm1 (by decide)
  ⟨h.pending, h.now, h.fresh, h.reply, h.arising, h.sys, h.mem, h.img, h.trl, h.pge, h.lpe, h.prs, h.saf, h.cel, h.key, h.stn, h.fbs, h.net, h.tim, fun b => absurd (b.symm.trans hm0) (by decide), fun b => absurd (b.symm.trans hm1) (by decide)⟩
end Sys2Proof.Machine
end

