-- ==== Sys2Proof/Laws/FrameOps.lean ====
section
/-!
SUPPORT. FrameOps.lean: for each operation of Machine/Ops.lean, the components of State it can change: the result agrees with the
state it starts from on every component whose bit in the mask is 0 (the bits as in `Same`).
-/
namespace Sys2Proof.Machine
set_option linter.all false

theorem setLaneQ_same {M : Nat} {s0 : State} {a0 a1 a2} (h2 : Same M s0 a2) (hm : 32 ||| M = M) :
    Same M s0 (setLaneQ a0 a1 a2) := by
  unfold setLaneQ
  repeat' first
    | with_reducible assumption
    | (extract_lets +onlyGivenNames x; first | (refine Same.cut M s0 x ?_ ?_; (focus (dsimp -zeta only [x]; clear x)); rotate_left 1; clear_value x; revert x; intro _ _) | (have hh := fun a => x a; clear hh; dsimp -zeta only [x]; clear x) | (clear_value x; revert x; intro _) | (dsimp -zeta only [x]; clear x))
    | split
    | with_reducible refine Same.up_sys ?_ (Same.sub hm rfl)

theorem recordF_same {M : Nat} {s0 : State} {a0 a1 a2 a3 a4} (h4 : Same M s0 a4) (hm : 16 ||| M = M) :
    Same M s0 (recordF a0 a1 a2 a3 a4) := by
  unfold recordF
  repeat' first
    | with_reducible assumption
    | with_reducible refine Same.up_arising ?_ (Same.sub hm rfl)

theorem record_same {M : Nat} {s0 : State} {a0 a1 a2 a3} (h3 : Same M s0 a3) (hm : 16 ||| M = M) :
    Same M s0 (record a0 a1 a2 a3) := by
  unfold record
  repeat' first
    | with_reducible assumption
    | with_reducible refine recordF_same ?_ (Same.sub hm rfl)

theorem xchRefuse_same {M : Nat} {s0 : State} {a0 a1 a2 a3} (h3 : Same M s0 a3) (hm : 56 ||| M = M) :
    Same M s0 (xchRefuse a0 a1 a2 a3) := by
  unfold xchRefuse
  repeat' first
    | with_reducible assumption
    | (extract_lets +onlyGivenNames x; first | (refine Same.cut M s0 x ?_ ?_; (focus (dsimp -zeta only [x]; clear x)); rotate_left 1; clear_value x; revert x; intro _ _) | (have hh := fun a => x a; clear hh; dsimp -zeta only [x]; clear x) | (clear_value x; revert x; intro _) | (dsimp -zeta only [x]; clear x))
    | with_reducible refine record_same ?_ (Same.sub hm rfl)
    | split
    | with_reducible refine Same.up_reply_sys ?_ (Same.sub hm rfl) (Same.sub hm rfl)

theorem present_same {M : Nat} {s0 : State} {a0 a1 a2 a3 a4} (h4 : Same M s0 a4) (hm : 56 ||| M = M) :
    Same M s0 (present a0 a1 a2 a3 a4) := by
  unfold present
  repeat' first
    | with_reducible assumption
    | with_reducible refine setLaneQ_same ?_ (Same.sub hm rfl)
    | with_reducible refine xchRefuse_same ?_ (Same.sub hm rfl)
    | split

theorem denied_same {M : Nat} {s0 : State} {a0 a1 a2 a3 a4 a5 a6} (h6 : Same M s0 a6) (hm : 48 ||| M = M) :
    Same M s0 (denied a0 a1 a2 a3 a4 a5 a6) := by
  unfold denied
  repeat' first
    | with_reducible assumption
    | (extract_lets +onlyGivenNames x; first | (refine Same.cut M s0 x ?_ ?_; (focus (dsimp -zeta only [x]; clear x)); rotate_left 1; clear_value x; revert x; intro _ _) | (have hh := fun a => x a; clear hh; dsimp -zeta only [x]; clear x) | (clear_value x; revert x; intro _) | (dsimp -zeta only [x]; clear x))
    | with_reducible refine record_same ?_ (Same.sub hm rfl)
    | split
    | with_reducible refine Same.up_sys ?_ (Same.sub hm rfl)

theorem updDom_same {M : Nat} {s0 : State} {a0 a1 a2} (h2 : Same M s0 a2) (hm : 262144 ||| M = M) :
    Same M s0 (updDom a0 a1 a2) := by
  unfold updDom
  repeat' first
    | with_reducible assumption
    | (extract_lets +onlyGivenNames x; first | (refine Same.cut M s0 x ?_ ?_; (focus (dsimp -zeta only [x]; clear x)); rotate_left 1; clear_value x; revert x; intro _ _) | (have hh := fun a => x a; clear hh; dsimp -zeta only [x]; clear x) | (clear_value x; revert x; intro _) | (dsimp -zeta only [x]; clear x))
    | split
    | with_reducible refine Same.up_tim ?_ (Same.sub hm rfl)

theorem queueStart_same {M : Nat} {s0 : State} {a0 a1} (h1 : Same M s0 a1) (hm : 1048576 ||| M = M) :
    Same M s0 (queueStart a0 a1) := by
  unfold queueStart
  repeat' first
    | with_reducible assumption
    | (extract_lets +onlyGivenNames x; first | (refine Same.cut M s0 x ?_ ?_; (focus (dsimp -zeta only [x]; clear x)); rotate_left 1; clear_value x; revert x; intro _ _) | (have hh := fun a => x a; clear hh; dsimp -zeta only [x]; clear x) | (clear_value x; revert x; intro _) | (dsimp -zeta only [x]; clear x))
    | split
    | with_reducible refine Same.up_pwr ?_ (Same.sub hm rfl)

theorem noteCommand_same {M : Nat} {s0 : State} {a0 a1} (h1 : Same M s0 a1) (hm : 1048576 ||| M = M) :
    Same M s0 (noteCommand a0 a1) := by
  unfold noteCommand
  repeat' first
    | with_reducible assumption
    | with_reducible refine queueStart_same ?_ (Same.sub hm rfl)
    | with_reducible refine Same.foldl (fun _ _ _ => ?_) ?_
    | split

theorem setPt_same {M : Nat} {s0 : State} {a0 a1 a2} (h2 : Same M s0 a2) (hm : 256 ||| M = M) :
    Same M s0 (setPt a0 a1 a2) := by
  unfold setPt
  repeat' first
    | with_reducible assumption
    | (extract_lets +onlyGivenNames x; first | (refine Same.cut M s0 x ?_ ?_; (focus (dsimp -zeta only [x]; clear x)); rotate_left 1; clear_value x; revert x; intro _ _) | (have hh := fun a => x a; clear hh; dsimp -zeta only [x]; clear x) | (clear_value x; revert x; intro _) | (dsimp -zeta only [x]; clear x))
    | split
    | with_reducible refine Same.up_trl ?_ (Same.sub hm rfl)

theorem unqueueStart_same {M : Nat} {s0 : State} {a0 a1} (h1 : Same M s0 a1) (hm : 1048576 ||| M = M) :
    Same M s0 (unqueueStart a0 a1) := by
  unfold unqueueStart
  repeat' first
    | with_reducible assumption
    | (extract_lets +onlyGivenNames x; first | (refine Same.cut M s0 x ?_ ?_; (focus (dsimp -zeta only [x]; clear x)); rotate_left 1; clear_value x; revert x; intro _ _) | (have hh := fun a => x a; clear hh; dsimp -zeta only [x]; clear x) | (clear_value x; revert x; intro _) | (dsimp -zeta only [x]; clear x))
    | with_reducible refine Same.up_pwr ?_ (Same.sub hm rfl)

theorem updCell_same {M : Nat} {s0 : State} {a0 a1 a2} (h2 : Same M s0 a2) (hm : 256 ||| M = M) :
    Same M s0 (updCell a0 a1 a2) := by
  unfold updCell
  repeat' first
    | with_reducible assumption
    | (extract_lets +onlyGivenNames x; first | (refine Same.cut M s0 x ?_ ?_; (focus (dsimp -zeta only [x]; clear x)); rotate_left 1; clear_value x; revert x; intro _ _) | (have hh := fun a => x a; clear hh; dsimp -zeta only [x]; clear x) | (clear_value x; revert x; intro _) | (dsimp -zeta only [x]; clear x))
    | split
    | with_reducible refine Same.up_trl ?_ (Same.sub hm rfl)

theorem bumpFree_same {M : Nat} {s0 : State} {a0} (h0 : Same M s0 a0) (hm : 4 ||| M = M) :
    Same M s0 (bumpFree a0) := by
  unfold bumpFree
  repeat' first
    | with_reducible assumption
    | with_reducible refine Same.up_fresh ?_ (Same.sub hm rfl)

theorem setIsl_same {M : Nat} {s0 : State} {a0 a1 a2} (h2 : Same M s0 a2) (hm : 32 ||| M = M) :
    Same M s0 (setIsl a0 a1 a2) := by
  unfold setIsl
  repeat' first
    | with_reducible assumption
    | (extract_lets +onlyGivenNames x; first | (refine Same.cut M s0 x ?_ ?_; (focus (dsimp -zeta only [x]; clear x)); rotate_left 1; clear_value x; revert x; intro _ _) | (have hh := fun a => x a; clear hh; dsimp -zeta only [x]; clear x) | (clear_value x; revert x; intro _) | (dsimp -zeta only [x]; clear x))
    | split
    | with_reducible refine Same.up_sys ?_ (Same.sub hm rfl)

end Sys2Proof.Machine
end

