-- ==== Sys2Proof/Laws/FrameCanQueue.lean ====
section
/-!
SUPPORT. FrameCanQueue.lean: for each operation of Machine/CanQueue.lean, the components of State it can change: the result agrees with the
state it starts from on every component whose bit in the mask is 0 (the bits as in `Same`).
-/
namespace Sys2Proof.Machine
set_option linter.all false

theorem noteChange_same {M : Nat} {s0 : State} {a0 a1 a2} (h2 : Same M s0 a2) (hm : 65536 ||| M = M) :
    Same M s0 (noteChange a0 a1 a2) := by
  unfold noteChange
  repeat' first
    | with_reducible assumption
    | (extract_lets +onlyGivenNames x; first | (refine Same.cut M s0 x ?_ ?_; (focus (dsimp -zeta only [x]; clear x)); rotate_left 1; clear_value x; revert x; intro _ _) | (have hh := fun a => x a; clear hh; dsimp -zeta only [x]; clear x) | (clear_value x; revert x; intro _) | (dsimp -zeta only [x]; clear x))
    | with_reducible refine Same.foldl (fun _ _ _ => ?_) ?_
    | split
    | with_reducible refine Same.up_fbs ?_ (Same.sub hm rfl)

theorem updCan_same {M : Nat} {s0 : State} {a0 a1 a2} (h2 : Same M s0 a2) (hm : 65536 ||| M = M) :
    Same M s0 (updCan a0 a1 a2) := by
  unfold updCan
  repeat' first
    | with_reducible assumption
    | (extract_lets +onlyGivenNames x; first | (refine Same.cut M s0 x ?_ ?_; (focus (dsimp -zeta only [x]; clear x)); rotate_left 1; clear_value x; revert x; intro _ _) | (have hh := fun a => x a; clear hh; dsimp -zeta only [x]; clear x) | (clear_value x; revert x; intro _) | (dsimp -zeta only [x]; clear x))
    | split
    | with_reducible refine Same.up_fbs ?_ (Same.sub hm rfl)

theorem wireStart_same {M : Nat} {s0 : State} {a0 a1 a2} (h2 : Same M s0 a2) (hm : 65536 ||| M = M) :
    Same M s0 (wireStart a0 a1 a2) := by
  unfold wireStart
  repeat' first
    | with_reducible assumption
    | (extract_lets +onlyGivenNames x; first | (refine Same.cut M s0 x ?_ ?_; (focus (dsimp -zeta only [x]; clear x)); rotate_left 1; clear_value x; revert x; intro _ _) | (have hh := fun a => x a; clear hh; dsimp -zeta only [x]; clear x) | (clear_value x; revert x; intro _) | (dsimp -zeta only [x]; clear x))
    | with_reducible refine updCan_same ?_ (Same.sub hm rfl)
    | split
    | with_reducible refine Same.up_fbs ?_ (Same.sub hm rfl)

theorem offer_same {M : Nat} {s0 : State} {a0 a1} (h1 : Same M s0 a1) (hm : 65536 ||| M = M) :
    Same M s0 (offer a0 a1) := by
  unfold offer
  repeat' first
    | with_reducible assumption
    | (extract_lets +onlyGivenNames x; first | (refine Same.cut M s0 x ?_ ?_; (focus (dsimp -zeta only [x]; clear x)); rotate_left 1; clear_value x; revert x; intro _ _) | (have hh := fun a => x a; clear hh; dsimp -zeta only [x]; clear x) | (clear_value x; revert x; intro _) | (dsimp -zeta only [x]; clear x))
    | with_reducible refine wireStart_same ?_ (Same.sub hm rfl)
    | with_reducible refine updCan_same ?_ (Same.sub hm rfl)
    | split

theorem countTxDrop_same {M : Nat} {s0 : State} {a0 a1} (h1 : Same M s0 a1) (hm : 65552 ||| M = M) :
    Same M s0 (countTxDrop a0 a1) := by
  unfold countTxDrop
  repeat' first
    | with_reducible assumption
    | (extract_lets +onlyGivenNames x; first | (refine Same.cut M s0 x ?_ ?_; (focus (dsimp -zeta only [x]; clear x)); rotate_left 1; clear_value x; revert x; intro _ _) | (have hh := fun a => x a; clear hh; dsimp -zeta only [x]; clear x) | (clear_value x; revert x; intro _) | (dsimp -zeta only [x]; clear x))
    | with_reducible refine record_same ?_ (Same.sub hm rfl)
    | with_reducible refine updCan_same ?_ (Same.sub hm rfl)
    | split

theorem canTrigger_same {M : Nat} {s0 : State} {a0 a1} (h1 : Same M s0 a1) (hm : 65552 ||| M = M) :
    Same M s0 (canTrigger a0 a1) := by
  unfold canTrigger
  repeat' first
    | with_reducible assumption
    | (extract_lets +onlyGivenNames x; first | (refine Same.cut M s0 x ?_ ?_; (focus (dsimp -zeta only [x]; clear x)); rotate_left 1; clear_value x; revert x; intro _ _) | (have hh := fun a => x a; clear hh; dsimp -zeta only [x]; clear x) | (clear_value x; revert x; intro _) | (dsimp -zeta only [x]; clear x))
    | with_reducible refine offer_same ?_ (Same.sub hm rfl)
    | with_reducible refine updCan_same ?_ (Same.sub hm rfl)
    | with_reducible refine countTxDrop_same ?_ (Same.sub hm rfl)
    | split

theorem buildChanged_same {M : Nat} {s0 : State} {a0} (h0 : Same M s0 a0) (hm : 65552 ||| M = M) :
    Same M s0 (buildChanged a0) := by
  unfold buildChanged
  repeat' first
    | with_reducible assumption
    | (extract_lets +onlyGivenNames x; first | (refine Same.cut M s0 x ?_ ?_; (focus (dsimp -zeta only [x]; clear x)); rotate_left 1; clear_value x; revert x; intro _ _) | (have hh := fun a => x a; clear hh; dsimp -zeta only [x]; clear x) | (clear_value x; revert x; intro _) | (dsimp -zeta only [x]; clear x))
    | with_reducible refine canTrigger_same ?_ (Same.sub hm rfl)
    | with_reducible refine Same.foldl (fun _ _ _ => ?_) ?_
    | with_reducible refine Same.up_fbs ?_ (Same.sub hm rfl)

end Sys2Proof.Machine
end

