-- ==== Sys2Proof/Laws/FrameOperands.lean ====
section
/-!
SUPPORT. FrameOperands.lean: for each operation of Machine/Operands.lean, the components of State it can change: the result agrees with the
state it starts from on every component whose bit in the mask is 0 (the bits as in `Same`).
-/
namespace Sys2Proof.Machine
set_option linter.all false

theorem busDenied_same {M : Nat} {s0 : State} {a0 a1 a2 a3 a4} (h4 : Same M s0 a4) (hm : 56 ||| M = M) :
    Same M s0 (busDenied a0 a1 a2 a3 a4) := by
  unfold busDenied
  repeat' first
    | with_reducible assumption
    | (extract_lets +onlyGivenNames x; first | (refine Same.cut M s0 x ?_ ?_; (focus (dsimp -zeta only [x]; clear x)); rotate_left 1; clear_value x; revert x; intro _ _) | (have hh := fun a => x a; clear hh; dsimp -zeta only [x]; clear x) | (clear_value x; revert x; intro _) | (dsimp -zeta only [x]; clear x))
    | with_reducible refine denied_same ?_ (Same.sub hm rfl)
    | with_reducible refine Same.up_reply ?_ (Same.sub hm rfl)

theorem regCmd_same {M : Nat} {s0 : State} {a0 a1 a2 a3 a4} (h3 : ∀ x0, Same M s0 x0 → Same M s0 (a3 x0)) (h4 : Same M s0 a4) (hm : 56 ||| M = M) :
    OutSame M s0 (regCmd a0 a1 a2 a3 a4) := by
  unfold regCmd
  repeat' first
    | with_reducible assumption
    | with_reducible refine OutSame.next ?_
    | with_reducible refine h3 _ ?_
    | with_reducible refine busDenied_same ?_ (Same.sub hm rfl)
    | split
    | with_reducible refine Same.up_reply ?_ (Same.sub hm rfl)

theorem regRead_same {M : Nat} {s0 : State} {a0 a1 a2 a3 a4 a5} (h4 : ∀ x0, Same M s0 x0 → Same M s0 (a4 x0)) (h5 : Same M s0 a5) (hm : 56 ||| M = M) :
    OutSame M s0 (regRead a0 a1 a2 a3 a4 a5) := by
  unfold regRead
  repeat' first
    | with_reducible assumption
    | (extract_lets +onlyGivenNames x; first | (refine Same.cut M s0 x ?_ ?_; (focus (dsimp -zeta only [x]; clear x)); rotate_left 1; clear_value x; revert x; intro _ _) | (have hh := fun a => x a; clear hh; dsimp -zeta only [x]; clear x) | (clear_value x; revert x; intro _) | (dsimp -zeta only [x]; clear x))
    | with_reducible refine OutSame.next ?_
    | with_reducible refine h4 _ ?_
    | with_reducible refine busDenied_same ?_ (Same.sub hm rfl)
    | split
    | with_reducible refine Same.up_reply ?_ (Same.sub hm rfl)

theorem setCtl_same {M : Nat} {s0 : State} {a0 a1 a2 a3} (h3 : Same M s0 a3) (hm : 32 ||| M = M) :
    Same M s0 (setCtl a0 a1 a2 a3) := by
  unfold setCtl
  repeat' first
    | with_reducible assumption
    | (extract_lets +onlyGivenNames x; first | (refine Same.cut M s0 x ?_ ?_; (focus (dsimp -zeta only [x]; clear x)); rotate_left 1; clear_value x; revert x; intro _ _) | (have hh := fun a => x a; clear hh; dsimp -zeta only [x]; clear x) | (clear_value x; revert x; intro _) | (dsimp -zeta only [x]; clear x))
    | split
    | with_reducible refine Same.up_sys ?_ (Same.sub hm rfl)

end Sys2Proof.Machine
end

