-- ==== Sys2Proof/Laws/FramePoints.lean ====
section
/-!
SUPPORT. FramePoints.lean: for each operation of Machine/Points.lean, the components of State it can change: the result agrees with the
state it starts from on every component whose bit in the mask is 0 (the bits as in `Same`).
-/
namespace Sys2Proof.Machine
set_option linter.all false

theorem refuseWrite_same {M : Nat} {s0 : State} {a0 a1 a2 a3} (h3 : Same M s0 a3) (hm : 304 ||| M = M) :
    Same M s0 (refuseWrite a0 a1 a2 a3) := by
  unfold refuseWrite
  repeat' first
    | with_reducible assumption
    | (extract_lets +onlyGivenNames x; first | (refine Same.cut M s0 x ?_ ?_; (focus (dsimp -zeta only [x]; clear x)); rotate_left 1; clear_value x; revert x; intro _ _) | (have hh := fun a => x a; clear hh; dsimp -zeta only [x]; clear x) | (clear_value x; revert x; intro _) | (dsimp -zeta only [x]; clear x))
    | with_reducible refine denied_same ?_ (Same.sub hm rfl)
    | split
    | with_reducible refine Same.up_trl ?_ (Same.sub hm rfl)

theorem noteLevel_same {M : Nat} {s0 : State} {a0 a1 a2} (h2 : Same M s0 a2) (hm : 65536 ||| M = M) :
    Same M s0 (noteLevel a0 a1 a2) := by
  unfold noteLevel
  repeat' first
    | with_reducible assumption
    | (extract_lets +onlyGivenNames x; first | (refine Same.cut M s0 x ?_ ?_; (focus (dsimp -zeta only [x]; clear x)); rotate_left 1; clear_value x; revert x; intro _ _) | (have hh := fun a => x a; clear hh; dsimp -zeta only [x]; clear x) | (clear_value x; revert x; intro _) | (dsimp -zeta only [x]; clear x))
    | with_reducible refine Same.foldl (fun _ _ _ => ?_) ?_
    | split
    | with_reducible refine Same.up_fbs ?_ (Same.sub hm rfl)

theorem noteOpen_same {M : Nat} {s0 : State} {a0 a1 a2 a3} (h3 : Same M s0 a3) (hm : 32768 ||| M = M) :
    Same M s0 (noteOpen a0 a1 a2 a3) := by
  unfold noteOpen
  repeat' first
    | with_reducible assumption
    | (extract_lets +onlyGivenNames x; first | (refine Same.cut M s0 x ?_ ?_; (focus (dsimp -zeta only [x]; clear x)); rotate_left 1; clear_value x; revert x; intro _ _) | (have hh := fun a => x a; clear hh; dsimp -zeta only [x]; clear x) | (clear_value x; revert x; intro _) | (dsimp -zeta only [x]; clear x))
    | split
    | with_reducible refine Same.up_stn ?_ (Same.sub hm rfl)

theorem putEntry0_same {M : Nat} {s0 : State} {a0 a1 a2 a3 a4 a5} (h5 : Same M s0 a5) (hm : 1147136 ||| M = M) :
    Same M s0 (putEntry0 a0 a1 a2 a3 a4 a5) := by
  unfold putEntry0
  repeat' first
    | with_reducible assumption
    | (extract_lets +onlyGivenNames x; first | (refine Same.cut M s0 x ?_ ?_; (focus (dsimp -zeta only [x]; clear x)); rotate_left 1; clear_value x; revert x; intro _ _) | (have hh := fun a => x a; clear hh; dsimp -zeta only [x]; clear x) | (clear_value x; revert x; intro _) | (dsimp -zeta only [x]; clear x))
    | with_reducible refine noteCommand_same ?_ (Same.sub hm rfl)
    | with_reducible refine setPt_same ?_ (Same.sub hm rfl)
    | with_reducible refine noteChange_same ?_ (Same.sub hm rfl)
    | with_reducible refine noteLevel_same ?_ (Same.sub hm rfl)
    | with_reducible refine noteOpen_same ?_ (Same.sub hm rfl)
    | split

theorem noteMask_same {M : Nat} {s0 : State} {a0} (h0 : Same M s0 a0) (hm : 1147136 ||| M = M) :
    Same M s0 (noteMask a0) := by
  unfold noteMask
  repeat' first
    | with_reducible assumption
    | (extract_lets +onlyGivenNames x; first | (refine Same.cut M s0 x ?_ ?_; (focus (dsimp -zeta only [x]; clear x)); rotate_left 1; clear_value x; revert x; intro _ _) | (have hh := fun a => x a; clear hh; dsimp -zeta only [x]; clear x) | (clear_value x; revert x; intro _) | (dsimp -zeta only [x]; clear x))
    | with_reducible refine putEntry0_same ?_ (Same.sub hm rfl)
    | split

theorem openDoor_same {M : Nat} {s0 : State} {a0 a1 a2} (h2 : Same M s0 a2) (hm : 1147136 ||| M = M) :
    Same M s0 (openDoor a0 a1 a2) := by
  unfold openDoor
  repeat' first
    | with_reducible assumption
    | (extract_lets +onlyGivenNames x; first | (refine Same.cut M s0 x ?_ ?_; (focus (dsimp -zeta only [x]; clear x)); rotate_left 1; clear_value x; revert x; intro _ _) | (have hh := fun a => x a; clear hh; dsimp -zeta only [x]; clear x) | (clear_value x; revert x; intro _) | (dsimp -zeta only [x]; clear x))
    | with_reducible refine putEntry0_same ?_ (Same.sub hm rfl)
    | split
    | with_reducible refine Same.up_fbs ?_ (Same.sub hm rfl)

theorem noteRelease_same {M : Nat} {s0 : State} {a0 a1 a2 a3} (h3 : Same M s0 a3) (hm : 1147152 ||| M = M) :
    Same M s0 (noteRelease a0 a1 a2 a3) := by
  unfold noteRelease
  repeat' first
    | with_reducible assumption
    | with_reducible refine openDoor_same ?_ (Same.sub hm rfl)
    | with_reducible refine record_same ?_ (Same.sub hm rfl)
    | with_reducible refine Same.foldl (fun _ _ _ => ?_) ?_
    | split

theorem putEntry_same {M : Nat} {s0 : State} {a0 a1 a2 a3 a4 a5} (h5 : Same M s0 a5) (hm : 1147152 ||| M = M) :
    Same M s0 (putEntry a0 a1 a2 a3 a4 a5) := by
  unfold putEntry
  repeat' first
    | with_reducible assumption
    | (extract_lets +onlyGivenNames x; first | (refine Same.cut M s0 x ?_ ?_; (focus (dsimp -zeta only [x]; clear x)); rotate_left 1; clear_value x; revert x; intro _ _) | (have hh := fun a => x a; clear hh; dsimp -zeta only [x]; clear x) | (clear_value x; revert x; intro _) | (dsimp -zeta only [x]; clear x))
    | with_reducible refine noteMask_same ?_ (Same.sub hm rfl)
    | with_reducible refine putEntry0_same ?_ (Same.sub hm rfl)
    | with_reducible refine noteRelease_same ?_ (Same.sub hm rfl)
    | split

theorem writeBy_same {M : Nat} {s0 : State} {a0 a1 a2 a3 a4 a5 a6 a7} (h7 : Same M s0 a7) (hm : 1147184 ||| M = M) :
    Same M s0 (writeBy a0 a1 a2 a3 a4 a5 a6 a7) := by
  unfold writeBy
  repeat' first
    | with_reducible assumption
    | with_reducible refine refuseWrite_same ?_ (Same.sub hm rfl)
    | with_reducible refine putEntry_same ?_ (Same.sub hm rfl)
    | split

theorem writeQ_same {M : Nat} {s0 : State} {a0 a1 a2 a3 a4 a5 a6 a7} (h7 : Same M s0 a7) (hm : 1147184 ||| M = M) :
    Same M s0 (writeQ a0 a1 a2 a3 a4 a5 a6 a7) := by
  unfold writeQ
  repeat' first
    | with_reducible assumption
    | with_reducible refine refuseWrite_same ?_ (Same.sub hm rfl)
    | with_reducible refine writeBy_same ?_ (Same.sub hm rfl)
    | split

theorem substitute_same {M : Nat} {s0 : State} {a0 a1} (h1 : Same M s0 a1) (hm : 1147152 ||| M = M) :
    Same M s0 (substitute a0 a1) := by
  unfold substitute
  repeat' first
    | with_reducible assumption
    | with_reducible refine putEntry_same ?_ (Same.sub hm rfl)
    | split

theorem substituteAll_same {M : Nat} {s0 : State} {a0 a1} (h1 : Same M s0 a1) (hm : 1147152 ||| M = M) :
    Same M s0 (substituteAll a0 a1) := by
  unfold substituteAll
  repeat' first
    | with_reducible assumption
    | with_reducible refine substitute_same ?_ (Same.sub hm rfl)
    | with_reducible refine Same.foldl (fun _ _ _ => ?_) ?_

end Sys2Proof.Machine
end

