-- ==== Sys2Proof/Laws/FrameTrellis.lean ====
section
/-!
SUPPORT. FrameTrellis.lean: for each operation of Machine/Trellis.lean, the components of State it can change: the result agrees with the
state it starts from on every component whose bit in the mask is 0 (the bits as in `Same`).
-/
namespace Sys2Proof.Machine
set_option linter.all false

theorem endTest_same {M : Nat} {s0 : State} {a0 a1 a2} (h2 : Same M s0 a2) (hm : 272 ||| M = M) :
    Same M s0 (endTest a0 a1 a2) := by
  unfold endTest
  repeat' first
    | with_reducible assumption
    | (extract_lets +onlyGivenNames x; first | (refine Same.cut M s0 x ?_ ?_; (focus (dsimp -zeta only [x]; clear x)); rotate_left 1; clear_value x; revert x; intro _ _) | (have hh := fun a => x a; clear hh; dsimp -zeta only [x]; clear x) | (clear_value x; revert x; intro _) | (dsimp -zeta only [x]; clear x))
    | with_reducible refine record_same ?_ (Same.sub hm rfl)
    | split
    | with_reducible refine Same.up_trl ?_ (Same.sub hm rfl)

theorem testStopOp_same {M : Nat} {s0 : State} {a0} (h0 : Same M s0 a0) (hm : 272 ||| M = M) :
    Same M s0 (testStopOp a0) := by
  unfold testStopOp
  repeat' first
    | with_reducible assumption
    | with_reducible refine endTest_same ?_ (Same.sub hm rfl)
    | split

theorem activateCell_same {M : Nat} {s0 : State} {a0 a1 a2} (h2 : Same M s0 a2) (hm : 1048832 ||| M = M) :
    Same M s0 (activateCell a0 a1 a2) := by
  unfold activateCell
  repeat' first
    | with_reducible assumption
    | (extract_lets +onlyGivenNames x; first | (refine Same.cut M s0 x ?_ ?_; (focus (dsimp -zeta only [x]; clear x)); rotate_left 1; clear_value x; revert x; intro _ _) | (have hh := fun a => x a; clear hh; dsimp -zeta only [x]; clear x) | (clear_value x; revert x; intro _) | (dsimp -zeta only [x]; clear x))
    | with_reducible refine queueStart_same ?_ (Same.sub hm rfl)
    | with_reducible refine unqueueStart_same ?_ (Same.sub hm rfl)
    | with_reducible refine updCell_same ?_ (Same.sub hm rfl)
    | split

theorem activatePending_same {M : Nat} {s0 : State} {a0} (h0 : Same M s0 a0) (hm : 1048832 ||| M = M) :
    Same M s0 (activatePending a0) := by
  unfold activatePending
  repeat' first
    | with_reducible assumption
    | with_reducible refine activateCell_same ?_ (Same.sub hm rfl)
    | with_reducible refine Same.foldl (fun _ _ _ => ?_) ?_
    | split

theorem markDeferred_same {M : Nat} {s0 : State} {a0 a1} (h1 : Same M s0 a1) (hm : 1048576 ||| M = M) :
    Same M s0 (markDeferred a0 a1) := by
  unfold markDeferred
  repeat' first
    | with_reducible assumption
    | (extract_lets +onlyGivenNames x; first | (refine Same.cut M s0 x ?_ ?_; (focus (dsimp -zeta only [x]; clear x)); rotate_left 1; clear_value x; revert x; intro _ _) | (have hh := fun a => x a; clear hh; dsimp -zeta only [x]; clear x) | (clear_value x; revert x; intro _) | (dsimp -zeta only [x]; clear x))
    | split
    | with_reducible refine Same.up_pwr ?_ (Same.sub hm rfl)

theorem noteDefer_same {M : Nat} {s0 : State} {a0} (h0 : Same M s0 a0) (hm : 1048592 ||| M = M) :
    Same M s0 (noteDefer a0) := by
  unfold noteDefer
  repeat' first
    | with_reducible assumption
    | (extract_lets +onlyGivenNames x; first | (refine Same.cut M s0 x ?_ ?_; (focus (dsimp -zeta only [x]; clear x)); rotate_left 1; clear_value x; revert x; intro _ _) | (have hh := fun a => x a; clear hh; dsimp -zeta only [x]; clear x) | (clear_value x; revert x; intro _) | (dsimp -zeta only [x]; clear x))
    | with_reducible refine record_same ?_ (Same.sub hm rfl)
    | split
    | with_reducible refine Same.up_pwr ?_ (Same.sub hm rfl)

theorem deferStart_same {M : Nat} {s0 : State} {a0 a1} (h1 : Same M s0 a1) (hm : 1048592 ||| M = M) :
    Same M s0 (deferStart a0 a1) := by
  unfold deferStart
  repeat' first
    | with_reducible assumption
    | with_reducible refine markDeferred_same ?_ (Same.sub hm rfl)
    | with_reducible refine noteDefer_same ?_ (Same.sub hm rfl)
    | split

theorem noteOversize_same {M : Nat} {s0 : State} {a0 a1 a2} (h2 : Same M s0 a2) (hm : 16 ||| M = M) :
    Same M s0 (noteOversize a0 a1 a2) := by
  unfold noteOversize
  repeat' first
    | with_reducible assumption
    | with_reducible refine record_same ?_ (Same.sub hm rfl)
    | split

theorem admitStart_same {M : Nat} {s0 : State} {a0 a1 a2} (h2 : Same M s0 a2) (hm : 1048848 ||| M = M) :
    Same M s0 (admitStart a0 a1 a2) := by
  unfold admitStart
  repeat' first
    | with_reducible assumption
    | (extract_lets +onlyGivenNames x; first | (refine Same.cut M s0 x ?_ ?_; (focus (dsimp -zeta only [x]; clear x)); rotate_left 1; clear_value x; revert x; intro _ _) | (have hh := fun a => x a; clear hh; dsimp -zeta only [x]; clear x) | (clear_value x; revert x; intro _) | (dsimp -zeta only [x]; clear x))
    | with_reducible refine unqueueStart_same ?_ (Same.sub hm rfl)
    | with_reducible refine noteOversize_same ?_ (Same.sub hm rfl)
    | with_reducible refine updCell_same ?_ (Same.sub hm rfl)
    | split
    | with_reducible refine Same.up_pwr ?_ (Same.sub hm rfl)

theorem admitPass_same {M : Nat} {s0 : State} {a0 a1 a2 a3} (h3 : Same M s0 a3) (hm : 1048848 ||| M = M) :
    Same M s0 (admitPass a0 a1 a2 a3) := by
  induction a2 generalizing a1 a3 with
  | nil =>
    unfold admitPass
    repeat' first
      | with_reducible assumption
      | with_reducible refine deferStart_same ?_ (Same.sub hm rfl)
      | with_reducible refine admitStart_same ?_ (Same.sub hm rfl)
      | split
  | cons hd tl ih =>
    unfold admitPass
    repeat' first
      | with_reducible refine ih ?_
      | with_reducible assumption
      | with_reducible refine deferStart_same ?_ (Same.sub hm rfl)
      | with_reducible refine admitStart_same ?_ (Same.sub hm rfl)
      | split

theorem applyOutput_same {M : Nat} {s0 : State} {a0 a1} (h1 : Same M s0 a1) (hm : 256 ||| M = M) :
    Same M s0 (applyOutput a0 a1) := by
  unfold applyOutput
  repeat' first
    | with_reducible assumption
    | (extract_lets +onlyGivenNames x; first | (refine Same.cut M s0 x ?_ ?_; (focus (dsimp -zeta only [x]; clear x)); rotate_left 1; clear_value x; revert x; intro _ _) | (have hh := fun a => x a; clear hh; dsimp -zeta only [x]; clear x) | (clear_value x; revert x; intro _) | (dsimp -zeta only [x]; clear x))
    | with_reducible refine updCell_same ?_ (Same.sub hm rfl)
    | split

theorem calibrate_same {M : Nat} {s0 : State} {a0 a1 a2 a3} (h3 : Same M s0 a3) (hm : 272 ||| M = M) :
    Same M s0 (calibrate a0 a1 a2 a3) := by
  unfold calibrate
  repeat' first
    | with_reducible assumption
    | (extract_lets +onlyGivenNames x; first | (refine Same.cut M s0 x ?_ ?_; (focus (dsimp -zeta only [x]; clear x)); rotate_left 1; clear_value x; revert x; intro _ _) | (have hh := fun a => x a; clear hh; dsimp -zeta only [x]; clear x) | (clear_value x; revert x; intro _) | (dsimp -zeta only [x]; clear x))
    | with_reducible refine record_same ?_ (Same.sub hm rfl)
    | with_reducible refine updCell_same ?_ (Same.sub hm rfl)
    | split

theorem calibrateGroup_same {M : Nat} {s0 : State} {a0 a1 a2} (h2 : Same M s0 a2) (hm : 272 ||| M = M) :
    Same M s0 (calibrateGroup a0 a1 a2) := by
  unfold calibrateGroup
  repeat' first
    | with_reducible assumption
    | (extract_lets +onlyGivenNames x; first | (refine Same.cut M s0 x ?_ ?_; (focus (dsimp -zeta only [x]; clear x)); rotate_left 1; clear_value x; revert x; intro _ _) | (have hh := fun a => x a; clear hh; dsimp -zeta only [x]; clear x) | (clear_value x; revert x; intro _) | (dsimp -zeta only [x]; clear x))
    | with_reducible refine calibrate_same ?_ (Same.sub hm rfl)
    | split
    | with_reducible refine Same.up_trl ?_ (Same.sub hm rfl)

theorem countOp_same {M : Nat} {s0 : State} {a0 a1 a2 a3} (h3 : Same M s0 a3) (hm : 260 ||| M = M) :
    Same M s0 (countOp a0 a1 a2 a3) := by
  unfold countOp
  repeat' first
    | with_reducible assumption
    | (extract_lets +onlyGivenNames x; first | (refine Same.cut M s0 x ?_ ?_; (focus (dsimp -zeta only [x]; clear x)); rotate_left 1; clear_value x; revert x; intro _ _) | (have hh := fun a => x a; clear hh; dsimp -zeta only [x]; clear x) | (clear_value x; revert x; intro _) | (dsimp -zeta only [x]; clear x))
    | with_reducible refine bumpFree_same ?_ (Same.sub hm rfl)
    | with_reducible refine updCell_same ?_ (Same.sub hm rfl)
    | split

theorem diSampleOp_same {M : Nat} {s0 : State} {a0 a1 a2} (h2 : Same M s0 a2) (hm : 256 ||| M = M) :
    Same M s0 (diSampleOp a0 a1 a2) := by
  unfold diSampleOp
  repeat' first
    | with_reducible assumption
    | (extract_lets +onlyGivenNames x; first | (refine Same.cut M s0 x ?_ ?_; (focus (dsimp -zeta only [x]; clear x)); rotate_left 1; clear_value x; revert x; intro _ _) | (have hh := fun a => x a; clear hh; dsimp -zeta only [x]; clear x) | (clear_value x; revert x; intro _) | (dsimp -zeta only [x]; clear x))
    | with_reducible refine updCell_same ?_ (Same.sub hm rfl)
    | split

theorem testCompleteOp_same {M : Nat} {s0 : State} {a0 a1 a2} (h2 : Same M s0 a2) (hm : 272 ||| M = M) :
    Same M s0 (testCompleteOp a0 a1 a2) := by
  unfold testCompleteOp
  repeat' first
    | with_reducible assumption
    | (extract_lets +onlyGivenNames x; first | (refine Same.cut M s0 x ?_ ?_; (focus (dsimp -zeta only [x]; clear x)); rotate_left 1; clear_value x; revert x; intro _ _) | (have hh := fun a => x a; clear hh; dsimp -zeta only [x]; clear x) | (clear_value x; revert x; intro _) | (dsimp -zeta only [x]; clear x))
    | with_reducible refine endTest_same ?_ (Same.sub hm rfl)
    | split

theorem execCellTestComplete_same {M : Nat} {s0 : State} {a0 a1 a2} (h2 : Same M s0 a2) (hm : 272 ||| M = M) :
    OutSame M s0 (execCellTestComplete a0 a1 a2) := by
  unfold execCellTestComplete
  repeat' first
    | with_reducible assumption
    | with_reducible refine OutSame.next ?_
    | with_reducible refine testCompleteOp_same ?_ (Same.sub hm rfl)
    | split

theorem testStartOp_same {M : Nat} {s0 : State} {a0 a1 a2 a3 a4} (h4 : Same M s0 a4) (hm : 312 ||| M = M) :
    Same M s0 (testStartOp a0 a1 a2 a3 a4) := by
  unfold testStartOp
  repeat' first
    | with_reducible assumption
    | (extract_lets +onlyGivenNames x; first | (refine Same.cut M s0 x ?_ ?_; (focus (dsimp -zeta only [x]; clear x)); rotate_left 1; clear_value x; revert x; intro _ _) | (have hh := fun a => x a; clear hh; dsimp -zeta only [x]; clear x) | (clear_value x; revert x; intro _) | (dsimp -zeta only [x]; clear x))
    | with_reducible refine endTest_same ?_ (Same.sub hm rfl)
    | with_reducible refine setPt_same ?_ (Same.sub hm rfl)
    | with_reducible refine setCtl_same ?_ (Same.sub hm rfl)
    | split
    | with_reducible refine Same.up_reply_trl ?_ (Same.sub hm rfl) (Same.sub hm rfl)
    | with_reducible refine Same.up_trl ?_ (Same.sub hm rfl)

theorem execCellTestStart_same {M : Nat} {s0 : State} {a0 a1 a2 a3 a4} (h4 : Same M s0 a4) (hm : 312 ||| M = M) :
    OutSame M s0 (execCellTestStart a0 a1 a2 a3 a4) := by
  unfold execCellTestStart
  repeat' first
    | with_reducible assumption
    | with_reducible refine OutSame.next ?_
    | with_reducible refine regCmd_same (fun x0 k0 => ?_) ?_ (Same.sub hm rfl)
    | with_reducible refine testStartOp_same ?_ (Same.sub hm rfl)

theorem execCellTestStop_same {M : Nat} {s0 : State} {a0 a1} (h1 : Same M s0 a1) (hm : 312 ||| M = M) :
    OutSame M s0 (execCellTestStop a0 a1) := by
  unfold execCellTestStop
  repeat' first
    | with_reducible assumption
    | with_reducible refine OutSame.next ?_
    | with_reducible refine regCmd_same (fun x0 k0 => ?_) ?_ (Same.sub hm rfl)
    | with_reducible refine testStopOp_same ?_ (Same.sub hm rfl)

theorem execCellTestTimeout_same {M : Nat} {s0 : State} {a0} (h0 : Same M s0 a0) (hm : 272 ||| M = M) :
    OutSame M s0 (execCellTestTimeout a0) := by
  unfold execCellTestTimeout
  repeat' first
    | with_reducible assumption
    | (extract_lets +onlyGivenNames x; first | (refine Same.cut M s0 x ?_ ?_; (focus (dsimp -zeta only [x]; clear x)); rotate_left 1; clear_value x; revert x; intro _ _) | (have hh := fun a => x a; clear hh; dsimp -zeta only [x]; clear x) | (clear_value x; revert x; intro _) | (dsimp -zeta only [x]; clear x))
    | with_reducible refine OutSame.next ?_
    | with_reducible refine endTest_same ?_ (Same.sub hm rfl)
    | split

theorem execCountEdge_same {M : Nat} {s0 : State} {a0 a1 a2 a3} (h3 : Same M s0 a3) (hm : 260 ||| M = M) :
    OutSame M s0 (execCountEdge a0 a1 a2 a3) := by
  unfold execCountEdge
  repeat' first
    | with_reducible assumption
    | with_reducible refine OutSame.next ?_
    | with_reducible refine countOp_same ?_ (Same.sub hm rfl)
    | split

theorem execDiFilterElapsed_same {M : Nat} {s0 : State} {a0 a1} (h1 : Same M s0 a1) (hm : 256 ||| M = M) :
    OutSame M s0 (execDiFilterElapsed a0 a1) := by
  unfold execDiFilterElapsed
  repeat' first
    | with_reducible assumption
    | (extract_lets +onlyGivenNames x; first | (refine Same.cut M s0 x ?_ ?_; (focus (dsimp -zeta only [x]; clear x)); rotate_left 1; clear_value x; revert x; intro _ _) | (have hh := fun a => x a; clear hh; dsimp -zeta only [x]; clear x) | (clear_value x; revert x; intro _) | (dsimp -zeta only [x]; clear x))
    | with_reducible refine OutSame.next ?_
    | with_reducible refine updCell_same ?_ (Same.sub hm rfl)
    | split

theorem execDiSample_same {M : Nat} {s0 : State} {a0 a1 a2} (h2 : Same M s0 a2) (hm : 256 ||| M = M) :
    OutSame M s0 (execDiSample a0 a1 a2) := by
  unfold execDiSample
  repeat' first
    | with_reducible assumption
    | with_reducible refine OutSame.next ?_
    | with_reducible refine diSampleOp_same ?_ (Same.sub hm rfl)
    | split

theorem execDoShortTrip_same {M : Nat} {s0 : State} {a0 a1 a2} (h2 : Same M s0 a2) (hm : 256 ||| M = M) :
    OutSame M s0 (execDoShortTrip a0 a1 a2) := by
  unfold execDoShortTrip
  repeat' first
    | with_reducible assumption
    | (extract_lets +onlyGivenNames x; first | (refine Same.cut M s0 x ?_ ?_; (focus (dsimp -zeta only [x]; clear x)); rotate_left 1; clear_value x; revert x; intro _ _) | (have hh := fun a => x a; clear hh; dsimp -zeta only [x]; clear x) | (clear_value x; revert x; intro _) | (dsimp -zeta only [x]; clear x))
    | with_reducible refine OutSame.next ?_
    | with_reducible refine updCell_same ?_ (Same.sub hm rfl)
    | split

theorem execDoTripRetry_same {M : Nat} {s0 : State} {a0 a1} (h1 : Same M s0 a1) (hm : 1048832 ||| M = M) :
    OutSame M s0 (execDoTripRetry a0 a1) := by
  unfold execDoTripRetry
  repeat' first
    | with_reducible assumption
    | (extract_lets +onlyGivenNames x; first | (refine Same.cut M s0 x ?_ ?_; (focus (dsimp -zeta only [x]; clear x)); rotate_left 1; clear_value x; revert x; intro _ _) | (have hh := fun a => x a; clear hh; dsimp -zeta only [x]; clear x) | (clear_value x; revert x; intro _) | (dsimp -zeta only [x]; clear x))
    | with_reducible refine OutSame.next ?_
    | with_reducible refine queueStart_same ?_ (Same.sub hm rfl)
    | with_reducible refine updCell_same ?_ (Same.sub hm rfl)
    | split

theorem updPtBank_same {M : Nat} {s0 : State} {a0 a1 a2} (h2 : Same M s0 a2) (hm : 256 ||| M = M) :
    Same M s0 (updPtBank a0 a1 a2) := by
  unfold updPtBank
  repeat' first
    | with_reducible assumption
    | (extract_lets +onlyGivenNames x; first | (refine Same.cut M s0 x ?_ ?_; (focus (dsimp -zeta only [x]; clear x)); rotate_left 1; clear_value x; revert x; intro _ _) | (have hh := fun a => x a; clear hh; dsimp -zeta only [x]; clear x) | (clear_value x; revert x; intro _) | (dsimp -zeta only [x]; clear x))
    | split
    | with_reducible refine Same.up_trl ?_ (Same.sub hm rfl)

theorem snapshotOp_same {M : Nat} {s0 : State} {a0 a1 a2} (h2 : Same M s0 a2) (hm : 304 ||| M = M) :
    Same M s0 (snapshotOp a0 a1 a2) := by
  unfold snapshotOp
  repeat' first
    | with_reducible assumption
    | with_reducible refine updPtBank_same ?_ (Same.sub hm rfl)
    | with_reducible refine denied_same ?_ (Same.sub hm rfl)
    | split

theorem execPointSnapshot_same {M : Nat} {s0 : State} {a0 a1 a2} (h2 : Same M s0 a2) (hm : 312 ||| M = M) :
    OutSame M s0 (execPointSnapshot a0 a1 a2) := by
  unfold execPointSnapshot
  repeat' first
    | with_reducible assumption
    | with_reducible refine OutSame.next ?_
    | with_reducible refine regCmd_same (fun x0 k0 => ?_) ?_ (Same.sub hm rfl)
    | with_reducible refine snapshotOp_same ?_ (Same.sub hm rfl)

theorem partWriteOp_same {M : Nat} {s0 : State} {a0 a1 a2 a3} (h3 : Same M s0 a3) (hm : 1147184 ||| M = M) :
    Same M s0 (partWriteOp a0 a1 a2 a3) := by
  unfold partWriteOp
  repeat' first
    | with_reducible assumption
    | (extract_lets +onlyGivenNames x; first | (refine Same.cut M s0 x ?_ ?_; (focus (dsimp -zeta only [x]; clear x)); rotate_left 1; clear_value x; revert x; intro _ _) | (have hh := fun a => x a; clear hh; dsimp -zeta only [x]; clear x) | (clear_value x; revert x; intro _) | (dsimp -zeta only [x]; clear x))
    | with_reducible refine updPtBank_same ?_ (Same.sub hm rfl)
    | with_reducible refine refuseWrite_same ?_ (Same.sub hm rfl)
    | with_reducible refine putEntry_same ?_ (Same.sub hm rfl)
    | split

theorem execPartitionPointWrite_same {M : Nat} {s0 : State} {a0 a1 a2 a3} (h3 : Same M s0 a3) (hm : 1147192 ||| M = M) :
    OutSame M s0 (execPartitionPointWrite a0 a1 a2 a3) := by
  unfold execPartitionPointWrite
  repeat' first
    | with_reducible assumption
    | with_reducible refine OutSame.next ?_
    | with_reducible refine regCmd_same (fun x0 k0 => ?_) ?_ (Same.sub hm rfl)
    | with_reducible refine partWriteOp_same ?_ (Same.sub hm rfl)

theorem fsupLowOp_same {M : Nat} {s0 : State} {a0 a1} (h1 : Same M s0 a1) (hm : 1048832 ||| M = M) :
    Same M s0 (fsupLowOp a0 a1) := by
  unfold fsupLowOp
  repeat' first
    | with_reducible assumption
    | (extract_lets +onlyGivenNames x; first | (refine Same.cut M s0 x ?_ ?_; (focus (dsimp -zeta only [x]; clear x)); rotate_left 1; clear_value x; revert x; intro _ _) | (have hh := fun a => x a; clear hh; dsimp -zeta only [x]; clear x) | (clear_value x; revert x; intro _) | (dsimp -zeta only [x]; clear x))
    | with_reducible refine unqueueStart_same ?_ (Same.sub hm rfl)
    | with_reducible refine updCell_same ?_ (Same.sub hm rfl)
    | with_reducible refine Same.foldl (fun _ _ _ => ?_) ?_
    | split
    | with_reducible refine Same.up_trl ?_ (Same.sub hm rfl)

theorem execGroupFsupLow_same {M : Nat} {s0 : State} {a0 a1 a2} (h2 : Same M s0 a2) (hm : 1048832 ||| M = M) :
    OutSame M s0 (execGroupFsupLow a0 a1 a2) := by
  unfold execGroupFsupLow
  repeat' first
    | with_reducible assumption
    | with_reducible refine OutSame.next ?_
    | with_reducible refine fsupLowOp_same ?_ (Same.sub hm rfl)
    | split

theorem fsupRestoredOp_same {M : Nat} {s0 : State} {a0 a1} (h1 : Same M s0 a1) (hm : 1048832 ||| M = M) :
    Same M s0 (fsupRestoredOp a0 a1) := by
  unfold fsupRestoredOp
  repeat' first
    | with_reducible assumption
    | (extract_lets +onlyGivenNames x; first | (refine Same.cut M s0 x ?_ ?_; (focus (dsimp -zeta only [x]; clear x)); rotate_left 1; clear_value x; revert x; intro _ _) | (have hh := fun a => x a; clear hh; dsimp -zeta only [x]; clear x) | (clear_value x; revert x; intro _) | (dsimp -zeta only [x]; clear x))
    | with_reducible refine queueStart_same ?_ (Same.sub hm rfl)
    | with_reducible refine updCell_same ?_ (Same.sub hm rfl)
    | with_reducible refine Same.foldl (fun _ _ _ => ?_) ?_
    | split
    | with_reducible refine Same.up_trl ?_ (Same.sub hm rfl)

theorem execGroupFsupRestored_same {M : Nat} {s0 : State} {a0 a1 a2 a3} (h3 : Same M s0 a3) (hm : 1048832 ||| M = M) :
    OutSame M s0 (execGroupFsupRestored a0 a1 a2 a3) := by
  unfold execGroupFsupRestored
  repeat' first
    | with_reducible assumption
    | with_reducible refine OutSame.next ?_
    | with_reducible refine fsupRestoredOp_same ?_ (Same.sub hm rfl)
    | split

theorem turnOffOp_same {M : Nat} {s0 : State} {a0 a1} (h1 : Same M s0 a1) (hm : 1048832 ||| M = M) :
    Same M s0 (turnOffOp a0 a1) := by
  unfold turnOffOp
  repeat' first
    | with_reducible assumption
    | (extract_lets +onlyGivenNames x; first | (refine Same.cut M s0 x ?_ ?_; (focus (dsimp -zeta only [x]; clear x)); rotate_left 1; clear_value x; revert x; intro _ _) | (have hh := fun a => x a; clear hh; dsimp -zeta only [x]; clear x) | (clear_value x; revert x; intro _) | (dsimp -zeta only [x]; clear x))
    | with_reducible refine unqueueStart_same ?_ (Same.sub hm rfl)
    | with_reducible refine updCell_same ?_ (Same.sub hm rfl)
    | split

theorem execOutputTurnOff_same {M : Nat} {s0 : State} {a0 a1} (h1 : Same M s0 a1) (hm : 1048832 ||| M = M) :
    OutSame M s0 (execOutputTurnOff a0 a1) := by
  unfold execOutputTurnOff
  repeat' first
    | with_reducible assumption
    | with_reducible refine OutSame.next ?_
    | with_reducible refine turnOffOp_same ?_ (Same.sub hm rfl)
    | split

theorem pwmEdgeOp_same {M : Nat} {s0 : State} {a0 a1} (h1 : Same M s0 a1) (hm : 256 ||| M = M) :
    Same M s0 (pwmEdgeOp a0 a1) := by
  unfold pwmEdgeOp
  repeat' first
    | with_reducible assumption
    | (extract_lets +onlyGivenNames x; first | (refine Same.cut M s0 x ?_ ?_; (focus (dsimp -zeta only [x]; clear x)); rotate_left 1; clear_value x; revert x; intro _ _) | (have hh := fun a => x a; clear hh; dsimp -zeta only [x]; clear x) | (clear_value x; revert x; intro _) | (dsimp -zeta only [x]; clear x))
    | with_reducible refine updCell_same ?_ (Same.sub hm rfl)
    | split

theorem execPwmPhaseEdge_same {M : Nat} {s0 : State} {a0 a1} (h1 : Same M s0 a1) (hm : 256 ||| M = M) :
    OutSame M s0 (execPwmPhaseEdge a0 a1) := by
  unfold execPwmPhaseEdge
  repeat' first
    | with_reducible assumption
    | with_reducible refine OutSame.next ?_
    | with_reducible refine pwmEdgeOp_same ?_ (Same.sub hm rfl)
    | split

theorem execStartRelease_same {M : Nat} {s0 : State} {a0 a1} (h1 : Same M s0 a1) (hm : 1048832 ||| M = M) :
    OutSame M s0 (execStartRelease a0 a1) := by
  unfold execStartRelease
  repeat' first
    | with_reducible assumption
    | (extract_lets +onlyGivenNames x; first | (refine Same.cut M s0 x ?_ ?_; (focus (dsimp -zeta only [x]; clear x)); rotate_left 1; clear_value x; revert x; intro _ _) | (have hh := fun a => x a; clear hh; dsimp -zeta only [x]; clear x) | (clear_value x; revert x; intro _) | (dsimp -zeta only [x]; clear x))
    | with_reducible refine OutSame.next ?_
    | with_reducible refine updCell_same ?_ (Same.sub hm rfl)
    | split
    | with_reducible refine Same.up_pwr ?_ (Same.sub hm rfl)

theorem writeCell_same {M : Nat} {s0 : State} {a0 a1 a2 a3 a4 a5} (h5 : Same M s0 a5) (hm : 1147184 ||| M = M) :
    Same M s0 (writeCell a0 a1 a2 a3 a4 a5) := by
  unfold writeCell
  repeat' first
    | with_reducible assumption
    | with_reducible refine writeQ_same ?_ (Same.sub hm rfl)
    | split

theorem scanIn_same {M : Nat} {s0 : State} {a0 a1 a2} (h2 : Same M s0 a2) (hm : 1147184 ||| M = M) :
    Same M s0 (scanIn a0 a1 a2) := by
  unfold scanIn
  repeat' first
    | with_reducible assumption
    | (extract_lets +onlyGivenNames x; first | (refine Same.cut M s0 x ?_ ?_; (focus (dsimp -zeta only [x]; clear x)); rotate_left 1; clear_value x; revert x; intro _ _) | (have hh := fun a => x a; clear hh; dsimp -zeta only [x]; clear x) | (clear_value x; revert x; intro _) | (dsimp -zeta only [x]; clear x))
    | with_reducible refine updCell_same ?_ (Same.sub hm rfl)
    | with_reducible refine writeCell_same ?_ (Same.sub hm rfl)
    | split

theorem scanOut_same {M : Nat} {s0 : State} {a0 a1 a2} (h2 : Same M s0 a2) (hm : 1147184 ||| M = M) :
    Same M s0 (scanOut a0 a1 a2) := by
  unfold scanOut
  repeat' first
    | with_reducible assumption
    | (extract_lets +onlyGivenNames x; first | (refine Same.cut M s0 x ?_ ?_; (focus (dsimp -zeta only [x]; clear x)); rotate_left 1; clear_value x; revert x; intro _ _) | (have hh := fun a => x a; clear hh; dsimp -zeta only [x]; clear x) | (clear_value x; revert x; intro _) | (dsimp -zeta only [x]; clear x))
    | with_reducible refine updCell_same ?_ (Same.sub hm rfl)
    | with_reducible refine writeCell_same ?_ (Same.sub hm rfl)
    | split

theorem runSlot_same {M : Nat} {s0 : State} {a0 a1 a2} (h2 : Same M s0 a2) (hm : 1147184 ||| M = M) :
    Same M s0 (runSlot a0 a1 a2) := by
  unfold runSlot
  repeat' first
    | with_reducible assumption
    | (extract_lets +onlyGivenNames x; first | (refine Same.cut M s0 x ?_ ?_; (focus (dsimp -zeta only [x]; clear x)); rotate_left 1; clear_value x; revert x; intro _ _) | (have hh := fun a => x a; clear hh; dsimp -zeta only [x]; clear x) | (clear_value x; revert x; intro _) | (dsimp -zeta only [x]; clear x))
    | with_reducible refine scanIn_same ?_ (Same.sub hm rfl)
    | with_reducible refine applyOutput_same ?_ (Same.sub hm rfl)
    | with_reducible refine scanOut_same ?_ (Same.sub hm rfl)
    | split
    | with_reducible refine Same.up_trl ?_ (Same.sub hm rfl)

theorem releaseStarts_same {M : Nat} {s0 : State} {a0 a1} (h1 : Same M s0 a1) (hm : 1048832 ||| M = M) :
    Same M s0 (releaseStarts a0 a1) := by
  unfold releaseStarts
  repeat' first
    | with_reducible assumption
    | (extract_lets +onlyGivenNames x; first | (refine Same.cut M s0 x ?_ ?_; (focus (dsimp -zeta only [x]; clear x)); rotate_left 1; clear_value x; revert x; intro _ _) | (have hh := fun a => x a; clear hh; dsimp -zeta only [x]; clear x) | (clear_value x; revert x; intro _) | (dsimp -zeta only [x]; clear x))
    | with_reducible refine updCell_same ?_ (Same.sub hm rfl)
    | with_reducible refine Same.foldl (fun _ _ _ => ?_) ?_
    | split
    | with_reducible refine Same.up_pwr ?_ (Same.sub hm rfl)

theorem startStep_same {M : Nat} {s0 : State} {a0 a1} (h1 : Same M s0 a1) (hm : 1048848 ||| M = M) :
    Same M s0 (startStep a0 a1) := by
  unfold startStep
  repeat' first
    | with_reducible assumption
    | (extract_lets +onlyGivenNames x; first | (refine Same.cut M s0 x ?_ ?_; (focus (dsimp -zeta only [x]; clear x)); rotate_left 1; clear_value x; revert x; intro _ _) | (have hh := fun a => x a; clear hh; dsimp -zeta only [x]; clear x) | (clear_value x; revert x; intro _) | (dsimp -zeta only [x]; clear x))
    | with_reducible refine releaseStarts_same ?_ (Same.sub hm rfl)
    | with_reducible refine admitPass_same ?_ (Same.sub hm rfl)
    | split

theorem freeReleased_same {M : Nat} {s0 : State} {a0} (h0 : Same M s0 a0) (hm : 131072 ||| M = M) :
    Same M s0 (freeReleased a0) := by
  unfold freeReleased
  repeat' first
    | with_reducible assumption
    | (extract_lets +onlyGivenNames x; first | (refine Same.cut M s0 x ?_ ?_; (focus (dsimp -zeta only [x]; clear x)); rotate_left 1; clear_value x; revert x; intro _ _) | (have hh := fun a => x a; clear hh; dsimp -zeta only [x]; clear x) | (clear_value x; revert x; intro _) | (dsimp -zeta only [x]; clear x))
    | with_reducible refine Same.foldl (fun _ _ _ => ?_) ?_
    | split
    | with_reducible refine Same.up_net ?_ (Same.sub hm rfl)

theorem frameOp_same {M : Nat} {s0 : State} {a0 a1 a2} (h2 : Same M s0 a2) (hm : 1278260 ||| M = M) :
    Same M s0 (frameOp a0 a1 a2) := by
  unfold frameOp
  repeat' first
    | with_reducible assumption
    | (extract_lets +onlyGivenNames x; first | (refine Same.cut M s0 x ?_ ?_; (focus (dsimp -zeta only [x]; clear x)); rotate_left 1; clear_value x; revert x; intro _ _) | (have hh := fun a => x a; clear hh; dsimp -zeta only [x]; clear x) | (clear_value x; revert x; intro _) | (dsimp -zeta only [x]; clear x))
    | with_reducible refine runSlot_same ?_ (Same.sub hm rfl)
    | with_reducible refine startStep_same ?_ (Same.sub hm rfl)
    | with_reducible refine freeReleased_same ?_ (Same.sub hm rfl)
    | with_reducible refine bumpFree_same ?_ (Same.sub hm rfl)
    | with_reducible refine activatePending_same ?_ (Same.sub hm rfl)
    | with_reducible refine calibrateGroup_same ?_ (Same.sub hm rfl)
    | with_reducible refine Same.foldl (fun _ _ _ => ?_) ?_
    | split
    | with_reducible refine Same.up_trl ?_ (Same.sub hm rfl)

theorem execTrellisFrame_same {M : Nat} {s0 : State} {a0 a1 a2} (h2 : Same M s0 a2) (hm : 1278260 ||| M = M) :
    OutSame M s0 (execTrellisFrame a0 a1 a2) := by
  unfold execTrellisFrame
  repeat' first
    | with_reducible assumption
    | with_reducible refine OutSame.next ?_
    | with_reducible refine frameOp_same ?_ (Same.sub hm rfl)
    | split

end Sys2Proof.Machine
end

