-- ==== Sys2Proof/Laws/FramePowerOps.lean ====
section
/-!
SUPPORT. FramePowerOps.lean: for each operation of Machine/PowerOps.lean, the components of State it can change: the result agrees with the
state it starts from on every component whose bit in the mask is 0 (the bits as in `Same`).
-/
namespace Sys2Proof.Machine
set_option linter.all false

theorem abortDone_same {M : Nat} {s0 : State} {a0 a1} (h1 : Same M s0 a1) (hm : 1048576 ||| M = M) :
    Same M s0 (abortDone a0 a1) := by
  unfold abortDone
  repeat' first
    | with_reducible assumption
    | (extract_lets +onlyGivenNames x; first | (refine Same.cut M s0 x ?_ ?_; (focus (dsimp -zeta only [x]; clear x)); rotate_left 1; clear_value x; revert x; intro _ _) | (have hh := fun a => x a; clear hh; dsimp -zeta only [x]; clear x) | (clear_value x; revert x; intro _) | (dsimp -zeta only [x]; clear x))
    | split
    | with_reducible refine Same.up_pwr ?_ (Same.sub hm rfl)

theorem abortTarget_same {M : Nat} {s0 : State} {a0 a1 a2 a3} (h2 : ∀ x0, Same M s0 x0 → Same M s0 (a2 x0)) (h3 : Same M s0 a3) (hm : 1048576 ||| M = M) :
    Same M s0 (abortTarget a0 a1 a2 a3) := by
  unfold abortTarget
  repeat' first
    | with_reducible assumption
    | with_reducible refine h2 _ ?_
    | with_reducible refine abortDone_same ?_ (Same.sub hm rfl)
    | split

theorem abortCmd_same {M : Nat} {s0 : State} {a0 a1 a2 a3 a4} (h3 : ∀ x0, Same M s0 x0 → Same M s0 (a3 x0)) (h4 : Same M s0 a4) (hm : 1048632 ||| M = M) :
    OutSame M s0 (abortCmd a0 a1 a2 a3 a4) := by
  unfold abortCmd
  repeat' first
    | with_reducible assumption
    | with_reducible refine OutSame.next ?_
    | with_reducible refine h3 _ ?_
    | with_reducible refine regCmd_same (fun x0 k0 => ?_) ?_ (Same.sub hm rfl)
    | with_reducible refine abortTarget_same (fun x0 k0 => ?_) ?_ (Same.sub hm rfl)
    | split

theorem execTrellisAbort_same {M : Nat} {s0 : State} {a0 a1} (h1 : Same M s0 a1) (hm : 1048888 ||| M = M) :
    OutSame M s0 (execTrellisAbort a0 a1) := by
  unfold execTrellisAbort
  repeat' first
    | with_reducible assumption
    | with_reducible refine OutSame.next ?_
    | with_reducible refine testStopOp_same ?_ (Same.sub hm rfl)
    | with_reducible refine abortCmd_same (fun x0 k0 => ?_) ?_ (Same.sub hm rfl)

theorem queueWake_same {M : Nat} {s0 : State} {a0 a1 a2} (h2 : Same M s0 a2) (hm : 1048576 ||| M = M) :
    Same M s0 (queueWake a0 a1 a2) := by
  unfold queueWake
  repeat' first
    | with_reducible assumption
    | (extract_lets +onlyGivenNames x; first | (refine Same.cut M s0 x ?_ ?_; (focus (dsimp -zeta only [x]; clear x)); rotate_left 1; clear_value x; revert x; intro _ _) | (have hh := fun a => x a; clear hh; dsimp -zeta only [x]; clear x) | (clear_value x; revert x; intro _) | (dsimp -zeta only [x]; clear x))
    | split
    | with_reducible refine Same.up_pwr ?_ (Same.sub hm rfl)

end Sys2Proof.Machine
end

