-- ==== Sys2Proof/Laws/FrameEgress.lean ====
section
/-!
SUPPORT. FrameEgress.lean: for each operation of Machine/Egress.lean, the components of State it can change: the result agrees with the
state it starts from on every component whose bit in the mask is 0 (the bits as in `Same`).
-/
namespace Sys2Proof.Machine
set_option linter.all false

theorem nextHsr_same {M : Nat} {s0 : State} {a0} (h0 : Same M s0 a0) (hm : 131072 ||| M = M) :
    Same M s0 (nextHsr a0) := by
  unfold nextHsr
  repeat' first
    | with_reducible assumption
    | (extract_lets +onlyGivenNames x; first | (refine Same.cut M s0 x ?_ ?_; (focus (dsimp -zeta only [x]; clear x)); rotate_left 1; clear_value x; revert x; intro _ _) | (have hh := fun a => x a; clear hh; dsimp -zeta only [x]; clear x) | (clear_value x; revert x; intro _) | (dsimp -zeta only [x]; clear x))
    | with_reducible refine Same.up_net ?_ (Same.sub hm rfl)

theorem sendBoth_same {M : Nat} {s0 : State} {a0 a1 a2} (h0 : ∀ x0 x1 x2, Same M s0 x2 → Same M s0 (a0 x0 x1 x2)) (h2 : Same M s0 a2) (hm : 131072 ||| M = M) :
    Same M s0 (sendBoth a0 a1 a2) := by
  unfold sendBoth
  repeat' first
    | with_reducible assumption
    | with_reducible refine h0 _ _ _ ?_
    | with_reducible refine nextHsr_same ?_ (Same.sub hm rfl)

theorem updPort_same {M : Nat} {s0 : State} {a0 a1 a2} (h2 : Same M s0 a2) (hm : 131072 ||| M = M) :
    Same M s0 (updPort a0 a1 a2) := by
  unfold updPort
  repeat' first
    | with_reducible assumption
    | (extract_lets +onlyGivenNames x; first | (refine Same.cut M s0 x ?_ ?_; (focus (dsimp -zeta only [x]; clear x)); rotate_left 1; clear_value x; revert x; intro _ _) | (have hh := fun a => x a; clear hh; dsimp -zeta only [x]; clear x) | (clear_value x; revert x; intro _) | (dsimp -zeta only [x]; clear x))
    | split
    | with_reducible refine Same.up_net ?_ (Same.sub hm rfl)

theorem egressTo_same {M : Nat} {s0 : State} {a0 a1 a2} (h2 : Same M s0 a2) (hm : 131072 ||| M = M) :
    Same M s0 (egressTo a0 a1 a2) := by
  unfold egressTo
  repeat' first
    | with_reducible assumption
    | with_reducible refine updPort_same ?_ (Same.sub hm rfl)
    | split

theorem queue3_same {M : Nat} {s0 : State} {a0 a1 a2 a3} (h3 : Same M s0 a3) (hm : 131072 ||| M = M) :
    Same M s0 (queue3 a0 a1 a2 a3) := by
  unfold queue3
  repeat' first
    | with_reducible assumption
    | with_reducible refine egressTo_same ?_ (Same.sub hm rfl)
    | split

theorem queue1_same {M : Nat} {s0 : State} {a0 a1 a2} (h2 : Same M s0 a2) (hm : 131072 ||| M = M) :
    Same M s0 (queue1 a0 a1 a2) := by
  unfold queue1
  repeat' first
    | with_reducible assumption
    | with_reducible refine egressTo_same ?_ (Same.sub hm rfl)

theorem queueEvent_same {M : Nat} {s0 : State} {a0 a1 a2} (h2 : Same M s0 a2) (hm : 131072 ||| M = M) :
    Same M s0 (queueEvent a0 a1 a2) := by
  unfold queueEvent
  repeat' first
    | with_reducible assumption
    | (extract_lets +onlyGivenNames x; first | (refine Same.cut M s0 x ?_ ?_; (focus (dsimp -zeta only [x]; clear x)); rotate_left 1; clear_value x; revert x; intro _ _) | (have hh := fun a => x a; clear hh; dsimp -zeta only [x]; clear x) | (clear_value x; revert x; intro _) | (dsimp -zeta only [x]; clear x))
    | with_reducible refine egressTo_same ?_ (Same.sub hm rfl)
    | split

theorem queue2_same {M : Nat} {s0 : State} {a0 a1 a2} (h2 : Same M s0 a2) (hm : 131072 ||| M = M) :
    Same M s0 (queue2 a0 a1 a2) := by
  unfold queue2
  repeat' first
    | with_reducible assumption
    | with_reducible refine egressTo_same ?_ (Same.sub hm rfl)

end Sys2Proof.Machine
end

