-- ==== Sys2Proof/Laws/FramePgeOps.lean ====
section
/-!
SUPPORT. FramePgeOps.lean: for each operation of Machine/PgeOps.lean, the components of State it can change: the result agrees with the
state it starts from on every component whose bit in the mask is 0 (the bits as in `Same`).
-/
namespace Sys2Proof.Machine
set_option linter.all false

theorem dropLater_same {M : Nat} {s0 : State} {a0 a1 a2} (h2 : Same M s0 a2) (hm : 512 ||| M = M) :
    Same M s0 (dropLater a0 a1 a2) := by
  unfold dropLater
  repeat' first
    | with_reducible assumption
    | (extract_lets +onlyGivenNames x; first | (refine Same.cut M s0 x ?_ ?_; (focus (dsimp -zeta only [x]; clear x)); rotate_left 1; clear_value x; revert x; intro _ _) | (have hh := fun a => x a; clear hh; dsimp -zeta only [x]; clear x) | (clear_value x; revert x; intro _) | (dsimp -zeta only [x]; clear x))
    | split
    | with_reducible refine Same.up_pge ?_ (Same.sub hm rfl)

theorem updPCask_same {M : Nat} {s0 : State} {a0 a1 a2} (h2 : Same M s0 a2) (hm : 512 ||| M = M) :
    Same M s0 (updPCask a0 a1 a2) := by
  unfold updPCask
  repeat' first
    | with_reducible assumption
    | (extract_lets +onlyGivenNames x; first | (refine Same.cut M s0 x ?_ ?_; (focus (dsimp -zeta only [x]; clear x)); rotate_left 1; clear_value x; revert x; intro _ _) | (have hh := fun a => x a; clear hh; dsimp -zeta only [x]; clear x) | (clear_value x; revert x; intro _) | (dsimp -zeta only [x]; clear x))
    | split
    | with_reducible refine Same.up_pge ?_ (Same.sub hm rfl)

theorem stopCaskOp_same {M : Nat} {s0 : State} {a0 a1} (h1 : Same M s0 a1) (hm : 512 ||| M = M) :
    Same M s0 (stopCaskOp a0 a1) := by
  unfold stopCaskOp
  repeat' first
    | with_reducible assumption
    | with_reducible refine updPCask_same ?_ (Same.sub hm rfl)
    | split

theorem endErrorRun_same {M : Nat} {s0 : State} {a0 a1 a2 a3} (h3 : Same M s0 a3) (hm : 512 ||| M = M) :
    Same M s0 (endErrorRun a0 a1 a2 a3) := by
  unfold endErrorRun
  repeat' first
    | with_reducible assumption
    | (extract_lets +onlyGivenNames x; first | (refine Same.cut M s0 x ?_ ?_; (focus (dsimp -zeta only [x]; clear x)); rotate_left 1; clear_value x; revert x; intro _ _) | (have hh := fun a => x a; clear hh; dsimp -zeta only [x]; clear x) | (clear_value x; revert x; intro _) | (dsimp -zeta only [x]; clear x))
    | with_reducible refine updPCask_same ?_ (Same.sub hm rfl)
    | with_reducible refine stopCaskOp_same ?_ (Same.sub hm rfl)
    | split

theorem updTask_same {M : Nat} {s0 : State} {a0 a1 a2} (h2 : Same M s0 a2) (hm : 512 ||| M = M) :
    Same M s0 (updTask a0 a1 a2) := by
  unfold updTask
  repeat' first
    | with_reducible assumption
    | (extract_lets +onlyGivenNames x; first | (refine Same.cut M s0 x ?_ ?_; (focus (dsimp -zeta only [x]; clear x)); rotate_left 1; clear_value x; revert x; intro _ _) | (have hh := fun a => x a; clear hh; dsimp -zeta only [x]; clear x) | (clear_value x; revert x; intro _) | (dsimp -zeta only [x]; clear x))
    | split
    | with_reducible refine Same.up_pge ?_ (Same.sub hm rfl)

theorem updProc_same {M : Nat} {s0 : State} {a0 a1 a2} (h2 : Same M s0 a2) (hm : 512 ||| M = M) :
    Same M s0 (updProc a0 a1 a2) := by
  unfold updProc
  repeat' first
    | with_reducible assumption
    | (extract_lets +onlyGivenNames x; first | (refine Same.cut M s0 x ?_ ?_; (focus (dsimp -zeta only [x]; clear x)); rotate_left 1; clear_value x; revert x; intro _ _) | (have hh := fun a => x a; clear hh; dsimp -zeta only [x]; clear x) | (clear_value x; revert x; intro _) | (dsimp -zeta only [x]; clear x))
    | split
    | with_reducible refine Same.up_pge ?_ (Same.sub hm rfl)

theorem freeProc_same {M : Nat} {s0 : State} {a0 a1} (h1 : Same M s0 a1) (hm : 512 ||| M = M) :
    Same M s0 (freeProc a0 a1) := by
  unfold freeProc
  repeat' first
    | with_reducible assumption
    | with_reducible refine updProc_same ?_ (Same.sub hm rfl)

theorem freeItem_same {M : Nat} {s0 : State} {a0 a1} (h1 : Same M s0 a1) (hm : 512 ||| M = M) :
    Same M s0 (freeItem a0 a1) := by
  unfold freeItem
  repeat' first
    | with_reducible assumption
    | (extract_lets +onlyGivenNames x; first | (refine Same.cut M s0 x ?_ ?_; (focus (dsimp -zeta only [x]; clear x)); rotate_left 1; clear_value x; revert x; intro _ _) | (have hh := fun a => x a; clear hh; dsimp -zeta only [x]; clear x) | (clear_value x; revert x; intro _) | (dsimp -zeta only [x]; clear x))
    | with_reducible refine freeProc_same ?_ (Same.sub hm rfl)
    | split

theorem countOvr_same {M : Nat} {s0 : State} {a0 a1} (h1 : Same M s0 a1) (hm : 512 ||| M = M) :
    Same M s0 (countOvr a0 a1) := by
  unfold countOvr
  repeat' first
    | with_reducible assumption
    | with_reducible refine updTask_same ?_ (Same.sub hm rfl)

theorem raise_same {M : Nat} {s0 : State} {a0 a1 a2 a3 a4} (h4 : Same M s0 a4) (hm : 528 ||| M = M) :
    Same M s0 (raise a0 a1 a2 a3 a4) := by
  unfold raise
  repeat' first
    | with_reducible assumption
    | (extract_lets +onlyGivenNames x; first | (refine Same.cut M s0 x ?_ ?_; (focus (dsimp -zeta only [x]; clear x)); rotate_left 1; clear_value x; revert x; intro _ _) | (have hh := fun a => x a; clear hh; dsimp -zeta only [x]; clear x) | (clear_value x; revert x; intro _) | (dsimp -zeta only [x]; clear x))
    | with_reducible refine updPCask_same ?_ (Same.sub hm rfl)
    | with_reducible refine record_same ?_ (Same.sub hm rfl)
    | with_reducible refine stopCaskOp_same ?_ (Same.sub hm rfl)
    | split

theorem raiseFor_same {M : Nat} {s0 : State} {a0 a1 a2 a3} (h3 : Same M s0 a3) (hm : 528 ||| M = M) :
    Same M s0 (raiseFor a0 a1 a2 a3) := by
  unfold raiseFor
  repeat' first
    | with_reducible assumption
    | with_reducible refine raise_same ?_ (Same.sub hm rfl)

theorem releaseTask_same {M : Nat} {s0 : State} {a0 a1} (h1 : Same M s0 a1) (hm : 568 ||| M = M) :
    Same M s0 (releaseTask a0 a1) := by
  unfold releaseTask
  repeat' first
    | with_reducible assumption
    | (extract_lets +onlyGivenNames x; first | (refine Same.cut M s0 x ?_ ?_; (focus (dsimp -zeta only [x]; clear x)); rotate_left 1; clear_value x; revert x; intro _ _) | (have hh := fun a => x a; clear hh; dsimp -zeta only [x]; clear x) | (clear_value x; revert x; intro _) | (dsimp -zeta only [x]; clear x))
    | with_reducible refine countOvr_same ?_ (Same.sub hm rfl)
    | with_reducible refine updTask_same ?_ (Same.sub hm rfl)
    | with_reducible refine present_same ?_ (Same.sub hm rfl)
    | with_reducible refine raiseFor_same ?_ (Same.sub hm rfl)
    | split

theorem endCycle_same {M : Nat} {s0 : State} {a0 a1 a2} (h2 : Same M s0 a2) (hm : 568 ||| M = M) :
    Same M s0 (endCycle a0 a1 a2) := by
  unfold endCycle
  repeat' first
    | with_reducible assumption
    | (extract_lets +onlyGivenNames x; first | (refine Same.cut M s0 x ?_ ?_; (focus (dsimp -zeta only [x]; clear x)); rotate_left 1; clear_value x; revert x; intro _ _) | (have hh := fun a => x a; clear hh; dsimp -zeta only [x]; clear x) | (clear_value x; revert x; intro _) | (dsimp -zeta only [x]; clear x))
    | with_reducible refine dropLater_same ?_ (Same.sub hm rfl)
    | with_reducible refine endErrorRun_same ?_ (Same.sub hm rfl)
    | with_reducible refine updTask_same ?_ (Same.sub hm rfl)
    | with_reducible refine freeItem_same ?_ (Same.sub hm rfl)
    | with_reducible refine releaseTask_same ?_ (Same.sub hm rfl)
    | with_reducible refine raiseFor_same ?_ (Same.sub hm rfl)
    | with_reducible refine raise_same ?_ (Same.sub hm rfl)
    | with_reducible refine Same.foldl (fun _ _ _ => ?_) ?_
    | split

theorem abandon_same {M : Nat} {s0 : State} {a0 a1 a2 a3} (h3 : Same M s0 a3) (hm : 568 ||| M = M) :
    Same M s0 (abandon a0 a1 a2 a3) := by
  unfold abandon
  repeat' first
    | with_reducible assumption
    | with_reducible refine endCycle_same ?_ (Same.sub hm rfl)
    | with_reducible refine raiseFor_same ?_ (Same.sub hm rfl)

theorem takeHeld_same {M : Nat} {s0 : State} {a0 a1} (h1 : Same M s0 a1) (hm : 568 ||| M = M) :
    Same M s0 (takeHeld a0 a1) := by
  unfold takeHeld
  repeat' first
    | with_reducible assumption
    | (extract_lets +onlyGivenNames x; first | (refine Same.cut M s0 x ?_ ?_; (focus (dsimp -zeta only [x]; clear x)); rotate_left 1; clear_value x; revert x; intro _ _) | (have hh := fun a => x a; clear hh; dsimp -zeta only [x]; clear x) | (clear_value x; revert x; intro _) | (dsimp -zeta only [x]; clear x))
    | with_reducible refine updTask_same ?_ (Same.sub hm rfl)
    | with_reducible refine releaseTask_same ?_ (Same.sub hm rfl)
    | split

theorem failExchange_same {M : Nat} {s0 : State} {a0 a1 a2} (h2 : Same M s0 a2) (hm : 568 ||| M = M) :
    Same M s0 (failExchange a0 a1 a2) := by
  unfold failExchange
  repeat' first
    | with_reducible assumption
    | (extract_lets +onlyGivenNames x; first | (refine Same.cut M s0 x ?_ ?_; (focus (dsimp -zeta only [x]; clear x)); rotate_left 1; clear_value x; revert x; intro _ _) | (have hh := fun a => x a; clear hh; dsimp -zeta only [x]; clear x) | (clear_value x; revert x; intro _) | (dsimp -zeta only [x]; clear x))
    | with_reducible refine updTask_same ?_ (Same.sub hm rfl)
    | with_reducible refine freeItem_same ?_ (Same.sub hm rfl)
    | with_reducible refine updPCask_same ?_ (Same.sub hm rfl)
    | with_reducible refine record_same ?_ (Same.sub hm rfl)
    | with_reducible refine takeHeld_same ?_ (Same.sub hm rfl)
    | split

theorem updCyc_same {M : Nat} {s0 : State} {a0 a1 a2} (h2 : Same M s0 a2) (hm : 512 ||| M = M) :
    Same M s0 (updCyc a0 a1 a2) := by
  unfold updCyc
  repeat' first
    | with_reducible assumption
    | with_reducible refine updTask_same ?_ (Same.sub hm rfl)

theorem charge_same {M : Nat} {s0 : State} {a0 a1 a2 a3} (h3 : Same M s0 a3) (hm : 512 ||| M = M) :
    Same M s0 (charge a0 a1 a2 a3) := by
  unfold charge
  repeat' first
    | with_reducible assumption
    | (extract_lets +onlyGivenNames x; first | (refine Same.cut M s0 x ?_ ?_; (focus (dsimp -zeta only [x]; clear x)); rotate_left 1; clear_value x; revert x; intro _ _) | (have hh := fun a => x a; clear hh; dsimp -zeta only [x]; clear x) | (clear_value x; revert x; intro _) | (dsimp -zeta only [x]; clear x))
    | with_reducible refine updProc_same ?_ (Same.sub hm rfl)
    | split
    | with_reducible refine Same.up_pge ?_ (Same.sub hm rfl)

theorem setCtx_same {M : Nat} {s0 : State} {a0 a1 a2} (h2 : Same M s0 a2) (hm : 512 ||| M = M) :
    Same M s0 (setCtx a0 a1 a2) := by
  unfold setCtx
  repeat' first
    | with_reducible assumption
    | with_reducible refine updProc_same ?_ (Same.sub hm rfl)

theorem switchOut_same {M : Nat} {s0 : State} {a0 a1} (h1 : Same M s0 a1) (hm : 512 ||| M = M) :
    Same M s0 (switchOut a0 a1) := by
  unfold switchOut
  repeat' first
    | with_reducible assumption
    | (extract_lets +onlyGivenNames x; first | (refine Same.cut M s0 x ?_ ?_; (focus (dsimp -zeta only [x]; clear x)); rotate_left 1; clear_value x; revert x; intro _ _) | (have hh := fun a => x a; clear hh; dsimp -zeta only [x]; clear x) | (clear_value x; revert x; intro _) | (dsimp -zeta only [x]; clear x))
    | with_reducible refine updTask_same ?_ (Same.sub hm rfl)
    | with_reducible refine updCyc_same ?_ (Same.sub hm rfl)
    | with_reducible refine updProc_same ?_ (Same.sub hm rfl)
    | split

theorem startItem_same {M : Nat} {s0 : State} {a0 a1 a2} (h2 : Same M s0 a2) (hm : 512 ||| M = M) :
    Same M s0 (startItem a0 a1 a2) := by
  unfold startItem
  repeat' first
    | with_reducible assumption
    | (extract_lets +onlyGivenNames x; first | (refine Same.cut M s0 x ?_ ?_; (focus (dsimp -zeta only [x]; clear x)); rotate_left 1; clear_value x; revert x; intro _ _) | (have hh := fun a => x a; clear hh; dsimp -zeta only [x]; clear x) | (clear_value x; revert x; intro _) | (dsimp -zeta only [x]; clear x))
    | with_reducible refine updTask_same ?_ (Same.sub hm rfl)
    | with_reducible refine updCyc_same ?_ (Same.sub hm rfl)
    | with_reducible refine updProc_same ?_ (Same.sub hm rfl)
    | split

theorem maybeSwitch_same {M : Nat} {s0 : State} {a0} (h0 : Same M s0 a0) (hm : 512 ||| M = M) :
    Same M s0 (maybeSwitch a0) := by
  unfold maybeSwitch
  repeat' first
    | with_reducible assumption
    | (extract_lets +onlyGivenNames x; first | (refine Same.cut M s0 x ?_ ?_; (focus (dsimp -zeta only [x]; clear x)); rotate_left 1; clear_value x; revert x; intro _ _) | (have hh := fun a => x a; clear hh; dsimp -zeta only [x]; clear x) | (clear_value x; revert x; intro _) | (dsimp -zeta only [x]; clear x))
    | with_reducible refine switchOut_same ?_ (Same.sub hm rfl)
    | with_reducible refine startItem_same ?_ (Same.sub hm rfl)
    | with_reducible refine charge_same ?_ (Same.sub hm rfl)
    | split

theorem triggerTask_same {M : Nat} {s0 : State} {a0 a1} (h1 : Same M s0 a1) (hm : 568 ||| M = M) :
    Same M s0 (triggerTask a0 a1) := by
  unfold triggerTask
  repeat' first
    | with_reducible assumption
    | (extract_lets +onlyGivenNames x; first | (refine Same.cut M s0 x ?_ ?_; (focus (dsimp -zeta only [x]; clear x)); rotate_left 1; clear_value x; revert x; intro _ _) | (have hh := fun a => x a; clear hh; dsimp -zeta only [x]; clear x) | (clear_value x; revert x; intro _) | (dsimp -zeta only [x]; clear x))
    | with_reducible refine countOvr_same ?_ (Same.sub hm rfl)
    | with_reducible refine updTask_same ?_ (Same.sub hm rfl)
    | with_reducible refine releaseTask_same ?_ (Same.sub hm rfl)
    | with_reducible refine raiseFor_same ?_ (Same.sub hm rfl)
    | split

end Sys2Proof.Machine
end

