-- ==== Sys2Proof/Laws/FrameStation.lean ====
section
/-!
SUPPORT. FrameStation.lean: for each operation of Machine/Station.lean, the components of State it can change: the result agrees with the
state it starts from on every component whose bit in the mask is 0 (the bits as in `Same`).
-/
namespace Sys2Proof.Machine
set_option linter.all false

theorem updStn_same {M : Nat} {s0 : State} {a0 a1 a2} (h2 : Same M s0 a2) (hm : 32768 ||| M = M) :
    Same M s0 (updStn a0 a1 a2) := by
  unfold updStn
  repeat' first
    | with_reducible assumption
    | (extract_lets +onlyGivenNames x; first | (refine Same.cut M s0 x ?_ ?_; (focus (dsimp -zeta only [x]; clear x)); rotate_left 1; clear_value x; revert x; intro _ _) | (have hh := fun a => x a; clear hh; dsimp -zeta only [x]; clear x) | (clear_value x; revert x; intro _) | (dsimp -zeta only [x]; clear x))
    | split
    | with_reducible refine Same.up_stn ?_ (Same.sub hm rfl)

theorem checkProven_same {M : Nat} {s0 : State} {a0 a1} (h1 : Same M s0 a1) (hm : 32784 ||| M = M) :
    Same M s0 (checkProven a0 a1) := by
  unfold checkProven
  repeat' first
    | with_reducible assumption
    | (extract_lets +onlyGivenNames x; first | (refine Same.cut M s0 x ?_ ?_; (focus (dsimp -zeta only [x]; clear x)); rotate_left 1; clear_value x; revert x; intro _ _) | (have hh := fun a => x a; clear hh; dsimp -zeta only [x]; clear x) | (clear_value x; revert x; intro _) | (dsimp -zeta only [x]; clear x))
    | with_reducible refine updStn_same ?_ (Same.sub hm rfl)
    | with_reducible refine record_same ?_ (Same.sub hm rfl)
    | split

theorem statusTrue_same {M : Nat} {s0 : State} {a0 a1} (h1 : Same M s0 a1) (hm : 1147152 ||| M = M) :
    Same M s0 (statusTrue a0 a1) := by
  unfold statusTrue
  repeat' first
    | with_reducible assumption
    | with_reducible refine putEntry_same ?_ (Same.sub hm rfl)
    | split

theorem heardStation_same {M : Nat} {s0 : State} {a0 a1} (h1 : Same M s0 a1) (hm : 1147152 ||| M = M) :
    Same M s0 (heardStation a0 a1) := by
  unfold heardStation
  repeat' first
    | with_reducible assumption
    | (extract_lets +onlyGivenNames x; first | (refine Same.cut M s0 x ?_ ?_; (focus (dsimp -zeta only [x]; clear x)); rotate_left 1; clear_value x; revert x; intro _ _) | (have hh := fun a => x a; clear hh; dsimp -zeta only [x]; clear x) | (clear_value x; revert x; intro _) | (dsimp -zeta only [x]; clear x))
    | with_reducible refine updStn_same ?_ (Same.sub hm rfl)
    | with_reducible refine checkProven_same ?_ (Same.sub hm rfl)
    | with_reducible refine record_same ?_ (Same.sub hm rfl)
    | with_reducible refine statusTrue_same ?_ (Same.sub hm rfl)
    | split

theorem provingCycle_same {M : Nat} {s0 : State} {a0 a1 a2} (h2 : Same M s0 a2) (hm : 32784 ||| M = M) :
    Same M s0 (provingCycle a0 a1 a2) := by
  unfold provingCycle
  repeat' first
    | with_reducible assumption
    | (extract_lets +onlyGivenNames x; first | (refine Same.cut M s0 x ?_ ?_; (focus (dsimp -zeta only [x]; clear x)); rotate_left 1; clear_value x; revert x; intro _ _) | (have hh := fun a => x a; clear hh; dsimp -zeta only [x]; clear x) | (clear_value x; revert x; intro _) | (dsimp -zeta only [x]; clear x))
    | with_reducible refine updStn_same ?_ (Same.sub hm rfl)
    | with_reducible refine checkProven_same ?_ (Same.sub hm rfl)
    | with_reducible refine Same.foldl (fun _ _ _ => ?_) ?_
    | split

theorem raiseLost_same {M : Nat} {s0 : State} {a0 a1 a2} (h2 : Same M s0 a2) (hm : 528 ||| M = M) :
    Same M s0 (raiseLost a0 a1 a2) := by
  unfold raiseLost
  repeat' first
    | with_reducible assumption
    | (extract_lets +onlyGivenNames x; first | (refine Same.cut M s0 x ?_ ?_; (focus (dsimp -zeta only [x]; clear x)); rotate_left 1; clear_value x; revert x; intro _ _) | (have hh := fun a => x a; clear hh; dsimp -zeta only [x]; clear x) | (clear_value x; revert x; intro _) | (dsimp -zeta only [x]; clear x))
    | with_reducible refine updCyc_same ?_ (Same.sub hm rfl)
    | with_reducible refine raiseFor_same ?_ (Same.sub hm rfl)
    | with_reducible refine Same.foldl (fun _ _ _ => ?_) ?_
    | split

theorem withdraw_same {M : Nat} {s0 : State} {a0 a1 a2} (h2 : Same M s0 a2) (hm : 196608 ||| M = M) :
    Same M s0 (withdraw a0 a1 a2) := by
  unfold withdraw
  repeat' first
    | with_reducible assumption
    | (extract_lets +onlyGivenNames x; first | (refine Same.cut M s0 x ?_ ?_; (focus (dsimp -zeta only [x]; clear x)); rotate_left 1; clear_value x; revert x; intro _ _) | (have hh := fun a => x a; clear hh; dsimp -zeta only [x]; clear x) | (clear_value x; revert x; intro _) | (dsimp -zeta only [x]; clear x))
    | with_reducible refine updPort_same ?_ (Same.sub hm rfl)
    | split
    | with_reducible refine Same.up_fbs ?_ (Same.sub hm rfl)

theorem loseStation_same {M : Nat} {s0 : State} {a0 a1 a2} (h2 : Same M s0 a2) (hm : 229904 ||| M = M) :
    Same M s0 (loseStation a0 a1 a2) := by
  unfold loseStation
  repeat' first
    | with_reducible assumption
    | (extract_lets +onlyGivenNames x; first | (refine Same.cut M s0 x ?_ ?_; (focus (dsimp -zeta only [x]; clear x)); rotate_left 1; clear_value x; revert x; intro _ _) | (have hh := fun a => x a; clear hh; dsimp -zeta only [x]; clear x) | (clear_value x; revert x; intro _) | (dsimp -zeta only [x]; clear x))
    | with_reducible refine updStn_same ?_ (Same.sub hm rfl)
    | with_reducible refine raiseLost_same ?_ (Same.sub hm rfl)
    | with_reducible refine record_same ?_ (Same.sub hm rfl)
    | with_reducible refine withdraw_same ?_ (Same.sub hm rfl)
    | split
    | with_reducible refine Same.up_stn ?_ (Same.sub hm rfl)

theorem loseBus_same {M : Nat} {s0 : State} {a0 a1} (h1 : Same M s0 a1) (hm : 229904 ||| M = M) :
    Same M s0 (loseBus a0 a1) := by
  unfold loseBus
  repeat' first
    | with_reducible assumption
    | with_reducible refine loseStation_same ?_ (Same.sub hm rfl)
    | with_reducible refine Same.foldl (fun _ _ _ => ?_) ?_

theorem execStationLost_same {M : Nat} {s0 : State} {a0 a1} (h1 : Same M s0 a1) (hm : 229904 ||| M = M) :
    OutSame M s0 (execStationLost a0 a1) := by
  unfold execStationLost
  repeat' first
    | with_reducible assumption
    | with_reducible refine OutSame.next ?_
    | with_reducible refine loseStation_same ?_ (Same.sub hm rfl)
    | split

theorem substituteDue_same {M : Nat} {s0 : State} {a0} (h0 : Same M s0 a0) (hm : 1147152 ||| M = M) :
    Same M s0 (substituteDue a0) := by
  unfold substituteDue
  repeat' first
    | with_reducible assumption
    | (extract_lets +onlyGivenNames x; first | (refine Same.cut M s0 x ?_ ?_; (focus (dsimp -zeta only [x]; clear x)); rotate_left 1; clear_value x; revert x; intro _ _) | (have hh := fun a => x a; clear hh; dsimp -zeta only [x]; clear x) | (clear_value x; revert x; intro _) | (dsimp -zeta only [x]; clear x))
    | with_reducible refine substituteAll_same ?_ (Same.sub hm rfl)
    | with_reducible refine Same.up_stn ?_ (Same.sub hm rfl)

end Sys2Proof.Machine
end

