-- ==== Sys2Proof/Laws/FrameFieldBus.lean ====
section
/-!
SUPPORT. FrameFieldBus.lean: for each operation of Machine/FieldBus.lean, the components of State it can change: the result agrees with the
state it starts from on every component whose bit in the mask is 0 (the bits as in `Same`).
-/
namespace Sys2Proof.Machine
set_option linter.all false

theorem endScan_same {M : Nat} {s0 : State} {a0 a1} (h1 : Same M s0 a1) (hm : 65536 ||| M = M) :
    Same M s0 (endScan a0 a1) := by
  unfold endScan
  repeat' first
    | with_reducible assumption
    | (extract_lets +onlyGivenNames x; first | (refine Same.cut M s0 x ?_ ?_; (focus (dsimp -zeta only [x]; clear x)); rotate_left 1; clear_value x; revert x; intro _ _) | (have hh := fun a => x a; clear hh; dsimp -zeta only [x]; clear x) | (clear_value x; revert x; intro _) | (dsimp -zeta only [x]; clear x))
    | split
    | with_reducible refine Same.up_fbs ?_ (Same.sub hm rfl)

theorem fieldBusAbortOp_same {M : Nat} {s0 : State} {a0} (h0 : Same M s0 a0) (hm : 65552 ||| M = M) :
    Same M s0 (fieldBusAbortOp a0) := by
  unfold fieldBusAbortOp
  repeat' first
    | with_reducible assumption
    | (extract_lets +onlyGivenNames x; first | (refine Same.cut M s0 x ?_ ?_; (focus (dsimp -zeta only [x]; clear x)); rotate_left 1; clear_value x; revert x; intro _ _) | (have hh := fun a => x a; clear hh; dsimp -zeta only [x]; clear x) | (clear_value x; revert x; intro _) | (dsimp -zeta only [x]; clear x))
    | with_reducible refine endScan_same ?_ (Same.sub hm rfl)
    | with_reducible refine record_same ?_ (Same.sub hm rfl)
    | split
    | with_reducible refine Same.up_fbs ?_ (Same.sub hm rfl)

theorem execFieldBusAbort_same {M : Nat} {s0 : State} {a0 a1} (h1 : Same M s0 a1) (hm : 1114168 ||| M = M) :
    OutSame M s0 (execFieldBusAbort a0 a1) := by
  unfold execFieldBusAbort
  repeat' first
    | with_reducible assumption
    | with_reducible refine OutSame.next ?_
    | with_reducible refine fieldBusAbortOp_same ?_ (Same.sub hm rfl)
    | with_reducible refine abortCmd_same (fun x0 k0 => ?_) ?_ (Same.sub hm rfl)

theorem busAlive_same {M : Nat} {s0 : State} {a0 a1} (h1 : Same M s0 a1) (hm : 65536 ||| M = M) :
    Same M s0 (busAlive a0 a1) := by
  unfold busAlive
  repeat' first
    | with_reducible assumption
    | with_reducible refine updCan_same ?_ (Same.sub hm rfl)

theorem busFaultOp_same {M : Nat} {s0 : State} {a0 a1 a2} (h2 : Same M s0 a2) (hm : 229904 ||| M = M) :
    Same M s0 (busFaultOp a0 a1 a2) := by
  unfold busFaultOp
  repeat' first
    | with_reducible assumption
    | (extract_lets +onlyGivenNames x; first | (refine Same.cut M s0 x ?_ ?_; (focus (dsimp -zeta only [x]; clear x)); rotate_left 1; clear_value x; revert x; intro _ _) | (have hh := fun a => x a; clear hh; dsimp -zeta only [x]; clear x) | (clear_value x; revert x; intro _) | (dsimp -zeta only [x]; clear x))
    | with_reducible refine loseBus_same ?_ (Same.sub hm rfl)
    | with_reducible refine record_same ?_ (Same.sub hm rfl)
    | with_reducible refine updCan_same ?_ (Same.sub hm rfl)
    | split

theorem busOffOp_same {M : Nat} {s0 : State} {a0 a1} (h1 : Same M s0 a1) (hm : 229904 ||| M = M) :
    Same M s0 (busOffOp a0 a1) := by
  unfold busOffOp
  repeat' first
    | with_reducible assumption
    | (extract_lets +onlyGivenNames x; first | (refine Same.cut M s0 x ?_ ?_; (focus (dsimp -zeta only [x]; clear x)); rotate_left 1; clear_value x; revert x; intro _ _) | (have hh := fun a => x a; clear hh; dsimp -zeta only [x]; clear x) | (clear_value x; revert x; intro _) | (dsimp -zeta only [x]; clear x))
    | with_reducible refine busFaultOp_same ?_ (Same.sub hm rfl)
    | with_reducible refine updCan_same ?_ (Same.sub hm rfl)
    | with_reducible refine countTxDrop_same ?_ (Same.sub hm rfl)
    | with_reducible refine Same.foldl (fun _ _ _ => ?_) ?_
    | split

theorem mirror_same {M : Nat} {s0 : State} {a0 a1 a2 a3 a4} (h4 : Same M s0 a4) (hm : 1147192 ||| M = M) :
    Same M s0 (mirror a0 a1 a2 a3 a4) := by
  unfold mirror
  repeat' first
    | with_reducible assumption
    | (extract_lets +onlyGivenNames x; first | (refine Same.cut M s0 x ?_ ?_; (focus (dsimp -zeta only [x]; clear x)); rotate_left 1; clear_value x; revert x; intro _ _) | (have hh := fun a => x a; clear hh; dsimp -zeta only [x]; clear x) | (clear_value x; revert x; intro _) | (dsimp -zeta only [x]; clear x))
    | with_reducible refine xchRefuse_same ?_ (Same.sub hm rfl)
    | with_reducible refine writeBy_same ?_ (Same.sub hm rfl)
    | with_reducible refine Same.foldl (fun _ _ _ => ?_) ?_
    | split

theorem markRx_same {M : Nat} {s0 : State} {a0 a1 a2 a3} (h3 : Same M s0 a3) (hm : 65536 ||| M = M) :
    Same M s0 (markRx a0 a1 a2 a3) := by
  unfold markRx
  repeat' first
    | with_reducible assumption
    | (extract_lets +onlyGivenNames x; first | (refine Same.cut M s0 x ?_ ?_; (focus (dsimp -zeta only [x]; clear x)); rotate_left 1; clear_value x; revert x; intro _ _) | (have hh := fun a => x a; clear hh; dsimp -zeta only [x]; clear x) | (clear_value x; revert x; intro _) | (dsimp -zeta only [x]; clear x))
    | with_reducible refine updCan_same ?_ (Same.sub hm rfl)
    | with_reducible refine Same.foldl (fun _ _ _ => ?_) ?_
    | split

theorem canReceiveOp_same {M : Nat} {s0 : State} {a0 a1 a2} (h2 : Same M s0 a2) (hm : 1147192 ||| M = M) :
    Same M s0 (canReceiveOp a0 a1 a2) := by
  unfold canReceiveOp
  repeat' first
    | with_reducible assumption
    | (extract_lets +onlyGivenNames x; first | (refine Same.cut M s0 x ?_ ?_; (focus (dsimp -zeta only [x]; clear x)); rotate_left 1; clear_value x; revert x; intro _ _) | (have hh := fun a => x a; clear hh; dsimp -zeta only [x]; clear x) | (clear_value x; revert x; intro _) | (dsimp -zeta only [x]; clear x))
    | with_reducible refine heardStation_same ?_ (Same.sub hm rfl)
    | with_reducible refine mirror_same ?_ (Same.sub hm rfl)
    | with_reducible refine markRx_same ?_ (Same.sub hm rfl)
    | with_reducible refine busAlive_same ?_ (Same.sub hm rfl)
    | with_reducible refine updCan_same ?_ (Same.sub hm rfl)
    | split
    | with_reducible refine Same.up_fbs ?_ (Same.sub hm rfl)

theorem fbsStatus_same {M : Nat} {s0 : State} {a0 a1 a2} (h2 : Same M s0 a2) (hm : 65544 ||| M = M) :
    Same M s0 (fbsStatus a0 a1 a2) := by
  unfold fbsStatus
  repeat' first
    | with_reducible assumption
    | (extract_lets +onlyGivenNames x; first | (refine Same.cut M s0 x ?_ ?_; (focus (dsimp -zeta only [x]; clear x)); rotate_left 1; clear_value x; revert x; intro _ _) | (have hh := fun a => x a; clear hh; dsimp -zeta only [x]; clear x) | (clear_value x; revert x; intro _) | (dsimp -zeta only [x]; clear x))
    | split
    | with_reducible refine Same.up_reply_fbs ?_ (Same.sub hm rfl) (Same.sub hm rfl)

theorem chCmd_same {M : Nat} {s0 : State} {a0 a1 a2 a3 a4} (h3 : ∀ x0, Same M s0 x0 → Same M s0 (a3 x0)) (h4 : Same M s0 a4) (hm : 65592 ||| M = M) :
    OutSame M s0 (chCmd a0 a1 a2 a3 a4) := by
  unfold chCmd
  repeat' first
    | with_reducible assumption
    | (extract_lets +onlyGivenNames x; first | (refine Same.cut M s0 x ?_ ?_; (focus (dsimp -zeta only [x]; clear x)); rotate_left 1; clear_value x; revert x; intro _ _) | (have hh := fun a => x a; clear hh; dsimp -zeta only [x]; clear x) | (clear_value x; revert x; intro _) | (dsimp -zeta only [x]; clear x))
    | with_reducible refine OutSame.next ?_
    | with_reducible refine h3 _ ?_
    | with_reducible refine regCmd_same (fun x0 k0 => ?_) ?_ (Same.sub hm rfl)
    | with_reducible refine fbsStatus_same ?_ (Same.sub hm rfl)
    | split

theorem execFbsChStart_same {M : Nat} {s0 : State} {a0 a1 a2} (h2 : Same M s0 a2) (hm : 65592 ||| M = M) :
    OutSame M s0 (execFbsChStart a0 a1 a2) := by
  unfold execFbsChStart
  repeat' first
    | with_reducible assumption
    | with_reducible refine OutSame.next ?_
    | with_reducible refine chCmd_same (fun x0 k0 => ?_) ?_ (Same.sub hm rfl)
    | with_reducible refine updCan_same ?_ (Same.sub hm rfl)
    | split

theorem execFbsChStop_same {M : Nat} {s0 : State} {a0 a1 a2} (h2 : Same M s0 a2) (hm : 65592 ||| M = M) :
    OutSame M s0 (execFbsChStop a0 a1 a2) := by
  unfold execFbsChStop
  repeat' first
    | with_reducible assumption
    | with_reducible refine OutSame.next ?_
    | with_reducible refine chCmd_same (fun x0 k0 => ?_) ?_ (Same.sub hm rfl)
    | with_reducible refine updCan_same ?_ (Same.sub hm rfl)

theorem execRecoverChannel_same {M : Nat} {s0 : State} {a0 a1 a2} (h2 : Same M s0 a2) (hm : 65592 ||| M = M) :
    OutSame M s0 (execRecoverChannel a0 a1 a2) := by
  unfold execRecoverChannel
  repeat' first
    | with_reducible assumption
    | with_reducible refine OutSame.next ?_
    | with_reducible refine chCmd_same (fun x0 k0 => ?_) ?_ (Same.sub hm rfl)
    | with_reducible refine updCan_same ?_ (Same.sub hm rfl)

theorem execCanBusOff_same {M : Nat} {s0 : State} {a0 a1} (h1 : Same M s0 a1) (hm : 229904 ||| M = M) :
    OutSame M s0 (execCanBusOff a0 a1) := by
  unfold execCanBusOff
  repeat' first
    | with_reducible assumption
    | with_reducible refine OutSame.next ?_
    | with_reducible refine busOffOp_same ?_ (Same.sub hm rfl)
    | split

theorem execCanBusWatchdog_same {M : Nat} {s0 : State} {a0 a1} (h1 : Same M s0 a1) (hm : 229904 ||| M = M) :
    OutSame M s0 (execCanBusWatchdog a0 a1) := by
  unfold execCanBusWatchdog
  repeat' first
    | with_reducible assumption
    | (extract_lets +onlyGivenNames x; first | (refine Same.cut M s0 x ?_ ?_; (focus (dsimp -zeta only [x]; clear x)); rotate_left 1; clear_value x; revert x; intro _ _) | (have hh := fun a => x a; clear hh; dsimp -zeta only [x]; clear x) | (clear_value x; revert x; intro _) | (dsimp -zeta only [x]; clear x))
    | with_reducible refine OutSame.next ?_
    | with_reducible refine busFaultOp_same ?_ (Same.sub hm rfl)
    | split

theorem execCanFrameReceived_same {M : Nat} {s0 : State} {a0 a1 a2} (h2 : Same M s0 a2) (hm : 1147192 ||| M = M) :
    OutSame M s0 (execCanFrameReceived a0 a1 a2) := by
  unfold execCanFrameReceived
  repeat' first
    | with_reducible assumption
    | with_reducible refine OutSame.next ?_
    | with_reducible refine canReceiveOp_same ?_ (Same.sub hm rfl)
    | split

theorem execCanPeriodicTrigger_same {M : Nat} {s0 : State} {a0 a1} (h1 : Same M s0 a1) (hm : 65552 ||| M = M) :
    OutSame M s0 (execCanPeriodicTrigger a0 a1) := by
  unfold execCanPeriodicTrigger
  repeat' first
    | with_reducible assumption
    | (extract_lets +onlyGivenNames x; first | (refine Same.cut M s0 x ?_ ?_; (focus (dsimp -zeta only [x]; clear x)); rotate_left 1; clear_value x; revert x; intro _ _) | (have hh := fun a => x a; clear hh; dsimp -zeta only [x]; clear x) | (clear_value x; revert x; intro _) | (dsimp -zeta only [x]; clear x))
    | with_reducible refine OutSame.next ?_
    | with_reducible refine canTrigger_same ?_ (Same.sub hm rfl)
    | split
    | with_reducible refine Same.up_fbs ?_ (Same.sub hm rfl)

theorem execCanRecoveryComplete_same {M : Nat} {s0 : State} {a0 a1} (h1 : Same M s0 a1) (hm : 65536 ||| M = M) :
    OutSame M s0 (execCanRecoveryComplete a0 a1) := by
  unfold execCanRecoveryComplete
  repeat' first
    | with_reducible assumption
    | (extract_lets +onlyGivenNames x; first | (refine Same.cut M s0 x ?_ ?_; (focus (dsimp -zeta only [x]; clear x)); rotate_left 1; clear_value x; revert x; intro _ _) | (have hh := fun a => x a; clear hh; dsimp -zeta only [x]; clear x) | (clear_value x; revert x; intro _) | (dsimp -zeta only [x]; clear x))
    | with_reducible refine OutSame.next ?_
    | with_reducible refine offer_same ?_ (Same.sub hm rfl)
    | with_reducible refine updCan_same ?_ (Same.sub hm rfl)
    | split

theorem execCanRxError_same {M : Nat} {s0 : State} {a0 a1 a2} (h2 : Same M s0 a2) (hm : 65536 ||| M = M) :
    OutSame M s0 (execCanRxError a0 a1 a2) := by
  unfold execCanRxError
  repeat' first
    | with_reducible assumption
    | with_reducible refine OutSame.next ?_
    | with_reducible refine updCan_same ?_ (Same.sub hm rfl)
    | split

theorem execCanSupplyFail_same {M : Nat} {s0 : State} {a0 a1} (h1 : Same M s0 a1) (hm : 229904 ||| M = M) :
    OutSame M s0 (execCanSupplyFail a0 a1) := by
  unfold execCanSupplyFail
  repeat' first
    | with_reducible assumption
    | with_reducible refine OutSame.next ?_
    | with_reducible refine busFaultOp_same ?_ (Same.sub hm rfl)
    | split

theorem wireNext_same {M : Nat} {s0 : State} {a0 a1} (h1 : Same M s0 a1) (hm : 65536 ||| M = M) :
    Same M s0 (wireNext a0 a1) := by
  unfold wireNext
  repeat' first
    | with_reducible assumption
    | (extract_lets +onlyGivenNames x; first | (refine Same.cut M s0 x ?_ ?_; (focus (dsimp -zeta only [x]; clear x)); rotate_left 1; clear_value x; revert x; intro _ _) | (have hh := fun a => x a; clear hh; dsimp -zeta only [x]; clear x) | (clear_value x; revert x; intro _) | (dsimp -zeta only [x]; clear x))
    | with_reducible refine wireStart_same ?_ (Same.sub hm rfl)
    | with_reducible refine offer_same ?_ (Same.sub hm rfl)
    | with_reducible refine updCan_same ?_ (Same.sub hm rfl)
    | split

theorem execCanTxComplete_same {M : Nat} {s0 : State} {a0 a1} (h1 : Same M s0 a1) (hm : 65536 ||| M = M) :
    OutSame M s0 (execCanTxComplete a0 a1) := by
  unfold execCanTxComplete
  repeat' first
    | with_reducible assumption
    | (extract_lets +onlyGivenNames x; first | (refine Same.cut M s0 x ?_ ?_; (focus (dsimp -zeta only [x]; clear x)); rotate_left 1; clear_value x; revert x; intro _ _) | (have hh := fun a => x a; clear hh; dsimp -zeta only [x]; clear x) | (clear_value x; revert x; intro _) | (dsimp -zeta only [x]; clear x))
    | with_reducible refine OutSame.next ?_
    | with_reducible refine wireNext_same ?_ (Same.sub hm rfl)
    | with_reducible refine busAlive_same ?_ (Same.sub hm rfl)
    | with_reducible refine updCan_same ?_ (Same.sub hm rfl)
    | split

theorem txErrorOp_same {M : Nat} {s0 : State} {a0 a1} (h1 : Same M s0 a1) (hm : 65552 ||| M = M) :
    Same M s0 (txErrorOp a0 a1) := by
  unfold txErrorOp
  repeat' first
    | with_reducible assumption
    | (extract_lets +onlyGivenNames x; first | (refine Same.cut M s0 x ?_ ?_; (focus (dsimp -zeta only [x]; clear x)); rotate_left 1; clear_value x; revert x; intro _ _) | (have hh := fun a => x a; clear hh; dsimp -zeta only [x]; clear x) | (clear_value x; revert x; intro _) | (dsimp -zeta only [x]; clear x))
    | with_reducible refine wireStart_same ?_ (Same.sub hm rfl)
    | with_reducible refine wireNext_same ?_ (Same.sub hm rfl)
    | with_reducible refine updCan_same ?_ (Same.sub hm rfl)
    | with_reducible refine countTxDrop_same ?_ (Same.sub hm rfl)
    | split

theorem execCanTxError_same {M : Nat} {s0 : State} {a0 a1} (h1 : Same M s0 a1) (hm : 65552 ||| M = M) :
    OutSame M s0 (execCanTxError a0 a1) := by
  unfold execCanTxError
  repeat' first
    | with_reducible assumption
    | with_reducible refine OutSame.next ?_
    | with_reducible refine txErrorOp_same ?_ (Same.sub hm rfl)
    | split

theorem execFbsTtResync_same {M : Nat} {s0 : State} {a0 a1} (h1 : Same M s0 a1) (hm : 65552 ||| M = M) :
    OutSame M s0 (execFbsTtResync a0 a1) := by
  unfold execFbsTtResync
  repeat' first
    | with_reducible assumption
    | (extract_lets +onlyGivenNames x; first | (refine Same.cut M s0 x ?_ ?_; (focus (dsimp -zeta only [x]; clear x)); rotate_left 1; clear_value x; revert x; intro _ _) | (have hh := fun a => x a; clear hh; dsimp -zeta only [x]; clear x) | (clear_value x; revert x; intro _) | (dsimp -zeta only [x]; clear x))
    | with_reducible refine OutSame.next ?_
    | with_reducible refine record_same ?_ (Same.sub hm rfl)
    | with_reducible refine updCan_same ?_ (Same.sub hm rfl)
    | split

theorem execMarginScanStop_same {M : Nat} {s0 : State} {a0 a1} (h1 : Same M s0 a1) (hm : 65592 ||| M = M) :
    OutSame M s0 (execMarginScanStop a0 a1) := by
  unfold execMarginScanStop
  repeat' first
    | with_reducible assumption
    | with_reducible refine OutSame.next ?_
    | with_reducible refine regCmd_same (fun x0 k0 => ?_) ?_ (Same.sub hm rfl)
    | with_reducible refine endScan_same ?_ (Same.sub hm rfl)
    | with_reducible refine fbsStatus_same ?_ (Same.sub hm rfl)
    | split

theorem execMarginScanStart_same {M : Nat} {s0 : State} {a0 a1 a2 a3} (h3 : Same M s0 a3) (hm : 65592 ||| M = M) :
    OutSame M s0 (execMarginScanStart a0 a1 a2 a3) := by
  unfold execMarginScanStart
  repeat' first
    | with_reducible assumption
    | (extract_lets +onlyGivenNames x; first | (refine Same.cut M s0 x ?_ ?_; (focus (dsimp -zeta only [x]; clear x)); rotate_left 1; clear_value x; revert x; intro _ _) | (have hh := fun a => x a; clear hh; dsimp -zeta only [x]; clear x) | (clear_value x; revert x; intro _) | (dsimp -zeta only [x]; clear x))
    | with_reducible refine OutSame.next ?_
    | with_reducible refine regCmd_same (fun x0 k0 => ?_) ?_ (Same.sub hm rfl)
    | with_reducible refine fbsStatus_same ?_ (Same.sub hm rfl)
    | split
    | with_reducible refine Same.up_fbs ?_ (Same.sub hm rfl)

theorem execMarginScanComplete_same {M : Nat} {s0 : State} {a0 a1 a2} (h2 : Same M s0 a2) (hm : 65536 ||| M = M) :
    OutSame M s0 (execMarginScanComplete a0 a1 a2) := by
  unfold execMarginScanComplete
  repeat' first
    | with_reducible assumption
    | (extract_lets +onlyGivenNames x; first | (refine Same.cut M s0 x ?_ ?_; (focus (dsimp -zeta only [x]; clear x)); rotate_left 1; clear_value x; revert x; intro _ _) | (have hh := fun a => x a; clear hh; dsimp -zeta only [x]; clear x) | (clear_value x; revert x; intro _) | (dsimp -zeta only [x]; clear x))
    | with_reducible refine OutSame.next ?_
    | with_reducible refine endScan_same ?_ (Same.sub hm rfl)
    | split
    | with_reducible refine Same.up_fbs ?_ (Same.sub hm rfl)

theorem execMarginScanTimeout_same {M : Nat} {s0 : State} {a0} (h0 : Same M s0 a0) (hm : 65536 ||| M = M) :
    OutSame M s0 (execMarginScanTimeout a0) := by
  unfold execMarginScanTimeout
  repeat' first
    | with_reducible assumption
    | with_reducible refine OutSame.next ?_
    | with_reducible refine endScan_same ?_ (Same.sub hm rfl)
    | split

theorem execTtArbitratingWindowStart_same {M : Nat} {s0 : State} {a0 a1 a2} (h2 : Same M s0 a2) (hm : 65536 ||| M = M) :
    OutSame M s0 (execTtArbitratingWindowStart a0 a1 a2) := by
  unfold execTtArbitratingWindowStart
  repeat' first
    | with_reducible assumption
    | (extract_lets +onlyGivenNames x; first | (refine Same.cut M s0 x ?_ ?_; (focus (dsimp -zeta only [x]; clear x)); rotate_left 1; clear_value x; revert x; intro _ _) | (have hh := fun a => x a; clear hh; dsimp -zeta only [x]; clear x) | (clear_value x; revert x; intro _) | (dsimp -zeta only [x]; clear x))
    | with_reducible refine OutSame.next ?_
    | with_reducible refine offer_same ?_ (Same.sub hm rfl)
    | with_reducible refine updCan_same ?_ (Same.sub hm rfl)
    | split

theorem windowSend_same {M : Nat} {s0 : State} {a0 a1 a2} (h2 : Same M s0 a2) (hm : 65536 ||| M = M) :
    Same M s0 (windowSend a0 a1 a2) := by
  unfold windowSend
  repeat' first
    | with_reducible assumption
    | with_reducible refine wireStart_same ?_ (Same.sub hm rfl)
    | with_reducible refine updCan_same ?_ (Same.sub hm rfl)
    | split

theorem refOp_same {M : Nat} {s0 : State} {a0 a1 a2 a3} (h3 : Same M s0 a3) (hm : 65552 ||| M = M) :
    Same M s0 (refOp a0 a1 a2 a3) := by
  unfold refOp
  repeat' first
    | with_reducible assumption
    | (extract_lets +onlyGivenNames x; first | (refine Same.cut M s0 x ?_ ?_; (focus (dsimp -zeta only [x]; clear x)); rotate_left 1; clear_value x; revert x; intro _ _) | (have hh := fun a => x a; clear hh; dsimp -zeta only [x]; clear x) | (clear_value x; revert x; intro _) | (dsimp -zeta only [x]; clear x))
    | with_reducible refine record_same ?_ (Same.sub hm rfl)
    | with_reducible refine windowSend_same ?_ (Same.sub hm rfl)
    | split

theorem execTtCycleStart_same {M : Nat} {s0 : State} {a0 a1 a2} (h2 : Same M s0 a2) (hm : 65552 ||| M = M) :
    OutSame M s0 (execTtCycleStart a0 a1 a2) := by
  unfold execTtCycleStart
  repeat' first
    | with_reducible assumption
    | (extract_lets +onlyGivenNames x; first | (refine Same.cut M s0 x ?_ ?_; (focus (dsimp -zeta only [x]; clear x)); rotate_left 1; clear_value x; revert x; intro _ _) | (have hh := fun a => x a; clear hh; dsimp -zeta only [x]; clear x) | (clear_value x; revert x; intro _) | (dsimp -zeta only [x]; clear x))
    | with_reducible refine OutSame.next ?_
    | with_reducible refine refOp_same ?_ (Same.sub hm rfl)
    | with_reducible refine updCan_same ?_ (Same.sub hm rfl)
    | split

theorem rxMissOp_same {M : Nat} {s0 : State} {a0 a1} (h1 : Same M s0 a1) (hm : 65552 ||| M = M) :
    Same M s0 (rxMissOp a0 a1) := by
  unfold rxMissOp
  repeat' first
    | with_reducible assumption
    | (extract_lets +onlyGivenNames x; first | (refine Same.cut M s0 x ?_ ?_; (focus (dsimp -zeta only [x]; clear x)); rotate_left 1; clear_value x; revert x; intro _ _) | (have hh := fun a => x a; clear hh; dsimp -zeta only [x]; clear x) | (clear_value x; revert x; intro _) | (dsimp -zeta only [x]; clear x))
    | with_reducible refine record_same ?_ (Same.sub hm rfl)
    | with_reducible refine updCan_same ?_ (Same.sub hm rfl)
    | split

theorem execTtRxWindowEnd_same {M : Nat} {s0 : State} {a0 a1 a2} (h2 : Same M s0 a2) (hm : 65552 ||| M = M) :
    OutSame M s0 (execTtRxWindowEnd a0 a1 a2) := by
  unfold execTtRxWindowEnd
  repeat' first
    | with_reducible assumption
    | (extract_lets +onlyGivenNames x; first | (refine Same.cut M s0 x ?_ ?_; (focus (dsimp -zeta only [x]; clear x)); rotate_left 1; clear_value x; revert x; intro _ _) | (have hh := fun a => x a; clear hh; dsimp -zeta only [x]; clear x) | (clear_value x; revert x; intro _) | (dsimp -zeta only [x]; clear x))
    | with_reducible refine OutSame.next ?_
    | with_reducible refine rxMissOp_same ?_ (Same.sub hm rfl)
    | with_reducible refine updCan_same ?_ (Same.sub hm rfl)
    | split

theorem txWindowOp_same {M : Nat} {s0 : State} {a0 a1 a2 a3 a4} (h4 : Same M s0 a4) (hm : 65536 ||| M = M) :
    Same M s0 (txWindowOp a0 a1 a2 a3 a4) := by
  unfold txWindowOp
  repeat' first
    | with_reducible assumption
    | (extract_lets +onlyGivenNames x; first | (refine Same.cut M s0 x ?_ ?_; (focus (dsimp -zeta only [x]; clear x)); rotate_left 1; clear_value x; revert x; intro _ _) | (have hh := fun a => x a; clear hh; dsimp -zeta only [x]; clear x) | (clear_value x; revert x; intro _) | (dsimp -zeta only [x]; clear x))
    | with_reducible refine windowSend_same ?_ (Same.sub hm rfl)
    | with_reducible refine updCan_same ?_ (Same.sub hm rfl)
    | split

theorem execTtTxWindow_same {M : Nat} {s0 : State} {a0 a1 a2 a3} (h3 : Same M s0 a3) (hm : 65536 ||| M = M) :
    OutSame M s0 (execTtTxWindow a0 a1 a2 a3) := by
  unfold execTtTxWindow
  repeat' first
    | with_reducible assumption
    | (extract_lets +onlyGivenNames x; first | (refine Same.cut M s0 x ?_ ?_; (focus (dsimp -zeta only [x]; clear x)); rotate_left 1; clear_value x; revert x; intro _ _) | (have hh := fun a => x a; clear hh; dsimp -zeta only [x]; clear x) | (clear_value x; revert x; intro _) | (dsimp -zeta only [x]; clear x))
    | with_reducible refine OutSame.next ?_
    | with_reducible refine txWindowOp_same ?_ (Same.sub hm rfl)
    | with_reducible refine updCan_same ?_ (Same.sub hm rfl)
    | split

end Sys2Proof.Machine
end

