-- ==== Sys2Proof/Laws/FrameKeyOps.lean ====
section
/-!
SUPPORT. FrameKeyOps.lean: for each operation of Machine/KeyOps.lean, the components of State it can change: the result agrees with the
state it starts from on every component whose bit in the mask is 0 (the bits as in `Same`).
-/
namespace Sys2Proof.Machine
set_option linter.all false

theorem cacheUse_same {M : Nat} {s0 : State} {a0 a1} (h1 : Same M s0 a1) (hm : 16384 ||| M = M) :
    Same M s0 (cacheUse a0 a1) := by
  unfold cacheUse
  repeat' first
    | with_reducible assumption
    | (extract_lets +onlyGivenNames x; first | (refine Same.cut M s0 x ?_ ?_; (focus (dsimp -zeta only [x]; clear x)); rotate_left 1; clear_value x; revert x; intro _ _) | (have hh := fun a => x a; clear hh; dsimp -zeta only [x]; clear x) | (clear_value x; revert x; intro _) | (dsimp -zeta only [x]; clear x))
    | with_reducible refine Same.up_key ?_ (Same.sub hm rfl)

theorem useBud_same {M : Nat} {s0 : State} {a0 a1 a2 a3 a4 a5} (h5 : Same M s0 a5) (hm : 16384 ||| M = M) :
    Same M s0 (useBud a0 a1 a2 a3 a4 a5) := by
  unfold useBud
  repeat' first
    | with_reducible assumption
    | with_reducible refine cacheUse_same ?_ (Same.sub hm rfl)
    | split

theorem endKeyOps_same {M : Nat} {s0 : State} {a0 a1} (h1 : Same M s0 a1) (hm : 16384 ||| M = M) :
    Same M s0 (endKeyOps a0 a1) := by
  unfold endKeyOps
  repeat' first
    | with_reducible assumption
    | (extract_lets +onlyGivenNames x; first | (refine Same.cut M s0 x ?_ ?_; (focus (dsimp -zeta only [x]; clear x)); rotate_left 1; clear_value x; revert x; intro _ _) | (have hh := fun a => x a; clear hh; dsimp -zeta only [x]; clear x) | (clear_value x; revert x; intro _) | (dsimp -zeta only [x]; clear x))
    | split
    | with_reducible refine Same.up_key ?_ (Same.sub hm rfl)

theorem closeSession_same {M : Nat} {s0 : State} {a0 a1 a2} (h2 : Same M s0 a2) (hm : 16400 ||| M = M) :
    Same M s0 (closeSession a0 a1 a2) := by
  unfold closeSession
  repeat' first
    | with_reducible assumption
    | (extract_lets +onlyGivenNames x; first | (refine Same.cut M s0 x ?_ ?_; (focus (dsimp -zeta only [x]; clear x)); rotate_left 1; clear_value x; revert x; intro _ _) | (have hh := fun a => x a; clear hh; dsimp -zeta only [x]; clear x) | (clear_value x; revert x; intro _) | (dsimp -zeta only [x]; clear x))
    | with_reducible refine record_same ?_ (Same.sub hm rfl)
    | split
    | with_reducible refine Same.up_key ?_ (Same.sub hm rfl)

theorem closeSessions_same {M : Nat} {s0 : State} {a0 a1 a2} (h2 : Same M s0 a2) (hm : 16400 ||| M = M) :
    Same M s0 (closeSessions a0 a1 a2) := by
  unfold closeSessions
  repeat' first
    | with_reducible assumption
    | with_reducible refine closeSession_same ?_ (Same.sub hm rfl)
    | with_reducible refine Same.foldl (fun _ _ _ => ?_) ?_

theorem spoilSlots_same {M : Nat} {s0 : State} {a0 a1} (h1 : Same M s0 a1) (hm : 16384 ||| M = M) :
    Same M s0 (spoilSlots a0 a1) := by
  unfold spoilSlots
  repeat' first
    | with_reducible assumption
    | (extract_lets +onlyGivenNames x; first | (refine Same.cut M s0 x ?_ ?_; (focus (dsimp -zeta only [x]; clear x)); rotate_left 1; clear_value x; revert x; intro _ _) | (have hh := fun a => x a; clear hh; dsimp -zeta only [x]; clear x) | (clear_value x; revert x; intro _) | (dsimp -zeta only [x]; clear x))
    | split
    | with_reducible refine Same.up_key ?_ (Same.sub hm rfl)

theorem invalidate_same {M : Nat} {s0 : State} {a0 a1} (h1 : Same M s0 a1) (hm : 16384 ||| M = M) :
    Same M s0 (invalidate a0 a1) := by
  unfold invalidate
  repeat' first
    | with_reducible assumption
    | (extract_lets +onlyGivenNames x; first | (refine Same.cut M s0 x ?_ ?_; (focus (dsimp -zeta only [x]; clear x)); rotate_left 1; clear_value x; revert x; intro _ _) | (have hh := fun a => x a; clear hh; dsimp -zeta only [x]; clear x) | (clear_value x; revert x; intro _) | (dsimp -zeta only [x]; clear x))
    | split
    | with_reducible refine Same.up_key ?_ (Same.sub hm rfl)

theorem invalidateRoot_same {M : Nat} {s0 : State} {a0 a1} (h1 : Same M s0 a1) (hm : 16384 ||| M = M) :
    Same M s0 (invalidateRoot a0 a1) := by
  unfold invalidateRoot
  repeat' first
    | with_reducible assumption
    | with_reducible refine spoilSlots_same ?_ (Same.sub hm rfl)
    | with_reducible refine invalidate_same ?_ (Same.sub hm rfl)

theorem eraseRoot_same {M : Nat} {s0 : State} {a0 a1} (h1 : Same M s0 a1) (hm : 16384 ||| M = M) :
    Same M s0 (eraseRoot a0 a1) := by
  unfold eraseRoot
  repeat' first
    | with_reducible assumption
    | (extract_lets +onlyGivenNames x; first | (refine Same.cut M s0 x ?_ ?_; (focus (dsimp -zeta only [x]; clear x)); rotate_left 1; clear_value x; revert x; intro _ _) | (have hh := fun a => x a; clear hh; dsimp -zeta only [x]; clear x) | (clear_value x; revert x; intro _) | (dsimp -zeta only [x]; clear x))
    | with_reducible refine invalidateRoot_same ?_ (Same.sub hm rfl)
    | split
    | with_reducible refine Same.up_key ?_ (Same.sub hm rfl)

theorem setLc_same {M : Nat} {s0 : State} {a0 a1} (h1 : Same M s0 a1) (hm : 16400 ||| M = M) :
    Same M s0 (setLc a0 a1) := by
  unfold setLc
  repeat' first
    | with_reducible assumption
    | (extract_lets +onlyGivenNames x; first | (refine Same.cut M s0 x ?_ ?_; (focus (dsimp -zeta only [x]; clear x)); rotate_left 1; clear_value x; revert x; intro _ _) | (have hh := fun a => x a; clear hh; dsimp -zeta only [x]; clear x) | (clear_value x; revert x; intro _) | (dsimp -zeta only [x]; clear x))
    | with_reducible refine record_same ?_ (Same.sub hm rfl)
    | split
    | with_reducible refine Same.up_key ?_ (Same.sub hm rfl)

theorem leaveService_same {M : Nat} {s0 : State} {a0} (h0 : Same M s0 a0) (hm : 16400 ||| M = M) :
    Same M s0 (leaveService a0) := by
  unfold leaveService
  repeat' first
    | with_reducible assumption
    | (extract_lets +onlyGivenNames x; first | (refine Same.cut M s0 x ?_ ?_; (focus (dsimp -zeta only [x]; clear x)); rotate_left 1; clear_value x; revert x; intro _ _) | (have hh := fun a => x a; clear hh; dsimp -zeta only [x]; clear x) | (clear_value x; revert x; intro _) | (dsimp -zeta only [x]; clear x))
    | with_reducible refine eraseRoot_same ?_ (Same.sub hm rfl)
    | with_reducible refine closeSessions_same ?_ (Same.sub hm rfl)
    | with_reducible refine setLc_same ?_ (Same.sub hm rfl)
    | with_reducible refine Same.up_key ?_ (Same.sub hm rfl)

theorem writeRoot_same {M : Nat} {s0 : State} {a0 a1 a2} (h2 : Same M s0 a2) (hm : 16388 ||| M = M) :
    Same M s0 (writeRoot a0 a1 a2) := by
  unfold writeRoot
  repeat' first
    | with_reducible assumption
    | (extract_lets +onlyGivenNames x; first | (refine Same.cut M s0 x ?_ ?_; (focus (dsimp -zeta only [x]; clear x)); rotate_left 1; clear_value x; revert x; intro _ _) | (have hh := fun a => x a; clear hh; dsimp -zeta only [x]; clear x) | (clear_value x; revert x; intro _) | (dsimp -zeta only [x]; clear x))
    | split
    | with_reducible refine Same.up_fresh ?_ (Same.sub hm rfl)
    | with_reducible refine Same.up_key ?_ (Same.sub hm rfl)

theorem remaskOp_same {M : Nat} {s0 : State} {a0} (h0 : Same M s0 a0) (hm : 16388 ||| M = M) :
    Same M s0 (remaskOp a0) := by
  unfold remaskOp
  repeat' first
    | with_reducible assumption
    | (extract_lets +onlyGivenNames x; first | (refine Same.cut M s0 x ?_ ?_; (focus (dsimp -zeta only [x]; clear x)); rotate_left 1; clear_value x; revert x; intro _ _) | (have hh := fun a => x a; clear hh; dsimp -zeta only [x]; clear x) | (clear_value x; revert x; intro _) | (dsimp -zeta only [x]; clear x))
    | split
    | with_reducible refine Same.up_fresh_key ?_ (Same.sub hm rfl) (Same.sub hm rfl)
    | with_reducible refine Same.up_key ?_ (Same.sub hm rfl)

end Sys2Proof.Machine
end

