-- ==== Sys2Proof/Laws/FrameBuilding.lean ====
section
/-!
SUPPORT. FrameBuilding.lean: for each operation of Machine/Building.lean, the components of State it can change: the result agrees with the
state it starts from on every component whose bit in the mask is 0 (the bits as in `Same`).
-/
namespace Sys2Proof.Machine
set_option linter.all false

theorem bsiStatus_same {M : Nat} {s0 : State} {a0 a1 a2} (h2 : Same M s0 a2) (hm : 65544 ||| M = M) :
    Same M s0 (bsiStatus a0 a1 a2) := by
  unfold bsiStatus
  repeat' first
    | with_reducible assumption
    | (extract_lets +onlyGivenNames x; first | (refine Same.cut M s0 x ?_ ?_; (focus (dsimp -zeta only [x]; clear x)); rotate_left 1; clear_value x; revert x; intro _ _) | (have hh := fun a => x a; clear hh; dsimp -zeta only [x]; clear x) | (clear_value x; revert x; intro _) | (dsimp -zeta only [x]; clear x))
    | split
    | with_reducible refine Same.up_reply_fbs ?_ (Same.sub hm rfl) (Same.sub hm rfl)

theorem updDali_same {M : Nat} {s0 : State} {a0 a1 a2} (h2 : Same M s0 a2) (hm : 65536 ||| M = M) :
    Same M s0 (updDali a0 a1 a2) := by
  unfold updDali
  repeat' first
    | with_reducible assumption
    | (extract_lets +onlyGivenNames x; first | (refine Same.cut M s0 x ?_ ?_; (focus (dsimp -zeta only [x]; clear x)); rotate_left 1; clear_value x; revert x; intro _ _) | (have hh := fun a => x a; clear hh; dsimp -zeta only [x]; clear x) | (clear_value x; revert x; intro _) | (dsimp -zeta only [x]; clear x))
    | split
    | with_reducible refine Same.up_fbs ?_ (Same.sub hm rfl)

theorem updOsdp_same {M : Nat} {s0 : State} {a0 a1 a2} (h2 : Same M s0 a2) (hm : 65536 ||| M = M) :
    Same M s0 (updOsdp a0 a1 a2) := by
  unfold updOsdp
  repeat' first
    | with_reducible assumption
    | (extract_lets +onlyGivenNames x; first | (refine Same.cut M s0 x ?_ ?_; (focus (dsimp -zeta only [x]; clear x)); rotate_left 1; clear_value x; revert x; intro _ _) | (have hh := fun a => x a; clear hh; dsimp -zeta only [x]; clear x) | (clear_value x; revert x; intro _) | (dsimp -zeta only [x]; clear x))
    | split
    | with_reducible refine Same.up_fbs ?_ (Same.sub hm rfl)

theorem portStart_same {M : Nat} {s0 : State} {a0 a1} (h1 : Same M s0 a1) (hm : 1114112 ||| M = M) :
    Same M s0 (portStart a0 a1) := by
  unfold portStart
  repeat' first
    | with_reducible assumption
    | (extract_lets +onlyGivenNames x; first | (refine Same.cut M s0 x ?_ ?_; (focus (dsimp -zeta only [x]; clear x)); rotate_left 1; clear_value x; revert x; intro _ _) | (have hh := fun a => x a; clear hh; dsimp -zeta only [x]; clear x) | (clear_value x; revert x; intro _) | (dsimp -zeta only [x]; clear x))
    | with_reducible refine updDali_same ?_ (Same.sub hm rfl)
    | with_reducible refine queueStart_same ?_ (Same.sub hm rfl)
    | split
    | with_reducible refine Same.up_pwr ?_ (Same.sub hm rfl)

theorem execBsiPortStart_same {M : Nat} {s0 : State} {a0 a1 a2} (h2 : Same M s0 a2) (hm : 1114168 ||| M = M) :
    OutSame M s0 (execBsiPortStart a0 a1 a2) := by
  unfold execBsiPortStart
  repeat' first
    | with_reducible assumption
    | (extract_lets +onlyGivenNames x; first | (refine Same.cut M s0 x ?_ ?_; (focus (dsimp -zeta only [x]; clear x)); rotate_left 1; clear_value x; revert x; intro _ _) | (have hh := fun a => x a; clear hh; dsimp -zeta only [x]; clear x) | (clear_value x; revert x; intro _) | (dsimp -zeta only [x]; clear x))
    | with_reducible refine OutSame.next ?_
    | with_reducible refine regCmd_same (fun x0 k0 => ?_) ?_ (Same.sub hm rfl)
    | with_reducible refine updDali_same ?_ (Same.sub hm rfl)
    | with_reducible refine bsiStatus_same ?_ (Same.sub hm rfl)
    | with_reducible refine updOsdp_same ?_ (Same.sub hm rfl)
    | with_reducible refine portStart_same ?_ (Same.sub hm rfl)
    | split

theorem updReader_same {M : Nat} {s0 : State} {a0 a1 a2} (h2 : Same M s0 a2) (hm : 65536 ||| M = M) :
    Same M s0 (updReader a0 a1 a2) := by
  unfold updReader
  repeat' first
    | with_reducible assumption
    | (extract_lets +onlyGivenNames x; first | (refine Same.cut M s0 x ?_ ?_; (focus (dsimp -zeta only [x]; clear x)); rotate_left 1; clear_value x; revert x; intro _ _) | (have hh := fun a => x a; clear hh; dsimp -zeta only [x]; clear x) | (clear_value x; revert x; intro _) | (dsimp -zeta only [x]; clear x))
    | split
    | with_reducible refine Same.up_fbs ?_ (Same.sub hm rfl)

theorem execBsiPortStop_same {M : Nat} {s0 : State} {a0 a1 a2} (h2 : Same M s0 a2) (hm : 1114168 ||| M = M) :
    OutSame M s0 (execBsiPortStop a0 a1 a2) := by
  unfold execBsiPortStop
  repeat' first
    | with_reducible assumption
    | (extract_lets +onlyGivenNames x; first | (refine Same.cut M s0 x ?_ ?_; (focus (dsimp -zeta only [x]; clear x)); rotate_left 1; clear_value x; revert x; intro _ _) | (have hh := fun a => x a; clear hh; dsimp -zeta only [x]; clear x) | (clear_value x; revert x; intro _) | (dsimp -zeta only [x]; clear x))
    | with_reducible refine OutSame.next ?_
    | with_reducible refine regCmd_same (fun x0 k0 => ?_) ?_ (Same.sub hm rfl)
    | with_reducible refine updDali_same ?_ (Same.sub hm rfl)
    | with_reducible refine bsiStatus_same ?_ (Same.sub hm rfl)
    | with_reducible refine updReader_same ?_ (Same.sub hm rfl)
    | with_reducible refine unqueueStart_same ?_ (Same.sub hm rfl)
    | with_reducible refine updOsdp_same ?_ (Same.sub hm rfl)
    | with_reducible refine Same.foldl (fun _ _ _ => ?_) ?_
    | split

theorem execInstall_same {M : Nat} {s0 : State} {a0 a1 a2 a3} (h3 : Same M s0 a3) (hm : 65592 ||| M = M) :
    OutSame M s0 (execInstall a0 a1 a2 a3) := by
  unfold execInstall
  repeat' first
    | with_reducible assumption
    | (extract_lets +onlyGivenNames x; first | (refine Same.cut M s0 x ?_ ?_; (focus (dsimp -zeta only [x]; clear x)); rotate_left 1; clear_value x; revert x; intro _ _) | (have hh := fun a => x a; clear hh; dsimp -zeta only [x]; clear x) | (clear_value x; revert x; intro _) | (dsimp -zeta only [x]; clear x))
    | with_reducible refine OutSame.next ?_
    | with_reducible refine regCmd_same (fun x0 k0 => ?_) ?_ (Same.sub hm rfl)
    | with_reducible refine bsiStatus_same ?_ (Same.sub hm rfl)
    | with_reducible refine updReader_same ?_ (Same.sub hm rfl)
    | split

theorem credCode_same {M : Nat} {s0 : State} {a0 a1 a2} (h2 : Same M s0 a2) (hm : 65544 ||| M = M) :
    Same M s0 (credCode a0 a1 a2) := by
  unfold credCode
  repeat' first
    | with_reducible assumption
    | (extract_lets +onlyGivenNames x; first | (refine Same.cut M s0 x ?_ ?_; (focus (dsimp -zeta only [x]; clear x)); rotate_left 1; clear_value x; revert x; intro _ _) | (have hh := fun a => x a; clear hh; dsimp -zeta only [x]; clear x) | (clear_value x; revert x; intro _) | (dsimp -zeta only [x]; clear x))
    | split
    | with_reducible refine Same.up_reply_fbs ?_ (Same.sub hm rfl) (Same.sub hm rfl)

theorem changeCreds_same {M : Nat} {s0 : State} {a0 a1} (h1 : Same M s0 a1) (hm : 65536 ||| M = M) :
    Same M s0 (changeCreds a0 a1) := by
  unfold changeCreds
  repeat' first
    | with_reducible assumption
    | (extract_lets +onlyGivenNames x; first | (refine Same.cut M s0 x ?_ ?_; (focus (dsimp -zeta only [x]; clear x)); rotate_left 1; clear_value x; revert x; intro _ _) | (have hh := fun a => x a; clear hh; dsimp -zeta only [x]; clear x) | (clear_value x; revert x; intro _) | (dsimp -zeta only [x]; clear x))
    | with_reducible refine Same.up_fbs ?_ (Same.sub hm rfl)

theorem execCredDelete_same {M : Nat} {s0 : State} {a0 a1} (h1 : Same M s0 a1) (hm : 65592 ||| M = M) :
    OutSame M s0 (execCredDelete a0 a1) := by
  unfold execCredDelete
  repeat' first
    | with_reducible assumption
    | (extract_lets +onlyGivenNames x; first | (refine Same.cut M s0 x ?_ ?_; (focus (dsimp -zeta only [x]; clear x)); rotate_left 1; clear_value x; revert x; intro _ _) | (have hh := fun a => x a; clear hh; dsimp -zeta only [x]; clear x) | (clear_value x; revert x; intro _) | (dsimp -zeta only [x]; clear x))
    | with_reducible refine OutSame.next ?_
    | with_reducible refine regCmd_same (fun x0 k0 => ?_) ?_ (Same.sub hm rfl)
    | with_reducible refine credCode_same ?_ (Same.sub hm rfl)
    | with_reducible refine changeCreds_same ?_ (Same.sub hm rfl)
    | split

theorem execCredReplace_same {M : Nat} {s0 : State} {a0 a1 a2 a3} (h3 : Same M s0 a3) (hm : 65592 ||| M = M) :
    OutSame M s0 (execCredReplace a0 a1 a2 a3) := by
  unfold execCredReplace
  repeat' first
    | with_reducible assumption
    | (extract_lets +onlyGivenNames x; first | (refine Same.cut M s0 x ?_ ?_; (focus (dsimp -zeta only [x]; clear x)); rotate_left 1; clear_value x; revert x; intro _ _) | (have hh := fun a => x a; clear hh; dsimp -zeta only [x]; clear x) | (clear_value x; revert x; intro _) | (dsimp -zeta only [x]; clear x))
    | with_reducible refine OutSame.next ?_
    | with_reducible refine regCmd_same (fun x0 k0 => ?_) ?_ (Same.sub hm rfl)
    | with_reducible refine credCode_same ?_ (Same.sub hm rfl)
    | with_reducible refine changeCreds_same ?_ (Same.sub hm rfl)
    | split

theorem execCredAdd_same {M : Nat} {s0 : State} {a0 a1 a2 a3} (h3 : Same M s0 a3) (hm : 65592 ||| M = M) :
    OutSame M s0 (execCredAdd a0 a1 a2 a3) := by
  unfold execCredAdd
  repeat' first
    | with_reducible assumption
    | (extract_lets +onlyGivenNames x; first | (refine Same.cut M s0 x ?_ ?_; (focus (dsimp -zeta only [x]; clear x)); rotate_left 1; clear_value x; revert x; intro _ _) | (have hh := fun a => x a; clear hh; dsimp -zeta only [x]; clear x) | (clear_value x; revert x; intro _) | (dsimp -zeta only [x]; clear x))
    | with_reducible refine OutSame.next ?_
    | with_reducible refine regCmd_same (fun x0 k0 => ?_) ?_ (Same.sub hm rfl)
    | with_reducible refine credCode_same ?_ (Same.sub hm rfl)
    | with_reducible refine changeCreds_same ?_ (Same.sub hm rfl)
    | split

theorem collide_same {M : Nat} {s0 : State} {a0 a1} (h1 : Same M s0 a1) (hm : 65536 ||| M = M) :
    Same M s0 (collide a0 a1) := by
  unfold collide
  repeat' first
    | with_reducible assumption
    | with_reducible refine updDali_same ?_ (Same.sub hm rfl)
    | split

theorem liftRequest_same {M : Nat} {s0 : State} {a0 a1 a2} (h2 : Same M s0 a2) (hm : 65552 ||| M = M) :
    Same M s0 (liftRequest a0 a1 a2) := by
  unfold liftRequest
  repeat' first
    | with_reducible assumption
    | (extract_lets +onlyGivenNames x; first | (refine Same.cut M s0 x ?_ ?_; (focus (dsimp -zeta only [x]; clear x)); rotate_left 1; clear_value x; revert x; intro _ _) | (have hh := fun a => x a; clear hh; dsimp -zeta only [x]; clear x) | (clear_value x; revert x; intro _) | (dsimp -zeta only [x]; clear x))
    | with_reducible refine record_same ?_ (Same.sub hm rfl)
    | split
    | with_reducible refine Same.up_fbs ?_ (Same.sub hm rfl)

theorem decideDoor_same {M : Nat} {s0 : State} {a0 a1 a2 a3} (h3 : Same M s0 a3) (hm : 1147152 ||| M = M) :
    Same M s0 (decideDoor a0 a1 a2 a3) := by
  unfold decideDoor
  repeat' first
    | with_reducible assumption
    | (extract_lets +onlyGivenNames x; first | (refine Same.cut M s0 x ?_ ?_; (focus (dsimp -zeta only [x]; clear x)); rotate_left 1; clear_value x; revert x; intro _ _) | (have hh := fun a => x a; clear hh; dsimp -zeta only [x]; clear x) | (clear_value x; revert x; intro _) | (dsimp -zeta only [x]; clear x))
    | with_reducible refine liftRequest_same ?_ (Same.sub hm rfl)
    | with_reducible refine openDoor_same ?_ (Same.sub hm rfl)
    | with_reducible refine record_same ?_ (Same.sub hm rfl)
    | with_reducible refine updReader_same ?_ (Same.sub hm rfl)
    | split

theorem execAccessDecision_same {M : Nat} {s0 : State} {a0 a1} (h1 : Same M s0 a1) (hm : 1147152 ||| M = M) :
    OutSame M s0 (execAccessDecision a0 a1) := by
  unfold execAccessDecision
  repeat' first
    | with_reducible assumption
    | (extract_lets +onlyGivenNames x; first | (refine Same.cut M s0 x ?_ ?_; (focus (dsimp -zeta only [x]; clear x)); rotate_left 1; clear_value x; revert x; intro _ _) | (have hh := fun a => x a; clear hh; dsimp -zeta only [x]; clear x) | (clear_value x; revert x; intro _) | (dsimp -zeta only [x]; clear x))
    | with_reducible refine OutSame.next ?_
    | with_reducible refine decideDoor_same ?_ (Same.sub hm rfl)
    | with_reducible refine updOsdp_same ?_ (Same.sub hm rfl)
    | with_reducible refine Same.foldl (fun _ _ _ => ?_) ?_
    | split

theorem execBsiDaliFail_same {M : Nat} {s0 : State} {a0 a1 a2 a3} (h3 : Same M s0 a3) (hm : 229904 ||| M = M) :
    OutSame M s0 (execBsiDaliFail a0 a1 a2 a3) := by
  unfold execBsiDaliFail
  repeat' first
    | with_reducible assumption
    | (extract_lets +onlyGivenNames x; first | (refine Same.cut M s0 x ?_ ?_; (focus (dsimp -zeta only [x]; clear x)); rotate_left 1; clear_value x; revert x; intro _ _) | (have hh := fun a => x a; clear hh; dsimp -zeta only [x]; clear x) | (clear_value x; revert x; intro _) | (dsimp -zeta only [x]; clear x))
    | with_reducible refine OutSame.next ?_
    | with_reducible refine updDali_same ?_ (Same.sub hm rfl)
    | with_reducible refine loseBus_same ?_ (Same.sub hm rfl)
    | with_reducible refine record_same ?_ (Same.sub hm rfl)
    | split

theorem execCredTableRestore_same {M : Nat} {s0 : State} {a0} (h0 : Same M s0 a0) (hm : 65544 ||| M = M) :
    OutSame M s0 (execCredTableRestore a0) := by
  unfold execCredTableRestore
  repeat' first
    | with_reducible assumption
    | (extract_lets +onlyGivenNames x; first | (refine Same.cut M s0 x ?_ ?_; (focus (dsimp -zeta only [x]; clear x)); rotate_left 1; clear_value x; revert x; intro _ _) | (have hh := fun a => x a; clear hh; dsimp -zeta only [x]; clear x) | (clear_value x; revert x; intro _) | (dsimp -zeta only [x]; clear x))
    | with_reducible refine OutSame.next ?_
    | split
    | with_reducible refine Same.up_fbs ?_ (Same.sub hm rfl)
    | with_reducible refine Same.up_reply_fbs ?_ (Same.sub hm rfl) (Same.sub hm rfl)

theorem execDaliBackwardFrame_same {M : Nat} {s0 : State} {a0 a1 a2} (h2 : Same M s0 a2) (hm : 1147192 ||| M = M) :
    OutSame M s0 (execDaliBackwardFrame a0 a1 a2) := by
  unfold execDaliBackwardFrame
  repeat' first
    | with_reducible assumption
    | (extract_lets +onlyGivenNames x; first | (refine Same.cut M s0 x ?_ ?_; (focus (dsimp -zeta only [x]; clear x)); rotate_left 1; clear_value x; revert x; intro _ _) | (have hh := fun a => x a; clear hh; dsimp -zeta only [x]; clear x) | (clear_value x; revert x; intro _) | (dsimp -zeta only [x]; clear x))
    | with_reducible refine OutSame.next ?_
    | with_reducible refine heardStation_same ?_ (Same.sub hm rfl)
    | with_reducible refine updDali_same ?_ (Same.sub hm rfl)
    | with_reducible refine mirror_same ?_ (Same.sub hm rfl)
    | split

theorem execDaliBusRestored_same {M : Nat} {s0 : State} {a0 a1 a2 a3} (h3 : Same M s0 a3) (hm : 1114112 ||| M = M) :
    OutSame M s0 (execDaliBusRestored a0 a1 a2 a3) := by
  unfold execDaliBusRestored
  repeat' first
    | with_reducible assumption
    | (extract_lets +onlyGivenNames x; first | (refine Same.cut M s0 x ?_ ?_; (focus (dsimp -zeta only [x]; clear x)); rotate_left 1; clear_value x; revert x; intro _ _) | (have hh := fun a => x a; clear hh; dsimp -zeta only [x]; clear x) | (clear_value x; revert x; intro _) | (dsimp -zeta only [x]; clear x))
    | with_reducible refine OutSame.next ?_
    | with_reducible refine updDali_same ?_ (Same.sub hm rfl)
    | with_reducible refine portStart_same ?_ (Same.sub hm rfl)
    | split

theorem execDaliEventMessage_same {M : Nat} {s0 : State} {a0 a1 a2 a3 a4 a5} (h5 : Same M s0 a5) (hm : 1147192 ||| M = M) :
    OutSame M s0 (execDaliEventMessage a0 a1 a2 a3 a4 a5) := by
  unfold execDaliEventMessage
  repeat' first
    | with_reducible assumption
    | (extract_lets +onlyGivenNames x; first | (refine Same.cut M s0 x ?_ ?_; (focus (dsimp -zeta only [x]; clear x)); rotate_left 1; clear_value x; revert x; intro _ _) | (have hh := fun a => x a; clear hh; dsimp -zeta only [x]; clear x) | (clear_value x; revert x; intro _) | (dsimp -zeta only [x]; clear x))
    | with_reducible refine OutSame.next ?_
    | with_reducible refine updDali_same ?_ (Same.sub hm rfl)
    | with_reducible refine mirror_same ?_ (Same.sub hm rfl)
    | split

theorem sendLevel_same {M : Nat} {s0 : State} {a0 a1 a2} (h2 : Same M s0 a2) (hm : 65536 ||| M = M) :
    Same M s0 (sendLevel a0 a1 a2) := by
  unfold sendLevel
  repeat' first
    | with_reducible assumption
    | (extract_lets +onlyGivenNames x; first | (refine Same.cut M s0 x ?_ ?_; (focus (dsimp -zeta only [x]; clear x)); rotate_left 1; clear_value x; revert x; intro _ _) | (have hh := fun a => x a; clear hh; dsimp -zeta only [x]; clear x) | (clear_value x; revert x; intro _) | (dsimp -zeta only [x]; clear x))
    | with_reducible refine updDali_same ?_ (Same.sub hm rfl)
    | split

theorem execDaliLevelCommand_same {M : Nat} {s0 : State} {a0 a1 a2} (h2 : Same M s0 a2) (hm : 65536 ||| M = M) :
    OutSame M s0 (execDaliLevelCommand a0 a1 a2) := by
  unfold execDaliLevelCommand
  repeat' first
    | with_reducible assumption
    | with_reducible refine OutSame.next ?_
    | with_reducible refine collide_same ?_ (Same.sub hm rfl)
    | with_reducible refine sendLevel_same ?_ (Same.sub hm rfl)
    | split

theorem execDaliPoll_same {M : Nat} {s0 : State} {a0 a1} (h1 : Same M s0 a1) (hm : 65536 ||| M = M) :
    OutSame M s0 (execDaliPoll a0 a1) := by
  unfold execDaliPoll
  repeat' first
    | with_reducible assumption
    | (extract_lets +onlyGivenNames x; first | (refine Same.cut M s0 x ?_ ?_; (focus (dsimp -zeta only [x]; clear x)); rotate_left 1; clear_value x; revert x; intro _ _) | (have hh := fun a => x a; clear hh; dsimp -zeta only [x]; clear x) | (clear_value x; revert x; intro _) | (dsimp -zeta only [x]; clear x))
    | with_reducible refine OutSame.next ?_
    | with_reducible refine updDali_same ?_ (Same.sub hm rfl)
    | split
    | with_reducible refine Same.up_fbs ?_ (Same.sub hm rfl)

theorem sendZeros_same {M : Nat} {s0 : State} {a0 a1 a2} (h2 : Same M s0 a2) (hm : 65536 ||| M = M) :
    Same M s0 (sendZeros a0 a1 a2) := by
  induction a1 generalizing a2 with
  | nil =>
    unfold sendZeros
    repeat' first
      | with_reducible assumption
      | with_reducible refine updDali_same ?_ (Same.sub hm rfl)
      | with_reducible refine sendLevel_same ?_ (Same.sub hm rfl)
      | split
  | cons hd tl ih =>
    unfold sendZeros
    repeat' first
      | with_reducible refine ih ?_
      | with_reducible assumption
      | with_reducible refine updDali_same ?_ (Same.sub hm rfl)
      | with_reducible refine sendLevel_same ?_ (Same.sub hm rfl)
      | split

theorem execDaliStartCommandDue_same {M : Nat} {s0 : State} {a0 a1} (h1 : Same M s0 a1) (hm : 65536 ||| M = M) :
    OutSame M s0 (execDaliStartCommandDue a0 a1) := by
  unfold execDaliStartCommandDue
  repeat' first
    | with_reducible assumption
    | (extract_lets +onlyGivenNames x; first | (refine Same.cut M s0 x ?_ ?_; (focus (dsimp -zeta only [x]; clear x)); rotate_left 1; clear_value x; revert x; intro _ _) | (have hh := fun a => x a; clear hh; dsimp -zeta only [x]; clear x) | (clear_value x; revert x; intro _) | (dsimp -zeta only [x]; clear x))
    | with_reducible refine OutSame.next ?_
    | with_reducible refine sendZeros_same ?_ (Same.sub hm rfl)
    | split

theorem liftNext_same {M : Nat} {s0 : State} {a0} (h0 : Same M s0 a0) (hm : 1147184 ||| M = M) :
    Same M s0 (liftNext a0) := by
  unfold liftNext
  repeat' first
    | with_reducible assumption
    | (extract_lets +onlyGivenNames x; first | (refine Same.cut M s0 x ?_ ?_; (focus (dsimp -zeta only [x]; clear x)); rotate_left 1; clear_value x; revert x; intro _ _) | (have hh := fun a => x a; clear hh; dsimp -zeta only [x]; clear x) | (clear_value x; revert x; intro _) | (dsimp -zeta only [x]; clear x))
    | with_reducible refine writeBy_same ?_ (Same.sub hm rfl)
    | split
    | with_reducible refine Same.up_fbs ?_ (Same.sub hm rfl)

theorem keysetEvent_same {M : Nat} {s0 : State} {a0 a1 a2} (h2 : Same M s0 a2) (hm : 16 ||| M = M) :
    Same M s0 (keysetEvent a0 a1 a2) := by
  unfold keysetEvent
  repeat' first
    | with_reducible assumption
    | with_reducible refine record_same ?_ (Same.sub hm rfl)
    | split

theorem execInstallTimeout_same {M : Nat} {s0 : State} {a0 a1} (h1 : Same M s0 a1) (hm : 65552 ||| M = M) :
    OutSame M s0 (execInstallTimeout a0 a1) := by
  unfold execInstallTimeout
  repeat' first
    | with_reducible assumption
    | with_reducible refine OutSame.next ?_
    | with_reducible refine keysetEvent_same ?_ (Same.sub hm rfl)
    | with_reducible refine updReader_same ?_ (Same.sub hm rfl)
    | split

theorem execOsdpPoll_same {M : Nat} {s0 : State} {a0 a1} (h1 : Same M s0 a1) (hm : 65536 ||| M = M) :
    OutSame M s0 (execOsdpPoll a0 a1) := by
  unfold execOsdpPoll
  repeat' first
    | with_reducible assumption
    | (extract_lets +onlyGivenNames x; first | (refine Same.cut M s0 x ?_ ?_; (focus (dsimp -zeta only [x]; clear x)); rotate_left 1; clear_value x; revert x; intro _ _) | (have hh := fun a => x a; clear hh; dsimp -zeta only [x]; clear x) | (clear_value x; revert x; intro _) | (dsimp -zeta only [x]; clear x))
    | with_reducible refine OutSame.next ?_
    | with_reducible refine updReader_same ?_ (Same.sub hm rfl)
    | with_reducible refine updOsdp_same ?_ (Same.sub hm rfl)
    | split

theorem scFail_same {M : Nat} {s0 : State} {a0 a1 a2} (h2 : Same M s0 a2) (hm : 65552 ||| M = M) :
    Same M s0 (scFail a0 a1 a2) := by
  unfold scFail
  repeat' first
    | with_reducible assumption
    | (extract_lets +onlyGivenNames x; first | (refine Same.cut M s0 x ?_ ?_; (focus (dsimp -zeta only [x]; clear x)); rotate_left 1; clear_value x; revert x; intro _ _) | (have hh := fun a => x a; clear hh; dsimp -zeta only [x]; clear x) | (clear_value x; revert x; intro _) | (dsimp -zeta only [x]; clear x))
    | with_reducible refine record_same ?_ (Same.sub hm rfl)
    | with_reducible refine updReader_same ?_ (Same.sub hm rfl)
    | with_reducible refine updOsdp_same ?_ (Same.sub hm rfl)
    | split

theorem replyOp_same {M : Nat} {s0 : State} {a0 a1 a2 a3} (h3 : Same M s0 a3) (hm : 1147192 ||| M = M) :
    Same M s0 (replyOp a0 a1 a2 a3) := by
  cases a2 <;> unfold replyOp <;> dsimp -zeta only
  repeat' first
    | with_reducible assumption
    | (extract_lets +onlyGivenNames x; first | (refine Same.cut M s0 x ?_ ?_; (focus (dsimp -zeta only [x]; clear x)); rotate_left 1; clear_value x; revert x; intro _ _) | (have hh := fun a => x a; clear hh; dsimp -zeta only [x]; clear x) | (clear_value x; revert x; intro _) | (dsimp -zeta only [x]; clear x))
    | with_reducible refine keysetEvent_same ?_ (Same.sub hm rfl)
    | with_reducible refine mirror_same ?_ (Same.sub hm rfl)
    | with_reducible refine record_same ?_ (Same.sub hm rfl)
    | with_reducible refine updReader_same ?_ (Same.sub hm rfl)
    | with_reducible refine updOsdp_same ?_ (Same.sub hm rfl)
    | split

theorem execOsdpReply_same {M : Nat} {s0 : State} {a0 a1 a2 a3} (h3 : Same M s0 a3) (hm : 1147192 ||| M = M) :
    OutSame M s0 (execOsdpReply a0 a1 a2 a3) := by
  unfold execOsdpReply
  repeat' first
    | with_reducible assumption
    | (extract_lets +onlyGivenNames x; first | (refine Same.cut M s0 x ?_ ?_; (focus (dsimp -zeta only [x]; clear x)); rotate_left 1; clear_value x; revert x; intro _ _) | (have hh := fun a => x a; clear hh; dsimp -zeta only [x]; clear x) | (clear_value x; revert x; intro _) | (dsimp -zeta only [x]; clear x))
    | with_reducible refine OutSame.next ?_
    | with_reducible refine heardStation_same ?_ (Same.sub hm rfl)
    | with_reducible refine scFail_same ?_ (Same.sub hm rfl)
    | with_reducible refine replyOp_same ?_ (Same.sub hm rfl)
    | with_reducible refine updOsdp_same ?_ (Same.sub hm rfl)
    | split

theorem execOsdpReplyTimeout_same {M : Nat} {s0 : State} {a0 a1} (h1 : Same M s0 a1) (hm : 65536 ||| M = M) :
    OutSame M s0 (execOsdpReplyTimeout a0 a1) := by
  unfold execOsdpReplyTimeout
  repeat' first
    | with_reducible assumption
    | with_reducible refine OutSame.next ?_
    | with_reducible refine updOsdp_same ?_ (Same.sub hm rfl)
    | split

theorem scSetup_same {M : Nat} {s0 : State} {a0 a1 a2} (h2 : Same M s0 a2) (hm : 81920 ||| M = M) :
    Same M s0 (scSetup a0 a1 a2) := by
  unfold scSetup
  repeat' first
    | with_reducible assumption
    | (extract_lets +onlyGivenNames x; first | (refine Same.cut M s0 x ?_ ?_; (focus (dsimp -zeta only [x]; clear x)); rotate_left 1; clear_value x; revert x; intro _ _) | (have hh := fun a => x a; clear hh; dsimp -zeta only [x]; clear x) | (clear_value x; revert x; intro _) | (dsimp -zeta only [x]; clear x))
    | with_reducible refine updReader_same ?_ (Same.sub hm rfl)
    | with_reducible refine useBud_same ?_ (Same.sub hm rfl)
    | split

theorem execOsdpScSetup_same {M : Nat} {s0 : State} {a0 a1 a2 a3} (h3 : Same M s0 a3) (hm : 81936 ||| M = M) :
    OutSame M s0 (execOsdpScSetup a0 a1 a2 a3) := by
  unfold execOsdpScSetup
  repeat' first
    | with_reducible assumption
    | (extract_lets +onlyGivenNames x; first | (refine Same.cut M s0 x ?_ ?_; (focus (dsimp -zeta only [x]; clear x)); rotate_left 1; clear_value x; revert x; intro _ _) | (have hh := fun a => x a; clear hh; dsimp -zeta only [x]; clear x) | (clear_value x; revert x; intro _) | (dsimp -zeta only [x]; clear x))
    | with_reducible refine OutSame.next ?_
    | with_reducible refine scSetup_same ?_ (Same.sub hm rfl)
    | with_reducible refine scFail_same ?_ (Same.sub hm rfl)
    | with_reducible refine updOsdp_same ?_ (Same.sub hm rfl)
    | split

theorem execStrikeExpiry_same {M : Nat} {s0 : State} {a0 a1} (h1 : Same M s0 a1) (hm : 1147136 ||| M = M) :
    OutSame M s0 (execStrikeExpiry a0 a1) := by
  unfold execStrikeExpiry
  repeat' first
    | with_reducible assumption
    | (extract_lets +onlyGivenNames x; first | (refine Same.cut M s0 x ?_ ?_; (focus (dsimp -zeta only [x]; clear x)); rotate_left 1; clear_value x; revert x; intro _ _) | (have hh := fun a => x a; clear hh; dsimp -zeta only [x]; clear x) | (clear_value x; revert x; intro _) | (dsimp -zeta only [x]; clear x))
    | with_reducible refine OutSame.next ?_
    | with_reducible refine putEntry0_same ?_ (Same.sub hm rfl)
    | split
    | with_reducible refine Same.up_fbs ?_ (Same.sub hm rfl)

end Sys2Proof.Machine
end

