-- ==== Sys2Proof/Laws/FrameRingOps.lean ====
section
/-!
SUPPORT. FrameRingOps.lean: for each operation of Machine/RingOps.lean, the components of State it can change: the result agrees with the
state it starts from on every component whose bit in the mask is 0 (the bits as in `Same`).
-/
namespace Sys2Proof.Machine
set_option linter.all false

theorem dropStale_same {M : Nat} {s0 : State} {a0} (h0 : Same M s0 a0) (hm : 16384 ||| M = M) :
    Same M s0 (dropStale a0) := by
  unfold dropStale
  repeat' first
    | with_reducible assumption
    | (extract_lets +onlyGivenNames x; first | (refine Same.cut M s0 x ?_ ?_; (focus (dsimp -zeta only [x]; clear x)); rotate_left 1; clear_value x; revert x; intro _ _) | (have hh := fun a => x a; clear hh; dsimp -zeta only [x]; clear x) | (clear_value x; revert x; intro _) | (dsimp -zeta only [x]; clear x))
    | with_reducible refine Same.up_key ?_ (Same.sub hm rfl)

theorem newEpoch_same {M : Nat} {s0 : State} {a0 a1} (h1 : Same M s0 a1) (hm : 16384 ||| M = M) :
    Same M s0 (newEpoch a0 a1).2 := by
  unfold newEpoch
  repeat' first
    | with_reducible assumption
    | (extract_lets +onlyGivenNames x; first | (refine Same.cut M s0 x ?_ ?_; (focus (dsimp -zeta only [x]; clear x)); rotate_left 1; clear_value x; revert x; intro _ _) | (have hh := fun a => x a; clear hh; dsimp -zeta only [x]; clear x) | (clear_value x; revert x; intro _) | (dsimp -zeta only [x]; clear x))
    | with_reducible refine Same.foldl2 (fun _ _ _ => ?_) ?_
    | split
    | with_reducible refine Same.up_key ?_ (Same.sub hm rfl)
    | dsimp -zeta only

theorem noteBud_same {M : Nat} {s0 : State} {a0 a1} (h1 : Same M s0 a1) (hm : 16384 ||| M = M) :
    Same M s0 (noteBud a0 a1) := by
  unfold noteBud
  repeat' first
    | with_reducible assumption
    | with_reducible refine useBud_same ?_ (Same.sub hm rfl)

theorem noteSealed_same {M : Nat} {s0 : State} {a0 a1 a2 a3} (h3 : Same M s0 a3) (hm : 16384 ||| M = M) :
    Same M s0 (noteSealed a0 a1 a2 a3) := by
  unfold noteSealed
  repeat' first
    | with_reducible assumption
    | with_reducible refine noteBud_same ?_ (Same.sub hm rfl)
    | split

theorem sendAnswer_same {M : Nat} {s0 : State} {a0 a1 a2 a3 a4} (h4 : Same M s0 a4) (hm : 147512 ||| M = M) :
    Same M s0 (sendAnswer a0 a1 a2 a3 a4) := by
  unfold sendAnswer
  repeat' first
    | with_reducible assumption
    | (extract_lets +onlyGivenNames x; first | (refine Same.cut M s0 x ?_ ?_; (focus (dsimp -zeta only [x]; clear x)); rotate_left 1; clear_value x; revert x; intro _ _) | (refine Same.cut M s0 x.1 ?_ ?_; (focus (dsimp -zeta only [x]; clear x)); rotate_left 1; clear_value x; revert x; intro _ _) | (refine Same.cut M s0 x.2 ?_ ?_; (focus (dsimp -zeta only [x]; clear x)); rotate_left 1; clear_value x; revert x; intro _ _) | (have hh := fun a => x a; clear hh; dsimp -zeta only [x]; clear x) | (clear_value x; revert x; intro _) | (dsimp -zeta only [x]; clear x))
    | with_reducible refine dropStale_same ?_ (Same.sub hm rfl)
    | with_reducible refine xchRefuse_same ?_ (Same.sub hm rfl)
    | with_reducible refine sendBoth_same (fun x0 x1 x2 k2 => ?_) ?_ (Same.sub hm rfl)
    | with_reducible refine newEpoch_same ?_ (Same.sub hm rfl)
    | with_reducible refine Same.snd ‹_› (newEpoch_same ?_ (Same.sub hm rfl))
    | with_reducible refine queue3_same ?_ (Same.sub hm rfl)
    | with_reducible refine noteSealed_same ?_ (Same.sub hm rfl)
    | with_reducible refine Same.snd ‹_› ?_
    | with_reducible refine Same.fst ‹_› ?_
    | with_reducible refine Same.foldl1 (fun _ _ _ => ?_) ?_
    | with_reducible refine Same.foldl2 (fun _ _ _ => ?_) ?_
    | with_reducible refine Same.foldl2 (fun _ _ _ => ?_) ?_
    | split
    | with_reducible refine Same.up_net ?_ (Same.sub hm rfl)

theorem keepAnswer_same {M : Nat} {s0 : State} {a0 a1 a2 a3} (h3 : Same M s0 a3) (hm : 131072 ||| M = M) :
    Same M s0 (keepAnswer a0 a1 a2 a3) := by
  unfold keepAnswer
  repeat' first
    | with_reducible assumption
    | (extract_lets +onlyGivenNames x; first | (refine Same.cut M s0 x ?_ ?_; (focus (dsimp -zeta only [x]; clear x)); rotate_left 1; clear_value x; revert x; intro _ _) | (have hh := fun a => x a; clear hh; dsimp -zeta only [x]; clear x) | (clear_value x; revert x; intro _) | (dsimp -zeta only [x]; clear x))
    | split
    | with_reducible refine Same.up_net ?_ (Same.sub hm rfl)

theorem dupTake_same {M : Nat} {s0 : State} {a0 a1} (h0 : Same M s0 a0) (hm : 131088 ||| M = M) :
    Same M s0 (dupTake a0 a1).2 := by
  unfold dupTake
  repeat' first
    | with_reducible assumption
    | (extract_lets +onlyGivenNames x; first | (refine Same.cut M s0 x ?_ ?_; (focus (dsimp -zeta only [x]; clear x)); rotate_left 1; clear_value x; revert x; intro _ _) | (have hh := fun a => x a; clear hh; dsimp -zeta only [x]; clear x) | (clear_value x; revert x; intro _) | (dsimp -zeta only [x]; clear x))
    | with_reducible refine record_same ?_ (Same.sub hm rfl)
    | with_reducible refine Same.foldl2 (fun _ _ _ => ?_) ?_
    | split
    | with_reducible refine Same.up_net ?_ (Same.sub hm rfl)
    | dsimp -zeta only

theorem dupNote_same {M : Nat} {s0 : State} {a0 a1 a2} (h2 : Same M s0 a2) (hm : 131088 ||| M = M) :
    Same M s0 (dupNote a0 a1 a2).2 := by
  unfold dupNote
  repeat' first
    | with_reducible assumption
    | (extract_lets +onlyGivenNames x; first | (refine Same.cut M s0 x ?_ ?_; (focus (dsimp -zeta only [x]; clear x)); rotate_left 1; clear_value x; revert x; intro _ _) | (refine Same.cut M s0 x.2 ?_ ?_; (focus (dsimp -zeta only [x]; clear x)); rotate_left 1; clear_value x; revert x; intro _ _) | (have hh := fun a => x a; clear hh; dsimp -zeta only [x]; clear x) | (clear_value x; revert x; intro _) | (dsimp -zeta only [x]; clear x))
    | with_reducible refine dupTake_same ?_ (Same.sub hm rfl)
    | with_reducible refine Same.snd ‹_› (dupTake_same ?_ (Same.sub hm rfl))
    | with_reducible refine Same.snd ‹_› ?_
    | with_reducible refine Same.fst ‹_› ?_
    | with_reducible refine Same.foldl1 (fun _ _ _ => ?_) ?_
    | with_reducible refine Same.foldl2 (fun _ _ _ => ?_) ?_
    | with_reducible refine Same.foldl (fun _ _ _ => ?_) ?_
    | with_reducible refine Same.foldl2 (fun _ _ _ => ?_) ?_
    | split
    | with_reducible refine Same.up_net ?_ (Same.sub hm rfl)
    | dsimp -zeta only

theorem updNode_same {M : Nat} {s0 : State} {a0 a1 a2} (h2 : Same M s0 a2) (hm : 131072 ||| M = M) :
    Same M s0 (updNode a0 a1 a2) := by
  unfold updNode
  repeat' first
    | with_reducible assumption
    | (extract_lets +onlyGivenNames x; first | (refine Same.cut M s0 x ?_ ?_; (focus (dsimp -zeta only [x]; clear x)); rotate_left 1; clear_value x; revert x; intro _ _) | (have hh := fun a => x a; clear hh; dsimp -zeta only [x]; clear x) | (clear_value x; revert x; intro _) | (dsimp -zeta only [x]; clear x))
    | split
    | with_reducible refine Same.up_net ?_ (Same.sub hm rfl)

theorem updRefs_same {M : Nat} {s0 : State} {a0} (h0 : Same M s0 a0) (hm : 131088 ||| M = M) :
    Same M s0 (updRefs a0) := by
  unfold updRefs
  repeat' first
    | with_reducible assumption
    | (extract_lets +onlyGivenNames x; first | (refine Same.cut M s0 x ?_ ?_; (focus (dsimp -zeta only [x]; clear x)); rotate_left 1; clear_value x; revert x; intro _ _) | (have hh := fun a => x a; clear hh; dsimp -zeta only [x]; clear x) | (clear_value x; revert x; intro _) | (dsimp -zeta only [x]; clear x))
    | with_reducible refine record_same ?_ (Same.sub hm rfl)
    | with_reducible refine updNode_same ?_ (Same.sub hm rfl)
    | with_reducible refine Same.foldl (fun _ _ _ => ?_) ?_
    | split

theorem updPath_same {M : Nat} {s0 : State} {a0 a1 a2 a3} (h3 : Same M s0 a3) (hm : 131072 ||| M = M) :
    Same M s0 (updPath a0 a1 a2 a3) := by
  unfold updPath
  repeat' first
    | with_reducible assumption
    | with_reducible refine updNode_same ?_ (Same.sub hm rfl)
    | split

theorem withPaths_same {M : Nat} {s0 : State} {a0 a1} (h0 : ∀ x0, Same M s0 x0 → Same M s0 (a0 x0)) (h1 : Same M s0 a1) (hm : 131088 ||| M = M) :
    Same M s0 (withPaths a0 a1) := by
  unfold withPaths
  repeat' first
    | with_reducible assumption
    | (extract_lets +onlyGivenNames x; first | (refine Same.cut M s0 x ?_ ?_; (focus (dsimp -zeta only [x]; clear x)); rotate_left 1; clear_value x; revert x; intro _ _) | (have hh := fun a => x a; clear hh; dsimp -zeta only [x]; clear x) | (clear_value x; revert x; intro _) | (dsimp -zeta only [x]; clear x))
    | with_reducible refine h0 _ ?_
    | with_reducible refine updRefs_same ?_ (Same.sub hm rfl)
    | with_reducible refine updNode_same ?_ (Same.sub hm rfl)
    | with_reducible refine Same.foldl (fun _ _ _ => ?_) ?_
    | split

theorem pathHb_same {M : Nat} {s0 : State} {a0 a1 a2 a3} (h3 : Same M s0 a3) (hm : 131088 ||| M = M) :
    Same M s0 (pathHb a0 a1 a2 a3) := by
  unfold pathHb
  repeat' first
    | with_reducible assumption
    | (extract_lets +onlyGivenNames x; first | (refine Same.cut M s0 x ?_ ?_; (focus (dsimp -zeta only [x]; clear x)); rotate_left 1; clear_value x; revert x; intro _ _) | (have hh := fun a => x a; clear hh; dsimp -zeta only [x]; clear x) | (clear_value x; revert x; intro _) | (dsimp -zeta only [x]; clear x))
    | with_reducible refine updPath_same ?_ (Same.sub hm rfl)
    | with_reducible refine withPaths_same (fun x0 k0 => ?_) ?_ (Same.sub hm rfl)
    | split

theorem sendHbt_same {M : Nat} {s0 : State} {a0 a1 a2 a3} (h2 : ∀ x0 x1, Same M s0 x1 → Same M s0 (a2 x0 x1)) (h3 : Same M s0 a3) (hm : 147512 ||| M = M) :
    Same M s0 (sendHbt a0 a1 a2 a3) := by
  unfold sendHbt
  repeat' first
    | with_reducible assumption
    | (extract_lets +onlyGivenNames x; first | (refine Same.cut M s0 x ?_ ?_; (focus (dsimp -zeta only [x]; clear x)); rotate_left 1; clear_value x; revert x; intro _ _) | (refine Same.cut M s0 x.2 ?_ ?_; (focus (dsimp -zeta only [x]; clear x)); rotate_left 1; clear_value x; revert x; intro _ _) | (have hh := fun a => x a; clear hh; dsimp -zeta only [x]; clear x) | (clear_value x; revert x; intro _) | (dsimp -zeta only [x]; clear x))
    | with_reducible refine h2 _ _ ?_
    | with_reducible refine dropStale_same ?_ (Same.sub hm rfl)
    | with_reducible refine xchRefuse_same ?_ (Same.sub hm rfl)
    | with_reducible refine newEpoch_same ?_ (Same.sub hm rfl)
    | with_reducible refine Same.snd ‹_› (newEpoch_same ?_ (Same.sub hm rfl))
    | with_reducible refine noteSealed_same ?_ (Same.sub hm rfl)
    | with_reducible refine Same.snd ‹_› ?_
    | with_reducible refine Same.fst ‹_› ?_
    | with_reducible refine Same.foldl1 (fun _ _ _ => ?_) ?_
    | with_reducible refine Same.foldl2 (fun _ _ _ => ?_) ?_
    | split
    | with_reducible refine Same.up_net ?_ (Same.sub hm rfl)

theorem dupForget_same {M : Nat} {s0 : State} {a0 a1} (h1 : Same M s0 a1) (hm : 131072 ||| M = M) :
    Same M s0 (dupForget a0 a1) := by
  unfold dupForget
  repeat' first
    | with_reducible assumption
    | (extract_lets +onlyGivenNames x; first | (refine Same.cut M s0 x ?_ ?_; (focus (dsimp -zeta only [x]; clear x)); rotate_left 1; clear_value x; revert x; intro _ _) | (have hh := fun a => x a; clear hh; dsimp -zeta only [x]; clear x) | (clear_value x; revert x; intro _) | (dsimp -zeta only [x]; clear x))
    | with_reducible refine Same.foldl (fun _ _ _ => ?_) ?_
    | split
    | with_reducible refine Same.up_net ?_ (Same.sub hm rfl)

theorem losePeers_same {M : Nat} {s0 : State} {a0} (h0 : Same M s0 a0) (hm : 229904 ||| M = M) :
    Same M s0 (losePeers a0) := by
  unfold losePeers
  repeat' first
    | with_reducible assumption
    | with_reducible refine loseBus_same ?_ (Same.sub hm rfl)
    | with_reducible refine Same.foldl (fun _ _ _ => ?_) ?_
    | split

end Sys2Proof.Machine
end

