-- ==== Sys2Proof/Laws/FrameRing.lean ====
section
/-!
SUPPORT. FrameRing.lean: for each operation of Machine/Ring.lean, the components of State it can change: the result agrees with the
state it starts from on every component whose bit in the mask is 0 (the bits as in `Same`).
-/
namespace Sys2Proof.Machine
set_option linter.all false

theorem updFlow_same {M : Nat} {s0 : State} {a0 a1 a2} (h2 : Same M s0 a2) (hm : 131072 ||| M = M) :
    Same M s0 (updFlow a0 a1 a2) := by
  unfold updFlow
  repeat' first
    | with_reducible assumption
    | (extract_lets +onlyGivenNames x; first | (refine Same.cut M s0 x ?_ ?_; (focus (dsimp -zeta only [x]; clear x)); rotate_left 1; clear_value x; revert x; intro _ _) | (have hh := fun a => x a; clear hh; dsimp -zeta only [x]; clear x) | (clear_value x; revert x; intro _) | (dsimp -zeta only [x]; clear x))
    | split
    | with_reducible refine Same.up_net ?_ (Same.sub hm rfl)

theorem ptestEnd_same {M : Nat} {s0 : State} {a0 a1} (h1 : Same M s0 a1) (hm : 131072 ||| M = M) :
    Same M s0 (ptestEnd a0 a1) := by
  unfold ptestEnd
  repeat' first
    | with_reducible assumption
    | (extract_lets +onlyGivenNames x; first | (refine Same.cut M s0 x ?_ ?_; (focus (dsimp -zeta only [x]; clear x)); rotate_left 1; clear_value x; revert x; intro _ _) | (have hh := fun a => x a; clear hh; dsimp -zeta only [x]; clear x) | (clear_value x; revert x; intro _) | (dsimp -zeta only [x]; clear x))
    | with_reducible refine Same.up_net ?_ (Same.sub hm rfl)

theorem deliverFmp_same {M : Nat} {s0 : State} {a0 a1 a2} (h2 : Same M s0 a2) (hm : 147512 ||| M = M) :
    Same M s0 (deliverFmp a0 a1 a2) := by
  unfold deliverFmp
  repeat' first
    | with_reducible assumption
    | (extract_lets +onlyGivenNames x; first | (refine Same.cut M s0 x ?_ ?_; (focus (dsimp -zeta only [x]; clear x)); rotate_left 1; clear_value x; revert x; intro _ _) | (have hh := fun a => x a; clear hh; dsimp -zeta only [x]; clear x) | (clear_value x; revert x; intro _) | (dsimp -zeta only [x]; clear x))
    | with_reducible refine sendAnswer_same ?_ (Same.sub hm rfl)
    | with_reducible refine dropStale_same ?_ (Same.sub hm rfl)
    | split
    | with_reducible refine Same.up_key ?_ (Same.sub hm rfl)
    | with_reducible refine Same.up_net ?_ (Same.sub hm rfl)

theorem leesFirst_same {M : Nat} {s0 : State} {a0 a1 a2} (h2 : Same M s0 a2) (hm : 131072 ||| M = M) :
    Same M s0 (leesFirst a0 a1 a2) := by
  unfold leesFirst
  repeat' first
    | with_reducible assumption
    | (extract_lets +onlyGivenNames x; first | (refine Same.cut M s0 x ?_ ?_; (focus (dsimp -zeta only [x]; clear x)); rotate_left 1; clear_value x; revert x; intro _ _) | (have hh := fun a => x a; clear hh; dsimp -zeta only [x]; clear x) | (clear_value x; revert x; intro _) | (dsimp -zeta only [x]; clear x))
    | split
    | with_reducible refine Same.up_net ?_ (Same.sub hm rfl)

theorem writeEntries_same {M : Nat} {s0 : State} {a0 a1 a2 a3 a4} (h4 : Same M s0 a4) (hm : 1147184 ||| M = M) :
    Same M s0 (writeEntries a0 a1 a2 a3 a4) := by
  unfold writeEntries
  repeat' first
    | with_reducible assumption
    | (extract_lets +onlyGivenNames x; first | (refine Same.cut M s0 x ?_ ?_; (focus (dsimp -zeta only [x]; clear x)); rotate_left 1; clear_value x; revert x; intro _ _) | (have hh := fun a => x a; clear hh; dsimp -zeta only [x]; clear x) | (clear_value x; revert x; intro _) | (dsimp -zeta only [x]; clear x))
    | with_reducible refine writeBy_same ?_ (Same.sub hm rfl)
    | with_reducible refine Same.foldl (fun _ _ _ => ?_) ?_
    | split

theorem countLate_same {M : Nat} {s0 : State} {a0 a1} (h1 : Same M s0 a1) (hm : 131088 ||| M = M) :
    Same M s0 (countLate a0 a1) := by
  unfold countLate
  repeat' first
    | with_reducible assumption
    | (extract_lets +onlyGivenNames x; first | (refine Same.cut M s0 x ?_ ?_; (focus (dsimp -zeta only [x]; clear x)); rotate_left 1; clear_value x; revert x; intro _ _) | (have hh := fun a => x a; clear hh; dsimp -zeta only [x]; clear x) | (clear_value x; revert x; intro _) | (dsimp -zeta only [x]; clear x))
    | with_reducible refine updFlow_same ?_ (Same.sub hm rfl)
    | with_reducible refine record_same ?_ (Same.sub hm rfl)
    | split

theorem heardPeer_same {M : Nat} {s0 : State} {a0 a1} (h1 : Same M s0 a1) (hm : 1147152 ||| M = M) :
    Same M s0 (heardPeer a0 a1) := by
  unfold heardPeer
  repeat' first
    | with_reducible assumption
    | with_reducible refine heardStation_same ?_ (Same.sub hm rfl)
    | with_reducible refine Same.foldl (fun _ _ _ => ?_) ?_

theorem deliverFlow_same {M : Nat} {s0 : State} {a0 a1 a2} (h2 : Same M s0 a2) (hm : 1278264 ||| M = M) :
    Same M s0 (deliverFlow a0 a1 a2) := by
  unfold deliverFlow
  repeat' first
    | with_reducible assumption
    | (extract_lets +onlyGivenNames x; first | (refine Same.cut M s0 x ?_ ?_; (focus (dsimp -zeta only [x]; clear x)); rotate_left 1; clear_value x; revert x; intro _ _) | (have hh := fun a => x a; clear hh; dsimp -zeta only [x]; clear x) | (clear_value x; revert x; intro _) | (dsimp -zeta only [x]; clear x))
    | with_reducible refine writeEntries_same ?_ (Same.sub hm rfl)
    | with_reducible refine countLate_same ?_ (Same.sub hm rfl)
    | with_reducible refine xchRefuse_same ?_ (Same.sub hm rfl)
    | with_reducible refine denied_same ?_ (Same.sub hm rfl)
    | with_reducible refine heardPeer_same ?_ (Same.sub hm rfl)
    | with_reducible refine updFlow_same ?_ (Same.sub hm rfl)
    | split

theorem leesBad_same {M : Nat} {s0 : State} {a0 a1} (h1 : Same M s0 a1) (hm : 131088 ||| M = M) :
    Same M s0 (leesBad a0 a1) := by
  unfold leesBad
  repeat' first
    | with_reducible assumption
    | (extract_lets +onlyGivenNames x; first | (refine Same.cut M s0 x ?_ ?_; (focus (dsimp -zeta only [x]; clear x)); rotate_left 1; clear_value x; revert x; intro _ _) | (have hh := fun a => x a; clear hh; dsimp -zeta only [x]; clear x) | (clear_value x; revert x; intro _) | (dsimp -zeta only [x]; clear x))
    | with_reducible refine record_same ?_ (Same.sub hm rfl)
    | with_reducible refine updRefs_same ?_ (Same.sub hm rfl)
    | with_reducible refine updNode_same ?_ (Same.sub hm rfl)
    | split
    | with_reducible refine Same.up_net ?_ (Same.sub hm rfl)

theorem leesSecond_same {M : Nat} {s0 : State} {a0 a1} (h1 : Same M s0 a1) (hm : 131088 ||| M = M) :
    Same M s0 (leesSecond a0 a1) := by
  unfold leesSecond
  repeat' first
    | with_reducible assumption
    | (extract_lets +onlyGivenNames x; first | (refine Same.cut M s0 x ?_ ?_; (focus (dsimp -zeta only [x]; clear x)); rotate_left 1; clear_value x; revert x; intro _ _) | (have hh := fun a => x a; clear hh; dsimp -zeta only [x]; clear x) | (clear_value x; revert x; intro _) | (dsimp -zeta only [x]; clear x))
    | with_reducible refine leesBad_same ?_ (Same.sub hm rfl)
    | split
    | with_reducible refine Same.up_net ?_ (Same.sub hm rfl)

theorem noteMac_same {M : Nat} {s0 : State} {a0 a1 a2} (h2 : Same M s0 a2) (hm : 16400 ||| M = M) :
    Same M s0 (noteMac a0 a1 a2) := by
  unfold noteMac
  repeat' first
    | with_reducible assumption
    | (extract_lets +onlyGivenNames x; first | (refine Same.cut M s0 x ?_ ?_; (focus (dsimp -zeta only [x]; clear x)); rotate_left 1; clear_value x; revert x; intro _ _) | (have hh := fun a => x a; clear hh; dsimp -zeta only [x]; clear x) | (clear_value x; revert x; intro _) | (dsimp -zeta only [x]; clear x))
    | with_reducible refine record_same ?_ (Same.sub hm rfl)
    | split
    | with_reducible refine Same.up_key ?_ (Same.sub hm rfl)

theorem acceptCopy_same {M : Nat} {s0 : State} {a0 a1 a2 a3} (h3 : Same M s0 a3) (hm : 1294648 ||| M = M) :
    Same M s0 (acceptCopy a0 a1 a2 a3) := by
  unfold acceptCopy
  repeat' first
    | with_reducible assumption
    | (extract_lets +onlyGivenNames x; first | (refine Same.cut M s0 x ?_ ?_; (focus (dsimp -zeta only [x]; clear x)); rotate_left 1; clear_value x; revert x; intro _ _) | (refine Same.cut M s0 x.2 ?_ ?_; (focus (dsimp -zeta only [x]; clear x)); rotate_left 1; clear_value x; revert x; intro _ _) | (have hh := fun a => x a; clear hh; dsimp -zeta only [x]; clear x) | (clear_value x; revert x; intro _) | (dsimp -zeta only [x]; clear x))
    | with_reducible refine deliverFmp_same ?_ (Same.sub hm rfl)
    | with_reducible refine dupNote_same ?_ (Same.sub hm rfl)
    | with_reducible refine Same.snd ‹_› (dupNote_same ?_ (Same.sub hm rfl))
    | with_reducible refine leesFirst_same ?_ (Same.sub hm rfl)
    | with_reducible refine deliverFlow_same ?_ (Same.sub hm rfl)
    | with_reducible refine leesSecond_same ?_ (Same.sub hm rfl)
    | with_reducible refine pathHb_same ?_ (Same.sub hm rfl)
    | with_reducible refine noteMac_same ?_ (Same.sub hm rfl)
    | with_reducible refine Same.snd ‹_› ?_
    | with_reducible refine Same.fst ‹_› ?_
    | with_reducible refine Same.foldl1 (fun _ _ _ => ?_) ?_
    | with_reducible refine Same.foldl2 (fun _ _ _ => ?_) ?_
    | split

theorem setBypass_same {M : Nat} {s0 : State} {a0 a1} (h1 : Same M s0 a1) (hm : 131072 ||| M = M) :
    Same M s0 (setBypass a0 a1) := by
  unfold setBypass
  repeat' first
    | with_reducible assumption
    | (extract_lets +onlyGivenNames x; first | (refine Same.cut M s0 x ?_ ?_; (focus (dsimp -zeta only [x]; clear x)); rotate_left 1; clear_value x; revert x; intro _ _) | (have hh := fun a => x a; clear hh; dsimp -zeta only [x]; clear x) | (clear_value x; revert x; intro _) | (dsimp -zeta only [x]; clear x))
    | split
    | with_reducible refine Same.up_net ?_ (Same.sub hm rfl)

theorem noteBypass_same {M : Nat} {s0 : State} {a0} (h0 : Same M s0 a0) (hm : 131072 ||| M = M) :
    Same M s0 (noteBypass a0) := by
  unfold noteBypass
  repeat' first
    | with_reducible assumption
    | (extract_lets +onlyGivenNames x; first | (refine Same.cut M s0 x ?_ ?_; (focus (dsimp -zeta only [x]; clear x)); rotate_left 1; clear_value x; revert x; intro _ _) | (have hh := fun a => x a; clear hh; dsimp -zeta only [x]; clear x) | (clear_value x; revert x; intro _) | (dsimp -zeta only [x]; clear x))
    | with_reducible refine setBypass_same ?_ (Same.sub hm rfl)
    | split
    | with_reducible refine Same.up_net ?_ (Same.sub hm rfl)

theorem countDropped_same {M : Nat} {s0 : State} {a0 a1 a2} (h2 : Same M s0 a2) (hm : 131072 ||| M = M) :
    Same M s0 (countDropped a0 a1 a2) := by
  unfold countDropped
  repeat' first
    | with_reducible assumption
    | with_reducible refine updFlow_same ?_ (Same.sub hm rfl)

theorem execBypHoldSet_same {M : Nat} {s0 : State} {a0 a1 a2} (h2 : Same M s0 a2) (hm : 131128 ||| M = M) :
    OutSame M s0 (execBypHoldSet a0 a1 a2) := by
  unfold execBypHoldSet
  repeat' first
    | with_reducible assumption
    | (extract_lets +onlyGivenNames x; first | (refine Same.cut M s0 x ?_ ?_; (focus (dsimp -zeta only [x]; clear x)); rotate_left 1; clear_value x; revert x; intro _ _) | (have hh := fun a => x a; clear hh; dsimp -zeta only [x]; clear x) | (clear_value x; revert x; intro _) | (dsimp -zeta only [x]; clear x))
    | with_reducible refine OutSame.next ?_
    | with_reducible refine regCmd_same (fun x0 k0 => ?_) ?_ (Same.sub hm rfl)
    | with_reducible refine noteBypass_same ?_ (Same.sub hm rfl)
    | with_reducible refine Same.up_net ?_ (Same.sub hm rfl)

theorem execBypassRelease_same {M : Nat} {s0 : State} {a0} (h0 : Same M s0 a0) (hm : 131072 ||| M = M) :
    OutSame M s0 (execBypassRelease a0) := by
  unfold execBypassRelease
  repeat' first
    | with_reducible assumption
    | (extract_lets +onlyGivenNames x; first | (refine Same.cut M s0 x ?_ ?_; (focus (dsimp -zeta only [x]; clear x)); rotate_left 1; clear_value x; revert x; intro _ _) | (have hh := fun a => x a; clear hh; dsimp -zeta only [x]; clear x) | (clear_value x; revert x; intro _) | (dsimp -zeta only [x]; clear x))
    | with_reducible refine OutSame.next ?_
    | with_reducible refine setBypass_same ?_ (Same.sub hm rfl)
    | split
    | with_reducible refine Same.up_net ?_ (Same.sub hm rfl)

theorem execDupEntryTimeout_same {M : Nat} {s0 : State} {a0 a1} (h1 : Same M s0 a1) (hm : 131072 ||| M = M) :
    OutSame M s0 (execDupEntryTimeout a0 a1) := by
  unfold execDupEntryTimeout
  repeat' first
    | with_reducible assumption
    | with_reducible refine OutSame.next ?_
    | with_reducible refine dupForget_same ?_ (Same.sub hm rfl)
    | split

theorem execEgressTransmit_same {M : Nat} {s0 : State} {a0 a1} (h1 : Same M s0 a1) (hm : 131072 ||| M = M) :
    OutSame M s0 (execEgressTransmit a0 a1) := by
  unfold execEgressTransmit
  repeat' first
    | with_reducible assumption
    | with_reducible refine OutSame.next ?_
    | with_reducible refine updPort_same ?_ (Same.sub hm rfl)
    | split

theorem ptestStartOp_same {M : Nat} {s0 : State} {a0 a1 a2 a3} (h3 : Same M s0 a3) (hm : 131072 ||| M = M) :
    Same M s0 (ptestStartOp a0 a1 a2 a3) := by
  unfold ptestStartOp
  repeat' first
    | with_reducible assumption
    | (extract_lets +onlyGivenNames x; first | (refine Same.cut M s0 x ?_ ?_; (focus (dsimp -zeta only [x]; clear x)); rotate_left 1; clear_value x; revert x; intro _ _) | (have hh := fun a => x a; clear hh; dsimp -zeta only [x]; clear x) | (clear_value x; revert x; intro _) | (dsimp -zeta only [x]; clear x))
    | split
    | with_reducible refine Same.up_net ?_ (Same.sub hm rfl)

theorem execPathTestStart_same {M : Nat} {s0 : State} {a0 a1 a2 a3} (h3 : Same M s0 a3) (hm : 131128 ||| M = M) :
    OutSame M s0 (execPathTestStart a0 a1 a2 a3) := by
  unfold execPathTestStart
  repeat' first
    | with_reducible assumption
    | with_reducible refine OutSame.next ?_
    | with_reducible refine regCmd_same (fun x0 k0 => ?_) ?_ (Same.sub hm rfl)
    | with_reducible refine ptestStartOp_same ?_ (Same.sub hm rfl)

theorem heartbeatOp_same {M : Nat} {s0 : State} {a0} (h0 : Same M s0 a0) (hm : 147512 ||| M = M) :
    Same M s0 (heartbeatOp a0) := by
  unfold heartbeatOp
  repeat' first
    | with_reducible assumption
    | (extract_lets +onlyGivenNames x; first | (refine Same.cut M s0 x ?_ ?_; (focus (dsimp -zeta only [x]; clear x)); rotate_left 1; clear_value x; revert x; intro _ _) | (have hh := fun a => x a; clear hh; dsimp -zeta only [x]; clear x) | (clear_value x; revert x; intro _) | (dsimp -zeta only [x]; clear x))
    | with_reducible refine sendBoth_same (fun x0 x1 x2 k2 => ?_) ?_ (Same.sub hm rfl)
    | with_reducible refine queue1_same ?_ (Same.sub hm rfl)
    | with_reducible refine sendHbt_same (fun x0 x1 k1 => ?_) ?_ (Same.sub hm rfl)
    | split
    | with_reducible refine Same.up_net ?_ (Same.sub hm rfl)

theorem execHeartbeatSend_same {M : Nat} {s0 : State} {a0} (h0 : Same M s0 a0) (hm : 147512 ||| M = M) :
    OutSame M s0 (execHeartbeatSend a0) := by
  unfold execHeartbeatSend
  repeat' first
    | with_reducible assumption
    | with_reducible refine OutSame.next ?_
    | with_reducible refine heartbeatOp_same ?_ (Same.sub hm rfl)

theorem execLeesHoldTimeout_same {M : Nat} {s0 : State} {a0 a1} (h1 : Same M s0 a1) (hm : 131072 ||| M = M) :
    OutSame M s0 (execLeesHoldTimeout a0 a1) := by
  unfold execLeesHoldTimeout
  repeat' first
    | with_reducible assumption
    | (extract_lets +onlyGivenNames x; first | (refine Same.cut M s0 x ?_ ?_; (focus (dsimp -zeta only [x]; clear x)); rotate_left 1; clear_value x; revert x; intro _ _) | (have hh := fun a => x a; clear hh; dsimp -zeta only [x]; clear x) | (clear_value x; revert x; intro _) | (dsimp -zeta only [x]; clear x))
    | with_reducible refine OutSame.next ?_
    | split
    | with_reducible refine Same.up_net ?_ (Same.sub hm rfl)

theorem execLinkDown_same {M : Nat} {s0 : State} {a0 a1} (h1 : Same M s0 a1) (hm : 229904 ||| M = M) :
    OutSame M s0 (execLinkDown a0 a1) := by
  unfold execLinkDown
  repeat' first
    | with_reducible assumption
    | with_reducible refine OutSame.next ?_
    | with_reducible refine updPort_same ?_ (Same.sub hm rfl)
    | with_reducible refine losePeers_same ?_ (Same.sub hm rfl)
    | with_reducible refine withPaths_same (fun x0 k0 => ?_) ?_ (Same.sub hm rfl)
    | split

theorem execLinkUp_same {M : Nat} {s0 : State} {a0 a1} (h1 : Same M s0 a1) (hm : 131088 ||| M = M) :
    OutSame M s0 (execLinkUp a0 a1) := by
  unfold execLinkUp
  repeat' first
    | with_reducible assumption
    | with_reducible refine OutSame.next ?_
    | with_reducible refine updPort_same ?_ (Same.sub hm rfl)
    | with_reducible refine withPaths_same (fun x0 k0 => ?_) ?_ (Same.sub hm rfl)
    | split

theorem pathFailOp_same {M : Nat} {s0 : State} {a0 a1 a2} (h2 : Same M s0 a2) (hm : 229904 ||| M = M) :
    Same M s0 (pathFailOp a0 a1 a2) := by
  unfold pathFailOp
  repeat' first
    | with_reducible assumption
    | (extract_lets +onlyGivenNames x; first | (refine Same.cut M s0 x ?_ ?_; (focus (dsimp -zeta only [x]; clear x)); rotate_left 1; clear_value x; revert x; intro _ _) | (have hh := fun a => x a; clear hh; dsimp -zeta only [x]; clear x) | (clear_value x; revert x; intro _) | (dsimp -zeta only [x]; clear x))
    | with_reducible refine updPath_same ?_ (Same.sub hm rfl)
    | with_reducible refine losePeers_same ?_ (Same.sub hm rfl)
    | with_reducible refine record_same ?_ (Same.sub hm rfl)
    | with_reducible refine withPaths_same (fun x0 k0 => ?_) ?_ (Same.sub hm rfl)
    | split

theorem execNetPathFail_same {M : Nat} {s0 : State} {a0 a1 a2} (h2 : Same M s0 a2) (hm : 229904 ||| M = M) :
    OutSame M s0 (execNetPathFail a0 a1 a2) := by
  unfold execNetPathFail
  repeat' first
    | with_reducible assumption
    | (extract_lets +onlyGivenNames x; first | (refine Same.cut M s0 x ?_ ?_; (focus (dsimp -zeta only [x]; clear x)); rotate_left 1; clear_value x; revert x; intro _ _) | (have hh := fun a => x a; clear hh; dsimp -zeta only [x]; clear x) | (clear_value x; revert x; intro _) | (dsimp -zeta only [x]; clear x))
    | with_reducible refine OutSame.next ?_
    | with_reducible refine pathFailOp_same ?_ (Same.sub hm rfl)
    | split

theorem execNetPathUp_same {M : Nat} {s0 : State} {a0 a1 a2} (h2 : Same M s0 a2) (hm : 131088 ||| M = M) :
    OutSame M s0 (execNetPathUp a0 a1 a2) := by
  unfold execNetPathUp
  repeat' first
    | with_reducible assumption
    | (extract_lets +onlyGivenNames x; first | (refine Same.cut M s0 x ?_ ?_; (focus (dsimp -zeta only [x]; clear x)); rotate_left 1; clear_value x; revert x; intro _ _) | (have hh := fun a => x a; clear hh; dsimp -zeta only [x]; clear x) | (clear_value x; revert x; intro _) | (dsimp -zeta only [x]; clear x))
    | with_reducible refine OutSame.next ?_
    | with_reducible refine updPath_same ?_ (Same.sub hm rfl)
    | with_reducible refine record_same ?_ (Same.sub hm rfl)
    | with_reducible refine withPaths_same (fun x0 k0 => ?_) ?_ (Same.sub hm rfl)
    | split

theorem execPathTestEnd_same {M : Nat} {s0 : State} {a0} (h0 : Same M s0 a0) (hm : 131072 ||| M = M) :
    OutSame M s0 (execPathTestEnd a0) := by
  unfold execPathTestEnd
  repeat' first
    | with_reducible assumption
    | (extract_lets +onlyGivenNames x; first | (refine Same.cut M s0 x ?_ ?_; (focus (dsimp -zeta only [x]; clear x)); rotate_left 1; clear_value x; revert x; intro _ _) | (have hh := fun a => x a; clear hh; dsimp -zeta only [x]; clear x) | (clear_value x; revert x; intro _) | (dsimp -zeta only [x]; clear x))
    | with_reducible refine OutSame.next ?_
    | with_reducible refine ptestEnd_same ?_ (Same.sub hm rfl)
    | split

theorem ptestSendOp_same {M : Nat} {s0 : State} {a0} (h0 : Same M s0 a0) (hm : 147512 ||| M = M) :
    Same M s0 (ptestSendOp a0) := by
  unfold ptestSendOp
  repeat' first
    | with_reducible assumption
    | (extract_lets +onlyGivenNames x; first | (refine Same.cut M s0 x ?_ ?_; (focus (dsimp -zeta only [x]; clear x)); rotate_left 1; clear_value x; revert x; intro _ _) | (have hh := fun a => x a; clear hh; dsimp -zeta only [x]; clear x) | (clear_value x; revert x; intro _) | (dsimp -zeta only [x]; clear x))
    | with_reducible refine nextHsr_same ?_ (Same.sub hm rfl)
    | with_reducible refine queue3_same ?_ (Same.sub hm rfl)
    | with_reducible refine sendHbt_same (fun x0 x1 k1 => ?_) ?_ (Same.sub hm rfl)
    | with_reducible refine Same.up_net ?_ (Same.sub hm rfl)

theorem execPathTestFrameSend_same {M : Nat} {s0 : State} {a0} (h0 : Same M s0 a0) (hm : 147512 ||| M = M) :
    OutSame M s0 (execPathTestFrameSend a0) := by
  unfold execPathTestFrameSend
  repeat' first
    | with_reducible assumption
    | (extract_lets +onlyGivenNames x; first | (refine Same.cut M s0 x ?_ ?_; (focus (dsimp -zeta only [x]; clear x)); rotate_left 1; clear_value x; revert x; intro _ _) | (have hh := fun a => x a; clear hh; dsimp -zeta only [x]; clear x) | (clear_value x; revert x; intro _) | (dsimp -zeta only [x]; clear x))
    | with_reducible refine OutSame.next ?_
    | with_reducible refine ptestSendOp_same ?_ (Same.sub hm rfl)
    | split

theorem receiveOwn_same {M : Nat} {s0 : State} {a0 a1 a2} (h2 : Same M s0 a2) (hm : 1294648 ||| M = M) :
    Same M s0 (receiveOwn a0 a1 a2) := by
  unfold receiveOwn
  repeat' first
    | with_reducible assumption
    | (extract_lets +onlyGivenNames x; first | (refine Same.cut M s0 x ?_ ?_; (focus (dsimp -zeta only [x]; clear x)); rotate_left 1; clear_value x; revert x; intro _ _) | (have hh := fun a => x a; clear hh; dsimp -zeta only [x]; clear x) | (clear_value x; revert x; intro _) | (dsimp -zeta only [x]; clear x))
    | with_reducible refine dropStale_same ?_ (Same.sub hm rfl)
    | with_reducible refine xchRefuse_same ?_ (Same.sub hm rfl)
    | with_reducible refine noteBud_same ?_ (Same.sub hm rfl)
    | with_reducible refine countDropped_same ?_ (Same.sub hm rfl)
    | with_reducible refine acceptCopy_same ?_ (Same.sub hm rfl)
    | split

theorem testReturn_same {M : Nat} {s0 : State} {a0 a1 a2} (h2 : Same M s0 a2) (hm : 131072 ||| M = M) :
    Same M s0 (testReturn a0 a1 a2) := by
  unfold testReturn
  repeat' first
    | with_reducible assumption
    | (extract_lets +onlyGivenNames x; first | (refine Same.cut M s0 x ?_ ?_; (focus (dsimp -zeta only [x]; clear x)); rotate_left 1; clear_value x; revert x; intro _ _) | (have hh := fun a => x a; clear hh; dsimp -zeta only [x]; clear x) | (clear_value x; revert x; intro _) | (dsimp -zeta only [x]; clear x))
    | split
    | with_reducible refine Same.up_net ?_ (Same.sub hm rfl)

theorem forward_same {M : Nat} {s0 : State} {a0 a1 a2} (h2 : Same M s0 a2) (hm : 131072 ||| M = M) :
    Same M s0 (forward a0 a1 a2) := by
  unfold forward
  repeat' first
    | with_reducible assumption
    | (extract_lets +onlyGivenNames x; first | (refine Same.cut M s0 x ?_ ?_; (focus (dsimp -zeta only [x]; clear x)); rotate_left 1; clear_value x; revert x; intro _ _) | (have hh := fun a => x a; clear hh; dsimp -zeta only [x]; clear x) | (clear_value x; revert x; intro _) | (dsimp -zeta only [x]; clear x))
    | with_reducible refine queue1_same ?_ (Same.sub hm rfl)
    | with_reducible refine queue2_same ?_ (Same.sub hm rfl)
    | with_reducible refine queueEvent_same ?_ (Same.sub hm rfl)
    | split

theorem ringFrameOp_same {M : Nat} {s0 : State} {a0 a1 a2} (h2 : Same M s0 a2) (hm : 1294648 ||| M = M) :
    Same M s0 (ringFrameOp a0 a1 a2) := by
  unfold ringFrameOp
  repeat' first
    | with_reducible assumption
    | (extract_lets +onlyGivenNames x; first | (refine Same.cut M s0 x ?_ ?_; (focus (dsimp -zeta only [x]; clear x)); rotate_left 1; clear_value x; revert x; intro _ _) | (have hh := fun a => x a; clear hh; dsimp -zeta only [x]; clear x) | (clear_value x; revert x; intro _) | (dsimp -zeta only [x]; clear x))
    | with_reducible refine receiveOwn_same ?_ (Same.sub hm rfl)
    | with_reducible refine testReturn_same ?_ (Same.sub hm rfl)
    | with_reducible refine forward_same ?_ (Same.sub hm rfl)
    | split

theorem execRingFrameReceived_same {M : Nat} {s0 : State} {a0 a1 a2} (h2 : Same M s0 a2) (hm : 1294648 ||| M = M) :
    OutSame M s0 (execRingFrameReceived a0 a1 a2) := by
  unfold execRingFrameReceived
  repeat' first
    | with_reducible assumption
    | with_reducible refine OutSame.next ?_
    | with_reducible refine ringFrameOp_same ?_ (Same.sub hm rfl)

theorem execSupervisionFrameSend_same {M : Nat} {s0 : State} {a0} (h0 : Same M s0 a0) (hm : 131072 ||| M = M) :
    OutSame M s0 (execSupervisionFrameSend a0) := by
  unfold execSupervisionFrameSend
  repeat' first
    | with_reducible assumption
    | (extract_lets +onlyGivenNames x; first | (refine Same.cut M s0 x ?_ ?_; (focus (dsimp -zeta only [x]; clear x)); rotate_left 1; clear_value x; revert x; intro _ _) | (have hh := fun a => x a; clear hh; dsimp -zeta only [x]; clear x) | (clear_value x; revert x; intro _) | (dsimp -zeta only [x]; clear x))
    | with_reducible refine OutSame.next ?_
    | with_reducible refine sendBoth_same (fun x0 x1 x2 k2 => ?_) ?_ (Same.sub hm rfl)
    | with_reducible refine queue3_same ?_ (Same.sub hm rfl)
    | split
    | with_reducible refine Same.up_net ?_ (Same.sub hm rfl)

theorem execSuspectClear_same {M : Nat} {s0 : State} {a0 a1} (h1 : Same M s0 a1) (hm : 131088 ||| M = M) :
    OutSame M s0 (execSuspectClear a0 a1) := by
  unfold execSuspectClear
  repeat' first
    | with_reducible assumption
    | with_reducible refine OutSame.next ?_
    | with_reducible refine updRefs_same ?_ (Same.sub hm rfl)
    | with_reducible refine updNode_same ?_ (Same.sub hm rfl)
    | split

end Sys2Proof.Machine
end

