-- ==== Sys2Proof/Laws/FrameTime.lean ====
section
/-!
SUPPORT. FrameTime.lean: for each operation of Machine/Time.lean, the components of State it can change: the result agrees with the
state it starts from on every component whose bit in the mask is 0 (the bits as in `Same`).
-/
namespace Sys2Proof.Machine
set_option linter.all false

theorem timAbort_same {M : Nat} {s0 : State} {a0} (h0 : Same M s0 a0) (hm : 262160 ||| M = M) :
    Same M s0 (timAbort a0) := by
  unfold timAbort
  repeat' first
    | with_reducible assumption
    | (extract_lets +onlyGivenNames x; first | (refine Same.cut M s0 x ?_ ?_; (focus (dsimp -zeta only [x]; clear x)); rotate_left 1; clear_value x; revert x; intro _ _) | (have hh := fun a => x a; clear hh; dsimp -zeta only [x]; clear x) | (clear_value x; revert x; intro _) | (dsimp -zeta only [x]; clear x))
    | with_reducible refine updDom_same ?_ (Same.sub hm rfl)
    | with_reducible refine record_same ?_ (Same.sub hm rfl)
    | with_reducible refine Same.foldl (fun _ _ _ => ?_) ?_
    | split

theorem noteStep_same {M : Nat} {s0 : State} {a0 a1 a2} (h2 : Same M s0 a2) (hm : 262160 ||| M = M) :
    Same M s0 (noteStep a0 a1 a2) := by
  unfold noteStep
  repeat' first
    | with_reducible assumption
    | (extract_lets +onlyGivenNames x; first | (refine Same.cut M s0 x ?_ ?_; (focus (dsimp -zeta only [x]; clear x)); rotate_left 1; clear_value x; revert x; intro _ _) | (have hh := fun a => x a; clear hh; dsimp -zeta only [x]; clear x) | (clear_value x; revert x; intro _) | (dsimp -zeta only [x]; clear x))
    | with_reducible refine updDom_same ?_ (Same.sub hm rfl)
    | with_reducible refine record_same ?_ (Same.sub hm rfl)
    | with_reducible refine Same.foldl (fun _ _ _ => ?_) ?_
    | split
    | with_reducible refine Same.up_tim ?_ (Same.sub hm rfl)

theorem stepDom_same {M : Nat} {s0 : State} {a0 a1 a2} (h2 : Same M s0 a2) (hm : 262160 ||| M = M) :
    Same M s0 (stepDom a0 a1 a2) := by
  unfold stepDom
  repeat' first
    | with_reducible assumption
    | (extract_lets +onlyGivenNames x; first | (refine Same.cut M s0 x ?_ ?_; (focus (dsimp -zeta only [x]; clear x)); rotate_left 1; clear_value x; revert x; intro _ _) | (have hh := fun a => x a; clear hh; dsimp -zeta only [x]; clear x) | (clear_value x; revert x; intro _) | (dsimp -zeta only [x]; clear x))
    | with_reducible refine noteStep_same ?_ (Same.sub hm rfl)
    | with_reducible refine updDom_same ?_ (Same.sub hm rfl)
    | with_reducible refine Same.foldl (fun _ _ _ => ?_) ?_
    | split
    | with_reducible refine Same.up_tim ?_ (Same.sub hm rfl)

theorem slewDom_same {M : Nat} {s0 : State} {a0 a1 a2} (h2 : Same M s0 a2) (hm : 262144 ||| M = M) :
    Same M s0 (slewDom a0 a1 a2) := by
  unfold slewDom
  repeat' first
    | with_reducible assumption
    | with_reducible refine updDom_same ?_ (Same.sub hm rfl)

theorem correct_same {M : Nat} {s0 : State} {a0 a1 a2 a3} (h3 : Same M s0 a3) (hm : 262160 ||| M = M) :
    Same M s0 (correct a0 a1 a2 a3) := by
  unfold correct
  repeat' first
    | with_reducible assumption
    | with_reducible refine stepDom_same ?_ (Same.sub hm rfl)
    | with_reducible refine updDom_same ?_ (Same.sub hm rfl)
    | with_reducible refine slewDom_same ?_ (Same.sub hm rfl)
    | split

theorem acceptMaster_same {M : Nat} {s0 : State} {a0 a1 a2 a3} (h3 : Same M s0 a3) (hm : 262160 ||| M = M) :
    Same M s0 (acceptMaster a0 a1 a2 a3) := by
  unfold acceptMaster
  repeat' first
    | with_reducible assumption
    | (extract_lets +onlyGivenNames x; first | (refine Same.cut M s0 x ?_ ?_; (focus (dsimp -zeta only [x]; clear x)); rotate_left 1; clear_value x; revert x; intro _ _) | (have hh := fun a => x a; clear hh; dsimp -zeta only [x]; clear x) | (clear_value x; revert x; intro _) | (dsimp -zeta only [x]; clear x))
    | with_reducible refine updDom_same ?_ (Same.sub hm rfl)
    | with_reducible refine record_same ?_ (Same.sub hm rfl)
    | with_reducible refine correct_same ?_ (Same.sub hm rfl)
    | split

theorem timStatus_same {M : Nat} {s0 : State} {a0 a1 a2} (h2 : Same M s0 a2) (hm : 262152 ||| M = M) :
    Same M s0 (timStatus a0 a1 a2) := by
  unfold timStatus
  repeat' first
    | with_reducible assumption
    | (extract_lets +onlyGivenNames x; first | (refine Same.cut M s0 x ?_ ?_; (focus (dsimp -zeta only [x]; clear x)); rotate_left 1; clear_value x; revert x; intro _ _) | (have hh := fun a => x a; clear hh; dsimp -zeta only [x]; clear x) | (clear_value x; revert x; intro _) | (dsimp -zeta only [x]; clear x))
    | split
    | with_reducible refine Same.up_reply_tim ?_ (Same.sub hm rfl) (Same.sub hm rfl)

theorem timRefuse_same {M : Nat} {s0 : State} {a0 a1 a2 a3} (h3 : Same M s0 a3) (hm : 262168 ||| M = M) :
    Same M s0 (timRefuse a0 a1 a2 a3) := by
  unfold timRefuse
  repeat' first
    | with_reducible assumption
    | (extract_lets +onlyGivenNames x; first | (refine Same.cut M s0 x ?_ ?_; (focus (dsimp -zeta only [x]; clear x)); rotate_left 1; clear_value x; revert x; intro _ _) | (have hh := fun a => x a; clear hh; dsimp -zeta only [x]; clear x) | (clear_value x; revert x; intro _) | (dsimp -zeta only [x]; clear x))
    | with_reducible refine timStatus_same ?_ (Same.sub hm rfl)
    | with_reducible refine record_same ?_ (Same.sub hm rfl)
    | split

theorem adjustOp_same {M : Nat} {s0 : State} {a0 a1 a2} (h2 : Same M s0 a2) (hm : 262168 ||| M = M) :
    Same M s0 (adjustOp a0 a1 a2) := by
  unfold adjustOp
  repeat' first
    | with_reducible assumption
    | (extract_lets +onlyGivenNames x; first | (refine Same.cut M s0 x ?_ ?_; (focus (dsimp -zeta only [x]; clear x)); rotate_left 1; clear_value x; revert x; intro _ _) | (have hh := fun a => x a; clear hh; dsimp -zeta only [x]; clear x) | (clear_value x; revert x; intro _) | (dsimp -zeta only [x]; clear x))
    | with_reducible refine timRefuse_same ?_ (Same.sub hm rfl)
    | with_reducible refine timStatus_same ?_ (Same.sub hm rfl)
    | with_reducible refine slewDom_same ?_ (Same.sub hm rfl)
    | split

theorem loseMaster_same {M : Nat} {s0 : State} {a0 a1} (h1 : Same M s0 a1) (hm : 262160 ||| M = M) :
    Same M s0 (loseMaster a0 a1) := by
  unfold loseMaster
  repeat' first
    | with_reducible assumption
    | (extract_lets +onlyGivenNames x; first | (refine Same.cut M s0 x ?_ ?_; (focus (dsimp -zeta only [x]; clear x)); rotate_left 1; clear_value x; revert x; intro _ _) | (have hh := fun a => x a; clear hh; dsimp -zeta only [x]; clear x) | (clear_value x; revert x; intro _) | (dsimp -zeta only [x]; clear x))
    | with_reducible refine updDom_same ?_ (Same.sub hm rfl)
    | with_reducible refine record_same ?_ (Same.sub hm rfl)
    | with_reducible refine Same.foldl (fun _ _ _ => ?_) ?_
    | split

theorem becomeMaster_same {M : Nat} {s0 : State} {a0 a1} (h1 : Same M s0 a1) (hm : 262144 ||| M = M) :
    Same M s0 (becomeMaster a0 a1) := by
  unfold becomeMaster
  repeat' first
    | with_reducible assumption
    | with_reducible refine updDom_same ?_ (Same.sub hm rfl)

theorem noteTrust_same {M : Nat} {s0 : State} {a0} (h0 : Same M s0 a0) (hm : 262160 ||| M = M) :
    Same M s0 (noteTrust a0) := by
  unfold noteTrust
  repeat' first
    | with_reducible assumption
    | (extract_lets +onlyGivenNames x; first | (refine Same.cut M s0 x ?_ ?_; (focus (dsimp -zeta only [x]; clear x)); rotate_left 1; clear_value x; revert x; intro _ _) | (have hh := fun a => x a; clear hh; dsimp -zeta only [x]; clear x) | (clear_value x; revert x; intro _) | (dsimp -zeta only [x]; clear x))
    | with_reducible refine updDom_same ?_ (Same.sub hm rfl)
    | with_reducible refine record_same ?_ (Same.sub hm rfl)
    | with_reducible refine Same.foldl (fun _ _ _ => ?_) ?_
    | split

theorem announceOp_same {M : Nat} {s0 : State} {a0 a1} (h1 : Same M s0 a1) (hm : 262160 ||| M = M) :
    Same M s0 (announceOp a0 a1) := by
  unfold announceOp
  repeat' first
    | with_reducible assumption
    | (extract_lets +onlyGivenNames x; first | (refine Same.cut M s0 x ?_ ?_; (focus (dsimp -zeta only [x]; clear x)); rotate_left 1; clear_value x; revert x; intro _ _) | (have hh := fun a => x a; clear hh; dsimp -zeta only [x]; clear x) | (clear_value x; revert x; intro _) | (dsimp -zeta only [x]; clear x))
    | with_reducible refine loseMaster_same ?_ (Same.sub hm rfl)
    | with_reducible refine becomeMaster_same ?_ (Same.sub hm rfl)
    | with_reducible refine updDom_same ?_ (Same.sub hm rfl)
    | with_reducible refine noteTrust_same ?_ (Same.sub hm rfl)
    | split
    | with_reducible refine Same.up_tim ?_ (Same.sub hm rfl)

theorem captureOne_same {M : Nat} {s0 : State} {a0 a1 a2} (h1 : Same M s0 a1) (hm : 262144 ||| M = M) :
    Same M s0 (captureOne a0 a1 a2) := by
  unfold captureOne
  repeat' first
    | with_reducible assumption
    | (extract_lets +onlyGivenNames x; first | (refine Same.cut M s0 x ?_ ?_; (focus (dsimp -zeta only [x]; clear x)); rotate_left 1; clear_value x; revert x; intro _ _) | (have hh := fun a => x a; clear hh; dsimp -zeta only [x]; clear x) | (clear_value x; revert x; intro _) | (dsimp -zeta only [x]; clear x))
    | split
    | with_reducible refine Same.up_tim ?_ (Same.sub hm rfl)

theorem captureOp_same {M : Nat} {s0 : State} {a0 a1} (h1 : Same M s0 a1) (hm : 262144 ||| M = M) :
    Same M s0 (captureOp a0 a1) := by
  unfold captureOp
  repeat' first
    | with_reducible assumption
    | with_reducible refine captureOne_same ?_ (Same.sub hm rfl)
    | with_reducible refine Same.foldl (fun _ _ _ => ?_) ?_

theorem distribute_same {M : Nat} {s0 : State} {a0 a1} (h1 : Same M s0 a1) (hm : 262144 ||| M = M) :
    Same M s0 (distribute a0 a1) := by
  unfold distribute
  repeat' first
    | with_reducible assumption
    | (extract_lets +onlyGivenNames x; first | (refine Same.cut M s0 x ?_ ?_; (focus (dsimp -zeta only [x]; clear x)); rotate_left 1; clear_value x; revert x; intro _ _) | (have hh := fun a => x a; clear hh; dsimp -zeta only [x]; clear x) | (clear_value x; revert x; intro _) | (dsimp -zeta only [x]; clear x))
    | with_reducible refine Same.foldl (fun _ _ _ => ?_) ?_
    | split
    | with_reducible refine Same.up_tim ?_ (Same.sub hm rfl)

theorem setOp_same {M : Nat} {s0 : State} {a0 a1 a2 a3} (h3 : Same M s0 a3) (hm : 262168 ||| M = M) :
    Same M s0 (setOp a0 a1 a2 a3) := by
  unfold setOp
  repeat' first
    | with_reducible assumption
    | (extract_lets +onlyGivenNames x; first | (refine Same.cut M s0 x ?_ ?_; (focus (dsimp -zeta only [x]; clear x)); rotate_left 1; clear_value x; revert x; intro _ _) | (have hh := fun a => x a; clear hh; dsimp -zeta only [x]; clear x) | (clear_value x; revert x; intro _) | (dsimp -zeta only [x]; clear x))
    | with_reducible refine timRefuse_same ?_ (Same.sub hm rfl)
    | with_reducible refine timStatus_same ?_ (Same.sub hm rfl)
    | with_reducible refine stepDom_same ?_ (Same.sub hm rfl)
    | with_reducible refine updDom_same ?_ (Same.sub hm rfl)
    | with_reducible refine noteTrust_same ?_ (Same.sub hm rfl)
    | split

theorem execSetTrustDomain_same {M : Nat} {s0 : State} {a0 a1 a2} (h2 : Same M s0 a2) (hm : 262200 ||| M = M) :
    OutSame M s0 (execSetTrustDomain a0 a1 a2) := by
  unfold execSetTrustDomain
  repeat' first
    | with_reducible assumption
    | with_reducible refine OutSame.next ?_
    | with_reducible refine regCmd_same (fun x0 k0 => ?_) ?_ (Same.sub hm rfl)
    | with_reducible refine setOp_same ?_ (Same.sub hm rfl)

theorem execSetDomain_same {M : Nat} {s0 : State} {a0 a1 a2} (h2 : Same M s0 a2) (hm : 262200 ||| M = M) :
    OutSame M s0 (execSetDomain a0 a1 a2) := by
  unfold execSetDomain
  repeat' first
    | with_reducible assumption
    | with_reducible refine OutSame.next ?_
    | with_reducible refine regCmd_same (fun x0 k0 => ?_) ?_ (Same.sub hm rfl)
    | with_reducible refine setOp_same ?_ (Same.sub hm rfl)

theorem execAdjustDomain_same {M : Nat} {s0 : State} {a0 a1 a2} (h2 : Same M s0 a2) (hm : 262200 ||| M = M) :
    OutSame M s0 (execAdjustDomain a0 a1 a2) := by
  unfold execAdjustDomain
  repeat' first
    | with_reducible assumption
    | with_reducible refine OutSame.next ?_
    | with_reducible refine regCmd_same (fun x0 k0 => ?_) ?_ (Same.sub hm rfl)
    | with_reducible refine adjustOp_same ?_ (Same.sub hm rfl)

theorem execAnnounceReceived_same {M : Nat} {s0 : State} {a0 a1} (h1 : Same M s0 a1) (hm : 262160 ||| M = M) :
    OutSame M s0 (execAnnounceReceived a0 a1) := by
  unfold execAnnounceReceived
  repeat' first
    | with_reducible assumption
    | with_reducible refine OutSame.next ?_
    | with_reducible refine announceOp_same ?_ (Same.sub hm rfl)
    | split

theorem execAnnounceTimeout_same {M : Nat} {s0 : State} {a0 a1} (h1 : Same M s0 a1) (hm : 262160 ||| M = M) :
    OutSame M s0 (execAnnounceTimeout a0 a1) := by
  unfold execAnnounceTimeout
  repeat' first
    | with_reducible assumption
    | (extract_lets +onlyGivenNames x; first | (refine Same.cut M s0 x ?_ ?_; (focus (dsimp -zeta only [x]; clear x)); rotate_left 1; clear_value x; revert x; intro _ _) | (have hh := fun a => x a; clear hh; dsimp -zeta only [x]; clear x) | (clear_value x; revert x; intro _) | (dsimp -zeta only [x]; clear x))
    | with_reducible refine OutSame.next ?_
    | with_reducible refine loseMaster_same ?_ (Same.sub hm rfl)
    | with_reducible refine becomeMaster_same ?_ (Same.sub hm rfl)
    | with_reducible refine updDom_same ?_ (Same.sub hm rfl)
    | with_reducible refine noteTrust_same ?_ (Same.sub hm rfl)
    | split

theorem execCaptureRead_same {M : Nat} {s0 : State} {a0 a1 a2} (h2 : Same M s0 a2) (hm : 262200 ||| M = M) :
    OutSame M s0 (execCaptureRead a0 a1 a2) := by
  unfold execCaptureRead
  repeat' first
    | with_reducible assumption
    | (extract_lets +onlyGivenNames x; first | (refine Same.cut M s0 x ?_ ?_; (focus (dsimp -zeta only [x]; clear x)); rotate_left 1; clear_value x; revert x; intro _ _) | (have hh := fun a => x a; clear hh; dsimp -zeta only [x]; clear x) | (clear_value x; revert x; intro _) | (dsimp -zeta only [x]; clear x))
    | with_reducible refine OutSame.next ?_
    | with_reducible refine regRead_same (fun x0 k0 => ?_) ?_ (Same.sub hm rfl)
    | split
    | with_reducible refine Same.up_tim ?_ (Same.sub hm rfl)

theorem xsnapOp_same {M : Nat} {s0 : State} {a0 a1} (h1 : Same M s0 a1) (hm : 262144 ||| M = M) :
    Same M s0 (xsnapOp a0 a1) := by
  unfold xsnapOp
  repeat' first
    | with_reducible assumption
    | with_reducible refine updDom_same ?_ (Same.sub hm rfl)
    | with_reducible refine Same.foldl (fun _ _ _ => ?_) ?_
    | split

theorem execXsnap_same {M : Nat} {s0 : State} {a0 a1 a2} (h2 : Same M s0 a2) (hm : 262200 ||| M = M) :
    OutSame M s0 (execXsnap a0 a1 a2) := by
  unfold execXsnap
  repeat' first
    | with_reducible assumption
    | with_reducible refine OutSame.next ?_
    | with_reducible refine regCmd_same (fun x0 k0 => ?_) ?_ (Same.sub hm rfl)
    | with_reducible refine xsnapOp_same ?_ (Same.sub hm rfl)

theorem execHoldSecond_same {M : Nat} {s0 : State} {a0 a1} (h1 : Same M s0 a1) (hm : 262144 ||| M = M) :
    OutSame M s0 (execHoldSecond a0 a1) := by
  unfold execHoldSecond
  repeat' first
    | with_reducible assumption
    | (extract_lets +onlyGivenNames x; first | (refine Same.cut M s0 x ?_ ?_; (focus (dsimp -zeta only [x]; clear x)); rotate_left 1; clear_value x; revert x; intro _ _) | (have hh := fun a => x a; clear hh; dsimp -zeta only [x]; clear x) | (clear_value x; revert x; intro _) | (dsimp -zeta only [x]; clear x))
    | with_reducible refine OutSame.next ?_
    | with_reducible refine updDom_same ?_ (Same.sub hm rfl)
    | split

theorem nowLatch_same {M : Nat} {s0 : State} {a0 a1 a2} (h2 : Same M s0 a2) (hm : 262144 ||| M = M) :
    Same M s0 (nowLatch a0 a1 a2) := by
  unfold nowLatch
  repeat' first
    | with_reducible assumption
    | (extract_lets +onlyGivenNames x; first | (refine Same.cut M s0 x ?_ ?_; (focus (dsimp -zeta only [x]; clear x)); rotate_left 1; clear_value x; revert x; intro _ _) | (have hh := fun a => x a; clear hh; dsimp -zeta only [x]; clear x) | (clear_value x; revert x; intro _) | (dsimp -zeta only [x]; clear x))
    | split
    | with_reducible refine Same.up_tim ?_ (Same.sub hm rfl)

theorem execNowLoRead_same {M : Nat} {s0 : State} {a0 a1 a2} (h2 : Same M s0 a2) (hm : 262200 ||| M = M) :
    OutSame M s0 (execNowLoRead a0 a1 a2) := by
  unfold execNowLoRead
  repeat' first
    | with_reducible assumption
    | with_reducible refine OutSame.next ?_
    | with_reducible refine nowLatch_same ?_ (Same.sub hm rfl)
    | with_reducible refine regRead_same (fun x0 k0 => ?_) ?_ (Same.sub hm rfl)
    | split

theorem updPdelay_same {M : Nat} {s0 : State} {a0 a1 a2} (h2 : Same M s0 a2) (hm : 262144 ||| M = M) :
    Same M s0 (updPdelay a0 a1 a2) := by
  unfold updPdelay
  repeat' first
    | with_reducible assumption
    | (extract_lets +onlyGivenNames x; first | (refine Same.cut M s0 x ?_ ?_; (focus (dsimp -zeta only [x]; clear x)); rotate_left 1; clear_value x; revert x; intro _ _) | (have hh := fun a => x a; clear hh; dsimp -zeta only [x]; clear x) | (clear_value x; revert x; intro _) | (dsimp -zeta only [x]; clear x))
    | split
    | with_reducible refine Same.up_tim ?_ (Same.sub hm rfl)

theorem pdelayOp_same {M : Nat} {s0 : State} {a0 a1 a2} (h2 : Same M s0 a2) (hm : 393216 ||| M = M) :
    Same M s0 (pdelayOp a0 a1 a2) := by
  unfold pdelayOp
  repeat' first
    | with_reducible assumption
    | (extract_lets +onlyGivenNames x; first | (refine Same.cut M s0 x ?_ ?_; (focus (dsimp -zeta only [x]; clear x)); rotate_left 1; clear_value x; revert x; intro _ _) | (have hh := fun a => x a; clear hh; dsimp -zeta only [x]; clear x) | (clear_value x; revert x; intro _) | (dsimp -zeta only [x]; clear x))
    | with_reducible refine queueEvent_same ?_ (Same.sub hm rfl)
    | with_reducible refine updPdelay_same ?_ (Same.sub hm rfl)
    | with_reducible refine Same.foldl (fun _ _ _ => ?_) ?_
    | split

theorem execPdelayMessageReceived_same {M : Nat} {s0 : State} {a0 a1 a2} (h2 : Same M s0 a2) (hm : 393216 ||| M = M) :
    OutSame M s0 (execPdelayMessageReceived a0 a1 a2) := by
  unfold execPdelayMessageReceived
  repeat' first
    | with_reducible assumption
    | with_reducible refine OutSame.next ?_
    | with_reducible refine pdelayOp_same ?_ (Same.sub hm rfl)
    | split

theorem pdelaySend_same {M : Nat} {s0 : State} {a0 a1} (h1 : Same M s0 a1) (hm : 393216 ||| M = M) :
    Same M s0 (pdelaySend a0 a1) := by
  unfold pdelaySend
  repeat' first
    | with_reducible assumption
    | (extract_lets +onlyGivenNames x; first | (refine Same.cut M s0 x ?_ ?_; (focus (dsimp -zeta only [x]; clear x)); rotate_left 1; clear_value x; revert x; intro _ _) | (have hh := fun a => x a; clear hh; dsimp -zeta only [x]; clear x) | (clear_value x; revert x; intro _) | (dsimp -zeta only [x]; clear x))
    | with_reducible refine queueEvent_same ?_ (Same.sub hm rfl)
    | with_reducible refine updPdelay_same ?_ (Same.sub hm rfl)
    | split

theorem execPdelayRequestSend_same {M : Nat} {s0 : State} {a0} (h0 : Same M s0 a0) (hm : 393216 ||| M = M) :
    OutSame M s0 (execPdelayRequestSend a0) := by
  unfold execPdelayRequestSend
  repeat' first
    | with_reducible assumption
    | with_reducible refine OutSame.next ?_
    | with_reducible refine pdelaySend_same ?_ (Same.sub hm rfl)
    | split

theorem execSlewComplete_same {M : Nat} {s0 : State} {a0 a1} (h1 : Same M s0 a1) (hm : 262144 ||| M = M) :
    OutSame M s0 (execSlewComplete a0 a1) := by
  unfold execSlewComplete
  repeat' first
    | with_reducible assumption
    | (extract_lets +onlyGivenNames x; first | (refine Same.cut M s0 x ?_ ?_; (focus (dsimp -zeta only [x]; clear x)); rotate_left 1; clear_value x; revert x; intro _ _) | (have hh := fun a => x a; clear hh; dsimp -zeta only [x]; clear x) | (clear_value x; revert x; intro _) | (dsimp -zeta only [x]; clear x))
    | with_reducible refine OutSame.next ?_
    | with_reducible refine updDom_same ?_ (Same.sub hm rfl)
    | split

theorem execSyncMissing_same {M : Nat} {s0 : State} {a0 a1} (h1 : Same M s0 a1) (hm : 262144 ||| M = M) :
    OutSame M s0 (execSyncMissing a0 a1) := by
  unfold execSyncMissing
  repeat' first
    | with_reducible assumption
    | (extract_lets +onlyGivenNames x; first | (refine Same.cut M s0 x ?_ ?_; (focus (dsimp -zeta only [x]; clear x)); rotate_left 1; clear_value x; revert x; intro _ _) | (have hh := fun a => x a; clear hh; dsimp -zeta only [x]; clear x) | (clear_value x; revert x; intro _) | (dsimp -zeta only [x]; clear x))
    | with_reducible refine OutSame.next ?_
    | with_reducible refine updDom_same ?_ (Same.sub hm rfl)
    | split

theorem takeFreq_same {M : Nat} {s0 : State} {a0 a1} (h1 : Same M s0 a1) (hm : 262144 ||| M = M) :
    Same M s0 (takeFreq a0 a1) := by
  unfold takeFreq
  repeat' first
    | with_reducible assumption
    | (extract_lets +onlyGivenNames x; first | (refine Same.cut M s0 x ?_ ?_; (focus (dsimp -zeta only [x]; clear x)); rotate_left 1; clear_value x; revert x; intro _ _) | (have hh := fun a => x a; clear hh; dsimp -zeta only [x]; clear x) | (clear_value x; revert x; intro _) | (dsimp -zeta only [x]; clear x))
    | with_reducible refine updDom_same ?_ (Same.sub hm rfl)

theorem takeSync_same {M : Nat} {s0 : State} {a0 a1 a2 a3 a4} (h4 : Same M s0 a4) (hm : 262160 ||| M = M) :
    Same M s0 (takeSync a0 a1 a2 a3 a4) := by
  unfold takeSync
  repeat' first
    | with_reducible assumption
    | (extract_lets +onlyGivenNames x; first | (refine Same.cut M s0 x ?_ ?_; (focus (dsimp -zeta only [x]; clear x)); rotate_left 1; clear_value x; revert x; intro _ _) | (have hh := fun a => x a; clear hh; dsimp -zeta only [x]; clear x) | (clear_value x; revert x; intro _) | (dsimp -zeta only [x]; clear x))
    | with_reducible refine loseMaster_same ?_ (Same.sub hm rfl)
    | with_reducible refine acceptMaster_same ?_ (Same.sub hm rfl)
    | with_reducible refine takeFreq_same ?_ (Same.sub hm rfl)
    | with_reducible refine updDom_same ?_ (Same.sub hm rfl)
    | with_reducible refine correct_same ?_ (Same.sub hm rfl)
    | split

theorem syncOp_same {M : Nat} {s0 : State} {a0 a1 a2 a3 a4 a5} (h5 : Same M s0 a5) (hm : 262160 ||| M = M) :
    Same M s0 (syncOp a0 a1 a2 a3 a4 a5) := by
  unfold syncOp
  repeat' first
    | with_reducible assumption
    | (extract_lets +onlyGivenNames x; first | (refine Same.cut M s0 x ?_ ?_; (focus (dsimp -zeta only [x]; clear x)); rotate_left 1; clear_value x; revert x; intro _ _) | (have hh := fun a => x a; clear hh; dsimp -zeta only [x]; clear x) | (clear_value x; revert x; intro _) | (dsimp -zeta only [x]; clear x))
    | with_reducible refine takeSync_same ?_ (Same.sub hm rfl)
    | with_reducible refine noteTrust_same ?_ (Same.sub hm rfl)
    | split

theorem execSyncReceived_same {M : Nat} {s0 : State} {a0 a1 a2 a3 a4 a5} (h5 : Same M s0 a5) (hm : 262160 ||| M = M) :
    OutSame M s0 (execSyncReceived a0 a1 a2 a3 a4 a5) := by
  unfold execSyncReceived
  repeat' first
    | with_reducible assumption
    | with_reducible refine OutSame.next ?_
    | with_reducible refine syncOp_same ?_ (Same.sub hm rfl)
    | split

theorem execSyncSend_same {M : Nat} {s0 : State} {a0 a1} (h1 : Same M s0 a1) (hm : 131072 ||| M = M) :
    OutSame M s0 (execSyncSend a0 a1) := by
  unfold execSyncSend
  repeat' first
    | with_reducible assumption
    | (extract_lets +onlyGivenNames x; first | (refine Same.cut M s0 x ?_ ?_; (focus (dsimp -zeta only [x]; clear x)); rotate_left 1; clear_value x; revert x; intro _ _) | (have hh := fun a => x a; clear hh; dsimp -zeta only [x]; clear x) | (clear_value x; revert x; intro _) | (dsimp -zeta only [x]; clear x))
    | with_reducible refine OutSame.next ?_
    | with_reducible refine sendBoth_same (fun x0 x1 x2 k2 => ?_) ?_ (Same.sub hm rfl)
    | with_reducible refine queueEvent_same ?_ (Same.sub hm rfl)
    | with_reducible refine queue3_same ?_ (Same.sub hm rfl)
    | split

theorem execTimHoldover_same {M : Nat} {s0 : State} {a0 a1} (h1 : Same M s0 a1) (hm : 262160 ||| M = M) :
    OutSame M s0 (execTimHoldover a0 a1) := by
  unfold execTimHoldover
  repeat' first
    | with_reducible assumption
    | (extract_lets +onlyGivenNames x; first | (refine Same.cut M s0 x ?_ ?_; (focus (dsimp -zeta only [x]; clear x)); rotate_left 1; clear_value x; revert x; intro _ _) | (have hh := fun a => x a; clear hh; dsimp -zeta only [x]; clear x) | (clear_value x; revert x; intro _) | (dsimp -zeta only [x]; clear x))
    | with_reducible refine OutSame.next ?_
    | with_reducible refine loseMaster_same ?_ (Same.sub hm rfl)
    | with_reducible refine noteTrust_same ?_ (Same.sub hm rfl)
    | split

theorem execTimUntrusted_same {M : Nat} {s0 : State} {a0 a1} (h1 : Same M s0 a1) (hm : 270352 ||| M = M) :
    OutSame M s0 (execTimUntrusted a0 a1) := by
  unfold execTimUntrusted
  repeat' first
    | with_reducible assumption
    | (extract_lets +onlyGivenNames x; first | (refine Same.cut M s0 x ?_ ?_; (focus (dsimp -zeta only [x]; clear x)); rotate_left 1; clear_value x; revert x; intro _ _) | (have hh := fun a => x a; clear hh; dsimp -zeta only [x]; clear x) | (clear_value x; revert x; intro _) | (dsimp -zeta only [x]; clear x))
    | with_reducible refine OutSame.next ?_
    | with_reducible refine noteTrust_same ?_ (Same.sub hm rfl)
    | split
    | with_reducible refine Same.up_cel ?_ (Same.sub hm rfl)

theorem execTimeCapture_same {M : Nat} {s0 : State} {a0 a1} (h1 : Same M s0 a1) (hm : 262144 ||| M = M) :
    OutSame M s0 (execTimeCapture a0 a1) := by
  unfold execTimeCapture
  repeat' first
    | with_reducible assumption
    | with_reducible refine OutSame.next ?_
    | with_reducible refine captureOp_same ?_ (Same.sub hm rfl)
    | split

theorem execTimeDistributionUpdate_same {M : Nat} {s0 : State} {a0 a1} (h1 : Same M s0 a1) (hm : 262144 ||| M = M) :
    OutSame M s0 (execTimeDistributionUpdate a0 a1) := by
  unfold execTimeDistributionUpdate
  repeat' first
    | with_reducible assumption
    | with_reducible refine OutSame.next ?_
    | with_reducible refine distribute_same ?_ (Same.sub hm rfl)
    | split

theorem runDomains_same {M : Nat} {s0 : State} {a0} (h0 : Same M s0 a0) (hm : 262144 ||| M = M) :
    Same M s0 (runDomains a0) := by
  unfold runDomains
  repeat' first
    | with_reducible assumption
    | (extract_lets +onlyGivenNames x; first | (refine Same.cut M s0 x ?_ ?_; (focus (dsimp -zeta only [x]; clear x)); rotate_left 1; clear_value x; revert x; intro _ _) | (have hh := fun a => x a; clear hh; dsimp -zeta only [x]; clear x) | (clear_value x; revert x; intro _) | (dsimp -zeta only [x]; clear x))
    | with_reducible refine Same.up_tim ?_ (Same.sub hm rfl)

end Sys2Proof.Machine
end

