-- ==== Sys2Proof/Laws/FrameAdmission.lean ====
section
/-!
SUPPORT. FrameAdmission.lean: for each operation of Machine/Admission.lean, the components of State it can change: the result agrees with the
state it starts from on every component whose bit in the mask is 0 (the bits as in `Same`).
-/
namespace Sys2Proof.Machine
set_option linter.all false

theorem abortFmp_same {M : Nat} {s0 : State} {a0} (h0 : Same M s0 a0) (hm : 147512 ||| M = M) :
    Same M s0 (abortFmp a0) := by
  unfold abortFmp
  repeat' first
    | with_reducible assumption
    | (extract_lets +onlyGivenNames x; first | (refine Same.cut M s0 x ?_ ?_; (focus (dsimp -zeta only [x]; clear x)); rotate_left 1; clear_value x; revert x; intro _ _) | (have hh := fun a => x a; clear hh; dsimp -zeta only [x]; clear x) | (clear_value x; revert x; intro _) | (dsimp -zeta only [x]; clear x))
    | with_reducible refine sendAnswer_same ?_ (Same.sub hm rfl)
    | with_reducible refine keepAnswer_same ?_ (Same.sub hm rfl)
    | with_reducible refine Same.foldl (fun _ _ _ => ?_) ?_
    | split
    | with_reducible refine Same.up_net ?_ (Same.sub hm rfl)

theorem fmpAnswer_same {M : Nat} {s0 : State} {a0 a1 a2 a3} (h3 : Same M s0 a3) (hm : 147512 ||| M = M) :
    Same M s0 (fmpAnswer a0 a1 a2 a3) := by
  unfold fmpAnswer
  repeat' first
    | with_reducible assumption
    | (extract_lets +onlyGivenNames x; first | (refine Same.cut M s0 x ?_ ?_; (focus (dsimp -zeta only [x]; clear x)); rotate_left 1; clear_value x; revert x; intro _ _) | (have hh := fun a => x a; clear hh; dsimp -zeta only [x]; clear x) | (clear_value x; revert x; intro _) | (dsimp -zeta only [x]; clear x))
    | with_reducible refine sendAnswer_same ?_ (Same.sub hm rfl)
    | with_reducible refine keepAnswer_same ?_ (Same.sub hm rfl)
    | split
    | with_reducible refine Same.up_reply ?_ (Same.sub hm rfl)

theorem updAdmBank_same {M : Nat} {s0 : State} {a0 a1 a2} (h2 : Same M s0 a2) (hm : 131072 ||| M = M) :
    Same M s0 (updAdmBank a0 a1 a2) := by
  unfold updAdmBank
  repeat' first
    | with_reducible assumption
    | (extract_lets +onlyGivenNames x; first | (refine Same.cut M s0 x ?_ ?_; (focus (dsimp -zeta only [x]; clear x)); rotate_left 1; clear_value x; revert x; intro _ _) | (have hh := fun a => x a; clear hh; dsimp -zeta only [x]; clear x) | (clear_value x; revert x; intro _) | (dsimp -zeta only [x]; clear x))
    | split
    | with_reducible refine Same.up_net ?_ (Same.sub hm rfl)

theorem admReport_same {M : Nat} {s0 : State} {a0 a1 a2 a3 a4 a5} (h5 : Same M s0 a5) (hm : 147512 ||| M = M) :
    Same M s0 (admReport a0 a1 a2 a3 a4 a5) := by
  unfold admReport
  repeat' first
    | with_reducible assumption
    | with_reducible refine fmpAnswer_same ?_ (Same.sub hm rfl)
    | with_reducible refine updAdmBank_same ?_ (Same.sub hm rfl)
    | split

theorem release_same {M : Nat} {s0 : State} {a0 a1} (h1 : Same M s0 a1) (hm : 131072 ||| M = M) :
    Same M s0 (release a0 a1) := by
  unfold release
  repeat' first
    | with_reducible assumption
    | (extract_lets +onlyGivenNames x; first | (refine Same.cut M s0 x ?_ ?_; (focus (dsimp -zeta only [x]; clear x)); rotate_left 1; clear_value x; revert x; intro _ _) | (have hh := fun a => x a; clear hh; dsimp -zeta only [x]; clear x) | (clear_value x; revert x; intro _) | (dsimp -zeta only [x]; clear x))
    | split
    | with_reducible refine Same.up_net ?_ (Same.sub hm rfl)

theorem bindEnd_same {M : Nat} {s0 : State} {a0 a1 a2} (h2 : Same M s0 a2) (hm : 147512 ||| M = M) :
    Same M s0 (bindEnd a0 a1 a2) := by
  unfold bindEnd
  repeat' first
    | with_reducible assumption
    | (extract_lets +onlyGivenNames x; first | (refine Same.cut M s0 x ?_ ?_; (focus (dsimp -zeta only [x]; clear x)); rotate_left 1; clear_value x; revert x; intro _ _) | (have hh := fun a => x a; clear hh; dsimp -zeta only [x]; clear x) | (clear_value x; revert x; intro _) | (dsimp -zeta only [x]; clear x))
    | with_reducible refine admReport_same ?_ (Same.sub hm rfl)
    | with_reducible refine updFlow_same ?_ (Same.sub hm rfl)
    | with_reducible refine release_same ?_ (Same.sub hm rfl)
    | split

theorem abortRequests_same {M : Nat} {s0 : State} {a0} (h0 : Same M s0 a0) (hm : 147512 ||| M = M) :
    Same M s0 (abortRequests a0) := by
  unfold abortRequests
  repeat' first
    | with_reducible assumption
    | (extract_lets +onlyGivenNames x; first | (refine Same.cut M s0 x ?_ ?_; (focus (dsimp -zeta only [x]; clear x)); rotate_left 1; clear_value x; revert x; intro _ _) | (have hh := fun a => x a; clear hh; dsimp -zeta only [x]; clear x) | (clear_value x; revert x; intro _) | (dsimp -zeta only [x]; clear x))
    | with_reducible refine bindEnd_same ?_ (Same.sub hm rfl)
    | with_reducible refine admReport_same ?_ (Same.sub hm rfl)
    | with_reducible refine Same.foldl (fun _ _ _ => ?_) ?_
    | split
    | with_reducible refine Same.up_net ?_ (Same.sub hm rfl)

theorem ringAbortOp_same {M : Nat} {s0 : State} {a0} (h0 : Same M s0 a0) (hm : 409656 ||| M = M) :
    Same M s0 (ringAbortOp a0) := by
  unfold ringAbortOp
  repeat' first
    | with_reducible assumption
    | (extract_lets +onlyGivenNames x; first | (refine Same.cut M s0 x ?_ ?_; (focus (dsimp -zeta only [x]; clear x)); rotate_left 1; clear_value x; revert x; intro _ _) | (have hh := fun a => x a; clear hh; dsimp -zeta only [x]; clear x) | (clear_value x; revert x; intro _) | (dsimp -zeta only [x]; clear x))
    | with_reducible refine timAbort_same ?_ (Same.sub hm rfl)
    | with_reducible refine record_same ?_ (Same.sub hm rfl)
    | with_reducible refine ptestEnd_same ?_ (Same.sub hm rfl)
    | with_reducible refine abortFmp_same ?_ (Same.sub hm rfl)
    | with_reducible refine abortRequests_same ?_ (Same.sub hm rfl)
    | split
    | with_reducible refine Same.up_net ?_ (Same.sub hm rfl)

theorem execRingMacAbort_same {M : Nat} {s0 : State} {a0 a1} (h1 : Same M s0 a1) (hm : 1458232 ||| M = M) :
    OutSame M s0 (execRingMacAbort a0 a1) := by
  unfold execRingMacAbort
  repeat' first
    | with_reducible assumption
    | with_reducible refine OutSame.next ?_
    | with_reducible refine ringAbortOp_same ?_ (Same.sub hm rfl)
    | with_reducible refine abortCmd_same (fun x0 k0 => ?_) ?_ (Same.sub hm rfl)

theorem releaseOp_same {M : Nat} {s0 : State} {a0 a1 a2} (h2 : Same M s0 a2) (hm : 131120 ||| M = M) :
    Same M s0 (releaseOp a0 a1 a2).2 := by
  unfold releaseOp
  repeat' first
    | with_reducible assumption
    | (extract_lets +onlyGivenNames x; first | (refine Same.cut M s0 x ?_ ?_; (focus (dsimp -zeta only [x]; clear x)); rotate_left 1; clear_value x; revert x; intro _ _) | (have hh := fun a => x a; clear hh; dsimp -zeta only [x]; clear x) | (clear_value x; revert x; intro _) | (dsimp -zeta only [x]; clear x))
    | with_reducible refine denied_same ?_ (Same.sub hm rfl)
    | with_reducible refine release_same ?_ (Same.sub hm rfl)
    | with_reducible refine Same.foldl2 (fun _ _ _ => ?_) ?_
    | split
    | dsimp -zeta only

theorem execReleaseFlow_same {M : Nat} {s0 : State} {a0 a1 a2} (h2 : Same M s0 a2) (hm : 131128 ||| M = M) :
    OutSame M s0 (execReleaseFlow a0 a1 a2) := by
  unfold execReleaseFlow
  repeat' first
    | with_reducible assumption
    | with_reducible refine OutSame.next ?_
    | with_reducible refine regCmd_same (fun x0 k0 => ?_) ?_ (Same.sub hm rfl)
    | with_reducible refine updAdmBank_same ?_ (Same.sub hm rfl)
    | with_reducible refine releaseOp_same ?_ (Same.sub hm rfl)
    | with_reducible refine Same.snd ‹_› (releaseOp_same ?_ (Same.sub hm rfl))
    | with_reducible refine Same.snd ‹_› ?_
    | with_reducible refine Same.fst ‹_› ?_
    | with_reducible refine Same.foldl1 (fun _ _ _ => ?_) ?_
    | with_reducible refine Same.foldl2 (fun _ _ _ => ?_) ?_
    | split

theorem admQueue_same {M : Nat} {s0 : State} {a0 a1} (h1 : Same M s0 a1) (hm : 147512 ||| M = M) :
    Same M s0 (admQueue a0 a1) := by
  unfold admQueue
  repeat' first
    | with_reducible assumption
    | (extract_lets +onlyGivenNames x; first | (refine Same.cut M s0 x ?_ ?_; (focus (dsimp -zeta only [x]; clear x)); rotate_left 1; clear_value x; revert x; intro _ _) | (have hh := fun a => x a; clear hh; dsimp -zeta only [x]; clear x) | (clear_value x; revert x; intro _) | (dsimp -zeta only [x]; clear x))
    | with_reducible refine admReport_same ?_ (Same.sub hm rfl)
    | with_reducible refine updAdmBank_same ?_ (Same.sub hm rfl)
    | split
    | with_reducible refine Same.up_net ?_ (Same.sub hm rfl)

theorem execAdmitFlow_same {M : Nat} {s0 : State} {a0 a1} (h1 : Same M s0 a1) (hm : 147512 ||| M = M) :
    OutSame M s0 (execAdmitFlow a0 a1) := by
  unfold execAdmitFlow
  repeat' first
    | with_reducible assumption
    | with_reducible refine OutSame.next ?_
    | with_reducible refine admQueue_same ?_ (Same.sub hm rfl)
    | with_reducible refine regCmd_same (fun x0 k0 => ?_) ?_ (Same.sub hm rfl)
    | split

theorem sendBind_same {M : Nat} {s0 : State} {a0 a1 a2} (h2 : Same M s0 a2) (hm : 147512 ||| M = M) :
    Same M s0 (sendBind a0 a1 a2) := by
  unfold sendBind
  repeat' first
    | with_reducible assumption
    | (extract_lets +onlyGivenNames x; first | (refine Same.cut M s0 x ?_ ?_; (focus (dsimp -zeta only [x]; clear x)); rotate_left 1; clear_value x; revert x; intro _ _) | (have hh := fun a => x a; clear hh; dsimp -zeta only [x]; clear x) | (clear_value x; revert x; intro _) | (dsimp -zeta only [x]; clear x))
    | with_reducible refine sendBoth_same (fun x0 x1 x2 k2 => ?_) ?_ (Same.sub hm rfl)
    | with_reducible refine queue3_same ?_ (Same.sub hm rfl)
    | with_reducible refine sendHbt_same (fun x0 x1 k1 => ?_) ?_ (Same.sub hm rfl)
    | split

theorem admTake_same {M : Nat} {s0 : State} {a0 a1 a2 a3 a4} (h4 : Same M s0 a4) (hm : 147512 ||| M = M) :
    Same M s0 (admTake a0 a1 a2 a3 a4) := by
  unfold admTake
  repeat' first
    | with_reducible assumption
    | (extract_lets +onlyGivenNames x; first | (refine Same.cut M s0 x ?_ ?_; (focus (dsimp -zeta only [x]; clear x)); rotate_left 1; clear_value x; revert x; intro _ _) | (have hh := fun a => x a; clear hh; dsimp -zeta only [x]; clear x) | (clear_value x; revert x; intro _) | (dsimp -zeta only [x]; clear x))
    | with_reducible refine admReport_same ?_ (Same.sub hm rfl)
    | with_reducible refine sendBind_same ?_ (Same.sub hm rfl)
    | with_reducible refine updAdmBank_same ?_ (Same.sub hm rfl)
    | split
    | with_reducible refine Same.up_net ?_ (Same.sub hm rfl)

theorem answerBind_same {M : Nat} {s0 : State} {a0 a1 a2} (h2 : Same M s0 a2) (hm : 147512 ||| M = M) :
    Same M s0 (answerBind a0 a1 a2) := by
  unfold answerBind
  repeat' first
    | with_reducible assumption
    | (extract_lets +onlyGivenNames x; first | (refine Same.cut M s0 x ?_ ?_; (focus (dsimp -zeta only [x]; clear x)); rotate_left 1; clear_value x; revert x; intro _ _) | (have hh := fun a => x a; clear hh; dsimp -zeta only [x]; clear x) | (clear_value x; revert x; intro _) | (dsimp -zeta only [x]; clear x))
    | with_reducible refine sendBoth_same (fun x0 x1 x2 k2 => ?_) ?_ (Same.sub hm rfl)
    | with_reducible refine queue3_same ?_ (Same.sub hm rfl)
    | with_reducible refine sendHbt_same (fun x0 x1 k1 => ?_) ?_ (Same.sub hm rfl)
    | split
    | with_reducible refine Same.up_reply ?_ (Same.sub hm rfl)

theorem bindOp_same {M : Nat} {s0 : State} {a0 a1} (h1 : Same M s0 a1) (hm : 147512 ||| M = M) :
    Same M s0 (bindOp a0 a1) := by
  unfold bindOp
  repeat' first
    | with_reducible assumption
    | (extract_lets +onlyGivenNames x; first | (refine Same.cut M s0 x ?_ ?_; (focus (dsimp -zeta only [x]; clear x)); rotate_left 1; clear_value x; revert x; intro _ _) | (have hh := fun a => x a; clear hh; dsimp -zeta only [x]; clear x) | (clear_value x; revert x; intro _) | (dsimp -zeta only [x]; clear x))
    | with_reducible refine denied_same ?_ (Same.sub hm rfl)
    | with_reducible refine answerBind_same ?_ (Same.sub hm rfl)
    | split
    | with_reducible refine Same.up_net ?_ (Same.sub hm rfl)

theorem decideOp_same {M : Nat} {s0 : State} {a0 a1} (h1 : Same M s0 a1) (hm : 147512 ||| M = M) :
    Same M s0 (decideOp a0 a1) := by
  unfold decideOp
  repeat' first
    | with_reducible assumption
    | (extract_lets +onlyGivenNames x; first | (refine Same.cut M s0 x ?_ ?_; (focus (dsimp -zeta only [x]; clear x)); rotate_left 1; clear_value x; revert x; intro _ _) | (have hh := fun a => x a; clear hh; dsimp -zeta only [x]; clear x) | (clear_value x; revert x; intro _) | (dsimp -zeta only [x]; clear x))
    | with_reducible refine admReport_same ?_ (Same.sub hm rfl)
    | with_reducible refine denied_same ?_ (Same.sub hm rfl)
    | with_reducible refine admTake_same ?_ (Same.sub hm rfl)
    | split

theorem execAdmissionDecision_same {M : Nat} {s0 : State} {a0} (h0 : Same M s0 a0) (hm : 147512 ||| M = M) :
    OutSame M s0 (execAdmissionDecision a0) := by
  unfold execAdmissionDecision
  repeat' first
    | with_reducible assumption
    | (extract_lets +onlyGivenNames x; first | (refine Same.cut M s0 x ?_ ?_; (focus (dsimp -zeta only [x]; clear x)); rotate_left 1; clear_value x; revert x; intro _ _) | (have hh := fun a => x a; clear hh; dsimp -zeta only [x]; clear x) | (clear_value x; revert x; intro _) | (dsimp -zeta only [x]; clear x))
    | with_reducible refine OutSame.next ?_
    | with_reducible refine decideOp_same ?_ (Same.sub hm rfl)
    | split
    | with_reducible refine Same.up_net ?_ (Same.sub hm rfl)

theorem execBindAnswer_same {M : Nat} {s0 : State} {a0 a1 a2} (h2 : Same M s0 a2) (hm : 147512 ||| M = M) :
    OutSame M s0 (execBindAnswer a0 a1 a2) := by
  unfold execBindAnswer
  repeat' first
    | with_reducible assumption
    | with_reducible refine OutSame.next ?_
    | with_reducible refine bindEnd_same ?_ (Same.sub hm rfl)
    | split

theorem execBindReceived_same {M : Nat} {s0 : State} {a0 a1} (h1 : Same M s0 a1) (hm : 147512 ||| M = M) :
    OutSame M s0 (execBindReceived a0 a1) := by
  unfold execBindReceived
  repeat' first
    | with_reducible assumption
    | with_reducible refine OutSame.next ?_
    | with_reducible refine bindOp_same ?_ (Same.sub hm rfl)
    | split

theorem execBindTimeout_same {M : Nat} {s0 : State} {a0 a1} (h1 : Same M s0 a1) (hm : 147512 ||| M = M) :
    OutSame M s0 (execBindTimeout a0 a1) := by
  unfold execBindTimeout
  repeat' first
    | with_reducible assumption
    | (extract_lets +onlyGivenNames x; first | (refine Same.cut M s0 x ?_ ?_; (focus (dsimp -zeta only [x]; clear x)); rotate_left 1; clear_value x; revert x; intro _ _) | (have hh := fun a => x a; clear hh; dsimp -zeta only [x]; clear x) | (clear_value x; revert x; intro _) | (dsimp -zeta only [x]; clear x))
    | with_reducible refine OutSame.next ?_
    | with_reducible refine bindEnd_same ?_ (Same.sub hm rfl)
    | split

theorem rekeyOp_same {M : Nat} {s0 : State} {a0 a1} (h1 : Same M s0 a1) (hm : 147456 ||| M = M) :
    Same M s0 (rekeyOp a0 a1) := by
  unfold rekeyOp
  repeat' first
    | with_reducible assumption
    | (extract_lets +onlyGivenNames x; first | (refine Same.cut M s0 x ?_ ?_; (focus (dsimp -zeta only [x]; clear x)); rotate_left 1; clear_value x; revert x; intro _ _) | (refine Same.cut M s0 x.2 ?_ ?_; (focus (dsimp -zeta only [x]; clear x)); rotate_left 1; clear_value x; revert x; intro _ _) | (have hh := fun a => x a; clear hh; dsimp -zeta only [x]; clear x) | (clear_value x; revert x; intro _) | (dsimp -zeta only [x]; clear x))
    | with_reducible refine newEpoch_same ?_ (Same.sub hm rfl)
    | with_reducible refine Same.snd ‹_› (newEpoch_same ?_ (Same.sub hm rfl))
    | with_reducible refine updFlow_same ?_ (Same.sub hm rfl)
    | with_reducible refine Same.snd ‹_› ?_
    | with_reducible refine Same.fst ‹_› ?_
    | with_reducible refine Same.foldl1 (fun _ _ _ => ?_) ?_
    | with_reducible refine Same.foldl2 (fun _ _ _ => ?_) ?_
    | split

theorem execFlowRekey_same {M : Nat} {s0 : State} {a0 a1} (h1 : Same M s0 a1) (hm : 147456 ||| M = M) :
    OutSame M s0 (execFlowRekey a0 a1) := by
  unfold execFlowRekey
  repeat' first
    | with_reducible assumption
    | (extract_lets +onlyGivenNames x; first | (refine Same.cut M s0 x ?_ ?_; (focus (dsimp -zeta only [x]; clear x)); rotate_left 1; clear_value x; revert x; intro _ _) | (have hh := fun a => x a; clear hh; dsimp -zeta only [x]; clear x) | (clear_value x; revert x; intro _) | (dsimp -zeta only [x]; clear x))
    | with_reducible refine OutSame.next ?_
    | with_reducible refine rekeyOp_same ?_ (Same.sub hm rfl)
    | split

theorem flowFrameOp_same {M : Nat} {s0 : State} {a0 a1} (h1 : Same M s0 a1) (hm : 147512 ||| M = M) :
    Same M s0 (flowFrameOp a0 a1) := by
  unfold flowFrameOp
  repeat' first
    | with_reducible assumption
    | (extract_lets +onlyGivenNames x; first | (refine Same.cut M s0 x ?_ ?_; (focus (dsimp -zeta only [x]; clear x)); rotate_left 1; clear_value x; revert x; intro _ _) | (refine Same.cut M s0 x.2 ?_ ?_; (focus (dsimp -zeta only [x]; clear x)); rotate_left 1; clear_value x; revert x; intro _ _) | (have hh := fun a => x a; clear hh; dsimp -zeta only [x]; clear x) | (clear_value x; revert x; intro _) | (dsimp -zeta only [x]; clear x))
    | with_reducible refine dropStale_same ?_ (Same.sub hm rfl)
    | with_reducible refine xchRefuse_same ?_ (Same.sub hm rfl)
    | with_reducible refine sendBoth_same (fun x0 x1 x2 k2 => ?_) ?_ (Same.sub hm rfl)
    | with_reducible refine queue1_same ?_ (Same.sub hm rfl)
    | with_reducible refine countDropped_same ?_ (Same.sub hm rfl)
    | with_reducible refine newEpoch_same ?_ (Same.sub hm rfl)
    | with_reducible refine Same.snd ‹_› (newEpoch_same ?_ (Same.sub hm rfl))
    | with_reducible refine updFlow_same ?_ (Same.sub hm rfl)
    | with_reducible refine noteSealed_same ?_ (Same.sub hm rfl)
    | with_reducible refine Same.snd ‹_› ?_
    | with_reducible refine Same.fst ‹_› ?_
    | with_reducible refine Same.foldl1 (fun _ _ _ => ?_) ?_
    | with_reducible refine Same.foldl2 (fun _ _ _ => ?_) ?_
    | split

theorem flowSendOp_same {M : Nat} {s0 : State} {a0 a1} (h1 : Same M s0 a1) (hm : 1294648 ||| M = M) :
    Same M s0 (flowSendOp a0 a1) := by
  unfold flowSendOp
  repeat' first
    | with_reducible assumption
    | (extract_lets +onlyGivenNames x; first | (refine Same.cut M s0 x ?_ ?_; (focus (dsimp -zeta only [x]; clear x)); rotate_left 1; clear_value x; revert x; intro _ _) | (have hh := fun a => x a; clear hh; dsimp -zeta only [x]; clear x) | (clear_value x; revert x; intro _) | (dsimp -zeta only [x]; clear x))
    | with_reducible refine liftNext_same ?_ (Same.sub hm rfl)
    | with_reducible refine flowFrameOp_same ?_ (Same.sub hm rfl)
    | with_reducible refine countDropped_same ?_ (Same.sub hm rfl)
    | with_reducible refine denied_same ?_ (Same.sub hm rfl)
    | with_reducible refine updFlow_same ?_ (Same.sub hm rfl)
    | split

theorem execFlowSend_same {M : Nat} {s0 : State} {a0 a1} (h1 : Same M s0 a1) (hm : 1294648 ||| M = M) :
    OutSame M s0 (execFlowSend a0 a1) := by
  unfold execFlowSend
  repeat' first
    | with_reducible assumption
    | (extract_lets +onlyGivenNames x; first | (refine Same.cut M s0 x ?_ ?_; (focus (dsimp -zeta only [x]; clear x)); rotate_left 1; clear_value x; revert x; intro _ _) | (have hh := fun a => x a; clear hh; dsimp -zeta only [x]; clear x) | (clear_value x; revert x; intro _) | (dsimp -zeta only [x]; clear x))
    | with_reducible refine OutSame.next ?_
    | with_reducible refine flowSendOp_same ?_ (Same.sub hm rfl)
    | split

end Sys2Proof.Machine
end

