-- ==== Sys2Proof/Laws/FrameCellar.lean ====
section
/-!
SUPPORT. FrameCellar.lean: for each operation of Machine/Cellar.lean, the components of State it can change: the result agrees with the
state it starts from on every component whose bit in the mask is 0 (the bits as in `Same`).
-/
namespace Sys2Proof.Machine
set_option linter.all false

theorem updQBank_same {M : Nat} {s0 : State} {a0 a1 a2} (h2 : Same M s0 a2) (hm : 8192 ||| M = M) :
    Same M s0 (updQBank a0 a1 a2) := by
  unfold updQBank
  repeat' first
    | with_reducible assumption
    | (extract_lets +onlyGivenNames x; first | (refine Same.cut M s0 x ?_ ?_; (focus (dsimp -zeta only [x]; clear x)); rotate_left 1; clear_value x; revert x; intro _ _) | (have hh := fun a => x a; clear hh; dsimp -zeta only [x]; clear x) | (clear_value x; revert x; intro _) | (dsimp -zeta only [x]; clear x))
    | split
    | with_reducible refine Same.up_cel ?_ (Same.sub hm rfl)

theorem calTick_same {M : Nat} {s0 : State} {a0} (h0 : Same M s0 a0) (hm : 8208 ||| M = M) :
    Same M s0 (calTick a0) := by
  unfold calTick
  repeat' first
    | with_reducible assumption
    | (extract_lets +onlyGivenNames x; first | (refine Same.cut M s0 x ?_ ?_; (focus (dsimp -zeta only [x]; clear x)); rotate_left 1; clear_value x; revert x; intro _ _) | (have hh := fun a => x a; clear hh; dsimp -zeta only [x]; clear x) | (clear_value x; revert x; intro _) | (dsimp -zeta only [x]; clear x))
    | with_reducible refine record_same ?_ (Same.sub hm rfl)
    | split
    | with_reducible refine Same.up_cel ?_ (Same.sub hm rfl)

theorem setCalendar_same {M : Nat} {s0 : State} {a0 a1 a2} (h2 : Same M s0 a2) (hm : 8192 ||| M = M) :
    Same M s0 (setCalendar a0 a1 a2) := by
  unfold setCalendar
  repeat' first
    | with_reducible assumption
    | (extract_lets +onlyGivenNames x; first | (refine Same.cut M s0 x ?_ ?_; (focus (dsimp -zeta only [x]; clear x)); rotate_left 1; clear_value x; revert x; intro _ _) | (have hh := fun a => x a; clear hh; dsimp -zeta only [x]; clear x) | (clear_value x; revert x; intro _) | (dsimp -zeta only [x]; clear x))
    | with_reducible refine Same.up_cel ?_ (Same.sub hm rfl)

theorem setCelStatus_same {M : Nat} {s0 : State} {a0 a1 a2} (h2 : Same M s0 a2) (hm : 8192 ||| M = M) :
    Same M s0 (setCelStatus a0 a1 a2) := by
  unfold setCelStatus
  repeat' first
    | with_reducible assumption
    | (extract_lets +onlyGivenNames x; first | (refine Same.cut M s0 x ?_ ?_; (focus (dsimp -zeta only [x]; clear x)); rotate_left 1; clear_value x; revert x; intro _ _) | (have hh := fun a => x a; clear hh; dsimp -zeta only [x]; clear x) | (clear_value x; revert x; intro _) | (dsimp -zeta only [x]; clear x))
    | split
    | with_reducible refine Same.up_cel ?_ (Same.sub hm rfl)

theorem celLoadOp_same {M : Nat} {s0 : State} {a0 a1 a2} (h2 : Same M s0 a2) (hm : 8208 ||| M = M) :
    Same M s0 (celLoadOp a0 a1 a2) := by
  unfold celLoadOp
  repeat' first
    | with_reducible assumption
    | (extract_lets +onlyGivenNames x; first | (refine Same.cut M s0 x ?_ ?_; (focus (dsimp -zeta only [x]; clear x)); rotate_left 1; clear_value x; revert x; intro _ _) | (have hh := fun a => x a; clear hh; dsimp -zeta only [x]; clear x) | (clear_value x; revert x; intro _) | (dsimp -zeta only [x]; clear x))
    | with_reducible refine setCalendar_same ?_ (Same.sub hm rfl)
    | with_reducible refine setCelStatus_same ?_ (Same.sub hm rfl)
    | with_reducible refine record_same ?_ (Same.sub hm rfl)
    | split
    | with_reducible refine Same.up_cel ?_ (Same.sub hm rfl)

theorem celSyncOp_same {M : Nat} {s0 : State} {a0 a1 a2} (h2 : Same M s0 a2) (hm : 8192 ||| M = M) :
    Same M s0 (celSyncOp a0 a1 a2) := by
  unfold celSyncOp
  repeat' first
    | with_reducible assumption
    | (extract_lets +onlyGivenNames x; first | (refine Same.cut M s0 x ?_ ?_; (focus (dsimp -zeta only [x]; clear x)); rotate_left 1; clear_value x; revert x; intro _ _) | (have hh := fun a => x a; clear hh; dsimp -zeta only [x]; clear x) | (clear_value x; revert x; intro _) | (dsimp -zeta only [x]; clear x))
    | with_reducible refine setCelStatus_same ?_ (Same.sub hm rfl)
    | split
    | with_reducible refine Same.up_cel ?_ (Same.sub hm rfl)

theorem postCel_same {M : Nat} {s0 : State} {a0 a1 a2} (h2 : Same M s0 a2) (hm : 8192 ||| M = M) :
    Same M s0 (postCel a0 a1 a2) := by
  unfold postCel
  repeat' first
    | with_reducible assumption
    | (extract_lets +onlyGivenNames x; first | (refine Same.cut M s0 x ?_ ?_; (focus (dsimp -zeta only [x]; clear x)); rotate_left 1; clear_value x; revert x; intro _ _) | (have hh := fun a => x a; clear hh; dsimp -zeta only [x]; clear x) | (clear_value x; revert x; intro _) | (dsimp -zeta only [x]; clear x))
    | with_reducible refine Same.up_cel ?_ (Same.sub hm rfl)

theorem execDstSub_same {M : Nat} {s0 : State} {a0 a1} (h1 : Same M s0 a1) (hm : 8248 ||| M = M) :
    OutSame M s0 (execDstSub a0 a1) := by
  unfold execDstSub
  repeat' first
    | with_reducible assumption
    | with_reducible refine OutSame.next ?_
    | with_reducible refine regCmd_same (fun x0 k0 => ?_) ?_ (Same.sub hm rfl)
    | with_reducible refine postCel_same ?_ (Same.sub hm rfl)

theorem execDstAdd_same {M : Nat} {s0 : State} {a0 a1} (h1 : Same M s0 a1) (hm : 8248 ||| M = M) :
    OutSame M s0 (execDstAdd a0 a1) := by
  unfold execDstAdd
  repeat' first
    | with_reducible assumption
    | with_reducible refine OutSame.next ?_
    | with_reducible refine regCmd_same (fun x0 k0 => ?_) ?_ (Same.sub hm rfl)
    | with_reducible refine postCel_same ?_ (Same.sub hm rfl)

theorem execSyncCalendar_same {M : Nat} {s0 : State} {a0 a1 a2} (h2 : Same M s0 a2) (hm : 8248 ||| M = M) :
    OutSame M s0 (execSyncCalendar a0 a1 a2) := by
  unfold execSyncCalendar
  repeat' first
    | with_reducible assumption
    | with_reducible refine OutSame.next ?_
    | with_reducible refine regCmd_same (fun x0 k0 => ?_) ?_ (Same.sub hm rfl)
    | with_reducible refine postCel_same ?_ (Same.sub hm rfl)

theorem execLoadCalendar_same {M : Nat} {s0 : State} {a0 a1 a2} (h2 : Same M s0 a2) (hm : 8248 ||| M = M) :
    OutSame M s0 (execLoadCalendar a0 a1 a2) := by
  unfold execLoadCalendar
  repeat' first
    | with_reducible assumption
    | with_reducible refine OutSame.next ?_
    | with_reducible refine regCmd_same (fun x0 k0 => ?_) ?_ (Same.sub hm rfl)
    | with_reducible refine postCel_same ?_ (Same.sub hm rfl)

theorem execCelZoneWrite_same {M : Nat} {s0 : State} {a0 a1 a2} (h2 : Same M s0 a2) (hm : 8248 ||| M = M) :
    OutSame M s0 (execCelZoneWrite a0 a1 a2) := by
  unfold execCelZoneWrite
  repeat' first
    | with_reducible assumption
    | with_reducible refine OutSame.next ?_
    | with_reducible refine regCmd_same (fun x0 k0 => ?_) ?_ (Same.sub hm rfl)
    | with_reducible refine postCel_same ?_ (Same.sub hm rfl)

theorem execCelTrimWrite_same {M : Nat} {s0 : State} {a0 a1 a2} (h2 : Same M s0 a2) (hm : 8248 ||| M = M) :
    OutSame M s0 (execCelTrimWrite a0 a1 a2) := by
  unfold execCelTrimWrite
  repeat' first
    | with_reducible assumption
    | with_reducible refine OutSame.next ?_
    | with_reducible refine regCmd_same (fun x0 k0 => ?_) ?_ (Same.sub hm rfl)
    | with_reducible refine postCel_same ?_ (Same.sub hm rfl)

theorem execCelTrimCfgWrite_same {M : Nat} {s0 : State} {a0 a1 a2} (h2 : Same M s0 a2) (hm : 8248 ||| M = M) :
    OutSame M s0 (execCelTrimCfgWrite a0 a1 a2) := by
  unfold execCelTrimCfgWrite
  repeat' first
    | with_reducible assumption
    | with_reducible refine OutSame.next ?_
    | with_reducible refine regCmd_same (fun x0 k0 => ?_) ?_ (Same.sub hm rfl)
    | with_reducible refine postCel_same ?_ (Same.sub hm rfl)

theorem dstOp_same {M : Nat} {s0 : State} {a0 a1 a2} (h2 : Same M s0 a2) (hm : 8208 ||| M = M) :
    Same M s0 (dstOp a0 a1 a2) := by
  unfold dstOp
  repeat' first
    | with_reducible assumption
    | (extract_lets +onlyGivenNames x; first | (refine Same.cut M s0 x ?_ ?_; (focus (dsimp -zeta only [x]; clear x)); rotate_left 1; clear_value x; revert x; intro _ _) | (have hh := fun a => x a; clear hh; dsimp -zeta only [x]; clear x) | (clear_value x; revert x; intro _) | (dsimp -zeta only [x]; clear x))
    | with_reducible refine setCelStatus_same ?_ (Same.sub hm rfl)
    | with_reducible refine record_same ?_ (Same.sub hm rfl)
    | split
    | with_reducible refine Same.up_cel ?_ (Same.sub hm rfl)

theorem execCalendarCheck_same {M : Nat} {s0 : State} {a0} (h0 : Same M s0 a0) (hm : 8192 ||| M = M) :
    OutSame M s0 (execCalendarCheck a0) := by
  unfold execCalendarCheck
  repeat' first
    | with_reducible assumption
    | (extract_lets +onlyGivenNames x; first | (refine Same.cut M s0 x ?_ ?_; (focus (dsimp -zeta only [x]; clear x)); rotate_left 1; clear_value x; revert x; intro _ _) | (have hh := fun a => x a; clear hh; dsimp -zeta only [x]; clear x) | (clear_value x; revert x; intro _) | (dsimp -zeta only [x]; clear x))
    | with_reducible refine OutSame.next ?_
    | with_reducible refine postCel_same ?_ (Same.sub hm rfl)
    | split
    | with_reducible refine Same.up_cel ?_ (Same.sub hm rfl)

theorem execCelOscStop_same {M : Nat} {s0 : State} {a0 a1} (h1 : Same M s0 a1) (hm : 8208 ||| M = M) :
    OutSame M s0 (execCelOscStop a0 a1) := by
  unfold execCelOscStop
  repeat' first
    | with_reducible assumption
    | (extract_lets +onlyGivenNames x; first | (refine Same.cut M s0 x ?_ ?_; (focus (dsimp -zeta only [x]; clear x)); rotate_left 1; clear_value x; revert x; intro _ _) | (have hh := fun a => x a; clear hh; dsimp -zeta only [x]; clear x) | (clear_value x; revert x; intro _) | (dsimp -zeta only [x]; clear x))
    | with_reducible refine OutSame.next ?_
    | with_reducible refine record_same ?_ (Same.sub hm rfl)
    | split
    | with_reducible refine Same.up_cel ?_ (Same.sub hm rfl)

theorem zoneOp_same {M : Nat} {s0 : State} {a0 a1 a2} (h2 : Same M s0 a2) (hm : 8192 ||| M = M) :
    Same M s0 (zoneOp a0 a1 a2) := by
  unfold zoneOp
  repeat' first
    | with_reducible assumption
    | (extract_lets +onlyGivenNames x; first | (refine Same.cut M s0 x ?_ ?_; (focus (dsimp -zeta only [x]; clear x)); rotate_left 1; clear_value x; revert x; intro _ _) | (have hh := fun a => x a; clear hh; dsimp -zeta only [x]; clear x) | (clear_value x; revert x; intro _) | (dsimp -zeta only [x]; clear x))
    | with_reducible refine setCelStatus_same ?_ (Same.sub hm rfl)
    | split
    | with_reducible refine Same.up_cel ?_ (Same.sub hm rfl)

theorem statusOp_same {M : Nat} {s0 : State} {a0 a1} (h1 : Same M s0 a1) (hm : 8192 ||| M = M) :
    Same M s0 (statusOp a0 a1) := by
  unfold statusOp
  repeat' first
    | with_reducible assumption
    | (extract_lets +onlyGivenNames x; first | (refine Same.cut M s0 x ?_ ?_; (focus (dsimp -zeta only [x]; clear x)); rotate_left 1; clear_value x; revert x; intro _ _) | (have hh := fun a => x a; clear hh; dsimp -zeta only [x]; clear x) | (clear_value x; revert x; intro _) | (dsimp -zeta only [x]; clear x))
    | with_reducible refine Same.up_cel ?_ (Same.sub hm rfl)

theorem setTrim_same {M : Nat} {s0 : State} {a0 a1} (h1 : Same M s0 a1) (hm : 8208 ||| M = M) :
    Same M s0 (setTrim a0 a1) := by
  unfold setTrim
  repeat' first
    | with_reducible assumption
    | (extract_lets +onlyGivenNames x; first | (refine Same.cut M s0 x ?_ ?_; (focus (dsimp -zeta only [x]; clear x)); rotate_left 1; clear_value x; revert x; intro _ _) | (have hh := fun a => x a; clear hh; dsimp -zeta only [x]; clear x) | (clear_value x; revert x; intro _) | (dsimp -zeta only [x]; clear x))
    | with_reducible refine record_same ?_ (Same.sub hm rfl)
    | split
    | with_reducible refine Same.up_cel ?_ (Same.sub hm rfl)

theorem trimOp_same {M : Nat} {s0 : State} {a0 a1} (h1 : Same M s0 a1) (hm : 8208 ||| M = M) :
    Same M s0 (trimOp a0 a1) := by
  unfold trimOp
  repeat' first
    | with_reducible assumption
    | with_reducible refine setTrim_same ?_ (Same.sub hm rfl)
    | split

theorem trimCfgOp_same {M : Nat} {s0 : State} {a0 a1 a2} (h2 : Same M s0 a2) (hm : 8192 ||| M = M) :
    Same M s0 (trimCfgOp a0 a1 a2) := by
  unfold trimCfgOp
  repeat' first
    | with_reducible assumption
    | (extract_lets +onlyGivenNames x; first | (refine Same.cut M s0 x ?_ ?_; (focus (dsimp -zeta only [x]; clear x)); rotate_left 1; clear_value x; revert x; intro _ _) | (have hh := fun a => x a; clear hh; dsimp -zeta only [x]; clear x) | (clear_value x; revert x; intro _) | (dsimp -zeta only [x]; clear x))
    | with_reducible refine setCelStatus_same ?_ (Same.sub hm rfl)
    | split
    | with_reducible refine Same.up_cel ?_ (Same.sub hm rfl)

theorem postedOp_same {M : Nat} {s0 : State} {a0 a1} (h1 : Same M s0 a1) (hm : 8208 ||| M = M) :
    Same M s0 (postedOp a0 a1) := by
  unfold postedOp
  repeat' first
    | with_reducible assumption
    | (extract_lets +onlyGivenNames x; first | (refine Same.cut M s0 x ?_ ?_; (focus (dsimp -zeta only [x]; clear x)); rotate_left 1; clear_value x; revert x; intro _ _) | (have hh := fun a => x a; clear hh; dsimp -zeta only [x]; clear x) | (clear_value x; revert x; intro _) | (dsimp -zeta only [x]; clear x))
    | with_reducible refine celLoadOp_same ?_ (Same.sub hm rfl)
    | with_reducible refine celSyncOp_same ?_ (Same.sub hm rfl)
    | with_reducible refine zoneOp_same ?_ (Same.sub hm rfl)
    | with_reducible refine statusOp_same ?_ (Same.sub hm rfl)
    | with_reducible refine trimOp_same ?_ (Same.sub hm rfl)
    | with_reducible refine trimCfgOp_same ?_ (Same.sub hm rfl)
    | with_reducible refine dstOp_same ?_ (Same.sub hm rfl)
    | split
    | with_reducible refine Same.up_cel ?_ (Same.sub hm rfl)

theorem execCelPostedWriteEffect_same {M : Nat} {s0 : State} {a0} (h0 : Same M s0 a0) (hm : 8208 ||| M = M) :
    OutSame M s0 (execCelPostedWriteEffect a0) := by
  unfold execCelPostedWriteEffect
  repeat' first
    | with_reducible assumption
    | (extract_lets +onlyGivenNames x; first | (refine Same.cut M s0 x ?_ ?_; (focus (dsimp -zeta only [x]; clear x)); rotate_left 1; clear_value x; revert x; intro _ _) | (have hh := fun a => x a; clear hh; dsimp -zeta only [x]; clear x) | (clear_value x; revert x; intro _) | (dsimp -zeta only [x]; clear x))
    | with_reducible refine OutSame.next ?_
    | with_reducible refine postedOp_same ?_ (Same.sub hm rfl)
    | split
    | with_reducible refine Same.up_cel ?_ (Same.sub hm rfl)

theorem execCelToBattery_same {M : Nat} {s0 : State} {a0 a1 a2} (h2 : Same M s0 a2) (hm : 8208 ||| M = M) :
    OutSame M s0 (execCelToBattery a0 a1 a2) := by
  unfold execCelToBattery
  repeat' first
    | with_reducible assumption
    | (extract_lets +onlyGivenNames x; first | (refine Same.cut M s0 x ?_ ?_; (focus (dsimp -zeta only [x]; clear x)); rotate_left 1; clear_value x; revert x; intro _ _) | (have hh := fun a => x a; clear hh; dsimp -zeta only [x]; clear x) | (clear_value x; revert x; intro _) | (dsimp -zeta only [x]; clear x))
    | with_reducible refine OutSame.next ?_
    | with_reducible refine record_same ?_ (Same.sub hm rfl)
    | split
    | with_reducible refine Same.up_cel ?_ (Same.sub hm rfl)

theorem flushPend_same {M : Nat} {s0 : State} {a0} (h0 : Same M s0 a0) (hm : 8208 ||| M = M) :
    Same M s0 (flushPend a0) := by
  unfold flushPend
  repeat' first
    | with_reducible assumption
    | (extract_lets +onlyGivenNames x; first | (refine Same.cut M s0 x ?_ ?_; (focus (dsimp -zeta only [x]; clear x)); rotate_left 1; clear_value x; revert x; intro _ _) | (have hh := fun a => x a; clear hh; dsimp -zeta only [x]; clear x) | (clear_value x; revert x; intro _) | (dsimp -zeta only [x]; clear x))
    | with_reducible refine recordF_same ?_ (Same.sub hm rfl)
    | with_reducible refine Same.foldl (fun _ _ _ => ?_) ?_
    | split
    | with_reducible refine Same.up_cel ?_ (Same.sub hm rfl)

theorem retentionLoss_same {M : Nat} {s0 : State} {a0} (h0 : Same M s0 a0) (hm : 8208 ||| M = M) :
    Same M s0 (retentionLoss a0) := by
  unfold retentionLoss
  repeat' first
    | with_reducible assumption
    | (extract_lets +onlyGivenNames x; first | (refine Same.cut M s0 x ?_ ?_; (focus (dsimp -zeta only [x]; clear x)); rotate_left 1; clear_value x; revert x; intro _ _) | (have hh := fun a => x a; clear hh; dsimp -zeta only [x]; clear x) | (clear_value x; revert x; intro _) | (dsimp -zeta only [x]; clear x))
    | with_reducible refine record_same ?_ (Same.sub hm rfl)
    | with_reducible refine Same.up_cel ?_ (Same.sub hm rfl)

theorem execCelToMain_same {M : Nat} {s0 : State} {a0 a1 a2 a3 a4} (h4 : Same M s0 a4) (hm : 8208 ||| M = M) :
    OutSame M s0 (execCelToMain a0 a1 a2 a3 a4) := by
  unfold execCelToMain
  repeat' first
    | with_reducible assumption
    | (extract_lets +onlyGivenNames x; first | (refine Same.cut M s0 x ?_ ?_; (focus (dsimp -zeta only [x]; clear x)); rotate_left 1; clear_value x; revert x; intro _ _) | (have hh := fun a => x a; clear hh; dsimp -zeta only [x]; clear x) | (clear_value x; revert x; intro _) | (dsimp -zeta only [x]; clear x))
    | with_reducible refine OutSame.next ?_
    | with_reducible refine flushPend_same ?_ (Same.sub hm rfl)
    | with_reducible refine record_same ?_ (Same.sub hm rfl)
    | with_reducible refine retentionLoss_same ?_ (Same.sub hm rfl)
    | split
    | with_reducible refine Same.up_cel ?_ (Same.sub hm rfl)

theorem execLeapCheck_same {M : Nat} {s0 : State} {a0} (h0 : Same M s0 a0) (hm : 8192 ||| M = M) :
    OutSame M s0 (execLeapCheck a0) := by
  unfold execLeapCheck
  repeat' first
    | with_reducible assumption
    | (extract_lets +onlyGivenNames x; first | (refine Same.cut M s0 x ?_ ?_; (focus (dsimp -zeta only [x]; clear x)); rotate_left 1; clear_value x; revert x; intro _ _) | (have hh := fun a => x a; clear hh; dsimp -zeta only [x]; clear x) | (clear_value x; revert x; intro _) | (dsimp -zeta only [x]; clear x))
    | with_reducible refine OutSame.next ?_
    | with_reducible refine postCel_same ?_ (Same.sub hm rfl)
    | split
    | with_reducible refine Same.up_cel ?_ (Same.sub hm rfl)

theorem execOpsecSave_same {M : Nat} {s0 : State} {a0} (h0 : Same M s0 a0) (hm : 8192 ||| M = M) :
    OutSame M s0 (execOpsecSave a0) := by
  unfold execOpsecSave
  repeat' first
    | with_reducible assumption
    | (extract_lets +onlyGivenNames x; first | (refine Same.cut M s0 x ?_ ?_; (focus (dsimp -zeta only [x]; clear x)); rotate_left 1; clear_value x; revert x; intro _ _) | (have hh := fun a => x a; clear hh; dsimp -zeta only [x]; clear x) | (clear_value x; revert x; intro _) | (dsimp -zeta only [x]; clear x))
    | with_reducible refine OutSame.next ?_
    | split
    | with_reducible refine Same.up_cel ?_ (Same.sub hm rfl)

theorem execOscRestart_same {M : Nat} {s0 : State} {a0} (h0 : Same M s0 a0) (hm : 8192 ||| M = M) :
    OutSame M s0 (execOscRestart a0) := by
  unfold execOscRestart
  repeat' first
    | with_reducible assumption
    | (extract_lets +onlyGivenNames x; first | (refine Same.cut M s0 x ?_ ?_; (focus (dsimp -zeta only [x]; clear x)); rotate_left 1; clear_value x; revert x; intro _ _) | (have hh := fun a => x a; clear hh; dsimp -zeta only [x]; clear x) | (clear_value x; revert x; intro _) | (dsimp -zeta only [x]; clear x))
    | with_reducible refine OutSame.next ?_
    | split
    | with_reducible refine Same.up_cel ?_ (Same.sub hm rfl)

theorem execPendedEvent_same {M : Nat} {s0 : State} {a0} (h0 : Same M s0 a0) (hm : 8208 ||| M = M) :
    OutSame M s0 (execPendedEvent a0) := by
  unfold execPendedEvent
  repeat' first
    | with_reducible assumption
    | (extract_lets +onlyGivenNames x; first | (refine Same.cut M s0 x ?_ ?_; (focus (dsimp -zeta only [x]; clear x)); rotate_left 1; clear_value x; revert x; intro _ _) | (have hh := fun a => x a; clear hh; dsimp -zeta only [x]; clear x) | (clear_value x; revert x; intro _) | (dsimp -zeta only [x]; clear x))
    | with_reducible refine OutSame.next ?_
    | split
    | with_reducible refine Same.up_arising_cel ?_ (Same.sub hm rfl) (Same.sub hm rfl)

theorem execRtcSecond_same {M : Nat} {s0 : State} {a0 a1} (h1 : Same M s0 a1) (hm : 8208 ||| M = M) :
    OutSame M s0 (execRtcSecond a0 a1) := by
  unfold execRtcSecond
  repeat' first
    | with_reducible assumption
    | (extract_lets +onlyGivenNames x; first | (refine Same.cut M s0 x ?_ ?_; (focus (dsimp -zeta only [x]; clear x)); rotate_left 1; clear_value x; revert x; intro _ _) | (have hh := fun a => x a; clear hh; dsimp -zeta only [x]; clear x) | (clear_value x; revert x; intro _) | (dsimp -zeta only [x]; clear x))
    | with_reducible refine OutSame.next ?_
    | with_reducible refine calTick_same ?_ (Same.sub hm rfl)
    | split
    | with_reducible refine Same.up_cel ?_ (Same.sub hm rfl)

theorem execRtcTimeRead_same {M : Nat} {s0 : State} {a0 a1} (h1 : Same M s0 a1) (hm : 8248 ||| M = M) :
    OutSame M s0 (execRtcTimeRead a0 a1) := by
  unfold execRtcTimeRead
  repeat' first
    | with_reducible assumption
    | with_reducible refine OutSame.next ?_
    | with_reducible refine regRead_same (fun x0 k0 => ?_) ?_ (Same.sub hm rfl)
    | with_reducible refine updQBank_same ?_ (Same.sub hm rfl)

theorem restoreCellar_same {M : Nat} {s0 : State} {a0} (h0 : Same M s0 a0) (hm : 8192 ||| M = M) :
    Same M s0 (restoreCellar a0) := by
  unfold restoreCellar
  repeat' first
    | with_reducible assumption
    | (extract_lets +onlyGivenNames x; first | (refine Same.cut M s0 x ?_ ?_; (focus (dsimp -zeta only [x]; clear x)); rotate_left 1; clear_value x; revert x; intro _ _) | (have hh := fun a => x a; clear hh; dsimp -zeta only [x]; clear x) | (clear_value x; revert x; intro _) | (dsimp -zeta only [x]; clear x))
    | with_reducible refine postCel_same ?_ (Same.sub hm rfl)
    | split
    | with_reducible refine Same.up_cel ?_ (Same.sub hm rfl)

theorem execSyncTakesEffect_same {M : Nat} {s0 : State} {a0} (h0 : Same M s0 a0) (hm : 8208 ||| M = M) :
    OutSame M s0 (execSyncTakesEffect a0) := by
  unfold execSyncTakesEffect
  repeat' first
    | with_reducible assumption
    | (extract_lets +onlyGivenNames x; first | (refine Same.cut M s0 x ?_ ?_; (focus (dsimp -zeta only [x]; clear x)); rotate_left 1; clear_value x; revert x; intro _ _) | (have hh := fun a => x a; clear hh; dsimp -zeta only [x]; clear x) | (clear_value x; revert x; intro _) | (dsimp -zeta only [x]; clear x))
    | with_reducible refine OutSame.next ?_
    | with_reducible refine setCalendar_same ?_ (Same.sub hm rfl)
    | with_reducible refine record_same ?_ (Same.sub hm rfl)
    | split
    | with_reducible refine Same.up_cel ?_ (Same.sub hm rfl)

theorem trimPrior_same {M : Nat} {s0 : State} {a0 a1} (h1 : Same M s0 a1) (hm : 8208 ||| M = M) :
    Same M s0 (trimPrior a0 a1) := by
  unfold trimPrior
  repeat' first
    | with_reducible assumption
    | (extract_lets +onlyGivenNames x; first | (refine Same.cut M s0 x ?_ ?_; (focus (dsimp -zeta only [x]; clear x)); rotate_left 1; clear_value x; revert x; intro _ _) | (have hh := fun a => x a; clear hh; dsimp -zeta only [x]; clear x) | (clear_value x; revert x; intro _) | (dsimp -zeta only [x]; clear x))
    | with_reducible refine setTrim_same ?_ (Same.sub hm rfl)
    | split
    | with_reducible refine Same.up_cel ?_ (Same.sub hm rfl)

theorem trimCount_same {M : Nat} {s0 : State} {a0 a1} (h1 : Same M s0 a1) (hm : 8208 ||| M = M) :
    Same M s0 (trimCount a0 a1) := by
  unfold trimCount
  repeat' first
    | with_reducible assumption
    | (extract_lets +onlyGivenNames x; first | (refine Same.cut M s0 x ?_ ?_; (focus (dsimp -zeta only [x]; clear x)); rotate_left 1; clear_value x; revert x; intro _ _) | (have hh := fun a => x a; clear hh; dsimp -zeta only [x]; clear x) | (clear_value x; revert x; intro _) | (dsimp -zeta only [x]; clear x))
    | with_reducible refine setTrim_same ?_ (Same.sub hm rfl)
    | with_reducible refine record_same ?_ (Same.sub hm rfl)
    | split
    | with_reducible refine Same.up_cel ?_ (Same.sub hm rfl)

theorem execTrimWindowEnd_same {M : Nat} {s0 : State} {a0 a1 a2} (h2 : Same M s0 a2) (hm : 8208 ||| M = M) :
    OutSame M s0 (execTrimWindowEnd a0 a1 a2) := by
  unfold execTrimWindowEnd
  repeat' first
    | with_reducible assumption
    | (extract_lets +onlyGivenNames x; first | (refine Same.cut M s0 x ?_ ?_; (focus (dsimp -zeta only [x]; clear x)); rotate_left 1; clear_value x; revert x; intro _ _) | (have hh := fun a => x a; clear hh; dsimp -zeta only [x]; clear x) | (clear_value x; revert x; intro _) | (dsimp -zeta only [x]; clear x))
    | with_reducible refine OutSame.next ?_
    | with_reducible refine trimPrior_same ?_ (Same.sub hm rfl)
    | with_reducible refine trimCount_same ?_ (Same.sub hm rfl)
    | split
    | with_reducible refine Same.up_cel ?_ (Same.sub hm rfl)

theorem execVbatMeasure_same {M : Nat} {s0 : State} {a0 a1} (h1 : Same M s0 a1) (hm : 8208 ||| M = M) :
    OutSame M s0 (execVbatMeasure a0 a1) := by
  unfold execVbatMeasure
  repeat' first
    | with_reducible assumption
    | (extract_lets +onlyGivenNames x; first | (refine Same.cut M s0 x ?_ ?_; (focus (dsimp -zeta only [x]; clear x)); rotate_left 1; clear_value x; revert x; intro _ _) | (have hh := fun a => x a; clear hh; dsimp -zeta only [x]; clear x) | (clear_value x; revert x; intro _) | (dsimp -zeta only [x]; clear x))
    | with_reducible refine OutSame.next ?_
    | with_reducible refine record_same ?_ (Same.sub hm rfl)
    | split
    | with_reducible refine Same.up_cel ?_ (Same.sub hm rfl)

end Sys2Proof.Machine
end

