-- ==== Sys2Proof/Laws/FrameLoopOps.lean ====
section
/-!
SUPPORT. FrameLoopOps.lean: for each operation of Machine/LoopOps.lean, the components of State it can change: the result agrees with the
state it starts from on every component whose bit in the mask is 0 (the bits as in `Same`).
-/
namespace Sys2Proof.Machine
set_option linter.all false

theorem updSlot_same {M : Nat} {s0 : State} {a0 a1 a2} (h2 : Same M s0 a2) (hm : 1024 ||| M = M) :
    Same M s0 (updSlot a0 a1 a2) := by
  unfold updSlot
  repeat' first
    | with_reducible assumption
    | (extract_lets +onlyGivenNames x; first | (refine Same.cut M s0 x ?_ ?_; (focus (dsimp -zeta only [x]; clear x)); rotate_left 1; clear_value x; revert x; intro _ _) | (have hh := fun a => x a; clear hh; dsimp -zeta only [x]; clear x) | (clear_value x; revert x; intro _) | (dsimp -zeta only [x]; clear x))
    | split
    | with_reducible refine Same.up_lpe ?_ (Same.sub hm rfl)

theorem storeCmd_same {M : Nat} {s0 : State} {a0 a1 a2 a3} (h3 : Same M s0 a3) (hm : 1024 ||| M = M) :
    Same M s0 (storeCmd a0 a1 a2 a3).1 := by
  unfold storeCmd
  repeat' first
    | with_reducible assumption
    | with_reducible refine updSlot_same ?_ (Same.sub hm rfl)
    | with_reducible refine Same.foldl1 (fun _ _ _ => ?_) ?_
    | split
    | dsimp -zeta only

theorem takeLoopMsg_same {M : Nat} {s0 : State} {a0 a1} (h1 : Same M s0 a1) (hm : 1024 ||| M = M) :
    Same M s0 (takeLoopMsg a0 a1) := by
  unfold takeLoopMsg
  repeat' first
    | with_reducible assumption
    | (extract_lets +onlyGivenNames x; first | (refine Same.cut M s0 x ?_ ?_; (focus (dsimp -zeta only [x]; clear x)); rotate_left 1; clear_value x; revert x; intro _ _) | (refine Same.cut M s0 x.1 ?_ ?_; (focus (dsimp -zeta only [x]; clear x)); rotate_left 1; clear_value x; revert x; intro _ _) | (have hh := fun a => x a; clear hh; dsimp -zeta only [x]; clear x) | (clear_value x; revert x; intro _) | (dsimp -zeta only [x]; clear x))
    | with_reducible refine storeCmd_same ?_ (Same.sub hm rfl)
    | with_reducible refine Same.fst ‹_› (storeCmd_same ?_ (Same.sub hm rfl))
    | with_reducible refine updSlot_same ?_ (Same.sub hm rfl)
    | with_reducible refine Same.snd ‹_› ?_
    | with_reducible refine Same.fst ‹_› ?_
    | with_reducible refine Same.foldl1 (fun _ _ _ => ?_) ?_
    | with_reducible refine Same.foldl2 (fun _ _ _ => ?_) ?_
    | split
    | with_reducible refine Same.up_lpe ?_ (Same.sub hm rfl)

end Sys2Proof.Machine
end

