-- ==== Sys2Proof/Laws/FrameCrossing.lean ====
section
/-!
SUPPORT. FrameCrossing.lean: for each operation of Machine/Crossing.lean, the components of State it can change: the result agrees with the
state it starts from on every component whose bit in the mask is 0 (the bits as in `Same`).
-/
namespace Sys2Proof.Machine
set_option linter.all false

theorem deliverRaises_same {M : Nat} {s0 : State} {a0 a1 a2} (h2 : Same M s0 a2) (hm : 512 ||| M = M) :
    Same M s0 (deliverRaises a0 a1 a2) := by
  unfold deliverRaises
  repeat' first
    | with_reducible assumption
    | (extract_lets +onlyGivenNames x; first | (refine Same.cut M s0 x ?_ ?_; (focus (dsimp -zeta only [x]; clear x)); rotate_left 1; clear_value x; revert x; intro _ _) | (have hh := fun a => x a; clear hh; dsimp -zeta only [x]; clear x) | (clear_value x; revert x; intro _) | (dsimp -zeta only [x]; clear x))
    | with_reducible refine updTask_same ?_ (Same.sub hm rfl)
    | with_reducible refine Same.foldl (fun _ _ _ => ?_) ?_
    | split

theorem deliver_same {M : Nat} {s0 : State} {a0 a1} (h1 : Same M s0 a1) (hm : 1536 ||| M = M) :
    Same M s0 (deliver a0 a1) := by
  unfold deliver
  repeat' first
    | with_reducible assumption
    | (extract_lets +onlyGivenNames x; first | (refine Same.cut M s0 x ?_ ?_; (focus (dsimp -zeta only [x]; clear x)); rotate_left 1; clear_value x; revert x; intro _ _) | (have hh := fun a => x a; clear hh; dsimp -zeta only [x]; clear x) | (clear_value x; revert x; intro _) | (dsimp -zeta only [x]; clear x))
    | with_reducible refine takeLoopMsg_same ?_ (Same.sub hm rfl)
    | with_reducible refine updCyc_same ?_ (Same.sub hm rfl)
    | with_reducible refine maybeSwitch_same ?_ (Same.sub hm rfl)
    | with_reducible refine deliverRaises_same ?_ (Same.sub hm rfl)
    | with_reducible refine Same.foldl (fun _ _ _ => ?_) ?_
    | split
    | with_reducible refine Same.up_lpe ?_ (Same.sub hm rfl)

theorem crossingOp_same {M : Nat} {s0 : State} {a0 a1} (h1 : Same M s0 a1) (hm : 1568 ||| M = M) :
    Same M s0 (crossingOp a0 a1) := by
  unfold crossingOp
  repeat' first
    | with_reducible assumption
    | with_reducible refine setLaneQ_same ?_ (Same.sub hm rfl)
    | with_reducible refine deliver_same ?_ (Same.sub hm rfl)
    | split

theorem execHandshakeCrossing_same {M : Nat} {s0 : State} {a0 a1} (h1 : Same M s0 a1) (hm : 1568 ||| M = M) :
    OutSame M s0 (execHandshakeCrossing a0 a1) := by
  unfold execHandshakeCrossing
  repeat' first
    | with_reducible assumption
    | with_reducible refine OutSame.next ?_
    | with_reducible refine crossingOp_same ?_ (Same.sub hm rfl)

end Sys2Proof.Machine
end

