-- ==== Sys2Proof/Laws/FramePressOps.lean ====
section
/-!
SUPPORT. FramePressOps.lean: for each operation of Machine/PressOps.lean, the components of State it can change: the result agrees with the
state it starts from on every component whose bit in the mask is 0 (the bits as in `Same`).
-/
namespace Sys2Proof.Machine
set_option linter.all false

theorem updChan_same {M : Nat} {s0 : State} {a0 a1 a2} (h2 : Same M s0 a2) (hm : 2048 ||| M = M) :
    Same M s0 (updChan a0 a1 a2) := by
  unfold updChan
  repeat' first
    | with_reducible assumption
    | (extract_lets +onlyGivenNames x; first | (refine Same.cut M s0 x ?_ ?_; (focus (dsimp -zeta only [x]; clear x)); rotate_left 1; clear_value x; revert x; intro _ _) | (have hh := fun a => x a; clear hh; dsimp -zeta only [x]; clear x) | (clear_value x; revert x; intro _) | (dsimp -zeta only [x]; clear x))
    | split
    | with_reducible refine Same.up_prs ?_ (Same.sub hm rfl)

theorem updElem_same {M : Nat} {s0 : State} {a0 a1 a2} (h2 : Same M s0 a2) (hm : 2048 ||| M = M) :
    Same M s0 (updElem a0 a1 a2) := by
  unfold updElem
  repeat' first
    | with_reducible assumption
    | (extract_lets +onlyGivenNames x; first | (refine Same.cut M s0 x ?_ ?_; (focus (dsimp -zeta only [x]; clear x)); rotate_left 1; clear_value x; revert x; intro _ _) | (have hh := fun a => x a; clear hh; dsimp -zeta only [x]; clear x) | (clear_value x; revert x; intro _) | (dsimp -zeta only [x]; clear x))
    | split
    | with_reducible refine Same.up_prs ?_ (Same.sub hm rfl)

theorem newBlock_same {M : Nat} {s0 : State} {a0 a1 a2} (h2 : Same M s0 a2) (hm : 2048 ||| M = M) :
    Same M s0 (newBlock a0 a1 a2) := by
  unfold newBlock
  repeat' first
    | with_reducible assumption
    | (extract_lets +onlyGivenNames x; first | (refine Same.cut M s0 x ?_ ?_; (focus (dsimp -zeta only [x]; clear x)); rotate_left 1; clear_value x; revert x; intro _ _) | (have hh := fun a => x a; clear hh; dsimp -zeta only [x]; clear x) | (clear_value x; revert x; intro _) | (dsimp -zeta only [x]; clear x))
    | with_reducible refine updElem_same ?_ (Same.sub hm rfl)

theorem takeChan_same {M : Nat} {s0 : State} {a0 a1} (h1 : Same M s0 a1) (hm : 2048 ||| M = M) :
    Same M s0 (takeChan a0 a1) := by
  unfold takeChan
  repeat' first
    | with_reducible assumption
    | (extract_lets +onlyGivenNames x; first | (refine Same.cut M s0 x ?_ ?_; (focus (dsimp -zeta only [x]; clear x)); rotate_left 1; clear_value x; revert x; intro _ _) | (have hh := fun a => x a; clear hh; dsimp -zeta only [x]; clear x) | (clear_value x; revert x; intro _) | (dsimp -zeta only [x]; clear x))
    | with_reducible refine updChan_same ?_ (Same.sub hm rfl)
    | split

theorem openWin_same {M : Nat} {s0 : State} {a0 a1 a2 a3} (h3 : Same M s0 a3) (hm : 2048 ||| M = M) :
    Same M s0 (openWin a0 a1 a2 a3) := by
  unfold openWin
  repeat' first
    | with_reducible assumption
    | (extract_lets +onlyGivenNames x; first | (refine Same.cut M s0 x ?_ ?_; (focus (dsimp -zeta only [x]; clear x)); rotate_left 1; clear_value x; revert x; intro _ _) | (have hh := fun a => x a; clear hh; dsimp -zeta only [x]; clear x) | (clear_value x; revert x; intro _) | (dsimp -zeta only [x]; clear x))
    | with_reducible refine updElem_same ?_ (Same.sub hm rfl)
    | split

theorem activateElem_same {M : Nat} {s0 : State} {a0 a1 a2} (h2 : Same M s0 a2) (hm : 2048 ||| M = M) :
    Same M s0 (activateElem a0 a1 a2) := by
  unfold activateElem
  repeat' first
    | with_reducible assumption
    | (extract_lets +onlyGivenNames x; first | (refine Same.cut M s0 x ?_ ?_; (focus (dsimp -zeta only [x]; clear x)); rotate_left 1; clear_value x; revert x; intro _ _) | (have hh := fun a => x a; clear hh; dsimp -zeta only [x]; clear x) | (clear_value x; revert x; intro _) | (dsimp -zeta only [x]; clear x))
    | with_reducible refine newBlock_same ?_ (Same.sub hm rfl)
    | with_reducible refine updElem_same ?_ (Same.sub hm rfl)
    | with_reducible refine takeChan_same ?_ (Same.sub hm rfl)
    | with_reducible refine openWin_same ?_ (Same.sub hm rfl)
    | with_reducible refine Same.foldl (fun _ _ _ => ?_) ?_
    | split

theorem writeElem_same {M : Nat} {s0 : State} {a0 a1 a2 a3} (h3 : Same M s0 a3) (hm : 1149240 ||| M = M) :
    Same M s0 (writeElem a0 a1 a2 a3) := by
  unfold writeElem
  repeat' first
    | with_reducible assumption
    | (extract_lets +onlyGivenNames x; first | (refine Same.cut M s0 x ?_ ?_; (focus (dsimp -zeta only [x]; clear x)); rotate_left 1; clear_value x; revert x; intro _ _) | (have hh := fun a => x a; clear hh; dsimp -zeta only [x]; clear x) | (clear_value x; revert x; intro _) | (dsimp -zeta only [x]; clear x))
    | with_reducible refine xchRefuse_same ?_ (Same.sub hm rfl)
    | with_reducible refine updElem_same ?_ (Same.sub hm rfl)
    | with_reducible refine writeQ_same ?_ (Same.sub hm rfl)
    | with_reducible refine Same.foldl (fun _ _ _ => ?_) ?_
    | split

theorem publishBlock_same {M : Nat} {s0 : State} {a0 a1 a2} (h2 : Same M s0 a2) (hm : 1149244 ||| M = M) :
    Same M s0 (publishBlock a0 a1 a2) := by
  unfold publishBlock
  repeat' first
    | with_reducible assumption
    | (extract_lets +onlyGivenNames x; first | (refine Same.cut M s0 x ?_ ?_; (focus (dsimp -zeta only [x]; clear x)); rotate_left 1; clear_value x; revert x; intro _ _) | (have hh := fun a => x a; clear hh; dsimp -zeta only [x]; clear x) | (clear_value x; revert x; intro _) | (dsimp -zeta only [x]; clear x))
    | with_reducible refine bumpFree_same ?_ (Same.sub hm rfl)
    | with_reducible refine updElem_same ?_ (Same.sub hm rfl)
    | with_reducible refine writeElem_same ?_ (Same.sub hm rfl)
    | split

theorem countSample_same {M : Nat} {s0 : State} {a0 a1 a2} (h2 : Same M s0 a2) (hm : 2048 ||| M = M) :
    Same M s0 (countSample a0 a1 a2) := by
  unfold countSample
  repeat' first
    | with_reducible assumption
    | (extract_lets +onlyGivenNames x; first | (refine Same.cut M s0 x ?_ ?_; (focus (dsimp -zeta only [x]; clear x)); rotate_left 1; clear_value x; revert x; intro _ _) | (have hh := fun a => x a; clear hh; dsimp -zeta only [x]; clear x) | (clear_value x; revert x; intro _) | (dsimp -zeta only [x]; clear x))
    | with_reducible refine updElem_same ?_ (Same.sub hm rfl)
    | split

theorem flagWin_same {M : Nat} {s0 : State} {a0 a1 a2} (h2 : Same M s0 a2) (hm : 2048 ||| M = M) :
    Same M s0 (flagWin a0 a1 a2) := by
  unfold flagWin
  repeat' first
    | with_reducible assumption
    | (extract_lets +onlyGivenNames x; first | (refine Same.cut M s0 x ?_ ?_; (focus (dsimp -zeta only [x]; clear x)); rotate_left 1; clear_value x; revert x; intro _ _) | (have hh := fun a => x a; clear hh; dsimp -zeta only [x]; clear x) | (clear_value x; revert x; intro _) | (dsimp -zeta only [x]; clear x))
    | with_reducible refine updElem_same ?_ (Same.sub hm rfl)

theorem noteClips_same {M : Nat} {s0 : State} {a0 a1 a2 a3} (h3 : Same M s0 a3) (hm : 2064 ||| M = M) :
    Same M s0 (noteClips a0 a1 a2 a3) := by
  unfold noteClips
  repeat' first
    | with_reducible assumption
    | (extract_lets +onlyGivenNames x; first | (refine Same.cut M s0 x ?_ ?_; (focus (dsimp -zeta only [x]; clear x)); rotate_left 1; clear_value x; revert x; intro _ _) | (have hh := fun a => x a; clear hh; dsimp -zeta only [x]; clear x) | (clear_value x; revert x; intro _) | (dsimp -zeta only [x]; clear x))
    | with_reducible refine updChan_same ?_ (Same.sub hm rfl)
    | with_reducible refine record_same ?_ (Same.sub hm rfl)
    | with_reducible refine flagWin_same ?_ (Same.sub hm rfl)
    | with_reducible refine Same.foldl (fun _ _ _ => ?_) ?_
    | split

theorem closeWin_same {M : Nat} {s0 : State} {a0 a1} (h1 : Same M s0 a1) (hm : 1149240 ||| M = M) :
    Same M s0 (closeWin a0 a1) := by
  unfold closeWin
  repeat' first
    | with_reducible assumption
    | (extract_lets +onlyGivenNames x; first | (refine Same.cut M s0 x ?_ ?_; (focus (dsimp -zeta only [x]; clear x)); rotate_left 1; clear_value x; revert x; intro _ _) | (have hh := fun a => x a; clear hh; dsimp -zeta only [x]; clear x) | (clear_value x; revert x; intro _) | (dsimp -zeta only [x]; clear x))
    | with_reducible refine updChan_same ?_ (Same.sub hm rfl)
    | with_reducible refine updElem_same ?_ (Same.sub hm rfl)
    | with_reducible refine writeElem_same ?_ (Same.sub hm rfl)
    | with_reducible refine Same.foldl (fun _ _ _ => ?_) ?_
    | split
    | with_reducible refine Same.up_prs ?_ (Same.sub hm rfl)

theorem removeElem_same {M : Nat} {s0 : State} {a0 a1} (h1 : Same M s0 a1) (hm : 1149200 ||| M = M) :
    Same M s0 (removeElem a0 a1) := by
  unfold removeElem
  repeat' first
    | with_reducible assumption
    | (extract_lets +onlyGivenNames x; first | (refine Same.cut M s0 x ?_ ?_; (focus (dsimp -zeta only [x]; clear x)); rotate_left 1; clear_value x; revert x; intro _ _) | (have hh := fun a => x a; clear hh; dsimp -zeta only [x]; clear x) | (clear_value x; revert x; intro _) | (dsimp -zeta only [x]; clear x))
    | with_reducible refine substituteAll_same ?_ (Same.sub hm rfl)
    | split
    | with_reducible refine Same.up_prs ?_ (Same.sub hm rfl)

theorem zeroElem_same {M : Nat} {s0 : State} {a0 a1} (h1 : Same M s0 a1) (hm : 2064 ||| M = M) :
    Same M s0 (zeroElem a0 a1) := by
  unfold zeroElem
  repeat' first
    | with_reducible assumption
    | (extract_lets +onlyGivenNames x; first | (refine Same.cut M s0 x ?_ ?_; (focus (dsimp -zeta only [x]; clear x)); rotate_left 1; clear_value x; revert x; intro _ _) | (have hh := fun a => x a; clear hh; dsimp -zeta only [x]; clear x) | (clear_value x; revert x; intro _) | (dsimp -zeta only [x]; clear x))
    | with_reducible refine updElem_same ?_ (Same.sub hm rfl)
    | with_reducible refine record_same ?_ (Same.sub hm rfl)
    | split
    | with_reducible refine Same.up_prs ?_ (Same.sub hm rfl)

theorem changeElem_same {M : Nat} {s0 : State} {a0 a1} (h1 : Same M s0 a1) (hm : 2064 ||| M = M) :
    Same M s0 (changeElem a0 a1) := by
  unfold changeElem
  repeat' first
    | with_reducible assumption
    | (extract_lets +onlyGivenNames x; first | (refine Same.cut M s0 x ?_ ?_; (focus (dsimp -zeta only [x]; clear x)); rotate_left 1; clear_value x; revert x; intro _ _) | (have hh := fun a => x a; clear hh; dsimp -zeta only [x]; clear x) | (clear_value x; revert x; intro _) | (dsimp -zeta only [x]; clear x))
    | with_reducible refine zeroElem_same ?_ (Same.sub hm rfl)
    | with_reducible refine updElem_same ?_ (Same.sub hm rfl)
    | split

theorem rollWin_same {M : Nat} {s0 : State} {a0 a1 a2} (h2 : Same M s0 a2) (hm : 1149240 ||| M = M) :
    Same M s0 (rollWin a0 a1 a2) := by
  unfold rollWin
  repeat' first
    | with_reducible assumption
    | (extract_lets +onlyGivenNames x; first | (refine Same.cut M s0 x ?_ ?_; (focus (dsimp -zeta only [x]; clear x)); rotate_left 1; clear_value x; revert x; intro _ _) | (have hh := fun a => x a; clear hh; dsimp -zeta only [x]; clear x) | (clear_value x; revert x; intro _) | (dsimp -zeta only [x]; clear x))
    | with_reducible refine takeChan_same ?_ (Same.sub hm rfl)
    | with_reducible refine openWin_same ?_ (Same.sub hm rfl)
    | with_reducible refine closeWin_same ?_ (Same.sub hm rfl)
    | with_reducible refine removeElem_same ?_ (Same.sub hm rfl)
    | with_reducible refine changeElem_same ?_ (Same.sub hm rfl)
    | with_reducible refine Same.foldl (fun _ _ _ => ?_) ?_
    | split

theorem takeMdReset_same {M : Nat} {s0 : State} {a0 a1} (h1 : Same M s0 a1) (hm : 2064 ||| M = M) :
    Same M s0 (takeMdReset a0 a1) := by
  unfold takeMdReset
  repeat' first
    | with_reducible assumption
    | (extract_lets +onlyGivenNames x; first | (refine Same.cut M s0 x ?_ ?_; (focus (dsimp -zeta only [x]; clear x)); rotate_left 1; clear_value x; revert x; intro _ _) | (have hh := fun a => x a; clear hh; dsimp -zeta only [x]; clear x) | (clear_value x; revert x; intro _) | (dsimp -zeta only [x]; clear x))
    | with_reducible refine updElem_same ?_ (Same.sub hm rfl)
    | with_reducible refine record_same ?_ (Same.sub hm rfl)
    | split

theorem stepFlag_same {M : Nat} {s0 : State} {a0 a1} (h1 : Same M s0 a1) (hm : 2064 ||| M = M) :
    Same M s0 (stepFlag a0 a1) := by
  unfold stepFlag
  repeat' first
    | with_reducible assumption
    | with_reducible refine record_same ?_ (Same.sub hm rfl)
    | with_reducible refine flagWin_same ?_ (Same.sub hm rfl)
    | split

theorem updPulse_same {M : Nat} {s0 : State} {a0 a1 a2} (h2 : Same M s0 a2) (hm : 2048 ||| M = M) :
    Same M s0 (updPulse a0 a1 a2) := by
  unfold updPulse
  repeat' first
    | with_reducible assumption
    | (extract_lets +onlyGivenNames x; first | (refine Same.cut M s0 x ?_ ?_; (focus (dsimp -zeta only [x]; clear x)); rotate_left 1; clear_value x; revert x; intro _ _) | (have hh := fun a => x a; clear hh; dsimp -zeta only [x]; clear x) | (clear_value x; revert x; intro _) | (dsimp -zeta only [x]; clear x))
    | split
    | with_reducible refine Same.up_prs ?_ (Same.sub hm rfl)

theorem feedPulse_same {M : Nat} {s0 : State} {a0 a1 a2 a3 a4} (h4 : Same M s0 a4) (hm : 2064 ||| M = M) :
    Same M s0 (feedPulse a0 a1 a2 a3 a4) := by
  unfold feedPulse
  repeat' first
    | with_reducible assumption
    | (extract_lets +onlyGivenNames x; first | (refine Same.cut M s0 x ?_ ?_; (focus (dsimp -zeta only [x]; clear x)); rotate_left 1; clear_value x; revert x; intro _ _) | (have hh := fun a => x a; clear hh; dsimp -zeta only [x]; clear x) | (clear_value x; revert x; intro _) | (dsimp -zeta only [x]; clear x))
    | with_reducible refine record_same ?_ (Same.sub hm rfl)
    | with_reducible refine updPulse_same ?_ (Same.sub hm rfl)
    | split

theorem feedPulses_same {M : Nat} {s0 : State} {a0 a1 a2 a3 a4 a5 a6 a7} (h7 : Same M s0 a7) (hm : 2064 ||| M = M) :
    Same M s0 (feedPulses a0 a1 a2 a3 a4 a5 a6 a7) := by
  unfold feedPulses
  repeat' first
    | with_reducible assumption
    | (extract_lets +onlyGivenNames x; first | (refine Same.cut M s0 x ?_ ?_; (focus (dsimp -zeta only [x]; clear x)); rotate_left 1; clear_value x; revert x; intro _ _) | (have hh := fun a => x a; clear hh; dsimp -zeta only [x]; clear x) | (clear_value x; revert x; intro _) | (dsimp -zeta only [x]; clear x))
    | with_reducible refine feedPulse_same ?_ (Same.sub hm rfl)
    | with_reducible refine Same.foldl (fun _ _ _ => ?_) ?_
    | split

theorem bookEnergy_same {M : Nat} {s0 : State} {a0 a1 a2} (h2 : Same M s0 a2) (hm : 2064 ||| M = M) :
    Same M s0 (bookEnergy a0 a1 a2) := by
  unfold bookEnergy
  repeat' first
    | with_reducible assumption
    | (extract_lets +onlyGivenNames x; first | (refine Same.cut M s0 x ?_ ?_; (focus (dsimp -zeta only [x]; clear x)); rotate_left 1; clear_value x; revert x; intro _ _) | (have hh := fun a => x a; clear hh; dsimp -zeta only [x]; clear x) | (clear_value x; revert x; intro _) | (dsimp -zeta only [x]; clear x))
    | with_reducible refine updElem_same ?_ (Same.sub hm rfl)
    | with_reducible refine feedPulses_same ?_ (Same.sub hm rfl)
    | split
    | with_reducible refine Same.up_prs ?_ (Same.sub hm rfl)

theorem bookElem_same {M : Nat} {s0 : State} {a0 a1 a2 a3 a4 a5 a6} (h6 : Same M s0 a6) (hm : 1149244 ||| M = M) :
    Same M s0 (bookElem a0 a1 a2 a3 a4 a5 a6) := by
  unfold bookElem
  repeat' first
    | with_reducible assumption
    | (extract_lets +onlyGivenNames x; first | (refine Same.cut M s0 x ?_ ?_; (focus (dsimp -zeta only [x]; clear x)); rotate_left 1; clear_value x; revert x; intro _ _) | (have hh := fun a => x a; clear hh; dsimp -zeta only [x]; clear x) | (clear_value x; revert x; intro _) | (dsimp -zeta only [x]; clear x))
    | with_reducible refine publishBlock_same ?_ (Same.sub hm rfl)
    | with_reducible refine newBlock_same ?_ (Same.sub hm rfl)
    | with_reducible refine countSample_same ?_ (Same.sub hm rfl)
    | with_reducible refine noteClips_same ?_ (Same.sub hm rfl)
    | with_reducible refine openWin_same ?_ (Same.sub hm rfl)
    | with_reducible refine rollWin_same ?_ (Same.sub hm rfl)
    | with_reducible refine takeMdReset_same ?_ (Same.sub hm rfl)
    | with_reducible refine stepFlag_same ?_ (Same.sub hm rfl)
    | with_reducible refine activateElem_same ?_ (Same.sub hm rfl)
    | with_reducible refine bookEnergy_same ?_ (Same.sub hm rfl)
    | with_reducible refine flagWin_same ?_ (Same.sub hm rfl)
    | split

theorem takeSwitches_same {M : Nat} {s0 : State} {a0 a1} (h1 : Same M s0 a1) (hm : 2048 ||| M = M) :
    Same M s0 (takeSwitches a0 a1) := by
  unfold takeSwitches
  repeat' first
    | with_reducible assumption
    | (extract_lets +onlyGivenNames x; first | (refine Same.cut M s0 x ?_ ?_; (focus (dsimp -zeta only [x]; clear x)); rotate_left 1; clear_value x; revert x; intro _ _) | (have hh := fun a => x a; clear hh; dsimp -zeta only [x]; clear x) | (clear_value x; revert x; intro _) | (dsimp -zeta only [x]; clear x))
    | with_reducible refine Same.up_prs ?_ (Same.sub hm rfl)

theorem noteRestart_same {M : Nat} {s0 : State} {a0 a1} (h1 : Same M s0 a1) (hm : 16 ||| M = M) :
    Same M s0 (noteRestart a0 a1) := by
  unfold noteRestart
  repeat' first
    | with_reducible assumption
    | with_reducible refine record_same ?_ (Same.sub hm rfl)
    | split

theorem bookSample_same {M : Nat} {s0 : State} {a0 a1 a2 a3} (h3 : Same M s0 a3) (hm : 1149244 ||| M = M) :
    Same M s0 (bookSample a0 a1 a2 a3) := by
  unfold bookSample
  repeat' first
    | with_reducible assumption
    | (extract_lets +onlyGivenNames x; first | (refine Same.cut M s0 x ?_ ?_; (focus (dsimp -zeta only [x]; clear x)); rotate_left 1; clear_value x; revert x; intro _ _) | (have hh := fun a => x a; clear hh; dsimp -zeta only [x]; clear x) | (clear_value x; revert x; intro _) | (dsimp -zeta only [x]; clear x))
    | with_reducible refine takeSwitches_same ?_ (Same.sub hm rfl)
    | with_reducible refine bookElem_same ?_ (Same.sub hm rfl)
    | with_reducible refine noteRestart_same ?_ (Same.sub hm rfl)
    | with_reducible refine Same.foldl (fun _ _ _ => ?_) ?_
    | split
    | with_reducible refine Same.up_prs ?_ (Same.sub hm rfl)

theorem sampleChans_same {M : Nat} {s0 : State} {a0 a1 a2} (h2 : Same M s0 a2) (hm : 2048 ||| M = M) :
    Same M s0 (sampleChans a0 a1 a2).1 := by
  unfold sampleChans
  repeat' first
    | with_reducible assumption
    | (extract_lets +onlyGivenNames x; first | (refine Same.cut M s0 x ?_ ?_; (focus (dsimp -zeta only [x]; clear x)); rotate_left 1; clear_value x; revert x; intro _ _) | (have hh := fun a => x a; clear hh; dsimp -zeta only [x]; clear x) | (clear_value x; revert x; intro _) | (dsimp -zeta only [x]; clear x))
    | with_reducible refine Same.foldl (fun _ _ _ => ?_) ?_
    | with_reducible refine Same.foldl1 (fun _ _ _ => ?_) ?_
    | split
    | with_reducible refine Same.up_prs ?_ (Same.sub hm rfl)
    | dsimp -zeta only

theorem updVsys_same {M : Nat} {s0 : State} {a0 a1 a2} (h2 : Same M s0 a2) (hm : 2048 ||| M = M) :
    Same M s0 (updVsys a0 a1 a2) := by
  unfold updVsys
  repeat' first
    | with_reducible assumption
    | (extract_lets +onlyGivenNames x; first | (refine Same.cut M s0 x ?_ ?_; (focus (dsimp -zeta only [x]; clear x)); rotate_left 1; clear_value x; revert x; intro _ _) | (have hh := fun a => x a; clear hh; dsimp -zeta only [x]; clear x) | (clear_value x; revert x; intro _) | (dsimp -zeta only [x]; clear x))
    | split
    | with_reducible refine Same.up_prs ?_ (Same.sub hm rfl)

theorem sampleSystems_same {M : Nat} {s0 : State} {a0 a1} (h1 : Same M s0 a1) (hm : 2048 ||| M = M) :
    Same M s0 (sampleSystems a0 a1) := by
  unfold sampleSystems
  repeat' first
    | with_reducible assumption
    | (extract_lets +onlyGivenNames x; first | (refine Same.cut M s0 x ?_ ?_; (focus (dsimp -zeta only [x]; clear x)); rotate_left 1; clear_value x; revert x; intro _ _) | (have hh := fun a => x a; clear hh; dsimp -zeta only [x]; clear x) | (clear_value x; revert x; intro _) | (dsimp -zeta only [x]; clear x))
    | with_reducible refine updVsys_same ?_ (Same.sub hm rfl)
    | split

theorem sampleElems_same {M : Nat} {s0 : State} {a0 a1} (h1 : Same M s0 a1) (hm : 2048 ||| M = M) :
    Same M s0 (sampleElems a0 a1).1 := by
  unfold sampleElems
  repeat' first
    | with_reducible assumption
    | (extract_lets +onlyGivenNames x; first | (refine Same.cut M s0 x ?_ ?_; (focus (dsimp -zeta only [x]; clear x)); rotate_left 1; clear_value x; revert x; intro _ _) | (have hh := fun a => x a; clear hh; dsimp -zeta only [x]; clear x) | (clear_value x; revert x; intro _) | (dsimp -zeta only [x]; clear x))
    | with_reducible refine Same.foldl1 (fun _ _ _ => ?_) ?_
    | split
    | with_reducible refine Same.up_prs ?_ (Same.sub hm rfl)
    | dsimp -zeta only

end Sys2Proof.Machine
end

