-- ==== Sys2Proof/Laws/FramePgeIsa.lean ====
section
/-!
SUPPORT. FramePgeIsa.lean: for each operation of Machine/PgeIsa.lean, the components of State it can change: the result agrees with the
state it starts from on every component whose bit in the mask is 0 (the bits as in `Same`).
-/
namespace Sys2Proof.Machine
set_option linter.all false

theorem instr_same {M : Nat} {s0 : State} {a0 a1 a2 a3} (h2 : ∀ x0 x1 x2, Same M s0 x2 → Same M s0 (a2 x0 x1 x2)) (h3 : Same M s0 a3) (hm : 512 ||| M = M) :
    OutSame M s0 (instr a0 a1 a2 a3) := by
  unfold instr
  repeat' first
    | with_reducible assumption
    | (extract_lets +onlyGivenNames x; first | (refine Same.cut M s0 x ?_ ?_; (focus (dsimp -zeta only [x]; clear x)); rotate_left 1; clear_value x; revert x; intro _ _) | (have hh := fun a => x a; clear hh; dsimp -zeta only [x]; clear x) | (clear_value x; revert x; intro _) | (dsimp -zeta only [x]; clear x))
    | with_reducible refine OutSame.next ?_
    | with_reducible refine h2 _ _ _ ?_
    | with_reducible refine charge_same ?_ (Same.sub hm rfl)
    | with_reducible refine setCtx_same ?_ (Same.sub hm rfl)
    | split

theorem alu_same {M : Nat} {s0 : State} {a0 a1 a2 a3 a4} (h4 : Same M s0 a4) (hm : 512 ||| M = M) :
    OutSame M s0 (alu a0 a1 a2 a3 a4) := by
  unfold alu
  repeat' first
    | with_reducible assumption
    | with_reducible refine OutSame.next ?_
    | with_reducible refine instr_same (fun x0 x1 x2 k2 => ?_) ?_ (Same.sub hm rfl)
    | with_reducible refine setCtx_same ?_ (Same.sub hm rfl)
    | split

theorem alu2_same {M : Nat} {s0 : State} {a0 a1 a2 a3 a4 a5 a6} (h6 : Same M s0 a6) (hm : 512 ||| M = M) :
    OutSame M s0 (alu2 a0 a1 a2 a3 a4 a5 a6) := by
  unfold alu2
  repeat' first
    | with_reducible assumption
    | with_reducible refine OutSame.next ?_
    | with_reducible refine alu_same ?_ (Same.sub hm rfl)
    | split

theorem aluF_same {M : Nat} {s0 : State} {a0 a1 a2 a3 a4} (h4 : Same M s0 a4) (hm : 532 ||| M = M) :
    OutSame M s0 (aluF a0 a1 a2 a3 a4) := by
  unfold aluF
  repeat' first
    | with_reducible assumption
    | (extract_lets +onlyGivenNames x; first | (refine Same.cut M s0 x ?_ ?_; (focus (dsimp -zeta only [x]; clear x)); rotate_left 1; clear_value x; revert x; intro _ _) | (have hh := fun a => x a; clear hh; dsimp -zeta only [x]; clear x) | (clear_value x; revert x; intro _) | (dsimp -zeta only [x]; clear x))
    | with_reducible refine OutSame.next ?_
    | with_reducible refine instr_same (fun x0 x1 x2 k2 => ?_) ?_ (Same.sub hm rfl)
    | with_reducible refine bumpFree_same ?_ (Same.sub hm rfl)
    | with_reducible refine raiseFor_same ?_ (Same.sub hm rfl)
    | with_reducible refine setCtx_same ?_ (Same.sub hm rfl)
    | split

theorem bitOp_same {M : Nat} {s0 : State} {a0 a1 a2 a3} (h3 : Same M s0 a3) (hm : 512 ||| M = M) :
    OutSame M s0 (bitOp a0 a1 a2 a3) := by
  unfold bitOp
  repeat' first
    | with_reducible assumption
    | with_reducible refine OutSame.next ?_
    | with_reducible refine instr_same (fun x0 x1 x2 k2 => ?_) ?_ (Same.sub hm rfl)
    | with_reducible refine setCtx_same ?_ (Same.sub hm rfl)
    | split

theorem illegalAt_same {M : Nat} {s0 : State} {a0 a1} (h1 : Same M s0 a1) (hm : 568 ||| M = M) :
    Same M s0 (illegalAt a0 a1) := by
  unfold illegalAt
  repeat' first
    | with_reducible assumption
    | with_reducible refine failExchange_same ?_ (Same.sub hm rfl)
    | with_reducible refine abandon_same ?_ (Same.sub hm rfl)
    | split

theorem jumpTo_same {M : Nat} {s0 : State} {a0 a1 a2 a3 a4} (h4 : Same M s0 a4) (hm : 568 ||| M = M) :
    Same M s0 (jumpTo a0 a1 a2 a3 a4) := by
  unfold jumpTo
  repeat' first
    | with_reducible assumption
    | with_reducible refine illegalAt_same ?_ (Same.sub hm rfl)
    | with_reducible refine setCtx_same ?_ (Same.sub hm rfl)
    | split

theorem branch_same {M : Nat} {s0 : State} {a0 a1 a2 a3 a4} (h4 : Same M s0 a4) (hm : 568 ||| M = M) :
    OutSame M s0 (branch a0 a1 a2 a3 a4) := by
  unfold branch
  repeat' first
    | with_reducible assumption
    | with_reducible refine OutSame.next ?_
    | with_reducible refine instr_same (fun x0 x1 x2 k2 => ?_) ?_ (Same.sub hm rfl)
    | with_reducible refine jumpTo_same ?_ (Same.sub hm rfl)
    | with_reducible refine charge_same ?_ (Same.sub hm rfl)
    | split

theorem deniedAt_same {M : Nat} {s0 : State} {a0 a1 a2 a3 a4 a5 a6} (h6 : Same M s0 a6) (hm : 568 ||| M = M) :
    Same M s0 (deniedAt a0 a1 a2 a3 a4 a5 a6) := by
  unfold deniedAt
  repeat' first
    | with_reducible assumption
    | (extract_lets +onlyGivenNames x; first | (refine Same.cut M s0 x ?_ ?_; (focus (dsimp -zeta only [x]; clear x)); rotate_left 1; clear_value x; revert x; intro _ _) | (have hh := fun a => x a; clear hh; dsimp -zeta only [x]; clear x) | (clear_value x; revert x; intro _) | (dsimp -zeta only [x]; clear x))
    | with_reducible refine failExchange_same ?_ (Same.sub hm rfl)
    | with_reducible refine abandon_same ?_ (Same.sub hm rfl)
    | with_reducible refine denied_same ?_ (Same.sub hm rfl)
    | split

theorem memDenied_same {M : Nat} {s0 : State} {a0 a1 a2} (h2 : Same M s0 a2) (hm : 568 ||| M = M) :
    Same M s0 (memDenied a0 a1 a2) := by
  unfold memDenied
  repeat' first
    | with_reducible assumption
    | with_reducible refine deniedAt_same ?_ (Same.sub hm rfl)

theorem withElement_same {M : Nat} {s0 : State} {a0 a1 a2 a3 a4 a5} (h4 : ∀ x0, Same M s0 x0 → Same M s0 (a4 x0)) (h5 : Same M s0 a5) (hm : 568 ||| M = M) :
    Same M s0 (withElement a0 a1 a2 a3 a4 a5) := by
  unfold withElement
  repeat' first
    | with_reducible assumption
    | with_reducible refine h4 _ ?_
    | with_reducible refine memDenied_same ?_ (Same.sub hm rfl)
    | split

theorem instStore_same {M : Nat} {s0 : State} {a0 a1 a2 a3 a4} (h4 : Same M s0 a4) (hm : 64 ||| M = M) :
    Same M s0 (instStore a0 a1 a2 a3 a4) := by
  unfold instStore
  repeat' first
    | with_reducible assumption
    | (extract_lets +onlyGivenNames x; first | (refine Same.cut M s0 x ?_ ?_; (focus (dsimp -zeta only [x]; clear x)); rotate_left 1; clear_value x; revert x; intro _ _) | (have hh := fun a => x a; clear hh; dsimp -zeta only [x]; clear x) | (clear_value x; revert x; intro _) | (dsimp -zeta only [x]; clear x))
    | split
    | with_reducible refine Same.up_mem ?_ (Same.sub hm rfl)

theorem taskStore_same {M : Nat} {s0 : State} {a0 a1 a2 a3 a4} (h4 : Same M s0 a4) (hm : 576 ||| M = M) :
    Same M s0 (taskStore a0 a1 a2 a3 a4) := by
  unfold taskStore
  repeat' first
    | with_reducible assumption
    | (extract_lets +onlyGivenNames x; first | (refine Same.cut M s0 x ?_ ?_; (focus (dsimp -zeta only [x]; clear x)); rotate_left 1; clear_value x; revert x; intro _ _) | (have hh := fun a => x a; clear hh; dsimp -zeta only [x]; clear x) | (clear_value x; revert x; intro _) | (dsimp -zeta only [x]; clear x))
    | with_reducible refine instStore_same ?_ (Same.sub hm rfl)
    | with_reducible refine updTask_same ?_ (Same.sub hm rfl)
    | split

theorem counterOp_same {M : Nat} {s0 : State} {a0 a1 a2 a3 a4} (h4 : Same M s0 a4) (hm : 632 ||| M = M) :
    OutSame M s0 (counterOp a0 a1 a2 a3 a4) := by
  unfold counterOp
  repeat' first
    | with_reducible assumption
    | (extract_lets +onlyGivenNames x; first | (refine Same.cut M s0 x ?_ ?_; (focus (dsimp -zeta only [x]; clear x)); rotate_left 1; clear_value x; revert x; intro _ _) | (have hh := fun a => x a; clear hh; dsimp -zeta only [x]; clear x) | (clear_value x; revert x; intro _) | (dsimp -zeta only [x]; clear x))
    | with_reducible refine OutSame.next ?_
    | with_reducible refine instr_same (fun x0 x1 x2 k2 => ?_) ?_ (Same.sub hm rfl)
    | with_reducible refine withElement_same (fun x0 k0 => ?_) ?_ (Same.sub hm rfl)
    | with_reducible refine taskStore_same ?_ (Same.sub hm rfl)
    | with_reducible refine setCtx_same ?_ (Same.sub hm rfl)
    | split

theorem edgeOp_same {M : Nat} {s0 : State} {a0 a1 a2 a3 a4 a5} (h5 : Same M s0 a5) (hm : 632 ||| M = M) :
    OutSame M s0 (edgeOp a0 a1 a2 a3 a4 a5) := by
  unfold edgeOp
  repeat' first
    | with_reducible assumption
    | (extract_lets +onlyGivenNames x; first | (refine Same.cut M s0 x ?_ ?_; (focus (dsimp -zeta only [x]; clear x)); rotate_left 1; clear_value x; revert x; intro _ _) | (have hh := fun a => x a; clear hh; dsimp -zeta only [x]; clear x) | (clear_value x; revert x; intro _) | (dsimp -zeta only [x]; clear x))
    | with_reducible refine OutSame.next ?_
    | with_reducible refine instr_same (fun x0 x1 x2 k2 => ?_) ?_ (Same.sub hm rfl)
    | with_reducible refine withElement_same (fun x0 k0 => ?_) ?_ (Same.sub hm rfl)
    | with_reducible refine taskStore_same ?_ (Same.sub hm rfl)
    | with_reducible refine setCtx_same ?_ (Same.sub hm rfl)
    | split

theorem nextRoutine_same {M : Nat} {s0 : State} {a0 a1 a2} (h2 : Same M s0 a2) (hm : 512 ||| M = M) :
    Same M s0 (nextRoutine a0 a1 a2) := by
  unfold nextRoutine
  repeat' first
    | with_reducible assumption
    | (extract_lets +onlyGivenNames x; first | (refine Same.cut M s0 x ?_ ?_; (focus (dsimp -zeta only [x]; clear x)); rotate_left 1; clear_value x; revert x; intro _ _) | (have hh := fun a => x a; clear hh; dsimp -zeta only [x]; clear x) | (clear_value x; revert x; intro _) | (dsimp -zeta only [x]; clear x))
    | with_reducible refine freeProc_same ?_ (Same.sub hm rfl)
    | with_reducible refine updTask_same ?_ (Same.sub hm rfl)
    | with_reducible refine setCtx_same ?_ (Same.sub hm rfl)
    | split

theorem putFlags_same {M : Nat} {s0 : State} {a0 a1 a2 a3 a4} (h4 : Same M s0 a4) (hm : 64 ||| M = M) :
    Same M s0 (putFlags a0 a1 a2 a3 a4) := by
  unfold putFlags
  repeat' first
    | with_reducible assumption
    | with_reducible refine instStore_same ?_ (Same.sub hm rfl)
    | split

theorem endRoutine_same {M : Nat} {s0 : State} {a0 a1 a2 a3} (h3 : Same M s0 a3) (hm : 576 ||| M = M) :
    Same M s0 (endRoutine a0 a1 a2 a3) := by
  unfold endRoutine
  repeat' first
    | with_reducible assumption
    | (extract_lets +onlyGivenNames x; first | (refine Same.cut M s0 x ?_ ?_; (focus (dsimp -zeta only [x]; clear x)); rotate_left 1; clear_value x; revert x; intro _ _) | (have hh := fun a => x a; clear hh; dsimp -zeta only [x]; clear x) | (clear_value x; revert x; intro _) | (dsimp -zeta only [x]; clear x))
    | with_reducible refine updTask_same ?_ (Same.sub hm rfl)
    | with_reducible refine nextRoutine_same ?_ (Same.sub hm rfl)
    | with_reducible refine putFlags_same ?_ (Same.sub hm rfl)

theorem execOpAbs_same {M : Nat} {s0 : State} {a0 a1 a2 a3} (h3 : Same M s0 a3) (hm : 532 ||| M = M) :
    OutSame M s0 (execOpAbs a0 a1 a2 a3) := by
  unfold execOpAbs
  repeat' first
    | with_reducible assumption
    | (extract_lets +onlyGivenNames x; first | (refine Same.cut M s0 x ?_ ?_; (focus (dsimp -zeta only [x]; clear x)); rotate_left 1; clear_value x; revert x; intro _ _) | (have hh := fun a => x a; clear hh; dsimp -zeta only [x]; clear x) | (clear_value x; revert x; intro _) | (dsimp -zeta only [x]; clear x))
    | with_reducible refine OutSame.next ?_
    | with_reducible refine aluF_same ?_ (Same.sub hm rfl)
    | split

theorem execOpAdd_same {M : Nat} {s0 : State} {a0 a1 a2 a3 a4} (h4 : Same M s0 a4) (hm : 512 ||| M = M) :
    OutSame M s0 (execOpAdd a0 a1 a2 a3 a4) := by
  unfold execOpAdd
  repeat' first
    | with_reducible assumption
    | with_reducible refine OutSame.next ?_
    | with_reducible refine alu2_same ?_ (Same.sub hm rfl)

theorem execOpAnd_same {M : Nat} {s0 : State} {a0 a1 a2 a3 a4} (h4 : Same M s0 a4) (hm : 512 ||| M = M) :
    OutSame M s0 (execOpAnd a0 a1 a2 a3 a4) := by
  unfold execOpAnd
  repeat' first
    | with_reducible assumption
    | with_reducible refine OutSame.next ?_
    | with_reducible refine alu2_same ?_ (Same.sub hm rfl)

theorem execOpAndb_same {M : Nat} {s0 : State} {a0 a1 a2 a3 a4} (h4 : Same M s0 a4) (hm : 512 ||| M = M) :
    OutSame M s0 (execOpAndb a0 a1 a2 a3 a4) := by
  unfold execOpAndb
  repeat' first
    | with_reducible assumption
    | with_reducible refine OutSame.next ?_
    | with_reducible refine bitOp_same ?_ (Same.sub hm rfl)
    | split

theorem execOpBf_same {M : Nat} {s0 : State} {a0 a1 a2 a3} (h3 : Same M s0 a3) (hm : 568 ||| M = M) :
    OutSame M s0 (execOpBf a0 a1 a2 a3) := by
  unfold execOpBf
  repeat' first
    | with_reducible assumption
    | with_reducible refine OutSame.next ?_
    | with_reducible refine branch_same ?_ (Same.sub hm rfl)

theorem execOpBt_same {M : Nat} {s0 : State} {a0 a1 a2 a3} (h3 : Same M s0 a3) (hm : 568 ||| M = M) :
    OutSame M s0 (execOpBt a0 a1 a2 a3) := by
  unfold execOpBt
  repeat' first
    | with_reducible assumption
    | with_reducible refine OutSame.next ?_
    | with_reducible refine branch_same ?_ (Same.sub hm rfl)

theorem notInRoutine_same {M : Nat} {s0 : State} {a0 a1 a2 a3} (h2 : ∀ x0, Same M s0 x0 → Same M s0 (a2 x0)) (h3 : Same M s0 a3) (hm : 568 ||| M = M) :
    Same M s0 (notInRoutine a0 a1 a2 a3) := by
  unfold notInRoutine
  repeat' first
    | with_reducible assumption
    | with_reducible refine h2 _ ?_
    | with_reducible refine illegalAt_same ?_ (Same.sub hm rfl)
    | split

theorem execOpCall_same {M : Nat} {s0 : State} {a0 a1 a2 a3} (h3 : Same M s0 a3) (hm : 568 ||| M = M) :
    OutSame M s0 (execOpCall a0 a1 a2 a3) := by
  unfold execOpCall
  repeat' first
    | with_reducible assumption
    | with_reducible refine OutSame.next ?_
    | with_reducible refine notInRoutine_same (fun x0 k0 => ?_) ?_ (Same.sub hm rfl)
    | with_reducible refine instr_same (fun x0 x1 x2 k2 => ?_) ?_ (Same.sub hm rfl)
    | with_reducible refine jumpTo_same ?_ (Same.sub hm rfl)
    | with_reducible refine illegalAt_same ?_ (Same.sub hm rfl)
    | split

theorem execOpClk_same {M : Nat} {s0 : State} {a0 a1 a2} (h2 : Same M s0 a2) (hm : 512 ||| M = M) :
    OutSame M s0 (execOpClk a0 a1 a2) := by
  unfold execOpClk
  repeat' first
    | with_reducible assumption
    | with_reducible refine OutSame.next ?_
    | with_reducible refine instr_same (fun x0 x1 x2 k2 => ?_) ?_ (Same.sub hm rfl)
    | with_reducible refine setCtx_same ?_ (Same.sub hm rfl)
    | split

theorem execOpCmp_same {M : Nat} {s0 : State} {a0 a1 a2 a3 a4 a5} (h5 : Same M s0 a5) (hm : 512 ||| M = M) :
    OutSame M s0 (execOpCmp a0 a1 a2 a3 a4 a5) := by
  unfold execOpCmp
  repeat' first
    | with_reducible assumption
    | with_reducible refine OutSame.next ?_
    | with_reducible refine bitOp_same ?_ (Same.sub hm rfl)
    | split

theorem execOpCtd_same {M : Nat} {s0 : State} {a0 a1 a2 a3 a4 a5} (h5 : Same M s0 a5) (hm : 632 ||| M = M) :
    OutSame M s0 (execOpCtd a0 a1 a2 a3 a4 a5) := by
  unfold execOpCtd
  repeat' first
    | with_reducible assumption
    | with_reducible refine OutSame.next ?_
    | with_reducible refine counterOp_same ?_ (Same.sub hm rfl)
    | split

theorem execOpCtu_same {M : Nat} {s0 : State} {a0 a1 a2 a3 a4 a5} (h5 : Same M s0 a5) (hm : 632 ||| M = M) :
    OutSame M s0 (execOpCtu a0 a1 a2 a3 a4 a5) := by
  unfold execOpCtu
  repeat' first
    | with_reducible assumption
    | with_reducible refine OutSame.next ?_
    | with_reducible refine counterOp_same ?_ (Same.sub hm rfl)
    | split

theorem execOpCtud_same {M : Nat} {s0 : State} {a0 a1 a2 a3 a4 a5 a6 a7 a8} (h8 : Same M s0 a8) (hm : 632 ||| M = M) :
    OutSame M s0 (execOpCtud a0 a1 a2 a3 a4 a5 a6 a7 a8) := by
  unfold execOpCtud
  repeat' first
    | with_reducible assumption
    | with_reducible refine OutSame.next ?_
    | with_reducible refine counterOp_same ?_ (Same.sub hm rfl)
    | split

theorem execOpCvt_same {M : Nat} {s0 : State} {a0 a1 a2 a3 a4} (h4 : Same M s0 a4) (hm : 532 ||| M = M) :
    OutSame M s0 (execOpCvt a0 a1 a2 a3 a4) := by
  unfold execOpCvt
  repeat' first
    | with_reducible assumption
    | with_reducible refine OutSame.next ?_
    | with_reducible refine aluF_same ?_ (Same.sub hm rfl)
    | split

theorem execOpDiv_same {M : Nat} {s0 : State} {a0 a1 a2 a3 a4} (h4 : Same M s0 a4) (hm : 532 ||| M = M) :
    OutSame M s0 (execOpDiv a0 a1 a2 a3 a4) := by
  unfold execOpDiv
  repeat' first
    | with_reducible assumption
    | with_reducible refine OutSame.next ?_
    | with_reducible refine aluF_same ?_ (Same.sub hm rfl)
    | split

theorem execOpErrack_same {M : Nat} {s0 : State} {a0 a1 a2} (h2 : Same M s0 a2) (hm : 568 ||| M = M) :
    OutSame M s0 (execOpErrack a0 a1 a2) := by
  unfold execOpErrack
  repeat' first
    | with_reducible assumption
    | with_reducible refine OutSame.next ?_
    | with_reducible refine notInRoutine_same (fun x0 k0 => ?_) ?_ (Same.sub hm rfl)
    | with_reducible refine instr_same (fun x0 x1 x2 k2 => ?_) ?_ (Same.sub hm rfl)
    | with_reducible refine updCyc_same ?_ (Same.sub hm rfl)
    | split

theorem execOpErrinfo_same {M : Nat} {s0 : State} {a0 a1 a2} (h2 : Same M s0 a2) (hm : 516 ||| M = M) :
    OutSame M s0 (execOpErrinfo a0 a1 a2) := by
  unfold execOpErrinfo
  repeat' first
    | with_reducible assumption
    | with_reducible refine OutSame.next ?_
    | with_reducible refine instr_same (fun x0 x1 x2 k2 => ?_) ?_ (Same.sub hm rfl)
    | with_reducible refine bumpFree_same ?_ (Same.sub hm rfl)
    | with_reducible refine setCtx_same ?_ (Same.sub hm rfl)
    | split

theorem real2_same {M : Nat} {s0 : State} {a0 a1 a2 a3 a4 a5 a6 a7} (h7 : Same M s0 a7) (hm : 532 ||| M = M) :
    OutSame M s0 (real2 a0 a1 a2 a3 a4 a5 a6 a7) := by
  unfold real2
  repeat' first
    | with_reducible assumption
    | with_reducible refine OutSame.next ?_
    | with_reducible refine aluF_same ?_ (Same.sub hm rfl)
    | split

theorem execOpFadd_same {M : Nat} {s0 : State} {a0 a1 a2 a3 a4 a5} (h5 : Same M s0 a5) (hm : 532 ||| M = M) :
    OutSame M s0 (execOpFadd a0 a1 a2 a3 a4 a5) := by
  unfold execOpFadd
  repeat' first
    | with_reducible assumption
    | with_reducible refine OutSame.next ?_
    | with_reducible refine real2_same ?_ (Same.sub hm rfl)

theorem execOpFcmp_same {M : Nat} {s0 : State} {a0 a1 a2 a3 a4 a5 a6} (h6 : Same M s0 a6) (hm : 512 ||| M = M) :
    OutSame M s0 (execOpFcmp a0 a1 a2 a3 a4 a5 a6) := by
  unfold execOpFcmp
  repeat' first
    | with_reducible assumption
    | with_reducible refine OutSame.next ?_
    | with_reducible refine bitOp_same ?_ (Same.sub hm rfl)
    | split

theorem execOpFdiv_same {M : Nat} {s0 : State} {a0 a1 a2 a3 a4 a5} (h5 : Same M s0 a5) (hm : 532 ||| M = M) :
    OutSame M s0 (execOpFdiv a0 a1 a2 a3 a4 a5) := by
  unfold execOpFdiv
  repeat' first
    | with_reducible assumption
    | with_reducible refine OutSame.next ?_
    | with_reducible refine real2_same ?_ (Same.sub hm rfl)

theorem execOpFirst_same {M : Nat} {s0 : State} {a0 a1 a2} (h2 : Same M s0 a2) (hm : 568 ||| M = M) :
    OutSame M s0 (execOpFirst a0 a1 a2) := by
  unfold execOpFirst
  repeat' first
    | with_reducible assumption
    | (extract_lets +onlyGivenNames x; first | (refine Same.cut M s0 x ?_ ?_; (focus (dsimp -zeta only [x]; clear x)); rotate_left 1; clear_value x; revert x; intro _ _) | (have hh := fun a => x a; clear hh; dsimp -zeta only [x]; clear x) | (clear_value x; revert x; intro _) | (dsimp -zeta only [x]; clear x))
    | with_reducible refine OutSame.next ?_
    | with_reducible refine instr_same (fun x0 x1 x2 k2 => ?_) ?_ (Same.sub hm rfl)
    | with_reducible refine memDenied_same ?_ (Same.sub hm rfl)
    | with_reducible refine setCtx_same ?_ (Same.sub hm rfl)
    | split

theorem execOpFlim_same {M : Nat} {s0 : State} {a0 a1 a2 a3 a4 a5 a6} (h6 : Same M s0 a6) (hm : 532 ||| M = M) :
    OutSame M s0 (execOpFlim a0 a1 a2 a3 a4 a5 a6) := by
  unfold execOpFlim
  repeat' first
    | with_reducible assumption
    | (extract_lets +onlyGivenNames x; first | (refine Same.cut M s0 x ?_ ?_; (focus (dsimp -zeta only [x]; clear x)); rotate_left 1; clear_value x; revert x; intro _ _) | (have hh := fun a => x a; clear hh; dsimp -zeta only [x]; clear x) | (clear_value x; revert x; intro _) | (dsimp -zeta only [x]; clear x))
    | with_reducible refine OutSame.next ?_
    | with_reducible refine aluF_same ?_ (Same.sub hm rfl)
    | split

theorem execOpFmax_same {M : Nat} {s0 : State} {a0 a1 a2 a3 a4 a5} (h5 : Same M s0 a5) (hm : 532 ||| M = M) :
    OutSame M s0 (execOpFmax a0 a1 a2 a3 a4 a5) := by
  unfold execOpFmax
  repeat' first
    | with_reducible assumption
    | with_reducible refine OutSame.next ?_
    | with_reducible refine real2_same ?_ (Same.sub hm rfl)

theorem execOpFmin_same {M : Nat} {s0 : State} {a0 a1 a2 a3 a4 a5} (h5 : Same M s0 a5) (hm : 532 ||| M = M) :
    OutSame M s0 (execOpFmin a0 a1 a2 a3 a4 a5) := by
  unfold execOpFmin
  repeat' first
    | with_reducible assumption
    | with_reducible refine OutSame.next ?_
    | with_reducible refine real2_same ?_ (Same.sub hm rfl)

theorem execOpFmul_same {M : Nat} {s0 : State} {a0 a1 a2 a3 a4 a5} (h5 : Same M s0 a5) (hm : 532 ||| M = M) :
    OutSame M s0 (execOpFmul a0 a1 a2 a3 a4 a5) := by
  unfold execOpFmul
  repeat' first
    | with_reducible assumption
    | with_reducible refine OutSame.next ?_
    | with_reducible refine real2_same ?_ (Same.sub hm rfl)

theorem execOpFsqrt_same {M : Nat} {s0 : State} {a0 a1 a2 a3 a4} (h4 : Same M s0 a4) (hm : 532 ||| M = M) :
    OutSame M s0 (execOpFsqrt a0 a1 a2 a3 a4) := by
  unfold execOpFsqrt
  repeat' first
    | with_reducible assumption
    | with_reducible refine OutSame.next ?_
    | with_reducible refine aluF_same ?_ (Same.sub hm rfl)
    | split

theorem execOpFsub_same {M : Nat} {s0 : State} {a0 a1 a2 a3 a4 a5} (h5 : Same M s0 a5) (hm : 532 ||| M = M) :
    OutSame M s0 (execOpFsub a0 a1 a2 a3 a4 a5) := by
  unfold execOpFsub
  repeat' first
    | with_reducible assumption
    | with_reducible refine OutSame.next ?_
    | with_reducible refine real2_same ?_ (Same.sub hm rfl)

theorem execOpFtrig_same {M : Nat} {s0 : State} {a0 a1 a2 a3 a4} (h4 : Same M s0 a4) (hm : 632 ||| M = M) :
    OutSame M s0 (execOpFtrig a0 a1 a2 a3 a4) := by
  unfold execOpFtrig
  repeat' first
    | with_reducible assumption
    | with_reducible refine OutSame.next ?_
    | with_reducible refine edgeOp_same ?_ (Same.sub hm rfl)

theorem execOpIn_same {M : Nat} {s0 : State} {a0 a1 a2 a3 a4} (h4 : Same M s0 a4) (hm : 572 ||| M = M) :
    OutSame M s0 (execOpIn a0 a1 a2 a3 a4) := by
  unfold execOpIn
  repeat' first
    | with_reducible assumption
    | (extract_lets +onlyGivenNames x; first | (refine Same.cut M s0 x ?_ ?_; (focus (dsimp -zeta only [x]; clear x)); rotate_left 1; clear_value x; revert x; intro _ _) | (have hh := fun a => x a; clear hh; dsimp -zeta only [x]; clear x) | (clear_value x; revert x; intro _) | (dsimp -zeta only [x]; clear x))
    | with_reducible refine OutSame.next ?_
    | with_reducible refine notInRoutine_same (fun x0 k0 => ?_) ?_ (Same.sub hm rfl)
    | with_reducible refine instr_same (fun x0 x1 x2 k2 => ?_) ?_ (Same.sub hm rfl)
    | with_reducible refine bumpFree_same ?_ (Same.sub hm rfl)
    | with_reducible refine setCtx_same ?_ (Same.sub hm rfl)
    | split

theorem execOpInq_same {M : Nat} {s0 : State} {a0 a1 a2 a3} (h3 : Same M s0 a3) (hm : 572 ||| M = M) :
    OutSame M s0 (execOpInq a0 a1 a2 a3) := by
  unfold execOpInq
  repeat' first
    | with_reducible assumption
    | with_reducible refine OutSame.next ?_
    | with_reducible refine notInRoutine_same (fun x0 k0 => ?_) ?_ (Same.sub hm rfl)
    | with_reducible refine instr_same (fun x0 x1 x2 k2 => ?_) ?_ (Same.sub hm rfl)
    | with_reducible refine bumpFree_same ?_ (Same.sub hm rfl)
    | with_reducible refine setCtx_same ?_ (Same.sub hm rfl)
    | split

theorem execOpIntConv_same {M : Nat} {s0 : State} {a0 a1 a2 a3 a4} (h4 : Same M s0 a4) (hm : 532 ||| M = M) :
    OutSame M s0 (execOpIntConv a0 a1 a2 a3 a4) := by
  unfold execOpIntConv
  repeat' first
    | with_reducible assumption
    | with_reducible refine OutSame.next ?_
    | with_reducible refine aluF_same ?_ (Same.sub hm rfl)
    | split

theorem execOpJmp_same {M : Nat} {s0 : State} {a0 a1 a2} (h2 : Same M s0 a2) (hm : 568 ||| M = M) :
    OutSame M s0 (execOpJmp a0 a1 a2) := by
  unfold execOpJmp
  repeat' first
    | with_reducible assumption
    | with_reducible refine OutSame.next ?_
    | with_reducible refine instr_same (fun x0 x1 x2 k2 => ?_) ?_ (Same.sub hm rfl)
    | with_reducible refine jumpTo_same ?_ (Same.sub hm rfl)

theorem loadOp_same {M : Nat} {s0 : State} {a0 a1 a2 a3 a4} (h4 : Same M s0 a4) (hm : 572 ||| M = M) :
    OutSame M s0 (loadOp a0 a1 a2 a3 a4) := by
  unfold loadOp
  repeat' first
    | with_reducible assumption
    | (extract_lets +onlyGivenNames x; first | (refine Same.cut M s0 x ?_ ?_; (focus (dsimp -zeta only [x]; clear x)); rotate_left 1; clear_value x; revert x; intro _ _) | (have hh := fun a => x a; clear hh; dsimp -zeta only [x]; clear x) | (clear_value x; revert x; intro _) | (dsimp -zeta only [x]; clear x))
    | with_reducible refine OutSame.next ?_
    | with_reducible refine instr_same (fun x0 x1 x2 k2 => ?_) ?_ (Same.sub hm rfl)
    | with_reducible refine bumpFree_same ?_ (Same.sub hm rfl)
    | with_reducible refine memDenied_same ?_ (Same.sub hm rfl)
    | with_reducible refine setCtx_same ?_ (Same.sub hm rfl)
    | split

theorem execOpLd16_same {M : Nat} {s0 : State} {a0 a1 a2 a3} (h3 : Same M s0 a3) (hm : 572 ||| M = M) :
    OutSame M s0 (execOpLd16 a0 a1 a2 a3) := by
  unfold execOpLd16
  repeat' first
    | with_reducible assumption
    | with_reducible refine OutSame.next ?_
    | with_reducible refine loadOp_same ?_ (Same.sub hm rfl)

theorem execOpLd32_same {M : Nat} {s0 : State} {a0 a1 a2 a3} (h3 : Same M s0 a3) (hm : 572 ||| M = M) :
    OutSame M s0 (execOpLd32 a0 a1 a2 a3) := by
  unfold execOpLd32
  repeat' first
    | with_reducible assumption
    | with_reducible refine OutSame.next ?_
    | with_reducible refine loadOp_same ?_ (Same.sub hm rfl)

theorem execOpLd64_same {M : Nat} {s0 : State} {a0 a1 a2 a3} (h3 : Same M s0 a3) (hm : 572 ||| M = M) :
    OutSame M s0 (execOpLd64 a0 a1 a2 a3) := by
  unfold execOpLd64
  repeat' first
    | with_reducible assumption
    | with_reducible refine OutSame.next ?_
    | with_reducible refine loadOp_same ?_ (Same.sub hm rfl)

theorem execOpLd8_same {M : Nat} {s0 : State} {a0 a1 a2 a3} (h3 : Same M s0 a3) (hm : 572 ||| M = M) :
    OutSame M s0 (execOpLd8 a0 a1 a2 a3) := by
  unfold execOpLd8
  repeat' first
    | with_reducible assumption
    | with_reducible refine OutSame.next ?_
    | with_reducible refine loadOp_same ?_ (Same.sub hm rfl)

theorem execOpLdb_same {M : Nat} {s0 : State} {a0 a1 a2 a3} (h3 : Same M s0 a3) (hm : 568 ||| M = M) :
    OutSame M s0 (execOpLdb a0 a1 a2 a3) := by
  unfold execOpLdb
  repeat' first
    | with_reducible assumption
    | (extract_lets +onlyGivenNames x; first | (refine Same.cut M s0 x ?_ ?_; (focus (dsimp -zeta only [x]; clear x)); rotate_left 1; clear_value x; revert x; intro _ _) | (have hh := fun a => x a; clear hh; dsimp -zeta only [x]; clear x) | (clear_value x; revert x; intro _) | (dsimp -zeta only [x]; clear x))
    | with_reducible refine OutSame.next ?_
    | with_reducible refine instr_same (fun x0 x1 x2 k2 => ?_) ?_ (Same.sub hm rfl)
    | with_reducible refine memDenied_same ?_ (Same.sub hm rfl)
    | with_reducible refine setCtx_same ?_ (Same.sub hm rfl)
    | split

theorem execOpLimit_same {M : Nat} {s0 : State} {a0 a1 a2 a3 a4 a5} (h5 : Same M s0 a5) (hm : 512 ||| M = M) :
    OutSame M s0 (execOpLimit a0 a1 a2 a3 a4 a5) := by
  unfold execOpLimit
  repeat' first
    | with_reducible assumption
    | with_reducible refine OutSame.next ?_
    | with_reducible refine alu_same ?_ (Same.sub hm rfl)
    | split

theorem execOpMax_same {M : Nat} {s0 : State} {a0 a1 a2 a3 a4} (h4 : Same M s0 a4) (hm : 512 ||| M = M) :
    OutSame M s0 (execOpMax a0 a1 a2 a3 a4) := by
  unfold execOpMax
  repeat' first
    | with_reducible assumption
    | with_reducible refine OutSame.next ?_
    | with_reducible refine alu2_same ?_ (Same.sub hm rfl)

theorem execOpMin_same {M : Nat} {s0 : State} {a0 a1 a2 a3 a4} (h4 : Same M s0 a4) (hm : 512 ||| M = M) :
    OutSame M s0 (execOpMin a0 a1 a2 a3 a4) := by
  unfold execOpMin
  repeat' first
    | with_reducible assumption
    | with_reducible refine OutSame.next ?_
    | with_reducible refine alu2_same ?_ (Same.sub hm rfl)

theorem execOpMod_same {M : Nat} {s0 : State} {a0 a1 a2 a3 a4} (h4 : Same M s0 a4) (hm : 532 ||| M = M) :
    OutSame M s0 (execOpMod a0 a1 a2 a3 a4) := by
  unfold execOpMod
  repeat' first
    | with_reducible assumption
    | with_reducible refine OutSame.next ?_
    | with_reducible refine aluF_same ?_ (Same.sub hm rfl)
    | split

theorem slotMsg_same {M : Nat} {s0 : State} {a0 a1 a2 a3 a4} (h4 : Same M s0 a4) (hm : 568 ||| M = M) :
    OutSame M s0 (slotMsg a0 a1 a2 a3 a4) := by
  unfold slotMsg
  repeat' first
    | with_reducible assumption
    | (extract_lets +onlyGivenNames x; first | (refine Same.cut M s0 x ?_ ?_; (focus (dsimp -zeta only [x]; clear x)); rotate_left 1; clear_value x; revert x; intro _ _) | (have hh := fun a => x a; clear hh; dsimp -zeta only [x]; clear x) | (clear_value x; revert x; intro _) | (dsimp -zeta only [x]; clear x))
    | with_reducible refine OutSame.next ?_
    | with_reducible refine deniedAt_same ?_ (Same.sub hm rfl)
    | with_reducible refine notInRoutine_same (fun x0 k0 => ?_) ?_ (Same.sub hm rfl)
    | with_reducible refine instr_same (fun x0 x1 x2 k2 => ?_) ?_ (Same.sub hm rfl)
    | with_reducible refine updCyc_same ?_ (Same.sub hm rfl)
    | split

theorem execOpMode_same {M : Nat} {s0 : State} {a0 a1 a2 a3} (h3 : Same M s0 a3) (hm : 568 ||| M = M) :
    OutSame M s0 (execOpMode a0 a1 a2 a3) := by
  unfold execOpMode
  repeat' first
    | with_reducible assumption
    | with_reducible refine OutSame.next ?_
    | with_reducible refine slotMsg_same ?_ (Same.sub hm rfl)

theorem execOpMul_same {M : Nat} {s0 : State} {a0 a1 a2 a3 a4} (h4 : Same M s0 a4) (hm : 512 ||| M = M) :
    OutSame M s0 (execOpMul a0 a1 a2 a3 a4) := by
  unfold execOpMul
  repeat' first
    | with_reducible assumption
    | with_reducible refine OutSame.next ?_
    | with_reducible refine alu2_same ?_ (Same.sub hm rfl)

theorem execOpNeg_same {M : Nat} {s0 : State} {a0 a1 a2 a3} (h3 : Same M s0 a3) (hm : 512 ||| M = M) :
    OutSame M s0 (execOpNeg a0 a1 a2 a3) := by
  unfold execOpNeg
  repeat' first
    | with_reducible assumption
    | with_reducible refine OutSame.next ?_
    | with_reducible refine alu_same ?_ (Same.sub hm rfl)
    | split

theorem execOpNot_same {M : Nat} {s0 : State} {a0 a1 a2 a3} (h3 : Same M s0 a3) (hm : 512 ||| M = M) :
    OutSame M s0 (execOpNot a0 a1 a2 a3) := by
  unfold execOpNot
  repeat' first
    | with_reducible assumption
    | with_reducible refine OutSame.next ?_
    | with_reducible refine alu_same ?_ (Same.sub hm rfl)
    | split

theorem execOpNotb_same {M : Nat} {s0 : State} {a0 a1 a2 a3} (h3 : Same M s0 a3) (hm : 512 ||| M = M) :
    OutSame M s0 (execOpNotb a0 a1 a2 a3) := by
  unfold execOpNotb
  repeat' first
    | with_reducible assumption
    | with_reducible refine OutSame.next ?_
    | with_reducible refine bitOp_same ?_ (Same.sub hm rfl)
    | split

theorem execOpOr_same {M : Nat} {s0 : State} {a0 a1 a2 a3 a4} (h4 : Same M s0 a4) (hm : 512 ||| M = M) :
    OutSame M s0 (execOpOr a0 a1 a2 a3 a4) := by
  unfold execOpOr
  repeat' first
    | with_reducible assumption
    | with_reducible refine OutSame.next ?_
    | with_reducible refine alu2_same ?_ (Same.sub hm rfl)

theorem execOpOrb_same {M : Nat} {s0 : State} {a0 a1 a2 a3 a4} (h4 : Same M s0 a4) (hm : 512 ||| M = M) :
    OutSame M s0 (execOpOrb a0 a1 a2 a3 a4) := by
  unfold execOpOrb
  repeat' first
    | with_reducible assumption
    | with_reducible refine OutSame.next ?_
    | with_reducible refine bitOp_same ?_ (Same.sub hm rfl)
    | split

theorem outSlot_same {M : Nat} {s0 : State} {a0 a1 a2 a3 a4} (h4 : Same M s0 a4) (hm : 512 ||| M = M) :
    Same M s0 (outSlot a0 a1 a2 a3 a4) := by
  unfold outSlot
  repeat' first
    | with_reducible assumption
    | with_reducible refine updCyc_same ?_ (Same.sub hm rfl)
    | split

theorem execOpOut_same {M : Nat} {s0 : State} {a0 a1 a2 a3} (h3 : Same M s0 a3) (hm : 568 ||| M = M) :
    OutSame M s0 (execOpOut a0 a1 a2 a3) := by
  unfold execOpOut
  repeat' first
    | with_reducible assumption
    | with_reducible refine OutSame.next ?_
    | with_reducible refine notInRoutine_same (fun x0 k0 => ?_) ?_ (Same.sub hm rfl)
    | with_reducible refine instr_same (fun x0 x1 x2 k2 => ?_) ?_ (Same.sub hm rfl)
    | with_reducible refine outSlot_same ?_ (Same.sub hm rfl)
    | split

theorem execOpOutq_same {M : Nat} {s0 : State} {a0 a1 a2 a3 a4} (h4 : Same M s0 a4) (hm : 568 ||| M = M) :
    OutSame M s0 (execOpOutq a0 a1 a2 a3 a4) := by
  unfold execOpOutq
  repeat' first
    | with_reducible assumption
    | with_reducible refine OutSame.next ?_
    | with_reducible refine notInRoutine_same (fun x0 k0 => ?_) ?_ (Same.sub hm rfl)
    | with_reducible refine instr_same (fun x0 x1 x2 k2 => ?_) ?_ (Same.sub hm rfl)
    | with_reducible refine outSlot_same ?_ (Same.sub hm rfl)
    | split

theorem execOpRaise_same {M : Nat} {s0 : State} {a0 a1 a2} (h2 : Same M s0 a2) (hm : 568 ||| M = M) :
    OutSame M s0 (execOpRaise a0 a1 a2) := by
  unfold execOpRaise
  repeat' first
    | with_reducible assumption
    | with_reducible refine OutSame.next ?_
    | with_reducible refine notInRoutine_same (fun x0 k0 => ?_) ?_ (Same.sub hm rfl)
    | with_reducible refine instr_same (fun x0 x1 x2 k2 => ?_) ?_ (Same.sub hm rfl)
    | with_reducible refine updCyc_same ?_ (Same.sub hm rfl)

theorem execOpRet_same {M : Nat} {s0 : State} {a0 a1} (h1 : Same M s0 a1) (hm : 576 ||| M = M) :
    OutSame M s0 (execOpRet a0 a1) := by
  unfold execOpRet
  repeat' first
    | with_reducible assumption
    | (extract_lets +onlyGivenNames x; first | (refine Same.cut M s0 x ?_ ?_; (focus (dsimp -zeta only [x]; clear x)); rotate_left 1; clear_value x; revert x; intro _ _) | (have hh := fun a => x a; clear hh; dsimp -zeta only [x]; clear x) | (clear_value x; revert x; intro _) | (dsimp -zeta only [x]; clear x))
    | with_reducible refine OutSame.next ?_
    | with_reducible refine instr_same (fun x0 x1 x2 k2 => ?_) ?_ (Same.sub hm rfl)
    | with_reducible refine updCyc_same ?_ (Same.sub hm rfl)
    | with_reducible refine endRoutine_same ?_ (Same.sub hm rfl)
    | with_reducible refine setCtx_same ?_ (Same.sub hm rfl)
    | with_reducible refine putFlags_same ?_ (Same.sub hm rfl)
    | split

theorem execOpRol_same {M : Nat} {s0 : State} {a0 a1 a2 a3 a4} (h4 : Same M s0 a4) (hm : 512 ||| M = M) :
    OutSame M s0 (execOpRol a0 a1 a2 a3 a4) := by
  unfold execOpRol
  repeat' first
    | with_reducible assumption
    | with_reducible refine OutSame.next ?_
    | with_reducible refine alu2_same ?_ (Same.sub hm rfl)

theorem execOpRor_same {M : Nat} {s0 : State} {a0 a1 a2 a3 a4} (h4 : Same M s0 a4) (hm : 512 ||| M = M) :
    OutSame M s0 (execOpRor a0 a1 a2 a3 a4) := by
  unfold execOpRor
  repeat' first
    | with_reducible assumption
    | with_reducible refine OutSame.next ?_
    | with_reducible refine alu2_same ?_ (Same.sub hm rfl)

theorem execOpRstb_same {M : Nat} {s0 : State} {a0 a1 a2} (h2 : Same M s0 a2) (hm : 512 ||| M = M) :
    OutSame M s0 (execOpRstb a0 a1 a2) := by
  unfold execOpRstb
  repeat' first
    | with_reducible assumption
    | with_reducible refine OutSame.next ?_
    | with_reducible refine bitOp_same ?_ (Same.sub hm rfl)

theorem execOpRtrig_same {M : Nat} {s0 : State} {a0 a1 a2 a3 a4} (h4 : Same M s0 a4) (hm : 632 ||| M = M) :
    OutSame M s0 (execOpRtrig a0 a1 a2 a3 a4) := by
  unfold execOpRtrig
  repeat' first
    | with_reducible assumption
    | with_reducible refine OutSame.next ?_
    | with_reducible refine edgeOp_same ?_ (Same.sub hm rfl)

theorem execOpSel_same {M : Nat} {s0 : State} {a0 a1 a2 a3 a4 a5} (h5 : Same M s0 a5) (hm : 512 ||| M = M) :
    OutSame M s0 (execOpSel a0 a1 a2 a3 a4 a5) := by
  unfold execOpSel
  repeat' first
    | with_reducible assumption
    | with_reducible refine OutSame.next ?_
    | with_reducible refine alu_same ?_ (Same.sub hm rfl)
    | split

theorem execOpSetb_same {M : Nat} {s0 : State} {a0 a1 a2} (h2 : Same M s0 a2) (hm : 512 ||| M = M) :
    OutSame M s0 (execOpSetb a0 a1 a2) := by
  unfold execOpSetb
  repeat' first
    | with_reducible assumption
    | with_reducible refine OutSame.next ?_
    | with_reducible refine bitOp_same ?_ (Same.sub hm rfl)

theorem execOpSetp_same {M : Nat} {s0 : State} {a0 a1 a2 a3} (h3 : Same M s0 a3) (hm : 568 ||| M = M) :
    OutSame M s0 (execOpSetp a0 a1 a2 a3) := by
  unfold execOpSetp
  repeat' first
    | with_reducible assumption
    | with_reducible refine OutSame.next ?_
    | with_reducible refine slotMsg_same ?_ (Same.sub hm rfl)

theorem execOpShl_same {M : Nat} {s0 : State} {a0 a1 a2 a3 a4} (h4 : Same M s0 a4) (hm : 532 ||| M = M) :
    OutSame M s0 (execOpShl a0 a1 a2 a3 a4) := by
  unfold execOpShl
  repeat' first
    | with_reducible assumption
    | with_reducible refine OutSame.next ?_
    | with_reducible refine aluF_same ?_ (Same.sub hm rfl)
    | split

theorem execOpShr_same {M : Nat} {s0 : State} {a0 a1 a2 a3 a4} (h4 : Same M s0 a4) (hm : 532 ||| M = M) :
    OutSame M s0 (execOpShr a0 a1 a2 a3 a4) := by
  unfold execOpShr
  repeat' first
    | with_reducible assumption
    | with_reducible refine OutSame.next ?_
    | with_reducible refine aluF_same ?_ (Same.sub hm rfl)
    | split

theorem storeOp_same {M : Nat} {s0 : State} {a0 a1 a2 a3 a4} (h4 : Same M s0 a4) (hm : 632 ||| M = M) :
    OutSame M s0 (storeOp a0 a1 a2 a3 a4) := by
  unfold storeOp
  repeat' first
    | with_reducible assumption
    | (extract_lets +onlyGivenNames x; first | (refine Same.cut M s0 x ?_ ?_; (focus (dsimp -zeta only [x]; clear x)); rotate_left 1; clear_value x; revert x; intro _ _) | (have hh := fun a => x a; clear hh; dsimp -zeta only [x]; clear x) | (clear_value x; revert x; intro _) | (dsimp -zeta only [x]; clear x))
    | with_reducible refine OutSame.next ?_
    | with_reducible refine instr_same (fun x0 x1 x2 k2 => ?_) ?_ (Same.sub hm rfl)
    | with_reducible refine memDenied_same ?_ (Same.sub hm rfl)
    | with_reducible refine taskStore_same ?_ (Same.sub hm rfl)
    | split

theorem execOpSt16_same {M : Nat} {s0 : State} {a0 a1 a2 a3} (h3 : Same M s0 a3) (hm : 632 ||| M = M) :
    OutSame M s0 (execOpSt16 a0 a1 a2 a3) := by
  unfold execOpSt16
  repeat' first
    | with_reducible assumption
    | with_reducible refine OutSame.next ?_
    | with_reducible refine storeOp_same ?_ (Same.sub hm rfl)

theorem execOpSt32_same {M : Nat} {s0 : State} {a0 a1 a2 a3} (h3 : Same M s0 a3) (hm : 632 ||| M = M) :
    OutSame M s0 (execOpSt32 a0 a1 a2 a3) := by
  unfold execOpSt32
  repeat' first
    | with_reducible assumption
    | with_reducible refine OutSame.next ?_
    | with_reducible refine storeOp_same ?_ (Same.sub hm rfl)

theorem execOpSt64_same {M : Nat} {s0 : State} {a0 a1 a2 a3} (h3 : Same M s0 a3) (hm : 632 ||| M = M) :
    OutSame M s0 (execOpSt64 a0 a1 a2 a3) := by
  unfold execOpSt64
  repeat' first
    | with_reducible assumption
    | with_reducible refine OutSame.next ?_
    | with_reducible refine storeOp_same ?_ (Same.sub hm rfl)

theorem execOpSt8_same {M : Nat} {s0 : State} {a0 a1 a2 a3} (h3 : Same M s0 a3) (hm : 632 ||| M = M) :
    OutSame M s0 (execOpSt8 a0 a1 a2 a3) := by
  unfold execOpSt8
  repeat' first
    | with_reducible assumption
    | with_reducible refine OutSame.next ?_
    | with_reducible refine storeOp_same ?_ (Same.sub hm rfl)

theorem execOpStb_same {M : Nat} {s0 : State} {a0 a1 a2 a3} (h3 : Same M s0 a3) (hm : 632 ||| M = M) :
    OutSame M s0 (execOpStb a0 a1 a2 a3) := by
  unfold execOpStb
  repeat' first
    | with_reducible assumption
    | (extract_lets +onlyGivenNames x; first | (refine Same.cut M s0 x ?_ ?_; (focus (dsimp -zeta only [x]; clear x)); rotate_left 1; clear_value x; revert x; intro _ _) | (have hh := fun a => x a; clear hh; dsimp -zeta only [x]; clear x) | (clear_value x; revert x; intro _) | (dsimp -zeta only [x]; clear x))
    | with_reducible refine OutSame.next ?_
    | with_reducible refine instr_same (fun x0 x1 x2 k2 => ?_) ?_ (Same.sub hm rfl)
    | with_reducible refine memDenied_same ?_ (Same.sub hm rfl)
    | with_reducible refine taskStore_same ?_ (Same.sub hm rfl)
    | with_reducible refine setCtx_same ?_ (Same.sub hm rfl)
    | split

theorem execOpSub_same {M : Nat} {s0 : State} {a0 a1 a2 a3 a4} (h4 : Same M s0 a4) (hm : 512 ||| M = M) :
    OutSame M s0 (execOpSub a0 a1 a2 a3 a4) := by
  unfold execOpSub
  repeat' first
    | with_reducible assumption
    | with_reducible refine OutSame.next ?_
    | with_reducible refine alu2_same ?_ (Same.sub hm rfl)

theorem timerOp_same {M : Nat} {s0 : State} {a0 a1 a2 a3 a4 a5} (h5 : Same M s0 a5) (hm : 632 ||| M = M) :
    OutSame M s0 (timerOp a0 a1 a2 a3 a4 a5) := by
  unfold timerOp
  repeat' first
    | with_reducible assumption
    | (extract_lets +onlyGivenNames x; first | (refine Same.cut M s0 x ?_ ?_; (focus (dsimp -zeta only [x]; clear x)); rotate_left 1; clear_value x; revert x; intro _ _) | (have hh := fun a => x a; clear hh; dsimp -zeta only [x]; clear x) | (clear_value x; revert x; intro _) | (dsimp -zeta only [x]; clear x))
    | with_reducible refine OutSame.next ?_
    | with_reducible refine instr_same (fun x0 x1 x2 k2 => ?_) ?_ (Same.sub hm rfl)
    | with_reducible refine withElement_same (fun x0 k0 => ?_) ?_ (Same.sub hm rfl)
    | with_reducible refine taskStore_same ?_ (Same.sub hm rfl)
    | with_reducible refine setCtx_same ?_ (Same.sub hm rfl)
    | split

theorem execOpTof_same {M : Nat} {s0 : State} {a0 a1 a2 a3 a4} (h4 : Same M s0 a4) (hm : 632 ||| M = M) :
    OutSame M s0 (execOpTof a0 a1 a2 a3 a4) := by
  unfold execOpTof
  repeat' first
    | with_reducible assumption
    | with_reducible refine OutSame.next ?_
    | with_reducible refine timerOp_same ?_ (Same.sub hm rfl)

theorem execOpTon_same {M : Nat} {s0 : State} {a0 a1 a2 a3 a4} (h4 : Same M s0 a4) (hm : 632 ||| M = M) :
    OutSame M s0 (execOpTon a0 a1 a2 a3 a4) := by
  unfold execOpTon
  repeat' first
    | with_reducible assumption
    | with_reducible refine OutSame.next ?_
    | with_reducible refine timerOp_same ?_ (Same.sub hm rfl)

theorem execOpTp_same {M : Nat} {s0 : State} {a0 a1 a2 a3 a4} (h4 : Same M s0 a4) (hm : 632 ||| M = M) :
    OutSame M s0 (execOpTp a0 a1 a2 a3 a4) := by
  unfold execOpTp
  repeat' first
    | with_reducible assumption
    | with_reducible refine OutSame.next ?_
    | with_reducible refine timerOp_same ?_ (Same.sub hm rfl)

theorem execOpXor_same {M : Nat} {s0 : State} {a0 a1 a2 a3 a4} (h4 : Same M s0 a4) (hm : 512 ||| M = M) :
    OutSame M s0 (execOpXor a0 a1 a2 a3 a4) := by
  unfold execOpXor
  repeat' first
    | with_reducible assumption
    | with_reducible refine OutSame.next ?_
    | with_reducible refine alu2_same ?_ (Same.sub hm rfl)

theorem execOpXorb_same {M : Nat} {s0 : State} {a0 a1 a2 a3 a4} (h4 : Same M s0 a4) (hm : 512 ||| M = M) :
    OutSame M s0 (execOpXorb a0 a1 a2 a3 a4) := by
  unfold execOpXorb
  repeat' first
    | with_reducible assumption
    | with_reducible refine OutSame.next ?_
    | with_reducible refine bitOp_same ?_ (Same.sub hm rfl)
    | split

end Sys2Proof.Machine
end

