-- ==== Sys2Proof/Laws/FrameProgram.lean ====
section
/-!
SUPPORT. FrameProgram.lean: for each operation of Machine/Program.lean, the components of State it can change: the result agrees with the
state it starts from on every component whose bit in the mask is 0 (the bits as in `Same`).
-/
namespace Sys2Proof.Machine
set_option linter.all false

theorem enterStop_same {M : Nat} {s0 : State} {a0 a1} (h1 : Same M s0 a1) (hm : 33280 ||| M = M) :
    Same M s0 (enterStop a0 a1) := by
  unfold enterStop
  repeat' first
    | with_reducible assumption
    | (extract_lets +onlyGivenNames x; first | (refine Same.cut M s0 x ?_ ?_; (focus (dsimp -zeta only [x]; clear x)); rotate_left 1; clear_value x; revert x; intro _ _) | (have hh := fun a => x a; clear hh; dsimp -zeta only [x]; clear x) | (clear_value x; revert x; intro _) | (dsimp -zeta only [x]; clear x))
    | with_reducible refine updTask_same ?_ (Same.sub hm rfl)
    | with_reducible refine updPCask_same ?_ (Same.sub hm rfl)
    | with_reducible refine Same.foldl (fun _ _ _ => ?_) ?_
    | split
    | with_reducible refine Same.up_stn ?_ (Same.sub hm rfl)

theorem progAbortOp_same {M : Nat} {s0 : State} {a0} (h0 : Same M s0 a0) (hm : 33336 ||| M = M) :
    Same M s0 (progAbortOp a0) := by
  unfold progAbortOp
  repeat' first
    | with_reducible assumption
    | (extract_lets +onlyGivenNames x; first | (refine Same.cut M s0 x ?_ ?_; (focus (dsimp -zeta only [x]; clear x)); rotate_left 1; clear_value x; revert x; intro _ _) | (have hh := fun a => x a; clear hh; dsimp -zeta only [x]; clear x) | (clear_value x; revert x; intro _) | (dsimp -zeta only [x]; clear x))
    | with_reducible refine failExchange_same ?_ (Same.sub hm rfl)
    | with_reducible refine freeProc_same ?_ (Same.sub hm rfl)
    | with_reducible refine record_same ?_ (Same.sub hm rfl)
    | with_reducible refine enterStop_same ?_ (Same.sub hm rfl)
    | with_reducible refine Same.foldl (fun _ _ _ => ?_) ?_
    | split
    | with_reducible refine Same.up_pge ?_ (Same.sub hm rfl)

theorem execProgramEngineAbort_same {M : Nat} {s0 : State} {a0 a1} (h1 : Same M s0 a1) (hm : 1081912 ||| M = M) :
    OutSame M s0 (execProgramEngineAbort a0 a1) := by
  unfold execProgramEngineAbort
  repeat' first
    | with_reducible assumption
    | with_reducible refine OutSame.next ?_
    | with_reducible refine progAbortOp_same ?_ (Same.sub hm rfl)
    | with_reducible refine abortCmd_same (fun x0 k0 => ?_) ?_ (Same.sub hm rfl)

theorem instPut_same {M : Nat} {s0 : State} {a0 a1 a2 a3} (h3 : Same M s0 a3) (hm : 64 ||| M = M) :
    Same M s0 (instPut a0 a1 a2 a3) := by
  unfold instPut
  repeat' first
    | with_reducible assumption
    | (extract_lets +onlyGivenNames x; first | (refine Same.cut M s0 x ?_ ?_; (focus (dsimp -zeta only [x]; clear x)); rotate_left 1; clear_value x; revert x; intro _ _) | (have hh := fun a => x a; clear hh; dsimp -zeta only [x]; clear x) | (clear_value x; revert x; intro _) | (dsimp -zeta only [x]; clear x))
    | split
    | with_reducible refine Same.up_mem ?_ (Same.sub hm rfl)

theorem finishCycle_same {M : Nat} {s0 : State} {a0 a1} (h1 : Same M s0 a1) (hm : 33336 ||| M = M) :
    Same M s0 (finishCycle a0 a1) := by
  unfold finishCycle
  repeat' first
    | with_reducible assumption
    | with_reducible refine endCycle_same ?_ (Same.sub hm rfl)
    | with_reducible refine provingCycle_same ?_ (Same.sub hm rfl)
    | split

theorem afterOutput_same {M : Nat} {s0 : State} {a0 a1} (h1 : Same M s0 a1) (hm : 33336 ||| M = M) :
    Same M s0 (afterOutput a0 a1) := by
  unfold afterOutput
  repeat' first
    | with_reducible assumption
    | (extract_lets +onlyGivenNames x; first | (refine Same.cut M s0 x ?_ ?_; (focus (dsimp -zeta only [x]; clear x)); rotate_left 1; clear_value x; revert x; intro _ _) | (have hh := fun a => x a; clear hh; dsimp -zeta only [x]; clear x) | (clear_value x; revert x; intro _) | (dsimp -zeta only [x]; clear x))
    | with_reducible refine finishCycle_same ?_ (Same.sub hm rfl)
    | with_reducible refine updCyc_same ?_ (Same.sub hm rfl)
    | with_reducible refine present_same ?_ (Same.sub hm rfl)
    | with_reducible refine raiseFor_same ?_ (Same.sub hm rfl)
    | split

theorem initInst_same {M : Nat} {s0 : State} {a0 a1 a2 a3 a4} (h4 : Same M s0 a4) (hm : 64 ||| M = M) :
    Same M s0 (initInst a0 a1 a2 a3 a4) := by
  unfold initInst
  repeat' first
    | with_reducible assumption
    | with_reducible refine instPut_same ?_ (Same.sub hm rfl)
    | split

theorem noteLines_same {M : Nat} {s0 : State} {a0 a1 a2} (h2 : Same M s0 a2) (hm : 512 ||| M = M) :
    Same M s0 (noteLines a0 a1 a2) := by
  unfold noteLines
  repeat' first
    | with_reducible assumption
    | with_reducible refine updTask_same ?_ (Same.sub hm rfl)
    | with_reducible refine Same.foldl (fun _ _ _ => ?_) ?_

theorem initRet_same {M : Nat} {s0 : State} {a0 a1 a2} (h2 : Same M s0 a2) (hm : 64 ||| M = M) :
    Same M s0 (initRet a0 a1 a2) := by
  unfold initRet
  repeat' first
    | with_reducible assumption
    | with_reducible refine instPut_same ?_ (Same.sub hm rfl)
    | split

theorem warmRet_same {M : Nat} {s0 : State} {a0 a1 a2} (h2 : Same M s0 a2) (hm : 592 ||| M = M) :
    Same M s0 (warmRet a0 a1 a2) := by
  unfold warmRet
  repeat' first
    | with_reducible assumption
    | (extract_lets +onlyGivenNames x; first | (refine Same.cut M s0 x ?_ ?_; (focus (dsimp -zeta only [x]; clear x)); rotate_left 1; clear_value x; revert x; intro _ _) | (have hh := fun a => x a; clear hh; dsimp -zeta only [x]; clear x) | (clear_value x; revert x; intro _) | (dsimp -zeta only [x]; clear x))
    | with_reducible refine instPut_same ?_ (Same.sub hm rfl)
    | with_reducible refine noteLines_same ?_ (Same.sub hm rfl)
    | with_reducible refine record_same ?_ (Same.sub hm rfl)
    | with_reducible refine initRet_same ?_ (Same.sub hm rfl)
    | split

theorem startInsts_same {M : Nat} {s0 : State} {a0 a1 a2} (h2 : Same M s0 a2) (hm : 592 ||| M = M) :
    Same M s0 (startInsts a0 a1 a2) := by
  unfold startInsts
  repeat' first
    | with_reducible assumption
    | (extract_lets +onlyGivenNames x; first | (refine Same.cut M s0 x ?_ ?_; (focus (dsimp -zeta only [x]; clear x)); rotate_left 1; clear_value x; revert x; intro _ _) | (have hh := fun a => x a; clear hh; dsimp -zeta only [x]; clear x) | (clear_value x; revert x; intro _) | (dsimp -zeta only [x]; clear x))
    | with_reducible refine initInst_same ?_ (Same.sub hm rfl)
    | with_reducible refine noteLines_same ?_ (Same.sub hm rfl)
    | with_reducible refine warmRet_same ?_ (Same.sub hm rfl)
    | with_reducible refine initRet_same ?_ (Same.sub hm rfl)
    | with_reducible refine Same.foldl (fun _ _ _ => ?_) ?_
    | split

theorem seeTrigger_same {M : Nat} {s0 : State} {a0 a1} (h1 : Same M s0 a1) (hm : 512 ||| M = M) :
    Same M s0 (seeTrigger a0 a1).2 := by
  unfold seeTrigger
  repeat' first
    | with_reducible assumption
    | (extract_lets +onlyGivenNames x; first | (refine Same.cut M s0 x ?_ ?_; (focus (dsimp -zeta only [x]; clear x)); rotate_left 1; clear_value x; revert x; intro _ _) | (have hh := fun a => x a; clear hh; dsimp -zeta only [x]; clear x) | (clear_value x; revert x; intro _) | (dsimp -zeta only [x]; clear x))
    | with_reducible refine updTask_same ?_ (Same.sub hm rfl)
    | with_reducible refine Same.foldl2 (fun _ _ _ => ?_) ?_
    | split
    | dsimp -zeta only

theorem passTrigger_same {M : Nat} {s0 : State} {a0 a1} (h1 : Same M s0 a1) (hm : 512 ||| M = M) :
    Same M s0 (passTrigger a0 a1) := by
  unfold passTrigger
  repeat' first
    | with_reducible assumption
    | with_reducible refine seeTrigger_same ?_ (Same.sub hm rfl)
    | with_reducible refine Same.snd ‹_› (seeTrigger_same ?_ (Same.sub hm rfl))
    | with_reducible refine Same.snd ‹_› ?_
    | with_reducible refine Same.fst ‹_› ?_
    | with_reducible refine Same.foldl1 (fun _ _ _ => ?_) ?_
    | with_reducible refine Same.foldl2 (fun _ _ _ => ?_) ?_

theorem startTask_same {M : Nat} {s0 : State} {a0 a1} (h1 : Same M s0 a1) (hm : 512 ||| M = M) :
    Same M s0 (startTask a0 a1) := by
  unfold startTask
  repeat' first
    | with_reducible assumption
    | with_reducible refine passTrigger_same ?_ (Same.sub hm rfl)
    | with_reducible refine updTask_same ?_ (Same.sub hm rfl)

theorem startCask_same {M : Nat} {s0 : State} {a0 a1 a2} (h2 : Same M s0 a2) (hm : 592 ||| M = M) :
    Same M s0 (startCask a0 a1 a2) := by
  unfold startCask
  repeat' first
    | with_reducible assumption
    | (extract_lets +onlyGivenNames x; first | (refine Same.cut M s0 x ?_ ?_; (focus (dsimp -zeta only [x]; clear x)); rotate_left 1; clear_value x; revert x; intro _ _) | (have hh := fun a => x a; clear hh; dsimp -zeta only [x]; clear x) | (clear_value x; revert x; intro _) | (dsimp -zeta only [x]; clear x))
    | with_reducible refine startInsts_same ?_ (Same.sub hm rfl)
    | with_reducible refine instPut_same ?_ (Same.sub hm rfl)
    | with_reducible refine updPCask_same ?_ (Same.sub hm rfl)
    | with_reducible refine raise_same ?_ (Same.sub hm rfl)
    | with_reducible refine startTask_same ?_ (Same.sub hm rfl)
    | with_reducible refine Same.foldl (fun _ _ _ => ?_) ?_
    | split

theorem autoStartOp_same {M : Nat} {s0 : State} {a0 a1} (h1 : Same M s0 a1) (hm : 592 ||| M = M) :
    Same M s0 (autoStartOp a0 a1) := by
  unfold autoStartOp
  repeat' first
    | with_reducible assumption
    | (extract_lets +onlyGivenNames x; first | (refine Same.cut M s0 x ?_ ?_; (focus (dsimp -zeta only [x]; clear x)); rotate_left 1; clear_value x; revert x; intro _ _) | (have hh := fun a => x a; clear hh; dsimp -zeta only [x]; clear x) | (clear_value x; revert x; intro _) | (dsimp -zeta only [x]; clear x))
    | with_reducible refine updPCask_same ?_ (Same.sub hm rfl)
    | with_reducible refine startCask_same ?_ (Same.sub hm rfl)
    | split

theorem coldEvents_same {M : Nat} {s0 : State} {a0 a1 a2 a3} (h3 : Same M s0 a3) (hm : 16 ||| M = M) :
    Same M s0 (coldEvents a0 a1 a2 a3) := by
  unfold coldEvents
  repeat' first
    | with_reducible assumption
    | with_reducible refine record_same ?_ (Same.sub hm rfl)
    | with_reducible refine Same.foldl (fun _ _ _ => ?_) ?_
    | split

theorem commitSlot_same {M : Nat} {s0 : State} {a0 a1 a2 a3 a4} (h4 : Same M s0 a4) (hm : 1147184 ||| M = M) :
    Same M s0 (commitSlot a0 a1 a2 a3 a4).1 := by
  unfold commitSlot
  repeat' first
    | with_reducible assumption
    | (extract_lets +onlyGivenNames x; first | (refine Same.cut M s0 x ?_ ?_; (focus (dsimp -zeta only [x]; clear x)); rotate_left 1; clear_value x; revert x; intro _ _) | (have hh := fun a => x a; clear hh; dsimp -zeta only [x]; clear x) | (clear_value x; revert x; intro _) | (dsimp -zeta only [x]; clear x))
    | with_reducible refine writeQ_same ?_ (Same.sub hm rfl)
    | with_reducible refine Same.foldl1 (fun _ _ _ => ?_) ?_
    | split
    | dsimp -zeta only

theorem commitImage_same {M : Nat} {s0 : State} {a0 a1 a2} (h2 : Same M s0 a2) (hm : 1147696 ||| M = M) :
    Same M s0 (commitImage a0 a1 a2) := by
  unfold commitImage
  repeat' first
    | with_reducible assumption
    | with_reducible refine raiseFor_same ?_ (Same.sub hm rfl)
    | with_reducible refine commitSlot_same ?_ (Same.sub hm rfl)
    | with_reducible refine Same.fst ‹_› (commitSlot_same ?_ (Same.sub hm rfl))
    | with_reducible refine Same.snd ‹_› ?_
    | with_reducible refine Same.fst ‹_› ?_
    | with_reducible refine Same.foldl1 (fun _ _ _ => ?_) ?_
    | with_reducible refine Same.foldl2 (fun _ _ _ => ?_) ?_
    | with_reducible refine Same.foldl (fun _ _ _ => ?_) ?_
    | with_reducible refine Same.foldl2 (fun _ _ _ => ?_) ?_
    | split

theorem enterHold_same {M : Nat} {s0 : State} {a0 a1} (h1 : Same M s0 a1) (hm : 512 ||| M = M) :
    Same M s0 (enterHold a0 a1) := by
  unfold enterHold
  repeat' first
    | with_reducible assumption
    | (extract_lets +onlyGivenNames x; first | (refine Same.cut M s0 x ?_ ?_; (focus (dsimp -zeta only [x]; clear x)); rotate_left 1; clear_value x; revert x; intro _ _) | (have hh := fun a => x a; clear hh; dsimp -zeta only [x]; clear x) | (clear_value x; revert x; intro _) | (dsimp -zeta only [x]; clear x))
    | with_reducible refine updTask_same ?_ (Same.sub hm rfl)
    | with_reducible refine updPCask_same ?_ (Same.sub hm rfl)
    | with_reducible refine Same.foldl (fun _ _ _ => ?_) ?_

theorem execCaskAutoStart_same {M : Nat} {s0 : State} {a0 a1} (h1 : Same M s0 a1) (hm : 592 ||| M = M) :
    OutSame M s0 (execCaskAutoStart a0 a1) := by
  unfold execCaskAutoStart
  repeat' first
    | with_reducible assumption
    | with_reducible refine OutSame.next ?_
    | with_reducible refine autoStartOp_same ?_ (Same.sub hm rfl)
    | split

theorem execCaskDrained_same {M : Nat} {s0 : State} {a0 a1} (h1 : Same M s0 a1) (hm : 33280 ||| M = M) :
    OutSame M s0 (execCaskDrained a0 a1) := by
  unfold execCaskDrained
  repeat' first
    | with_reducible assumption
    | with_reducible refine OutSame.next ?_
    | with_reducible refine enterHold_same ?_ (Same.sub hm rfl)
    | with_reducible refine enterStop_same ?_ (Same.sub hm rfl)
    | split

theorem execErrorTaskRelease_same {M : Nat} {s0 : State} {a0 a1} (h1 : Same M s0 a1) (hm : 568 ||| M = M) :
    OutSame M s0 (execErrorTaskRelease a0 a1) := by
  unfold execErrorTaskRelease
  repeat' first
    | with_reducible assumption
    | (extract_lets +onlyGivenNames x; first | (refine Same.cut M s0 x ?_ ?_; (focus (dsimp -zeta only [x]; clear x)); rotate_left 1; clear_value x; revert x; intro _ _) | (have hh := fun a => x a; clear hh; dsimp -zeta only [x]; clear x) | (clear_value x; revert x; intro _) | (dsimp -zeta only [x]; clear x))
    | with_reducible refine OutSame.next ?_
    | with_reducible refine releaseTask_same ?_ (Same.sub hm rfl)
    | split

theorem execEventTaskTrigger_same {M : Nat} {s0 : State} {a0 a1 a2} (h2 : Same M s0 a2) (hm : 568 ||| M = M) :
    OutSame M s0 (execEventTaskTrigger a0 a1 a2) := by
  unfold execEventTaskTrigger
  repeat' first
    | with_reducible assumption
    | (extract_lets +onlyGivenNames x; first | (refine Same.cut M s0 x ?_ ?_; (focus (dsimp -zeta only [x]; clear x)); rotate_left 1; clear_value x; revert x; intro _ _) | (refine Same.cut M s0 x.2 ?_ ?_; (focus (dsimp -zeta only [x]; clear x)); rotate_left 1; clear_value x; revert x; intro _ _) | (have hh := fun a => x a; clear hh; dsimp -zeta only [x]; clear x) | (clear_value x; revert x; intro _) | (dsimp -zeta only [x]; clear x))
    | with_reducible refine OutSame.next ?_
    | with_reducible refine triggerTask_same ?_ (Same.sub hm rfl)
    | with_reducible refine seeTrigger_same ?_ (Same.sub hm rfl)
    | with_reducible refine Same.snd ‹_› (seeTrigger_same ?_ (Same.sub hm rfl))
    | with_reducible refine Same.snd ‹_› ?_
    | with_reducible refine Same.fst ‹_› ?_
    | with_reducible refine Same.foldl1 (fun _ _ _ => ?_) ?_
    | with_reducible refine Same.foldl2 (fun _ _ _ => ?_) ?_
    | split

theorem execExchTime_same {M : Nat} {s0 : State} {a0 a1 a2} (h2 : Same M s0 a2) (hm : 568 ||| M = M) :
    OutSame M s0 (execExchTime a0 a1 a2) := by
  unfold execExchTime
  repeat' first
    | with_reducible assumption
    | (extract_lets +onlyGivenNames x; first | (refine Same.cut M s0 x ?_ ?_; (focus (dsimp -zeta only [x]; clear x)); rotate_left 1; clear_value x; revert x; intro _ _) | (have hh := fun a => x a; clear hh; dsimp -zeta only [x]; clear x) | (clear_value x; revert x; intro _) | (dsimp -zeta only [x]; clear x))
    | with_reducible refine OutSame.next ?_
    | with_reducible refine failExchange_same ?_ (Same.sub hm rfl)
    | split

theorem execExchangeBoundary_same {M : Nat} {s0 : State} {a0 a1 a2} (h2 : Same M s0 a2) (hm : 512 ||| M = M) :
    OutSame M s0 (execExchangeBoundary a0 a1 a2) := by
  unfold execExchangeBoundary
  repeat' first
    | with_reducible assumption
    | (extract_lets +onlyGivenNames x; first | (refine Same.cut M s0 x ?_ ?_; (focus (dsimp -zeta only [x]; clear x)); rotate_left 1; clear_value x; revert x; intro _ _) | (have hh := fun a => x a; clear hh; dsimp -zeta only [x]; clear x) | (clear_value x; revert x; intro _) | (dsimp -zeta only [x]; clear x))
    | with_reducible refine OutSame.next ?_
    | with_reducible refine updTask_same ?_ (Same.sub hm rfl)
    | with_reducible refine maybeSwitch_same ?_ (Same.sub hm rfl)
    | split

theorem journalOp_same {M : Nat} {s0 : State} {a0 a1 a2 a3 a4} (h4 : Same M s0 a4) (hm : 576 ||| M = M) :
    Same M s0 (journalOp a0 a1 a2 a3 a4) := by
  unfold journalOp
  repeat' first
    | with_reducible assumption
    | (extract_lets +onlyGivenNames x; first | (refine Same.cut M s0 x ?_ ?_; (focus (dsimp -zeta only [x]; clear x)); rotate_left 1; clear_value x; revert x; intro _ _) | (have hh := fun a => x a; clear hh; dsimp -zeta only [x]; clear x) | (clear_value x; revert x; intro _) | (dsimp -zeta only [x]; clear x))
    | with_reducible refine Same.foldl (fun _ _ _ => ?_) ?_
    | split
    | with_reducible refine Same.up_mem_pge ?_ (Same.sub hm rfl) (Same.sub hm rfl)

theorem switchOp_same {M : Nat} {s0 : State} {a0 a1} (h1 : Same M s0 a1) (hm : 33400 ||| M = M) :
    Same M s0 (switchOp a0 a1) := by
  unfold switchOp
  repeat' first
    | with_reducible assumption
    | (extract_lets +onlyGivenNames x; first | (refine Same.cut M s0 x ?_ ?_; (focus (dsimp -zeta only [x]; clear x)); rotate_left 1; clear_value x; revert x; intro _ _) | (have hh := fun a => x a; clear hh; dsimp -zeta only [x]; clear x) | (clear_value x; revert x; intro _) | (dsimp -zeta only [x]; clear x))
    | with_reducible refine passTrigger_same ?_ (Same.sub hm rfl)
    | with_reducible refine updTask_same ?_ (Same.sub hm rfl)
    | with_reducible refine updPCask_same ?_ (Same.sub hm rfl)
    | with_reducible refine coldEvents_same ?_ (Same.sub hm rfl)
    | with_reducible refine journalOp_same ?_ (Same.sub hm rfl)
    | with_reducible refine takeHeld_same ?_ (Same.sub hm rfl)
    | with_reducible refine Same.foldl (fun _ _ _ => ?_) ?_
    | split
    | with_reducible refine Same.up_stn ?_ (Same.sub hm rfl)

theorem execExchangeSwitch_same {M : Nat} {s0 : State} {a0 a1 a2} (h2 : Same M s0 a2) (hm : 33400 ||| M = M) :
    OutSame M s0 (execExchangeSwitch a0 a1 a2) := by
  unfold execExchangeSwitch
  repeat' first
    | with_reducible assumption
    | (extract_lets +onlyGivenNames x; first | (refine Same.cut M s0 x ?_ ?_; (focus (dsimp -zeta only [x]; clear x)); rotate_left 1; clear_value x; revert x; intro _ _) | (have hh := fun a => x a; clear hh; dsimp -zeta only [x]; clear x) | (clear_value x; revert x; intro _) | (dsimp -zeta only [x]; clear x))
    | with_reducible refine OutSame.next ?_
    | with_reducible refine switchOp_same ?_ (Same.sub hm rfl)
    | split

theorem matchInst_same {M : Nat} {s0 : State} {a0 a1 a2 a3 a4} (h3 : Same M s0 a3) (hm : 576 ||| M = M) :
    Same M s0 (matchInst a0 a1 a2 a3 a4) := by
  unfold matchInst
  repeat' first
    | with_reducible assumption
    | (extract_lets +onlyGivenNames x; first | (refine Same.cut M s0 x ?_ ?_; (focus (dsimp -zeta only [x]; clear x)); rotate_left 1; clear_value x; revert x; intro _ _) | (have hh := fun a => x a; clear hh; dsimp -zeta only [x]; clear x) | (clear_value x; revert x; intro _) | (dsimp -zeta only [x]; clear x))
    | with_reducible refine updTask_same ?_ (Same.sub hm rfl)
    | with_reducible refine initInst_same ?_ (Same.sub hm rfl)
    | with_reducible refine charge_same ?_ (Same.sub hm rfl)
    | with_reducible refine initRet_same ?_ (Same.sub hm rfl)
    | split

theorem matchWork_same {M : Nat} {s0 : State} {a0 a1 a2} (h2 : Same M s0 a2) (hm : 576 ||| M = M) :
    Same M s0 (matchWork a0 a1 a2) := by
  unfold matchWork
  repeat' first
    | with_reducible assumption
    | (extract_lets +onlyGivenNames x; first | (refine Same.cut M s0 x ?_ ?_; (focus (dsimp -zeta only [x]; clear x)); rotate_left 1; clear_value x; revert x; intro _ _) | (have hh := fun a => x a; clear hh; dsimp -zeta only [x]; clear x) | (clear_value x; revert x; intro _) | (dsimp -zeta only [x]; clear x))
    | with_reducible refine updTask_same ?_ (Same.sub hm rfl)
    | with_reducible refine nextRoutine_same ?_ (Same.sub hm rfl)
    | with_reducible refine charge_same ?_ (Same.sub hm rfl)
    | with_reducible refine matchInst_same ?_ (Same.sub hm rfl)
    | with_reducible refine Same.foldl (fun _ _ _ => ?_) ?_
    | split

theorem workOp_same {M : Nat} {s0 : State} {a0 a1 a2} (h2 : Same M s0 a2) (hm : 576 ||| M = M) :
    Same M s0 (workOp a0 a1 a2) := by
  unfold workOp
  repeat' first
    | with_reducible assumption
    | with_reducible refine startItem_same ?_ (Same.sub hm rfl)
    | with_reducible refine matchWork_same ?_ (Same.sub hm rfl)

theorem execExchangeWork_same {M : Nat} {s0 : State} {a0 a1} (h1 : Same M s0 a1) (hm : 576 ||| M = M) :
    OutSame M s0 (execExchangeWork a0 a1) := by
  unfold execExchangeWork
  repeat' first
    | with_reducible assumption
    | with_reducible refine OutSame.next ?_
    | with_reducible refine matchWork_same ?_ (Same.sub hm rfl)
    | with_reducible refine workOp_same ?_ (Same.sub hm rfl)
    | split

theorem pgeStatus_same {M : Nat} {s0 : State} {a0 a1 a2} (h2 : Same M s0 a2) (hm : 512 ||| M = M) :
    Same M s0 (pgeStatus a0 a1 a2) := by
  unfold pgeStatus
  repeat' first
    | with_reducible assumption
    | (extract_lets +onlyGivenNames x; first | (refine Same.cut M s0 x ?_ ?_; (focus (dsimp -zeta only [x]; clear x)); rotate_left 1; clear_value x; revert x; intro _ _) | (have hh := fun a => x a; clear hh; dsimp -zeta only [x]; clear x) | (clear_value x; revert x; intro _) | (dsimp -zeta only [x]; clear x))
    | split
    | with_reducible refine Same.up_pge ?_ (Same.sub hm rfl)

theorem startCmd_same {M : Nat} {s0 : State} {a0 a1 a2 a3} (h3 : Same M s0 a3) (hm : 632 ||| M = M) :
    OutSame M s0 (startCmd a0 a1 a2 a3) := by
  unfold startCmd
  repeat' first
    | with_reducible assumption
    | (extract_lets +onlyGivenNames x; first | (refine Same.cut M s0 x ?_ ?_; (focus (dsimp -zeta only [x]; clear x)); rotate_left 1; clear_value x; revert x; intro _ _) | (have hh := fun a => x a; clear hh; dsimp -zeta only [x]; clear x) | (clear_value x; revert x; intro _) | (dsimp -zeta only [x]; clear x))
    | with_reducible refine OutSame.next ?_
    | with_reducible refine regCmd_same (fun x0 k0 => ?_) ?_ (Same.sub hm rfl)
    | with_reducible refine pgeStatus_same ?_ (Same.sub hm rfl)
    | with_reducible refine startCask_same ?_ (Same.sub hm rfl)
    | split

theorem execRunWarm_same {M : Nat} {s0 : State} {a0 a1 a2} (h2 : Same M s0 a2) (hm : 632 ||| M = M) :
    OutSame M s0 (execRunWarm a0 a1 a2) := by
  unfold execRunWarm
  repeat' first
    | with_reducible assumption
    | with_reducible refine OutSame.next ?_
    | with_reducible refine startCmd_same ?_ (Same.sub hm rfl)

theorem modeCmd_same {M : Nat} {s0 : State} {a0 a1 a2 a3 a4} (h3 : ∀ x0 x1, Same M s0 x1 → Same M s0 (a3 x0 x1)) (h4 : Same M s0 a4) (hm : 568 ||| M = M) :
    OutSame M s0 (modeCmd a0 a1 a2 a3 a4) := by
  unfold modeCmd
  repeat' first
    | with_reducible assumption
    | (extract_lets +onlyGivenNames x; first | (refine Same.cut M s0 x ?_ ?_; (focus (dsimp -zeta only [x]; clear x)); rotate_left 1; clear_value x; revert x; intro _ _) | (have hh := fun a => x a; clear hh; dsimp -zeta only [x]; clear x) | (clear_value x; revert x; intro _) | (dsimp -zeta only [x]; clear x))
    | with_reducible refine OutSame.next ?_
    | with_reducible refine h3 _ _ ?_
    | with_reducible refine regCmd_same (fun x0 k0 => ?_) ?_ (Same.sub hm rfl)
    | with_reducible refine pgeStatus_same ?_ (Same.sub hm rfl)
    | split

theorem execHoldCask_same {M : Nat} {s0 : State} {a0 a1 a2} (h2 : Same M s0 a2) (hm : 568 ||| M = M) :
    OutSame M s0 (execHoldCask a0 a1 a2) := by
  unfold execHoldCask
  repeat' first
    | with_reducible assumption
    | with_reducible refine OutSame.next ?_
    | with_reducible refine updPCask_same ?_ (Same.sub hm rfl)
    | with_reducible refine modeCmd_same (fun x0 x1 k1 => ?_) ?_ (Same.sub hm rfl)

theorem execStopCask_same {M : Nat} {s0 : State} {a0 a1 a2} (h2 : Same M s0 a2) (hm : 568 ||| M = M) :
    OutSame M s0 (execStopCask a0 a1 a2) := by
  unfold execStopCask
  repeat' first
    | with_reducible assumption
    | with_reducible refine OutSame.next ?_
    | with_reducible refine modeCmd_same (fun x0 x1 k1 => ?_) ?_ (Same.sub hm rfl)
    | with_reducible refine stopCaskOp_same ?_ (Same.sub hm rfl)

theorem resumeOp_same {M : Nat} {s0 : State} {a0 a1} (h1 : Same M s0 a1) (hm : 512 ||| M = M) :
    Same M s0 (resumeOp a0 a1) := by
  unfold resumeOp
  repeat' first
    | with_reducible assumption
    | (extract_lets +onlyGivenNames x; first | (refine Same.cut M s0 x ?_ ?_; (focus (dsimp -zeta only [x]; clear x)); rotate_left 1; clear_value x; revert x; intro _ _) | (have hh := fun a => x a; clear hh; dsimp -zeta only [x]; clear x) | (clear_value x; revert x; intro _) | (dsimp -zeta only [x]; clear x))
    | with_reducible refine passTrigger_same ?_ (Same.sub hm rfl)
    | with_reducible refine updTask_same ?_ (Same.sub hm rfl)
    | with_reducible refine updPCask_same ?_ (Same.sub hm rfl)
    | with_reducible refine Same.foldl (fun _ _ _ => ?_) ?_

theorem execResumeCask_same {M : Nat} {s0 : State} {a0 a1 a2} (h2 : Same M s0 a2) (hm : 568 ||| M = M) :
    OutSame M s0 (execResumeCask a0 a1 a2) := by
  unfold execResumeCask
  repeat' first
    | with_reducible assumption
    | with_reducible refine OutSame.next ?_
    | with_reducible refine resumeOp_same ?_ (Same.sub hm rfl)
    | with_reducible refine modeCmd_same (fun x0 x1 k1 => ?_) ?_ (Same.sub hm rfl)

theorem execRunCold_same {M : Nat} {s0 : State} {a0 a1 a2} (h2 : Same M s0 a2) (hm : 632 ||| M = M) :
    OutSame M s0 (execRunCold a0 a1 a2) := by
  unfold execRunCold
  repeat' first
    | with_reducible assumption
    | with_reducible refine OutSame.next ?_
    | with_reducible refine startCmd_same ?_ (Same.sub hm rfl)

theorem execPgeEvtTrig_same {M : Nat} {s0 : State} {a0 a1 a2} (h2 : Same M s0 a2) (hm : 568 ||| M = M) :
    OutSame M s0 (execPgeEvtTrig a0 a1 a2) := by
  unfold execPgeEvtTrig
  repeat' first
    | with_reducible assumption
    | (extract_lets +onlyGivenNames x; first | (refine Same.cut M s0 x ?_ ?_; (focus (dsimp -zeta only [x]; clear x)); rotate_left 1; clear_value x; revert x; intro _ _) | (have hh := fun a => x a; clear hh; dsimp -zeta only [x]; clear x) | (clear_value x; revert x; intro _) | (dsimp -zeta only [x]; clear x))
    | with_reducible refine OutSame.next ?_
    | with_reducible refine regCmd_same (fun x0 k0 => ?_) ?_ (Same.sub hm rfl)
    | with_reducible refine triggerTask_same ?_ (Same.sub hm rfl)
    | split

theorem execHoldExpired_same {M : Nat} {s0 : State} {a0 a1} (h1 : Same M s0 a1) (hm : 33296 ||| M = M) :
    OutSame M s0 (execHoldExpired a0 a1) := by
  unfold execHoldExpired
  repeat' first
    | with_reducible assumption
    | (extract_lets +onlyGivenNames x; first | (refine Same.cut M s0 x ?_ ?_; (focus (dsimp -zeta only [x]; clear x)); rotate_left 1; clear_value x; revert x; intro _ _) | (have hh := fun a => x a; clear hh; dsimp -zeta only [x]; clear x) | (clear_value x; revert x; intro _) | (dsimp -zeta only [x]; clear x))
    | with_reducible refine OutSame.next ?_
    | with_reducible refine record_same ?_ (Same.sub hm rfl)
    | with_reducible refine enterStop_same ?_ (Same.sub hm rfl)
    | split

theorem execOutputImageCommit_same {M : Nat} {s0 : State} {a0 a1 a2} (h2 : Same M s0 a2) (hm : 1147704 ||| M = M) :
    OutSame M s0 (execOutputImageCommit a0 a1 a2) := by
  unfold execOutputImageCommit
  repeat' first
    | with_reducible assumption
    | (extract_lets +onlyGivenNames x; first | (refine Same.cut M s0 x ?_ ?_; (focus (dsimp -zeta only [x]; clear x)); rotate_left 1; clear_value x; revert x; intro _ _) | (have hh := fun a => x a; clear hh; dsimp -zeta only [x]; clear x) | (clear_value x; revert x; intro _) | (dsimp -zeta only [x]; clear x))
    | with_reducible refine OutSame.next ?_
    | with_reducible refine afterOutput_same ?_ (Same.sub hm rfl)
    | with_reducible refine commitImage_same ?_ (Same.sub hm rfl)
    | split

theorem execPgeAccountingPeriod_same {M : Nat} {s0 : State} {a0} (h0 : Same M s0 a0) (hm : 512 ||| M = M) :
    OutSame M s0 (execPgeAccountingPeriod a0) := by
  unfold execPgeAccountingPeriod
  repeat' first
    | with_reducible assumption
    | (extract_lets +onlyGivenNames x; first | (refine Same.cut M s0 x ?_ ?_; (focus (dsimp -zeta only [x]; clear x)); rotate_left 1; clear_value x; revert x; intro _ _) | (have hh := fun a => x a; clear hh; dsimp -zeta only [x]; clear x) | (clear_value x; revert x; intro _) | (dsimp -zeta only [x]; clear x))
    | with_reducible refine OutSame.next ?_
    | with_reducible refine maybeSwitch_same ?_ (Same.sub hm rfl)
    | split
    | with_reducible refine Same.up_pge ?_ (Same.sub hm rfl)

theorem execPgeClkLoRead_same {M : Nat} {s0 : State} {a0 a1} (h1 : Same M s0 a1) (hm : 568 ||| M = M) :
    OutSame M s0 (execPgeClkLoRead a0 a1) := by
  unfold execPgeClkLoRead
  repeat' first
    | with_reducible assumption
    | with_reducible refine OutSame.next ?_
    | with_reducible refine updPCask_same ?_ (Same.sub hm rfl)
    | with_reducible refine regRead_same (fun x0 k0 => ?_) ?_ (Same.sub hm rfl)
    | split

theorem execPgeGuaranteeUsed_same {M : Nat} {s0 : State} {a0 a1} (h1 : Same M s0 a1) (hm : 512 ||| M = M) :
    OutSame M s0 (execPgeGuaranteeUsed a0 a1) := by
  unfold execPgeGuaranteeUsed
  repeat' first
    | with_reducible assumption
    | (extract_lets +onlyGivenNames x; first | (refine Same.cut M s0 x ?_ ?_; (focus (dsimp -zeta only [x]; clear x)); rotate_left 1; clear_value x; revert x; intro _ _) | (have hh := fun a => x a; clear hh; dsimp -zeta only [x]; clear x) | (clear_value x; revert x; intro _) | (dsimp -zeta only [x]; clear x))
    | with_reducible refine OutSame.next ?_
    | with_reducible refine maybeSwitch_same ?_ (Same.sub hm rfl)
    | split

theorem retentiveCommitOp_same {M : Nat} {s0 : State} {a0 a1 a2} (h2 : Same M s0 a2) (hm : 33400 ||| M = M) :
    Same M s0 (retentiveCommitOp a0 a1 a2) := by
  unfold retentiveCommitOp
  repeat' first
    | with_reducible assumption
    | (extract_lets +onlyGivenNames x; first | (refine Same.cut M s0 x ?_ ?_; (focus (dsimp -zeta only [x]; clear x)); rotate_left 1; clear_value x; revert x; intro _ _) | (have hh := fun a => x a; clear hh; dsimp -zeta only [x]; clear x) | (clear_value x; revert x; intro _) | (dsimp -zeta only [x]; clear x))
    | with_reducible refine finishCycle_same ?_ (Same.sub hm rfl)
    | with_reducible refine updTask_same ?_ (Same.sub hm rfl)
    | with_reducible refine journalOp_same ?_ (Same.sub hm rfl)
    | split

theorem execRetentiveCommit_same {M : Nat} {s0 : State} {a0 a1 a2} (h2 : Same M s0 a2) (hm : 33400 ||| M = M) :
    OutSame M s0 (execRetentiveCommit a0 a1 a2) := by
  unfold execRetentiveCommit
  repeat' first
    | with_reducible assumption
    | (extract_lets +onlyGivenNames x; first | (refine Same.cut M s0 x ?_ ?_; (focus (dsimp -zeta only [x]; clear x)); rotate_left 1; clear_value x; revert x; intro _ _) | (have hh := fun a => x a; clear hh; dsimp -zeta only [x]; clear x) | (clear_value x; revert x; intro _) | (dsimp -zeta only [x]; clear x))
    | with_reducible refine OutSame.next ?_
    | with_reducible refine retentiveCommitOp_same ?_ (Same.sub hm rfl)
    | split

theorem execTaskExecutionStart_same {M : Nat} {s0 : State} {a0 a1} (h1 : Same M s0 a1) (hm : 512 ||| M = M) :
    OutSame M s0 (execTaskExecutionStart a0 a1) := by
  unfold execTaskExecutionStart
  repeat' first
    | with_reducible assumption
    | with_reducible refine OutSame.next ?_
    | with_reducible refine startItem_same ?_ (Same.sub hm rfl)
    | split

theorem outputPhaseOp_same {M : Nat} {s0 : State} {a0 a1 a2} (h2 : Same M s0 a2) (hm : 33336 ||| M = M) :
    Same M s0 (outputPhaseOp a0 a1 a2) := by
  unfold outputPhaseOp
  repeat' first
    | with_reducible assumption
    | (extract_lets +onlyGivenNames x; first | (refine Same.cut M s0 x ?_ ?_; (focus (dsimp -zeta only [x]; clear x)); rotate_left 1; clear_value x; revert x; intro _ _) | (have hh := fun a => x a; clear hh; dsimp -zeta only [x]; clear x) | (clear_value x; revert x; intro _) | (dsimp -zeta only [x]; clear x))
    | with_reducible refine freeProc_same ?_ (Same.sub hm rfl)
    | with_reducible refine updCyc_same ?_ (Same.sub hm rfl)
    | with_reducible refine afterOutput_same ?_ (Same.sub hm rfl)
    | with_reducible refine present_same ?_ (Same.sub hm rfl)
    | with_reducible refine raiseFor_same ?_ (Same.sub hm rfl)
    | split

theorem execTaskOutputPhase_same {M : Nat} {s0 : State} {a0 a1} (h1 : Same M s0 a1) (hm : 33336 ||| M = M) :
    OutSame M s0 (execTaskOutputPhase a0 a1) := by
  unfold execTaskOutputPhase
  repeat' first
    | with_reducible assumption
    | (extract_lets +onlyGivenNames x; first | (refine Same.cut M s0 x ?_ ?_; (focus (dsimp -zeta only [x]; clear x)); rotate_left 1; clear_value x; revert x; intro _ _) | (have hh := fun a => x a; clear hh; dsimp -zeta only [x]; clear x) | (clear_value x; revert x; intro _) | (dsimp -zeta only [x]; clear x))
    | with_reducible refine OutSame.next ?_
    | with_reducible refine outputPhaseOp_same ?_ (Same.sub hm rfl)
    | split

theorem taskReleaseOp_same {M : Nat} {s0 : State} {a0 a1} (h1 : Same M s0 a1) (hm : 568 ||| M = M) :
    Same M s0 (taskReleaseOp a0 a1) := by
  unfold taskReleaseOp
  repeat' first
    | with_reducible assumption
    | (extract_lets +onlyGivenNames x; first | (refine Same.cut M s0 x ?_ ?_; (focus (dsimp -zeta only [x]; clear x)); rotate_left 1; clear_value x; revert x; intro _ _) | (have hh := fun a => x a; clear hh; dsimp -zeta only [x]; clear x) | (clear_value x; revert x; intro _) | (dsimp -zeta only [x]; clear x))
    | with_reducible refine countOvr_same ?_ (Same.sub hm rfl)
    | with_reducible refine updTask_same ?_ (Same.sub hm rfl)
    | with_reducible refine updCyc_same ?_ (Same.sub hm rfl)
    | with_reducible refine releaseTask_same ?_ (Same.sub hm rfl)
    | split

theorem execTaskRelease_same {M : Nat} {s0 : State} {a0 a1 a2} (h2 : Same M s0 a2) (hm : 568 ||| M = M) :
    OutSame M s0 (execTaskRelease a0 a1 a2) := by
  unfold execTaskRelease
  repeat' first
    | with_reducible assumption
    | (extract_lets +onlyGivenNames x; first | (refine Same.cut M s0 x ?_ ?_; (focus (dsimp -zeta only [x]; clear x)); rotate_left 1; clear_value x; revert x; intro _ _) | (have hh := fun a => x a; clear hh; dsimp -zeta only [x]; clear x) | (clear_value x; revert x; intro _) | (dsimp -zeta only [x]; clear x))
    | with_reducible refine OutSame.next ?_
    | with_reducible refine taskReleaseOp_same ?_ (Same.sub hm rfl)
    | split

theorem execTaskWatchdog_same {M : Nat} {s0 : State} {a0 a1 a2} (h2 : Same M s0 a2) (hm : 568 ||| M = M) :
    OutSame M s0 (execTaskWatchdog a0 a1 a2) := by
  unfold execTaskWatchdog
  repeat' first
    | with_reducible assumption
    | (extract_lets +onlyGivenNames x; first | (refine Same.cut M s0 x ?_ ?_; (focus (dsimp -zeta only [x]; clear x)); rotate_left 1; clear_value x; revert x; intro _ _) | (have hh := fun a => x a; clear hh; dsimp -zeta only [x]; clear x) | (clear_value x; revert x; intro _) | (dsimp -zeta only [x]; clear x))
    | with_reducible refine OutSame.next ?_
    | with_reducible refine abandon_same ?_ (Same.sub hm rfl)
    | split

theorem vintnerOp_same {M : Nat} {s0 : State} {a0 a1 a2 a3} (h3 : Same M s0 a3) (hm : 1147664 ||| M = M) :
    Same M s0 (vintnerOp a0 a1 a2 a3) := by
  unfold vintnerOp
  repeat' first
    | with_reducible assumption
    | (extract_lets +onlyGivenNames x; first | (refine Same.cut M s0 x ?_ ?_; (focus (dsimp -zeta only [x]; clear x)); rotate_left 1; clear_value x; revert x; intro _ _) | (have hh := fun a => x a; clear hh; dsimp -zeta only [x]; clear x) | (clear_value x; revert x; intro _) | (dsimp -zeta only [x]; clear x))
    | with_reducible refine record_same ?_ (Same.sub hm rfl)
    | with_reducible refine putEntry_same ?_ (Same.sub hm rfl)
    | split
    | with_reducible refine Same.up_pge ?_ (Same.sub hm rfl)

theorem execVintnerSetpointWrite_same {M : Nat} {s0 : State} {a0 a1 a2} (h2 : Same M s0 a2) (hm : 1147664 ||| M = M) :
    OutSame M s0 (execVintnerSetpointWrite a0 a1 a2) := by
  unfold execVintnerSetpointWrite
  repeat' first
    | with_reducible assumption
    | with_reducible refine OutSame.next ?_
    | with_reducible refine vintnerOp_same ?_ (Same.sub hm rfl)
    | split

end Sys2Proof.Machine
end

