-- ==== Sys2Proof/Laws/FrameValidate.lean ====
section
/-!
SUPPORT. FrameValidate.lean: for each operation of Machine/Validate.lean, the components of State it can change: the result agrees with the
state it starts from on every component whose bit in the mask is 0 (the bits as in `Same`).
-/
namespace Sys2Proof.Machine
set_option linter.all false

theorem withRing_same {M : Nat} {s0 : State} {a0 a1} (h1 : Same M s0 a1) (hm : 131072 ||| M = M) :
    Same M s0 (withRing a0 a1) := by
  unfold withRing
  repeat' first
    | with_reducible assumption
    | (extract_lets +onlyGivenNames x; first | (refine Same.cut M s0 x ?_ ?_; (focus (dsimp -zeta only [x]; clear x)); rotate_left 1; clear_value x; revert x; intro _ _) | (have hh := fun a => x a; clear hh; dsimp -zeta only [x]; clear x) | (clear_value x; revert x; intro _) | (dsimp -zeta only [x]; clear x))
    | with_reducible refine Same.up_net ?_ (Same.sub hm rfl)

end Sys2Proof.Machine
end

