-- ==== Sys2Proof/Laws/FrameActivate.lean ====
section
/-!
SUPPORT. FrameActivate.lean: for each operation of Machine/Activate.lean, the components of State it can change: the result agrees with the
state it starts from on every component whose bit in the mask is 0 (the bits as in `Same`).
-/
namespace Sys2Proof.Machine
set_option linter.all false

theorem changeChan_same {M : Nat} {s0 : State} {a0 a1 a2 a3} (h3 : Same M s0 a3) (hm : 2048 ||| M = M) :
    Same M s0 (changeChan a0 a1 a2 a3) := by
  unfold changeChan
  repeat' first
    | with_reducible assumption
    | (extract_lets +onlyGivenNames x; first | (refine Same.cut M s0 x ?_ ?_; (focus (dsimp -zeta only [x]; clear x)); rotate_left 1; clear_value x; revert x; intro _ _) | (have hh := fun a => x a; clear hh; dsimp -zeta only [x]; clear x) | (clear_value x; revert x; intro _) | (dsimp -zeta only [x]; clear x))
    | with_reducible refine updChan_same ?_ (Same.sub hm rfl)
    | with_reducible refine takeChan_same ?_ (Same.sub hm rfl)
    | split

theorem changeMeter_same {M : Nat} {s0 : State} {a0 a1 a2} (h2 : Same M s0 a2) (hm : 2048 ||| M = M) :
    Same M s0 (changeMeter a0 a1 a2) := by
  unfold changeMeter
  repeat' first
    | with_reducible assumption
    | (extract_lets +onlyGivenNames x; first | (refine Same.cut M s0 x ?_ ?_; (focus (dsimp -zeta only [x]; clear x)); rotate_left 1; clear_value x; revert x; intro _ _) | (have hh := fun a => x a; clear hh; dsimp -zeta only [x]; clear x) | (clear_value x; revert x; intro _) | (dsimp -zeta only [x]; clear x))
    | with_reducible refine updElem_same ?_ (Same.sub hm rfl)
    | with_reducible refine changeChan_same ?_ (Same.sub hm rfl)
    | with_reducible refine Same.foldl (fun _ _ _ => ?_) ?_
    | split
    | with_reducible refine Same.up_prs ?_ (Same.sub hm rfl)

theorem changeCell_same {M : Nat} {s0 : State} {a0 a1 a2} (h2 : Same M s0 a2) (hm : 272 ||| M = M) :
    Same M s0 (changeCell a0 a1 a2) := by
  unfold changeCell
  repeat' first
    | with_reducible assumption
    | (extract_lets +onlyGivenNames x; first | (refine Same.cut M s0 x ?_ ?_; (focus (dsimp -zeta only [x]; clear x)); rotate_left 1; clear_value x; revert x; intro _ _) | (have hh := fun a => x a; clear hh; dsimp -zeta only [x]; clear x) | (clear_value x; revert x; intro _) | (dsimp -zeta only [x]; clear x))
    | with_reducible refine endTest_same ?_ (Same.sub hm rfl)
    | with_reducible refine updCell_same ?_ (Same.sub hm rfl)
    | split

theorem affectTask_same {M : Nat} {s0 : State} {a0 a1 a2 a3} (h3 : Same M s0 a3) (hm : 512 ||| M = M) :
    Same M s0 (affectTask a0 a1 a2 a3) := by
  unfold affectTask
  repeat' first
    | with_reducible assumption
    | (extract_lets +onlyGivenNames x; first | (refine Same.cut M s0 x ?_ ?_; (focus (dsimp -zeta only [x]; clear x)); rotate_left 1; clear_value x; revert x; intro _ _) | (have hh := fun a => x a; clear hh; dsimp -zeta only [x]; clear x) | (clear_value x; revert x; intro _) | (dsimp -zeta only [x]; clear x))
    | with_reducible refine updTask_same ?_ (Same.sub hm rfl)
    | split

theorem changeProg_same {M : Nat} {s0 : State} {a0 a1 a2 a3} (h3 : Same M s0 a3) (hm : 576 ||| M = M) :
    Same M s0 (changeProg a0 a1 a2 a3) := by
  unfold changeProg
  repeat' first
    | with_reducible assumption
    | (extract_lets +onlyGivenNames x; first | (refine Same.cut M s0 x ?_ ?_; (focus (dsimp -zeta only [x]; clear x)); rotate_left 1; clear_value x; revert x; intro _ _) | (have hh := fun a => x a; clear hh; dsimp -zeta only [x]; clear x) | (clear_value x; revert x; intro _) | (dsimp -zeta only [x]; clear x))
    | with_reducible refine instPut_same ?_ (Same.sub hm rfl)
    | with_reducible refine updPCask_same ?_ (Same.sub hm rfl)
    | split

theorem changeProgram_same {M : Nat} {s0 : State} {a0 a1 a2 a3} (h3 : Same M s0 a3) (hm : 576 ||| M = M) :
    Same M s0 (changeProgram a0 a1 a2 a3) := by
  unfold changeProgram
  repeat' first
    | with_reducible assumption
    | (extract_lets +onlyGivenNames x; first | (refine Same.cut M s0 x ?_ ?_; (focus (dsimp -zeta only [x]; clear x)); rotate_left 1; clear_value x; revert x; intro _ _) | (have hh := fun a => x a; clear hh; dsimp -zeta only [x]; clear x) | (clear_value x; revert x; intro _) | (dsimp -zeta only [x]; clear x))
    | with_reducible refine affectTask_same ?_ (Same.sub hm rfl)
    | with_reducible refine changeProg_same ?_ (Same.sub hm rfl)
    | with_reducible refine Same.foldl (fun _ _ _ => ?_) ?_
    | split

theorem putNodes_same {M : Nat} {s0 : State} {a0 a1 a2} (h2 : Same M s0 a2) (hm : 131072 ||| M = M) :
    Same M s0 (putNodes a0 a1 a2) := by
  unfold putNodes
  repeat' first
    | with_reducible assumption
    | (extract_lets +onlyGivenNames x; first | (refine Same.cut M s0 x ?_ ?_; (focus (dsimp -zeta only [x]; clear x)); rotate_left 1; clear_value x; revert x; intro _ _) | (have hh := fun a => x a; clear hh; dsimp -zeta only [x]; clear x) | (clear_value x; revert x; intro _) | (dsimp -zeta only [x]; clear x))
    | split
    | with_reducible refine Same.up_net ?_ (Same.sub hm rfl)

theorem putAdmission_same {M : Nat} {s0 : State} {a0 a1 a2} (h2 : Same M s0 a2) (hm : 131072 ||| M = M) :
    Same M s0 (putAdmission a0 a1 a2) := by
  unfold putAdmission
  repeat' first
    | with_reducible assumption
    | (extract_lets +onlyGivenNames x; first | (refine Same.cut M s0 x ?_ ?_; (focus (dsimp -zeta only [x]; clear x)); rotate_left 1; clear_value x; revert x; intro _ _) | (have hh := fun a => x a; clear hh; dsimp -zeta only [x]; clear x) | (clear_value x; revert x; intro _) | (dsimp -zeta only [x]; clear x))
    | with_reducible refine putNodes_same ?_ (Same.sub hm rfl)
    | with_reducible refine withRing_same ?_ (Same.sub hm rfl)
    | with_reducible refine Same.foldl (fun _ _ _ => ?_) ?_
    | split
    | with_reducible refine Same.up_net ?_ (Same.sub hm rfl)

theorem putStns_same {M : Nat} {s0 : State} {a0 a1} (h1 : Same M s0 a1) (hm : 32768 ||| M = M) :
    Same M s0 (putStns a0 a1) := by
  unfold putStns
  repeat' first
    | with_reducible assumption
    | (extract_lets +onlyGivenNames x; first | (refine Same.cut M s0 x ?_ ?_; (focus (dsimp -zeta only [x]; clear x)); rotate_left 1; clear_value x; revert x; intro _ _) | (have hh := fun a => x a; clear hh; dsimp -zeta only [x]; clear x) | (clear_value x; revert x; intro _) | (dsimp -zeta only [x]; clear x))
    | split
    | with_reducible refine Same.up_stn ?_ (Same.sub hm rfl)

theorem putChan_same {M : Nat} {s0 : State} {a0 a1 a2} (h2 : Same M s0 a2) (hm : 65536 ||| M = M) :
    Same M s0 (putChan a0 a1 a2) := by
  unfold putChan
  repeat' first
    | with_reducible assumption
    | (extract_lets +onlyGivenNames x; first | (refine Same.cut M s0 x ?_ ?_; (focus (dsimp -zeta only [x]; clear x)); rotate_left 1; clear_value x; revert x; intro _ _) | (have hh := fun a => x a; clear hh; dsimp -zeta only [x]; clear x) | (clear_value x; revert x; intro _) | (dsimp -zeta only [x]; clear x))
    | with_reducible refine endScan_same ?_ (Same.sub hm rfl)
    | with_reducible refine updCan_same ?_ (Same.sub hm rfl)
    | split

theorem putFieldbus_same {M : Nat} {s0 : State} {a0 a1 a2} (h2 : Same M s0 a2) (hm : 65536 ||| M = M) :
    Same M s0 (putFieldbus a0 a1 a2) := by
  unfold putFieldbus
  repeat' first
    | with_reducible assumption
    | (extract_lets +onlyGivenNames x; first | (refine Same.cut M s0 x ?_ ?_; (focus (dsimp -zeta only [x]; clear x)); rotate_left 1; clear_value x; revert x; intro _ _) | (have hh := fun a => x a; clear hh; dsimp -zeta only [x]; clear x) | (clear_value x; revert x; intro _) | (dsimp -zeta only [x]; clear x))
    | with_reducible refine putChan_same ?_ (Same.sub hm rfl)
    | with_reducible refine Same.foldl (fun _ _ _ => ?_) ?_
    | split
    | with_reducible refine Same.up_fbs ?_ (Same.sub hm rfl)

theorem putBuilding_same {M : Nat} {s0 : State} {a0 a1 a2} (h2 : Same M s0 a2) (hm : 65536 ||| M = M) :
    Same M s0 (putBuilding a0 a1 a2) := by
  unfold putBuilding
  repeat' first
    | with_reducible assumption
    | (extract_lets +onlyGivenNames x; first | (refine Same.cut M s0 x ?_ ?_; (focus (dsimp -zeta only [x]; clear x)); rotate_left 1; clear_value x; revert x; intro _ _) | (have hh := fun a => x a; clear hh; dsimp -zeta only [x]; clear x) | (clear_value x; revert x; intro _) | (dsimp -zeta only [x]; clear x))
    | with_reducible refine Same.foldl (fun _ _ _ => ?_) ?_
    | split
    | with_reducible refine Same.up_fbs ?_ (Same.sub hm rfl)

theorem putVintner_same {M : Nat} {s0 : State} {a0 a1} (h1 : Same M s0 a1) (hm : 512 ||| M = M) :
    Same M s0 (putVintner a0 a1) := by
  unfold putVintner
  repeat' first
    | with_reducible assumption
    | (extract_lets +onlyGivenNames x; first | (refine Same.cut M s0 x ?_ ?_; (focus (dsimp -zeta only [x]; clear x)); rotate_left 1; clear_value x; revert x; intro _ _) | (have hh := fun a => x a; clear hh; dsimp -zeta only [x]; clear x) | (clear_value x; revert x; intro _) | (dsimp -zeta only [x]; clear x))
    | split
    | with_reducible refine Same.up_pge ?_ (Same.sub hm rfl)

theorem putPoints_same {M : Nat} {s0 : State} {a0 a1} (h1 : Same M s0 a1) (hm : 384 ||| M = M) :
    Same M s0 (putPoints a0 a1) := by
  unfold putPoints
  repeat' first
    | with_reducible assumption
    | (extract_lets +onlyGivenNames x; first | (refine Same.cut M s0 x ?_ ?_; (focus (dsimp -zeta only [x]; clear x)); rotate_left 1; clear_value x; revert x; intro _ _) | (have hh := fun a => x a; clear hh; dsimp -zeta only [x]; clear x) | (clear_value x; revert x; intro _) | (dsimp -zeta only [x]; clear x))
    | split
    | with_reducible refine Same.up_img_trl ?_ (Same.sub hm rfl) (Same.sub hm rfl)

theorem putTables_same {M : Nat} {s0 : State} {a0 a1 a2} (h2 : Same M s0 a2) (hm : 1278848 ||| M = M) :
    Same M s0 (putTables a0 a1 a2) := by
  unfold putTables
  repeat' first
    | with_reducible assumption
    | (extract_lets +onlyGivenNames x; first | (refine Same.cut M s0 x ?_ ?_; (focus (dsimp -zeta only [x]; clear x)); rotate_left 1; clear_value x; revert x; intro _ _) | (have hh := fun a => x a; clear hh; dsimp -zeta only [x]; clear x) | (clear_value x; revert x; intro _) | (dsimp -zeta only [x]; clear x))
    | with_reducible refine putAdmission_same ?_ (Same.sub hm rfl)
    | with_reducible refine putStns_same ?_ (Same.sub hm rfl)
    | with_reducible refine putFieldbus_same ?_ (Same.sub hm rfl)
    | with_reducible refine putBuilding_same ?_ (Same.sub hm rfl)
    | with_reducible refine putVintner_same ?_ (Same.sub hm rfl)
    | with_reducible refine putPoints_same ?_ (Same.sub hm rfl)
    | with_reducible refine Same.up_pwr ?_ (Same.sub hm rfl)

theorem addSlot_same {M : Nat} {s0 : State} {a0 a1} (h1 : Same M s0 a1) (hm : 1028 ||| M = M) :
    Same M s0 (addSlot a0 a1) := by
  unfold addSlot
  repeat' first
    | with_reducible assumption
    | (extract_lets +onlyGivenNames x; first | (refine Same.cut M s0 x ?_ ?_; (focus (dsimp -zeta only [x]; clear x)); rotate_left 1; clear_value x; revert x; intro _ _) | (have hh := fun a => x a; clear hh; dsimp -zeta only [x]; clear x) | (clear_value x; revert x; intro _) | (dsimp -zeta only [x]; clear x))
    | with_reducible refine bumpFree_same ?_ (Same.sub hm rfl)
    | split
    | with_reducible refine Same.up_lpe ?_ (Same.sub hm rfl)

theorem changeLoops_same {M : Nat} {s0 : State} {a0 a1 a2} (h2 : Same M s0 a2) (hm : 1028 ||| M = M) :
    Same M s0 (changeLoops a0 a1 a2) := by
  unfold changeLoops
  repeat' first
    | with_reducible assumption
    | (extract_lets +onlyGivenNames x; first | (refine Same.cut M s0 x ?_ ?_; (focus (dsimp -zeta only [x]; clear x)); rotate_left 1; clear_value x; revert x; intro _ _) | (have hh := fun a => x a; clear hh; dsimp -zeta only [x]; clear x) | (clear_value x; revert x; intro _) | (dsimp -zeta only [x]; clear x))
    | with_reducible refine updSlot_same ?_ (Same.sub hm rfl)
    | with_reducible refine addSlot_same ?_ (Same.sub hm rfl)
    | with_reducible refine Same.foldl (fun _ _ _ => ?_) ?_
    | split

theorem activateSet_same {M : Nat} {s0 : State} {a0 a1 a2 a3} (h3 : Same M s0 a3) (hm : 1286100 ||| M = M) :
    Same M s0 (activateSet a0 a1 a2 a3) := by
  unfold activateSet
  repeat' first
    | with_reducible assumption
    | (extract_lets +onlyGivenNames x; first | (refine Same.cut M s0 x ?_ ?_; (focus (dsimp -zeta only [x]; clear x)); rotate_left 1; clear_value x; revert x; intro _ _) | (have hh := fun a => x a; clear hh; dsimp -zeta only [x]; clear x) | (clear_value x; revert x; intro _) | (dsimp -zeta only [x]; clear x))
    | with_reducible refine changeMeter_same ?_ (Same.sub hm rfl)
    | with_reducible refine changeCell_same ?_ (Same.sub hm rfl)
    | with_reducible refine changeProgram_same ?_ (Same.sub hm rfl)
    | with_reducible refine putTables_same ?_ (Same.sub hm rfl)
    | with_reducible refine changeLoops_same ?_ (Same.sub hm rfl)
    | with_reducible refine noteBypass_same ?_ (Same.sub hm rfl)
    | with_reducible refine Same.foldl (fun _ _ _ => ?_) ?_
    | split
    | with_reducible refine Same.up_img ?_ (Same.sub hm rfl)
    | with_reducible refine Same.up_saf ?_ (Same.sub hm rfl)

theorem loadProgram_same {M : Nat} {s0 : State} {a0 a1 a2} (h2 : Same M s0 a2) (hm : 512 ||| M = M) :
    Same M s0 (loadProgram a0 a1 a2) := by
  unfold loadProgram
  repeat' first
    | with_reducible assumption
    | (extract_lets +onlyGivenNames x; first | (refine Same.cut M s0 x ?_ ?_; (focus (dsimp -zeta only [x]; clear x)); rotate_left 1; clear_value x; revert x; intro _ _) | (have hh := fun a => x a; clear hh; dsimp -zeta only [x]; clear x) | (clear_value x; revert x; intro _) | (dsimp -zeta only [x]; clear x))
    | with_reducible refine updPCask_same ?_ (Same.sub hm rfl)
    | with_reducible refine Same.foldl (fun _ _ _ => ?_) ?_
    | split
    | with_reducible refine Same.up_pge ?_ (Same.sub hm rfl)

theorem loadCells_same {M : Nat} {s0 : State} {a0 a1} (h1 : Same M s0 a1) (hm : 1048832 ||| M = M) :
    Same M s0 (loadCells a0 a1) := by
  unfold loadCells
  repeat' first
    | with_reducible assumption
    | (extract_lets +onlyGivenNames x; first | (refine Same.cut M s0 x ?_ ?_; (focus (dsimp -zeta only [x]; clear x)); rotate_left 1; clear_value x; revert x; intro _ _) | (have hh := fun a => x a; clear hh; dsimp -zeta only [x]; clear x) | (clear_value x; revert x; intro _) | (dsimp -zeta only [x]; clear x))
    | with_reducible refine activateCell_same ?_ (Same.sub hm rfl)
    | with_reducible refine Same.foldl (fun _ _ _ => ?_) ?_
    | split
    | with_reducible refine Same.up_trl_pwr ?_ (Same.sub hm rfl) (Same.sub hm rfl)

theorem haltUnused_same {M : Nat} {s0 : State} {a0 a1} (h1 : Same M s0 a1) (hm : 32 ||| M = M) :
    Same M s0 (haltUnused a0 a1) := by
  unfold haltUnused
  repeat' first
    | with_reducible assumption
    | with_reducible refine setIsl_same ?_ (Same.sub hm rfl)
    | with_reducible refine Same.foldl (fun _ _ _ => ?_) ?_
    | split

theorem loadTime_same {M : Nat} {s0 : State} {a0 a1} (h1 : Same M s0 a1) (hm : 262144 ||| M = M) :
    Same M s0 (loadTime a0 a1) := by
  unfold loadTime
  repeat' first
    | with_reducible assumption
    | with_reducible refine updDom_same ?_ (Same.sub hm rfl)
    | with_reducible refine Same.foldl (fun _ _ _ => ?_) ?_
    | split

theorem loadLoops_same {M : Nat} {s0 : State} {a0 a1} (h1 : Same M s0 a1) (hm : 1028 ||| M = M) :
    Same M s0 (loadLoops a0 a1) := by
  unfold loadLoops
  repeat' first
    | with_reducible assumption
    | (extract_lets +onlyGivenNames x; first | (refine Same.cut M s0 x ?_ ?_; (focus (dsimp -zeta only [x]; clear x)); rotate_left 1; clear_value x; revert x; intro _ _) | (have hh := fun a => x a; clear hh; dsimp -zeta only [x]; clear x) | (clear_value x; revert x; intro _) | (dsimp -zeta only [x]; clear x))
    | with_reducible refine updSlot_same ?_ (Same.sub hm rfl)
    | with_reducible refine addSlot_same ?_ (Same.sub hm rfl)
    | with_reducible refine Same.foldl (fun _ _ _ => ?_) ?_
    | split
    | with_reducible refine Same.up_lpe ?_ (Same.sub hm rfl)

theorem loadElem_same {M : Nat} {s0 : State} {a0 a1 a2 a3} (h3 : Same M s0 a3) (hm : 2064 ||| M = M) :
    Same M s0 (loadElem a0 a1 a2 a3) := by
  unfold loadElem
  repeat' first
    | with_reducible assumption
    | (extract_lets +onlyGivenNames x; first | (refine Same.cut M s0 x ?_ ?_; (focus (dsimp -zeta only [x]; clear x)); rotate_left 1; clear_value x; revert x; intro _ _) | (have hh := fun a => x a; clear hh; dsimp -zeta only [x]; clear x) | (clear_value x; revert x; intro _) | (dsimp -zeta only [x]; clear x))
    | with_reducible refine zeroElem_same ?_ (Same.sub hm rfl)
    | split
    | with_reducible refine Same.up_prs ?_ (Same.sub hm rfl)

theorem loadMeter_same {M : Nat} {s0 : State} {a0 a1} (h1 : Same M s0 a1) (hm : 2064 ||| M = M) :
    Same M s0 (loadMeter a0 a1) := by
  unfold loadMeter
  repeat' first
    | with_reducible assumption
    | (extract_lets +onlyGivenNames x; first | (refine Same.cut M s0 x ?_ ?_; (focus (dsimp -zeta only [x]; clear x)); rotate_left 1; clear_value x; revert x; intro _ _) | (have hh := fun a => x a; clear hh; dsimp -zeta only [x]; clear x) | (clear_value x; revert x; intro _) | (dsimp -zeta only [x]; clear x))
    | with_reducible refine updChan_same ?_ (Same.sub hm rfl)
    | with_reducible refine loadElem_same ?_ (Same.sub hm rfl)
    | with_reducible refine Same.foldl (fun _ _ _ => ?_) ?_
    | split
    | with_reducible refine Same.up_prs ?_ (Same.sub hm rfl)

theorem installImage_same {M : Nat} {s0 : State} {a0 a1 a2} (h2 : Same M s0 a2) (hm : 1564596 ||| M = M) :
    Same M s0 (installImage a0 a1 a2) := by
  unfold installImage
  repeat' first
    | with_reducible assumption
    | (extract_lets +onlyGivenNames x; first | (refine Same.cut M s0 x ?_ ?_; (focus (dsimp -zeta only [x]; clear x)); rotate_left 1; clear_value x; revert x; intro _ _) | (have hh := fun a => x a; clear hh; dsimp -zeta only [x]; clear x) | (clear_value x; revert x; intro _) | (dsimp -zeta only [x]; clear x))
    | with_reducible refine loadProgram_same ?_ (Same.sub hm rfl)
    | with_reducible refine loadCells_same ?_ (Same.sub hm rfl)
    | with_reducible refine haltUnused_same ?_ (Same.sub hm rfl)
    | with_reducible refine putTables_same ?_ (Same.sub hm rfl)
    | with_reducible refine loadTime_same ?_ (Same.sub hm rfl)
    | with_reducible refine loadLoops_same ?_ (Same.sub hm rfl)
    | with_reducible refine setLc_same ?_ (Same.sub hm rfl)
    | with_reducible refine noteBypass_same ?_ (Same.sub hm rfl)
    | with_reducible refine loadMeter_same ?_ (Same.sub hm rfl)
    | split
    | with_reducible refine Same.up_img ?_ (Same.sub hm rfl)
    | with_reducible refine Same.up_saf ?_ (Same.sub hm rfl)

end Sys2Proof.Machine
end

