-- ==== Sys2Proof/Laws/FramePress.lean ====
section
/-!
SUPPORT. FramePress.lean: for each operation of Machine/Press.lean, the components of State it can change: the result agrees with the
state it starts from on every component whose bit in the mask is 0 (the bits as in `Same`).
-/
namespace Sys2Proof.Machine
set_option linter.all false

theorem stopTaste_same {M : Nat} {s0 : State} {a0} (h0 : Same M s0 a0) (hm : 2048 ||| M = M) :
    Same M s0 (stopTaste a0) := by
  unfold stopTaste
  repeat' first
    | with_reducible assumption
    | (extract_lets +onlyGivenNames x; first | (refine Same.cut M s0 x ?_ ?_; (focus (dsimp -zeta only [x]; clear x)); rotate_left 1; clear_value x; revert x; intro _ _) | (have hh := fun a => x a; clear hh; dsimp -zeta only [x]; clear x) | (clear_value x; revert x; intro _) | (dsimp -zeta only [x]; clear x))
    | with_reducible refine Same.up_prs ?_ (Same.sub hm rfl)

theorem pressAbortOp_same {M : Nat} {s0 : State} {a0} (h0 : Same M s0 a0) (hm : 2064 ||| M = M) :
    Same M s0 (pressAbortOp a0) := by
  unfold pressAbortOp
  repeat' first
    | with_reducible assumption
    | (extract_lets +onlyGivenNames x; first | (refine Same.cut M s0 x ?_ ?_; (focus (dsimp -zeta only [x]; clear x)); rotate_left 1; clear_value x; revert x; intro _ _) | (have hh := fun a => x a; clear hh; dsimp -zeta only [x]; clear x) | (clear_value x; revert x; intro _) | (dsimp -zeta only [x]; clear x))
    | with_reducible refine record_same ?_ (Same.sub hm rfl)
    | with_reducible refine stopTaste_same ?_ (Same.sub hm rfl)
    | split
    | with_reducible refine Same.up_prs ?_ (Same.sub hm rfl)

theorem execPressAbort_same {M : Nat} {s0 : State} {a0 a1} (h1 : Same M s0 a1) (hm : 1050680 ||| M = M) :
    OutSame M s0 (execPressAbort a0 a1) := by
  unfold execPressAbort
  repeat' first
    | with_reducible assumption
    | with_reducible refine OutSame.next ?_
    | with_reducible refine pressAbortOp_same ?_ (Same.sub hm rfl)
    | with_reducible refine abortCmd_same (fun x0 k0 => ?_) ?_ (Same.sub hm rfl)

theorem acceptRun_same {M : Nat} {s0 : State} {a0 a1 a2 a3} (h3 : Same M s0 a3) (hm : 2064 ||| M = M) :
    Same M s0 (acceptRun a0 a1 a2 a3) := by
  unfold acceptRun
  repeat' first
    | with_reducible assumption
    | (extract_lets +onlyGivenNames x; first | (refine Same.cut M s0 x ?_ ?_; (focus (dsimp -zeta only [x]; clear x)); rotate_left 1; clear_value x; revert x; intro _ _) | (have hh := fun a => x a; clear hh; dsimp -zeta only [x]; clear x) | (clear_value x; revert x; intro _) | (dsimp -zeta only [x]; clear x))
    | with_reducible refine updChan_same ?_ (Same.sub hm rfl)
    | with_reducible refine record_same ?_ (Same.sub hm rfl)
    | split

theorem beginSave_same {M : Nat} {s0 : State} {a0 a1} (h1 : Same M s0 a1) (hm : 2048 ||| M = M) :
    Same M s0 (beginSave a0 a1) := by
  unfold beginSave
  repeat' first
    | with_reducible assumption
    | (extract_lets +onlyGivenNames x; first | (refine Same.cut M s0 x ?_ ?_; (focus (dsimp -zeta only [x]; clear x)); rotate_left 1; clear_value x; revert x; intro _ _) | (have hh := fun a => x a; clear hh; dsimp -zeta only [x]; clear x) | (clear_value x; revert x; intro _) | (dsimp -zeta only [x]; clear x))
    | split
    | with_reducible refine Same.up_prs ?_ (Same.sub hm rfl)

theorem finalSaveOp_same {M : Nat} {s0 : State} {a0} (h0 : Same M s0 a0) (hm : 1050624 ||| M = M) :
    Same M s0 (finalSaveOp a0) := by
  unfold finalSaveOp
  repeat' first
    | with_reducible assumption
    | (extract_lets +onlyGivenNames x; first | (refine Same.cut M s0 x ?_ ?_; (focus (dsimp -zeta only [x]; clear x)); rotate_left 1; clear_value x; revert x; intro _ _) | (have hh := fun a => x a; clear hh; dsimp -zeta only [x]; clear x) | (clear_value x; revert x; intro _) | (dsimp -zeta only [x]; clear x))
    | with_reducible refine beginSave_same ?_ (Same.sub hm rfl)
    | with_reducible refine Same.up_prs_pwr ?_ (Same.sub hm rfl) (Same.sub hm rfl)

theorem takeFinalSave_same {M : Nat} {s0 : State} {a0} (h0 : Same M s0 a0) (hm : 1050624 ||| M = M) :
    Same M s0 (takeFinalSave a0) := by
  unfold takeFinalSave
  repeat' first
    | with_reducible assumption
    | with_reducible refine finalSaveOp_same ?_ (Same.sub hm rfl)
    | split

theorem addTotal_same {M : Nat} {s0 : State} {a0 a1} (h1 : Same M s0 a1) (hm : 2048 ||| M = M) :
    Same M s0 (addTotal a0 a1) := by
  unfold addTotal
  repeat' first
    | with_reducible assumption
    | (extract_lets +onlyGivenNames x; first | (refine Same.cut M s0 x ?_ ?_; (focus (dsimp -zeta only [x]; clear x)); rotate_left 1; clear_value x; revert x; intro _ _) | (have hh := fun a => x a; clear hh; dsimp -zeta only [x]; clear x) | (clear_value x; revert x; intro _) | (dsimp -zeta only [x]; clear x))
    | with_reducible refine Same.foldl (fun _ _ _ => ?_) ?_
    | split
    | with_reducible refine Same.up_prs ?_ (Same.sub hm rfl)

theorem addUncertain_same {M : Nat} {s0 : State} {a0 a1 a2 a3 a4 a5} (h5 : Same M s0 a5) (hm : 2064 ||| M = M) :
    Same M s0 (addUncertain a0 a1 a2 a3 a4 a5) := by
  unfold addUncertain
  repeat' first
    | with_reducible assumption
    | (extract_lets +onlyGivenNames x; first | (refine Same.cut M s0 x ?_ ?_; (focus (dsimp -zeta only [x]; clear x)); rotate_left 1; clear_value x; revert x; intro _ _) | (have hh := fun a => x a; clear hh; dsimp -zeta only [x]; clear x) | (clear_value x; revert x; intro _) | (dsimp -zeta only [x]; clear x))
    | with_reducible refine updElem_same ?_ (Same.sub hm rfl)
    | with_reducible refine record_same ?_ (Same.sub hm rfl)
    | split

theorem beginRun_same {M : Nat} {s0 : State} {a0 a1 a2 a3} (h3 : Same M s0 a3) (hm : 2064 ||| M = M) :
    Same M s0 (beginRun a0 a1 a2 a3) := by
  unfold beginRun
  repeat' first
    | with_reducible assumption
    | (extract_lets +onlyGivenNames x; first | (refine Same.cut M s0 x ?_ ?_; (focus (dsimp -zeta only [x]; clear x)); rotate_left 1; clear_value x; revert x; intro _ _) | (have hh := fun a => x a; clear hh; dsimp -zeta only [x]; clear x) | (clear_value x; revert x; intro _) | (dsimp -zeta only [x]; clear x))
    | with_reducible refine record_same ?_ (Same.sub hm rfl)
    | split
    | with_reducible refine Same.up_prs ?_ (Same.sub hm rfl)

theorem converterFaultOp_same {M : Nat} {s0 : State} {a0 a1 a2} (h2 : Same M s0 a2) (hm : 1149244 ||| M = M) :
    Same M s0 (converterFaultOp a0 a1 a2) := by
  unfold converterFaultOp
  repeat' first
    | with_reducible assumption
    | (extract_lets +onlyGivenNames x; first | (refine Same.cut M s0 x ?_ ?_; (focus (dsimp -zeta only [x]; clear x)); rotate_left 1; clear_value x; revert x; intro _ _) | (have hh := fun a => x a; clear hh; dsimp -zeta only [x]; clear x) | (clear_value x; revert x; intro _) | (dsimp -zeta only [x]; clear x))
    | with_reducible refine publishBlock_same ?_ (Same.sub hm rfl)
    | with_reducible refine updChan_same ?_ (Same.sub hm rfl)
    | with_reducible refine Same.foldl (fun _ _ _ => ?_) ?_
    | split

theorem elementActivationOp_same {M : Nat} {s0 : State} {a0 a1} (h1 : Same M s0 a1) (hm : 1149240 ||| M = M) :
    Same M s0 (elementActivationOp a0 a1) := by
  unfold elementActivationOp
  repeat' first
    | with_reducible assumption
    | (extract_lets +onlyGivenNames x; first | (refine Same.cut M s0 x ?_ ?_; (focus (dsimp -zeta only [x]; clear x)); rotate_left 1; clear_value x; revert x; intro _ _) | (have hh := fun a => x a; clear hh; dsimp -zeta only [x]; clear x) | (clear_value x; revert x; intro _) | (dsimp -zeta only [x]; clear x))
    | with_reducible refine rollWin_same ?_ (Same.sub hm rfl)
    | with_reducible refine activateElem_same ?_ (Same.sub hm rfl)
    | split

theorem setSnapBank_same {M : Nat} {s0 : State} {a0 a1 a2} (h2 : Same M s0 a2) (hm : 2048 ||| M = M) :
    Same M s0 (setSnapBank a0 a1 a2) := by
  unfold setSnapBank
  repeat' first
    | with_reducible assumption
    | (extract_lets +onlyGivenNames x; first | (refine Same.cut M s0 x ?_ ?_; (focus (dsimp -zeta only [x]; clear x)); rotate_left 1; clear_value x; revert x; intro _ _) | (have hh := fun a => x a; clear hh; dsimp -zeta only [x]; clear x) | (clear_value x; revert x; intro _) | (dsimp -zeta only [x]; clear x))
    | split
    | with_reducible refine Same.up_prs ?_ (Same.sub hm rfl)

theorem toPress_same {M : Nat} {s0 : State} {a0 a1} (h0 : ∀ x0, Same M s0 x0 → Same M s0 (a0 x0)) (h1 : Same M s0 a1) (hm : 56 ||| M = M) :
    Same M s0 (toPress a0 a1) := by
  unfold toPress
  repeat' first
    | with_reducible assumption
    | with_reducible refine h0 _ ?_
    | with_reducible refine xchRefuse_same ?_ (Same.sub hm rfl)
    | split

theorem execAccumulatorSnapshot_same {M : Nat} {s0 : State} {a0 a1 a2} (h2 : Same M s0 a2) (hm : 2104 ||| M = M) :
    OutSame M s0 (execAccumulatorSnapshot a0 a1 a2) := by
  unfold execAccumulatorSnapshot
  repeat' first
    | with_reducible assumption
    | (extract_lets +onlyGivenNames x; first | (refine Same.cut M s0 x ?_ ?_; (focus (dsimp -zeta only [x]; clear x)); rotate_left 1; clear_value x; revert x; intro _ _) | (have hh := fun a => x a; clear hh; dsimp -zeta only [x]; clear x) | (clear_value x; revert x; intro _) | (dsimp -zeta only [x]; clear x))
    | with_reducible refine OutSame.next ?_
    | with_reducible refine regCmd_same (fun x0 k0 => ?_) ?_ (Same.sub hm rfl)
    | with_reducible refine denied_same ?_ (Same.sub hm rfl)
    | with_reducible refine setSnapBank_same ?_ (Same.sub hm rfl)
    | with_reducible refine toPress_same (fun x0 k0 => ?_) ?_ (Same.sub hm rfl)
    | split

theorem execElementActivation_same {M : Nat} {s0 : State} {a0 a1} (h1 : Same M s0 a1) (hm : 1149240 ||| M = M) :
    OutSame M s0 (execElementActivation a0 a1) := by
  unfold execElementActivation
  repeat' first
    | with_reducible assumption
    | with_reducible refine OutSame.next ?_
    | with_reducible refine elementActivationOp_same ?_ (Same.sub hm rfl)
    | split

theorem execFinalSaveCommand_same {M : Nat} {s0 : State} {a0} (h0 : Same M s0 a0) (hm : 1050680 ||| M = M) :
    OutSame M s0 (execFinalSaveCommand a0) := by
  unfold execFinalSaveCommand
  repeat' first
    | with_reducible assumption
    | with_reducible refine OutSame.next ?_
    | with_reducible refine xchRefuse_same ?_ (Same.sub hm rfl)
    | with_reducible refine takeFinalSave_same ?_ (Same.sub hm rfl)
    | split

theorem setTasteCode_same {M : Nat} {s0 : State} {a0 a1} (h1 : Same M s0 a1) (hm : 2056 ||| M = M) :
    Same M s0 (setTasteCode a0 a1) := by
  unfold setTasteCode
  repeat' first
    | with_reducible assumption
    | (extract_lets +onlyGivenNames x; first | (refine Same.cut M s0 x ?_ ?_; (focus (dsimp -zeta only [x]; clear x)); rotate_left 1; clear_value x; revert x; intro _ _) | (have hh := fun a => x a; clear hh; dsimp -zeta only [x]; clear x) | (clear_value x; revert x; intro _) | (dsimp -zeta only [x]; clear x))
    | with_reducible refine Same.up_reply_prs ?_ (Same.sub hm rfl) (Same.sub hm rfl)

theorem prsCmd_same {M : Nat} {s0 : State} {a0 a1 a2 a3} (h2 : ∀ x0, Same M s0 x0 → Same M s0 (a2 x0)) (h3 : Same M s0 a3) (hm : 56 ||| M = M) :
    OutSame M s0 (prsCmd a0 a1 a2 a3) := by
  unfold prsCmd
  repeat' first
    | with_reducible assumption
    | with_reducible refine OutSame.next ?_
    | with_reducible refine h2 _ ?_
    | with_reducible refine regCmd_same (fun x0 k0 => ?_) ?_ (Same.sub hm rfl)
    | with_reducible refine toPress_same (fun x0 k0 => ?_) ?_ (Same.sub hm rfl)
    | split

theorem execTastingSingle_same {M : Nat} {s0 : State} {a0 a1 a2 a3 a4} (h4 : Same M s0 a4) (hm : 2104 ||| M = M) :
    OutSame M s0 (execTastingSingle a0 a1 a2 a3 a4) := by
  unfold execTastingSingle
  repeat' first
    | with_reducible assumption
    | (extract_lets +onlyGivenNames x; first | (refine Same.cut M s0 x ?_ ?_; (focus (dsimp -zeta only [x]; clear x)); rotate_left 1; clear_value x; revert x; intro _ _) | (have hh := fun a => x a; clear hh; dsimp -zeta only [x]; clear x) | (clear_value x; revert x; intro _) | (dsimp -zeta only [x]; clear x))
    | with_reducible refine OutSame.next ?_
    | with_reducible refine setTasteCode_same ?_ (Same.sub hm rfl)
    | with_reducible refine prsCmd_same (fun x0 k0 => ?_) ?_ (Same.sub hm rfl)
    | with_reducible refine beginRun_same ?_ (Same.sub hm rfl)
    | split
    | with_reducible refine Same.up_prs ?_ (Same.sub hm rfl)

theorem followRun_same {M : Nat} {s0 : State} {a0 a1 a2} (h2 : Same M s0 a2) (hm : 2064 ||| M = M) :
    Same M s0 (followRun a0 a1 a2) := by
  unfold followRun
  repeat' first
    | with_reducible assumption
    | (extract_lets +onlyGivenNames x; first | (refine Same.cut M s0 x ?_ ?_; (focus (dsimp -zeta only [x]; clear x)); rotate_left 1; clear_value x; revert x; intro _ _) | (have hh := fun a => x a; clear hh; dsimp -zeta only [x]; clear x) | (clear_value x; revert x; intro _) | (dsimp -zeta only [x]; clear x))
    | with_reducible refine beginRun_same ?_ (Same.sub hm rfl)
    | split
    | with_reducible refine Same.up_prs ?_ (Same.sub hm rfl)

theorem execTastingStart_same {M : Nat} {s0 : State} {a0 a1 a2 a3} (h3 : Same M s0 a3) (hm : 2104 ||| M = M) :
    OutSame M s0 (execTastingStart a0 a1 a2 a3) := by
  unfold execTastingStart
  repeat' first
    | with_reducible assumption
    | (extract_lets +onlyGivenNames x; first | (refine Same.cut M s0 x ?_ ?_; (focus (dsimp -zeta only [x]; clear x)); rotate_left 1; clear_value x; revert x; intro _ _) | (have hh := fun a => x a; clear hh; dsimp -zeta only [x]; clear x) | (clear_value x; revert x; intro _) | (dsimp -zeta only [x]; clear x))
    | with_reducible refine OutSame.next ?_
    | with_reducible refine setTasteCode_same ?_ (Same.sub hm rfl)
    | with_reducible refine followRun_same ?_ (Same.sub hm rfl)
    | with_reducible refine prsCmd_same (fun x0 k0 => ?_) ?_ (Same.sub hm rfl)
    | with_reducible refine Same.up_prs ?_ (Same.sub hm rfl)

theorem execTastingStop_same {M : Nat} {s0 : State} {a0 a1} (h1 : Same M s0 a1) (hm : 2104 ||| M = M) :
    OutSame M s0 (execTastingStop a0 a1) := by
  unfold execTastingStop
  repeat' first
    | with_reducible assumption
    | with_reducible refine OutSame.next ?_
    | with_reducible refine setTasteCode_same ?_ (Same.sub hm rfl)
    | with_reducible refine prsCmd_same (fun x0 k0 => ?_) ?_ (Same.sub hm rfl)
    | with_reducible refine stopTaste_same ?_ (Same.sub hm rfl)

theorem setPrsStatus_same {M : Nat} {s0 : State} {a0 a1 a2} (h2 : Same M s0 a2) (hm : 2056 ||| M = M) :
    Same M s0 (setPrsStatus a0 a1 a2) := by
  unfold setPrsStatus
  repeat' first
    | with_reducible assumption
    | (extract_lets +onlyGivenNames x; first | (refine Same.cut M s0 x ?_ ?_; (focus (dsimp -zeta only [x]; clear x)); rotate_left 1; clear_value x; revert x; intro _ _) | (have hh := fun a => x a; clear hh; dsimp -zeta only [x]; clear x) | (clear_value x; revert x; intro _) | (dsimp -zeta only [x]; clear x))
    | split
    | with_reducible refine Same.up_reply_prs ?_ (Same.sub hm rfl) (Same.sub hm rfl)

theorem execMdReset_same {M : Nat} {s0 : State} {a0 a1 a2} (h2 : Same M s0 a2) (hm : 2104 ||| M = M) :
    OutSame M s0 (execMdReset a0 a1 a2) := by
  unfold execMdReset
  repeat' first
    | with_reducible assumption
    | with_reducible refine OutSame.next ?_
    | with_reducible refine updElem_same ?_ (Same.sub hm rfl)
    | with_reducible refine setPrsStatus_same ?_ (Same.sub hm rfl)
    | with_reducible refine prsCmd_same (fun x0 k0 => ?_) ?_ (Same.sub hm rfl)
    | split

theorem execTariffClear_same {M : Nat} {s0 : State} {a0 a1 a2} (h2 : Same M s0 a2) (hm : 2104 ||| M = M) :
    OutSame M s0 (execTariffClear a0 a1 a2) := by
  unfold execTariffClear
  repeat' first
    | with_reducible assumption
    | (extract_lets +onlyGivenNames x; first | (refine Same.cut M s0 x ?_ ?_; (focus (dsimp -zeta only [x]; clear x)); rotate_left 1; clear_value x; revert x; intro _ _) | (have hh := fun a => x a; clear hh; dsimp -zeta only [x]; clear x) | (clear_value x; revert x; intro _) | (dsimp -zeta only [x]; clear x))
    | with_reducible refine OutSame.next ?_
    | with_reducible refine setPrsStatus_same ?_ (Same.sub hm rfl)
    | with_reducible refine prsCmd_same (fun x0 k0 => ?_) ?_ (Same.sub hm rfl)
    | split
    | with_reducible refine Same.up_prs ?_ (Same.sub hm rfl)

theorem execTariffPush_same {M : Nat} {s0 : State} {a0 a1 a2 a3} (h3 : Same M s0 a3) (hm : 2104 ||| M = M) :
    OutSame M s0 (execTariffPush a0 a1 a2 a3) := by
  unfold execTariffPush
  repeat' first
    | with_reducible assumption
    | (extract_lets +onlyGivenNames x; first | (refine Same.cut M s0 x ?_ ?_; (focus (dsimp -zeta only [x]; clear x)); rotate_left 1; clear_value x; revert x; intro _ _) | (have hh := fun a => x a; clear hh; dsimp -zeta only [x]; clear x) | (clear_value x; revert x; intro _) | (dsimp -zeta only [x]; clear x))
    | with_reducible refine OutSame.next ?_
    | with_reducible refine setPrsStatus_same ?_ (Same.sub hm rfl)
    | with_reducible refine prsCmd_same (fun x0 k0 => ?_) ?_ (Same.sub hm rfl)
    | split
    | with_reducible refine Same.up_prs ?_ (Same.sub hm rfl)

theorem execGainStepUp_same {M : Nat} {s0 : State} {a0 a1} (h1 : Same M s0 a1) (hm : 2048 ||| M = M) :
    OutSame M s0 (execGainStepUp a0 a1) := by
  unfold execGainStepUp
  repeat' first
    | with_reducible assumption
    | (extract_lets +onlyGivenNames x; first | (refine Same.cut M s0 x ?_ ?_; (focus (dsimp -zeta only [x]; clear x)); rotate_left 1; clear_value x; revert x; intro _ _) | (have hh := fun a => x a; clear hh; dsimp -zeta only [x]; clear x) | (clear_value x; revert x; intro _) | (dsimp -zeta only [x]; clear x))
    | with_reducible refine OutSame.next ?_
    | with_reducible refine updChan_same ?_ (Same.sub hm rfl)
    | split

theorem execHandoverEnd_same {M : Nat} {s0 : State} {a0 a1} (h1 : Same M s0 a1) (hm : 2048 ||| M = M) :
    OutSame M s0 (execHandoverEnd a0 a1) := by
  unfold execHandoverEnd
  repeat' first
    | with_reducible assumption
    | (extract_lets +onlyGivenNames x; first | (refine Same.cut M s0 x ?_ ?_; (focus (dsimp -zeta only [x]; clear x)); rotate_left 1; clear_value x; revert x; intro _ _) | (have hh := fun a => x a; clear hh; dsimp -zeta only [x]; clear x) | (clear_value x; revert x; intro _) | (dsimp -zeta only [x]; clear x))
    | with_reducible refine OutSame.next ?_
    | with_reducible refine updChan_same ?_ (Same.sub hm rfl)
    | split

theorem startUnmeasured_same {M : Nat} {s0 : State} {a0} (h0 : Same M s0 a0) (hm : 2048 ||| M = M) :
    Same M s0 (startUnmeasured a0) := by
  unfold startUnmeasured
  repeat' first
    | with_reducible assumption
    | (extract_lets +onlyGivenNames x; first | (refine Same.cut M s0 x ?_ ?_; (focus (dsimp -zeta only [x]; clear x)); rotate_left 1; clear_value x; revert x; intro _ _) | (have hh := fun a => x a; clear hh; dsimp -zeta only [x]; clear x) | (clear_value x; revert x; intro _) | (dsimp -zeta only [x]; clear x))
    | split
    | with_reducible refine Same.up_prs ?_ (Same.sub hm rfl)

theorem pressEnterRun_same {M : Nat} {s0 : State} {a0} (h0 : Same M s0 a0) (hm : 2048 ||| M = M) :
    Same M s0 (pressEnterRun a0) := by
  unfold pressEnterRun
  repeat' first
    | with_reducible assumption
    | (extract_lets +onlyGivenNames x; first | (refine Same.cut M s0 x ?_ ?_; (focus (dsimp -zeta only [x]; clear x)); rotate_left 1; clear_value x; revert x; intro _ _) | (have hh := fun a => x a; clear hh; dsimp -zeta only [x]; clear x) | (clear_value x; revert x; intro _) | (dsimp -zeta only [x]; clear x))
    | with_reducible refine Same.up_prs ?_ (Same.sub hm rfl)

theorem execPeriodicSave_same {M : Nat} {s0 : State} {a0} (h0 : Same M s0 a0) (hm : 2048 ||| M = M) :
    OutSame M s0 (execPeriodicSave a0) := by
  unfold execPeriodicSave
  repeat' first
    | with_reducible assumption
    | (extract_lets +onlyGivenNames x; first | (refine Same.cut M s0 x ?_ ?_; (focus (dsimp -zeta only [x]; clear x)); rotate_left 1; clear_value x; revert x; intro _ _) | (have hh := fun a => x a; clear hh; dsimp -zeta only [x]; clear x) | (clear_value x; revert x; intro _) | (dsimp -zeta only [x]; clear x))
    | with_reducible refine OutSame.next ?_
    | with_reducible refine beginSave_same ?_ (Same.sub hm rfl)
    | split
    | with_reducible refine Same.up_prs ?_ (Same.sub hm rfl)

theorem execPressConverterFault_same {M : Nat} {s0 : State} {a0 a1 a2} (h2 : Same M s0 a2) (hm : 1149244 ||| M = M) :
    OutSame M s0 (execPressConverterFault a0 a1 a2) := by
  unfold execPressConverterFault
  repeat' first
    | with_reducible assumption
    | with_reducible refine OutSame.next ?_
    | with_reducible refine converterFaultOp_same ?_ (Same.sub hm rfl)
    | split

theorem execPressHoldFull_same {M : Nat} {s0 : State} {a0} (h0 : Same M s0 a0) (hm : 2048 ||| M = M) :
    OutSame M s0 (execPressHoldFull a0) := by
  unfold execPressHoldFull
  repeat' first
    | with_reducible assumption
    | (extract_lets +onlyGivenNames x; first | (refine Same.cut M s0 x ?_ ?_; (focus (dsimp -zeta only [x]; clear x)); rotate_left 1; clear_value x; revert x; intro _ _) | (have hh := fun a => x a; clear hh; dsimp -zeta only [x]; clear x) | (clear_value x; revert x; intro _) | (dsimp -zeta only [x]; clear x))
    | with_reducible refine OutSame.next ?_
    | split
    | with_reducible refine Same.up_prs ?_ (Same.sub hm rfl)

theorem execPressPointsLost_same {M : Nat} {s0 : State} {a0 a1} (h1 : Same M s0 a1) (hm : 1149200 ||| M = M) :
    OutSame M s0 (execPressPointsLost a0 a1) := by
  unfold execPressPointsLost
  repeat' first
    | with_reducible assumption
    | with_reducible refine OutSame.next ?_
    | with_reducible refine updElem_same ?_ (Same.sub hm rfl)
    | with_reducible refine substituteAll_same ?_ (Same.sub hm rfl)
    | split

theorem restoreElem_same {M : Nat} {s0 : State} {a0 a1 a2 a3} (h3 : Same M s0 a3) (hm : 2064 ||| M = M) :
    Same M s0 (restoreElem a0 a1 a2 a3) := by
  unfold restoreElem
  repeat' first
    | with_reducible assumption
    | (extract_lets +onlyGivenNames x; first | (refine Same.cut M s0 x ?_ ?_; (focus (dsimp -zeta only [x]; clear x)); rotate_left 1; clear_value x; revert x; intro _ _) | (have hh := fun a => x a; clear hh; dsimp -zeta only [x]; clear x) | (clear_value x; revert x; intro _) | (dsimp -zeta only [x]; clear x))
    | with_reducible refine zeroElem_same ?_ (Same.sub hm rfl)
    | with_reducible refine updElem_same ?_ (Same.sub hm rfl)
    | split
    | with_reducible refine Same.up_prs ?_ (Same.sub hm rfl)

theorem restoreBank_same {M : Nat} {s0 : State} {a0 a1} (h1 : Same M s0 a1) (hm : 2064 ||| M = M) :
    Same M s0 (restoreBank a0 a1) := by
  unfold restoreBank
  repeat' first
    | with_reducible assumption
    | (extract_lets +onlyGivenNames x; first | (refine Same.cut M s0 x ?_ ?_; (focus (dsimp -zeta only [x]; clear x)); rotate_left 1; clear_value x; revert x; intro _ _) | (have hh := fun a => x a; clear hh; dsimp -zeta only [x]; clear x) | (clear_value x; revert x; intro _) | (dsimp -zeta only [x]; clear x))
    | with_reducible refine restoreElem_same ?_ (Same.sub hm rfl)
    | with_reducible refine updChan_same ?_ (Same.sub hm rfl)
    | with_reducible refine updPulse_same ?_ (Same.sub hm rfl)
    | with_reducible refine Same.foldl (fun _ _ _ => ?_) ?_
    | split
    | with_reducible refine Same.up_prs ?_ (Same.sub hm rfl)

theorem settleRet_same {M : Nat} {s0 : State} {a0 a1 a2} (h2 : Same M s0 a2) (hm : 2064 ||| M = M) :
    Same M s0 (settleRet a0 a1 a2) := by
  unfold settleRet
  repeat' first
    | with_reducible assumption
    | (extract_lets +onlyGivenNames x; first | (refine Same.cut M s0 x ?_ ?_; (focus (dsimp -zeta only [x]; clear x)); rotate_left 1; clear_value x; revert x; intro _ _) | (have hh := fun a => x a; clear hh; dsimp -zeta only [x]; clear x) | (clear_value x; revert x; intro _) | (dsimp -zeta only [x]; clear x))
    | with_reducible refine addUncertain_same ?_ (Same.sub hm rfl)
    | with_reducible refine Same.foldl (fun _ _ _ => ?_) ?_
    | split

theorem restoreOp_same {M : Nat} {s0 : State} {a0} (h0 : Same M s0 a0) (hm : 1149244 ||| M = M) :
    Same M s0 (restoreOp a0) := by
  unfold restoreOp
  repeat' first
    | with_reducible assumption
    | (extract_lets +onlyGivenNames x; first | (refine Same.cut M s0 x ?_ ?_; (focus (dsimp -zeta only [x]; clear x)); rotate_left 1; clear_value x; revert x; intro _ _) | (have hh := fun a => x a; clear hh; dsimp -zeta only [x]; clear x) | (clear_value x; revert x; intro _) | (dsimp -zeta only [x]; clear x))
    | with_reducible refine restoreBank_same ?_ (Same.sub hm rfl)
    | with_reducible refine bookSample_same ?_ (Same.sub hm rfl)
    | with_reducible refine record_same ?_ (Same.sub hm rfl)
    | with_reducible refine addUncertain_same ?_ (Same.sub hm rfl)
    | with_reducible refine settleRet_same ?_ (Same.sub hm rfl)
    | with_reducible refine Same.foldl (fun _ _ _ => ?_) ?_
    | split
    | with_reducible refine Same.up_prs ?_ (Same.sub hm rfl)

theorem execPressRestoreComplete_same {M : Nat} {s0 : State} {a0} (h0 : Same M s0 a0) (hm : 1149244 ||| M = M) :
    OutSame M s0 (execPressRestoreComplete a0) := by
  unfold execPressRestoreComplete
  repeat' first
    | with_reducible assumption
    | with_reducible refine OutSame.next ?_
    | with_reducible refine restoreOp_same ?_ (Same.sub hm rfl)
    | split

theorem restartTaste_same {M : Nat} {s0 : State} {a0} (h0 : Same M s0 a0) (hm : 2068 ||| M = M) :
    Same M s0 (restartTaste a0) := by
  unfold restartTaste
  repeat' first
    | with_reducible assumption
    | (extract_lets +onlyGivenNames x; first | (refine Same.cut M s0 x ?_ ?_; (focus (dsimp -zeta only [x]; clear x)); rotate_left 1; clear_value x; revert x; intro _ _) | (have hh := fun a => x a; clear hh; dsimp -zeta only [x]; clear x) | (clear_value x; revert x; intro _) | (dsimp -zeta only [x]; clear x))
    | with_reducible refine followRun_same ?_ (Same.sub hm rfl)
    | with_reducible refine bumpFree_same ?_ (Same.sub hm rfl)
    | split

theorem tasteSample_same {M : Nat} {s0 : State} {a0 a1 a2} (h2 : Same M s0 a2) (hm : 2048 ||| M = M) :
    Same M s0 (tasteSample a0 a1 a2) := by
  unfold tasteSample
  repeat' first
    | with_reducible assumption
    | (extract_lets +onlyGivenNames x; first | (refine Same.cut M s0 x ?_ ?_; (focus (dsimp -zeta only [x]; clear x)); rotate_left 1; clear_value x; revert x; intro _ _) | (have hh := fun a => x a; clear hh; dsimp -zeta only [x]; clear x) | (clear_value x; revert x; intro _) | (dsimp -zeta only [x]; clear x))
    | split
    | with_reducible refine Same.up_prs ?_ (Same.sub hm rfl)

theorem pressSampleOp_same {M : Nat} {s0 : State} {a0 a1 a2 a3} (h3 : Same M s0 a3) (hm : 1149244 ||| M = M) :
    Same M s0 (pressSampleOp a0 a1 a2 a3) := by
  unfold pressSampleOp
  repeat' first
    | with_reducible assumption
    | (extract_lets +onlyGivenNames x; first | (refine Same.cut M s0 x ?_ ?_; (focus (dsimp -zeta only [x]; clear x)); rotate_left 1; clear_value x; revert x; intro _ _) | (refine Same.cut M s0 x.1 ?_ ?_; (focus (dsimp -zeta only [x]; clear x)); rotate_left 1; clear_value x; revert x; intro _ _) | (have hh := fun a => x a; clear hh; dsimp -zeta only [x]; clear x) | (clear_value x; revert x; intro _) | (dsimp -zeta only [x]; clear x))
    | with_reducible refine restartTaste_same ?_ (Same.sub hm rfl)
    | with_reducible refine bumpFree_same ?_ (Same.sub hm rfl)
    | with_reducible refine sampleChans_same ?_ (Same.sub hm rfl)
    | with_reducible refine Same.fst ‹_› (sampleChans_same ?_ (Same.sub hm rfl))
    | with_reducible refine sampleSystems_same ?_ (Same.sub hm rfl)
    | with_reducible refine bookSample_same ?_ (Same.sub hm rfl)
    | with_reducible refine sampleElems_same ?_ (Same.sub hm rfl)
    | with_reducible refine Same.fst ‹_› (sampleElems_same ?_ (Same.sub hm rfl))
    | with_reducible refine tasteSample_same ?_ (Same.sub hm rfl)
    | with_reducible refine addTotal_same ?_ (Same.sub hm rfl)
    | with_reducible refine Same.snd ‹_› ?_
    | with_reducible refine Same.fst ‹_› ?_
    | with_reducible refine Same.foldl1 (fun _ _ _ => ?_) ?_
    | with_reducible refine Same.foldl2 (fun _ _ _ => ?_) ?_
    | split
    | with_reducible refine Same.up_prs ?_ (Same.sub hm rfl)

theorem execPressSample_same {M : Nat} {s0 : State} {a0 a1 a2 a3} (h3 : Same M s0 a3) (hm : 1149244 ||| M = M) :
    OutSame M s0 (execPressSample a0 a1 a2 a3) := by
  unfold execPressSample
  repeat' first
    | with_reducible assumption
    | with_reducible refine OutSame.next ?_
    | with_reducible refine pressSampleOp_same ?_ (Same.sub hm rfl)
    | split

theorem execPrsDirChange_same {M : Nat} {s0 : State} {a0 a1} (h1 : Same M s0 a1) (hm : 1149240 ||| M = M) :
    OutSame M s0 (execPrsDirChange a0 a1) := by
  unfold execPrsDirChange
  repeat' first
    | with_reducible assumption
    | (extract_lets +onlyGivenNames x; first | (refine Same.cut M s0 x ?_ ?_; (focus (dsimp -zeta only [x]; clear x)); rotate_left 1; clear_value x; revert x; intro _ _) | (have hh := fun a => x a; clear hh; dsimp -zeta only [x]; clear x) | (clear_value x; revert x; intro _) | (dsimp -zeta only [x]; clear x))
    | with_reducible refine OutSame.next ?_
    | with_reducible refine updElem_same ?_ (Same.sub hm rfl)
    | with_reducible refine record_same ?_ (Same.sub hm rfl)
    | with_reducible refine writeElem_same ?_ (Same.sub hm rfl)
    | split

theorem phaseLossOp_same {M : Nat} {s0 : State} {a0 a1 a2} (h2 : Same M s0 a2) (hm : 2064 ||| M = M) :
    Same M s0 (phaseLossOp a0 a1 a2) := by
  unfold phaseLossOp
  repeat' first
    | with_reducible assumption
    | (extract_lets +onlyGivenNames x; first | (refine Same.cut M s0 x ?_ ?_; (focus (dsimp -zeta only [x]; clear x)); rotate_left 1; clear_value x; revert x; intro _ _) | (have hh := fun a => x a; clear hh; dsimp -zeta only [x]; clear x) | (clear_value x; revert x; intro _) | (dsimp -zeta only [x]; clear x))
    | with_reducible refine updElem_same ?_ (Same.sub hm rfl)
    | with_reducible refine record_same ?_ (Same.sub hm rfl)
    | with_reducible refine flagWin_same ?_ (Same.sub hm rfl)
    | split

theorem execPrsPhaseLoss_same {M : Nat} {s0 : State} {a0 a1} (h1 : Same M s0 a1) (hm : 2064 ||| M = M) :
    OutSame M s0 (execPrsPhaseLoss a0 a1) := by
  unfold execPrsPhaseLoss
  repeat' first
    | with_reducible assumption
    | with_reducible refine OutSame.next ?_
    | with_reducible refine phaseLossOp_same ?_ (Same.sub hm rfl)
    | with_reducible refine Same.foldl (fun _ _ _ => ?_) ?_
    | split

theorem execPrsWatchEnd_same {M : Nat} {s0 : State} {a0} (h0 : Same M s0 a0) (hm : 2064 ||| M = M) :
    OutSame M s0 (execPrsWatchEnd a0) := by
  unfold execPrsWatchEnd
  repeat' first
    | with_reducible assumption
    | with_reducible refine OutSame.next ?_
    | with_reducible refine updElem_same ?_ (Same.sub hm rfl)
    | with_reducible refine record_same ?_ (Same.sub hm rfl)
    | with_reducible refine Same.foldl (fun _ _ _ => ?_) ?_
    | split

theorem execPrsWatchLost_same {M : Nat} {s0 : State} {a0 a1} (h1 : Same M s0 a1) (hm : 2048 ||| M = M) :
    OutSame M s0 (execPrsWatchLost a0 a1) := by
  unfold execPrsWatchLost
  repeat' first
    | with_reducible assumption
    | (extract_lets +onlyGivenNames x; first | (refine Same.cut M s0 x ?_ ?_; (focus (dsimp -zeta only [x]; clear x)); rotate_left 1; clear_value x; revert x; intro _ _) | (have hh := fun a => x a; clear hh; dsimp -zeta only [x]; clear x) | (clear_value x; revert x; intro _) | (dsimp -zeta only [x]; clear x))
    | with_reducible refine OutSame.next ?_
    | split
    | with_reducible refine Same.up_prs ?_ (Same.sub hm rfl)

theorem startWatches_same {M : Nat} {s0 : State} {a0 a1} (h1 : Same M s0 a1) (hm : 2064 ||| M = M) :
    Same M s0 (startWatches a0 a1) := by
  unfold startWatches
  repeat' first
    | with_reducible assumption
    | (extract_lets +onlyGivenNames x; first | (refine Same.cut M s0 x ?_ ?_; (focus (dsimp -zeta only [x]; clear x)); rotate_left 1; clear_value x; revert x; intro _ _) | (have hh := fun a => x a; clear hh; dsimp -zeta only [x]; clear x) | (clear_value x; revert x; intro _) | (dsimp -zeta only [x]; clear x))
    | with_reducible refine updElem_same ?_ (Same.sub hm rfl)
    | with_reducible refine record_same ?_ (Same.sub hm rfl)
    | with_reducible refine Same.foldl (fun _ _ _ => ?_) ?_
    | split
    | with_reducible refine Same.up_prs ?_ (Same.sub hm rfl)

theorem execPrsWatchStart_same {M : Nat} {s0 : State} {a0} (h0 : Same M s0 a0) (hm : 2064 ||| M = M) :
    OutSame M s0 (execPrsWatchStart a0) := by
  unfold execPrsWatchStart
  repeat' first
    | with_reducible assumption
    | (extract_lets +onlyGivenNames x; first | (refine Same.cut M s0 x ?_ ?_; (focus (dsimp -zeta only [x]; clear x)); rotate_left 1; clear_value x; revert x; intro _ _) | (have hh := fun a => x a; clear hh; dsimp -zeta only [x]; clear x) | (clear_value x; revert x; intro _) | (dsimp -zeta only [x]; clear x))
    | with_reducible refine OutSame.next ?_
    | with_reducible refine startWatches_same ?_ (Same.sub hm rfl)
    | split

theorem execPulseEnd_same {M : Nat} {s0 : State} {a0 a1} (h1 : Same M s0 a1) (hm : 2048 ||| M = M) :
    OutSame M s0 (execPulseEnd a0 a1) := by
  unfold execPulseEnd
  repeat' first
    | with_reducible assumption
    | (extract_lets +onlyGivenNames x; first | (refine Same.cut M s0 x ?_ ?_; (focus (dsimp -zeta only [x]; clear x)); rotate_left 1; clear_value x; revert x; intro _ _) | (have hh := fun a => x a; clear hh; dsimp -zeta only [x]; clear x) | (clear_value x; revert x; intro _) | (dsimp -zeta only [x]; clear x))
    | with_reducible refine OutSame.next ?_
    | split
    | with_reducible refine Same.up_prs ?_ (Same.sub hm rfl)

theorem execPulseStart_same {M : Nat} {s0 : State} {a0 a1} (h1 : Same M s0 a1) (hm : 2048 ||| M = M) :
    OutSame M s0 (execPulseStart a0 a1) := by
  unfold execPulseStart
  repeat' first
    | with_reducible assumption
    | (extract_lets +onlyGivenNames x; first | (refine Same.cut M s0 x ?_ ?_; (focus (dsimp -zeta only [x]; clear x)); rotate_left 1; clear_value x; revert x; intro _ _) | (have hh := fun a => x a; clear hh; dsimp -zeta only [x]; clear x) | (clear_value x; revert x; intro _) | (dsimp -zeta only [x]; clear x))
    | with_reducible refine OutSame.next ?_
    | split
    | with_reducible refine Same.up_prs ?_ (Same.sub hm rfl)

theorem saveCommitOp_same {M : Nat} {s0 : State} {a0 a1} (h1 : Same M s0 a1) (hm : 1050640 ||| M = M) :
    Same M s0 (saveCommitOp a0 a1) := by
  unfold saveCommitOp
  repeat' first
    | with_reducible assumption
    | (extract_lets +onlyGivenNames x; first | (refine Same.cut M s0 x ?_ ?_; (focus (dsimp -zeta only [x]; clear x)); rotate_left 1; clear_value x; revert x; intro _ _) | (have hh := fun a => x a; clear hh; dsimp -zeta only [x]; clear x) | (clear_value x; revert x; intro _) | (dsimp -zeta only [x]; clear x))
    | with_reducible refine record_same ?_ (Same.sub hm rfl)
    | split
    | with_reducible refine Same.up_prs ?_ (Same.sub hm rfl)
    | with_reducible refine Same.up_pwr ?_ (Same.sub hm rfl)

theorem execSaveCommit_same {M : Nat} {s0 : State} {a0 a1} (h1 : Same M s0 a1) (hm : 1050640 ||| M = M) :
    OutSame M s0 (execSaveCommit a0 a1) := by
  unfold execSaveCommit
  repeat' first
    | with_reducible assumption
    | with_reducible refine OutSame.next ?_
    | with_reducible refine saveCommitOp_same ?_ (Same.sub hm rfl)

theorem execSnapshotComplete_same {M : Nat} {s0 : State} {a0 a1} (h1 : Same M s0 a1) (hm : 2048 ||| M = M) :
    OutSame M s0 (execSnapshotComplete a0 a1) := by
  unfold execSnapshotComplete
  repeat' first
    | with_reducible assumption
    | (extract_lets +onlyGivenNames x; first | (refine Same.cut M s0 x ?_ ?_; (focus (dsimp -zeta only [x]; clear x)); rotate_left 1; clear_value x; revert x; intro _ _) | (have hh := fun a => x a; clear hh; dsimp -zeta only [x]; clear x) | (clear_value x; revert x; intro _) | (dsimp -zeta only [x]; clear x))
    | with_reducible refine OutSame.next ?_
    | with_reducible refine setSnapBank_same ?_ (Same.sub hm rfl)
    | split

theorem rejectRun_same {M : Nat} {s0 : State} {a0 a1} (h1 : Same M s0 a1) (hm : 2064 ||| M = M) :
    Same M s0 (rejectRun a0 a1) := by
  unfold rejectRun
  repeat' first
    | with_reducible assumption
    | (extract_lets +onlyGivenNames x; first | (refine Same.cut M s0 x ?_ ?_; (focus (dsimp -zeta only [x]; clear x)); rotate_left 1; clear_value x; revert x; intro _ _) | (have hh := fun a => x a; clear hh; dsimp -zeta only [x]; clear x) | (clear_value x; revert x; intro _) | (dsimp -zeta only [x]; clear x))
    | with_reducible refine updChan_same ?_ (Same.sub hm rfl)
    | with_reducible refine record_same ?_ (Same.sub hm rfl)
    | split

theorem judgeRun_same {M : Nat} {s0 : State} {a0} (h0 : Same M s0 a0) (hm : 2064 ||| M = M) :
    Same M s0 (judgeRun a0) := by
  unfold judgeRun
  repeat' first
    | with_reducible assumption
    | (extract_lets +onlyGivenNames x; first | (refine Same.cut M s0 x ?_ ?_; (focus (dsimp -zeta only [x]; clear x)); rotate_left 1; clear_value x; revert x; intro _ _) | (have hh := fun a => x a; clear hh; dsimp -zeta only [x]; clear x) | (clear_value x; revert x; intro _) | (dsimp -zeta only [x]; clear x))
    | with_reducible refine rejectRun_same ?_ (Same.sub hm rfl)
    | with_reducible refine acceptRun_same ?_ (Same.sub hm rfl)
    | split
    | with_reducible refine Same.up_prs ?_ (Same.sub hm rfl)

theorem execTastingRunComplete_same {M : Nat} {s0 : State} {a0 a1 a2} (h2 : Same M s0 a2) (hm : 2064 ||| M = M) :
    OutSame M s0 (execTastingRunComplete a0 a1 a2) := by
  unfold execTastingRunComplete
  repeat' first
    | with_reducible assumption
    | with_reducible refine OutSame.next ?_
    | with_reducible refine followRun_same ?_ (Same.sub hm rfl)
    | with_reducible refine judgeRun_same ?_ (Same.sub hm rfl)
    | split

theorem execWatchSecond_same {M : Nat} {s0 : State} {a0 a1} (h1 : Same M s0 a1) (hm : 2052 ||| M = M) :
    OutSame M s0 (execWatchSecond a0 a1) := by
  unfold execWatchSecond
  repeat' first
    | with_reducible assumption
    | (extract_lets +onlyGivenNames x; first | (refine Same.cut M s0 x ?_ ?_; (focus (dsimp -zeta only [x]; clear x)); rotate_left 1; clear_value x; revert x; intro _ _) | (have hh := fun a => x a; clear hh; dsimp -zeta only [x]; clear x) | (clear_value x; revert x; intro _) | (dsimp -zeta only [x]; clear x))
    | with_reducible refine OutSame.next ?_
    | with_reducible refine bumpFree_same ?_ (Same.sub hm rfl)
    | split
    | with_reducible refine Same.up_prs ?_ (Same.sub hm rfl)

theorem zeroCrossOp_same {M : Nat} {s0 : State} {a0 a1 a2} (h2 : Same M s0 a2) (hm : 2048 ||| M = M) :
    Same M s0 (zeroCrossOp a0 a1 a2) := by
  unfold zeroCrossOp
  repeat' first
    | with_reducible assumption
    | (extract_lets +onlyGivenNames x; first | (refine Same.cut M s0 x ?_ ?_; (focus (dsimp -zeta only [x]; clear x)); rotate_left 1; clear_value x; revert x; intro _ _) | (have hh := fun a => x a; clear hh; dsimp -zeta only [x]; clear x) | (clear_value x; revert x; intro _) | (dsimp -zeta only [x]; clear x))
    | with_reducible refine updVsys_same ?_ (Same.sub hm rfl)
    | split

theorem execZeroCrossing_same {M : Nat} {s0 : State} {a0 a1 a2} (h2 : Same M s0 a2) (hm : 2048 ||| M = M) :
    OutSame M s0 (execZeroCrossing a0 a1 a2) := by
  unfold execZeroCrossing
  repeat' first
    | with_reducible assumption
    | with_reducible refine OutSame.next ?_
    | with_reducible refine zeroCrossOp_same ?_ (Same.sub hm rfl)
    | split

end Sys2Proof.Machine
end

