-- ==== Sys2Proof/Laws/FrameResetOps.lean ====
section
/-!
SUPPORT. FrameResetOps.lean: for each operation of Machine/ResetOps.lean, the components of State it can change: the result agrees with the
state it starts from on every component whose bit in the mask is 0 (the bits as in `Same`).
-/
namespace Sys2Proof.Machine
set_option linter.all false

theorem requestReset_same {M : Nat} {s0 : State} {a0 a1 a2} (h2 : Same M s0 a2) (hm : 1050624 ||| M = M) :
    Same M s0 (requestReset a0 a1 a2) := by
  unfold requestReset
  repeat' first
    | with_reducible assumption
    | (extract_lets +onlyGivenNames x; first | (refine Same.cut M s0 x ?_ ?_; (focus (dsimp -zeta only [x]; clear x)); rotate_left 1; clear_value x; revert x; intro _ _) | (have hh := fun a => x a; clear hh; dsimp -zeta only [x]; clear x) | (clear_value x; revert x; intro _) | (dsimp -zeta only [x]; clear x))
    | with_reducible refine takeFinalSave_same ?_ (Same.sub hm rfl)
    | split
    | with_reducible refine Same.up_pwr ?_ (Same.sub hm rfl)

end Sys2Proof.Machine
end

