-- ==== Sys2Proof/Laws/FrameUpdOps.lean ====
section
/-!
SUPPORT. FrameUpdOps.lean: for each operation of Machine/UpdOps.lean, the components of State it can change: the result agrees with the
state it starts from on every component whose bit in the mask is 0 (the bits as in `Same`).
-/
namespace Sys2Proof.Machine
set_option linter.all false

theorem writeRack_same {M : Nat} {s0 : State} {a0 a1} (h1 : Same M s0 a1) (hm : 524288 ||| M = M) :
    Same M s0 (writeRack a0 a1) := by
  unfold writeRack
  repeat' first
    | with_reducible assumption
    | (extract_lets +onlyGivenNames x; first | (refine Same.cut M s0 x ?_ ?_; (focus (dsimp -zeta only [x]; clear x)); rotate_left 1; clear_value x; revert x; intro _ _) | (have hh := fun a => x a; clear hh; dsimp -zeta only [x]; clear x) | (clear_value x; revert x; intro _) | (dsimp -zeta only [x]; clear x))
    | with_reducible refine Same.up_upd ?_ (Same.sub hm rfl)

theorem updTargets_same {M : Nat} {s0 : State} {a0 a1} (h1 : Same M s0 a1) (hm : 524288 ||| M = M) :
    Same M s0 (updTargets a0 a1) := by
  unfold updTargets
  repeat' first
    | with_reducible assumption
    | (extract_lets +onlyGivenNames x; first | (refine Same.cut M s0 x ?_ ?_; (focus (dsimp -zeta only [x]; clear x)); rotate_left 1; clear_value x; revert x; intro _ _) | (have hh := fun a => x a; clear hh; dsimp -zeta only [x]; clear x) | (clear_value x; revert x; intro _) | (dsimp -zeta only [x]; clear x))
    | split
    | with_reducible refine Same.up_upd ?_ (Same.sub hm rfl)

theorem updSiSlot_same {M : Nat} {s0 : State} {a0 a1} (h1 : Same M s0 a1) (hm : 524288 ||| M = M) :
    Same M s0 (updSiSlot a0 a1) := by
  unfold updSiSlot
  repeat' first
    | with_reducible assumption
    | (extract_lets +onlyGivenNames x; first | (refine Same.cut M s0 x ?_ ?_; (focus (dsimp -zeta only [x]; clear x)); rotate_left 1; clear_value x; revert x; intro _ _) | (have hh := fun a => x a; clear hh; dsimp -zeta only [x]; clear x) | (clear_value x; revert x; intro _) | (dsimp -zeta only [x]; clear x))
    | split
    | with_reducible refine Same.up_upd ?_ (Same.sub hm rfl)

theorem nextStore_same {M : Nat} {s0 : State} {a0} (h0 : Same M s0 a0) (hm : 524288 ||| M = M) :
    Same M s0 (nextStore a0) := by
  unfold nextStore
  repeat' first
    | with_reducible assumption
    | with_reducible refine writeRack_same ?_ (Same.sub hm rfl)

theorem rackRevertOp_same {M : Nat} {s0 : State} {a0 a1} (h1 : Same M s0 a1) (hm : 1574928 ||| M = M) :
    Same M s0 (rackRevertOp a0 a1) := by
  unfold rackRevertOp
  repeat' first
    | with_reducible assumption
    | (extract_lets +onlyGivenNames x; first | (refine Same.cut M s0 x ?_ ?_; (focus (dsimp -zeta only [x]; clear x)); rotate_left 1; clear_value x; revert x; intro _ _) | (have hh := fun a => x a; clear hh; dsimp -zeta only [x]; clear x) | (clear_value x; revert x; intro _) | (dsimp -zeta only [x]; clear x))
    | with_reducible refine updTargets_same ?_ (Same.sub hm rfl)
    | with_reducible refine requestReset_same ?_ (Same.sub hm rfl)
    | with_reducible refine writeRack_same ?_ (Same.sub hm rfl)
    | with_reducible refine record_same ?_ (Same.sub hm rfl)
    | split
    | with_reducible refine Same.up_upd ?_ (Same.sub hm rfl)

end Sys2Proof.Machine
end

