-- ==== Sys2Proof/Laws/FrameImage.lean ====
section
/-!
SUPPORT. FrameImage.lean: for each operation of Machine/Image.lean, the components of State it can change: the result agrees with the
state it starts from on every component whose bit in the mask is 0 (the bits as in `Same`).
-/
namespace Sys2Proof.Machine
set_option linter.all false

theorem endLoad_same {M : Nat} {s0 : State} {a0 a1 a2} (h2 : Same M s0 a2) (hm : 136 ||| M = M) :
    Same M s0 (endLoad a0 a1 a2) := by
  unfold endLoad
  repeat' first
    | with_reducible assumption
    | (extract_lets +onlyGivenNames x; first | (refine Same.cut M s0 x ?_ ?_; (focus (dsimp -zeta only [x]; clear x)); rotate_left 1; clear_value x; revert x; intro _ _) | (have hh := fun a => x a; clear hh; dsimp -zeta only [x]; clear x) | (clear_value x; revert x; intro _) | (dsimp -zeta only [x]; clear x))
    | with_reducible refine Same.up_reply_img ?_ (Same.sub hm rfl) (Same.sub hm rfl)

theorem dropSet_same {M : Nat} {s0 : State} {a0 a1} (h1 : Same M s0 a1) (hm : 136 ||| M = M) :
    Same M s0 (dropSet a0 a1) := by
  unfold dropSet
  repeat' first
    | with_reducible assumption
    | with_reducible refine endLoad_same ?_ (Same.sub hm rfl)

theorem loadAbortOp_same {M : Nat} {s0 : State} {a0} (h0 : Same M s0 a0) (hm : 152 ||| M = M) :
    Same M s0 (loadAbortOp a0) := by
  unfold loadAbortOp
  repeat' first
    | with_reducible assumption
    | with_reducible refine record_same ?_ (Same.sub hm rfl)
    | with_reducible refine dropSet_same ?_ (Same.sub hm rfl)
    | split

theorem execSectionalLoadAbort_same {M : Nat} {s0 : State} {a0 a1} (h1 : Same M s0 a1) (hm : 1048760 ||| M = M) :
    OutSame M s0 (execSectionalLoadAbort a0 a1) := by
  unfold execSectionalLoadAbort
  repeat' first
    | with_reducible assumption
    | with_reducible refine OutSame.next ?_
    | with_reducible refine loadAbortOp_same ?_ (Same.sub hm rfl)
    | with_reducible refine abortCmd_same (fun x0 k0 => ?_) ?_ (Same.sub hm rfl)

theorem commitCycle_same {M : Nat} {s0 : State} {a0 a1} (h1 : Same M s0 a1) (hm : 1286100 ||| M = M) :
    Same M s0 (commitCycle a0 a1) := by
  unfold commitCycle
  repeat' first
    | with_reducible assumption
    | (extract_lets +onlyGivenNames x; first | (refine Same.cut M s0 x ?_ ?_; (focus (dsimp -zeta only [x]; clear x)); rotate_left 1; clear_value x; revert x; intro _ _) | (have hh := fun a => x a; clear hh; dsimp -zeta only [x]; clear x) | (clear_value x; revert x; intro _) | (dsimp -zeta only [x]; clear x))
    | with_reducible refine activateSet_same ?_ (Same.sub hm rfl)
    | split
    | with_reducible refine Same.up_img ?_ (Same.sub hm rfl)

theorem keepSet_same {M : Nat} {s0 : State} {a0 a1} (h1 : Same M s0 a1) (hm : 524288 ||| M = M) :
    Same M s0 (keepSet a0 a1) := by
  unfold keepSet
  repeat' first
    | with_reducible assumption
    | with_reducible refine updSiSlot_same ?_ (Same.sub hm rfl)

theorem commitOp_same {M : Nat} {s0 : State} {a0 a1} (h1 : Same M s0 a1) (hm : 655496 ||| M = M) :
    Same M s0 (commitOp a0 a1) := by
  unfold commitOp
  repeat' first
    | with_reducible assumption
    | (extract_lets +onlyGivenNames x; first | (refine Same.cut M s0 x ?_ ?_; (focus (dsimp -zeta only [x]; clear x)); rotate_left 1; clear_value x; revert x; intro _ _) | (have hh := fun a => x a; clear hh; dsimp -zeta only [x]; clear x) | (clear_value x; revert x; intro _) | (dsimp -zeta only [x]; clear x))
    | with_reducible refine withRing_same ?_ (Same.sub hm rfl)
    | with_reducible refine endLoad_same ?_ (Same.sub hm rfl)
    | with_reducible refine keepSet_same ?_ (Same.sub hm rfl)
    | split
    | with_reducible refine Same.up_img ?_ (Same.sub hm rfl)
    | with_reducible refine Same.up_reply_img ?_ (Same.sub hm rfl) (Same.sub hm rfl)

theorem scheduledCycle_same {M : Nat} {s0 : State} {a0 a1} (h1 : Same M s0 a1) (hm : 1810396 ||| M = M) :
    Same M s0 (scheduledCycle a0 a1) := by
  unfold scheduledCycle
  repeat' first
    | with_reducible assumption
    | (extract_lets +onlyGivenNames x; first | (refine Same.cut M s0 x ?_ ?_; (focus (dsimp -zeta only [x]; clear x)); rotate_left 1; clear_value x; revert x; intro _ _) | (have hh := fun a => x a; clear hh; dsimp -zeta only [x]; clear x) | (clear_value x; revert x; intro _) | (dsimp -zeta only [x]; clear x))
    | with_reducible refine commitCycle_same ?_ (Same.sub hm rfl)
    | with_reducible refine withRing_same ?_ (Same.sub hm rfl)
    | with_reducible refine endLoad_same ?_ (Same.sub hm rfl)
    | with_reducible refine keepSet_same ?_ (Same.sub hm rfl)
    | split

theorem commitTrellisOp_same {M : Nat} {s0 : State} {a0} (h0 : Same M s0 a0) (hm : 1810396 ||| M = M) :
    Same M s0 (commitTrellisOp a0) := by
  unfold commitTrellisOp
  repeat' first
    | with_reducible assumption
    | (extract_lets +onlyGivenNames x; first | (refine Same.cut M s0 x ?_ ?_; (focus (dsimp -zeta only [x]; clear x)); rotate_left 1; clear_value x; revert x; intro _ _) | (have hh := fun a => x a; clear hh; dsimp -zeta only [x]; clear x) | (clear_value x; revert x; intro _) | (dsimp -zeta only [x]; clear x))
    | with_reducible refine scheduledCycle_same ?_ (Same.sub hm rfl)
    | with_reducible refine commitCycle_same ?_ (Same.sub hm rfl)
    | with_reducible refine record_same ?_ (Same.sub hm rfl)
    | split
    | with_reducible refine Same.up_img ?_ (Same.sub hm rfl)

theorem holdSet_same {M : Nat} {s0 : State} {a0 a1} (h1 : Same M s0 a1) (hm : 524424 ||| M = M) :
    Same M s0 (holdSet a0 a1) := by
  unfold holdSet
  repeat' first
    | with_reducible assumption
    | (extract_lets +onlyGivenNames x; first | (refine Same.cut M s0 x ?_ ?_; (focus (dsimp -zeta only [x]; clear x)); rotate_left 1; clear_value x; revert x; intro _ _) | (have hh := fun a => x a; clear hh; dsimp -zeta only [x]; clear x) | (clear_value x; revert x; intro _) | (dsimp -zeta only [x]; clear x))
    | with_reducible refine nextStore_same ?_ (Same.sub hm rfl)
    | with_reducible refine Same.up_reply_img ?_ (Same.sub hm rfl) (Same.sub hm rfl)

theorem finishStage_same {M : Nat} {s0 : State} {a0 a1} (h1 : Same M s0 a1) (hm : 655496 ||| M = M) :
    Same M s0 (finishStage a0 a1) := by
  unfold finishStage
  repeat' first
    | with_reducible assumption
    | (extract_lets +onlyGivenNames x; first | (refine Same.cut M s0 x ?_ ?_; (focus (dsimp -zeta only [x]; clear x)); rotate_left 1; clear_value x; revert x; intro _ _) | (have hh := fun a => x a; clear hh; dsimp -zeta only [x]; clear x) | (clear_value x; revert x; intro _) | (dsimp -zeta only [x]; clear x))
    | with_reducible refine withRing_same ?_ (Same.sub hm rfl)
    | with_reducible refine holdSet_same ?_ (Same.sub hm rfl)
    | with_reducible refine endLoad_same ?_ (Same.sub hm rfl)
    | split

theorem continueStage_same {M : Nat} {s0 : State} {a0} (h0 : Same M s0 a0) (hm : 655496 ||| M = M) :
    Same M s0 (continueStage a0) := by
  unfold continueStage
  repeat' first
    | with_reducible assumption
    | (extract_lets +onlyGivenNames x; first | (refine Same.cut M s0 x ?_ ?_; (focus (dsimp -zeta only [x]; clear x)); rotate_left 1; clear_value x; revert x; intro _ _) | (have hh := fun a => x a; clear hh; dsimp -zeta only [x]; clear x) | (clear_value x; revert x; intro _) | (dsimp -zeta only [x]; clear x))
    | with_reducible refine finishStage_same ?_ (Same.sub hm rfl)
    | with_reducible refine withRing_same ?_ (Same.sub hm rfl)
    | split

theorem discardOp_same {M : Nat} {s0 : State} {a0} (h0 : Same M s0 a0) (hm : 136 ||| M = M) :
    Same M s0 (discardOp a0) := by
  unfold discardOp
  repeat' first
    | with_reducible assumption
    | (extract_lets +onlyGivenNames x; first | (refine Same.cut M s0 x ?_ ?_; (focus (dsimp -zeta only [x]; clear x)); rotate_left 1; clear_value x; revert x; intro _ _) | (have hh := fun a => x a; clear hh; dsimp -zeta only [x]; clear x) | (clear_value x; revert x; intro _) | (dsimp -zeta only [x]; clear x))
    | with_reducible refine dropSet_same ?_ (Same.sub hm rfl)
    | split
    | with_reducible refine Same.up_reply_img ?_ (Same.sub hm rfl) (Same.sub hm rfl)

theorem execCommit_same {M : Nat} {s0 : State} {a0 a1 a2} (h2 : Same M s0 a2) (hm : 655544 ||| M = M) :
    OutSame M s0 (execCommit a0 a1 a2) := by
  unfold execCommit
  repeat' first
    | with_reducible assumption
    | with_reducible refine OutSame.next ?_
    | with_reducible refine regCmd_same (fun x0 k0 => ?_) ?_ (Same.sub hm rfl)
    | with_reducible refine commitOp_same ?_ (Same.sub hm rfl)
    | split

theorem execCommitTrellisCycle_same {M : Nat} {s0 : State} {a0} (h0 : Same M s0 a0) (hm : 1810396 ||| M = M) :
    OutSame M s0 (execCommitTrellisCycle a0) := by
  unfold execCommitTrellisCycle
  repeat' first
    | with_reducible assumption
    | with_reducible refine OutSame.next ?_
    | with_reducible refine commitTrellisOp_same ?_ (Same.sub hm rfl)
    | split

theorem execDiscard_same {M : Nat} {s0 : State} {a0 a1} (h1 : Same M s0 a1) (hm : 184 ||| M = M) :
    OutSame M s0 (execDiscard a0 a1) := by
  unfold execDiscard
  repeat' first
    | with_reducible assumption
    | with_reducible refine OutSame.next ?_
    | with_reducible refine regCmd_same (fun x0 k0 => ?_) ?_ (Same.sub hm rfl)
    | with_reducible refine discardOp_same ?_ (Same.sub hm rfl)
    | split

theorem stageOp_same {M : Nat} {s0 : State} {a0} (h0 : Same M s0 a0) (hm : 1704120 ||| M = M) :
    Same M s0 (stageOp a0) := by
  unfold stageOp
  repeat' first
    | with_reducible assumption
    | (extract_lets +onlyGivenNames x; first | (refine Same.cut M s0 x ?_ ?_; (focus (dsimp -zeta only [x]; clear x)); rotate_left 1; clear_value x; revert x; intro _ _) | (have hh := fun a => x a; clear hh; dsimp -zeta only [x]; clear x) | (clear_value x; revert x; intro _) | (dsimp -zeta only [x]; clear x))
    | with_reducible refine finishStage_same ?_ (Same.sub hm rfl)
    | with_reducible refine denied_same ?_ (Same.sub hm rfl)
    | with_reducible refine withRing_same ?_ (Same.sub hm rfl)
    | with_reducible refine endLoad_same ?_ (Same.sub hm rfl)
    | with_reducible refine queueWake_same ?_ (Same.sub hm rfl)
    | with_reducible refine Same.foldl (fun _ _ _ => ?_) ?_
    | split
    | with_reducible refine Same.up_img ?_ (Same.sub hm rfl)
    | with_reducible refine Same.up_reply_img ?_ (Same.sub hm rfl) (Same.sub hm rfl)

theorem execStage_same {M : Nat} {s0 : State} {a0 a1} (h1 : Same M s0 a1) (hm : 1704120 ||| M = M) :
    OutSame M s0 (execStage a0 a1) := by
  unfold execStage
  repeat' first
    | with_reducible assumption
    | with_reducible refine OutSame.next ?_
    | with_reducible refine regCmd_same (fun x0 k0 => ?_) ?_ (Same.sub hm rfl)
    | with_reducible refine stageOp_same ?_ (Same.sub hm rfl)
    | split

theorem sectionReportOp_same {M : Nat} {s0 : State} {a0 a1} (h1 : Same M s0 a1) (hm : 128 ||| M = M) :
    Same M s0 (sectionReportOp a0 a1) := by
  unfold sectionReportOp
  repeat' first
    | with_reducible assumption
    | (extract_lets +onlyGivenNames x; first | (refine Same.cut M s0 x ?_ ?_; (focus (dsimp -zeta only [x]; clear x)); rotate_left 1; clear_value x; revert x; intro _ _) | (have hh := fun a => x a; clear hh; dsimp -zeta only [x]; clear x) | (clear_value x; revert x; intro _) | (dsimp -zeta only [x]; clear x))
    | split
    | with_reducible refine Same.up_img ?_ (Same.sub hm rfl)

theorem execSectionActiveReport_same {M : Nat} {s0 : State} {a0 a1} (h1 : Same M s0 a1) (hm : 128 ||| M = M) :
    OutSame M s0 (execSectionActiveReport a0 a1) := by
  unfold execSectionActiveReport
  repeat' first
    | with_reducible assumption
    | with_reducible refine OutSame.next ?_
    | with_reducible refine sectionReportOp_same ?_ (Same.sub hm rfl)

theorem loadDone_same {M : Nat} {s0 : State} {a0 a1} (h1 : Same M s0 a1) (hm : 2088884 ||| M = M) :
    Same M s0 (loadDone a0 a1) := by
  unfold loadDone
  repeat' first
    | with_reducible assumption
    | (extract_lets +onlyGivenNames x; first | (refine Same.cut M s0 x ?_ ?_; (focus (dsimp -zeta only [x]; clear x)); rotate_left 1; clear_value x; revert x; intro _ _) | (have hh := fun a => x a; clear hh; dsimp -zeta only [x]; clear x) | (clear_value x; revert x; intro _) | (dsimp -zeta only [x]; clear x))
    | with_reducible refine installImage_same ?_ (Same.sub hm rfl)
    | with_reducible refine record_same ?_ (Same.sub hm rfl)
    | with_reducible refine updSiSlot_same ?_ (Same.sub hm rfl)
    | split
    | with_reducible refine Same.up_img ?_ (Same.sub hm rfl)

theorem settleHeld_same {M : Nat} {s0 : State} {a0} (h0 : Same M s0 a0) (hm : 144 ||| M = M) :
    Same M s0 (settleHeld a0) := by
  unfold settleHeld
  repeat' first
    | with_reducible assumption
    | (extract_lets +onlyGivenNames x; first | (refine Same.cut M s0 x ?_ ?_; (focus (dsimp -zeta only [x]; clear x)); rotate_left 1; clear_value x; revert x; intro _ _) | (have hh := fun a => x a; clear hh; dsimp -zeta only [x]; clear x) | (clear_value x; revert x; intro _) | (dsimp -zeta only [x]; clear x))
    | with_reducible refine record_same ?_ (Same.sub hm rfl)
    | split
    | with_reducible refine Same.up_img ?_ (Same.sub hm rfl)

theorem loadFailed_same {M : Nat} {s0 : State} {a0 a1 a2} (h2 : Same M s0 a2) (hm : 1575056 ||| M = M) :
    Same M s0 (loadFailed a0 a1 a2) := by
  unfold loadFailed
  repeat' first
    | with_reducible assumption
    | (extract_lets +onlyGivenNames x; first | (refine Same.cut M s0 x ?_ ?_; (focus (dsimp -zeta only [x]; clear x)); rotate_left 1; clear_value x; revert x; intro _ _) | (have hh := fun a => x a; clear hh; dsimp -zeta only [x]; clear x) | (clear_value x; revert x; intro _) | (dsimp -zeta only [x]; clear x))
    | with_reducible refine rackRevertOp_same ?_ (Same.sub hm rfl)
    | with_reducible refine record_same ?_ (Same.sub hm rfl)
    | split
    | with_reducible refine Same.up_img ?_ (Same.sub hm rfl)

theorem wholeLoadOp_same {M : Nat} {s0 : State} {a0} (h0 : Same M s0 a0) (hm : 2088884 ||| M = M) :
    Same M s0 (wholeLoadOp a0) := by
  unfold wholeLoadOp
  repeat' first
    | with_reducible assumption
    | (extract_lets +onlyGivenNames x; first | (refine Same.cut M s0 x ?_ ?_; (focus (dsimp -zeta only [x]; clear x)); rotate_left 1; clear_value x; revert x; intro _ _) | (have hh := fun a => x a; clear hh; dsimp -zeta only [x]; clear x) | (clear_value x; revert x; intro _) | (dsimp -zeta only [x]; clear x))
    | with_reducible refine loadDone_same ?_ (Same.sub hm rfl)
    | with_reducible refine settleHeld_same ?_ (Same.sub hm rfl)
    | with_reducible refine withRing_same ?_ (Same.sub hm rfl)
    | with_reducible refine loadFailed_same ?_ (Same.sub hm rfl)
    | split
    | with_reducible refine Same.up_sys_img_pwr ?_ (Same.sub hm rfl) (Same.sub hm rfl) (Same.sub hm rfl)

theorem execWholeLoad_same {M : Nat} {s0 : State} {a0} (h0 : Same M s0 a0) (hm : 2088884 ||| M = M) :
    OutSame M s0 (execWholeLoad a0) := by
  unfold execWholeLoad
  repeat' first
    | with_reducible assumption
    | with_reducible refine OutSame.next ?_
    | with_reducible refine wholeLoadOp_same ?_ (Same.sub hm rfl)
    | split

end Sys2Proof.Machine
end

