-- ==== Sys2Proof/Laws/FrameKeys.lean ====
section
/-!
SUPPORT. FrameKeys.lean: for each operation of Machine/Keys.lean, the components of State it can change: the result agrees with the
state it starts from on every component whose bit in the mask is 0 (the bits as in `Same`).
-/
namespace Sys2Proof.Machine
set_option linter.all false

theorem abandonUnseal_same {M : Nat} {s0 : State} {a0} (h0 : Same M s0 a0) (hm : 16400 ||| M = M) :
    Same M s0 (abandonUnseal a0) := by
  unfold abandonUnseal
  repeat' first
    | with_reducible assumption
    | (extract_lets +onlyGivenNames x; first | (refine Same.cut M s0 x ?_ ?_; (focus (dsimp -zeta only [x]; clear x)); rotate_left 1; clear_value x; revert x; intro _ _) | (have hh := fun a => x a; clear hh; dsimp -zeta only [x]; clear x) | (clear_value x; revert x; intro _) | (dsimp -zeta only [x]; clear x))
    | with_reducible refine record_same ?_ (Same.sub hm rfl)
    | split
    | with_reducible refine Same.up_key ?_ (Same.sub hm rfl)

theorem keyAbortOp_same {M : Nat} {s0 : State} {a0} (h0 : Same M s0 a0) (hm : 16400 ||| M = M) :
    Same M s0 (keyAbortOp a0) := by
  unfold keyAbortOp
  repeat' first
    | with_reducible assumption
    | with_reducible refine endKeyOps_same ?_ (Same.sub hm rfl)
    | with_reducible refine record_same ?_ (Same.sub hm rfl)

theorem execKeyEngineAbort_same {M : Nat} {s0 : State} {a0 a1} (h1 : Same M s0 a1) (hm : 1065016 ||| M = M) :
    OutSame M s0 (execKeyEngineAbort a0 a1) := by
  unfold execKeyEngineAbort
  repeat' first
    | with_reducible assumption
    | with_reducible refine OutSame.next ?_
    | with_reducible refine keyAbortOp_same ?_ (Same.sub hm rfl)
    | with_reducible refine abortCmd_same (fun x0 k0 => ?_) ?_ (Same.sub hm rfl)

theorem keyStatus_same {M : Nat} {s0 : State} {a0 a1 a2} (h2 : Same M s0 a2) (hm : 16392 ||| M = M) :
    Same M s0 (keyStatus a0 a1 a2) := by
  unfold keyStatus
  repeat' first
    | with_reducible assumption
    | (extract_lets +onlyGivenNames x; first | (refine Same.cut M s0 x ?_ ?_; (focus (dsimp -zeta only [x]; clear x)); rotate_left 1; clear_value x; revert x; intro _ _) | (have hh := fun a => x a; clear hh; dsimp -zeta only [x]; clear x) | (clear_value x; revert x; intro _) | (dsimp -zeta only [x]; clear x))
    | split
    | with_reducible refine Same.up_reply_key ?_ (Same.sub hm rfl) (Same.sub hm rfl)

theorem rangeDenied_same {M : Nat} {s0 : State} {a0 a1 a2 a3} (h3 : Same M s0 a3) (hm : 48 ||| M = M) :
    Same M s0 (rangeDenied a0 a1 a2 a3) := by
  unfold rangeDenied
  repeat' first
    | with_reducible assumption
    | with_reducible refine denied_same ?_ (Same.sub hm rfl)

theorem withBlob_same {M : Nat} {s0 : State} {a0 a1 a2} (h1 : ∀ x0 x1, Same M s0 x1 → Same M s0 (a1 x0 x1)) (h2 : Same M s0 a2) (hm : 16440 ||| M = M) :
    Same M s0 (withBlob a0 a1 a2) := by
  unfold withBlob
  repeat' first
    | with_reducible assumption
    | with_reducible refine h1 _ _ ?_
    | with_reducible refine keyStatus_same ?_ (Same.sub hm rfl)
    | with_reducible refine rangeDenied_same ?_ (Same.sub hm rfl)
    | split

theorem keyCmd_same {M : Nat} {s0 : State} {a0 a1 a2 a3} (h2 : ∀ x0, Same M s0 x0 → Same M s0 (a2 x0)) (h3 : Same M s0 a3) (hm : 16440 ||| M = M) :
    OutSame M s0 (keyCmd a0 a1 a2 a3) := by
  unfold keyCmd
  repeat' first
    | with_reducible assumption
    | with_reducible refine OutSame.next ?_
    | with_reducible refine h2 _ ?_
    | with_reducible refine regCmd_same (fun x0 k0 => ?_) ?_ (Same.sub hm rfl)
    | with_reducible refine keyStatus_same ?_ (Same.sub hm rfl)
    | split

theorem ownerCmd_same {M : Nat} {s0 : State} {a0 a1 a2 a3} (h2 : ∀ x0, Same M s0 x0 → Same M s0 (a2 x0)) (h3 : Same M s0 a3) (hm : 16440 ||| M = M) :
    OutSame M s0 (ownerCmd a0 a1 a2 a3) := by
  unfold ownerCmd
  repeat' first
    | with_reducible assumption
    | with_reducible refine OutSame.next ?_
    | with_reducible refine h2 _ ?_
    | with_reducible refine keyCmd_same (fun x0 k0 => ?_) ?_ (Same.sub hm rfl)
    | with_reducible refine keyStatus_same ?_ (Same.sub hm rfl)
    | split

theorem execAcceptIdentity_same {M : Nat} {s0 : State} {a0 a1} (h1 : Same M s0 a1) (hm : 16440 ||| M = M) :
    OutSame M s0 (execAcceptIdentity a0 a1) := by
  unfold execAcceptIdentity
  repeat' first
    | with_reducible assumption
    | (extract_lets +onlyGivenNames x; first | (refine Same.cut M s0 x ?_ ?_; (focus (dsimp -zeta only [x]; clear x)); rotate_left 1; clear_value x; revert x; intro _ _) | (have hh := fun a => x a; clear hh; dsimp -zeta only [x]; clear x) | (clear_value x; revert x; intro _) | (dsimp -zeta only [x]; clear x))
    | with_reducible refine OutSame.next ?_
    | with_reducible refine withBlob_same (fun x0 x1 k1 => ?_) ?_ (Same.sub hm rfl)
    | with_reducible refine ownerCmd_same (fun x0 k0 => ?_) ?_ (Same.sub hm rfl)
    | with_reducible refine keyStatus_same ?_ (Same.sub hm rfl)
    | with_reducible refine record_same ?_ (Same.sub hm rfl)
    | split
    | with_reducible refine Same.up_key ?_ (Same.sub hm rfl)

theorem execArmMonitors_same {M : Nat} {s0 : State} {a0 a1} (h1 : Same M s0 a1) (hm : 16440 ||| M = M) :
    OutSame M s0 (execArmMonitors a0 a1) := by
  unfold execArmMonitors
  repeat' first
    | with_reducible assumption
    | (extract_lets +onlyGivenNames x; first | (refine Same.cut M s0 x ?_ ?_; (focus (dsimp -zeta only [x]; clear x)); rotate_left 1; clear_value x; revert x; intro _ _) | (have hh := fun a => x a; clear hh; dsimp -zeta only [x]; clear x) | (clear_value x; revert x; intro _) | (dsimp -zeta only [x]; clear x))
    | with_reducible refine OutSame.next ?_
    | with_reducible refine withBlob_same (fun x0 x1 k1 => ?_) ?_ (Same.sub hm rfl)
    | with_reducible refine ownerCmd_same (fun x0 k0 => ?_) ?_ (Same.sub hm rfl)
    | with_reducible refine keyStatus_same ?_ (Same.sub hm rfl)
    | split
    | with_reducible refine Same.up_key ?_ (Same.sub hm rfl)

theorem execAttest_same {M : Nat} {s0 : State} {a0 a1} (h1 : Same M s0 a1) (hm : 16440 ||| M = M) :
    OutSame M s0 (execAttest a0 a1) := by
  unfold execAttest
  repeat' first
    | with_reducible assumption
    | (extract_lets +onlyGivenNames x; first | (refine Same.cut M s0 x ?_ ?_; (focus (dsimp -zeta only [x]; clear x)); rotate_left 1; clear_value x; revert x; intro _ _) | (have hh := fun a => x a; clear hh; dsimp -zeta only [x]; clear x) | (clear_value x; revert x; intro _) | (dsimp -zeta only [x]; clear x))
    | with_reducible refine OutSame.next ?_
    | with_reducible refine ownerCmd_same (fun x0 k0 => ?_) ?_ (Same.sub hm rfl)
    | with_reducible refine keyStatus_same ?_ (Same.sub hm rfl)
    | split
    | with_reducible refine Same.up_key ?_ (Same.sub hm rfl)

theorem execAttestComplete_same {M : Nat} {s0 : State} {a0} (h0 : Same M s0 a0) (hm : 16388 ||| M = M) :
    OutSame M s0 (execAttestComplete a0) := by
  unfold execAttestComplete
  repeat' first
    | with_reducible assumption
    | (extract_lets +onlyGivenNames x; first | (refine Same.cut M s0 x ?_ ?_; (focus (dsimp -zeta only [x]; clear x)); rotate_left 1; clear_value x; revert x; intro _ _) | (have hh := fun a => x a; clear hh; dsimp -zeta only [x]; clear x) | (clear_value x; revert x; intro _) | (dsimp -zeta only [x]; clear x))
    | with_reducible refine OutSame.next ?_
    | with_reducible refine bumpFree_same ?_ (Same.sub hm rfl)
    | split
    | with_reducible refine Same.up_key ?_ (Same.sub hm rfl)

theorem rekeySession_same {M : Nat} {s0 : State} {a0 a1} (h1 : Same M s0 a1) (hm : 16400 ||| M = M) :
    Same M s0 (rekeySession a0 a1) := by
  unfold rekeySession
  repeat' first
    | with_reducible assumption
    | (extract_lets +onlyGivenNames x; first | (refine Same.cut M s0 x ?_ ?_; (focus (dsimp -zeta only [x]; clear x)); rotate_left 1; clear_value x; revert x; intro _ _) | (have hh := fun a => x a; clear hh; dsimp -zeta only [x]; clear x) | (clear_value x; revert x; intro _) | (dsimp -zeta only [x]; clear x))
    | with_reducible refine record_same ?_ (Same.sub hm rfl)
    | split
    | with_reducible refine Same.up_key ?_ (Same.sub hm rfl)

theorem rekeyFlows_same {M : Nat} {s0 : State} {a0 a1} (h1 : Same M s0 a1) (hm : 131072 ||| M = M) :
    Same M s0 (rekeyFlows a0 a1) := by
  unfold rekeyFlows
  repeat' first
    | with_reducible assumption
    | (extract_lets +onlyGivenNames x; first | (refine Same.cut M s0 x ?_ ?_; (focus (dsimp -zeta only [x]; clear x)); rotate_left 1; clear_value x; revert x; intro _ _) | (have hh := fun a => x a; clear hh; dsimp -zeta only [x]; clear x) | (clear_value x; revert x; intro _) | (dsimp -zeta only [x]; clear x))
    | split
    | with_reducible refine Same.up_net ?_ (Same.sub hm rfl)

theorem execCachePurgeComplete_same {M : Nat} {s0 : State} {a0} (h0 : Same M s0 a0) (hm : 147472 ||| M = M) :
    OutSame M s0 (execCachePurgeComplete a0) := by
  unfold execCachePurgeComplete
  repeat' first
    | with_reducible assumption
    | (extract_lets +onlyGivenNames x; first | (refine Same.cut M s0 x ?_ ?_; (focus (dsimp -zeta only [x]; clear x)); rotate_left 1; clear_value x; revert x; intro _ _) | (have hh := fun a => x a; clear hh; dsimp -zeta only [x]; clear x) | (clear_value x; revert x; intro _) | (dsimp -zeta only [x]; clear x))
    | with_reducible refine OutSame.next ?_
    | with_reducible refine rekeySession_same ?_ (Same.sub hm rfl)
    | with_reducible refine rekeyFlows_same ?_ (Same.sub hm rfl)
    | with_reducible refine Same.foldl (fun _ _ _ => ?_) ?_
    | split
    | with_reducible refine Same.up_key ?_ (Same.sub hm rfl)

theorem execClearA_same {M : Nat} {s0 : State} {a0 a1} (h1 : Same M s0 a1) (hm : 16440 ||| M = M) :
    OutSame M s0 (execClearA a0 a1) := by
  unfold execClearA
  repeat' first
    | with_reducible assumption
    | (extract_lets +onlyGivenNames x; first | (refine Same.cut M s0 x ?_ ?_; (focus (dsimp -zeta only [x]; clear x)); rotate_left 1; clear_value x; revert x; intro _ _) | (have hh := fun a => x a; clear hh; dsimp -zeta only [x]; clear x) | (clear_value x; revert x; intro _) | (dsimp -zeta only [x]; clear x))
    | with_reducible refine OutSame.next ?_
    | with_reducible refine withBlob_same (fun x0 x1 k1 => ?_) ?_ (Same.sub hm rfl)
    | with_reducible refine ownerCmd_same (fun x0 k0 => ?_) ?_ (Same.sub hm rfl)
    | with_reducible refine keyStatus_same ?_ (Same.sub hm rfl)
    | with_reducible refine useBud_same ?_ (Same.sub hm rfl)
    | split
    | with_reducible refine Same.up_key ?_ (Same.sub hm rfl)

theorem updOp_same {M : Nat} {s0 : State} {a0 a1 a2} (h2 : Same M s0 a2) (hm : 16384 ||| M = M) :
    Same M s0 (updOp a0 a1 a2) := by
  unfold updOp
  repeat' first
    | with_reducible assumption
    | (extract_lets +onlyGivenNames x; first | (refine Same.cut M s0 x ?_ ?_; (focus (dsimp -zeta only [x]; clear x)); rotate_left 1; clear_value x; revert x; intro _ _) | (have hh := fun a => x a; clear hh; dsimp -zeta only [x]; clear x) | (clear_value x; revert x; intro _) | (dsimp -zeta only [x]; clear x))
    | split
    | with_reducible refine Same.up_key ?_ (Same.sub hm rfl)

theorem slotDenied_same {M : Nat} {s0 : State} {a0 a1 a2 a3} (h3 : Same M s0 a3) (hm : 48 ||| M = M) :
    Same M s0 (slotDenied a0 a1 a2 a3) := by
  unfold slotDenied
  repeat' first
    | with_reducible assumption
    | with_reducible refine denied_same ?_ (Same.sub hm rfl)
    | split

theorem opCode_same {M : Nat} {s0 : State} {a0 a1 a2} (h2 : Same M s0 a2) (hm : 16392 ||| M = M) :
    Same M s0 (opCode a0 a1 a2) := by
  unfold opCode
  repeat' first
    | with_reducible assumption
    | with_reducible refine updOp_same ?_ (Same.sub hm rfl)
    | with_reducible refine Same.up_reply ?_ (Same.sub hm rfl)

theorem slotOpStart_same {M : Nat} {s0 : State} {a0 a1 a2 a3 a4} (h4 : Same M s0 a4) (hm : 16440 ||| M = M) :
    Same M s0 (slotOpStart a0 a1 a2 a3 a4) := by
  unfold slotOpStart
  repeat' first
    | with_reducible assumption
    | (extract_lets +onlyGivenNames x; first | (refine Same.cut M s0 x ?_ ?_; (focus (dsimp -zeta only [x]; clear x)); rotate_left 1; clear_value x; revert x; intro _ _) | (have hh := fun a => x a; clear hh; dsimp -zeta only [x]; clear x) | (clear_value x; revert x; intro _) | (dsimp -zeta only [x]; clear x))
    | with_reducible refine updOp_same ?_ (Same.sub hm rfl)
    | with_reducible refine slotDenied_same ?_ (Same.sub hm rfl)
    | with_reducible refine rangeDenied_same ?_ (Same.sub hm rfl)
    | with_reducible refine opCode_same ?_ (Same.sub hm rfl)
    | split

theorem slotOpCmd_same {M : Nat} {s0 : State} {a0 a1 a2 a3 a4} (h4 : Same M s0 a4) (hm : 16440 ||| M = M) :
    OutSame M s0 (slotOpCmd a0 a1 a2 a3 a4) := by
  unfold slotOpCmd
  repeat' first
    | with_reducible assumption
    | with_reducible refine OutSame.next ?_
    | with_reducible refine regCmd_same (fun x0 k0 => ?_) ?_ (Same.sub hm rfl)
    | with_reducible refine slotOpStart_same ?_ (Same.sub hm rfl)

theorem execComputeMac_same {M : Nat} {s0 : State} {a0 a1 a2} (h2 : Same M s0 a2) (hm : 16440 ||| M = M) :
    OutSame M s0 (execComputeMac a0 a1 a2) := by
  unfold execComputeMac
  repeat' first
    | with_reducible assumption
    | with_reducible refine OutSame.next ?_
    | with_reducible refine slotOpCmd_same ?_ (Same.sub hm rfl)

theorem execDecrypt_same {M : Nat} {s0 : State} {a0 a1 a2} (h2 : Same M s0 a2) (hm : 16440 ||| M = M) :
    OutSame M s0 (execDecrypt a0 a1 a2) := by
  unfold execDecrypt
  repeat' first
    | with_reducible assumption
    | with_reducible refine OutSame.next ?_
    | with_reducible refine slotOpCmd_same ?_ (Same.sub hm rfl)

theorem execDeleteKey_same {M : Nat} {s0 : State} {a0 a1 a2} (h2 : Same M s0 a2) (hm : 16440 ||| M = M) :
    OutSame M s0 (execDeleteKey a0 a1 a2) := by
  unfold execDeleteKey
  repeat' first
    | with_reducible assumption
    | (extract_lets +onlyGivenNames x; first | (refine Same.cut M s0 x ?_ ?_; (focus (dsimp -zeta only [x]; clear x)); rotate_left 1; clear_value x; revert x; intro _ _) | (have hh := fun a => x a; clear hh; dsimp -zeta only [x]; clear x) | (clear_value x; revert x; intro _) | (dsimp -zeta only [x]; clear x))
    | with_reducible refine OutSame.next ?_
    | with_reducible refine keyCmd_same (fun x0 k0 => ?_) ?_ (Same.sub hm rfl)
    | with_reducible refine slotDenied_same ?_ (Same.sub hm rfl)
    | with_reducible refine keyStatus_same ?_ (Same.sub hm rfl)
    | split
    | with_reducible refine Same.up_key ?_ (Same.sub hm rfl)

theorem execEncrypt_same {M : Nat} {s0 : State} {a0 a1 a2} (h2 : Same M s0 a2) (hm : 16440 ||| M = M) :
    OutSame M s0 (execEncrypt a0 a1 a2) := by
  unfold execEncrypt
  repeat' first
    | with_reducible assumption
    | with_reducible refine OutSame.next ?_
    | with_reducible refine slotOpCmd_same ?_ (Same.sub hm rfl)

theorem execExportKey_same {M : Nat} {s0 : State} {a0 a1 a2} (h2 : Same M s0 a2) (hm : 16504 ||| M = M) :
    OutSame M s0 (execExportKey a0 a1 a2) := by
  unfold execExportKey
  repeat' first
    | with_reducible assumption
    | (extract_lets +onlyGivenNames x; first | (refine Same.cut M s0 x ?_ ?_; (focus (dsimp -zeta only [x]; clear x)); rotate_left 1; clear_value x; revert x; intro _ _) | (have hh := fun a => x a; clear hh; dsimp -zeta only [x]; clear x) | (clear_value x; revert x; intro _) | (dsimp -zeta only [x]; clear x))
    | with_reducible refine OutSame.next ?_
    | with_reducible refine keyCmd_same (fun x0 k0 => ?_) ?_ (Same.sub hm rfl)
    | with_reducible refine slotDenied_same ?_ (Same.sub hm rfl)
    | with_reducible refine keyStatus_same ?_ (Same.sub hm rfl)
    | with_reducible refine rangeDenied_same ?_ (Same.sub hm rfl)
    | split
    | with_reducible refine Same.up_mem ?_ (Same.sub hm rfl)

theorem execServiceExit_same {M : Nat} {s0 : State} {a0 a1} (h1 : Same M s0 a1) (hm : 16440 ||| M = M) :
    OutSame M s0 (execServiceExit a0 a1) := by
  unfold execServiceExit
  repeat' first
    | with_reducible assumption
    | with_reducible refine OutSame.next ?_
    | with_reducible refine ownerCmd_same (fun x0 k0 => ?_) ?_ (Same.sub hm rfl)
    | with_reducible refine keyStatus_same ?_ (Same.sub hm rfl)
    | with_reducible refine leaveService_same ?_ (Same.sub hm rfl)
    | split

theorem execRetire_same {M : Nat} {s0 : State} {a0 a1} (h1 : Same M s0 a1) (hm : 16440 ||| M = M) :
    OutSame M s0 (execRetire a0 a1) := by
  unfold execRetire
  repeat' first
    | with_reducible assumption
    | (extract_lets +onlyGivenNames x; first | (refine Same.cut M s0 x ?_ ?_; (focus (dsimp -zeta only [x]; clear x)); rotate_left 1; clear_value x; revert x; intro _ _) | (have hh := fun a => x a; clear hh; dsimp -zeta only [x]; clear x) | (clear_value x; revert x; intro _) | (dsimp -zeta only [x]; clear x))
    | with_reducible refine OutSame.next ?_
    | with_reducible refine withBlob_same (fun x0 x1 k1 => ?_) ?_ (Same.sub hm rfl)
    | with_reducible refine eraseRoot_same ?_ (Same.sub hm rfl)
    | with_reducible refine ownerCmd_same (fun x0 k0 => ?_) ?_ (Same.sub hm rfl)
    | with_reducible refine keyStatus_same ?_ (Same.sub hm rfl)
    | with_reducible refine setLc_same ?_ (Same.sub hm rfl)
    | split
    | with_reducible refine Same.up_key ?_ (Same.sub hm rfl)

theorem execRoll_same {M : Nat} {s0 : State} {a0 a1} (h1 : Same M s0 a1) (hm : 16440 ||| M = M) :
    OutSame M s0 (execRoll a0 a1) := by
  unfold execRoll
  repeat' first
    | with_reducible assumption
    | (extract_lets +onlyGivenNames x; first | (refine Same.cut M s0 x ?_ ?_; (focus (dsimp -zeta only [x]; clear x)); rotate_left 1; clear_value x; revert x; intro _ _) | (have hh := fun a => x a; clear hh; dsimp -zeta only [x]; clear x) | (clear_value x; revert x; intro _) | (dsimp -zeta only [x]; clear x))
    | with_reducible refine OutSame.next ?_
    | with_reducible refine ownerCmd_same (fun x0 k0 => ?_) ?_ (Same.sub hm rfl)
    | with_reducible refine keyStatus_same ?_ (Same.sub hm rfl)
    | split
    | with_reducible refine Same.up_key ?_ (Same.sub hm rfl)

theorem execInvalidateSess_same {M : Nat} {s0 : State} {a0 a1 a2} (h2 : Same M s0 a2) (hm : 16440 ||| M = M) :
    OutSame M s0 (execInvalidateSess a0 a1 a2) := by
  unfold execInvalidateSess
  repeat' first
    | with_reducible assumption
    | (extract_lets +onlyGivenNames x; first | (refine Same.cut M s0 x ?_ ?_; (focus (dsimp -zeta only [x]; clear x)); rotate_left 1; clear_value x; revert x; intro _ _) | (have hh := fun a => x a; clear hh; dsimp -zeta only [x]; clear x) | (clear_value x; revert x; intro _) | (dsimp -zeta only [x]; clear x))
    | with_reducible refine OutSame.next ?_
    | with_reducible refine ownerCmd_same (fun x0 k0 => ?_) ?_ (Same.sub hm rfl)
    | with_reducible refine keyStatus_same ?_ (Same.sub hm rfl)
    | with_reducible refine invalidate_same ?_ (Same.sub hm rfl)
    | split
    | with_reducible refine Same.up_key ?_ (Same.sub hm rfl)

theorem importOp_same {M : Nat} {s0 : State} {a0 a1 a2 a3} (h3 : Same M s0 a3) (hm : 16392 ||| M = M) :
    Same M s0 (importOp a0 a1 a2 a3) := by
  unfold importOp
  repeat' first
    | with_reducible assumption
    | (extract_lets +onlyGivenNames x; first | (refine Same.cut M s0 x ?_ ?_; (focus (dsimp -zeta only [x]; clear x)); rotate_left 1; clear_value x; revert x; intro _ _) | (have hh := fun a => x a; clear hh; dsimp -zeta only [x]; clear x) | (clear_value x; revert x; intro _) | (dsimp -zeta only [x]; clear x))
    | with_reducible refine keyStatus_same ?_ (Same.sub hm rfl)
    | split
    | with_reducible refine Same.up_key ?_ (Same.sub hm rfl)

theorem execImportKey_same {M : Nat} {s0 : State} {a0 a1 a2} (h2 : Same M s0 a2) (hm : 16440 ||| M = M) :
    OutSame M s0 (execImportKey a0 a1 a2) := by
  unfold execImportKey
  repeat' first
    | with_reducible assumption
    | with_reducible refine OutSame.next ?_
    | with_reducible refine keyCmd_same (fun x0 k0 => ?_) ?_ (Same.sub hm rfl)
    | with_reducible refine withBlob_same (fun x0 x1 k1 => ?_) ?_ (Same.sub hm rfl)
    | with_reducible refine importOp_same ?_ (Same.sub hm rfl)
    | with_reducible refine keyStatus_same ?_ (Same.sub hm rfl)
    | split

theorem execInvalidateRdr_same {M : Nat} {s0 : State} {a0 a1 a2} (h2 : Same M s0 a2) (hm : 16440 ||| M = M) :
    OutSame M s0 (execInvalidateRdr a0 a1 a2) := by
  unfold execInvalidateRdr
  repeat' first
    | with_reducible assumption
    | (extract_lets +onlyGivenNames x; first | (refine Same.cut M s0 x ?_ ?_; (focus (dsimp -zeta only [x]; clear x)); rotate_left 1; clear_value x; revert x; intro _ _) | (have hh := fun a => x a; clear hh; dsimp -zeta only [x]; clear x) | (clear_value x; revert x; intro _) | (dsimp -zeta only [x]; clear x))
    | with_reducible refine OutSame.next ?_
    | with_reducible refine ownerCmd_same (fun x0 k0 => ?_) ?_ (Same.sub hm rfl)
    | with_reducible refine keyStatus_same ?_ (Same.sub hm rfl)
    | with_reducible refine invalidate_same ?_ (Same.sub hm rfl)
    | split
    | with_reducible refine Same.up_key ?_ (Same.sub hm rfl)

theorem execServiceEnter_same {M : Nat} {s0 : State} {a0 a1} (h1 : Same M s0 a1) (hm : 16444 ||| M = M) :
    OutSame M s0 (execServiceEnter a0 a1) := by
  unfold execServiceEnter
  repeat' first
    | with_reducible assumption
    | (extract_lets +onlyGivenNames x; first | (refine Same.cut M s0 x ?_ ?_; (focus (dsimp -zeta only [x]; clear x)); rotate_left 1; clear_value x; revert x; intro _ _) | (have hh := fun a => x a; clear hh; dsimp -zeta only [x]; clear x) | (clear_value x; revert x; intro _) | (dsimp -zeta only [x]; clear x))
    | with_reducible refine OutSame.next ?_
    | with_reducible refine withBlob_same (fun x0 x1 k1 => ?_) ?_ (Same.sub hm rfl)
    | with_reducible refine writeRoot_same ?_ (Same.sub hm rfl)
    | with_reducible refine ownerCmd_same (fun x0 k0 => ?_) ?_ (Same.sub hm rfl)
    | with_reducible refine keyStatus_same ?_ (Same.sub hm rfl)
    | with_reducible refine setLc_same ?_ (Same.sub hm rfl)
    | with_reducible refine useBud_same ?_ (Same.sub hm rfl)
    | split
    | with_reducible refine Same.up_key ?_ (Same.sub hm rfl)

theorem execRollStage_same {M : Nat} {s0 : State} {a0 a1} (h1 : Same M s0 a1) (hm : 16440 ||| M = M) :
    OutSame M s0 (execRollStage a0 a1) := by
  unfold execRollStage
  repeat' first
    | with_reducible assumption
    | (extract_lets +onlyGivenNames x; first | (refine Same.cut M s0 x ?_ ?_; (focus (dsimp -zeta only [x]; clear x)); rotate_left 1; clear_value x; revert x; intro _ _) | (have hh := fun a => x a; clear hh; dsimp -zeta only [x]; clear x) | (clear_value x; revert x; intro _) | (dsimp -zeta only [x]; clear x))
    | with_reducible refine OutSame.next ?_
    | with_reducible refine withBlob_same (fun x0 x1 k1 => ?_) ?_ (Same.sub hm rfl)
    | with_reducible refine ownerCmd_same (fun x0 k0 => ?_) ?_ (Same.sub hm rfl)
    | with_reducible refine keyStatus_same ?_ (Same.sub hm rfl)
    | with_reducible refine useBud_same ?_ (Same.sub hm rfl)
    | split
    | with_reducible refine Same.up_key ?_ (Same.sub hm rfl)

theorem provisionOp_same {M : Nat} {s0 : State} {a0 a1 a2} (h2 : Same M s0 a2) (hm : 16412 ||| M = M) :
    Same M s0 (provisionOp a0 a1 a2) := by
  unfold provisionOp
  repeat' first
    | with_reducible assumption
    | (extract_lets +onlyGivenNames x; first | (refine Same.cut M s0 x ?_ ?_; (focus (dsimp -zeta only [x]; clear x)); rotate_left 1; clear_value x; revert x; intro _ _) | (have hh := fun a => x a; clear hh; dsimp -zeta only [x]; clear x) | (clear_value x; revert x; intro _) | (dsimp -zeta only [x]; clear x))
    | with_reducible refine writeRoot_same ?_ (Same.sub hm rfl)
    | with_reducible refine invalidateRoot_same ?_ (Same.sub hm rfl)
    | with_reducible refine keyStatus_same ?_ (Same.sub hm rfl)
    | with_reducible refine setLc_same ?_ (Same.sub hm rfl)
    | with_reducible refine useBud_same ?_ (Same.sub hm rfl)
    | split
    | with_reducible refine Same.up_key ?_ (Same.sub hm rfl)

theorem execProvision_same {M : Nat} {s0 : State} {a0 a1} (h1 : Same M s0 a1) (hm : 16444 ||| M = M) :
    OutSame M s0 (execProvision a0 a1) := by
  unfold execProvision
  repeat' first
    | with_reducible assumption
    | with_reducible refine OutSame.next ?_
    | with_reducible refine withBlob_same (fun x0 x1 k1 => ?_) ?_ (Same.sub hm rfl)
    | with_reducible refine provisionOp_same ?_ (Same.sub hm rfl)
    | with_reducible refine ownerCmd_same (fun x0 k0 => ?_) ?_ (Same.sub hm rfl)
    | with_reducible refine keyStatus_same ?_ (Same.sub hm rfl)
    | split

theorem execSign_same {M : Nat} {s0 : State} {a0 a1 a2} (h2 : Same M s0 a2) (hm : 16440 ||| M = M) :
    OutSame M s0 (execSign a0 a1 a2) := by
  unfold execSign
  repeat' first
    | with_reducible assumption
    | with_reducible refine OutSame.next ?_
    | with_reducible refine slotOpCmd_same ?_ (Same.sub hm rfl)

theorem execVerify_same {M : Nat} {s0 : State} {a0 a1 a2} (h2 : Same M s0 a2) (hm : 16440 ||| M = M) :
    OutSame M s0 (execVerify a0 a1 a2) := by
  unfold execVerify
  repeat' first
    | with_reducible assumption
    | with_reducible refine OutSame.next ?_
    | with_reducible refine slotOpCmd_same ?_ (Same.sub hm rfl)

theorem setNow_same {M : Nat} {s0 : State} {a0 a1 a2} (h2 : Same M s0 a2) (hm : 16384 ||| M = M) :
    Same M s0 (setNow a0 a1 a2) := by
  unfold setNow
  repeat' first
    | with_reducible assumption
    | (extract_lets +onlyGivenNames x; first | (refine Same.cut M s0 x ?_ ?_; (focus (dsimp -zeta only [x]; clear x)); rotate_left 1; clear_value x; revert x; intro _ _) | (have hh := fun a => x a; clear hh; dsimp -zeta only [x]; clear x) | (clear_value x; revert x; intro _) | (dsimp -zeta only [x]; clear x))
    | split
    | with_reducible refine Same.up_key ?_ (Same.sub hm rfl)

theorem tripA_same {M : Nat} {s0 : State} {a0 a1} (h1 : Same M s0 a1) (hm : 16400 ||| M = M) :
    Same M s0 (tripA a0 a1) := by
  unfold tripA
  repeat' first
    | with_reducible assumption
    | (extract_lets +onlyGivenNames x; first | (refine Same.cut M s0 x ?_ ?_; (focus (dsimp -zeta only [x]; clear x)); rotate_left 1; clear_value x; revert x; intro _ _) | (have hh := fun a => x a; clear hh; dsimp -zeta only [x]; clear x) | (clear_value x; revert x; intro _) | (dsimp -zeta only [x]; clear x))
    | with_reducible refine abandonUnseal_same ?_ (Same.sub hm rfl)
    | with_reducible refine record_same ?_ (Same.sub hm rfl)
    | split
    | with_reducible refine Same.up_key ?_ (Same.sub hm rfl)

theorem tripB_same {M : Nat} {s0 : State} {a0 a1} (h1 : Same M s0 a1) (hm : 1067024 ||| M = M) :
    Same M s0 (tripB a0 a1) := by
  unfold tripB
  repeat' first
    | with_reducible assumption
    | (extract_lets +onlyGivenNames x; first | (refine Same.cut M s0 x ?_ ?_; (focus (dsimp -zeta only [x]; clear x)); rotate_left 1; clear_value x; revert x; intro _ _) | (have hh := fun a => x a; clear hh; dsimp -zeta only [x]; clear x) | (clear_value x; revert x; intro _) | (dsimp -zeta only [x]; clear x))
    | with_reducible refine abandonUnseal_same ?_ (Same.sub hm rfl)
    | with_reducible refine eraseRoot_same ?_ (Same.sub hm rfl)
    | with_reducible refine requestReset_same ?_ (Same.sub hm rfl)
    | with_reducible refine endKeyOps_same ?_ (Same.sub hm rfl)
    | with_reducible refine record_same ?_ (Same.sub hm rfl)
    | split
    | with_reducible refine Same.up_key ?_ (Same.sub hm rfl)

theorem sampleMonitor_same {M : Nat} {s0 : State} {a0 a1 a2} (h2 : Same M s0 a2) (hm : 1067024 ||| M = M) :
    Same M s0 (sampleMonitor a0 a1 a2) := by
  unfold sampleMonitor
  repeat' first
    | with_reducible assumption
    | (extract_lets +onlyGivenNames x; first | (refine Same.cut M s0 x ?_ ?_; (focus (dsimp -zeta only [x]; clear x)); rotate_left 1; clear_value x; revert x; intro _ _) | (have hh := fun a => x a; clear hh; dsimp -zeta only [x]; clear x) | (clear_value x; revert x; intro _) | (dsimp -zeta only [x]; clear x))
    | with_reducible refine setNow_same ?_ (Same.sub hm rfl)
    | with_reducible refine abandonUnseal_same ?_ (Same.sub hm rfl)
    | with_reducible refine tripA_same ?_ (Same.sub hm rfl)
    | with_reducible refine tripB_same ?_ (Same.sub hm rfl)
    | split

theorem execGlitchDetected_same {M : Nat} {s0 : State} {a0 a1} (h1 : Same M s0 a1) (hm : 1067024 ||| M = M) :
    OutSame M s0 (execGlitchDetected a0 a1) := by
  unfold execGlitchDetected
  repeat' first
    | with_reducible assumption
    | with_reducible refine OutSame.next ?_
    | with_reducible refine sampleMonitor_same ?_ (Same.sub hm rfl)

theorem opCompleteOp_same {M : Nat} {s0 : State} {a0 a1 a2 a3} (h3 : Same M s0 a3) (hm : 16496 ||| M = M) :
    Same M s0 (opCompleteOp a0 a1 a2 a3) := by
  unfold opCompleteOp
  repeat' first
    | with_reducible assumption
    | (extract_lets +onlyGivenNames x; first | (refine Same.cut M s0 x ?_ ?_; (focus (dsimp -zeta only [x]; clear x)); rotate_left 1; clear_value x; revert x; intro _ _) | (have hh := fun a => x a; clear hh; dsimp -zeta only [x]; clear x) | (clear_value x; revert x; intro _) | (dsimp -zeta only [x]; clear x))
    | with_reducible refine updOp_same ?_ (Same.sub hm rfl)
    | with_reducible refine denied_same ?_ (Same.sub hm rfl)
    | split
    | with_reducible refine Same.up_key ?_ (Same.sub hm rfl)
    | with_reducible refine Same.up_mem ?_ (Same.sub hm rfl)

theorem execKeyOpComplete_same {M : Nat} {s0 : State} {a0 a1} (h1 : Same M s0 a1) (hm : 16496 ||| M = M) :
    OutSame M s0 (execKeyOpComplete a0 a1) := by
  unfold execKeyOpComplete
  repeat' first
    | with_reducible assumption
    | with_reducible refine OutSame.next ?_
    | with_reducible refine opCompleteOp_same ?_ (Same.sub hm rfl)
    | split

theorem execLidOpen_same {M : Nat} {s0 : State} {a0 a1 a2} (h2 : Same M s0 a2) (hm : 1067024 ||| M = M) :
    OutSame M s0 (execLidOpen a0 a1 a2) := by
  unfold execLidOpen
  repeat' first
    | with_reducible assumption
    | with_reducible refine OutSame.next ?_
    | with_reducible refine sampleMonitor_same ?_ (Same.sub hm rfl)

theorem execMeshSample_same {M : Nat} {s0 : State} {a0 a1 a2 a3} (h3 : Same M s0 a3) (hm : 1067024 ||| M = M) :
    OutSame M s0 (execMeshSample a0 a1 a2 a3) := by
  unfold execMeshSample
  repeat' first
    | with_reducible assumption
    | with_reducible refine OutSame.next ?_
    | with_reducible refine sampleMonitor_same ?_ (Same.sub hm rfl)
    | split

theorem execRemask_same {M : Nat} {s0 : State} {a0} (h0 : Same M s0 a0) (hm : 16388 ||| M = M) :
    OutSame M s0 (execRemask a0) := by
  unfold execRemask
  repeat' first
    | with_reducible assumption
    | with_reducible refine OutSame.next ?_
    | with_reducible refine remaskOp_same ?_ (Same.sub hm rfl)
    | split

theorem execRollActivation_same {M : Nat} {s0 : State} {a0} (h0 : Same M s0 a0) (hm : 16404 ||| M = M) :
    OutSame M s0 (execRollActivation a0) := by
  unfold execRollActivation
  repeat' first
    | with_reducible assumption
    | (extract_lets +onlyGivenNames x; first | (refine Same.cut M s0 x ?_ ?_; (focus (dsimp -zeta only [x]; clear x)); rotate_left 1; clear_value x; revert x; intro _ _) | (have hh := fun a => x a; clear hh; dsimp -zeta only [x]; clear x) | (clear_value x; revert x; intro _) | (dsimp -zeta only [x]; clear x))
    | with_reducible refine OutSame.next ?_
    | with_reducible refine writeRoot_same ?_ (Same.sub hm rfl)
    | with_reducible refine invalidateRoot_same ?_ (Same.sub hm rfl)
    | with_reducible refine record_same ?_ (Same.sub hm rfl)
    | split
    | with_reducible refine Same.up_key ?_ (Same.sub hm rfl)

theorem refuseSession_same {M : Nat} {s0 : State} {a0 a1 a2} (h2 : Same M s0 a2) (hm : 16 ||| M = M) :
    Same M s0 (refuseSession a0 a1 a2) := by
  unfold refuseSession
  repeat' first
    | with_reducible assumption
    | with_reducible refine record_same ?_ (Same.sub hm rfl)
    | split

theorem execServiceSessionOpen_same {M : Nat} {s0 : State} {a0 a1 a2} (h2 : Same M s0 a2) (hm : 147472 ||| M = M) :
    OutSame M s0 (execServiceSessionOpen a0 a1 a2) := by
  unfold execServiceSessionOpen
  repeat' first
    | with_reducible assumption
    | (extract_lets +onlyGivenNames x; first | (refine Same.cut M s0 x ?_ ?_; (focus (dsimp -zeta only [x]; clear x)); rotate_left 1; clear_value x; revert x; intro _ _) | (have hh := fun a => x a; clear hh; dsimp -zeta only [x]; clear x) | (clear_value x; revert x; intro _) | (dsimp -zeta only [x]; clear x))
    | with_reducible refine OutSame.next ?_
    | with_reducible refine refuseSession_same ?_ (Same.sub hm rfl)
    | with_reducible refine record_same ?_ (Same.sub hm rfl)
    | split
    | with_reducible refine Same.up_key_net ?_ (Same.sub hm rfl) (Same.sub hm rfl)

theorem execServiceSessionTimeout_same {M : Nat} {s0 : State} {a0 a1} (h1 : Same M s0 a1) (hm : 16400 ||| M = M) :
    OutSame M s0 (execServiceSessionTimeout a0 a1) := by
  unfold execServiceSessionTimeout
  repeat' first
    | with_reducible assumption
    | with_reducible refine OutSame.next ?_
    | with_reducible refine closeSession_same ?_ (Same.sub hm rfl)
    | split

theorem execServiceTimeout_same {M : Nat} {s0 : State} {a0} (h0 : Same M s0 a0) (hm : 16400 ||| M = M) :
    OutSame M s0 (execServiceTimeout a0) := by
  unfold execServiceTimeout
  repeat' first
    | with_reducible assumption
    | with_reducible refine OutSame.next ?_
    | with_reducible refine leaveService_same ?_ (Same.sub hm rfl)
    | split

theorem unsealOp_same {M : Nat} {s0 : State} {a0} (h0 : Same M s0 a0) (hm : 16388 ||| M = M) :
    Same M s0 (unsealOp a0) := by
  unfold unsealOp
  repeat' first
    | with_reducible assumption
    | (extract_lets +onlyGivenNames x; first | (refine Same.cut M s0 x ?_ ?_; (focus (dsimp -zeta only [x]; clear x)); rotate_left 1; clear_value x; revert x; intro _ _) | (have hh := fun a => x a; clear hh; dsimp -zeta only [x]; clear x) | (clear_value x; revert x; intro _) | (dsimp -zeta only [x]; clear x))
    | with_reducible refine remaskOp_same ?_ (Same.sub hm rfl)
    | with_reducible refine Same.up_key ?_ (Same.sub hm rfl)

theorem execUnseal_same {M : Nat} {s0 : State} {a0} (h0 : Same M s0 a0) (hm : 16444 ||| M = M) :
    OutSame M s0 (execUnseal a0) := by
  unfold execUnseal
  repeat' first
    | with_reducible assumption
    | with_reducible refine OutSame.next ?_
    | with_reducible refine xchRefuse_same ?_ (Same.sub hm rfl)
    | with_reducible refine abandonUnseal_same ?_ (Same.sub hm rfl)
    | with_reducible refine unsealOp_same ?_ (Same.sub hm rfl)
    | split

end Sys2Proof.Machine
end

