-- ==== Sys2Proof/Laws/FrameLoop.lean ====
section
/-!
SUPPORT. FrameLoop.lean: for each operation of Machine/Loop.lean, the components of State it can change: the result agrees with the
state it starts from on every component whose bit in the mask is 0 (the bits as in `Same`).
-/
namespace Sys2Proof.Machine
set_option linter.all false

theorem lpeAbortOp_same {M : Nat} {s0 : State} {a0} (h0 : Same M s0 a0) (hm : 1040 ||| M = M) :
    Same M s0 (lpeAbortOp a0) := by
  unfold lpeAbortOp
  repeat' first
    | with_reducible assumption
    | (extract_lets +onlyGivenNames x; first | (refine Same.cut M s0 x ?_ ?_; (focus (dsimp -zeta only [x]; clear x)); rotate_left 1; clear_value x; revert x; intro _ _) | (have hh := fun a => x a; clear hh; dsimp -zeta only [x]; clear x) | (clear_value x; revert x; intro _) | (dsimp -zeta only [x]; clear x))
    | with_reducible refine record_same ?_ (Same.sub hm rfl)
    | split
    | with_reducible refine Same.up_lpe ?_ (Same.sub hm rfl)

theorem execLoopEngineAbort_same {M : Nat} {s0 : State} {a0 a1} (h1 : Same M s0 a1) (hm : 1049656 ||| M = M) :
    OutSame M s0 (execLoopEngineAbort a0 a1) := by
  unfold execLoopEngineAbort
  repeat' first
    | with_reducible assumption
    | with_reducible refine OutSame.next ?_
    | with_reducible refine lpeAbortOp_same ?_ (Same.sub hm rfl)
    | with_reducible refine abortCmd_same (fun x0 k0 => ?_) ?_ (Same.sub hm rfl)

theorem setRtCode_same {M : Nat} {s0 : State} {a0 a1} (h1 : Same M s0 a1) (hm : 1032 ||| M = M) :
    Same M s0 (setRtCode a0 a1) := by
  unfold setRtCode
  repeat' first
    | with_reducible assumption
    | (extract_lets +onlyGivenNames x; first | (refine Same.cut M s0 x ?_ ?_; (focus (dsimp -zeta only [x]; clear x)); rotate_left 1; clear_value x; revert x; intro _ _) | (have hh := fun a => x a; clear hh; dsimp -zeta only [x]; clear x) | (clear_value x; revert x; intro _) | (dsimp -zeta only [x]; clear x))
    | with_reducible refine Same.up_reply_lpe ?_ (Same.sub hm rfl) (Same.sub hm rfl)

theorem applyOp_same {M : Nat} {s0 : State} {a0} (h0 : Same M s0 a0) (hm : 1032 ||| M = M) :
    Same M s0 (applyOp a0) := by
  unfold applyOp
  repeat' first
    | with_reducible assumption
    | (extract_lets +onlyGivenNames x; first | (refine Same.cut M s0 x ?_ ?_; (focus (dsimp -zeta only [x]; clear x)); rotate_left 1; clear_value x; revert x; intro _ _) | (have hh := fun a => x a; clear hh; dsimp -zeta only [x]; clear x) | (clear_value x; revert x; intro _) | (dsimp -zeta only [x]; clear x))
    | with_reducible refine setRtCode_same ?_ (Same.sub hm rfl)
    | with_reducible refine updSlot_same ?_ (Same.sub hm rfl)
    | split

theorem dropCapture_same {M : Nat} {s0 : State} {a0 a1} (h1 : Same M s0 a1) (hm : 1024 ||| M = M) :
    Same M s0 (dropCapture a0 a1) := by
  unfold dropCapture
  repeat' first
    | with_reducible assumption
    | (extract_lets +onlyGivenNames x; first | (refine Same.cut M s0 x ?_ ?_; (focus (dsimp -zeta only [x]; clear x)); rotate_left 1; clear_value x; revert x; intro _ _) | (have hh := fun a => x a; clear hh; dsimp -zeta only [x]; clear x) | (clear_value x; revert x; intro _) | (dsimp -zeta only [x]; clear x))
    | with_reducible refine updSlot_same ?_ (Same.sub hm rfl)
    | split
    | with_reducible refine Same.up_lpe ?_ (Same.sub hm rfl)

theorem captureStep_same {M : Nat} {s0 : State} {a0 a1 a2} (h2 : Same M s0 a2) (hm : 1024 ||| M = M) :
    Same M s0 (captureStep a0 a1 a2) := by
  unfold captureStep
  repeat' first
    | with_reducible assumption
    | (extract_lets +onlyGivenNames x; first | (refine Same.cut M s0 x ?_ ?_; (focus (dsimp -zeta only [x]; clear x)); rotate_left 1; clear_value x; revert x; intro _ _) | (have hh := fun a => x a; clear hh; dsimp -zeta only [x]; clear x) | (clear_value x; revert x; intro _) | (dsimp -zeta only [x]; clear x))
    | with_reducible refine updSlot_same ?_ (Same.sub hm rfl)
    | with_reducible refine dropCapture_same ?_ (Same.sub hm rfl)
    | split
    | with_reducible refine Same.up_lpe ?_ (Same.sub hm rfl)

theorem slotShadows_same {M : Nat} {s0 : State} {a0 a1 a2} (h2 : Same M s0 a2) (hm : 1024 ||| M = M) :
    Same M s0 (slotShadows a0 a1 a2) := by
  unfold slotShadows
  repeat' first
    | with_reducible assumption
    | (extract_lets +onlyGivenNames x; first | (refine Same.cut M s0 x ?_ ?_; (focus (dsimp -zeta only [x]; clear x)); rotate_left 1; clear_value x; revert x; intro _ _) | (have hh := fun a => x a; clear hh; dsimp -zeta only [x]; clear x) | (clear_value x; revert x; intro _) | (dsimp -zeta only [x]; clear x))
    | split
    | with_reducible refine Same.up_lpe ?_ (Same.sub hm rfl)

theorem endShadows_same {M : Nat} {s0 : State} {a0 a1 a2} (h2 : Same M s0 a2) (hm : 1024 ||| M = M) :
    Same M s0 (endShadows a0 a1 a2) := by
  unfold endShadows
  repeat' first
    | with_reducible assumption
    | with_reducible refine slotShadows_same ?_ (Same.sub hm rfl)

theorem recopy_same {M : Nat} {s0 : State} {a0 a1} (h1 : Same M s0 a1) (hm : 1024 ||| M = M) :
    Same M s0 (recopy a0 a1) := by
  unfold recopy
  repeat' first
    | with_reducible assumption
    | with_reducible refine slotShadows_same ?_ (Same.sub hm rfl)

theorem takeCmd_same {M : Nat} {s0 : State} {a0 a1} (h1 : Same M s0 a1) (hm : 1024 ||| M = M) :
    Same M s0 (takeCmd a0 a1) := by
  unfold takeCmd
  repeat' first
    | with_reducible assumption
    | (extract_lets +onlyGivenNames x; first | (refine Same.cut M s0 x ?_ ?_; (focus (dsimp -zeta only [x]; clear x)); rotate_left 1; clear_value x; revert x; intro _ _) | (have hh := fun a => x a; clear hh; dsimp -zeta only [x]; clear x) | (clear_value x; revert x; intro _) | (dsimp -zeta only [x]; clear x))
    | with_reducible refine updSlot_same ?_ (Same.sub hm rfl)
    | with_reducible refine endShadows_same ?_ (Same.sub hm rfl)
    | with_reducible refine dropCapture_same ?_ (Same.sub hm rfl)
    | split

theorem feStep_same {M : Nat} {s0 : State} {a0 a1 a2 a3 a4} (h4 : Same M s0 a4) (hm : 1024 ||| M = M) :
    Same M s0 (feStep a0 a1 a2 a3 a4) := by
  unfold feStep
  repeat' first
    | with_reducible assumption
    | with_reducible refine updSlot_same ?_ (Same.sub hm rfl)
    | split

theorem loopWrite_same {M : Nat} {s0 : State} {a0 a1 a2 a3 a4} (h4 : Same M s0 a4) (hm : 1147184 ||| M = M) :
    Same M s0 (loopWrite a0 a1 a2 a3 a4) := by
  unfold loopWrite
  repeat' first
    | with_reducible assumption
    | with_reducible refine writeQ_same ?_ (Same.sub hm rfl)
    | split

theorem viaTrellis_same {M : Nat} {s0 : State} {a0 a1} (h0 : ∀ x0, Same M s0 x0 → Same M s0 (a0 x0)) (h1 : Same M s0 a1) (hm : 56 ||| M = M) :
    Same M s0 (viaTrellis a0 a1) := by
  unfold viaTrellis
  repeat' first
    | with_reducible assumption
    | with_reducible refine h0 _ ?_
    | with_reducible refine xchRefuse_same ?_ (Same.sub hm rfl)
    | split

theorem writeFe_same {M : Nat} {s0 : State} {a0 a1 a2} (h2 : Same M s0 a2) (hm : 1147184 ||| M = M) :
    Same M s0 (writeFe a0 a1 a2) := by
  unfold writeFe
  repeat' first
    | with_reducible assumption
    | with_reducible refine loopWrite_same ?_ (Same.sub hm rfl)
    | split

theorem faultSlot_same {M : Nat} {s0 : State} {a0 a1 a2} (h2 : Same M s0 a2) (hm : 1148216 ||| M = M) :
    Same M s0 (faultSlot a0 a1 a2) := by
  unfold faultSlot
  repeat' first
    | with_reducible assumption
    | (extract_lets +onlyGivenNames x; first | (refine Same.cut M s0 x ?_ ?_; (focus (dsimp -zeta only [x]; clear x)); rotate_left 1; clear_value x; revert x; intro _ _) | (have hh := fun a => x a; clear hh; dsimp -zeta only [x]; clear x) | (clear_value x; revert x; intro _) | (dsimp -zeta only [x]; clear x))
    | with_reducible refine loopWrite_same ?_ (Same.sub hm rfl)
    | with_reducible refine updSlot_same ?_ (Same.sub hm rfl)
    | with_reducible refine viaTrellis_same (fun x0 k0 => ?_) ?_ (Same.sub hm rfl)
    | with_reducible refine record_same ?_ (Same.sub hm rfl)
    | with_reducible refine writeFe_same ?_ (Same.sub hm rfl)
    | with_reducible refine endShadows_same ?_ (Same.sub hm rfl)
    | with_reducible refine dropCapture_same ?_ (Same.sub hm rfl)
    | split

theorem feedShadows_same {M : Nat} {s0 : State} {a0 a1 a2 a3 a4} (h4 : Same M s0 a4) (hm : 1024 ||| M = M) :
    Same M s0 (feedShadows a0 a1 a2 a3 a4) := by
  unfold feedShadows
  repeat' first
    | with_reducible assumption
    | with_reducible refine slotShadows_same ?_ (Same.sub hm rfl)
    | split

theorem runEval_same {M : Nat} {s0 : State} {a0 a1 a2} (h2 : Same M s0 a2) (hm : 1148220 ||| M = M) :
    Same M s0 (runEval a0 a1 a2) := by
  unfold runEval
  repeat' first
    | with_reducible assumption
    | (extract_lets +onlyGivenNames x; first | (refine Same.cut M s0 x ?_ ?_; (focus (dsimp -zeta only [x]; clear x)); rotate_left 1; clear_value x; revert x; intro _ _) | (have hh := fun a => x a; clear hh; dsimp -zeta only [x]; clear x) | (clear_value x; revert x; intro _) | (dsimp -zeta only [x]; clear x))
    | with_reducible refine feStep_same ?_ (Same.sub hm rfl)
    | with_reducible refine recopy_same ?_ (Same.sub hm rfl)
    | with_reducible refine bumpFree_same ?_ (Same.sub hm rfl)
    | with_reducible refine faultSlot_same ?_ (Same.sub hm rfl)
    | with_reducible refine captureStep_same ?_ (Same.sub hm rfl)
    | with_reducible refine loopWrite_same ?_ (Same.sub hm rfl)
    | with_reducible refine updSlot_same ?_ (Same.sub hm rfl)
    | with_reducible refine viaTrellis_same (fun x0 k0 => ?_) ?_ (Same.sub hm rfl)
    | with_reducible refine writeFe_same ?_ (Same.sub hm rfl)
    | with_reducible refine feedShadows_same ?_ (Same.sub hm rfl)
    | split
    | with_reducible refine Same.up_lpe ?_ (Same.sub hm rfl)

theorem takeApply_same {M : Nat} {s0 : State} {a0 a1} (h1 : Same M s0 a1) (hm : 1024 ||| M = M) :
    Same M s0 (takeApply a0 a1) := by
  unfold takeApply
  repeat' first
    | with_reducible assumption
    | (extract_lets +onlyGivenNames x; first | (refine Same.cut M s0 x ?_ ?_; (focus (dsimp -zeta only [x]; clear x)); rotate_left 1; clear_value x; revert x; intro _ _) | (have hh := fun a => x a; clear hh; dsimp -zeta only [x]; clear x) | (clear_value x; revert x; intro _) | (dsimp -zeta only [x]; clear x))
    | with_reducible refine updSlot_same ?_ (Same.sub hm rfl)
    | split
    | with_reducible refine Same.up_lpe ?_ (Same.sub hm rfl)

theorem writeBadOut_same {M : Nat} {s0 : State} {a0 a1} (h1 : Same M s0 a1) (hm : 1147192 ||| M = M) :
    Same M s0 (writeBadOut a0 a1) := by
  unfold writeBadOut
  repeat' first
    | with_reducible assumption
    | with_reducible refine loopWrite_same ?_ (Same.sub hm rfl)
    | with_reducible refine viaTrellis_same (fun x0 k0 => ?_) ?_ (Same.sub hm rfl)

theorem reloadSlot_same {M : Nat} {s0 : State} {a0 a1} (h1 : Same M s0 a1) (hm : 1024 ||| M = M) :
    Same M s0 (reloadSlot a0 a1) := by
  unfold reloadSlot
  repeat' first
    | with_reducible assumption
    | (extract_lets +onlyGivenNames x; first | (refine Same.cut M s0 x ?_ ?_; (focus (dsimp -zeta only [x]; clear x)); rotate_left 1; clear_value x; revert x; intro _ _) | (have hh := fun a => x a; clear hh; dsimp -zeta only [x]; clear x) | (clear_value x; revert x; intro _) | (dsimp -zeta only [x]; clear x))
    | with_reducible refine updSlot_same ?_ (Same.sub hm rfl)
    | with_reducible refine endShadows_same ?_ (Same.sub hm rfl)
    | with_reducible refine dropCapture_same ?_ (Same.sub hm rfl)
    | split
    | with_reducible refine Same.up_lpe ?_ (Same.sub hm rfl)

theorem evalSlot_same {M : Nat} {s0 : State} {a0 a1 a2} (h2 : Same M s0 a2) (hm : 1148220 ||| M = M) :
    Same M s0 (evalSlot a0 a1 a2) := by
  unfold evalSlot
  repeat' first
    | with_reducible assumption
    | (extract_lets +onlyGivenNames x; first | (refine Same.cut M s0 x ?_ ?_; (focus (dsimp -zeta only [x]; clear x)); rotate_left 1; clear_value x; revert x; intro _ _) | (have hh := fun a => x a; clear hh; dsimp -zeta only [x]; clear x) | (clear_value x; revert x; intro _) | (dsimp -zeta only [x]; clear x))
    | with_reducible refine recopy_same ?_ (Same.sub hm rfl)
    | with_reducible refine takeCmd_same ?_ (Same.sub hm rfl)
    | with_reducible refine runEval_same ?_ (Same.sub hm rfl)
    | with_reducible refine updSlot_same ?_ (Same.sub hm rfl)
    | with_reducible refine viaTrellis_same (fun x0 k0 => ?_) ?_ (Same.sub hm rfl)
    | with_reducible refine takeApply_same ?_ (Same.sub hm rfl)
    | with_reducible refine writeFe_same ?_ (Same.sub hm rfl)
    | with_reducible refine writeBadOut_same ?_ (Same.sub hm rfl)
    | with_reducible refine dropCapture_same ?_ (Same.sub hm rfl)
    | with_reducible refine reloadSlot_same ?_ (Same.sub hm rfl)
    | split

theorem rtCmd_same {M : Nat} {s0 : State} {a0 a1 a2} (h1 : ∀ x0, Same M s0 x0 → Same M s0 (a1 x0)) (h2 : Same M s0 a2) (hm : 56 ||| M = M) :
    OutSame M s0 (rtCmd a0 a1 a2) := by
  unfold rtCmd
  repeat' first
    | with_reducible assumption
    | with_reducible refine OutSame.next ?_
    | with_reducible refine h1 _ ?_
    | with_reducible refine regCmd_same (fun x0 k0 => ?_) ?_ (Same.sub hm rfl)
    | split

theorem execApplyRetune_same {M : Nat} {s0 : State} {a0 a1} (h1 : Same M s0 a1) (hm : 1080 ||| M = M) :
    OutSame M s0 (execApplyRetune a0 a1) := by
  unfold execApplyRetune
  repeat' first
    | with_reducible assumption
    | with_reducible refine OutSame.next ?_
    | with_reducible refine applyOp_same ?_ (Same.sub hm rfl)
    | with_reducible refine rtCmd_same (fun x0 k0 => ?_) ?_ (Same.sub hm rfl)

theorem execCaptureComplete_same {M : Nat} {s0 : State} {a0 a1} (h1 : Same M s0 a1) (hm : 1080 ||| M = M) :
    OutSame M s0 (execCaptureComplete a0 a1) := by
  unfold execCaptureComplete
  repeat' first
    | with_reducible assumption
    | (extract_lets +onlyGivenNames x; first | (refine Same.cut M s0 x ?_ ?_; (focus (dsimp -zeta only [x]; clear x)); rotate_left 1; clear_value x; revert x; intro _ _) | (have hh := fun a => x a; clear hh; dsimp -zeta only [x]; clear x) | (clear_value x; revert x; intro _) | (dsimp -zeta only [x]; clear x))
    | with_reducible refine OutSame.next ?_
    | with_reducible refine updSlot_same ?_ (Same.sub hm rfl)
    | with_reducible refine present_same ?_ (Same.sub hm rfl)
    | split
    | with_reducible refine Same.up_lpe ?_ (Same.sub hm rfl)

theorem setLpeStatus_same {M : Nat} {s0 : State} {a0 a1 a2} (h2 : Same M s0 a2) (hm : 1032 ||| M = M) :
    Same M s0 (setLpeStatus a0 a1 a2) := by
  unfold setLpeStatus
  repeat' first
    | with_reducible assumption
    | (extract_lets +onlyGivenNames x; first | (refine Same.cut M s0 x ?_ ?_; (focus (dsimp -zeta only [x]; clear x)); rotate_left 1; clear_value x; revert x; intro _ _) | (have hh := fun a => x a; clear hh; dsimp -zeta only [x]; clear x) | (clear_value x; revert x; intro _) | (dsimp -zeta only [x]; clear x))
    | split
    | with_reducible refine Same.up_reply_lpe ?_ (Same.sub hm rfl) (Same.sub hm rfl)

theorem loopDenied_same {M : Nat} {s0 : State} {a0 a1 a2 a3} (h3 : Same M s0 a3) (hm : 48 ||| M = M) :
    Same M s0 (loopDenied a0 a1 a2 a3) := by
  unfold loopDenied
  repeat' first
    | with_reducible assumption
    | with_reducible refine denied_same ?_ (Same.sub hm rfl)

theorem loopModeCmd_same {M : Nat} {s0 : State} {a0 a1 a2 a3} (h3 : Same M s0 a3) (hm : 1080 ||| M = M) :
    OutSame M s0 (loopModeCmd a0 a1 a2 a3) := by
  unfold loopModeCmd
  repeat' first
    | with_reducible assumption
    | (extract_lets +onlyGivenNames x; first | (refine Same.cut M s0 x ?_ ?_; (focus (dsimp -zeta only [x]; clear x)); rotate_left 1; clear_value x; revert x; intro _ _) | (refine Same.cut M s0 x.1 ?_ ?_; (focus (dsimp -zeta only [x]; clear x)); rotate_left 1; clear_value x; revert x; intro _ _) | (have hh := fun a => x a; clear hh; dsimp -zeta only [x]; clear x) | (clear_value x; revert x; intro _) | (dsimp -zeta only [x]; clear x))
    | with_reducible refine OutSame.next ?_
    | with_reducible refine regCmd_same (fun x0 k0 => ?_) ?_ (Same.sub hm rfl)
    | with_reducible refine storeCmd_same ?_ (Same.sub hm rfl)
    | with_reducible refine Same.fst ‹_› (storeCmd_same ?_ (Same.sub hm rfl))
    | with_reducible refine setLpeStatus_same ?_ (Same.sub hm rfl)
    | with_reducible refine loopDenied_same ?_ (Same.sub hm rfl)
    | with_reducible refine Same.snd ‹_› ?_
    | with_reducible refine Same.fst ‹_› ?_
    | with_reducible refine Same.foldl1 (fun _ _ _ => ?_) ?_
    | with_reducible refine Same.foldl2 (fun _ _ _ => ?_) ?_
    | split

theorem execLoopModeManual_same {M : Nat} {s0 : State} {a0 a1 a2} (h2 : Same M s0 a2) (hm : 1080 ||| M = M) :
    OutSame M s0 (execLoopModeManual a0 a1 a2) := by
  unfold execLoopModeManual
  repeat' first
    | with_reducible assumption
    | with_reducible refine OutSame.next ?_
    | with_reducible refine loopModeCmd_same ?_ (Same.sub hm rfl)

theorem execLoopModeAuto_same {M : Nat} {s0 : State} {a0 a1 a2} (h2 : Same M s0 a2) (hm : 1080 ||| M = M) :
    OutSame M s0 (execLoopModeAuto a0 a1 a2) := by
  unfold execLoopModeAuto
  repeat' first
    | with_reducible assumption
    | with_reducible refine OutSame.next ?_
    | with_reducible refine loopModeCmd_same ?_ (Same.sub hm rfl)

theorem execLoopModeOff_same {M : Nat} {s0 : State} {a0 a1 a2} (h2 : Same M s0 a2) (hm : 1080 ||| M = M) :
    OutSame M s0 (execLoopModeOff a0 a1 a2) := by
  unfold execLoopModeOff
  repeat' first
    | with_reducible assumption
    | with_reducible refine OutSame.next ?_
    | with_reducible refine loopModeCmd_same ?_ (Same.sub hm rfl)

theorem execLoopModeTrack_same {M : Nat} {s0 : State} {a0 a1 a2} (h2 : Same M s0 a2) (hm : 1080 ||| M = M) :
    OutSame M s0 (execLoopModeTrack a0 a1 a2) := by
  unfold execLoopModeTrack
  repeat' first
    | with_reducible assumption
    | with_reducible refine OutSame.next ?_
    | with_reducible refine loopModeCmd_same ?_ (Same.sub hm rfl)

theorem updShadow_same {M : Nat} {s0 : State} {a0 a1 a2} (h2 : Same M s0 a2) (hm : 1024 ||| M = M) :
    Same M s0 (updShadow a0 a1 a2) := by
  unfold updShadow
  repeat' first
    | with_reducible assumption
    | (extract_lets +onlyGivenNames x; first | (refine Same.cut M s0 x ?_ ?_; (focus (dsimp -zeta only [x]; clear x)); rotate_left 1; clear_value x; revert x; intro _ _) | (have hh := fun a => x a; clear hh; dsimp -zeta only [x]; clear x) | (clear_value x; revert x; intro _) | (dsimp -zeta only [x]; clear x))
    | split
    | with_reducible refine Same.up_lpe ?_ (Same.sub hm rfl)

theorem execShadowStop_same {M : Nat} {s0 : State} {a0 a1 a2} (h2 : Same M s0 a2) (hm : 1080 ||| M = M) :
    OutSame M s0 (execShadowStop a0 a1 a2) := by
  unfold execShadowStop
  repeat' first
    | with_reducible assumption
    | (extract_lets +onlyGivenNames x; first | (refine Same.cut M s0 x ?_ ?_; (focus (dsimp -zeta only [x]; clear x)); rotate_left 1; clear_value x; revert x; intro _ _) | (have hh := fun a => x a; clear hh; dsimp -zeta only [x]; clear x) | (clear_value x; revert x; intro _) | (dsimp -zeta only [x]; clear x))
    | with_reducible refine OutSame.next ?_
    | with_reducible refine regCmd_same (fun x0 k0 => ?_) ?_ (Same.sub hm rfl)
    | with_reducible refine setLpeStatus_same ?_ (Same.sub hm rfl)
    | with_reducible refine loopDenied_same ?_ (Same.sub hm rfl)
    | with_reducible refine updShadow_same ?_ (Same.sub hm rfl)
    | split

theorem execShadowStart_same {M : Nat} {s0 : State} {a0 a1 a2 a3 a4} (h4 : Same M s0 a4) (hm : 1080 ||| M = M) :
    OutSame M s0 (execShadowStart a0 a1 a2 a3 a4) := by
  unfold execShadowStart
  repeat' first
    | with_reducible assumption
    | (extract_lets +onlyGivenNames x; first | (refine Same.cut M s0 x ?_ ?_; (focus (dsimp -zeta only [x]; clear x)); rotate_left 1; clear_value x; revert x; intro _ _) | (have hh := fun a => x a; clear hh; dsimp -zeta only [x]; clear x) | (clear_value x; revert x; intro _) | (dsimp -zeta only [x]; clear x))
    | with_reducible refine OutSame.next ?_
    | with_reducible refine regCmd_same (fun x0 k0 => ?_) ?_ (Same.sub hm rfl)
    | with_reducible refine setLpeStatus_same ?_ (Same.sub hm rfl)
    | with_reducible refine setCtl_same ?_ (Same.sub hm rfl)
    | with_reducible refine loopDenied_same ?_ (Same.sub hm rfl)
    | with_reducible refine updShadow_same ?_ (Same.sub hm rfl)
    | split

theorem execLpeResume_same {M : Nat} {s0 : State} {a0 a1} (h1 : Same M s0 a1) (hm : 1080 ||| M = M) :
    OutSame M s0 (execLpeResume a0 a1) := by
  unfold execLpeResume
  repeat' first
    | with_reducible assumption
    | (extract_lets +onlyGivenNames x; first | (refine Same.cut M s0 x ?_ ?_; (focus (dsimp -zeta only [x]; clear x)); rotate_left 1; clear_value x; revert x; intro _ _) | (have hh := fun a => x a; clear hh; dsimp -zeta only [x]; clear x) | (clear_value x; revert x; intro _) | (dsimp -zeta only [x]; clear x))
    | with_reducible refine OutSame.next ?_
    | with_reducible refine regCmd_same (fun x0 k0 => ?_) ?_ (Same.sub hm rfl)
    | split
    | with_reducible refine Same.up_lpe ?_ (Same.sub hm rfl)

theorem revertOp_same {M : Nat} {s0 : State} {a0 a1 a2} (h2 : Same M s0 a2) (hm : 1040 ||| M = M) :
    Same M s0 (revertOp a0 a1 a2) := by
  unfold revertOp
  repeat' first
    | with_reducible assumption
    | (extract_lets +onlyGivenNames x; first | (refine Same.cut M s0 x ?_ ?_; (focus (dsimp -zeta only [x]; clear x)); rotate_left 1; clear_value x; revert x; intro _ _) | (have hh := fun a => x a; clear hh; dsimp -zeta only [x]; clear x) | (clear_value x; revert x; intro _) | (dsimp -zeta only [x]; clear x))
    | with_reducible refine updSlot_same ?_ (Same.sub hm rfl)
    | with_reducible refine record_same ?_ (Same.sub hm rfl)
    | split

theorem revertCmdOp_same {M : Nat} {s0 : State} {a0} (h0 : Same M s0 a0) (hm : 1048 ||| M = M) :
    Same M s0 (revertCmdOp a0) := by
  unfold revertCmdOp
  repeat' first
    | with_reducible assumption
    | with_reducible refine revertOp_same ?_ (Same.sub hm rfl)
    | with_reducible refine setRtCode_same ?_ (Same.sub hm rfl)
    | split

theorem execRevertRetune_same {M : Nat} {s0 : State} {a0 a1} (h1 : Same M s0 a1) (hm : 1080 ||| M = M) :
    OutSame M s0 (execRevertRetune a0 a1) := by
  unfold execRevertRetune
  repeat' first
    | with_reducible assumption
    | with_reducible refine OutSame.next ?_
    | with_reducible refine rtCmd_same (fun x0 k0 => ?_) ?_ (Same.sub hm rfl)
    | with_reducible refine revertCmdOp_same ?_ (Same.sub hm rfl)

theorem tryOp_same {M : Nat} {s0 : State} {a0} (h0 : Same M s0 a0) (hm : 1032 ||| M = M) :
    Same M s0 (tryOp a0) := by
  unfold tryOp
  repeat' first
    | with_reducible assumption
    | (extract_lets +onlyGivenNames x; first | (refine Same.cut M s0 x ?_ ?_; (focus (dsimp -zeta only [x]; clear x)); rotate_left 1; clear_value x; revert x; intro _ _) | (have hh := fun a => x a; clear hh; dsimp -zeta only [x]; clear x) | (clear_value x; revert x; intro _) | (dsimp -zeta only [x]; clear x))
    | with_reducible refine setRtCode_same ?_ (Same.sub hm rfl)
    | with_reducible refine updShadow_same ?_ (Same.sub hm rfl)
    | split
    | with_reducible refine Same.up_lpe ?_ (Same.sub hm rfl)

theorem execTryRetune_same {M : Nat} {s0 : State} {a0 a1} (h1 : Same M s0 a1) (hm : 1080 ||| M = M) :
    OutSame M s0 (execTryRetune a0 a1) := by
  unfold execTryRetune
  repeat' first
    | with_reducible assumption
    | with_reducible refine OutSame.next ?_
    | with_reducible refine tryOp_same ?_ (Same.sub hm rfl)
    | with_reducible refine rtCmd_same (fun x0 k0 => ?_) ?_ (Same.sub hm rfl)

theorem loopEvaluationOp_same {M : Nat} {s0 : State} {a0 a1} (h1 : Same M s0 a1) (hm : 1148220 ||| M = M) :
    Same M s0 (loopEvaluationOp a0 a1) := by
  unfold loopEvaluationOp
  repeat' first
    | with_reducible assumption
    | (extract_lets +onlyGivenNames x; first | (refine Same.cut M s0 x ?_ ?_; (focus (dsimp -zeta only [x]; clear x)); rotate_left 1; clear_value x; revert x; intro _ _) | (have hh := fun a => x a; clear hh; dsimp -zeta only [x]; clear x) | (clear_value x; revert x; intro _) | (dsimp -zeta only [x]; clear x))
    | with_reducible refine updSlot_same ?_ (Same.sub hm rfl)
    | with_reducible refine evalSlot_same ?_ (Same.sub hm rfl)
    | split
    | with_reducible refine Same.up_lpe ?_ (Same.sub hm rfl)

theorem execLoopEvaluation_same {M : Nat} {s0 : State} {a0 a1} (h1 : Same M s0 a1) (hm : 1148220 ||| M = M) :
    OutSame M s0 (execLoopEvaluation a0 a1) := by
  unfold execLoopEvaluation
  repeat' first
    | with_reducible assumption
    | with_reducible refine OutSame.next ?_
    | with_reducible refine loopEvaluationOp_same ?_ (Same.sub hm rfl)

theorem missSlot_same {M : Nat} {s0 : State} {a0 a1} (h1 : Same M s0 a1) (hm : 1148216 ||| M = M) :
    Same M s0 (missSlot a0 a1) := by
  unfold missSlot
  repeat' first
    | with_reducible assumption
    | (extract_lets +onlyGivenNames x; first | (refine Same.cut M s0 x ?_ ?_; (focus (dsimp -zeta only [x]; clear x)); rotate_left 1; clear_value x; revert x; intro _ _) | (have hh := fun a => x a; clear hh; dsimp -zeta only [x]; clear x) | (clear_value x; revert x; intro _) | (dsimp -zeta only [x]; clear x))
    | with_reducible refine recopy_same ?_ (Same.sub hm rfl)
    | with_reducible refine faultSlot_same ?_ (Same.sub hm rfl)
    | with_reducible refine updSlot_same ?_ (Same.sub hm rfl)
    | with_reducible refine record_same ?_ (Same.sub hm rfl)
    | with_reducible refine dropCapture_same ?_ (Same.sub hm rfl)
    | split
    | with_reducible refine Same.up_lpe ?_ (Same.sub hm rfl)

theorem removeSlot_same {M : Nat} {s0 : State} {a0 a1} (h1 : Same M s0 a1) (hm : 1148176 ||| M = M) :
    Same M s0 (removeSlot a0 a1) := by
  unfold removeSlot
  repeat' first
    | with_reducible assumption
    | (extract_lets +onlyGivenNames x; first | (refine Same.cut M s0 x ?_ ?_; (focus (dsimp -zeta only [x]; clear x)); rotate_left 1; clear_value x; revert x; intro _ _) | (have hh := fun a => x a; clear hh; dsimp -zeta only [x]; clear x) | (clear_value x; revert x; intro _) | (dsimp -zeta only [x]; clear x))
    | with_reducible refine substituteAll_same ?_ (Same.sub hm rfl)
    | with_reducible refine endShadows_same ?_ (Same.sub hm rfl)
    | with_reducible refine dropCapture_same ?_ (Same.sub hm rfl)
    | split
    | with_reducible refine Same.up_lpe ?_ (Same.sub hm rfl)

theorem settleReloads_same {M : Nat} {s0 : State} {a0 a1} (h1 : Same M s0 a1) (hm : 1148176 ||| M = M) :
    Same M s0 (settleReloads a0 a1) := by
  unfold settleReloads
  repeat' first
    | with_reducible assumption
    | with_reducible refine removeSlot_same ?_ (Same.sub hm rfl)
    | with_reducible refine reloadSlot_same ?_ (Same.sub hm rfl)
    | with_reducible refine Same.foldl (fun _ _ _ => ?_) ?_
    | split

theorem loopFrameOp_same {M : Nat} {s0 : State} {a0} (h0 : Same M s0 a0) (hm : 1148216 ||| M = M) :
    Same M s0 (loopFrameOp a0) := by
  unfold loopFrameOp
  repeat' first
    | with_reducible assumption
    | (extract_lets +onlyGivenNames x; first | (refine Same.cut M s0 x ?_ ?_; (focus (dsimp -zeta only [x]; clear x)); rotate_left 1; clear_value x; revert x; intro _ _) | (have hh := fun a => x a; clear hh; dsimp -zeta only [x]; clear x) | (clear_value x; revert x; intro _) | (dsimp -zeta only [x]; clear x))
    | with_reducible refine missSlot_same ?_ (Same.sub hm rfl)
    | with_reducible refine settleReloads_same ?_ (Same.sub hm rfl)
    | with_reducible refine Same.foldl (fun _ _ _ => ?_) ?_
    | split
    | with_reducible refine Same.up_lpe ?_ (Same.sub hm rfl)

theorem execLoopFrame_same {M : Nat} {s0 : State} {a0} (h0 : Same M s0 a0) (hm : 1148216 ||| M = M) :
    OutSame M s0 (execLoopFrame a0) := by
  unfold execLoopFrame
  repeat' first
    | with_reducible assumption
    | with_reducible refine OutSame.next ?_
    | with_reducible refine loopFrameOp_same ?_ (Same.sub hm rfl)

theorem loopSnapshotOp_same {M : Nat} {s0 : State} {a0 a1} (h1 : Same M s0 a1) (hm : 1080 ||| M = M) :
    Same M s0 (loopSnapshotOp a0 a1) := by
  unfold loopSnapshotOp
  repeat' first
    | with_reducible assumption
    | (extract_lets +onlyGivenNames x; first | (refine Same.cut M s0 x ?_ ?_; (focus (dsimp -zeta only [x]; clear x)); rotate_left 1; clear_value x; revert x; intro _ _) | (have hh := fun a => x a; clear hh; dsimp -zeta only [x]; clear x) | (clear_value x; revert x; intro _) | (dsimp -zeta only [x]; clear x))
    | with_reducible refine xchRefuse_same ?_ (Same.sub hm rfl)
    | with_reducible refine updSlot_same ?_ (Same.sub hm rfl)
    | split
    | with_reducible refine Same.up_lpe ?_ (Same.sub hm rfl)

theorem execLoopSnapshot_same {M : Nat} {s0 : State} {a0 a1} (h1 : Same M s0 a1) (hm : 1080 ||| M = M) :
    OutSame M s0 (execLoopSnapshot a0 a1) := by
  unfold execLoopSnapshot
  repeat' first
    | with_reducible assumption
    | with_reducible refine OutSame.next ?_
    | with_reducible refine loopSnapshotOp_same ?_ (Same.sub hm rfl)

theorem lpeFeOp_same {M : Nat} {s0 : State} {a0 a1} (h1 : Same M s0 a1) (hm : 1148216 ||| M = M) :
    Same M s0 (lpeFeOp a0 a1) := by
  unfold lpeFeOp
  repeat' first
    | with_reducible assumption
    | (extract_lets +onlyGivenNames x; first | (refine Same.cut M s0 x ?_ ?_; (focus (dsimp -zeta only [x]; clear x)); rotate_left 1; clear_value x; revert x; intro _ _) | (have hh := fun a => x a; clear hh; dsimp -zeta only [x]; clear x) | (clear_value x; revert x; intro _) | (dsimp -zeta only [x]; clear x))
    | with_reducible refine updSlot_same ?_ (Same.sub hm rfl)
    | with_reducible refine viaTrellis_same (fun x0 k0 => ?_) ?_ (Same.sub hm rfl)
    | with_reducible refine record_same ?_ (Same.sub hm rfl)
    | with_reducible refine writeFe_same ?_ (Same.sub hm rfl)
    | with_reducible refine endShadows_same ?_ (Same.sub hm rfl)
    | with_reducible refine dropCapture_same ?_ (Same.sub hm rfl)
    | split

theorem execLpeFe_same {M : Nat} {s0 : State} {a0 a1} (h1 : Same M s0 a1) (hm : 1148216 ||| M = M) :
    OutSame M s0 (execLpeFe a0 a1) := by
  unfold execLpeFe
  repeat' first
    | with_reducible assumption
    | with_reducible refine OutSame.next ?_
    | with_reducible refine lpeFeOp_same ?_ (Same.sub hm rfl)

theorem execLpeLate_same {M : Nat} {s0 : State} {a0 a1} (h1 : Same M s0 a1) (hm : 1148216 ||| M = M) :
    OutSame M s0 (execLpeLate a0 a1) := by
  unfold execLpeLate
  repeat' first
    | with_reducible assumption
    | with_reducible refine OutSame.next ?_
    | with_reducible refine missSlot_same ?_ (Same.sub hm rfl)
    | split

theorem execShadowComplete_same {M : Nat} {s0 : State} {a0 a1} (h1 : Same M s0 a1) (hm : 1024 ||| M = M) :
    OutSame M s0 (execShadowComplete a0 a1) := by
  unfold execShadowComplete
  repeat' first
    | with_reducible assumption
    | (extract_lets +onlyGivenNames x; first | (refine Same.cut M s0 x ?_ ?_; (focus (dsimp -zeta only [x]; clear x)); rotate_left 1; clear_value x; revert x; intro _ _) | (have hh := fun a => x a; clear hh; dsimp -zeta only [x]; clear x) | (clear_value x; revert x; intro _) | (dsimp -zeta only [x]; clear x))
    | with_reducible refine OutSame.next ?_
    | with_reducible refine updShadow_same ?_ (Same.sub hm rfl)
    | split

theorem shadowEvaluationOp_same {M : Nat} {s0 : State} {a0 a1} (h1 : Same M s0 a1) (hm : 1148216 ||| M = M) :
    Same M s0 (shadowEvaluationOp a0 a1) := by
  unfold shadowEvaluationOp
  repeat' first
    | with_reducible assumption
    | (extract_lets +onlyGivenNames x; first | (refine Same.cut M s0 x ?_ ?_; (focus (dsimp -zeta only [x]; clear x)); rotate_left 1; clear_value x; revert x; intro _ _) | (have hh := fun a => x a; clear hh; dsimp -zeta only [x]; clear x) | (clear_value x; revert x; intro _) | (dsimp -zeta only [x]; clear x))
    | with_reducible refine faultSlot_same ?_ (Same.sub hm rfl)
    | with_reducible refine updShadow_same ?_ (Same.sub hm rfl)
    | split

theorem execShadowEvaluation_same {M : Nat} {s0 : State} {a0 a1} (h1 : Same M s0 a1) (hm : 1148216 ||| M = M) :
    OutSame M s0 (execShadowEvaluation a0 a1) := by
  unfold execShadowEvaluation
  repeat' first
    | with_reducible assumption
    | with_reducible refine OutSame.next ?_
    | with_reducible refine shadowEvaluationOp_same ?_ (Same.sub hm rfl)
    | split

theorem noteClip_same {M : Nat} {s0 : State} {a0 a1 a2 a3 a4} (h4 : Same M s0 a4) (hm : 16 ||| M = M) :
    Same M s0 (noteClip a0 a1 a2 a3 a4) := by
  unfold noteClip
  repeat' first
    | with_reducible assumption
    | with_reducible refine record_same ?_ (Same.sub hm rfl)
    | split

theorem fitOp_same {M : Nat} {s0 : State} {a0 a1 a2 a3 a4} (h4 : Same M s0 a4) (hm : 1040 ||| M = M) :
    Same M s0 (fitOp a0 a1 a2 a3 a4) := by
  unfold fitOp
  repeat' first
    | with_reducible assumption
    | (extract_lets +onlyGivenNames x; first | (refine Same.cut M s0 x ?_ ?_; (focus (dsimp -zeta only [x]; clear x)); rotate_left 1; clear_value x; revert x; intro _ _) | (have hh := fun a => x a; clear hh; dsimp -zeta only [x]; clear x) | (clear_value x; revert x; intro _) | (dsimp -zeta only [x]; clear x))
    | with_reducible refine noteClip_same ?_ (Same.sub hm rfl)
    | with_reducible refine updSlot_same ?_ (Same.sub hm rfl)
    | split
    | with_reducible refine Same.up_lpe ?_ (Same.sub hm rfl)

theorem vintnerFitOp_same {M : Nat} {s0 : State} {a0 a1} (h1 : Same M s0 a1) (hm : 1040 ||| M = M) :
    Same M s0 (vintnerFitOp a0 a1) := by
  unfold vintnerFitOp
  repeat' first
    | with_reducible assumption
    | (extract_lets +onlyGivenNames x; first | (refine Same.cut M s0 x ?_ ?_; (focus (dsimp -zeta only [x]; clear x)); rotate_left 1; clear_value x; revert x; intro _ _) | (have hh := fun a => x a; clear hh; dsimp -zeta only [x]; clear x) | (clear_value x; revert x; intro _) | (dsimp -zeta only [x]; clear x))
    | with_reducible refine revertOp_same ?_ (Same.sub hm rfl)
    | with_reducible refine updSlot_same ?_ (Same.sub hm rfl)
    | with_reducible refine fitOp_same ?_ (Same.sub hm rfl)
    | split
    | with_reducible refine Same.up_lpe ?_ (Same.sub hm rfl)

theorem execVintnerRetuneFit_same {M : Nat} {s0 : State} {a0 a1} (h1 : Same M s0 a1) (hm : 1040 ||| M = M) :
    OutSame M s0 (execVintnerRetuneFit a0 a1) := by
  unfold execVintnerRetuneFit
  repeat' first
    | with_reducible assumption
    | with_reducible refine OutSame.next ?_
    | with_reducible refine vintnerFitOp_same ?_ (Same.sub hm rfl)

end Sys2Proof.Machine
end

