-- ==== Sys2Proof/Laws/FrameSafetyOps.lean ====
section
/-!
SUPPORT. FrameSafetyOps.lean: for each operation of Machine/SafetyOps.lean, the components of State it can change: the result agrees with the
state it starts from on every component whose bit in the mask is 0 (the bits as in `Same`).
-/
namespace Sys2Proof.Machine
set_option linter.all false

theorem safLog_same {M : Nat} {s0 : State} {a0 a1 a2 a3 a4 a5} (h5 : Same M s0 a5) (hm : 4112 ||| M = M) :
    Same M s0 (safLog a0 a1 a2 a3 a4 a5) := by
  unfold safLog
  repeat' first
    | with_reducible assumption
    | (extract_lets +onlyGivenNames x; first | (refine Same.cut M s0 x ?_ ?_; (focus (dsimp -zeta only [x]; clear x)); rotate_left 1; clear_value x; revert x; intro _ _) | (have hh := fun a => x a; clear hh; dsimp -zeta only [x]; clear x) | (clear_value x; revert x; intro _) | (dsimp -zeta only [x]; clear x))
    | with_reducible refine record_same ?_ (Same.sub hm rfl)
    | split
    | with_reducible refine Same.up_saf ?_ (Same.sub hm rfl)

theorem safNote_same {M : Nat} {s0 : State} {a0 a1 a2 a3} (h3 : Same M s0 a3) (hm : 4112 ||| M = M) :
    Same M s0 (safNote a0 a1 a2 a3) := by
  unfold safNote
  repeat' first
    | with_reducible assumption
    | with_reducible refine safLog_same ?_ (Same.sub hm rfl)

theorem setPair_same {M : Nat} {s0 : State} {a0 a1 a2} (h2 : Same M s0 a2) (hm : 4096 ||| M = M) :
    Same M s0 (setPair a0 a1 a2) := by
  unfold setPair
  repeat' first
    | with_reducible assumption
    | (extract_lets +onlyGivenNames x; first | (refine Same.cut M s0 x ?_ ?_; (focus (dsimp -zeta only [x]; clear x)); rotate_left 1; clear_value x; revert x; intro _ _) | (have hh := fun a => x a; clear hh; dsimp -zeta only [x]; clear x) | (clear_value x; revert x; intro _) | (dsimp -zeta only [x]; clear x))
    | split
    | with_reducible refine Same.up_saf ?_ (Same.sub hm rfl)

theorem fbFault_same {M : Nat} {s0 : State} {a0 a1} (h1 : Same M s0 a1) (hm : 4112 ||| M = M) :
    Same M s0 (fbFault a0 a1) := by
  unfold fbFault
  repeat' first
    | with_reducible assumption
    | (extract_lets +onlyGivenNames x; first | (refine Same.cut M s0 x ?_ ?_; (focus (dsimp -zeta only [x]; clear x)); rotate_left 1; clear_value x; revert x; intro _ _) | (have hh := fun a => x a; clear hh; dsimp -zeta only [x]; clear x) | (clear_value x; revert x; intro _) | (dsimp -zeta only [x]; clear x))
    | with_reducible refine safNote_same ?_ (Same.sub hm rfl)
    | with_reducible refine setPair_same ?_ (Same.sub hm rfl)
    | split

theorem pairEval_same {M : Nat} {s0 : State} {a0 a1} (h1 : Same M s0 a1) (hm : 4112 ||| M = M) :
    Same M s0 (pairEval a0 a1) := by
  unfold pairEval
  repeat' first
    | with_reducible assumption
    | (extract_lets +onlyGivenNames x; first | (refine Same.cut M s0 x ?_ ?_; (focus (dsimp -zeta only [x]; clear x)); rotate_left 1; clear_value x; revert x; intro _ _) | (have hh := fun a => x a; clear hh; dsimp -zeta only [x]; clear x) | (clear_value x; revert x; intro _) | (dsimp -zeta only [x]; clear x))
    | with_reducible refine fbFault_same ?_ (Same.sub hm rfl)
    | with_reducible refine setPair_same ?_ (Same.sub hm rfl)
    | split

theorem pairsEval_same {M : Nat} {s0 : State} {a0} (h0 : Same M s0 a0) (hm : 4112 ||| M = M) :
    Same M s0 (pairsEval a0) := by
  unfold pairsEval
  repeat' first
    | with_reducible assumption
    | with_reducible refine pairEval_same ?_ (Same.sub hm rfl)
    | with_reducible refine Same.foldl (fun _ _ _ => ?_) ?_

theorem degrade_same {M : Nat} {s0 : State} {a0 a1 a2} (h2 : Same M s0 a2) (hm : 4112 ||| M = M) :
    Same M s0 (degrade a0 a1 a2) := by
  unfold degrade
  repeat' first
    | with_reducible assumption
    | (extract_lets +onlyGivenNames x; first | (refine Same.cut M s0 x ?_ ?_; (focus (dsimp -zeta only [x]; clear x)); rotate_left 1; clear_value x; revert x; intro _ _) | (have hh := fun a => x a; clear hh; dsimp -zeta only [x]; clear x) | (clear_value x; revert x; intro _) | (dsimp -zeta only [x]; clear x))
    | with_reducible refine safNote_same ?_ (Same.sub hm rfl)
    | with_reducible refine setPair_same ?_ (Same.sub hm rfl)
    | split

theorem updCh_same {M : Nat} {s0 : State} {a0 a1 a2} (h2 : Same M s0 a2) (hm : 4096 ||| M = M) :
    Same M s0 (updCh a0 a1 a2) := by
  unfold updCh
  repeat' first
    | with_reducible assumption
    | (extract_lets +onlyGivenNames x; first | (refine Same.cut M s0 x ?_ ?_; (focus (dsimp -zeta only [x]; clear x)); rotate_left 1; clear_value x; revert x; intro _ _) | (have hh := fun a => x a; clear hh; dsimp -zeta only [x]; clear x) | (clear_value x; revert x; intro _) | (dsimp -zeta only [x]; clear x))
    | split
    | with_reducible refine Same.up_saf ?_ (Same.sub hm rfl)

theorem setFnm_same {M : Nat} {s0 : State} {a0 a1 a2 a3} (h3 : Same M s0 a3) (hm : 4096 ||| M = M) :
    Same M s0 (setFnm a0 a1 a2 a3) := by
  unfold setFnm
  repeat' first
    | with_reducible assumption
    | with_reducible refine updCh_same ?_ (Same.sub hm rfl)
    | split

theorem fnFault_same {M : Nat} {s0 : State} {a0 a1 a2 a3} (h3 : Same M s0 a3) (hm : 4112 ||| M = M) :
    Same M s0 (fnFault a0 a1 a2 a3) := by
  unfold fnFault
  repeat' first
    | with_reducible assumption
    | (extract_lets +onlyGivenNames x; first | (refine Same.cut M s0 x ?_ ?_; (focus (dsimp -zeta only [x]; clear x)); rotate_left 1; clear_value x; revert x; intro _ _) | (have hh := fun a => x a; clear hh; dsimp -zeta only [x]; clear x) | (clear_value x; revert x; intro _) | (dsimp -zeta only [x]; clear x))
    | with_reducible refine safNote_same ?_ (Same.sub hm rfl)
    | with_reducible refine setFnm_same ?_ (Same.sub hm rfl)
    | split
    | with_reducible refine Same.up_saf ?_ (Same.sub hm rfl)

theorem stdEval_same {M : Nat} {s0 : State} {a0 a1 a2} (h2 : Same M s0 a2) (hm : 4112 ||| M = M) :
    Same M s0 (stdEval a0 a1 a2) := by
  unfold stdEval
  repeat' first
    | with_reducible assumption
    | (extract_lets +onlyGivenNames x; first | (refine Same.cut M s0 x ?_ ?_; (focus (dsimp -zeta only [x]; clear x)); rotate_left 1; clear_value x; revert x; intro _ _) | (have hh := fun a => x a; clear hh; dsimp -zeta only [x]; clear x) | (clear_value x; revert x; intro _) | (dsimp -zeta only [x]; clear x))
    | with_reducible refine fnFault_same ?_ (Same.sub hm rfl)
    | with_reducible refine setFnm_same ?_ (Same.sub hm rfl)
    | split

theorem twoEval_same {M : Nat} {s0 : State} {a0 a1 a2} (h2 : Same M s0 a2) (hm : 4112 ||| M = M) :
    Same M s0 (twoEval a0 a1 a2) := by
  unfold twoEval
  repeat' first
    | with_reducible assumption
    | (extract_lets +onlyGivenNames x; first | (refine Same.cut M s0 x ?_ ?_; (focus (dsimp -zeta only [x]; clear x)); rotate_left 1; clear_value x; revert x; intro _ _) | (have hh := fun a => x a; clear hh; dsimp -zeta only [x]; clear x) | (clear_value x; revert x; intro _) | (dsimp -zeta only [x]; clear x))
    | with_reducible refine fnFault_same ?_ (Same.sub hm rfl)
    | with_reducible refine setFnm_same ?_ (Same.sub hm rfl)
    | split

theorem fnEval_same {M : Nat} {s0 : State} {a0 a1 a2} (h2 : Same M s0 a2) (hm : 4112 ||| M = M) :
    Same M s0 (fnEval a0 a1 a2) := by
  unfold fnEval
  repeat' first
    | with_reducible assumption
    | with_reducible refine stdEval_same ?_ (Same.sub hm rfl)
    | with_reducible refine twoEval_same ?_ (Same.sub hm rfl)
    | split

theorem lockout_same {M : Nat} {s0 : State} {a0 a1} (h1 : Same M s0 a1) (hm : 4112 ||| M = M) :
    Same M s0 (lockout a0 a1) := by
  unfold lockout
  repeat' first
    | with_reducible assumption
    | (extract_lets +onlyGivenNames x; first | (refine Same.cut M s0 x ?_ ?_; (focus (dsimp -zeta only [x]; clear x)); rotate_left 1; clear_value x; revert x; intro _ _) | (have hh := fun a => x a; clear hh; dsimp -zeta only [x]; clear x) | (clear_value x; revert x; intro _) | (dsimp -zeta only [x]; clear x))
    | with_reducible refine safNote_same ?_ (Same.sub hm rfl)
    | with_reducible refine setPair_same ?_ (Same.sub hm rfl)
    | split

theorem leaveFault_same {M : Nat} {s0 : State} {a0 a1} (h1 : Same M s0 a1) (hm : 4112 ||| M = M) :
    Same M s0 (leaveFault a0 a1) := by
  unfold leaveFault
  repeat' first
    | with_reducible assumption
    | (extract_lets +onlyGivenNames x; first | (refine Same.cut M s0 x ?_ ?_; (focus (dsimp -zeta only [x]; clear x)); rotate_left 1; clear_value x; revert x; intro _ _) | (have hh := fun a => x a; clear hh; dsimp -zeta only [x]; clear x) | (clear_value x; revert x; intro _) | (dsimp -zeta only [x]; clear x))
    | with_reducible refine lockout_same ?_ (Same.sub hm rfl)
    | with_reducible refine setPair_same ?_ (Same.sub hm rfl)
    | split

theorem manualReset_same {M : Nat} {s0 : State} {a0 a1 a2} (h2 : Same M s0 a2) (hm : 4112 ||| M = M) :
    Same M s0 (manualReset a0 a1 a2) := by
  unfold manualReset
  repeat' first
    | with_reducible assumption
    | (extract_lets +onlyGivenNames x; first | (refine Same.cut M s0 x ?_ ?_; (focus (dsimp -zeta only [x]; clear x)); rotate_left 1; clear_value x; revert x; intro _ _) | (have hh := fun a => x a; clear hh; dsimp -zeta only [x]; clear x) | (clear_value x; revert x; intro _) | (dsimp -zeta only [x]; clear x))
    | with_reducible refine leaveFault_same ?_ (Same.sub hm rfl)
    | with_reducible refine setPair_same ?_ (Same.sub hm rfl)
    | with_reducible refine setFnm_same ?_ (Same.sub hm rfl)
    | with_reducible refine Same.foldl (fun _ _ _ => ?_) ?_
    | split

theorem sampleInputs_same {M : Nat} {s0 : State} {a0 a1 a2 a3} (h3 : Same M s0 a3) (hm : 4096 ||| M = M) :
    Same M s0 (sampleInputs a0 a1 a2 a3).1 := by
  unfold sampleInputs
  repeat' first
    | with_reducible assumption
    | (extract_lets +onlyGivenNames x; first | (refine Same.cut M s0 x ?_ ?_; (focus (dsimp -zeta only [x]; clear x)); rotate_left 1; clear_value x; revert x; intro _ _) | (have hh := fun a => x a; clear hh; dsimp -zeta only [x]; clear x) | (clear_value x; revert x; intro _) | (dsimp -zeta only [x]; clear x))
    | with_reducible refine updCh_same ?_ (Same.sub hm rfl)
    | with_reducible refine Same.foldl (fun _ _ _ => ?_) ?_
    | with_reducible refine Same.foldl1 (fun _ _ _ => ?_) ?_
    | split
    | dsimp -zeta only

theorem takeFb_same {M : Nat} {s0 : State} {a0 a1} (h1 : Same M s0 a1) (hm : 4096 ||| M = M) :
    Same M s0 (takeFb a0 a1) := by
  unfold takeFb
  repeat' first
    | with_reducible assumption
    | (extract_lets +onlyGivenNames x; first | (refine Same.cut M s0 x ?_ ?_; (focus (dsimp -zeta only [x]; clear x)); rotate_left 1; clear_value x; revert x; intro _ _) | (have hh := fun a => x a; clear hh; dsimp -zeta only [x]; clear x) | (clear_value x; revert x; intro _) | (dsimp -zeta only [x]; clear x))
    | with_reducible refine setPair_same ?_ (Same.sub hm rfl)
    | with_reducible refine Same.foldl (fun _ _ _ => ?_) ?_
    | split

theorem channelSample_same {M : Nat} {s0 : State} {a0 a1 a2 a3 a4} (h4 : Same M s0 a4) (hm : 4112 ||| M = M) :
    Same M s0 (channelSample a0 a1 a2 a3 a4) := by
  unfold channelSample
  repeat' first
    | with_reducible assumption
    | (extract_lets +onlyGivenNames x; first | (refine Same.cut M s0 x ?_ ?_; (focus (dsimp -zeta only [x]; clear x)); rotate_left 1; clear_value x; revert x; intro _ _) | (refine Same.cut M s0 x.1 ?_ ?_; (focus (dsimp -zeta only [x]; clear x)); rotate_left 1; clear_value x; revert x; intro _ _) | (have hh := fun a => x a; clear hh; dsimp -zeta only [x]; clear x) | (clear_value x; revert x; intro _) | (dsimp -zeta only [x]; clear x))
    | with_reducible refine fnEval_same ?_ (Same.sub hm rfl)
    | with_reducible refine pairsEval_same ?_ (Same.sub hm rfl)
    | with_reducible refine manualReset_same ?_ (Same.sub hm rfl)
    | with_reducible refine sampleInputs_same ?_ (Same.sub hm rfl)
    | with_reducible refine Same.fst ‹_› (sampleInputs_same ?_ (Same.sub hm rfl))
    | with_reducible refine takeFb_same ?_ (Same.sub hm rfl)
    | with_reducible refine updCh_same ?_ (Same.sub hm rfl)
    | with_reducible refine Same.snd ‹_› ?_
    | with_reducible refine Same.fst ‹_› ?_
    | with_reducible refine Same.foldl1 (fun _ _ _ => ?_) ?_
    | with_reducible refine Same.foldl2 (fun _ _ _ => ?_) ?_
    | with_reducible refine Same.foldl (fun _ _ _ => ?_) ?_
    | split

end Sys2Proof.Machine
end

