-- ==== Sys2Proof/Laws/FrameSafetyCmds.lean ====
section
/-!
SUPPORT. FrameSafetyCmds.lean: for each operation of Machine/SafetyCmds.lean, the components of State it can change: the result agrees with the
state it starts from on every component whose bit in the mask is 0 (the bits as in `Same`).
-/
namespace Sys2Proof.Machine
set_option linter.all false

theorem abortLine_same {M : Nat} {s0 : State} {a0} (h0 : Same M s0 a0) (hm : 4112 ||| M = M) :
    Same M s0 (abortLine a0) := by
  unfold abortLine
  repeat' first
    | with_reducible assumption
    | (extract_lets +onlyGivenNames x; first | (refine Same.cut M s0 x ?_ ?_; (focus (dsimp -zeta only [x]; clear x)); rotate_left 1; clear_value x; revert x; intro _ _) | (have hh := fun a => x a; clear hh; dsimp -zeta only [x]; clear x) | (clear_value x; revert x; intro _) | (dsimp -zeta only [x]; clear x))
    | with_reducible refine record_same ?_ (Same.sub hm rfl)
    | split
    | with_reducible refine Same.up_saf ?_ (Same.sub hm rfl)

theorem execSafetyIslandAbort_same {M : Nat} {s0 : State} {a0 a1} (h1 : Same M s0 a1) (hm : 1052728 ||| M = M) :
    OutSame M s0 (execSafetyIslandAbort a0 a1) := by
  unfold execSafetyIslandAbort
  repeat' first
    | with_reducible assumption
    | (extract_lets +onlyGivenNames x; first | (refine Same.cut M s0 x ?_ ?_; (focus (dsimp -zeta only [x]; clear x)); rotate_left 1; clear_value x; revert x; intro _ _) | (have hh := fun a => x a; clear hh; dsimp -zeta only [x]; clear x) | (clear_value x; revert x; intro _) | (dsimp -zeta only [x]; clear x))
    | with_reducible refine OutSame.next ?_
    | with_reducible refine regCmd_same (fun x0 k0 => ?_) ?_ (Same.sub hm rfl)
    | with_reducible refine abortLine_same ?_ (Same.sub hm rfl)
    | split
    | with_reducible refine Same.up_pwr ?_ (Same.sub hm rfl)

theorem installMap_same {M : Nat} {s0 : State} {a0 a1} (h1 : Same M s0 a1) (hm : 4096 ||| M = M) :
    Same M s0 (installMap a0 a1) := by
  unfold installMap
  repeat' first
    | with_reducible assumption
    | (extract_lets +onlyGivenNames x; first | (refine Same.cut M s0 x ?_ ?_; (focus (dsimp -zeta only [x]; clear x)); rotate_left 1; clear_value x; revert x; intro _ _) | (have hh := fun a => x a; clear hh; dsimp -zeta only [x]; clear x) | (clear_value x; revert x; intro _) | (dsimp -zeta only [x]; clear x))
    | split
    | with_reducible refine Same.up_saf ?_ (Same.sub hm rfl)

theorem safAnswer_same {M : Nat} {s0 : State} {a0 a1} (h1 : Same M s0 a1) (hm : 8 ||| M = M) :
    Same M s0 (safAnswer a0 a1) := by
  unfold safAnswer
  repeat' first
    | with_reducible assumption
    | with_reducible refine Same.up_reply ?_ (Same.sub hm rfl)

theorem acceptOp_same {M : Nat} {s0 : State} {a0 a1} (h1 : Same M s0 a1) (hm : 4120 ||| M = M) :
    Same M s0 (acceptOp a0 a1) := by
  unfold acceptOp
  repeat' first
    | with_reducible assumption
    | (extract_lets +onlyGivenNames x; first | (refine Same.cut M s0 x ?_ ?_; (focus (dsimp -zeta only [x]; clear x)); rotate_left 1; clear_value x; revert x; intro _ _) | (have hh := fun a => x a; clear hh; dsimp -zeta only [x]; clear x) | (clear_value x; revert x; intro _) | (dsimp -zeta only [x]; clear x))
    | with_reducible refine safNote_same ?_ (Same.sub hm rfl)
    | with_reducible refine safLog_same ?_ (Same.sub hm rfl)
    | with_reducible refine pairsEval_same ?_ (Same.sub hm rfl)
    | with_reducible refine installMap_same ?_ (Same.sub hm rfl)
    | with_reducible refine safAnswer_same ?_ (Same.sub hm rfl)
    | split

theorem channelFault_same {M : Nat} {s0 : State} {a0 a1 a2} (h2 : Same M s0 a2) (hm : 4112 ||| M = M) :
    Same M s0 (channelFault a0 a1 a2) := by
  unfold channelFault
  repeat' first
    | with_reducible assumption
    | (extract_lets +onlyGivenNames x; first | (refine Same.cut M s0 x ?_ ?_; (focus (dsimp -zeta only [x]; clear x)); rotate_left 1; clear_value x; revert x; intro _ _) | (have hh := fun a => x a; clear hh; dsimp -zeta only [x]; clear x) | (clear_value x; revert x; intro _) | (dsimp -zeta only [x]; clear x))
    | with_reducible refine degrade_same ?_ (Same.sub hm rfl)
    | with_reducible refine record_same ?_ (Same.sub hm rfl)
    | with_reducible refine updCh_same ?_ (Same.sub hm rfl)
    | with_reducible refine Same.foldl (fun _ _ _ => ?_) ?_
    | split

theorem checkCh_same {M : Nat} {s0 : State} {a0 a1 a2 a3} (h3 : Same M s0 a3) (hm : 4112 ||| M = M) :
    Same M s0 (checkCh a0 a1 a2 a3) := by
  unfold checkCh
  repeat' first
    | with_reducible assumption
    | (extract_lets +onlyGivenNames x; first | (refine Same.cut M s0 x ?_ ?_; (focus (dsimp -zeta only [x]; clear x)); rotate_left 1; clear_value x; revert x; intro _ _) | (have hh := fun a => x a; clear hh; dsimp -zeta only [x]; clear x) | (clear_value x; revert x; intro _) | (dsimp -zeta only [x]; clear x))
    | with_reducible refine fnFault_same ?_ (Same.sub hm rfl)
    | with_reducible refine Same.foldl (fun _ _ _ => ?_) ?_
    | split

theorem closeOp_same {M : Nat} {s0 : State} {a0} (h0 : Same M s0 a0) (hm : 4120 ||| M = M) :
    Same M s0 (closeOp a0) := by
  unfold closeOp
  repeat' first
    | with_reducible assumption
    | (extract_lets +onlyGivenNames x; first | (refine Same.cut M s0 x ?_ ?_; (focus (dsimp -zeta only [x]; clear x)); rotate_left 1; clear_value x; revert x; intro _ _) | (have hh := fun a => x a; clear hh; dsimp -zeta only [x]; clear x) | (clear_value x; revert x; intro _) | (dsimp -zeta only [x]; clear x))
    | with_reducible refine safNote_same ?_ (Same.sub hm rfl)
    | with_reducible refine safAnswer_same ?_ (Same.sub hm rfl)
    | with_reducible refine Same.up_saf ?_ (Same.sub hm rfl)

theorem crossPair_same {M : Nat} {s0 : State} {a0 a1} (h1 : Same M s0 a1) (hm : 4112 ||| M = M) :
    Same M s0 (crossPair a0 a1) := by
  unfold crossPair
  repeat' first
    | with_reducible assumption
    | (extract_lets +onlyGivenNames x; first | (refine Same.cut M s0 x ?_ ?_; (focus (dsimp -zeta only [x]; clear x)); rotate_left 1; clear_value x; revert x; intro _ _) | (have hh := fun a => x a; clear hh; dsimp -zeta only [x]; clear x) | (clear_value x; revert x; intro _) | (dsimp -zeta only [x]; clear x))
    | with_reducible refine fnFault_same ?_ (Same.sub hm rfl)
    | with_reducible refine setPair_same ?_ (Same.sub hm rfl)
    | with_reducible refine Same.foldl (fun _ _ _ => ?_) ?_
    | split

theorem deliverMap_same {M : Nat} {s0 : State} {a0 a1} (h1 : Same M s0 a1) (hm : 4096 ||| M = M) :
    Same M s0 (deliverMap a0 a1) := by
  unfold deliverMap
  repeat' first
    | with_reducible assumption
    | (extract_lets +onlyGivenNames x; first | (refine Same.cut M s0 x ?_ ?_; (focus (dsimp -zeta only [x]; clear x)); rotate_left 1; clear_value x; revert x; intro _ _) | (have hh := fun a => x a; clear hh; dsimp -zeta only [x]; clear x) | (clear_value x; revert x; intro _) | (dsimp -zeta only [x]; clear x))
    | split
    | with_reducible refine Same.up_saf ?_ (Same.sub hm rfl)

theorem openOp_same {M : Nat} {s0 : State} {a0 a1 a2} (h2 : Same M s0 a2) (hm : 4120 ||| M = M) :
    Same M s0 (openOp a0 a1 a2) := by
  unfold openOp
  repeat' first
    | with_reducible assumption
    | (extract_lets +onlyGivenNames x; first | (refine Same.cut M s0 x ?_ ?_; (focus (dsimp -zeta only [x]; clear x)); rotate_left 1; clear_value x; revert x; intro _ _) | (have hh := fun a => x a; clear hh; dsimp -zeta only [x]; clear x) | (clear_value x; revert x; intro _) | (dsimp -zeta only [x]; clear x))
    | with_reducible refine safNote_same ?_ (Same.sub hm rfl)
    | with_reducible refine safAnswer_same ?_ (Same.sub hm rfl)
    | split
    | with_reducible refine Same.up_saf ?_ (Same.sub hm rfl)

theorem setPasswordOp_same {M : Nat} {s0 : State} {a0 a1 a2} (h2 : Same M s0 a2) (hm : 4124 ||| M = M) :
    Same M s0 (setPasswordOp a0 a1 a2) := by
  unfold setPasswordOp
  repeat' first
    | with_reducible assumption
    | (extract_lets +onlyGivenNames x; first | (refine Same.cut M s0 x ?_ ?_; (focus (dsimp -zeta only [x]; clear x)); rotate_left 1; clear_value x; revert x; intro _ _) | (have hh := fun a => x a; clear hh; dsimp -zeta only [x]; clear x) | (clear_value x; revert x; intro _) | (dsimp -zeta only [x]; clear x))
    | with_reducible refine safNote_same ?_ (Same.sub hm rfl)
    | with_reducible refine bumpFree_same ?_ (Same.sub hm rfl)
    | with_reducible refine safAnswer_same ?_ (Same.sub hm rfl)
    | split
    | with_reducible refine Same.up_saf ?_ (Same.sub hm rfl)

theorem showPendingOp_same {M : Nat} {s0 : State} {a0} (h0 : Same M s0 a0) (hm : 8 ||| M = M) :
    Same M s0 (showPendingOp a0) := by
  unfold showPendingOp
  repeat' first
    | with_reducible assumption
    | with_reducible refine safAnswer_same ?_ (Same.sub hm rfl)
    | split
    | with_reducible refine Same.up_reply ?_ (Same.sub hm rfl)

theorem resetLockoutOp_same {M : Nat} {s0 : State} {a0 a1} (h1 : Same M s0 a1) (hm : 4120 ||| M = M) :
    Same M s0 (resetLockoutOp a0 a1) := by
  unfold resetLockoutOp
  repeat' first
    | with_reducible assumption
    | (extract_lets +onlyGivenNames x; first | (refine Same.cut M s0 x ?_ ?_; (focus (dsimp -zeta only [x]; clear x)); rotate_left 1; clear_value x; revert x; intro _ _) | (have hh := fun a => x a; clear hh; dsimp -zeta only [x]; clear x) | (clear_value x; revert x; intro _) | (dsimp -zeta only [x]; clear x))
    | with_reducible refine safNote_same ?_ (Same.sub hm rfl)
    | with_reducible refine safAnswer_same ?_ (Same.sub hm rfl)
    | with_reducible refine setPair_same ?_ (Same.sub hm rfl)
    | split

theorem readLogOp_same {M : Nat} {s0 : State} {a0 a1} (h1 : Same M s0 a1) (hm : 8 ||| M = M) :
    Same M s0 (readLogOp a0 a1) := by
  unfold readLogOp
  repeat' first
    | with_reducible assumption
    | split
    | with_reducible refine Same.up_reply ?_ (Same.sub hm rfl)

theorem sessionMsg_same {M : Nat} {s0 : State} {a0 a1} (h1 : Same M s0 a1) (hm : 4124 ||| M = M) :
    Same M s0 (sessionMsg a0 a1) := by
  unfold sessionMsg
  repeat' first
    | with_reducible assumption
    | with_reducible refine setPasswordOp_same ?_ (Same.sub hm rfl)
    | with_reducible refine showPendingOp_same ?_ (Same.sub hm rfl)
    | with_reducible refine safNote_same ?_ (Same.sub hm rfl)
    | with_reducible refine resetLockoutOp_same ?_ (Same.sub hm rfl)
    | with_reducible refine acceptOp_same ?_ (Same.sub hm rfl)
    | with_reducible refine readLogOp_same ?_ (Same.sub hm rfl)
    | with_reducible refine closeOp_same ?_ (Same.sub hm rfl)
    | with_reducible refine safAnswer_same ?_ (Same.sub hm rfl)
    | split

theorem safMessage_same {M : Nat} {s0 : State} {a0 a1} (h1 : Same M s0 a1) (hm : 4124 ||| M = M) :
    Same M s0 (safMessage a0 a1) := by
  unfold safMessage
  repeat' first
    | with_reducible assumption
    | (extract_lets +onlyGivenNames x; first | (refine Same.cut M s0 x ?_ ?_; (focus (dsimp -zeta only [x]; clear x)); rotate_left 1; clear_value x; revert x; intro _ _) | (have hh := fun a => x a; clear hh; dsimp -zeta only [x]; clear x) | (clear_value x; revert x; intro _) | (dsimp -zeta only [x]; clear x))
    | with_reducible refine openOp_same ?_ (Same.sub hm rfl)
    | with_reducible refine sessionMsg_same ?_ (Same.sub hm rfl)
    | with_reducible refine safAnswer_same ?_ (Same.sub hm rfl)
    | split
    | with_reducible refine Same.up_reply ?_ (Same.sub hm rfl)
    | with_reducible refine Same.up_saf ?_ (Same.sub hm rfl)

theorem execAcceptMap_same {M : Nat} {s0 : State} {a0 a1} (h1 : Same M s0 a1) (hm : 4124 ||| M = M) :
    OutSame M s0 (execAcceptMap a0 a1) := by
  unfold execAcceptMap
  repeat' first
    | with_reducible assumption
    | with_reducible refine OutSame.next ?_
    | with_reducible refine safMessage_same ?_ (Same.sub hm rfl)

theorem execCloseSession_same {M : Nat} {s0 : State} {a0} (h0 : Same M s0 a0) (hm : 4124 ||| M = M) :
    OutSame M s0 (execCloseSession a0) := by
  unfold execCloseSession
  repeat' first
    | with_reducible assumption
    | with_reducible refine OutSame.next ?_
    | with_reducible refine safMessage_same ?_ (Same.sub hm rfl)

theorem execCrossLinkExchange_same {M : Nat} {s0 : State} {a0 a1} (h1 : Same M s0 a1) (hm : 4112 ||| M = M) :
    OutSame M s0 (execCrossLinkExchange a0 a1) := by
  unfold execCrossLinkExchange
  repeat' first
    | with_reducible assumption
    | (extract_lets +onlyGivenNames x; first | (refine Same.cut M s0 x ?_ ?_; (focus (dsimp -zeta only [x]; clear x)); rotate_left 1; clear_value x; revert x; intro _ _) | (have hh := fun a => x a; clear hh; dsimp -zeta only [x]; clear x) | (clear_value x; revert x; intro _) | (dsimp -zeta only [x]; clear x))
    | with_reducible refine OutSame.next ?_
    | with_reducible refine channelFault_same ?_ (Same.sub hm rfl)
    | with_reducible refine pairsEval_same ?_ (Same.sub hm rfl)
    | with_reducible refine updCh_same ?_ (Same.sub hm rfl)
    | with_reducible refine crossPair_same ?_ (Same.sub hm rfl)
    | with_reducible refine Same.foldl (fun _ _ _ => ?_) ?_
    | split
    | with_reducible refine Same.up_saf ?_ (Same.sub hm rfl)

theorem execDegradedTimerExpiry_same {M : Nat} {s0 : State} {a0 a1} (h1 : Same M s0 a1) (hm : 4112 ||| M = M) :
    OutSame M s0 (execDegradedTimerExpiry a0 a1) := by
  unfold execDegradedTimerExpiry
  repeat' first
    | with_reducible assumption
    | (extract_lets +onlyGivenNames x; first | (refine Same.cut M s0 x ?_ ?_; (focus (dsimp -zeta only [x]; clear x)); rotate_left 1; clear_value x; revert x; intro _ _) | (have hh := fun a => x a; clear hh; dsimp -zeta only [x]; clear x) | (clear_value x; revert x; intro _) | (dsimp -zeta only [x]; clear x))
    | with_reducible refine OutSame.next ?_
    | with_reducible refine lockout_same ?_ (Same.sub hm rfl)
    | split

theorem execDiscrepancyTimeout_same {M : Nat} {s0 : State} {a0 a1 a2} (h2 : Same M s0 a2) (hm : 4112 ||| M = M) :
    OutSame M s0 (execDiscrepancyTimeout a0 a1 a2) := by
  unfold execDiscrepancyTimeout
  repeat' first
    | with_reducible assumption
    | (extract_lets +onlyGivenNames x; first | (refine Same.cut M s0 x ?_ ?_; (focus (dsimp -zeta only [x]; clear x)); rotate_left 1; clear_value x; revert x; intro _ _) | (have hh := fun a => x a; clear hh; dsimp -zeta only [x]; clear x) | (clear_value x; revert x; intro _) | (dsimp -zeta only [x]; clear x))
    | with_reducible refine OutSame.next ?_
    | with_reducible refine pairsEval_same ?_ (Same.sub hm rfl)
    | with_reducible refine fnFault_same ?_ (Same.sub hm rfl)
    | split

theorem execFbTimeout_same {M : Nat} {s0 : State} {a0 a1} (h1 : Same M s0 a1) (hm : 4112 ||| M = M) :
    OutSame M s0 (execFbTimeout a0 a1) := by
  unfold execFbTimeout
  repeat' first
    | with_reducible assumption
    | with_reducible refine OutSame.next ?_
    | with_reducible refine fbFault_same ?_ (Same.sub hm rfl)
    | split

theorem execFunctionFaultClear_same {M : Nat} {s0 : State} {a0 a1 a2} (h2 : Same M s0 a2) (hm : 4096 ||| M = M) :
    OutSame M s0 (execFunctionFaultClear a0 a1 a2) := by
  unfold execFunctionFaultClear
  repeat' first
    | with_reducible assumption
    | (extract_lets +onlyGivenNames x; first | (refine Same.cut M s0 x ?_ ?_; (focus (dsimp -zeta only [x]; clear x)); rotate_left 1; clear_value x; revert x; intro _ _) | (have hh := fun a => x a; clear hh; dsimp -zeta only [x]; clear x) | (clear_value x; revert x; intro _) | (dsimp -zeta only [x]; clear x))
    | with_reducible refine OutSame.next ?_
    | with_reducible refine setFnm_same ?_ (Same.sub hm rfl)
    | split

theorem execIntermediateTimeout_same {M : Nat} {s0 : State} {a0 a1 a2} (h2 : Same M s0 a2) (hm : 4112 ||| M = M) :
    OutSame M s0 (execIntermediateTimeout a0 a1 a2) := by
  unfold execIntermediateTimeout
  repeat' first
    | with_reducible assumption
    | (extract_lets +onlyGivenNames x; first | (refine Same.cut M s0 x ?_ ?_; (focus (dsimp -zeta only [x]; clear x)); rotate_left 1; clear_value x; revert x; intro _ _) | (have hh := fun a => x a; clear hh; dsimp -zeta only [x]; clear x) | (clear_value x; revert x; intro _) | (dsimp -zeta only [x]; clear x))
    | with_reducible refine OutSame.next ?_
    | with_reducible refine pairsEval_same ?_ (Same.sub hm rfl)
    | with_reducible refine fnFault_same ?_ (Same.sub hm rfl)
    | split

theorem execKeyswitchEngage_same {M : Nat} {s0 : State} {a0 a1} (h1 : Same M s0 a1) (hm : 4096 ||| M = M) :
    OutSame M s0 (execKeyswitchEngage a0 a1) := by
  unfold execKeyswitchEngage
  repeat' first
    | with_reducible assumption
    | (extract_lets +onlyGivenNames x; first | (refine Same.cut M s0 x ?_ ?_; (focus (dsimp -zeta only [x]; clear x)); rotate_left 1; clear_value x; revert x; intro _ _) | (have hh := fun a => x a; clear hh; dsimp -zeta only [x]; clear x) | (clear_value x; revert x; intro _) | (dsimp -zeta only [x]; clear x))
    | with_reducible refine OutSame.next ?_
    | split
    | with_reducible refine Same.up_saf ?_ (Same.sub hm rfl)

theorem execKeyswitchRelease_same {M : Nat} {s0 : State} {a0 a1} (h1 : Same M s0 a1) (hm : 4096 ||| M = M) :
    OutSame M s0 (execKeyswitchRelease a0 a1) := by
  unfold execKeyswitchRelease
  repeat' first
    | with_reducible assumption
    | (extract_lets +onlyGivenNames x; first | (refine Same.cut M s0 x ?_ ?_; (focus (dsimp -zeta only [x]; clear x)); rotate_left 1; clear_value x; revert x; intro _ _) | (have hh := fun a => x a; clear hh; dsimp -zeta only [x]; clear x) | (clear_value x; revert x; intro _) | (dsimp -zeta only [x]; clear x))
    | with_reducible refine OutSame.next ?_
    | split
    | with_reducible refine Same.up_saf ?_ (Same.sub hm rfl)

theorem execMirrorStale_same {M : Nat} {s0 : State} {a0} (h0 : Same M s0 a0) (hm : 1151248 ||| M = M) :
    OutSame M s0 (execMirrorStale a0) := by
  unfold execMirrorStale
  repeat' first
    | with_reducible assumption
    | (extract_lets +onlyGivenNames x; first | (refine Same.cut M s0 x ?_ ?_; (focus (dsimp -zeta only [x]; clear x)); rotate_left 1; clear_value x; revert x; intro _ _) | (have hh := fun a => x a; clear hh; dsimp -zeta only [x]; clear x) | (clear_value x; revert x; intro _) | (dsimp -zeta only [x]; clear x))
    | with_reducible refine OutSame.next ?_
    | with_reducible refine substituteAll_same ?_ (Same.sub hm rfl)
    | split
    | with_reducible refine Same.up_saf ?_ (Same.sub hm rfl)

theorem safetySupplyOff_same {M : Nat} {s0 : State} {a0} (h0 : Same M s0 a0) (hm : 4096 ||| M = M) :
    Same M s0 (safetySupplyOff a0) := by
  unfold safetySupplyOff
  repeat' first
    | with_reducible assumption
    | (extract_lets +onlyGivenNames x; first | (refine Same.cut M s0 x ?_ ?_; (focus (dsimp -zeta only [x]; clear x)); rotate_left 1; clear_value x; revert x; intro _ _) | (have hh := fun a => x a; clear hh; dsimp -zeta only [x]; clear x) | (clear_value x; revert x; intro _) | (dsimp -zeta only [x]; clear x))
    | split
    | with_reducible refine Same.up_saf ?_ (Same.sub hm rfl)

theorem execOpenSession_same {M : Nat} {s0 : State} {a0 a1 a2} (h2 : Same M s0 a2) (hm : 4124 ||| M = M) :
    OutSame M s0 (execOpenSession a0 a1 a2) := by
  unfold execOpenSession
  repeat' first
    | with_reducible assumption
    | with_reducible refine OutSame.next ?_
    | with_reducible refine safMessage_same ?_ (Same.sub hm rfl)

theorem execPendingMapDelivery_same {M : Nat} {s0 : State} {a0} (h0 : Same M s0 a0) (hm : 4096 ||| M = M) :
    OutSame M s0 (execPendingMapDelivery a0) := by
  unfold execPendingMapDelivery
  repeat' first
    | with_reducible assumption
    | with_reducible refine OutSame.next ?_
    | with_reducible refine deliverMap_same ?_ (Same.sub hm rfl)
    | split

theorem execPwBlockExpiry_same {M : Nat} {s0 : State} {a0} (h0 : Same M s0 a0) (hm : 4096 ||| M = M) :
    OutSame M s0 (execPwBlockExpiry a0) := by
  unfold execPwBlockExpiry
  repeat' first
    | with_reducible assumption
    | (extract_lets +onlyGivenNames x; first | (refine Same.cut M s0 x ?_ ?_; (focus (dsimp -zeta only [x]; clear x)); rotate_left 1; clear_value x; revert x; intro _ _) | (have hh := fun a => x a; clear hh; dsimp -zeta only [x]; clear x) | (clear_value x; revert x; intro _) | (dsimp -zeta only [x]; clear x))
    | with_reducible refine OutSame.next ?_
    | split
    | with_reducible refine Same.up_saf ?_ (Same.sub hm rfl)

theorem execReadLog_same {M : Nat} {s0 : State} {a0 a1} (h1 : Same M s0 a1) (hm : 4124 ||| M = M) :
    OutSame M s0 (execReadLog a0 a1) := by
  unfold execReadLog
  repeat' first
    | with_reducible assumption
    | with_reducible refine OutSame.next ?_
    | with_reducible refine safMessage_same ?_ (Same.sub hm rfl)

theorem execRequestOff_same {M : Nat} {s0 : State} {a0 a1} (h1 : Same M s0 a1) (hm : 4112 ||| M = M) :
    OutSame M s0 (execRequestOff a0 a1) := by
  unfold execRequestOff
  repeat' first
    | with_reducible assumption
    | with_reducible refine OutSame.next ?_
    | with_reducible refine pairEval_same ?_ (Same.sub hm rfl)
    | split

theorem execResetLockout_same {M : Nat} {s0 : State} {a0 a1} (h1 : Same M s0 a1) (hm : 4124 ||| M = M) :
    OutSame M s0 (execResetLockout a0 a1) := by
  unfold execResetLockout
  repeat' first
    | with_reducible assumption
    | with_reducible refine OutSame.next ?_
    | with_reducible refine safMessage_same ?_ (Same.sub hm rfl)

theorem execSafTimeout_same {M : Nat} {s0 : State} {a0} (h0 : Same M s0 a0) (hm : 4112 ||| M = M) :
    OutSame M s0 (execSafTimeout a0) := by
  unfold execSafTimeout
  repeat' first
    | with_reducible assumption
    | (extract_lets +onlyGivenNames x; first | (refine Same.cut M s0 x ?_ ?_; (focus (dsimp -zeta only [x]; clear x)); rotate_left 1; clear_value x; revert x; intro _ _) | (have hh := fun a => x a; clear hh; dsimp -zeta only [x]; clear x) | (clear_value x; revert x; intro _) | (dsimp -zeta only [x]; clear x))
    | with_reducible refine OutSame.next ?_
    | with_reducible refine record_same ?_ (Same.sub hm rfl)
    | split
    | with_reducible refine Same.up_saf ?_ (Same.sub hm rfl)

theorem freshChannel_same {M : Nat} {s0 : State} {a0 a1} (h1 : Same M s0 a1) (hm : 4096 ||| M = M) :
    Same M s0 (freshChannel a0 a1) := by
  unfold freshChannel
  repeat' first
    | with_reducible assumption
    | with_reducible refine updCh_same ?_ (Same.sub hm rfl)

theorem execSafetyChannelRestart_same {M : Nat} {s0 : State} {a0 a1} (h1 : Same M s0 a1) (hm : 4112 ||| M = M) :
    OutSame M s0 (execSafetyChannelRestart a0 a1) := by
  unfold execSafetyChannelRestart
  repeat' first
    | with_reducible assumption
    | with_reducible refine OutSame.next ?_
    | with_reducible refine freshChannel_same ?_ (Same.sub hm rfl)
    | with_reducible refine pairsEval_same ?_ (Same.sub hm rfl)
    | split

theorem execSafetyChannelStop_same {M : Nat} {s0 : State} {a0 a1} (h1 : Same M s0 a1) (hm : 4112 ||| M = M) :
    OutSame M s0 (execSafetyChannelStop a0 a1) := by
  unfold execSafetyChannelStop
  repeat' first
    | with_reducible assumption
    | (extract_lets +onlyGivenNames x; first | (refine Same.cut M s0 x ?_ ?_; (focus (dsimp -zeta only [x]; clear x)); rotate_left 1; clear_value x; revert x; intro _ _) | (have hh := fun a => x a; clear hh; dsimp -zeta only [x]; clear x) | (clear_value x; revert x; intro _) | (dsimp -zeta only [x]; clear x))
    | with_reducible refine OutSame.next ?_
    | with_reducible refine lockout_same ?_ (Same.sub hm rfl)
    | with_reducible refine updCh_same ?_ (Same.sub hm rfl)
    | with_reducible refine Same.foldl (fun _ _ _ => ?_) ?_
    | split

theorem execSafetySelfTest_same {M : Nat} {s0 : State} {a0 a1} (h1 : Same M s0 a1) (hm : 4112 ||| M = M) :
    OutSame M s0 (execSafetySelfTest a0 a1) := by
  unfold execSafetySelfTest
  repeat' first
    | with_reducible assumption
    | with_reducible refine OutSame.next ?_
    | with_reducible refine channelFault_same ?_ (Same.sub hm rfl)
    | with_reducible refine updCh_same ?_ (Same.sub hm rfl)
    | split

theorem writeStatus_same {M : Nat} {s0 : State} {a0} (h0 : Same M s0 a0) (hm : 1147152 ||| M = M) :
    Same M s0 (writeStatus a0) := by
  unfold writeStatus
  repeat' first
    | with_reducible assumption
    | with_reducible refine putEntry_same ?_ (Same.sub hm rfl)
    | with_reducible refine Same.foldl (fun _ _ _ => ?_) ?_
    | split

theorem statusReportOp_same {M : Nat} {s0 : State} {a0} (h0 : Same M s0 a0) (hm : 1151288 ||| M = M) :
    Same M s0 (statusReportOp a0) := by
  unfold statusReportOp
  repeat' first
    | with_reducible assumption
    | (extract_lets +onlyGivenNames x; first | (refine Same.cut M s0 x ?_ ?_; (focus (dsimp -zeta only [x]; clear x)); rotate_left 1; clear_value x; revert x; intro _ _) | (have hh := fun a => x a; clear hh; dsimp -zeta only [x]; clear x) | (clear_value x; revert x; intro _) | (dsimp -zeta only [x]; clear x))
    | with_reducible refine abortDone_same ?_ (Same.sub hm rfl)
    | with_reducible refine xchRefuse_same ?_ (Same.sub hm rfl)
    | with_reducible refine writeStatus_same ?_ (Same.sub hm rfl)
    | with_reducible refine setIsl_same ?_ (Same.sub hm rfl)
    | split
    | with_reducible refine Same.up_saf ?_ (Same.sub hm rfl)

theorem execSafetyStatusReport_same {M : Nat} {s0 : State} {a0} (h0 : Same M s0 a0) (hm : 1151288 ||| M = M) :
    OutSame M s0 (execSafetyStatusReport a0) := by
  unfold execSafetyStatusReport
  repeat' first
    | with_reducible assumption
    | with_reducible refine OutSame.next ?_
    | with_reducible refine statusReportOp_same ?_ (Same.sub hm rfl)
    | split

theorem execSafetySupplyStart_same {M : Nat} {s0 : State} {a0 a1 a2} (h2 : Same M s0 a2) (hm : 4096 ||| M = M) :
    OutSame M s0 (execSafetySupplyStart a0 a1 a2) := by
  unfold execSafetySupplyStart
  repeat' first
    | with_reducible assumption
    | (extract_lets +onlyGivenNames x; first | (refine Same.cut M s0 x ?_ ?_; (focus (dsimp -zeta only [x]; clear x)); rotate_left 1; clear_value x; revert x; intro _ _) | (have hh := fun a => x a; clear hh; dsimp -zeta only [x]; clear x) | (clear_value x; revert x; intro _) | (dsimp -zeta only [x]; clear x))
    | with_reducible refine OutSame.next ?_
    | with_reducible refine freshChannel_same ?_ (Same.sub hm rfl)
    | split
    | with_reducible refine Same.up_saf ?_ (Same.sub hm rfl)

theorem execSafetySupplyStop_same {M : Nat} {s0 : State} {a0 a1} (h1 : Same M s0 a1) (hm : 4096 ||| M = M) :
    OutSame M s0 (execSafetySupplyStop a0 a1) := by
  unfold execSafetySupplyStop
  repeat' first
    | with_reducible assumption
    | with_reducible refine OutSame.next ?_
    | with_reducible refine safetySupplyOff_same ?_ (Same.sub hm rfl)
    | split

theorem execSafetyWindowWatchdog_same {M : Nat} {s0 : State} {a0} (h0 : Same M s0 a0) (hm : 4112 ||| M = M) :
    OutSame M s0 (execSafetyWindowWatchdog a0) := by
  unfold execSafetyWindowWatchdog
  repeat' first
    | with_reducible assumption
    | with_reducible refine OutSame.next ?_
    | with_reducible refine channelFault_same ?_ (Same.sub hm rfl)
    | split

theorem execSetPassword_same {M : Nat} {s0 : State} {a0 a1 a2} (h2 : Same M s0 a2) (hm : 4124 ||| M = M) :
    OutSame M s0 (execSetPassword a0 a1 a2) := by
  unfold execSetPassword
  repeat' first
    | with_reducible assumption
    | with_reducible refine OutSame.next ?_
    | with_reducible refine safMessage_same ?_ (Same.sub hm rfl)

theorem execShowPending_same {M : Nat} {s0 : State} {a0} (h0 : Same M s0 a0) (hm : 4124 ||| M = M) :
    OutSame M s0 (execShowPending a0) := by
  unfold execShowPending
  repeat' first
    | with_reducible assumption
    | with_reducible refine OutSame.next ?_
    | with_reducible refine safMessage_same ?_ (Same.sub hm rfl)

theorem execSlSample_same {M : Nat} {s0 : State} {a0 a1 a2} (h2 : Same M s0 a2) (hm : 4112 ||| M = M) :
    OutSame M s0 (execSlSample a0 a1 a2) := by
  unfold execSlSample
  repeat' first
    | with_reducible assumption
    | with_reducible refine OutSame.next ?_
    | with_reducible refine channelSample_same ?_ (Same.sub hm rfl)
    | split

theorem execSpSample_same {M : Nat} {s0 : State} {a0 a1 a2} (h2 : Same M s0 a2) (hm : 4112 ||| M = M) :
    OutSame M s0 (execSpSample a0 a1 a2) := by
  unfold execSpSample
  repeat' first
    | with_reducible assumption
    | with_reducible refine OutSame.next ?_
    | with_reducible refine channelSample_same ?_ (Same.sub hm rfl)
    | split

theorem stuckResult_same {M : Nat} {s0 : State} {a0 a1} (h1 : Same M s0 a1) (hm : 4112 ||| M = M) :
    Same M s0 (stuckResult a0 a1) := by
  unfold stuckResult
  repeat' first
    | with_reducible assumption
    | (extract_lets +onlyGivenNames x; first | (refine Same.cut M s0 x ?_ ?_; (focus (dsimp -zeta only [x]; clear x)); rotate_left 1; clear_value x; revert x; intro _ _) | (have hh := fun a => x a; clear hh; dsimp -zeta only [x]; clear x) | (clear_value x; revert x; intro _) | (dsimp -zeta only [x]; clear x))
    | with_reducible refine safNote_same ?_ (Same.sub hm rfl)
    | with_reducible refine degrade_same ?_ (Same.sub hm rfl)
    | with_reducible refine setPair_same ?_ (Same.sub hm rfl)
    | split

theorem execSwitchTest_same {M : Nat} {s0 : State} {a0 a1 a2} (h2 : Same M s0 a2) (hm : 4112 ||| M = M) :
    OutSame M s0 (execSwitchTest a0 a1 a2) := by
  unfold execSwitchTest
  repeat' first
    | with_reducible assumption
    | (extract_lets +onlyGivenNames x; first | (refine Same.cut M s0 x ?_ ?_; (focus (dsimp -zeta only [x]; clear x)); rotate_left 1; clear_value x; revert x; intro _ _) | (have hh := fun a => x a; clear hh; dsimp -zeta only [x]; clear x) | (clear_value x; revert x; intro _) | (dsimp -zeta only [x]; clear x))
    | with_reducible refine OutSame.next ?_
    | with_reducible refine stuckResult_same ?_ (Same.sub hm rfl)
    | with_reducible refine setPair_same ?_ (Same.sub hm rfl)
    | split

theorem execSyncWindowEnd_same {M : Nat} {s0 : State} {a0 a1 a2} (h2 : Same M s0 a2) (hm : 4096 ||| M = M) :
    OutSame M s0 (execSyncWindowEnd a0 a1 a2) := by
  unfold execSyncWindowEnd
  repeat' first
    | with_reducible assumption
    | (extract_lets +onlyGivenNames x; first | (refine Same.cut M s0 x ?_ ?_; (focus (dsimp -zeta only [x]; clear x)); rotate_left 1; clear_value x; revert x; intro _ _) | (have hh := fun a => x a; clear hh; dsimp -zeta only [x]; clear x) | (clear_value x; revert x; intro _) | (dsimp -zeta only [x]; clear x))
    | with_reducible refine OutSame.next ?_
    | with_reducible refine setFnm_same ?_ (Same.sub hm rfl)
    | split

theorem execTestPulseDrop_same {M : Nat} {s0 : State} {a0 a1} (h1 : Same M s0 a1) (hm : 4096 ||| M = M) :
    OutSame M s0 (execTestPulseDrop a0 a1) := by
  unfold execTestPulseDrop
  repeat' first
    | with_reducible assumption
    | (extract_lets +onlyGivenNames x; first | (refine Same.cut M s0 x ?_ ?_; (focus (dsimp -zeta only [x]; clear x)); rotate_left 1; clear_value x; revert x; intro _ _) | (have hh := fun a => x a; clear hh; dsimp -zeta only [x]; clear x) | (clear_value x; revert x; intro _) | (dsimp -zeta only [x]; clear x))
    | with_reducible refine OutSame.next ?_
    | split
    | with_reducible refine Same.up_saf ?_ (Same.sub hm rfl)

theorem execTpCheckSample_same {M : Nat} {s0 : State} {a0 a1 a2 a3} (h3 : Same M s0 a3) (hm : 4112 ||| M = M) :
    OutSame M s0 (execTpCheckSample a0 a1 a2 a3) := by
  unfold execTpCheckSample
  repeat' first
    | with_reducible assumption
    | (extract_lets +onlyGivenNames x; first | (refine Same.cut M s0 x ?_ ?_; (focus (dsimp -zeta only [x]; clear x)); rotate_left 1; clear_value x; revert x; intro _ _) | (have hh := fun a => x a; clear hh; dsimp -zeta only [x]; clear x) | (clear_value x; revert x; intro _) | (dsimp -zeta only [x]; clear x))
    | with_reducible refine OutSame.next ?_
    | with_reducible refine pairsEval_same ?_ (Same.sub hm rfl)
    | with_reducible refine checkCh_same ?_ (Same.sub hm rfl)
    | split
    | with_reducible refine Same.up_saf ?_ (Same.sub hm rfl)

end Sys2Proof.Machine
end

