-- ==== Sys2Proof/Laws/FrameUpdate.lean ====
section
/-!
SUPPORT. FrameUpdate.lean: for each operation of Machine/Update.lean, the components of State it can change: the result agrees with the
state it starts from on every component whose bit in the mask is 0 (the bits as in `Same`).
-/
namespace Sys2Proof.Machine
set_option linter.all false

theorem updAbortOp_same {M : Nat} {s0 : State} {a0} (h0 : Same M s0 a0) (hm : 524304 ||| M = M) :
    Same M s0 (updAbortOp a0) := by
  unfold updAbortOp
  repeat' first
    | with_reducible assumption
    | (extract_lets +onlyGivenNames x; first | (refine Same.cut M s0 x ?_ ?_; (focus (dsimp -zeta only [x]; clear x)); rotate_left 1; clear_value x; revert x; intro _ _) | (have hh := fun a => x a; clear hh; dsimp -zeta only [x]; clear x) | (clear_value x; revert x; intro _) | (dsimp -zeta only [x]; clear x))
    | with_reducible refine record_same ?_ (Same.sub hm rfl)
    | split
    | with_reducible refine Same.up_upd ?_ (Same.sub hm rfl)

theorem execUpdAbort_same {M : Nat} {s0 : State} {a0 a1} (h1 : Same M s0 a1) (hm : 1572920 ||| M = M) :
    OutSame M s0 (execUpdAbort a0 a1) := by
  unfold execUpdAbort
  repeat' first
    | with_reducible assumption
    | with_reducible refine OutSame.next ?_
    | with_reducible refine updAbortOp_same ?_ (Same.sub hm rfl)
    | with_reducible refine abortCmd_same (fun x0 k0 => ?_) ?_ (Same.sub hm rfl)

theorem updCode_same {M : Nat} {s0 : State} {a0 a1} (h1 : Same M s0 a1) (hm : 524296 ||| M = M) :
    Same M s0 (updCode a0 a1) := by
  unfold updCode
  repeat' first
    | with_reducible assumption
    | (extract_lets +onlyGivenNames x; first | (refine Same.cut M s0 x ?_ ?_; (focus (dsimp -zeta only [x]; clear x)); rotate_left 1; clear_value x; revert x; intro _ _) | (have hh := fun a => x a; clear hh; dsimp -zeta only [x]; clear x) | (clear_value x; revert x; intro _) | (dsimp -zeta only [x]; clear x))
    | with_reducible refine Same.up_reply_upd ?_ (Same.sub hm rfl) (Same.sub hm rfl)

theorem pendingOp_same {M : Nat} {s0 : State} {a0} (h0 : Same M s0 a0) (hm : 1572880 ||| M = M) :
    Same M s0 (pendingOp a0) := by
  unfold pendingOp
  repeat' first
    | with_reducible assumption
    | (extract_lets +onlyGivenNames x; first | (refine Same.cut M s0 x ?_ ?_; (focus (dsimp -zeta only [x]; clear x)); rotate_left 1; clear_value x; revert x; intro _ _) | (have hh := fun a => x a; clear hh; dsimp -zeta only [x]; clear x) | (clear_value x; revert x; intro _) | (dsimp -zeta only [x]; clear x))
    | with_reducible refine writeRack_same ?_ (Same.sub hm rfl)
    | with_reducible refine record_same ?_ (Same.sub hm rfl)
    | with_reducible refine Same.up_pwr ?_ (Same.sub hm rfl)
    | with_reducible refine Same.up_upd_pwr ?_ (Same.sub hm rfl) (Same.sub hm rfl)

theorem activationOp_same {M : Nat} {s0 : State} {a0} (h0 : Same M s0 a0) (hm : 1575064 ||| M = M) :
    Same M s0 (activationOp a0) := by
  unfold activationOp
  repeat' first
    | with_reducible assumption
    | (extract_lets +onlyGivenNames x; first | (refine Same.cut M s0 x ?_ ?_; (focus (dsimp -zeta only [x]; clear x)); rotate_left 1; clear_value x; revert x; intro _ _) | (have hh := fun a => x a; clear hh; dsimp -zeta only [x]; clear x) | (clear_value x; revert x; intro _) | (dsimp -zeta only [x]; clear x))
    | with_reducible refine requestReset_same ?_ (Same.sub hm rfl)
    | with_reducible refine pendingOp_same ?_ (Same.sub hm rfl)
    | with_reducible refine dropSet_same ?_ (Same.sub hm rfl)
    | split

theorem activateOp_same {M : Nat} {s0 : State} {a0 a1} (h1 : Same M s0 a1) (hm : 1575064 ||| M = M) :
    Same M s0 (activateOp a0 a1) := by
  unfold activateOp
  repeat' first
    | with_reducible assumption
    | (extract_lets +onlyGivenNames x; first | (refine Same.cut M s0 x ?_ ?_; (focus (dsimp -zeta only [x]; clear x)); rotate_left 1; clear_value x; revert x; intro _ _) | (have hh := fun a => x a; clear hh; dsimp -zeta only [x]; clear x) | (clear_value x; revert x; intro _) | (dsimp -zeta only [x]; clear x))
    | with_reducible refine updCode_same ?_ (Same.sub hm rfl)
    | with_reducible refine writeRack_same ?_ (Same.sub hm rfl)
    | with_reducible refine activationOp_same ?_ (Same.sub hm rfl)
    | split
    | with_reducible refine Same.up_upd ?_ (Same.sub hm rfl)

theorem beginOp_same {M : Nat} {s0 : State} {a0 a1 a2} (h2 : Same M s0 a2) (hm : 524296 ||| M = M) :
    Same M s0 (beginOp a0 a1 a2) := by
  unfold beginOp
  repeat' first
    | with_reducible assumption
    | (extract_lets +onlyGivenNames x; first | (refine Same.cut M s0 x ?_ ?_; (focus (dsimp -zeta only [x]; clear x)); rotate_left 1; clear_value x; revert x; intro _ _) | (have hh := fun a => x a; clear hh; dsimp -zeta only [x]; clear x) | (clear_value x; revert x; intro _) | (dsimp -zeta only [x]; clear x))
    | with_reducible refine updCode_same ?_ (Same.sub hm rfl)
    | with_reducible refine updTargets_same ?_ (Same.sub hm rfl)
    | with_reducible refine writeRack_same ?_ (Same.sub hm rfl)
    | split
    | with_reducible refine Same.up_upd ?_ (Same.sub hm rfl)

theorem bootOp_same {M : Nat} {s0 : State} {a0} (h0 : Same M s0 a0) (hm : 1572864 ||| M = M) :
    Same M s0 (bootOp a0) := by
  unfold bootOp
  repeat' first
    | with_reducible assumption
    | (extract_lets +onlyGivenNames x; first | (refine Same.cut M s0 x ?_ ?_; (focus (dsimp -zeta only [x]; clear x)); rotate_left 1; clear_value x; revert x; intro _ _) | (have hh := fun a => x a; clear hh; dsimp -zeta only [x]; clear x) | (clear_value x; revert x; intro _) | (dsimp -zeta only [x]; clear x))
    | with_reducible refine writeRack_same ?_ (Same.sub hm rfl)
    | split
    | with_reducible refine Same.up_pwr ?_ (Same.sub hm rfl)

theorem bootTarget_same {M : Nat} {s0 : State} {a0 a1} (h1 : Same M s0 a1) (hm : 524288 ||| M = M) :
    Same M s0 (bootTarget a0 a1) := by
  unfold bootTarget
  repeat' first
    | with_reducible assumption
    | (extract_lets +onlyGivenNames x; first | (refine Same.cut M s0 x ?_ ?_; (focus (dsimp -zeta only [x]; clear x)); rotate_left 1; clear_value x; revert x; intro _ _) | (have hh := fun a => x a; clear hh; dsimp -zeta only [x]; clear x) | (clear_value x; revert x; intro _) | (dsimp -zeta only [x]; clear x))
    | with_reducible refine writeRack_same ?_ (Same.sub hm rfl)
    | split
    | with_reducible refine Same.up_upd ?_ (Same.sub hm rfl)

theorem cancelOp_same {M : Nat} {s0 : State} {a0} (h0 : Same M s0 a0) (hm : 524296 ||| M = M) :
    Same M s0 (cancelOp a0) := by
  unfold cancelOp
  repeat' first
    | with_reducible assumption
    | (extract_lets +onlyGivenNames x; first | (refine Same.cut M s0 x ?_ ?_; (focus (dsimp -zeta only [x]; clear x)); rotate_left 1; clear_value x; revert x; intro _ _) | (have hh := fun a => x a; clear hh; dsimp -zeta only [x]; clear x) | (clear_value x; revert x; intro _) | (dsimp -zeta only [x]; clear x))
    | with_reducible refine updCode_same ?_ (Same.sub hm rfl)
    | with_reducible refine updTargets_same ?_ (Same.sub hm rfl)
    | with_reducible refine writeRack_same ?_ (Same.sub hm rfl)
    | with_reducible refine Same.up_upd ?_ (Same.sub hm rfl)

theorem confirmOp_same {M : Nat} {s0 : State} {a0} (h0 : Same M s0 a0) (hm : 524312 ||| M = M) :
    Same M s0 (confirmOp a0) := by
  unfold confirmOp
  repeat' first
    | with_reducible assumption
    | (extract_lets +onlyGivenNames x; first | (refine Same.cut M s0 x ?_ ?_; (focus (dsimp -zeta only [x]; clear x)); rotate_left 1; clear_value x; revert x; intro _ _) | (have hh := fun a => x a; clear hh; dsimp -zeta only [x]; clear x) | (clear_value x; revert x; intro _) | (dsimp -zeta only [x]; clear x))
    | with_reducible refine updCode_same ?_ (Same.sub hm rfl)
    | with_reducible refine writeRack_same ?_ (Same.sub hm rfl)
    | with_reducible refine record_same ?_ (Same.sub hm rfl)
    | split
    | with_reducible refine Same.up_upd ?_ (Same.sub hm rfl)

theorem execBootCompletion_same {M : Nat} {s0 : State} {a0} (h0 : Same M s0 a0) (hm : 1572864 ||| M = M) :
    OutSame M s0 (execBootCompletion a0) := by
  unfold execBootCompletion
  repeat' first
    | with_reducible assumption
    | with_reducible refine OutSame.next ?_
    | with_reducible refine bootOp_same ?_ (Same.sub hm rfl)
    | split

theorem execConfirmationExpiry_same {M : Nat} {s0 : State} {a0} (h0 : Same M s0 a0) (hm : 1574928 ||| M = M) :
    OutSame M s0 (execConfirmationExpiry a0) := by
  unfold execConfirmationExpiry
  repeat' first
    | with_reducible assumption
    | (extract_lets +onlyGivenNames x; first | (refine Same.cut M s0 x ?_ ?_; (focus (dsimp -zeta only [x]; clear x)); rotate_left 1; clear_value x; revert x; intro _ _) | (have hh := fun a => x a; clear hh; dsimp -zeta only [x]; clear x) | (clear_value x; revert x; intro _) | (dsimp -zeta only [x]; clear x))
    | with_reducible refine OutSame.next ?_
    | with_reducible refine rackRevertOp_same ?_ (Same.sub hm rfl)
    | split

theorem updCmd_same {M : Nat} {s0 : State} {a0 a1 a2 a3} (h2 : ∀ x0, Same M s0 x0 → Same M s0 (a2 x0)) (h3 : Same M s0 a3) (hm : 524344 ||| M = M) :
    OutSame M s0 (updCmd a0 a1 a2 a3) := by
  unfold updCmd
  repeat' first
    | with_reducible assumption
    | (extract_lets +onlyGivenNames x; first | (refine Same.cut M s0 x ?_ ?_; (focus (dsimp -zeta only [x]; clear x)); rotate_left 1; clear_value x; revert x; intro _ _) | (have hh := fun a => x a; clear hh; dsimp -zeta only [x]; clear x) | (clear_value x; revert x; intro _) | (dsimp -zeta only [x]; clear x))
    | with_reducible refine OutSame.next ?_
    | with_reducible refine h2 _ ?_
    | with_reducible refine updCode_same ?_ (Same.sub hm rfl)
    | with_reducible refine regCmd_same (fun x0 k0 => ?_) ?_ (Same.sub hm rfl)
    | split
    | with_reducible refine Same.up_upd ?_ (Same.sub hm rfl)

theorem execRackCancel_same {M : Nat} {s0 : State} {a0 a1} (h1 : Same M s0 a1) (hm : 524344 ||| M = M) :
    OutSame M s0 (execRackCancel a0 a1) := by
  unfold execRackCancel
  repeat' first
    | with_reducible assumption
    | with_reducible refine OutSame.next ?_
    | with_reducible refine cancelOp_same ?_ (Same.sub hm rfl)
    | with_reducible refine updCmd_same (fun x0 k0 => ?_) ?_ (Same.sub hm rfl)

theorem execRackActivate_same {M : Nat} {s0 : State} {a0 a1 a2} (h2 : Same M s0 a2) (hm : 1575096 ||| M = M) :
    OutSame M s0 (execRackActivate a0 a1 a2) := by
  unfold execRackActivate
  repeat' first
    | with_reducible assumption
    | with_reducible refine OutSame.next ?_
    | with_reducible refine activateOp_same ?_ (Same.sub hm rfl)
    | with_reducible refine updCmd_same (fun x0 k0 => ?_) ?_ (Same.sub hm rfl)

theorem execRackConfirm_same {M : Nat} {s0 : State} {a0 a1} (h1 : Same M s0 a1) (hm : 524344 ||| M = M) :
    OutSame M s0 (execRackConfirm a0 a1) := by
  unfold execRackConfirm
  repeat' first
    | with_reducible assumption
    | with_reducible refine OutSame.next ?_
    | with_reducible refine confirmOp_same ?_ (Same.sub hm rfl)
    | with_reducible refine updCmd_same (fun x0 k0 => ?_) ?_ (Same.sub hm rfl)

theorem writeUnit_same {M : Nat} {s0 : State} {a0 a1 a2} (h2 : Same M s0 a2) (hm : 524288 ||| M = M) :
    Same M s0 (writeUnit a0 a1 a2) := by
  unfold writeUnit
  repeat' first
    | with_reducible assumption
    | (extract_lets +onlyGivenNames x; first | (refine Same.cut M s0 x ?_ ?_; (focus (dsimp -zeta only [x]; clear x)); rotate_left 1; clear_value x; revert x; intro _ _) | (have hh := fun a => x a; clear hh; dsimp -zeta only [x]; clear x) | (clear_value x; revert x; intro _) | (dsimp -zeta only [x]; clear x))
    | split
    | with_reducible refine Same.up_upd ?_ (Same.sub hm rfl)

theorem fragOp_same {M : Nat} {s0 : State} {a0 a1} (h1 : Same M s0 a1) (hm : 524296 ||| M = M) :
    Same M s0 (fragOp a0 a1) := by
  unfold fragOp
  repeat' first
    | with_reducible assumption
    | (extract_lets +onlyGivenNames x; first | (refine Same.cut M s0 x ?_ ?_; (focus (dsimp -zeta only [x]; clear x)); rotate_left 1; clear_value x; revert x; intro _ _) | (have hh := fun a => x a; clear hh; dsimp -zeta only [x]; clear x) | (clear_value x; revert x; intro _) | (dsimp -zeta only [x]; clear x))
    | with_reducible refine writeUnit_same ?_ (Same.sub hm rfl)
    | with_reducible refine updCode_same ?_ (Same.sub hm rfl)
    | with_reducible refine writeRack_same ?_ (Same.sub hm rfl)
    | split
    | with_reducible refine Same.up_upd ?_ (Same.sub hm rfl)

theorem execRackFrag_same {M : Nat} {s0 : State} {a0 a1 a2} (h2 : Same M s0 a2) (hm : 524344 ||| M = M) :
    OutSame M s0 (execRackFrag a0 a1 a2) := by
  unfold execRackFrag
  repeat' first
    | with_reducible assumption
    | with_reducible refine OutSame.next ?_
    | with_reducible refine fragOp_same ?_ (Same.sub hm rfl)
    | with_reducible refine updCmd_same (fun x0 k0 => ?_) ?_ (Same.sub hm rfl)

theorem execRackBegin_same {M : Nat} {s0 : State} {a0 a1} (h1 : Same M s0 a1) (hm : 524344 ||| M = M) :
    OutSame M s0 (execRackBegin a0 a1) := by
  unfold execRackBegin
  repeat' first
    | with_reducible assumption
    | (extract_lets +onlyGivenNames x; first | (refine Same.cut M s0 x ?_ ?_; (focus (dsimp -zeta only [x]; clear x)); rotate_left 1; clear_value x; revert x; intro _ _) | (have hh := fun a => x a; clear hh; dsimp -zeta only [x]; clear x) | (clear_value x; revert x; intro _) | (dsimp -zeta only [x]; clear x))
    | with_reducible refine OutSame.next ?_
    | with_reducible refine updCode_same ?_ (Same.sub hm rfl)
    | with_reducible refine beginOp_same ?_ (Same.sub hm rfl)
    | with_reducible refine updCmd_same (fun x0 k0 => ?_) ?_ (Same.sub hm rfl)
    | split

theorem execRackRevert_same {M : Nat} {s0 : State} {a0 a1} (h1 : Same M s0 a1) (hm : 1574968 ||| M = M) :
    OutSame M s0 (execRackRevert a0 a1) := by
  unfold execRackRevert
  repeat' first
    | with_reducible assumption
    | with_reducible refine OutSame.next ?_
    | with_reducible refine updCode_same ?_ (Same.sub hm rfl)
    | with_reducible refine rackRevertOp_same ?_ (Same.sub hm rfl)
    | with_reducible refine updCmd_same (fun x0 k0 => ?_) ?_ (Same.sub hm rfl)

theorem execRackActivation_same {M : Nat} {s0 : State} {a0} (h0 : Same M s0 a0) (hm : 1575064 ||| M = M) :
    OutSame M s0 (execRackActivation a0) := by
  unfold execRackActivation
  repeat' first
    | with_reducible assumption
    | with_reducible refine OutSame.next ?_
    | with_reducible refine activationOp_same ?_ (Same.sub hm rfl)
    | split

theorem startStage_same {M : Nat} {s0 : State} {a0} (h0 : Same M s0 a0) (hm : 1574928 ||| M = M) :
    Same M s0 (startStage a0) := by
  unfold startStage
  repeat' first
    | with_reducible assumption
    | (extract_lets +onlyGivenNames x; first | (refine Same.cut M s0 x ?_ ?_; (focus (dsimp -zeta only [x]; clear x)); rotate_left 1; clear_value x; revert x; intro _ _) | (have hh := fun a => x a; clear hh; dsimp -zeta only [x]; clear x) | (clear_value x; revert x; intro _) | (dsimp -zeta only [x]; clear x))
    | with_reducible refine rackRevertOp_same ?_ (Same.sub hm rfl)
    | with_reducible refine bootTarget_same ?_ (Same.sub hm rfl)
    | with_reducible refine writeRack_same ?_ (Same.sub hm rfl)
    | with_reducible refine record_same ?_ (Same.sub hm rfl)
    | split
    | with_reducible refine Same.up_upd ?_ (Same.sub hm rfl)

theorem verifyOp_same {M : Nat} {s0 : State} {a0 a1} (h1 : Same M s0 a1) (hm : 524296 ||| M = M) :
    Same M s0 (verifyOp a0 a1) := by
  unfold verifyOp
  repeat' first
    | with_reducible assumption
    | (extract_lets +onlyGivenNames x; first | (refine Same.cut M s0 x ?_ ?_; (focus (dsimp -zeta only [x]; clear x)); rotate_left 1; clear_value x; revert x; intro _ _) | (have hh := fun a => x a; clear hh; dsimp -zeta only [x]; clear x) | (clear_value x; revert x; intro _) | (dsimp -zeta only [x]; clear x))
    | with_reducible refine updCode_same ?_ (Same.sub hm rfl)
    | with_reducible refine updTargets_same ?_ (Same.sub hm rfl)
    | with_reducible refine writeRack_same ?_ (Same.sub hm rfl)
    | split
    | with_reducible refine Same.up_upd ?_ (Same.sub hm rfl)

theorem execVerifyComplete_same {M : Nat} {s0 : State} {a0 a1} (h1 : Same M s0 a1) (hm : 524296 ||| M = M) :
    OutSame M s0 (execVerifyComplete a0 a1) := by
  unfold execVerifyComplete
  repeat' first
    | with_reducible assumption
    | with_reducible refine OutSame.next ?_
    | with_reducible refine verifyOp_same ?_ (Same.sub hm rfl)
    | split

end Sys2Proof.Machine
end

