-- ==== Sys2Proof/Laws/FramePower.lean ====
section
/-!
SUPPORT. FramePower.lean: for each operation of Machine/Power.lean, the components of State it can change: the result agrees with the
state it starts from on every component whose bit in the mask is 0 (the bits as in `Same`).
-/
namespace Sys2Proof.Machine
set_option linter.all false

theorem admitWake_same {M : Nat} {s0 : State} {a0 a1 a2} (h2 : Same M s0 a2) (hm : 1048608 ||| M = M) :
    Same M s0 (admitWake a0 a1 a2) := by
  unfold admitWake
  repeat' first
    | with_reducible assumption
    | (extract_lets +onlyGivenNames x; first | (refine Same.cut M s0 x ?_ ?_; (focus (dsimp -zeta only [x]; clear x)); rotate_left 1; clear_value x; revert x; intro _ _) | (have hh := fun a => x a; clear hh; dsimp -zeta only [x]; clear x) | (clear_value x; revert x; intro _) | (dsimp -zeta only [x]; clear x))
    | with_reducible refine setIsl_same ?_ (Same.sub hm rfl)
    | split
    | with_reducible refine Same.up_pwr ?_ (Same.sub hm rfl)

theorem clearIslands_same {M : Nat} {s0 : State} {a0} (h0 : Same M s0 a0) (hm : 495592 ||| M = M) :
    Same M s0 (clearIslands a0) := by
  unfold clearIslands
  repeat' first
    | with_reducible assumption
    | split
    | with_reducible refine Same.up_reply_sys_mem_img_trl_pge_lpe_prs_stn_fbs_net_tim ?_ (Same.sub hm rfl) (Same.sub hm rfl) (Same.sub hm rfl) (Same.sub hm rfl) (Same.sub hm rfl) (Same.sub hm rfl) (Same.sub hm rfl) (Same.sub hm rfl) (Same.sub hm rfl) (Same.sub hm rfl) (Same.sub hm rfl) (Same.sub hm rfl)

theorem clearMirrors_same {M : Nat} {s0 : State} {a0} (h0 : Same M s0 a0) (hm : 28672 ||| M = M) :
    Same M s0 (clearMirrors a0) := by
  unfold clearMirrors
  repeat' first
    | with_reducible assumption
    | (extract_lets +onlyGivenNames x; first | (refine Same.cut M s0 x ?_ ?_; (focus (dsimp -zeta only [x]; clear x)); rotate_left 1; clear_value x; revert x; intro _ _) | (have hh := fun a => x a; clear hh; dsimp -zeta only [x]; clear x) | (clear_value x; revert x; intro _) | (dsimp -zeta only [x]; clear x))
    | with_reducible refine Same.up_saf_cel_key ?_ (Same.sub hm rfl) (Same.sub hm rfl) (Same.sub hm rfl)

theorem clearPwr_same {M : Nat} {s0 : State} {a0} (h0 : Same M s0 a0) (hm : 1048576 ||| M = M) :
    Same M s0 (clearPwr a0) := by
  unfold clearPwr
  repeat' first
    | with_reducible assumption
    | (extract_lets +onlyGivenNames x; first | (refine Same.cut M s0 x ?_ ?_; (focus (dsimp -zeta only [x]; clear x)); rotate_left 1; clear_value x; revert x; intro _ _) | (have hh := fun a => x a; clear hh; dsimp -zeta only [x]; clear x) | (clear_value x; revert x; intro _) | (dsimp -zeta only [x]; clear x))
    | with_reducible refine Same.up_pwr ?_ (Same.sub hm rfl)

theorem clearUpd_same {M : Nat} {s0 : State} {a0} (h0 : Same M s0 a0) (hm : 524288 ||| M = M) :
    Same M s0 (clearUpd a0) := by
  unfold clearUpd
  repeat' first
    | with_reducible assumption
    | (extract_lets +onlyGivenNames x; first | (refine Same.cut M s0 x ?_ ?_; (focus (dsimp -zeta only [x]; clear x)); rotate_left 1; clear_value x; revert x; intro _ _) | (have hh := fun a => x a; clear hh; dsimp -zeta only [x]; clear x) | (clear_value x; revert x; intro _) | (dsimp -zeta only [x]; clear x))
    | with_reducible refine Same.up_upd ?_ (Same.sub hm rfl)

theorem completeJournal_same {M : Nat} {s0 : State} {a0} (h0 : Same M s0 a0) (hm : 64 ||| M = M) :
    Same M s0 (completeJournal a0) := by
  unfold completeJournal
  repeat' first
    | with_reducible assumption
    | (extract_lets +onlyGivenNames x; first | (refine Same.cut M s0 x ?_ ?_; (focus (dsimp -zeta only [x]; clear x)); rotate_left 1; clear_value x; revert x; intro _ _) | (have hh := fun a => x a; clear hh; dsimp -zeta only [x]; clear x) | (clear_value x; revert x; intro _) | (dsimp -zeta only [x]; clear x))
    | with_reducible refine Same.foldl (fun _ _ _ => ?_) ?_
    | split
    | with_reducible refine Same.up_mem ?_ (Same.sub hm rfl)

theorem driveSealed_same {M : Nat} {s0 : State} {a0} (h0 : Same M s0 a0) (hm : 1048832 ||| M = M) :
    Same M s0 (driveSealed a0) := by
  unfold driveSealed
  repeat' first
    | with_reducible assumption
    | (extract_lets +onlyGivenNames x; first | (refine Same.cut M s0 x ?_ ?_; (focus (dsimp -zeta only [x]; clear x)); rotate_left 1; clear_value x; revert x; intro _ _) | (have hh := fun a => x a; clear hh; dsimp -zeta only [x]; clear x) | (clear_value x; revert x; intro _) | (dsimp -zeta only [x]; clear x))
    | with_reducible refine queueStart_same ?_ (Same.sub hm rfl)
    | with_reducible refine updCell_same ?_ (Same.sub hm rfl)
    | with_reducible refine Same.foldl (fun _ _ _ => ?_) ?_
    | split

theorem execAbortDoneTimeout_same {M : Nat} {s0 : State} {a0} (h0 : Same M s0 a0) (hm : 1048576 ||| M = M) :
    OutSame M s0 (execAbortDoneTimeout a0) := by
  unfold execAbortDoneTimeout
  repeat' first
    | with_reducible assumption
    | with_reducible refine OutSame.next ?_
    | with_reducible refine abortDone_same ?_ (Same.sub hm rfl)
    | split

theorem execAlwaysOnRailStop_same {M : Nat} {s0 : State} {a0 a1} (h1 : Same M s0 a1) (hm : 1048576 ||| M = M) :
    OutSame M s0 (execAlwaysOnRailStop a0 a1) := by
  unfold execAlwaysOnRailStop
  repeat' first
    | with_reducible assumption
    | (extract_lets +onlyGivenNames x; first | (refine Same.cut M s0 x ?_ ?_; (focus (dsimp -zeta only [x]; clear x)); rotate_left 1; clear_value x; revert x; intro _ _) | (have hh := fun a => x a; clear hh; dsimp -zeta only [x]; clear x) | (clear_value x; revert x; intro _) | (dsimp -zeta only [x]; clear x))
    | with_reducible refine OutSame.next ?_
    | split
    | with_reducible refine Same.up_pwr ?_ (Same.sub hm rfl)

theorem execExceptionReset_same {M : Nat} {s0 : State} {a0} (h0 : Same M s0 a0) (hm : 1050624 ||| M = M) :
    OutSame M s0 (execExceptionReset a0) := by
  unfold execExceptionReset
  repeat' first
    | with_reducible assumption
    | with_reducible refine OutSame.next ?_
    | with_reducible refine requestReset_same ?_ (Same.sub hm rfl)
    | split

theorem pwrCode_same {M : Nat} {s0 : State} {a0 a1 a2} (h2 : Same M s0 a2) (hm : 1048584 ||| M = M) :
    Same M s0 (pwrCode a0 a1 a2) := by
  unfold pwrCode
  repeat' first
    | with_reducible assumption
    | (extract_lets +onlyGivenNames x; first | (refine Same.cut M s0 x ?_ ?_; (focus (dsimp -zeta only [x]; clear x)); rotate_left 1; clear_value x; revert x; intro _ _) | (have hh := fun a => x a; clear hh; dsimp -zeta only [x]; clear x) | (clear_value x; revert x; intro _) | (dsimp -zeta only [x]; clear x))
    | split
    | with_reducible refine Same.up_reply_pwr ?_ (Same.sub hm rfl) (Same.sub hm rfl)

theorem standbyOp_same {M : Nat} {s0 : State} {a0} (h0 : Same M s0 a0) (hm : 1278512 ||| M = M) :
    Same M s0 (standbyOp a0) := by
  unfold standbyOp
  repeat' first
    | with_reducible assumption
    | (extract_lets +onlyGivenNames x; first | (refine Same.cut M s0 x ?_ ?_; (focus (dsimp -zeta only [x]; clear x)); rotate_left 1; clear_value x; revert x; intro _ _) | (have hh := fun a => x a; clear hh; dsimp -zeta only [x]; clear x) | (clear_value x; revert x; intro _) | (dsimp -zeta only [x]; clear x))
    | with_reducible refine loseBus_same ?_ (Same.sub hm rfl)
    | with_reducible refine record_same ?_ (Same.sub hm rfl)
    | with_reducible refine setIsl_same ?_ (Same.sub hm rfl)
    | with_reducible refine Same.foldl (fun _ _ _ => ?_) ?_
    | split
    | with_reducible refine Same.up_pwr ?_ (Same.sub hm rfl)

theorem execStandby_same {M : Nat} {s0 : State} {a0 a1} (h1 : Same M s0 a1) (hm : 1278520 ||| M = M) :
    OutSame M s0 (execStandby a0 a1) := by
  unfold execStandby
  repeat' first
    | with_reducible assumption
    | with_reducible refine OutSame.next ?_
    | with_reducible refine regCmd_same (fun x0 k0 => ?_) ?_ (Same.sub hm rfl)
    | with_reducible refine pwrCode_same ?_ (Same.sub hm rfl)
    | with_reducible refine standbyOp_same ?_ (Same.sub hm rfl)
    | split

theorem leaveStandby_same {M : Nat} {s0 : State} {a0} (h0 : Same M s0 a0) (hm : 1048592 ||| M = M) :
    Same M s0 (leaveStandby a0) := by
  unfold leaveStandby
  repeat' first
    | with_reducible assumption
    | (extract_lets +onlyGivenNames x; first | (refine Same.cut M s0 x ?_ ?_; (focus (dsimp -zeta only [x]; clear x)); rotate_left 1; clear_value x; revert x; intro _ _) | (have hh := fun a => x a; clear hh; dsimp -zeta only [x]; clear x) | (clear_value x; revert x; intro _) | (dsimp -zeta only [x]; clear x))
    | with_reducible refine record_same ?_ (Same.sub hm rfl)
    | split
    | with_reducible refine Same.up_pwr ?_ (Same.sub hm rfl)

theorem resumeStandby_same {M : Nat} {s0 : State} {a0} (h0 : Same M s0 a0) (hm : 1048592 ||| M = M) :
    Same M s0 (resumeStandby a0) := by
  unfold resumeStandby
  repeat' first
    | with_reducible assumption
    | (extract_lets +onlyGivenNames x; first | (refine Same.cut M s0 x ?_ ?_; (focus (dsimp -zeta only [x]; clear x)); rotate_left 1; clear_value x; revert x; intro _ _) | (have hh := fun a => x a; clear hh; dsimp -zeta only [x]; clear x) | (clear_value x; revert x; intro _) | (dsimp -zeta only [x]; clear x))
    | with_reducible refine leaveStandby_same ?_ (Same.sub hm rfl)
    | with_reducible refine queueWake_same ?_ (Same.sub hm rfl)
    | with_reducible refine Same.foldl (fun _ _ _ => ?_) ?_
    | split
    | with_reducible refine Same.up_pwr ?_ (Same.sub hm rfl)

theorem execResumeFromStandby_same {M : Nat} {s0 : State} {a0 a1} (h1 : Same M s0 a1) (hm : 1048632 ||| M = M) :
    OutSame M s0 (execResumeFromStandby a0 a1) := by
  unfold execResumeFromStandby
  repeat' first
    | with_reducible assumption
    | with_reducible refine OutSame.next ?_
    | with_reducible refine regCmd_same (fun x0 k0 => ?_) ?_ (Same.sub hm rfl)
    | with_reducible refine resumeStandby_same ?_ (Same.sub hm rfl)
    | with_reducible refine pwrCode_same ?_ (Same.sub hm rfl)
    | split

theorem sysResetOp_same {M : Nat} {s0 : State} {a0 a1 a2} (h2 : Same M s0 a2) (hm : 1050632 ||| M = M) :
    Same M s0 (sysResetOp a0 a1 a2) := by
  unfold sysResetOp
  repeat' first
    | with_reducible assumption
    | with_reducible refine requestReset_same ?_ (Same.sub hm rfl)
    | with_reducible refine pwrCode_same ?_ (Same.sub hm rfl)
    | split

theorem execSysReset_same {M : Nat} {s0 : State} {a0 a1 a2} (h2 : Same M s0 a2) (hm : 1050680 ||| M = M) :
    OutSame M s0 (execSysReset a0 a1 a2) := by
  unfold execSysReset
  repeat' first
    | with_reducible assumption
    | with_reducible refine OutSame.next ?_
    | with_reducible refine regCmd_same (fun x0 k0 => ?_) ?_ (Same.sub hm rfl)
    | with_reducible refine sysResetOp_same ?_ (Same.sub hm rfl)

theorem execFsupRestored_same {M : Nat} {s0 : State} {a0 a1 a2} (h2 : Same M s0 a2) (hm : 1048576 ||| M = M) :
    OutSame M s0 (execFsupRestored a0 a1 a2) := by
  unfold execFsupRestored
  repeat' first
    | with_reducible assumption
    | (extract_lets +onlyGivenNames x; first | (refine Same.cut M s0 x ?_ ?_; (focus (dsimp -zeta only [x]; clear x)); rotate_left 1; clear_value x; revert x; intro _ _) | (have hh := fun a => x a; clear hh; dsimp -zeta only [x]; clear x) | (clear_value x; revert x; intro _) | (dsimp -zeta only [x]; clear x))
    | with_reducible refine OutSame.next ?_
    | split
    | with_reducible refine Same.up_pwr ?_ (Same.sub hm rfl)

theorem holdupOp_same {M : Nat} {s0 : State} {a0} (h0 : Same M s0 a0) (hm : 1050624 ||| M = M) :
    Same M s0 (holdupOp a0) := by
  unfold holdupOp
  repeat' first
    | with_reducible assumption
    | (extract_lets +onlyGivenNames x; first | (refine Same.cut M s0 x ?_ ?_; (focus (dsimp -zeta only [x]; clear x)); rotate_left 1; clear_value x; revert x; intro _ _) | (have hh := fun a => x a; clear hh; dsimp -zeta only [x]; clear x) | (clear_value x; revert x; intro _) | (dsimp -zeta only [x]; clear x))
    | with_reducible refine startUnmeasured_same ?_ (Same.sub hm rfl)
    | split
    | with_reducible refine Same.up_pwr ?_ (Same.sub hm rfl)

theorem execHoldupEnd_same {M : Nat} {s0 : State} {a0} (h0 : Same M s0 a0) (hm : 1050624 ||| M = M) :
    OutSame M s0 (execHoldupEnd a0) := by
  unfold execHoldupEnd
  repeat' first
    | with_reducible assumption
    | with_reducible refine OutSame.next ?_
    | with_reducible refine holdupOp_same ?_ (Same.sub hm rfl)
    | split

theorem firstRun_same {M : Nat} {s0 : State} {a0 a1} (h1 : Same M s0 a1) (hm : 1460480 ||| M = M) :
    Same M s0 (firstRun a0 a1) := by
  unfold firstRun
  repeat' first
    | with_reducible assumption
    | (extract_lets +onlyGivenNames x; first | (refine Same.cut M s0 x ?_ ?_; (focus (dsimp -zeta only [x]; clear x)); rotate_left 1; clear_value x; revert x; intro _ _) | (have hh := fun a => x a; clear hh; dsimp -zeta only [x]; clear x) | (clear_value x; revert x; intro _) | (dsimp -zeta only [x]; clear x))
    | with_reducible refine driveSealed_same ?_ (Same.sub hm rfl)
    | with_reducible refine pressEnterRun_same ?_ (Same.sub hm rfl)
    | with_reducible refine updDom_same ?_ (Same.sub hm rfl)
    | with_reducible refine noteBypass_same ?_ (Same.sub hm rfl)
    | split
    | with_reducible refine Same.up_key ?_ (Same.sub hm rfl)
    | with_reducible refine Same.up_trl ?_ (Same.sub hm rfl)

theorem islandRunOp_same {M : Nat} {s0 : State} {a0 a1} (h1 : Same M s0 a1) (hm : 1984952 ||| M = M) :
    Same M s0 (islandRunOp a0 a1) := by
  unfold islandRunOp
  repeat' first
    | with_reducible assumption
    | (extract_lets +onlyGivenNames x; first | (refine Same.cut M s0 x ?_ ?_; (focus (dsimp -zeta only [x]; clear x)); rotate_left 1; clear_value x; revert x; intro _ _) | (have hh := fun a => x a; clear hh; dsimp -zeta only [x]; clear x) | (clear_value x; revert x; intro _) | (dsimp -zeta only [x]; clear x))
    | with_reducible refine firstRun_same ?_ (Same.sub hm rfl)
    | with_reducible refine leaveStandby_same ?_ (Same.sub hm rfl)
    | with_reducible refine continueStage_same ?_ (Same.sub hm rfl)
    | with_reducible refine setIsl_same ?_ (Same.sub hm rfl)
    | split
    | with_reducible refine Same.up_prs ?_ (Same.sub hm rfl)
    | with_reducible refine Same.up_pwr ?_ (Same.sub hm rfl)

theorem execIslandRun_same {M : Nat} {s0 : State} {a0 a1} (h1 : Same M s0 a1) (hm : 1984952 ||| M = M) :
    OutSame M s0 (execIslandRun a0 a1) := by
  unfold execIslandRun
  repeat' first
    | with_reducible assumption
    | with_reducible refine OutSame.next ?_
    | with_reducible refine islandRunOp_same ?_ (Same.sub hm rfl)
    | split

theorem logicResetOp_same {M : Nat} {s0 : State} {a0} (h0 : Same M s0 a0) (hm : 2097128 ||| M = M) :
    Same M s0 (logicResetOp a0) := by
  unfold logicResetOp
  repeat' first
    | with_reducible assumption
    | with_reducible refine clearUpd_same ?_ (Same.sub hm rfl)
    | with_reducible refine clearMirrors_same ?_ (Same.sub hm rfl)
    | with_reducible refine clearIslands_same ?_ (Same.sub hm rfl)
    | with_reducible refine clearPwr_same ?_ (Same.sub hm rfl)

theorem execLogicReset_same {M : Nat} {s0 : State} {a0} (h0 : Same M s0 a0) (hm : 2097128 ||| M = M) :
    OutSame M s0 (execLogicReset a0) := by
  unfold execLogicReset
  repeat' first
    | with_reducible assumption
    | with_reducible refine OutSame.next ?_
    | with_reducible refine logicResetOp_same ?_ (Same.sub hm rfl)
    | split

theorem vinWarnOp_same {M : Nat} {s0 : State} {a0} (h0 : Same M s0 a0) (hm : 1591312 ||| M = M) :
    Same M s0 (vinWarnOp a0) := by
  unfold vinWarnOp
  repeat' first
    | with_reducible assumption
    | (extract_lets +onlyGivenNames x; first | (refine Same.cut M s0 x ?_ ?_; (focus (dsimp -zeta only [x]; clear x)); rotate_left 1; clear_value x; revert x; intro _ _) | (have hh := fun a => x a; clear hh; dsimp -zeta only [x]; clear x) | (clear_value x; revert x; intro _) | (dsimp -zeta only [x]; clear x))
    | with_reducible refine takeFinalSave_same ?_ (Same.sub hm rfl)
    | with_reducible refine closeSessions_same ?_ (Same.sub hm rfl)
    | with_reducible refine writeRack_same ?_ (Same.sub hm rfl)
    | with_reducible refine record_same ?_ (Same.sub hm rfl)
    | split
    | with_reducible refine Same.up_pwr ?_ (Same.sub hm rfl)

theorem withdrawOp_same {M : Nat} {s0 : State} {a0} (h0 : Same M s0 a0) (hm : 1595664 ||| M = M) :
    Same M s0 (withdrawOp a0) := by
  unfold withdrawOp
  repeat' first
    | with_reducible assumption
    | (extract_lets +onlyGivenNames x; first | (refine Same.cut M s0 x ?_ ?_; (focus (dsimp -zeta only [x]; clear x)); rotate_left 1; clear_value x; revert x; intro _ _) | (have hh := fun a => x a; clear hh; dsimp -zeta only [x]; clear x) | (clear_value x; revert x; intro _) | (dsimp -zeta only [x]; clear x))
    | with_reducible refine vinWarnOp_same ?_ (Same.sub hm rfl)
    | with_reducible refine safetySupplyOff_same ?_ (Same.sub hm rfl)
    | with_reducible refine fsupLowOp_same ?_ (Same.sub hm rfl)
    | with_reducible refine Same.foldl (fun _ _ _ => ?_) ?_
    | split

theorem execModuleWithdrawal_same {M : Nat} {s0 : State} {a0} (h0 : Same M s0 a0) (hm : 1595664 ||| M = M) :
    OutSame M s0 (execModuleWithdrawal a0) := by
  unfold execModuleWithdrawal
  repeat' first
    | with_reducible assumption
    | (extract_lets +onlyGivenNames x; first | (refine Same.cut M s0 x ?_ ?_; (focus (dsimp -zeta only [x]; clear x)); rotate_left 1; clear_value x; revert x; intro _ _) | (have hh := fun a => x a; clear hh; dsimp -zeta only [x]; clear x) | (clear_value x; revert x; intro _) | (dsimp -zeta only [x]; clear x))
    | with_reducible refine OutSame.next ?_
    | with_reducible refine withdrawOp_same ?_ (Same.sub hm rfl)
    | with_reducible refine Same.up_pwr ?_ (Same.sub hm rfl)

theorem execPwrFsupLow_same {M : Nat} {s0 : State} {a0 a1 a2} (h2 : Same M s0 a2) (hm : 1048592 ||| M = M) :
    OutSame M s0 (execPwrFsupLow a0 a1 a2) := by
  unfold execPwrFsupLow
  repeat' first
    | with_reducible assumption
    | (extract_lets +onlyGivenNames x; first | (refine Same.cut M s0 x ?_ ?_; (focus (dsimp -zeta only [x]; clear x)); rotate_left 1; clear_value x; revert x; intro _ _) | (have hh := fun a => x a; clear hh; dsimp -zeta only [x]; clear x) | (clear_value x; revert x; intro _) | (dsimp -zeta only [x]; clear x))
    | with_reducible refine OutSame.next ?_
    | with_reducible refine record_same ?_ (Same.sub hm rfl)
    | split
    | with_reducible refine Same.up_pwr ?_ (Same.sub hm rfl)

theorem firmwareFailed_same {M : Nat} {s0 : State} {a0} (h0 : Same M s0 a0) (hm : 1574928 ||| M = M) :
    Same M s0 (firmwareFailed a0) := by
  unfold firmwareFailed
  repeat' first
    | with_reducible assumption
    | (extract_lets +onlyGivenNames x; first | (refine Same.cut M s0 x ?_ ?_; (focus (dsimp -zeta only [x]; clear x)); rotate_left 1; clear_value x; revert x; intro _ _) | (have hh := fun a => x a; clear hh; dsimp -zeta only [x]; clear x) | (clear_value x; revert x; intro _) | (dsimp -zeta only [x]; clear x))
    | with_reducible refine rackRevertOp_same ?_ (Same.sub hm rfl)
    | with_reducible refine record_same ?_ (Same.sub hm rfl)
    | split
    | with_reducible refine Same.up_pwr ?_ (Same.sub hm rfl)

theorem islandFailOp_same {M : Nat} {s0 : State} {a0 a1} (h1 : Same M s0 a1) (hm : 1574960 ||| M = M) :
    Same M s0 (islandFailOp a0 a1) := by
  unfold islandFailOp
  repeat' first
    | with_reducible assumption
    | (extract_lets +onlyGivenNames x; first | (refine Same.cut M s0 x ?_ ?_; (focus (dsimp -zeta only [x]; clear x)); rotate_left 1; clear_value x; revert x; intro _ _) | (have hh := fun a => x a; clear hh; dsimp -zeta only [x]; clear x) | (clear_value x; revert x; intro _) | (dsimp -zeta only [x]; clear x))
    | with_reducible refine leaveStandby_same ?_ (Same.sub hm rfl)
    | with_reducible refine firmwareFailed_same ?_ (Same.sub hm rfl)
    | with_reducible refine record_same ?_ (Same.sub hm rfl)
    | with_reducible refine setIsl_same ?_ (Same.sub hm rfl)
    | split

theorem execPwrIslandFail_same {M : Nat} {s0 : State} {a0 a1} (h1 : Same M s0 a1) (hm : 1574960 ||| M = M) :
    OutSame M s0 (execPwrIslandFail a0 a1) := by
  unfold execPwrIslandFail
  repeat' first
    | with_reducible assumption
    | with_reducible refine OutSame.next ?_
    | with_reducible refine islandFailOp_same ?_ (Same.sub hm rfl)
    | split

theorem vinClearOp_same {M : Nat} {s0 : State} {a0} (h0 : Same M s0 a0) (hm : 1048592 ||| M = M) :
    Same M s0 (vinClearOp a0) := by
  unfold vinClearOp
  repeat' first
    | with_reducible assumption
    | (extract_lets +onlyGivenNames x; first | (refine Same.cut M s0 x ?_ ?_; (focus (dsimp -zeta only [x]; clear x)); rotate_left 1; clear_value x; revert x; intro _ _) | (have hh := fun a => x a; clear hh; dsimp -zeta only [x]; clear x) | (clear_value x; revert x; intro _) | (dsimp -zeta only [x]; clear x))
    | with_reducible refine record_same ?_ (Same.sub hm rfl)
    | with_reducible refine Same.up_pwr ?_ (Same.sub hm rfl)

theorem execPwrVinClear_same {M : Nat} {s0 : State} {a0 a1 a2} (h2 : Same M s0 a2) (hm : 1048592 ||| M = M) :
    OutSame M s0 (execPwrVinClear a0 a1 a2) := by
  unfold execPwrVinClear
  repeat' first
    | with_reducible assumption
    | (extract_lets +onlyGivenNames x; first | (refine Same.cut M s0 x ?_ ?_; (focus (dsimp -zeta only [x]; clear x)); rotate_left 1; clear_value x; revert x; intro _ _) | (have hh := fun a => x a; clear hh; dsimp -zeta only [x]; clear x) | (clear_value x; revert x; intro _) | (dsimp -zeta only [x]; clear x))
    | with_reducible refine OutSame.next ?_
    | with_reducible refine vinClearOp_same ?_ (Same.sub hm rfl)
    | split
    | with_reducible refine Same.up_pwr ?_ (Same.sub hm rfl)

theorem execPwrVinWarn_same {M : Nat} {s0 : State} {a0 a1 a2} (h2 : Same M s0 a2) (hm : 1591312 ||| M = M) :
    OutSame M s0 (execPwrVinWarn a0 a1 a2) := by
  unfold execPwrVinWarn
  repeat' first
    | with_reducible assumption
    | (extract_lets +onlyGivenNames x; first | (refine Same.cut M s0 x ?_ ?_; (focus (dsimp -zeta only [x]; clear x)); rotate_left 1; clear_value x; revert x; intro _ _) | (have hh := fun a => x a; clear hh; dsimp -zeta only [x]; clear x) | (clear_value x; revert x; intro _) | (dsimp -zeta only [x]; clear x))
    | with_reducible refine OutSame.next ?_
    | with_reducible refine vinWarnOp_same ?_ (Same.sub hm rfl)
    | split
    | with_reducible refine Same.up_pwr ?_ (Same.sub hm rfl)

theorem execResetPin_same {M : Nat} {s0 : State} {a0 a1} (h1 : Same M s0 a1) (hm : 1050624 ||| M = M) :
    OutSame M s0 (execResetPin a0 a1) := by
  unfold execResetPin
  repeat' first
    | with_reducible assumption
    | with_reducible refine OutSame.next ?_
    | with_reducible refine requestReset_same ?_ (Same.sub hm rfl)
    | split

theorem releaseReset_same {M : Nat} {s0 : State} {a0 a1} (h1 : Same M s0 a1) (hm : 1048624 ||| M = M) :
    Same M s0 (releaseReset a0 a1) := by
  unfold releaseReset
  repeat' first
    | with_reducible assumption
    | (extract_lets +onlyGivenNames x; first | (refine Same.cut M s0 x ?_ ?_; (focus (dsimp -zeta only [x]; clear x)); rotate_left 1; clear_value x; revert x; intro _ _) | (have hh := fun a => x a; clear hh; dsimp -zeta only [x]; clear x) | (clear_value x; revert x; intro _) | (dsimp -zeta only [x]; clear x))
    | with_reducible refine record_same ?_ (Same.sub hm rfl)
    | with_reducible refine setIsl_same ?_ (Same.sub hm rfl)
    | split
    | with_reducible refine Same.up_sys_pwr ?_ (Same.sub hm rfl) (Same.sub hm rfl)

theorem startUpOp_same {M : Nat} {s0 : State} {a0 a1} (h1 : Same M s0 a1) (hm : 1599600 ||| M = M) :
    Same M s0 (startUpOp a0 a1) := by
  unfold startUpOp
  repeat' first
    | with_reducible assumption
    | (extract_lets +onlyGivenNames x; first | (refine Same.cut M s0 x ?_ ?_; (focus (dsimp -zeta only [x]; clear x)); rotate_left 1; clear_value x; revert x; intro _ _) | (have hh := fun a => x a; clear hh; dsimp -zeta only [x]; clear x) | (clear_value x; revert x; intro _) | (dsimp -zeta only [x]; clear x))
    | with_reducible refine restoreCellar_same ?_ (Same.sub hm rfl)
    | with_reducible refine releaseReset_same ?_ (Same.sub hm rfl)
    | with_reducible refine completeJournal_same ?_ (Same.sub hm rfl)
    | with_reducible refine firmwareFailed_same ?_ (Same.sub hm rfl)
    | with_reducible refine startStage_same ?_ (Same.sub hm rfl)
    | with_reducible refine queueWake_same ?_ (Same.sub hm rfl)
    | with_reducible refine Same.foldl (fun _ _ _ => ?_) ?_
    | split
    | with_reducible refine Same.up_key_upd ?_ (Same.sub hm rfl) (Same.sub hm rfl)
    | with_reducible refine Same.up_upd ?_ (Same.sub hm rfl)

theorem execStartUp_same {M : Nat} {s0 : State} {a0 a1} (h1 : Same M s0 a1) (hm : 1599600 ||| M = M) :
    OutSame M s0 (execStartUp a0 a1) := by
  unfold execStartUp
  repeat' first
    | with_reducible assumption
    | with_reducible refine OutSame.next ?_
    | with_reducible refine startUpOp_same ?_ (Same.sub hm rfl)
    | split

theorem execVinStart_same {M : Nat} {s0 : State} {a0 a1 a2 a3} (h3 : Same M s0 a3) (hm : 1048576 ||| M = M) :
    OutSame M s0 (execVinStart a0 a1 a2 a3) := by
  unfold execVinStart
  repeat' first
    | with_reducible assumption
    | (extract_lets +onlyGivenNames x; first | (refine Same.cut M s0 x ?_ ?_; (focus (dsimp -zeta only [x]; clear x)); rotate_left 1; clear_value x; revert x; intro _ _) | (have hh := fun a => x a; clear hh; dsimp -zeta only [x]; clear x) | (clear_value x; revert x; intro _) | (dsimp -zeta only [x]; clear x))
    | with_reducible refine OutSame.next ?_
    | split
    | with_reducible refine Same.up_pwr ?_ (Same.sub hm rfl)

theorem wakeOp_same {M : Nat} {s0 : State} {a0 a1} (h1 : Same M s0 a1) (hm : 1048624 ||| M = M) :
    Same M s0 (wakeOp a0 a1) := by
  unfold wakeOp
  repeat' first
    | with_reducible assumption
    | (extract_lets +onlyGivenNames x; first | (refine Same.cut M s0 x ?_ ?_; (focus (dsimp -zeta only [x]; clear x)); rotate_left 1; clear_value x; revert x; intro _ _) | (have hh := fun a => x a; clear hh; dsimp -zeta only [x]; clear x) | (clear_value x; revert x; intro _) | (dsimp -zeta only [x]; clear x))
    | with_reducible refine admitWake_same ?_ (Same.sub hm rfl)
    | with_reducible refine noteDefer_same ?_ (Same.sub hm rfl)
    | with_reducible refine noteOversize_same ?_ (Same.sub hm rfl)
    | split
    | with_reducible refine Same.up_pwr ?_ (Same.sub hm rfl)

theorem execWakeAdmission_same {M : Nat} {s0 : State} {a0 a1} (h1 : Same M s0 a1) (hm : 1048624 ||| M = M) :
    OutSame M s0 (execWakeAdmission a0 a1) := by
  unfold execWakeAdmission
  repeat' first
    | with_reducible assumption
    | (extract_lets +onlyGivenNames x; first | (refine Same.cut M s0 x ?_ ?_; (focus (dsimp -zeta only [x]; clear x)); rotate_left 1; clear_value x; revert x; intro _ _) | (have hh := fun a => x a; clear hh; dsimp -zeta only [x]; clear x) | (clear_value x; revert x; intro _) | (dsimp -zeta only [x]; clear x))
    | with_reducible refine OutSame.next ?_
    | with_reducible refine wakeOp_same ?_ (Same.sub hm rfl)
    | split
    | with_reducible refine Same.up_pwr ?_ (Same.sub hm rfl)

theorem execWakeRelease_same {M : Nat} {s0 : State} {a0 a1} (h1 : Same M s0 a1) (hm : 1048576 ||| M = M) :
    OutSame M s0 (execWakeRelease a0 a1) := by
  unfold execWakeRelease
  repeat' first
    | with_reducible assumption
    | (extract_lets +onlyGivenNames x; first | (refine Same.cut M s0 x ?_ ?_; (focus (dsimp -zeta only [x]; clear x)); rotate_left 1; clear_value x; revert x; intro _ _) | (have hh := fun a => x a; clear hh; dsimp -zeta only [x]; clear x) | (clear_value x; revert x; intro _) | (dsimp -zeta only [x]; clear x))
    | with_reducible refine OutSame.next ?_
    | with_reducible refine Same.up_pwr ?_ (Same.sub hm rfl)

theorem execWatchdogReset_same {M : Nat} {s0 : State} {a0} (h0 : Same M s0 a0) (hm : 1050624 ||| M = M) :
    OutSame M s0 (execWatchdogReset a0) := by
  unfold execWatchdogReset
  repeat' first
    | with_reducible assumption
    | with_reducible refine OutSame.next ?_
    | with_reducible refine requestReset_same ?_ (Same.sub hm rfl)
    | split

end Sys2Proof.Machine
end

