-- ==== Sys2Proof/Laws/FrameRecorder.lean ====
section
/-!
SUPPORT. FrameRecorder.lean: for each operation of Machine/Recorder.lean, the components of State it can change: the result agrees with the
state it starts from on every component whose bit in the mask is 0 (the bits as in `Same`).
-/
namespace Sys2Proof.Machine
set_option linter.all false

theorem cellarAbortOp_same {M : Nat} {s0 : State} {a0} (h0 : Same M s0 a0) (hm : 8208 ||| M = M) :
    Same M s0 (cellarAbortOp a0) := by
  unfold cellarAbortOp
  repeat' first
    | with_reducible assumption
    | (extract_lets +onlyGivenNames x; first | (refine Same.cut M s0 x ?_ ?_; (focus (dsimp -zeta only [x]; clear x)); rotate_left 1; clear_value x; revert x; intro _ _) | (have hh := fun a => x a; clear hh; dsimp -zeta only [x]; clear x) | (clear_value x; revert x; intro _) | (dsimp -zeta only [x]; clear x))
    | with_reducible refine record_same ?_ (Same.sub hm rfl)
    | with_reducible refine Same.up_cel ?_ (Same.sub hm rfl)

theorem execCellarAbort_same {M : Nat} {s0 : State} {a0 a1} (h1 : Same M s0 a1) (hm : 1056824 ||| M = M) :
    OutSame M s0 (execCellarAbort a0 a1) := by
  unfold execCellarAbort
  repeat' first
    | with_reducible assumption
    | with_reducible refine OutSame.next ?_
    | with_reducible refine cellarAbortOp_same ?_ (Same.sub hm rfl)
    | with_reducible refine abortCmd_same (fun x0 k0 => ?_) ?_ (Same.sub hm rfl)

theorem overwriteQ_same {M : Nat} {s0 : State} {a0 a1} (h1 : Same M s0 a1) (hm : 8192 ||| M = M) :
    Same M s0 (overwriteQ a0 a1) := by
  unfold overwriteQ
  repeat' first
    | with_reducible assumption
    | (extract_lets +onlyGivenNames x; first | (refine Same.cut M s0 x ?_ ?_; (focus (dsimp -zeta only [x]; clear x)); rotate_left 1; clear_value x; revert x; intro _ _) | (have hh := fun a => x a; clear hh; dsimp -zeta only [x]; clear x) | (clear_value x; revert x; intro _) | (dsimp -zeta only [x]; clear x))
    | split
    | with_reducible refine Same.up_cel ?_ (Same.sub hm rfl)

theorem seek_same {M : Nat} {s0 : State} {a0 a1 a2} (h2 : Same M s0 a2) (hm : 8192 ||| M = M) :
    Same M s0 (seek a0 a1 a2) := by
  unfold seek
  repeat' first
    | with_reducible assumption
    | (extract_lets +onlyGivenNames x; first | (refine Same.cut M s0 x ?_ ?_; (focus (dsimp -zeta only [x]; clear x)); rotate_left 1; clear_value x; revert x; intro _ _) | (have hh := fun a => x a; clear hh; dsimp -zeta only [x]; clear x) | (clear_value x; revert x; intro _) | (dsimp -zeta only [x]; clear x))
    | with_reducible refine updQBank_same ?_ (Same.sub hm rfl)
    | split

theorem reseek_same {M : Nat} {s0 : State} {a0 a1} (h1 : Same M s0 a1) (hm : 8192 ||| M = M) :
    Same M s0 (reseek a0 a1) := by
  unfold reseek
  repeat' first
    | with_reducible assumption
    | with_reducible refine seek_same ?_ (Same.sub hm rfl)
    | with_reducible refine Same.foldl (fun _ _ _ => ?_) ?_
    | split

theorem appendRec_same {M : Nat} {s0 : State} {a0 a1} (h1 : Same M s0 a1) (hm : 8192 ||| M = M) :
    Same M s0 (appendRec a0 a1) := by
  unfold appendRec
  repeat' first
    | with_reducible assumption
    | (extract_lets +onlyGivenNames x; first | (refine Same.cut M s0 x ?_ ?_; (focus (dsimp -zeta only [x]; clear x)); rotate_left 1; clear_value x; revert x; intro _ _) | (have hh := fun a => x a; clear hh; dsimp -zeta only [x]; clear x) | (clear_value x; revert x; intro _) | (dsimp -zeta only [x]; clear x))
    | with_reducible refine overwriteQ_same ?_ (Same.sub hm rfl)
    | with_reducible refine reseek_same ?_ (Same.sub hm rfl)
    | split
    | with_reducible refine Same.up_cel ?_ (Same.sub hm rfl)

theorem nextQuery_same {M : Nat} {s0 : State} {a0 a1} (h1 : Same M s0 a1) (hm : 8192 ||| M = M) :
    Same M s0 (nextQuery a0 a1) := by
  unfold nextQuery
  repeat' first
    | with_reducible assumption
    | (extract_lets +onlyGivenNames x; first | (refine Same.cut M s0 x ?_ ?_; (focus (dsimp -zeta only [x]; clear x)); rotate_left 1; clear_value x; revert x; intro _ _) | (have hh := fun a => x a; clear hh; dsimp -zeta only [x]; clear x) | (clear_value x; revert x; intro _) | (dsimp -zeta only [x]; clear x))
    | with_reducible refine seek_same ?_ (Same.sub hm rfl)
    | split

theorem execQueryNext_same {M : Nat} {s0 : State} {a0 a1} (h1 : Same M s0 a1) (hm : 8248 ||| M = M) :
    OutSame M s0 (execQueryNext a0 a1) := by
  unfold execQueryNext
  repeat' first
    | with_reducible assumption
    | with_reducible refine OutSame.next ?_
    | with_reducible refine regCmd_same (fun x0 k0 => ?_) ?_ (Same.sub hm rfl)
    | with_reducible refine nextQuery_same ?_ (Same.sub hm rfl)

theorem execQueryEnd_same {M : Nat} {s0 : State} {a0 a1} (h1 : Same M s0 a1) (hm : 8248 ||| M = M) :
    OutSame M s0 (execQueryEnd a0 a1) := by
  unfold execQueryEnd
  repeat' first
    | with_reducible assumption
    | with_reducible refine OutSame.next ?_
    | with_reducible refine regCmd_same (fun x0 k0 => ?_) ?_ (Same.sub hm rfl)
    | with_reducible refine updQBank_same ?_ (Same.sub hm rfl)

theorem startQuery_same {M : Nat} {s0 : State} {a0 a1 a2} (h2 : Same M s0 a2) (hm : 8192 ||| M = M) :
    Same M s0 (startQuery a0 a1 a2) := by
  unfold startQuery
  repeat' first
    | with_reducible assumption
    | with_reducible refine seek_same ?_ (Same.sub hm rfl)
    | with_reducible refine updQBank_same ?_ (Same.sub hm rfl)
    | split

theorem execQueryStart_same {M : Nat} {s0 : State} {a0 a1 a2} (h2 : Same M s0 a2) (hm : 8248 ||| M = M) :
    OutSame M s0 (execQueryStart a0 a1 a2) := by
  unfold execQueryStart
  repeat' first
    | with_reducible assumption
    | with_reducible refine OutSame.next ?_
    | with_reducible refine startQuery_same ?_ (Same.sub hm rfl)
    | with_reducible refine regCmd_same (fun x0 k0 => ?_) ?_ (Same.sub hm rfl)

theorem execCelTimeMark_same {M : Nat} {s0 : State} {a0} (h0 : Same M s0 a0) (hm : 270336 ||| M = M) :
    OutSame M s0 (execCelTimeMark a0) := by
  unfold execCelTimeMark
  repeat' first
    | with_reducible assumption
    | (extract_lets +onlyGivenNames x; first | (refine Same.cut M s0 x ?_ ?_; (focus (dsimp -zeta only [x]; clear x)); rotate_left 1; clear_value x; revert x; intro _ _) | (have hh := fun a => x a; clear hh; dsimp -zeta only [x]; clear x) | (clear_value x; revert x; intro _) | (dsimp -zeta only [x]; clear x))
    | with_reducible refine OutSame.next ?_
    | with_reducible refine appendRec_same ?_ (Same.sub hm rfl)
    | split
    | with_reducible refine Same.up_cel_tim ?_ (Same.sub hm rfl) (Same.sub hm rfl)

theorem execEventRecordQueued_same {M : Nat} {s0 : State} {a0} (h0 : Same M s0 a0) (hm : 8208 ||| M = M) :
    OutSame M s0 (execEventRecordQueued a0) := by
  unfold execEventRecordQueued
  repeat' first
    | with_reducible assumption
    | (extract_lets +onlyGivenNames x; first | (refine Same.cut M s0 x ?_ ?_; (focus (dsimp -zeta only [x]; clear x)); rotate_left 1; clear_value x; revert x; intro _ _) | (have hh := fun a => x a; clear hh; dsimp -zeta only [x]; clear x) | (clear_value x; revert x; intro _) | (dsimp -zeta only [x]; clear x))
    | with_reducible refine OutSame.next ?_
    | split
    | with_reducible refine Same.up_arising_cel ?_ (Same.sub hm rfl) (Same.sub hm rfl)

theorem queueDropped_same {M : Nat} {s0 : State} {a0} (h0 : Same M s0 a0) (hm : 8192 ||| M = M) :
    Same M s0 (queueDropped a0) := by
  unfold queueDropped
  repeat' first
    | with_reducible assumption
    | (extract_lets +onlyGivenNames x; first | (refine Same.cut M s0 x ?_ ?_; (focus (dsimp -zeta only [x]; clear x)); rotate_left 1; clear_value x; revert x; intro _ _) | (have hh := fun a => x a; clear hh; dsimp -zeta only [x]; clear x) | (clear_value x; revert x; intro _) | (dsimp -zeta only [x]; clear x))
    | split
    | with_reducible refine Same.up_cel ?_ (Same.sub hm rfl)

theorem writeRec_same {M : Nat} {s0 : State} {a0 a1} (h1 : Same M s0 a1) (hm : 8192 ||| M = M) :
    Same M s0 (writeRec a0 a1) := by
  unfold writeRec
  repeat' first
    | with_reducible assumption
    | (extract_lets +onlyGivenNames x; first | (refine Same.cut M s0 x ?_ ?_; (focus (dsimp -zeta only [x]; clear x)); rotate_left 1; clear_value x; revert x; intro _ _) | (have hh := fun a => x a; clear hh; dsimp -zeta only [x]; clear x) | (clear_value x; revert x; intro _) | (dsimp -zeta only [x]; clear x))
    | with_reducible refine appendRec_same ?_ (Same.sub hm rfl)
    | split
    | with_reducible refine Same.up_cel ?_ (Same.sub hm rfl)

theorem execEventRecordWrite_same {M : Nat} {s0 : State} {a0} (h0 : Same M s0 a0) (hm : 8192 ||| M = M) :
    OutSame M s0 (execEventRecordWrite a0) := by
  unfold execEventRecordWrite
  repeat' first
    | with_reducible assumption
    | (extract_lets +onlyGivenNames x; first | (refine Same.cut M s0 x ?_ ?_; (focus (dsimp -zeta only [x]; clear x)); rotate_left 1; clear_value x; revert x; intro _ _) | (have hh := fun a => x a; clear hh; dsimp -zeta only [x]; clear x) | (clear_value x; revert x; intro _) | (dsimp -zeta only [x]; clear x))
    | with_reducible refine OutSame.next ?_
    | with_reducible refine queueDropped_same ?_ (Same.sub hm rfl)
    | with_reducible refine writeRec_same ?_ (Same.sub hm rfl)
    | split
    | with_reducible refine Same.up_cel ?_ (Same.sub hm rfl)

theorem execQueryRecordReady_same {M : Nat} {s0 : State} {a0 a1 a2} (h2 : Same M s0 a2) (hm : 8192 ||| M = M) :
    OutSame M s0 (execQueryRecordReady a0 a1 a2) := by
  unfold execQueryRecordReady
  repeat' first
    | with_reducible assumption
    | (extract_lets +onlyGivenNames x; first | (refine Same.cut M s0 x ?_ ?_; (focus (dsimp -zeta only [x]; clear x)); rotate_left 1; clear_value x; revert x; intro _ _) | (have hh := fun a => x a; clear hh; dsimp -zeta only [x]; clear x) | (clear_value x; revert x; intro _) | (dsimp -zeta only [x]; clear x))
    | with_reducible refine OutSame.next ?_
    | with_reducible refine updQBank_same ?_ (Same.sub hm rfl)
    | split

end Sys2Proof.Machine
end

