-- ==== Sys2Proof/Laws/FrameRegWrite.lean ====
section
/-!
SUPPORT. FrameRegWrite.lean: for each operation of Machine/RegWrite.lean, the components of State it can change: the result agrees with the
state it starts from on every component whose bit in the mask is 0 (the bits as in `Same`).
-/
namespace Sys2Proof.Machine
set_option linter.all false

theorem after_same {M : Nat} {s0 : State} {a0 a1} (h0 : OutSame M s0 a0) (h1 : Same M s0 a1) (hm : 0 ||| M = M) :
    Same M s0 (after a0 a1) := by
  cases a0 with
  | next t => exact h0
  | _ => exact h1

theorem abortWrite_same {M : Nat} {s0 : State} {a0 a1 a2} (h2 : Same M s0 a2) (hm : 2097080 ||| M = M) :
    Same M s0 (abortWrite a0 a1 a2) := by
  have key : ∀ f ∈ aborts a0, ∀ s : State, Same M s0 s → OutSame M s0 (f s) := by
    unfold aborts
    repeat' first
      | (refine List.forall_mem_cons.mpr ⟨fun s h => ?_, ?_⟩)
      | with_reducible exact execSectionalLoadAbort_same h (Same.sub hm rfl)
      | with_reducible exact execKeyEngineAbort_same h (Same.sub hm rfl)
      | with_reducible exact execUpdAbort_same h (Same.sub hm rfl)
      | with_reducible exact execRingMacAbort_same h (Same.sub hm rfl)
      | with_reducible exact execTrellisAbort_same h (Same.sub hm rfl)
      | with_reducible exact execCellarAbort_same h (Same.sub hm rfl)
      | with_reducible exact execPressAbort_same h (Same.sub hm rfl)
      | with_reducible exact execSafetyIslandAbort_same h (Same.sub hm rfl)
      | with_reducible exact execLoopEngineAbort_same h (Same.sub hm rfl)
      | with_reducible exact execFieldBusAbort_same h (Same.sub hm rfl)
      | with_reducible exact execProgramEngineAbort_same h (Same.sub hm rfl)
      | exact fun _ h => absurd h (by simp)
  unfold abortWrite
  repeat' first
    | with_reducible assumption
    | (extract_lets +onlyGivenNames x; (dsimp -zeta only [x]; clear x))
    | with_reducible refine Same.foldl (fun _ _ _ => ?_) ?_
    | with_reducible exact key _ (List.mem_of_getElem? ‹_›) _ ‹_›
    | with_reducible refine after_same ?_ ?_ (Same.sub hm rfl)
    | split

theorem admCmdWrite_same {M : Nat} {s0 : State} {a0 a1 a2} (h2 : Same M s0 a2) (hm : 147512 ||| M = M) :
    Same M s0 (admCmdWrite a0 a1 a2) := by
  unfold admCmdWrite
  repeat' first
    | with_reducible assumption
    | with_reducible refine execReleaseFlow_same ?_ (Same.sub hm rfl)
    | with_reducible refine execAdmitFlow_same ?_ (Same.sub hm rfl)
    | with_reducible refine after_same ?_ ?_ (Same.sub hm rfl)
    | split

theorem portCmdWrite_same {M : Nat} {s0 : State} {a0 a1 a2} (h2 : Same M s0 a2) (hm : 1114168 ||| M = M) :
    Same M s0 (portCmdWrite a0 a1 a2) := by
  unfold portCmdWrite
  repeat' first
    | with_reducible assumption
    | (extract_lets +onlyGivenNames x; first | (refine Same.cut M s0 x ?_ ?_; (focus (dsimp -zeta only [x]; clear x)); rotate_left 1; clear_value x; revert x; intro _ _) | (have hh := fun a => x a; clear hh; dsimp -zeta only [x]; clear x) | (clear_value x; revert x; intro _) | (dsimp -zeta only [x]; clear x))
    | with_reducible refine execBsiPortStart_same ?_ (Same.sub hm rfl)
    | with_reducible refine bsiStatus_same ?_ (Same.sub hm rfl)
    | with_reducible refine after_same ?_ ?_ (Same.sub hm rfl)
    | with_reducible refine execBsiPortStop_same ?_ (Same.sub hm rfl)
    | with_reducible refine execInstall_same ?_ (Same.sub hm rfl)
    | split

theorem credCmdWrite_same {M : Nat} {s0 : State} {a0 a1 a2} (h2 : Same M s0 a2) (hm : 65592 ||| M = M) :
    Same M s0 (credCmdWrite a0 a1 a2) := by
  unfold credCmdWrite
  repeat' first
    | with_reducible assumption
    | (extract_lets +onlyGivenNames x; first | (refine Same.cut M s0 x ?_ ?_; (focus (dsimp -zeta only [x]; clear x)); rotate_left 1; clear_value x; revert x; intro _ _) | (have hh := fun a => x a; clear hh; dsimp -zeta only [x]; clear x) | (clear_value x; revert x; intro _) | (dsimp -zeta only [x]; clear x))
    | with_reducible refine execCredDelete_same ?_ (Same.sub hm rfl)
    | with_reducible refine after_same ?_ ?_ (Same.sub hm rfl)
    | with_reducible refine execCredReplace_same ?_ (Same.sub hm rfl)
    | with_reducible refine execCredAdd_same ?_ (Same.sub hm rfl)
    | split

theorem bsiWrites_same {M : Nat} {s0 : State} {a0 a1 a2} (h2 : Same M s0 a2) (hm : 1114168 ||| M = M) :
    RowsSame M s0 (bsiWrites a0 a1 a2) := by
  unfold bsiWrites
  repeat' first
    | with_reducible assumption
    | (extract_lets +onlyGivenNames x; first | (refine Same.cut M s0 x ?_ ?_; (focus (dsimp -zeta only [x]; clear x)); rotate_left 1; clear_value x; revert x; intro _ _) | (have hh := fun a => x a; clear hh; dsimp -zeta only [x]; clear x) | (clear_value x; revert x; intro _) | (dsimp -zeta only [x]; clear x))
    | with_reducible refine RowsSame.nil
    | with_reducible refine RowsSame.r1 ?_ ?_
    | with_reducible refine RowsSame.rn (fun _ => ?_) ?_
    | with_reducible refine portCmdWrite_same ?_ (Same.sub hm rfl)
    | with_reducible refine credCmdWrite_same ?_ (Same.sub hm rfl)
    | split
    | with_reducible refine Same.up_fbs ?_ (Same.sub hm rfl)

theorem evqCmdWrite_same {M : Nat} {s0 : State} {a0 a1 a2} (h2 : Same M s0 a2) (hm : 8248 ||| M = M) :
    Same M s0 (evqCmdWrite a0 a1 a2) := by
  unfold evqCmdWrite
  repeat' first
    | with_reducible assumption
    | with_reducible refine execQueryNext_same ?_ (Same.sub hm rfl)
    | with_reducible refine execQueryEnd_same ?_ (Same.sub hm rfl)
    | with_reducible refine execQueryStart_same ?_ (Same.sub hm rfl)
    | with_reducible refine after_same ?_ ?_ (Same.sub hm rfl)
    | split

theorem rtcCtrlWrite_same {M : Nat} {s0 : State} {a0 a1 a2} (h2 : Same M s0 a2) (hm : 8248 ||| M = M) :
    Same M s0 (rtcCtrlWrite a0 a1 a2) := by
  unfold rtcCtrlWrite
  repeat' first
    | with_reducible assumption
    | with_reducible refine execDstSub_same ?_ (Same.sub hm rfl)
    | with_reducible refine execDstAdd_same ?_ (Same.sub hm rfl)
    | with_reducible refine execSyncCalendar_same ?_ (Same.sub hm rfl)
    | with_reducible refine after_same ?_ ?_ (Same.sub hm rfl)
    | with_reducible refine execLoadCalendar_same ?_ (Same.sub hm rfl)
    | split

theorem celWrites_same {M : Nat} {s0 : State} {a0 a1 a2} (h2 : Same M s0 a2) (hm : 8248 ||| M = M) :
    RowsSame M s0 (celWrites a0 a1 a2) := by
  unfold celWrites
  repeat' first
    | with_reducible assumption
    | (extract_lets +onlyGivenNames x; first | (refine Same.cut M s0 x ?_ ?_; (focus (dsimp -zeta only [x]; clear x)); rotate_left 1; clear_value x; revert x; intro _ _) | (have hh := fun a => x a; clear hh; dsimp -zeta only [x]; clear x) | (clear_value x; revert x; intro _) | (dsimp -zeta only [x]; clear x))
    | with_reducible refine RowsSame.nil
    | with_reducible refine RowsSame.r1 ?_ ?_
    | with_reducible refine RowsSame.rn (fun _ => ?_) ?_
    | with_reducible refine evqCmdWrite_same ?_ (Same.sub hm rfl)
    | with_reducible refine postCel_same ?_ (Same.sub hm rfl)
    | with_reducible refine rtcCtrlWrite_same ?_ (Same.sub hm rfl)
    | with_reducible refine execCelZoneWrite_same ?_ (Same.sub hm rfl)
    | with_reducible refine execCelTrimWrite_same ?_ (Same.sub hm rfl)
    | with_reducible refine busDenied_same ?_ (Same.sub hm rfl)
    | with_reducible refine updQBank_same ?_ (Same.sub hm rfl)
    | with_reducible refine after_same ?_ ?_ (Same.sub hm rfl)
    | with_reducible refine execCelTrimCfgWrite_same ?_ (Same.sub hm rfl)
    | split

theorem chCmdWrite_same {M : Nat} {s0 : State} {a0 a1 a2 a3} (h3 : Same M s0 a3) (hm : 65592 ||| M = M) :
    Same M s0 (chCmdWrite a0 a1 a2 a3) := by
  unfold chCmdWrite
  repeat' first
    | with_reducible assumption
    | (extract_lets +onlyGivenNames x; first | (refine Same.cut M s0 x ?_ ?_; (focus (dsimp -zeta only [x]; clear x)); rotate_left 1; clear_value x; revert x; intro _ _) | (have hh := fun a => x a; clear hh; dsimp -zeta only [x]; clear x) | (clear_value x; revert x; intro _) | (dsimp -zeta only [x]; clear x))
    | with_reducible refine execFbsChStart_same ?_ (Same.sub hm rfl)
    | with_reducible refine after_same ?_ ?_ (Same.sub hm rfl)
    | with_reducible refine execFbsChStop_same ?_ (Same.sub hm rfl)
    | with_reducible refine execRecoverChannel_same ?_ (Same.sub hm rfl)
    | split

theorem compatWrite_same {M : Nat} {s0 : State} {a0 a1} (h1 : Same M s0 a1) (hm : 32 ||| M = M) :
    Same M s0 (compatWrite a0 a1) := by
  unfold compatWrite
  repeat' first
    | with_reducible assumption
    | (extract_lets +onlyGivenNames x; first | (refine Same.cut M s0 x ?_ ?_; (focus (dsimp -zeta only [x]; clear x)); rotate_left 1; clear_value x; revert x; intro _ _) | (have hh := fun a => x a; clear hh; dsimp -zeta only [x]; clear x) | (clear_value x; revert x; intro _) | (dsimp -zeta only [x]; clear x))
    | split
    | with_reducible refine Same.up_sys ?_ (Same.sub hm rfl)

theorem domCmdWrite_same {M : Nat} {s0 : State} {a0 a1 a2 a3} (h3 : Same M s0 a3) (hm : 262200 ||| M = M) :
    Same M s0 (domCmdWrite a0 a1 a2 a3) := by
  unfold domCmdWrite
  repeat' first
    | with_reducible assumption
    | (extract_lets +onlyGivenNames x; first | (refine Same.cut M s0 x ?_ ?_; (focus (dsimp -zeta only [x]; clear x)); rotate_left 1; clear_value x; revert x; intro _ _) | (have hh := fun a => x a; clear hh; dsimp -zeta only [x]; clear x) | (clear_value x; revert x; intro _) | (dsimp -zeta only [x]; clear x))
    | with_reducible refine execSetTrustDomain_same ?_ (Same.sub hm rfl)
    | with_reducible refine execSetDomain_same ?_ (Same.sub hm rfl)
    | with_reducible refine after_same ?_ ?_ (Same.sub hm rfl)
    | with_reducible refine execAdjustDomain_same ?_ (Same.sub hm rfl)
    | split

theorem scanCtrlWrite_same {M : Nat} {s0 : State} {a0 a1 a2} (h2 : Same M s0 a2) (hm : 65592 ||| M = M) :
    Same M s0 (scanCtrlWrite a0 a1 a2) := by
  unfold scanCtrlWrite
  repeat' first
    | with_reducible assumption
    | (extract_lets +onlyGivenNames x; first | (refine Same.cut M s0 x ?_ ?_; (focus (dsimp -zeta only [x]; clear x)); rotate_left 1; clear_value x; revert x; intro _ _) | (have hh := fun a => x a; clear hh; dsimp -zeta only [x]; clear x) | (clear_value x; revert x; intro _) | (dsimp -zeta only [x]; clear x))
    | with_reducible refine execMarginScanStop_same ?_ (Same.sub hm rfl)
    | with_reducible refine execMarginScanStart_same ?_ (Same.sub hm rfl)
    | with_reducible refine after_same ?_ ?_ (Same.sub hm rfl)
    | split
    | with_reducible refine Same.up_fbs ?_ (Same.sub hm rfl)

theorem fbsWrites_same {M : Nat} {s0 : State} {a0 a1 a2} (h2 : Same M s0 a2) (hm : 65592 ||| M = M) :
    RowsSame M s0 (fbsWrites a0 a1 a2) := by
  unfold fbsWrites
  repeat' first
    | with_reducible assumption
    | (extract_lets +onlyGivenNames x; first | (refine Same.cut M s0 x ?_ ?_; (focus (dsimp -zeta only [x]; clear x)); rotate_left 1; clear_value x; revert x; intro _ _) | (have hh := fun a => x a; clear hh; dsimp -zeta only [x]; clear x) | (clear_value x; revert x; intro _) | (dsimp -zeta only [x]; clear x))
    | with_reducible refine RowsSame.nil
    | with_reducible refine RowsSame.r1 ?_ ?_
    | with_reducible refine RowsSame.rn (fun _ => ?_) ?_
    | with_reducible refine scanCtrlWrite_same ?_ (Same.sub hm rfl)
    | with_reducible refine chCmdWrite_same ?_ (Same.sub hm rfl)

theorem pgeCmdWrite_same {M : Nat} {s0 : State} {a0 a1 a2} (h2 : Same M s0 a2) (hm : 632 ||| M = M) :
    Same M s0 (pgeCmdWrite a0 a1 a2) := by
  unfold pgeCmdWrite
  repeat' first
    | with_reducible assumption
    | (extract_lets +onlyGivenNames x; first | (refine Same.cut M s0 x ?_ ?_; (focus (dsimp -zeta only [x]; clear x)); rotate_left 1; clear_value x; revert x; intro _ _) | (have hh := fun a => x a; clear hh; dsimp -zeta only [x]; clear x) | (clear_value x; revert x; intro _) | (dsimp -zeta only [x]; clear x))
    | with_reducible refine execRunWarm_same ?_ (Same.sub hm rfl)
    | with_reducible refine execHoldCask_same ?_ (Same.sub hm rfl)
    | with_reducible refine execStopCask_same ?_ (Same.sub hm rfl)
    | with_reducible refine execResumeCask_same ?_ (Same.sub hm rfl)
    | with_reducible refine after_same ?_ ?_ (Same.sub hm rfl)
    | with_reducible refine execRunCold_same ?_ (Same.sub hm rfl)
    | split

theorem taskSelWrite_same {M : Nat} {s0 : State} {a0 a1 a2} (h2 : Same M s0 a2) (hm : 512 ||| M = M) :
    Same M s0 (taskSelWrite a0 a1 a2) := by
  unfold taskSelWrite
  repeat' first
    | with_reducible assumption
    | (extract_lets +onlyGivenNames x; first | (refine Same.cut M s0 x ?_ ?_; (focus (dsimp -zeta only [x]; clear x)); rotate_left 1; clear_value x; revert x; intro _ _) | (have hh := fun a => x a; clear hh; dsimp -zeta only [x]; clear x) | (clear_value x; revert x; intro _) | (dsimp -zeta only [x]; clear x))
    | with_reducible refine updPCask_same ?_ (Same.sub hm rfl)
    | split
    | with_reducible refine Same.up_pge ?_ (Same.sub hm rfl)

theorem pgeWrites_same {M : Nat} {s0 : State} {a0 a1 a2} (h2 : Same M s0 a2) (hm : 632 ||| M = M) :
    RowsSame M s0 (pgeWrites a0 a1 a2) := by
  unfold pgeWrites
  repeat' first
    | with_reducible assumption
    | (extract_lets +onlyGivenNames x; first | (refine Same.cut M s0 x ?_ ?_; (focus (dsimp -zeta only [x]; clear x)); rotate_left 1; clear_value x; revert x; intro _ _) | (have hh := fun a => x a; clear hh; dsimp -zeta only [x]; clear x) | (clear_value x; revert x; intro _) | (dsimp -zeta only [x]; clear x))
    | with_reducible refine RowsSame.nil
    | with_reducible refine RowsSame.r1 ?_ ?_
    | with_reducible refine RowsSame.rn (fun _ => ?_) ?_
    | with_reducible refine pgeCmdWrite_same ?_ (Same.sub hm rfl)
    | with_reducible refine taskSelWrite_same ?_ (Same.sub hm rfl)
    | with_reducible refine execPgeEvtTrig_same ?_ (Same.sub hm rfl)
    | with_reducible refine after_same ?_ ?_ (Same.sub hm rfl)
    | split

theorem ptestCtrlWrite_same {M : Nat} {s0 : State} {a0 a1 a2} (h2 : Same M s0 a2) (hm : 131128 ||| M = M) :
    Same M s0 (ptestCtrlWrite a0 a1 a2) := by
  unfold ptestCtrlWrite
  repeat' first
    | with_reducible assumption
    | (extract_lets +onlyGivenNames x; first | (refine Same.cut M s0 x ?_ ?_; (focus (dsimp -zeta only [x]; clear x)); rotate_left 1; clear_value x; revert x; intro _ _) | (have hh := fun a => x a; clear hh; dsimp -zeta only [x]; clear x) | (clear_value x; revert x; intro _) | (dsimp -zeta only [x]; clear x))
    | with_reducible refine execPathTestStart_same ?_ (Same.sub hm rfl)
    | with_reducible refine after_same ?_ ?_ (Same.sub hm rfl)
    | split
    | with_reducible refine Same.up_net ?_ (Same.sub hm rfl)

theorem netWrites_same {M : Nat} {s0 : State} {a0 a1 a2} (h2 : Same M s0 a2) (hm : 147512 ||| M = M) :
    RowsSame M s0 (netWrites a0 a1 a2) := by
  unfold netWrites
  repeat' first
    | with_reducible assumption
    | (extract_lets +onlyGivenNames x; first | (refine Same.cut M s0 x ?_ ?_; (focus (dsimp -zeta only [x]; clear x)); rotate_left 1; clear_value x; revert x; intro _ _) | (have hh := fun a => x a; clear hh; dsimp -zeta only [x]; clear x) | (clear_value x; revert x; intro _) | (dsimp -zeta only [x]; clear x))
    | with_reducible refine RowsSame.nil
    | with_reducible refine RowsSame.r1 ?_ ?_
    | with_reducible refine RowsSame.rn (fun _ => ?_) ?_
    | with_reducible refine execBypHoldSet_same ?_ (Same.sub hm rfl)
    | with_reducible refine updAdmBank_same ?_ (Same.sub hm rfl)
    | with_reducible refine admCmdWrite_same ?_ (Same.sub hm rfl)
    | with_reducible refine ptestCtrlWrite_same ?_ (Same.sub hm rfl)
    | with_reducible refine after_same ?_ ?_ (Same.sub hm rfl)
    | with_reducible refine Same.up_net ?_ (Same.sub hm rfl)

theorem pwrWrites_same {M : Nat} {s0 : State} {a0 a1 a2} (h2 : Same M s0 a2) (hm : 1278520 ||| M = M) :
    RowsSame M s0 (pwrWrites a0 a1 a2) := by
  unfold pwrWrites
  repeat' first
    | with_reducible assumption
    | with_reducible refine RowsSame.nil
    | with_reducible refine RowsSame.r1 ?_ ?_
    | with_reducible refine RowsSame.rn (fun _ => ?_) ?_
    | with_reducible refine execStandby_same ?_ (Same.sub hm rfl)
    | with_reducible refine execResumeFromStandby_same ?_ (Same.sub hm rfl)
    | with_reducible refine after_same ?_ ?_ (Same.sub hm rfl)
    | split

theorem tstCtrlWrite_same {M : Nat} {s0 : State} {a0 a1 a2} (h2 : Same M s0 a2) (hm : 2108 ||| M = M) :
    Same M s0 (tstCtrlWrite a0 a1 a2) := by
  unfold tstCtrlWrite
  repeat' first
    | with_reducible assumption
    | (extract_lets +onlyGivenNames x; first | (refine Same.cut M s0 x ?_ ?_; (focus (dsimp -zeta only [x]; clear x)); rotate_left 1; clear_value x; revert x; intro _ _) | (have hh := fun a => x a; clear hh; dsimp -zeta only [x]; clear x) | (clear_value x; revert x; intro _) | (dsimp -zeta only [x]; clear x))
    | with_reducible refine bumpFree_same ?_ (Same.sub hm rfl)
    | with_reducible refine execTastingSingle_same ?_ (Same.sub hm rfl)
    | with_reducible refine after_same ?_ ?_ (Same.sub hm rfl)
    | with_reducible refine execTastingStart_same ?_ (Same.sub hm rfl)
    | with_reducible refine execTastingStop_same ?_ (Same.sub hm rfl)
    | split
    | with_reducible refine Same.up_prs ?_ (Same.sub hm rfl)

theorem trfCmdWrite_same {M : Nat} {s0 : State} {a0 a1 a2 a3} (h3 : Same M s0 a3) (hm : 2104 ||| M = M) :
    Same M s0 (trfCmdWrite a0 a1 a2 a3) := by
  unfold trfCmdWrite
  repeat' first
    | with_reducible assumption
    | with_reducible refine execTariffClear_same ?_ (Same.sub hm rfl)
    | with_reducible refine execTariffPush_same ?_ (Same.sub hm rfl)
    | with_reducible refine after_same ?_ ?_ (Same.sub hm rfl)
    | split

theorem trfWrite_same {M : Nat} {s0 : State} {a0 a1 a2 a3} (h3 : Same M s0 a3) (hm : 2048 ||| M = M) :
    Same M s0 (trfWrite a0 a1 a2 a3) := by
  unfold trfWrite
  repeat' first
    | with_reducible assumption
    | (extract_lets +onlyGivenNames x; first | (refine Same.cut M s0 x ?_ ?_; (focus (dsimp -zeta only [x]; clear x)); rotate_left 1; clear_value x; revert x; intro _ _) | (have hh := fun a => x a; clear hh; dsimp -zeta only [x]; clear x) | (clear_value x; revert x; intro _) | (dsimp -zeta only [x]; clear x))
    | split
    | with_reducible refine Same.up_prs ?_ (Same.sub hm rfl)

theorem prsWrites_same {M : Nat} {s0 : State} {a0 a1 a2} (h2 : Same M s0 a2) (hm : 2108 ||| M = M) :
    RowsSame M s0 (prsWrites a0 a1 a2) := by
  unfold prsWrites
  repeat' first
    | with_reducible assumption
    | (extract_lets +onlyGivenNames x; first | (refine Same.cut M s0 x ?_ ?_; (focus (dsimp -zeta only [x]; clear x)); rotate_left 1; clear_value x; revert x; intro _ _) | (have hh := fun a => x a; clear hh; dsimp -zeta only [x]; clear x) | (clear_value x; revert x; intro _) | (dsimp -zeta only [x]; clear x))
    | with_reducible refine RowsSame.nil
    | with_reducible refine RowsSame.r1 ?_ ?_
    | with_reducible refine RowsSame.rn (fun _ => ?_) ?_
    | with_reducible refine tstCtrlWrite_same ?_ (Same.sub hm rfl)
    | with_reducible refine execAccumulatorSnapshot_same ?_ (Same.sub hm rfl)
    | with_reducible refine execMdReset_same ?_ (Same.sub hm rfl)
    | with_reducible refine trfCmdWrite_same ?_ (Same.sub hm rfl)
    | with_reducible refine trfWrite_same ?_ (Same.sub hm rfl)
    | with_reducible refine after_same ?_ ?_ (Same.sub hm rfl)
    | split
    | with_reducible refine Same.up_prs ?_ (Same.sub hm rfl)

theorem modeCmdWrite_same {M : Nat} {s0 : State} {a0 a1 a2} (h2 : Same M s0 a2) (hm : 1080 ||| M = M) :
    Same M s0 (modeCmdWrite a0 a1 a2) := by
  unfold modeCmdWrite
  repeat' first
    | with_reducible assumption
    | (extract_lets +onlyGivenNames x; first | (refine Same.cut M s0 x ?_ ?_; (focus (dsimp -zeta only [x]; clear x)); rotate_left 1; clear_value x; revert x; intro _ _) | (have hh := fun a => x a; clear hh; dsimp -zeta only [x]; clear x) | (clear_value x; revert x; intro _) | (dsimp -zeta only [x]; clear x))
    | with_reducible refine execLoopModeManual_same ?_ (Same.sub hm rfl)
    | with_reducible refine execLoopModeAuto_same ?_ (Same.sub hm rfl)
    | with_reducible refine execLoopModeOff_same ?_ (Same.sub hm rfl)
    | with_reducible refine execLoopModeTrack_same ?_ (Same.sub hm rfl)
    | with_reducible refine after_same ?_ ?_ (Same.sub hm rfl)
    | split

theorem shdCtrlWrite_same {M : Nat} {s0 : State} {a0 a1 a2 a3} (h3 : Same M s0 a3) (hm : 1080 ||| M = M) :
    Same M s0 (shdCtrlWrite a0 a1 a2 a3) := by
  unfold shdCtrlWrite
  repeat' first
    | with_reducible assumption
    | (extract_lets +onlyGivenNames x; first | (refine Same.cut M s0 x ?_ ?_; (focus (dsimp -zeta only [x]; clear x)); rotate_left 1; clear_value x; revert x; intro _ _) | (have hh := fun a => x a; clear hh; dsimp -zeta only [x]; clear x) | (clear_value x; revert x; intro _) | (dsimp -zeta only [x]; clear x))
    | with_reducible refine execShadowStop_same ?_ (Same.sub hm rfl)
    | with_reducible refine execShadowStart_same ?_ (Same.sub hm rfl)
    | with_reducible refine setCtl_same ?_ (Same.sub hm rfl)
    | with_reducible refine after_same ?_ ?_ (Same.sub hm rfl)
    | split

theorem lpeCtrlWrite_same {M : Nat} {s0 : State} {a0 a1 a2} (h2 : Same M s0 a2) (hm : 1080 ||| M = M) :
    Same M s0 (lpeCtrlWrite a0 a1 a2) := by
  unfold lpeCtrlWrite
  repeat' first
    | with_reducible assumption
    | (extract_lets +onlyGivenNames x; first | (refine Same.cut M s0 x ?_ ?_; (focus (dsimp -zeta only [x]; clear x)); rotate_left 1; clear_value x; revert x; intro _ _) | (have hh := fun a => x a; clear hh; dsimp -zeta only [x]; clear x) | (clear_value x; revert x; intro _) | (dsimp -zeta only [x]; clear x))
    | with_reducible refine execLpeResume_same ?_ (Same.sub hm rfl)
    | with_reducible refine after_same ?_ ?_ (Same.sub hm rfl)
    | split
    | with_reducible refine Same.up_lpe ?_ (Same.sub hm rfl)

theorem rtCmdWrite_same {M : Nat} {s0 : State} {a0 a1 a2} (h2 : Same M s0 a2) (hm : 1080 ||| M = M) :
    Same M s0 (rtCmdWrite a0 a1 a2) := by
  unfold rtCmdWrite
  repeat' first
    | with_reducible assumption
    | with_reducible refine execApplyRetune_same ?_ (Same.sub hm rfl)
    | with_reducible refine execRevertRetune_same ?_ (Same.sub hm rfl)
    | with_reducible refine execTryRetune_same ?_ (Same.sub hm rfl)
    | with_reducible refine after_same ?_ ?_ (Same.sub hm rfl)
    | split

theorem lpeWrites_same {M : Nat} {s0 : State} {a0 a1 a2} (h2 : Same M s0 a2) (hm : 1080 ||| M = M) :
    RowsSame M s0 (lpeWrites a0 a1 a2) := by
  unfold lpeWrites
  repeat' first
    | with_reducible assumption
    | (extract_lets +onlyGivenNames x; first | (refine Same.cut M s0 x ?_ ?_; (focus (dsimp -zeta only [x]; clear x)); rotate_left 1; clear_value x; revert x; intro _ _) | (have hh := fun a => x a; clear hh; dsimp -zeta only [x]; clear x) | (clear_value x; revert x; intro _) | (dsimp -zeta only [x]; clear x))
    | with_reducible refine RowsSame.nil
    | with_reducible refine RowsSame.r1 ?_ ?_
    | with_reducible refine RowsSame.rn (fun _ => ?_) ?_
    | with_reducible refine modeCmdWrite_same ?_ (Same.sub hm rfl)
    | with_reducible refine shdCtrlWrite_same ?_ (Same.sub hm rfl)
    | with_reducible refine lpeCtrlWrite_same ?_ (Same.sub hm rfl)
    | with_reducible refine rtCmdWrite_same ?_ (Same.sub hm rfl)
    | split
    | with_reducible refine Same.up_lpe ?_ (Same.sub hm rfl)

theorem timWrites_same {M : Nat} {s0 : State} {a0 a1 a2} (h2 : Same M s0 a2) (hm : 262200 ||| M = M) :
    RowsSame M s0 (timWrites a0 a1 a2) := by
  unfold timWrites
  repeat' first
    | with_reducible assumption
    | (extract_lets +onlyGivenNames x; first | (refine Same.cut M s0 x ?_ ?_; (focus (dsimp -zeta only [x]; clear x)); rotate_left 1; clear_value x; revert x; intro _ _) | (have hh := fun a => x a; clear hh; dsimp -zeta only [x]; clear x) | (clear_value x; revert x; intro _) | (dsimp -zeta only [x]; clear x))
    | with_reducible refine RowsSame.nil
    | with_reducible refine RowsSame.r1 ?_ ?_
    | with_reducible refine RowsSame.rn (fun _ => ?_) ?_
    | with_reducible refine execXsnap_same ?_ (Same.sub hm rfl)
    | with_reducible refine updDom_same ?_ (Same.sub hm rfl)
    | with_reducible refine domCmdWrite_same ?_ (Same.sub hm rfl)
    | with_reducible refine after_same ?_ ?_ (Same.sub hm rfl)
    | split
    | with_reducible refine Same.up_tim ?_ (Same.sub hm rfl)

theorem testCtrlWrite_same {M : Nat} {s0 : State} {a0 a1 a2} (h2 : Same M s0 a2) (hm : 312 ||| M = M) :
    Same M s0 (testCtrlWrite a0 a1 a2) := by
  unfold testCtrlWrite
  repeat' first
    | with_reducible assumption
    | (extract_lets +onlyGivenNames x; first | (refine Same.cut M s0 x ?_ ?_; (focus (dsimp -zeta only [x]; clear x)); rotate_left 1; clear_value x; revert x; intro _ _) | (have hh := fun a => x a; clear hh; dsimp -zeta only [x]; clear x) | (clear_value x; revert x; intro _) | (dsimp -zeta only [x]; clear x))
    | with_reducible refine setCtl_same ?_ (Same.sub hm rfl)
    | with_reducible refine execCellTestStop_same ?_ (Same.sub hm rfl)
    | with_reducible refine after_same ?_ ?_ (Same.sub hm rfl)
    | with_reducible refine execCellTestStart_same ?_ (Same.sub hm rfl)
    | split

theorem trlWrites_same {M : Nat} {s0 : State} {a0 a1 a2} (h2 : Same M s0 a2) (hm : 1147192 ||| M = M) :
    RowsSame M s0 (trlWrites a0 a1 a2) := by
  unfold trlWrites
  repeat' first
    | with_reducible assumption
    | (extract_lets +onlyGivenNames x; first | (refine Same.cut M s0 x ?_ ?_; (focus (dsimp -zeta only [x]; clear x)); rotate_left 1; clear_value x; revert x; intro _ _) | (have hh := fun a => x a; clear hh; dsimp -zeta only [x]; clear x) | (clear_value x; revert x; intro _) | (dsimp -zeta only [x]; clear x))
    | with_reducible refine RowsSame.nil
    | with_reducible refine RowsSame.r1 ?_ ?_
    | with_reducible refine RowsSame.rn (fun _ => ?_) ?_
    | with_reducible refine updPtBank_same ?_ (Same.sub hm rfl)
    | with_reducible refine testCtrlWrite_same ?_ (Same.sub hm rfl)
    | with_reducible refine execPointSnapshot_same ?_ (Same.sub hm rfl)
    | with_reducible refine after_same ?_ ?_ (Same.sub hm rfl)
    | with_reducible refine execPartitionPointWrite_same ?_ (Same.sub hm rfl)
    | split

theorem updCmdWrite_same {M : Nat} {s0 : State} {a0 a1 a2} (h2 : Same M s0 a2) (hm : 1575096 ||| M = M) :
    Same M s0 (updCmdWrite a0 a1 a2) := by
  unfold updCmdWrite
  repeat' first
    | with_reducible assumption
    | with_reducible refine execRackCancel_same ?_ (Same.sub hm rfl)
    | with_reducible refine execRackActivate_same ?_ (Same.sub hm rfl)
    | with_reducible refine execRackConfirm_same ?_ (Same.sub hm rfl)
    | with_reducible refine execRackFrag_same ?_ (Same.sub hm rfl)
    | with_reducible refine after_same ?_ ?_ (Same.sub hm rfl)
    | with_reducible refine execRackBegin_same ?_ (Same.sub hm rfl)
    | with_reducible refine execRackRevert_same ?_ (Same.sub hm rfl)
    | split

theorem siCtrlWrite_same {M : Nat} {s0 : State} {a0 a1 a2} (h2 : Same M s0 a2) (hm : 1704120 ||| M = M) :
    Same M s0 (siCtrlWrite a0 a1 a2) := by
  unfold siCtrlWrite
  repeat' first
    | with_reducible assumption
    | with_reducible refine execDiscard_same ?_ (Same.sub hm rfl)
    | with_reducible refine after_same ?_ ?_ (Same.sub hm rfl)
    | with_reducible refine execStage_same ?_ (Same.sub hm rfl)
    | with_reducible refine execCommit_same ?_ (Same.sub hm rfl)
    | split

theorem updWrites_same {M : Nat} {s0 : State} {a0 a1 a2} (h2 : Same M s0 a2) (hm : 1706168 ||| M = M) :
    RowsSame M s0 (updWrites a0 a1 a2) := by
  unfold updWrites
  repeat' first
    | with_reducible assumption
    | (extract_lets +onlyGivenNames x; first | (refine Same.cut M s0 x ?_ ?_; (focus (dsimp -zeta only [x]; clear x)); rotate_left 1; clear_value x; revert x; intro _ _) | (have hh := fun a => x a; clear hh; dsimp -zeta only [x]; clear x) | (clear_value x; revert x; intro _) | (dsimp -zeta only [x]; clear x))
    | with_reducible refine RowsSame.nil
    | with_reducible refine RowsSame.r1 ?_ ?_
    | with_reducible refine RowsSame.rn (fun _ => ?_) ?_
    | with_reducible refine updCmdWrite_same ?_ (Same.sub hm rfl)
    | with_reducible refine siCtrlWrite_same ?_ (Same.sub hm rfl)
    | split
    | with_reducible refine Same.up_img ?_ (Same.sub hm rfl)
    | with_reducible refine Same.up_upd ?_ (Same.sub hm rfl)

theorem keyCmdWrite_same {M : Nat} {s0 : State} {a0 a1 a2} (h2 : Same M s0 a2) (hm : 16508 ||| M = M) :
    Same M s0 (keyCmdWrite a0 a1 a2) := by
  unfold keyCmdWrite
  repeat' first
    | with_reducible assumption
    | (extract_lets +onlyGivenNames x; first | (refine Same.cut M s0 x ?_ ?_; (focus (dsimp -zeta only [x]; clear x)); rotate_left 1; clear_value x; revert x; intro _ _) | (have hh := fun a => x a; clear hh; dsimp -zeta only [x]; clear x) | (clear_value x; revert x; intro _) | (dsimp -zeta only [x]; clear x))
    | with_reducible refine execServiceExit_same ?_ (Same.sub hm rfl)
    | with_reducible refine execClearA_same ?_ (Same.sub hm rfl)
    | with_reducible refine execExportKey_same ?_ (Same.sub hm rfl)
    | with_reducible refine execAcceptIdentity_same ?_ (Same.sub hm rfl)
    | with_reducible refine execRetire_same ?_ (Same.sub hm rfl)
    | with_reducible refine execRoll_same ?_ (Same.sub hm rfl)
    | with_reducible refine execInvalidateSess_same ?_ (Same.sub hm rfl)
    | with_reducible refine after_same ?_ ?_ (Same.sub hm rfl)
    | with_reducible refine execAttest_same ?_ (Same.sub hm rfl)
    | with_reducible refine execDeleteKey_same ?_ (Same.sub hm rfl)
    | with_reducible refine execImportKey_same ?_ (Same.sub hm rfl)
    | with_reducible refine execArmMonitors_same ?_ (Same.sub hm rfl)
    | with_reducible refine execInvalidateRdr_same ?_ (Same.sub hm rfl)
    | with_reducible refine execServiceEnter_same ?_ (Same.sub hm rfl)
    | with_reducible refine execRollStage_same ?_ (Same.sub hm rfl)
    | with_reducible refine execProvision_same ?_ (Same.sub hm rfl)
    | split

theorem keyOpWrite_same {M : Nat} {s0 : State} {a0 a1 a2} (h2 : Same M s0 a2) (hm : 16440 ||| M = M) :
    Same M s0 (keyOpWrite a0 a1 a2) := by
  unfold keyOpWrite
  repeat' first
    | with_reducible assumption
    | (extract_lets +onlyGivenNames x; first | (refine Same.cut M s0 x ?_ ?_; (focus (dsimp -zeta only [x]; clear x)); rotate_left 1; clear_value x; revert x; intro _ _) | (have hh := fun a => x a; clear hh; dsimp -zeta only [x]; clear x) | (clear_value x; revert x; intro _) | (dsimp -zeta only [x]; clear x))
    | with_reducible refine execSign_same ?_ (Same.sub hm rfl)
    | with_reducible refine execVerify_same ?_ (Same.sub hm rfl)
    | with_reducible refine execEncrypt_same ?_ (Same.sub hm rfl)
    | with_reducible refine execComputeMac_same ?_ (Same.sub hm rfl)
    | with_reducible refine after_same ?_ ?_ (Same.sub hm rfl)
    | with_reducible refine execDecrypt_same ?_ (Same.sub hm rfl)
    | split

theorem keyWrites_same {M : Nat} {s0 : State} {a0 a1 a2} (h2 : Same M s0 a2) (hm : 16508 ||| M = M) :
    RowsSame M s0 (keyWrites a0 a1 a2) := by
  unfold keyWrites
  repeat' first
    | with_reducible assumption
    | (extract_lets +onlyGivenNames x; first | (refine Same.cut M s0 x ?_ ?_; (focus (dsimp -zeta only [x]; clear x)); rotate_left 1; clear_value x; revert x; intro _ _) | (have hh := fun a => x a; clear hh; dsimp -zeta only [x]; clear x) | (clear_value x; revert x; intro _) | (dsimp -zeta only [x]; clear x))
    | with_reducible refine RowsSame.nil
    | with_reducible refine RowsSame.r1 ?_ ?_
    | with_reducible refine RowsSame.rn (fun _ => ?_) ?_
    | with_reducible refine updOp_same ?_ (Same.sub hm rfl)
    | with_reducible refine keyCmdWrite_same ?_ (Same.sub hm rfl)
    | with_reducible refine keyOpWrite_same ?_ (Same.sub hm rfl)
    | split
    | with_reducible refine Same.up_key ?_ (Same.sub hm rfl)

theorem sysWrites_same {M : Nat} {s0 : State} {a0 a1 a2} (h2 : Same M s0 a2) (hm : 2097080 ||| M = M) :
    RowsSame M s0 (sysWrites a0 a1 a2) := by
  unfold sysWrites
  repeat' first
    | with_reducible assumption
    | (extract_lets +onlyGivenNames x; first | (refine Same.cut M s0 x ?_ ?_; (focus (dsimp -zeta only [x]; clear x)); rotate_left 1; clear_value x; revert x; intro _ _) | (have hh := fun a => x a; clear hh; dsimp -zeta only [x]; clear x) | (clear_value x; revert x; intro _) | (dsimp -zeta only [x]; clear x))
    | with_reducible refine RowsSame.nil
    | with_reducible refine RowsSame.r1 ?_ ?_
    | with_reducible refine RowsSame.rn (fun _ => ?_) ?_
    | with_reducible refine abortWrite_same ?_ (Same.sub hm rfl)
    | with_reducible refine after_same ?_ ?_ (Same.sub hm rfl)
    | with_reducible refine compatWrite_same ?_ (Same.sub hm rfl)
    | with_reducible refine execSysReset_same ?_ (Same.sub hm rfl)
    | with_reducible refine Same.up_pwr ?_ (Same.sub hm rfl)
    | with_reducible refine Same.up_sys ?_ (Same.sub hm rfl)

theorem regWriteOp_same {M : Nat} {s0 : State} {a0 a1 a2 a3 a4} (h4 : Same M s0 a4) (hm : 2097148 ||| M = M) :
    Same M s0 (regWriteOp a0 a1 a2 a3 a4) := by
  unfold regWriteOp
  repeat' first
    | with_reducible assumption
    | with_reducible refine RowsSame.at (fbsWrites_same ?_ (Same.sub hm rfl)) ?_
    | with_reducible refine RowsSame.at (pgeWrites_same ?_ (Same.sub hm rfl)) ?_
    | with_reducible refine RowsSame.at (netWrites_same ?_ (Same.sub hm rfl)) ?_
    | with_reducible refine RowsSame.at (pwrWrites_same ?_ (Same.sub hm rfl)) ?_
    | with_reducible refine RowsSame.at (prsWrites_same ?_ (Same.sub hm rfl)) ?_
    | with_reducible refine RowsSame.at (lpeWrites_same ?_ (Same.sub hm rfl)) ?_
    | with_reducible refine RowsSame.at (timWrites_same ?_ (Same.sub hm rfl)) ?_
    | with_reducible refine RowsSame.at (bsiWrites_same ?_ (Same.sub hm rfl)) ?_
    | with_reducible refine RowsSame.at (celWrites_same ?_ (Same.sub hm rfl)) ?_
    | with_reducible refine RowsSame.at (trlWrites_same ?_ (Same.sub hm rfl)) ?_
    | with_reducible refine RowsSame.at (updWrites_same ?_ (Same.sub hm rfl)) ?_
    | with_reducible refine RowsSame.at (keyWrites_same ?_ (Same.sub hm rfl)) ?_
    | with_reducible refine RowsSame.at (sysWrites_same ?_ (Same.sub hm rfl)) ?_
    | split

end Sys2Proof.Machine
end

