-- ==== Sys2Proof/Laws/FrameRegRead.lean ====
section
/-!
SUPPORT. FrameRegRead.lean: for each operation of Machine/RegRead.lean, the components of State it can change: the result agrees with the
state it starts from on every component whose bit in the mask is 0 (the bits as in `Same`).
-/
namespace Sys2Proof.Machine
set_option linter.all false

theorem celRead_same {M : Nat} {s0 : State} {a0 a1} (h1 : Same M s0 a1) (hm : 8192 ||| M = M) :
    RowsSame M s0 (celRead a0 a1) := by
  unfold celRead
  repeat' first
    | with_reducible assumption
    | (extract_lets +onlyGivenNames x; first | (refine Same.cut M s0 x ?_ ?_; (focus (dsimp -zeta only [x]; clear x)); rotate_left 1; clear_value x; revert x; intro _ _) | (have hh := fun a => x a; clear hh; dsimp -zeta only [x]; clear x) | (clear_value x; revert x; intro _) | (dsimp -zeta only [x]; clear x))
    | with_reducible refine RowsSame.nil
    | with_reducible refine RowsSame.r1 ?_ ?_
    | with_reducible refine RowsSame.rn (fun _ => ?_) ?_
    | with_reducible refine updQBank_same ?_ (Same.sub hm rfl)
    | with_reducible refine Same.up_cel ?_ (Same.sub hm rfl)

theorem timRead_same {M : Nat} {s0 : State} {a0 a1} (h1 : Same M s0 a1) (hm : 262144 ||| M = M) :
    RowsSame M s0 (timRead a0 a1) := by
  unfold timRead
  repeat' first
    | with_reducible assumption
    | (extract_lets +onlyGivenNames x; first | (refine Same.cut M s0 x ?_ ?_; (focus (dsimp -zeta only [x]; clear x)); rotate_left 1; clear_value x; revert x; intro _ _) | (have hh := fun a => x a; clear hh; dsimp -zeta only [x]; clear x) | (clear_value x; revert x; intro _) | (dsimp -zeta only [x]; clear x))
    | with_reducible refine RowsSame.nil
    | with_reducible refine RowsSame.r1 ?_ ?_
    | with_reducible refine RowsSame.rn (fun _ => ?_) ?_
    | with_reducible refine nowLatch_same ?_ (Same.sub hm rfl)
    | split
    | with_reducible refine Same.up_tim ?_ (Same.sub hm rfl)

theorem trlRead_same {M : Nat} {s0 : State} {a0 a1} (h1 : Same M s0 a1) (hm : 33024 ||| M = M) :
    RowsSame M s0 (trlRead a0 a1) := by
  unfold trlRead
  repeat' first
    | with_reducible assumption
    | (extract_lets +onlyGivenNames x; first | (refine Same.cut M s0 x ?_ ?_; (focus (dsimp -zeta only [x]; clear x)); rotate_left 1; clear_value x; revert x; intro _ _) | (have hh := fun a => x a; clear hh; dsimp -zeta only [x]; clear x) | (clear_value x; revert x; intro _) | (dsimp -zeta only [x]; clear x))
    | with_reducible refine RowsSame.nil
    | with_reducible refine RowsSame.r1 ?_ ?_
    | with_reducible refine RowsSame.rn (fun _ => ?_) ?_
    | split
    | with_reducible refine Same.up_stn ?_ (Same.sub hm rfl)
    | with_reducible refine Same.up_trl ?_ (Same.sub hm rfl)

theorem fbsRead_same {M : Nat} {s0 : State} {a0} (h0 : Same M s0 a0) (hm : 65536 ||| M = M) :
    RowsSame M s0 (fbsRead a0) := by
  unfold fbsRead
  repeat' first
    | with_reducible assumption
    | with_reducible refine RowsSame.nil
    | with_reducible refine RowsSame.r1 ?_ ?_
    | with_reducible refine RowsSame.rn (fun _ => ?_) ?_
    | with_reducible refine updCan_same ?_ (Same.sub hm rfl)

theorem pgeRead_same {M : Nat} {s0 : State} {a0 a1} (h1 : Same M s0 a1) (hm : 512 ||| M = M) :
    RowsSame M s0 (pgeRead a0 a1) := by
  unfold pgeRead
  repeat' first
    | with_reducible assumption
    | (extract_lets +onlyGivenNames x; first | (refine Same.cut M s0 x ?_ ?_; (focus (dsimp -zeta only [x]; clear x)); rotate_left 1; clear_value x; revert x; intro _ _) | (have hh := fun a => x a; clear hh; dsimp -zeta only [x]; clear x) | (clear_value x; revert x; intro _) | (dsimp -zeta only [x]; clear x))
    | with_reducible refine RowsSame.nil
    | with_reducible refine RowsSame.r1 ?_ ?_
    | with_reducible refine RowsSame.rn (fun _ => ?_) ?_
    | with_reducible refine updTask_same ?_ (Same.sub hm rfl)
    | with_reducible refine updPCask_same ?_ (Same.sub hm rfl)
    | split

theorem sysRead_same {M : Nat} {s0 : State} {a0 a1} (h1 : Same M s0 a1) (hm : 1048608 ||| M = M) :
    RowsSame M s0 (sysRead a0 a1) := by
  unfold sysRead
  repeat' first
    | with_reducible assumption
    | (extract_lets +onlyGivenNames x; first | (refine Same.cut M s0 x ?_ ?_; (focus (dsimp -zeta only [x]; clear x)); rotate_left 1; clear_value x; revert x; intro _ _) | (have hh := fun a => x a; clear hh; dsimp -zeta only [x]; clear x) | (clear_value x; revert x; intro _) | (dsimp -zeta only [x]; clear x))
    | with_reducible refine RowsSame.nil
    | with_reducible refine RowsSame.r1 ?_ ?_
    | with_reducible refine RowsSame.rn (fun _ => ?_) ?_
    | split
    | with_reducible refine Same.up_pwr ?_ (Same.sub hm rfl)
    | with_reducible refine Same.up_sys ?_ (Same.sub hm rfl)

theorem lpeRead_same {M : Nat} {s0 : State} {a0 a1} (h1 : Same M s0 a1) (hm : 1024 ||| M = M) :
    RowsSame M s0 (lpeRead a0 a1) := by
  unfold lpeRead
  repeat' first
    | with_reducible assumption
    | (extract_lets +onlyGivenNames x; first | (refine Same.cut M s0 x ?_ ?_; (focus (dsimp -zeta only [x]; clear x)); rotate_left 1; clear_value x; revert x; intro _ _) | (have hh := fun a => x a; clear hh; dsimp -zeta only [x]; clear x) | (clear_value x; revert x; intro _) | (dsimp -zeta only [x]; clear x))
    | with_reducible refine RowsSame.nil
    | with_reducible refine RowsSame.r1 ?_ ?_
    | with_reducible refine RowsSame.rn (fun _ => ?_) ?_
    | split
    | with_reducible refine Same.up_lpe ?_ (Same.sub hm rfl)

theorem netRead_same {M : Nat} {s0 : State} {a0} (h0 : Same M s0 a0) (hm : 131072 ||| M = M) :
    RowsSame M s0 (netRead a0) := by
  unfold netRead
  repeat' first
    | with_reducible assumption
    | (extract_lets +onlyGivenNames x; first | (refine Same.cut M s0 x ?_ ?_; (focus (dsimp -zeta only [x]; clear x)); rotate_left 1; clear_value x; revert x; intro _ _) | (have hh := fun a => x a; clear hh; dsimp -zeta only [x]; clear x) | (clear_value x; revert x; intro _) | (dsimp -zeta only [x]; clear x))
    | with_reducible refine RowsSame.nil
    | with_reducible refine RowsSame.r1 ?_ ?_
    | with_reducible refine RowsSame.rn (fun _ => ?_) ?_
    | split
    | with_reducible refine Same.up_net ?_ (Same.sub hm rfl)

theorem readEffect_same {M : Nat} {s0 : State} {a0 a1 a2 a3} (h0 : Same M s0 a0) (hm : 1566496 ||| M = M) :
    Same M s0 (readEffect a0 a1 a2 a3) := by
  unfold readEffect
  repeat' first
    | with_reducible assumption
    | (extract_lets +onlyGivenNames x; first | (refine Same.cut M s0 x ?_ ?_; (focus (dsimp -zeta only [x]; clear x)); rotate_left 1; clear_value x; revert x; intro _ _) | (have hh := fun a => x a; clear hh; dsimp -zeta only [x]; clear x) | (clear_value x; revert x; intro _) | (dsimp -zeta only [x]; clear x))
    | with_reducible refine RowsSame.at (timRead_same ?_ (Same.sub hm rfl)) ?_
    | with_reducible refine RowsSame.at (trlRead_same ?_ (Same.sub hm rfl)) ?_
    | with_reducible refine RowsSame.at (fbsRead_same ?_ (Same.sub hm rfl)) ?_
    | with_reducible refine RowsSame.at (celRead_same ?_ (Same.sub hm rfl)) ?_
    | with_reducible refine RowsSame.at (pgeRead_same ?_ (Same.sub hm rfl)) ?_
    | with_reducible refine RowsSame.at (sysRead_same ?_ (Same.sub hm rfl)) ?_
    | with_reducible refine RowsSame.at (lpeRead_same ?_ (Same.sub hm rfl)) ?_
    | with_reducible refine RowsSame.at (netRead_same ?_ (Same.sub hm rfl)) ?_
    | split
    | with_reducible refine Same.up_key ?_ (Same.sub hm rfl)

theorem regReadOp_same {M : Nat} {s0 : State} {a0 a1 a2 a3} (h3 : Same M s0 a3) (hm : 1566512 ||| M = M) :
    Same M s0 (regReadOp a0 a1 a2 a3).2 := by
  unfold regReadOp foreignRead
  repeat' first
    | with_reducible assumption
    | (rename_i hx; cases hx)
    | with_reducible exact readEffect_same h3 (Same.sub hm rfl)
    | with_reducible exact loopDenied_same h3 (Same.sub hm rfl)
    | with_reducible exact denied_same h3 (Same.sub hm rfl)
    | split at *

end Sys2Proof.Machine
end

