-- ==== Sys2Proof/Laws/FrameRegisters.lean ====
section
/-!
SUPPORT. FrameRegisters.lean: for each operation of Machine/Registers.lean, the components of State it can change: the result agrees with the
state it starts from on every component whose bit in the mask is 0 (the bits as in `Same`).
-/
namespace Sys2Proof.Machine
set_option linter.all false

theorem busError_same {M : Nat} {s0 : State} {a0} (h0 : Same M s0 a0) (hm : 8 ||| M = M) :
    Same M s0 (busError a0) := by
  unfold busError
  repeat' first
    | with_reducible assumption
    | with_reducible refine Same.up_reply ?_ (Same.sub hm rfl)

theorem writeAt_same {M : Nat} {s0 : State} {a0 a1 a2 a3} (h3 : Same M s0 a3) (hm : 2097148 ||| M = M) :
    OutSame M s0 (writeAt a0 a1 a2 a3) := by
  unfold writeAt
  repeat' first
    | with_reducible assumption
    | with_reducible refine OutSame.next ?_
    | with_reducible refine regCmd_same (fun x0 k0 => ?_) ?_ (Same.sub hm rfl)
    | with_reducible refine busError_same ?_ (Same.sub hm rfl)
    | with_reducible refine regWriteOp_same ?_ (Same.sub hm rfl)
    | split

theorem execNarrowOrUnalignedAccess_same {M : Nat} {s0 : State} {a0 a1 a2 a3 a4} (h4 : Same M s0 a4) (hm : 8 ||| M = M) :
    OutSame M s0 (execNarrowOrUnalignedAccess a0 a1 a2 a3 a4) := by
  unfold execNarrowOrUnalignedAccess
  repeat' first
    | with_reducible assumption
    | with_reducible refine OutSame.next ?_
    | with_reducible refine busError_same ?_ (Same.sub hm rfl)
    | split

theorem readAt_same {M : Nat} {s0 : State} {a0 a1 a2} (h2 : Same M s0 a2) (hm : 1566520 ||| M = M) :
    OutSame M s0 (readAt a0 a1 a2) := by
  unfold readAt
  repeat' first
    | with_reducible assumption
    | with_reducible refine OutSame.next ?_
    | with_reducible refine regReadOp_same ?_ (Same.sub hm rfl)
    | with_reducible refine Same.snd ‹_› (regReadOp_same ?_ (Same.sub hm rfl))
    | with_reducible refine busError_same ?_ (Same.sub hm rfl)
    | with_reducible refine regRead_same (fun x0 k0 => ?_) ?_ (Same.sub hm rfl)
    | with_reducible refine Same.snd ‹_› ?_
    | with_reducible refine Same.fst ‹_› ?_
    | with_reducible refine Same.foldl1 (fun _ _ _ => ?_) ?_
    | with_reducible refine Same.foldl2 (fun _ _ _ => ?_) ?_
    | split

theorem execRcRegisterRead_same {M : Nat} {s0 : State} {a0 a1 a2} (h2 : Same M s0 a2) (hm : 1566520 ||| M = M) :
    OutSame M s0 (execRcRegisterRead a0 a1 a2) := by
  unfold execRcRegisterRead
  repeat' first
    | with_reducible assumption
    | with_reducible refine OutSame.next ?_
    | with_reducible refine readAt_same ?_ (Same.sub hm rfl)

theorem execRegisterWrite_same {M : Nat} {s0 : State} {a0 a1 a2 a3} (h3 : Same M s0 a3) (hm : 2097148 ||| M = M) :
    OutSame M s0 (execRegisterWrite a0 a1 a2 a3) := by
  unfold execRegisterWrite
  repeat' first
    | with_reducible assumption
    | with_reducible refine OutSame.next ?_
    | with_reducible refine writeAt_same ?_ (Same.sub hm rfl)

theorem execSysCompatWrite_same {M : Nat} {s0 : State} {a0 a1 a2} (h2 : Same M s0 a2) (hm : 56 ||| M = M) :
    OutSame M s0 (execSysCompatWrite a0 a1 a2) := by
  unfold execSysCompatWrite
  repeat' first
    | with_reducible assumption
    | with_reducible refine OutSame.next ?_
    | with_reducible refine regCmd_same (fun x0 k0 => ?_) ?_ (Same.sub hm rfl)
    | with_reducible refine compatWrite_same ?_ (Same.sub hm rfl)

theorem execUnmappedPeripheralAccess_same {M : Nat} {s0 : State} {a0 a1 a2 a3} (h3 : Same M s0 a3) (hm : 8 ||| M = M) :
    OutSame M s0 (execUnmappedPeripheralAccess a0 a1 a2 a3) := by
  unfold execUnmappedPeripheralAccess
  repeat' first
    | with_reducible assumption
    | with_reducible refine OutSame.next ?_
    | with_reducible refine busError_same ?_ (Same.sub hm rfl)
    | split

end Sys2Proof.Machine
end

