-- ==== Sys2Proof/Laws/FrameFmp.lean ====
section
/-!
SUPPORT. FrameFmp.lean: for each operation of Machine/Fmp.lean, the components of State it can change: the result agrees with the
state it starts from on every component whose bit in the mask is 0 (the bits as in `Same`).
-/
namespace Sys2Proof.Machine
set_option linter.all false

theorem answerAgain_same {M : Nat} {s0 : State} {a0 a1 a2 a3} (h3 : Same M s0 a3) (hm : 147512 ||| M = M) :
    Same M s0 (answerAgain a0 a1 a2 a3) := by
  unfold answerAgain
  repeat' first
    | with_reducible assumption
    | (extract_lets +onlyGivenNames x; first | (refine Same.cut M s0 x ?_ ?_; (focus (dsimp -zeta only [x]; clear x)); rotate_left 1; clear_value x; revert x; intro _ _) | (have hh := fun a => x a; clear hh; dsimp -zeta only [x]; clear x) | (clear_value x; revert x; intro _) | (dsimp -zeta only [x]; clear x))
    | with_reducible refine sendAnswer_same ?_ (Same.sub hm rfl)
    | split
    | with_reducible refine Same.up_reply ?_ (Same.sub hm rfl)

theorem fmpRequest_same {M : Nat} {s0 : State} {a0 a1 a2 a3 a4} (h3 : ∀ x0, Same M s0 x0 → Same M s0 (a3 x0)) (h4 : Same M s0 a4) (hm : 147512 ||| M = M) :
    OutSame M s0 (fmpRequest a0 a1 a2 a3 a4) := by
  have key : ∀ c t, fmpTake a0 a1 a4 = some (c, t) → Same M s0 t := by
    intro c t
    unfold fmpTake
    dsimp only
    repeat' split
    all_goals first
      | (intro h; contradiction)
      | (rw [Option.some.injEq, Prod.mk.injEq]; rintro ⟨-, rfl⟩; exact Same.up_key h4 (Same.sub hm rfl))
      | (rw [Option.some.injEq, Prod.mk.injEq]; rintro ⟨-, rfl⟩; exact Same.up_net h4 (Same.sub hm rfl))
  unfold fmpRequest
  repeat' first
    | with_reducible assumption
    | with_reducible refine OutSame.next ?_
    | with_reducible refine h3 _ ?_
    | with_reducible refine answerAgain_same ?_ (Same.sub hm rfl)
    | with_reducible refine fmpAnswer_same ?_ (Same.sub hm rfl)
    | with_reducible exact key _ _ ‹_›
    | split
    | with_reducible refine Same.up_key ?_ (Same.sub hm rfl)
    | with_reducible refine Same.up_net ?_ (Same.sub hm rfl)

theorem execFmpAdmit_same {M : Nat} {s0 : State} {a0 a1 a2} (h2 : Same M s0 a2) (hm : 147512 ||| M = M) :
    OutSame M s0 (execFmpAdmit a0 a1 a2) := by
  unfold execFmpAdmit
  repeat' first
    | with_reducible assumption
    | with_reducible refine OutSame.next ?_
    | with_reducible refine admQueue_same ?_ (Same.sub hm rfl)
    | with_reducible refine keepAnswer_same ?_ (Same.sub hm rfl)
    | with_reducible refine fmpRequest_same (fun x0 k0 => ?_) ?_ (Same.sub hm rfl)
    | with_reducible refine Same.up_reply ?_ (Same.sub hm rfl)

theorem fmpRefuse_same {M : Nat} {s0 : State} {a0 a1 a2 a3} (h3 : Same M s0 a3) (hm : 147512 ||| M = M) :
    Same M s0 (fmpRefuse a0 a1 a2 a3) := by
  unfold fmpRefuse
  repeat' first
    | with_reducible assumption
    | with_reducible refine fmpAnswer_same ?_ (Same.sub hm rfl)
    | with_reducible refine denied_same ?_ (Same.sub hm rfl)

theorem fmpReadOp_same {M : Nat} {s0 : State} {a0 a1} (h1 : Same M s0 a1) (hm : 1566520 ||| M = M) :
    Same M s0 (fmpReadOp a0 a1) := by
  have key : ∀ (r : List Word × State) x, Same M s0 r.2 → Same M s0 (fmpReadWord a0 r x).2 := by
    intro r x h
    unfold fmpReadWord
    split
    · next t e => exact OutSame.of e (readAt_same h (Same.sub hm rfl))
    · exact h
  unfold fmpReadOp
  repeat' first
    | with_reducible assumption
    | (extract_lets +onlyGivenNames x; first | (refine Same.cut M s0 x ?_ ?_; (focus (dsimp -zeta only [x]; clear x)); rotate_left 1; clear_value x; revert x; intro _ _) | (refine Same.cut M s0 x.1 ?_ ?_; (focus (dsimp -zeta only [x]; clear x)); rotate_left 1; clear_value x; revert x; intro _ _) | (refine Same.cut M s0 x.2 ?_ ?_; (focus (dsimp -zeta only [x]; clear x)); rotate_left 1; clear_value x; revert x; intro _ _) | (have hh := fun a => x a; clear hh; dsimp -zeta only [x]; clear x) | (clear_value x; revert x; intro _) | (dsimp -zeta only [x]; clear x))
    | with_reducible refine fmpAnswer_same ?_ (Same.sub hm rfl)
    | with_reducible refine fmpRefuse_same ?_ (Same.sub hm rfl)
    | with_reducible refine Same.snd ‹_› ?_
    | with_reducible refine Same.fst ‹_› ?_
    | with_reducible refine Same.foldl1 (fun _ _ _ => ?_) ?_
    | with_reducible refine Same.foldl2 (fun _ _ _ => ?_) ?_
    | with_reducible refine Same.foldl (fun _ _ _ => ?_) ?_
    | with_reducible refine Same.foldl2 (fun _ _ _ => ?_) ?_
    | with_reducible refine Same.snd ‹_› ?_
    | with_reducible refine Same.foldl2 key ?_
    | with_reducible refine key _ _ ?_
    | split

theorem execFmpRead_same {M : Nat} {s0 : State} {a0 a1} (h1 : Same M s0 a1) (hm : 1566520 ||| M = M) :
    OutSame M s0 (execFmpRead a0 a1) := by
  unfold execFmpRead
  repeat' first
    | with_reducible assumption
    | with_reducible refine OutSame.next ?_
    | with_reducible refine fmpRequest_same (fun x0 k0 => ?_) ?_ (Same.sub hm rfl)
    | with_reducible refine fmpReadOp_same ?_ (Same.sub hm rfl)

theorem execFmpRelease_same {M : Nat} {s0 : State} {a0 a1 a2} (h2 : Same M s0 a2) (hm : 147512 ||| M = M) :
    OutSame M s0 (execFmpRelease a0 a1 a2) := by
  unfold execFmpRelease
  repeat' first
    | with_reducible assumption
    | (extract_lets +onlyGivenNames x; first | (refine Same.cut M s0 x ?_ ?_; (focus (dsimp -zeta only [x]; clear x)); rotate_left 1; clear_value x; revert x; intro _ _) | (refine Same.cut M s0 x.2 ?_ ?_; (focus (dsimp -zeta only [x]; clear x)); rotate_left 1; clear_value x; revert x; intro _ _) | (have hh := fun a => x a; clear hh; dsimp -zeta only [x]; clear x) | (clear_value x; revert x; intro _) | (dsimp -zeta only [x]; clear x))
    | with_reducible refine OutSame.next ?_
    | with_reducible refine fmpAnswer_same ?_ (Same.sub hm rfl)
    | with_reducible refine fmpRequest_same (fun x0 k0 => ?_) ?_ (Same.sub hm rfl)
    | with_reducible refine releaseOp_same ?_ (Same.sub hm rfl)
    | with_reducible refine Same.snd ‹_› (releaseOp_same ?_ (Same.sub hm rfl))
    | with_reducible refine Same.snd ‹_› ?_
    | with_reducible refine Same.fst ‹_› ?_
    | with_reducible refine Same.foldl1 (fun _ _ _ => ?_) ?_
    | with_reducible refine Same.foldl2 (fun _ _ _ => ?_) ?_

theorem fmpWriteWord_same {M : Nat} {s0 : State} {a0 a1 a2} (h1 : Same M s0 a1) (hm : 2097148 ||| M = M) :
    Same M s0 (fmpWriteWord a0 a1 a2) := by
  unfold fmpWriteWord
  repeat' first
    | with_reducible assumption
    | with_reducible refine writeAt_same ?_ (Same.sub hm rfl)
    | with_reducible refine after_same ?_ ?_ (Same.sub hm rfl)

theorem fmpWriteOp_same {M : Nat} {s0 : State} {a0 a1 a2} (h2 : Same M s0 a2) (hm : 2097148 ||| M = M) :
    Same M s0 (fmpWriteOp a0 a1 a2) := by
  unfold fmpWriteOp
  repeat' first
    | with_reducible assumption
    | with_reducible refine fmpAnswer_same ?_ (Same.sub hm rfl)
    | with_reducible refine fmpWriteWord_same ?_ (Same.sub hm rfl)
    | with_reducible refine fmpRefuse_same ?_ (Same.sub hm rfl)
    | with_reducible refine Same.foldl (fun _ _ _ => ?_) ?_
    | split

theorem execFmpWrite_same {M : Nat} {s0 : State} {a0 a1 a2} (h2 : Same M s0 a2) (hm : 2097148 ||| M = M) :
    OutSame M s0 (execFmpWrite a0 a1 a2) := by
  unfold execFmpWrite
  repeat' first
    | with_reducible assumption
    | with_reducible refine OutSame.next ?_
    | with_reducible refine fmpRequest_same (fun x0 k0 => ?_) ?_ (Same.sub hm rfl)
    | with_reducible refine fmpWriteOp_same ?_ (Same.sub hm rfl)

theorem safetyMsgOp_same {M : Nat} {s0 : State} {a0 a1 a2} (h2 : Same M s0 a2) (hm : 151612 ||| M = M) :
    Same M s0 (safetyMsgOp a0 a1 a2) := by
  unfold safetyMsgOp
  repeat' first
    | with_reducible assumption
    | (extract_lets +onlyGivenNames x; first | (refine Same.cut M s0 x ?_ ?_; (focus (dsimp -zeta only [x]; clear x)); rotate_left 1; clear_value x; revert x; intro _ _) | (have hh := fun a => x a; clear hh; dsimp -zeta only [x]; clear x) | (clear_value x; revert x; intro _) | (dsimp -zeta only [x]; clear x))
    | with_reducible refine fmpAnswer_same ?_ (Same.sub hm rfl)
    | with_reducible refine denied_same ?_ (Same.sub hm rfl)
    | with_reducible refine safMessage_same ?_ (Same.sub hm rfl)
    | split
    | with_reducible refine Same.up_reply ?_ (Same.sub hm rfl)

theorem execSafetyMsg_same {M : Nat} {s0 : State} {a0 a1 a2} (h2 : Same M s0 a2) (hm : 151612 ||| M = M) :
    OutSame M s0 (execSafetyMsg a0 a1 a2) := by
  unfold execSafetyMsg
  repeat' first
    | with_reducible assumption
    | with_reducible refine OutSame.next ?_
    | with_reducible refine fmpRequest_same (fun x0 k0 => ?_) ?_ (Same.sub hm rfl)
    | with_reducible refine safetyMsgOp_same ?_ (Same.sub hm rfl)

end Sys2Proof.Machine
end

