-- ==== Sys2Proof/Laws/FrameTick.lean ====
section
/-!
SUPPORT. FrameTick.lean: for each operation of Machine/Tick.lean, the components of State it can change: the result agrees with the
state it starts from on every component whose bit in the mask is 0 (the bits as in `Same`).
-/
namespace Sys2Proof.Machine
set_option linter.all false

theorem runClocks_same {M : Nat} {s0 : State} {a0} (h0 : Same M s0 a0) (hm : 512 ||| M = M) :
    Same M s0 (runClocks a0) := by
  unfold runClocks
  repeat' first
    | with_reducible assumption
    | (extract_lets +onlyGivenNames x; first | (refine Same.cut M s0 x ?_ ?_; (focus (dsimp -zeta only [x]; clear x)); rotate_left 1; clear_value x; revert x; intro _ _) | (have hh := fun a => x a; clear hh; dsimp -zeta only [x]; clear x) | (clear_value x; revert x; intro _) | (dsimp -zeta only [x]; clear x))
    | split
    | with_reducible refine Same.up_pge ?_ (Same.sub hm rfl)

theorem runOwed_same {M : Nat} {s0 : State} {a0} (h0 : Same M s0 a0) (hm : 1147152 ||| M = M) :
    Same M s0 (runOwed a0) := by
  unfold runOwed
  repeat' first
    | with_reducible assumption
    | (extract_lets +onlyGivenNames x; first | (refine Same.cut M s0 x ?_ ?_; (focus (dsimp -zeta only [x]; clear x)); rotate_left 1; clear_value x; revert x; intro _ _) | (have hh := fun a => x a; clear hh; dsimp -zeta only [x]; clear x) | (clear_value x; revert x; intro _) | (dsimp -zeta only [x]; clear x))
    | with_reducible refine substituteDue_same ?_ (Same.sub hm rfl)
    | with_reducible refine buildChanged_same ?_ (Same.sub hm rfl)
    | split

theorem tick_same {M : Nat} {s0 : State} {a0} (h0 : Same M s0 a0) (hm : 1409810 ||| M = M) :
    Same M s0 (tick a0) := by
  unfold tick
  repeat' first
    | with_reducible assumption
    | with_reducible refine runOwed_same ?_ (Same.sub hm rfl)
    | with_reducible refine runDomains_same ?_ (Same.sub hm rfl)
    | with_reducible refine runClocks_same ?_ (Same.sub hm rfl)
    | with_reducible refine Same.up_now ?_ (Same.sub hm rfl)

end Sys2Proof.Machine
end

