-- ==== Sys2Proof/Laws/Frame.lean ====
section
/-!
SUPPORT. Frame.lean: what a command and a step can change at all: no command changes the queue or the time.
-/
namespace Sys2Proof.Machine

/-- A command changes neither `pending` nor `now` (bits 0 and 1). -/
theorem exec_same {M : Nat} {s0 s : State} (c : Instr) (h : Same M s0 s) (hm : 2097148 ||| M = M) : OutSame M s0 (exec c s) :=
  match c with
  | .registerWrite iss addr w => @execRegisterWrite_same M s0 iss addr w s h (Same.sub hm rfl)
  | .rcRegisterRead iss addr => @execRcRegisterRead_same M s0 iss addr s h (Same.sub hm rfl)
  | .narrowOrUnalignedAccess iss addr size isWrite => @execNarrowOrUnalignedAccess_same M s0 iss addr size isWrite s h (Same.sub hm rfl)
  | .unmappedPeripheralAccess iss addr isWrite => @execUnmappedPeripheralAccess_same M s0 iss addr isWrite s h (Same.sub hm rfl)
  | .sysCompatWrite iss w => @execSysCompatWrite_same M s0 iss w s h (Same.sub hm rfl)
  | .handshakeCrossing lane => @execHandshakeCrossing_same M s0 lane s h (Same.sub hm rfl)
  | .celPostedWriteEffect => @execCelPostedWriteEffect_same M s0 s h (Same.sub hm rfl)
  | .timeDistributionUpdate isl => @execTimeDistributionUpdate_same M s0 isl s h (Same.sub hm rfl)
  | .stage iss => @execStage_same M s0 iss s h (Same.sub hm rfl)
  | .commit iss timed => @execCommit_same M s0 iss timed s h (Same.sub hm rfl)
  | .discard iss => @execDiscard_same M s0 iss s h (Same.sub hm rfl)
  | .commitTrellisCycle => @execCommitTrellisCycle_same M s0 s h (Same.sub hm rfl)
  | .sectionActiveReport sec => @execSectionActiveReport_same M s0 sec s h (Same.sub hm rfl)
  | .sectionalLoadAbort iss => @execSectionalLoadAbort_same M s0 iss s h (Same.sub hm rfl)
  | .wholeLoad => @execWholeLoad_same M s0 s h (Same.sub hm rfl)
  | .trellisFrame readings refs => @execTrellisFrame_same M s0 readings refs s h (Same.sub hm rfl)
  | .startRelease cell => @execStartRelease_same M s0 cell s h (Same.sub hm rfl)
  | .diSample cell millivolts => @execDiSample_same M s0 cell millivolts s h (Same.sub hm rfl)
  | .diFilterElapsed cell => @execDiFilterElapsed_same M s0 cell s h (Same.sub hm rfl)
  | .countEdge cell highUs lowUs => @execCountEdge_same M s0 cell highUs lowUs s h (Same.sub hm rfl)
  | .outputTurnOff cell => @execOutputTurnOff_same M s0 cell s h (Same.sub hm rfl)
  | .doShortTrip cell milliamps => @execDoShortTrip_same M s0 cell milliamps s h (Same.sub hm rfl)
  | .doTripRetry cell => @execDoTripRetry_same M s0 cell s h (Same.sub hm rfl)
  | .groupFsupLow group millivolts => @execGroupFsupLow_same M s0 group millivolts s h (Same.sub hm rfl)
  | .groupFsupRestored group millivolts heldMs => @execGroupFsupRestored_same M s0 group millivolts heldMs s h (Same.sub hm rfl)
  | .pointSnapshot iss index => @execPointSnapshot_same M s0 iss index s h (Same.sub hm rfl)
  | .partitionPointWrite iss index quality => @execPartitionPointWrite_same M s0 iss index quality s h (Same.sub hm rfl)
  | .cellTestStart iss cell type timeout => @execCellTestStart_same M s0 iss cell type timeout s h (Same.sub hm rfl)
  | .cellTestStop iss => @execCellTestStop_same M s0 iss s h (Same.sub hm rfl)
  | .cellTestComplete results wireOk => @execCellTestComplete_same M s0 results wireOk s h (Same.sub hm rfl)
  | .cellTestTimeout => @execCellTestTimeout_same M s0 s h (Same.sub hm rfl)
  | .taskRelease cask task => @execTaskRelease_same M s0 cask task s h (Same.sub hm rfl)
  | .eventTaskTrigger cask task => @execEventTaskTrigger_same M s0 cask task s h (Same.sub hm rfl)
  | .pgeEvtTrig iss task => @execPgeEvtTrig_same M s0 iss task s h (Same.sub hm rfl)
  | .pgeAccountingPeriod => @execPgeAccountingPeriod_same M s0 s h (Same.sub hm rfl)
  | .pgeGuaranteeUsed cask => @execPgeGuaranteeUsed_same M s0 cask s h (Same.sub hm rfl)
  | .taskExecutionStart p => @execTaskExecutionStart_same M s0 p s h (Same.sub hm rfl)
  | .taskOutputPhase p => @execTaskOutputPhase_same M s0 p s h (Same.sub hm rfl)
  | .outputImageCommit cask task => @execOutputImageCommit_same M s0 cask task s h (Same.sub hm rfl)
  | .retentiveCommit cask task => @execRetentiveCommit_same M s0 cask task s h (Same.sub hm rfl)
  | .taskWatchdog cask task => @execTaskWatchdog_same M s0 cask task s h (Same.sub hm rfl)
  | .errorTaskRelease cask => @execErrorTaskRelease_same M s0 cask s h (Same.sub hm rfl)
  | .runWarm iss target => @execRunWarm_same M s0 iss target s h (Same.sub hm rfl)
  | .runCold iss target => @execRunCold_same M s0 iss target s h (Same.sub hm rfl)
  | .holdCask iss target => @execHoldCask_same M s0 iss target s h (Same.sub hm rfl)
  | .resumeCask iss target => @execResumeCask_same M s0 iss target s h (Same.sub hm rfl)
  | .stopCask iss target => @execStopCask_same M s0 iss target s h (Same.sub hm rfl)
  | .caskDrained cask => @execCaskDrained_same M s0 cask s h (Same.sub hm rfl)
  | .holdExpired cask => @execHoldExpired_same M s0 cask s h (Same.sub hm rfl)
  | .caskAutoStart cask => @execCaskAutoStart_same M s0 cask s h (Same.sub hm rfl)
  | .programEngineAbort iss => @execProgramEngineAbort_same M s0 iss s h (Same.sub hm rfl)
  | .pgeClkLoRead iss => @execPgeClkLoRead_same M s0 iss s h (Same.sub hm rfl)
  | .vintnerSetpointWrite point v => @execVintnerSetpointWrite_same M s0 point v s h (Same.sub hm rfl)
  | .opLd8 p d m => @execOpLd8_same M s0 p d m s h (Same.sub hm rfl)
  | .opLd16 p d m => @execOpLd16_same M s0 p d m s h (Same.sub hm rfl)
  | .opLd32 p d m => @execOpLd32_same M s0 p d m s h (Same.sub hm rfl)
  | .opLd64 p d m => @execOpLd64_same M s0 p d m s h (Same.sub hm rfl)
  | .opSt8 p d m => @execOpSt8_same M s0 p d m s h (Same.sub hm rfl)
  | .opSt16 p d m => @execOpSt16_same M s0 p d m s h (Same.sub hm rfl)
  | .opSt32 p d m => @execOpSt32_same M s0 p d m s h (Same.sub hm rfl)
  | .opSt64 p d m => @execOpSt64_same M s0 p d m s h (Same.sub hm rfl)
  | .opIn p d b slot => @execOpIn_same M s0 p d b slot s h (Same.sub hm rfl)
  | .opInq p d slot => @execOpInq_same M s0 p d slot s h (Same.sub hm rfl)
  | .opOut p d slot => @execOpOut_same M s0 p d slot s h (Same.sub hm rfl)
  | .opOutq p d code slot => @execOpOutq_same M s0 p d code slot s h (Same.sub hm rfl)
  | .opAdd p d x y => @execOpAdd_same M s0 p d x y s h (Same.sub hm rfl)
  | .opSub p d x y => @execOpSub_same M s0 p d x y s h (Same.sub hm rfl)
  | .opNeg p d x => @execOpNeg_same M s0 p d x s h (Same.sub hm rfl)
  | .opAbs p d x => @execOpAbs_same M s0 p d x s h (Same.sub hm rfl)
  | .opMin p d x y => @execOpMin_same M s0 p d x y s h (Same.sub hm rfl)
  | .opMax p d x y => @execOpMax_same M s0 p d x y s h (Same.sub hm rfl)
  | .opLimit p d lo x hi => @execOpLimit_same M s0 p d lo x hi s h (Same.sub hm rfl)
  | .opSel p d b x y => @execOpSel_same M s0 p d b x y s h (Same.sub hm rfl)
  | .opMul p d x y => @execOpMul_same M s0 p d x y s h (Same.sub hm rfl)
  | .opDiv p d x y => @execOpDiv_same M s0 p d x y s h (Same.sub hm rfl)
  | .opMod p d x y => @execOpMod_same M s0 p d x y s h (Same.sub hm rfl)
  | .opIntConv p d x fmt => @execOpIntConv_same M s0 p d x fmt s h (Same.sub hm rfl)
  | .opAnd p d x y => @execOpAnd_same M s0 p d x y s h (Same.sub hm rfl)
  | .opOr p d x y => @execOpOr_same M s0 p d x y s h (Same.sub hm rfl)
  | .opXor p d x y => @execOpXor_same M s0 p d x y s h (Same.sub hm rfl)
  | .opNot p d x => @execOpNot_same M s0 p d x s h (Same.sub hm rfl)
  | .opShl p d x y => @execOpShl_same M s0 p d x y s h (Same.sub hm rfl)
  | .opShr p d x y => @execOpShr_same M s0 p d x y s h (Same.sub hm rfl)
  | .opRol p d x y => @execOpRol_same M s0 p d x y s h (Same.sub hm rfl)
  | .opRor p d x y => @execOpRor_same M s0 p d x y s h (Same.sub hm rfl)
  | .opFadd p single d x y => @execOpFadd_same M s0 p single d x y s h (Same.sub hm rfl)
  | .opFsub p single d x y => @execOpFsub_same M s0 p single d x y s h (Same.sub hm rfl)
  | .opFmul p single d x y => @execOpFmul_same M s0 p single d x y s h (Same.sub hm rfl)
  | .opFdiv p single d x y => @execOpFdiv_same M s0 p single d x y s h (Same.sub hm rfl)
  | .opFsqrt p single d x => @execOpFsqrt_same M s0 p single d x s h (Same.sub hm rfl)
  | .opFmin p single d x y => @execOpFmin_same M s0 p single d x y s h (Same.sub hm rfl)
  | .opFmax p single d x y => @execOpFmax_same M s0 p single d x y s h (Same.sub hm rfl)
  | .opFlim p single d lo x hi => @execOpFlim_same M s0 p single d lo x hi s h (Same.sub hm rfl)
  | .opCvt p d x kind => @execOpCvt_same M s0 p d x kind s h (Same.sub hm rfl)
  | .opCmp p cond b x y => @execOpCmp_same M s0 p cond b x y s h (Same.sub hm rfl)
  | .opFcmp p single cond b x y => @execOpFcmp_same M s0 p single cond b x y s h (Same.sub hm rfl)
  | .opLdb p b x => @execOpLdb_same M s0 p b x s h (Same.sub hm rfl)
  | .opAndb p b x y => @execOpAndb_same M s0 p b x y s h (Same.sub hm rfl)
  | .opOrb p b x y => @execOpOrb_same M s0 p b x y s h (Same.sub hm rfl)
  | .opXorb p b x y => @execOpXorb_same M s0 p b x y s h (Same.sub hm rfl)
  | .opNotb p b x => @execOpNotb_same M s0 p b x s h (Same.sub hm rfl)
  | .opStb p b x => @execOpStb_same M s0 p b x s h (Same.sub hm rfl)
  | .opSetb p b => @execOpSetb_same M s0 p b s h (Same.sub hm rfl)
  | .opRstb p b => @execOpRstb_same M s0 p b s h (Same.sub hm rfl)
  | .opJmp p target => @execOpJmp_same M s0 p target s h (Same.sub hm rfl)
  | .opBt p b target => @execOpBt_same M s0 p b target s h (Same.sub hm rfl)
  | .opBf p b target => @execOpBf_same M s0 p b target s h (Same.sub hm rfl)
  | .opCall p inst target => @execOpCall_same M s0 p inst target s h (Same.sub hm rfl)
  | .opRet p => @execOpRet_same M s0 p s h (Same.sub hm rfl)
  | .opTon p m inp q => @execOpTon_same M s0 p m inp q s h (Same.sub hm rfl)
  | .opTof p m inp q => @execOpTof_same M s0 p m inp q s h (Same.sub hm rfl)
  | .opTp p m inp q => @execOpTp_same M s0 p m inp q s h (Same.sub hm rfl)
  | .opRtrig p m inp q => @execOpRtrig_same M s0 p m inp q s h (Same.sub hm rfl)
  | .opFtrig p m inp q => @execOpFtrig_same M s0 p m inp q s h (Same.sub hm rfl)
  | .opCtu p m cu r q => @execOpCtu_same M s0 p m cu r q s h (Same.sub hm rfl)
  | .opCtd p m cd ld q => @execOpCtd_same M s0 p m cd ld q s h (Same.sub hm rfl)
  | .opCtud p m cu cd r ld qu qd => @execOpCtud_same M s0 p m cu cd r ld qu qd s h (Same.sub hm rfl)
  | .opClk p d => @execOpClk_same M s0 p d s h (Same.sub hm rfl)
  | .opFirst p b => @execOpFirst_same M s0 p b s h (Same.sub hm rfl)
  | .opSetp p slot d => @execOpSetp_same M s0 p slot d s h (Same.sub hm rfl)
  | .opMode p slot d => @execOpMode_same M s0 p slot d s h (Same.sub hm rfl)
  | .opRaise p task => @execOpRaise_same M s0 p task s h (Same.sub hm rfl)
  | .opErrinfo p d => @execOpErrinfo_same M s0 p d s h (Same.sub hm rfl)
  | .opErrack p stop => @execOpErrack_same M s0 p stop s h (Same.sub hm rfl)
  | .exchangeBoundary cask task => @execExchangeBoundary_same M s0 cask task s h (Same.sub hm rfl)
  | .exchangeWork p => @execExchangeWork_same M s0 p s h (Same.sub hm rfl)
  | .exchangeSwitch cask task => @execExchangeSwitch_same M s0 cask task s h (Same.sub hm rfl)
  | .exchTime cask task => @execExchTime_same M s0 cask task s h (Same.sub hm rfl)
  | .stationLost station => @execStationLost_same M s0 station s h (Same.sub hm rfl)
  | .loopFrame => @execLoopFrame_same M s0 s h (Same.sub hm rfl)
  | .loopSnapshot slot => @execLoopSnapshot_same M s0 slot s h (Same.sub hm rfl)
  | .loopEvaluation slot => @execLoopEvaluation_same M s0 slot s h (Same.sub hm rfl)
  | .lpeFe slot => @execLpeFe_same M s0 slot s h (Same.sub hm rfl)
  | .lpeLate slot => @execLpeLate_same M s0 slot s h (Same.sub hm rfl)
  | .loopModeOff iss slot => @execLoopModeOff_same M s0 iss slot s h (Same.sub hm rfl)
  | .loopModeManual iss slot => @execLoopModeManual_same M s0 iss slot s h (Same.sub hm rfl)
  | .loopModeAuto iss slot => @execLoopModeAuto_same M s0 iss slot s h (Same.sub hm rfl)
  | .loopModeTrack iss slot => @execLoopModeTrack_same M s0 iss slot s h (Same.sub hm rfl)
  | .lpeResume iss => @execLpeResume_same M s0 iss s h (Same.sub hm rfl)
  | .loopEngineAbort iss => @execLoopEngineAbort_same M s0 iss s h (Same.sub hm rfl)
  | .shadowStart iss ctx slot count => @execShadowStart_same M s0 iss ctx slot count s h (Same.sub hm rfl)
  | .shadowStop iss ctx => @execShadowStop_same M s0 iss ctx s h (Same.sub hm rfl)
  | .shadowEvaluation ctx => @execShadowEvaluation_same M s0 ctx s h (Same.sub hm rfl)
  | .shadowComplete ctx => @execShadowComplete_same M s0 ctx s h (Same.sub hm rfl)
  | .captureComplete buf => @execCaptureComplete_same M s0 buf s h (Same.sub hm rfl)
  | .vintnerRetuneFit buf => @execVintnerRetuneFit_same M s0 buf s h (Same.sub hm rfl)
  | .tryRetune iss => @execTryRetune_same M s0 iss s h (Same.sub hm rfl)
  | .applyRetune iss => @execApplyRetune_same M s0 iss s h (Same.sub hm rfl)
  | .revertRetune iss => @execRevertRetune_same M s0 iss s h (Same.sub hm rfl)
  | .pressSample main guard ref => @execPressSample_same M s0 main guard ref s h (Same.sub hm rfl)
  | .gainStepUp ch => @execGainStepUp_same M s0 ch s h (Same.sub hm rfl)
  | .handoverEnd ch => @execHandoverEnd_same M s0 ch s h (Same.sub hm rfl)
  | .zeroCrossing sys phase => @execZeroCrossing_same M s0 sys phase s h (Same.sub hm rfl)
  | .prsDirChange elem => @execPrsDirChange_same M s0 elem s h (Same.sub hm rfl)
  | .prsPhaseLoss elem => @execPrsPhaseLoss_same M s0 elem s h (Same.sub hm rfl)
  | .pressPointsLost elem => @execPressPointsLost_same M s0 elem s h (Same.sub hm rfl)
  | .pulseStart n => @execPulseStart_same M s0 n s h (Same.sub hm rfl)
  | .pulseEnd n => @execPulseEnd_same M s0 n s h (Same.sub hm rfl)
  | .mdReset iss elem => @execMdReset_same M s0 iss elem s h (Same.sub hm rfl)
  | .tariffPush iss g index => @execTariffPush_same M s0 iss g index s h (Same.sub hm rfl)
  | .tariffClear iss g => @execTariffClear_same M s0 iss g s h (Same.sub hm rfl)
  | .accumulatorSnapshot iss elem => @execAccumulatorSnapshot_same M s0 iss elem s h (Same.sub hm rfl)
  | .snapshotComplete cask => @execSnapshotComplete_same M s0 cask s h (Same.sub hm rfl)
  | .elementActivation elem => @execElementActivation_same M s0 elem s h (Same.sub hm rfl)
  | .pressAbort iss => @execPressAbort_same M s0 iss s h (Same.sub hm rfl)
  | .periodicSave => @execPeriodicSave_same M s0 s h (Same.sub hm rfl)
  | .saveCommit readBackOk => @execSaveCommit_same M s0 readBackOk s h (Same.sub hm rfl)
  | .finalSaveCommand => @execFinalSaveCommand_same M s0 s h (Same.sub hm rfl)
  | .pressHoldFull => @execPressHoldFull_same M s0 s h (Same.sub hm rfl)
  | .pressRestoreComplete => @execPressRestoreComplete_same M s0 s h (Same.sub hm rfl)
  | .prsWatchStart => @execPrsWatchStart_same M s0 s h (Same.sub hm rfl)
  | .watchSecond irms => @execWatchSecond_same M s0 irms s h (Same.sub hm rfl)
  | .prsWatchEnd => @execPrsWatchEnd_same M s0 s h (Same.sub hm rfl)
  | .prsWatchLost millivolts => @execPrsWatchLost_same M s0 millivolts s h (Same.sub hm rfl)
  | .tastingRunComplete zeroPpm checkPpm => @execTastingRunComplete_same M s0 zeroPpm checkPpm s h (Same.sub hm rfl)
  | .tastingStart iss zeroPpm checkPpm => @execTastingStart_same M s0 iss zeroPpm checkPpm s h (Same.sub hm rfl)
  | .tastingSingle iss ch zeroPpm checkPpm => @execTastingSingle_same M s0 iss ch zeroPpm checkPpm s h (Same.sub hm rfl)
  | .tastingStop iss => @execTastingStop_same M s0 iss s h (Same.sub hm rfl)
  | .spSample si fb => @execSpSample_same M s0 si fb s h (Same.sub hm rfl)
  | .slSample si fb => @execSlSample_same M s0 si fb s h (Same.sub hm rfl)
  | .discrepancyTimeout ch func => @execDiscrepancyTimeout_same M s0 ch func s h (Same.sub hm rfl)
  | .intermediateTimeout ch func => @execIntermediateTimeout_same M s0 ch func s h (Same.sub hm rfl)
  | .syncWindowEnd ch func => @execSyncWindowEnd_same M s0 ch func s h (Same.sub hm rfl)
  | .functionFaultClear ch func => @execFunctionFaultClear_same M s0 ch func s h (Same.sub hm rfl)
  | .testPulseDrop tp => @execTestPulseDrop_same M s0 tp s h (Same.sub hm rfl)
  | .tpCheckSample tp spMv slMv => @execTpCheckSample_same M s0 tp spMv slMv s h (Same.sub hm rfl)
  | .crossLinkExchange rcKhz => @execCrossLinkExchange_same M s0 rcKhz s h (Same.sub hm rfl)
  | .requestOff pair => @execRequestOff_same M s0 pair s h (Same.sub hm rfl)
  | .fbTimeout pair => @execFbTimeout_same M s0 pair s h (Same.sub hm rfl)
  | .switchTest pair passed => @execSwitchTest_same M s0 pair passed s h (Same.sub hm rfl)
  | .degradedTimerExpiry pair => @execDegradedTimerExpiry_same M s0 pair s h (Same.sub hm rfl)
  | .safetySelfTest passed => @execSafetySelfTest_same M s0 passed s h (Same.sub hm rfl)
  | .safetyChannelStop ch => @execSafetyChannelStop_same M s0 ch s h (Same.sub hm rfl)
  | .safetySupplyStart millivolts heldUs => @execSafetySupplyStart_same M s0 millivolts heldUs s h (Same.sub hm rfl)
  | .safetySupplyStop millivolts => @execSafetySupplyStop_same M s0 millivolts s h (Same.sub hm rfl)
  | .pendingMapDelivery => @execPendingMapDelivery_same M s0 s h (Same.sub hm rfl)
  | .openSession password time => @execOpenSession_same M s0 password time s h (Same.sub hm rfl)
  | .showPending => @execShowPending_same M s0 s h (Same.sub hm rfl)
  | .acceptMap digest => @execAcceptMap_same M s0 digest s h (Same.sub hm rfl)
  | .setPassword old new => @execSetPassword_same M s0 old new s h (Same.sub hm rfl)
  | .resetLockout pair => @execResetLockout_same M s0 pair s h (Same.sub hm rfl)
  | .readLog start => @execReadLog_same M s0 start s h (Same.sub hm rfl)
  | .closeSession => @execCloseSession_same M s0 s h (Same.sub hm rfl)
  | .safTimeout => @execSafTimeout_same M s0 s h (Same.sub hm rfl)
  | .keyswitchRelease millivolts => @execKeyswitchRelease_same M s0 millivolts s h (Same.sub hm rfl)
  | .pwBlockExpiry => @execPwBlockExpiry_same M s0 s h (Same.sub hm rfl)
  | .safetyIslandAbort iss => @execSafetyIslandAbort_same M s0 iss s h (Same.sub hm rfl)
  | .safetyStatusReport => @execSafetyStatusReport_same M s0 s h (Same.sub hm rfl)
  | .mirrorStale => @execMirrorStale_same M s0 s h (Same.sub hm rfl)
  | .ringFrameReceived port frame => @execRingFrameReceived_same M s0 port frame s h (Same.sub hm rfl)
  | .dupEntryTimeout entry => @execDupEntryTimeout_same M s0 entry s h (Same.sub hm rfl)
  | .leesHoldTimeout buf => @execLeesHoldTimeout_same M s0 buf s h (Same.sub hm rfl)
  | .suspectClear node => @execSuspectClear_same M s0 node s h (Same.sub hm rfl)
  | .heartbeatSend => @execHeartbeatSend_same M s0 s h (Same.sub hm rfl)
  | .supervisionFrameSend => @execSupervisionFrameSend_same M s0 s h (Same.sub hm rfl)
  | .netPathFail node port => @execNetPathFail_same M s0 node port s h (Same.sub hm rfl)
  | .netPathUp node port => @execNetPathUp_same M s0 node port s h (Same.sub hm rfl)
  | .linkUp port => @execLinkUp_same M s0 port s h (Same.sub hm rfl)
  | .linkDown port => @execLinkDown_same M s0 port s h (Same.sub hm rfl)
  | .bypassRelease => @execBypassRelease_same M s0 s h (Same.sub hm rfl)
  | .bypHoldSet iss w => @execBypHoldSet_same M s0 iss w s h (Same.sub hm rfl)
  | .egressTransmit port => @execEgressTransmit_same M s0 port s h (Same.sub hm rfl)
  | .flowSend flow => @execFlowSend_same M s0 flow s h (Same.sub hm rfl)
  | .flowRekey flow => @execFlowRekey_same M s0 flow s h (Same.sub hm rfl)
  | .admitFlow iss => @execAdmitFlow_same M s0 iss s h (Same.sub hm rfl)
  | .releaseFlow iss flow => @execReleaseFlow_same M s0 iss flow s h (Same.sub hm rfl)
  | .admissionDecision => @execAdmissionDecision_same M s0 s h (Same.sub hm rfl)
  | .bindReceived req => @execBindReceived_same M s0 req s h (Same.sub hm rfl)
  | .bindAnswer flow accepted => @execBindAnswer_same M s0 flow accepted s h (Same.sub hm rfl)
  | .bindTimeout flow => @execBindTimeout_same M s0 flow s h (Same.sub hm rfl)
  | .fmpRead hdr => @execFmpRead_same M s0 hdr s h (Same.sub hm rfl)
  | .fmpWrite hdr ws => @execFmpWrite_same M s0 hdr ws s h (Same.sub hm rfl)
  | .fmpAdmit hdr req => @execFmpAdmit_same M s0 hdr req s h (Same.sub hm rfl)
  | .fmpRelease hdr flow => @execFmpRelease_same M s0 hdr flow s h (Same.sub hm rfl)
  | .safetyMsg hdr bytes => @execSafetyMsg_same M s0 hdr bytes s h (Same.sub hm rfl)
  | .pathTestStart iss port len => @execPathTestStart_same M s0 iss port len s h (Same.sub hm rfl)
  | .pathTestFrameSend => @execPathTestFrameSend_same M s0 s h (Same.sub hm rfl)
  | .pathTestEnd => @execPathTestEnd_same M s0 s h (Same.sub hm rfl)
  | .ringMacAbort iss => @execRingMacAbort_same M s0 iss s h (Same.sub hm rfl)
  | .syncReceived dn port gm node masterTime => @execSyncReceived_same M s0 dn port gm node masterTime s h (Same.sub hm rfl)
  | .syncMissing dom => @execSyncMissing_same M s0 dom s h (Same.sub hm rfl)
  | .timHoldover dom => @execTimHoldover_same M s0 dom s h (Same.sub hm rfl)
  | .announceReceived msg => @execAnnounceReceived_same M s0 msg s h (Same.sub hm rfl)
  | .announceTimeout dom => @execAnnounceTimeout_same M s0 dom s h (Same.sub hm rfl)
  | .slewComplete dom => @execSlewComplete_same M s0 dom s h (Same.sub hm rfl)
  | .holdSecond dom => @execHoldSecond_same M s0 dom s h (Same.sub hm rfl)
  | .timUntrusted dom => @execTimUntrusted_same M s0 dom s h (Same.sub hm rfl)
  | .pdelayRequestSend => @execPdelayRequestSend_same M s0 s h (Same.sub hm rfl)
  | .pdelayMessageReceived port msg => @execPdelayMessageReceived_same M s0 port msg s h (Same.sub hm rfl)
  | .syncSend dom => @execSyncSend_same M s0 dom s h (Same.sub hm rfl)
  | .setDomain iss dom => @execSetDomain_same M s0 iss dom s h (Same.sub hm rfl)
  | .setTrustDomain iss dom => @execSetTrustDomain_same M s0 iss dom s h (Same.sub hm rfl)
  | .adjustDomain iss dom => @execAdjustDomain_same M s0 iss dom s h (Same.sub hm rfl)
  | .nowLoRead iss dom => @execNowLoRead_same M s0 iss dom s h (Same.sub hm rfl)
  | .xsnap iss mask => @execXsnap_same M s0 iss mask s h (Same.sub hm rfl)
  | .timeCapture src => @execTimeCapture_same M s0 src s h (Same.sub hm rfl)
  | .captureRead iss ch => @execCaptureRead_same M s0 iss ch s h (Same.sub hm rfl)
  | .celToBattery railMv vbatMv => @execCelToBattery_same M s0 railMv vbatMv s h (Same.sub hm rfl)
  | .celToMain railMv vbatMv minRailMv heldUs => @execCelToMain_same M s0 railMv vbatMv minRailMv heldUs s h (Same.sub hm rfl)
  | .pendedEvent => @execPendedEvent_same M s0 s h (Same.sub hm rfl)
  | .vbatMeasure millivolts => @execVbatMeasure_same M s0 millivolts s h (Same.sub hm rfl)
  | .rtcSecond pulses => @execRtcSecond_same M s0 pulses s h (Same.sub hm rfl)
  | .loadCalendar iss dst => @execLoadCalendar_same M s0 iss dst s h (Same.sub hm rfl)
  | .syncCalendar iss dst => @execSyncCalendar_same M s0 iss dst s h (Same.sub hm rfl)
  | .syncTakesEffect => @execSyncTakesEffect_same M s0 s h (Same.sub hm rfl)
  | .dstAdd iss => @execDstAdd_same M s0 iss s h (Same.sub hm rfl)
  | .dstSub iss => @execDstSub_same M s0 iss s h (Same.sub hm rfl)
  | .rtcTimeRead iss => @execRtcTimeRead_same M s0 iss s h (Same.sub hm rfl)
  | .celZoneWrite iss w => @execCelZoneWrite_same M s0 iss w s h (Same.sub hm rfl)
  | .celTrimWrite iss w => @execCelTrimWrite_same M s0 iss w s h (Same.sub hm rfl)
  | .celTrimCfgWrite iss w => @execCelTrimCfgWrite_same M s0 iss w s h (Same.sub hm rfl)
  | .celOscStop silentUs => @execCelOscStop_same M s0 silentUs s h (Same.sub hm rfl)
  | .oscRestart => @execOscRestart_same M s0 s h (Same.sub hm rfl)
  | .trimWindowEnd pulses crossings => @execTrimWindowEnd_same M s0 pulses crossings s h (Same.sub hm rfl)
  | .eventRecordQueued => @execEventRecordQueued_same M s0 s h (Same.sub hm rfl)
  | .eventRecordWrite => @execEventRecordWrite_same M s0 s h (Same.sub hm rfl)
  | .opsecSave => @execOpsecSave_same M s0 s h (Same.sub hm rfl)
  | .celTimeMark => @execCelTimeMark_same M s0 s h (Same.sub hm rfl)
  | .queryStart iss kind => @execQueryStart_same M s0 iss kind s h (Same.sub hm rfl)
  | .queryNext iss => @execQueryNext_same M s0 iss s h (Same.sub hm rfl)
  | .queryEnd iss => @execQueryEnd_same M s0 iss s h (Same.sub hm rfl)
  | .queryRecordReady core cask => @execQueryRecordReady_same M s0 core cask s h (Same.sub hm rfl)
  | .cellarAbort iss => @execCellarAbort_same M s0 iss s h (Same.sub hm rfl)
  | .leapCheck => @execLeapCheck_same M s0 s h (Same.sub hm rfl)
  | .calendarCheck => @execCalendarCheck_same M s0 s h (Same.sub hm rfl)
  | .canFrameReceived ch f => @execCanFrameReceived_same M s0 ch f s h (Same.sub hm rfl)
  | .canPeriodicTrigger frame => @execCanPeriodicTrigger_same M s0 frame s h (Same.sub hm rfl)
  | .canTxComplete ch => @execCanTxComplete_same M s0 ch s h (Same.sub hm rfl)
  | .canTxError ch => @execCanTxError_same M s0 ch s h (Same.sub hm rfl)
  | .canBusOff ch => @execCanBusOff_same M s0 ch s h (Same.sub hm rfl)
  | .canBusWatchdog ch => @execCanBusWatchdog_same M s0 ch s h (Same.sub hm rfl)
  | .canSupplyFail ch => @execCanSupplyFail_same M s0 ch s h (Same.sub hm rfl)
  | .canRecoveryComplete ch => @execCanRecoveryComplete_same M s0 ch s h (Same.sub hm rfl)
  | .fbsChStart iss ch => @execFbsChStart_same M s0 iss ch s h (Same.sub hm rfl)
  | .fbsChStop iss ch => @execFbsChStop_same M s0 iss ch s h (Same.sub hm rfl)
  | .recoverChannel iss ch => @execRecoverChannel_same M s0 iss ch s h (Same.sub hm rfl)
  | .ttCycleStart ch idleNs => @execTtCycleStart_same M s0 ch idleNs s h (Same.sub hm rfl)
  | .ttTxWindow ch win idleNs => @execTtTxWindow_same M s0 ch win idleNs s h (Same.sub hm rfl)
  | .ttRxWindowEnd ch win => @execTtRxWindowEnd_same M s0 ch win s h (Same.sub hm rfl)
  | .fbsTtResync ch => @execFbsTtResync_same M s0 ch s h (Same.sub hm rfl)
  | .marginScanStart iss ch count => @execMarginScanStart_same M s0 iss ch count s h (Same.sub hm rfl)
  | .marginScanStop iss => @execMarginScanStop_same M s0 iss s h (Same.sub hm rfl)
  | .marginScanComplete early late => @execMarginScanComplete_same M s0 early late s h (Same.sub hm rfl)
  | .marginScanTimeout => @execMarginScanTimeout_same M s0 s h (Same.sub hm rfl)
  | .daliPoll port => @execDaliPoll_same M s0 port s h (Same.sub hm rfl)
  | .daliBackwardFrame port b => @execDaliBackwardFrame_same M s0 port b s h (Same.sub hm rfl)
  | .daliEventMessage port short inst instType event => @execDaliEventMessage_same M s0 port short inst instType event s h (Same.sub hm rfl)
  | .daliLevelCommand port collided => @execDaliLevelCommand_same M s0 port collided s h (Same.sub hm rfl)
  | .bsiDaliFail port millivolts heldMs => @execBsiDaliFail_same M s0 port millivolts heldMs s h (Same.sub hm rfl)
  | .daliBusRestored port millivolts heldMs => @execDaliBusRestored_same M s0 port millivolts heldMs s h (Same.sub hm rfl)
  | .osdpPoll port => @execOsdpPoll_same M s0 port s h (Same.sub hm rfl)
  | .osdpReply port macOk reply => @execOsdpReply_same M s0 port macOk reply s h (Same.sub hm rfl)
  | .osdpReplyTimeout port => @execOsdpReplyTimeout_same M s0 port s h (Same.sub hm rfl)
  | .osdpScSetup reader offered randoms => @execOsdpScSetup_same M s0 reader offered randoms s h (Same.sub hm rfl)
  | .accessDecision port => @execAccessDecision_same M s0 port s h (Same.sub hm rfl)
  | .strikeExpiry door => @execStrikeExpiry_same M s0 door s h (Same.sub hm rfl)
  | .bsiPortStart iss port => @execBsiPortStart_same M s0 iss port s h (Same.sub hm rfl)
  | .bsiPortStop iss port => @execBsiPortStop_same M s0 iss port s h (Same.sub hm rfl)
  | .install iss port addr => @execInstall_same M s0 iss port addr s h (Same.sub hm rfl)
  | .installTimeout reader => @execInstallTimeout_same M s0 reader s h (Same.sub hm rfl)
  | .credAdd iss sched dest => @execCredAdd_same M s0 iss sched dest s h (Same.sub hm rfl)
  | .credDelete iss => @execCredDelete_same M s0 iss s h (Same.sub hm rfl)
  | .credReplace iss sched dest => @execCredReplace_same M s0 iss sched dest s h (Same.sub hm rfl)
  | .credTableRestore => @execCredTableRestore_same M s0 s h (Same.sub hm rfl)
  | .fieldBusAbort iss => @execFieldBusAbort_same M s0 iss s h (Same.sub hm rfl)
  | .provision iss => @execProvision_same M s0 iss s h (Same.sub hm rfl)
  | .serviceEnter iss => @execServiceEnter_same M s0 iss s h (Same.sub hm rfl)
  | .serviceExit iss => @execServiceExit_same M s0 iss s h (Same.sub hm rfl)
  | .serviceTimeout => @execServiceTimeout_same M s0 s h (Same.sub hm rfl)
  | .retire iss => @execRetire_same M s0 iss s h (Same.sub hm rfl)
  | .acceptIdentity iss => @execAcceptIdentity_same M s0 iss s h (Same.sub hm rfl)
  | .attest iss => @execAttest_same M s0 iss s h (Same.sub hm rfl)
  | .attestComplete => @execAttestComplete_same M s0 s h (Same.sub hm rfl)
  | .clearA iss => @execClearA_same M s0 iss s h (Same.sub hm rfl)
  | .armMonitors iss => @execArmMonitors_same M s0 iss s h (Same.sub hm rfl)
  | .invalidateSess iss arg => @execInvalidateSess_same M s0 iss arg s h (Same.sub hm rfl)
  | .invalidateRdr iss arg => @execInvalidateRdr_same M s0 iss arg s h (Same.sub hm rfl)
  | .rollStage iss => @execRollStage_same M s0 iss s h (Same.sub hm rfl)
  | .roll iss => @execRoll_same M s0 iss s h (Same.sub hm rfl)
  | .rollActivation => @execRollActivation_same M s0 s h (Same.sub hm rfl)
  | .importKey iss slot => @execImportKey_same M s0 iss slot s h (Same.sub hm rfl)
  | .deleteKey iss slot => @execDeleteKey_same M s0 iss slot s h (Same.sub hm rfl)
  | .exportKey iss slot => @execExportKey_same M s0 iss slot s h (Same.sub hm rfl)
  | .encrypt iss slot => @execEncrypt_same M s0 iss slot s h (Same.sub hm rfl)
  | .decrypt iss slot => @execDecrypt_same M s0 iss slot s h (Same.sub hm rfl)
  | .sign iss slot => @execSign_same M s0 iss slot s h (Same.sub hm rfl)
  | .verify iss slot => @execVerify_same M s0 iss slot s h (Same.sub hm rfl)
  | .computeMac iss slot => @execComputeMac_same M s0 iss slot s h (Same.sub hm rfl)
  | .keyOpComplete cask => @execKeyOpComplete_same M s0 cask s h (Same.sub hm rfl)
  | .cachePurgeComplete => @execCachePurgeComplete_same M s0 s h (Same.sub hm rfl)
  | .unseal => @execUnseal_same M s0 s h (Same.sub hm rfl)
  | .remask => @execRemask_same M s0 s h (Same.sub hm rfl)
  | .meshSample mon same lux => @execMeshSample_same M s0 mon same lux s h (Same.sub hm rfl)
  | .lidOpen lid heldMs => @execLidOpen_same M s0 lid heldMs s h (Same.sub hm rfl)
  | .glitchDetected sense => @execGlitchDetected_same M s0 sense s h (Same.sub hm rfl)
  | .keyEngineAbort iss => @execKeyEngineAbort_same M s0 iss s h (Same.sub hm rfl)
  | .serviceSessionOpen cert sig => @execServiceSessionOpen_same M s0 cert sig s h (Same.sub hm rfl)
  | .serviceSessionTimeout session => @execServiceSessionTimeout_same M s0 session s h (Same.sub hm rfl)
  | .rackBegin iss => @execRackBegin_same M s0 iss s h (Same.sub hm rfl)
  | .rackFrag iss flashOk => @execRackFrag_same M s0 iss flashOk s h (Same.sub hm rfl)
  | .verifyComplete readBackOk => @execVerifyComplete_same M s0 readBackOk s h (Same.sub hm rfl)
  | .rackActivate iss timed => @execRackActivate_same M s0 iss timed s h (Same.sub hm rfl)
  | .rackActivation => @execRackActivation_same M s0 s h (Same.sub hm rfl)
  | .rackCancel iss => @execRackCancel_same M s0 iss s h (Same.sub hm rfl)
  | .rackConfirm iss => @execRackConfirm_same M s0 iss s h (Same.sub hm rfl)
  | .rackRevert iss => @execRackRevert_same M s0 iss s h (Same.sub hm rfl)
  | .confirmationExpiry => @execConfirmationExpiry_same M s0 s h (Same.sub hm rfl)
  | .bootCompletion => @execBootCompletion_same M s0 s h (Same.sub hm rfl)
  | .updAbort iss => @execUpdAbort_same M s0 iss s h (Same.sub hm rfl)
  | .vinStart millivolts heldUs railsOk => @execVinStart_same M s0 millivolts heldUs railsOk s h (Same.sub hm rfl)
  | .pwrVinWarn millivolts heldUs => @execPwrVinWarn_same M s0 millivolts heldUs s h (Same.sub hm rfl)
  | .pwrVinClear millivolts heldUs => @execPwrVinClear_same M s0 millivolts heldUs s h (Same.sub hm rfl)
  | .holdupEnd => @execHoldupEnd_same M s0 s h (Same.sub hm rfl)
  | .alwaysOnRailStop millivolts => @execAlwaysOnRailStop_same M s0 millivolts s h (Same.sub hm rfl)
  | .pwrFsupLow millivolts heldUs => @execPwrFsupLow_same M s0 millivolts heldUs s h (Same.sub hm rfl)
  | .fsupRestored millivolts heldUs => @execFsupRestored_same M s0 millivolts heldUs s h (Same.sub hm rfl)
  | .resetPin lowUs => @execResetPin_same M s0 lowUs s h (Same.sub hm rfl)
  | .watchdogReset => @execWatchdogReset_same M s0 s h (Same.sub hm rfl)
  | .exceptionReset => @execExceptionReset_same M s0 s h (Same.sub hm rfl)
  | .sysReset iss w => @execSysReset_same M s0 iss w s h (Same.sub hm rfl)
  | .logicReset => @execLogicReset_same M s0 s h (Same.sub hm rfl)
  | .startUp strapSamples => @execStartUp_same M s0 strapSamples s h (Same.sub hm rfl)
  | .wakeAdmission vinMillivolts => @execWakeAdmission_same M s0 vinMillivolts s h (Same.sub hm rfl)
  | .islandRun isl => @execIslandRun_same M s0 isl s h (Same.sub hm rfl)
  | .wakeRelease isl => @execWakeRelease_same M s0 isl s h (Same.sub hm rfl)
  | .pwrIslandFail isl => @execPwrIslandFail_same M s0 isl s h (Same.sub hm rfl)
  | .standby iss => @execStandby_same M s0 iss s h (Same.sub hm rfl)
  | .resumeFromStandby iss => @execResumeFromStandby_same M s0 iss s h (Same.sub hm rfl)
  | .trellisAbort iss => @execTrellisAbort_same M s0 iss s h (Same.sub hm rfl)
  | .abortDoneTimeout => @execAbortDoneTimeout_same M s0 s h (Same.sub hm rfl)
  | .moduleWithdrawal => @execModuleWithdrawal_same M s0 s h (Same.sub hm rfl)
  | .safetyWindowWatchdog => @execSafetyWindowWatchdog_same M s0 s h (Same.sub hm rfl)
  | .keyswitchEngage millivolts => @execKeyswitchEngage_same M s0 millivolts s h (Same.sub hm rfl)
  | .canRxError ch major => @execCanRxError_same M s0 ch major s h (Same.sub hm rfl)
  | .pwmPhaseEdge cell => @execPwmPhaseEdge_same M s0 cell s h (Same.sub hm rfl)
  | .ttArbitratingWindowStart ch win => @execTtArbitratingWindowStart_same M s0 ch win s h (Same.sub hm rfl)
  | .daliStartCommandDue port => @execDaliStartCommandDue_same M s0 port s h (Same.sub hm rfl)
  | .pressConverterFault ch present => @execPressConverterFault_same M s0 ch present s h (Same.sub hm rfl)
  | .safetyChannelRestart ch => @execSafetyChannelRestart_same M s0 ch s h (Same.sub hm rfl)

/-- A step changes nothing but what `exec` changes, the queue and the time. -/
theorem step_same (s : State) : OutSame 2097151 s (step s) := by
  unfold step
  split
  · exact exec_same _ (Same.up_pending (Same.refl _ _) rfl) rfl
  · exact OutSame.next (tick_same (Same.refl _ _) rfl)

end Sys2Proof.Machine
end

