-- ==== Sys2Proof/Laws/Pge.lean ====
section
/-!
SUPPORT. Pge.lean: what the shared operations of the function-block instructions answer while the processor executes an item.
-/
namespace Sys2Proof.Machine

@[simp] theorem proc_charge (p : Fin 2) (k n : Nat) (s : State) :
    proc (charge p k n s) p = { proc s p with busy := (proc s p).busy + n } := by
  by_cases h : p = 0 <;> simp [charge, proc, updProc, h]

@[simp] theorem fresh_charge (p : Fin 2) (k n : Nat) (s : State) : (charge p k n s).fresh = s.fresh := by
  by_cases h : p = 0 <;> simp [charge, updProc, h]

@[simp] theorem fresh_setCtx (p : Fin 2) (c : Ctx) (s : State) : (setCtx p c s).fresh = s.fresh := by
  by_cases h : p = 0 <;> simp [setCtx, updProc, h]

@[simp] theorem setCtx_setCtx (p : Fin 2) (c d : Ctx) (s : State) : setCtx p c (setCtx p d s) = setCtx p c s := by
  by_cases h : p = 0 <;> simp [setCtx, updProc, h]

/-! ### What counting cycles and setting registers leaves -/

@[simp] theorem ran_img (p : Fin 2) (i : Item) (n : Nat) (c : Ctx) (s : State) : (ran p i n c s).img = s.img := by
  by_cases h : p = 0 <;> simp [ran, setCtx, charge, updProc, h]
@[simp] theorem ran_mem (p : Fin 2) (i : Item) (n : Nat) (c : Ctx) (s : State) : (ran p i n c s).mem = s.mem := by
  by_cases h : p = 0 <;> simp [ran, setCtx, charge, updProc, h]
@[simp] theorem ran_lpe (p : Fin 2) (i : Item) (n : Nat) (c : Ctx) (s : State) : (ran p i n c s).lpe = s.lpe := by
  by_cases h : p = 0 <;> simp [ran, setCtx, charge, updProc, h]
@[simp] theorem ran_fresh (p : Fin 2) (i : Item) (n : Nat) (c : Ctx) (s : State) : (ran p i n c s).fresh = s.fresh := by
  simp [ran]
@[simp] theorem ran_casks (p : Fin 2) (i : Item) (n : Nat) (c : Ctx) (s : State) : (ran p i n c s).pge.casks = s.pge.casks := by
  by_cases h : p = 0 <;> simp [ran, setCtx, charge, updProc, h]
@[simp] theorem ran_tasks (p : Fin 2) (i : Item) (n : Nat) (c : Ctx) (s : State) : (ran p i n c s).pge.tasks = s.pge.tasks := by
  by_cases h : p = 0 <;> simp [ran, setCtx, charge, updProc, h]
@[simp] theorem taskSt_ran (p : Fin 2) (i : Item) (n : Nat) (c : Ctx) (s : State) (k : Nat) : taskSt (ran p i n c s) k = taskSt s k := by
  simp [taskSt]
@[simp] theorem pcask_ran (p : Fin 2) (i : Item) (n : Nat) (c : Ctx) (s : State) (k : Nat) : pcask (ran p i n c s) k = pcask s k := by
  simp [pcask]
@[simp] theorem caskRec_ran (p : Fin 2) (i : Item) (n : Nat) (c : Ctx) (s : State) (k : Nat) : caskRec (ran p i n c s) k = caskRec s k := by
  simp [caskRec]
@[simp] theorem loadOk_ran (p : Fin 2) (i j : Item) (n : Nat) (c d : Ctx) (s : State) (a k : Nat) :
    loadOk (ran p i n c s) j d a k = loadOk s j d a k := by simp [loadOk]
@[simp] theorem storeOk_ran (p : Fin 2) (i j : Item) (n : Nat) (c d : Ctx) (s : State) (a k : Nat) :
    storeOk (ran p i n c s) j d a k = storeOk s j d a k := by simp [storeOk]
@[simp] theorem instLoad_ran (p : Fin 2) (i : Item) (n : Nat) (c : Ctx) (s : State) (k a b : Nat) :
    instLoad (ran p i n c s) k a b = instLoad s k a b := by simp [instLoad]
@[simp] theorem slot?_ran (p : Fin 2) (i : Item) (n : Nat) (c : Ctx) (s : State) (k : Nat) :
    slot? (ran p i n c s) k = slot? s k := by simp [slot?]
@[simp] theorem setCtx_ran (p : Fin 2) (i : Item) (n : Nat) (c d : Ctx) (s : State) : setCtx p d (ran p i n c s) = ran p i n d s := by
  simp [ran]
@[simp] theorem proc_ran (p : Fin 2) (i : Item) (n : Nat) (c : Ctx) (s : State) : (proc (ran p i n c s) p).ctx = c := by
  by_cases h : p = 0 <;> simp [ran, setCtx, charge, updProc, proc, h]

/-- While the item executes, an instruction does its own part on the registers moved on and the cycles counted. -/
theorem instr_of_runs {p : Fin 2} {s : State} {i : Item} (h : Runs p i s) (n : Nat) (f : Item → Ctx → State → State) :
    instr p n f s = .next (f i (adv p s) (ran p i n (adv p s) s)) := by
  simp [instr, h.1, h.2, ran, adv]

/-! ### Stores of a task's program -/

/-- A store changes instance memory alone, and of the task the record of changed retentive lines alone. -/
theorem taskStore_eq (n a k v : Nat) (s : State) : ∃ ts : Tbl TaskSt,
    taskStore n a k v s = { s with mem.inst := memWriteBytes s.mem.inst (instKey (n / 32) a) (toLe k v), pge.tasks := ts } ∧
    (∀ j, j ≠ n → Tbl.at ts j {} = taskSt s j) ∧ Tbl.at ts n {} = { taskSt s n with dirty := (Tbl.at ts n {}).dirty } := by
  unfold taskStore
  by_cases h : a + k ≤ retBase (instStore (n / 32) a k v s) (n / 32)
  · refine ⟨s.pge.tasks, ?_, fun _ _ => rfl, rfl⟩
    simp only [h, if_true]; rfl
  · refine ⟨_, by simp only [h, if_false]; rfl, fun j hj => ?_, ?_⟩
    · exact Tbl.at_upd_ne _ _ _ _ hj
    · simp only [Tbl.at_upd_self]; rfl

/-- An operation that writes a data register. -/
theorem alu_of_runs {p : Fin 2} {s : State} {i : Item} (h : Runs p i s) (n : Nat) (d : Fin 16) (f : Ctx → DWord) :
    alu p n d f s = .next (ran p i n (putD d (f (adv p s)) (adv p s)) s) := by
  simp [alu, instr_of_runs h]

/-- An operation that writes a bit register. -/
theorem bitOp_of_runs {p : Fin 2} {s : State} {i : Item} (h : Runs p i s) (b : Fin 8) (f : Ctx → Bool) :
    bitOp p b f s = .next (ran p i 1 (putB b (f (adv p s)) (adv p s)) s) := by
  simp [bitOp, instr_of_runs h]

/-- An operation that may use the free value and may raise PGE_ARITH. -/
theorem aluF_of_runs {p : Fin 2} {s : State} {i : Item} (h : Runs p i s) (n : Nat) (d : Fin 16)
    (f : Ctx → DWord → DWord × Bool) :
    aluF p n d f s = .next (
      if (f (adv p s) (freeNow s)).2 then
        raiseFor 0x0404 i.n 0 (bumpFree (ran p i n (putD d (f (adv p s) (freeNow s)).1 (adv p s)) s))
      else bumpFree (ran p i n (putD d (f (adv p s) (freeNow s)).1 (adv p s)) s)) := by
  simp [aluF, instr_of_runs h, freeNow, cPGE_ARITH]
  rfl

/-- A permitted store. -/
theorem storeOp_of_runs {p : Fin 2} {s : State} {i : Item} (h : Runs p i s) {n : Nat} {m : MemOpnd}
    (hs : storeOk s i (adv p s) (memAddr (adv p s) m) n = true) (d : Fin 16) :
    storeOp p n d m s =
      .next (taskStore i.n (memAddr (adv p s) m) n (dReg (adv p s) d).toNat (ran p i 1 (adv p s) s)) := by
  simp [storeOp, instr_of_runs h, hs]

/-- Setting a clear bit adds its weight. -/
theorem or_two_pow (n k : Nat) (h : n.testBit k = false) : n ||| 2^k = n + 2^k := by
  have h1 : n % 2 ^ (k + 1) = n % 2 ^ k := by
    rw [Nat.pow_succ, Nat.mod_mul]; simp [Nat.testBit, Nat.shiftRight_eq_div_pow] at h; simp [h]
  have h2 := Nat.div_add_mod n (2 ^ (k + 1))
  rw [h1] at h2
  have l0 := Nat.mod_lt n (Nat.two_pow_pos k)
  have p2 : 2 ^ (k+1) = 2 * 2 ^ k := by rw [Nat.pow_succ]; omega
  have l1 : n % 2 ^ k < 2 ^ (k+1) := by omega
  have l2 : 2 ^ k + n % 2 ^ k < 2 ^ (k + 1) := by omega
  have e1 := Nat.two_pow_add_eq_or_of_lt l0 1
  rw [Nat.mul_one] at e1
  have e2 := Nat.two_pow_add_eq_or_of_lt l1 (n / 2 ^ (k+1))
  have e3 := Nat.two_pow_add_eq_or_of_lt l2 (n / 2 ^ (k+1))
  calc n ||| 2 ^ k = (2 ^ (k+1) * (n / 2 ^ (k+1)) ||| n % 2 ^ k) ||| 2 ^ k := by rw [← e2, h2]
    _ = 2 ^ (k+1) * (n / 2 ^ (k+1)) ||| (2 ^ k ||| n % 2 ^ k) := by rw [Nat.or_assoc, Nat.or_comm (n % 2 ^ k)]
    _ = n + 2 ^ k := by rw [← e1, ← e3]; omega

/-- The bit of a number with a weight. -/
theorem and_two_pow_eq (n i : Nat) : n &&& 2 ^ i = if n.testBit i then 2 ^ i else 0 := by
  apply Nat.eq_of_testBit_eq
  intro j
  rw [Nat.testBit_and, Nat.testBit_two_pow]
  by_cases e : i = j
  · subst e; cases n.testBit i <;> simp [Nat.testBit_two_pow]
  · cases n.testBit i <;> simp [e, Nat.testBit_two_pow]

/-- `bitOf` is `testBit`. -/
theorem bitOf_eq (n i : Nat) : bitOf n i = n.testBit i := by
  simp [bitOf, Nat.testBit, Nat.shiftRight_eq_div_pow]

/-- Setting a bit, as an operation on bits. -/
theorem setBit_eq (n bit : Nat) (v : Bool) :
    setBit n bit v = if v then n ||| 2 ^ bit else n - (n &&& 2 ^ bit) := by
  have ha := and_two_pow_eq n bit
  simp only [setBit, bitOf_eq, ha]
  cases hb : n.testBit bit <;> cases v <;> simp
  · exact (or_two_pow n bit hb).symm
  · apply Nat.eq_of_testBit_eq
    intro j
    rw [Nat.testBit_or, Nat.testBit_two_pow]
    by_cases e : bit = j
    · subst e; simp [hb]
    · simp [e]

/-- The bits of a number with one bit set. -/
@[simp] theorem testBit_setBit (n i j : Nat) (v : Bool) : (setBit n i v).testBit j = if i = j then v else n.testBit j := by
  by_cases hv : bitOf n i = v
  · have : setBit n i v = n := by simp [setBit, hv]
    rw [this, ← hv, bitOf_eq]; split
    · next e => rw [e]
    · rfl
  · cases v with
    | true =>
      rw [setBit_eq]; simp only [if_true, Nat.testBit_or, Nat.testBit_two_pow]
      by_cases e : i = j <;> simp [e]
    | false =>
      have hb : n.testBit i = true := by rw [bitOf_eq] at hv; simpa using hv
      have e1 : setBit n i false = n ^^^ 2 ^ i := by
        have h0 : (n ^^^ 2 ^ i).testBit i = false := by simp [Nat.testBit_xor, hb, Nat.testBit_two_pow]
        have h1 := or_two_pow _ _ h0
        have h2 : (n ^^^ 2 ^ i) ||| 2 ^ i = n := by
          apply Nat.eq_of_testBit_eq; intro k
          rw [Nat.testBit_or, Nat.testBit_xor, Nat.testBit_two_pow]
          by_cases e : i = k
          · subst e; simp [hb]
          · simp [e]
        have ha := and_two_pow_eq n i
        rw [setBit_eq]; simp only [ha, hb]; simp; omega
      rw [e1, Nat.testBit_xor, Nat.testBit_two_pow]
      by_cases e : i = j
      · subst e; simp [hb]
      · simp [e]

/-- Setting a bit below the eighth keeps a byte a byte. -/
theorem setBit_lt {n i : Nat} (hn : n < 256) (hi : i < 8) (v : Bool) : setBit n i v < 256 := by
  have h := Nat.pow_le_pow_right (n := 2) (by decide) (show i ≤ 7 by omega)
  rw [setBit_eq]
  split
  · exact Nat.or_lt_two_pow (n := 8) (by omega) (by omega)
  · omega

end Sys2Proof.Machine
end

