-- ==== Sys2Proof/Laws/Points.lean ====
section
/-!
SUPPORT. Points.lean: what a write of a point entry does to the points (spec/03_trellis_point_fabric.md R33, R86 to R93).
-/
namespace Sys2Proof.Machine

@[simp] theorem pt?_setPt_self (i : Nat) (p : Point) (s : State) : pt? (setPt i p s) i = some p := by simp [pt?, setPt]

theorem pt?_setPt_ne {i k : Nat} (h : k ≠ i) (p : Point) (s : State) : pt? (setPt i p s) k = pt? s k := by
  simp [pt?, setPt, Tbl.get?_put_ne _ _ h]

/-- An operation that leaves Trellis leaves the points. -/
theorem pt?_same {m : Nat} {s t : State} (h : Same m s t) (hm : m.testBit 8 = false) (i : Nat) : pt? t i = pt? s i := by
  unfold pt?; rw [h.trl hm]

/-- A write of an entry changes Trellis in that point alone. -/
theorem putEntry0_trl {i : Nat} {s : State} {p : Point} (h : pt? s i = some p) (prov : Nat) (v : DWord) (q : Byte) (st : DWord) :
    (putEntry0 i prov v q st s).trl = (setPt i (entryWrite p prov v (timeQuality s p q) st) s).trl := by
  unfold putEntry0
  rw [h]
  dsimp only
  generalize hn : entryWrite p prov v (timeQuality s p q) st = n
  rw [(noteLevel_same (M := 65536) (Same.refl _ _) rfl).trl rfl, (noteChange_same (M := 65536) (Same.refl _ _) rfl).trl rfl,
    (noteOpen_same (M := 32768) (Same.refl _ _) rfl).trl rfl, (noteCommand_same (M := 1048576) (Same.refl _ _) rfl).trl rfl]

/-- The entry written. -/
theorem pt?_putEntry0_self {i : Nat} {s : State} {p : Point} (h : pt? s i = some p) (prov : Nat) (v : DWord) (q : Byte) (st : DWord) :
    pt? (putEntry0 i prov v q st s) i = some (entryWrite p prov v (timeQuality s p q) st) := by
  have := putEntry0_trl h prov v q st
  unfold pt?
  rw [this]
  exact pt?_setPt_self ..

/-- Every other entry is left. -/
theorem pt?_putEntry0_ne {i k : Nat} (hk : k ≠ i) (s : State) (prov : Nat) (v : DWord) (q : Byte) (st : DWord) :
    pt? (putEntry0 i prov v q st s) k = pt? s k := by
  cases h : pt? s i with
  | none => unfold putEntry0; rw [h]
  | some p =>
    have := putEntry0_trl h prov v q st
    unfold pt?
    rw [this]
    exact pt?_setPt_ne hk ..

theorem noteRelease_plain {i : Nat} {s : State} (h : ∀ e ∈ s.fbs.doors, e.2.release ≠ i) (a b : DWord) : noteRelease i a b s = s := by
  unfold noteRelease
  split
  · have : ∀ (l : List (Nat × DoorRec)) (t : State), (∀ e ∈ l, e.2.release ≠ i) →
        l.foldl (fun s e => if e.2.release == i then record cBSI_GRANT (doorCask s e.2) (d1 e.1 ++ d1 0 ++ d4 0) (openDoor e.1 e.2 s) else s) t = t := by
      intro l
      induction l with
      | nil => intro t _; rfl
      | cons e l ih =>
        intro t hl
        have : (e.2.release == i) = false := by simpa using hl e (List.mem_cons_self ..)
        rw [List.foldl_cons, this]
        exact ih t (fun x hx => hl x (List.mem_cons_of_mem _ hx))
    exact this _ s h
  · rfl

/-- A write of a plain point is the write of its entry. -/
theorem putEntry_plain {i : Nat} {s : State} {p : Point} (h : pt? s i = some p) (hp : Plain s i) (prov : Nat) (v : DWord) (q : Byte)
    (st : DWord) : putEntry i prov v q st s = putEntry0 i prov v q st s := by
  have hf : (putEntry0 i prov v q st s).fbs.doors = s.fbs.doors ∧ (putEntry0 i prov v q st s).fbs.lift = s.fbs.lift := by
    unfold putEntry0
    rw [h]
    dsimp only
    generalize entryWrite p prov v (timeQuality s p q) st = n
    have h1 : ∀ t : State, (noteLevel i (p.value != v) t).fbs.doors = t.fbs.doors ∧ (noteLevel i (p.value != v) t).fbs.lift = t.fbs.lift := by
      intro t
      unfold noteLevel
      generalize t.fbs.devs = l
      induction l generalizing t with
      | nil => exact ⟨rfl, rfl⟩
      | cons e l ih =>
        rw [List.foldl_cons]
        refine ⟨(ih _).1.trans ?_, (ih _).2.trans ?_⟩ <;> dsimp only <;> split <;> rfl
    have h2 : ∀ t : State, (noteChange i n t).fbs.doors = t.fbs.doors ∧ (noteChange i n t).fbs.lift = t.fbs.lift := by
      intro t
      unfold noteChange
      refine foldl_keeps (P := fun u : State => u.fbs.doors = t.fbs.doors ∧ u.fbs.lift = t.fbs.lift) (fun u e h => ?_) _ ⟨rfl, rfl⟩
      dsimp only
      split
      · exact h
      · exact h
    have e1 := (noteOpen_same (M := 32768) (a0 := i) (a1 := prov) (a2 := p) (Same.refl _ (noteCommand i (setPt i n s))) rfl).fbs rfl
    have e2 := (noteCommand_same (M := 1048576) (a0 := i) (Same.refl _ (setPt i n s)) rfl).fbs rfl
    refine ⟨(h1 _).1.trans ((h2 _).1.trans ?_), (h1 _).2.trans ((h2 _).2.trans ?_)⟩
    · rw [e1, e2]; rfl
    · rw [e1, e2]; rfl
  unfold putEntry
  rw [h]
  dsimp only
  rw [noteRelease_plain (by rw [hf.1]; exact hp.1), hf.2]
  split
  · next l hl =>
    have : l.enable.any (fun e => e.2 == i) = false := by
      rw [List.any_eq_false]
      intro e he
      simpa using hp.2 l hl e he
    rw [this]
    rfl
  · rfl

/-- A write of a point by its writing source (R33). -/
theorem writeBy_own {kind idx cask i : Nat} {s : State} {p : Point} (h : pt? s i = some p) (hw : isWriter p kind idx cask = true)
    (v : DWord) (q : Byte) (st : DWord) : writeBy kind idx cask i v q st s = putEntry i kind v q st s := by
  unfold writeBy; rw [h]; dsimp only; rw [hw]; rfl

end Sys2Proof.Machine
end

