-- ==== Sys2Proof/Laws/Ring.lean ====
section
/-!
SUPPORT. Ring.lean: what bringing the reference paths up to date, changing paths and losing stations leave of the ring map
(spec/10_ring_and_redundancy.md R315, R319, R320).
-/
namespace Sys2Proof.Machine

@[simp] theorem node_updNode_self (n : Nat) (f : Node → Node) (s : State) : node (updNode n f s) n = f (node s n) := by
  simp [node, updNode]

theorem node_updNode_ne {n k : Nat} (h : k ≠ n) (f : Node → Node) (s : State) : node (updNode n f s) k = node s k := by
  simp [node, updNode, Tbl.at_upd_ne _ _ _ _ h]

@[simp] theorem node_record (c k : Nat) (d : List Byte) (s : State) (n : Nat) : node (record c k d s) n = node s n := rfl

/-- Bringing the reference paths up to date changes `ref` alone in every node. -/
theorem node_updRefs (s : State) (k : Nat) : ∃ r, node (updRefs s) k = { node s k with ref := r } := by
  unfold updRefs
  refine foldl_keeps (P := fun t => ∃ r, node t k = { node s k with ref := r }) (fun t n h => ?_) _ ⟨_, rfl⟩
  obtain ⟨r0, h⟩ := h
  have upd : ∀ r, ∃ r', node (updNode n (fun x => { x with ref := r }) t) k = { node s k with ref := r' } := by
    intro r
    by_cases e : k = n
    · subst e; exact ⟨r, by rw [node_updNode_self, h]⟩
    · exact ⟨r0, by rw [node_updNode_ne e, h]⟩
  dsimp only
  split
  · exact ⟨r0, h⟩
  · split
    · split
      · exact upd _
      · exact upd _
    · exact upd _

theorem node_updRefs_of {T u : State} {k : Nat} (h : ∃ n, node T k = { node u k with fails := n }) :
    ∃ r n, node (updRefs T) k = { node u k with ref := r, fails := n } := by
  obtain ⟨n, e⟩ := h
  obtain ⟨r, h⟩ := node_updRefs T k
  exact ⟨r, n, by rw [h, e]⟩

/-- Changing paths changes, besides what is asked for, `ref` and `fails` alone in every node. -/
theorem node_withPaths (f : State → State) (s : State) (k : Nat) :
    ∃ r n, node (withPaths f s) k = { node (f s) k with ref := r, fails := n } := by
  unfold withPaths
  apply node_updRefs_of
  refine foldl_keeps (P := fun t => ∃ n, node t k = { node (f s) k with fails := n }) (fun t m h => ?_) _ ⟨_, rfl⟩
  obtain ⟨n0, h⟩ := h
  dsimp only
  split
  · exact ⟨n0, h⟩
  · by_cases e : k = m
    · subst e; exact ⟨_, by rw [node_updNode_self, h]⟩
    · exact ⟨n0, by rw [node_updNode_ne e, h]⟩

@[simp] theorem node_withdraw (n : Nat) (t : Stn) (s : State) (k : Nat) : node (withdraw n t s) k = node s k := by
  unfold withdraw
  dsimp only
  split <;> rfl

/-- Losing a station leaves the ring map. -/
@[simp] theorem node_loseStation (n : Nat) (b : Bool) (s : State) (k : Nat) : node (loseStation n b s) k = node s k := by
  unfold loseStation
  split
  · rfl
  · dsimp only
    split
    · rfl
    · unfold node
      rw [(raiseLost_same (M := 528) (Same.refl _ _) rfl).net (by decide)]
      exact node_withdraw ..

theorem node_loseBus (p : Stn → Bool) (s : State) (k : Nat) : node (loseBus p s) k = node s k := by
  unfold loseBus
  exact foldl_keeps (P := fun t => node t k = node s k) (fun t n h => (node_loseStation ..).trans h) _ rfl

/-- Losing the stations of failed peers leaves the ring map. -/
@[simp] theorem node_losePeers (s : State) (k : Nat) : node (losePeers s) k = node s k := by
  unfold losePeers
  split
  · exact node_loseBus ..
  · refine foldl_keeps (P := fun t => node t k = node s k) (fun t n h => ?_) _ rfl
    split
    · exact (node_loseBus ..).trans h
    · exact h

/-! ### Events stay -/

/-- No event that has arisen is lost. -/
def Grows (s t : State) : Prop := s.arising <+: t.arising

theorem Grows.refl (s : State) : Grows s s := List.prefix_refl _
theorem Grows.trans {s t u : State} (h : Grows s t) (k : Grows t u) : Grows s u := List.IsPrefix.trans h k
theorem Grows.mem {s t : State} (h : Grows s t) {e : Event} (k : e ∈ s.arising) : e ∈ t.arising := h.subset k
theorem Grows.same (m : Nat) {s t : State} (h : Same m s t) (hm : m.testBit 4 = false) : Grows s t :=
  ⟨[], (List.append_nil _).trans (h.arising hm).symm⟩
theorem grows_record (c k : Nat) (d : List Byte) (s : State) : Grows s (record c k d s) := List.prefix_append _ _
theorem Grows.foldl {α : Type} {f : State → α → State} (hf : ∀ s a, Grows s (f s a)) (l : List α) (s : State) : Grows s (l.foldl f s) :=
  foldl_keeps (P := fun t => Grows s t) (fun t a h => h.trans (hf t a)) l (Grows.refl s)

theorem grows_raise (c k n i : Nat) (s : State) : Grows s (raise c k n i s) := by
  unfold raise
  refine (grows_record c k (d1 n ++ d4 i) s).trans ?_
  generalize record c k _ s = t
  dsimp only
  split
  · split
    · exact (grows_record ..).trans (Grows.same 512 (stopCaskOp_same (Same.refl _ _) rfl) rfl)
    · exact Grows.refl _
  · have stop : ∀ (b : Bool) u, Same 512 t u → Same 512 t (if b then stopCaskOp k u else u) := by
      intro b u h
      cases b
      · exact h
      · exact stopCaskOp_same h rfl
    exact Grows.same 512 (stop _ _ (updPCask_same (Same.refl _ _) rfl)) rfl

theorem grows_raiseLost (n : Nat) (ts : List Nat) (s : State) : Grows s (raiseLost n ts s) := by
  unfold raiseLost
  refine Grows.foldl (fun s c => ?_) _ s
  split
  · exact Grows.refl _
  · dsimp only
    split
    · exact grows_raise ..
    · exact Grows.foldl (fun s t => Grows.same 512 (updCyc_same (Same.refl _ _) rfl) rfl) _ s

theorem grows_loseStation (n : Nat) (b : Bool) (s : State) : Grows s (loseStation n b s) := by
  unfold loseStation
  split
  · exact Grows.refl _
  · next t _ =>
    dsimp only
    split
    · exact Grows.refl _
    · refine Grows.trans ?_ (grows_raiseLost ..)
      refine Grows.trans ?_ (grows_record ..)
      have h : Grows s (withdraw n t s) := Grows.same 196608 (withdraw_same (Same.refl _ s) rfl) rfl
      exact h

theorem grows_losePeers (s : State) : Grows s (losePeers s) := by
  have hb : ∀ p s, Grows s (loseBus p s) := fun p s => Grows.foldl (fun s n => grows_loseStation ..) _ s
  unfold losePeers
  split
  · exact hb _ s
  · refine Grows.foldl (fun s n => ?_) _ s
    split
    · exact hb _ s
    · exact Grows.refl _

/-! ### Ports -/

/-- Losing stations takes frames from class 1 of the ports and nothing else. -/
theorem portSt_loseStation (n : Nat) (b : Bool) (s : State) (q : Port) :
    ∃ g, portSt (loseStation n b s) q = { portSt s q with q1 := (portSt s q).q1.filter g } := by
  have none : ∃ g : Frame → Bool, portSt s q = { portSt s q with q1 := (portSt s q).q1.filter g } :=
    ⟨fun _ => true, by rw [List.filter_eq_self.mpr (fun _ _ => rfl)]⟩
  unfold loseStation
  split
  · exact none
  · next t _ =>
    dsimp only
    split
    · exact none
    · have e : ∀ ts (u : State), portSt (raiseLost n ts u) q = portSt u q := by
        intro ts u
        have h := (raiseLost_same (M := 528) (a0 := n) (a1 := ts) (Same.refl _ u) rfl).net rfl
        cases q <;> simp only [portSt, h]
      rw [e]
      show ∃ g, portSt (withdraw n t s) q = _
      unfold withdraw
      dsimp only
      split
      · cases q <;> exact ⟨_, rfl⟩
      · cases q <;> exact none

theorem portSt_loseBus (p : Stn → Bool) (s : State) (q : Port) :
    ∃ g, portSt (loseBus p s) q = { portSt s q with q1 := (portSt s q).q1.filter g } := by
  unfold loseBus
  refine foldl_keeps (P := fun t => ∃ g, portSt t q = { portSt s q with q1 := (portSt s q).q1.filter g }) (fun t n h => ?_) _
    ⟨fun _ => true, by rw [List.filter_eq_self.mpr (fun _ _ => rfl)]⟩
  obtain ⟨g, h⟩ := h
  obtain ⟨g', h'⟩ := portSt_loseStation n true t q
  exact ⟨_, by rw [h', h, List.filter_filter]⟩

theorem portSt_losePeers (s : State) (q : Port) :
    ∃ g, portSt (losePeers s) q = { portSt s q with q1 := (portSt s q).q1.filter g } := by
  unfold losePeers
  split
  · exact portSt_loseBus ..
  · refine foldl_keeps (P := fun t => ∃ g, portSt t q = { portSt s q with q1 := (portSt s q).q1.filter g }) (fun t n h => ?_) _
      ⟨fun _ => true, by rw [List.filter_eq_self.mpr (fun _ _ => rfl)]⟩
    split
    · obtain ⟨g, h⟩ := h
      obtain ⟨g', h'⟩ := portSt_loseBus (fun x => x.kind == 2 && x.addr % 65536 == (node t n).addr) t q
      exact ⟨_, by rw [h', h, List.filter_filter]⟩
    · exact h

@[simp] theorem portSt_updNode (n : Nat) (f : Node → Node) (s : State) (q : Port) : portSt (updNode n f s) q = portSt s q := by
  cases q <;> rfl

theorem portSt_updRefs (s : State) (q : Port) : portSt (updRefs s) q = portSt s q := by
  unfold updRefs
  refine foldl_keeps (P := fun t => portSt t q = portSt s q) (fun t n h => ?_) _ rfl
  have r : ∀ c k d (u : State), portSt (record c k d u) q = portSt u q := by intros; cases q <;> rfl
  dsimp only
  split
  · exact h
  · split
    · split
      · rw [r, portSt_updNode, h]
      · rw [portSt_updNode, h]
    · rw [portSt_updNode, h]

/-- Changing paths changes no port but what is asked for. -/
theorem portSt_withPaths (f : State → State) (s : State) (q : Port) : portSt (withPaths f s) q = portSt (f s) q := by
  unfold withPaths
  refine (portSt_updRefs _ q).trans ?_
  refine foldl_keeps (P := fun t => portSt t q = portSt (f s) q) (fun t n h => ?_) _ rfl
  dsimp only
  split
  · exact h
  · rw [portSt_updNode, h]

end Sys2Proof.Machine
end

