-- ==== Sys2Proof/Laws/State.lean ====
section
/-!
SUPPORT. State.lean: for each named update of State, one lemma per part of State that it leaves as it is, and what its reader gives after it.
-/
namespace Sys2Proof.Machine

/-! ### updAdmBank -/

@[simp] theorem updAdmBank_pending (cask : Nat) (f : AdmBank → AdmBank) (s : State) : (updAdmBank cask f s).pending = s.pending := rfl
@[simp] theorem updAdmBank_now (cask : Nat) (f : AdmBank → AdmBank) (s : State) : (updAdmBank cask f s).now = s.now := rfl
@[simp] theorem updAdmBank_fresh (cask : Nat) (f : AdmBank → AdmBank) (s : State) : (updAdmBank cask f s).fresh = s.fresh := rfl
@[simp] theorem updAdmBank_reply (cask : Nat) (f : AdmBank → AdmBank) (s : State) : (updAdmBank cask f s).reply = s.reply := rfl
@[simp] theorem updAdmBank_arising (cask : Nat) (f : AdmBank → AdmBank) (s : State) : (updAdmBank cask f s).arising = s.arising := rfl
@[simp] theorem updAdmBank_sys (cask : Nat) (f : AdmBank → AdmBank) (s : State) : (updAdmBank cask f s).sys = s.sys := rfl
@[simp] theorem updAdmBank_mem (cask : Nat) (f : AdmBank → AdmBank) (s : State) : (updAdmBank cask f s).mem = s.mem := rfl
@[simp] theorem updAdmBank_img (cask : Nat) (f : AdmBank → AdmBank) (s : State) : (updAdmBank cask f s).img = s.img := rfl
@[simp] theorem updAdmBank_trl (cask : Nat) (f : AdmBank → AdmBank) (s : State) : (updAdmBank cask f s).trl = s.trl := rfl
@[simp] theorem updAdmBank_pge (cask : Nat) (f : AdmBank → AdmBank) (s : State) : (updAdmBank cask f s).pge = s.pge := rfl
@[simp] theorem updAdmBank_lpe (cask : Nat) (f : AdmBank → AdmBank) (s : State) : (updAdmBank cask f s).lpe = s.lpe := rfl
@[simp] theorem updAdmBank_prs (cask : Nat) (f : AdmBank → AdmBank) (s : State) : (updAdmBank cask f s).prs = s.prs := rfl
@[simp] theorem updAdmBank_saf (cask : Nat) (f : AdmBank → AdmBank) (s : State) : (updAdmBank cask f s).saf = s.saf := rfl
@[simp] theorem updAdmBank_cel (cask : Nat) (f : AdmBank → AdmBank) (s : State) : (updAdmBank cask f s).cel = s.cel := rfl
@[simp] theorem updAdmBank_key (cask : Nat) (f : AdmBank → AdmBank) (s : State) : (updAdmBank cask f s).key = s.key := rfl
@[simp] theorem updAdmBank_stn (cask : Nat) (f : AdmBank → AdmBank) (s : State) : (updAdmBank cask f s).stn = s.stn := rfl
@[simp] theorem updAdmBank_fbs (cask : Nat) (f : AdmBank → AdmBank) (s : State) : (updAdmBank cask f s).fbs = s.fbs := rfl
@[simp] theorem updAdmBank_tim (cask : Nat) (f : AdmBank → AdmBank) (s : State) : (updAdmBank cask f s).tim = s.tim := rfl
@[simp] theorem updAdmBank_upd (cask : Nat) (f : AdmBank → AdmBank) (s : State) : (updAdmBank cask f s).upd = s.upd := rfl
@[simp] theorem updAdmBank_pwr (cask : Nat) (f : AdmBank → AdmBank) (s : State) : (updAdmBank cask f s).pwr = s.pwr := rfl
@[simp] theorem admBank_updAdmBank_self (cask : Nat) (f : AdmBank → AdmBank) (s : State) : admBank (updAdmBank cask f s) cask = f (admBank s cask) := by simp [admBank, updAdmBank]
theorem admBank_updAdmBank_ne (cask : Nat) (f : AdmBank → AdmBank) (s : State) {j : Nat} (h : j ≠ cask) : admBank (updAdmBank cask f s) j = admBank s j := by simp [admBank, updAdmBank, Tbl.at_upd_ne _ _ _ _ h]

/-! ### updDali -/

@[simp] theorem updDali_pending (p : Nat) (f : DaliPort → DaliPort) (s : State) : (updDali p f s).pending = s.pending := rfl
@[simp] theorem updDali_now (p : Nat) (f : DaliPort → DaliPort) (s : State) : (updDali p f s).now = s.now := rfl
@[simp] theorem updDali_fresh (p : Nat) (f : DaliPort → DaliPort) (s : State) : (updDali p f s).fresh = s.fresh := rfl
@[simp] theorem updDali_reply (p : Nat) (f : DaliPort → DaliPort) (s : State) : (updDali p f s).reply = s.reply := rfl
@[simp] theorem updDali_arising (p : Nat) (f : DaliPort → DaliPort) (s : State) : (updDali p f s).arising = s.arising := rfl
@[simp] theorem updDali_sys (p : Nat) (f : DaliPort → DaliPort) (s : State) : (updDali p f s).sys = s.sys := rfl
@[simp] theorem updDali_mem (p : Nat) (f : DaliPort → DaliPort) (s : State) : (updDali p f s).mem = s.mem := rfl
@[simp] theorem updDali_img (p : Nat) (f : DaliPort → DaliPort) (s : State) : (updDali p f s).img = s.img := rfl
@[simp] theorem updDali_trl (p : Nat) (f : DaliPort → DaliPort) (s : State) : (updDali p f s).trl = s.trl := rfl
@[simp] theorem updDali_pge (p : Nat) (f : DaliPort → DaliPort) (s : State) : (updDali p f s).pge = s.pge := rfl
@[simp] theorem updDali_lpe (p : Nat) (f : DaliPort → DaliPort) (s : State) : (updDali p f s).lpe = s.lpe := rfl
@[simp] theorem updDali_prs (p : Nat) (f : DaliPort → DaliPort) (s : State) : (updDali p f s).prs = s.prs := rfl
@[simp] theorem updDali_saf (p : Nat) (f : DaliPort → DaliPort) (s : State) : (updDali p f s).saf = s.saf := rfl
@[simp] theorem updDali_cel (p : Nat) (f : DaliPort → DaliPort) (s : State) : (updDali p f s).cel = s.cel := rfl
@[simp] theorem updDali_key (p : Nat) (f : DaliPort → DaliPort) (s : State) : (updDali p f s).key = s.key := rfl
@[simp] theorem updDali_stn (p : Nat) (f : DaliPort → DaliPort) (s : State) : (updDali p f s).stn = s.stn := rfl
@[simp] theorem updDali_net (p : Nat) (f : DaliPort → DaliPort) (s : State) : (updDali p f s).net = s.net := rfl
@[simp] theorem updDali_tim (p : Nat) (f : DaliPort → DaliPort) (s : State) : (updDali p f s).tim = s.tim := rfl
@[simp] theorem updDali_upd (p : Nat) (f : DaliPort → DaliPort) (s : State) : (updDali p f s).upd = s.upd := rfl
@[simp] theorem updDali_pwr (p : Nat) (f : DaliPort → DaliPort) (s : State) : (updDali p f s).pwr = s.pwr := rfl
@[simp] theorem daliPort_updDali_self (p : Nat) (f : DaliPort → DaliPort) (s : State) : daliPort (updDali p f s) p = f (daliPort s p) := by simp [daliPort, updDali]
theorem daliPort_updDali_ne (p : Nat) (f : DaliPort → DaliPort) (s : State) {j : Nat} (h : j ≠ p) : daliPort (updDali p f s) j = daliPort s j := by simp [daliPort, updDali, Tbl.at_upd_ne _ _ _ _ h]

/-! ### updOsdp -/

@[simp] theorem updOsdp_pending (p : Nat) (f : OsdpPort → OsdpPort) (s : State) : (updOsdp p f s).pending = s.pending := rfl
@[simp] theorem updOsdp_now (p : Nat) (f : OsdpPort → OsdpPort) (s : State) : (updOsdp p f s).now = s.now := rfl
@[simp] theorem updOsdp_fresh (p : Nat) (f : OsdpPort → OsdpPort) (s : State) : (updOsdp p f s).fresh = s.fresh := rfl
@[simp] theorem updOsdp_reply (p : Nat) (f : OsdpPort → OsdpPort) (s : State) : (updOsdp p f s).reply = s.reply := rfl
@[simp] theorem updOsdp_arising (p : Nat) (f : OsdpPort → OsdpPort) (s : State) : (updOsdp p f s).arising = s.arising := rfl
@[simp] theorem updOsdp_sys (p : Nat) (f : OsdpPort → OsdpPort) (s : State) : (updOsdp p f s).sys = s.sys := rfl
@[simp] theorem updOsdp_mem (p : Nat) (f : OsdpPort → OsdpPort) (s : State) : (updOsdp p f s).mem = s.mem := rfl
@[simp] theorem updOsdp_img (p : Nat) (f : OsdpPort → OsdpPort) (s : State) : (updOsdp p f s).img = s.img := rfl
@[simp] theorem updOsdp_trl (p : Nat) (f : OsdpPort → OsdpPort) (s : State) : (updOsdp p f s).trl = s.trl := rfl
@[simp] theorem updOsdp_pge (p : Nat) (f : OsdpPort → OsdpPort) (s : State) : (updOsdp p f s).pge = s.pge := rfl
@[simp] theorem updOsdp_lpe (p : Nat) (f : OsdpPort → OsdpPort) (s : State) : (updOsdp p f s).lpe = s.lpe := rfl
@[simp] theorem updOsdp_prs (p : Nat) (f : OsdpPort → OsdpPort) (s : State) : (updOsdp p f s).prs = s.prs := rfl
@[simp] theorem updOsdp_saf (p : Nat) (f : OsdpPort → OsdpPort) (s : State) : (updOsdp p f s).saf = s.saf := rfl
@[simp] theorem updOsdp_cel (p : Nat) (f : OsdpPort → OsdpPort) (s : State) : (updOsdp p f s).cel = s.cel := rfl
@[simp] theorem updOsdp_key (p : Nat) (f : OsdpPort → OsdpPort) (s : State) : (updOsdp p f s).key = s.key := rfl
@[simp] theorem updOsdp_stn (p : Nat) (f : OsdpPort → OsdpPort) (s : State) : (updOsdp p f s).stn = s.stn := rfl
@[simp] theorem updOsdp_net (p : Nat) (f : OsdpPort → OsdpPort) (s : State) : (updOsdp p f s).net = s.net := rfl
@[simp] theorem updOsdp_tim (p : Nat) (f : OsdpPort → OsdpPort) (s : State) : (updOsdp p f s).tim = s.tim := rfl
@[simp] theorem updOsdp_upd (p : Nat) (f : OsdpPort → OsdpPort) (s : State) : (updOsdp p f s).upd = s.upd := rfl
@[simp] theorem updOsdp_pwr (p : Nat) (f : OsdpPort → OsdpPort) (s : State) : (updOsdp p f s).pwr = s.pwr := rfl
@[simp] theorem osdpPort_updOsdp_self (p : Nat) (f : OsdpPort → OsdpPort) (s : State) : osdpPort (updOsdp p f s) p = f (osdpPort s p) := by simp [osdpPort, updOsdp]
theorem osdpPort_updOsdp_ne (p : Nat) (f : OsdpPort → OsdpPort) (s : State) {j : Nat} (h : j ≠ p) : osdpPort (updOsdp p f s) j = osdpPort s j := by simp [osdpPort, updOsdp, Tbl.at_upd_ne _ _ _ _ h]

/-! ### updReader -/

@[simp] theorem updReader_pending (r : Nat) (f : Reader → Reader) (s : State) : (updReader r f s).pending = s.pending := rfl
@[simp] theorem updReader_now (r : Nat) (f : Reader → Reader) (s : State) : (updReader r f s).now = s.now := rfl
@[simp] theorem updReader_fresh (r : Nat) (f : Reader → Reader) (s : State) : (updReader r f s).fresh = s.fresh := rfl
@[simp] theorem updReader_reply (r : Nat) (f : Reader → Reader) (s : State) : (updReader r f s).reply = s.reply := rfl
@[simp] theorem updReader_arising (r : Nat) (f : Reader → Reader) (s : State) : (updReader r f s).arising = s.arising := rfl
@[simp] theorem updReader_sys (r : Nat) (f : Reader → Reader) (s : State) : (updReader r f s).sys = s.sys := rfl
@[simp] theorem updReader_mem (r : Nat) (f : Reader → Reader) (s : State) : (updReader r f s).mem = s.mem := rfl
@[simp] theorem updReader_img (r : Nat) (f : Reader → Reader) (s : State) : (updReader r f s).img = s.img := rfl
@[simp] theorem updReader_trl (r : Nat) (f : Reader → Reader) (s : State) : (updReader r f s).trl = s.trl := rfl
@[simp] theorem updReader_pge (r : Nat) (f : Reader → Reader) (s : State) : (updReader r f s).pge = s.pge := rfl
@[simp] theorem updReader_lpe (r : Nat) (f : Reader → Reader) (s : State) : (updReader r f s).lpe = s.lpe := rfl
@[simp] theorem updReader_prs (r : Nat) (f : Reader → Reader) (s : State) : (updReader r f s).prs = s.prs := rfl
@[simp] theorem updReader_saf (r : Nat) (f : Reader → Reader) (s : State) : (updReader r f s).saf = s.saf := rfl
@[simp] theorem updReader_cel (r : Nat) (f : Reader → Reader) (s : State) : (updReader r f s).cel = s.cel := rfl
@[simp] theorem updReader_key (r : Nat) (f : Reader → Reader) (s : State) : (updReader r f s).key = s.key := rfl
@[simp] theorem updReader_stn (r : Nat) (f : Reader → Reader) (s : State) : (updReader r f s).stn = s.stn := rfl
@[simp] theorem updReader_net (r : Nat) (f : Reader → Reader) (s : State) : (updReader r f s).net = s.net := rfl
@[simp] theorem updReader_tim (r : Nat) (f : Reader → Reader) (s : State) : (updReader r f s).tim = s.tim := rfl
@[simp] theorem updReader_upd (r : Nat) (f : Reader → Reader) (s : State) : (updReader r f s).upd = s.upd := rfl
@[simp] theorem updReader_pwr (r : Nat) (f : Reader → Reader) (s : State) : (updReader r f s).pwr = s.pwr := rfl
@[simp] theorem reader_updReader_self (r : Nat) (f : Reader → Reader) (s : State) : reader (updReader r f s) r = f (reader s r) := by simp [reader, updReader]
theorem reader_updReader_ne (r : Nat) (f : Reader → Reader) (s : State) {j : Nat} (h : j ≠ r) : reader (updReader r f s) j = reader s j := by simp [reader, updReader, Tbl.at_upd_ne _ _ _ _ h]

/-! ### updCan -/

@[simp] theorem updCan_pending (n : Nat) (f : CanCh → CanCh) (s : State) : (updCan n f s).pending = s.pending := rfl
@[simp] theorem updCan_now (n : Nat) (f : CanCh → CanCh) (s : State) : (updCan n f s).now = s.now := rfl
@[simp] theorem updCan_fresh (n : Nat) (f : CanCh → CanCh) (s : State) : (updCan n f s).fresh = s.fresh := rfl
@[simp] theorem updCan_reply (n : Nat) (f : CanCh → CanCh) (s : State) : (updCan n f s).reply = s.reply := rfl
@[simp] theorem updCan_arising (n : Nat) (f : CanCh → CanCh) (s : State) : (updCan n f s).arising = s.arising := rfl
@[simp] theorem updCan_sys (n : Nat) (f : CanCh → CanCh) (s : State) : (updCan n f s).sys = s.sys := rfl
@[simp] theorem updCan_mem (n : Nat) (f : CanCh → CanCh) (s : State) : (updCan n f s).mem = s.mem := rfl
@[simp] theorem updCan_img (n : Nat) (f : CanCh → CanCh) (s : State) : (updCan n f s).img = s.img := rfl
@[simp] theorem updCan_trl (n : Nat) (f : CanCh → CanCh) (s : State) : (updCan n f s).trl = s.trl := rfl
@[simp] theorem updCan_pge (n : Nat) (f : CanCh → CanCh) (s : State) : (updCan n f s).pge = s.pge := rfl
@[simp] theorem updCan_lpe (n : Nat) (f : CanCh → CanCh) (s : State) : (updCan n f s).lpe = s.lpe := rfl
@[simp] theorem updCan_prs (n : Nat) (f : CanCh → CanCh) (s : State) : (updCan n f s).prs = s.prs := rfl
@[simp] theorem updCan_saf (n : Nat) (f : CanCh → CanCh) (s : State) : (updCan n f s).saf = s.saf := rfl
@[simp] theorem updCan_cel (n : Nat) (f : CanCh → CanCh) (s : State) : (updCan n f s).cel = s.cel := rfl
@[simp] theorem updCan_key (n : Nat) (f : CanCh → CanCh) (s : State) : (updCan n f s).key = s.key := rfl
@[simp] theorem updCan_stn (n : Nat) (f : CanCh → CanCh) (s : State) : (updCan n f s).stn = s.stn := rfl
@[simp] theorem updCan_net (n : Nat) (f : CanCh → CanCh) (s : State) : (updCan n f s).net = s.net := rfl
@[simp] theorem updCan_tim (n : Nat) (f : CanCh → CanCh) (s : State) : (updCan n f s).tim = s.tim := rfl
@[simp] theorem updCan_upd (n : Nat) (f : CanCh → CanCh) (s : State) : (updCan n f s).upd = s.upd := rfl
@[simp] theorem updCan_pwr (n : Nat) (f : CanCh → CanCh) (s : State) : (updCan n f s).pwr = s.pwr := rfl
@[simp] theorem canCh_updCan_self (n : Nat) (f : CanCh → CanCh) (s : State) : canCh (updCan n f s) n = f (canCh s n) := by simp [canCh, updCan]
theorem canCh_updCan_ne (n : Nat) (f : CanCh → CanCh) (s : State) {j : Nat} (h : j ≠ n) : canCh (updCan n f s) j = canCh s j := by simp [canCh, updCan, Tbl.at_upd_ne _ _ _ _ h]

/-! ### setCelStatus -/

@[simp] theorem setCelStatus_pending (cask code : Nat) (s : State) : (setCelStatus cask code s).pending = s.pending := rfl
@[simp] theorem setCelStatus_now (cask code : Nat) (s : State) : (setCelStatus cask code s).now = s.now := rfl
@[simp] theorem setCelStatus_fresh (cask code : Nat) (s : State) : (setCelStatus cask code s).fresh = s.fresh := rfl
@[simp] theorem setCelStatus_reply (cask code : Nat) (s : State) : (setCelStatus cask code s).reply = s.reply := rfl
@[simp] theorem setCelStatus_arising (cask code : Nat) (s : State) : (setCelStatus cask code s).arising = s.arising := rfl
@[simp] theorem setCelStatus_sys (cask code : Nat) (s : State) : (setCelStatus cask code s).sys = s.sys := rfl
@[simp] theorem setCelStatus_mem (cask code : Nat) (s : State) : (setCelStatus cask code s).mem = s.mem := rfl
@[simp] theorem setCelStatus_img (cask code : Nat) (s : State) : (setCelStatus cask code s).img = s.img := rfl
@[simp] theorem setCelStatus_trl (cask code : Nat) (s : State) : (setCelStatus cask code s).trl = s.trl := rfl
@[simp] theorem setCelStatus_pge (cask code : Nat) (s : State) : (setCelStatus cask code s).pge = s.pge := rfl
@[simp] theorem setCelStatus_lpe (cask code : Nat) (s : State) : (setCelStatus cask code s).lpe = s.lpe := rfl
@[simp] theorem setCelStatus_prs (cask code : Nat) (s : State) : (setCelStatus cask code s).prs = s.prs := rfl
@[simp] theorem setCelStatus_saf (cask code : Nat) (s : State) : (setCelStatus cask code s).saf = s.saf := rfl
@[simp] theorem setCelStatus_key (cask code : Nat) (s : State) : (setCelStatus cask code s).key = s.key := rfl
@[simp] theorem setCelStatus_stn (cask code : Nat) (s : State) : (setCelStatus cask code s).stn = s.stn := rfl
@[simp] theorem setCelStatus_fbs (cask code : Nat) (s : State) : (setCelStatus cask code s).fbs = s.fbs := rfl
@[simp] theorem setCelStatus_net (cask code : Nat) (s : State) : (setCelStatus cask code s).net = s.net := rfl
@[simp] theorem setCelStatus_tim (cask code : Nat) (s : State) : (setCelStatus cask code s).tim = s.tim := rfl
@[simp] theorem setCelStatus_upd (cask code : Nat) (s : State) : (setCelStatus cask code s).upd = s.upd := rfl
@[simp] theorem setCelStatus_pwr (cask code : Nat) (s : State) : (setCelStatus cask code s).pwr = s.pwr := rfl

/-! ### updQBank -/

@[simp] theorem updQBank_pending (k : Nat) (f : QBank → QBank) (s : State) : (updQBank k f s).pending = s.pending := rfl
@[simp] theorem updQBank_now (k : Nat) (f : QBank → QBank) (s : State) : (updQBank k f s).now = s.now := rfl
@[simp] theorem updQBank_fresh (k : Nat) (f : QBank → QBank) (s : State) : (updQBank k f s).fresh = s.fresh := rfl
@[simp] theorem updQBank_reply (k : Nat) (f : QBank → QBank) (s : State) : (updQBank k f s).reply = s.reply := rfl
@[simp] theorem updQBank_arising (k : Nat) (f : QBank → QBank) (s : State) : (updQBank k f s).arising = s.arising := rfl
@[simp] theorem updQBank_sys (k : Nat) (f : QBank → QBank) (s : State) : (updQBank k f s).sys = s.sys := rfl
@[simp] theorem updQBank_mem (k : Nat) (f : QBank → QBank) (s : State) : (updQBank k f s).mem = s.mem := rfl
@[simp] theorem updQBank_img (k : Nat) (f : QBank → QBank) (s : State) : (updQBank k f s).img = s.img := rfl
@[simp] theorem updQBank_trl (k : Nat) (f : QBank → QBank) (s : State) : (updQBank k f s).trl = s.trl := rfl
@[simp] theorem updQBank_pge (k : Nat) (f : QBank → QBank) (s : State) : (updQBank k f s).pge = s.pge := rfl
@[simp] theorem updQBank_lpe (k : Nat) (f : QBank → QBank) (s : State) : (updQBank k f s).lpe = s.lpe := rfl
@[simp] theorem updQBank_prs (k : Nat) (f : QBank → QBank) (s : State) : (updQBank k f s).prs = s.prs := rfl
@[simp] theorem updQBank_saf (k : Nat) (f : QBank → QBank) (s : State) : (updQBank k f s).saf = s.saf := rfl
@[simp] theorem updQBank_key (k : Nat) (f : QBank → QBank) (s : State) : (updQBank k f s).key = s.key := rfl
@[simp] theorem updQBank_stn (k : Nat) (f : QBank → QBank) (s : State) : (updQBank k f s).stn = s.stn := rfl
@[simp] theorem updQBank_fbs (k : Nat) (f : QBank → QBank) (s : State) : (updQBank k f s).fbs = s.fbs := rfl
@[simp] theorem updQBank_net (k : Nat) (f : QBank → QBank) (s : State) : (updQBank k f s).net = s.net := rfl
@[simp] theorem updQBank_tim (k : Nat) (f : QBank → QBank) (s : State) : (updQBank k f s).tim = s.tim := rfl
@[simp] theorem updQBank_upd (k : Nat) (f : QBank → QBank) (s : State) : (updQBank k f s).upd = s.upd := rfl
@[simp] theorem updQBank_pwr (k : Nat) (f : QBank → QBank) (s : State) : (updQBank k f s).pwr = s.pwr := rfl
@[simp] theorem qBank_updQBank_self (k : Nat) (f : QBank → QBank) (s : State) : qBank (updQBank k f s) k = f (qBank s k) := by simp [qBank, updQBank]
theorem qBank_updQBank_ne (k : Nat) (f : QBank → QBank) (s : State) {j : Nat} (h : j ≠ k) : qBank (updQBank k f s) j = qBank s j := by simp [qBank, updQBank, Tbl.at_upd_ne _ _ _ _ h]

/-! ### updPort -/

@[simp] theorem updPort_pending (p : Port) (f : PortSt → PortSt) (s : State) : (updPort p f s).pending = s.pending := by cases p <;> rfl
@[simp] theorem updPort_now (p : Port) (f : PortSt → PortSt) (s : State) : (updPort p f s).now = s.now := by cases p <;> rfl
@[simp] theorem updPort_fresh (p : Port) (f : PortSt → PortSt) (s : State) : (updPort p f s).fresh = s.fresh := by cases p <;> rfl
@[simp] theorem updPort_reply (p : Port) (f : PortSt → PortSt) (s : State) : (updPort p f s).reply = s.reply := by cases p <;> rfl
@[simp] theorem updPort_arising (p : Port) (f : PortSt → PortSt) (s : State) : (updPort p f s).arising = s.arising := by cases p <;> rfl
@[simp] theorem updPort_sys (p : Port) (f : PortSt → PortSt) (s : State) : (updPort p f s).sys = s.sys := by cases p <;> rfl
@[simp] theorem updPort_mem (p : Port) (f : PortSt → PortSt) (s : State) : (updPort p f s).mem = s.mem := by cases p <;> rfl
@[simp] theorem updPort_img (p : Port) (f : PortSt → PortSt) (s : State) : (updPort p f s).img = s.img := by cases p <;> rfl
@[simp] theorem updPort_trl (p : Port) (f : PortSt → PortSt) (s : State) : (updPort p f s).trl = s.trl := by cases p <;> rfl
@[simp] theorem updPort_pge (p : Port) (f : PortSt → PortSt) (s : State) : (updPort p f s).pge = s.pge := by cases p <;> rfl
@[simp] theorem updPort_lpe (p : Port) (f : PortSt → PortSt) (s : State) : (updPort p f s).lpe = s.lpe := by cases p <;> rfl
@[simp] theorem updPort_prs (p : Port) (f : PortSt → PortSt) (s : State) : (updPort p f s).prs = s.prs := by cases p <;> rfl
@[simp] theorem updPort_saf (p : Port) (f : PortSt → PortSt) (s : State) : (updPort p f s).saf = s.saf := by cases p <;> rfl
@[simp] theorem updPort_cel (p : Port) (f : PortSt → PortSt) (s : State) : (updPort p f s).cel = s.cel := by cases p <;> rfl
@[simp] theorem updPort_key (p : Port) (f : PortSt → PortSt) (s : State) : (updPort p f s).key = s.key := by cases p <;> rfl
@[simp] theorem updPort_stn (p : Port) (f : PortSt → PortSt) (s : State) : (updPort p f s).stn = s.stn := by cases p <;> rfl
@[simp] theorem updPort_fbs (p : Port) (f : PortSt → PortSt) (s : State) : (updPort p f s).fbs = s.fbs := by cases p <;> rfl
@[simp] theorem updPort_tim (p : Port) (f : PortSt → PortSt) (s : State) : (updPort p f s).tim = s.tim := by cases p <;> rfl
@[simp] theorem updPort_upd (p : Port) (f : PortSt → PortSt) (s : State) : (updPort p f s).upd = s.upd := by cases p <;> rfl
@[simp] theorem updPort_pwr (p : Port) (f : PortSt → PortSt) (s : State) : (updPort p f s).pwr = s.pwr := by cases p <;> rfl

/-! ### updOp -/

@[simp] theorem updOp_pending (cask : Nat) (f : KOpBank → KOpBank) (s : State) : (updOp cask f s).pending = s.pending := rfl
@[simp] theorem updOp_now (cask : Nat) (f : KOpBank → KOpBank) (s : State) : (updOp cask f s).now = s.now := rfl
@[simp] theorem updOp_fresh (cask : Nat) (f : KOpBank → KOpBank) (s : State) : (updOp cask f s).fresh = s.fresh := rfl
@[simp] theorem updOp_reply (cask : Nat) (f : KOpBank → KOpBank) (s : State) : (updOp cask f s).reply = s.reply := rfl
@[simp] theorem updOp_arising (cask : Nat) (f : KOpBank → KOpBank) (s : State) : (updOp cask f s).arising = s.arising := rfl
@[simp] theorem updOp_sys (cask : Nat) (f : KOpBank → KOpBank) (s : State) : (updOp cask f s).sys = s.sys := rfl
@[simp] theorem updOp_mem (cask : Nat) (f : KOpBank → KOpBank) (s : State) : (updOp cask f s).mem = s.mem := rfl
@[simp] theorem updOp_img (cask : Nat) (f : KOpBank → KOpBank) (s : State) : (updOp cask f s).img = s.img := rfl
@[simp] theorem updOp_trl (cask : Nat) (f : KOpBank → KOpBank) (s : State) : (updOp cask f s).trl = s.trl := rfl
@[simp] theorem updOp_pge (cask : Nat) (f : KOpBank → KOpBank) (s : State) : (updOp cask f s).pge = s.pge := rfl
@[simp] theorem updOp_lpe (cask : Nat) (f : KOpBank → KOpBank) (s : State) : (updOp cask f s).lpe = s.lpe := rfl
@[simp] theorem updOp_prs (cask : Nat) (f : KOpBank → KOpBank) (s : State) : (updOp cask f s).prs = s.prs := rfl
@[simp] theorem updOp_saf (cask : Nat) (f : KOpBank → KOpBank) (s : State) : (updOp cask f s).saf = s.saf := rfl
@[simp] theorem updOp_cel (cask : Nat) (f : KOpBank → KOpBank) (s : State) : (updOp cask f s).cel = s.cel := rfl
@[simp] theorem updOp_stn (cask : Nat) (f : KOpBank → KOpBank) (s : State) : (updOp cask f s).stn = s.stn := rfl
@[simp] theorem updOp_fbs (cask : Nat) (f : KOpBank → KOpBank) (s : State) : (updOp cask f s).fbs = s.fbs := rfl
@[simp] theorem updOp_net (cask : Nat) (f : KOpBank → KOpBank) (s : State) : (updOp cask f s).net = s.net := rfl
@[simp] theorem updOp_tim (cask : Nat) (f : KOpBank → KOpBank) (s : State) : (updOp cask f s).tim = s.tim := rfl
@[simp] theorem updOp_upd (cask : Nat) (f : KOpBank → KOpBank) (s : State) : (updOp cask f s).upd = s.upd := rfl
@[simp] theorem updOp_pwr (cask : Nat) (f : KOpBank → KOpBank) (s : State) : (updOp cask f s).pwr = s.pwr := rfl
@[simp] theorem opBank_updOp_self (cask : Nat) (f : KOpBank → KOpBank) (s : State) : opBank (updOp cask f s) cask = f (opBank s cask) := by simp [opBank, updOp]
theorem opBank_updOp_ne (cask : Nat) (f : KOpBank → KOpBank) (s : State) {j : Nat} (h : j ≠ cask) : opBank (updOp cask f s) j = opBank s j := by simp [opBank, updOp, Tbl.at_upd_ne _ _ _ _ h]

/-! ### updShadow -/

@[simp] theorem updShadow_pending (n : Nat) (f : Shadow → Shadow) (s : State) : (updShadow n f s).pending = s.pending := rfl
@[simp] theorem updShadow_now (n : Nat) (f : Shadow → Shadow) (s : State) : (updShadow n f s).now = s.now := rfl
@[simp] theorem updShadow_fresh (n : Nat) (f : Shadow → Shadow) (s : State) : (updShadow n f s).fresh = s.fresh := rfl
@[simp] theorem updShadow_reply (n : Nat) (f : Shadow → Shadow) (s : State) : (updShadow n f s).reply = s.reply := rfl
@[simp] theorem updShadow_arising (n : Nat) (f : Shadow → Shadow) (s : State) : (updShadow n f s).arising = s.arising := rfl
@[simp] theorem updShadow_sys (n : Nat) (f : Shadow → Shadow) (s : State) : (updShadow n f s).sys = s.sys := rfl
@[simp] theorem updShadow_mem (n : Nat) (f : Shadow → Shadow) (s : State) : (updShadow n f s).mem = s.mem := rfl
@[simp] theorem updShadow_img (n : Nat) (f : Shadow → Shadow) (s : State) : (updShadow n f s).img = s.img := rfl
@[simp] theorem updShadow_trl (n : Nat) (f : Shadow → Shadow) (s : State) : (updShadow n f s).trl = s.trl := rfl
@[simp] theorem updShadow_pge (n : Nat) (f : Shadow → Shadow) (s : State) : (updShadow n f s).pge = s.pge := rfl
@[simp] theorem updShadow_prs (n : Nat) (f : Shadow → Shadow) (s : State) : (updShadow n f s).prs = s.prs := rfl
@[simp] theorem updShadow_saf (n : Nat) (f : Shadow → Shadow) (s : State) : (updShadow n f s).saf = s.saf := rfl
@[simp] theorem updShadow_cel (n : Nat) (f : Shadow → Shadow) (s : State) : (updShadow n f s).cel = s.cel := rfl
@[simp] theorem updShadow_key (n : Nat) (f : Shadow → Shadow) (s : State) : (updShadow n f s).key = s.key := rfl
@[simp] theorem updShadow_stn (n : Nat) (f : Shadow → Shadow) (s : State) : (updShadow n f s).stn = s.stn := rfl
@[simp] theorem updShadow_fbs (n : Nat) (f : Shadow → Shadow) (s : State) : (updShadow n f s).fbs = s.fbs := rfl
@[simp] theorem updShadow_net (n : Nat) (f : Shadow → Shadow) (s : State) : (updShadow n f s).net = s.net := rfl
@[simp] theorem updShadow_tim (n : Nat) (f : Shadow → Shadow) (s : State) : (updShadow n f s).tim = s.tim := rfl
@[simp] theorem updShadow_upd (n : Nat) (f : Shadow → Shadow) (s : State) : (updShadow n f s).upd = s.upd := rfl
@[simp] theorem updShadow_pwr (n : Nat) (f : Shadow → Shadow) (s : State) : (updShadow n f s).pwr = s.pwr := rfl
@[simp] theorem shadow_updShadow_self (n : Nat) (f : Shadow → Shadow) (s : State) : shadow (updShadow n f s) n = f (shadow s n) := by simp [shadow, updShadow]
theorem shadow_updShadow_ne (n : Nat) (f : Shadow → Shadow) (s : State) {j : Nat} (h : j ≠ n) : shadow (updShadow n f s) j = shadow s j := by simp [shadow, updShadow, Tbl.at_upd_ne _ _ _ _ h]

/-! ### setLpeStatus -/

@[simp] theorem setLpeStatus_pending (iss : Issuer) (code : Nat) (s : State) : (setLpeStatus iss code s).pending = s.pending := rfl
@[simp] theorem setLpeStatus_now (iss : Issuer) (code : Nat) (s : State) : (setLpeStatus iss code s).now = s.now := rfl
@[simp] theorem setLpeStatus_fresh (iss : Issuer) (code : Nat) (s : State) : (setLpeStatus iss code s).fresh = s.fresh := rfl
@[simp] theorem setLpeStatus_arising (iss : Issuer) (code : Nat) (s : State) : (setLpeStatus iss code s).arising = s.arising := rfl
@[simp] theorem setLpeStatus_sys (iss : Issuer) (code : Nat) (s : State) : (setLpeStatus iss code s).sys = s.sys := rfl
@[simp] theorem setLpeStatus_mem (iss : Issuer) (code : Nat) (s : State) : (setLpeStatus iss code s).mem = s.mem := rfl
@[simp] theorem setLpeStatus_img (iss : Issuer) (code : Nat) (s : State) : (setLpeStatus iss code s).img = s.img := rfl
@[simp] theorem setLpeStatus_trl (iss : Issuer) (code : Nat) (s : State) : (setLpeStatus iss code s).trl = s.trl := rfl
@[simp] theorem setLpeStatus_pge (iss : Issuer) (code : Nat) (s : State) : (setLpeStatus iss code s).pge = s.pge := rfl
@[simp] theorem setLpeStatus_prs (iss : Issuer) (code : Nat) (s : State) : (setLpeStatus iss code s).prs = s.prs := rfl
@[simp] theorem setLpeStatus_saf (iss : Issuer) (code : Nat) (s : State) : (setLpeStatus iss code s).saf = s.saf := rfl
@[simp] theorem setLpeStatus_cel (iss : Issuer) (code : Nat) (s : State) : (setLpeStatus iss code s).cel = s.cel := rfl
@[simp] theorem setLpeStatus_key (iss : Issuer) (code : Nat) (s : State) : (setLpeStatus iss code s).key = s.key := rfl
@[simp] theorem setLpeStatus_stn (iss : Issuer) (code : Nat) (s : State) : (setLpeStatus iss code s).stn = s.stn := rfl
@[simp] theorem setLpeStatus_fbs (iss : Issuer) (code : Nat) (s : State) : (setLpeStatus iss code s).fbs = s.fbs := rfl
@[simp] theorem setLpeStatus_net (iss : Issuer) (code : Nat) (s : State) : (setLpeStatus iss code s).net = s.net := rfl
@[simp] theorem setLpeStatus_tim (iss : Issuer) (code : Nat) (s : State) : (setLpeStatus iss code s).tim = s.tim := rfl
@[simp] theorem setLpeStatus_upd (iss : Issuer) (code : Nat) (s : State) : (setLpeStatus iss code s).upd = s.upd := rfl
@[simp] theorem setLpeStatus_pwr (iss : Issuer) (code : Nat) (s : State) : (setLpeStatus iss code s).pwr = s.pwr := rfl

/-! ### setRtCode -/

@[simp] theorem setRtCode_pending (code : Nat) (s : State) : (setRtCode code s).pending = s.pending := rfl
@[simp] theorem setRtCode_now (code : Nat) (s : State) : (setRtCode code s).now = s.now := rfl
@[simp] theorem setRtCode_fresh (code : Nat) (s : State) : (setRtCode code s).fresh = s.fresh := rfl
@[simp] theorem setRtCode_arising (code : Nat) (s : State) : (setRtCode code s).arising = s.arising := rfl
@[simp] theorem setRtCode_sys (code : Nat) (s : State) : (setRtCode code s).sys = s.sys := rfl
@[simp] theorem setRtCode_mem (code : Nat) (s : State) : (setRtCode code s).mem = s.mem := rfl
@[simp] theorem setRtCode_img (code : Nat) (s : State) : (setRtCode code s).img = s.img := rfl
@[simp] theorem setRtCode_trl (code : Nat) (s : State) : (setRtCode code s).trl = s.trl := rfl
@[simp] theorem setRtCode_pge (code : Nat) (s : State) : (setRtCode code s).pge = s.pge := rfl
@[simp] theorem setRtCode_prs (code : Nat) (s : State) : (setRtCode code s).prs = s.prs := rfl
@[simp] theorem setRtCode_saf (code : Nat) (s : State) : (setRtCode code s).saf = s.saf := rfl
@[simp] theorem setRtCode_cel (code : Nat) (s : State) : (setRtCode code s).cel = s.cel := rfl
@[simp] theorem setRtCode_key (code : Nat) (s : State) : (setRtCode code s).key = s.key := rfl
@[simp] theorem setRtCode_stn (code : Nat) (s : State) : (setRtCode code s).stn = s.stn := rfl
@[simp] theorem setRtCode_fbs (code : Nat) (s : State) : (setRtCode code s).fbs = s.fbs := rfl
@[simp] theorem setRtCode_net (code : Nat) (s : State) : (setRtCode code s).net = s.net := rfl
@[simp] theorem setRtCode_tim (code : Nat) (s : State) : (setRtCode code s).tim = s.tim := rfl
@[simp] theorem setRtCode_upd (code : Nat) (s : State) : (setRtCode code s).upd = s.upd := rfl
@[simp] theorem setRtCode_pwr (code : Nat) (s : State) : (setRtCode code s).pwr = s.pwr := rfl

/-! ### updSlot -/

@[simp] theorem updSlot_pending (n : Nat) (f : LoopSlot → LoopSlot) (s : State) : (updSlot n f s).pending = s.pending := by unfold updSlot; split <;> rfl
@[simp] theorem updSlot_now (n : Nat) (f : LoopSlot → LoopSlot) (s : State) : (updSlot n f s).now = s.now := by unfold updSlot; split <;> rfl
@[simp] theorem updSlot_fresh (n : Nat) (f : LoopSlot → LoopSlot) (s : State) : (updSlot n f s).fresh = s.fresh := by unfold updSlot; split <;> rfl
@[simp] theorem updSlot_reply (n : Nat) (f : LoopSlot → LoopSlot) (s : State) : (updSlot n f s).reply = s.reply := by unfold updSlot; split <;> rfl
@[simp] theorem updSlot_arising (n : Nat) (f : LoopSlot → LoopSlot) (s : State) : (updSlot n f s).arising = s.arising := by unfold updSlot; split <;> rfl
@[simp] theorem updSlot_sys (n : Nat) (f : LoopSlot → LoopSlot) (s : State) : (updSlot n f s).sys = s.sys := by unfold updSlot; split <;> rfl
@[simp] theorem updSlot_mem (n : Nat) (f : LoopSlot → LoopSlot) (s : State) : (updSlot n f s).mem = s.mem := by unfold updSlot; split <;> rfl
@[simp] theorem updSlot_img (n : Nat) (f : LoopSlot → LoopSlot) (s : State) : (updSlot n f s).img = s.img := by unfold updSlot; split <;> rfl
@[simp] theorem updSlot_trl (n : Nat) (f : LoopSlot → LoopSlot) (s : State) : (updSlot n f s).trl = s.trl := by unfold updSlot; split <;> rfl
@[simp] theorem updSlot_pge (n : Nat) (f : LoopSlot → LoopSlot) (s : State) : (updSlot n f s).pge = s.pge := by unfold updSlot; split <;> rfl
@[simp] theorem updSlot_prs (n : Nat) (f : LoopSlot → LoopSlot) (s : State) : (updSlot n f s).prs = s.prs := by unfold updSlot; split <;> rfl
@[simp] theorem updSlot_saf (n : Nat) (f : LoopSlot → LoopSlot) (s : State) : (updSlot n f s).saf = s.saf := by unfold updSlot; split <;> rfl
@[simp] theorem updSlot_cel (n : Nat) (f : LoopSlot → LoopSlot) (s : State) : (updSlot n f s).cel = s.cel := by unfold updSlot; split <;> rfl
@[simp] theorem updSlot_key (n : Nat) (f : LoopSlot → LoopSlot) (s : State) : (updSlot n f s).key = s.key := by unfold updSlot; split <;> rfl
@[simp] theorem updSlot_stn (n : Nat) (f : LoopSlot → LoopSlot) (s : State) : (updSlot n f s).stn = s.stn := by unfold updSlot; split <;> rfl
@[simp] theorem updSlot_fbs (n : Nat) (f : LoopSlot → LoopSlot) (s : State) : (updSlot n f s).fbs = s.fbs := by unfold updSlot; split <;> rfl
@[simp] theorem updSlot_net (n : Nat) (f : LoopSlot → LoopSlot) (s : State) : (updSlot n f s).net = s.net := by unfold updSlot; split <;> rfl
@[simp] theorem updSlot_tim (n : Nat) (f : LoopSlot → LoopSlot) (s : State) : (updSlot n f s).tim = s.tim := by unfold updSlot; split <;> rfl
@[simp] theorem updSlot_upd (n : Nat) (f : LoopSlot → LoopSlot) (s : State) : (updSlot n f s).upd = s.upd := by unfold updSlot; split <;> rfl
@[simp] theorem updSlot_pwr (n : Nat) (f : LoopSlot → LoopSlot) (s : State) : (updSlot n f s).pwr = s.pwr := by unfold updSlot; split <;> rfl

/-! ### setCtl -/

@[simp] theorem setCtl_pending (b : Block) (off : Nat) (w : Word) (s : State) : (setCtl b off w s).pending = s.pending := rfl
@[simp] theorem setCtl_now (b : Block) (off : Nat) (w : Word) (s : State) : (setCtl b off w s).now = s.now := rfl
@[simp] theorem setCtl_fresh (b : Block) (off : Nat) (w : Word) (s : State) : (setCtl b off w s).fresh = s.fresh := rfl
@[simp] theorem setCtl_reply (b : Block) (off : Nat) (w : Word) (s : State) : (setCtl b off w s).reply = s.reply := rfl
@[simp] theorem setCtl_arising (b : Block) (off : Nat) (w : Word) (s : State) : (setCtl b off w s).arising = s.arising := rfl
@[simp] theorem setCtl_mem (b : Block) (off : Nat) (w : Word) (s : State) : (setCtl b off w s).mem = s.mem := rfl
@[simp] theorem setCtl_img (b : Block) (off : Nat) (w : Word) (s : State) : (setCtl b off w s).img = s.img := rfl
@[simp] theorem setCtl_trl (b : Block) (off : Nat) (w : Word) (s : State) : (setCtl b off w s).trl = s.trl := rfl
@[simp] theorem setCtl_pge (b : Block) (off : Nat) (w : Word) (s : State) : (setCtl b off w s).pge = s.pge := rfl
@[simp] theorem setCtl_lpe (b : Block) (off : Nat) (w : Word) (s : State) : (setCtl b off w s).lpe = s.lpe := rfl
@[simp] theorem setCtl_prs (b : Block) (off : Nat) (w : Word) (s : State) : (setCtl b off w s).prs = s.prs := rfl
@[simp] theorem setCtl_saf (b : Block) (off : Nat) (w : Word) (s : State) : (setCtl b off w s).saf = s.saf := rfl
@[simp] theorem setCtl_cel (b : Block) (off : Nat) (w : Word) (s : State) : (setCtl b off w s).cel = s.cel := rfl
@[simp] theorem setCtl_key (b : Block) (off : Nat) (w : Word) (s : State) : (setCtl b off w s).key = s.key := rfl
@[simp] theorem setCtl_stn (b : Block) (off : Nat) (w : Word) (s : State) : (setCtl b off w s).stn = s.stn := rfl
@[simp] theorem setCtl_fbs (b : Block) (off : Nat) (w : Word) (s : State) : (setCtl b off w s).fbs = s.fbs := rfl
@[simp] theorem setCtl_net (b : Block) (off : Nat) (w : Word) (s : State) : (setCtl b off w s).net = s.net := rfl
@[simp] theorem setCtl_tim (b : Block) (off : Nat) (w : Word) (s : State) : (setCtl b off w s).tim = s.tim := rfl
@[simp] theorem setCtl_upd (b : Block) (off : Nat) (w : Word) (s : State) : (setCtl b off w s).upd = s.upd := rfl
@[simp] theorem setCtl_pwr (b : Block) (off : Nat) (w : Word) (s : State) : (setCtl b off w s).pwr = s.pwr := rfl

/-! ### bumpFree -/

@[simp] theorem bumpFree_pending (s : State) : (bumpFree s).pending = s.pending := rfl
@[simp] theorem bumpFree_now (s : State) : (bumpFree s).now = s.now := rfl
@[simp] theorem bumpFree_reply (s : State) : (bumpFree s).reply = s.reply := rfl
@[simp] theorem bumpFree_arising (s : State) : (bumpFree s).arising = s.arising := rfl
@[simp] theorem bumpFree_sys (s : State) : (bumpFree s).sys = s.sys := rfl
@[simp] theorem bumpFree_mem (s : State) : (bumpFree s).mem = s.mem := rfl
@[simp] theorem bumpFree_img (s : State) : (bumpFree s).img = s.img := rfl
@[simp] theorem bumpFree_trl (s : State) : (bumpFree s).trl = s.trl := rfl
@[simp] theorem bumpFree_pge (s : State) : (bumpFree s).pge = s.pge := rfl
@[simp] theorem bumpFree_lpe (s : State) : (bumpFree s).lpe = s.lpe := rfl
@[simp] theorem bumpFree_prs (s : State) : (bumpFree s).prs = s.prs := rfl
@[simp] theorem bumpFree_saf (s : State) : (bumpFree s).saf = s.saf := rfl
@[simp] theorem bumpFree_cel (s : State) : (bumpFree s).cel = s.cel := rfl
@[simp] theorem bumpFree_key (s : State) : (bumpFree s).key = s.key := rfl
@[simp] theorem bumpFree_stn (s : State) : (bumpFree s).stn = s.stn := rfl
@[simp] theorem bumpFree_fbs (s : State) : (bumpFree s).fbs = s.fbs := rfl
@[simp] theorem bumpFree_net (s : State) : (bumpFree s).net = s.net := rfl
@[simp] theorem bumpFree_tim (s : State) : (bumpFree s).tim = s.tim := rfl
@[simp] theorem bumpFree_upd (s : State) : (bumpFree s).upd = s.upd := rfl
@[simp] theorem bumpFree_pwr (s : State) : (bumpFree s).pwr = s.pwr := rfl

/-! ### setIsl -/

@[simp] theorem setIsl_pending (i : Island) (st : IslandState) (s : State) : (setIsl i st s).pending = s.pending := rfl
@[simp] theorem setIsl_now (i : Island) (st : IslandState) (s : State) : (setIsl i st s).now = s.now := rfl
@[simp] theorem setIsl_fresh (i : Island) (st : IslandState) (s : State) : (setIsl i st s).fresh = s.fresh := rfl
@[simp] theorem setIsl_reply (i : Island) (st : IslandState) (s : State) : (setIsl i st s).reply = s.reply := rfl
@[simp] theorem setIsl_arising (i : Island) (st : IslandState) (s : State) : (setIsl i st s).arising = s.arising := rfl
@[simp] theorem setIsl_mem (i : Island) (st : IslandState) (s : State) : (setIsl i st s).mem = s.mem := rfl
@[simp] theorem setIsl_img (i : Island) (st : IslandState) (s : State) : (setIsl i st s).img = s.img := rfl
@[simp] theorem setIsl_trl (i : Island) (st : IslandState) (s : State) : (setIsl i st s).trl = s.trl := rfl
@[simp] theorem setIsl_pge (i : Island) (st : IslandState) (s : State) : (setIsl i st s).pge = s.pge := rfl
@[simp] theorem setIsl_lpe (i : Island) (st : IslandState) (s : State) : (setIsl i st s).lpe = s.lpe := rfl
@[simp] theorem setIsl_prs (i : Island) (st : IslandState) (s : State) : (setIsl i st s).prs = s.prs := rfl
@[simp] theorem setIsl_saf (i : Island) (st : IslandState) (s : State) : (setIsl i st s).saf = s.saf := rfl
@[simp] theorem setIsl_cel (i : Island) (st : IslandState) (s : State) : (setIsl i st s).cel = s.cel := rfl
@[simp] theorem setIsl_key (i : Island) (st : IslandState) (s : State) : (setIsl i st s).key = s.key := rfl
@[simp] theorem setIsl_stn (i : Island) (st : IslandState) (s : State) : (setIsl i st s).stn = s.stn := rfl
@[simp] theorem setIsl_fbs (i : Island) (st : IslandState) (s : State) : (setIsl i st s).fbs = s.fbs := rfl
@[simp] theorem setIsl_net (i : Island) (st : IslandState) (s : State) : (setIsl i st s).net = s.net := rfl
@[simp] theorem setIsl_tim (i : Island) (st : IslandState) (s : State) : (setIsl i st s).tim = s.tim := rfl
@[simp] theorem setIsl_upd (i : Island) (st : IslandState) (s : State) : (setIsl i st s).upd = s.upd := rfl
@[simp] theorem setIsl_pwr (i : Island) (st : IslandState) (s : State) : (setIsl i st s).pwr = s.pwr := rfl

/-! ### recordF -/

@[simp] theorem recordF_pending (code cask flags : Nat) (data : List Byte) (s : State) : (recordF code cask flags data s).pending = s.pending := rfl
@[simp] theorem recordF_now (code cask flags : Nat) (data : List Byte) (s : State) : (recordF code cask flags data s).now = s.now := rfl
@[simp] theorem recordF_fresh (code cask flags : Nat) (data : List Byte) (s : State) : (recordF code cask flags data s).fresh = s.fresh := rfl
@[simp] theorem recordF_reply (code cask flags : Nat) (data : List Byte) (s : State) : (recordF code cask flags data s).reply = s.reply := rfl
@[simp] theorem recordF_sys (code cask flags : Nat) (data : List Byte) (s : State) : (recordF code cask flags data s).sys = s.sys := rfl
@[simp] theorem recordF_mem (code cask flags : Nat) (data : List Byte) (s : State) : (recordF code cask flags data s).mem = s.mem := rfl
@[simp] theorem recordF_img (code cask flags : Nat) (data : List Byte) (s : State) : (recordF code cask flags data s).img = s.img := rfl
@[simp] theorem recordF_trl (code cask flags : Nat) (data : List Byte) (s : State) : (recordF code cask flags data s).trl = s.trl := rfl
@[simp] theorem recordF_pge (code cask flags : Nat) (data : List Byte) (s : State) : (recordF code cask flags data s).pge = s.pge := rfl
@[simp] theorem recordF_lpe (code cask flags : Nat) (data : List Byte) (s : State) : (recordF code cask flags data s).lpe = s.lpe := rfl
@[simp] theorem recordF_prs (code cask flags : Nat) (data : List Byte) (s : State) : (recordF code cask flags data s).prs = s.prs := rfl
@[simp] theorem recordF_saf (code cask flags : Nat) (data : List Byte) (s : State) : (recordF code cask flags data s).saf = s.saf := rfl
@[simp] theorem recordF_cel (code cask flags : Nat) (data : List Byte) (s : State) : (recordF code cask flags data s).cel = s.cel := rfl
@[simp] theorem recordF_key (code cask flags : Nat) (data : List Byte) (s : State) : (recordF code cask flags data s).key = s.key := rfl
@[simp] theorem recordF_stn (code cask flags : Nat) (data : List Byte) (s : State) : (recordF code cask flags data s).stn = s.stn := rfl
@[simp] theorem recordF_fbs (code cask flags : Nat) (data : List Byte) (s : State) : (recordF code cask flags data s).fbs = s.fbs := rfl
@[simp] theorem recordF_net (code cask flags : Nat) (data : List Byte) (s : State) : (recordF code cask flags data s).net = s.net := rfl
@[simp] theorem recordF_tim (code cask flags : Nat) (data : List Byte) (s : State) : (recordF code cask flags data s).tim = s.tim := rfl
@[simp] theorem recordF_upd (code cask flags : Nat) (data : List Byte) (s : State) : (recordF code cask flags data s).upd = s.upd := rfl
@[simp] theorem recordF_pwr (code cask flags : Nat) (data : List Byte) (s : State) : (recordF code cask flags data s).pwr = s.pwr := rfl

/-! ### record -/

@[simp] theorem record_pending (code cask : Nat) (data : List Byte) (s : State) : (record code cask data s).pending = s.pending := rfl
@[simp] theorem record_fresh (code cask : Nat) (data : List Byte) (s : State) : (record code cask data s).fresh = s.fresh := rfl
@[simp] theorem record_reply (code cask : Nat) (data : List Byte) (s : State) : (record code cask data s).reply = s.reply := rfl
@[simp] theorem record_sys (code cask : Nat) (data : List Byte) (s : State) : (record code cask data s).sys = s.sys := rfl
@[simp] theorem record_mem (code cask : Nat) (data : List Byte) (s : State) : (record code cask data s).mem = s.mem := rfl
@[simp] theorem record_img (code cask : Nat) (data : List Byte) (s : State) : (record code cask data s).img = s.img := rfl
@[simp] theorem record_trl (code cask : Nat) (data : List Byte) (s : State) : (record code cask data s).trl = s.trl := rfl
@[simp] theorem record_pge (code cask : Nat) (data : List Byte) (s : State) : (record code cask data s).pge = s.pge := rfl
@[simp] theorem record_lpe (code cask : Nat) (data : List Byte) (s : State) : (record code cask data s).lpe = s.lpe := rfl
@[simp] theorem record_prs (code cask : Nat) (data : List Byte) (s : State) : (record code cask data s).prs = s.prs := rfl
@[simp] theorem record_saf (code cask : Nat) (data : List Byte) (s : State) : (record code cask data s).saf = s.saf := rfl
@[simp] theorem record_cel (code cask : Nat) (data : List Byte) (s : State) : (record code cask data s).cel = s.cel := rfl
@[simp] theorem record_key (code cask : Nat) (data : List Byte) (s : State) : (record code cask data s).key = s.key := rfl
@[simp] theorem record_stn (code cask : Nat) (data : List Byte) (s : State) : (record code cask data s).stn = s.stn := rfl
@[simp] theorem record_fbs (code cask : Nat) (data : List Byte) (s : State) : (record code cask data s).fbs = s.fbs := rfl
@[simp] theorem record_net (code cask : Nat) (data : List Byte) (s : State) : (record code cask data s).net = s.net := rfl
@[simp] theorem record_tim (code cask : Nat) (data : List Byte) (s : State) : (record code cask data s).tim = s.tim := rfl
@[simp] theorem record_upd (code cask : Nat) (data : List Byte) (s : State) : (record code cask data s).upd = s.upd := rfl
@[simp] theorem record_pwr (code cask : Nat) (data : List Byte) (s : State) : (record code cask data s).pwr = s.pwr := rfl

/-! ### setLaneQ -/

@[simp] theorem setLaneQ_pending (l : Lane) (q : List Transfer) (s : State) : (setLaneQ l q s).pending = s.pending := rfl
@[simp] theorem setLaneQ_now (l : Lane) (q : List Transfer) (s : State) : (setLaneQ l q s).now = s.now := rfl
@[simp] theorem setLaneQ_fresh (l : Lane) (q : List Transfer) (s : State) : (setLaneQ l q s).fresh = s.fresh := rfl
@[simp] theorem setLaneQ_reply (l : Lane) (q : List Transfer) (s : State) : (setLaneQ l q s).reply = s.reply := rfl
@[simp] theorem setLaneQ_arising (l : Lane) (q : List Transfer) (s : State) : (setLaneQ l q s).arising = s.arising := rfl
@[simp] theorem setLaneQ_mem (l : Lane) (q : List Transfer) (s : State) : (setLaneQ l q s).mem = s.mem := rfl
@[simp] theorem setLaneQ_img (l : Lane) (q : List Transfer) (s : State) : (setLaneQ l q s).img = s.img := rfl
@[simp] theorem setLaneQ_trl (l : Lane) (q : List Transfer) (s : State) : (setLaneQ l q s).trl = s.trl := rfl
@[simp] theorem setLaneQ_pge (l : Lane) (q : List Transfer) (s : State) : (setLaneQ l q s).pge = s.pge := rfl
@[simp] theorem setLaneQ_lpe (l : Lane) (q : List Transfer) (s : State) : (setLaneQ l q s).lpe = s.lpe := rfl
@[simp] theorem setLaneQ_prs (l : Lane) (q : List Transfer) (s : State) : (setLaneQ l q s).prs = s.prs := rfl
@[simp] theorem setLaneQ_saf (l : Lane) (q : List Transfer) (s : State) : (setLaneQ l q s).saf = s.saf := rfl
@[simp] theorem setLaneQ_cel (l : Lane) (q : List Transfer) (s : State) : (setLaneQ l q s).cel = s.cel := rfl
@[simp] theorem setLaneQ_key (l : Lane) (q : List Transfer) (s : State) : (setLaneQ l q s).key = s.key := rfl
@[simp] theorem setLaneQ_stn (l : Lane) (q : List Transfer) (s : State) : (setLaneQ l q s).stn = s.stn := rfl
@[simp] theorem setLaneQ_fbs (l : Lane) (q : List Transfer) (s : State) : (setLaneQ l q s).fbs = s.fbs := rfl
@[simp] theorem setLaneQ_net (l : Lane) (q : List Transfer) (s : State) : (setLaneQ l q s).net = s.net := rfl
@[simp] theorem setLaneQ_tim (l : Lane) (q : List Transfer) (s : State) : (setLaneQ l q s).tim = s.tim := rfl
@[simp] theorem setLaneQ_upd (l : Lane) (q : List Transfer) (s : State) : (setLaneQ l q s).upd = s.upd := rfl
@[simp] theorem setLaneQ_pwr (l : Lane) (q : List Transfer) (s : State) : (setLaneQ l q s).pwr = s.pwr := rfl

/-! ### updDom -/

@[simp] theorem updDom_pending (n : Nat) (f : Dom → Dom) (s : State) : (updDom n f s).pending = s.pending := rfl
@[simp] theorem updDom_fresh (n : Nat) (f : Dom → Dom) (s : State) : (updDom n f s).fresh = s.fresh := rfl
@[simp] theorem updDom_reply (n : Nat) (f : Dom → Dom) (s : State) : (updDom n f s).reply = s.reply := rfl
@[simp] theorem updDom_arising (n : Nat) (f : Dom → Dom) (s : State) : (updDom n f s).arising = s.arising := rfl
@[simp] theorem updDom_sys (n : Nat) (f : Dom → Dom) (s : State) : (updDom n f s).sys = s.sys := rfl
@[simp] theorem updDom_mem (n : Nat) (f : Dom → Dom) (s : State) : (updDom n f s).mem = s.mem := rfl
@[simp] theorem updDom_img (n : Nat) (f : Dom → Dom) (s : State) : (updDom n f s).img = s.img := rfl
@[simp] theorem updDom_trl (n : Nat) (f : Dom → Dom) (s : State) : (updDom n f s).trl = s.trl := rfl
@[simp] theorem updDom_pge (n : Nat) (f : Dom → Dom) (s : State) : (updDom n f s).pge = s.pge := rfl
@[simp] theorem updDom_lpe (n : Nat) (f : Dom → Dom) (s : State) : (updDom n f s).lpe = s.lpe := rfl
@[simp] theorem updDom_prs (n : Nat) (f : Dom → Dom) (s : State) : (updDom n f s).prs = s.prs := rfl
@[simp] theorem updDom_saf (n : Nat) (f : Dom → Dom) (s : State) : (updDom n f s).saf = s.saf := rfl
@[simp] theorem updDom_cel (n : Nat) (f : Dom → Dom) (s : State) : (updDom n f s).cel = s.cel := rfl
@[simp] theorem updDom_key (n : Nat) (f : Dom → Dom) (s : State) : (updDom n f s).key = s.key := rfl
@[simp] theorem updDom_stn (n : Nat) (f : Dom → Dom) (s : State) : (updDom n f s).stn = s.stn := rfl
@[simp] theorem updDom_fbs (n : Nat) (f : Dom → Dom) (s : State) : (updDom n f s).fbs = s.fbs := rfl
@[simp] theorem updDom_net (n : Nat) (f : Dom → Dom) (s : State) : (updDom n f s).net = s.net := rfl
@[simp] theorem updDom_upd (n : Nat) (f : Dom → Dom) (s : State) : (updDom n f s).upd = s.upd := rfl
@[simp] theorem updDom_pwr (n : Nat) (f : Dom → Dom) (s : State) : (updDom n f s).pwr = s.pwr := rfl

/-! ### setPt -/

@[simp] theorem setPt_pending (i : Nat) (p : Point) (s : State) : (setPt i p s).pending = s.pending := rfl
@[simp] theorem setPt_now (i : Nat) (p : Point) (s : State) : (setPt i p s).now = s.now := rfl
@[simp] theorem setPt_fresh (i : Nat) (p : Point) (s : State) : (setPt i p s).fresh = s.fresh := rfl
@[simp] theorem setPt_reply (i : Nat) (p : Point) (s : State) : (setPt i p s).reply = s.reply := rfl
@[simp] theorem setPt_arising (i : Nat) (p : Point) (s : State) : (setPt i p s).arising = s.arising := rfl
@[simp] theorem setPt_sys (i : Nat) (p : Point) (s : State) : (setPt i p s).sys = s.sys := rfl
@[simp] theorem setPt_mem (i : Nat) (p : Point) (s : State) : (setPt i p s).mem = s.mem := rfl
@[simp] theorem setPt_img (i : Nat) (p : Point) (s : State) : (setPt i p s).img = s.img := rfl
@[simp] theorem setPt_pge (i : Nat) (p : Point) (s : State) : (setPt i p s).pge = s.pge := rfl
@[simp] theorem setPt_lpe (i : Nat) (p : Point) (s : State) : (setPt i p s).lpe = s.lpe := rfl
@[simp] theorem setPt_prs (i : Nat) (p : Point) (s : State) : (setPt i p s).prs = s.prs := rfl
@[simp] theorem setPt_saf (i : Nat) (p : Point) (s : State) : (setPt i p s).saf = s.saf := rfl
@[simp] theorem setPt_cel (i : Nat) (p : Point) (s : State) : (setPt i p s).cel = s.cel := rfl
@[simp] theorem setPt_key (i : Nat) (p : Point) (s : State) : (setPt i p s).key = s.key := rfl
@[simp] theorem setPt_stn (i : Nat) (p : Point) (s : State) : (setPt i p s).stn = s.stn := rfl
@[simp] theorem setPt_fbs (i : Nat) (p : Point) (s : State) : (setPt i p s).fbs = s.fbs := rfl
@[simp] theorem setPt_net (i : Nat) (p : Point) (s : State) : (setPt i p s).net = s.net := rfl
@[simp] theorem setPt_tim (i : Nat) (p : Point) (s : State) : (setPt i p s).tim = s.tim := rfl
@[simp] theorem setPt_upd (i : Nat) (p : Point) (s : State) : (setPt i p s).upd = s.upd := rfl
@[simp] theorem setPt_pwr (i : Nat) (p : Point) (s : State) : (setPt i p s).pwr = s.pwr := rfl

/-! ### updCell -/

@[simp] theorem updCell_pending (n : Nat) (f : CellSt → CellSt) (s : State) : (updCell n f s).pending = s.pending := rfl
@[simp] theorem updCell_now (n : Nat) (f : CellSt → CellSt) (s : State) : (updCell n f s).now = s.now := rfl
@[simp] theorem updCell_fresh (n : Nat) (f : CellSt → CellSt) (s : State) : (updCell n f s).fresh = s.fresh := rfl
@[simp] theorem updCell_reply (n : Nat) (f : CellSt → CellSt) (s : State) : (updCell n f s).reply = s.reply := rfl
@[simp] theorem updCell_arising (n : Nat) (f : CellSt → CellSt) (s : State) : (updCell n f s).arising = s.arising := rfl
@[simp] theorem updCell_sys (n : Nat) (f : CellSt → CellSt) (s : State) : (updCell n f s).sys = s.sys := rfl
@[simp] theorem updCell_mem (n : Nat) (f : CellSt → CellSt) (s : State) : (updCell n f s).mem = s.mem := rfl
@[simp] theorem updCell_img (n : Nat) (f : CellSt → CellSt) (s : State) : (updCell n f s).img = s.img := rfl
@[simp] theorem updCell_pge (n : Nat) (f : CellSt → CellSt) (s : State) : (updCell n f s).pge = s.pge := rfl
@[simp] theorem updCell_lpe (n : Nat) (f : CellSt → CellSt) (s : State) : (updCell n f s).lpe = s.lpe := rfl
@[simp] theorem updCell_prs (n : Nat) (f : CellSt → CellSt) (s : State) : (updCell n f s).prs = s.prs := rfl
@[simp] theorem updCell_saf (n : Nat) (f : CellSt → CellSt) (s : State) : (updCell n f s).saf = s.saf := rfl
@[simp] theorem updCell_cel (n : Nat) (f : CellSt → CellSt) (s : State) : (updCell n f s).cel = s.cel := rfl
@[simp] theorem updCell_key (n : Nat) (f : CellSt → CellSt) (s : State) : (updCell n f s).key = s.key := rfl
@[simp] theorem updCell_stn (n : Nat) (f : CellSt → CellSt) (s : State) : (updCell n f s).stn = s.stn := rfl
@[simp] theorem updCell_fbs (n : Nat) (f : CellSt → CellSt) (s : State) : (updCell n f s).fbs = s.fbs := rfl
@[simp] theorem updCell_net (n : Nat) (f : CellSt → CellSt) (s : State) : (updCell n f s).net = s.net := rfl
@[simp] theorem updCell_tim (n : Nat) (f : CellSt → CellSt) (s : State) : (updCell n f s).tim = s.tim := rfl
@[simp] theorem updCell_upd (n : Nat) (f : CellSt → CellSt) (s : State) : (updCell n f s).upd = s.upd := rfl
@[simp] theorem updCell_pwr (n : Nat) (f : CellSt → CellSt) (s : State) : (updCell n f s).pwr = s.pwr := rfl
@[simp] theorem cell_updCell_self (n : Nat) (f : CellSt → CellSt) (s : State) : cell (updCell n f s) n = f (cell s n) := by simp [cell, updCell]
theorem cell_updCell_ne (n : Nat) (f : CellSt → CellSt) (s : State) {j : Nat} (h : j ≠ n) : cell (updCell n f s) j = cell s j := by simp [cell, updCell, Tbl.at_upd_ne _ _ _ _ h]

/-! ### updTask -/

@[simp] theorem updTask_pending (n : Nat) (f : TaskSt → TaskSt) (s : State) : (updTask n f s).pending = s.pending := rfl
@[simp] theorem updTask_now (n : Nat) (f : TaskSt → TaskSt) (s : State) : (updTask n f s).now = s.now := rfl
@[simp] theorem updTask_fresh (n : Nat) (f : TaskSt → TaskSt) (s : State) : (updTask n f s).fresh = s.fresh := rfl
@[simp] theorem updTask_reply (n : Nat) (f : TaskSt → TaskSt) (s : State) : (updTask n f s).reply = s.reply := rfl
@[simp] theorem updTask_arising (n : Nat) (f : TaskSt → TaskSt) (s : State) : (updTask n f s).arising = s.arising := rfl
@[simp] theorem updTask_sys (n : Nat) (f : TaskSt → TaskSt) (s : State) : (updTask n f s).sys = s.sys := rfl
@[simp] theorem updTask_mem (n : Nat) (f : TaskSt → TaskSt) (s : State) : (updTask n f s).mem = s.mem := rfl
@[simp] theorem updTask_img (n : Nat) (f : TaskSt → TaskSt) (s : State) : (updTask n f s).img = s.img := rfl
@[simp] theorem updTask_trl (n : Nat) (f : TaskSt → TaskSt) (s : State) : (updTask n f s).trl = s.trl := rfl
@[simp] theorem updTask_lpe (n : Nat) (f : TaskSt → TaskSt) (s : State) : (updTask n f s).lpe = s.lpe := rfl
@[simp] theorem updTask_prs (n : Nat) (f : TaskSt → TaskSt) (s : State) : (updTask n f s).prs = s.prs := rfl
@[simp] theorem updTask_saf (n : Nat) (f : TaskSt → TaskSt) (s : State) : (updTask n f s).saf = s.saf := rfl
@[simp] theorem updTask_cel (n : Nat) (f : TaskSt → TaskSt) (s : State) : (updTask n f s).cel = s.cel := rfl
@[simp] theorem updTask_key (n : Nat) (f : TaskSt → TaskSt) (s : State) : (updTask n f s).key = s.key := rfl
@[simp] theorem updTask_stn (n : Nat) (f : TaskSt → TaskSt) (s : State) : (updTask n f s).stn = s.stn := rfl
@[simp] theorem updTask_fbs (n : Nat) (f : TaskSt → TaskSt) (s : State) : (updTask n f s).fbs = s.fbs := rfl
@[simp] theorem updTask_net (n : Nat) (f : TaskSt → TaskSt) (s : State) : (updTask n f s).net = s.net := rfl
@[simp] theorem updTask_tim (n : Nat) (f : TaskSt → TaskSt) (s : State) : (updTask n f s).tim = s.tim := rfl
@[simp] theorem updTask_upd (n : Nat) (f : TaskSt → TaskSt) (s : State) : (updTask n f s).upd = s.upd := rfl
@[simp] theorem updTask_pwr (n : Nat) (f : TaskSt → TaskSt) (s : State) : (updTask n f s).pwr = s.pwr := rfl
@[simp] theorem taskSt_updTask_self (n : Nat) (f : TaskSt → TaskSt) (s : State) : taskSt (updTask n f s) n = f (taskSt s n) := by simp [taskSt, updTask]
theorem taskSt_updTask_ne (n : Nat) (f : TaskSt → TaskSt) (s : State) {j : Nat} (h : j ≠ n) : taskSt (updTask n f s) j = taskSt s j := by simp [taskSt, updTask, Tbl.at_upd_ne _ _ _ _ h]

/-! ### updCyc -/

@[simp] theorem updCyc_pending (n : Nat) (f : Cycle → Cycle) (s : State) : (updCyc n f s).pending = s.pending := rfl
@[simp] theorem updCyc_now (n : Nat) (f : Cycle → Cycle) (s : State) : (updCyc n f s).now = s.now := rfl
@[simp] theorem updCyc_fresh (n : Nat) (f : Cycle → Cycle) (s : State) : (updCyc n f s).fresh = s.fresh := rfl
@[simp] theorem updCyc_reply (n : Nat) (f : Cycle → Cycle) (s : State) : (updCyc n f s).reply = s.reply := rfl
@[simp] theorem updCyc_arising (n : Nat) (f : Cycle → Cycle) (s : State) : (updCyc n f s).arising = s.arising := rfl
@[simp] theorem updCyc_sys (n : Nat) (f : Cycle → Cycle) (s : State) : (updCyc n f s).sys = s.sys := rfl
@[simp] theorem updCyc_mem (n : Nat) (f : Cycle → Cycle) (s : State) : (updCyc n f s).mem = s.mem := rfl
@[simp] theorem updCyc_img (n : Nat) (f : Cycle → Cycle) (s : State) : (updCyc n f s).img = s.img := rfl
@[simp] theorem updCyc_trl (n : Nat) (f : Cycle → Cycle) (s : State) : (updCyc n f s).trl = s.trl := rfl
@[simp] theorem updCyc_lpe (n : Nat) (f : Cycle → Cycle) (s : State) : (updCyc n f s).lpe = s.lpe := rfl
@[simp] theorem updCyc_prs (n : Nat) (f : Cycle → Cycle) (s : State) : (updCyc n f s).prs = s.prs := rfl
@[simp] theorem updCyc_saf (n : Nat) (f : Cycle → Cycle) (s : State) : (updCyc n f s).saf = s.saf := rfl
@[simp] theorem updCyc_cel (n : Nat) (f : Cycle → Cycle) (s : State) : (updCyc n f s).cel = s.cel := rfl
@[simp] theorem updCyc_key (n : Nat) (f : Cycle → Cycle) (s : State) : (updCyc n f s).key = s.key := rfl
@[simp] theorem updCyc_stn (n : Nat) (f : Cycle → Cycle) (s : State) : (updCyc n f s).stn = s.stn := rfl
@[simp] theorem updCyc_fbs (n : Nat) (f : Cycle → Cycle) (s : State) : (updCyc n f s).fbs = s.fbs := rfl
@[simp] theorem updCyc_net (n : Nat) (f : Cycle → Cycle) (s : State) : (updCyc n f s).net = s.net := rfl
@[simp] theorem updCyc_tim (n : Nat) (f : Cycle → Cycle) (s : State) : (updCyc n f s).tim = s.tim := rfl
@[simp] theorem updCyc_upd (n : Nat) (f : Cycle → Cycle) (s : State) : (updCyc n f s).upd = s.upd := rfl
@[simp] theorem updCyc_pwr (n : Nat) (f : Cycle → Cycle) (s : State) : (updCyc n f s).pwr = s.pwr := rfl

/-! ### updPCask -/

@[simp] theorem updPCask_pending (c : Nat) (f : PCask → PCask) (s : State) : (updPCask c f s).pending = s.pending := rfl
@[simp] theorem updPCask_now (c : Nat) (f : PCask → PCask) (s : State) : (updPCask c f s).now = s.now := rfl
@[simp] theorem updPCask_fresh (c : Nat) (f : PCask → PCask) (s : State) : (updPCask c f s).fresh = s.fresh := rfl
@[simp] theorem updPCask_reply (c : Nat) (f : PCask → PCask) (s : State) : (updPCask c f s).reply = s.reply := rfl
@[simp] theorem updPCask_arising (c : Nat) (f : PCask → PCask) (s : State) : (updPCask c f s).arising = s.arising := rfl
@[simp] theorem updPCask_sys (c : Nat) (f : PCask → PCask) (s : State) : (updPCask c f s).sys = s.sys := rfl
@[simp] theorem updPCask_mem (c : Nat) (f : PCask → PCask) (s : State) : (updPCask c f s).mem = s.mem := rfl
@[simp] theorem updPCask_img (c : Nat) (f : PCask → PCask) (s : State) : (updPCask c f s).img = s.img := rfl
@[simp] theorem updPCask_trl (c : Nat) (f : PCask → PCask) (s : State) : (updPCask c f s).trl = s.trl := rfl
@[simp] theorem updPCask_lpe (c : Nat) (f : PCask → PCask) (s : State) : (updPCask c f s).lpe = s.lpe := rfl
@[simp] theorem updPCask_prs (c : Nat) (f : PCask → PCask) (s : State) : (updPCask c f s).prs = s.prs := rfl
@[simp] theorem updPCask_saf (c : Nat) (f : PCask → PCask) (s : State) : (updPCask c f s).saf = s.saf := rfl
@[simp] theorem updPCask_cel (c : Nat) (f : PCask → PCask) (s : State) : (updPCask c f s).cel = s.cel := rfl
@[simp] theorem updPCask_key (c : Nat) (f : PCask → PCask) (s : State) : (updPCask c f s).key = s.key := rfl
@[simp] theorem updPCask_stn (c : Nat) (f : PCask → PCask) (s : State) : (updPCask c f s).stn = s.stn := rfl
@[simp] theorem updPCask_fbs (c : Nat) (f : PCask → PCask) (s : State) : (updPCask c f s).fbs = s.fbs := rfl
@[simp] theorem updPCask_net (c : Nat) (f : PCask → PCask) (s : State) : (updPCask c f s).net = s.net := rfl
@[simp] theorem updPCask_tim (c : Nat) (f : PCask → PCask) (s : State) : (updPCask c f s).tim = s.tim := rfl
@[simp] theorem updPCask_upd (c : Nat) (f : PCask → PCask) (s : State) : (updPCask c f s).upd = s.upd := rfl
@[simp] theorem updPCask_pwr (c : Nat) (f : PCask → PCask) (s : State) : (updPCask c f s).pwr = s.pwr := rfl
@[simp] theorem pcask_updPCask_self (c : Nat) (f : PCask → PCask) (s : State) : pcask (updPCask c f s) c = f (pcask s c) := by simp [pcask, updPCask]
theorem pcask_updPCask_ne (c : Nat) (f : PCask → PCask) (s : State) {j : Nat} (h : j ≠ c) : pcask (updPCask c f s) j = pcask s j := by simp [pcask, updPCask, Tbl.at_upd_ne _ _ _ _ h]

/-! ### updProc -/

@[simp] theorem updProc_pending (p : Fin 2) (f : Proc → Proc) (s : State) : (updProc p f s).pending = s.pending := by unfold updProc; split <;> rfl
@[simp] theorem updProc_now (p : Fin 2) (f : Proc → Proc) (s : State) : (updProc p f s).now = s.now := by unfold updProc; split <;> rfl
@[simp] theorem updProc_fresh (p : Fin 2) (f : Proc → Proc) (s : State) : (updProc p f s).fresh = s.fresh := by unfold updProc; split <;> rfl
@[simp] theorem updProc_reply (p : Fin 2) (f : Proc → Proc) (s : State) : (updProc p f s).reply = s.reply := by unfold updProc; split <;> rfl
@[simp] theorem updProc_arising (p : Fin 2) (f : Proc → Proc) (s : State) : (updProc p f s).arising = s.arising := by unfold updProc; split <;> rfl
@[simp] theorem updProc_sys (p : Fin 2) (f : Proc → Proc) (s : State) : (updProc p f s).sys = s.sys := by unfold updProc; split <;> rfl
@[simp] theorem updProc_mem (p : Fin 2) (f : Proc → Proc) (s : State) : (updProc p f s).mem = s.mem := by unfold updProc; split <;> rfl
@[simp] theorem updProc_img (p : Fin 2) (f : Proc → Proc) (s : State) : (updProc p f s).img = s.img := by unfold updProc; split <;> rfl
@[simp] theorem updProc_trl (p : Fin 2) (f : Proc → Proc) (s : State) : (updProc p f s).trl = s.trl := by unfold updProc; split <;> rfl
@[simp] theorem updProc_lpe (p : Fin 2) (f : Proc → Proc) (s : State) : (updProc p f s).lpe = s.lpe := by unfold updProc; split <;> rfl
@[simp] theorem updProc_prs (p : Fin 2) (f : Proc → Proc) (s : State) : (updProc p f s).prs = s.prs := by unfold updProc; split <;> rfl
@[simp] theorem updProc_saf (p : Fin 2) (f : Proc → Proc) (s : State) : (updProc p f s).saf = s.saf := by unfold updProc; split <;> rfl
@[simp] theorem updProc_cel (p : Fin 2) (f : Proc → Proc) (s : State) : (updProc p f s).cel = s.cel := by unfold updProc; split <;> rfl
@[simp] theorem updProc_key (p : Fin 2) (f : Proc → Proc) (s : State) : (updProc p f s).key = s.key := by unfold updProc; split <;> rfl
@[simp] theorem updProc_stn (p : Fin 2) (f : Proc → Proc) (s : State) : (updProc p f s).stn = s.stn := by unfold updProc; split <;> rfl
@[simp] theorem updProc_fbs (p : Fin 2) (f : Proc → Proc) (s : State) : (updProc p f s).fbs = s.fbs := by unfold updProc; split <;> rfl
@[simp] theorem updProc_net (p : Fin 2) (f : Proc → Proc) (s : State) : (updProc p f s).net = s.net := by unfold updProc; split <;> rfl
@[simp] theorem updProc_tim (p : Fin 2) (f : Proc → Proc) (s : State) : (updProc p f s).tim = s.tim := by unfold updProc; split <;> rfl
@[simp] theorem updProc_upd (p : Fin 2) (f : Proc → Proc) (s : State) : (updProc p f s).upd = s.upd := by unfold updProc; split <;> rfl
@[simp] theorem updProc_pwr (p : Fin 2) (f : Proc → Proc) (s : State) : (updProc p f s).pwr = s.pwr := by unfold updProc; split <;> rfl

/-! ### setPrsStatus -/

@[simp] theorem setPrsStatus_pending (iss : Issuer) (code : Nat) (s : State) : (setPrsStatus iss code s).pending = s.pending := rfl
@[simp] theorem setPrsStatus_now (iss : Issuer) (code : Nat) (s : State) : (setPrsStatus iss code s).now = s.now := rfl
@[simp] theorem setPrsStatus_fresh (iss : Issuer) (code : Nat) (s : State) : (setPrsStatus iss code s).fresh = s.fresh := rfl
@[simp] theorem setPrsStatus_arising (iss : Issuer) (code : Nat) (s : State) : (setPrsStatus iss code s).arising = s.arising := rfl
@[simp] theorem setPrsStatus_sys (iss : Issuer) (code : Nat) (s : State) : (setPrsStatus iss code s).sys = s.sys := rfl
@[simp] theorem setPrsStatus_mem (iss : Issuer) (code : Nat) (s : State) : (setPrsStatus iss code s).mem = s.mem := rfl
@[simp] theorem setPrsStatus_img (iss : Issuer) (code : Nat) (s : State) : (setPrsStatus iss code s).img = s.img := rfl
@[simp] theorem setPrsStatus_trl (iss : Issuer) (code : Nat) (s : State) : (setPrsStatus iss code s).trl = s.trl := rfl
@[simp] theorem setPrsStatus_pge (iss : Issuer) (code : Nat) (s : State) : (setPrsStatus iss code s).pge = s.pge := rfl
@[simp] theorem setPrsStatus_lpe (iss : Issuer) (code : Nat) (s : State) : (setPrsStatus iss code s).lpe = s.lpe := rfl
@[simp] theorem setPrsStatus_saf (iss : Issuer) (code : Nat) (s : State) : (setPrsStatus iss code s).saf = s.saf := rfl
@[simp] theorem setPrsStatus_cel (iss : Issuer) (code : Nat) (s : State) : (setPrsStatus iss code s).cel = s.cel := rfl
@[simp] theorem setPrsStatus_key (iss : Issuer) (code : Nat) (s : State) : (setPrsStatus iss code s).key = s.key := rfl
@[simp] theorem setPrsStatus_stn (iss : Issuer) (code : Nat) (s : State) : (setPrsStatus iss code s).stn = s.stn := rfl
@[simp] theorem setPrsStatus_fbs (iss : Issuer) (code : Nat) (s : State) : (setPrsStatus iss code s).fbs = s.fbs := rfl
@[simp] theorem setPrsStatus_net (iss : Issuer) (code : Nat) (s : State) : (setPrsStatus iss code s).net = s.net := rfl
@[simp] theorem setPrsStatus_tim (iss : Issuer) (code : Nat) (s : State) : (setPrsStatus iss code s).tim = s.tim := rfl
@[simp] theorem setPrsStatus_upd (iss : Issuer) (code : Nat) (s : State) : (setPrsStatus iss code s).upd = s.upd := rfl
@[simp] theorem setPrsStatus_pwr (iss : Issuer) (code : Nat) (s : State) : (setPrsStatus iss code s).pwr = s.pwr := rfl

/-! ### setSnapBank -/

@[simp] theorem setSnapBank_pending (c : Nat) (b : SnapBank) (s : State) : (setSnapBank c b s).pending = s.pending := rfl
@[simp] theorem setSnapBank_now (c : Nat) (b : SnapBank) (s : State) : (setSnapBank c b s).now = s.now := rfl
@[simp] theorem setSnapBank_fresh (c : Nat) (b : SnapBank) (s : State) : (setSnapBank c b s).fresh = s.fresh := rfl
@[simp] theorem setSnapBank_reply (c : Nat) (b : SnapBank) (s : State) : (setSnapBank c b s).reply = s.reply := rfl
@[simp] theorem setSnapBank_arising (c : Nat) (b : SnapBank) (s : State) : (setSnapBank c b s).arising = s.arising := rfl
@[simp] theorem setSnapBank_sys (c : Nat) (b : SnapBank) (s : State) : (setSnapBank c b s).sys = s.sys := rfl
@[simp] theorem setSnapBank_mem (c : Nat) (b : SnapBank) (s : State) : (setSnapBank c b s).mem = s.mem := rfl
@[simp] theorem setSnapBank_img (c : Nat) (b : SnapBank) (s : State) : (setSnapBank c b s).img = s.img := rfl
@[simp] theorem setSnapBank_trl (c : Nat) (b : SnapBank) (s : State) : (setSnapBank c b s).trl = s.trl := rfl
@[simp] theorem setSnapBank_pge (c : Nat) (b : SnapBank) (s : State) : (setSnapBank c b s).pge = s.pge := rfl
@[simp] theorem setSnapBank_lpe (c : Nat) (b : SnapBank) (s : State) : (setSnapBank c b s).lpe = s.lpe := rfl
@[simp] theorem setSnapBank_saf (c : Nat) (b : SnapBank) (s : State) : (setSnapBank c b s).saf = s.saf := rfl
@[simp] theorem setSnapBank_cel (c : Nat) (b : SnapBank) (s : State) : (setSnapBank c b s).cel = s.cel := rfl
@[simp] theorem setSnapBank_key (c : Nat) (b : SnapBank) (s : State) : (setSnapBank c b s).key = s.key := rfl
@[simp] theorem setSnapBank_stn (c : Nat) (b : SnapBank) (s : State) : (setSnapBank c b s).stn = s.stn := rfl
@[simp] theorem setSnapBank_fbs (c : Nat) (b : SnapBank) (s : State) : (setSnapBank c b s).fbs = s.fbs := rfl
@[simp] theorem setSnapBank_net (c : Nat) (b : SnapBank) (s : State) : (setSnapBank c b s).net = s.net := rfl
@[simp] theorem setSnapBank_tim (c : Nat) (b : SnapBank) (s : State) : (setSnapBank c b s).tim = s.tim := rfl
@[simp] theorem setSnapBank_upd (c : Nat) (b : SnapBank) (s : State) : (setSnapBank c b s).upd = s.upd := rfl
@[simp] theorem setSnapBank_pwr (c : Nat) (b : SnapBank) (s : State) : (setSnapBank c b s).pwr = s.pwr := rfl

/-! ### setTasteCode -/

@[simp] theorem setTasteCode_pending (code : Nat) (s : State) : (setTasteCode code s).pending = s.pending := rfl
@[simp] theorem setTasteCode_now (code : Nat) (s : State) : (setTasteCode code s).now = s.now := rfl
@[simp] theorem setTasteCode_fresh (code : Nat) (s : State) : (setTasteCode code s).fresh = s.fresh := rfl
@[simp] theorem setTasteCode_arising (code : Nat) (s : State) : (setTasteCode code s).arising = s.arising := rfl
@[simp] theorem setTasteCode_sys (code : Nat) (s : State) : (setTasteCode code s).sys = s.sys := rfl
@[simp] theorem setTasteCode_mem (code : Nat) (s : State) : (setTasteCode code s).mem = s.mem := rfl
@[simp] theorem setTasteCode_img (code : Nat) (s : State) : (setTasteCode code s).img = s.img := rfl
@[simp] theorem setTasteCode_trl (code : Nat) (s : State) : (setTasteCode code s).trl = s.trl := rfl
@[simp] theorem setTasteCode_pge (code : Nat) (s : State) : (setTasteCode code s).pge = s.pge := rfl
@[simp] theorem setTasteCode_lpe (code : Nat) (s : State) : (setTasteCode code s).lpe = s.lpe := rfl
@[simp] theorem setTasteCode_saf (code : Nat) (s : State) : (setTasteCode code s).saf = s.saf := rfl
@[simp] theorem setTasteCode_cel (code : Nat) (s : State) : (setTasteCode code s).cel = s.cel := rfl
@[simp] theorem setTasteCode_key (code : Nat) (s : State) : (setTasteCode code s).key = s.key := rfl
@[simp] theorem setTasteCode_stn (code : Nat) (s : State) : (setTasteCode code s).stn = s.stn := rfl
@[simp] theorem setTasteCode_fbs (code : Nat) (s : State) : (setTasteCode code s).fbs = s.fbs := rfl
@[simp] theorem setTasteCode_net (code : Nat) (s : State) : (setTasteCode code s).net = s.net := rfl
@[simp] theorem setTasteCode_tim (code : Nat) (s : State) : (setTasteCode code s).tim = s.tim := rfl
@[simp] theorem setTasteCode_upd (code : Nat) (s : State) : (setTasteCode code s).upd = s.upd := rfl
@[simp] theorem setTasteCode_pwr (code : Nat) (s : State) : (setTasteCode code s).pwr = s.pwr := rfl

/-! ### updChan -/

@[simp] theorem updChan_pending (n : Nat) (f : Chan → Chan) (s : State) : (updChan n f s).pending = s.pending := rfl
@[simp] theorem updChan_now (n : Nat) (f : Chan → Chan) (s : State) : (updChan n f s).now = s.now := rfl
@[simp] theorem updChan_fresh (n : Nat) (f : Chan → Chan) (s : State) : (updChan n f s).fresh = s.fresh := rfl
@[simp] theorem updChan_reply (n : Nat) (f : Chan → Chan) (s : State) : (updChan n f s).reply = s.reply := rfl
@[simp] theorem updChan_arising (n : Nat) (f : Chan → Chan) (s : State) : (updChan n f s).arising = s.arising := rfl
@[simp] theorem updChan_sys (n : Nat) (f : Chan → Chan) (s : State) : (updChan n f s).sys = s.sys := rfl
@[simp] theorem updChan_mem (n : Nat) (f : Chan → Chan) (s : State) : (updChan n f s).mem = s.mem := rfl
@[simp] theorem updChan_img (n : Nat) (f : Chan → Chan) (s : State) : (updChan n f s).img = s.img := rfl
@[simp] theorem updChan_trl (n : Nat) (f : Chan → Chan) (s : State) : (updChan n f s).trl = s.trl := rfl
@[simp] theorem updChan_pge (n : Nat) (f : Chan → Chan) (s : State) : (updChan n f s).pge = s.pge := rfl
@[simp] theorem updChan_lpe (n : Nat) (f : Chan → Chan) (s : State) : (updChan n f s).lpe = s.lpe := rfl
@[simp] theorem updChan_saf (n : Nat) (f : Chan → Chan) (s : State) : (updChan n f s).saf = s.saf := rfl
@[simp] theorem updChan_cel (n : Nat) (f : Chan → Chan) (s : State) : (updChan n f s).cel = s.cel := rfl
@[simp] theorem updChan_key (n : Nat) (f : Chan → Chan) (s : State) : (updChan n f s).key = s.key := rfl
@[simp] theorem updChan_stn (n : Nat) (f : Chan → Chan) (s : State) : (updChan n f s).stn = s.stn := rfl
@[simp] theorem updChan_fbs (n : Nat) (f : Chan → Chan) (s : State) : (updChan n f s).fbs = s.fbs := rfl
@[simp] theorem updChan_net (n : Nat) (f : Chan → Chan) (s : State) : (updChan n f s).net = s.net := rfl
@[simp] theorem updChan_tim (n : Nat) (f : Chan → Chan) (s : State) : (updChan n f s).tim = s.tim := rfl
@[simp] theorem updChan_upd (n : Nat) (f : Chan → Chan) (s : State) : (updChan n f s).upd = s.upd := rfl
@[simp] theorem updChan_pwr (n : Nat) (f : Chan → Chan) (s : State) : (updChan n f s).pwr = s.pwr := rfl
@[simp] theorem chan_updChan_self (n : Nat) (f : Chan → Chan) (s : State) : chan (updChan n f s) n = f (chan s n) := by simp [chan, updChan]
theorem chan_updChan_ne (n : Nat) (f : Chan → Chan) (s : State) {j : Nat} (h : j ≠ n) : chan (updChan n f s) j = chan s j := by simp [chan, updChan, Tbl.at_upd_ne _ _ _ _ h]

/-! ### updElem -/

@[simp] theorem updElem_pending (n : Nat) (f : Elem → Elem) (s : State) : (updElem n f s).pending = s.pending := by unfold updElem; split <;> rfl
@[simp] theorem updElem_now (n : Nat) (f : Elem → Elem) (s : State) : (updElem n f s).now = s.now := by unfold updElem; split <;> rfl
@[simp] theorem updElem_fresh (n : Nat) (f : Elem → Elem) (s : State) : (updElem n f s).fresh = s.fresh := by unfold updElem; split <;> rfl
@[simp] theorem updElem_reply (n : Nat) (f : Elem → Elem) (s : State) : (updElem n f s).reply = s.reply := by unfold updElem; split <;> rfl
@[simp] theorem updElem_arising (n : Nat) (f : Elem → Elem) (s : State) : (updElem n f s).arising = s.arising := by unfold updElem; split <;> rfl
@[simp] theorem updElem_sys (n : Nat) (f : Elem → Elem) (s : State) : (updElem n f s).sys = s.sys := by unfold updElem; split <;> rfl
@[simp] theorem updElem_mem (n : Nat) (f : Elem → Elem) (s : State) : (updElem n f s).mem = s.mem := by unfold updElem; split <;> rfl
@[simp] theorem updElem_img (n : Nat) (f : Elem → Elem) (s : State) : (updElem n f s).img = s.img := by unfold updElem; split <;> rfl
@[simp] theorem updElem_trl (n : Nat) (f : Elem → Elem) (s : State) : (updElem n f s).trl = s.trl := by unfold updElem; split <;> rfl
@[simp] theorem updElem_pge (n : Nat) (f : Elem → Elem) (s : State) : (updElem n f s).pge = s.pge := by unfold updElem; split <;> rfl
@[simp] theorem updElem_lpe (n : Nat) (f : Elem → Elem) (s : State) : (updElem n f s).lpe = s.lpe := by unfold updElem; split <;> rfl
@[simp] theorem updElem_saf (n : Nat) (f : Elem → Elem) (s : State) : (updElem n f s).saf = s.saf := by unfold updElem; split <;> rfl
@[simp] theorem updElem_cel (n : Nat) (f : Elem → Elem) (s : State) : (updElem n f s).cel = s.cel := by unfold updElem; split <;> rfl
@[simp] theorem updElem_key (n : Nat) (f : Elem → Elem) (s : State) : (updElem n f s).key = s.key := by unfold updElem; split <;> rfl
@[simp] theorem updElem_stn (n : Nat) (f : Elem → Elem) (s : State) : (updElem n f s).stn = s.stn := by unfold updElem; split <;> rfl
@[simp] theorem updElem_fbs (n : Nat) (f : Elem → Elem) (s : State) : (updElem n f s).fbs = s.fbs := by unfold updElem; split <;> rfl
@[simp] theorem updElem_net (n : Nat) (f : Elem → Elem) (s : State) : (updElem n f s).net = s.net := by unfold updElem; split <;> rfl
@[simp] theorem updElem_tim (n : Nat) (f : Elem → Elem) (s : State) : (updElem n f s).tim = s.tim := by unfold updElem; split <;> rfl
@[simp] theorem updElem_upd (n : Nat) (f : Elem → Elem) (s : State) : (updElem n f s).upd = s.upd := by unfold updElem; split <;> rfl
@[simp] theorem updElem_pwr (n : Nat) (f : Elem → Elem) (s : State) : (updElem n f s).pwr = s.pwr := by unfold updElem; split <;> rfl

/-! ### updPulse -/

@[simp] theorem updPulse_pending (n : Nat) (f : Pulse → Pulse) (s : State) : (updPulse n f s).pending = s.pending := rfl
@[simp] theorem updPulse_now (n : Nat) (f : Pulse → Pulse) (s : State) : (updPulse n f s).now = s.now := rfl
@[simp] theorem updPulse_fresh (n : Nat) (f : Pulse → Pulse) (s : State) : (updPulse n f s).fresh = s.fresh := rfl
@[simp] theorem updPulse_reply (n : Nat) (f : Pulse → Pulse) (s : State) : (updPulse n f s).reply = s.reply := rfl
@[simp] theorem updPulse_arising (n : Nat) (f : Pulse → Pulse) (s : State) : (updPulse n f s).arising = s.arising := rfl
@[simp] theorem updPulse_sys (n : Nat) (f : Pulse → Pulse) (s : State) : (updPulse n f s).sys = s.sys := rfl
@[simp] theorem updPulse_mem (n : Nat) (f : Pulse → Pulse) (s : State) : (updPulse n f s).mem = s.mem := rfl
@[simp] theorem updPulse_img (n : Nat) (f : Pulse → Pulse) (s : State) : (updPulse n f s).img = s.img := rfl
@[simp] theorem updPulse_trl (n : Nat) (f : Pulse → Pulse) (s : State) : (updPulse n f s).trl = s.trl := rfl
@[simp] theorem updPulse_pge (n : Nat) (f : Pulse → Pulse) (s : State) : (updPulse n f s).pge = s.pge := rfl
@[simp] theorem updPulse_lpe (n : Nat) (f : Pulse → Pulse) (s : State) : (updPulse n f s).lpe = s.lpe := rfl
@[simp] theorem updPulse_saf (n : Nat) (f : Pulse → Pulse) (s : State) : (updPulse n f s).saf = s.saf := rfl
@[simp] theorem updPulse_cel (n : Nat) (f : Pulse → Pulse) (s : State) : (updPulse n f s).cel = s.cel := rfl
@[simp] theorem updPulse_key (n : Nat) (f : Pulse → Pulse) (s : State) : (updPulse n f s).key = s.key := rfl
@[simp] theorem updPulse_stn (n : Nat) (f : Pulse → Pulse) (s : State) : (updPulse n f s).stn = s.stn := rfl
@[simp] theorem updPulse_fbs (n : Nat) (f : Pulse → Pulse) (s : State) : (updPulse n f s).fbs = s.fbs := rfl
@[simp] theorem updPulse_net (n : Nat) (f : Pulse → Pulse) (s : State) : (updPulse n f s).net = s.net := rfl
@[simp] theorem updPulse_tim (n : Nat) (f : Pulse → Pulse) (s : State) : (updPulse n f s).tim = s.tim := rfl
@[simp] theorem updPulse_upd (n : Nat) (f : Pulse → Pulse) (s : State) : (updPulse n f s).upd = s.upd := rfl
@[simp] theorem updPulse_pwr (n : Nat) (f : Pulse → Pulse) (s : State) : (updPulse n f s).pwr = s.pwr := rfl
@[simp] theorem pulse_updPulse_self (n : Nat) (f : Pulse → Pulse) (s : State) : pulse (updPulse n f s) n = f (pulse s n) := by simp [pulse, updPulse]
theorem pulse_updPulse_ne (n : Nat) (f : Pulse → Pulse) (s : State) {j : Nat} (h : j ≠ n) : pulse (updPulse n f s) j = pulse s j := by simp [pulse, updPulse, Tbl.at_upd_ne _ _ _ _ h]

/-! ### updVsys -/

@[simp] theorem updVsys_pending (b : Bool) (f : VSys → VSys) (s : State) : (updVsys b f s).pending = s.pending := by unfold updVsys; split <;> rfl
@[simp] theorem updVsys_now (b : Bool) (f : VSys → VSys) (s : State) : (updVsys b f s).now = s.now := by unfold updVsys; split <;> rfl
@[simp] theorem updVsys_fresh (b : Bool) (f : VSys → VSys) (s : State) : (updVsys b f s).fresh = s.fresh := by unfold updVsys; split <;> rfl
@[simp] theorem updVsys_reply (b : Bool) (f : VSys → VSys) (s : State) : (updVsys b f s).reply = s.reply := by unfold updVsys; split <;> rfl
@[simp] theorem updVsys_arising (b : Bool) (f : VSys → VSys) (s : State) : (updVsys b f s).arising = s.arising := by unfold updVsys; split <;> rfl
@[simp] theorem updVsys_sys (b : Bool) (f : VSys → VSys) (s : State) : (updVsys b f s).sys = s.sys := by unfold updVsys; split <;> rfl
@[simp] theorem updVsys_mem (b : Bool) (f : VSys → VSys) (s : State) : (updVsys b f s).mem = s.mem := by unfold updVsys; split <;> rfl
@[simp] theorem updVsys_img (b : Bool) (f : VSys → VSys) (s : State) : (updVsys b f s).img = s.img := by unfold updVsys; split <;> rfl
@[simp] theorem updVsys_trl (b : Bool) (f : VSys → VSys) (s : State) : (updVsys b f s).trl = s.trl := by unfold updVsys; split <;> rfl
@[simp] theorem updVsys_pge (b : Bool) (f : VSys → VSys) (s : State) : (updVsys b f s).pge = s.pge := by unfold updVsys; split <;> rfl
@[simp] theorem updVsys_lpe (b : Bool) (f : VSys → VSys) (s : State) : (updVsys b f s).lpe = s.lpe := by unfold updVsys; split <;> rfl
@[simp] theorem updVsys_saf (b : Bool) (f : VSys → VSys) (s : State) : (updVsys b f s).saf = s.saf := by unfold updVsys; split <;> rfl
@[simp] theorem updVsys_cel (b : Bool) (f : VSys → VSys) (s : State) : (updVsys b f s).cel = s.cel := by unfold updVsys; split <;> rfl
@[simp] theorem updVsys_key (b : Bool) (f : VSys → VSys) (s : State) : (updVsys b f s).key = s.key := by unfold updVsys; split <;> rfl
@[simp] theorem updVsys_stn (b : Bool) (f : VSys → VSys) (s : State) : (updVsys b f s).stn = s.stn := by unfold updVsys; split <;> rfl
@[simp] theorem updVsys_fbs (b : Bool) (f : VSys → VSys) (s : State) : (updVsys b f s).fbs = s.fbs := by unfold updVsys; split <;> rfl
@[simp] theorem updVsys_net (b : Bool) (f : VSys → VSys) (s : State) : (updVsys b f s).net = s.net := by unfold updVsys; split <;> rfl
@[simp] theorem updVsys_tim (b : Bool) (f : VSys → VSys) (s : State) : (updVsys b f s).tim = s.tim := by unfold updVsys; split <;> rfl
@[simp] theorem updVsys_upd (b : Bool) (f : VSys → VSys) (s : State) : (updVsys b f s).upd = s.upd := by unfold updVsys; split <;> rfl
@[simp] theorem updVsys_pwr (b : Bool) (f : VSys → VSys) (s : State) : (updVsys b f s).pwr = s.pwr := by unfold updVsys; split <;> rfl

/-! ### updFlow -/

@[simp] theorem updFlow_pending (n : Nat) (f : Flow → Flow) (s : State) : (updFlow n f s).pending = s.pending := rfl
@[simp] theorem updFlow_now (n : Nat) (f : Flow → Flow) (s : State) : (updFlow n f s).now = s.now := rfl
@[simp] theorem updFlow_fresh (n : Nat) (f : Flow → Flow) (s : State) : (updFlow n f s).fresh = s.fresh := rfl
@[simp] theorem updFlow_reply (n : Nat) (f : Flow → Flow) (s : State) : (updFlow n f s).reply = s.reply := rfl
@[simp] theorem updFlow_arising (n : Nat) (f : Flow → Flow) (s : State) : (updFlow n f s).arising = s.arising := rfl
@[simp] theorem updFlow_sys (n : Nat) (f : Flow → Flow) (s : State) : (updFlow n f s).sys = s.sys := rfl
@[simp] theorem updFlow_mem (n : Nat) (f : Flow → Flow) (s : State) : (updFlow n f s).mem = s.mem := rfl
@[simp] theorem updFlow_img (n : Nat) (f : Flow → Flow) (s : State) : (updFlow n f s).img = s.img := rfl
@[simp] theorem updFlow_trl (n : Nat) (f : Flow → Flow) (s : State) : (updFlow n f s).trl = s.trl := rfl
@[simp] theorem updFlow_pge (n : Nat) (f : Flow → Flow) (s : State) : (updFlow n f s).pge = s.pge := rfl
@[simp] theorem updFlow_lpe (n : Nat) (f : Flow → Flow) (s : State) : (updFlow n f s).lpe = s.lpe := rfl
@[simp] theorem updFlow_prs (n : Nat) (f : Flow → Flow) (s : State) : (updFlow n f s).prs = s.prs := rfl
@[simp] theorem updFlow_saf (n : Nat) (f : Flow → Flow) (s : State) : (updFlow n f s).saf = s.saf := rfl
@[simp] theorem updFlow_cel (n : Nat) (f : Flow → Flow) (s : State) : (updFlow n f s).cel = s.cel := rfl
@[simp] theorem updFlow_key (n : Nat) (f : Flow → Flow) (s : State) : (updFlow n f s).key = s.key := rfl
@[simp] theorem updFlow_stn (n : Nat) (f : Flow → Flow) (s : State) : (updFlow n f s).stn = s.stn := rfl
@[simp] theorem updFlow_fbs (n : Nat) (f : Flow → Flow) (s : State) : (updFlow n f s).fbs = s.fbs := rfl
@[simp] theorem updFlow_tim (n : Nat) (f : Flow → Flow) (s : State) : (updFlow n f s).tim = s.tim := rfl
@[simp] theorem updFlow_upd (n : Nat) (f : Flow → Flow) (s : State) : (updFlow n f s).upd = s.upd := rfl
@[simp] theorem updFlow_pwr (n : Nat) (f : Flow → Flow) (s : State) : (updFlow n f s).pwr = s.pwr := rfl

/-! ### updNode -/

@[simp] theorem updNode_pending (n : Nat) (f : Node → Node) (s : State) : (updNode n f s).pending = s.pending := rfl
@[simp] theorem updNode_now (n : Nat) (f : Node → Node) (s : State) : (updNode n f s).now = s.now := rfl
@[simp] theorem updNode_fresh (n : Nat) (f : Node → Node) (s : State) : (updNode n f s).fresh = s.fresh := rfl
@[simp] theorem updNode_reply (n : Nat) (f : Node → Node) (s : State) : (updNode n f s).reply = s.reply := rfl
@[simp] theorem updNode_arising (n : Nat) (f : Node → Node) (s : State) : (updNode n f s).arising = s.arising := rfl
@[simp] theorem updNode_sys (n : Nat) (f : Node → Node) (s : State) : (updNode n f s).sys = s.sys := rfl
@[simp] theorem updNode_mem (n : Nat) (f : Node → Node) (s : State) : (updNode n f s).mem = s.mem := rfl
@[simp] theorem updNode_img (n : Nat) (f : Node → Node) (s : State) : (updNode n f s).img = s.img := rfl
@[simp] theorem updNode_trl (n : Nat) (f : Node → Node) (s : State) : (updNode n f s).trl = s.trl := rfl
@[simp] theorem updNode_pge (n : Nat) (f : Node → Node) (s : State) : (updNode n f s).pge = s.pge := rfl
@[simp] theorem updNode_lpe (n : Nat) (f : Node → Node) (s : State) : (updNode n f s).lpe = s.lpe := rfl
@[simp] theorem updNode_prs (n : Nat) (f : Node → Node) (s : State) : (updNode n f s).prs = s.prs := rfl
@[simp] theorem updNode_saf (n : Nat) (f : Node → Node) (s : State) : (updNode n f s).saf = s.saf := rfl
@[simp] theorem updNode_cel (n : Nat) (f : Node → Node) (s : State) : (updNode n f s).cel = s.cel := rfl
@[simp] theorem updNode_key (n : Nat) (f : Node → Node) (s : State) : (updNode n f s).key = s.key := rfl
@[simp] theorem updNode_stn (n : Nat) (f : Node → Node) (s : State) : (updNode n f s).stn = s.stn := rfl
@[simp] theorem updNode_fbs (n : Nat) (f : Node → Node) (s : State) : (updNode n f s).fbs = s.fbs := rfl
@[simp] theorem updNode_tim (n : Nat) (f : Node → Node) (s : State) : (updNode n f s).tim = s.tim := rfl
@[simp] theorem updNode_upd (n : Nat) (f : Node → Node) (s : State) : (updNode n f s).upd = s.upd := rfl
@[simp] theorem updNode_pwr (n : Nat) (f : Node → Node) (s : State) : (updNode n f s).pwr = s.pwr := rfl

/-! ### updPath -/

@[simp] theorem updPath_pending (n : Nat) (p : Port) (f : PathSt → PathSt) (s : State) : (updPath n p f s).pending = s.pending := rfl
@[simp] theorem updPath_now (n : Nat) (p : Port) (f : PathSt → PathSt) (s : State) : (updPath n p f s).now = s.now := rfl
@[simp] theorem updPath_fresh (n : Nat) (p : Port) (f : PathSt → PathSt) (s : State) : (updPath n p f s).fresh = s.fresh := rfl
@[simp] theorem updPath_reply (n : Nat) (p : Port) (f : PathSt → PathSt) (s : State) : (updPath n p f s).reply = s.reply := rfl
@[simp] theorem updPath_arising (n : Nat) (p : Port) (f : PathSt → PathSt) (s : State) : (updPath n p f s).arising = s.arising := rfl
@[simp] theorem updPath_sys (n : Nat) (p : Port) (f : PathSt → PathSt) (s : State) : (updPath n p f s).sys = s.sys := rfl
@[simp] theorem updPath_mem (n : Nat) (p : Port) (f : PathSt → PathSt) (s : State) : (updPath n p f s).mem = s.mem := rfl
@[simp] theorem updPath_img (n : Nat) (p : Port) (f : PathSt → PathSt) (s : State) : (updPath n p f s).img = s.img := rfl
@[simp] theorem updPath_trl (n : Nat) (p : Port) (f : PathSt → PathSt) (s : State) : (updPath n p f s).trl = s.trl := rfl
@[simp] theorem updPath_pge (n : Nat) (p : Port) (f : PathSt → PathSt) (s : State) : (updPath n p f s).pge = s.pge := rfl
@[simp] theorem updPath_lpe (n : Nat) (p : Port) (f : PathSt → PathSt) (s : State) : (updPath n p f s).lpe = s.lpe := rfl
@[simp] theorem updPath_prs (n : Nat) (p : Port) (f : PathSt → PathSt) (s : State) : (updPath n p f s).prs = s.prs := rfl
@[simp] theorem updPath_saf (n : Nat) (p : Port) (f : PathSt → PathSt) (s : State) : (updPath n p f s).saf = s.saf := rfl
@[simp] theorem updPath_cel (n : Nat) (p : Port) (f : PathSt → PathSt) (s : State) : (updPath n p f s).cel = s.cel := rfl
@[simp] theorem updPath_key (n : Nat) (p : Port) (f : PathSt → PathSt) (s : State) : (updPath n p f s).key = s.key := rfl
@[simp] theorem updPath_stn (n : Nat) (p : Port) (f : PathSt → PathSt) (s : State) : (updPath n p f s).stn = s.stn := rfl
@[simp] theorem updPath_fbs (n : Nat) (p : Port) (f : PathSt → PathSt) (s : State) : (updPath n p f s).fbs = s.fbs := rfl
@[simp] theorem updPath_tim (n : Nat) (p : Port) (f : PathSt → PathSt) (s : State) : (updPath n p f s).tim = s.tim := rfl
@[simp] theorem updPath_upd (n : Nat) (p : Port) (f : PathSt → PathSt) (s : State) : (updPath n p f s).upd = s.upd := rfl
@[simp] theorem updPath_pwr (n : Nat) (p : Port) (f : PathSt → PathSt) (s : State) : (updPath n p f s).pwr = s.pwr := rfl

/-! ### updCh -/

@[simp] theorem updCh_pending (c : SafChan) (f : SafCh → SafCh) (s : State) : (updCh c f s).pending = s.pending := by unfold updCh; split <;> rfl
@[simp] theorem updCh_now (c : SafChan) (f : SafCh → SafCh) (s : State) : (updCh c f s).now = s.now := by unfold updCh; split <;> rfl
@[simp] theorem updCh_fresh (c : SafChan) (f : SafCh → SafCh) (s : State) : (updCh c f s).fresh = s.fresh := by unfold updCh; split <;> rfl
@[simp] theorem updCh_reply (c : SafChan) (f : SafCh → SafCh) (s : State) : (updCh c f s).reply = s.reply := by unfold updCh; split <;> rfl
@[simp] theorem updCh_arising (c : SafChan) (f : SafCh → SafCh) (s : State) : (updCh c f s).arising = s.arising := by unfold updCh; split <;> rfl
@[simp] theorem updCh_sys (c : SafChan) (f : SafCh → SafCh) (s : State) : (updCh c f s).sys = s.sys := by unfold updCh; split <;> rfl
@[simp] theorem updCh_mem (c : SafChan) (f : SafCh → SafCh) (s : State) : (updCh c f s).mem = s.mem := by unfold updCh; split <;> rfl
@[simp] theorem updCh_img (c : SafChan) (f : SafCh → SafCh) (s : State) : (updCh c f s).img = s.img := by unfold updCh; split <;> rfl
@[simp] theorem updCh_trl (c : SafChan) (f : SafCh → SafCh) (s : State) : (updCh c f s).trl = s.trl := by unfold updCh; split <;> rfl
@[simp] theorem updCh_pge (c : SafChan) (f : SafCh → SafCh) (s : State) : (updCh c f s).pge = s.pge := by unfold updCh; split <;> rfl
@[simp] theorem updCh_lpe (c : SafChan) (f : SafCh → SafCh) (s : State) : (updCh c f s).lpe = s.lpe := by unfold updCh; split <;> rfl
@[simp] theorem updCh_prs (c : SafChan) (f : SafCh → SafCh) (s : State) : (updCh c f s).prs = s.prs := by unfold updCh; split <;> rfl
@[simp] theorem updCh_cel (c : SafChan) (f : SafCh → SafCh) (s : State) : (updCh c f s).cel = s.cel := by unfold updCh; split <;> rfl
@[simp] theorem updCh_key (c : SafChan) (f : SafCh → SafCh) (s : State) : (updCh c f s).key = s.key := by unfold updCh; split <;> rfl
@[simp] theorem updCh_stn (c : SafChan) (f : SafCh → SafCh) (s : State) : (updCh c f s).stn = s.stn := by unfold updCh; split <;> rfl
@[simp] theorem updCh_fbs (c : SafChan) (f : SafCh → SafCh) (s : State) : (updCh c f s).fbs = s.fbs := by unfold updCh; split <;> rfl
@[simp] theorem updCh_net (c : SafChan) (f : SafCh → SafCh) (s : State) : (updCh c f s).net = s.net := by unfold updCh; split <;> rfl
@[simp] theorem updCh_tim (c : SafChan) (f : SafCh → SafCh) (s : State) : (updCh c f s).tim = s.tim := by unfold updCh; split <;> rfl
@[simp] theorem updCh_upd (c : SafChan) (f : SafCh → SafCh) (s : State) : (updCh c f s).upd = s.upd := by unfold updCh; split <;> rfl
@[simp] theorem updCh_pwr (c : SafChan) (f : SafCh → SafCh) (s : State) : (updCh c f s).pwr = s.pwr := by unfold updCh; split <;> rfl

/-! ### setFnm -/

@[simp] theorem setFnm_pending (c : SafChan) (n : Nat) (m : FnM) (s : State) : (setFnm c n m s).pending = s.pending := by cases c <;> rfl
@[simp] theorem setFnm_now (c : SafChan) (n : Nat) (m : FnM) (s : State) : (setFnm c n m s).now = s.now := by cases c <;> rfl
@[simp] theorem setFnm_fresh (c : SafChan) (n : Nat) (m : FnM) (s : State) : (setFnm c n m s).fresh = s.fresh := by cases c <;> rfl
@[simp] theorem setFnm_reply (c : SafChan) (n : Nat) (m : FnM) (s : State) : (setFnm c n m s).reply = s.reply := by cases c <;> rfl
@[simp] theorem setFnm_arising (c : SafChan) (n : Nat) (m : FnM) (s : State) : (setFnm c n m s).arising = s.arising := by cases c <;> rfl
@[simp] theorem setFnm_sys (c : SafChan) (n : Nat) (m : FnM) (s : State) : (setFnm c n m s).sys = s.sys := by cases c <;> rfl
@[simp] theorem setFnm_mem (c : SafChan) (n : Nat) (m : FnM) (s : State) : (setFnm c n m s).mem = s.mem := by cases c <;> rfl
@[simp] theorem setFnm_img (c : SafChan) (n : Nat) (m : FnM) (s : State) : (setFnm c n m s).img = s.img := by cases c <;> rfl
@[simp] theorem setFnm_trl (c : SafChan) (n : Nat) (m : FnM) (s : State) : (setFnm c n m s).trl = s.trl := by cases c <;> rfl
@[simp] theorem setFnm_pge (c : SafChan) (n : Nat) (m : FnM) (s : State) : (setFnm c n m s).pge = s.pge := by cases c <;> rfl
@[simp] theorem setFnm_lpe (c : SafChan) (n : Nat) (m : FnM) (s : State) : (setFnm c n m s).lpe = s.lpe := by cases c <;> rfl
@[simp] theorem setFnm_prs (c : SafChan) (n : Nat) (m : FnM) (s : State) : (setFnm c n m s).prs = s.prs := by cases c <;> rfl
@[simp] theorem setFnm_cel (c : SafChan) (n : Nat) (m : FnM) (s : State) : (setFnm c n m s).cel = s.cel := by cases c <;> rfl
@[simp] theorem setFnm_key (c : SafChan) (n : Nat) (m : FnM) (s : State) : (setFnm c n m s).key = s.key := by cases c <;> rfl
@[simp] theorem setFnm_stn (c : SafChan) (n : Nat) (m : FnM) (s : State) : (setFnm c n m s).stn = s.stn := by cases c <;> rfl
@[simp] theorem setFnm_fbs (c : SafChan) (n : Nat) (m : FnM) (s : State) : (setFnm c n m s).fbs = s.fbs := by cases c <;> rfl
@[simp] theorem setFnm_net (c : SafChan) (n : Nat) (m : FnM) (s : State) : (setFnm c n m s).net = s.net := by cases c <;> rfl
@[simp] theorem setFnm_tim (c : SafChan) (n : Nat) (m : FnM) (s : State) : (setFnm c n m s).tim = s.tim := by cases c <;> rfl
@[simp] theorem setFnm_upd (c : SafChan) (n : Nat) (m : FnM) (s : State) : (setFnm c n m s).upd = s.upd := by cases c <;> rfl
@[simp] theorem setFnm_pwr (c : SafChan) (n : Nat) (m : FnM) (s : State) : (setFnm c n m s).pwr = s.pwr := by cases c <;> rfl

/-! ### setPair -/

@[simp] theorem setPair_pending (n : Nat) (p : PairM) (s : State) : (setPair n p s).pending = s.pending := rfl
@[simp] theorem setPair_now (n : Nat) (p : PairM) (s : State) : (setPair n p s).now = s.now := rfl
@[simp] theorem setPair_fresh (n : Nat) (p : PairM) (s : State) : (setPair n p s).fresh = s.fresh := rfl
@[simp] theorem setPair_reply (n : Nat) (p : PairM) (s : State) : (setPair n p s).reply = s.reply := rfl
@[simp] theorem setPair_arising (n : Nat) (p : PairM) (s : State) : (setPair n p s).arising = s.arising := rfl
@[simp] theorem setPair_sys (n : Nat) (p : PairM) (s : State) : (setPair n p s).sys = s.sys := rfl
@[simp] theorem setPair_mem (n : Nat) (p : PairM) (s : State) : (setPair n p s).mem = s.mem := rfl
@[simp] theorem setPair_img (n : Nat) (p : PairM) (s : State) : (setPair n p s).img = s.img := rfl
@[simp] theorem setPair_trl (n : Nat) (p : PairM) (s : State) : (setPair n p s).trl = s.trl := rfl
@[simp] theorem setPair_pge (n : Nat) (p : PairM) (s : State) : (setPair n p s).pge = s.pge := rfl
@[simp] theorem setPair_lpe (n : Nat) (p : PairM) (s : State) : (setPair n p s).lpe = s.lpe := rfl
@[simp] theorem setPair_prs (n : Nat) (p : PairM) (s : State) : (setPair n p s).prs = s.prs := rfl
@[simp] theorem setPair_cel (n : Nat) (p : PairM) (s : State) : (setPair n p s).cel = s.cel := rfl
@[simp] theorem setPair_key (n : Nat) (p : PairM) (s : State) : (setPair n p s).key = s.key := rfl
@[simp] theorem setPair_stn (n : Nat) (p : PairM) (s : State) : (setPair n p s).stn = s.stn := rfl
@[simp] theorem setPair_fbs (n : Nat) (p : PairM) (s : State) : (setPair n p s).fbs = s.fbs := rfl
@[simp] theorem setPair_net (n : Nat) (p : PairM) (s : State) : (setPair n p s).net = s.net := rfl
@[simp] theorem setPair_tim (n : Nat) (p : PairM) (s : State) : (setPair n p s).tim = s.tim := rfl
@[simp] theorem setPair_upd (n : Nat) (p : PairM) (s : State) : (setPair n p s).upd = s.upd := rfl
@[simp] theorem setPair_pwr (n : Nat) (p : PairM) (s : State) : (setPair n p s).pwr = s.pwr := rfl

/-! ### updStn -/

@[simp] theorem updStn_pending (n : Nat) (f : Stn → Stn) (s : State) : (updStn n f s).pending = s.pending := rfl
@[simp] theorem updStn_now (n : Nat) (f : Stn → Stn) (s : State) : (updStn n f s).now = s.now := rfl
@[simp] theorem updStn_fresh (n : Nat) (f : Stn → Stn) (s : State) : (updStn n f s).fresh = s.fresh := rfl
@[simp] theorem updStn_reply (n : Nat) (f : Stn → Stn) (s : State) : (updStn n f s).reply = s.reply := rfl
@[simp] theorem updStn_arising (n : Nat) (f : Stn → Stn) (s : State) : (updStn n f s).arising = s.arising := rfl
@[simp] theorem updStn_sys (n : Nat) (f : Stn → Stn) (s : State) : (updStn n f s).sys = s.sys := rfl
@[simp] theorem updStn_mem (n : Nat) (f : Stn → Stn) (s : State) : (updStn n f s).mem = s.mem := rfl
@[simp] theorem updStn_img (n : Nat) (f : Stn → Stn) (s : State) : (updStn n f s).img = s.img := rfl
@[simp] theorem updStn_trl (n : Nat) (f : Stn → Stn) (s : State) : (updStn n f s).trl = s.trl := rfl
@[simp] theorem updStn_pge (n : Nat) (f : Stn → Stn) (s : State) : (updStn n f s).pge = s.pge := rfl
@[simp] theorem updStn_lpe (n : Nat) (f : Stn → Stn) (s : State) : (updStn n f s).lpe = s.lpe := rfl
@[simp] theorem updStn_prs (n : Nat) (f : Stn → Stn) (s : State) : (updStn n f s).prs = s.prs := rfl
@[simp] theorem updStn_saf (n : Nat) (f : Stn → Stn) (s : State) : (updStn n f s).saf = s.saf := rfl
@[simp] theorem updStn_cel (n : Nat) (f : Stn → Stn) (s : State) : (updStn n f s).cel = s.cel := rfl
@[simp] theorem updStn_key (n : Nat) (f : Stn → Stn) (s : State) : (updStn n f s).key = s.key := rfl
@[simp] theorem updStn_fbs (n : Nat) (f : Stn → Stn) (s : State) : (updStn n f s).fbs = s.fbs := rfl
@[simp] theorem updStn_net (n : Nat) (f : Stn → Stn) (s : State) : (updStn n f s).net = s.net := rfl
@[simp] theorem updStn_tim (n : Nat) (f : Stn → Stn) (s : State) : (updStn n f s).tim = s.tim := rfl
@[simp] theorem updStn_upd (n : Nat) (f : Stn → Stn) (s : State) : (updStn n f s).upd = s.upd := rfl
@[simp] theorem updStn_pwr (n : Nat) (f : Stn → Stn) (s : State) : (updStn n f s).pwr = s.pwr := rfl

/-! ### updPdelay -/

@[simp] theorem updPdelay_pending (p : Port) (f : Pdelay → Pdelay) (s : State) : (updPdelay p f s).pending = s.pending := by cases p <;> rfl
@[simp] theorem updPdelay_now (p : Port) (f : Pdelay → Pdelay) (s : State) : (updPdelay p f s).now = s.now := by cases p <;> rfl
@[simp] theorem updPdelay_fresh (p : Port) (f : Pdelay → Pdelay) (s : State) : (updPdelay p f s).fresh = s.fresh := by cases p <;> rfl
@[simp] theorem updPdelay_reply (p : Port) (f : Pdelay → Pdelay) (s : State) : (updPdelay p f s).reply = s.reply := by cases p <;> rfl
@[simp] theorem updPdelay_arising (p : Port) (f : Pdelay → Pdelay) (s : State) : (updPdelay p f s).arising = s.arising := by cases p <;> rfl
@[simp] theorem updPdelay_sys (p : Port) (f : Pdelay → Pdelay) (s : State) : (updPdelay p f s).sys = s.sys := by cases p <;> rfl
@[simp] theorem updPdelay_mem (p : Port) (f : Pdelay → Pdelay) (s : State) : (updPdelay p f s).mem = s.mem := by cases p <;> rfl
@[simp] theorem updPdelay_img (p : Port) (f : Pdelay → Pdelay) (s : State) : (updPdelay p f s).img = s.img := by cases p <;> rfl
@[simp] theorem updPdelay_trl (p : Port) (f : Pdelay → Pdelay) (s : State) : (updPdelay p f s).trl = s.trl := by cases p <;> rfl
@[simp] theorem updPdelay_pge (p : Port) (f : Pdelay → Pdelay) (s : State) : (updPdelay p f s).pge = s.pge := by cases p <;> rfl
@[simp] theorem updPdelay_lpe (p : Port) (f : Pdelay → Pdelay) (s : State) : (updPdelay p f s).lpe = s.lpe := by cases p <;> rfl
@[simp] theorem updPdelay_prs (p : Port) (f : Pdelay → Pdelay) (s : State) : (updPdelay p f s).prs = s.prs := by cases p <;> rfl
@[simp] theorem updPdelay_saf (p : Port) (f : Pdelay → Pdelay) (s : State) : (updPdelay p f s).saf = s.saf := by cases p <;> rfl
@[simp] theorem updPdelay_cel (p : Port) (f : Pdelay → Pdelay) (s : State) : (updPdelay p f s).cel = s.cel := by cases p <;> rfl
@[simp] theorem updPdelay_key (p : Port) (f : Pdelay → Pdelay) (s : State) : (updPdelay p f s).key = s.key := by cases p <;> rfl
@[simp] theorem updPdelay_stn (p : Port) (f : Pdelay → Pdelay) (s : State) : (updPdelay p f s).stn = s.stn := by cases p <;> rfl
@[simp] theorem updPdelay_fbs (p : Port) (f : Pdelay → Pdelay) (s : State) : (updPdelay p f s).fbs = s.fbs := by cases p <;> rfl
@[simp] theorem updPdelay_net (p : Port) (f : Pdelay → Pdelay) (s : State) : (updPdelay p f s).net = s.net := by cases p <;> rfl
@[simp] theorem updPdelay_upd (p : Port) (f : Pdelay → Pdelay) (s : State) : (updPdelay p f s).upd = s.upd := by cases p <;> rfl
@[simp] theorem updPdelay_pwr (p : Port) (f : Pdelay → Pdelay) (s : State) : (updPdelay p f s).pwr = s.pwr := by cases p <;> rfl

/-! ### updPtBank -/

@[simp] theorem updPtBank_pending (iss : Issuer) (f : PtBank → PtBank) (s : State) : (updPtBank iss f s).pending = s.pending := rfl
@[simp] theorem updPtBank_now (iss : Issuer) (f : PtBank → PtBank) (s : State) : (updPtBank iss f s).now = s.now := rfl
@[simp] theorem updPtBank_fresh (iss : Issuer) (f : PtBank → PtBank) (s : State) : (updPtBank iss f s).fresh = s.fresh := rfl
@[simp] theorem updPtBank_reply (iss : Issuer) (f : PtBank → PtBank) (s : State) : (updPtBank iss f s).reply = s.reply := rfl
@[simp] theorem updPtBank_arising (iss : Issuer) (f : PtBank → PtBank) (s : State) : (updPtBank iss f s).arising = s.arising := rfl
@[simp] theorem updPtBank_sys (iss : Issuer) (f : PtBank → PtBank) (s : State) : (updPtBank iss f s).sys = s.sys := rfl
@[simp] theorem updPtBank_mem (iss : Issuer) (f : PtBank → PtBank) (s : State) : (updPtBank iss f s).mem = s.mem := rfl
@[simp] theorem updPtBank_img (iss : Issuer) (f : PtBank → PtBank) (s : State) : (updPtBank iss f s).img = s.img := rfl
@[simp] theorem updPtBank_pge (iss : Issuer) (f : PtBank → PtBank) (s : State) : (updPtBank iss f s).pge = s.pge := rfl
@[simp] theorem updPtBank_lpe (iss : Issuer) (f : PtBank → PtBank) (s : State) : (updPtBank iss f s).lpe = s.lpe := rfl
@[simp] theorem updPtBank_prs (iss : Issuer) (f : PtBank → PtBank) (s : State) : (updPtBank iss f s).prs = s.prs := rfl
@[simp] theorem updPtBank_saf (iss : Issuer) (f : PtBank → PtBank) (s : State) : (updPtBank iss f s).saf = s.saf := rfl
@[simp] theorem updPtBank_cel (iss : Issuer) (f : PtBank → PtBank) (s : State) : (updPtBank iss f s).cel = s.cel := rfl
@[simp] theorem updPtBank_key (iss : Issuer) (f : PtBank → PtBank) (s : State) : (updPtBank iss f s).key = s.key := rfl
@[simp] theorem updPtBank_stn (iss : Issuer) (f : PtBank → PtBank) (s : State) : (updPtBank iss f s).stn = s.stn := rfl
@[simp] theorem updPtBank_fbs (iss : Issuer) (f : PtBank → PtBank) (s : State) : (updPtBank iss f s).fbs = s.fbs := rfl
@[simp] theorem updPtBank_net (iss : Issuer) (f : PtBank → PtBank) (s : State) : (updPtBank iss f s).net = s.net := rfl
@[simp] theorem updPtBank_tim (iss : Issuer) (f : PtBank → PtBank) (s : State) : (updPtBank iss f s).tim = s.tim := rfl
@[simp] theorem updPtBank_upd (iss : Issuer) (f : PtBank → PtBank) (s : State) : (updPtBank iss f s).upd = s.upd := rfl
@[simp] theorem updPtBank_pwr (iss : Issuer) (f : PtBank → PtBank) (s : State) : (updPtBank iss f s).pwr = s.pwr := rfl

/-! ### updCode -/

@[simp] theorem updCode_pending (c : Nat) (s : State) : (updCode c s).pending = s.pending := rfl
@[simp] theorem updCode_now (c : Nat) (s : State) : (updCode c s).now = s.now := rfl
@[simp] theorem updCode_fresh (c : Nat) (s : State) : (updCode c s).fresh = s.fresh := rfl
@[simp] theorem updCode_arising (c : Nat) (s : State) : (updCode c s).arising = s.arising := rfl
@[simp] theorem updCode_sys (c : Nat) (s : State) : (updCode c s).sys = s.sys := rfl
@[simp] theorem updCode_mem (c : Nat) (s : State) : (updCode c s).mem = s.mem := rfl
@[simp] theorem updCode_img (c : Nat) (s : State) : (updCode c s).img = s.img := rfl
@[simp] theorem updCode_trl (c : Nat) (s : State) : (updCode c s).trl = s.trl := rfl
@[simp] theorem updCode_pge (c : Nat) (s : State) : (updCode c s).pge = s.pge := rfl
@[simp] theorem updCode_lpe (c : Nat) (s : State) : (updCode c s).lpe = s.lpe := rfl
@[simp] theorem updCode_prs (c : Nat) (s : State) : (updCode c s).prs = s.prs := rfl
@[simp] theorem updCode_saf (c : Nat) (s : State) : (updCode c s).saf = s.saf := rfl
@[simp] theorem updCode_cel (c : Nat) (s : State) : (updCode c s).cel = s.cel := rfl
@[simp] theorem updCode_key (c : Nat) (s : State) : (updCode c s).key = s.key := rfl
@[simp] theorem updCode_stn (c : Nat) (s : State) : (updCode c s).stn = s.stn := rfl
@[simp] theorem updCode_fbs (c : Nat) (s : State) : (updCode c s).fbs = s.fbs := rfl
@[simp] theorem updCode_net (c : Nat) (s : State) : (updCode c s).net = s.net := rfl
@[simp] theorem updCode_tim (c : Nat) (s : State) : (updCode c s).tim = s.tim := rfl
@[simp] theorem updCode_pwr (c : Nat) (s : State) : (updCode c s).pwr = s.pwr := rfl

/-! ### updSiSlot -/

@[simp] theorem updSiSlot_pending (f : FlashSlot → FlashSlot) (s : State) : (updSiSlot f s).pending = s.pending := by unfold updSiSlot; split <;> rfl
@[simp] theorem updSiSlot_now (f : FlashSlot → FlashSlot) (s : State) : (updSiSlot f s).now = s.now := by unfold updSiSlot; split <;> rfl
@[simp] theorem updSiSlot_fresh (f : FlashSlot → FlashSlot) (s : State) : (updSiSlot f s).fresh = s.fresh := by unfold updSiSlot; split <;> rfl
@[simp] theorem updSiSlot_reply (f : FlashSlot → FlashSlot) (s : State) : (updSiSlot f s).reply = s.reply := by unfold updSiSlot; split <;> rfl
@[simp] theorem updSiSlot_arising (f : FlashSlot → FlashSlot) (s : State) : (updSiSlot f s).arising = s.arising := by unfold updSiSlot; split <;> rfl
@[simp] theorem updSiSlot_sys (f : FlashSlot → FlashSlot) (s : State) : (updSiSlot f s).sys = s.sys := by unfold updSiSlot; split <;> rfl
@[simp] theorem updSiSlot_mem (f : FlashSlot → FlashSlot) (s : State) : (updSiSlot f s).mem = s.mem := by unfold updSiSlot; split <;> rfl
@[simp] theorem updSiSlot_img (f : FlashSlot → FlashSlot) (s : State) : (updSiSlot f s).img = s.img := by unfold updSiSlot; split <;> rfl
@[simp] theorem updSiSlot_trl (f : FlashSlot → FlashSlot) (s : State) : (updSiSlot f s).trl = s.trl := by unfold updSiSlot; split <;> rfl
@[simp] theorem updSiSlot_pge (f : FlashSlot → FlashSlot) (s : State) : (updSiSlot f s).pge = s.pge := by unfold updSiSlot; split <;> rfl
@[simp] theorem updSiSlot_lpe (f : FlashSlot → FlashSlot) (s : State) : (updSiSlot f s).lpe = s.lpe := by unfold updSiSlot; split <;> rfl
@[simp] theorem updSiSlot_prs (f : FlashSlot → FlashSlot) (s : State) : (updSiSlot f s).prs = s.prs := by unfold updSiSlot; split <;> rfl
@[simp] theorem updSiSlot_saf (f : FlashSlot → FlashSlot) (s : State) : (updSiSlot f s).saf = s.saf := by unfold updSiSlot; split <;> rfl
@[simp] theorem updSiSlot_cel (f : FlashSlot → FlashSlot) (s : State) : (updSiSlot f s).cel = s.cel := by unfold updSiSlot; split <;> rfl
@[simp] theorem updSiSlot_key (f : FlashSlot → FlashSlot) (s : State) : (updSiSlot f s).key = s.key := by unfold updSiSlot; split <;> rfl
@[simp] theorem updSiSlot_stn (f : FlashSlot → FlashSlot) (s : State) : (updSiSlot f s).stn = s.stn := by unfold updSiSlot; split <;> rfl
@[simp] theorem updSiSlot_fbs (f : FlashSlot → FlashSlot) (s : State) : (updSiSlot f s).fbs = s.fbs := by unfold updSiSlot; split <;> rfl
@[simp] theorem updSiSlot_net (f : FlashSlot → FlashSlot) (s : State) : (updSiSlot f s).net = s.net := by unfold updSiSlot; split <;> rfl
@[simp] theorem updSiSlot_tim (f : FlashSlot → FlashSlot) (s : State) : (updSiSlot f s).tim = s.tim := by unfold updSiSlot; split <;> rfl
@[simp] theorem updSiSlot_pwr (f : FlashSlot → FlashSlot) (s : State) : (updSiSlot f s).pwr = s.pwr := by unfold updSiSlot; split <;> rfl

end Sys2Proof.Machine
end

