-- ==== Sys2Proof/Laws/Time.lean ====
section
/-!
SUPPORT. Time.lean: what the shared operations of the time domains change and leave.
-/
namespace Sys2Proof.Machine

/-- A signed 64-bit number as two's complement and back. -/
theorem sOf_twos (z : Int) : sOf 64 (twos 64 z) = (BitVec.ofInt 64 z).toInt := by
  have key : ∀ x : Nat, x < 2 ^ 64 → sOf 64 x = if 2 * x < 2 ^ 64 then (x : Int) else (x : Int) - (2 ^ 64 : Nat) := by
    intro x hx
    unfold sOf
    rw [Nat.mod_eq_of_lt hx]
    by_cases h : x < 2 ^ 63
    · rw [if_pos h, if_pos (by omega)]
    · rw [if_neg h, if_neg (by omega)]
  have h : (z % ((2 ^ 64 : Nat) : Int)).toNat < 2 ^ 64 := by omega
  unfold twos BitVec.toInt
  rw [BitVec.toNat_ofInt, key _ h]

@[simp] theorem dom_updDom_self (n : Nat) (f : Dom → Dom) (s : State) : dom (updDom n f s) n = f (dom s n) := by simp [dom, updDom]
theorem dom_updDom_ne {n m : Nat} (h : m ≠ n) (f : Dom → Dom) (s : State) : dom (updDom n f s) m = dom s m := by
  simp [dom, updDom, Tbl.at_upd_ne _ _ _ _ h]
@[simp] theorem dom_record (code cask : Nat) (data : List Byte) (s : State) (n : Nat) : dom (record code cask data s) n = dom s n := rfl
@[simp] theorem dom_timStatus (iss : Issuer) (c : Nat) (s : State) (n : Nat) : dom (timStatus iss c s) n = dom s n := rfl

/-- The time of a domain that follows none is its own value. -/
theorem domNs_own {s : State} {n : Nat} (h : (dom s n).rc.source ≠ .follow) : domNs s n = (dom s n).t / nsUnit % 2 ^ 64 := by
  unfold domNs domT
  simp only []

/-- Latching a domain's snapshot changes no domain's time. -/
theorem domNs_xs (m : Nat) (v : DWord) (s : State) (k : Nat) :
    domNs (updDom m (fun d => { d with xs := v }) s) k = domNs s k := by
  have hx : ∀ j, dom (updDom m (fun d => { d with xs := v }) s) j =
      { dom s j with xs := if j = m then v else (dom s j).xs } := by
    intro j
    by_cases e : j = m
    · subst e; simp [dom, updDom]
    · simp [dom, updDom, Tbl.at_upd_ne _ _ _ _ e, e]
  simp only [domNs, domT, hx]

/-- A step by the difference to a value makes the domain that value, whatever fraction it had. -/
theorem step_to {v x : Nat} (hv : v < 2 ^ 64) (hx : x < 2 ^ 96) :
    ((((x / nsUnit * nsUnit : Nat) : Int) + ((v : Int) - (x / nsUnit % 2 ^ 64 : Nat)) * (nsUnit : Nat)) % ((2 ^ 96 : Nat) : Int)).toNat
      / nsUnit % 2 ^ 64 = v := by
  unfold nsUnit
  omega

@[simp] theorem updDom_now (n : Nat) (f : Dom → Dom) (s : State) : (updDom n f s).now = s.now := rfl
@[simp] theorem record_now (code cask : Nat) (data : List Byte) (s : State) : (record code cask data s).now = s.now := rfl

/-- Noting trust changes of every domain only whether it was last seen trusted. -/
theorem dom_noteTrust (s : State) (n : Nat) : ∃ b, dom (noteTrust s) n = { dom s n with seenTrust := b } := by
  have one : ∀ (ns : List Nat) (s : State), ∃ b, dom (ns.foldl (fun s n =>
      if trusted s n then updDom n (fun d => { d with seenTrust := true }) s
      else if (dom s n).seenTrust then
        record cTIM_UNTRUSTED 0 (d1 n) (updDom n (fun d => { d with seenTrust := false }) s)
      else s) s) n = { dom s n with seenTrust := b } := by
    intro ns
    induction ns with
    | nil => intro s; exact ⟨(dom s n).seenTrust, rfl⟩
    | cons m r ih =>
      intro s
      simp only [List.foldl_cons]
      obtain ⟨b, hb⟩ := ih (if trusted s m then updDom m (fun d => { d with seenTrust := true }) s
        else if (dom s m).seenTrust then record cTIM_UNTRUSTED 0 (d1 m) (updDom m (fun d => { d with seenTrust := false }) s) else s)
      rw [hb]
      refine ⟨b, ?_⟩
      split
      · by_cases e : n = m
        · subst e; simp
        · simp [dom_updDom_ne e]
      · split
        · by_cases e : n = m
          · subst e; simp
          · simp [dom_updDom_ne e]
        · rfl
  exact one domains s

/-- Noting trust changes nothing outside TIM but the events that arise. -/
theorem noteTrust_frame (s : State) : ∃ tm ar, noteTrust s = { s with tim := tm, arising := ar } := by
  have one : ∀ (ns : List Nat) (s : State), ∃ tm ar, ns.foldl (fun s n =>
      if trusted s n then updDom n (fun d => { d with seenTrust := true }) s
      else if (dom s n).seenTrust then
        record cTIM_UNTRUSTED 0 (d1 n) (updDom n (fun d => { d with seenTrust := false }) s)
      else s) s = { s with tim := tm, arising := ar } := by
    intro ns
    induction ns with
    | nil => intro s; exact ⟨_, _, rfl⟩
    | cons m r ih =>
      intro s
      simp only [List.foldl_cons]
      split
      · obtain ⟨tm, ar, e⟩ := ih (updDom m (fun d => { d with seenTrust := true }) s)
        exact ⟨tm, ar, e⟩
      · split
        · obtain ⟨tm, ar, e⟩ := ih (record cTIM_UNTRUSTED 0 (d1 m) (updDom m (fun d => { d with seenTrust := false }) s))
          exact ⟨tm, ar, e⟩
        · exact ih s
  exact one domains s

/-- The trust of a domain does not depend on what was last seen of it. -/
theorem trusted_seen (s : State) (m : Nat) (b : Bool) (k : Nat) :
    trusted (updDom m (fun d => { d with seenTrust := b }) s) k = trusted s k := by
  have hd : ∀ j, dom (updDom m (fun d => { d with seenTrust := b }) s) j =
      { dom s j with seenTrust := if j = m then b else (dom s j).seenTrust } := by
    intro j
    by_cases e : j = m
    · subst e; simp
    · simp [dom_updDom_ne e, e]
  simp only [trusted, hd, ownTrust]

/-- Recording an event leaves trust alone. -/
@[simp] theorem trusted_record (code cask : Nat) (data : List Byte) (s : State) (k : Nat) :
    trusted (record code cask data s) k = trusted s k := rfl

/-- What noting trust records of a domain that has lost it. -/
theorem noteTrust_event (s : State) (n : Nat) (hn : n < 4) (h : trusted s n = false) (hs : (dom s n).seenTrust = true) :
    { code := cTIM_UNTRUSTED, data := d1 n } ∈ (noteTrust s).arising := by
  have keep : ∀ (ns : List Nat) (s : State) (e : Event), e ∈ s.arising → e ∈ (ns.foldl (fun s n =>
      if trusted s n then updDom n (fun d => { d with seenTrust := true }) s
      else if (dom s n).seenTrust then
        record cTIM_UNTRUSTED 0 (d1 n) (updDom n (fun d => { d with seenTrust := false }) s)
      else s) s).arising := by
    intro ns
    induction ns with
    | nil => intro s e h; exact h
    | cons m r ih =>
      intro s e h
      simp only [List.foldl_cons]
      apply ih
      split
      · exact h
      · split
        · exact List.mem_append_left _ h
        · exact h
  have one : ∀ (ns : List Nat) (s : State), n ∈ ns → trusted s n = false → (dom s n).seenTrust = true →
      { code := cTIM_UNTRUSTED, data := d1 n } ∈ (ns.foldl (fun s n =>
      if trusted s n then updDom n (fun d => { d with seenTrust := true }) s
      else if (dom s n).seenTrust then
        record cTIM_UNTRUSTED 0 (d1 n) (updDom n (fun d => { d with seenTrust := false }) s)
      else s) s).arising := by
    intro ns
    induction ns with
    | nil => intro s hm; cases hm
    | cons m r ih =>
      intro s hm h hs
      simp only [List.foldl_cons]
      by_cases e : n = m
      · subst e
        apply keep
        simp [h, hs, record, recordF]
      · have hr : n ∈ r := by cases hm with
          | head => exact absurd rfl e
          | tail _ h => exact h
        apply ih _ hr
        · split
          · rw [trusted_seen]; exact h
          · split
            · rw [trusted_record, trusted_seen]; exact h
            · exact h
        · split
          · rw [dom_updDom_ne e]; exact hs
          · split
            · rw [dom_record, dom_updDom_ne e]; exact hs
            · exact hs
  exact one domains s (by unfold domains; simp; omega) h hs

/-- Noting trust leaves each domain seen as it is trusted. -/
theorem noteTrust_seen (s : State) (n : Nat) (hn : n < 4) : (dom (noteTrust s) n).seenTrust = trusted s n := by
  have one : ∀ (ns : List Nat) (s : State), ns.Nodup → (dom (ns.foldl (fun s n =>
      if trusted s n then updDom n (fun d => { d with seenTrust := true }) s
      else if (dom s n).seenTrust then
        record cTIM_UNTRUSTED 0 (d1 n) (updDom n (fun d => { d with seenTrust := false }) s)
      else s) s) n).seenTrust = if n ∈ ns then trusted s n else (dom s n).seenTrust := by
    intro ns
    induction ns with
    | nil => intro s _; simp
    | cons m r ih =>
      intro s hd
      have hm := (List.nodup_cons.mp hd).1
      simp only [List.foldl_cons]
      rw [ih _ (List.nodup_cons.mp hd).2]
      have ht : ∀ k, trusted (if trusted s m then updDom m (fun d => { d with seenTrust := true }) s
          else if (dom s m).seenTrust then
            record cTIM_UNTRUSTED 0 (d1 m) (updDom m (fun d => { d with seenTrust := false }) s) else s) k = trusted s k := by
        intro k
        split
        · exact trusted_seen ..
        · split
          · rw [trusted_record, trusted_seen]
          · rfl
      rw [ht]
      by_cases e : n = m
      · subst e
        simp only [hm, if_false, List.mem_cons, true_or, if_true]
        cases h1 : trusted s n
        · cases h2 : (dom s n).seenTrust <;> simp [h2]
        · simp
      · have : (n ∈ m :: r) ↔ n ∈ r := by simp [e]
        simp only [this]
        split
        · rfl
        · split
          · rw [dom_updDom_ne e]
          · split
            · rw [dom_record, dom_updDom_ne e]
            · rfl
  have := one domains s (by decide)
  have hm : n ∈ domains := by unfold domains; simp; omega
  rw [if_pos hm] at this
  exact this

/-- A domain's part of a step: its STEPS, and nothing else of any domain. -/
theorem dom_noteStep (m : Nat) (ns : Int) (s : State) (n : Nat) :
    dom (noteStep m ns s) n = if n = m then { dom s n with steps := ((dom s n).steps + 1) % 65536 } else dom s n := by
  have lag : ∀ (is : List Nat) (s : State), dom (is.foldl (fun s i =>
      { s with tim.lag := Tbl.upd s.tim.lag (i * 4 + m) 0 (· + ns) }) s) n = dom s n := by
    intro is
    induction is with
    | nil => intro s; rfl
    | cons i r ih => intro s; simp only [List.foldl_cons]; rw [ih]; rfl
  unfold noteStep
  rw [dom_record, lag]
  by_cases e : n = m
  · subst e; simp
  · simp [dom_updDom_ne e, e]

/-- Noting trust drops no event. -/
theorem noteTrust_keeps (s : State) (e : Event) (h : e ∈ s.arising) : e ∈ (noteTrust s).arising := by
  have keep : ∀ (ns : List Nat) (s : State), e ∈ s.arising → e ∈ (ns.foldl (fun s n =>
      if trusted s n then updDom n (fun d => { d with seenTrust := true }) s
      else if (dom s n).seenTrust then
        record cTIM_UNTRUSTED 0 (d1 n) (updDom n (fun d => { d with seenTrust := false }) s)
      else s) s).arising := by
    intro ns
    induction ns with
    | nil => intro s h; exact h
    | cons m r ih =>
      intro s h
      simp only [List.foldl_cons]
      apply ih
      split
      · exact h
      · split
        · exact List.mem_append_left _ h
        · exact h
  exact keep domains s h

/-- A step of a domain that follows none moves it by the amount and counts; its other fields stay. -/
theorem dom_stepDom (n : Nat) (ns : Int) (s : State) (h : (dom s n).rc.source ≠ .follow) :
    dom (stepDom n ns s) n = { dom s n with
      t := (((dom s n).t : Int) + ns * (nsUnit : Nat)) % ((2 ^ 96 : Nat) : Int) |>.toNat,
      steps := ((dom s n).steps + 1) % 65536 } := by
  have fol : ∀ (ms : List Nat) (s : State), (∀ m, m ∈ ms → m ≠ n) → dom (ms.foldl (fun s m =>
      if (dom s m).rc.followSteps then noteStep m ns s
      else updDom m (fun d => { d with absorbed := d.absorbed - ns }) s) s) n = dom s n := by
    intro ms
    induction ms with
    | nil => intro s _; rfl
    | cons m r ih =>
      intro s hm
      have hne := Ne.symm (hm m (List.mem_cons_self ..))
      simp only [List.foldl_cons]
      rw [ih _ fun k hk => hm k (List.mem_cons_of_mem _ hk)]
      split
      · rw [dom_noteStep, if_neg hne]
      · rw [dom_updDom_ne hne]
  have base : ∀ s0 : State, dom s0 n = { dom s n with
      t := (((dom s n).t : Int) + ns * (nsUnit : Nat)) % ((2 ^ 96 : Nat) : Int) |>.toNat,
      steps := ((dom s n).steps + 1) % 65536 } →
      dom ((followers s0 n).foldl (fun s m => if (dom s m).rc.followSteps then noteStep m ns s
        else updDom m (fun d => { d with absorbed := d.absorbed - ns }) s) s0) n = dom s0 n := by
    intro s0 h0
    apply fol
    intro m hm e
    subst e
    simp only [followers, List.mem_filter, Bool.and_eq_true, beq_iff_eq] at hm
    rw [h0] at hm
    exact h hm.2.1
  have hb : dom (noteStep n ns (updDom n (fun d =>
      { d with t := (((d.t : Int) + ns * (nsUnit : Nat)) % ((2 ^ 96 : Nat) : Int)).toNat }) s)) n = { dom s n with
      t := (((dom s n).t : Int) + ns * (nsUnit : Nat)) % ((2 ^ 96 : Nat) : Int) |>.toNat,
      steps := ((dom s n).steps + 1) % 65536 } := by
    rw [dom_noteStep]; simp
  unfold stepDom
  simp only []
  split
  · show dom (List.foldl _ _ _) n = _
    rw [base _ hb, hb]
  · rw [base _ hb, hb]

/-- Correcting an offset keeps a domain's record, state and grandmaster. -/
theorem dom_correct (n : Nat) (b : Bool) (off : Int) (s : State) (h : (dom s n).rc.source ≠ .follow) :
    (dom (correct n b off s) n).rc = (dom s n).rc ∧ (dom (correct n b off s) n).st = (dom s n).st ∧
    (dom (correct n b off s) n).gm = (dom s n).gm ∧ (dom (correct n b off s) n).ref = (dom s n).ref ∧
    (dom (correct n b off s) n).lastSync = (dom s n).lastSync ∧ (dom (correct n b off s) n).lastOfs = (dom s n).lastOfs := by
  unfold correct
  split
  · rw [dom_stepDom _ _ _ (by simpa using h)]; simp
  · simp [slewDom]

end Sys2Proof.Machine
end

