-- ==== Sys2Proof/Tests/Slice0.lean ====
section
/-!
SUPPORT. Slice0.lean: the model's own tests: the WellFormed smoke test, single commands on small states, and for every statement a
state and operands that meet its hypotheses.
-/
namespace Sys2Proof.Tests
open Sys2Proof.Machine

theorem witness_narrow : (2 : Fin 5).val ≠ 4 ∨ (0x40000002 : Word).toNat % 4 ≠ 0 := by decide
theorem witness_unmapped : 0x400E0000 ≤ (0x400E0000 : Word).toNat ∧ (0x400E0000 : Word).toNat ≤ 0x4FFFFFFF := by decide

/-- Every island in RUN. -/
def sRun : State := { State.reset with sys.isl := (List.range 11).map (fun i => (i, .run)) }
theorem witness_sys_compat : Permits sRun .firmware .sys 0x0010 true := by decide
theorem witness_upd_write : Issuer.firmware.cask = 0 ∧ Permits sRun .firmware .upd 0x0804 true := by decide
theorem witness_trl_read : Permits sRun .firmware .trl 0x0004 false := by decide
theorem witness_trl_down : access State.reset .firmware .trl 0x0040 true = .down ∧ access State.reset .firmware .trl 0x0004 false = .down := by
  decide

/-- A session of cask 3 is open on the service port, and the cask's first 16 UPD registers are in its map. -/
def sFmp : State :=
  { sRun with key.sessions := [(1, { cask := 3 })], net.flows := [(7, { st := .admitted, cask := 3 })],
              img.casks := [(3, { enabled := true })],
              img.windows := [(3, [{ block := 12, first := 0, last := 0x40, canRead := true, canWrite := true }])] }
def hFmp (cask : Fin 64) (block : Nat) : FmpHdr :=
  { service := true, client := 1, ver := 1, cask := cask, seq := 5, block := block, offset := 0, count := 1 }
theorem fmp_in_order_12 : FmpInOrder (hFmp 3 12) sFmp :=
  ⟨rfl, ⟨_, rfl, rfl⟩, by decide, rfl, Nat.le.refl, by decide, by decide, rfl⟩
theorem fmp_in_order_0 : FmpInOrder (hFmp 3 0) sFmp :=
  ⟨rfl, ⟨_, rfl, rfl⟩, by decide, rfl, Nat.le.refl, by decide, by decide, rfl⟩
theorem witness_fmp_read : FmpInOrder (hFmp 3 12) sFmp ∧ fmpWords (fmpAt (hFmp 3 12) sFmp) (hFmp 3 12) = some [(12, 0)] ∧
    [(12, 0)].all (fmpAllowed (fmpAt (hFmp 3 12) sFmp) (hFmp 3 12) false) = true := ⟨fmp_in_order_12, by decide, by decide⟩
theorem witness_fmp_write : FmpInOrder (hFmp 3 12) sFmp ∧ [(7 : Word)].length = (hFmp 3 12).count ∧
    fmpWords (fmpAt (hFmp 3 12) sFmp) (hFmp 3 12) = some [(12, 0)] ∧
    [(12, 0)].all (fmpAllowed (fmpAt (hFmp 3 12) sFmp) (hFmp 3 12) true) = true := ⟨fmp_in_order_12, rfl, by decide, by decide⟩
theorem witness_fmp_admit : FmpInOrder (hFmp 3 0) sFmp ∧ (hFmp 3 0).block = 0 ∧ (hFmp 3 0).offset = 0 ∧ sFmp.net.waiting.length < 16 :=
  ⟨fmp_in_order_0, rfl, rfl, by decide⟩
theorem witness_fmp_release : FmpInOrder (hFmp 3 0) sFmp ∧ (Tbl.at sFmp.net.flows (7 : Fin 1024) {}).st = .admitted ∧
    (Tbl.at sFmp.net.flows (7 : Fin 1024) {}).cask = (hFmp 3 0).cask.val ∧ sFmp.net.releasing.contains (7 : Fin 1024).val = false :=
  ⟨fmp_in_order_0, by decide, by decide, by decide⟩
theorem witness_safety_msg : FmpInOrder (hFmp 0 0) { sFmp with key.sessions := [(1, { cask := 0 })] } ∧ (hFmp 0 0).cask = 0 :=
  ⟨⟨rfl, ⟨_, rfl, rfl⟩, by decide, rfl, Nat.le.refl, by decide, by decide, rfl⟩, rfl⟩

/-- Cask 1's task 0 executes on processor 0, with a 16 KiB partition, 4 KiB code and two image slots. -/
def sIsa (c : Ctx) : State :=
  { sRun with
    img.casks := [(1, { enabled := true, hasPartition := true, instKib := 16, retainKib := 4 })],
    pge.casks := [(1, { mode := .run, defined := true, rc := { codeOff := 0x100, codeLen := 0x1000 } })],
    pge.tasks := [(32, { exist := true, prog := { outSlots := [5, 6] },
                         cyc := some { phase := .running, clk := 900, image := [(41, 0x40), (42, 0)] } })],
    pge.p0 := { task := some 32, ctx := c } }
/-- The item that runs in it. -/
def iIsa : Item := { n := 32, work := false }
theorem witness_runs : Runs 0 iIsa (sIsa {}) := by decide
theorem test_op_add_wraps : (match exec (.opAdd 0 2 1 (.imm 1)) (sIsa { d := [(1, 0xFFFFFFFFFFFFFFFF)] }) with
    | .next t => (dReg t.pge.p0.ctx 2, t.pge.p0.ctx.pc, t.pge.p0.busy) | _ => (7, 7, 7)) = (0, 4, 1) := by decide
theorem test_op_div_zero : (match exec (.opDiv 0 2 1 (.imm 0)) (sIsa { d := [(1, 5), (2, 9)] }) with
    | .next t => (dReg t.pge.p0.ctx 2, t.arising.map (·.code)) | _ => (7, [])) = (0, [0x0404]) := by decide
theorem test_op_int_conv : (match exec (.opIntConv 0 2 1 .u8) (sIsa { d := [(1, 300)] }) with
    | .next t => (dReg t.pge.p0.ctx 2, t.arising.map (·.code)) | _ => (7, [])) = (255, [0x0404]) := by decide

theorem test_op_cmp_signed : (match exec (.opCmp 0 .lt 3 1 (.imm 0)) (sIsa { d := [(1, 0xFFFFFFFFFFFFFFFF)] }) with
    | .next t => bReg t.pge.p0.ctx 3 | _ => false) = true := by decide
theorem test_op_rol : (match exec (.opRol 0 2 1 (.imm 68)) (sIsa { d := [(1, 0xF000000000000001)] }) with
    | .next t => dReg t.pge.p0.ctx 2 | _ => 0) = 0x1F := by decide

theorem test_op_fadd : (match exec (.opFadd 0 false 2 1 (.imm 0x3CA0000000000000)) (sIsa { d := [(1, 0x3FF0000000000001)] }) with
    | .next t => dReg t.pge.p0.ctx 2 | _ => 0) = 0x3FF0000000000002 := by decide
theorem witness_cvt_in : Sys2Proof.Float.isNan Sys2Proof.Float.b64 0x4000000000000000 = false ∧ Sys2Proof.Float.isInf Sys2Proof.Float.b64 0x4000000000000000 = false ∧
    (fmtRange .i16).1 ≤ Sys2Proof.Float.roundFin Sys2Proof.Float.b64 0x4000000000000000 ∧
    Sys2Proof.Float.roundFin Sys2Proof.Float.b64 0x4000000000000000 ≤ (fmtRange .i16).2 := by decide
theorem witness_cvt_low : Sys2Proof.Float.isNan Sys2Proof.Float.b64 0xC0F0000000000000 = false ∧ Sys2Proof.Float.isInf Sys2Proof.Float.b64 0xC0F0000000000000 = false ∧
    Sys2Proof.Float.roundFin Sys2Proof.Float.b64 0xC0F0000000000000 < (fmtRange .i16).1 := by decide
theorem witness_cvt_high : Sys2Proof.Float.isNan Sys2Proof.Float.b64 0x40F0000000000000 = false ∧ Sys2Proof.Float.isInf Sys2Proof.Float.b64 0x40F0000000000000 = false ∧
    (fmtRange .i16).1 ≤ Sys2Proof.Float.roundFin Sys2Proof.Float.b64 0x40F0000000000000 ∧
    (fmtRange .i16).2 < Sys2Proof.Float.roundFin Sys2Proof.Float.b64 0x40F0000000000000 := by decide

theorem witness_load : Runs 0 iIsa (sIsa {}) ∧ loadOk (sIsa {}) iIsa (adv 0 (sIsa {})) (memAddr (adv 0 (sIsa {})) { base := .gb, imm := 16376 }) 8 =
    true := by decide
theorem witness_store : Runs 0 iIsa (sIsa {}) ∧ storeOk (sIsa {}) iIsa (adv 0 (sIsa {})) (memAddr (adv 0 (sIsa {})) { base := .ib, imm := 16376 }) 8 =
    true := by decide

theorem witness_load_refused : Runs 0 iIsa (sIsa {}) ∧ iIsa.work = false ∧
    loadOk (sIsa {}) iIsa (adv 0 (sIsa {})) (memAddr (adv 0 (sIsa {})) { base := .gb, imm := 16377 }) 8 = false := by decide
theorem witness_store_refused : storeOk (sIsa {}) iIsa (adv 0 (sIsa {})) (memAddr (adv 0 (sIsa {})) { base := .gb, imm := 16384 }) 1 = false := by
  decide
theorem witness_element_refused : loadOk (sIsa {}) iIsa (adv 0 (sIsa {})) (memAddr (adv 0 (sIsa {})) { base := .gb, imm := 16368 }) 24 = false := by
  decide
/-- Slot 3 belongs to cask 2. -/
def sSlot : State := { sIsa {} with lpe.slots := [(3, { rc := { slot := 3, cask := 2 } }), (4, { rc := { slot := 4, cask := 1 } })] }
theorem witness_slot_refused : Runs 0 iIsa sSlot ∧ (adv 0 sSlot).migr = none ∧ (slot? sSlot 3).map (·.rc.cask) = some 2 ∧ 2 ≠ iIsa.n / 32 := by
  decide

/-- The cycle that runs in `sIsa`. -/
def yIsa : Cycle := { phase := .running, clk := 900, image := [(41, 0x40), (42, 0)] }
theorem witness_in_cycle : InCycle 0 iIsa yIsa sSlot ∧ yIsa.image[(1 : Half).toNat]? = some (42, 0) ∧
    (1 : Half).toNat < (taskSt sSlot iIsa.n).prog.outSlots.length ∧ (adv 0 sSlot).ib + 27 ≤ (caskRec sSlot (iIsa.n / 32)).instKib * 1024 ∧
    (slot? sSlot 4).map (·.rc.cask) = some (iIsa.n / 32) := ⟨⟨by decide, rfl, by decide, by decide⟩, by decide⟩
/-- The same cycle as an error task's run. -/
def sErr : State := withCyc iIsa { yIsa with err := some { code := 0x0404 } } sSlot
theorem witness_errinfo : InCycle 0 iIsa { yIsa with err := some { code := 0x0404 } } sErr := ⟨by decide, rfl, by decide, by decide⟩
theorem test_op_in : (match exec (.opIn 0 2 5 0) (sIsa {}) with
    | .next t => (dReg t.pge.p0.ctx 2, bReg t.pge.p0.ctx 5) | _ => (0, false)) = (41, true) := by decide

theorem witness_jump : Runs 0 iIsa (sIsa {}) ∧ iIsa.work = false ∧ (pcask (sIsa {}) (iIsa.n / 32)).rc.codeOff ≤ (0x10FF : Word).toNat ∧
    (0x10FF : Word).toNat < (pcask (sIsa {}) (iIsa.n / 32)).rc.codeOff + (pcask (sIsa {}) (iIsa.n / 32)).rc.codeLen ∧
    bReg (adv 0 (sIsa {})) 1 ≠ true ∧ bReg (adv 0 (sIsa {})) 1 = false := by decide
theorem witness_call : Runs 0 iIsa (sIsa {}) ∧ (adv 0 (sIsa {})).migr = none := by decide
theorem witness_ret : Runs 0 iIsa (sIsa { stack := [(8, 16)] }) ∧ (adv 0 (sIsa { stack := [(8, 16)] })).stack = [(8, 16)] ∧
    (adv 0 (sIsa { stack := [(8, 16)] })).ib + 26 < (caskRec (sIsa { stack := [(8, 16)] }) (iIsa.n / 32)).instKib * 1024 := by decide
theorem witness_ret_end : InCycle 0 iIsa yIsa (sIsa {}) ∧ (adv 0 (sIsa {})).stack = [] := ⟨⟨by decide, rfl, by decide, by decide⟩, rfl⟩
theorem test_op_call_depth : (match exec (.opCall 0 0x40 0x200) (sIsa { stack := List.replicate 32 (0, 0) }) with
    | .next t => (t.arising.map (·.code), (taskSt t 32).cyc.isSome) | _ => ([], true)) = ([0x0406], false) := by decide
theorem test_op_call : (match exec (.opCall 0 0x40 0x200) (sIsa { ib := 7 }) with
    | .next t => (t.pge.p0.ctx.pc, t.pge.p0.ctx.ib, t.pge.p0.ctx.stack) | _ => (0, 0, [])) = (0x200, 0x40, [(4, 7)]) := by decide

theorem witness_element : ElementOk 0 iIsa yIsa (memAddr (adv 0 (sIsa {})) { base := .gb, imm := 16360 }) 24 (sIsa {}) :=
  ⟨⟨by decide, rfl, by decide, by decide⟩, by decide⟩
theorem test_op_ton : (match exec (.opTon 0 { base := .gb, imm := 64 } 1 2) (sIsa { b := [(1, true)] }) with
    | .next t => (bReg t.pge.p0.ctx 2, inst64 t iIsa 72, instBit t iIsa 80 2) | _ => (false, 0, false)) = (true, 900, true) := by decide

/-- Domain 1 follows a grandmaster 7 on domainNumber 24; domain 0 is free. -/
def sTim (d : Dom) : State :=
  { sRun with tim.doms := [(1, { d with rc := { source := .ptp, ptpDn := 24, acceptNs := 1000 } })], now := 20000000000,
              net.nodes := [(5, { ref := some .a })] }
theorem witness_sync : isRun (sTim { st := .acquiring, evalGm := 7, offs := [1, 2, 3] }) .ring = true ∧
    ptpDomain (sTim { st := .acquiring, evalGm := 7, offs := [1, 2, 3] }) 24 = some 1 ∧
    refOf (sTim { st := .acquiring, evalGm := 7, offs := [1, 2, 3] }) (5 : Fin 64) = some .a := by decide
theorem witness_sync_eighth : (countOffset 1000 [1, 1, 1, 1, 1, 1, 1] 0).length = 8 ∧ (countOffset 1000 [1, 2] 0).length < 8 := by decide
theorem witness_holdover : (dom (sTim { st := .locked }) 1).rc.source = .ptp ∧ (dom (sTim { st := .locked }) 1).st = .locked ∧
    (dom (sTim { st := .locked }) 1).master = false ∧
    3 * syncInterval (dom (sTim { st := .locked }) 1).rc ≤ (sTim { st := .locked }).now - (dom (sTim { st := .locked }) 1).lastSync ∧
    announceTimeoutNs (dom (sTim { st := .locked }) 1).rc ≤ (sTim { st := .locked }).now - (dom (sTim { st := .locked }) 1).lastAnnounce ∧
    (dom (sTim { st := .locked }) 1).rc.masterCapable = false ∧ (dom (sTim { st := .locked }) 1).best = none := by decide
theorem witness_hold : isRun (sTim { st := .holdover, slewing := true }) .cluster = true ∧ trusted (sTim {}) 1 = false ∧
    1000000000 ≤ (sTim { st := .holdover }).now - (dom (sTim { st := .holdover }) 1).holdAt ∧
    (dom (sTim { slewing := true }) 1).slewing = true ∧ (dom (sTim { slewing := true }) 1).slewRem = 0 := by decide

theorem witness_set : Permits sRun .firmware .tim (0x0128 + 0x40 * (2 : Fin 4)) true ∧ Issuer.firmware.cask = 0 ∧
    (dom sRun (2 : Fin 4)).rc.source = .free ∧ (dom sRun (2 : Fin 4)).t < 2 ^ 96 := by decide
theorem witness_set_refused : (dom (sTim { st := .locked }) (1 : Fin 4)).rc.source = .ptp ∧ (dom (sTim { st := .locked }) (1 : Fin 4)).st = .locked ∧
    Permits (sTim { st := .locked }) .firmware .tim (0x0128 + 0x40 * (1 : Fin 4)) true := by decide
/-- Free domain 2 in SET, both ports linked, domain 2 a grandmaster, capture 1 on input. -/
def sFree : State :=
  { sRun with tim.doms := [(2, { st := .set, master := true, t := 5 * 2 ^ 32 })], net.portA.link := true, net.portB.link := true,
              tim.caps := [(1, { en := true, src := 4, domain := 2 })] }
theorem witness_free : (dom sFree (2 : Fin 4)).rc.source = .free ∧ (dom sFree (2 : Fin 4)).st = .set ∧ (dom sFree (2 : Fin 4)).master = true ∧
    sFree.net.portA.link = true ∧ sFree.net.portB.link = true ∧ sFree.tim.pdA.pendingAt = none ∧ sFree.tim.pdB.pendingAt = none ∧
    (capture sFree (1 : Fin 4)).en = true ∧ (capture sFree (1 : Fin 4)).src = capCode .timeCapIn ∧ isRun sFree .ring = true := by decide
theorem witness_tim_regs : Permits sFree .firmware .tim (0x0128 + 0x40 * (2 : Fin 4)) true ∧
    Permits sFree .firmware .tim (0x0100 + 0x40 * (2 : Fin 4)) false ∧ Permits sFree .firmware .tim 0x0000 true ∧
    Permits sFree .firmware .tim (0x0044 + 8 * (1 : Fin 4)) false := by decide
theorem test_set : (match exec (.setDomain .firmware 2) { sFree with tim.doms := [(2, { setHi := 1, setLo := 9, t := 77 })] } with
    | .next t => (domNs t 2, t.reply) | _ => (0, .none)) = (4294967305, .code 0x0900) := by decide

/-- Both ring ports have link; node 1 (address 7, MAC 9) is heard on both. -/
def nRing : Node :=
  { mac := 9, addr := 7, hb := true, pa := { st := .up, lastHb := some 1 }, pb := { st := .standby, lastHb := some 20000000000 }, suspect := some 1 }
def eRing : DupEnt := { mac := 9, win := [{ seq := 4, onA := true, onB := false }] }
def sRing : State :=
  { sRun with net.portA := { link := true }, net.portB := { link := true }, net.inRing := true, now := 20000000000, net.nodes := [(0, { mac := 3 }), (1, nRing)], net.dup := [(0, eRing)], net.leesBufs := [(0, { frame := ownFrame sRun .other, port := .a, at0 := 0 })] }
def fRing (k : FrameKind) : Frame := { ownFrame sRun k with src := 9, hsrSeq := 5, own := true }
theorem witness_ring_forward : isRun sRing .ring = true ∧ (portSt sRing .a).link = true ∧ (portSt sRing .b).link = true ∧
    (fRing .flow).src ≠ ownMac sRing ∧ sRing.net.inRing = true ∧ ({ fRing .flow with own := false, transit := true } : Frame).own = false := by
  decide
theorem witness_ring_own : isFalore (fRing .fmp) = true ∧ isRun sRing .key = true ∧
    authFrame sRing { fRing .fmp with keyRef := 3 * 2 ^ 28 } = .stale ∧ authFrame sRing (fRing .fmp) = .bad := by decide
theorem witness_ring_dup : isFalore (fRing .supervision) = false ∧ dupOf sRing 9 = some (0, eRing) ∧
    eRing.win.find? (fun q => q.seq == 5) = none ∧
    eRing.win.find? (fun q => q.seq == 4) = some { seq := 4, onA := true, onB := false } := by decide
theorem witness_ring_paths : (node sRing 1).hb = true ∧ (pathSt (node sRing 1) .a).st = .up ∧ (pathSt (node sRing 1) .b).st = .standby ∧
    (pathSt (node sRing 1) .b).cleanFrom + 10000000000 ≤ sRing.now ∧ (node sRing 1).suspect = some 1 ∧
    Tbl.get? sRing.net.leesBufs 0 ≠ none ∧ (portSt sRun .a).link = false := by decide

theorem witness_ring_send : isRun sRing .trellis = true ∧ isRun sRing .key = true ∧
    ({ sRing with net.admActive := true, net.hbtEpoch := 1 } : State).net.hbAt ≠ some sRing.trl.frame ∧ sRing.net.superAt = none ∧
    ({ sRing with net.admActive := true, net.inRing := false } : State).net.bypHold = false := by decide
theorem witness_ring_ctrl : Permits sRing (⟨0, 0, false⟩) .net 0x0000 true ∧ Permits sRing (⟨0, 0, false⟩) .net 0x0300 true ∧
    sRing.net.ptest.state ≠ .running ∧ (portSt { sRing with net.portA.q1 := [fRing .flow] } .a).q1 = [fRing .flow] := by decide
def sPtest : State := { sRing with net.ptest := { state := .running, len := 46, sent := 1000, lastAt := 0 } }
theorem witness_ptest : sPtest.net.ptest.state = .running ∧ sPtest.net.ptest.lastAt + max 10000 ((sPtest.net.ptest.len + 92) * 10) ≤ sPtest.now ∧
    sPtest.net.ptest.lastAt + 100000000 ≤ sPtest.now := by decide

theorem witness_admit : Permits sRing ⟨0, 1, false⟩ .net 0x020C true ∧ sRing.net.waiting.length < 16 ∧ binding sRing = false ∧
    periodOk 3 = false ∧ periodOk 10 = true := by decide
def xFlow : Flow := { st := .binding, cask := 3, periodMs := 10, phase := 0, npts := 1, node := 1 }
def sFlow (x : Flow) : State := { sRing with net.flows := [(5, x)], trl.frame := 11, net.admActive := true, key.site := some 0 }
theorem witness_bind : (Tbl.at (sFlow xFlow).net.flows (5 : Fin 1024).val {}).st = .binding ∧ (sFlow xFlow).net.releasing = [] ∧
    xFlow.bindAt + 10000000 ≤ (sFlow xFlow).now := by decide
theorem witness_flow : flowDue (Tbl.at (sFlow { xFlow with st := .admitted, rekey := true }).net.flows (5 : Fin 1024).val {}) 10 = true ∧
    (sFlow xFlow).key.purging = false ∧ isRun (sFlow xFlow) .key = true ∧ (sFlow xFlow).key.site.isSome = true := by decide

def lLoop : LoopSlot := { rc := { slot := 4, cask := 2, out := 9, pv := some 8, uHi := 0x42C80000 }, mode := .manual, manual := some 0x41200000, snap := some {} }
def sLoop (l : LoopSlot) : State :=
  { sRun with lpe.run := true, lpe.slots := [(4, l)], lpe.due := [4], lpe.dueFrame := some 6, trl.frame := 7, trl.points := [(9, { type := 3, cask := 2, srcKind := pvLoop, srcIndex := 4 })] }
theorem witness_loop_frame : isRun (sLoop lLoop) .loop = true ∧ (sLoop lLoop).lpe.run = true ∧
    ({ sLoop lLoop with lpe.due := [], lpe.dueFrame := none } : State).lpe.dueFrame ≠ some 6 ∧ nextAsk (sLoop lLoop) = some 4 := by decide
theorem witness_loop_eval : nextEval (sLoop lLoop) = some 4 ∧ inputsFail lLoop {} = false ∧
    inputsFail lLoop { pv := some (0, qSource) } = true ∧
    F64.fin (evalLaw lLoop.rc (liveSets lLoop) lLoop.st { (evalInputs (sLoop lLoop) lLoop {} 6).1 with force := some 0 }).v = true := by decide
theorem witness_loop_point : ∃ p, pt? (sLoop lLoop) 9 = some p ∧ isWriter p pvLoop 4 2 = true := ⟨_, rfl, by decide⟩
theorem witness_loop_fe : ∃ l : LoopSlot, l.feT0 = some 0 ∧ l.mode = .auto ∧ l.feAlarm = false ∧
    (0 : DWord).toNat + l.rc.feTimeMs * 1000000 ≤ l.lastStamp.toNat :=
  ⟨{ feT0 := some 0, mode := .auto, lastStamp := 9, rc := { feTimeMs := 0 } }, by decide⟩
theorem witness_loop_cmd : Permits (sLoop lLoop) ⟨0, 2, false⟩ .lpe 0x0010 true ∧ Permits (sLoop lLoop) ⟨0, 0, false⟩ .lpe 0x0000 true ∧
    Permits (sLoop lLoop) ⟨0, 0, false⟩ .sys 0x0030 true := by decide

def jLoop : ShdJob := { inp := { k := 6 }, liveU := 0, liveSt := {} }
def sShd (n : Nat) : State :=
  { sLoop { lLoop with rc := { lLoop.rc with nreg := 1 }, rt := [(0, { retuned := true, judging := true })] } with
    lpe.shadows := [(1, { state := .running, slot := 4, count := 2, job := some jLoop })], lpe.rtSlot := 4,
    lpe.bufs := [(3, { slot := 4, arrived := true }), (5, { slot := 4, samples := List.replicate n {} })] }
theorem witness_shadow : Permits (sShd 0) ⟨0, 2, false⟩ .lpe (0x0200 + 16 * (1 : Fin 16).val) true ∧ (shadow (sShd 0) (1 : Fin 16).val).state = .running ∧
    (shadow (sShd 0) 2).state ≠ .running ∧ (shadow (sShd 0) 1).compared < (shadow (sShd 0) 1).count ∧ (shadow (sShd 0) 1).cand = false ∧
    (sShd 0).trl.frame - 1 = jLoop.inp.k := by decide
theorem witness_capture : ∃ x, Tbl.get? (sShd 224).lpe.bufs 5 = some x ∧ x.sent = false ∧ 224 ≤ x.samples.length :=
  ⟨{ slot := 4, samples := List.replicate 224 {} }, rfl, rfl, Nat.le_of_eq (List.length_replicate).symm⟩
theorem witness_capture_run (n : Nat) : isRun (sShd n) .cluster = true := rfl
theorem witness_retune : Permits (sShd 0) ⟨0, 0, false⟩ .lpe 0x030C true ∧ (∃ l, slot? (sShd 0) (sShd 0).lpe.rtSlot = some l ∧ l.rc.law = .pid ∧
    (sShd 0).lpe.rtSet < l.rc.nreg ∧ (Tbl.at l.rt (sShd 0).lpe.rtSet {}).retuned = true) ∧
    (List.range 16).find? (fun c => (shadow (sShd 0) c).state != .running) = some 0 := ⟨by decide, ⟨_, rfl, by decide⟩, by decide⟩

def ePrs : Elem := { rc := { cask := 2, pointBase := 8, pointMask := 1 }, active := true, opp := 160, low := [1600, 0, 0], high := [0, 1600, 0], phaseLoss := 2 }
def sPrs : State :=
  { sRun with
    now := 5000000000, prs.restored := true, prs.elems := [(3, ePrs), (4, { actAt := 1 })],
    prs.chans := [(7, { rc := { used := true, autoGain := true }, quiet := 8 }), (8, { handing := true })],
    tim.doms := [(1, { t := 4294967296000 })] }
theorem witness_press_sample : isRun sPrs .press = true ∧ sPrs.prs.restored = true ∧ sRun.prs.restored = false ∧ sRun.prs.holdFull = false ∧
    sRun.prs.held.length < 512 ∧ ({ sRun with prs.holdFull := true } : State).prs.holdFull = true := by decide
theorem witness_gain : (chan sPrs (7 : Fin 48)).rc.used = true ∧ (chan sPrs (7 : Fin 48)).rc.autoGain = true ∧ (chan sPrs (7 : Fin 48)).handing = false ∧
    8 ≤ (chan sPrs (7 : Fin 48)).quiet ∧ (chan sPrs (7 : Fin 48)).gain < 3 ∧ (chan sPrs (8 : Fin 48)).handing = true ∧
    (chan sPrs (8 : Fin 48)).handLeft = 0 := by decide
theorem witness_crossing : (vsys sPrs ((1 : Fin 2) == 1)).cross.length = 3 ∧ (vsys sPrs ((0 : Fin 2) == 1)).cross.length = 3 := by decide
theorem witness_direction : elem? sPrs (3 : Fin 48) = some ePrs ∧ ePrs.active = true ∧ (vsys sPrs ePrs.rc.sysB).n ≤ ePrs.opp ∧
    ePrs.a.dirCnt < 4294967295 := by decide
theorem witness_phase_loss : bitOf ePrs.phaseLoss 0 = false ∧ 10 * (vsys sPrs ePrs.rc.sysB).n ≤ nthD ePrs.low 0 0 ∧
    bitOf ePrs.phaseLoss 1 = true ∧ 10 * (vsys sPrs ePrs.rc.sysB).n ≤ nthD ePrs.high 1 0 := by decide
theorem witness_points_lost : isRun sPrs .trellis = true ∧ ePrs.lost = false ∧ ePrs.pubAt + 3 * ePrs.rc.pubMs * 1000000 ≤ sPrs.now := by decide
theorem witness_points_plain : ∀ i ∈ elemPoints ePrs, Plain sPrs i := by
  intro i _; exact And.intro (fun _ h => nomatch h) (fun _ h => nomatch h)
theorem witness_activation : (∃ e, elem? sPrs (4 : Fin 48) = some e ∧ e.active = false ∧ e.actAt ≠ 0 ∧ e.actAt ≤ localNs sPrs .press 1) :=
  ⟨{ actAt := 1 }, by decide⟩
theorem witness_converter : (chan sPrs (9 : Fin 54)).fault ≠ true := by decide

def pPrs : Pulse := { rc := { mode := 1 }, owed := [(false, 5)] }
def sPul : State := { sPrs with prs.pulses := [(1, pPrs), (2, { pPrs with on := true }), (3, { pPrs with rc.mode := 2, owed := [(true, 5)] })], prs.banks := [(2, { sel := 3, busy := true })],
                                prs.tariffs := [(2, { atHi := 1 }), (3, { atHi := 1, queue := (List.range 16).map (fun i => (i, 1)) })] }
theorem witness_pulse_start : isRun sPul .press = true ∧ sPul.pwr.warn = false ∧ (pulse sPul (1 : Fin 8)).on = false ∧
    (pulse sPul (1 : Fin 8)).owed = [(false, 5)] ∧ (pulse sPul (1 : Fin 8)).rc.mode = 1 ∧ (pulse sPul (1 : Fin 8)).until0 ≤ sPul.now ∧
    5 ≤ sPul.now ∧ ({ sPul with pwr.warn := true } : State).pwr.warn = true ∧ (pulse sPul (3 : Fin 8)).rc.mode = 2 ∧ 0 < sPul.now ∧ 0 < (pulse sPul (3 : Fin 8)).rc.widthUs ∧
    (∀ y ∈ (pulse sPul (3 : Fin 8)).owed, y.1 ≠ (pulse sPul (3 : Fin 8)).dirExport) := by decide
theorem witness_pulse_wait : ({ sPul with now := 3 } : State).now < 5 ∧ (pulse { sPul with now := 3 } (1 : Fin 8)).owed = [(false, 5)] := by decide
theorem witness_pulse_end : (pulse sPul (2 : Fin 8)).on = true ∧ (pulse sPul (2 : Fin 8)).until0 ≤ sPul.now := by decide
theorem witness_press_cmds : Permits sPul ⟨0, 0, false⟩ .prs 0x0010 true ∧ elem? sPul (3 : Fin 64) = some ePrs ∧ elem? sPul (5 : Fin 64) = none ∧
    Permits sPul ⟨0, 0, false⟩ .prs (0x0608 + 16 * (2 : Fin 4).val) true ∧ Permits sPul ⟨0, 0, false⟩ .prs (0x0608 + 16 * (3 : Fin 4).val) true := by decide
theorem witness_tariff : localNs sPul .press 1 < (tariff sPul (2 : Fin 4)).atLo.toNat + 2 ^ 32 * (tariff sPul (2 : Fin 4)).atHi.toNat ∧
    (∀ x, (tariff sPul (2 : Fin 4)).queue.getLast? = some x → x.1 < (tariff sPul (2 : Fin 4)).atLo.toNat + 2 ^ 32 * (tariff sPul (2 : Fin 4)).atHi.toNat) ∧
    (tariff sPul (2 : Fin 4)).queue.length < 16 ∧ 16 ≤ (tariff sPul (3 : Fin 4)).queue.length ∧
    (∀ x, (tariff sPul (3 : Fin 4)).queue.getLast? = some x → x.1 < (tariff sPul (3 : Fin 4)).atLo.toNat + 2 ^ 32 * (tariff sPul (3 : Fin 4)).atHi.toNat) ∧
    ¬ localNs sPul .press 1 < (tariff sPul (1 : Fin 4)).atLo.toNat + 2 ^ 32 * (tariff sPul (1 : Fin 4)).atHi.toNat :=
  ⟨by decide, fun _ h => (nomatch h), by decide, by decide, fun x h => by cases h; decide, by decide⟩
theorem witness_snapshot : Permits sPul ⟨0, 2, false⟩ .prs 0x0300 true ∧ Permits sPul ⟨0, 3, false⟩ .prs 0x0300 true ∧ ePrs.rc.cask = 2 ∧
    (snapBank sPul (2 : Fin 63)).busy = true ∧ elem? sPul (snapBank sPul (2 : Fin 63)).sel = some ePrs ∧
    Permits sPul ⟨0, 0, false⟩ .sys 0x0030 true := by decide

def wPrs : Elem := { ePrs with watch := some { unmeasured := true } }
def sSave : State :=
  { sPrs with prs.saving := some { bankB := true }, prs.sysA := { dark := 1600, lit := 1600 }, prs.elems := [(3, ePrs), (5, wPrs)],
              prs.taste := { run := true, n := 16000, ch := 7, sumRy := F64.ofInt 16000, sumYy := F64.ofInt 16000, sumXx := F64.ofInt 16000 } }
theorem witness_save : sPrs.prs.saving = none ∧ sPrs.prs.savedSec ≠ some (localNs sPrs .press 1 / 1000000000) ∧
    ({ sPrs with prs.savedSec := some (localNs sPrs .press 1 / 1000000000) } : State).prs.savedSec = some (localNs sPrs .press 1 / 1000000000) ∧
    sSave.prs.saving = some { bankB := true } ∧ isRun sSave .press = true ∧ sSave.prs.restored = true := by decide
theorem witness_hold_full (l : List HeldSample) : ({ sRun with prs.held := l } : State).prs.restored = false ∧
    isRun { sRun with prs.held := l } .press = true := ⟨rfl, rfl⟩
theorem witness_hold_length : 512 ≤ (List.replicate 512 ({ stamp := 0, clipped := [], meas := [] } : HeldSample)).length :=
  Nat.le_of_eq (List.length_replicate).symm
theorem witness_restore : isRun sRun .press = true ∧ sRun.prs.restored = false ∧
    newestBank { sRun with prs.bankA := { valid := true } } = some { valid := true } ∧ sRun.prs.held = [] := by decide
theorem witness_watch : elem? sSave 3 = some ePrs ∧ (∀ x ∈ sSave.prs.elems, x.1 = 3 → x.2 = ePrs) ∧ ePrs.watch = none ∧ 10 * (vsys sSave ePrs.rc.sysB).n ≤ (vsys sSave ePrs.rc.sysB).dark ∧
    elem? sSave 5 = some wPrs ∧ wPrs.watch = some { unmeasured := true } ∧ sSave.prs.watchAt + 1000000000 ≤ sSave.now ∧
    10 * (vsys sSave wPrs.rc.sysB).n ≤ (vsys sSave wPrs.rc.sysB).lit ∧ (5, wPrs) ∈ sSave.prs.elems := by decide
set_option maxRecDepth 20000 in
theorem witness_run_complete : sSave.prs.taste.run = true ∧ 16000 ≤ sSave.prs.taste.n ∧ sSave.prs.taste.ok = true ∧
    F64.lt (rootMean sSave.prs.taste.sumXx 16000) (F64.mul (F64.ofDec 5 2) (F64.div (F64.ofInt 1) (F64.ofInt (4 ^ sSave.prs.taste.gain : Nat)))) = false := by
  decide
set_option maxRecDepth 20000 in
theorem witness_run_good : F64.lt (F64.ofDec 2 3) (F64.abs (F64.sub (F64.div sSave.prs.taste.sumRy sSave.prs.taste.sumYy) (F64.ofInt 1))) = false ∧
    sSave.prs.taste.gain < (chan sSave sSave.prs.taste.ch).tau.length := by decide
set_option maxRecDepth 20000 in
theorem witness_run_bad : F64.lt (F64.ofDec 2 3) (F64.abs (F64.sub (F64.div (F64.ofInt 3) (F64.ofInt 2)) (F64.ofInt 1))) = true := by decide
theorem witness_tasting : Permits sSave ⟨0, 0, false⟩ .prs 0x0810 true ∧ nextTaste sSave sSave.prs.taste.ch = some 7 ∧ refBad 0 200 = false ∧
    refBad 201 0 = true ∧ (chan sSave (7 : Fin 64)).rc.used = true ∧ (chan sSave (9 : Fin 64)).rc.used = false := by decide

def fSaf : SafFunc := { func := 1, type := 1, pairA := 0, tp1 := 0, tp2 := 1, resetIn := 4, outMask := 1 }
def gSaf : SafFunc := { func := 2, type := 3, pairA := 1, pairB := 3, tp1 := 0, tp2 := 1, outMask := 1 }
def oSaf : SafOut := { out := 0, flags := 3 }
def sSaf (p : PairM) (m : FnM) : State :=
  { sRun with
    now := 5000000000, saf.powered := true, saf.acc := some { funcs := [fSaf, gSaf], outs := [oSaf] }, saf.pairs := [(0, p)],
    saf.sp := { on := true, ok := true, ins := [(0, { last := some true })], fns := [(1, m), (2, m)] }, saf.sl := { on := true, ok := true } }
theorem witness_saf_sample : chRuns (sSaf {} {}) .sp = true ∧ (safCh (sSaf {} {}) .sp).nextAt ≤ (sSaf {} {}).now ∧ blankEnd (sSaf {} {}) 0 = none ∧
    (Tbl.at (safCh (sSaf {} {}) .sp).ins 0 {}).last = some (safLevel [24000] 0) ∧
    blankEnd { sSaf {} {} with saf.tpAt := [(0, 4999999999)] } 0 ≠ none ∧
    fSaf ∈ safFuncs (sSaf {} {}) ∧ (∀ g ∈ safFuncs (sSaf {} {}), g.func = fSaf.func → g = fSaf) ∧ fSaf.type ≠ 3 ∧
    (onStates (sSaf {} {}) .sp fSaf).1 = none := by decide
theorem witness_saf_timeouts : safFunc? (sSaf {} { oneOn := some 0 }) (1 : Fin 8) = some fSaf ∧
    discLate (sSaf {} { oneOn := some 0 }).now (discNs fSaf) (fnm (sSaf {} { oneOn := some 0 }) .sp (1 : Fin 8)) = true ∧
    (fnm (sSaf {} { oneOn := some 0 }) .sp (1 : Fin 8)).st = .stopped ∧ safFunc? (sSaf {} { interA := some 0 }) (2 : Fin 8) = some gSaf ∧
    interLate (sSaf {} { interA := some 0 }).now (discNs gSaf) (fnm (sSaf {} { interA := some 0 }) .sp (2 : Fin 8)) = true ∧
    (fnm (sSaf {} { st := .wait }) .sp (2 : Fin 8)).st = .wait ∧
    (fnm (sSaf {} { st := .wait }) .sp (2 : Fin 8)).winAt + 500000000 ≤ (sSaf {} { st := .wait }).now ∧
    faultCleared (sSaf {} { st := .fault, hold := some 0 }) .sp gSaf (fnm (sSaf {} { st := .fault, hold := some 0 }) .sp (2 : Fin 8)) = true := by
  decide
theorem witness_test_pulse : Tbl.at (sSaf {} {}).saf.tpPeriod (0 : Fin 4) 0 < tpPeriodNow (sSaf {} {}) (0 : Fin 4) ∧
    (let s : State := { sSaf {} {} with saf.tpAt := [(0, 4999600000)], saf.tpChecked := [(0, false)] }
     Tbl.at s.saf.tpChecked (0 : Fin 4) true = false ∧ Tbl.at s.saf.tpAt (0 : Fin 4) 0 + 300000 ≤ s.now ∧ s.now < Tbl.at s.saf.tpAt (0 : Fin 4) 0 + 1000000 ∧
     fSaf ∈ safFuncs s ∧ needsTp fSaf.type = true ∧ fSaf.tp1 = (0 : Fin 4).val ∧ safLevel [24000] (2 * fSaf.pairA) = true ∧ (safCh s .sp).on = true) := by
  decide
theorem witness_saf_pairs : chRuns (sSaf { mode := .on } {}) .sl = true ∧ (sSaf { mode := .on } {}).saf.sl.ok = true ∧ safOut? (sSaf { mode := .on } {}) 0 = some oSaf ∧
    (sSaf { mode := .on } {}).saf.exchAt + 2500000 ≤ (sSaf { mode := .on } {}).now ∧
    reqOffNow { sSaf { mode := .on } {} with pwr.resetOn := true } (0 : Fin 4) oSaf = true ∧ (safPair (sSaf { mode := .on } {}) (0 : Fin 4)).mode = .on ∧
    fbWrong (sSaf { mode := .on, fb := some true } {}).now (safPair (sSaf { mode := .on, fb := some true } {}) (0 : Fin 4)) = true ∧
    (safPair (sSaf { mode := .on } {}) (0 : Fin 4)).stuck = 0 ∧ (safPair (sSaf { mode := .on } {}) (0 : Fin 4)).turn < 4 ∧
    (safPair (sSaf { mode := .on } {}) (0 : Fin 4)).degEnd = none ∧
    (safPair (sSaf { mode := .off, stuck := 1, turn := 1, degEnd := some 7 } {}) (0 : Fin 4)).degEnd = some 7 := by decide

def rSaf : State := { sSaf { mode := .off, fb := some true } { st := .run } with saf.acc := some { funcs := [fSaf], outs := [{ oSaf with flags := 1 }] }, saf.sl.fns := [(1, { st := .run })], saf.sl.ins := [(0, { conf := some true }), (1, { conf := some true })] }
theorem witness_energised : chRuns rSaf .sl = true ∧ (∃ t, exec (.crossLinkExchange 8000) rSaf = .next t ∧ (safPair t 0).mode = .on) ∧
    (∃ t, exec (.slSample [24000, 24000] [24000]) { rSaf with saf.sl.nextAt := 9000000000 } = .next t ∧ safOut? t 0 = some { oSaf with flags := 1 } ∧ (safPair t 0).mode = .on) :=
  ⟨by decide, ⟨_, rfl, by decide⟩, ⟨_, rfl, by decide⟩⟩

def mSaf : SafMap := { funcs := [fSaf, { gSaf with tp1 := 2 }], outs := [oSaf] }
def sSes : State :=
  { sSaf { mode := .lockout } {} with
    sys.variant := .ms, saf.keyLow := true, saf.session := true, saf.pwHash := some [1], saf.pend := some mSaf, saf.mirrorAt := 1, saf.stale := false,
    trl.points := [(8, { srcKind := 0x0B, srcIndex := 3 })], now := 700000000000 }
theorem witness_saf_supply : State.reset.saf.powered = false ∧ sSes.saf.powered = true ∧ safOut? sSes 0 = some oSaf ∧
    ({ sSes with saf.mapLane := some [1] } : State).saf.mapLane = some [1] := by decide
theorem witness_saf_open : ({ sSes with saf.keyLow := false } : State).saf.keyLow = false ∧ sSes.saf.keyLow = true ∧
    ({ sSes with saf.session := false, saf.pwFails := 3 } : State).saf.pwFails = 3 ∧ sSes.saf.pwFails < 3 ∧
    pwRight { sSes with saf.session := false, saf.pwHash := none } [] = true := by decide
theorem witness_saf_session : sSes.saf.session = true ∧ sSes.saf.pend = some mSaf ∧ ({ sSes with saf.pend := none } : State).saf.pend = none ∧
    [9] ≠ padTo 4 (mSaf.digest.take 4) ∧ mapOk mSaf = false ∧ (∃ n ∈ changedPairs (sSaf { mode := .on } {}) mSaf, pairIdle (safPair (sSaf { mode := .on } {}) n) = false) ∧
    (∀ n ∈ changedPairs sSes mSaf, pairIdle (safPair sSes n) = true) ∧ pwFormat [] = false ∧ pwFormat (List.replicate 10 0x41) = true ∧
    lockoutActs sSes (0 : Fin 4) = true ∧ faultPresent sSes (0 : Fin 4) = false ∧ faultPresent { sSes with saf.sp.ok := false } (0 : Fin 4) = true ∧
    sSes.saf.lastMsg + 600000000000 ≤ sSes.now ∧ Permits sSes ⟨0, 0, false⟩ .sys 0x0030 true ∧ isRun sSes .trellis = true ∧
    sSes.saf.mirrorAt + 300000000 ≤ sSes.now := by decide
def fSaf0 : SafFunc := { pairB := 0, tp1 := 0, tp2 := 0, resetIn := 0 }
def okMap : SafMap :=
  { nfunc := 1, funcs := { fSaf with func := 0 } :: (List.range 7).map (fun i => { fSaf0 with func := i + 1 }),
    outs := { oSaf with fbIn := 0 } :: (List.range 3).map (fun i => { out := i + 1, fbOnMs := 0, fbOffMs := 0 }) }
theorem witness_accept : let s : State := { sSes with saf.pend := some okMap }
    s.saf.pend = some okMap ∧ mapOk okMap = true ∧ s.sys.variant = .ms ∧ (∀ n ∈ changedPairs s okMap, pairIdle (safPair s n) = true) ∧
    (let b : State := { s with saf.pairs := [(0, { mode := .on })] }
     ∃ n ∈ changedPairs b okMap, pairIdle (safPair b n) = false) := by decide
theorem witness_status_plain : ∀ j, Plain sSes j := by
  intro j; exact And.intro (fun _ h => nomatch h) (fun _ h => nomatch h)

def sCel : State := { sRun with now := 86500000000000 }
theorem witness_cel_cmds : Permits sCel ⟨0, 0, false⟩ .cel 0x0028 true ∧ Permits sCel ⟨0, 0, false⟩ .cel 0x0030 true ∧ Permits sCel ⟨0, 0, false⟩ .cel 0x0040 true ∧
    Permits sCel ⟨0, 0, false⟩ .cel 0x0044 true ∧ Permits sCel ⟨0, 2, false⟩ .cel 0x0010 false := by decide
def pCel (op : PostedOp) : State := { sCel with cel.posted := [{ op := op }] }
theorem witness_posted : (pCel (.load true)).cel.posted = [{ op := .load true }] ∧ calOfWords 0x00235959 0x2024A229 = some { year := 2024, month := 2, day := 29, hour := 23, min := 59, sec := 59 } ∧
    calOfWords (pCel (.load true)).cel.setTime (pCel (.load true)).cel.setDate = none ∧ (pCel .dstAdd).cel.dst = false ∧
    calSecs (pCel .dstAdd).cel.cal + 3600 ≤ calLast ∧ calFirst ≤ calSecs (pCel .dstAdd).cel.cal ∧ zoneOf 60 = 60 ∧ zoneOf 0x0349 = 841 ∧
    (pCel (.trim 5)).sys.active = false ∧ bitOf (2 : Word).toNat 1 = true ∧ trusted (pCel (.sync true)) 0 = false ∧
    trusted { pCel (.sync true) with tim.doms := [(0, { st := .locked, t := 4294967296000000000000000000 })] } 0 = true := by decide
theorem witness_posted_sync : let s : State := { pCel (.sync true) with tim.doms := [(0, { st := .locked, t := 4294967296000000000000000000 })] }
    inRange (domToLocal s true (celNs s / 1000000000 + 1)) = true := by decide
theorem witness_sync_due : ({ sCel with cel.sync := some { at0 := 0 } } : State).cel.sync = some { at0 := 0 } ∧ 0 * 1000000000 ≤ celNs sCel := by decide
theorem witness_rtc : sCel.cel.oscStop = none ∧ 32768 ≤ prescAfter (trimVal sCel) (sCel.cel.secCount % 16384) 32768 ∧ sCel.cel.range = false ∧
    calSecs sCel.cel.cal ≠ calLast ∧ calSecs { year := 2399, month := 12, day := 31, hour := 23, min := 59, sec := 59 } = calLast ∧ sCel.cel.opSec < 4294967295 := by decide
theorem witness_cel_supply : sCel.cel.battery = false ∧ ({ sCel with cel.battery := true } : State).cel.battery = true ∧ sCel.cel.pcycle < 16777215 ∧
    ({ sCel with arising := [{ code := 1 }, { code := 0x0A16 }] } : State).arising.find? celOwn = some { code := 0x0A16 } ∧ sCel.cel.pend.length < 8 ∧
    ({ sCel with cel.pend := List.replicate 8 { ev := {} } } : State).cel.pend.length = 8 ∧ sCel.cel.vbatAt = none ∧ sCel.cel.vbatTold = false := by decide
theorem witness_cel_checks : isRun sCel .cluster = true ∧ sCel.cel.leapAt = none ∧ ({ sCel with tim.utcValid := true, tim.utcOfs := 37 } : State).tim.utcOfs.toNat ≠ fld sCel.cel.zone.toNat 16 16 ∧
    sCel.cel.calTrust = false ∧ sCel.cel.calAt = none := by decide

def sTrim (ok : Bool) : State :=
  { sRun with tim.doms := [(0, { st := .locked, t := 16384 * 1000000000 * 4294967296 })], cel.osf := false, cel.winOk := ok }
theorem witness_trim : (sTrim true).cel.winK ≠ winNow (sTrim true) ∧ winHolds (sTrim true) = true ∧ (sTrim true).cel.winOk = true ∧
    (sTrim false).cel.winOk = false ∧ (sTrim true).cel.winSteps = (dom (sTrim true) 0).steps ∧ (sTrim true).sys.active = false ∧
    ((536870912 : Int) - (536870900 : Nat)).natAbs ≤ 32767 ∧ ((536870912 : Int) - (536870900 : Nat) - sOf 16 (sTrim true).cel.trim.toNat).natAbs ≤ 1074 ∧
    1074 < ((536870912 : Int) - (536869000 : Nat) - sOf 16 (sTrim true).cel.trim.toNat).natAbs ∧ ((536870912 : Int) - (536869000 : Nat)).natAbs ≤ 32767 ∧
    32767 < ((536870912 : Int) - (0 : Nat)).natAbs ∧ (sTrim true).cel.cand = none ∧ ({ sTrim true with cel.cand := some (-1) } : State).cel.cand = some (-1) := by decide
def eRec : EvRec := { seq := 5, code := 7, data := padTo 14 [] }
def sRec : State := { sRun with cel.queue := [{ code := 7 }], cel.store := [eRec], cel.seq := 5, arising := [{ code := 7 }] }
theorem witness_recorder : sRec.arising = [{ code := 7 }] ∧ sRec.cel.battery = false ∧ sRec.cel.queue = [{ code := 7 }] ∧ sRec.cel.lastWrite = none ∧ sRec.cel.owed = 0 ∧
    sRec.cel.store.getLast? = some eRec ∧ sameRec eRec { code := 7 } = true ∧ sameRec eRec { code := 8 } = false ∧ eRec.rep < 65535 ∧
    sRec.cel.store.length < 16384 ∧ markDue { sRec with tim.doms := [(0, { st := .locked })] } = true := by decide
theorem witness_full_queue : celOwn { code := 7 } = false ∧ 64 ≤ queued { sRec with cel.queue := List.replicate 64 { code := 7 } } := by decide
theorem witness_full_store : 16384 ≤ (List.replicate 16384 eRec).length := Nat.le_of_eq (List.length_replicate).symm
theorem witness_queries : Permits sRec ⟨0, 2, false⟩ .cel 0x0210 true ∧ Permits sRec ⟨0, 0, false⟩ .cel 0x0210 true ∧ readable 0 eRec = true ∧
    sRun.cel.store = [] ∧ Permits sRec ⟨0, 0, false⟩ .sys 0x0030 true ∧ isRun sRec .cellar = true ∧
    (let s : State := { sRec with cel.banks := [(9, { st := .opened, wait := true, cur := 5 })] }
     (qBank s ((2 : Fin 64).val * 4 + (1 : Fin 4).val)).st = .opened ∧ (qBank s 9).wait = true ∧
     s.cel.store.find? (fun r => r.seq == (qBank s 9).cur) = some eRec ∧ s.sys.active = false) := by decide

def cCan : CanCh := { rc := { role := 1, cask := 2, retry := 3, wdogMs := 10 }, st := .running }
def sCan (c : CanCh) : State :=
  { sRun with fbs.chans := [(1, c)], trl.frame := 9, now := 50000000, fbs.frames := [(4, { ch := 1, cask := 2, id := 7, first := 8 }), (5, { ch := 1, tx := true, first := 8 })],
              trl.points := [(8, { type := 2, cask := 2, srcKind := 2, srcIndex := 4 })] }
def xCan (n : Nat) (l : List Byte) : CanRx := { ide := false, fdf := false, remote := false, id := n, payload := l, durationNs := 0 }
theorem witness_can_rx : canUp (sCan cCan) (1 : Fin 8) = true ∧ matchFrame (sCan cCan) (1 : Fin 8) (xCan 6 []) = none ∧
    matchFrame (sCan cCan) (1 : Fin 8) (xCan 7 []) = some (4, { ch := 1, cask := 2, id := 7, first := 8 }) ∧
    (xCan 7 []).payload.length < fieldsLen (sCan cCan) { ch := 1, cask := 2, id := 7, first := 8 } ∧
    fieldsLen (sCan cCan) { ch := 1, cask := 2, id := 7, first := 8 } ≤ (xCan 7 [1, 2, 3, 4]).payload.length ∧ isRun (sCan cCan) .trellis = true ∧
    pt? (sCan cCan) 8 = some { type := 2, cask := 2, srcKind := 2, srcIndex := 4 } ∧
    isWriter { type := 2, cask := 2, srcKind := 2, srcIndex := 4 } 2 4 2 = true := by decide
theorem witness_can_plain : Plain (sCan cCan) 8 := And.intro (fun _ h => nomatch h) (fun _ h => nomatch h)
theorem witness_can_trigger : Tbl.get? (sCan cCan).fbs.frames 5 = some { ch := 1, tx := true, first := 8 } ∧ (canCh (sCan cCan) 1).st = .running ∧
    (canCh (sCan cCan) 1).rc.role = 1 ∧ heldBack (sCan cCan) { ch := 1, tx := true, first := 8 } = false ∧ ((sCan cCan).trl.frame - 1) % 1 = 0 ∧
    Tbl.get? (sCan cCan).fbs.trigAt 5 ≠ some ((sCan cCan).trl.frame - 1) ∧ (canCh (sCan cCan) 1).q = [] ∧ (canCh (sCan cCan) 1).wire = [] ∧
    (canCh (sCan { cCan with wire := [{}], q := [{ rc := some 5 }] }) 1).wire ≠ [] ∧ ({ rc := some 5 } : CanInst) ∈ (canCh (sCan { cCan with q := [{ rc := some 5 }] }) 1).q ∧
    (∀ i ∈ (canCh (sCan { cCan with wire := [{}], q := [{ rc := some 9 }] }) 1).q, i.rc ≠ some 5) := by decide
theorem witness_can_wire : isRun (sCan cCan) .fbus = true ∧ (canCh (sCan { cCan with wire := [{}] }) (1 : Fin 8)).wire = [{}] ∧ ({} : CanInst).tries < 3 ∧
    (canCh (sCan { cCan with wire := [{ tries := 3 }] }) (1 : Fin 8)).rc.retry ≤ 3 ∧ (canCh (sCan cCan) (1 : Fin 8)).dropAt = none := by decide
theorem witness_can_faults : 255 < (canCh (sCan { cCan with tec := 256 }) (1 : Fin 8)).tec ∧ canUp (sCan { cCan with tec := 256 }) (1 : Fin 8) = true ∧
    (canCh (sCan cCan) (1 : Fin 8)).rc.wdogMs ≠ 0 ∧ (canCh (sCan cCan) (1 : Fin 8)).lastValid + (canCh (sCan cCan) (1 : Fin 8)).rc.wdogMs * 1000000 ≤ (sCan cCan).now ∧
    (canCh (sCan { cCan with st := .recovering }) (1 : Fin 8)).st = .recovering ∧
    1408 * nomBit (canCh (sCan { cCan with st := .recovering }) (1 : Fin 8)).rc.nbt * 25 ≤ ((sCan { cCan with st := .recovering }).now - 0) * 2 := by decide
theorem witness_can_cmds : Permits (sCan cCan) ⟨0, 2, false⟩ .fbs (0x0100 + 0x20 * (1 : Fin 8).val) true ∧ (2 : Fin 64).val = (canCh (sCan cCan) (1 : Fin 8)).rc.cask ∧
    (canCh (sCan { cCan with st := .stopped }) (1 : Fin 8)).st = .stopped ∧ (canCh (sCan { cCan with st := .busOff }) (1 : Fin 8)).st = .busOff := by decide

def cTt : CanCh := { rc := { role := 2, cycles := 4, bcUs := 1000, cask := 2 }, st := .running, cycle := some 5 }
def wTt (k : Nat) : WinRec := { lenUs := 500, kind := k, ch := 1, frame := 5 }
def sTt (c : CanCh) (ns : Nat) : State :=
  { sCan c with fbs.wins := [(0, wTt 0), (1, wTt 1), (2, wTt 2), (3, wTt 3)], tim.doms := [(2, { t := ns * 4294967296 })] }
theorem witness_tt_cycle : ttUp (sTt cTt 6000000) (1 : Fin 8) = true ∧ cycleNow (sTt cTt 6000000) (canCh (sTt cTt 6000000) (1 : Fin 8)) = 6 ∧
    (canCh (sTt cTt 6000000) (1 : Fin 8)).cycle ≠ some 6 ∧
    (sTt cTt 6000000).fbs.wins.find? (fun e => e.2.ch == (1 : Fin 8).val && e.2.kind == 0 && winApplies (canCh (sTt cTt 6000000) (1 : Fin 8)) e.2 6) = some (0, wTt 0) ∧
    (canCh (sTt cTt 6000000) (1 : Fin 8)).wire = [] ∧ (decide (fbusTime (sTt cTt 6000000) + 600000 ≤ winEnd cTt (wTt 0) 6)) = false ∧
    fitsNs (refBound cTt.rc) (winEnd cTt (wTt 0) 6 - fbusTime (sTt cTt 6000000)) = true := by decide
theorem witness_tt_tx : (fbusTime (sTt cTt 6000000) + 100000) / ((canCh (sTt cTt 6000000) (1 : Fin 8)).rc.bcUs * 1000) = 6 ∧
    Tbl.get? (sTt cTt 6000000).fbs.wins 1 = some (wTt 1) ∧ (canCh (sTt cTt 6000000) (1 : Fin 8)).cycle.isSome = true ∧ (canCh (sTt cTt 6000000) (1 : Fin 8)).firstK ≤ 5 ∧ winApplies cTt (wTt 1) 6 = true ∧
    winStart cTt (wTt 1) 6 ≤ fbusTime (sTt cTt 6000000) + 100000 ∧ fbusTime (sTt cTt 6000000) < winEnd cTt (wTt 1) 6 ∧ Tbl.get? cTt.winDone 1 ≠ some 6 ∧
    heldBack (sTt cTt 6000000) (Tbl.at (sTt cTt 6000000).fbs.frames 5 {}) = false := by decide
theorem witness_tt_rx : Tbl.get? (sTt cTt 5600000).fbs.wins 2 = some (wTt 2) ∧ (canCh (sTt cTt 5600000) (1 : Fin 8)).cycle = some 5 ∧ ttUp (sTt cTt 5600000) (1 : Fin 8) = true ∧
    winApplies cTt (wTt 2) 5 = true ∧ winEnd cTt (wTt 2) 5 ≤ fbusTime (sTt cTt 5600000) ∧ Tbl.get? cTt.winDone 2 ≠ some 5 ∧
    Tbl.get? (sTt cTt 5100000).fbs.wins 3 = some (wTt 3) ∧ winStart cTt (wTt 3) 5 ≤ fbusTime (sTt cTt 5100000) ∧ fbusTime (sTt cTt 5100000) < winEnd cTt (wTt 3) 5 := by decide
theorem witness_tt_resync : canUp (sTt { cTt with steps := 1 } 0) (1 : Fin 8) = true ∧ (canCh (sTt { cTt with steps := 1 } 0) (1 : Fin 8)).steps ≠ (dom (sTt { cTt with steps := 1 } 0) 2).steps := by decide
def sScan : State := { sCan cTt with fbs.scan := { state := .running, ch := 1 }, now := 60000000000 }
theorem witness_scan : Permits sScan ⟨0, 0, false⟩ .fbs 0x0400 true ∧ Permits sScan ⟨0, 2, false⟩ .fbs 0x0400 true ∧ (sCan cTt).fbs.scan.state ≠ .running ∧
    sScan.fbs.scan.state = .running ∧ sScan.fbs.scan.left = 0 ∧ isRun sScan .fbus = true ∧ sScan.fbs.scan.startedAt + 60000000000 ≤ sScan.now ∧
    Permits sScan ⟨0, 0, false⟩ .sys 0x0030 true := by decide

def sDali (p : DaliPort) : State :=
  { sRun with
    fbs.dali := [(1, p)], fbs.devs := [(3, { bus := 1, first := 8, station := 6 }), (4, { bus := 1, kind := 2, first := 9, station := 6 })], now := 700000000000,
    stn.tbl := [(6, { cask := 2, kind := 3, st := .present })], pwr.portAdmit := [(1, 0)],
    trl.points := [(8, { type := 2, value := 7, cask := 2 }), (9, { type := 2, cask := 2, srcKind := 3, srcIndex := 4 }), (10, { type := 2, cask := 2, srcKind := 3, srcIndex := 3 })] }
theorem witness_dali_poll : daliUp (sDali { running := true }) (1 : Fin 4) = true ∧ (daliPort (sDali { running := true }) (1 : Fin 4)).waiting = [] ∧
    nextQueryDue (sDali { running := true }) (1 : Fin 4) = some 6 ∧ nextQueryDue { sDali { running := true } with fbs.devs := [] } (1 : Fin 4) = none := by decide
theorem witness_dali_reply : let s := sDali { running := true, onBus := some (.poll 4 false) }
    (daliPort s (1 : Fin 4)).onBus = some (.poll 4 false) ∧ Tbl.get? s.stn.tbl (daliDev s 4).station = some { cask := 2, kind := 3, st := .present } ∧ isRun s .trellis = true ∧
    pt? s (backwardWrite s 4 false 5).1 = some { type := 2, cask := 2, srcKind := 3, srcIndex := 4 } ∧
    isWriter { type := 2, cask := 2, srcKind := 3, srcIndex := 4 } 3 4 2 = true ∧ stnCask s 6 = 2 ∧
    s.fbs.devs.find? (fun e => e.2.bus == (1 : Fin 4).val && e.2.kind == 2 && e.2.short == (0 : Fin 64).val && e.2.inst == (0 : Fin 32).val) = some (4, { bus := 1, kind := 2, first := 9, station := 6 }) := by
  decide
theorem witness_dali_plain (p : DaliPort) (i : Nat) : Plain (sDali p) i := And.intro (fun _ h => nomatch h) (fun _ h => nomatch h)
theorem witness_dali_level : (daliPort (sDali { running := true, waiting := [3] }) (1 : Fin 4)).waiting = [3] ∧ (daliPort (sDali { running := true, waiting := [3] }) (1 : Fin 4)).starting = [] ∧
    (daliPort (sDali { running := true, onBus := some (.level 3 7), tries := 9 }) (1 : Fin 4)).onBus ≠ none ∧ (daliPort (sDali { running := true, onBus := some (.level 3 7) }) (1 : Fin 4)).tries < 9 ∧
    Tbl.get? (sDali { running := true, starting := [3] }).pwr.portAdmit (1 : Fin 4).val = some 0 ∧ 0 + (1 : Fin 4).val * 250000000 ≤ (sDali { running := true, starting := [3] }).now ∧
    levelOf (sDali { running := true, starting := [3] }) 3 ≠ 0 ∧ (daliPort (sDali { running := true, fault := true }) (1 : Fin 4)).fault = true := by decide
def sOsdp (o : OsdpPort) (r : Reader) : State :=
  { sDali {} with fbs.osdp := [(1, { o with running := true })], fbs.readers := [(3, { r with rc := { port := 1, addr := 5, station := 6, first := 9 } })] }
theorem witness_osdp_poll : isRun (sOsdp {} {}) .fbus = true ∧ (osdpPort (sOsdp {} {}) (1 : Fin 2)).running = true ∧ (osdpPort (sOsdp {} {}) (1 : Fin 2)).out = none ∧
    nextReader (sOsdp {} {}) (1 : Fin 2) = some 3 ∧ (reader (sOsdp {} {}) 3).install = none ∧ (reader (sOsdp {} { open0 := true }) 3).open0 = true := by decide
theorem witness_osdp_reply : (osdpPort (sOsdp { out := some (3, 0) } { open0 := true }) (1 : Fin 2)).out = some (3, 0) ∧ (reader (sOsdp { out := some (3, 0) } {}) 3).open0 = false ∧
    (reader (sOsdp { out := some (3, 0) } { open0 := true, install := some 0, keySet := true }) 3).keySet = true ∧ (osdpPort (sOsdp { out := some (3, 0) } {}) (1 : Fin 2)).scFail < 65535 ∧
    0 + 200000000 ≤ (sOsdp {} {}).now ∧ (osdpPort (sOsdp { out := some (3, 0) } {}) (reader (sOsdp { out := some (3, 0) } {}) (3 : Fin 32)).rc.port).out = some ((3 : Fin 32).val, 0) ∧
    (reader (sOsdp {} { install := some 0 }) (3 : Fin 32)).install.isSome = true ∧ isRun (sOsdp {} {}) .key = true := by decide
theorem witness_osdp_base : ∃ k, baseKey { sOsdp { out := some (3, 0) } {} with key.site := some 0 } 3 = some k := ⟨_, rfl⟩
theorem witness_bsi_cmds : Permits (sOsdp {} {}) ⟨0, 0, false⟩ .bsi 0x0004 true ∧ (daliPort (sOsdp {} {}) (0 : Fin 6)).running = false ∧
    (daliPort (sDali { running := true }) (1 : Fin 6)).running = true ∧ (osdpPort (sOsdp {} {}) ((5 : Fin 6) - 4)).running = true ∧ (osdpPort (sOsdp {} {}) ((4 : Fin 6) - 4)).running = false ∧
    (readersOf (sOsdp {} {}) ((5 : Fin 16).val - 4)).find? (fun r => (reader (sOsdp {} {}) r).rc.addr == (5 : Fin 128).val) = some 3 ∧
    Permits (sOsdp {} {}) ⟨0, 2, false⟩ .bsi 0x0004 true ∧ (reader (sOsdp {} { install := some 0 }) (3 : Fin 32)).install = some 0 ∧ 0 + 600000000000 ≤ (sOsdp {} {}).now := by decide

def cAcc : Cred := { cask := 2, hash := 5, doors := 2, to0 := 9 }
def sAcc (k : RawCard) : State :=
  { sOsdp { raws := [k] } {} with
    fbs.restored := true, fbs.creds := [cAcc], fbs.doors := [(1, { reader := 3, strike := 8 })], fbs.strikes := [(1, 0)], fbs.quotas := [(2, 1), (3, 1)] }
theorem witness_decision : isRun (sAcc { reader := 3, hash := 5 }) .fbus = true ∧ (osdpPort (sAcc { reader := 3, hash := 5 }) (1 : Fin 2)).raws = [{ reader := 3, hash := 5 }] ∧
    (1, { reader := 3, strike := 8 }) ∈ (sAcc { reader := 3, hash := 5 }).fbs.doors ∧ credFor (sAcc { reader := 3, hash := 5 }) { reader := 3, strike := 8 } 5 = some cAcc ∧
    credFor (sAcc { reader := 3, hash := 6 }) { reader := 3, strike := 8 } 6 = none ∧ ({ sAcc { reader := 3, hash := 5 } with fbs.restored := false } : State).fbs.restored = false ∧
    pt? (sAcc { reader := 3, hash := 5 }) 8 = some { type := 2, value := 7, cask := 2 } := by decide
theorem witness_grant : GrantOk (sAcc { reader := 3, hash := 5 }) 1 { reader := 3, strike := 8 } { reader := 3, hash := 5 } cAcc :=
  And.intro (by decide) (And.intro (by decide) (And.intro (by decide) (And.intro (Or.inr rfl) (Or.inl rfl))))
theorem witness_refusal : ¬ GrantOk (sAcc { reader := 3, hash := 5, stamp := 540000000000 }) 1 { reader := 3, strike := 8 } { reader := 3, hash := 5, stamp := 540000000000 } cAcc :=
  fun h => absurd h.2.2.1 (by decide)
theorem witness_strike : Tbl.get? (sAcc {}).fbs.strikes (1 : Fin 32).val = some 0 ∧ Tbl.get? (sAcc {}).fbs.doors (1 : Fin 32).val = some { reader := 3, strike := 8 } ∧
    0 + 100 * 1000000 ≤ (sAcc {}).now := by decide
theorem witness_creds : Permits (sAcc {}) ⟨0, 2, false⟩ .bsi 0x0214 true ∧ Permits (sAcc {}) ⟨0, 3, false⟩ .bsi 0x0214 true ∧
    holdsCred { sAcc {} with fbs.banks := [(2, { hashLo := 5 })] } 2 (bankCred 2 (credBank { sAcc {} with fbs.banks := [(2, { hashLo := 5 })] } 2) 0 0).hash = true ∧
    holdsCred (sAcc {}) 2 (bankCred 2 (credBank (sAcc {}) 2) 0 0).hash = false ∧ Tbl.at (sAcc {}).fbs.quotas 2 0 ≤ credsHeld (sAcc {}) 2 ∧
    holdsCred (sAcc {}) 3 (bankCred 3 (credBank (sAcc {}) 3) 0 0).hash = false ∧ credsHeld (sAcc {}) 3 < Tbl.at (sAcc {}).fbs.quotas 3 0 ∧ (sAcc {}).fbs.creds.length < 16384 := by decide
theorem witness_creds_full (l : List Cred) (h : 16384 ≤ l.length) : 16384 ≤ ({ sAcc {} with fbs.creds := l } : State).fbs.creds.length := h
theorem witness_cred_restore : isRun sRun .fbus = true ∧ sRun.fbs.restored = false := by decide

def sKey (l : LifeState) : State :=
  { sRun with key.lc := l, key.factory := some 0, key.site := some 5, key.bankA := { factory := some (0, 0), site := some (5, 0) }, now := 28800000000000,
              key.staged := some 6, key.rollAt := some 0, cel.opSec := 3600 }
theorem witness_key_free : KeyFree (sKey .blank) ⟨0, 0, false⟩ ∧ KeyFree (sKey .operational) ⟨0, 0, false⟩ ∧ KeyFree (sKey .service) ⟨0, 0, false⟩ ∧
    BlobOk (sKey .blank) ⟨0, 0, false⟩ ∧ BlobOk (sKey .operational) ⟨0, 0, false⟩ ∧ BlobOk (sKey .service) ⟨0, 0, false⟩ := by
  simp only [KeyFree, BlobOk]; decide
theorem witness_key_cmds : (sKey .blank).key.factory.isSome = true ∧ (sKey .blank).key.tripNow &&& (sKey .blank).key.armed &&& 0x7C = 0 ∧
    ({ sKey .blank with key.tripNow := 4 } : State).key.tripNow &&& (sKey .blank).key.armed &&& 0x7C ≠ 0 ∧
    ({ sKey .service with key.tripNow := 1, key.latch := 1 } : State).key.latch &&& 1 &&& 3 ≠ 0 ∧ (sKey .service).key.latch &&& (sKey .service).key.tripNow &&& 3 = 0 ∧
    (sKey .service).key.serviceAt + 28800000000000 ≤ (sKey .service).now ∧ ({ sKey .service with key.staged := none } : State).key.staged = none := by decide
theorem witness_key_events : ({ sKey .service with key.attesting := some 0 } : State).key.attesting = some 0 ∧ isRun (sKey .service) .key = true ∧ (sKey .service).key.rollAt = some 0 ∧
    (0 : DWord).toNat ≤ localNs (sKey .service) .key 0 ∧ trusted (sKey .service) 0 = false ∧ trusted { sKey .service with tim.doms := [(0, { st := .locked })] } 0 = true ∧
    localNs (sKey .service) .key 0 < (1 : DWord).toNat ∧ ({ sKey .service with key.purging := true } : State).key.purging = true ∧ (sKey .service).key.purges < 65535 ∧
    ({ sKey .service with key.window := true } : State).key.window = true ∧ tripping (sKey .service) = false ∧
    tripping { sKey .service with key.window := true, key.armed := 1, key.tripNow := 1 } = true ∧ (sKey .service).key.window = false ∧ (sKey .service).key.remaskAt + 3600 ≤ (sKey .service).cel.opSec := by decide

def kSlt (a : Nat) : KSlot := { attr := 1 + 0x8F00 + 0x07000000 + a }
def sSlt (b : KOpBank) : State :=
  { sKey .operational with
    key.slots := [(20, kSlt 0x20000), (21, kSlt (0x20000 + 0x80000000)), (22, { kSlt 0x20000 with unusable := true }), (23, kSlt 0x30000), (24, { attr := 1 + 0x20000 })], key.ops := [(2, b), (0, b)],
    img.casks := [(2, { partMib := 1 })] }
theorem witness_slot_cmds : Permits (sSlt {}) ⟨0, 2, false⟩ .key 0x0004 true ∧ Permits (sSlt {}) ⟨0, 0, false⟩ .key 0x0004 true ∧ isSealed (sSlt {}) = false ∧
    slotEmpty (kslot (sSlt {}) (20 : Fin 64)) = false ∧ slotEmpty (kslot (sSlt {}) (30 : Fin 64)) = true ∧ slotCask (kslot (sSlt {}) (20 : Fin 64)) = (2 : Fin 64).val ∧
    slotCask (kslot (sSlt {}) (23 : Fin 64)) = 3 ∧ bitOf (kslot (sSlt {}) (21 : Fin 64)).attr 31 = true ∧ bitOf (kslot (sSlt {}) (22 : Fin 64)).attr 31 = false ∧
    slotUnusable (sSlt {}) (kslot (sSlt {}) (22 : Fin 64)) = true ∧ slotUnusable (sSlt {}) (kslot (sSlt {}) (20 : Fin 64)) = false := by decide
theorem witness_slot_blob : BlobOk (sSlt {}) ⟨0, 0, false⟩ := by simp only [BlobOk]; decide
theorem witness_slot_ops : Permits (sSlt {}) ⟨0, 2, false⟩ .key 0x0040 true ∧ (opBank (sSlt { busy := some (1, 20) }) (2 : Fin 64)).busy = some (1, 20) ∧
    (opBank (sSlt {}) (2 : Fin 64)).busy = none ∧ isSealed { sSlt {} with key.abandoned := true } = true ∧ bitOf (kslot (sSlt {}) (24 : Fin 64)).attr 8 = false ∧
    bitOf (kslot (sSlt {}) (20 : Fin 64)).attr 8 = true ∧ slotLc (sSlt {}) (kslot (sSlt {}) (20 : Fin 64)) = true ∧
    isRun (sSlt {}) .key = true ∧ (opBank (sSlt {}) (2 : Fin 64)).len.toNat ≤ 65536 ∧ inPartition (sSlt {}) (2 : Fin 64) 0 0 = true ∧
    inPartition (sSlt {}) (2 : Fin 64) 0x100000 16 = false := by decide
theorem witness_slot_cmd : SlotCmd (.encrypt ⟨0, 2, false⟩ 20) ⟨0, 2, false⟩ 20 1 8 := Or.inl ⟨rfl, rfl, rfl⟩

theorem witness_sampled : Sampled (.meshSample 1 false 0) (sSlt {}) 3 true ∧ Sampled (.meshSample 2 false 20) (sSlt {}) 4 false ∧ Sampled (.lidOpen 1 10) (sSlt {}) 1 true ∧
    Sampled (.glitchDetected (.rail 151 20)) (sSlt {}) 5 true ∧ Sampled (.glitchDetected (.crystal 40000)) (sSlt {}) 6 false ∧
    Sampled (.glitchDetected (.keyClock 179999)) (sSlt {}) 6 true :=
  And.intro (Or.inl ⟨1, false, 0, rfl, rfl, rfl⟩) (And.intro (Or.inl ⟨2, false, 20, rfl, rfl, rfl⟩) (And.intro (Or.inr (Or.inl ⟨1, 10, rfl, rfl, rfl⟩))
    (And.intro (Or.inr (Or.inr (Or.inl ⟨151, 20, rfl, rfl, rfl⟩))) (And.intro (Or.inr (Or.inr (Or.inr (Or.inl ⟨40000, rfl, rfl, rfl⟩))))
      (Or.inr (Or.inr (Or.inr (Or.inr ⟨179999, rfl, rfl, by decide⟩))))))))
theorem witness_monitor : (let s : State := { sSlt {} with key.window := true, key.latch := 8, key.tripNow := 8 }
     bitOf s.key.armed 3 = true ∧ bitOf s.key.latch 3 = true ∧ bitOf s.key.tripNow 3 = true ∧ s.key.window = true) ∧ (sSlt {}).key.window = false ∧
    bitOf (sSlt {}).key.armed 3 = true ∧ bitOf (sSlt {}).key.latch 3 = false ∧ bitOf ({ sSlt {} with key.armed := 0 } : State).key.armed 3 = false ∧
    Permits (sSlt {}) ⟨0, 0, false⟩ .sys 0x0030 true ∧ logicUp (sSlt {}) = true ∧ (sSlt {}).pwr.shed = false := by decide
theorem witness_session : Tbl.get? ({ sSlt {} with key.sessions := [(0, {})] } : State).key.sessions (0 : Fin 2).val = some {} ∧ (0 : Nat) + 600000000000 ≤ (sSlt {}).now ∧
    ({ sSlt {} with now := 0 } : State).now < 0 + 600000000000 := by decide

def cSet : List Byte := List.replicate 32 0
def sImg (l : LoadState) : State :=
  { sRun with img.state := l, img.held := some { bytes := cSet, at0 := some 5 }, tim.doms := [(0, { st := .unset })], now := 100 }
theorem witness_img_permits : Issuer.firmware.cask.val = 0 ∧ Permits sRun .firmware .upd 0x0800 true ∧ Permits sRun .firmware .sys 0x0030 true ∧
    sRun.img.state = .idle ∧ isSealed sRun = false ∧ isSealed { sRun with key.abandoned := true } = true ∧
    Permits { sRun with key.abandoned := true } .firmware .upd 0x0800 true ∧ inPartition sRun 0 0 0 = true ∧ sRun.img.src.toNat % 16 = 0 ∧
    ({ sRun with img.src := 8 } : State).img.src.toNat % 16 ≠ 0 ∧
    inPartition { sRun with img.loaded := true, img.src := 4096 } 0 4096 0 = false ∧
    Permits { sRun with img.loaded := true, img.src := 4096 } .firmware .upd 0x0800 true := by decide
theorem witness_img_states : ∀ l ∈ [LoadState.idle, .checking, .staged, .scheduled, .committing],
    Permits (sImg l) .firmware .upd 0x0800 true ∧ Permits (sImg l) .firmware .sys 0x0030 true ∧ isRun (sImg l) .cluster = true ∧
    isRun (sImg l) .trellis = true ∧ (sImg l).img.state = l := by decide
theorem witness_img_due : localNs (sImg .scheduled) .trellis 0 < 100000 ∧
    ((some (0 : DWord)).getD 0).toNat ≤ localNs (sImg .scheduled) .trellis 0 ∧ trusted (sImg .scheduled) 0 = false ∧
    trusted { sImg .scheduled with tim.doms := [(0, { st := .locked })] } 0 = true := by decide
theorem witness_img_report : let s : State := { sImg .committing with img.held := none, img.awaiting := [3, 7] }
    s.img.state = .committing ∧ s.img.held = none ∧ (3 : Fin 16).val ∈ s.img.awaiting ∧ sectionActive s (3 : Fin 16) = true ∧
    sectionActive { s with trl.cells := [(0, { next := some {} })] } (3 : Fin 16) = false := by decide

def sLoad : State := { sRun with pwr.started := true }
theorem witness_whole_load : mayLoad sLoad = true ∧ mayLoad { sLoad with upd.rack.state := .trial } = true ∧ mayLoad sRun = false ∧
    ({ sLoad with upd.rack.state := .trial } : State).upd.rack.state = .trial ∧ sLoad.upd.rack.state ≠ .trial ∧ isSealed { sLoad with key.abandoned := true } = true ∧
    mayLoad { sLoad with key.abandoned := true } = true := by decide
theorem witness_settle : ∀ l ∈ [LoadState.checking, .staged, .scheduled, .committing], (sImg l).img.state = l ∧ (sImg l).img.held.isSome = true := by
  decide

def sUpd (r : RackState) : State := { sRun with upd.rack.state := r, upd.rack.kinds := 3, upd.rack.nfrag := 2, upd.contentKey := some [] }
theorem witness_upd_free : ∀ r ∈ [RackState.idle, .downloading, .verifying, .verified, .scheduled, .pending, .trial],
    UpdFree (sUpd r) .firmware ∧ (sUpd r).pwr.shed = false ∧ (sUpd r).upd.rack.state = r := by
  simp only [UpdFree]; decide
theorem witness_upd_cmds : UpdCommand (.rackBegin .firmware) .firmware ∧ UpdCommand (.rackFrag .firmware true) .firmware ∧
    UpdCommand (.rackActivate .firmware true) .firmware ∧ UpdCommand (.rackCancel .firmware) .firmware ∧
    UpdCommand (.rackConfirm .firmware) .firmware ∧ UpdCommand (.rackRevert .firmware) .firmware ∧
    ¬ UpdFits (.rackBegin .firmware) .firmware .trial := by
  refine ⟨⟨.idle, ?_⟩, ⟨.downloading, ?_⟩, ⟨.verified, ?_⟩, ⟨.scheduled, ?_⟩, ⟨.trial, ?_⟩, ⟨.trial, ?_⟩, ?_⟩ <;> simp [UpdFits]
theorem witness_upd_states : isSealed { sUpd .idle with key.abandoned := true } = true ∧
    Permits { sUpd .idle with key.abandoned := true } .firmware .upd 0x0004 true ∧ activationBusy { sUpd .verified with upd.activating := true } = true ∧
    (sUpd .downloading).upd.dlFrag.toNat = (sUpd .downloading).upd.rack.next ∧ ({ sUpd .downloading with upd.dlFrag := 1 } : State).upd.dlFrag.toNat ≠ 0 ∧
    logicUp (sUpd .verifying) = true ∧ (sUpd .verifying).upd.stopped = false ∧ isSealed (sUpd .verifying) = false ∧
    Permits (sUpd .verifying) .firmware .sys 0x0030 true ∧ isRun (sUpd .verifying) .cluster = true ∧
    (sUpd .verified).upd.rack.state ∈ [RackState.downloading, .verifying, .verified, .scheduled] := by decide

def sNoPress (r : RackState) : State := { sUpd r with sys.isl := (List.range 11).map (fun i => (i, if i = 6 then .off else .run)) }
def sTrial : State := { sNoPress .trial with upd.rack.confEnd := 100, cel.opSec := 100 }
theorem witness_rack_activate : fld (sUpd .verified).upd.confH.toNat 0 10 = 72 ∧ fld ({ sUpd .verified with upd.confH := 0 } : State).upd.confH.toNat 0 10 < 1 ∧
    fld ({ sUpd .verified with upd.confH := 721 } : State).upd.confH.toNat 0 10 > 720 ∧ UpdFree { sUpd .verified with upd.confH := 721 } .firmware ∧
    UpdFree (sNoPress .verified) .firmware ∧ isRun (sNoPress .verified) .press = false ∧ isRun (sUpd .verified) .press = true ∧
    (sNoPress .verified).pwr.awaitSave = none ∧ (sNoPress .verified).img.state = .idle ∧
    UpdFree { sUpd .verified with img.state := .committing } .firmware ∧ UpdFree { sUpd .verified with img.state := .staged } .firmware := by
  simp only [UpdFree]; decide
theorem witness_rack_trial : UpdFree sTrial .firmware ∧ sTrial.upd.rack.state = .trial ∧ sTrial.upd.rack.confEnd ≠ 0 ∧ sTrial.upd.rack.confEnd ≤ sTrial.cel.opSec ∧
    UpdFree { sTrial with cel.opSec := 99 } .firmware ∧ ({ sTrial with cel.opSec := 99 } : State).cel.opSec < sTrial.upd.rack.confEnd ∧ logicUp sTrial = true := by
  simp only [UpdFree]; decide
theorem witness_rack_due : let s : State := { sNoPress .verified with upd.activating := true }
    logicUp s = true ∧ s.upd.rack.state = .verified ∧ s.pwr.awaitSave = none ∧ isRun s .press = false ∧ isRun (sUpd .verified) .press = true ∧
    bitOf 64 6 = true ∧ saveAwaited { s with pwr.awaitSave := some (64, 0), now := 2000000 } = true ∧
    trusted { sUpd .scheduled with tim.doms := [(0, { st := .locked })] } 0 = true ∧ trusted (sImg .scheduled) 0 = false ∧
    (sUpd .scheduled).upd.rack.at0.toNat ≤ localNs (sUpd .scheduled) .cluster 0 ∧
    localNs (sUpd .scheduled) .cluster 0 < (18446744073709551615 : DWord).toNat := by decide
def sBoot (r : RackState) : State := { sUpd r with img.loaded := true, pwr.loadDone := true, upd.rack.confH := 72 }
theorem witness_boot : logicUp (sBoot .idle) = true ∧ bootReached (sBoot .idle) = true ∧ bootReached (sBoot .trial) = true ∧
    (sBoot .trial).upd.rack.confEnd = 0 ∧ bootReached { sBoot .trial with upd.rack.confEnd := 9 } = true := by decide

def sPwr (w : Bool) : State := { sRun with pwr.warn := w, pwr.fsupLow := w }
theorem witness_pwr : logicUp (sPwr false) = true ∧ logicUp (sPwr true) = true ∧ (sPwr true).pwr.latch = 0 ∧ (sPwr true).pwr.railUp = true ∧
    ({ sPwr true with pwr.latch := 2 } : State).pwr.latch ≠ 0 ∧ Permits sRun .firmware .sys 0x0020 true ∧ isRun sRun .press = true ∧
    (0xA5C30001 : Word).toNat / 65536 = 0xA5C3 ∧ (0xA5C30001 : Word).toNat % 2 = 1 ∧ (0xA5C30000 : Word).toNat % 2 = 0 ∧
    Permits (sNoPress .idle) .firmware .sys 0x0020 true ∧ isRun (sNoPress .idle) .press = false ∧ sRun.pwr.awaitSave = none ∧
    ({ sRun with now := 2000000000 } : State).pwr.wdogAt + 2000000000 ≤ 2000000000 ∧ sRun.now < sRun.pwr.wdogAt + 2000000000 := by decide
theorem witness_reset_due : resetDue sRun = false ∧ resetDue { sRun with pwr.latch := 4 } = true ∧ logicUp { sRun with pwr.latch := 4 } = true ∧
    resetDue { sRun with pwr.awaitSave := some (32, 0), now := 2000000 } = true ∧ resetDue { sRun with pwr.awaitSave := some (32, 0), now := 1999999 } = false := by
  decide

def sOff (r : RackState) : State := { State.reset with upd.rack.state := r, upd.rack.booting := true }
theorem witness_start_up : (∀ r ∈ [RackState.idle, .pending, .trial], (sOff r).pwr.started = false ∧ (sOff r).pwr.vinOk = true ∧
      (sOff r).pwr.resetOn = false ∧ (sOff r).cel.battery = false ∧ (sOff r).upd.rack.state = r) ∧
    (sOff .trial).upd.rack.booting = true ∧ (sOff .trial).upd.rack.pwrFail = false ∧ (sOff .trial).upd.rack.fails < 2 ∧
    2 ≤ ({ sOff .trial with upd.rack.fails := 2 } : State).upd.rack.fails ∧ (sOff .idle).upd.rack.state ≠ .trial := by decide
theorem witness_start_up_off : ∀ i : Island, i ≠ .cluster → islState { sOff .idle with sys.isl := [] } i = .off := by
  intro i; cases i <;> decide
def sWake : State := { sRun with pwr.wakeQ := [{ isl := .loop }], pwr.waking := [(2, 500000, false)],
                                 sys.isl := (List.range 11).map (fun i => (i, if i = 2 then .waking else .run)) }
theorem witness_wake : logicUp sWake = true ∧ nextWake sWake = some { isl := .loop } ∧ sWake.pwr.warn = false ∧ sWake.pwr.wakeLast = none ∧
    ((wakeLive sWake).map (fun h => h.na)).sum + wakeNa .loop 24000 ≤ sWake.pwr.power.vinWakeMa * 1000000 ∧
    sWake.pwr.power.vinWakeMa * 1000000 < wakeNa .loop 5000 ∧ ((wakeLive sWake).map (fun h => h.na)).sum = 0 ∧
    sWake.pwr.power.vinWakeMa * 1000000 < ((wakeLive { sWake with pwr.wakeHeld := [{ isl := .key, na := 300000000, till := 9 }] }).map (fun h => h.na)).sum + wakeNa .loop 24000 ∧
    wakeNa .loop 24000 ≤ sWake.pwr.power.vinWakeMa * 1000000 ∧ nextWake sRun = none := by decide
theorem witness_island : islState sWake .loop = .waking ∧ wakeOver sWake .loop = false ∧ wakeOver { sWake with now := 500001 } .loop = true ∧
    (wakingOf sWake .loop).2 = false ∧ (wakingOf { sWake with pwr.waking := [(2, 500000, true)] } .loop).2 = true ∧ islState sRun .loop ≠ .waking := by decide
def sStby : State := { sRun with pwr.standby := true, pwr.halted := [.loop], sys.isl := (List.range 11).map (fun i => (i, if i = 2 then .halt else .run)) }
theorem witness_standby : Permits sRun .firmware .pwr 0x0020 true ∧ mayStandby .firmware sRun = true ∧ isRun sRun .prog = true ∧ isRun sRun .loop = true ∧ isRun sRun .fbus = true ∧
    mayStandby .firmware { sRun with img.state := .staged } = false ∧ Permits { sRun with img.state := .staged } .firmware .pwr 0x0020 true ∧
    Permits sStby .firmware .pwr 0x0020 true ∧ sStby.pwr.standby = true ∧ sStby.pwr.resuming = false ∧ Island.loop ∈ sStby.pwr.halted ∧ islState sStby .loop = .halt ∧
    Permits { sStby with pwr.halted := [] } .firmware .pwr 0x0020 true ∧ sRun.pwr.standby = false := by decide
theorem witness_abort_saf : bitOf 32 5 = true ∧ bitOf 0 5 = false ∧ ({ sRun with now := 200000 } : State).pwr.abortSafAt + 200000 ≤ 200000 ∧
    sRun.now < sRun.pwr.abortSafAt + 200000 ∧ { sRun with saf.powered := true }.saf.powered = true ∧ logicUp sRun = true ∧ sRun.pwr.warn = false := by decide

def cDi : CellSt := { rc := { mode := .di, filterMs := 1, point := 7 }, sampled := true }
def sTrl (c : CellSt) : State :=
  { sRun with trl.cells := [(0, c), (2, { rc := { mode := .count } }), (3, { rc := { mode := .aiV, point := 8 } })],
              trl.points := [(7, { srcKind := pvPartition, srcIndex := 2, cask := 2 }), (8, { srcKind := pvCell, srcIndex := 3 })] }
theorem witness_trl_frame : isRun (sTrl cDi) .trellis = true ∧ (sTrl cDi).trl.frameAt ≤ (sTrl cDi).now ∧
    sRun.now < ({ sRun with trl.frameAt := 5 } : State).trl.frameAt := by decide
theorem witness_trl_scan : isAnalogueIn (cell (sTrl cDi) 3).rc.mode = true ∧ testHolds (sTrl cDi) 3 = false ∧
    pt? (sTrl cDi) (cell (sTrl cDi) 3).rc.point = some { srcKind := pvCell, srcIndex := 3 } := by decide
theorem witness_trl_plain : Plain (sTrl cDi) 8 ∧ Plain (sTrl cDi) 7 := by
  refine ⟨⟨?_, ?_⟩, ⟨?_, ?_⟩⟩
  · exact fun e h => absurd h (List.not_mem_nil)
  · exact fun l h => nomatch h
  · exact fun e h => absurd h (List.not_mem_nil)
  · exact fun l h => nomatch h
theorem witness_trl_inputs : (cell (sTrl cDi) (0 : Fin 256)).rc.mode = .di ∧ (cell (sTrl { cDi with cmpOn := true }) 0).cmpOn ≠ (cell (sTrl cDi) 0).filtOn ∧
    (cell (sTrl cDi) 0).sampled = true ∧ (cell (sTrl cDi) 0).cmpSince + (cell (sTrl cDi) 0).rc.filterMs * 1000000 ≤ ({ sTrl cDi with now := 1000000 } : State).now ∧
    (sTrl cDi).now < (cell (sTrl cDi) 0).cmpSince + (cell (sTrl cDi) 0).rc.filterMs * 1000000 ∧ (cell (sTrl cDi) 2).rc.mode = .count ∧
    (cell (sTrl cDi) 0).rc.mode ≠ .count ∧ (cell (sTrl cDi) 2).rc.mode ≠ .di := by decide
theorem witness_trl_points : Permits (sTrl cDi) .firmware .trl 0x0010 true ∧
    mayRead { srcKind := pvPartition, srcIndex := 2, cask := 2 } 0 = true ∧ mayRead { srcKind := pvPartition, srcIndex := 2, cask := 2 } 3 = false ∧
    Permits (sTrl cDi) ⟨1, 3, false⟩ .trl 0x0010 true ∧ pt? (sTrl cDi) (9 : Fin 16384) = none ∧
    pt? (sTrl cDi) (7 : Fin 16384) = some { srcKind := pvPartition, srcIndex := 2, cask := 2 } ∧ Permits (sTrl cDi) .firmware .trl 0x0048 true ∧
    partWriteOk .firmware { srcKind := pvPartition, srcIndex := 2, cask := 2 } qGood = false := by decide
def sWin : State := { sTrl cDi with img.windows := [(2, [{ block := 3, canRead := true, canWrite := true, first := 0, last := 4095 }])] }
theorem witness_part_write : Permits sWin ⟨1, 2, true⟩ .trl 0x0048 true ∧
    partWriteOk ⟨1, 2, true⟩ { srcKind := pvPartition, srcIndex := 2, cask := 2 } qGood = true := by decide

def sOut (m : CellMode) (v : DWord) : State :=
  { sRun with trl.cells := [(1, { rc := { mode := m, point := 4 }, driving := true, pwmOn := true, holdTo := some 9, tripAt := some 0 })],
              trl.points := [(4, { type := 1, value := v })], now := 1000000000 }
theorem witness_out : (cell (sOut .doOut 1) (1 : Fin 256)).holdTo = some 9 ∧ 9 ≤ ({ sOut .doOut 1 with trl.frame := 9 } : State).trl.frame ∧ (sOut .doOut 1).trl.frame < 9 ∧
    isRun (sOut .doOut 1) .trellis = true ∧ isOutput (cell (sOut .doOut 1) 1).rc.mode = true ∧ cmdOn (command (sOut .doOut 0) (cell (sOut .doOut 0) 1)) = false ∧
    cmdOn (command (sOut .doOut 1) (cell (sOut .doOut 1) 1)) = true ∧ (cell (sOut .doOut 1) 1).tripAt = some 0 ∧ 0 + 1000000000 ≤ (sOut .doOut 1).now ∧
    ({ sOut .doOut 1 with now := 999999999 } : State).now < 0 + 1000000000 ∧ (cell (sOut .doOut 1) 1).driving = true := by decide
theorem witness_group : (group (sOut .doOut 1) (0 : Fin 16)).fsupOk = false ∧ (group { sOut .doOut 1 with trl.groups := [(0, { fsupOk := true })] } (0 : Fin 16)).fsupOk = true := by
  decide
theorem witness_pwm : (cell (sOut .pwm 0) (1 : Fin 256)).rc.mode = .pwm ∧ (cell (sOut .pwm 0) 1).driving = true ∧ (cell (sOut .pwm 0) 1).pwmOn = true ∧
    (cell (sOut .pwm 0) 1).pwmAt = 0 ∧ (cell (sOut .pwm 0) 1).drive = 0 := by decide
def sTest (s : TestState) : State :=
  { sRun with trl.cells := [(1, { rc := { mode := .aiV, point := 4 } })], trl.points := [(4, {})], trl.test := { state := s, cell := 1, type := 1, timeout := 10 } }
theorem witness_cell_test : Permits (sTest .idle) .firmware .trl 0x0100 true ∧ Permits (sTest .running) .firmware .trl 0x0100 true ∧
    Permits (sTest .idle) ⟨1, 3, false⟩ .trl 0x0100 true ∧ (sTest .idle).trl.test.state ≠ .running ∧ (sTest .running).trl.test.state = .running ∧
    testFits (1 : Fin 16) (cell (sTest .idle) (1 : Fin 256)).rc.mode = true ∧ testFits (3 : Fin 16) (cell (sTest .idle) (1 : Fin 256)).rc.mode = false ∧
    testPoint (cell (sTest .idle) (1 : Fin 256)) = some 4 ∧ pt? (sTest .idle) 4 = some {} ∧ isRun (sTest .running) .trellis = true ∧
    (sTest .running).trl.test.startedAt + 10 * 1000000000 ≤ ({ sTest .running with now := 10000000000 } : State).now ∧
    (sTest .running).now < (sTest .running).trl.test.startedAt + 10 * 1000000000 ∧ Permits (sTest .running) .firmware .sys 0x0030 true ∧
    Permits (sTest .idle) .firmware .sys 0x0030 true := by decide

def tPge (tr : Nat) : TaskSt := { exist := true, prog := { rc := { periodMs := 5, trigger := tr, trigPoint := 7 }, inSlots := [7], outSlots := [7] } }
def sPge (n : Nat) (x : TaskSt) : State :=
  { sRun with pge.tasks := [(n, x)], pge.casks := [(1, { mode := .run }), (0, { mode := .run })], trl.frame := 1,
              trl.points := [(7, { type := 1, value := 1, seq := 3, quality := qGood, srcKind := pvProgram, srcIndex := 33, cask := 1 })] }
theorem witness_pge_due : CyclicDue 1 1 (sPge 33 (tPge 0)) ∧ CyclicDue 1 1 (sPge 33 { tPge 0 with cyc := some {} }) ∧
    CyclicDue 1 1 (sPge 33 { tPge 0 with exch := { st := .waiting, boundaryAt := some 0 } }) ∧
    CyclicDue 1 1 { sPge 33 (tPge 0) with sys.isl := (List.range 11).map (fun i => (i, if i = 1 then .halt else .run)) } := by
  simp only [CyclicDue]; decide
theorem witness_pge_work : inWork (tPge 0) = false ∧ inWork { tPge 0 with exch := { st := .waiting, boundaryAt := some 0 } } = true ∧
    (tPge 0).exch.held = none ∧ (tPge 0).cyc = none ∧ (tPge 0).pend = false ∧
    isRun { sPge 33 (tPge 0) with sys.isl := (List.range 11).map (fun i => (i, if i = 1 then .halt else .run)) } .prog = false ∧
    (taskSt (sPge 33 { tPge 0 with lastFrame := some 0 }) (32 * (1 : Fin 63) + (1 : Fin 8))).lastFrame = some ((sPge 33 (tPge 0)).trl.frame - 1) := by decide
theorem witness_pge_event : ∀ tr ∈ [1, 2], isRun (sPge 40 (tPge tr)) .trellis = true ∧ (taskSt (sPge 40 (tPge tr)) 40).exist = true ∧
    (pcask (sPge 40 (tPge tr)) (1 : Fin 63)).mode = .run ∧
    pt? (sPge 40 (tPge tr)) (taskSt (sPge 40 (tPge tr)) 40).prog.rc.trigPoint =
      some { type := 1, value := 1, seq := 3, quality := qGood, srcKind := pvProgram, srcIndex := 33, cask := 1 } ∧
    (3 : Nat) ≠ (taskSt (sPge 40 (tPge tr)) 40).seenSeq ∧ (taskSt (sPge 40 (tPge tr)) 40).prev = false ∧
    (taskSt (sPge 40 (tPge tr)) 40).prog.rc.trigger = tr := by decide
theorem witness_pge_counted : counted { type := 1, value := 1, quality := qGood } = true ∧ boolOf (1 : DWord) = true ∧ boolOf (0 : DWord) = false ∧
    counted { type := 1, value := 1, quality := qSource } = false ∧ (taskSt (sPge 40 { tPge 1 with prev := true, seenSeq := 3 }) 40).prev = true ∧
    (taskSt (sPge 40 { tPge 1 with seenSeq := 3 }) 40).seenSeq = 3 := by decide
theorem witness_pge_trig : Permits (sPge 8 (tPge 4)) .firmware .pge 0x0040 true ∧ (taskSt (sPge 8 (tPge 4)) 8).exist = true ∧
    (taskSt (sPge 8 (tPge 4)) 8).prog.rc.trigger = 4 ∧ (pcask (sPge 8 (tPge 4)) (0 : Fin 64)).mode = .run ∧
    (taskSt (sPge 8 (tPge 4)) 9).exist = false := by decide
theorem witness_pge_period : isRun (sPge 8 (tPge 4)) .prog = true ∧ 1 ≤ (sPge 8 (tPge 4)).trl.frame ∧ ((sPge 8 (tPge 4)).trl.frame - 1) % 10 = 0 ∧
    (sPge 8 (tPge 4)).pge.periodFrame ≠ some 0 ∧ running (sPge 8 (tPge 4)) 0 = none ∧ firstItem (sPge 8 (tPge 4)) (readyItems (sPge 8 (tPge 4))) = none ∧
    usedBy (sPge 8 (tPge 4)) 1 < guarantee { sPge 8 (tPge 4) with img.casks := [(1, { pgeShare := 10 })] } 1 := by decide
def sTwo (r : TaskSt) : State :=
  { sRun with pge.tasks := [(32, { exist := true, prog := { rc := { priority := 3 } }, cyc := some { phase := .running } }),
                            (33, { exist := true, prog := { rc := { priority := 2 } }, cyc := some { phase := .running } }), (34, r)],
              pge.p0 := { task := some 32 }, pge.p1 := { task := some 33 } }
theorem witness_pge_switch : let s := sTwo { exist := true, prog := { rc := { priority := 1 } }, cyc := some { phase := .ready } }
    isRun s .prog = true ∧ running s 0 = some ⟨32, false⟩ ∧ running s 1 = some ⟨33, false⟩ ∧ guarantee s 1 ≤ usedBy s 1 ∧
    finishing s 0 = false ∧ finishing s 1 = false ∧
    firstItem s (readyItems s) = some ⟨34, false⟩ ∧ lexLt (itemKey s ⟨34, false⟩) (itemKey s ⟨32, false⟩) = true ∧
    lexLt (itemKey s ⟨32, false⟩) (itemKey s ⟨33, false⟩) = false := by decide
theorem witness_pge_no_switch : let s := sTwo { exist := true, prog := { rc := { priority := 9 } }, cyc := some { phase := .ready } }
    firstItem s (readyItems s) = some ⟨34, false⟩ ∧ lexLt (itemKey s ⟨34, false⟩) (itemKey s ⟨32, false⟩) = false := by decide
theorem witness_pge_start : let s := { sTwo { exist := true, cyc := some { phase := .ready } } with pge.p0 := {} }
    isRun s .prog = true ∧ running s 0 = none ∧ firstItem s (readyItems s) = some ⟨34, false⟩ ∧
    (taskSt s 34).cyc = some { phase := .ready } := by decide
def sLane (x : Transfer) : State :=
  { sPge 33 { tPge 3 with cyc := some { phase := .released } } with sys.lanes := [(0, [x])], lpe.bufs := [(2, {})] }
theorem witness_lane : laneQ (sLane (.inputImage 33)) { hc := 0, back := false } = [.inputImage 33] ∧ laneQ sRun { hc := 0, back := false } = [] ∧
    laneQ (sLane (.outputImage 33)) { hc := 0, back := false } = [.outputImage 33] ∧ laneQ (sLane (.capture 2)) { hc := 0, back := false } = [.capture 2] ∧
    (taskSt (sPge 33 { tPge 3 with cyc := some { phase := .sent, raises := [1] } }) 33).cyc = some { phase := .sent, raises := [1] } ∧
    (taskSt (sPge 33 (tPge 3)) (32 * (33 / 32) + 1)).prog.rc.trigger = 3 ∧ Tbl.get? (sLane (.capture 2)).lpe.bufs 2 = some {} := by decide

def sOutp (ph : Phase) (x : TaskSt) : State :=
  { sPge 33 { x with cyc := some { phase := ph, out := [(0, (1, qGood))] } } with pge.p0 := { task := some 33 } }
theorem witness_pge_out : isRun (sOutp .executed (tPge 0)) .prog = true ∧ running (sOutp .executed (tPge 0)) 0 = some ⟨33, false⟩ ∧
    (taskSt (sOutp .executed (tPge 0)) 33).cyc = some { phase := .executed, out := [(0, (1, qGood))] } ∧ isRun (sOutp .executed (tPge 0)) .trellis = true ∧
    isRun { sOutp .executed (tPge 0) with sys.isl := (List.range 11).map (fun i => (i, if i = 3 then .off else .run)) } .trellis = false ∧
    isRun { sOutp .executed (tPge 0) with sys.isl := (List.range 11).map (fun i => (i, if i = 3 then .off else .run)) } .prog = true := by decide
theorem witness_pge_commit : (taskSt (sOutp .arrived (tPge 0)) (32 * (1 : Fin 63).val + (1 : Fin 32).val)).prog.outSlots = [7] ∧
    isWriter { type := 1, value := 1, seq := 3, quality := qGood, srcKind := pvProgram, srcIndex := 33, cask := 1 } pvProgram 33 1 = true ∧
    isWriter { srcKind := pvProgram, srcIndex := 34, cask := 1 } pvProgram 33 1 = false ∧ isFinite 1 (fitType 1 1) = true ∧
    isFinite 6 (fitType 6 0x7FF0000000000000) = false ∧ hasRetain (tPge 0) = false ∧
    hasRetain { tPge 0 with prog.insts := [{ retOff := some 0, retSize := 8 }] } = true := by decide
theorem witness_pge_plain : Plain (sOutp .arrived (tPge 0)) 7 :=
  ⟨fun e h => absurd h (List.not_mem_nil), fun l h => nomatch h⟩
theorem witness_pge_phases : ∀ ph ∈ [Phase.executed, .arrived, .committed, .sent], ∃ cy, (taskSt (sOutp ph (tPge 0)) 33).cyc = some cy ∧ cy.phase = ph := by
  intro ph h
  exact ⟨{ phase := ph, out := [(0, (1, qGood))] }, rfl, rfl⟩
theorem witness_pge_wdog : beforeOutput .ready = true ∧ beforeOutput .arrived = false ∧
    (0 : Nat) + wdogNs (taskSt (sOutp .ready (tPge 0)) 33).prog.rc < ({ sOutp .ready (tPge 0) with now := 1000000001 } : State).now ∧
    (sOutp .ready (tPge 0)).now ≤ 0 + wdogNs (taskSt (sOutp .ready (tPge 0)) 33).prog.rc ∧
    (taskSt (sOutp .ready (tPge 0)) 63).exist = false ∧ (pcask (sOutp .ready (tPge 0)) 1).mode = .run := by decide
def sErrQ (x : Nat) : State :=
  { sPge 63 (tPge 0) with pge.casks := [(1, { mode := .run, errs := [{ code := 0x0402, task := 1, cycle := 0, info := 0 }] })],
                          pge.tasks := [(33, { cyc := if x = 0 then none else some {} }), (63, tPge 0)] }
theorem witness_pge_error : (pcask (sErrQ 0) (1 : Fin 63)).errs = [{ code := 0x0402, task := 1, cycle := 0, info := 0 }] ∧ isRun (sErrQ 0) .trellis = true ∧
    (taskSt (sErrQ 0) 63).exist = true ∧ (taskSt (sErrQ 0) 63).cyc = none ∧ inWork (taskSt (sErrQ 0) 63) = false ∧
    raiserBusy (sErrQ 0) 1 { code := 0x0402, task := 1, cycle := 0, info := 0 } = false ∧
    raiserBusy (sErrQ 1) 1 { code := 0x0402, task := 1, cycle := 0, info := 0 } = true ∧ (pcask (sErrQ 1) 1).errs ≠ [] ∧ (pcask sRun 1).errs = [] := by decide

def sMode (m : PMode) : State :=
  { sPge 33 (tPge 0) with pge.casks := [(1, { mode := m, autoDue := true, rc := { startMode := 2 } }), (2, { mode := .stop })] }
theorem witness_pge_modes : ∀ m ∈ [PMode.stop, .run, .hold, .holding, .stopping], Permits (sMode m) .firmware .pge 0 true ∧
    (pcask (sMode m) (cmdCask .firmware (1 : Fin 64))).mode = m ∧ hasTasks (sMode m) (cmdCask .firmware (1 : Fin 64)) = true ∧
    isSealed (sMode m) = false ∧ copyLost (sMode m) (cmdCask .firmware (1 : Fin 64)) = false := by decide
theorem witness_pge_start_refused : hasTasks (sMode .stop) (cmdCask .firmware (2 : Fin 64)) = false ∧
    isSealed { sMode .stop with key.abandoned := true } = true ∧ Permits { sMode .stop with key.abandoned := true } .firmware .pge 0 true ∧
    copyLost { sMode .stop with pge.tasks := [(33, { tPge 0 with prog.insts := [{ retOff := some 0, retSize := 8 }] })] } 1 = true := by decide
theorem witness_pge_drained : caskBusy (sMode .holding) (1 : Fin 63) = false ∧
    caskBusy { sMode .holding with pge.tasks := [(33, { tPge 0 with cyc := some {} })] } (1 : Fin 63) = true ∧
    33 ∈ caskTasks (sMode .stopping) (1 : Fin 63) ∧ 7 ∈ (taskSt (sMode .stopping) 33).prog.outSlots ∧
    (pcask (sMode .hold) (1 : Fin 63)).holdAt + holdLimitNs (pcask (sMode .hold) (1 : Fin 63)) ≤ ({ sMode .hold with now := 600000000000 } : State).now ∧
    (sMode .hold).now < (pcask (sMode .hold) (1 : Fin 63)).holdAt + holdLimitNs (pcask (sMode .hold) (1 : Fin 63)) := by decide
theorem witness_pge_auto : isRun (sMode .stop) .prog = true ∧ isRun (sMode .stop) .trellis = true ∧ (pcask (sMode .stop) (1 : Fin 63)).autoDue = true ∧
    (pcask (sMode .stop) (1 : Fin 63)).rc.startMode = 2 ∧ (pcask (sMode .stop) (2 : Fin 63)).autoDue = false ∧
    (pcask { sMode .stop with pge.casks := [(1, { autoDue := true, rc := { startMode := 1 } })] } (1 : Fin 63)).rc.startMode = 1 := by decide
theorem witness_pge_abort : Permits (sMode .run) .firmware .sys 0x0030 true ∧ Permits (sMode .run) .firmware .pge 0x0010 false ∧
    (taskSt { sMode .run with pge.tasks := [(33, { tPge 0 with exch := { st := .waiting } })] } 33).exch.st = .waiting := by decide
def sVint : State :=
  { sRun with pge.vint := [(4, { lo := 1, hi := 2, rate := 3 })],
              trl.points := [(1, { type := 6, value := 0, quality := qGood }), (2, { type := 6, value := 0x4024000000000000, quality := qGood }),
                             (3, { type := 6, value := 0x3FF0000000000000, quality := qGood }), (4, { type := 6, srcKind := pvVintner })] }
theorem witness_vintner : Tbl.get? sVint.pge.vint (4 : Fin 16384) = some { lo := 1, hi := 2, rate := 3 } ∧
    pt? sVint (4 : Fin 16384) = some { type := 6, srcKind := pvVintner } ∧ isRun sVint .cluster = true ∧ isRun sVint .trellis = true ∧
    boundVal sVint 1 = some 0 ∧ boundVal sVint 2 = some 0x4024000000000000 ∧ boundVal sVint 3 = some 0x3FF0000000000000 ∧
    F64.lt 0x4024000000000000 0 = false ∧ boundVal sVint 9 = none := by decide
theorem witness_vintner_plain : Plain sVint 4 := ⟨fun e h => absurd h (List.not_mem_nil), fun l h => nomatch h⟩

def tExch (e : Exch) : TaskSt := { tPge 0 with exch := { e with st := .waiting, staged := some { rc := { periodMs := 9 } } } }
theorem witness_exch_boundary : isRun (sPge 33 (tExch {})) .prog = true ∧ (taskSt (sPge 33 (tExch {})) 33).exch.st = .waiting ∧
    (taskSt (sPge 33 (tExch {})) 33).exch.boundaryAt = none ∧ (taskSt (sPge 33 (tExch {})) 33).cyc = none ∧
    (taskSt (sPge 33 (tPge 0)) 33).exch.st ≠ .waiting := by decide
theorem witness_exch_switch : (taskSt (sPge 33 (tExch { done := true })) 33).exch.done = true ∧ (taskSt (sPge 33 (tExch { done := true })) 33).exch.held = none ∧
    (taskSt (sPge 33 (tExch { done := true })) 33).exch.staged = some { rc := { periodMs := 9 } } ∧ (taskSt (sPge 33 (tExch {})) 33).exch.done = false ∧
    7 ∈ (taskSt (sPge 33 (tExch { done := true })) 33).prog.outSlots := by decide
theorem witness_exch_time : (taskSt (sPge 33 (tExch { boundaryAt := some 0 })) 33).exch.boundaryAt = some 0 ∧
    (taskSt (sPge 33 (tExch { boundaryAt := some 0 })) 33).exist = true ∧
    0 + wdogNs (taskSt (sPge 33 (tExch { boundaryAt := some 0 })) 33).prog.rc < ({ sPge 33 (tExch {}) with now := 20000001 } : State).now ∧
    (sPge 33 (tExch {})).now ≤ 0 + wdogNs (taskSt (sPge 33 (tExch {})) 33).prog.rc := by decide
theorem witness_exch_work : ∀ m ∈ [true, false], let s := sPge 33 (tExch { boundaryAt := some 0, matched := m })
    isRun s .prog = true ∧ running s 0 = none ∧ firstItem s (readyItems s) = some ⟨33, true⟩ ∧ (taskSt s 33).exch.matched = m ∧
    (taskSt s 33).exch.toMigrate = [] ∧ (taskSt s 33).exch.staged = some { rc := { periodMs := 9 } } := by decide
theorem witness_exch_kept : fateOf [{ pathId := 4, typeHash := 5 }] { pathId := 4, typeHash := 5 } = .kept := rfl
theorem witness_station : let s (x : StnState) : State := { sRun with stn.tbl := [(5, { st := x, wdogMs := 1 })], now := 1000000 }
    Tbl.get? (s .present).stn.tbl (5 : Fin 1024) = some { st := .present, wdogMs := 1 } ∧ 0 + 1 * 1000000 ≤ (s .present).now ∧
    Tbl.get? (s .lost).stn.tbl (5 : Fin 1024) = some { st := .lost, wdogMs := 1 } ∧ ({ s .present with now := 999999 } : State).now < 0 + 1 * 1000000 := by decide
theorem witness_work_busy : running (sTwo {}) 0 = some ⟨32, false⟩ ∧ (⟨32, false⟩ : Item).work = false ∧
    running sRun 0 = none ∧ firstItem sRun (readyItems sRun) = none := by decide

theorem witness_busy : Issuer.firmware.cask.val = 0 ∧ Permits (sImg .committing) .firmware .upd 0x0800 true ∧
    (sImg .committing).img.state ≠ .idle ∧ (sImg .committing).img.state ≠ .staged := by decide

theorem witness_refused_write : pt? (sTrl cDi) 7 = some { srcKind := pvPartition, srcIndex := 2, cask := 2 } ∧
    isWriter { srcKind := pvPartition, srcIndex := 2, cask := 2 } pvCell 7 2 = false ∧
    isWriter { srcKind := pvPartition, srcIndex := 2, cask := 2 } pvCell 7 3 = false ∧ (2 : Nat) = 2 ∧ (3 : Nat) ≠ 2 := by decide

theorem witness_transfer : isRun State.reset .loop = false ∧ isRun sRun .loop = true ∧
    laneKey { hc := 2, back := false } ≠ laneKey { hc := 1, back := true } := by decide

theorem witness_store_full : ∃ r rest, ({ sRun with cel.store := List.replicate 16384 {} } : State).cel.store = r :: rest ∧
    storeSize ≤ ({ sRun with cel.store := List.replicate 16384 {} } : State).cel.store.length :=
  ⟨{}, List.replicate 16383 {}, rfl, Nat.le_of_eq (List.length_replicate).symm⟩
theorem witness_store_member : ({} : EvRec) ∈ ({ sRun with cel.store := [{}] } : State).cel.store ∧
    Completes (exec .exceptionReset { sRun with cel.store := [{}] }) := ⟨List.mem_cons_self .., ⟨_, rfl⟩⟩

def sLoaded : State := { sRun with img.loaded := true, pwr.started := true, pwr.loadDone := true }
theorem witness_prior : ImageRuns sLoaded ∧ sLoaded.img.loaded = true ∧ Completes (step { sLoaded with pending := [.countEdge 0 100 100] }) :=
  ⟨fun _ => ⟨rfl, rfl⟩, rfl, _, rfl⟩

theorem witness_image_runs : ImageRuns { sLoad with pending := [.wholeLoad] } ∧ ImageRuns sLoaded := ⟨fun h => (nomatch h), fun _ => ⟨rfl, rfl⟩⟩

theorem witness_canon : CanonState { sRun with mem.dram := [(4, 7), (9, 1)], pending := [.exceptionReset] } := by
  simp only [CanonState, CanonMem]; decide

theorem witness_dom : ∀ n, (dom { sRun with pending := [.exceptionReset] } n).t < 2 ^ 96 := by
  intro n; exact Nat.two_pow_pos 96

theorem witness_linkless : LinklessEmpty { sRun with pending := [.linkUp .a] } := fun p _ => by cases p <;> exact ⟨rfl, rfl, rfl, rfl⟩

theorem witness_chapter : chapterOf (.syncMissing 0) = .time ∧ chapterOf .wholeLoad = .image ∧ chapterOf (.trellisFrame [] []) = .trellis := by decide

theorem witness_own_cask : chapterOf (.opSt8 0 1 ⟨.ib, 0⟩) = .instruction ∧ running (sIsa {}) 0 = some iIsa ∧ running (sIsa {}) 1 = none ∧
    iIsa.n / 32 ≠ 2 ∧ (caskRec (sIsa {}) (iIsa.n / 32)).instKib ≤ 16384 ∧ (proc (sIsa {}) 0).ctx.migr = none := by decide

theorem witness_rack_forward : chapterOf (.rackConfirm .firmware) ≠ .registers ∧ chapterOf (.rackConfirm .firmware) ≠ .fmp ∧
    Completes (exec (.rackConfirm .firmware) sTrial) := ⟨by decide, by decide, ⟨_, rfl⟩⟩

theorem witness_idle : sRun.pending = [] ∧ isRun sRun .prog = true ∧ isRun sRun .trellis = true ∧
    Tbl.get? ({ sRun with tim.doms := [(1, {})] } : State).tim.doms 1 = some {} ∧
    Tbl.get? ({ sRun with pge.casks := [(3, { mode := .run })] } : State).pge.casks 3 = some { mode := .run } ∧ isRun State.reset .prog = false := by decide

/-! ### WellFormed: for each check a term that breaks it alone, refused; beside it one that passes -/

def okFrame : Frame := 
  { kind := .flow, src := 9, hsrSeq := 5, keyPhase := false, cask := 2, srcAddr := 7, flow := 3, fseq := 1,
    stamp := 0, keyRef := 0, payload := [], tag := [], fcsOk := true, own := true, transit := false }
def okHdr : FmpHdr := { service := true, client := 1, ver := 1, cask := 2, seq := 0, block := 3, offset := 0, count := 1 }
def okReq : FlowReq := { node := 2, dpoint := 1, periodMs := 1000, spoint := 5, npts := 2, reqUs := 2000 }
def okBind : BindReq := { srcAddr := 7, srcFlow := 3, cask := 2, dpoint := 1, npts := 2, promiseNs := 0 }
def okCan : CanRx := { ide := false, fdf := false, id := 0x7FF, payload := [1, 2, 3, 4, 5, 6, 7, 8], remote := false, durationNs := 0 }

theorem test_wf_issuer : wf (.stage .firmware) = true ∧ wf (.stage ⟨0, 5, false⟩) = false ∧ wf (.stage ⟨0, 63, true⟩) = false ∧
    wf (.stage ⟨0, 63, false⟩) = true := by decide
theorem test_wf_address : wf (.registerWrite .firmware 0x40030000 0) = true ∧ wf (.registerWrite .firmware 0x3FFFFFFC 0) = false ∧
    wf (.registerWrite .firmware 0x50000000 0) = false ∧ wf (.rcRegisterRead .firmware 0x50000000) = false := by decide
theorem test_wf_narrow : wf (.narrowOrUnalignedAccess .firmware 0x40030000 2 true) = true ∧
    wf (.narrowOrUnalignedAccess .firmware 0x40030000 4 true) = false ∧ wf (.narrowOrUnalignedAccess .firmware 0x40030001 3 true) = false ∧
    wf (.narrowOrUnalignedAccess .firmware 0x40030002 4 true) = true := by decide
theorem test_wf_unmapped : wf (.unmappedPeripheralAccess .firmware 0x400E0000 false) = true ∧
    wf (.unmappedPeripheralAccess .firmware 0x400DFFFC false) = false := by decide
theorem test_wf_readings : wf (.trellisFrame [(0, 0), (255, 0)] []) = true ∧ wf (.trellisFrame [(256, 0)] []) = false ∧
    wf (.trellisFrame [(4, 0), (4, 0)] []) = false ∧ wf (.trellisFrame [] [(5, 0, 0), (2, 0, 0)]) = false := by decide
theorem test_wf_samples : wf (.pressSample [(53, 8388607)] [(47, -8388608)] 0) = true ∧ wf (.pressSample [(54, 0)] [] 0) = false ∧
    wf (.pressSample [] [(48, 0)] 0) = false ∧ wf (.pressSample [(0, 8388608)] [] 0) = false ∧ wf (.pressSample [] [(0, -8388609)] 0) = false ∧
    wf (.watchSecond [(48, 0)]) = false := by decide
theorem test_wf_safety_inputs : wf (.spSample (List.replicate 16 0) (List.replicate 4 0)) = true ∧
    wf (.spSample (List.replicate 15 0) (List.replicate 4 0)) = false ∧ wf (.slSample (List.replicate 16 0) []) = false ∧
    wf (.tpCheckSample 0 (List.replicate 16 0) []) = false ∧ wf (.acceptMap (List.replicate 47 0)) = false := by decide
theorem test_wf_frame : wf (.ringFrameReceived .a okFrame) = true ∧ wf (.ringFrameReceived .a { okFrame with src := 2 ^ 48 }) = false ∧
    wf (.ringFrameReceived .a { okFrame with hsrSeq := 65536 }) = false ∧ wf (.ringFrameReceived .a { okFrame with cask := 64 }) = false ∧
    wf (.ringFrameReceived .a { okFrame with srcAddr := 65536 }) = false ∧ wf (.ringFrameReceived .a { okFrame with flow := 65536 }) = false ∧
    wf (.ringFrameReceived .a { okFrame with fseq := 2 ^ 32 }) = false ∧ wf (.ringFrameReceived .a { okFrame with keyRef := 2 ^ 32 }) = false := by decide
theorem test_wf_bind : wf (.bindReceived okBind) = true ∧ wf (.bindReceived { okBind with srcAddr := 65536 }) = false ∧
    wf (.bindReceived { okBind with srcFlow := 1024 }) = false ∧ wf (.bindReceived { okBind with dpoint := 16384 }) = false ∧
    wf (.bindReceived { okBind with npts := 64 }) = false := by decide
theorem test_wf_header : wf (.fmpRead okHdr) = true ∧ wf (.fmpRead { okHdr with client := 2 }) = false ∧
    wf (.fmpRead { okHdr with service := false, client := 65536 }) = false ∧ wf (.fmpRead { okHdr with ver := 256 }) = false ∧
    wf (.fmpRead { okHdr with block := 65536 }) = false ∧ wf (.fmpRead { okHdr with offset := 65536 }) = false ∧
    wf (.fmpRead { okHdr with count := 65536 }) = false ∧ wf (.fmpWrite okHdr (List.replicate 65 0)) = false := by decide
theorem test_wf_request : wf (.fmpAdmit okHdr okReq) = true ∧ wf (.fmpAdmit okHdr { okReq with node := 64 }) = false ∧
    wf (.fmpAdmit okHdr { okReq with dpoint := 16384 }) = false ∧ wf (.fmpAdmit okHdr { okReq with periodMs := 65536 }) = false ∧
    wf (.fmpAdmit okHdr { okReq with spoint := 16384 }) = false ∧ wf (.fmpAdmit okHdr { okReq with npts := 64 }) = false ∧
    wf (.fmpAdmit okHdr { okReq with reqUs := 2 ^ 26 }) = false := by decide
theorem test_wf_can : wf (.canFrameReceived 0 okCan) = true ∧ wf (.canFrameReceived 0 { okCan with id := 2048 }) = false ∧
    wf (.canFrameReceived 0 { okCan with ide := true, id := 2 ^ 29 }) = false ∧
    wf (.canFrameReceived 0 { okCan with payload := List.replicate 9 0 }) = false := by decide
theorem test_wf_straps : wf (.startUp (List.replicate 8 true)) = true ∧ wf (.startUp (List.replicate 7 true)) = false := by decide

/-! ### Single commands: expected values from the worked examples of the spec -/

/-- The chilled-water valve (spec/06_loop_engine.md, worked example): one sample of slot 417. -/
def rValve : LoopRec :=
  { slot := 417, periodMs := 500, pv := some 8, out := 9, sched := some 10, direct := true, linear := true, pvLo := 0x40A00000, pvHi := 0x41C80000,
    outHi := 0x41200000, duMax := 0x3CA3D70A, feLimit := 0x3D4CCCCD, feTimeMs := 600000, nreg := 4,
    breaks := [0x40000000, 0x40800000, 0x40C00000, 0x41000000],
    sets := [[0x3F4CCCCD, 0x3C23D70A, 0, 0, 0x3F800000, 0, 0, 0],
      [0x3F99999A, 0x3C75C28F, 0, 0, 0x3F800000, 0, 0, 0],
      [0x3FCCCCCD, 0x3CA3D70A, 0, 0, 0x3F800000, 0, 0, 0],
      [0x40000000, 0x3CCCCCCD, 0, 0, 0x3F800000, 0, 0, 0]] }
def sValve : State :=
  { sRun with
    tim.doms := [(0, { st := .locked })], lpe.run := true, lpe.due := [417], lpe.dueFrame := some 500, trl.frame := 501,
    trl.points := [(9, { type := 3, srcKind := pvLoop, srcIndex := 417 })],
    lpe.slots := [(417, { rc := rValve, mode := .auto, setp := 0x41500000, st := { i := 0x3FE0000000000000, uPrev := 0x3FE1374BC6A7EF9E }, region := some 1,
                          snap := some { pv := some (0x4159999A, qGood), sched := some (0x40A00000, qGood) } })] }
theorem test_valve_sample : (match exec (.loopEvaluation 417) sValve with
    | .next t => (pt? t 9).map (fun p => (decide (0x40AD861A ≤ p.value.toNat), decide (p.value.toNat ≤ 0x40AD862F), p.quality)) | _ => none) =
    some (true, true, qGood) := by decide +kernel
/-- Summer time ends (spec/12_cellar.md, the example under R375). -/
theorem test_dst_sub : (match exec .celPostedWriteEffect { pCel .dstSub with cel.dst := true, cel.cal := ⟨2032, 10, 31, 0, 30, 0⟩ } with
    | .next t => (t.cel.cal, t.cel.dst) | _ => ({}, true)) = (⟨2032, 10, 30, 23, 30, 0⟩, false) := by decide
/-- The example under R381 and R382: C = 6,442; second 2 of the period receives the first pulse. -/
theorem test_trim_window : (match exec (.trimWindowEnd 536864470 0) { sTrim true with cel.trim := 6390 } with
    | .next t => t.cel.trim | _ => 0) = 6442 ∧ (adjustments 6442 0, adjustments 6442 1, adjustments 6442 2) = (0, 0, 1) := by decide
/-- The example under R423. -/
theorem test_lift_request : (pt? (liftNext { sRun with
      trl.points := [(7, { type := 5, srcKind := 4, srcIndex := 0x200 })], fbs.lift := some { floor := 0x1F, req := 7 }, fbs.liftSeq := 0x01A3,
      fbs.liftQ := [{ dest := 40, cask := 1, port := 0, addr := 3 }] }) 7).map (·.value) = some 0x000001A403011F28 := by decide
/-- Floor 31 to the control room (spec/10_ring_and_redundancy.md, worked example): D_calc. -/
def sFloor : State :=
  let m : Node := { sliceNs := 3900, fMaxNs := 4000 }
  { sRun with net.ringQNs := 40000, net.nodes := [(0, m), (1, m), (2, { fMaxNs := 5000, exit := true, extNs := 150000 }), (3, m), (4, m), (5, m), (6, m), (7, m), (8, m)] }
theorem test_dcalc : dCalc sFloor 2 1248 = 852160 ∧ wireNsOf 2 = 1248 := by decide
/-- An accepted run (spec/08_press_continuity_and_tasting.md, the example under R271): tau is 1.000 140 004. -/
theorem test_tau : (let v := F64.mul 0x3FF00068DB8BAC71 (F64.add (F64.ofInt 1) (F64.div (F64.sub 0x3FF0014F8B588E37 (F64.ofInt 1)) (F64.ofInt 8)))
    (decide (0x3FF00092CE02BFBE ≤ v.toNat), decide (v.toNat ≤ 0x3FF00092CE107E2E))) = (true, true) := by decide
theorem test_wf_payload (l : List Byte) (h : 1408 < l.length) : wf (.ringFrameReceived .a { okFrame with payload := l }) = false := by
  have h2 : decide (l.length ≤ 1408) = false := decide_eq_false (by omega)
  simp only [wf, frameOk, h2, Bool.and_false]

end Sys2Proof.Tests
end

section
/-!
The boot view of a state, and that every operation of the model keeps it but the start-up, the whole load and the logic-side reset:
`boot_f` says so of operation `f`, in the order in which the operations are defined. An operation that leaves SYS, the image and
PWR alone keeps the view by its law under Laws/Frame; of the others each is unfolded once, its cases split, and `simp` rewrites with
the lemmas of the operations it calls (`boot_mk` and `boot_fold` see through the updates of single fields).
-/
namespace Sys2Proof.Machine

/-! ### The boot view -/

/-- Whether an image runs, how far the start-up has come, the mode in force and the mode asked for, and the fixed items of the
module (R9, R10, R446, R485, R486). PRIOR stands here only while an image is loaded: before that it may be written. -/
structure Boot where
  loaded : Bool
  started : Bool
  loadDone : Bool
  active : Bool
  prior : Bool
  serial : DWord
  variant : Variant
  ext : Bool
  address : Half

/-- The boot view of a state. -/
def boot (s : State) : Boot :=
  ⟨s.img.loaded, s.pwr.started, s.pwr.loadDone, s.sys.active, s.img.loaded && s.sys.prior, s.sys.serial, s.sys.variant, s.sys.ext,
   s.sys.address⟩

@[simp] theorem boot_loaded (s : State) : (boot s).loaded = s.img.loaded := rfl
@[simp] theorem boot_started (s : State) : (boot s).started = s.pwr.started := rfl
@[simp] theorem boot_wholeLoaded (s : State) : (boot s).loadDone = s.pwr.loadDone := rfl
@[simp] theorem boot_active (s : State) : (boot s).active = s.sys.active := rfl
@[simp] theorem boot_prior (s : State) : (boot s).prior = (s.img.loaded && s.sys.prior) := rfl
@[simp] theorem boot_serial (s : State) : (boot s).serial = s.sys.serial := rfl
@[simp] theorem boot_variant (s : State) : (boot s).variant = s.sys.variant := rfl
@[simp] theorem boot_ext (s : State) : (boot s).ext = s.sys.ext := rfl
@[simp] theorem boot_address (s : State) : (boot s).address = s.sys.address := rfl

/-- The view of a state given by its components. -/
@[simp] theorem boot_mk (p n f r a y m i t g l pr sf c k st fb ne ti u w) :
    boot ⟨p, n, f, r, a, y, m, i, t, g, l, pr, sf, c, k, st, fb, ne, ti, u, w⟩ =
      ⟨i.loaded, w.started, w.loadDone, y.active, i.loaded && y.prior, y.serial, y.variant, y.ext, y.address⟩ := rfl

/-- A view made of the fields of one state is that state's. -/
@[simp] theorem boot_fold (s : State) :
    Boot.mk s.img.loaded s.pwr.started s.pwr.loadDone s.sys.active (s.img.loaded && s.sys.prior) s.sys.serial s.sys.variant
      s.sys.ext s.sys.address = boot s := rfl

@[simp] theorem boot_ite {c : Prop} [Decidable c] (s t : State) :
    boot (if c then s else t) = if c then boot s else boot t := apply_ite ..

@[simp] theorem boot_foldl {α : Type} {f : State → α → State} (h : ∀ s a, boot (f s a) = boot s) (l : List α) (s : State) :
    boot (l.foldl f s) = boot s := by
  induction l generalizing s with
  | nil => rfl
  | cons a l ih => exact (ih _).trans (h s a)

@[simp] theorem after_next (s t : State) : after (.next s) t = s := rfl

@[simp] theorem after_ite {c : Prop} [Decidable c] (x y : Out) (s : State) :
    after (if c then x else y) s = if c then after x s else after y s := by split <;> rfl

/-- What leaves SYS, the image and PWR as they are leaves the boot view (mask: bits 5, 7 and 20 of `Same` clear). -/
theorem boot_of_same {s t : State} (h : Same 0xFFF5F s t) : boot t = boot s := by
  simp only [boot, h.sys rfl, h.img rfl, h.pwr rfl]

theorem boot_of_outSame {s : State} {o : Out} (h : OutSame 0xFFF5F s o) : boot (after o s) = boot s := by
  cases o with
  | next t => exact boot_of_same h
  | fault => rfl
  | refused => rfl

/-! ### Machine/Ops.lean -/

@[simp] theorem boot_setLaneQ (l q s) : boot (setLaneQ l q s) = boot s := by simp [setLaneQ]
@[simp] theorem boot_record (code cask data s) : boot (record code cask data s) = boot s :=
  boot_of_same (record_same (.refl _ s) rfl)
@[simp] theorem boot_xchRefuse (hc src dst s) : boot (xchRefuse hc src dst s) = boot s := by simp [xchRefuse]
@[simp] theorem boot_present (l src dst t s) : boot (present l src dst t s) = boot s := by simp [present]
@[simp] theorem boot_denied (kind block object target detail cask s) :
    boot (denied kind block object target detail cask s) = boot s := by
  simp [denied]
@[simp] theorem boot_updDom (n f s) : boot (updDom n f s) = boot s := boot_of_same (updDom_same (.refl _ s) rfl)
@[simp] theorem boot_queueStart (w s) : boot (queueStart w s) = boot s := by simp [queueStart]
@[simp] theorem boot_noteCommand (i s) : boot (noteCommand i s) = boot s := by simp [noteCommand]
@[simp] theorem boot_setPt (i p s) : boot (setPt i p s) = boot s := boot_of_same (setPt_same (.refl _ s) rfl)
@[simp] theorem boot_unqueueStart (w s) : boot (unqueueStart w s) = boot s := by simp [unqueueStart]
@[simp] theorem boot_updCell (n f s) : boot (updCell n f s) = boot s := boot_of_same (updCell_same (.refl _ s) rfl)
@[simp] theorem boot_bumpFree (s) : boot (bumpFree s) = boot s := boot_of_same (bumpFree_same (.refl _ s) rfl)

theorem setIsl_sys (i st s) : (setIsl i st s).sys = { s.sys with isl := Tbl.put s.sys.isl (islNum i) st } := rfl

@[simp] theorem boot_setIsl (i st s) : boot (setIsl i st s) = boot s := by simp [setIsl]

/-! ### Machine/CanQueue.lean -/

@[simp] theorem boot_noteChange (i p s) : boot (noteChange i p s) = boot s := boot_of_same (noteChange_same (.refl _ s) rfl)
@[simp] theorem boot_updCan (n f s) : boot (updCan n f s) = boot s := boot_of_same (updCan_same (.refl _ s) rfl)
@[simp] theorem boot_buildChanged (s) : boot (buildChanged s) = boot s := boot_of_same (buildChanged_same (.refl _ s) rfl)

/-! ### Machine/Operands.lean -/

@[simp] theorem boot_busDenied (iss b off isWrite s) : boot (busDenied iss b off isWrite s) = boot s := by simp [busDenied]
@[simp] theorem boot_regCmd {iss} {b} {off} {op} {s} {t} (hop : ∀ s, boot (op s) = boot s) :
    boot (after (regCmd iss b off op s) t) = boot s := by
  unfold regCmd; split <;> simp [hop]
@[simp] theorem boot_regRead {iss} {b} {off} {val} {op} {s} {t} (hop : ∀ s, boot (op s) = boot s) :
    boot (after (regRead iss b off val op s) t) = boot s := by
  unfold regRead; split <;> simp [hop]

theorem setCtl_sys (b off w s) : (setCtl b off w s).sys = { s.sys with regs := Tbl.put s.sys.regs (ctlKey b off) w } := rfl

@[simp] theorem boot_setCtl (b off w s) : boot (setCtl b off w s) = boot s := by simp [setCtl]

/-! ### Machine/Points.lean -/

@[simp] theorem boot_refuseWrite (i prov cask s) : boot (refuseWrite i prov cask s) = boot s := by
  simp only [refuseWrite]; split <;> simp
@[simp] theorem boot_noteLevel (i changed s) : boot (noteLevel i changed s) = boot s :=
  boot_of_same (noteLevel_same (.refl _ s) rfl)
@[simp] theorem boot_noteOpen (i prov p s) : boot (noteOpen i prov p s) = boot s := boot_of_same (noteOpen_same (.refl _ s) rfl)
@[simp] theorem boot_putEntry0 (i prov v q st s) : boot (putEntry0 i prov v q st s) = boot s := by
  unfold putEntry0; split <;> simp
@[simp] theorem boot_noteMask (s) : boot (noteMask s) = boot s := by
  unfold noteMask; (repeat' split) <;> simp
@[simp] theorem boot_openDoor (d r s) : boot (openDoor d r s) = boot s := by simp [openDoor]
@[simp] theorem boot_noteRelease (i old new s) : boot (noteRelease i old new s) = boot s := by simp [noteRelease]
@[simp] theorem boot_putEntry (i prov v q st s) : boot (putEntry i prov v q st s) = boot s := by
  simp only [putEntry]; (repeat' split) <;> simp
@[simp] theorem boot_writeBy (kind idx cask i v q st s) : boot (writeBy kind idx cask i v q st s) = boot s := by
  unfold writeBy; split <;> simp
@[simp] theorem boot_writeQ (kind idx cask i v q st s) : boot (writeQ kind idx cask i v q st s) = boot s := by
  unfold writeQ; split <;> simp
@[simp] theorem boot_substitute (i s) : boot (substitute i s) = boot s := by
  unfold substitute; split <;> simp
@[simp] theorem boot_substituteAll (is s) : boot (substituteAll is s) = boot s := by simp [substituteAll]

/-! ### Machine/Trellis.lean -/

@[simp] theorem boot_endTest (code err s) : boot (endTest code err s) = boot s := boot_of_same (endTest_same (.refl _ s) rfl)
@[simp] theorem boot_testStopOp (s) : boot (testStopOp s) = boot s := boot_of_same (testStopOp_same (.refl _ s) rfl)
@[simp] theorem boot_activateCell (n rc s) : boot (activateCell n rc s) = boot s := by simp [activateCell]
@[simp] theorem boot_activatePending (s) : boot (activatePending s) = boot s := by
  unfold activatePending
  refine boot_foldl (fun s e => ?_) _ _
  split <;> simp
@[simp] theorem boot_markDeferred (w s) : boot (markDeferred w s) = boot s := by simp [markDeferred]
@[simp] theorem boot_noteDefer (s) : boot (noteDefer s) = boot s := by simp [noteDefer]
@[simp] theorem boot_deferStart (r s) : boot (deferStart r s) = boot s := by simp [deferStart]
@[simp] theorem boot_noteOversize (b ma s) : boot (noteOversize b ma s) = boot s :=
  boot_of_same (noteOversize_same (.refl _ s) rfl)
@[simp] theorem boot_admitStart (k r s) : boot (admitStart k r s) = boot s := by
  unfold admitStart; split <;> simp
@[simp] theorem boot_admitPass (k blocked q s) : boot (admitPass k blocked q s) = boot s := by
  induction q generalizing blocked s with
  | nil => rfl
  | cons r rest ih => unfold admitPass; split <;> simp [ih]
@[simp] theorem boot_applyOutput (n s) : boot (applyOutput n s) = boot s := boot_of_same (applyOutput_same (.refl _ s) rfl)
@[simp] theorem boot_calibrateGroup (refs g s) : boot (calibrateGroup refs g s) = boot s :=
  boot_of_same (calibrateGroup_same (.refl _ s) rfl)
@[simp] theorem boot_testStartOp (iss n type timeout s) : boot (testStartOp iss n type timeout s) = boot s := by
  simp only [testStartOp]; (repeat' split) <;> simp [setCtl_sys]
@[simp] theorem boot_execCellTestStart (iss n type timeout s) :
    boot (after (execCellTestStart iss n type timeout s) s) = boot s := by
  simp [execCellTestStart]
@[simp] theorem boot_execCellTestStop (iss s) : boot (after (execCellTestStop iss s) s) = boot s := by simp [execCellTestStop]
@[simp] theorem boot_execDoTripRetry (n s) : boot (after (execDoTripRetry n s) s) = boot s := by
  simp only [execDoTripRetry]; split <;> simp
@[simp] theorem boot_updPtBank (iss f s) : boot (updPtBank iss f s) = boot s := boot_of_same (updPtBank_same (.refl _ s) rfl)
@[simp] theorem boot_snapshotOp (iss i s) : boot (snapshotOp iss i s) = boot s := by
  unfold snapshotOp; split <;> simp
@[simp] theorem boot_execPointSnapshot (iss i s) : boot (after (execPointSnapshot iss i s) s) = boot s := by
  simp [execPointSnapshot]
@[simp] theorem boot_partWriteOp (iss i q s) : boot (partWriteOp iss i q s) = boot s := by
  unfold partWriteOp; split <;> simp
@[simp] theorem boot_execPartitionPointWrite (iss i q s) : boot (after (execPartitionPointWrite iss i q s) s) = boot s := by
  simp [execPartitionPointWrite]
@[simp] theorem boot_fsupLowOp (g s) : boot (fsupLowOp g s) = boot s := by simp [fsupLowOp]
@[simp] theorem boot_execGroupFsupLow (g mv s) : boot (after (execGroupFsupLow g mv s) s) = boot s := by simp [execGroupFsupLow]
@[simp] theorem boot_fsupRestoredOp (g s) : boot (fsupRestoredOp g s) = boot s := by simp [fsupRestoredOp]
@[simp] theorem boot_execGroupFsupRestored (g mv heldMs s) : boot (after (execGroupFsupRestored g mv heldMs s) s) = boot s := by
  simp [execGroupFsupRestored]
@[simp] theorem boot_turnOffOp (n s) : boot (turnOffOp n s) = boot s := by simp [turnOffOp]
@[simp] theorem boot_execOutputTurnOff (n s) : boot (after (execOutputTurnOff n s) s) = boot s := by simp [execOutputTurnOff]
@[simp] theorem boot_execStartRelease (n s) : boot (after (execStartRelease n s) s) = boot s := by
  unfold execStartRelease; split <;> simp
@[simp] theorem boot_writeCell (n i v q st s) : boot (writeCell n i v q st s) = boot s := by
  unfold writeCell; split <;> simp
@[simp] theorem boot_scanIn (n raw s) : boot (scanIn n raw s) = boot s := by
  simp only [scanIn]; split <;> simp
@[simp] theorem boot_scanOut (n raw s) : boot (scanOut n raw s) = boot s := by
  simp only [scanOut]; split <;> simp
@[simp] theorem boot_runSlot (rs n s) : boot (runSlot rs n s) = boot s := by simp [runSlot]
@[simp] theorem boot_releaseStarts (k s) : boot (releaseStarts k s) = boot s := by
  unfold releaseStarts
  refine (boot_foldl (fun s h => ?_) _ _).trans rfl
  split <;> simp
@[simp] theorem boot_startStep (k s) : boot (startStep k s) = boot s := by simp [startStep]
@[simp] theorem boot_freeReleased (s) : boot (freeReleased s) = boot s := boot_of_same (freeReleased_same (.refl _ s) rfl)
@[simp] theorem boot_frameOp (rs refs s) : boot (frameOp rs refs s) = boot s := by simp [frameOp]
@[simp] theorem boot_execTrellisFrame (rs refs s) : boot (after (execTrellisFrame rs refs s) s) = boot s := by
  simp [execTrellisFrame]

/-! ### Machine/PowerOps.lean -/

@[simp] theorem boot_abortDone (bit s) : boot (abortDone bit s) = boot s := by simp [abortDone]
@[simp] theorem boot_abortTarget {bit} {i} {eff} {s} (heff : ∀ s, boot (eff s) = boot s) :
    boot (abortTarget bit i eff s) = boot s := by
  simp [abortTarget, heff]
@[simp] theorem boot_abortCmd {iss} {bit} {i} {eff} {s} (heff : ∀ s, boot (eff s) = boot s) :
    boot (after (abortCmd iss bit i eff s) s) = boot s := by
  simp [abortCmd, heff]
@[simp] theorem boot_execTrellisAbort (iss s) : boot (after (execTrellisAbort iss s) s) = boot s := by simp [execTrellisAbort]
@[simp] theorem boot_queueWake (i resume s) : boot (queueWake i resume s) = boot s := by simp [queueWake]

/-! ### Machine/Egress.lean -/

@[simp] theorem boot_nextHsr (s) : boot (nextHsr s) = boot s := boot_of_same (nextHsr_same (.refl _ s) rfl)
@[simp] theorem boot_sendBoth {q} {f} {s} (hq : ∀ x y s, boot (q x y s) = boot s) : boot (sendBoth q f s) = boot s := by
  simp [sendBoth, hq]
@[simp] theorem boot_queue3 (p cask f s) : boot (queue3 p cask f s) = boot s := boot_of_same (queue3_same (.refl _ s) rfl)
@[simp] theorem boot_queue1 (p f s) : boot (queue1 p f s) = boot s := boot_of_same (queue1_same (.refl _ s) rfl)

/-! ### Machine/PgeOps.lean -/

@[simp] theorem boot_dropLater (c es s) : boot (dropLater c es s) = boot s := boot_of_same (dropLater_same (.refl _ s) rfl)
@[simp] theorem boot_updPCask (c f s) : boot (updPCask c f s) = boot s := boot_of_same (updPCask_same (.refl _ s) rfl)
@[simp] theorem boot_stopCaskOp (c s) : boot (stopCaskOp c s) = boot s := boot_of_same (stopCaskOp_same (.refl _ s) rfl)
@[simp] theorem boot_endErrorRun (c e ack s) : boot (endErrorRun c e ack s) = boot s :=
  boot_of_same (endErrorRun_same (.refl _ s) rfl)
@[simp] theorem boot_updTask (n f s) : boot (updTask n f s) = boot s := boot_of_same (updTask_same (.refl _ s) rfl)
@[simp] theorem boot_freeProc (p s) : boot (freeProc p s) = boot s := boot_of_same (freeProc_same (.refl _ s) rfl)
@[simp] theorem boot_freeItem (i s) : boot (freeItem i s) = boot s := boot_of_same (freeItem_same (.refl _ s) rfl)
@[simp] theorem boot_countOvr (n s) : boot (countOvr n s) = boot s := boot_of_same (countOvr_same (.refl _ s) rfl)
@[simp] theorem boot_raise (code cask task info s) : boot (raise code cask task info s) = boot s :=
  boot_of_same (raise_same (.refl _ s) rfl)
@[simp] theorem boot_raiseFor (code n info s) : boot (raiseFor code n info s) = boot s :=
  boot_of_same (raiseFor_same (.refl _ s) rfl)
@[simp] theorem boot_releaseTask (n s) : boot (releaseTask n s) = boot s := by simp [releaseTask]
@[simp] theorem boot_endCycle (n complete s) : boot (endCycle n complete s) = boot s := by
  simp only [endCycle]; (repeat' split) <;> simp
@[simp] theorem boot_abandon (n code info s) : boot (abandon n code info s) = boot s := by simp [abandon]
@[simp] theorem boot_takeHeld (n s) : boot (takeHeld n s) = boot s := by
  simp only [takeHeld]; (repeat' split) <;> simp
@[simp] theorem boot_failExchange (n code s) : boot (failExchange n code s) = boot s := by simp [failExchange]
@[simp] theorem boot_updCyc (n f s) : boot (updCyc n f s) = boot s := boot_of_same (updCyc_same (.refl _ s) rfl)
@[simp] theorem boot_charge (p c k s) : boot (charge p c k s) = boot s := boot_of_same (charge_same (.refl _ s) rfl)
@[simp] theorem boot_setCtx (p c s) : boot (setCtx p c s) = boot s := boot_of_same (setCtx_same (.refl _ s) rfl)
@[simp] theorem boot_triggerTask (n s) : boot (triggerTask n s) = boot s := by simp [triggerTask]

/-! ### Machine/Station.lean -/

@[simp] theorem boot_updStn (n f s) : boot (updStn n f s) = boot s := boot_of_same (updStn_same (.refl _ s) rfl)
@[simp] theorem boot_checkProven (n s) : boot (checkProven n s) = boot s := boot_of_same (checkProven_same (.refl _ s) rfl)
@[simp] theorem boot_statusTrue (t s) : boot (statusTrue t s) = boot s := by
  unfold statusTrue; split <;> simp
@[simp] theorem boot_heardStation (n s) : boot (heardStation n s) = boot s := by
  unfold heardStation; (repeat' split) <;> simp
@[simp] theorem boot_provingCycle (task cy s) : boot (provingCycle task cy s) = boot s :=
  boot_of_same (provingCycle_same (.refl _ s) rfl)
@[simp] theorem boot_loseBus (p s) : boot (loseBus p s) = boot s := boot_of_same (loseBus_same (.refl _ s) rfl)
@[simp] theorem boot_substituteDue (s) : boot (substituteDue s) = boot s := by simp [substituteDue]

/-! ### Machine/FieldBus.lean -/

@[simp] theorem boot_endScan (code s) : boot (endScan code s) = boot s := boot_of_same (endScan_same (.refl _ s) rfl)
@[simp] theorem boot_fieldBusAbortOp (s) : boot (fieldBusAbortOp s) = boot s :=
  boot_of_same (fieldBusAbortOp_same (.refl _ s) rfl)
@[simp] theorem boot_execFieldBusAbort (iss s) : boot (after (execFieldBusAbort iss s) s) = boot s := by
  simp [execFieldBusAbort]
@[simp] theorem boot_busAlive (ch s) : boot (busAlive ch s) = boot s := boot_of_same (busAlive_same (.refl _ s) rfl)
@[simp] theorem boot_mirror (kind idx cask ws s) : boot (mirror kind idx cask ws s) = boot s := by simp [mirror]
@[simp] theorem boot_markRx (ch k durationNs s) : boot (markRx ch k durationNs s) = boot s :=
  boot_of_same (markRx_same (.refl _ s) rfl)
@[simp] theorem boot_canReceiveOp (ch x s) : boot (canReceiveOp ch x s) = boot s := by
  simp only [canReceiveOp]; (repeat' split) <;> simp
@[simp] theorem boot_fbsStatus (iss c s) : boot (fbsStatus iss c s) = boot s := boot_of_same (fbsStatus_same (.refl _ s) rfl)
@[simp] theorem boot_chCmd {iss} {ch} {fits} {eff} {s} (heff : ∀ s, boot (eff s) = boot s) :
    boot (after (chCmd iss ch fits eff s) s) = boot s := by
  simp [chCmd, heff]
@[simp] theorem boot_execFbsChStart (iss ch s) : boot (after (execFbsChStart iss ch s) s) = boot s := by simp [execFbsChStart]
@[simp] theorem boot_execFbsChStop (iss ch s) : boot (after (execFbsChStop iss ch s) s) = boot s := by simp [execFbsChStop]
@[simp] theorem boot_execRecoverChannel (iss ch s) : boot (after (execRecoverChannel iss ch s) s) = boot s := by
  simp [execRecoverChannel]
@[simp] theorem boot_execCanFrameReceived (ch x s) : boot (after (execCanFrameReceived ch x s) s) = boot s := by
  simp [execCanFrameReceived]
@[simp] theorem boot_execMarginScanStop (iss s) : boot (after (execMarginScanStop iss s) s) = boot s := by
  simp [execMarginScanStop]
@[simp] theorem boot_execMarginScanStart (iss ch count s) : boot (after (execMarginScanStart iss ch count s) s) = boot s := by
  simp [execMarginScanStart]

/-! ### Machine/KeyOps.lean -/

@[simp] theorem boot_useBud (root c cask b ctx s) : boot (useBud root c cask b ctx s) = boot s :=
  boot_of_same (useBud_same (.refl _ s) rfl)
@[simp] theorem boot_endKeyOps (code s) : boot (endKeyOps code s) = boot s := boot_of_same (endKeyOps_same (.refl _ s) rfl)
@[simp] theorem boot_closeSessions (p why s) : boot (closeSessions p why s) = boot s :=
  boot_of_same (closeSessions_same (.refl _ s) rfl)
@[simp] theorem boot_invalidate (p s) : boot (invalidate p s) = boot s := boot_of_same (invalidate_same (.refl _ s) rfl)
@[simp] theorem boot_eraseRoot (r s) : boot (eraseRoot r s) = boot s := boot_of_same (eraseRoot_same (.refl _ s) rfl)
@[simp] theorem boot_setLc (l s) : boot (setLc l s) = boot s := boot_of_same (setLc_same (.refl _ s) rfl)
@[simp] theorem boot_leaveService (s) : boot (leaveService s) = boot s := boot_of_same (leaveService_same (.refl _ s) rfl)
@[simp] theorem boot_writeRoot (r v s) : boot (writeRoot r v s) = boot s := boot_of_same (writeRoot_same (.refl _ s) rfl)

/-! ### Machine/Building.lean -/

@[simp] theorem boot_bsiStatus (iss c s) : boot (bsiStatus iss c s) = boot s := boot_of_same (bsiStatus_same (.refl _ s) rfl)
@[simp] theorem boot_updDali (p f s) : boot (updDali p f s) = boot s := boot_of_same (updDali_same (.refl _ s) rfl)
@[simp] theorem boot_updOsdp (p f s) : boot (updOsdp p f s) = boot s := boot_of_same (updOsdp_same (.refl _ s) rfl)
@[simp] theorem boot_portStart (p s) : boot (portStart p s) = boot s := by simp [portStart]
@[simp] theorem boot_execBsiPortStart (iss port s) : boot (after (execBsiPortStart iss port s) s) = boot s := by
  simp [execBsiPortStart]
@[simp] theorem boot_updReader (r f s) : boot (updReader r f s) = boot s := boot_of_same (updReader_same (.refl _ s) rfl)
@[simp] theorem boot_execBsiPortStop (iss port s) : boot (after (execBsiPortStop iss port s) s) = boot s := by
  simp [execBsiPortStop]
@[simp] theorem boot_execInstall (iss port addr s) : boot (after (execInstall iss port addr s) s) = boot s :=
  boot_regCmd fun s => by dsimp only; split <;> simp
@[simp] theorem boot_credCode (iss code s) : boot (credCode iss code s) = boot s := boot_of_same (credCode_same (.refl _ s) rfl)
@[simp] theorem boot_changeCreds (f s) : boot (changeCreds f s) = boot s := boot_of_same (changeCreds_same (.refl _ s) rfl)
@[simp] theorem boot_execCredDelete (iss s) : boot (after (execCredDelete iss s) s) = boot s := by simp [execCredDelete]
@[simp] theorem boot_execCredReplace (iss sched dest s) : boot (after (execCredReplace iss sched dest s) s) = boot s := by
  simp [execCredReplace]
@[simp] theorem boot_execCredAdd (iss sched dest s) : boot (after (execCredAdd iss sched dest s) s) = boot s := by
  simp [execCredAdd]
@[simp] theorem boot_liftRequest (r e s) : boot (liftRequest r e s) = boot s := boot_of_same (liftRequest_same (.refl _ s) rfl)
@[simp] theorem boot_decideDoor (k d r s) : boot (decideDoor k d r s) = boot s := by
  unfold decideDoor; split <;> simp
@[simp] theorem boot_execAccessDecision (p s) : boot (after (execAccessDecision p s) s) = boot s := by
  unfold execAccessDecision; split <;> simp
@[simp] theorem boot_execDaliBackwardFrame (p b s) : boot (after (execDaliBackwardFrame p b s) s) = boot s := by
  unfold execDaliBackwardFrame; split <;> simp
@[simp] theorem boot_execDaliBusRestored (p mv heldMs s) : boot (after (execDaliBusRestored p mv heldMs s) s) = boot s := by
  simp [execDaliBusRestored]
@[simp] theorem boot_execDaliEventMessage (p short inst instType event s) :
    boot (after (execDaliEventMessage p short inst instType event s) s) = boot s := by
  simp only [execDaliEventMessage]; (repeat' split) <;> simp
@[simp] theorem boot_liftNext (s) : boot (liftNext s) = boot s := by
  unfold liftNext; split <;> simp
@[simp] theorem boot_keysetEvent (r outcome s) : boot (keysetEvent r outcome s) = boot s :=
  boot_of_same (keysetEvent_same (.refl _ s) rfl)
@[simp] theorem boot_scFail (p r s) : boot (scFail p r s) = boot s := boot_of_same (scFail_same (.refl _ s) rfl)
@[simp] theorem boot_replyOp (p r x s) : boot (replyOp p r x s) = boot s := by
  unfold replyOp
  extract_lets
  cases x <;> dsimp only <;> simp
@[simp] theorem boot_execOsdpReply (p macOk x s) : boot (after (execOsdpReply p macOk x s) s) = boot s := by
  unfold execOsdpReply; split <;> simp
@[simp] theorem boot_execStrikeExpiry (d s) : boot (after (execStrikeExpiry d s) s) = boot s := by
  unfold execStrikeExpiry; split <;> simp

/-! ### Machine/RingOps.lean -/

@[simp] theorem boot_dropStale (s) : boot (dropStale s) = boot s := boot_of_same (dropStale_same (.refl _ s) rfl)
@[simp] theorem boot_newEpoch (key s) : boot (newEpoch key s).2 = boot s := boot_of_same (newEpoch_same (.refl _ s) rfl)
@[simp] theorem boot_noteBud (b s) : boot (noteBud b s) = boot s := boot_of_same (noteBud_same (.refl _ s) rfl)
@[simp] theorem boot_noteSealed (tree epoch f s) : boot (noteSealed tree epoch f s) = boot s :=
  boot_of_same (noteSealed_same (.refl _ s) rfl)
@[simp] theorem boot_sendAnswer (cask hdr status ws s) : boot (sendAnswer cask hdr status ws s) = boot s := by
  simp only [sendAnswer]; (repeat' split) <;> simp
@[simp] theorem boot_keepAnswer (key seq r s) : boot (keepAnswer key seq r s) = boot s :=
  boot_of_same (keepAnswer_same (.refl _ s) rfl)
@[simp] theorem boot_dupNote (f p s) : boot (dupNote f p s).2 = boot s := boot_of_same (dupNote_same (.refl _ s) rfl)
@[simp] theorem boot_pathHb (n p seen s) : boot (pathHb n p seen s) = boot s := boot_of_same (pathHb_same (.refl _ s) rfl)
@[simp] theorem boot_sendHbt {k} {payload} {send} {s} (hsend : ∀ x s, boot (send x s) = boot s) :
    boot (sendHbt k payload send s) = boot s := by
  unfold sendHbt
  split
  · simp
  · simp only []
    split <;> split <;> simp [hsend, newEpoch]

/-! ### Machine/Ring.lean -/

@[simp] theorem boot_updFlow (n f s) : boot (updFlow n f s) = boot s := boot_of_same (updFlow_same (.refl _ s) rfl)
@[simp] theorem boot_ptestEnd (code s) : boot (ptestEnd code s) = boot s := boot_of_same (ptestEnd_same (.refl _ s) rfl)
@[simp] theorem boot_deliverFmp (f plain s) : boot (deliverFmp f plain s) = boot s := by simp [deliverFmp]
@[simp] theorem boot_leesFirst (f p s) : boot (leesFirst f p s) = boot s := boot_of_same (leesFirst_same (.refl _ s) rfl)
@[simp] theorem boot_writeEntries (n cask first es s) : boot (writeEntries n cask first es s) = boot s := by simp [writeEntries]
@[simp] theorem boot_countLate (n s) : boot (countLate n s) = boot s := boot_of_same (countLate_same (.refl _ s) rfl)
@[simp] theorem boot_heardPeer (addr s) : boot (heardPeer addr s) = boot s := by simp [heardPeer]
@[simp] theorem boot_deliverFlow (f plain s) : boot (deliverFlow f plain s) = boot s := by
  unfold deliverFlow; split <;> simp
@[simp] theorem boot_leesSecond (f s) : boot (leesSecond f s) = boot s := boot_of_same (leesSecond_same (.refl _ s) rfl)
@[simp] theorem boot_noteMac (n f s) : boot (noteMac n f s) = boot s := boot_of_same (noteMac_same (.refl _ s) rfl)
@[simp] theorem boot_acceptCopy (p f plain s) : boot (acceptCopy p f plain s) = boot s := by
  simp only [acceptCopy]; (repeat' split) <;> simp
@[simp] theorem boot_noteBypass (s) : boot (noteBypass s) = boot s := boot_of_same (noteBypass_same (.refl _ s) rfl)
@[simp] theorem boot_countDropped (n k s) : boot (countDropped n k s) = boot s :=
  boot_of_same (countDropped_same (.refl _ s) rfl)
@[simp] theorem boot_execBypHoldSet (iss w s) : boot (after (execBypHoldSet iss w s) s) = boot s := by simp [execBypHoldSet]
@[simp] theorem boot_ptestStartOp (iss p len s) : boot (ptestStartOp iss p len s) = boot s :=
  boot_of_same (ptestStartOp_same (.refl _ s) rfl)
@[simp] theorem boot_execPathTestStart (iss p len s) : boot (after (execPathTestStart iss p len s) s) = boot s := by
  simp [execPathTestStart]
@[simp] theorem boot_heartbeatOp (s) : boot (heartbeatOp s) = boot s := by simp [heartbeatOp]
@[simp] theorem boot_execHeartbeatSend (s) : boot (after (execHeartbeatSend s) s) = boot s := by simp [execHeartbeatSend]
@[simp] theorem boot_ptestSendOp (s) : boot (ptestSendOp s) = boot s := by simp [ptestSendOp]
@[simp] theorem boot_execPathTestFrameSend (s) : boot (after (execPathTestFrameSend s) s) = boot s := by
  simp [execPathTestFrameSend]
@[simp] theorem boot_receiveOwn (p f s) : boot (receiveOwn p f s) = boot s := by
  simp only [receiveOwn]; (repeat' split) <;> simp
@[simp] theorem boot_testReturn (p f s) : boot (testReturn p f s) = boot s := boot_of_same (testReturn_same (.refl _ s) rfl)
@[simp] theorem boot_forward (p f s) : boot (forward p f s) = boot s := boot_of_same (forward_same (.refl _ s) rfl)
@[simp] theorem boot_ringFrameOp (p f s) : boot (ringFrameOp p f s) = boot s := by simp [ringFrameOp]
@[simp] theorem boot_execRingFrameReceived (p f s) : boot (after (execRingFrameReceived p f s) s) = boot s := by
  simp [execRingFrameReceived]

/-! ### Machine/Time.lean -/

@[simp] theorem boot_timAbort (s) : boot (timAbort s) = boot s := boot_of_same (timAbort_same (.refl _ s) rfl)
@[simp] theorem boot_adjustOp (iss n s) : boot (adjustOp iss n s) = boot s := boot_of_same (adjustOp_same (.refl _ s) rfl)
@[simp] theorem boot_setOp (iss n trust s) : boot (setOp iss n trust s) = boot s := boot_of_same (setOp_same (.refl _ s) rfl)
@[simp] theorem boot_execSetTrustDomain (iss n s) : boot (after (execSetTrustDomain iss n s) s) = boot s := by
  simp [execSetTrustDomain]
@[simp] theorem boot_execSetDomain (iss n s) : boot (after (execSetDomain iss n s) s) = boot s := by simp [execSetDomain]
@[simp] theorem boot_execAdjustDomain (iss n s) : boot (after (execAdjustDomain iss n s) s) = boot s := by
  simp [execAdjustDomain]
@[simp] theorem boot_execCaptureRead (iss n s) : boot (after (execCaptureRead iss n s) s) = boot s :=
  boot_regRead fun s => by simp
@[simp] theorem boot_xsnapOp (mask s) : boot (xsnapOp mask s) = boot s := boot_of_same (xsnapOp_same (.refl _ s) rfl)
@[simp] theorem boot_execXsnap (iss mask s) : boot (after (execXsnap iss mask s) s) = boot s := by simp [execXsnap]
@[simp] theorem boot_nowLatch (iss n s) : boot (nowLatch iss n s) = boot s := boot_of_same (nowLatch_same (.refl _ s) rfl)
@[simp] theorem boot_execNowLoRead (iss n s) : boot (after (execNowLoRead iss n s) s) = boot s := by simp [execNowLoRead]
@[simp] theorem boot_runDomains (s) : boot (runDomains s) = boot s := boot_of_same (runDomains_same (.refl _ s) rfl)

/-! ### Machine/Admission.lean -/

@[simp] theorem boot_abortFmp (s) : boot (abortFmp s) = boot s := by simp [abortFmp]
@[simp] theorem boot_fmpAnswer (op h r s) : boot (fmpAnswer op h r s) = boot s := by simp [fmpAnswer]
@[simp] theorem boot_updAdmBank (cask f s) : boot (updAdmBank cask f s) = boot s :=
  boot_of_same (updAdmBank_same (.refl _ s) rfl)
@[simp] theorem boot_admReport (cask fmp code flow d s) : boot (admReport cask fmp code flow d s) = boot s := by
  unfold admReport; split <;> simp
@[simp] theorem boot_release (n s) : boot (release n s) = boot s := boot_of_same (release_same (.refl _ s) rfl)
@[simp] theorem boot_bindEnd (n code s) : boot (bindEnd n code s) = boot s := by simp [bindEnd]
@[simp] theorem boot_abortRequests (s) : boot (abortRequests s) = boot s := by simp [abortRequests]
@[simp] theorem boot_ringAbortOp (s) : boot (ringAbortOp s) = boot s := by simp [ringAbortOp]
@[simp] theorem boot_execRingMacAbort (iss s) : boot (after (execRingMacAbort iss s) s) = boot s := by simp [execRingMacAbort]
@[simp] theorem boot_releaseOp (cask n s) : boot (releaseOp cask n s).2 = boot s := by
  simp only [releaseOp]; (repeat' split) <;> simp
@[simp] theorem boot_execReleaseFlow (iss n s) : boot (after (execReleaseFlow iss n s) s) = boot s := by simp [execReleaseFlow]
@[simp] theorem boot_admQueue (q s) : boot (admQueue q s) = boot s := by simp [admQueue]
@[simp] theorem boot_execAdmitFlow (iss s) : boot (after (execAdmitFlow iss s) s) = boot s := by simp [execAdmitFlow]
@[simp] theorem boot_sendBind (n x s) : boot (sendBind n x s) = boot s := by simp [sendBind]
@[simp] theorem boot_admTake (q n phi d s) : boot (admTake q n phi d s) = boot s := by simp [admTake]
@[simp] theorem boot_answerBind (b ok s) : boot (answerBind b ok s) = boot s := by simp [answerBind]
@[simp] theorem boot_bindOp (b s) : boot (bindOp b s) = boot s := by
  unfold bindOp; (repeat' split) <;> simp
@[simp] theorem boot_decideOp (q s) : boot (decideOp q s) = boot s := by
  unfold decideOp; (repeat' split) <;> simp
@[simp] theorem boot_execAdmissionDecision (s) : boot (after (execAdmissionDecision s) s) = boot s := by
  unfold execAdmissionDecision; split <;> simp
@[simp] theorem boot_execBindAnswer (n ok s) : boot (after (execBindAnswer n ok s) s) = boot s := by simp [execBindAnswer]
@[simp] theorem boot_execBindReceived (b s) : boot (after (execBindReceived b s) s) = boot s := by simp [execBindReceived]
@[simp] theorem boot_execBindTimeout (n s) : boot (after (execBindTimeout n s) s) = boot s := by simp [execBindTimeout]
@[simp] theorem boot_flowFrameOp (n s) : boot (flowFrameOp n s) = boot s := by
  simp only [flowFrameOp]; (repeat' split) <;> simp
@[simp] theorem boot_flowSendOp (n s) : boot (flowSendOp n s) = boot s := by
  simp only [flowSendOp]; (repeat' split) <;> simp
@[simp] theorem boot_execFlowSend (n s) : boot (after (execFlowSend n s) s) = boot s := by simp [execFlowSend]

/-! ### Machine/Cellar.lean -/

@[simp] theorem boot_updQBank (k f s) : boot (updQBank k f s) = boot s := boot_of_same (updQBank_same (.refl _ s) rfl)
@[simp] theorem boot_postCel (iss op s) : boot (postCel iss op s) = boot s := boot_of_same (postCel_same (.refl _ s) rfl)
@[simp] theorem boot_execDstSub (iss s) : boot (after (execDstSub iss s) s) = boot s := by simp [execDstSub]
@[simp] theorem boot_execDstAdd (iss s) : boot (after (execDstAdd iss s) s) = boot s := by simp [execDstAdd]
@[simp] theorem boot_execSyncCalendar (iss dst s) : boot (after (execSyncCalendar iss dst s) s) = boot s := by
  simp [execSyncCalendar]
@[simp] theorem boot_execLoadCalendar (iss dst s) : boot (after (execLoadCalendar iss dst s) s) = boot s := by
  simp [execLoadCalendar]
@[simp] theorem boot_execCelZoneWrite (iss w s) : boot (after (execCelZoneWrite iss w s) s) = boot s := by
  simp [execCelZoneWrite]
@[simp] theorem boot_execCelTrimWrite (iss w s) : boot (after (execCelTrimWrite iss w s) s) = boot s := by
  simp [execCelTrimWrite]
@[simp] theorem boot_execCelTrimCfgWrite (iss w s) : boot (after (execCelTrimCfgWrite iss w s) s) = boot s := by
  simp [execCelTrimCfgWrite]
@[simp] theorem boot_execRtcTimeRead (iss s) : boot (after (execRtcTimeRead iss s) s) = boot s := by simp [execRtcTimeRead]
@[simp] theorem boot_restoreCellar (s) : boot (restoreCellar s) = boot s := boot_of_same (restoreCellar_same (.refl _ s) rfl)

/-! ### Machine/LoopOps.lean -/

@[simp] theorem boot_updSlot (n f s) : boot (updSlot n f s) = boot s := boot_of_same (updSlot_same (.refl _ s) rfl)
@[simp] theorem boot_storeCmd (n m man s) : boot (storeCmd n m man s).1 = boot s := boot_of_same (storeCmd_same (.refl _ s) rfl)

/-! ### Machine/Crossing.lean -/

@[simp] theorem boot_deliver (t s) : boot (deliver t s) = boot s := boot_of_same (deliver_same (.refl _ s) rfl)
@[simp] theorem boot_crossingOp (l s) : boot (crossingOp l s) = boot s := by
  unfold crossingOp; split <;> simp
@[simp] theorem boot_execHandshakeCrossing (l s) : boot (after (execHandshakeCrossing l s) s) = boot s := by
  simp [execHandshakeCrossing]

/-! ### Machine/PressOps.lean -/

@[simp] theorem boot_updChan (n f s) : boot (updChan n f s) = boot s := boot_of_same (updChan_same (.refl _ s) rfl)
@[simp] theorem boot_updElem (n f s) : boot (updElem n f s) = boot s := boot_of_same (updElem_same (.refl _ s) rfl)
@[simp] theorem boot_newBlock (n t s) : boot (newBlock n t s) = boot s := boot_of_same (newBlock_same (.refl _ s) rfl)
@[simp] theorem boot_takeChan (c s) : boot (takeChan c s) = boot s := boot_of_same (takeChan_same (.refl _ s) rfl)
@[simp] theorem boot_openWin (n start t s) : boot (openWin n start t s) = boot s := boot_of_same (openWin_same (.refl _ s) rfl)
@[simp] theorem boot_activateElem (n t s) : boot (activateElem n t s) = boot s :=
  boot_of_same (activateElem_same (.refl _ s) rfl)
@[simp] theorem boot_writeElem (n stamp f s) : boot (writeElem n stamp f s) = boot s := by
  unfold writeElem; split <;> simp
@[simp] theorem boot_publishBlock (n t s) : boot (publishBlock n t s) = boot s := by
  unfold publishBlock; split <;> simp
@[simp] theorem boot_countSample (n m s) : boot (countSample n m s) = boot s := boot_of_same (countSample_same (.refl _ s) rfl)
@[simp] theorem boot_flagWin (n f s) : boot (flagWin n f s) = boot s := boot_of_same (flagWin_same (.refl _ s) rfl)
@[simp] theorem boot_noteClips (n m o s) : boot (noteClips n m o s) = boot s := boot_of_same (noteClips_same (.refl _ s) rfl)
@[simp] theorem boot_closeWin (n s) : boot (closeWin n s) = boot s := by
  unfold closeWin; split <;> simp
@[simp] theorem boot_removeElem (n s) : boot (removeElem n s) = boot s := by
  unfold removeElem; split <;> simp
@[simp] theorem boot_changeElem (n s) : boot (changeElem n s) = boot s := boot_of_same (changeElem_same (.refl _ s) rfl)
@[simp] theorem boot_rollWin (n t s) : boot (rollWin n t s) = boot s := by
  unfold rollWin; (repeat' split) <;> simp
@[simp] theorem boot_takeMdReset (n s) : boot (takeMdReset n s) = boot s := boot_of_same (takeMdReset_same (.refl _ s) rfl)
@[simp] theorem boot_stepFlag (n s) : boot (stepFlag n s) = boot s := boot_of_same (stepFlag_same (.refl _ s) rfl)
@[simp] theorem boot_bookEnergy (n m s) : boot (bookEnergy n m s) = boot s := boot_of_same (bookEnergy_same (.refl _ s) rfl)
@[simp] theorem boot_bookElem (t prev step restart clipped m s) : boot (bookElem t prev step restart clipped m s) = boot s := by
  unfold bookElem
  extract_lets n s1
  have h1 : boot s1 = boot s := by simp only [s1]; split <;> simp
  clear_value s1
  split
  · exact h1
  · simp [h1]
@[simp] theorem boot_takeSwitches (t s) : boot (takeSwitches t s) = boot s := boot_of_same (takeSwitches_same (.refl _ s) rfl)
@[simp] theorem boot_noteRestart (t s) : boot (noteRestart t s) = boot s := boot_of_same (noteRestart_same (.refl _ s) rfl)
@[simp] theorem boot_bookSample (t clipped ms s) : boot (bookSample t clipped ms s) = boot s := by simp [bookSample]
@[simp] theorem boot_sampleChans (main guard s) : boot (sampleChans main guard s).1 = boot s :=
  boot_of_same (sampleChans_same (.refl _ s) rfl)
@[simp] theorem boot_sampleSystems (o s) : boot (sampleSystems o s) = boot s :=
  boot_of_same (sampleSystems_same (.refl _ s) rfl)
@[simp] theorem boot_sampleElems (o s) : boot (sampleElems o s).1 = boot s := boot_of_same (sampleElems_same (.refl _ s) rfl)

/-! ### Machine/PgeIsa.lean -/

@[simp] theorem boot_instr {p} {cycles} {f} {s} (hf : ∀ x y s, boot (f x y s) = boot s) :
    boot (after (instr p cycles f s) s) = boot s := by
  unfold instr; simp only [after_next]; split <;> simp [hf]
@[simp] theorem boot_illegalAt (i s) : boot (illegalAt i s) = boot s := by simp [illegalAt]
@[simp] theorem boot_jumpTo (p i c t s) : boot (jumpTo p i c t s) = boot s := by simp [jumpTo]
@[simp] theorem boot_branch (p want b target s) : boot (after (branch p want b target s) s) = boot s := by simp [branch]
@[simp] theorem boot_deniedAt (i kind block object target detail s) :
    boot (deniedAt i kind block object target detail s) = boot s := by
  simp [deniedAt]
@[simp] theorem boot_memDenied (i a s) : boot (memDenied i a s) = boot s := by simp [memDenied]
@[simp] theorem boot_withElement {i} {c} {a} {n} {k} {s} (hk : ∀ s, boot (k s) = boot s) :
    boot (withElement i c a n k s) = boot s := by
  simp [withElement, hk]
@[simp] theorem boot_taskStore (n a k v s) : boot (taskStore n a k v s) = boot s :=
  boot_of_same (taskStore_same (.refl _ s) rfl)
@[simp] theorem boot_counterOp (p m f out s) : boot (after (counterOp p m f out s) s) = boot s := by simp [counterOp]
@[simp] theorem boot_edgeOp (p m inp q f s) : boot (after (edgeOp p m inp q f s) s) = boot s := by simp [edgeOp]
@[simp] theorem boot_execOpBf (p b target s) : boot (after (execOpBf p b target s) s) = boot s := by simp [execOpBf]
@[simp] theorem boot_execOpBt (p b target s) : boot (after (execOpBt p b target s) s) = boot s := by simp [execOpBt]
@[simp] theorem boot_notInRoutine {i} {c} {k} {s} (hk : ∀ s, boot (k s) = boot s) : boot (notInRoutine i c k s) = boot s := by
  simp [notInRoutine, hk]
@[simp] theorem boot_execOpCall (p inst target s) : boot (after (execOpCall p inst target s) s) = boot s := by simp [execOpCall]
@[simp] theorem boot_execOpCtd (p m cd ld q s) : boot (after (execOpCtd p m cd ld q s) s) = boot s := by simp [execOpCtd]
@[simp] theorem boot_execOpCtu (p m cu r q s) : boot (after (execOpCtu p m cu r q s) s) = boot s := by simp [execOpCtu]
@[simp] theorem boot_execOpCtud (p m cu cd r ld qu qd s) : boot (after (execOpCtud p m cu cd r ld qu qd s) s) = boot s := by
  simp [execOpCtud]
@[simp] theorem boot_execOpErrack (p stop s) : boot (after (execOpErrack p stop s) s) = boot s := by simp [execOpErrack]
@[simp] theorem boot_execOpFirst (p b s) : boot (after (execOpFirst p b s) s) = boot s := by simp [execOpFirst]
@[simp] theorem boot_execOpFtrig (p m inp q s) : boot (after (execOpFtrig p m inp q s) s) = boot s := by simp [execOpFtrig]
@[simp] theorem boot_execOpIn (p d b slot s) : boot (after (execOpIn p d b slot s) s) = boot s := by simp [execOpIn]
@[simp] theorem boot_execOpInq (p d slot s) : boot (after (execOpInq p d slot s) s) = boot s := by simp [execOpInq]
@[simp] theorem boot_execOpJmp (p target s) : boot (after (execOpJmp p target s) s) = boot s := by simp [execOpJmp]
@[simp] theorem boot_loadOp (p n d m s) : boot (after (loadOp p n d m s) s) = boot s := by simp [loadOp]
@[simp] theorem boot_execOpLd16 (p d m s) : boot (after (execOpLd16 p d m s) s) = boot s := by simp [execOpLd16]
@[simp] theorem boot_execOpLd32 (p d m s) : boot (after (execOpLd32 p d m s) s) = boot s := by simp [execOpLd32]
@[simp] theorem boot_execOpLd64 (p d m s) : boot (after (execOpLd64 p d m s) s) = boot s := by simp [execOpLd64]
@[simp] theorem boot_execOpLd8 (p d m s) : boot (after (execOpLd8 p d m s) s) = boot s := by simp [execOpLd8]
@[simp] theorem boot_execOpLdb (p b x s) : boot (after (execOpLdb p b x s) s) = boot s := by
  unfold execOpLdb; split <;> simp
@[simp] theorem boot_slotMsg (p isMode slot d s) : boot (after (slotMsg p isMode slot d s) s) = boot s :=
  boot_instr fun i c s => boot_notInRoutine fun s => by dsimp only; split <;> simp
@[simp] theorem boot_execOpMode (p slot d s) : boot (after (execOpMode p slot d s) s) = boot s := by simp [execOpMode]
@[simp] theorem boot_outSlot (n slot v q s) : boot (outSlot n slot v q s) = boot s :=
  boot_of_same (outSlot_same (.refl _ s) rfl)
@[simp] theorem boot_execOpOut (p d slot s) : boot (after (execOpOut p d slot s) s) = boot s := by simp [execOpOut]
@[simp] theorem boot_execOpOutq (p d code slot s) : boot (after (execOpOutq p d code slot s) s) = boot s := by simp [execOpOutq]
@[simp] theorem boot_execOpRaise (p task s) : boot (after (execOpRaise p task s) s) = boot s := by simp [execOpRaise]
@[simp] theorem boot_execOpRtrig (p m inp q s) : boot (after (execOpRtrig p m inp q s) s) = boot s := by simp [execOpRtrig]
@[simp] theorem boot_execOpSetp (p slot d s) : boot (after (execOpSetp p slot d s) s) = boot s := by simp [execOpSetp]
@[simp] theorem boot_storeOp (p n d m s) : boot (after (storeOp p n d m s) s) = boot s := by simp [storeOp]
@[simp] theorem boot_execOpSt16 (p d m s) : boot (after (execOpSt16 p d m s) s) = boot s := by simp [execOpSt16]
@[simp] theorem boot_execOpSt32 (p d m s) : boot (after (execOpSt32 p d m s) s) = boot s := by simp [execOpSt32]
@[simp] theorem boot_execOpSt64 (p d m s) : boot (after (execOpSt64 p d m s) s) = boot s := by simp [execOpSt64]
@[simp] theorem boot_execOpSt8 (p d m s) : boot (after (execOpSt8 p d m s) s) = boot s := by simp [execOpSt8]
@[simp] theorem boot_execOpStb (p b x s) : boot (after (execOpStb p b x s) s) = boot s := by
  unfold execOpStb; split <;> simp
@[simp] theorem boot_timerOp (p m inp q f s) : boot (after (timerOp p m inp q f s) s) = boot s := by simp [timerOp]
@[simp] theorem boot_execOpTof (p m inp q s) : boot (after (execOpTof p m inp q s) s) = boot s := by simp [execOpTof]
@[simp] theorem boot_execOpTon (p m inp q s) : boot (after (execOpTon p m inp q s) s) = boot s := by simp [execOpTon]
@[simp] theorem boot_execOpTp (p m inp q s) : boot (after (execOpTp p m inp q s) s) = boot s := by simp [execOpTp]

/-! ### Machine/Program.lean -/

@[simp] theorem boot_enterStop (c s) : boot (enterStop c s) = boot s := boot_of_same (enterStop_same (.refl _ s) rfl)
@[simp] theorem boot_progAbortOp (s) : boot (progAbortOp s) = boot s := by simp [progAbortOp]
@[simp] theorem boot_execProgramEngineAbort (iss s) : boot (after (execProgramEngineAbort iss s) s) = boot s := by
  simp [execProgramEngineAbort]
@[simp] theorem boot_finishCycle (n s) : boot (finishCycle n s) = boot s := by
  unfold finishCycle; split <;> simp
@[simp] theorem boot_afterOutput (n s) : boot (afterOutput n s) = boot s := by
  unfold afterOutput; split <;> simp
@[simp] theorem boot_seeTrigger (n s) : boot (seeTrigger n s).2 = boot s := boot_of_same (seeTrigger_same (.refl _ s) rfl)
@[simp] theorem boot_passTrigger (n s) : boot (passTrigger n s) = boot s := boot_of_same (passTrigger_same (.refl _ s) rfl)
@[simp] theorem boot_startCask (c wantCold s) : boot (startCask c wantCold s) = boot s :=
  boot_of_same (startCask_same (.refl _ s) rfl)
@[simp] theorem boot_coldEvents (n old new s) : boot (coldEvents n old new s) = boot s :=
  boot_of_same (coldEvents_same (.refl _ s) rfl)
@[simp] theorem boot_commitSlot (n out slot i s) : boot (commitSlot n out slot i s).1 = boot s := by
  simp only [commitSlot]; (repeat' split) <;> simp
@[simp] theorem boot_commitImage (n cy s) : boot (commitImage n cy s) = boot s := by
  have h : ∀ l : List (Nat × Nat), boot (l.foldl (fun (a : State × Bool) e =>
      ((commitSlot n cy.out e.2 e.1 a.1).1, a.2 || (commitSlot n cy.out e.2 e.1 a.1).2)) (s, false)).1 = boot s := fun l =>
    foldl_keeps (P := fun a : State × Bool => boot a.1 = boot s)
      (fun a e h => (boot_commitSlot n cy.out e.2 e.1 a.1).trans h) l rfl
  simp [commitImage, h]
@[simp] theorem boot_execErrorTaskRelease (c s) : boot (after (execErrorTaskRelease c s) s) = boot s := by
  simp only [execErrorTaskRelease]; split <;> simp
@[simp] theorem boot_execEventTaskTrigger (c t s) : boot (after (execEventTaskTrigger c t s) s) = boot s := by
  simp [execEventTaskTrigger]
@[simp] theorem boot_execExchTime (c t s) : boot (after (execExchTime c t s) s) = boot s := by
  simp only [execExchTime]; split <;> simp
@[simp] theorem boot_journalOp (c lines clk table s) : boot (journalOp c lines clk table s) = boot s :=
  boot_of_same (journalOp_same (.refl _ s) rfl)
@[simp] theorem boot_switchOp (n s) : boot (switchOp n s) = boot s := by simp [switchOp]
@[simp] theorem boot_execExchangeSwitch (c t s) : boot (after (execExchangeSwitch c t s) s) = boot s := by
  simp [execExchangeSwitch]
@[simp] theorem boot_pgeStatus (iss code s) : boot (pgeStatus iss code s) = boot s :=
  boot_of_same (pgeStatus_same (.refl _ s) rfl)
@[simp] theorem boot_startCmd (iss target cold s) : boot (after (startCmd iss target cold s) s) = boot s := by simp [startCmd]
@[simp] theorem boot_execRunWarm (iss target s) : boot (after (execRunWarm iss target s) s) = boot s := by simp [execRunWarm]
@[simp] theorem boot_modeCmd {iss} {target} {ok} {op} {s} (hop : ∀ x s, boot (op x s) = boot s) :
    boot (after (modeCmd iss target ok op s) s) = boot s := by
  simp [modeCmd, hop]
@[simp] theorem boot_execHoldCask (iss target s) : boot (after (execHoldCask iss target s) s) = boot s := by simp [execHoldCask]
@[simp] theorem boot_execStopCask (iss target s) : boot (after (execStopCask iss target s) s) = boot s := by simp [execStopCask]
@[simp] theorem boot_resumeOp (c s) : boot (resumeOp c s) = boot s := boot_of_same (resumeOp_same (.refl _ s) rfl)
@[simp] theorem boot_execResumeCask (iss target s) : boot (after (execResumeCask iss target s) s) = boot s := by
  simp [execResumeCask]
@[simp] theorem boot_execRunCold (iss target s) : boot (after (execRunCold iss target s) s) = boot s := by simp [execRunCold]
@[simp] theorem boot_execPgeEvtTrig (iss t s) : boot (after (execPgeEvtTrig iss t s) s) = boot s := by simp [execPgeEvtTrig]
@[simp] theorem boot_execOutputImageCommit (c t s) : boot (after (execOutputImageCommit c t s) s) = boot s := by
  simp only [execOutputImageCommit]; split <;> simp
@[simp] theorem boot_execPgeClkLoRead (iss s) : boot (after (execPgeClkLoRead iss s) s) = boot s := by simp [execPgeClkLoRead]
@[simp] theorem boot_retentiveCommitOp (n cy s) : boot (retentiveCommitOp n cy s) = boot s := by simp [retentiveCommitOp]
@[simp] theorem boot_execRetentiveCommit (c t s) : boot (after (execRetentiveCommit c t s) s) = boot s := by
  simp only [execRetentiveCommit]; split <;> simp
@[simp] theorem boot_outputPhaseOp (p n s) : boot (outputPhaseOp p n s) = boot s := by simp [outputPhaseOp]
@[simp] theorem boot_execTaskOutputPhase (p s) : boot (after (execTaskOutputPhase p s) s) = boot s := by
  unfold execTaskOutputPhase; split <;> simp
@[simp] theorem boot_taskReleaseOp (n s) : boot (taskReleaseOp n s) = boot s := by simp [taskReleaseOp]
@[simp] theorem boot_execTaskRelease (c t s) : boot (after (execTaskRelease c t s) s) = boot s := by simp [execTaskRelease]
@[simp] theorem boot_execTaskWatchdog (c t s) : boot (after (execTaskWatchdog c t s) s) = boot s := by
  simp only [execTaskWatchdog]; split <;> simp
@[simp] theorem boot_vintnerOp (i r v s) : boot (vintnerOp i r v s) = boot s := by
  simp only [vintnerOp]; (repeat' split) <;> simp
@[simp] theorem boot_execVintnerSetpointWrite (i v s) : boot (after (execVintnerSetpointWrite i v s) s) = boot s := by
  unfold execVintnerSetpointWrite; split <;> simp

/-! ### Machine/Activate.lean -/

@[simp] theorem boot_changeMeter (old t s) : boot (changeMeter old t s) = boot s :=
  boot_of_same (changeMeter_same (.refl _ s) rfl)
@[simp] theorem boot_changeCell (t n s) : boot (changeCell t n s) = boot s := boot_of_same (changeCell_same (.refl _ s) rfl)
@[simp] theorem boot_changeProgram (old t vintage s) : boot (changeProgram old t vintage s) = boot s :=
  boot_of_same (changeProgram_same (.refl _ s) rfl)
@[simp] theorem boot_putAdmission (old t s) : boot (putAdmission old t s) = boot s :=
  boot_of_same (putAdmission_same (.refl _ s) rfl)
@[simp] theorem boot_putStns (t s) : boot (putStns t s) = boot s := boot_of_same (putStns_same (.refl _ s) rfl)
@[simp] theorem boot_putFieldbus (old t s) : boot (putFieldbus old t s) = boot s :=
  boot_of_same (putFieldbus_same (.refl _ s) rfl)
@[simp] theorem boot_putBuilding (old t s) : boot (putBuilding old t s) = boot s :=
  boot_of_same (putBuilding_same (.refl _ s) rfl)
@[simp] theorem boot_putVintner (t s) : boot (putVintner t s) = boot s := boot_of_same (putVintner_same (.refl _ s) rfl)
@[simp] theorem boot_putPoints (t s) : boot (putPoints t s) = boot s := by simp [putPoints]
@[simp] theorem boot_putTables (old t s) : boot (putTables old t s) = boot s := by simp [putTables]
@[simp] theorem boot_changeLoops (old t s) : boot (changeLoops old t s) = boot s :=
  boot_of_same (changeLoops_same (.refl _ s) rfl)
@[simp] theorem boot_activateSet (old t vintage s) : boot (activateSet old t vintage s) = boot s := by simp [activateSet]
@[simp] theorem boot_loadProgram (t vintage s) : boot (loadProgram t vintage s) = boot s :=
  boot_of_same (loadProgram_same (.refl _ s) rfl)
@[simp] theorem boot_loadCells (t s) : boot (loadCells t s) = boot s := by simp [loadCells]
@[simp] theorem boot_haltUnused (t s) : boot (haltUnused t s) = boot s := by simp [haltUnused]
@[simp] theorem boot_loadTime (t s) : boot (loadTime t s) = boot s := boot_of_same (loadTime_same (.refl _ s) rfl)
@[simp] theorem boot_loadLoops (t s) : boot (loadLoops t s) = boot s := boot_of_same (loadLoops_same (.refl _ s) rfl)
@[simp] theorem boot_loadMeter (t s) : boot (loadMeter t s) = boot s := boot_of_same (loadMeter_same (.refl _ s) rfl)

/-! ### Machine/Press.lean -/

@[simp] theorem boot_stopTaste (s) : boot (stopTaste s) = boot s := boot_of_same (stopTaste_same (.refl _ s) rfl)
@[simp] theorem boot_pressAbortOp (s) : boot (pressAbortOp s) = boot s := boot_of_same (pressAbortOp_same (.refl _ s) rfl)
@[simp] theorem boot_execPressAbort (iss s) : boot (after (execPressAbort iss s) s) = boot s := by simp [execPressAbort]
@[simp] theorem boot_beginSave (final s) : boot (beginSave final s) = boot s := boot_of_same (beginSave_same (.refl _ s) rfl)
@[simp] theorem boot_finalSaveOp (s) : boot (finalSaveOp s) = boot s := by simp [finalSaveOp]
@[simp] theorem boot_takeFinalSave (s) : boot (takeFinalSave s) = boot s := by simp [takeFinalSave]
@[simp] theorem boot_addTotal (ms s) : boot (addTotal ms s) = boot s := boot_of_same (addTotal_same (.refl _ s) rfl)
@[simp] theorem boot_addUncertain (n imp exp samples est s) : boot (addUncertain n imp exp samples est s) = boot s :=
  boot_of_same (addUncertain_same (.refl _ s) rfl)
@[simp] theorem boot_beginRun (ch z c s) : boot (beginRun ch z c s) = boot s := boot_of_same (beginRun_same (.refl _ s) rfl)
@[simp] theorem boot_converterFaultOp (ch present s) : boot (converterFaultOp ch present s) = boot s := by
  simp [converterFaultOp]
@[simp] theorem boot_elementActivationOp (n s) : boot (elementActivationOp n s) = boot s := by
  unfold elementActivationOp; split <;> simp
@[simp] theorem boot_setSnapBank (c b s) : boot (setSnapBank c b s) = boot s := boot_of_same (setSnapBank_same (.refl _ s) rfl)
@[simp] theorem boot_toPress {f} {s} (hf : ∀ s, boot (f s) = boot s) : boot (toPress f s) = boot s := by simp [toPress, hf]
@[simp] theorem boot_execAccumulatorSnapshot (iss elem s) : boot (after (execAccumulatorSnapshot iss elem s) s) = boot s :=
  boot_regCmd fun s => by dsimp only; split <;> simp
@[simp] theorem boot_execElementActivation (elem s) : boot (after (execElementActivation elem s) s) = boot s := by
  simp [execElementActivation]
@[simp] theorem boot_execFinalSaveCommand (s) : boot (after (execFinalSaveCommand s) s) = boot s := by
  simp [execFinalSaveCommand]
@[simp] theorem boot_setTasteCode (code s) : boot (setTasteCode code s) = boot s :=
  boot_of_same (setTasteCode_same (.refl _ s) rfl)
@[simp] theorem boot_prsCmd {iss} {off} {f} {s} {t} (hf : ∀ s, boot (f s) = boot s) :
    boot (after (prsCmd iss off f s) t) = boot s := by
  simp [prsCmd, hf]
@[simp] theorem boot_execTastingSingle (iss ch zeroPpm checkPpm s t) :
    boot (after (execTastingSingle iss ch zeroPpm checkPpm s) t) = boot s := by
  simp [execTastingSingle]
@[simp] theorem boot_followRun (z c s) : boot (followRun z c s) = boot s := boot_of_same (followRun_same (.refl _ s) rfl)
@[simp] theorem boot_execTastingStart (iss zeroPpm checkPpm s t) :
    boot (after (execTastingStart iss zeroPpm checkPpm s) t) = boot s := by
  simp [execTastingStart]
@[simp] theorem boot_execTastingStop (iss s) : boot (after (execTastingStop iss s) s) = boot s := by simp [execTastingStop]
@[simp] theorem boot_setPrsStatus (iss code s) : boot (setPrsStatus iss code s) = boot s :=
  boot_of_same (setPrsStatus_same (.refl _ s) rfl)
@[simp] theorem boot_execMdReset (iss elem s) : boot (after (execMdReset iss elem s) s) = boot s :=
  boot_prsCmd fun s => by split <;> simp
@[simp] theorem boot_execTariffClear (iss g s) : boot (after (execTariffClear iss g s) s) = boot s := by simp [execTariffClear]
@[simp] theorem boot_execTariffPush (iss g index s) : boot (after (execTariffPush iss g index s) s) = boot s := by
  simp [execTariffPush]
@[simp] theorem boot_startUnmeasured (s) : boot (startUnmeasured s) = boot s :=
  boot_of_same (startUnmeasured_same (.refl _ s) rfl)
@[simp] theorem boot_pressEnterRun (s) : boot (pressEnterRun s) = boot s := boot_of_same (pressEnterRun_same (.refl _ s) rfl)
@[simp] theorem boot_execPressConverterFault (ch present s) :
    boot (after (execPressConverterFault ch present s) s) = boot s := by
  simp [execPressConverterFault]
@[simp] theorem boot_execPressPointsLost (elem s) : boot (after (execPressPointsLost elem s) s) = boot s := by
  unfold execPressPointsLost; split <;> simp
@[simp] theorem boot_restoreBank (b s) : boot (restoreBank b s) = boot s := boot_of_same (restoreBank_same (.refl _ s) rfl)
@[simp] theorem boot_settleRet (b other s) : boot (settleRet b other s) = boot s :=
  boot_of_same (settleRet_same (.refl _ s) rfl)
@[simp] theorem boot_restoreOp (s) : boot (restoreOp s) = boot s := by
  simp only [restoreOp]; split <;> simp
@[simp] theorem boot_execPressRestoreComplete (s) : boot (after (execPressRestoreComplete s) s) = boot s := by
  simp [execPressRestoreComplete]
@[simp] theorem boot_restartTaste (s) : boot (restartTaste s) = boot s := boot_of_same (restartTaste_same (.refl _ s) rfl)
@[simp] theorem boot_tasteSample (o ref s) : boot (tasteSample o ref s) = boot s :=
  boot_of_same (tasteSample_same (.refl _ s) rfl)
@[simp] theorem boot_pressSampleOp (main guard ref s) : boot (pressSampleOp main guard ref s) = boot s := by
  simp [pressSampleOp]
@[simp] theorem boot_execPressSample (main guard ref s) : boot (after (execPressSample main guard ref s) s) = boot s := by
  simp [execPressSample]
@[simp] theorem boot_execPrsDirChange (elem s) : boot (after (execPrsDirChange elem s) s) = boot s := by
  unfold execPrsDirChange; split <;> simp
@[simp] theorem boot_saveCommitOp (ok s) : boot (saveCommitOp ok s) = boot s := by
  unfold saveCommitOp; split <;> simp
@[simp] theorem boot_execSaveCommit (readBackOk s) : boot (after (execSaveCommit readBackOk s) s) = boot s := by
  simp [execSaveCommit]

/-! ### Machine/ResetOps.lean -/

@[simp] theorem boot_requestReset (bit withSave s) : boot (requestReset bit withSave s) = boot s := by
  unfold requestReset; (repeat' split) <;> simp

/-! ### Machine/UpdOps.lean -/

@[simp] theorem boot_writeRack (f s) : boot (writeRack f s) = boot s := boot_of_same (writeRack_same (.refl _ s) rfl)
@[simp] theorem boot_updTargets (f s) : boot (updTargets f s) = boot s := boot_of_same (updTargets_same (.refl _ s) rfl)
@[simp] theorem boot_updSiSlot (f s) : boot (updSiSlot f s) = boot s := boot_of_same (updSiSlot_same (.refl _ s) rfl)
@[simp] theorem boot_nextStore (s) : boot (nextStore s) = boot s := boot_of_same (nextStore_same (.refl _ s) rfl)
@[simp] theorem boot_rackRevertOp (reason s) : boot (rackRevertOp reason s) = boot s := by simp [rackRevertOp]

/-! ### Machine/Image.lean -/

@[simp] theorem boot_endLoad (code sec s) : boot (endLoad code sec s) = boot s := by simp [endLoad]
@[simp] theorem boot_dropSet (code s) : boot (dropSet code s) = boot s := by simp [dropSet]
@[simp] theorem boot_loadAbortOp (s) : boot (loadAbortOp s) = boot s := by
  unfold loadAbortOp; split <;> simp
@[simp] theorem boot_execSectionalLoadAbort (iss s) : boot (after (execSectionalLoadAbort iss s) s) = boot s := by
  simp [execSectionalLoadAbort]
@[simp] theorem boot_commitCycle (b s) : boot (commitCycle b s) = boot s := by simp [commitCycle]
@[simp] theorem boot_keepSet (b s) : boot (keepSet b s) = boot s := boot_of_same (keepSet_same (.refl _ s) rfl)
@[simp] theorem boot_commitOp (timed s) : boot (commitOp timed s) = boot s := by
  unfold commitOp; (repeat' split) <;> simp
@[simp] theorem boot_scheduledCycle (h s) : boot (scheduledCycle h s) = boot s := by
  simp only [scheduledCycle]; split <;> simp
@[simp] theorem boot_commitTrellisOp (s) : boot (commitTrellisOp s) = boot s := by
  unfold commitTrellisOp; split <;> simp
@[simp] theorem boot_holdSet (b s) : boot (holdSet b s) = boot s := by simp [holdSet]
@[simp] theorem boot_finishStage (b s) : boot (finishStage b s) = boot s := by simp [finishStage]
@[simp] theorem boot_continueStage (s) : boot (continueStage s) = boot s := by
  unfold continueStage; split <;> simp
@[simp] theorem boot_discardOp (s) : boot (discardOp s) = boot s := by simp [discardOp]
@[simp] theorem boot_execCommit (iss timed s) : boot (after (execCommit iss timed s) s) = boot s := by simp [execCommit]
@[simp] theorem boot_execCommitTrellisCycle (s) : boot (after (execCommitTrellisCycle s) s) = boot s := by
  simp [execCommitTrellisCycle]
@[simp] theorem boot_execDiscard (iss s) : boot (after (execDiscard iss s) s) = boot s := by simp [execDiscard]
@[simp] theorem boot_stageOp (s) : boot (stageOp s) = boot s := by simp [stageOp]
@[simp] theorem boot_execStage (iss s) : boot (after (execStage iss s) s) = boot s := by simp [execStage]
@[simp] theorem boot_sectionReportOp (sec s) : boot (sectionReportOp sec s) = boot s := by simp [sectionReportOp]
@[simp] theorem boot_execSectionActiveReport (sec s) : boot (after (execSectionActiveReport sec s) s) = boot s := by
  simp [execSectionActiveReport]
@[simp] theorem boot_settleHeld (s) : boot (settleHeld s) = boot s := by
  unfold settleHeld; (repeat' split) <;> simp
@[simp] theorem boot_loadFailed (v b s) : boot (loadFailed v b s) = boot s := by simp [loadFailed]

/-! ### Machine/Keys.lean -/

@[simp] theorem boot_abandonUnseal (s) : boot (abandonUnseal s) = boot s := boot_of_same (abandonUnseal_same (.refl _ s) rfl)
@[simp] theorem boot_keyAbortOp (s) : boot (keyAbortOp s) = boot s := boot_of_same (keyAbortOp_same (.refl _ s) rfl)
@[simp] theorem boot_execKeyEngineAbort (iss s) : boot (after (execKeyEngineAbort iss s) s) = boot s := by
  simp [execKeyEngineAbort]
@[simp] theorem boot_keyStatus (iss c s) : boot (keyStatus iss c s) = boot s := boot_of_same (keyStatus_same (.refl _ s) rfl)
@[simp] theorem boot_rangeDenied (iss addr off s) : boot (rangeDenied iss addr off s) = boot s := by simp [rangeDenied]
@[simp] theorem boot_withBlob {iss} {eff} {s} (heff : ∀ x s, boot (eff x s) = boot s) : boot (withBlob iss eff s) = boot s := by
  simp [withBlob, heff]
@[simp] theorem boot_keyCmd {iss} {whileSealed} {eff} {s} (heff : ∀ s, boot (eff s) = boot s) :
    boot (after (keyCmd iss whileSealed eff s) s) = boot s := by
  simp [keyCmd, heff]
@[simp] theorem boot_ownerCmd {iss} {whileSealed} {eff} {s} (heff : ∀ s, boot (eff s) = boot s) :
    boot (after (ownerCmd iss whileSealed eff s) s) = boot s := by
  simp [ownerCmd, heff]
@[simp] theorem boot_execAcceptIdentity (iss s) : boot (after (execAcceptIdentity iss s) s) = boot s :=
  boot_ownerCmd fun s => boot_withBlob fun bs s => by split <;> simp
@[simp] theorem boot_execArmMonitors (iss s) : boot (after (execArmMonitors iss s) s) = boot s := by simp [execArmMonitors]
@[simp] theorem boot_execAttest (iss s) : boot (after (execAttest iss s) s) = boot s := by simp [execAttest]
@[simp] theorem boot_execClearA (iss s) : boot (after (execClearA iss s) s) = boot s := by
  refine boot_ownerCmd fun s => ?_
  split
  · simp
  · split
    · simp
    · exact boot_withBlob fun bs s => by dsimp only; split <;> simp
@[simp] theorem boot_updOp (cask f s) : boot (updOp cask f s) = boot s := boot_of_same (updOp_same (.refl _ s) rfl)
@[simp] theorem boot_slotDenied (iss n off s) : boot (slotDenied iss n off s) = boot s := by simp [slotDenied]
@[simp] theorem boot_opCode (iss c s) : boot (opCode iss c s) = boot s := boot_of_same (opCode_same (.refl _ s) rfl)
@[simp] theorem boot_slotOpStart (op usage iss n s) : boot (slotOpStart op usage iss n s) = boot s := by simp [slotOpStart]
@[simp] theorem boot_slotOpCmd (op usage iss slot s) : boot (after (slotOpCmd op usage iss slot s) s) = boot s := by
  simp [slotOpCmd]
@[simp] theorem boot_execComputeMac (iss slot s) : boot (after (execComputeMac iss slot s) s) = boot s := by
  simp [execComputeMac]
@[simp] theorem boot_execDecrypt (iss slot s) : boot (after (execDecrypt iss slot s) s) = boot s := by simp [execDecrypt]
@[simp] theorem boot_execDeleteKey (iss slot s) : boot (after (execDeleteKey iss slot s) s) = boot s := by simp [execDeleteKey]
@[simp] theorem boot_execEncrypt (iss slot s) : boot (after (execEncrypt iss slot s) s) = boot s := by simp [execEncrypt]
@[simp] theorem boot_execExportKey (iss slot s) : boot (after (execExportKey iss slot s) s) = boot s := by simp [execExportKey]
@[simp] theorem boot_execServiceExit (iss s) : boot (after (execServiceExit iss s) s) = boot s := by simp [execServiceExit]
@[simp] theorem boot_execRetire (iss s) : boot (after (execRetire iss s) s) = boot s := by simp [execRetire]
@[simp] theorem boot_execRoll (iss s) : boot (after (execRoll iss s) s) = boot s := by simp [execRoll]
@[simp] theorem boot_execInvalidateSess (iss arg s) : boot (after (execInvalidateSess iss arg s) s) = boot s := by
  simp [execInvalidateSess]
@[simp] theorem boot_importOp (iss n p s) : boot (importOp iss n p s) = boot s := boot_of_same (importOp_same (.refl _ s) rfl)
@[simp] theorem boot_execImportKey (iss slot s) : boot (after (execImportKey iss slot s) s) = boot s := by
  refine boot_keyCmd fun s => ?_
  split
  · simp
  · split
    · simp
    · exact boot_withBlob fun bs s => by split <;> simp
@[simp] theorem boot_execInvalidateRdr (iss arg s) : boot (after (execInvalidateRdr iss arg s) s) = boot s := by
  simp [execInvalidateRdr]
@[simp] theorem boot_execServiceEnter (iss s) : boot (after (execServiceEnter iss s) s) = boot s := by
  refine boot_ownerCmd fun s => ?_
  split
  · simp
  · exact boot_withBlob fun bs s => by split <;> simp
@[simp] theorem boot_execRollStage (iss s) : boot (after (execRollStage iss s) s) = boot s :=
  boot_ownerCmd fun s => boot_withBlob fun bs s => by
    split
    · split <;> simp
    · simp
@[simp] theorem boot_provisionOp (iss bs s) : boot (provisionOp iss bs s) = boot s :=
  boot_of_same (provisionOp_same (.refl _ s) rfl)
@[simp] theorem boot_execProvision (iss s) : boot (after (execProvision iss s) s) = boot s := by simp [execProvision]
@[simp] theorem boot_execSign (iss slot s) : boot (after (execSign iss slot s) s) = boot s := by simp [execSign]
@[simp] theorem boot_execVerify (iss slot s) : boot (after (execVerify iss slot s) s) = boot s := by simp [execVerify]
@[simp] theorem boot_setNow (m trips s) : boot (setNow m trips s) = boot s := boot_of_same (setNow_same (.refl _ s) rfl)
@[simp] theorem boot_tripA (m s) : boot (tripA m s) = boot s := boot_of_same (tripA_same (.refl _ s) rfl)
@[simp] theorem boot_tripB (m s) : boot (tripB m s) = boot s := by simp [tripB]
@[simp] theorem boot_sampleMonitor (m trips s) : boot (sampleMonitor m trips s) = boot s := by simp [sampleMonitor]
@[simp] theorem boot_execGlitchDetected (g s) : boot (after (execGlitchDetected g s) s) = boot s := by simp [execGlitchDetected]
@[simp] theorem boot_opCompleteOp (cask op n s) : boot (opCompleteOp cask op n s) = boot s := by
  simp only [opCompleteOp]; split <;> simp
@[simp] theorem boot_execKeyOpComplete (cask s) : boot (after (execKeyOpComplete cask s) s) = boot s := by
  unfold execKeyOpComplete; split <;> simp
@[simp] theorem boot_execLidOpen (lid heldMs s) : boot (after (execLidOpen lid heldMs s) s) = boot s := by simp [execLidOpen]
@[simp] theorem boot_execMeshSample (mon same lux s) : boot (after (execMeshSample mon same lux s) s) = boot s := by
  simp [execMeshSample]
@[simp] theorem boot_unsealOp (s) : boot (unsealOp s) = boot s := boot_of_same (unsealOp_same (.refl _ s) rfl)
@[simp] theorem boot_execUnseal (s) : boot (after (execUnseal s) s) = boot s := by simp [execUnseal]

/-! ### Machine/Loop.lean -/

@[simp] theorem boot_lpeAbortOp (s) : boot (lpeAbortOp s) = boot s := boot_of_same (lpeAbortOp_same (.refl _ s) rfl)
@[simp] theorem boot_execLoopEngineAbort (iss s) : boot (after (execLoopEngineAbort iss s) s) = boot s := by
  simp [execLoopEngineAbort]
@[simp] theorem boot_applyOp (s) : boot (applyOp s) = boot s := boot_of_same (applyOp_same (.refl _ s) rfl)
@[simp] theorem boot_dropCapture (n s) : boot (dropCapture n s) = boot s := boot_of_same (dropCapture_same (.refl _ s) rfl)
@[simp] theorem boot_captureStep (n x s) : boot (captureStep n x s) = boot s := boot_of_same (captureStep_same (.refl _ s) rfl)
@[simp] theorem boot_endShadows (n code s) : boot (endShadows n code s) = boot s :=
  boot_of_same (endShadows_same (.refl _ s) rfl)
@[simp] theorem boot_recopy (n s) : boot (recopy n s) = boot s := boot_of_same (recopy_same (.refl _ s) rfl)
@[simp] theorem boot_takeCmd (n s) : boot (takeCmd n s) = boot s := boot_of_same (takeCmd_same (.refl _ s) rfl)
@[simp] theorem boot_feStep (n e stamp out s) : boot (feStep n e stamp out s) = boot s :=
  boot_of_same (feStep_same (.refl _ s) rfl)
@[simp] theorem boot_loopWrite (l i v q s) : boot (loopWrite l i v q s) = boot s := by simp [loopWrite]
@[simp] theorem boot_viaTrellis {f} {s} (hf : ∀ s, boot (f s) = boot s) : boot (viaTrellis f s) = boot s := by
  simp [viaTrellis, hf]
@[simp] theorem boot_writeFe (l b s) : boot (writeFe l b s) = boot s := by
  unfold writeFe; split <;> simp
@[simp] theorem boot_faultSlot (n cause s) : boot (faultSlot n cause s) = boot s := by
  unfold faultSlot; split <;> simp
@[simp] theorem boot_feedShadows (n before e o s) : boot (feedShadows n before e o s) = boot s :=
  boot_of_same (feedShadows_same (.refl _ s) rfl)
@[simp] theorem boot_runEval (n sn s) : boot (runEval n sn s) = boot s := by
  unfold runEval; split <;> simp
@[simp] theorem boot_takeApply (n s) : boot (takeApply n s) = boot s := boot_of_same (takeApply_same (.refl _ s) rfl)
@[simp] theorem boot_writeBadOut (l s) : boot (writeBadOut l s) = boot s := by simp [writeBadOut]
@[simp] theorem boot_reloadSlot (n s) : boot (reloadSlot n s) = boot s := boot_of_same (reloadSlot_same (.refl _ s) rfl)
@[simp] theorem boot_evalSlot (n sn s) : boot (evalSlot n sn s) = boot s := by
  simp only [evalSlot]; (repeat' split) <;> simp
@[simp] theorem boot_rtCmd {iss} {op} {s} (hop : ∀ s, boot (op s) = boot s) : boot (after (rtCmd iss op s) s) = boot s := by
  simp [rtCmd, hop]
@[simp] theorem boot_execApplyRetune (iss s) : boot (after (execApplyRetune iss s) s) = boot s := by simp [execApplyRetune]
@[simp] theorem boot_execCaptureComplete (buf s) : boot (after (execCaptureComplete buf s) s) = boot s := by
  unfold execCaptureComplete; split <;> simp
@[simp] theorem boot_setLpeStatus (iss code s) : boot (setLpeStatus iss code s) = boot s :=
  boot_of_same (setLpeStatus_same (.refl _ s) rfl)
@[simp] theorem boot_loopDenied (iss n l s) : boot (loopDenied iss n l s) = boot s := by simp [loopDenied]
@[simp] theorem boot_loopModeCmd (iss n m s) : boot (after (loopModeCmd iss n m s) s) = boot s :=
  boot_regCmd fun s => by dsimp only; split <;> simp
@[simp] theorem boot_execLoopModeManual (iss slot s) : boot (after (execLoopModeManual iss slot s) s) = boot s := by
  simp [execLoopModeManual]
@[simp] theorem boot_execLoopModeAuto (iss slot s) : boot (after (execLoopModeAuto iss slot s) s) = boot s := by
  simp [execLoopModeAuto]
@[simp] theorem boot_execLoopModeOff (iss slot s) : boot (after (execLoopModeOff iss slot s) s) = boot s := by
  simp [execLoopModeOff]
@[simp] theorem boot_execLoopModeTrack (iss slot s) : boot (after (execLoopModeTrack iss slot s) s) = boot s := by
  simp [execLoopModeTrack]
@[simp] theorem boot_updShadow (n f s) : boot (updShadow n f s) = boot s := boot_of_same (updShadow_same (.refl _ s) rfl)
@[simp] theorem boot_execShadowStop (iss ctx s) : boot (after (execShadowStop iss ctx s) s) = boot s :=
  boot_regCmd fun s => by dsimp only; split <;> simp
@[simp] theorem boot_execShadowStart (iss ctx slot count s) :
    boot (after (execShadowStart iss ctx slot count s) s) = boot s :=
  boot_regCmd fun s => by dsimp only; split <;> simp
@[simp] theorem boot_execLpeResume (iss s) : boot (after (execLpeResume iss s) s) = boot s := by simp [execLpeResume]
@[simp] theorem boot_revertCmdOp (s) : boot (revertCmdOp s) = boot s := boot_of_same (revertCmdOp_same (.refl _ s) rfl)
@[simp] theorem boot_execRevertRetune (iss s) : boot (after (execRevertRetune iss s) s) = boot s := by simp [execRevertRetune]
@[simp] theorem boot_tryOp (s) : boot (tryOp s) = boot s := boot_of_same (tryOp_same (.refl _ s) rfl)
@[simp] theorem boot_execTryRetune (iss s) : boot (after (execTryRetune iss s) s) = boot s := by simp [execTryRetune]
@[simp] theorem boot_loopEvaluationOp (n s) : boot (loopEvaluationOp n s) = boot s := by
  unfold loopEvaluationOp; (repeat' split) <;> simp
@[simp] theorem boot_execLoopEvaluation (slot s) : boot (after (execLoopEvaluation slot s) s) = boot s := by
  simp [execLoopEvaluation]
@[simp] theorem boot_missSlot (n s) : boot (missSlot n s) = boot s := by
  unfold missSlot; split <;> simp
@[simp] theorem boot_removeSlot (n s) : boot (removeSlot n s) = boot s := by
  unfold removeSlot; split <;> simp
@[simp] theorem boot_settleReloads (k s) : boot (settleReloads k s) = boot s := by simp [settleReloads]
@[simp] theorem boot_loopFrameOp (s) : boot (loopFrameOp s) = boot s := by simp [loopFrameOp]
@[simp] theorem boot_execLoopFrame (s) : boot (after (execLoopFrame s) s) = boot s := by simp [execLoopFrame]
@[simp] theorem boot_loopSnapshotOp (n s) : boot (loopSnapshotOp n s) = boot s := by
  simp only [loopSnapshotOp]; (repeat' split) <;> simp
@[simp] theorem boot_execLoopSnapshot (slot s) : boot (after (execLoopSnapshot slot s) s) = boot s := by simp [execLoopSnapshot]
@[simp] theorem boot_lpeFeOp (n s) : boot (lpeFeOp n s) = boot s := by
  unfold lpeFeOp; (repeat' split) <;> simp
@[simp] theorem boot_execLpeFe (slot s) : boot (after (execLpeFe slot s) s) = boot s := by simp [execLpeFe]
@[simp] theorem boot_execLpeLate (slot s) : boot (after (execLpeLate slot s) s) = boot s := by simp [execLpeLate]
@[simp] theorem boot_shadowEvaluationOp (c s) : boot (shadowEvaluationOp c s) = boot s := by
  simp only [shadowEvaluationOp]; split <;> simp
@[simp] theorem boot_execShadowEvaluation (ctx s) : boot (after (execShadowEvaluation ctx s) s) = boot s := by
  simp [execShadowEvaluation]

/-! ### Machine/SafetyCmds.lean -/

@[simp] theorem boot_abortLine (s) : boot (abortLine s) = boot s := boot_of_same (abortLine_same (.refl _ s) rfl)
@[simp] theorem boot_execSafetyIslandAbort (iss s) : boot (after (execSafetyIslandAbort iss s) s) = boot s := by
  simp [execSafetyIslandAbort]
@[simp] theorem boot_safMessage (m s) : boot (safMessage m s) = boot s := boot_of_same (safMessage_same (.refl _ s) rfl)
@[simp] theorem boot_execMirrorStale (s) : boot (after (execMirrorStale s) s) = boot s := by simp [execMirrorStale]
@[simp] theorem boot_safetySupplyOff (s) : boot (safetySupplyOff s) = boot s :=
  boot_of_same (safetySupplyOff_same (.refl _ s) rfl)
@[simp] theorem boot_writeStatus (s) : boot (writeStatus s) = boot s := by
  unfold writeStatus
  refine boot_foldl (fun s e => ?_) _ _
  split
  · split <;> simp
  · rfl
@[simp] theorem boot_statusReportOp (s) : boot (statusReportOp s) = boot s := by
  simp only [statusReportOp]; (repeat' split) <;> simp [setIsl_sys]
@[simp] theorem boot_execSafetyStatusReport (s) : boot (after (execSafetyStatusReport s) s) = boot s := by
  simp [execSafetyStatusReport]

/-! ### Machine/Update.lean -/

@[simp] theorem boot_updAbortOp (s) : boot (updAbortOp s) = boot s := boot_of_same (updAbortOp_same (.refl _ s) rfl)
@[simp] theorem boot_execUpdAbort (iss s) : boot (after (execUpdAbort iss s) s) = boot s := by simp [execUpdAbort]
@[simp] theorem boot_updCode (c s) : boot (updCode c s) = boot s := boot_of_same (updCode_same (.refl _ s) rfl)
@[simp] theorem boot_pendingOp (s) : boot (pendingOp s) = boot s := by simp [pendingOp]
@[simp] theorem boot_activationOp (s) : boot (activationOp s) = boot s := by
  simp only [activationOp]; (repeat' split) <;> simp
@[simp] theorem boot_activateOp (timed s) : boot (activateOp timed s) = boot s := by simp [activateOp]
@[simp] theorem boot_beginOp (m key s) : boot (beginOp m key s) = boot s := boot_of_same (beginOp_same (.refl _ s) rfl)
@[simp] theorem boot_bootOp (s) : boot (bootOp s) = boot s := by simp [bootOp]
@[simp] theorem boot_bootTarget (f s) : boot (bootTarget f s) = boot s := boot_of_same (bootTarget_same (.refl _ s) rfl)
@[simp] theorem boot_cancelOp (s) : boot (cancelOp s) = boot s := boot_of_same (cancelOp_same (.refl _ s) rfl)
@[simp] theorem boot_confirmOp (s) : boot (confirmOp s) = boot s := boot_of_same (confirmOp_same (.refl _ s) rfl)
@[simp] theorem boot_execBootCompletion (s) : boot (after (execBootCompletion s) s) = boot s := by simp [execBootCompletion]
@[simp] theorem boot_execConfirmationExpiry (s) : boot (after (execConfirmationExpiry s) s) = boot s := by
  simp [execConfirmationExpiry]
@[simp] theorem boot_updCmd {iss} {fits} {op} {s} (hop : ∀ s, boot (op s) = boot s) :
    boot (after (updCmd iss fits op s) s) = boot s := by
  simp [updCmd, hop]
@[simp] theorem boot_execRackCancel (iss s) : boot (after (execRackCancel iss s) s) = boot s := by simp [execRackCancel]
@[simp] theorem boot_execRackActivate (iss timed s) : boot (after (execRackActivate iss timed s) s) = boot s := by
  simp [execRackActivate]
@[simp] theorem boot_execRackConfirm (iss s) : boot (after (execRackConfirm iss s) s) = boot s := by simp [execRackConfirm]
@[simp] theorem boot_fragOp (flashOk s) : boot (fragOp flashOk s) = boot s := boot_of_same (fragOp_same (.refl _ s) rfl)
@[simp] theorem boot_execRackFrag (iss flashOk s) : boot (after (execRackFrag iss flashOk s) s) = boot s := by
  simp [execRackFrag]
@[simp] theorem boot_execRackBegin (iss s) : boot (after (execRackBegin iss s) s) = boot s := by simp [execRackBegin]
@[simp] theorem boot_execRackRevert (iss s) : boot (after (execRackRevert iss s) s) = boot s := by simp [execRackRevert]
@[simp] theorem boot_execRackActivation (s) : boot (after (execRackActivation s) s) = boot s := by simp [execRackActivation]
@[simp] theorem boot_startStage (s) : boot (startStage s) = boot s := by
  simp only [startStage]; split <;> simp

/-! ### Machine/Power.lean -/

@[simp] theorem boot_admitWake (r na s) : boot (admitWake r na s) = boot s := by simp [admitWake]
@[simp] theorem boot_completeJournal (s) : boot (completeJournal s) = boot s :=
  boot_of_same (completeJournal_same (.refl _ s) rfl)
@[simp] theorem boot_driveSealed (s) : boot (driveSealed s) = boot s := by simp [driveSealed]
@[simp] theorem boot_execAbortDoneTimeout (s) : boot (after (execAbortDoneTimeout s) s) = boot s := by
  simp [execAbortDoneTimeout]
@[simp] theorem boot_execAlwaysOnRailStop (millivolts s) : boot (after (execAlwaysOnRailStop millivolts s) s) = boot s := by
  simp [execAlwaysOnRailStop]
@[simp] theorem boot_execExceptionReset (s) : boot (after (execExceptionReset s) s) = boot s := by simp [execExceptionReset]
@[simp] theorem boot_pwrCode (iss c s) : boot (pwrCode iss c s) = boot s := by simp [pwrCode]
@[simp] theorem boot_standbyOp (s) : boot (standbyOp s) = boot s := by simp [standbyOp]
@[simp] theorem boot_execStandby (iss s) : boot (after (execStandby iss s) s) = boot s := by simp [execStandby]
@[simp] theorem boot_leaveStandby (s) : boot (leaveStandby s) = boot s := by simp [leaveStandby]
@[simp] theorem boot_resumeStandby (s) : boot (resumeStandby s) = boot s := by simp [resumeStandby]
@[simp] theorem boot_execResumeFromStandby (iss s) : boot (after (execResumeFromStandby iss s) s) = boot s := by
  simp [execResumeFromStandby]
@[simp] theorem boot_sysResetOp (iss w s) : boot (sysResetOp iss w s) = boot s := by simp [sysResetOp]
@[simp] theorem boot_execSysReset (iss w s) : boot (after (execSysReset iss w s) s) = boot s := by simp [execSysReset]
@[simp] theorem boot_execFsupRestored (millivolts heldUs s) :
    boot (after (execFsupRestored millivolts heldUs s) s) = boot s := by
  simp [execFsupRestored]
@[simp] theorem boot_holdupOp (s) : boot (holdupOp s) = boot s := by simp [holdupOp]
@[simp] theorem boot_execHoldupEnd (s) : boot (after (execHoldupEnd s) s) = boot s := by simp [execHoldupEnd]
@[simp] theorem boot_firstRun (i s) : boot (firstRun i s) = boot s := by
  unfold firstRun; split <;> simp
@[simp] theorem boot_islandRunOp (i s) : boot (islandRunOp i s) = boot s := by simp [islandRunOp, setIsl_sys]
@[simp] theorem boot_execIslandRun (i s) : boot (after (execIslandRun i s) s) = boot s := by simp [execIslandRun]
@[simp] theorem boot_vinWarnOp (s) : boot (vinWarnOp s) = boot s := by simp [vinWarnOp]
@[simp] theorem boot_withdrawOp (s) : boot (withdrawOp s) = boot s := by simp [withdrawOp]
@[simp] theorem boot_execModuleWithdrawal (s) : boot (after (execModuleWithdrawal s) s) = boot s := by
  simp [execModuleWithdrawal]
@[simp] theorem boot_execPwrFsupLow (millivolts heldUs s) : boot (after (execPwrFsupLow millivolts heldUs s) s) = boot s := by
  simp [execPwrFsupLow]
@[simp] theorem boot_firmwareFailed (s) : boot (firmwareFailed s) = boot s := by simp [firmwareFailed]
@[simp] theorem boot_islandFailOp (i s) : boot (islandFailOp i s) = boot s := by simp [islandFailOp]
@[simp] theorem boot_execPwrIslandFail (i s) : boot (after (execPwrIslandFail i s) s) = boot s := by simp [execPwrIslandFail]
@[simp] theorem boot_vinClearOp (s) : boot (vinClearOp s) = boot s := by simp [vinClearOp]
@[simp] theorem boot_execPwrVinClear (millivolts heldUs s) : boot (after (execPwrVinClear millivolts heldUs s) s) = boot s := by
  simp [execPwrVinClear]
@[simp] theorem boot_execPwrVinWarn (millivolts heldUs s) : boot (after (execPwrVinWarn millivolts heldUs s) s) = boot s := by
  simp [execPwrVinWarn]
@[simp] theorem boot_execResetPin (lowUs s) : boot (after (execResetPin lowUs s) s) = boot s := by simp [execResetPin]
@[simp] theorem boot_execVinStart (millivolts heldUs railsOk s) :
    boot (after (execVinStart millivolts heldUs railsOk s) s) = boot s := by
  simp [execVinStart]
@[simp] theorem boot_wakeOp (vinMv s) : boot (wakeOp vinMv s) = boot s := by
  simp only [wakeOp]; split <;> simp
@[simp] theorem boot_execWakeAdmission (vinMillivolts s) : boot (after (execWakeAdmission vinMillivolts s) s) = boot s := by
  simp [execWakeAdmission]
@[simp] theorem boot_execWakeRelease (i s) : boot (after (execWakeRelease i s) s) = boot s := by simp [execWakeRelease]
@[simp] theorem boot_execWatchdogReset (s) : boot (after (execWatchdogReset s) s) = boot s := by simp [execWatchdogReset]

/-! ### Machine/Recorder.lean -/

@[simp] theorem boot_cellarAbortOp (s) : boot (cellarAbortOp s) = boot s := boot_of_same (cellarAbortOp_same (.refl _ s) rfl)
@[simp] theorem boot_execCellarAbort (iss s) : boot (after (execCellarAbort iss s) s) = boot s := by simp [execCellarAbort]
@[simp] theorem boot_nextQuery (iss s) : boot (nextQuery iss s) = boot s := boot_of_same (nextQuery_same (.refl _ s) rfl)
@[simp] theorem boot_execQueryNext (iss s) : boot (after (execQueryNext iss s) s) = boot s := by simp [execQueryNext]
@[simp] theorem boot_execQueryEnd (iss s) : boot (after (execQueryEnd iss s) s) = boot s := by simp [execQueryEnd]
@[simp] theorem boot_startQuery (iss kind s) : boot (startQuery iss kind s) = boot s :=
  boot_of_same (startQuery_same (.refl _ s) rfl)
@[simp] theorem boot_execQueryStart (iss kind s) : boot (after (execQueryStart iss kind s) s) = boot s := by
  simp [execQueryStart]

/-! ### Machine/RegWrite.lean -/

theorem boot_aborts (iss s) : ∀ f ∈ aborts iss, boot (after (f s) s) = boot s := by simp [aborts]

@[simp] theorem boot_abortWrite (iss n s) : boot (abortWrite iss n s) = boot s := by
  refine boot_foldl (fun s i => ?_) _ _
  split
  · split
    · exact boot_aborts iss s _ (List.mem_of_getElem? ‹_›)
    · rfl
  · rfl
@[simp] theorem boot_admCmdWrite (iss n s) : boot (admCmdWrite iss n s) = boot s := by
  unfold admCmdWrite; split <;> simp
@[simp] theorem boot_portCmdWrite (iss n s) : boot (portCmdWrite iss n s) = boot s := by
  unfold portCmdWrite; split <;> simp
@[simp] theorem boot_credCmdWrite (iss n s) : boot (credCmdWrite iss n s) = boot s := by
  unfold credCmdWrite; split <;> simp
@[simp] theorem boot_evqCmdWrite (iss n s) : boot (evqCmdWrite iss n s) = boot s := by
  unfold evqCmdWrite; split <;> simp
@[simp] theorem boot_rtcCtrlWrite (iss n s) : boot (rtcCtrlWrite iss n s) = boot s := by
  unfold rtcCtrlWrite; split <;> simp
@[simp] theorem boot_chCmdWrite (iss n ch s) : boot (chCmdWrite iss n ch s) = boot s := by
  unfold chCmdWrite; split <;> simp
/-- A write of PRIOR has no effect while an image is loaded (R10), and the view shows PRIOR only then. -/
@[simp] theorem boot_compatWrite (n s) : boot (compatWrite n s) = boot s := by
  cases h : s.img.loaded <;> simp [compatWrite, boot, h]
@[simp] theorem boot_domCmdWrite (iss n d s) : boot (domCmdWrite iss n d s) = boot s := by
  unfold domCmdWrite; split <;> simp
@[simp] theorem boot_scanCtrlWrite (iss n s) : boot (scanCtrlWrite iss n s) = boot s := by simp [scanCtrlWrite]
@[simp] theorem boot_pgeCmdWrite (iss n s) : boot (pgeCmdWrite iss n s) = boot s := by
  unfold pgeCmdWrite; split <;> simp
@[simp] theorem boot_ptestCtrlWrite (iss n s) : boot (ptestCtrlWrite iss n s) = boot s := by simp [ptestCtrlWrite]
@[simp] theorem boot_tstCtrlWrite (iss n s) : boot (tstCtrlWrite iss n s) = boot s := by simp [tstCtrlWrite]
@[simp] theorem boot_trfCmdWrite (iss n g s) : boot (trfCmdWrite iss n g s) = boot s := by simp [trfCmdWrite]
@[simp] theorem boot_modeCmdWrite (iss n s) : boot (modeCmdWrite iss n s) = boot s := by
  unfold modeCmdWrite; split <;> simp
@[simp] theorem boot_shdCtrlWrite (iss n c s) : boot (shdCtrlWrite iss n c s) = boot s := by simp [shdCtrlWrite]
@[simp] theorem boot_lpeCtrlWrite (iss n s) : boot (lpeCtrlWrite iss n s) = boot s := by simp [lpeCtrlWrite]
@[simp] theorem boot_rtCmdWrite (iss n s) : boot (rtCmdWrite iss n s) = boot s := by
  unfold rtCmdWrite; split <;> simp
@[simp] theorem boot_testCtrlWrite (iss n s) : boot (testCtrlWrite iss n s) = boot s := by simp [testCtrlWrite]
@[simp] theorem boot_updCmdWrite (iss n s) : boot (updCmdWrite iss n s) = boot s := by
  unfold updCmdWrite; split <;> simp
@[simp] theorem boot_siCtrlWrite (iss n s) : boot (siCtrlWrite iss n s) = boot s := by
  unfold siCtrlWrite; split <;> simp
@[simp] theorem boot_keyCmdWrite (iss n s) : boot (keyCmdWrite iss n s) = boot s := by
  unfold keyCmdWrite; split <;> simp
@[simp] theorem boot_keyOpWrite (iss n s) : boot (keyOpWrite iss n s) = boot s := by
  unfold keyOpWrite; split <;> simp

/-- Where every row of a register table keeps the boot view, the register at an offset does. -/
theorem boot_regAt {l : List (RegRow State)} {s : State} (off : Nat) (h : ∀ r ∈ l, ∀ n, boot (r.act n) = boot s) :
    boot ((regAt off l).getD s) = boot s := by
  induction l with
  | nil => rfl
  | cons r l ih =>
    unfold regAt
    split
    · exact h r (List.mem_cons_self ..) _
    · exact ih fun x hx => h x (List.mem_cons_of_mem _ hx)

@[simp] theorem r1_act (b : Nat) (x : State) (n : Nat) : (r1 b x).act n = x := rfl
@[simp] theorem rn_act (b p c : Nat) (f : Nat → State) (n : Nat) : (rn b p c f).act n = f n := rfl

@[simp] theorem boot_regWriteOp (iss b off w s) : boot (regWriteOp iss b off w s) = boot s := by
  cases b
  case saf => rfl
  case sys => exact boot_regAt off (by simp [sysWrites])
  case upd => exact boot_regAt off (by unfold updWrites; split <;> simp)
  case pwr => exact boot_regAt off (by simp only [pwrWrites]; split <;> simp)
  case trl => exact boot_regAt off (by simp [trlWrites])
  case pge => exact boot_regAt off (by simp [pgeWrites, taskSelWrite])
  case lpe => exact boot_regAt off (by simp [lpeWrites])
  case prs => exact boot_regAt off (by simp [prsWrites, trfWrite])
  case net => exact boot_regAt off (by simp [netWrites])
  case tim => exact boot_regAt off (by simp [timWrites])
  case cel => exact boot_regAt off (by simp [celWrites])
  case fbs => exact boot_regAt off (by simp [fbsWrites])
  case bsi => exact boot_regAt off (by simp [bsiWrites])
  case key => exact boot_regAt off (by simp [keyWrites])

/-! ### Machine/RegRead.lean -/

@[simp] theorem boot_readEffect (s iss b off) : boot (readEffect s iss b off) = boot s := by
  cases b
  case upd | pwr | prs | saf | bsi => rfl
  case sys => exact boot_regAt off (by simp [sysRead])
  case trl => exact boot_regAt off (by simp [trlRead])
  case pge => exact boot_regAt off (by simp [pgeRead])
  case lpe => exact boot_regAt off (by simp [lpeRead])
  case net => exact boot_regAt off (by simp [netRead])
  case tim => exact boot_regAt off (by simp [timRead])
  case cel => exact boot_regAt off (by simp [celRead])
  case fbs => exact boot_regAt off (by simp [fbsRead])
  case key => simp [readEffect]

theorem boot_foreignRead {s iss b off} {f : State → State} (h : foreignRead s iss b off = some f) (t) : boot (f t) = boot t := by
  unfold foreignRead at h
  (repeat' split at h) <;> simp at h <;> subst h <;> simp

@[simp] theorem boot_regReadOp (iss b off s) : boot (regReadOp iss b off s).2 = boot s := by
  unfold regReadOp
  split
  · exact boot_foreignRead ‹_› s
  · simp

@[simp] theorem boot_readAt (iss addr s) : boot (after (readAt iss addr s) s) = boot s := by
  unfold readAt; split <;> simp [busError]

@[simp] theorem boot_writeAt (iss addr w s) : boot (after (writeAt iss addr w s) s) = boot s := by
  unfold writeAt; split <;> simp [busError]

/-! ### Machine/Registers.lean -/

@[simp] theorem boot_execRcRegisterRead (iss addr s) : boot (after (execRcRegisterRead iss addr s) s) = boot s := by
  simp [execRcRegisterRead]
@[simp] theorem boot_execRegisterWrite (iss addr w s) : boot (after (execRegisterWrite iss addr w s) s) = boot s := by
  simp [execRegisterWrite]
@[simp] theorem boot_execSysCompatWrite (iss w s) : boot (after (execSysCompatWrite iss w s) s) = boot s := by
  simp [execSysCompatWrite]

/-! ### Machine/Fmp.lean -/

@[simp] theorem boot_answerAgain (op h r s) : boot (answerAgain op h r s) = boot s := by
  unfold answerAgain; split <;> simp

theorem boot_fmpTake {op h s c t} (e : fmpTake op h s = some (c, t)) : boot t = boot s := by
  simp only [fmpTake] at e
  (repeat' split at e) <;> simp at e <;> obtain ⟨-, rfl⟩ := e <;> simp

@[simp] theorem boot_fmpRequest {op} {h} {formOk} {act} {s} (hact : ∀ s, boot (act s) = boot s) :
    boot (after (fmpRequest op h formOk act s) s) = boot s := by
  unfold fmpRequest
  simp only [after_next]
  split
  · rfl
  · next e => split <;> simp [hact, boot_fmpTake e]
@[simp] theorem boot_execFmpAdmit (h req s) : boot (after (execFmpAdmit h req s) s) = boot s := by simp [execFmpAdmit]
@[simp] theorem boot_fmpRefuse (op h x s) : boot (fmpRefuse op h x s) = boot s := by simp [fmpRefuse]

theorem boot_fmpReadWord (h acc x) : boot (fmpReadWord h acc x).2 = boot acc.2 := by
  have e := boot_readAt (fmpIssuer h) (periBase + x.1 * 0x10000 + x.2) acc.2
  unfold fmpReadWord
  split
  · next q => simpa [q] using e
  · rfl

@[simp] theorem boot_fmpReadOp (h s) : boot (fmpReadOp h s) = boot s := by
  have h : ∀ xs : List (Nat × Nat), boot (xs.foldl (fmpReadWord h) ([], s)).2 = boot s := fun xs =>
    foldl_keeps (P := fun a => boot a.2 = boot s) (fun a x e => (boot_fmpReadWord h a x).trans e) xs rfl
  unfold fmpReadOp
  split
  · simp
  · split <;> simp [h]
@[simp] theorem boot_execFmpRead (h s) : boot (after (execFmpRead h s) s) = boot s := by simp [execFmpRead]
@[simp] theorem boot_execFmpRelease (h n s) : boot (after (execFmpRelease h n s) s) = boot s := by simp [execFmpRelease]
@[simp] theorem boot_fmpWriteWord (h s x) : boot (fmpWriteWord h s x) = boot s := by simp [fmpWriteWord]
@[simp] theorem boot_fmpWriteOp (h ws s) : boot (fmpWriteOp h ws s) = boot s := by
  unfold fmpWriteOp; (repeat' split) <;> simp
@[simp] theorem boot_execFmpWrite (h ws s) : boot (after (execFmpWrite h ws s) s) = boot s := by simp [execFmpWrite]
@[simp] theorem boot_safetyMsgOp (h bytes s) : boot (safetyMsgOp h bytes s) = boot s := by
  unfold safetyMsgOp; (repeat' split) <;> simp
@[simp] theorem boot_execSafetyMsg (h bytes s) : boot (after (execSafetyMsg h bytes s) s) = boot s := by simp [execSafetyMsg]

/-! ### Machine/Tick.lean -/

@[simp] theorem boot_runClocks (s) : boot (runClocks s) = boot s := boot_of_same (runClocks_same (.refl _ s) rfl)
@[simp] theorem boot_runOwed (s) : boot (runOwed s) = boot s := by simp [runOwed]

/-! ### Start-up, whole load and logic-side reset -/

/-- The three commands that change what runs: they end the state before them (R58, R482, R485). -/
def changesBoot : Instr → Bool
  | .startUp _ | .wholeLoad | .logicReset => true
  | _ => false

/-- A start-up brings no image (R486: the image comes in the whole load). -/
theorem loaded_startUpOp (strap s) : (startUpOp strap s).img.loaded = s.img.loaded := by
  have h : boot (startUpOp strap s) = boot (releaseReset strap s) := by simp [startUpOp]
  exact congrArg Boot.loaded h

/-- What the image's tables do to the view: an image is loaded from here, and PRIOR stands as it is. -/
theorem boot_installImage (t vintage s) :
    boot (installImage t vintage s) = { boot s with loaded := true, prior := s.sys.prior } := by
  simp only [installImage]
  split <;> simp

theorem boot_loadDone (r s) : boot (loadDone r s) = { boot s with loaded := true, prior := s.sys.prior } := by
  simp only [loadDone]
  split <;> simp [boot_installImage]

/-- The whole load marks itself done and leaves the start-up as it is, whatever becomes of the image (R58, R486). -/
theorem pwr_wholeLoadOp (s) : (wholeLoadOp s).pwr.started = s.pwr.started ∧ (wholeLoadOp s).pwr.loadDone = true := by
  have h (t : State) (e : (boot t).started = s.pwr.started ∧ (boot t).loadDone = true) :
      t.pwr.started = s.pwr.started ∧ t.pwr.loadDone = true := e
  apply h
  simp only [wholeLoadOp]
  split <;> simp [boot_loadDone]

/-! ### Every command, and a step -/

/-- Every command but the three keeps the boot view. -/
theorem boot_exec (c : Instr) (s : State) (hc : changesBoot c = false) : boot (after (exec c s) s) = boot s :=
  match c with
  | .registerWrite iss addr w => boot_execRegisterWrite iss addr w s
  | .rcRegisterRead iss addr => boot_execRcRegisterRead iss addr s
  | .narrowOrUnalignedAccess iss addr size isWrite =>
    boot_of_outSame (@execNarrowOrUnalignedAccess_same _ s iss addr size isWrite s (.refl _ s) rfl)
  | .unmappedPeripheralAccess iss addr isWrite =>
    boot_of_outSame (@execUnmappedPeripheralAccess_same _ s iss addr isWrite s (.refl _ s) rfl)
  | .sysCompatWrite iss w => boot_execSysCompatWrite iss w s
  | .handshakeCrossing lane => boot_execHandshakeCrossing lane s
  | .celPostedWriteEffect => boot_of_outSame (execCelPostedWriteEffect_same (.refl _ s) rfl)
  | .timeDistributionUpdate _ => boot_of_outSame (execTimeDistributionUpdate_same (.refl _ s) rfl)
  | .stage iss => boot_execStage iss s
  | .commit iss timed => boot_execCommit iss timed s
  | .discard iss => boot_execDiscard iss s
  | .commitTrellisCycle => boot_execCommitTrellisCycle s
  | .sectionActiveReport sec => boot_execSectionActiveReport sec s
  | .sectionalLoadAbort iss => boot_execSectionalLoadAbort iss s
  | .trellisFrame readings refs => boot_execTrellisFrame readings refs s
  | .startRelease cell => boot_execStartRelease cell s
  | .diSample _ _ => boot_of_outSame (execDiSample_same (.refl _ s) rfl)
  | .diFilterElapsed _ => boot_of_outSame (execDiFilterElapsed_same (.refl _ s) rfl)
  | .countEdge _ _ _ => boot_of_outSame (execCountEdge_same (.refl _ s) rfl)
  | .outputTurnOff cell => boot_execOutputTurnOff cell s
  | .doShortTrip _ _ => boot_of_outSame (execDoShortTrip_same (.refl _ s) rfl)
  | .doTripRetry cell => boot_execDoTripRetry cell s
  | .groupFsupLow group millivolts => boot_execGroupFsupLow group millivolts s
  | .groupFsupRestored group millivolts heldMs => boot_execGroupFsupRestored group millivolts heldMs s
  | .pointSnapshot iss index => boot_execPointSnapshot iss index s
  | .partitionPointWrite iss index quality => boot_execPartitionPointWrite iss index quality s
  | .cellTestStart iss cell type timeout => boot_execCellTestStart iss cell type timeout s
  | .cellTestStop iss => boot_execCellTestStop iss s
  | .cellTestComplete _ _ => boot_of_outSame (execCellTestComplete_same (.refl _ s) rfl)
  | .cellTestTimeout => boot_of_outSame (execCellTestTimeout_same (.refl _ s) rfl)
  | .taskRelease cask task => boot_execTaskRelease cask task s
  | .eventTaskTrigger cask task => boot_execEventTaskTrigger cask task s
  | .pgeEvtTrig iss task => boot_execPgeEvtTrig iss task s
  | .pgeAccountingPeriod => boot_of_outSame (execPgeAccountingPeriod_same (.refl _ s) rfl)
  | .pgeGuaranteeUsed _ => boot_of_outSame (execPgeGuaranteeUsed_same (.refl _ s) rfl)
  | .taskExecutionStart _ => boot_of_outSame (execTaskExecutionStart_same (.refl _ s) rfl)
  | .taskOutputPhase p => boot_execTaskOutputPhase p s
  | .outputImageCommit cask task => boot_execOutputImageCommit cask task s
  | .retentiveCommit cask task => boot_execRetentiveCommit cask task s
  | .taskWatchdog cask task => boot_execTaskWatchdog cask task s
  | .errorTaskRelease cask => boot_execErrorTaskRelease cask s
  | .runWarm iss target => boot_execRunWarm iss target s
  | .runCold iss target => boot_execRunCold iss target s
  | .holdCask iss target => boot_execHoldCask iss target s
  | .resumeCask iss target => boot_execResumeCask iss target s
  | .stopCask iss target => boot_execStopCask iss target s
  | .caskDrained _ => boot_of_outSame (execCaskDrained_same (.refl _ s) rfl)
  | .holdExpired _ => boot_of_outSame (execHoldExpired_same (.refl _ s) rfl)
  | .caskAutoStart _ => boot_of_outSame (execCaskAutoStart_same (.refl _ s) rfl)
  | .programEngineAbort iss => boot_execProgramEngineAbort iss s
  | .pgeClkLoRead iss => boot_execPgeClkLoRead iss s
  | .vintnerSetpointWrite point v => boot_execVintnerSetpointWrite point v s
  | .opLd8 p d m => boot_execOpLd8 p d m s
  | .opLd16 p d m => boot_execOpLd16 p d m s
  | .opLd32 p d m => boot_execOpLd32 p d m s
  | .opLd64 p d m => boot_execOpLd64 p d m s
  | .opSt8 p d m => boot_execOpSt8 p d m s
  | .opSt16 p d m => boot_execOpSt16 p d m s
  | .opSt32 p d m => boot_execOpSt32 p d m s
  | .opSt64 p d m => boot_execOpSt64 p d m s
  | .opIn p d b slot => boot_execOpIn p d b slot s
  | .opInq p d slot => boot_execOpInq p d slot s
  | .opOut p d slot => boot_execOpOut p d slot s
  | .opOutq p d code slot => boot_execOpOutq p d code slot s
  | .opAdd _ _ _ _ => boot_of_outSame (execOpAdd_same (.refl _ s) rfl)
  | .opSub _ _ _ _ => boot_of_outSame (execOpSub_same (.refl _ s) rfl)
  | .opNeg _ _ _ => boot_of_outSame (execOpNeg_same (.refl _ s) rfl)
  | .opAbs _ _ _ => boot_of_outSame (execOpAbs_same (.refl _ s) rfl)
  | .opMin _ _ _ _ => boot_of_outSame (execOpMin_same (.refl _ s) rfl)
  | .opMax _ _ _ _ => boot_of_outSame (execOpMax_same (.refl _ s) rfl)
  | .opLimit _ _ _ _ _ => boot_of_outSame (execOpLimit_same (.refl _ s) rfl)
  | .opSel _ _ _ _ _ => boot_of_outSame (execOpSel_same (.refl _ s) rfl)
  | .opMul _ _ _ _ => boot_of_outSame (execOpMul_same (.refl _ s) rfl)
  | .opDiv _ _ _ _ => boot_of_outSame (execOpDiv_same (.refl _ s) rfl)
  | .opMod _ _ _ _ => boot_of_outSame (execOpMod_same (.refl _ s) rfl)
  | .opIntConv _ _ _ _ => boot_of_outSame (execOpIntConv_same (.refl _ s) rfl)
  | .opAnd _ _ _ _ => boot_of_outSame (execOpAnd_same (.refl _ s) rfl)
  | .opOr _ _ _ _ => boot_of_outSame (execOpOr_same (.refl _ s) rfl)
  | .opXor _ _ _ _ => boot_of_outSame (execOpXor_same (.refl _ s) rfl)
  | .opNot _ _ _ => boot_of_outSame (execOpNot_same (.refl _ s) rfl)
  | .opShl _ _ _ _ => boot_of_outSame (execOpShl_same (.refl _ s) rfl)
  | .opShr _ _ _ _ => boot_of_outSame (execOpShr_same (.refl _ s) rfl)
  | .opRol _ _ _ _ => boot_of_outSame (execOpRol_same (.refl _ s) rfl)
  | .opRor _ _ _ _ => boot_of_outSame (execOpRor_same (.refl _ s) rfl)
  | .opFadd _ _ _ _ _ => boot_of_outSame (execOpFadd_same (.refl _ s) rfl)
  | .opFsub _ _ _ _ _ => boot_of_outSame (execOpFsub_same (.refl _ s) rfl)
  | .opFmul _ _ _ _ _ => boot_of_outSame (execOpFmul_same (.refl _ s) rfl)
  | .opFdiv _ _ _ _ _ => boot_of_outSame (execOpFdiv_same (.refl _ s) rfl)
  | .opFsqrt _ _ _ _ => boot_of_outSame (execOpFsqrt_same (.refl _ s) rfl)
  | .opFmin _ _ _ _ _ => boot_of_outSame (execOpFmin_same (.refl _ s) rfl)
  | .opFmax _ _ _ _ _ => boot_of_outSame (execOpFmax_same (.refl _ s) rfl)
  | .opFlim _ _ _ _ _ _ => boot_of_outSame (execOpFlim_same (.refl _ s) rfl)
  | .opCvt _ _ _ _ => boot_of_outSame (execOpCvt_same (.refl _ s) rfl)
  | .opCmp _ _ _ _ _ => boot_of_outSame (execOpCmp_same (.refl _ s) rfl)
  | .opFcmp _ _ _ _ _ _ => boot_of_outSame (execOpFcmp_same (.refl _ s) rfl)
  | .opLdb p b x => boot_execOpLdb p b x s
  | .opAndb _ _ _ _ => boot_of_outSame (execOpAndb_same (.refl _ s) rfl)
  | .opOrb _ _ _ _ => boot_of_outSame (execOpOrb_same (.refl _ s) rfl)
  | .opXorb _ _ _ _ => boot_of_outSame (execOpXorb_same (.refl _ s) rfl)
  | .opNotb _ _ _ => boot_of_outSame (execOpNotb_same (.refl _ s) rfl)
  | .opStb p b x => boot_execOpStb p b x s
  | .opSetb _ _ => boot_of_outSame (execOpSetb_same (.refl _ s) rfl)
  | .opRstb _ _ => boot_of_outSame (execOpRstb_same (.refl _ s) rfl)
  | .opJmp p target => boot_execOpJmp p target s
  | .opBt p b target => boot_execOpBt p b target s
  | .opBf p b target => boot_execOpBf p b target s
  | .opCall p inst target => boot_execOpCall p inst target s
  | .opRet _ => boot_of_outSame (execOpRet_same (.refl _ s) rfl)
  | .opTon p m inp q => boot_execOpTon p m inp q s
  | .opTof p m inp q => boot_execOpTof p m inp q s
  | .opTp p m inp q => boot_execOpTp p m inp q s
  | .opRtrig p m inp q => boot_execOpRtrig p m inp q s
  | .opFtrig p m inp q => boot_execOpFtrig p m inp q s
  | .opCtu p m cu r q => boot_execOpCtu p m cu r q s
  | .opCtd p m cd ld q => boot_execOpCtd p m cd ld q s
  | .opCtud p m cu cd r ld qu qd => boot_execOpCtud p m cu cd r ld qu qd s
  | .opClk _ _ => boot_of_outSame (execOpClk_same (.refl _ s) rfl)
  | .opFirst p b => boot_execOpFirst p b s
  | .opSetp p slot d => boot_execOpSetp p slot d s
  | .opMode p slot d => boot_execOpMode p slot d s
  | .opRaise p task => boot_execOpRaise p task s
  | .opErrinfo _ _ => boot_of_outSame (execOpErrinfo_same (.refl _ s) rfl)
  | .opErrack p stop => boot_execOpErrack p stop s
  | .exchangeBoundary _ _ => boot_of_outSame (execExchangeBoundary_same (.refl _ s) rfl)
  | .exchangeWork _ => boot_of_outSame (execExchangeWork_same (.refl _ s) rfl)
  | .exchangeSwitch cask task => boot_execExchangeSwitch cask task s
  | .exchTime cask task => boot_execExchTime cask task s
  | .stationLost _ => boot_of_outSame (execStationLost_same (.refl _ s) rfl)
  | .loopFrame => boot_execLoopFrame s
  | .loopSnapshot slot => boot_execLoopSnapshot slot s
  | .loopEvaluation slot => boot_execLoopEvaluation slot s
  | .lpeFe slot => boot_execLpeFe slot s
  | .lpeLate slot => boot_execLpeLate slot s
  | .loopModeOff iss slot => boot_execLoopModeOff iss slot s
  | .loopModeManual iss slot => boot_execLoopModeManual iss slot s
  | .loopModeAuto iss slot => boot_execLoopModeAuto iss slot s
  | .loopModeTrack iss slot => boot_execLoopModeTrack iss slot s
  | .lpeResume iss => boot_execLpeResume iss s
  | .loopEngineAbort iss => boot_execLoopEngineAbort iss s
  | .shadowStart iss ctx slot count => boot_execShadowStart iss ctx slot count s
  | .shadowStop iss ctx => boot_execShadowStop iss ctx s
  | .shadowEvaluation ctx => boot_execShadowEvaluation ctx s
  | .shadowComplete _ => boot_of_outSame (execShadowComplete_same (.refl _ s) rfl)
  | .captureComplete buf => boot_execCaptureComplete buf s
  | .vintnerRetuneFit _ => boot_of_outSame (execVintnerRetuneFit_same (.refl _ s) rfl)
  | .tryRetune iss => boot_execTryRetune iss s
  | .applyRetune iss => boot_execApplyRetune iss s
  | .revertRetune iss => boot_execRevertRetune iss s
  | .pressSample main guard ref => boot_execPressSample main guard ref s
  | .gainStepUp _ => boot_of_outSame (execGainStepUp_same (.refl _ s) rfl)
  | .handoverEnd _ => boot_of_outSame (execHandoverEnd_same (.refl _ s) rfl)
  | .zeroCrossing _ _ => boot_of_outSame (execZeroCrossing_same (.refl _ s) rfl)
  | .prsDirChange elem => boot_execPrsDirChange elem s
  | .prsPhaseLoss _ => boot_of_outSame (execPrsPhaseLoss_same (.refl _ s) rfl)
  | .pressPointsLost elem => boot_execPressPointsLost elem s
  | .pulseStart _ => boot_of_outSame (execPulseStart_same (.refl _ s) rfl)
  | .pulseEnd _ => boot_of_outSame (execPulseEnd_same (.refl _ s) rfl)
  | .mdReset iss elem => boot_execMdReset iss elem s
  | .tariffPush iss g index => boot_execTariffPush iss g index s
  | .tariffClear iss g => boot_execTariffClear iss g s
  | .accumulatorSnapshot iss elem => boot_execAccumulatorSnapshot iss elem s
  | .snapshotComplete _ => boot_of_outSame (execSnapshotComplete_same (.refl _ s) rfl)
  | .elementActivation elem => boot_execElementActivation elem s
  | .pressAbort iss => boot_execPressAbort iss s
  | .periodicSave => boot_of_outSame (execPeriodicSave_same (.refl _ s) rfl)
  | .saveCommit readBackOk => boot_execSaveCommit readBackOk s
  | .finalSaveCommand => boot_execFinalSaveCommand s
  | .pressHoldFull => boot_of_outSame (execPressHoldFull_same (.refl _ s) rfl)
  | .pressRestoreComplete => boot_execPressRestoreComplete s
  | .prsWatchStart => boot_of_outSame (execPrsWatchStart_same (.refl _ s) rfl)
  | .watchSecond _ => boot_of_outSame (execWatchSecond_same (.refl _ s) rfl)
  | .prsWatchEnd => boot_of_outSame (execPrsWatchEnd_same (.refl _ s) rfl)
  | .prsWatchLost _ => boot_of_outSame (execPrsWatchLost_same (.refl _ s) rfl)
  | .tastingRunComplete _ _ => boot_of_outSame (execTastingRunComplete_same (.refl _ s) rfl)
  | .tastingStart iss zeroPpm checkPpm => boot_execTastingStart iss zeroPpm checkPpm s s
  | .tastingSingle iss ch zeroPpm checkPpm => boot_execTastingSingle iss ch zeroPpm checkPpm s s
  | .tastingStop iss => boot_execTastingStop iss s
  | .spSample _ _ => boot_of_outSame (execSpSample_same (.refl _ s) rfl)
  | .slSample _ _ => boot_of_outSame (execSlSample_same (.refl _ s) rfl)
  | .discrepancyTimeout _ _ => boot_of_outSame (execDiscrepancyTimeout_same (.refl _ s) rfl)
  | .intermediateTimeout _ _ => boot_of_outSame (execIntermediateTimeout_same (.refl _ s) rfl)
  | .syncWindowEnd _ _ => boot_of_outSame (execSyncWindowEnd_same (.refl _ s) rfl)
  | .functionFaultClear _ _ => boot_of_outSame (execFunctionFaultClear_same (.refl _ s) rfl)
  | .testPulseDrop _ => boot_of_outSame (execTestPulseDrop_same (.refl _ s) rfl)
  | .tpCheckSample _ _ _ => boot_of_outSame (execTpCheckSample_same (.refl _ s) rfl)
  | .crossLinkExchange _ => boot_of_outSame (execCrossLinkExchange_same (.refl _ s) rfl)
  | .requestOff _ => boot_of_outSame (execRequestOff_same (.refl _ s) rfl)
  | .fbTimeout _ => boot_of_outSame (execFbTimeout_same (.refl _ s) rfl)
  | .switchTest _ _ => boot_of_outSame (execSwitchTest_same (.refl _ s) rfl)
  | .degradedTimerExpiry _ => boot_of_outSame (execDegradedTimerExpiry_same (.refl _ s) rfl)
  | .safetySelfTest _ => boot_of_outSame (execSafetySelfTest_same (.refl _ s) rfl)
  | .safetyChannelStop _ => boot_of_outSame (execSafetyChannelStop_same (.refl _ s) rfl)
  | .safetySupplyStart _ _ => boot_of_outSame (execSafetySupplyStart_same (.refl _ s) rfl)
  | .safetySupplyStop _ => boot_of_outSame (execSafetySupplyStop_same (.refl _ s) rfl)
  | .pendingMapDelivery => boot_of_outSame (execPendingMapDelivery_same (.refl _ s) rfl)
  | .openSession _ _ => boot_of_outSame (execOpenSession_same (.refl _ s) rfl)
  | .showPending => boot_of_outSame (execShowPending_same (.refl _ s) rfl)
  | .acceptMap _ => boot_of_outSame (execAcceptMap_same (.refl _ s) rfl)
  | .setPassword _ _ => boot_of_outSame (execSetPassword_same (.refl _ s) rfl)
  | .resetLockout _ => boot_of_outSame (execResetLockout_same (.refl _ s) rfl)
  | .readLog _ => boot_of_outSame (execReadLog_same (.refl _ s) rfl)
  | .closeSession => boot_of_outSame (execCloseSession_same (.refl _ s) rfl)
  | .safTimeout => boot_of_outSame (execSafTimeout_same (.refl _ s) rfl)
  | .keyswitchRelease _ => boot_of_outSame (execKeyswitchRelease_same (.refl _ s) rfl)
  | .pwBlockExpiry => boot_of_outSame (execPwBlockExpiry_same (.refl _ s) rfl)
  | .safetyIslandAbort iss => boot_execSafetyIslandAbort iss s
  | .safetyStatusReport => boot_execSafetyStatusReport s
  | .mirrorStale => boot_execMirrorStale s
  | .ringFrameReceived port frame => boot_execRingFrameReceived port frame s
  | .dupEntryTimeout _ => boot_of_outSame (execDupEntryTimeout_same (.refl _ s) rfl)
  | .leesHoldTimeout _ => boot_of_outSame (execLeesHoldTimeout_same (.refl _ s) rfl)
  | .suspectClear _ => boot_of_outSame (execSuspectClear_same (.refl _ s) rfl)
  | .heartbeatSend => boot_execHeartbeatSend s
  | .supervisionFrameSend => boot_of_outSame (execSupervisionFrameSend_same (.refl _ s) rfl)
  | .netPathFail _ _ => boot_of_outSame (execNetPathFail_same (.refl _ s) rfl)
  | .netPathUp _ _ => boot_of_outSame (execNetPathUp_same (.refl _ s) rfl)
  | .linkUp _ => boot_of_outSame (execLinkUp_same (.refl _ s) rfl)
  | .linkDown _ => boot_of_outSame (execLinkDown_same (.refl _ s) rfl)
  | .bypassRelease => boot_of_outSame (execBypassRelease_same (.refl _ s) rfl)
  | .bypHoldSet iss w => boot_execBypHoldSet iss w s
  | .egressTransmit _ => boot_of_outSame (execEgressTransmit_same (.refl _ s) rfl)
  | .flowSend flow => boot_execFlowSend flow s
  | .flowRekey _ => boot_of_outSame (execFlowRekey_same (.refl _ s) rfl)
  | .admitFlow iss => boot_execAdmitFlow iss s
  | .releaseFlow iss flow => boot_execReleaseFlow iss flow s
  | .admissionDecision => boot_execAdmissionDecision s
  | .bindReceived req => boot_execBindReceived req s
  | .bindAnswer flow accepted => boot_execBindAnswer flow accepted s
  | .bindTimeout flow => boot_execBindTimeout flow s
  | .fmpRead hdr => boot_execFmpRead hdr s
  | .fmpWrite hdr ws => boot_execFmpWrite hdr ws s
  | .fmpAdmit hdr req => boot_execFmpAdmit hdr req s
  | .fmpRelease hdr flow => boot_execFmpRelease hdr flow s
  | .safetyMsg hdr bytes => boot_execSafetyMsg hdr bytes s
  | .pathTestStart iss port len => boot_execPathTestStart iss port len s
  | .pathTestFrameSend => boot_execPathTestFrameSend s
  | .pathTestEnd => boot_of_outSame (execPathTestEnd_same (.refl _ s) rfl)
  | .ringMacAbort iss => boot_execRingMacAbort iss s
  | .syncReceived _ _ _ _ _ => boot_of_outSame (execSyncReceived_same (.refl _ s) rfl)
  | .syncMissing _ => boot_of_outSame (execSyncMissing_same (.refl _ s) rfl)
  | .timHoldover _ => boot_of_outSame (execTimHoldover_same (.refl _ s) rfl)
  | .announceReceived _ => boot_of_outSame (execAnnounceReceived_same (.refl _ s) rfl)
  | .announceTimeout _ => boot_of_outSame (execAnnounceTimeout_same (.refl _ s) rfl)
  | .slewComplete _ => boot_of_outSame (execSlewComplete_same (.refl _ s) rfl)
  | .holdSecond _ => boot_of_outSame (execHoldSecond_same (.refl _ s) rfl)
  | .timUntrusted _ => boot_of_outSame (execTimUntrusted_same (.refl _ s) rfl)
  | .pdelayRequestSend => boot_of_outSame (execPdelayRequestSend_same (.refl _ s) rfl)
  | .pdelayMessageReceived _ _ => boot_of_outSame (execPdelayMessageReceived_same (.refl _ s) rfl)
  | .syncSend _ => boot_of_outSame (execSyncSend_same (.refl _ s) rfl)
  | .setDomain iss dom => boot_execSetDomain iss dom s
  | .setTrustDomain iss dom => boot_execSetTrustDomain iss dom s
  | .adjustDomain iss dom => boot_execAdjustDomain iss dom s
  | .nowLoRead iss dom => boot_execNowLoRead iss dom s
  | .xsnap iss mask => boot_execXsnap iss mask s
  | .timeCapture _ => boot_of_outSame (execTimeCapture_same (.refl _ s) rfl)
  | .captureRead iss ch => boot_execCaptureRead iss ch s
  | .celToBattery _ _ => boot_of_outSame (execCelToBattery_same (.refl _ s) rfl)
  | .celToMain _ _ _ _ => boot_of_outSame (execCelToMain_same (.refl _ s) rfl)
  | .pendedEvent => boot_of_outSame (execPendedEvent_same (.refl _ s) rfl)
  | .vbatMeasure _ => boot_of_outSame (execVbatMeasure_same (.refl _ s) rfl)
  | .rtcSecond _ => boot_of_outSame (execRtcSecond_same (.refl _ s) rfl)
  | .loadCalendar iss dst => boot_execLoadCalendar iss dst s
  | .syncCalendar iss dst => boot_execSyncCalendar iss dst s
  | .syncTakesEffect => boot_of_outSame (execSyncTakesEffect_same (.refl _ s) rfl)
  | .dstAdd iss => boot_execDstAdd iss s
  | .dstSub iss => boot_execDstSub iss s
  | .rtcTimeRead iss => boot_execRtcTimeRead iss s
  | .celZoneWrite iss w => boot_execCelZoneWrite iss w s
  | .celTrimWrite iss w => boot_execCelTrimWrite iss w s
  | .celTrimCfgWrite iss w => boot_execCelTrimCfgWrite iss w s
  | .celOscStop _ => boot_of_outSame (execCelOscStop_same (.refl _ s) rfl)
  | .oscRestart => boot_of_outSame (execOscRestart_same (.refl _ s) rfl)
  | .trimWindowEnd _ _ => boot_of_outSame (execTrimWindowEnd_same (.refl _ s) rfl)
  | .eventRecordQueued => boot_of_outSame (execEventRecordQueued_same (.refl _ s) rfl)
  | .eventRecordWrite => boot_of_outSame (execEventRecordWrite_same (.refl _ s) rfl)
  | .opsecSave => boot_of_outSame (execOpsecSave_same (.refl _ s) rfl)
  | .celTimeMark => boot_of_outSame (execCelTimeMark_same (.refl _ s) rfl)
  | .queryStart iss kind => boot_execQueryStart iss kind s
  | .queryNext iss => boot_execQueryNext iss s
  | .queryEnd iss => boot_execQueryEnd iss s
  | .queryRecordReady _ _ => boot_of_outSame (execQueryRecordReady_same (.refl _ s) rfl)
  | .cellarAbort iss => boot_execCellarAbort iss s
  | .leapCheck => boot_of_outSame (execLeapCheck_same (.refl _ s) rfl)
  | .calendarCheck => boot_of_outSame (execCalendarCheck_same (.refl _ s) rfl)
  | .canFrameReceived ch f => boot_execCanFrameReceived ch f s
  | .canPeriodicTrigger _ => boot_of_outSame (execCanPeriodicTrigger_same (.refl _ s) rfl)
  | .canTxComplete _ => boot_of_outSame (execCanTxComplete_same (.refl _ s) rfl)
  | .canTxError _ => boot_of_outSame (execCanTxError_same (.refl _ s) rfl)
  | .canBusOff _ => boot_of_outSame (execCanBusOff_same (.refl _ s) rfl)
  | .canBusWatchdog _ => boot_of_outSame (execCanBusWatchdog_same (.refl _ s) rfl)
  | .canSupplyFail _ => boot_of_outSame (execCanSupplyFail_same (.refl _ s) rfl)
  | .canRecoveryComplete _ => boot_of_outSame (execCanRecoveryComplete_same (.refl _ s) rfl)
  | .fbsChStart iss ch => boot_execFbsChStart iss ch s
  | .fbsChStop iss ch => boot_execFbsChStop iss ch s
  | .recoverChannel iss ch => boot_execRecoverChannel iss ch s
  | .ttCycleStart _ _ => boot_of_outSame (execTtCycleStart_same (.refl _ s) rfl)
  | .ttTxWindow _ _ _ => boot_of_outSame (execTtTxWindow_same (.refl _ s) rfl)
  | .ttRxWindowEnd _ _ => boot_of_outSame (execTtRxWindowEnd_same (.refl _ s) rfl)
  | .fbsTtResync _ => boot_of_outSame (execFbsTtResync_same (.refl _ s) rfl)
  | .marginScanStart iss ch count => boot_execMarginScanStart iss ch count s
  | .marginScanStop iss => boot_execMarginScanStop iss s
  | .marginScanComplete _ _ => boot_of_outSame (execMarginScanComplete_same (.refl _ s) rfl)
  | .marginScanTimeout => boot_of_outSame (execMarginScanTimeout_same (.refl _ s) rfl)
  | .daliPoll _ => boot_of_outSame (execDaliPoll_same (.refl _ s) rfl)
  | .daliBackwardFrame port b => boot_execDaliBackwardFrame port b s
  | .daliEventMessage port short inst instType event => boot_execDaliEventMessage port short inst instType event s
  | .daliLevelCommand _ _ => boot_of_outSame (execDaliLevelCommand_same (.refl _ s) rfl)
  | .bsiDaliFail _ _ _ => boot_of_outSame (execBsiDaliFail_same (.refl _ s) rfl)
  | .daliBusRestored port millivolts heldMs => boot_execDaliBusRestored port millivolts heldMs s
  | .osdpPoll _ => boot_of_outSame (execOsdpPoll_same (.refl _ s) rfl)
  | .osdpReply port macOk reply => boot_execOsdpReply port macOk reply s
  | .osdpReplyTimeout _ => boot_of_outSame (execOsdpReplyTimeout_same (.refl _ s) rfl)
  | .osdpScSetup _ _ _ => boot_of_outSame (execOsdpScSetup_same (.refl _ s) rfl)
  | .accessDecision port => boot_execAccessDecision port s
  | .strikeExpiry door => boot_execStrikeExpiry door s
  | .bsiPortStart iss port => boot_execBsiPortStart iss port s
  | .bsiPortStop iss port => boot_execBsiPortStop iss port s
  | .install iss port addr => boot_execInstall iss port addr s
  | .installTimeout _ => boot_of_outSame (execInstallTimeout_same (.refl _ s) rfl)
  | .credAdd iss sched dest => boot_execCredAdd iss sched dest s
  | .credDelete iss => boot_execCredDelete iss s
  | .credReplace iss sched dest => boot_execCredReplace iss sched dest s
  | .credTableRestore => boot_of_outSame (execCredTableRestore_same (.refl _ s) rfl)
  | .fieldBusAbort iss => boot_execFieldBusAbort iss s
  | .provision iss => boot_execProvision iss s
  | .serviceEnter iss => boot_execServiceEnter iss s
  | .serviceExit iss => boot_execServiceExit iss s
  | .serviceTimeout => boot_of_outSame (execServiceTimeout_same (.refl _ s) rfl)
  | .retire iss => boot_execRetire iss s
  | .acceptIdentity iss => boot_execAcceptIdentity iss s
  | .attest iss => boot_execAttest iss s
  | .attestComplete => boot_of_outSame (execAttestComplete_same (.refl _ s) rfl)
  | .clearA iss => boot_execClearA iss s
  | .armMonitors iss => boot_execArmMonitors iss s
  | .invalidateSess iss arg => boot_execInvalidateSess iss arg s
  | .invalidateRdr iss arg => boot_execInvalidateRdr iss arg s
  | .rollStage iss => boot_execRollStage iss s
  | .roll iss => boot_execRoll iss s
  | .rollActivation => boot_of_outSame (execRollActivation_same (.refl _ s) rfl)
  | .importKey iss slot => boot_execImportKey iss slot s
  | .deleteKey iss slot => boot_execDeleteKey iss slot s
  | .exportKey iss slot => boot_execExportKey iss slot s
  | .encrypt iss slot => boot_execEncrypt iss slot s
  | .decrypt iss slot => boot_execDecrypt iss slot s
  | .sign iss slot => boot_execSign iss slot s
  | .verify iss slot => boot_execVerify iss slot s
  | .computeMac iss slot => boot_execComputeMac iss slot s
  | .keyOpComplete cask => boot_execKeyOpComplete cask s
  | .cachePurgeComplete => boot_of_outSame (execCachePurgeComplete_same (.refl _ s) rfl)
  | .unseal => boot_execUnseal s
  | .remask => boot_of_outSame (execRemask_same (.refl _ s) rfl)
  | .meshSample mon same lux => boot_execMeshSample mon same lux s
  | .lidOpen lid heldMs => boot_execLidOpen lid heldMs s
  | .glitchDetected sense => boot_execGlitchDetected sense s
  | .keyEngineAbort iss => boot_execKeyEngineAbort iss s
  | .serviceSessionOpen _ _ => boot_of_outSame (execServiceSessionOpen_same (.refl _ s) rfl)
  | .serviceSessionTimeout _ => boot_of_outSame (execServiceSessionTimeout_same (.refl _ s) rfl)
  | .rackBegin iss => boot_execRackBegin iss s
  | .rackFrag iss flashOk => boot_execRackFrag iss flashOk s
  | .verifyComplete _ => boot_of_outSame (execVerifyComplete_same (.refl _ s) rfl)
  | .rackActivate iss timed => boot_execRackActivate iss timed s
  | .rackActivation => boot_execRackActivation s
  | .rackCancel iss => boot_execRackCancel iss s
  | .rackConfirm iss => boot_execRackConfirm iss s
  | .rackRevert iss => boot_execRackRevert iss s
  | .confirmationExpiry => boot_execConfirmationExpiry s
  | .bootCompletion => boot_execBootCompletion s
  | .updAbort iss => boot_execUpdAbort iss s
  | .vinStart millivolts heldUs railsOk => boot_execVinStart millivolts heldUs railsOk s
  | .pwrVinWarn millivolts heldUs => boot_execPwrVinWarn millivolts heldUs s
  | .pwrVinClear millivolts heldUs => boot_execPwrVinClear millivolts heldUs s
  | .holdupEnd => boot_execHoldupEnd s
  | .alwaysOnRailStop millivolts => boot_execAlwaysOnRailStop millivolts s
  | .pwrFsupLow millivolts heldUs => boot_execPwrFsupLow millivolts heldUs s
  | .fsupRestored millivolts heldUs => boot_execFsupRestored millivolts heldUs s
  | .resetPin lowUs => boot_execResetPin lowUs s
  | .watchdogReset => boot_execWatchdogReset s
  | .exceptionReset => boot_execExceptionReset s
  | .sysReset iss w => boot_execSysReset iss w s
  | .wakeAdmission vinMillivolts => boot_execWakeAdmission vinMillivolts s
  | .islandRun isl => boot_execIslandRun isl s
  | .wakeRelease isl => boot_execWakeRelease isl s
  | .pwrIslandFail isl => boot_execPwrIslandFail isl s
  | .standby iss => boot_execStandby iss s
  | .resumeFromStandby iss => boot_execResumeFromStandby iss s
  | .trellisAbort iss => boot_execTrellisAbort iss s
  | .abortDoneTimeout => boot_execAbortDoneTimeout s
  | .moduleWithdrawal => boot_execModuleWithdrawal s
  | .safetyWindowWatchdog => boot_of_outSame (execSafetyWindowWatchdog_same (.refl _ s) rfl)
  | .keyswitchEngage _ => boot_of_outSame (execKeyswitchEngage_same (.refl _ s) rfl)
  | .canRxError _ _ => boot_of_outSame (execCanRxError_same (.refl _ s) rfl)
  | .pwmPhaseEdge _ => boot_of_outSame (execPwmPhaseEdge_same (.refl _ s) rfl)
  | .ttArbitratingWindowStart _ _ => boot_of_outSame (execTtArbitratingWindowStart_same (.refl _ s) rfl)
  | .daliStartCommandDue _ => boot_of_outSame (execDaliStartCommandDue_same (.refl _ s) rfl)
  | .pressConverterFault ch present => boot_execPressConverterFault ch present s
  | .safetyChannelRestart _ => boot_of_outSame (execSafetyChannelRestart_same (.refl _ s) rfl)
  | .startUp _ | .wholeLoad | .logicReset => absurd hc (by simp [changesBoot])

@[simp] theorem boot_tick (s) : boot (tick s) = boot s := by simp [tick]

end Sys2Proof.Machine
end

section
/-!
What a step can do to the boot view, and from it the invariant that a loaded image has its start-up and its whole load behind it
(R9, R10, R58, R482, R486).
-/
namespace Sys2Proof.Machine

/-- START_UP changes the view only before the start-up has run, and brings no image. -/
theorem boot_execStartUp (strap s) : boot (after (execStartUp strap s) s) = boot s ∨
    s.pwr.started = false ∧ (after (execStartUp strap s) s).img.loaded = s.img.loaded := by
  simp only [execStartUp, after_next]
  split
  · next h => exact .inr ⟨by simp_all, loaded_startUpOp strap s⟩
  · exact .inl rfl

/-- WHOLE_LOAD changes the view once in a start-up, and the load is done then. -/
theorem boot_execWholeLoad (s) : boot (after (execWholeLoad s) s) = boot s ∨
    s.pwr.loadDone = false ∧ (after (execWholeLoad s) s).pwr.started = true ∧
      (after (execWholeLoad s) s).pwr.loadDone = true := by
  simp only [execWholeLoad, after_next]
  split
  · next h =>
    obtain ⟨hs, hd⟩ : s.pwr.started = true ∧ s.pwr.loadDone = false := by simp_all [mayLoad]
    exact .inr ⟨hd, (pwr_wholeLoadOp s).1.trans hs, (pwr_wholeLoadOp s).2⟩
  · exact .inl rfl

/-- LOGIC_RESET leaves no image (R482). -/
theorem boot_execLogicReset (s) :
    boot (after (execLogicReset s) s) = boot s ∨ (after (execLogicReset s) s).img.loaded = false := by
  simp only [execLogicReset, after_next]
  split
  · exact .inr rfl
  · exact .inl rfl

/-- How a state `t` may follow `s`: with the same view, as a start-up that brings no image, as the whole load of a start-up, or
without an image. -/
inductive BootStep (s t : State) : Prop where
  | same (h : boot t = boot s)
  | startUp (before : s.pwr.started = false) (image : t.img.loaded = s.img.loaded)
  | load (before : s.pwr.loadDone = false) (started : t.pwr.started = true) (done : t.pwr.loadDone = true)
  | unloaded (h : t.img.loaded = false)

theorem after_of_next {o : Out} {t : State} (h : o = .next t) (s : State) : after o s = t := by rw [h]; rfl

/-- Every command takes its state to one that may follow it so. -/
theorem bootStep_exec {c : Instr} {s t : State} (h : exec c s = .next t) : BootStep s t := by
  rw [← after_of_next h s]
  cases hc : changesBoot c with
  | false => exact .same (boot_exec c s hc)
  | true =>
    cases c with
    | startUp strap =>
      rcases boot_execStartUp strap s with h | ⟨hb, hi⟩
      · exact .same h
      · exact .startUp hb hi
    | wholeLoad =>
      rcases boot_execWholeLoad s with h | ⟨hb, hs, hd⟩
      · exact .same h
      · exact .load hb hs hd
    | logicReset =>
      rcases boot_execLogicReset s with h | h
      · exact .same h
      · exact .unloaded h
    | _ => simp [changesBoot] at hc

/-- So does every step, the passing of time being one that keeps the view. -/
theorem bootStep_step {s t : State} (h : step s = .next t) : BootStep s t := by
  unfold step at h
  split at h
  · cases bootStep_exec h with
    | same h => exact .same h
    | startUp hb hi => exact .startUp hb hi
    | load hb hs hd => exact .load hb hs hd
    | unloaded h => exact .unloaded h
  · cases h
    exact .same (boot_tick s)

/-! ### The invariant -/

theorem imageRuns_of_boot {s t : State} (hs : ImageRuns s) (h : boot t = boot s) : ImageRuns t := fun hl => by
  have e : t.img.loaded = s.img.loaded := congrArg Boot.loaded h
  obtain ⟨hst, hld⟩ := hs (e ▸ hl)
  exact ⟨(congrArg Boot.started h).trans hst, (congrArg Boot.loadDone h).trans hld⟩

theorem imageRuns_step {s t : State} (hs : ImageRuns s) (h : step s = .next t) : ImageRuns t := by
  cases bootStep_step h with
  | same e => exact imageRuns_of_boot hs e
  | startUp hb hi => exact fun hl => absurd (hs (hi ▸ hl)).1 (by simp [hb])
  | load _ hst hld => exact fun _ => ⟨hst, hld⟩
  | unloaded hl => exact fun h => absurd h (by simp [hl])

/-- While an image runs, a step that leaves one loaded leaves the whole view: no start-up and no whole load comes then. -/
theorem boot_step_of_running {s t : State} (hs : ImageRuns s) (hl : s.img.loaded = true) (h : step s = .next t)
    (ht : t.img.loaded = true) : boot t = boot s := by
  obtain ⟨hst, hld⟩ := hs hl
  cases bootStep_step h with
  | same e => exact e
  | startUp hb _ => simp [hst] at hb
  | load hb _ _ => simp [hld] at hb
  | unloaded hu => simp [ht] at hu

/-- Settles O51: START_UP runs only before the start-up, WHOLE_LOAD sets the load done, LOGIC_RESET takes the image away, and
every other command and the passing of time keep the boot view. -/
theorem loadedImageHasItsStartUp : Obligations.LoadedImageHasItsStartUp := fun _ _ hs h => imageRuns_step hs h

/-- Settles O50: a start-up and a whole load cannot come while an image runs, and the boot view holds PRIOR while one is loaded. -/
theorem priorModeNeverChangesWhileAnImageRuns : Obligations.PriorModeNeverChangesWhileAnImageRuns := by
  intro s t hs hl h ht
  have e := boot_step_of_running hs hl h ht
  exact ⟨by simpa [hl, ht] using congrArg Boot.prior e, congrArg Boot.active e⟩

end Sys2Proof.Machine
end

section
/-!
The register path at a few addresses (R10, R17, R20, R22, R46, R48).
-/
namespace Sys2Proof.Machine

/-! ### Accesses that end in a bus error -/

theorem exec_narrowOrUnaligned {addr : Word} {size : Fin 5} (h : size.val ≠ 4 ∨ addr.toNat % 4 ≠ 0) (iss : Issuer)
    (isWrite : Bool) (s : State) :
    exec (.narrowOrUnalignedAccess iss addr size isWrite) s = .next { s with reply := .busError } := by
  have hc : (size.val == 4 && addr.toNat % 4 == 0) = false := by rcases h with h | h <;> simp [h]
  simp only [exec, execNarrowOrUnalignedAccess, hc]
  rfl

theorem exec_unmapped {addr : Word} (h : 0x400E0000 ≤ addr.toNat) (iss : Issuer) (isWrite : Bool) (s : State) :
    exec (.unmappedPeripheralAccess iss addr isWrite) s = .next { s with reply := .busError } := by
  simp only [exec, execUnmappedPeripheralAccess, if_pos h, busError]

/-- Settles O1: the two accesses are the model's busError, which sets the answer alone. -/
theorem narrowAndUnmappedAccessesEndInBusError : Obligations.NarrowAndUnmappedAccessesEndInBusError :=
  ⟨fun iss _ _ isWrite s h => exec_narrowOrUnaligned h iss isWrite s,
   fun iss _ isWrite s h _ => exec_unmapped h iss isWrite s⟩

/-! ### Reads and writes of one register -/

/-- A word write at an address of a block is the register command at its offset. -/
theorem exec_registerWrite {addr : Word} {b : Block} {off : Nat} (hb : blockAt addr.toNat = some (b, off))
    (ha : addr.toNat % 4 = 0) (iss : Issuer) (w : Word) (s : State) :
    exec (.registerWrite iss addr w) s = regCmd iss b off (regWriteOp iss b off w) s := by
  simp only [exec, execRegisterWrite, writeAt, hb, if_pos ha]

/-- A word read at an address of a block is the register read at its offset. -/
theorem exec_rcRegisterRead {addr : Word} {b : Block} {off : Nat} (hb : blockAt addr.toNat = some (b, off))
    (ha : addr.toNat % 4 = 0) (iss : Issuer) (s : State) : exec (.rcRegisterRead iss addr) s =
      regRead iss b off (fun s => (regReadOp iss b off s).1) (fun s => (regReadOp iss b off s).2) s := by
  simp only [exec, execRcRegisterRead, readAt, hb, if_pos ha]

/-- A register read of an island that is not in RUN answers 0 and changes nothing else (R48). -/
theorem regRead_down {s : State} {iss : Issuer} {b : Block} {off : Nat} (h : access s iss b off false = .down)
    (val : State → Word) (op : State → State) : regRead iss b off val op s = .next { s with reply := .word 0 } := by
  simp only [regRead, h]

theorem regWriteOp_sysCompat (iss : Issuer) (w : Word) (s : State) :
    regWriteOp iss .sys 0x0010 w s = compatWrite w.toNat s := by simp [regWriteOp, sysWrites, regAt, r1]

theorem regWriteOp_siSrc {iss : Issuer} (h : iss.cask = 0) (w : Word) (s : State) :
    regWriteOp iss .upd 0x0804 w s = { s with img := { s.img with src := w } } := by
  have ho : isOwner iss = true := by simp [isOwner, h]
  simp [regWriteOp, updWrites, ho, regAt, r1, rn]

/-- TRL_WR_REFUSED reads its count, and the read clears it. -/
theorem regReadOp_wrRefused (iss : Issuer) (s : State) :
    regReadOp iss .trl 0x0004 s = (w32 s.trl.wrRefused, { s with trl := { s.trl with wrRefused := 0 } }) := by
  simp [regReadOp, foreignRead, readValue, trlRegs, readEffect, trlRead, regAt, r1, rn]

theorem bitOf_toNat (w : Word) (i : Nat) : bitOf w.toNat i = w.getLsbD i := by
  simp only [bitOf, BitVec.getLsbD, Nat.testBit_eq_decide_div_mod_eq]
  rfl

/-- SYS_COMPAT's two bits are bits 1 and 0 of the word. -/
theorem compatWrite_toNat (w : Word) (s : State) : compatWrite w.toNat s =
    { s with sys := { s.sys with saved := w.getLsbD 1, prior := if s.img.loaded then s.sys.prior else w.getLsbD 0 } } := by
  simp only [compatWrite, bitOf_toNat]

/-- Settles O2: each access is the register command or register read at its offset, whose outcome the laws of the register path
give. -/
theorem registerAccessEffects : Obligations.RegisterAccessEffects := by
  refine ⟨fun iss w s h => ?_, fun iss w s h => ?_, fun iss w s hi h => ?_, fun iss s h => ?_, fun iss w s h => ?_,
    fun iss s h => ?_⟩
  · refine answers_regCmd h (exec_registerWrite (off := 0x0010) (by decide) (by decide) iss w s) ?_
    rw [regWriteOp_sysCompat, compatWrite_toNat]
    exact ⟨rfl, rfl⟩
  · rw [exec, execSysCompatWrite, regCmd_ok h, compatWrite_toNat]
  · rw [exec_registerWrite (b := .upd) (off := 0x0804) (by decide) (by decide), regCmd_ok h, regWriteOp_siSrc hi]
  · refine answers_regRead h (exec_rcRegisterRead (off := 0x0004) (by decide) (by decide) iss s) ?_
    rw [regReadOp_wrRefused]
    exact ⟨rfl, rfl⟩
  · rw [exec_registerWrite (b := .trl) (off := 0x0040) (by decide) (by decide), regCmd_down h]
  · rw [exec_rcRegisterRead (b := .trl) (off := 0x0004) (by decide) (by decide), regRead_down h]

end Sys2Proof.Machine
end

section
/-!
State.reset: its registers and the invariants (R16, R26, R46, R482).
-/
namespace Sys2Proof.Machine

theorem islState_reset {i : Island} (hc : i ≠ .cluster) (hl : i ≠ .cellar) : islState State.reset i = .off := by
  cases i
  case cluster => exact absurd rfl hc
  case cellar => exact absurd rfl hl
  all_goals rfl

theorem canonState_reset : CanonState State.reset := ⟨rfl, rfl, rfl⟩

theorem imageRuns_reset : ImageRuns State.reset := fun h => nomatch h

theorem linklessEmpty_reset : LinklessEmpty State.reset := fun p _ => by cases p <;> exact ⟨rfl, rfl, rfl, rfl⟩

theorem dom_reset (n : Nat) : dom State.reset n = {} := rfl

/-- Settles O60: the registers are read off State.reset by evaluation (in the kernel, since Press's
frequency and tasting words are rounded floats), and each invariant holds of empty tables. -/
theorem resetRegistersAndInvariants : Obligations.ResetRegistersAndInvariants :=
  ⟨by decide, by decide +kernel, rfl, rfl, rfl, fun _ => islState_reset, rfl, rfl, canonState_reset, imageRuns_reset,
    linklessEmpty_reset, fun n => by rw [dom_reset]; decide⟩

end Sys2Proof.Machine
end

section
/-!
A transfer presented on a handshake lane (R28, R29).
-/
namespace Sys2Proof.Machine

theorem laneQ_setLaneQ_ne {l m : Lane} (h : laneKey m ≠ laneKey l) (q : List Transfer) (s : State) :
    laneQ (setLaneQ l q s) m = laneQ s m := Tbl.at_put_ne _ _ _ h

theorem xchFault_xchRefuse (hc : Nat) (src dst : Island) (s : State) :
    (xchRefuse hc src dst s).sys.xchFault = s.sys.xchFault ||| 2 ^ hc := rfl

/-- A refused transfer sets the bit of its channel and keeps the others. -/
theorem bitOf_xchRefuse (hc k : Nat) (src dst : Island) (s : State) :
    bitOf (xchRefuse hc src dst s).sys.xchFault k = (bitOf s.sys.xchFault k || decide (hc = k)) := by
  rw [xchFault_xchRefuse, bitOf_eq, bitOf_eq, Nat.testBit_or, Nat.testBit_two_pow]

/-- Settles O48: towards an island that is not in RUN a transfer is refused at the sender, towards one in RUN it joins its lane. -/
theorem transfersToStoppedIslandsAreRefused : Obligations.TransfersToStoppedIslandsAreRefused := by
  intro l src dst x s
  refine ⟨fun hdown => ?_, fun hrun => ?_⟩
  · simp only [present_down hdown]
    refine ⟨rfl, rfl, ?_, fun k hk => ?_⟩
    · simp [bitOf_xchRefuse]
    · simp [bitOf_xchRefuse, Ne.symm hk]
  · simp only [present_run hrun]
    exact ⟨laneQ_setLaneQ_self .., fun m hm => laneQ_setLaneQ_ne hm ..⟩

end Sys2Proof.Machine
end

section
/-!
What each command can change at all, by the chapter it stands in (R25, R27, R37, R45).
-/
namespace Sys2Proof.Machine

/-- The components of State that the commands of a chapter may change, as the bits of `Same`. Those of the register, FMP and power
chapters may change any but the queue and the time. -/
def chapterMask : Chapter → Nat
  | .registers => 0x1FFFFC
  | .crossing => 0x00063F
  | .cellar => 0x00203F
  | .time => 0x06203F
  | .image => 0x1FDFFF
  | .trellis => 0x13813F
  | .program => 0x11837F
  | .instruction => 0x00027F
  | .station => 0x03821F
  | .loop => 0x11853F
  | .press => 0x11893F
  | .safety => 0x11913F
  | .ring => 0x13C33F
  | .admission => 0x17C13F
  | .fmp => 0x1FFFFC
  | .recorder => 0x14203F
  | .fieldBus => 0x13833F
  | .building => 0x13C33F
  | .keys => 0x12487F
  | .racking => 0x1808BF
  | .power => 0x1FFFFC
  | .trellisAbort => 0x10013F

/-- The commands that write one of the three memories. -/
def writesMemory : Instr → Bool
  | .registerWrite .. | .commitTrellisCycle | .retentiveCommit .. | .runWarm .. | .runCold .. | .caskAutoStart ..
  | .opSt8 .. | .opSt16 .. | .opSt32 .. | .opSt64 .. | .opStb .. | .opRet .. | .opTon .. | .opTof .. | .opTp ..
  | .opRtrig .. | .opFtrig .. | .opCtu .. | .opCtd .. | .opCtud .. | .exchangeWork .. | .exchangeSwitch .. | .fmpWrite ..
  | .exportKey .. | .keyOpComplete .. | .logicReset | .startUp .. => true
  | _ => false

/-- The components that a command of chapter `k` may change: the memories only where the command writes one. -/
def commandMask (k : Chapter) (writes : Bool) : Nat := if writes then chapterMask k else chapterMask k &&& 0x1FFFBF

/-- A command leaves each component outside its mask as it is, by the frame lemma of its operation. -/
theorem exec_commandMask (c : Instr) (s : State) : OutSame (commandMask (chapterOf c) (writesMemory c)) s (exec c s) :=
  match c with
  | .registerWrite .. => show OutSame (commandMask .registers true) s _ from execRegisterWrite_same (.refl _ s) rfl
  | .rcRegisterRead .. => show OutSame (commandMask .registers false) s _ from execRcRegisterRead_same (.refl _ s) rfl
  | .narrowOrUnalignedAccess iss _ _ w =>
    show OutSame (commandMask .registers false) s _ from execNarrowOrUnalignedAccess_same (a0 := iss) (a3 := w) (.refl _ s) rfl
  | .unmappedPeripheralAccess iss _ w =>
    show OutSame (commandMask .registers false) s _ from execUnmappedPeripheralAccess_same (a0 := iss) (a2 := w) (.refl _ s) rfl
  | .sysCompatWrite .. => show OutSame (commandMask .registers false) s _ from execSysCompatWrite_same (.refl _ s) rfl
  | .handshakeCrossing .. => show OutSame (commandMask .crossing false) s _ from execHandshakeCrossing_same (.refl _ s) rfl
  | .celPostedWriteEffect => show OutSame (commandMask .cellar false) s _ from execCelPostedWriteEffect_same (.refl _ s) rfl
  | .timeDistributionUpdate .. =>
    show OutSame (commandMask .time false) s _ from execTimeDistributionUpdate_same (.refl _ s) rfl
  | .stage .. => show OutSame (commandMask .image false) s _ from execStage_same (.refl _ s) rfl
  | .commit .. => show OutSame (commandMask .image false) s _ from execCommit_same (.refl _ s) rfl
  | .discard .. => show OutSame (commandMask .image false) s _ from execDiscard_same (.refl _ s) rfl
  | .commitTrellisCycle => show OutSame (commandMask .image true) s _ from execCommitTrellisCycle_same (.refl _ s) rfl
  | .sectionActiveReport .. => show OutSame (commandMask .image false) s _ from execSectionActiveReport_same (.refl _ s) rfl
  | .sectionalLoadAbort .. => show OutSame (commandMask .image false) s _ from execSectionalLoadAbort_same (.refl _ s) rfl
  | .wholeLoad => show OutSame (commandMask .image false) s _ from execWholeLoad_same (.refl _ s) rfl
  | .trellisFrame .. => show OutSame (commandMask .trellis false) s _ from execTrellisFrame_same (.refl _ s) rfl
  | .startRelease .. => show OutSame (commandMask .trellis false) s _ from execStartRelease_same (.refl _ s) rfl
  | .diSample .. => show OutSame (commandMask .trellis false) s _ from execDiSample_same (.refl _ s) rfl
  | .diFilterElapsed .. => show OutSame (commandMask .trellis false) s _ from execDiFilterElapsed_same (.refl _ s) rfl
  | .countEdge .. => show OutSame (commandMask .trellis false) s _ from execCountEdge_same (.refl _ s) rfl
  | .outputTurnOff .. => show OutSame (commandMask .trellis false) s _ from execOutputTurnOff_same (.refl _ s) rfl
  | .doShortTrip .. => show OutSame (commandMask .trellis false) s _ from execDoShortTrip_same (.refl _ s) rfl
  | .doTripRetry .. => show OutSame (commandMask .trellis false) s _ from execDoTripRetry_same (.refl _ s) rfl
  | .groupFsupLow .. => show OutSame (commandMask .trellis false) s _ from execGroupFsupLow_same (.refl _ s) rfl
  | .groupFsupRestored .. => show OutSame (commandMask .trellis false) s _ from execGroupFsupRestored_same (.refl _ s) rfl
  | .pointSnapshot .. => show OutSame (commandMask .trellis false) s _ from execPointSnapshot_same (.refl _ s) rfl
  | .partitionPointWrite .. => show OutSame (commandMask .trellis false) s _ from execPartitionPointWrite_same (.refl _ s) rfl
  | .cellTestStart .. => show OutSame (commandMask .trellis false) s _ from execCellTestStart_same (.refl _ s) rfl
  | .cellTestStop .. => show OutSame (commandMask .trellis false) s _ from execCellTestStop_same (.refl _ s) rfl
  | .cellTestComplete .. => show OutSame (commandMask .trellis false) s _ from execCellTestComplete_same (.refl _ s) rfl
  | .cellTestTimeout => show OutSame (commandMask .trellis false) s _ from execCellTestTimeout_same (.refl _ s) rfl
  | .taskRelease .. => show OutSame (commandMask .program false) s _ from execTaskRelease_same (.refl _ s) rfl
  | .eventTaskTrigger .. => show OutSame (commandMask .program false) s _ from execEventTaskTrigger_same (.refl _ s) rfl
  | .pgeEvtTrig .. => show OutSame (commandMask .program false) s _ from execPgeEvtTrig_same (.refl _ s) rfl
  | .pgeAccountingPeriod => show OutSame (commandMask .program false) s _ from execPgeAccountingPeriod_same (.refl _ s) rfl
  | .pgeGuaranteeUsed .. => show OutSame (commandMask .program false) s _ from execPgeGuaranteeUsed_same (.refl _ s) rfl
  | .taskExecutionStart .. => show OutSame (commandMask .program false) s _ from execTaskExecutionStart_same (.refl _ s) rfl
  | .taskOutputPhase .. => show OutSame (commandMask .program false) s _ from execTaskOutputPhase_same (.refl _ s) rfl
  | .outputImageCommit .. => show OutSame (commandMask .program false) s _ from execOutputImageCommit_same (.refl _ s) rfl
  | .retentiveCommit .. => show OutSame (commandMask .program true) s _ from execRetentiveCommit_same (.refl _ s) rfl
  | .taskWatchdog .. => show OutSame (commandMask .program false) s _ from execTaskWatchdog_same (.refl _ s) rfl
  | .errorTaskRelease .. => show OutSame (commandMask .program false) s _ from execErrorTaskRelease_same (.refl _ s) rfl
  | .runWarm .. => show OutSame (commandMask .program true) s _ from execRunWarm_same (.refl _ s) rfl
  | .runCold .. => show OutSame (commandMask .program true) s _ from execRunCold_same (.refl _ s) rfl
  | .holdCask .. => show OutSame (commandMask .program false) s _ from execHoldCask_same (.refl _ s) rfl
  | .resumeCask .. => show OutSame (commandMask .program false) s _ from execResumeCask_same (.refl _ s) rfl
  | .stopCask .. => show OutSame (commandMask .program false) s _ from execStopCask_same (.refl _ s) rfl
  | .caskDrained .. => show OutSame (commandMask .program false) s _ from execCaskDrained_same (.refl _ s) rfl
  | .holdExpired .. => show OutSame (commandMask .program false) s _ from execHoldExpired_same (.refl _ s) rfl
  | .caskAutoStart .. => show OutSame (commandMask .program true) s _ from execCaskAutoStart_same (.refl _ s) rfl
  | .programEngineAbort .. => show OutSame (commandMask .program false) s _ from execProgramEngineAbort_same (.refl _ s) rfl
  | .pgeClkLoRead .. => show OutSame (commandMask .program false) s _ from execPgeClkLoRead_same (.refl _ s) rfl
  | .vintnerSetpointWrite .. => show OutSame (commandMask .program false) s _ from execVintnerSetpointWrite_same (.refl _ s) rfl
  | .opLd8 .. => show OutSame (commandMask .instruction false) s _ from execOpLd8_same (.refl _ s) rfl
  | .opLd16 .. => show OutSame (commandMask .instruction false) s _ from execOpLd16_same (.refl _ s) rfl
  | .opLd32 .. => show OutSame (commandMask .instruction false) s _ from execOpLd32_same (.refl _ s) rfl
  | .opLd64 .. => show OutSame (commandMask .instruction false) s _ from execOpLd64_same (.refl _ s) rfl
  | .opSt8 .. => show OutSame (commandMask .instruction true) s _ from execOpSt8_same (.refl _ s) rfl
  | .opSt16 .. => show OutSame (commandMask .instruction true) s _ from execOpSt16_same (.refl _ s) rfl
  | .opSt32 .. => show OutSame (commandMask .instruction true) s _ from execOpSt32_same (.refl _ s) rfl
  | .opSt64 .. => show OutSame (commandMask .instruction true) s _ from execOpSt64_same (.refl _ s) rfl
  | .opIn .. => show OutSame (commandMask .instruction false) s _ from execOpIn_same (.refl _ s) rfl
  | .opInq .. => show OutSame (commandMask .instruction false) s _ from execOpInq_same (.refl _ s) rfl
  | .opOut .. => show OutSame (commandMask .instruction false) s _ from execOpOut_same (.refl _ s) rfl
  | .opOutq .. => show OutSame (commandMask .instruction false) s _ from execOpOutq_same (.refl _ s) rfl
  | .opAdd .. => show OutSame (commandMask .instruction false) s _ from execOpAdd_same (.refl _ s) rfl
  | .opSub .. => show OutSame (commandMask .instruction false) s _ from execOpSub_same (.refl _ s) rfl
  | .opNeg .. => show OutSame (commandMask .instruction false) s _ from execOpNeg_same (.refl _ s) rfl
  | .opAbs .. => show OutSame (commandMask .instruction false) s _ from execOpAbs_same (.refl _ s) rfl
  | .opMin .. => show OutSame (commandMask .instruction false) s _ from execOpMin_same (.refl _ s) rfl
  | .opMax .. => show OutSame (commandMask .instruction false) s _ from execOpMax_same (.refl _ s) rfl
  | .opLimit .. => show OutSame (commandMask .instruction false) s _ from execOpLimit_same (.refl _ s) rfl
  | .opSel .. => show OutSame (commandMask .instruction false) s _ from execOpSel_same (.refl _ s) rfl
  | .opMul .. => show OutSame (commandMask .instruction false) s _ from execOpMul_same (.refl _ s) rfl
  | .opDiv .. => show OutSame (commandMask .instruction false) s _ from execOpDiv_same (.refl _ s) rfl
  | .opMod .. => show OutSame (commandMask .instruction false) s _ from execOpMod_same (.refl _ s) rfl
  | .opIntConv .. => show OutSame (commandMask .instruction false) s _ from execOpIntConv_same (.refl _ s) rfl
  | .opAnd .. => show OutSame (commandMask .instruction false) s _ from execOpAnd_same (.refl _ s) rfl
  | .opOr .. => show OutSame (commandMask .instruction false) s _ from execOpOr_same (.refl _ s) rfl
  | .opXor .. => show OutSame (commandMask .instruction false) s _ from execOpXor_same (.refl _ s) rfl
  | .opNot .. => show OutSame (commandMask .instruction false) s _ from execOpNot_same (.refl _ s) rfl
  | .opShl .. => show OutSame (commandMask .instruction false) s _ from execOpShl_same (.refl _ s) rfl
  | .opShr .. => show OutSame (commandMask .instruction false) s _ from execOpShr_same (.refl _ s) rfl
  | .opRol .. => show OutSame (commandMask .instruction false) s _ from execOpRol_same (.refl _ s) rfl
  | .opRor .. => show OutSame (commandMask .instruction false) s _ from execOpRor_same (.refl _ s) rfl
  | .opFadd .. => show OutSame (commandMask .instruction false) s _ from execOpFadd_same (.refl _ s) rfl
  | .opFsub .. => show OutSame (commandMask .instruction false) s _ from execOpFsub_same (.refl _ s) rfl
  | .opFmul .. => show OutSame (commandMask .instruction false) s _ from execOpFmul_same (.refl _ s) rfl
  | .opFdiv .. => show OutSame (commandMask .instruction false) s _ from execOpFdiv_same (.refl _ s) rfl
  | .opFsqrt .. => show OutSame (commandMask .instruction false) s _ from execOpFsqrt_same (.refl _ s) rfl
  | .opFmin .. => show OutSame (commandMask .instruction false) s _ from execOpFmin_same (.refl _ s) rfl
  | .opFmax .. => show OutSame (commandMask .instruction false) s _ from execOpFmax_same (.refl _ s) rfl
  | .opFlim .. => show OutSame (commandMask .instruction false) s _ from execOpFlim_same (.refl _ s) rfl
  | .opCvt .. => show OutSame (commandMask .instruction false) s _ from execOpCvt_same (.refl _ s) rfl
  | .opCmp .. => show OutSame (commandMask .instruction false) s _ from execOpCmp_same (.refl _ s) rfl
  | .opFcmp .. => show OutSame (commandMask .instruction false) s _ from execOpFcmp_same (.refl _ s) rfl
  | .opLdb .. => show OutSame (commandMask .instruction false) s _ from execOpLdb_same (.refl _ s) rfl
  | .opAndb .. => show OutSame (commandMask .instruction false) s _ from execOpAndb_same (.refl _ s) rfl
  | .opOrb .. => show OutSame (commandMask .instruction false) s _ from execOpOrb_same (.refl _ s) rfl
  | .opXorb .. => show OutSame (commandMask .instruction false) s _ from execOpXorb_same (.refl _ s) rfl
  | .opNotb .. => show OutSame (commandMask .instruction false) s _ from execOpNotb_same (.refl _ s) rfl
  | .opStb .. => show OutSame (commandMask .instruction true) s _ from execOpStb_same (.refl _ s) rfl
  | .opSetb .. => show OutSame (commandMask .instruction false) s _ from execOpSetb_same (.refl _ s) rfl
  | .opRstb .. => show OutSame (commandMask .instruction false) s _ from execOpRstb_same (.refl _ s) rfl
  | .opJmp .. => show OutSame (commandMask .instruction false) s _ from execOpJmp_same (.refl _ s) rfl
  | .opBt .. => show OutSame (commandMask .instruction false) s _ from execOpBt_same (.refl _ s) rfl
  | .opBf .. => show OutSame (commandMask .instruction false) s _ from execOpBf_same (.refl _ s) rfl
  | .opCall .. => show OutSame (commandMask .instruction false) s _ from execOpCall_same (.refl _ s) rfl
  | .opRet .. => show OutSame (commandMask .instruction true) s _ from execOpRet_same (.refl _ s) rfl
  | .opTon .. => show OutSame (commandMask .instruction true) s _ from execOpTon_same (.refl _ s) rfl
  | .opTof .. => show OutSame (commandMask .instruction true) s _ from execOpTof_same (.refl _ s) rfl
  | .opTp .. => show OutSame (commandMask .instruction true) s _ from execOpTp_same (.refl _ s) rfl
  | .opRtrig .. => show OutSame (commandMask .instruction true) s _ from execOpRtrig_same (.refl _ s) rfl
  | .opFtrig .. => show OutSame (commandMask .instruction true) s _ from execOpFtrig_same (.refl _ s) rfl
  | .opCtu .. => show OutSame (commandMask .instruction true) s _ from execOpCtu_same (.refl _ s) rfl
  | .opCtd .. => show OutSame (commandMask .instruction true) s _ from execOpCtd_same (.refl _ s) rfl
  | .opCtud .. => show OutSame (commandMask .instruction true) s _ from execOpCtud_same (.refl _ s) rfl
  | .opClk .. => show OutSame (commandMask .instruction false) s _ from execOpClk_same (.refl _ s) rfl
  | .opFirst .. => show OutSame (commandMask .instruction false) s _ from execOpFirst_same (.refl _ s) rfl
  | .opSetp .. => show OutSame (commandMask .instruction false) s _ from execOpSetp_same (.refl _ s) rfl
  | .opMode .. => show OutSame (commandMask .instruction false) s _ from execOpMode_same (.refl _ s) rfl
  | .opRaise .. => show OutSame (commandMask .instruction false) s _ from execOpRaise_same (.refl _ s) rfl
  | .opErrinfo .. => show OutSame (commandMask .instruction false) s _ from execOpErrinfo_same (.refl _ s) rfl
  | .opErrack .. => show OutSame (commandMask .instruction false) s _ from execOpErrack_same (.refl _ s) rfl
  | .exchangeBoundary .. => show OutSame (commandMask .program false) s _ from execExchangeBoundary_same (.refl _ s) rfl
  | .exchangeWork .. => show OutSame (commandMask .program true) s _ from execExchangeWork_same (.refl _ s) rfl
  | .exchangeSwitch .. => show OutSame (commandMask .program true) s _ from execExchangeSwitch_same (.refl _ s) rfl
  | .exchTime .. => show OutSame (commandMask .program false) s _ from execExchTime_same (.refl _ s) rfl
  | .stationLost .. => show OutSame (commandMask .station false) s _ from execStationLost_same (.refl _ s) rfl
  | .loopFrame => show OutSame (commandMask .loop false) s _ from execLoopFrame_same (.refl _ s) rfl
  | .loopSnapshot .. => show OutSame (commandMask .loop false) s _ from execLoopSnapshot_same (.refl _ s) rfl
  | .loopEvaluation .. => show OutSame (commandMask .loop false) s _ from execLoopEvaluation_same (.refl _ s) rfl
  | .lpeFe .. => show OutSame (commandMask .loop false) s _ from execLpeFe_same (.refl _ s) rfl
  | .lpeLate .. => show OutSame (commandMask .loop false) s _ from execLpeLate_same (.refl _ s) rfl
  | .loopModeOff .. => show OutSame (commandMask .loop false) s _ from execLoopModeOff_same (.refl _ s) rfl
  | .loopModeManual .. => show OutSame (commandMask .loop false) s _ from execLoopModeManual_same (.refl _ s) rfl
  | .loopModeAuto .. => show OutSame (commandMask .loop false) s _ from execLoopModeAuto_same (.refl _ s) rfl
  | .loopModeTrack .. => show OutSame (commandMask .loop false) s _ from execLoopModeTrack_same (.refl _ s) rfl
  | .lpeResume .. => show OutSame (commandMask .loop false) s _ from execLpeResume_same (.refl _ s) rfl
  | .loopEngineAbort .. => show OutSame (commandMask .loop false) s _ from execLoopEngineAbort_same (.refl _ s) rfl
  | .shadowStart .. => show OutSame (commandMask .loop false) s _ from execShadowStart_same (.refl _ s) rfl
  | .shadowStop .. => show OutSame (commandMask .loop false) s _ from execShadowStop_same (.refl _ s) rfl
  | .shadowEvaluation .. => show OutSame (commandMask .loop false) s _ from execShadowEvaluation_same (.refl _ s) rfl
  | .shadowComplete .. => show OutSame (commandMask .loop false) s _ from execShadowComplete_same (.refl _ s) rfl
  | .captureComplete .. => show OutSame (commandMask .loop false) s _ from execCaptureComplete_same (.refl _ s) rfl
  | .vintnerRetuneFit .. => show OutSame (commandMask .loop false) s _ from execVintnerRetuneFit_same (.refl _ s) rfl
  | .tryRetune .. => show OutSame (commandMask .loop false) s _ from execTryRetune_same (.refl _ s) rfl
  | .applyRetune .. => show OutSame (commandMask .loop false) s _ from execApplyRetune_same (.refl _ s) rfl
  | .revertRetune .. => show OutSame (commandMask .loop false) s _ from execRevertRetune_same (.refl _ s) rfl
  | .pressSample .. => show OutSame (commandMask .press false) s _ from execPressSample_same (.refl _ s) rfl
  | .gainStepUp .. => show OutSame (commandMask .press false) s _ from execGainStepUp_same (.refl _ s) rfl
  | .handoverEnd .. => show OutSame (commandMask .press false) s _ from execHandoverEnd_same (.refl _ s) rfl
  | .zeroCrossing .. => show OutSame (commandMask .press false) s _ from execZeroCrossing_same (.refl _ s) rfl
  | .prsDirChange .. => show OutSame (commandMask .press false) s _ from execPrsDirChange_same (.refl _ s) rfl
  | .prsPhaseLoss .. => show OutSame (commandMask .press false) s _ from execPrsPhaseLoss_same (.refl _ s) rfl
  | .pressPointsLost .. => show OutSame (commandMask .press false) s _ from execPressPointsLost_same (.refl _ s) rfl
  | .pulseStart .. => show OutSame (commandMask .press false) s _ from execPulseStart_same (.refl _ s) rfl
  | .pulseEnd .. => show OutSame (commandMask .press false) s _ from execPulseEnd_same (.refl _ s) rfl
  | .mdReset .. => show OutSame (commandMask .press false) s _ from execMdReset_same (.refl _ s) rfl
  | .tariffPush .. => show OutSame (commandMask .press false) s _ from execTariffPush_same (.refl _ s) rfl
  | .tariffClear .. => show OutSame (commandMask .press false) s _ from execTariffClear_same (.refl _ s) rfl
  | .accumulatorSnapshot .. => show OutSame (commandMask .press false) s _ from execAccumulatorSnapshot_same (.refl _ s) rfl
  | .snapshotComplete .. => show OutSame (commandMask .press false) s _ from execSnapshotComplete_same (.refl _ s) rfl
  | .elementActivation .. => show OutSame (commandMask .press false) s _ from execElementActivation_same (.refl _ s) rfl
  | .pressAbort .. => show OutSame (commandMask .press false) s _ from execPressAbort_same (.refl _ s) rfl
  | .periodicSave => show OutSame (commandMask .press false) s _ from execPeriodicSave_same (.refl _ s) rfl
  | .saveCommit .. => show OutSame (commandMask .press false) s _ from execSaveCommit_same (.refl _ s) rfl
  | .finalSaveCommand => show OutSame (commandMask .press false) s _ from execFinalSaveCommand_same (.refl _ s) rfl
  | .pressHoldFull => show OutSame (commandMask .press false) s _ from execPressHoldFull_same (.refl _ s) rfl
  | .pressRestoreComplete => show OutSame (commandMask .press false) s _ from execPressRestoreComplete_same (.refl _ s) rfl
  | .prsWatchStart => show OutSame (commandMask .press false) s _ from execPrsWatchStart_same (.refl _ s) rfl
  | .watchSecond .. => show OutSame (commandMask .press false) s _ from execWatchSecond_same (.refl _ s) rfl
  | .prsWatchEnd => show OutSame (commandMask .press false) s _ from execPrsWatchEnd_same (.refl _ s) rfl
  | .prsWatchLost .. => show OutSame (commandMask .press false) s _ from execPrsWatchLost_same (.refl _ s) rfl
  | .tastingRunComplete .. => show OutSame (commandMask .press false) s _ from execTastingRunComplete_same (.refl _ s) rfl
  | .tastingStart .. => show OutSame (commandMask .press false) s _ from execTastingStart_same (.refl _ s) rfl
  | .tastingSingle .. => show OutSame (commandMask .press false) s _ from execTastingSingle_same (.refl _ s) rfl
  | .tastingStop .. => show OutSame (commandMask .press false) s _ from execTastingStop_same (.refl _ s) rfl
  | .spSample .. => show OutSame (commandMask .safety false) s _ from execSpSample_same (.refl _ s) rfl
  | .slSample .. => show OutSame (commandMask .safety false) s _ from execSlSample_same (.refl _ s) rfl
  | .discrepancyTimeout .. => show OutSame (commandMask .safety false) s _ from execDiscrepancyTimeout_same (.refl _ s) rfl
  | .intermediateTimeout .. => show OutSame (commandMask .safety false) s _ from execIntermediateTimeout_same (.refl _ s) rfl
  | .syncWindowEnd .. => show OutSame (commandMask .safety false) s _ from execSyncWindowEnd_same (.refl _ s) rfl
  | .functionFaultClear .. => show OutSame (commandMask .safety false) s _ from execFunctionFaultClear_same (.refl _ s) rfl
  | .testPulseDrop .. => show OutSame (commandMask .safety false) s _ from execTestPulseDrop_same (.refl _ s) rfl
  | .tpCheckSample .. => show OutSame (commandMask .safety false) s _ from execTpCheckSample_same (.refl _ s) rfl
  | .crossLinkExchange .. => show OutSame (commandMask .safety false) s _ from execCrossLinkExchange_same (.refl _ s) rfl
  | .requestOff .. => show OutSame (commandMask .safety false) s _ from execRequestOff_same (.refl _ s) rfl
  | .fbTimeout .. => show OutSame (commandMask .safety false) s _ from execFbTimeout_same (.refl _ s) rfl
  | .switchTest .. => show OutSame (commandMask .safety false) s _ from execSwitchTest_same (.refl _ s) rfl
  | .degradedTimerExpiry .. => show OutSame (commandMask .safety false) s _ from execDegradedTimerExpiry_same (.refl _ s) rfl
  | .safetySelfTest .. => show OutSame (commandMask .safety false) s _ from execSafetySelfTest_same (.refl _ s) rfl
  | .safetyChannelStop .. => show OutSame (commandMask .safety false) s _ from execSafetyChannelStop_same (.refl _ s) rfl
  | .safetySupplyStart .. => show OutSame (commandMask .safety false) s _ from execSafetySupplyStart_same (.refl _ s) rfl
  | .safetySupplyStop .. => show OutSame (commandMask .safety false) s _ from execSafetySupplyStop_same (.refl _ s) rfl
  | .pendingMapDelivery => show OutSame (commandMask .safety false) s _ from execPendingMapDelivery_same (.refl _ s) rfl
  | .openSession .. => show OutSame (commandMask .safety false) s _ from execOpenSession_same (.refl _ s) rfl
  | .showPending => show OutSame (commandMask .safety false) s _ from execShowPending_same (.refl _ s) rfl
  | .acceptMap .. => show OutSame (commandMask .safety false) s _ from execAcceptMap_same (.refl _ s) rfl
  | .setPassword .. => show OutSame (commandMask .safety false) s _ from execSetPassword_same (.refl _ s) rfl
  | .resetLockout .. => show OutSame (commandMask .safety false) s _ from execResetLockout_same (.refl _ s) rfl
  | .readLog .. => show OutSame (commandMask .safety false) s _ from execReadLog_same (.refl _ s) rfl
  | .closeSession => show OutSame (commandMask .safety false) s _ from execCloseSession_same (.refl _ s) rfl
  | .safTimeout => show OutSame (commandMask .safety false) s _ from execSafTimeout_same (.refl _ s) rfl
  | .keyswitchRelease .. => show OutSame (commandMask .safety false) s _ from execKeyswitchRelease_same (.refl _ s) rfl
  | .pwBlockExpiry => show OutSame (commandMask .safety false) s _ from execPwBlockExpiry_same (.refl _ s) rfl
  | .safetyIslandAbort .. => show OutSame (commandMask .safety false) s _ from execSafetyIslandAbort_same (.refl _ s) rfl
  | .safetyStatusReport => show OutSame (commandMask .safety false) s _ from execSafetyStatusReport_same (.refl _ s) rfl
  | .mirrorStale => show OutSame (commandMask .safety false) s _ from execMirrorStale_same (.refl _ s) rfl
  | .ringFrameReceived .. => show OutSame (commandMask .ring false) s _ from execRingFrameReceived_same (.refl _ s) rfl
  | .dupEntryTimeout .. => show OutSame (commandMask .ring false) s _ from execDupEntryTimeout_same (.refl _ s) rfl
  | .leesHoldTimeout .. => show OutSame (commandMask .ring false) s _ from execLeesHoldTimeout_same (.refl _ s) rfl
  | .suspectClear .. => show OutSame (commandMask .ring false) s _ from execSuspectClear_same (.refl _ s) rfl
  | .heartbeatSend => show OutSame (commandMask .ring false) s _ from execHeartbeatSend_same (.refl _ s) rfl
  | .supervisionFrameSend => show OutSame (commandMask .ring false) s _ from execSupervisionFrameSend_same (.refl _ s) rfl
  | .netPathFail .. => show OutSame (commandMask .ring false) s _ from execNetPathFail_same (.refl _ s) rfl
  | .netPathUp .. => show OutSame (commandMask .ring false) s _ from execNetPathUp_same (.refl _ s) rfl
  | .linkUp .. => show OutSame (commandMask .ring false) s _ from execLinkUp_same (.refl _ s) rfl
  | .linkDown .. => show OutSame (commandMask .ring false) s _ from execLinkDown_same (.refl _ s) rfl
  | .bypassRelease => show OutSame (commandMask .ring false) s _ from execBypassRelease_same (.refl _ s) rfl
  | .bypHoldSet .. => show OutSame (commandMask .ring false) s _ from execBypHoldSet_same (.refl _ s) rfl
  | .egressTransmit .. => show OutSame (commandMask .ring false) s _ from execEgressTransmit_same (.refl _ s) rfl
  | .flowSend .. => show OutSame (commandMask .admission false) s _ from execFlowSend_same (.refl _ s) rfl
  | .flowRekey .. => show OutSame (commandMask .admission false) s _ from execFlowRekey_same (.refl _ s) rfl
  | .admitFlow .. => show OutSame (commandMask .admission false) s _ from execAdmitFlow_same (.refl _ s) rfl
  | .releaseFlow .. => show OutSame (commandMask .admission false) s _ from execReleaseFlow_same (.refl _ s) rfl
  | .admissionDecision => show OutSame (commandMask .admission false) s _ from execAdmissionDecision_same (.refl _ s) rfl
  | .bindReceived .. => show OutSame (commandMask .admission false) s _ from execBindReceived_same (.refl _ s) rfl
  | .bindAnswer .. => show OutSame (commandMask .admission false) s _ from execBindAnswer_same (.refl _ s) rfl
  | .bindTimeout .. => show OutSame (commandMask .admission false) s _ from execBindTimeout_same (.refl _ s) rfl
  | .fmpRead .. => show OutSame (commandMask .fmp false) s _ from execFmpRead_same (.refl _ s) rfl
  | .fmpWrite .. => show OutSame (commandMask .fmp true) s _ from execFmpWrite_same (.refl _ s) rfl
  | .fmpAdmit .. => show OutSame (commandMask .fmp false) s _ from execFmpAdmit_same (.refl _ s) rfl
  | .fmpRelease .. => show OutSame (commandMask .fmp false) s _ from execFmpRelease_same (.refl _ s) rfl
  | .safetyMsg .. => show OutSame (commandMask .fmp false) s _ from execSafetyMsg_same (.refl _ s) rfl
  | .pathTestStart .. => show OutSame (commandMask .ring false) s _ from execPathTestStart_same (.refl _ s) rfl
  | .pathTestFrameSend => show OutSame (commandMask .ring false) s _ from execPathTestFrameSend_same (.refl _ s) rfl
  | .pathTestEnd => show OutSame (commandMask .ring false) s _ from execPathTestEnd_same (.refl _ s) rfl
  | .ringMacAbort .. => show OutSame (commandMask .admission false) s _ from execRingMacAbort_same (.refl _ s) rfl
  | .syncReceived .. => show OutSame (commandMask .time false) s _ from execSyncReceived_same (.refl _ s) rfl
  | .syncMissing .. => show OutSame (commandMask .time false) s _ from execSyncMissing_same (.refl _ s) rfl
  | .timHoldover .. => show OutSame (commandMask .time false) s _ from execTimHoldover_same (.refl _ s) rfl
  | .announceReceived .. => show OutSame (commandMask .time false) s _ from execAnnounceReceived_same (.refl _ s) rfl
  | .announceTimeout .. => show OutSame (commandMask .time false) s _ from execAnnounceTimeout_same (.refl _ s) rfl
  | .slewComplete .. => show OutSame (commandMask .time false) s _ from execSlewComplete_same (.refl _ s) rfl
  | .holdSecond .. => show OutSame (commandMask .time false) s _ from execHoldSecond_same (.refl _ s) rfl
  | .timUntrusted .. => show OutSame (commandMask .time false) s _ from execTimUntrusted_same (.refl _ s) rfl
  | .pdelayRequestSend => show OutSame (commandMask .time false) s _ from execPdelayRequestSend_same (.refl _ s) rfl
  | .pdelayMessageReceived .. => show OutSame (commandMask .time false) s _ from execPdelayMessageReceived_same (.refl _ s) rfl
  | .syncSend .. => show OutSame (commandMask .time false) s _ from execSyncSend_same (.refl _ s) rfl
  | .setDomain .. => show OutSame (commandMask .time false) s _ from execSetDomain_same (.refl _ s) rfl
  | .setTrustDomain .. => show OutSame (commandMask .time false) s _ from execSetTrustDomain_same (.refl _ s) rfl
  | .adjustDomain .. => show OutSame (commandMask .time false) s _ from execAdjustDomain_same (.refl _ s) rfl
  | .nowLoRead .. => show OutSame (commandMask .time false) s _ from execNowLoRead_same (.refl _ s) rfl
  | .xsnap .. => show OutSame (commandMask .time false) s _ from execXsnap_same (.refl _ s) rfl
  | .timeCapture .. => show OutSame (commandMask .time false) s _ from execTimeCapture_same (.refl _ s) rfl
  | .captureRead .. => show OutSame (commandMask .time false) s _ from execCaptureRead_same (.refl _ s) rfl
  | .celToBattery .. => show OutSame (commandMask .cellar false) s _ from execCelToBattery_same (.refl _ s) rfl
  | .celToMain .. => show OutSame (commandMask .cellar false) s _ from execCelToMain_same (.refl _ s) rfl
  | .pendedEvent => show OutSame (commandMask .cellar false) s _ from execPendedEvent_same (.refl _ s) rfl
  | .vbatMeasure .. => show OutSame (commandMask .cellar false) s _ from execVbatMeasure_same (.refl _ s) rfl
  | .rtcSecond .. => show OutSame (commandMask .cellar false) s _ from execRtcSecond_same (.refl _ s) rfl
  | .loadCalendar .. => show OutSame (commandMask .cellar false) s _ from execLoadCalendar_same (.refl _ s) rfl
  | .syncCalendar .. => show OutSame (commandMask .cellar false) s _ from execSyncCalendar_same (.refl _ s) rfl
  | .syncTakesEffect => show OutSame (commandMask .cellar false) s _ from execSyncTakesEffect_same (.refl _ s) rfl
  | .dstAdd .. => show OutSame (commandMask .cellar false) s _ from execDstAdd_same (.refl _ s) rfl
  | .dstSub .. => show OutSame (commandMask .cellar false) s _ from execDstSub_same (.refl _ s) rfl
  | .rtcTimeRead .. => show OutSame (commandMask .cellar false) s _ from execRtcTimeRead_same (.refl _ s) rfl
  | .celZoneWrite .. => show OutSame (commandMask .cellar false) s _ from execCelZoneWrite_same (.refl _ s) rfl
  | .celTrimWrite .. => show OutSame (commandMask .cellar false) s _ from execCelTrimWrite_same (.refl _ s) rfl
  | .celTrimCfgWrite .. => show OutSame (commandMask .cellar false) s _ from execCelTrimCfgWrite_same (.refl _ s) rfl
  | .celOscStop .. => show OutSame (commandMask .cellar false) s _ from execCelOscStop_same (.refl _ s) rfl
  | .oscRestart => show OutSame (commandMask .cellar false) s _ from execOscRestart_same (.refl _ s) rfl
  | .trimWindowEnd .. => show OutSame (commandMask .cellar false) s _ from execTrimWindowEnd_same (.refl _ s) rfl
  | .eventRecordQueued => show OutSame (commandMask .recorder false) s _ from execEventRecordQueued_same (.refl _ s) rfl
  | .eventRecordWrite => show OutSame (commandMask .recorder false) s _ from execEventRecordWrite_same (.refl _ s) rfl
  | .opsecSave => show OutSame (commandMask .cellar false) s _ from execOpsecSave_same (.refl _ s) rfl
  | .celTimeMark => show OutSame (commandMask .recorder false) s _ from execCelTimeMark_same (.refl _ s) rfl
  | .queryStart .. => show OutSame (commandMask .recorder false) s _ from execQueryStart_same (.refl _ s) rfl
  | .queryNext .. => show OutSame (commandMask .recorder false) s _ from execQueryNext_same (.refl _ s) rfl
  | .queryEnd .. => show OutSame (commandMask .recorder false) s _ from execQueryEnd_same (.refl _ s) rfl
  | .queryRecordReady .. => show OutSame (commandMask .recorder false) s _ from execQueryRecordReady_same (.refl _ s) rfl
  | .cellarAbort .. => show OutSame (commandMask .recorder false) s _ from execCellarAbort_same (.refl _ s) rfl
  | .leapCheck => show OutSame (commandMask .cellar false) s _ from execLeapCheck_same (.refl _ s) rfl
  | .calendarCheck => show OutSame (commandMask .cellar false) s _ from execCalendarCheck_same (.refl _ s) rfl
  | .canFrameReceived .. => show OutSame (commandMask .fieldBus false) s _ from execCanFrameReceived_same (.refl _ s) rfl
  | .canPeriodicTrigger .. => show OutSame (commandMask .fieldBus false) s _ from execCanPeriodicTrigger_same (.refl _ s) rfl
  | .canTxComplete .. => show OutSame (commandMask .fieldBus false) s _ from execCanTxComplete_same (.refl _ s) rfl
  | .canTxError .. => show OutSame (commandMask .fieldBus false) s _ from execCanTxError_same (.refl _ s) rfl
  | .canBusOff .. => show OutSame (commandMask .fieldBus false) s _ from execCanBusOff_same (.refl _ s) rfl
  | .canBusWatchdog .. => show OutSame (commandMask .fieldBus false) s _ from execCanBusWatchdog_same (.refl _ s) rfl
  | .canSupplyFail .. => show OutSame (commandMask .fieldBus false) s _ from execCanSupplyFail_same (.refl _ s) rfl
  | .canRecoveryComplete .. => show OutSame (commandMask .fieldBus false) s _ from execCanRecoveryComplete_same (.refl _ s) rfl
  | .fbsChStart .. => show OutSame (commandMask .fieldBus false) s _ from execFbsChStart_same (.refl _ s) rfl
  | .fbsChStop .. => show OutSame (commandMask .fieldBus false) s _ from execFbsChStop_same (.refl _ s) rfl
  | .recoverChannel .. => show OutSame (commandMask .fieldBus false) s _ from execRecoverChannel_same (.refl _ s) rfl
  | .ttCycleStart .. => show OutSame (commandMask .fieldBus false) s _ from execTtCycleStart_same (.refl _ s) rfl
  | .ttTxWindow .. => show OutSame (commandMask .fieldBus false) s _ from execTtTxWindow_same (.refl _ s) rfl
  | .ttRxWindowEnd .. => show OutSame (commandMask .fieldBus false) s _ from execTtRxWindowEnd_same (.refl _ s) rfl
  | .fbsTtResync .. => show OutSame (commandMask .fieldBus false) s _ from execFbsTtResync_same (.refl _ s) rfl
  | .marginScanStart .. => show OutSame (commandMask .fieldBus false) s _ from execMarginScanStart_same (.refl _ s) rfl
  | .marginScanStop .. => show OutSame (commandMask .fieldBus false) s _ from execMarginScanStop_same (.refl _ s) rfl
  | .marginScanComplete .. => show OutSame (commandMask .fieldBus false) s _ from execMarginScanComplete_same (.refl _ s) rfl
  | .marginScanTimeout => show OutSame (commandMask .fieldBus false) s _ from execMarginScanTimeout_same (.refl _ s) rfl
  | .daliPoll .. => show OutSame (commandMask .building false) s _ from execDaliPoll_same (.refl _ s) rfl
  | .daliBackwardFrame .. => show OutSame (commandMask .building false) s _ from execDaliBackwardFrame_same (.refl _ s) rfl
  | .daliEventMessage .. => show OutSame (commandMask .building false) s _ from execDaliEventMessage_same (.refl _ s) rfl
  | .daliLevelCommand .. => show OutSame (commandMask .building false) s _ from execDaliLevelCommand_same (.refl _ s) rfl
  | .bsiDaliFail .. => show OutSame (commandMask .building false) s _ from execBsiDaliFail_same (.refl _ s) rfl
  | .daliBusRestored .. => show OutSame (commandMask .building false) s _ from execDaliBusRestored_same (.refl _ s) rfl
  | .osdpPoll .. => show OutSame (commandMask .building false) s _ from execOsdpPoll_same (.refl _ s) rfl
  | .osdpReply .. => show OutSame (commandMask .building false) s _ from execOsdpReply_same (.refl _ s) rfl
  | .osdpReplyTimeout .. => show OutSame (commandMask .building false) s _ from execOsdpReplyTimeout_same (.refl _ s) rfl
  | .osdpScSetup .. => show OutSame (commandMask .building false) s _ from execOsdpScSetup_same (.refl _ s) rfl
  | .accessDecision .. => show OutSame (commandMask .building false) s _ from execAccessDecision_same (.refl _ s) rfl
  | .strikeExpiry .. => show OutSame (commandMask .building false) s _ from execStrikeExpiry_same (.refl _ s) rfl
  | .bsiPortStart .. => show OutSame (commandMask .building false) s _ from execBsiPortStart_same (.refl _ s) rfl
  | .bsiPortStop .. => show OutSame (commandMask .building false) s _ from execBsiPortStop_same (.refl _ s) rfl
  | .install .. => show OutSame (commandMask .building false) s _ from execInstall_same (.refl _ s) rfl
  | .installTimeout .. => show OutSame (commandMask .building false) s _ from execInstallTimeout_same (.refl _ s) rfl
  | .credAdd .. => show OutSame (commandMask .building false) s _ from execCredAdd_same (.refl _ s) rfl
  | .credDelete .. => show OutSame (commandMask .building false) s _ from execCredDelete_same (.refl _ s) rfl
  | .credReplace .. => show OutSame (commandMask .building false) s _ from execCredReplace_same (.refl _ s) rfl
  | .credTableRestore => show OutSame (commandMask .building false) s _ from execCredTableRestore_same (.refl _ s) rfl
  | .fieldBusAbort .. => show OutSame (commandMask .fieldBus false) s _ from execFieldBusAbort_same (.refl _ s) rfl
  | .provision .. => show OutSame (commandMask .keys false) s _ from execProvision_same (.refl _ s) rfl
  | .serviceEnter .. => show OutSame (commandMask .keys false) s _ from execServiceEnter_same (.refl _ s) rfl
  | .serviceExit .. => show OutSame (commandMask .keys false) s _ from execServiceExit_same (.refl _ s) rfl
  | .serviceTimeout => show OutSame (commandMask .keys false) s _ from execServiceTimeout_same (.refl _ s) rfl
  | .retire .. => show OutSame (commandMask .keys false) s _ from execRetire_same (.refl _ s) rfl
  | .acceptIdentity .. => show OutSame (commandMask .keys false) s _ from execAcceptIdentity_same (.refl _ s) rfl
  | .attest .. => show OutSame (commandMask .keys false) s _ from execAttest_same (.refl _ s) rfl
  | .attestComplete => show OutSame (commandMask .keys false) s _ from execAttestComplete_same (.refl _ s) rfl
  | .clearA .. => show OutSame (commandMask .keys false) s _ from execClearA_same (.refl _ s) rfl
  | .armMonitors .. => show OutSame (commandMask .keys false) s _ from execArmMonitors_same (.refl _ s) rfl
  | .invalidateSess .. => show OutSame (commandMask .keys false) s _ from execInvalidateSess_same (.refl _ s) rfl
  | .invalidateRdr .. => show OutSame (commandMask .keys false) s _ from execInvalidateRdr_same (.refl _ s) rfl
  | .rollStage .. => show OutSame (commandMask .keys false) s _ from execRollStage_same (.refl _ s) rfl
  | .roll .. => show OutSame (commandMask .keys false) s _ from execRoll_same (.refl _ s) rfl
  | .rollActivation => show OutSame (commandMask .keys false) s _ from execRollActivation_same (.refl _ s) rfl
  | .importKey .. => show OutSame (commandMask .keys false) s _ from execImportKey_same (.refl _ s) rfl
  | .deleteKey .. => show OutSame (commandMask .keys false) s _ from execDeleteKey_same (.refl _ s) rfl
  | .exportKey .. => show OutSame (commandMask .keys true) s _ from execExportKey_same (.refl _ s) rfl
  | .encrypt .. => show OutSame (commandMask .keys false) s _ from execEncrypt_same (.refl _ s) rfl
  | .decrypt .. => show OutSame (commandMask .keys false) s _ from execDecrypt_same (.refl _ s) rfl
  | .sign .. => show OutSame (commandMask .keys false) s _ from execSign_same (.refl _ s) rfl
  | .verify .. => show OutSame (commandMask .keys false) s _ from execVerify_same (.refl _ s) rfl
  | .computeMac .. => show OutSame (commandMask .keys false) s _ from execComputeMac_same (.refl _ s) rfl
  | .keyOpComplete .. => show OutSame (commandMask .keys true) s _ from execKeyOpComplete_same (.refl _ s) rfl
  | .cachePurgeComplete => show OutSame (commandMask .keys false) s _ from execCachePurgeComplete_same (.refl _ s) rfl
  | .unseal => show OutSame (commandMask .keys false) s _ from execUnseal_same (.refl _ s) rfl
  | .remask => show OutSame (commandMask .keys false) s _ from execRemask_same (.refl _ s) rfl
  | .meshSample .. => show OutSame (commandMask .keys false) s _ from execMeshSample_same (.refl _ s) rfl
  | .lidOpen .. => show OutSame (commandMask .keys false) s _ from execLidOpen_same (.refl _ s) rfl
  | .glitchDetected .. => show OutSame (commandMask .keys false) s _ from execGlitchDetected_same (.refl _ s) rfl
  | .keyEngineAbort .. => show OutSame (commandMask .keys false) s _ from execKeyEngineAbort_same (.refl _ s) rfl
  | .serviceSessionOpen .. => show OutSame (commandMask .keys false) s _ from execServiceSessionOpen_same (.refl _ s) rfl
  | .serviceSessionTimeout .. => show OutSame (commandMask .keys false) s _ from execServiceSessionTimeout_same (.refl _ s) rfl
  | .rackBegin .. => show OutSame (commandMask .racking false) s _ from execRackBegin_same (.refl _ s) rfl
  | .rackFrag .. => show OutSame (commandMask .racking false) s _ from execRackFrag_same (.refl _ s) rfl
  | .verifyComplete .. => show OutSame (commandMask .racking false) s _ from execVerifyComplete_same (.refl _ s) rfl
  | .rackActivate .. => show OutSame (commandMask .racking false) s _ from execRackActivate_same (.refl _ s) rfl
  | .rackActivation => show OutSame (commandMask .racking false) s _ from execRackActivation_same (.refl _ s) rfl
  | .rackCancel .. => show OutSame (commandMask .racking false) s _ from execRackCancel_same (.refl _ s) rfl
  | .rackConfirm .. => show OutSame (commandMask .racking false) s _ from execRackConfirm_same (.refl _ s) rfl
  | .rackRevert .. => show OutSame (commandMask .racking false) s _ from execRackRevert_same (.refl _ s) rfl
  | .confirmationExpiry => show OutSame (commandMask .racking false) s _ from execConfirmationExpiry_same (.refl _ s) rfl
  | .bootCompletion => show OutSame (commandMask .racking false) s _ from execBootCompletion_same (.refl _ s) rfl
  | .updAbort .. => show OutSame (commandMask .racking false) s _ from execUpdAbort_same (.refl _ s) rfl
  | .vinStart .. => show OutSame (commandMask .power false) s _ from execVinStart_same (.refl _ s) rfl
  | .pwrVinWarn .. => show OutSame (commandMask .power false) s _ from execPwrVinWarn_same (.refl _ s) rfl
  | .pwrVinClear .. => show OutSame (commandMask .power false) s _ from execPwrVinClear_same (.refl _ s) rfl
  | .holdupEnd => show OutSame (commandMask .power false) s _ from execHoldupEnd_same (.refl _ s) rfl
  | .alwaysOnRailStop .. => show OutSame (commandMask .power false) s _ from execAlwaysOnRailStop_same (.refl _ s) rfl
  | .pwrFsupLow .. => show OutSame (commandMask .power false) s _ from execPwrFsupLow_same (.refl _ s) rfl
  | .fsupRestored .. => show OutSame (commandMask .power false) s _ from execFsupRestored_same (.refl _ s) rfl
  | .resetPin .. => show OutSame (commandMask .power false) s _ from execResetPin_same (.refl _ s) rfl
  | .watchdogReset => show OutSame (commandMask .power false) s _ from execWatchdogReset_same (.refl _ s) rfl
  | .exceptionReset => show OutSame (commandMask .power false) s _ from execExceptionReset_same (.refl _ s) rfl
  | .sysReset .. => show OutSame (commandMask .power false) s _ from execSysReset_same (.refl _ s) rfl
  | .logicReset => show OutSame (commandMask .power true) s _ from execLogicReset_same (.refl _ s) rfl
  | .startUp .. => show OutSame (commandMask .power true) s _ from execStartUp_same (.refl _ s) rfl
  | .wakeAdmission .. => show OutSame (commandMask .power false) s _ from execWakeAdmission_same (.refl _ s) rfl
  | .islandRun .. => show OutSame (commandMask .power false) s _ from execIslandRun_same (.refl _ s) rfl
  | .wakeRelease .. => show OutSame (commandMask .power false) s _ from execWakeRelease_same (.refl _ s) rfl
  | .pwrIslandFail .. => show OutSame (commandMask .power false) s _ from execPwrIslandFail_same (.refl _ s) rfl
  | .standby .. => show OutSame (commandMask .power false) s _ from execStandby_same (.refl _ s) rfl
  | .resumeFromStandby .. => show OutSame (commandMask .power false) s _ from execResumeFromStandby_same (.refl _ s) rfl
  | .trellisAbort .. => show OutSame (commandMask .trellisAbort false) s _ from execTrellisAbort_same (.refl _ s) rfl
  | .abortDoneTimeout => show OutSame (commandMask .power false) s _ from execAbortDoneTimeout_same (.refl _ s) rfl
  | .moduleWithdrawal => show OutSame (commandMask .power false) s _ from execModuleWithdrawal_same (.refl _ s) rfl
  | .safetyWindowWatchdog => show OutSame (commandMask .safety false) s _ from execSafetyWindowWatchdog_same (.refl _ s) rfl
  | .keyswitchEngage .. => show OutSame (commandMask .safety false) s _ from execKeyswitchEngage_same (.refl _ s) rfl
  | .canRxError .. => show OutSame (commandMask .fieldBus false) s _ from execCanRxError_same (.refl _ s) rfl
  | .pwmPhaseEdge .. => show OutSame (commandMask .trellis false) s _ from execPwmPhaseEdge_same (.refl _ s) rfl
  | .ttArbitratingWindowStart .. =>
    show OutSame (commandMask .fieldBus false) s _ from execTtArbitratingWindowStart_same (.refl _ s) rfl
  | .daliStartCommandDue .. => show OutSame (commandMask .building false) s _ from execDaliStartCommandDue_same (.refl _ s) rfl
  | .pressConverterFault .. => show OutSame (commandMask .press false) s _ from execPressConverterFault_same (.refl _ s) rfl
  | .safetyChannelRestart .. => show OutSame (commandMask .safety false) s _ from execSafetyChannelRestart_same (.refl _ s) rfl

theorem commandMask_or_chapterMask (k : Chapter) (w : Bool) : commandMask k w ||| chapterMask k = chapterMask k := by
  cases w <;> cases k <;> rfl

/-- So it leaves each component outside its chapter's mask as it is. -/
theorem exec_chapterMask {c : Instr} {s t : State} {k : Chapter} (h : exec c s = .next t) (hk : chapterOf c = k) :
    Same (chapterMask k) s t := by
  subst hk
  exact ((exec_commandMask c s).of h).mono (commandMask_or_chapterMask ..)

/-- Settles O55: each clause reads the components off its chapter's mask. -/
theorem chaptersLeaveOtherChaptersAlone : Obligations.ChaptersLeaveOtherChaptersAlone := by
  intro c s t h
  and_intros
  all_goals
    intro hc
    have m := exec_chapterMask h hc
    simp [m.sys, m.mem, m.img, m.trl, m.pge, m.lpe, m.prs, m.saf, m.cel, m.key, m.stn, m.fbs, m.net, m.tim, m.upd, m.pwr,
      chapterMask, Nat.testBit]

end Sys2Proof.Machine
end

section
/-!
The canonical form of the three memories: every operation that writes one writes bytes into it, which keeps the form, and what
leaves the memories alone keeps it by its law under Laws/Frame (R45, R127, R129, R439). `canonState_f` says so of operation `f`,
chapter by chapter.
-/
namespace Sys2Proof.Machine

/-! ### What keeps the form -/

/-- What leaves the memories as they are keeps their form (mask: bit 6 of `Same` clear). -/
theorem canonState_of_same {s t : State} (k : Same 0x1FFFBF s t) (h : CanonState s) : CanonState t := by
  unfold CanonState
  rw [k.mem rfl]
  exact h

theorem canonState_of_outSame {s : State} {o : Out} (k : OutSame 0x1FFFBF s o) (h : CanonState s) : CanonState (after o s) := by
  cases o with
  | next t => exact canonState_of_same k h
  | fault => exact h
  | refused => exact h

theorem canonState_writeDram {s : State} (h : CanonState s) (a : Nat) (bs : List Byte) :
    CanonState { s with mem.dram := memWriteBytes s.mem.dram a bs } := by
  obtain ⟨hd, hi, hf⟩ := h
  exact ⟨memWf_memWriteBytes bs _ a hd, hi, hf⟩

theorem canonState_writeInst {s : State} (h : CanonState s) (a : Nat) (bs : List Byte) :
    CanonState { s with mem.inst := memWriteBytes s.mem.inst a bs } := by
  obtain ⟨hd, hi, hf⟩ := h
  exact ⟨hd, memWf_memWriteBytes bs _ a hi, hf⟩

/-- Lines written one after another keep the form of a memory. -/
theorem memWf_writeLines {m : List Host.Cell} (hm : memWf m = true) (c : Nat) (ls : List (Nat × List Byte)) :
    memWf (ls.foldl (fun m e => memWriteBytes m (instKey c e.1) e.2) m) = true :=
  foldl_keeps (P := (memWf · = true)) (fun m e => memWf_memWriteBytes e.2 m (instKey c e.1)) ls hm

theorem canonState_writeLines {s : State} (h : CanonState s) (c : Nat) (ls : List (Nat × List Byte)) :
    CanonState { s with mem.fram := ls.foldl (fun m e => memWriteBytes m (instKey c e.1) e.2) s.mem.fram } := by
  obtain ⟨hd, hi, hf⟩ := h
  exact ⟨hd, hi, memWf_writeLines hf c ls⟩

theorem canonState_regCmd {iss : Issuer} {b : Block} {off : Nat} {op : State → State} {s : State}
    (hop : ∀ s, CanonState s → CanonState (op s)) (h : CanonState s) (t : State) :
    CanonState (after (regCmd iss b off op s) t) := by
  obtain ⟨u, e, hu | hu | hu⟩ := regCmd_next iss b off op s <;> rw [e, after_next, hu]
  · exact hop _ h
  · exact h
  · exact canonState_of_same (busDenied_same (.refl _ _) rfl) h

/-! ### Instructions of the program engine -/

theorem canonState_instr {p : Fin 2} {n : Nat} {f : Item → Ctx → State → State} {s : State}
    (hf : ∀ i c s, CanonState s → CanonState (f i c s)) (h : CanonState s) : CanonState (after (instr p n f s) s) := by
  rw [instr, after_next]
  split
  · split
    · exact hf _ _ _ (canonState_of_same (setCtx_same (charge_same (.refl _ _) rfl) rfl) h)
    · exact h
  · exact h

theorem canonState_setCtx {s : State} (h : CanonState s) (p : Fin 2) (c : Ctx) : CanonState (setCtx p c s) :=
  canonState_of_same (setCtx_same (.refl _ _) rfl) h

theorem canonState_updTask {s : State} (h : CanonState s) (n : Nat) (f : TaskSt → TaskSt) : CanonState (updTask n f s) :=
  canonState_of_same (updTask_same (.refl _ _) rfl) h

theorem canonState_memDenied {s : State} (h : CanonState s) (i : Item) (a : Nat) : CanonState (memDenied i a s) :=
  canonState_of_same (memDenied_same (.refl _ _) rfl) h

theorem canonState_instStore {s : State} (h : CanonState s) (c a n v : Nat) : CanonState (instStore c a n v s) :=
  canonState_writeInst h ..

theorem canonState_taskStore {s : State} (h : CanonState s) (n a k v : Nat) : CanonState (taskStore n a k v s) := by
  rw [taskStore]
  split
  · exact canonState_instStore h ..
  · exact canonState_updTask (canonState_instStore h ..) ..

theorem canonState_withElement {s : State} {k : State → State} (hk : ∀ s, CanonState s → CanonState (k s)) (h : CanonState s)
    (i : Item) (c : Ctx) (a n : Nat) : CanonState (withElement i c a n k s) := by
  rw [withElement]
  split
  · exact hk s h
  · exact canonState_memDenied h ..

theorem canonState_storeOp {s : State} (h : CanonState s) (p : Fin 2) (n : Nat) (d : Fin 16) (m : MemOpnd) :
    CanonState (after (storeOp p n d m s) s) :=
  canonState_instr (fun i c s h => by
    dsimp only
    split
    · exact canonState_taskStore h ..
    · exact canonState_memDenied h ..) h

theorem canonState_execOpStb {s : State} (h : CanonState s) (p : Fin 2) (b : Fin 8) (x : BitOpnd) :
    CanonState (after (execOpStb p b x s) s) :=
  canonState_instr (fun i c s h => by
    cases x with
    | b k => exact canonState_setCtx h ..
    | mem m bit =>
      dsimp only
      split
      · exact canonState_taskStore h ..
      · exact canonState_memDenied h ..) h

theorem canonState_putFlags {s : State} (h : CanonState s) (c off bit : Nat) (v : Bool) : CanonState (putFlags c off bit v s) :=
  canonState_instStore h ..

theorem canonState_endRoutine {s : State} (h : CanonState s) (p : Fin 2) (n : Nat) (w : InstRec) :
    CanonState (endRoutine p n w s) :=
  canonState_of_same (nextRoutine_same (updTask_same (.refl _ _) rfl) rfl) (canonState_putFlags h (n / 32) w.off 1 true)

theorem canonState_execOpRet {s : State} (h : CanonState s) (p : Fin 2) : CanonState (after (execOpRet p s) s) :=
  canonState_instr (fun i c s h => by
    dsimp only
    split
    · refine canonState_setCtx ?_ ..
      split
      · exact canonState_putFlags h ..
      · exact h
    · split
      · exact canonState_endRoutine (canonState_setCtx h ..) ..
      · exact canonState_of_same (updCyc_same (.refl _ _) rfl) h) h

theorem canonState_timerOp {s : State} (h : CanonState s) (p : Fin 2) (m : MemOpnd) (inp q : Fin 8)
    (f : DWord → Bool → Timer → Timer) : CanonState (after (timerOp p m inp q f s) s) :=
  canonState_instr (fun _ _ _ h =>
    canonState_withElement (fun _ h => canonState_setCtx (canonState_taskStore (canonState_taskStore h ..) ..) ..) h ..) h

theorem canonState_edgeOp {s : State} (h : CanonState s) (p : Fin 2) (m : MemOpnd) (inp q : Fin 8) (f : Bool → Bool → Bool) :
    CanonState (after (edgeOp p m inp q f s) s) :=
  canonState_instr (fun _ _ _ h =>
    canonState_withElement (fun _ h => canonState_setCtx (canonState_taskStore h ..) ..) h ..) h

theorem canonState_counterOp {s : State} (h : CanonState s) (p : Fin 2) (m : MemOpnd) (f : Ctx → Counter → Counter)
    (out : Counter → Ctx → Ctx) : CanonState (after (counterOp p m f out s) s) :=
  canonState_instr (fun _ _ _ h =>
    canonState_withElement (fun _ h => canonState_setCtx (canonState_taskStore (canonState_taskStore h ..) ..) ..) h ..) h

theorem canonState_execOpRtrig {s : State} (h : CanonState s) (p : Fin 2) (m : MemOpnd) (inp q : Fin 8) :
    CanonState (after (execOpRtrig p m inp q s) s) := canonState_edgeOp h ..

theorem canonState_execOpFtrig {s : State} (h : CanonState s) (p : Fin 2) (m : MemOpnd) (inp q : Fin 8) :
    CanonState (after (execOpFtrig p m inp q s) s) := canonState_edgeOp h ..

theorem canonState_execOpCtu {s : State} (h : CanonState s) (p : Fin 2) (m : MemOpnd) (cu r q : Fin 8) :
    CanonState (after (execOpCtu p m cu r q s) s) := canonState_counterOp h ..

theorem canonState_execOpCtd {s : State} (h : CanonState s) (p : Fin 2) (m : MemOpnd) (cd ld q : Fin 8) :
    CanonState (after (execOpCtd p m cd ld q s) s) := canonState_counterOp h ..

theorem canonState_execOpCtud {s : State} (h : CanonState s) (p : Fin 2) (m : MemOpnd) (cu cd r ld qu qd : Fin 8) :
    CanonState (after (execOpCtud p m cu cd r ld qu qd s) s) := canonState_counterOp h ..

/-! ### Starts of casks and program exchange -/

theorem canonState_noteLines {s : State} (h : CanonState s) (n : Nat) (ls : List Nat) : CanonState (noteLines n ls s) :=
  canonState_updTask h ..

theorem canonState_instPut {s : State} (h : CanonState s) (c a : Nat) (bs : List Byte) : CanonState (instPut c a bs s) :=
  canonState_writeInst h ..

theorem canonState_initInst {s : State} (h : CanonState s) (c task flags : Nat) (r : InstRec) :
    CanonState (initInst c task flags r s) := canonState_instPut h ..

theorem canonState_initRet {s : State} (h : CanonState s) (c : Nat) (r : InstRec) : CanonState (initRet c r s) := by
  rw [initRet]
  split
  · exact canonState_instPut h ..
  · exact h

theorem canonState_warmRet {s : State} (h : CanonState s) (n : Nat) (r : InstRec) : CanonState (warmRet n r s) := by
  rw [warmRet]
  split
  · exact h
  · split
    · exact canonState_instPut h ..
    · exact canonState_of_same (record_same (.refl _ _) rfl) (canonState_noteLines (canonState_initRet h ..) ..)

theorem canonState_startInsts {s : State} (h : CanonState s) (n : Nat) (cold : Bool) : CanonState (startInsts n cold s) :=
  foldl_keeps (fun s r h => by
    have hi := canonState_initInst h (n / 32) (n % 32) 1 r
    dsimp only
    split
    · exact canonState_noteLines (canonState_initRet hi ..) ..
    · exact canonState_warmRet hi ..) _ h

theorem canonState_startTasks {s : State} (h : CanonState s) (cold : Bool) (ns : List Nat) :
    CanonState (ns.foldl (fun s n => startTask n (startInsts n cold s)) s) :=
  foldl_keeps (fun _ _ h => canonState_of_same (startTask_same (.refl _ _) rfl) (canonState_startInsts h ..)) _ h

theorem canonState_startCask {s : State} (h : CanonState s) (c : Nat) (wantCold : Bool) : CanonState (startCask c wantCold s) := by
  unfold startCask
  extract_lets fell cold k s1 s2 s3
  have h3 : CanonState s3 := canonState_of_same (updPCask_same (.refl _ _) rfl)
    (canonState_startTasks (canonState_instPut h ..) ..)
  split
  · exact canonState_of_same (raise_same (.refl _ _) rfl) h3
  · exact h3

theorem canonState_startCmd {s : State} (h : CanonState s) (iss : Issuer) (target : Fin 64) (cold : Bool) :
    CanonState (after (startCmd iss target cold s) s) :=
  canonState_regCmd (fun s h => by
    have hs (c : Nat) {t} (ht : CanonState t) : CanonState (pgeStatus iss c t) :=
      canonState_of_same (pgeStatus_same (.refl _ _) rfl) ht
    dsimp only
    repeat' split
    · exact hs _ h
    · exact hs _ h
    · exact hs _ h
    · exact hs _ (canonState_startCask h ..)) h s

theorem canonState_autoStartOp {s : State} (h : CanonState s) (c : Nat) : CanonState (autoStartOp c s) := by
  have hu (f) : CanonState (updPCask c f s) := canonState_of_same (updPCask_same (.refl _ _) rfl) h
  rw [autoStartOp]
  repeat' split
  · exact hu _
  · exact canonState_startCask (hu _) ..
  · exact canonState_startCask (hu _) ..
  · exact hu _

theorem canonState_execCaskAutoStart {s : State} (h : CanonState s) (c : Fin 63) :
    CanonState (after (execCaskAutoStart c s) s) := by
  rw [execCaskAutoStart, after_next]
  split
  · exact canonState_autoStartOp h _
  · exact h

theorem canonState_journalOp {s : State} (h : CanonState s) (c : Nat) (lines : List Nat) (clk : DWord)
    (table : List (DWord × DWord)) : CanonState (journalOp c lines clk table s) := canonState_writeLines h c _

theorem canonState_retentiveCommitOp {s : State} (h : CanonState s) (n : Nat) (cy : Cycle) :
    CanonState (retentiveCommitOp n cy s) :=
  canonState_of_same (finishCycle_same (updTask_same (.refl _ _) rfl) rfl)
    (canonState_journalOp h (n / 32) (taskSt s n).dirty cy.clk (hashTable (taskSt s n).prog.insts))

theorem canonState_execRetentiveCommit {s : State} (h : CanonState s) (c : Fin 63) (t : Fin 32) :
    CanonState (after (execRetentiveCommit c t s) s) := by
  rw [execRetentiveCommit, after_next]
  split
  · split
    · exact canonState_retentiveCommitOp h ..
    · exact h
  · exact h

theorem canonState_matchInst {s : State} (h : CanonState s) (p : Fin 2) (n : Nat) (old : List InstRec) (r : InstRec) :
    CanonState (matchInst p n old s r) := by
  have hc (k) {t} (ht : CanonState t) : CanonState (charge p (n / 32) k t) :=
    canonState_of_same (charge_same (.refl _ _) rfl) ht
  have hinit (flags : Nat) : CanonState (initRet (n / 32) r (initInst (n / 32) (n % 32) flags r s)) :=
    canonState_initRet (canonState_initInst h ..) ..
  rw [matchInst]
  cases fateOf old r with
  | kept => exact hc _ h
  | migrated o => exact canonState_updTask (hc _ (hinit 0)) ..
  | cold => exact hc _ (hinit 1)
  | fresh => exact hc _ (hinit 1)

theorem canonState_matchInsts {s : State} (h : CanonState s) (p : Fin 2) (n : Nat) (old rs : List InstRec) :
    CanonState (rs.foldl (fun s r => matchInst p n old s r) s) :=
  foldl_keeps (P := CanonState) (fun _ r h => canonState_matchInst h p n old r) rs h

theorem canonState_matchWork {s : State} (h : CanonState s) (p : Fin 2) (i : Item) : CanonState (matchWork p i s) := by
  rw [matchWork]
  split
  · exact h
  · have hc : CanonState (charge p (i.n / 32) 200 s) := canonState_of_same (charge_same (.refl _ _) rfl) h
    refine canonState_of_same (nextRoutine_same (updTask_same (.refl _ _) rfl) rfl) ?_
    exact canonState_matchInsts hc ..

theorem canonState_execExchangeWork {s : State} (h : CanonState s) (p : Fin 2) : CanonState (after (execExchangeWork p s) s) := by
  rw [execExchangeWork, after_next]
  repeat' split
  · exact canonState_matchWork h ..
  · exact h
  · exact canonState_matchWork (canonState_of_same (startItem_same (.refl _ _) rfl) h) ..
  · exact h
  · exact h
  · exact h

theorem canonState_switchOp {s : State} (h : CanonState s) (n : Nat) : CanonState (switchOp n s) := by
  unfold switchOp
  extract_lets t c new changed lines gone s1 s2 s3 s4 s5
  have h1 : CanonState s1 := canonState_of_same (coldEvents_same (.refl _ _) rfl) h
  have h2 : CanonState s2 := by
    unfold s2
    split
    · exact h1
    · exact canonState_journalOp h1 ..
  have h4 : CanonState s4 := canonState_of_same (updPCask_same (updTask_same (.refl _ _) rfl) rfl) h2
  have h5 : CanonState s5 := by
    unfold s5
    split
    · exact h4
    · exact canonState_of_same (passTrigger_same (.refl _ _) rfl) h4
  exact canonState_of_same (takeHeld_same (.refl _ _) rfl) (s := { s5 with stn.toSubst := s5.stn.toSubst ++ gone }) h5

theorem canonState_execExchangeSwitch {s : State} (h : CanonState s) (c : Fin 63) (t : Fin 32) :
    CanonState (after (execExchangeSwitch c t s) s) := by
  rw [execExchangeSwitch, after_next]
  split
  · exact canonState_switchOp h _
  · exact h

/-! ### The structure image -/

theorem canonState_changeProg {s : State} (h : CanonState s) (old : Tabs) (c : Nat) (r : ProgRec) :
    CanonState (changeProg old c r s) := by
  refine canonState_of_same (updPCask_same (.refl _ _) rfl) ?_
  split
  · exact canonState_instPut h ..
  · exact h

theorem canonState_changeProgram {s : State} (h : CanonState s) (old t : Tabs) (vintage : Nat) :
    CanonState (changeProgram old t vintage s) := by
  refine foldl_keeps (P := CanonState) (fun s n h => canonState_of_same (affectTask_same (.refl _ _) rfl) h) _ ?_
  refine foldl_keeps (P := CanonState) (fun s e h => ?_) _ h
  split
  · exact h
  · exact canonState_changeProg h ..

theorem canonState_putCells {s : State} (h : CanonState s) (old t : Tabs) (ns : List Nat) :
    CanonState (ns.foldl (fun s n => changeCell t n s) (putTables old t s)) :=
  foldl_keeps (P := CanonState) (fun _ _ h => canonState_of_same (changeCell_same (.refl _ _) rfl) h) ns
    (canonState_of_same (putTables_same (.refl _ _) rfl) h)

theorem canonState_activateSet {s : State} (h : CanonState s) (old t : Tabs) (vintage : Nat) :
    CanonState (activateSet old t vintage s) := by
  unfold activateSet
  extract_lets s1 s2 s3 _ s4
  have h3 : CanonState s3 := canonState_of_same (changeMeter_same (changeLoops_same (.refl _ _) rfl) rfl)
    (canonState_changeProgram (canonState_putCells h ..) ..)
  have h4 : CanonState s4 := by
    unfold s4
    split <;> exact h3
  exact canonState_of_same (noteBypass_same (.refl _ _) rfl) (s := { s4 with img.vintage := vintage }) h4

theorem canonState_commitCycle {s : State} (h : CanonState s) (b : List Byte) : CanonState (commitCycle b s) := by
  unfold commitCycle
  extract_lets _ _ s1
  have h1 : CanonState s1 := canonState_activateSet h ..
  clear_value s1
  split <;> exact h1

theorem canonState_scheduledCycle {s : State} (h : CanonState s) (d : HeldSet) : CanonState (scheduledCycle d s) := by
  unfold scheduledCycle
  extract_lets
  split
  · exact canonState_of_same (endLoad_same (.refl _ _) rfl) h
  · exact canonState_of_same (keepSet_same (.refl _ _) rfl) (canonState_commitCycle h _)

theorem canonState_commitTrellisOp {s : State} (h : CanonState s) : CanonState (commitTrellisOp s) := by
  unfold commitTrellisOp
  split
  · exact canonState_commitCycle h _
  · extract_lets
    repeat' split
    · exact h
    · exact h
    · exact canonState_scheduledCycle h _
    · exact h
    · exact canonState_of_same (record_same (.refl _ _) rfl) h
  · exact h

theorem canonState_execCommitTrellisCycle {s : State} (h : CanonState s) : CanonState (after (execCommitTrellisCycle s) s) := by
  rw [execCommitTrellisCycle, after_next]
  split
  · exact canonState_commitTrellisOp h
  · exact h

/-! ### Key operations -/

theorem canonState_keyStatus {s : State} (h : CanonState s) (iss : Issuer) (code : Nat) : CanonState (keyStatus iss code s) :=
  canonState_of_same (keyStatus_same (.refl _ _) rfl) h

theorem canonState_keyCmd {iss : Issuer} {whileSealed : Bool} {eff : State → State} {s : State}
    (heff : ∀ s, CanonState s → CanonState (eff s)) (h : CanonState s) : CanonState (after (keyCmd iss whileSealed eff s) s) :=
  canonState_regCmd (fun s h => by
    repeat' split
    · exact canonState_keyStatus h ..
    · exact canonState_keyStatus h ..
    · exact heff s h) h s

theorem canonState_execExportKey {s : State} (h : CanonState s) (iss : Issuer) (slot : Fin 64) :
    CanonState (after (execExportKey iss slot s) s) :=
  canonState_keyCmd (fun s h => by
    dsimp only
    repeat' split
    · exact canonState_keyStatus h ..
    · exact canonState_of_same (keyStatus_same (slotDenied_same (.refl _ _) rfl) rfl) h
    · exact canonState_keyStatus h ..
    · exact canonState_keyStatus h ..
    · exact canonState_of_same (keyStatus_same (rangeDenied_same (.refl _ _) rfl) rfl) h
    · exact canonState_keyStatus (canonState_writeDram h ..) ..) h

theorem canonState_opCompleteOp {s : State} (h : CanonState s) (cask op n : Nat) : CanonState (opCompleteOp cask op n s) := by
  have hu (f) {t} (ht : CanonState t) : CanonState (updOp cask f t) := canonState_of_same (updOp_same (.refl _ _) rfl) ht
  unfold opCompleteOp
  extract_lets
  split
  · exact hu _ h
  · split
    · exact hu _ (canonState_writeDram h ..)
    · exact hu _ (canonState_of_same (denied_same (.refl _ _) rfl) h)

theorem canonState_execKeyOpComplete {s : State} (h : CanonState s) (cask : Fin 64) :
    CanonState (after (execKeyOpComplete cask s) s) := by
  rw [execKeyOpComplete, after_next]
  repeat' split
  · exact canonState_opCompleteOp h ..
  · exact h
  · exact h

/-! ### Logic-side reset and start-up -/

/-- The reset keeps ferroelectric memory alone; the other two are empty after it (R482). -/
theorem canonState_clearIslands {s : State} (h : CanonState s) : CanonState (clearIslands s) := by
  obtain ⟨-, -, hf⟩ := h
  exact ⟨rfl, rfl, hf⟩

theorem canonState_execLogicReset {s : State} (h : CanonState s) : CanonState (after (execLogicReset s) s) := by
  rw [execLogicReset, after_next]
  split
  · exact canonState_of_same (clearPwr_same (clearUpd_same (clearMirrors_same (.refl _ _) rfl) rfl) rfl)
      (canonState_clearIslands h)
  · exact h

theorem canonState_completeJournal {s : State} (h : CanonState s) : CanonState (completeJournal s) := by
  rw [completeJournal]
  repeat' split
  · exact canonState_writeLines h ..
  · exact h
  · exact h

theorem canonState_queueWake {s : State} (h : CanonState s) (i : Island) (b : Bool) : CanonState (queueWake i b s) :=
  canonState_of_same (queueWake_same (.refl _ _) rfl) h

theorem canonState_startUpOp {s : State} (h : CanonState s) (strap : List Bool) : CanonState (startUpOp strap s) := by
  unfold startUpOp
  extract_lets s1 _ _ s2 _ s3 s4 s5
  have h1 : CanonState s1 := canonState_completeJournal
    (canonState_of_same (restoreCellar_same (releaseReset_same (.refl _ _) rfl) rfl) h)
  have h2 : CanonState s2 :=
    canonState_of_same (startStage_same (.refl _ _) rfl) (s := { s1 with key.abandoned := false, upd.stopped := false }) h1
  have h4 : CanonState s4 := canonState_queueWake (s := s3) h2 ..
  have h5 : CanonState s5 := canonState_of_same (firmwareFailed_same (.refl _ _) rfl) h4
  repeat' split
  · exact h2
  · exact foldl_keeps (P := CanonState) (fun _ _ h => canonState_queueWake h ..) _ h4
  · exact canonState_queueWake h5 ..
  · exact h5

theorem canonState_execStartUp {s : State} (h : CanonState s) (strap : List Bool) : CanonState (after (execStartUp strap s) s) := by
  rw [execStartUp, after_next]
  split
  · exact canonState_startUpOp h _
  · exact h

/-! ### Register writes and FMP writes -/

/-- What every register's write keeps, a write at any offset keeps. -/
theorem regAt_keeps {P : State → Prop} {l : List (RegRow State)} {s : State} (hl : ∀ r ∈ l, ∀ n, P (r.act n)) (h : P s)
    (off : Nat) : P ((regAt off l).getD s) := by
  induction l with
  | nil => exact h
  | cons r l ih =>
    rw [regAt]
    split
    · exact hl r (List.mem_cons_self ..) _
    · exact ih fun r hr => hl r (List.mem_cons_of_mem _ hr)

theorem canonState_pgeCmdWrite {s : State} (h : CanonState s) (iss : Issuer) (n : Nat) : CanonState (pgeCmdWrite iss n s) := by
  unfold pgeCmdWrite
  extract_lets t
  split
  · exact canonState_startCmd h iss t false
  · exact canonState_startCmd h iss t true
  · exact canonState_of_outSame (execHoldCask_same (.refl _ _) rfl) h
  · exact canonState_of_outSame (execResumeCask_same (.refl _ _) rfl) h
  · exact canonState_of_outSame (execStopCask_same (.refl _ _) rfl) h
  · exact h

theorem canonState_pgeWrites {s : State} (h : CanonState s) (iss : Issuer) (w : Word) :
    ∀ r ∈ pgeWrites iss w s, ∀ n, CanonState (r.act n) := by
  intro r hr n
  simp only [pgeWrites, List.mem_cons, List.not_mem_nil, or_false] at hr
  rcases hr with rfl | rfl | rfl
  · exact canonState_pgeCmdWrite h ..
  · exact canonState_of_same (taskSelWrite_same (.refl _ _) rfl) h
  · exact canonState_of_outSame (execPgeEvtTrig_same (.refl _ _) rfl) h

theorem canonState_keyCmdWrite {s : State} (h : CanonState s) (iss : Issuer) (n : Nat) : CanonState (keyCmdWrite iss n s) := by
  unfold keyCmdWrite
  extract_lets a
  split
  · exact canonState_of_outSame (execProvision_same (.refl _ _) rfl) h
  · exact canonState_of_outSame (execServiceEnter_same (.refl _ _) rfl) h
  · exact canonState_of_outSame (execServiceExit_same (.refl _ _) rfl) h
  · exact canonState_of_outSame (execRetire_same (.refl _ _) rfl) h
  · exact canonState_of_outSame (execAcceptIdentity_same (.refl _ _) rfl) h
  · exact canonState_of_outSame (execAttest_same (.refl _ _) rfl) h
  · exact canonState_of_outSame (execClearA_same (.refl _ _) rfl) h
  · exact canonState_of_outSame (execArmMonitors_same (.refl _ _) rfl) h
  · exact canonState_of_outSame (execInvalidateSess_same (.refl _ _) rfl) h
  · exact canonState_of_outSame (execInvalidateRdr_same (.refl _ _) rfl) h
  · exact canonState_of_outSame (execRollStage_same (.refl _ _) rfl) h
  · exact canonState_of_outSame (execRoll_same (.refl _ _) rfl) h
  · exact canonState_of_outSame (execImportKey_same (.refl _ _) rfl) h
  · exact canonState_of_outSame (execDeleteKey_same (.refl _ _) rfl) h
  · exact canonState_execExportKey h iss a
  · exact h

/-- Of the key engine's registers the command register alone reaches memory. -/
theorem canonState_keyWrites {s : State} (h : CanonState s) (iss : Issuer) (w : Word) :
    ∀ r ∈ keyWrites iss w s, ∀ n, CanonState (r.act n) := by
  have hbank (f) : CanonState (updOp iss.cask f s) := canonState_of_same (updOp_same (.refl _ _) rfl) h
  intro r hr n
  simp only [keyWrites, List.mem_cons, List.not_mem_nil, or_false] at hr
  rcases hr with rfl | rfl | rfl | rfl | rfl | rfl | rfl | rfl | rfl | rfl
  · exact canonState_keyCmdWrite h ..
  · exact h
  · exact h
  · exact h
  · exact h
  · exact canonState_of_same (keyOpWrite_same (.refl _ _) rfl) h
  · exact hbank _
  · exact hbank _
  · exact hbank _
  · exact h

theorem canonState_regWriteOp {s : State} (h : CanonState s) (iss : Issuer) (b : Block) (off : Nat) (w : Word) :
    CanonState (regWriteOp iss b off w s) := by
  have hr {l} (k : RowsSame 0x1FFFBF s l) : CanonState ((regAt off l).getD s) := canonState_of_same (k.at (.refl _ s)) h
  cases b with
  | sys => exact hr (sysWrites_same (.refl _ s) rfl)
  | upd => exact hr (updWrites_same (.refl _ s) rfl)
  | pwr => exact hr (pwrWrites_same (.refl _ s) rfl)
  | trl => exact hr (trlWrites_same (.refl _ s) rfl)
  | pge => exact regAt_keeps (canonState_pgeWrites h iss w) h off
  | lpe => exact hr (lpeWrites_same (.refl _ s) rfl)
  | prs => exact hr (prsWrites_same (.refl _ s) rfl)
  | saf => exact h
  | net => exact hr (netWrites_same (.refl _ s) rfl)
  | tim => exact hr (timWrites_same (.refl _ s) rfl)
  | cel => exact hr (celWrites_same (.refl _ s) rfl)
  | fbs => exact hr (fbsWrites_same (.refl _ s) rfl)
  | bsi => exact hr (bsiWrites_same (.refl _ s) rfl)
  | key => exact regAt_keeps (canonState_keyWrites h iss w) h off

theorem canonState_writeAt {s : State} (h : CanonState s) (iss : Issuer) (addr : Nat) (w : Word) :
    CanonState (after (writeAt iss addr w s) s) := by
  unfold writeAt
  repeat' split
  · exact canonState_regCmd (fun _ h => canonState_regWriteOp h ..) h s
  · exact canonState_of_same (busError_same (.refl _ _) rfl) h
  · exact canonState_of_same (busError_same (.refl _ _) rfl) h

theorem canonState_fmpAnswer {s : State} (h : CanonState s) (op : Nat) (d : FmpHdr) (r : Reply) :
    CanonState (fmpAnswer op d r s) := canonState_of_same (fmpAnswer_same (.refl _ _) rfl) h

theorem canonState_fmpWriteOp {s : State} (h : CanonState s) (d : FmpHdr) (ws : List Word) :
    CanonState (fmpWriteOp d ws s) := by
  unfold fmpWriteOp
  repeat' split
  · exact canonState_fmpAnswer h ..
  · exact canonState_of_same (fmpRefuse_same (.refl _ _) rfl) h
  · exact canonState_fmpAnswer (foldl_keeps (P := CanonState) (fun _ _ h => canonState_writeAt h ..) _ h) ..

/-- Taking a request touches its session or the queue of requests. -/
theorem mem_fmpTake {op : Nat} {d : FmpHdr} {s t : State} {c : Nat} (e : fmpTake op d s = some (c, t)) : t.mem = s.mem := by
  simp only [fmpTake] at e
  split at e
  · split at e <;> cases e
    rfl
  · split at e
    · cases e
    · split at e <;> cases e
      rfl

theorem canonState_fmpRequest {op : Nat} {d : FmpHdr} {ok : Bool} {act : State → State} {s : State}
    (hact : ∀ s, CanonState s → CanonState (act s)) (h : CanonState s) :
    CanonState (after (fmpRequest op d ok act s) s) := by
  rw [fmpRequest, after_next]
  split
  · exact h
  · next c t e =>
    have ht : CanonState t := by rwa [CanonState, mem_fmpTake e]
    repeat' split
    · exact canonState_of_same (answerAgain_same (.refl _ _) rfl) ht
    · exact canonState_fmpAnswer ht ..
    · exact canonState_fmpAnswer ht ..
    · exact canonState_fmpAnswer ht ..
    · exact hact t ht

theorem canonState_execFmpWrite {s : State} (h : CanonState s) (d : FmpHdr) (ws : List Word) :
    CanonState (after (execFmpWrite d ws s) s) := canonState_fmpRequest (fun _ h => canonState_fmpWriteOp h ..) h

/-! ### Every command, and a step -/

/-- A command that writes no memory leaves the three as they are. -/
theorem mem_exec {c : Instr} {s t : State} (hc : writesMemory c = false) (h : exec c s = .next t) : t.mem = s.mem := by
  refine ((exec_commandMask c s).of h).mem ?_
  rw [hc]
  cases chapterOf c <;> rfl

theorem canonState_exec {c : Instr} {s t : State} (h : CanonState s) (e : exec c s = .next t) : CanonState t := by
  cases hc : writesMemory c with
  | false => rwa [CanonState, mem_exec hc e]
  | true =>
    rw [← after_of_next e s]
    cases c with
    | registerWrite iss addr w => exact canonState_writeAt h iss addr.toNat w
    | commitTrellisCycle => exact canonState_execCommitTrellisCycle h
    | retentiveCommit cask task => exact canonState_execRetentiveCommit h cask task
    | runWarm iss target => exact canonState_startCmd h iss target false
    | runCold iss target => exact canonState_startCmd h iss target true
    | caskAutoStart cask => exact canonState_execCaskAutoStart h cask
    | opSt8 p d m => exact canonState_storeOp h p 1 d m
    | opSt16 p d m => exact canonState_storeOp h p 2 d m
    | opSt32 p d m => exact canonState_storeOp h p 4 d m
    | opSt64 p d m => exact canonState_storeOp h p 8 d m
    | opStb p b x => exact canonState_execOpStb h p b x
    | opRet p => exact canonState_execOpRet h p
    | opTon p m inp q => exact canonState_timerOp h p m inp q stepTon
    | opTof p m inp q => exact canonState_timerOp h p m inp q stepTof
    | opTp p m inp q => exact canonState_timerOp h p m inp q stepTp
    | opRtrig p m inp q => exact canonState_execOpRtrig h p m inp q
    | opFtrig p m inp q => exact canonState_execOpFtrig h p m inp q
    | opCtu p m cu r q => exact canonState_execOpCtu h p m cu r q
    | opCtd p m cd ld q => exact canonState_execOpCtd h p m cd ld q
    | opCtud p m cu cd r ld qu qd => exact canonState_execOpCtud h p m cu cd r ld qu qd
    | exchangeWork p => exact canonState_execExchangeWork h p
    | exchangeSwitch cask task => exact canonState_execExchangeSwitch h cask task
    | fmpWrite hdr ws => exact canonState_execFmpWrite h hdr ws
    | exportKey iss slot => exact canonState_execExportKey h iss slot
    | keyOpComplete cask => exact canonState_execKeyOpComplete h cask
    | logicReset => exact canonState_execLogicReset h
    | startUp strap => exact canonState_execStartUp h strap
    | _ => cases hc

/-- Settles O52: a command writes bytes or leaves the memories alone, and so does the passing of time. -/
theorem memoriesStayCanonical : Obligations.MemoriesStayCanonical := by
  intro s t h e
  unfold step at e
  split at e
  · next c r _ => exact canonState_exec (s := { s with pending := r }) h e
  · cases e
    exact canonState_of_same (tick_same (.refl _ _) rfl) h

end Sys2Proof.Machine
end

section
/-!
The commands of a sectional load written by cask 0: STAGE, COMMIT and DISCARD (R55, R56, R60, R77, R488).
-/
namespace Sys2Proof.Machine

/-! ### Cask 0's commands are the model's operations -/

theorem exec_stage {s : State} {iss : Issuer} (hi : iss.cask.val = 0) (h : Permits s iss .upd 0x0800 true) :
    exec (.stage iss) s = .next (stageOp { s with reply := .none }) := by
  simp [exec, execStage, regCmd_ok h, isOwner, hi]

theorem exec_commit {s : State} {iss : Issuer} (hi : iss.cask.val = 0) (h : Permits s iss .upd 0x0800 true) (timed : Bool) :
    exec (.commit iss timed) s = .next (commitOp timed { s with reply := .none }) := by
  simp [exec, execCommit, regCmd_ok h, isOwner, hi]

theorem exec_discard {s : State} {iss : Issuer} (hi : iss.cask.val = 0) (h : Permits s iss .upd 0x0800 true) :
    exec (.discard iss) s = .next (discardOp { s with reply := .none }) := by
  simp [exec, execDiscard, regCmd_ok h, isOwner, hi]

/-! ### Commands that do not fit the load's state (R77) -/

theorem stageOp_busy {s : State} (h : s.img.state ≠ .idle) :
    stageOp s = { s with img.code := cIMAGE_BUSY, reply := .code cIMAGE_BUSY } := by
  rw [stageOp, if_pos (by simpa using h)]

theorem commitOp_busy {s : State} (h : s.img.state ≠ .staged) (timed : Bool) :
    commitOp timed s = { s with img.code := cIMAGE_BUSY, reply := .code cIMAGE_BUSY } := by
  unfold commitOp
  split
  · next hs _ => exact absurd hs h
  · rfl

theorem discardOp_busy {s : State} (h : s.img.state ≠ .staged) :
    discardOp s = { s with img.code := cIMAGE_BUSY, reply := .code cIMAGE_BUSY } := by
  rw [discardOp, if_neg (by simpa using h)]

/-- Settles O46: each command is its operation, which in a state it does not fit sets the code alone. -/
theorem commandsThatDoNotFitAreBusy : Obligations.CommandsThatDoNotFitAreBusy := by
  intro iss s hi hp
  refine ⟨fun h => ?_, fun b h => ?_, fun h => ?_⟩
  · rw [exec_stage hi hp, stageOp_busy (by exact h)]
    rfl
  · rw [exec_commit hi hp, commitOp_busy (by exact h)]
    rfl
  · rw [exec_discard hi hp, discardOp_busy (by exact h)]
    rfl

end Sys2Proof.Machine
end

section
/-!
STAGE, COMMIT and DISCARD in the states they fit (R55, R56, R60, R488).
-/
namespace Sys2Proof.Machine

/-! ### The structure-image slot in use -/

theorem siSlot_congr {s t : State} (h : t.upd = s.upd) : siSlot t = siSlot s := by simp only [siSlot, h]

@[simp] theorem siSlot_updSiSlot (f : FlashSlot → FlashSlot) (s : State) : siSlot (updSiSlot f s) = f (siSlot s) := by
  unfold updSiSlot
  split
  · next h => simp only [siSlot, if_pos h]
  · next h => simp only [siSlot, if_neg h]

/-- A committed set stands behind the sets before it. -/
@[simp] theorem sets_keepSet (b : List Byte) (s : State) : (siSlot (keepSet b s)).sets = (siSlot s).sets ++ [b] := by
  simp [keepSet]

@[simp] theorem keepSet_img (b : List Byte) (s : State) : (keepSet b s).img = s.img := updSiSlot_img _ s

/-! ### Islands woken for a set -/

@[simp] theorem queueWake_img (i : Island) (r : Bool) (s : State) : (queueWake i r s).img = s.img :=
  (queueWake_same (M := 0x100000) (.refl _ s) rfl).img rfl

@[simp] theorem queueWake_upd (i : Island) (r : Bool) (s : State) : (queueWake i r s).upd = s.upd :=
  (queueWake_same (M := 0x100000) (.refl _ s) rfl).upd rfl

@[simp] theorem queueWake_sys (i : Island) (r : Bool) (s : State) : (queueWake i r s).sys = s.sys :=
  (queueWake_same (M := 0x100000) (.refl _ s) rfl).sys rfl

/-- An island waits for its wake-up. -/
def WakeQueued (s : State) (i : Island) : Prop := ∃ r ∈ s.pwr.wakeQ, r.isl = i

/-- A halted island asked for waits for its wake-up. -/
theorem wakeQueued_queueWake_self {s : State} {i : Island} (h : islState s i = .halt) (r : Bool) :
    WakeQueued (queueWake i r s) i := by
  unfold queueWake
  split
  · next hq => simpa [WakeQueued, h] using hq
  · exact ⟨_, List.mem_append_right _ (List.mem_singleton_self _), rfl⟩

theorem wakeQueued_queueWake {s : State} {j : Island} (h : WakeQueued s j) (i : Island) (r : Bool) :
    WakeQueued (queueWake i r s) j := by
  unfold queueWake
  split
  · exact h
  · obtain ⟨q, hq, e⟩ := h
    exact ⟨q, List.mem_append_left _ hq, e⟩

/-- Asking for one island after another changes neither the image nor UPD. -/
theorem img_upd_queueWakes (is : List Island) (r : Bool) (s : State) :
    (is.foldl (fun s i => queueWake i r s) s).img = s.img ∧ (is.foldl (fun s i => queueWake i r s) s).upd = s.upd :=
  foldl_keeps (P := fun t : State => t.img = s.img ∧ t.upd = s.upd) (fun _ _ ⟨hi, hu⟩ => by simp [hi, hu]) is ⟨rfl, rfl⟩

/-- Each of the halted islands asked for waits for its wake-up. -/
theorem wakeQueued_queueWakes {is : List Island} {s : State} (h : ∀ i ∈ is, islState s i = .halt) (r : Bool) :
    ∀ i ∈ is, WakeQueued (is.foldl (fun s i => queueWake i r s) s) i := by
  induction is generalizing s with
  | nil => simp
  | cons j is ih =>
    have hj : WakeQueued (queueWake j r s) j := wakeQueued_queueWake_self (h j (List.mem_cons_self ..)) r
    intro i hi
    rcases List.mem_cons.mp hi with rfl | hi
    · exact foldl_keeps (P := fun t => WakeQueued t i) (fun _ j h => wakeQueued_queueWake h j r) is hj
    · refine ih (fun i hi => ?_) i hi
      simpa [islState] using h i (List.mem_cons_of_mem _ hi)

theorem islState_of_mem_islandsToWake {s : State} {t : Tabs} {i : Island} (h : i ∈ islandsToWake s t) : islState s i = .halt := by
  simp only [islandsToWake, List.mem_filter, Bool.and_eq_true, beq_iff_eq] at h
  exact h.2.2

/-! ### STAGE in IDLE -/

theorem validateSet_sealed {s : State} (h : isSealed s = true) (b : List Byte) : validateSet s b = { code := cIMAGE_SEALED } := by
  rw [validateSet, if_pos h]

theorem finishStage_fails {s : State} {b : List Byte} (h : (validateSet s b).code ≠ cIMAGE_OK) :
    finishStage b s = endLoad (validateSet s b).code (validateSet s b).sec s := by
  simp [finishStage, h]

theorem finishStage_valid {s : State} {b : List Byte} (h : (validateSet s b).code = cIMAGE_OK) : finishStage b s = holdSet b s := by
  simp [finishStage, h]

theorem stageOp_sealed {s : State} (hi : s.img.state = .idle) (hs : isSealed s = true) :
    stageOp s = endLoad cIMAGE_SEALED 0 s := by
  have hv := validateSet_sealed hs (stagedBytes s)
  simp [stageOp, hi, hs, finishStage, hv, cIMAGE_SEALED, cIMAGE_OK]

theorem stageOp_outside {s : State} (hi : s.img.state = .idle) (hs : isSealed s = false)
    (ha : inPartition s 0 s.img.src.toNat s.img.len.toNat = false) :
    stageOp s = endLoad cIMAGE_FORMAT 0 (denied 0x0B 12 s.img.src.toNat 0xFF 0x0804 0 s) := by
  simp [stageOp, hi, hs, ha]

theorem stageOp_offBoundary {s : State} (hi : s.img.state = .idle) (hs : isSealed s = false)
    (ha : inPartition s 0 s.img.src.toNat s.img.len.toNat = true) (hb : s.img.src.toNat % 16 ≠ 0) :
    stageOp s = endLoad cIMAGE_FORMAT 0 s := by
  simp [stageOp, hi, hs, ha, stageAreaOk, hb]

/-- Off a 16-byte boundary the load ends with the format code, whether the area lies in the partition or not. -/
theorem stageOp_unaligned {s : State} (hi : s.img.state = .idle) (hs : isSealed s = false) (hb : s.img.src.toNat % 16 ≠ 0) :
    ∃ w : State, stageOp s = endLoad cIMAGE_FORMAT 0 w ∧ w.upd = s.upd ∧ w.img.vintage = s.img.vintage := by
  cases ha : inPartition s 0 s.img.src.toNat s.img.len.toNat with
  | false => exact ⟨_, stageOp_outside hi hs ha, rfl, rfl⟩
  | true => exact ⟨_, stageOp_offBoundary hi hs ha hb, rfl, rfl⟩

/-- STAGE of a set in a proper area: a valid one waits for the islands it needs, and otherwise the validation's verdict decides. -/
theorem stageOp_area {s : State} (hi : s.img.state = .idle) (hs : isSealed s = false)
    (ha : inPartition s 0 s.img.src.toNat s.img.len.toNat = true) (hb : s.img.src.toNat % 16 = 0) :
    stageOp s =
      if (validateSet s (stagedBytes s)).code = cIMAGE_OK ∧ islandsToWake s (validateSet s (stagedBytes s)).tabs ≠ [] then
        (islandsToWake s (validateSet s (stagedBytes s)).tabs).foldl (fun s i => queueWake i false s)
          { s with img.state := .checking, img.held := some { bytes := stagedBytes s } }
      else finishStage (stagedBytes s) s := by
  simp [stageOp, hi, hs, ha, stageAreaOk, hb]

/-- What STAGE of a set in a proper area leaves with the verdict `v`: the failure, the set waiting for its islands, or the set staged. -/
def AreaStaged (v : LoadVerdict) (s t : State) : Prop :=
  t.img.vintage = s.img.vintage ∧
  if v.code ≠ 0 then t.img.state = .idle ∧ t.img.code = v.code ∧ t.img.failSec = v.sec ∧ t.img.held = none ∧ t.upd = s.upd
  else if islandsToWake s v.tabs ≠ [] then t.img.state = .checking ∧ t.img.held = some { bytes := stagedBytes s } ∧ t.upd = s.upd ∧
    ∀ i ∈ islandsToWake s v.tabs, WakeQueued t i
  else t.img.state = .staged ∧ t.img.code = 0 ∧ t.img.held = some { bytes := stagedBytes s } ∧ (siSlot t).sets = (siSlot s).sets

theorem areaStaged_stageOp {s : State} (hi : s.img.state = .idle) (hs : isSealed s = false)
    (ha : inPartition s 0 s.img.src.toNat s.img.len.toNat = true) (hb : s.img.src.toNat % 16 = 0) :
    AreaStaged (validateSet s (stagedBytes s)) s (stageOp s) := by
  rw [stageOp_area hi hs ha hb]
  unfold AreaStaged
  generalize hv : validateSet s (stagedBytes s) = v
  by_cases hc : v.code = cIMAGE_OK
  · rw [if_neg (fun h : v.code ≠ 0 => h hc)]
    by_cases hw : islandsToWake s v.tabs = []
    · rw [if_neg (fun h => h.2 hw), finishStage_valid (by rw [hv, hc]), if_neg (not_not_intro hw)]
      exact ⟨rfl, rfl, rfl, rfl, rfl⟩
    · rw [if_pos ⟨hc, hw⟩, if_pos hw]
      obtain ⟨hi, hu⟩ := img_upd_queueWakes (islandsToWake s v.tabs) false
        { s with img.state := .checking, img.held := some { bytes := stagedBytes s } }
      refine ⟨by rw [hi], by rw [hi], by rw [hi], hu, wakeQueued_queueWakes (fun i h => ?_) false⟩
      exact islState_of_mem_islandsToWake h
  · rw [if_neg (fun h => hc h.1), finishStage_fails (by rwa [hv]), hv, if_pos (show v.code ≠ 0 from hc)]
    exact ⟨rfl, rfl, rfl, rfl, rfl, rfl⟩

/-! ### COMMIT and DISCARD in STAGED -/

theorem commitOp_fails {s : State} {h : HeldSet} (hs : s.img.state = .staged) (hh : s.img.held = some h) {code sec : Nat}
    (hc : stateChecks s (tabsNow s) (tabsOver false h.bytes (tabsNow s)) = some (code, sec)) (timed : Bool) :
    commitOp timed s = endLoad code sec s := by
  simp only [commitOp, hs, hh, hc]

theorem commitOp_timed {s : State} {h : HeldSet} (hs : s.img.state = .staged) (hh : s.img.held = some h)
    (hc : stateChecks s (tabsNow s) (tabsOver false h.bytes (tabsNow s)) = none) :
    commitOp true s = { s with
      img.code := cIMAGE_OK, img.failSec := 0, img.state := .scheduled,
      img.held := some { h with at0 := some (s.img.atHi ++ s.img.atLo) }, reply := .code cIMAGE_OK } := by
  simp only [commitOp, hs, hh, hc, if_true]

theorem commitOp_now {s : State} {h : HeldSet} (hs : s.img.state = .staged) (hh : s.img.held = some h)
    (hc : stateChecks s (tabsNow s) (tabsOver false h.bytes (tabsNow s)) = none) :
    commitOp false s = keepSet h.bytes { s with
      img.code := cIMAGE_OK, img.failSec := 0, img.state := .committing, reply := .code cIMAGE_OK } := by
  simp only [commitOp, hs, hh, hc, Bool.false_eq_true, if_false]

theorem discardOp_staged {s : State} (h : s.img.state = .staged) : discardOp s = endLoad cIMAGE_OK 0 s := by
  simp [discardOp, h, dropSet]

/-- What COMMIT of a staged set leaves: the failure of a check made again, the set scheduled, or the set committing behind the others. -/
def Committed (timed : Bool) (h : HeldSet) (s t : State) : Prop :=
  t.img.vintage = s.img.vintage ∧
  match stateChecks s (tabsNow s) (tabsOver false h.bytes (tabsNow s)) with
  | some (c, sec) => t.img.state = .idle ∧ t.img.code = c ∧ t.img.failSec = sec ∧ t.img.held = none ∧ t.upd = s.upd
  | none => t.img.code = 0 ∧
    if timed then t.img.state = .scheduled ∧ t.img.held = some { h with at0 := some (s.img.atHi ++ s.img.atLo) } ∧ t.upd = s.upd
    else t.img.state = .committing ∧ t.img.held = some h ∧ (siSlot t).sets = (siSlot s).sets ++ [h.bytes]

theorem committed_commitOp {s : State} {h : HeldSet} (hs : s.img.state = .staged) (hh : s.img.held = some h) (timed : Bool) :
    Committed timed h s (commitOp timed s) := by
  unfold Committed
  cases hc : stateChecks s (tabsNow s) (tabsOver false h.bytes (tabsNow s)) with
  | some c =>
    rw [commitOp_fails hs hh hc]
    exact ⟨rfl, rfl, rfl, rfl, rfl, rfl⟩
  | none =>
    cases timed with
    | true =>
      rw [commitOp_timed hs hh hc]
      exact ⟨rfl, rfl, rfl, rfl, rfl⟩
    | false =>
      rw [commitOp_now hs hh hc, keepSet_img]
      exact ⟨rfl, rfl, rfl, hh, sets_keepSet ..⟩

end Sys2Proof.Machine
end

section
/-!
The tables of an image taking effect: what the activation of a set and the installation of an image leave in the image's own record
and in UPD (R58, R61, R62).
-/
namespace Sys2Proof.Machine

/-- What leaves the image's record as it is (mask: bit 7 of `Same` clear). -/
theorem img_of_same {s t : State} (h : Same 0x1FFF7F s t) : t.img = s.img := h.img rfl

theorem foldl_img {α : Type} {f : State → α → State} (hf : ∀ s a, (f s a).img = s.img) (l : List α) (s : State) :
    (l.foldl f s).img = s.img := foldl_keeps (P := fun t : State => t.img = s.img) (fun t a h => (hf t a).trans h) l rfl

/-- Of the tables that change together the windows alone stand in the image's record. -/
theorem img_putTables (old t : Tabs) (s : State) : (putTables old t s).img = { s.img with windows := t.windows } := by
  have hrest : Same 0x1FFF7F (putPoints t s) (putTables old t s) :=
    .up_pwr (putStns_same (putAdmission_same (putBuilding_same (putFieldbus_same (putVintner_same (.refl _ _) rfl) rfl) rfl) rfl) rfl) rfl
  rw [img_of_same hrest]
  rfl

/-- A set that takes effect puts its vintage and its windows in force. -/
theorem img_activateSet (old t : Tabs) (vintage : Nat) (s : State) :
    (activateSet old t vintage s).img = { s.img with windows := t.windows, vintage := vintage } := by
  unfold activateSet
  extract_lets s1 s2 s3 _ s4
  have h2 : s2.img = s1.img := foldl_img (fun s n => img_of_same (changeCell_same (.refl _ s) rfl)) ..
  have h3 : s3.img = s2.img :=
    img_of_same (changeMeter_same (changeLoops_same (changeProgram_same (.refl _ s2) rfl) rfl) rfl)
  have h4 : s4.img = s3.img := by
    unfold s4
    split <;> rfl
  have e : s4.img = { s.img with windows := t.windows } := h4.trans (h3.trans (h2.trans (img_putTables ..)))
  refine (img_of_same (noteBypass_same (.refl _ _) rfl)).trans ?_
  show { s4.img with vintage := vintage } = _
  rw [e]

/-- A set that takes effect leaves the slots and the racking record. -/
theorem upd_activateSet (old t : Tabs) (vintage : Nat) (s : State) : (activateSet old t vintage s).upd = s.upd :=
  (activateSet_same (M := 0x17FFFF) (.refl _ s) rfl).upd rfl

/-- An image that takes effect puts its casks, its partitions, its vintage and its windows in force. -/
theorem img_installImage (t : Tabs) (vintage : Nat) (s : State) :
    (installImage t vintage s).img = { s.img with
      casks := t.casks, partBase := layPartitions t, loaded := true, vintage := vintage, windows := t.windows } := by
  unfold installImage
  extract_lets _ s1 s2 s3 s4 _ s5 s6
  have h4 : s4.img = s2.img := img_of_same (loadMeter_same (loadLoops_same (loadProgram_same
    (loadCells_same (loadTime_same (.refl _ s2) rfl) rfl) rfl) rfl) rfl)
  have h5 : s5.img = s4.img := by
    unfold s5
    split <;> rfl
  have h6 : s6.img = s5.img := by
    unfold s6
    split
    · exact img_of_same (setLc_same (.refl _ s5) rfl)
    · rfl
  rw [img_of_same (noteBypass_same (haltUnused_same (.refl _ s6) rfl) rfl), h6, h5, h4]
  exact img_putTables ..

theorem upd_installImage (t : Tabs) (vintage : Nat) (s : State) : (installImage t vintage s).upd = s.upd :=
  (installImage_same (M := 0x17FFFF) (.refl _ s) rfl).upd rfl

end Sys2Proof.Machine
end

section
/-!
The commit Trellis cycle, the section reports and the abort of a sectional load (R61 to R67).
-/
namespace Sys2Proof.Machine

/-! ### The commit Trellis cycle -/

/-- A set in force: its vintage and its windows, no set held, and the load ended or waiting for the reports of its sections. -/
def InForce (b : List Byte) (s t : State) : Prop :=
  t.img.vintage = imVintage b ∧ t.img.held = none ∧ t.img.windows = (tabsOver false b (tabsNow s)).windows ∧
  (if reporting b = [] then t.img.state = .idle ∧ t.img.code = 0 else t.img.state = .committing ∧ t.img.awaiting = reporting b)

theorem inForce_commitCycle (b : List Byte) (s : State) : InForce b s (commitCycle b s) := by
  have e := img_activateSet (tabsNow s) (tabsOver false b (tabsNow s)) (imVintage b) s
  by_cases h : reporting b = []
  · simp [InForce, commitCycle, h, e, cIMAGE_OK]
  · simp [InForce, commitCycle, h, e]

theorem upd_commitCycle (b : List Byte) (s : State) : (commitCycle b s).upd = s.upd :=
  (commitCycle_same (M := 0x17FFFF) (.refl _ s) rfl).upd rfl

theorem inForce_keepSet {b : List Byte} {s t : State} (h : InForce b s t) (x : List Byte) : InForce b s (keepSet x t) := by
  rwa [InForce, keepSet_img]

theorem exec_commitTrellisCycle {s : State} (h : isRun s .trellis = true) :
    exec .commitTrellisCycle s = .next (commitTrellisOp s) := by
  simp [exec, execCommitTrellisCycle, h]

section
variable {s : State} {h : HeldSet}

theorem commitTrellisOp_committing (hs : s.img.state = .committing) (hh : s.img.held = some h) :
    commitTrellisOp s = commitCycle h.bytes s := by
  simp only [commitTrellisOp, hs, hh]

/-- A scheduled set before its time stays: under trusted time the mark of a start-up goes (Table 2.7). -/
theorem commitTrellisOp_early (hs : s.img.state = .scheduled) (hh : s.img.held = some h)
    (ht : localNs s .trellis 0 < (h.at0.getD 0).toNat) : commitTrellisOp s =
      if trusted s 0 then { s with img.held := some { h with atStartUp := false } } else s := by
  simp only [commitTrellisOp, hs, hh, decide_eq_false (Nat.not_le.mpr ht), Bool.not_false, if_true]

theorem commitTrellisOp_due (hs : s.img.state = .scheduled) (hh : s.img.held = some h)
    (ht : (h.at0.getD 0).toNat ≤ localNs s .trellis 0) (hr : trusted s 0 = true) : commitTrellisOp s = scheduledCycle h s := by
  simp only [commitTrellisOp, hs, hh, decide_eq_true ht, hr, Bool.not_true, Bool.false_eq_true, if_false, if_true]

/-- A set whose time comes untrusted stays, and the event is recorded once (R64). -/
theorem commitTrellisOp_untrusted (hs : s.img.state = .scheduled) (hh : s.img.held = some h)
    (ht : (h.at0.getD 0).toNat ≤ localNs s .trellis 0) (hr : trusted s 0 = false) : commitTrellisOp s =
      if h.waitTold then s
      else record (Config.openCode 1).toNat 0 (d4 (imVintage h.bytes)) { s with img.held := some { h with waitTold := true } } := by
  simp only [commitTrellisOp, hs, hh, decide_eq_true ht, hr, Bool.not_true, Bool.false_eq_true, if_false]

theorem commitTrellisOp_other (hc : s.img.state ≠ .committing) (hs : s.img.state ≠ .scheduled) : commitTrellisOp s = s := by
  unfold commitTrellisOp
  split
  · next h _ => exact absurd h hc
  · next h _ => exact absurd h hs
  · rfl

end

/-- What the cycle leaves of a scheduled set whose time has come under trusted time: the failure of the checks that a set kept over a
power loss passes again, or the set in force behind the others. -/
def ScheduledInForce (h : HeldSet) (s t : State) : Prop :=
  match (if h.atStartUp then stateChecks s (tabsNow s) (tabsOver false h.bytes (tabsNow s)) else none) with
  | some (c, sec) => t.img.state = .idle ∧ t.img.code = c ∧ t.img.failSec = sec ∧ t.img.held = none ∧
      t.img.vintage = s.img.vintage ∧ t.upd = s.upd
  | none => InForce h.bytes s t ∧ (siSlot t).sets = (siSlot s).sets ++ [h.bytes]

theorem scheduledInForce_scheduledCycle (h : HeldSet) (s : State) : ScheduledInForce h s (scheduledCycle h s) := by
  unfold ScheduledInForce
  cases hc : (if h.atStartUp then stateChecks s (tabsNow s) (tabsOver false h.bytes (tabsNow s)) else none) with
  | some c =>
    have e : scheduledCycle h s = endLoad c.1 c.2 s := by simp only [scheduledCycle, hc]
    rw [e]
    exact ⟨rfl, rfl, rfl, rfl, rfl, rfl⟩
  | none =>
    have e : scheduledCycle h s = keepSet h.bytes (commitCycle h.bytes s) := by simp only [scheduledCycle, hc]
    rw [e, sets_keepSet, siSlot_congr (upd_commitCycle ..)]
    exact ⟨inForce_keepSet (inForce_commitCycle ..) _, rfl⟩

/-! ### Section reports -/

theorem sectionReportOp_awaited {s : State} {sec : Nat} (hs : s.img.state = .committing) (hh : s.img.held = none)
    (ha : sec ∈ s.img.awaiting) (h : sectionActive s sec = true) :
    sectionReportOp sec s = if s.img.awaiting.filter (fun x => x != sec) = [] then
        { s with img.awaiting := [], img.state := .idle, img.code := 0 }
      else { s with img.awaiting := s.img.awaiting.filter (fun x => x != sec) } := by
  simp [sectionReportOp, hs, hh, ha, h, cIMAGE_OK]

theorem sectionReportOp_idle {s : State} {sec : Nat} (h : s.img.state ≠ .committing ∨ sectionActive s sec = false) :
    sectionReportOp sec s = s := by
  rcases h with h | h <;> simp [sectionReportOp, h]

/-! ### The abort -/

theorem exec_sectionalLoadAbort {s : State} {iss : Issuer} (hi : iss.cask.val = 0) (hp : Permits s iss .sys 0x0030 true)
    (hr : isRun s .cluster = true) :
    exec (.sectionalLoadAbort iss) s = .next (abortDone 0 (loadAbortOp { s with reply := .none })) := by
  have hu : isRun { s with reply := .none } .cluster = true := hr
  simp [exec, execSectionalLoadAbort, abortCmd, regCmd_ok hp, isOwner, hi, abortTarget, hu]

/-- The abort's DONE bit is set. -/
theorem bitOf_abortDone (bit : Nat) (s : State) : bitOf (abortDone bit s).pwr.abortDone bit = true := by
  simp [abortDone, bitOf_eq]

theorem loadAbortOp_drops {s : State} (h : s.img.state = .checking ∨ s.img.state = .staged) :
    loadAbortOp s = endLoad cIMAGE_ABORTED 0 s := by
  rcases h with h | h <;> simp only [loadAbortOp, h, dropSet]

/-- In SCHEDULED and COMMITTING the abort is only recorded. -/
theorem loadAbortOp_records {s : State} (h : s.img.state = .scheduled ∨ s.img.state = .committing) :
    ∃ d, loadAbortOp s = record cIMAGE_ABORTED 0 d s := by
  rcases h with h | h
  · exact ⟨d1 3, by simp only [loadAbortOp, h]⟩
  · exact ⟨d1 4, by simp only [loadAbortOp, h]⟩

/-- Settles O34: cask 0's commands, the commit Trellis cycle, the section reports and the abort, each by the law of its operation. -/
theorem sectionalLoadSteps : Obligations.SectionalLoadSteps := by
  refine ⟨fun iss s hc hp => ?_, fun s h hr hh => ?_, fun s hr hc hs => ?_, fun s n hs hh ha h => ?_, fun s n h => ?_,
    fun iss s hc hp hr => ?_⟩
  · intro u
    have hstage : exec (.stage iss) s = .next (stageOp u) := exec_stage hc hp
    refine ⟨fun hi hs => ⟨_, hstage, ?_⟩, fun hi hs ha => ⟨_, hstage, ?_⟩, fun hi hs hb => ⟨_, hstage, ?_⟩,
      fun hi hs ha hb => ⟨_, hstage, areaStaged_stageOp (s := u) hi hs ha hb⟩,
      fun b h hs hh => ⟨_, exec_commit hc hp b, committed_commitOp (s := u) hs hh b⟩, fun hs => ?_⟩
    · rw [stageOp_sealed (s := u) hi hs]
      exact ⟨rfl, rfl, rfl, rfl, rfl, rfl⟩
    · rw [stageOp_outside (s := u) hi hs ha]
      exact ⟨rfl, rfl, rfl, rfl, rfl, _, List.mem_append_right _ (List.mem_singleton_self _)⟩
    · obtain ⟨w, e, hu, hv⟩ := stageOp_unaligned (s := u) hi hs hb
      rw [e]
      exact ⟨rfl, rfl, rfl, hv, hu⟩
    · rw [exec_discard hc hp, discardOp_staged (by exact hs)]
      rfl
  · have hcycle := exec_commitTrellisCycle hr
    refine ⟨fun hs => ⟨_, hcycle, ?_⟩, fun hs ht => ⟨_, hcycle, ?_⟩, fun hs ht hu => ⟨_, hcycle, ?_⟩,
      fun hs ht hu => ⟨_, hcycle, ?_⟩⟩
    · rw [commitTrellisOp_committing hs hh]
      exact inForce_commitCycle ..
    · rw [commitTrellisOp_early hs hh ht]
      split
      · exact ⟨hs, rfl, rfl, rfl, rfl⟩
      · exact ⟨hs, by rw [hh]; rfl, rfl, rfl, rfl⟩
    · rw [commitTrellisOp_untrusted hs hh ht hu]
      obtain ⟨bytes, at0, atStartUp, waitTold⟩ := h
      cases waitTold with
      | true => exact ⟨hs, hh, rfl, rfl, rfl, fun h => nomatch h⟩
      | false => exact ⟨hs, rfl, rfl, rfl, rfl, fun _ => List.length_append⟩
    · rw [commitTrellisOp_due hs hh ht hu]
      exact scheduledInForce_scheduledCycle h s
  · rw [exec_commitTrellisCycle hr, commitTrellisOp_other hc hs]
  · exact congrArg Host.Outcome.next (sectionReportOp_awaited hs hh ha h)
  · exact congrArg Host.Outcome.next (sectionReportOp_idle h)
  · refine ⟨fun hs => ⟨_, exec_sectionalLoadAbort hc hp hr, ?_⟩, fun hs => ⟨_, exec_sectionalLoadAbort hc hp hr, ?_⟩⟩
    · refine ⟨?_, ?_, ?_, ?_, ?_, bitOf_abortDone ..⟩
      all_goals
        rw [loadAbortOp_drops (by exact hs)]
        rfl
    · obtain ⟨d, e⟩ := loadAbortOp_records (s := { s with reply := .none }) hs
      refine ⟨?_, ?_, bitOf_abortDone .., d, ?_⟩
      all_goals rw [e]
      · rfl
      · rfl
      · exact List.mem_append_right _ (List.mem_singleton_self _)

end Sys2Proof.Machine
end

section
/-!
The whole load: what becomes of a load that was cut off, an image that fails, and an image that applies (R58, R66, R470, R517).
-/
namespace Sys2Proof.Machine

/-! ### Operations on the racking record and the recorder -/

/-- An event recorded has arisen. -/
theorem mem_record_arising (code cask : Nat) (data : List Byte) (s : State) :
    { code := code, cask := cask, data := data } ∈ (record code cask data s).arising :=
  List.mem_append_right _ (List.mem_singleton_self _)

/-- A reset asked for leaves the events, the image's record and UPD (mask: PRS and PWR). -/
theorem same_requestReset (bit : Nat) (withSave : Bool) (s : State) : Same 0x100800 s (requestReset bit withSave s) :=
  requestReset_same (.refl _ s) rfl

/-- A revert ends the racking and records its reason (R471). -/
theorem rackRevertOp_ends (reason : Nat) (s : State) : (rackRevertOp reason s).upd.rack.state = .idle ∧
    { code := cUPD_REVERTED, data := d1 reason } ∈ (rackRevertOp reason s).arising := by
  unfold rackRevertOp
  extract_lets lost s1 s2 _ s3 s4
  have h3 : s3.upd.rack.state = .idle := rfl
  have e3 : { code := cUPD_REVERTED, data := d1 reason } ∈ s3.arising := mem_record_arising ..
  have h4 : s4.upd.rack.state = .idle ∧ { code := cUPD_REVERTED, data := d1 reason } ∈ s4.arising := by
    unfold s4
    split
    · exact ⟨h3, e3⟩
    · exact ⟨h3, List.mem_append_left _ e3⟩
  rwa [(same_requestReset 6 true s4).upd rfl, (same_requestReset 6 true s4).arising rfl]

/-! ### A load that a power loss or reset caught -/

theorem upd_settleHeld (s : State) : (settleHeld s).upd = s.upd := (settleHeld_same (M := 0x17FFFF) (.refl _ s) rfl).upd rfl

/-- A set not committed is lost, and the event says so. -/
theorem settleHeld_lost {s : State} {h : HeldSet} (hh : s.img.held = some h) (hs : s.img.state = .checking ∨ s.img.state = .staged) :
    ∃ d, settleHeld s = record cIMAGE_SET_LOST 0 d { s with img.state := .idle, img.held := none } := by
  rcases hs with hs | hs
  · exact ⟨d1 1 ++ d4 (imVintage h.bytes) ++ d4 (imBase h.bytes), by simp only [settleHeld, hh, hs]; rfl⟩
  · exact ⟨d1 2 ++ d4 (imVintage h.bytes) ++ d4 (imBase h.bytes), by simp only [settleHeld, hh, hs]; rfl⟩

theorem settleHeld_scheduled {s : State} {h : HeldSet} (hh : s.img.held = some h) (hs : s.img.state = .scheduled) :
    settleHeld s = { s with img.held := some { h with atStartUp := true } } := by
  simp only [settleHeld, hh, hs]

theorem settleHeld_committing {s : State} {h : HeldSet} (hh : s.img.held = some h) (hs : s.img.state = .committing) :
    settleHeld s = { s with img.state := .idle, img.held := none } := by
  simp only [settleHeld, hh, hs]

/-! ### An image that fails -/

/-- No structure image runs: the image's failure stands in the record, and outside a trial the event names it, inside one the module
reverts with the whole image's failure. -/
def NotLoaded (v : LoadVerdict) (s t : State) : Prop :=
  t.img.vintage = 0 ∧ t.img.code = v.code ∧ t.img.failSec = v.sec ∧ t.img.state = .idle ∧ t.img.held = none ∧
  (s.upd.rack.state ≠ .trial → ∃ d, { code := cIMAGE_LOAD_FAILED, data := d } ∈ t.arising) ∧
  (s.upd.rack.state = .trial → t.upd.rack.state = .idle ∧ { code := cUPD_REVERTED, data := d1 4 } ∈ t.arising)

theorem notLoaded_loadFailed (v : LoadVerdict) (b : List Byte) (s : State) : NotLoaded v s (loadFailed v b s) := by
  unfold loadFailed
  extract_lets _ s1
  have hu : s1.upd = s.upd := rfl
  by_cases h : s.upd.rack.state = .trial
  · rw [if_pos (by rw [hu, h]; rfl)]
    have hi : (rackRevertOp 4 s1).img = s1.img := img_of_same (rackRevertOp_same (.refl _ s1) rfl)
    unfold NotLoaded
    rw [hi]
    exact ⟨rfl, rfl, rfl, rfl, rfl, (absurd h ·), fun _ => rackRevertOp_ends 4 s1⟩
  · rw [if_neg (by simpa [hu] using h)]
    exact ⟨rfl, rfl, rfl, rfl, rfl, fun _ => ⟨_, mem_record_arising ..⟩, (absurd · h)⟩

/-! ### An image that applies -/

/-- The image runs with the sets that applied; the failure that stopped them, if any, stands in the record with its event. -/
def LoadedWith (r : SetsRun) (t : State) : Prop :=
  t.img.loaded = true ∧ t.img.vintage = r.vintage ∧ (siSlot t).sets = r.good ∧ t.img.casks = r.tabs.casks ∧
  match r.failed with
  | none => t.img.code = 0
  | some (c, sec, _) => t.img.code = c ∧ t.img.failSec = sec ∧ ∃ d, { code := 0x0215, data := d } ∈ t.arising

theorem loadedWith_loadDone (r : SetsRun) (s : State) : LoadedWith r (loadDone r s) := by
  unfold loadDone
  extract_lets s1 s2
  have hi : s2.img = _ := img_installImage r.tabs r.vintage s1
  have hl : s2.img.loaded = true := by rw [hi]
  have hv : s2.img.vintage = r.vintage := by rw [hi]
  have hc : s2.img.casks = r.tabs.casks := by rw [hi]
  have hs : (siSlot s2).sets = r.good := by
    rw [siSlot_congr (upd_installImage r.tabs r.vintage s1), siSlot_updSiSlot]
  clear_value s2
  unfold LoadedWith
  cases h : r.failed with
  | none => exact ⟨hl, hv, hs, hc, rfl⟩
  | some f => exact ⟨hl, hv, hs, hc, rfl, rfl, _, mem_record_arising ..⟩

/-! ### WHOLE_LOAD -/

/-- The state that the whole load decides on: prior mode decided, the load marked done, and a load that was cut off settled. -/
def loadStart (s : State) : State :=
  settleHeld { s with sys.active := s.sys.strap || s.sys.prior, pwr.loadDone := true, img.awaiting := [] }

/-- The verdict on the whole image of the slot in use. -/
def wholeVerdict (s : State) : LoadVerdict := validateWhole (loadStart s) (slotImage (siSlot s))

/-- What the committed sets of the slot in use give over its whole image. -/
def slotRun (s : State) : SetsRun :=
  applySets (loadStart s) (siSlot s).sets { tabs := (wholeVerdict s).tabs, vintage := imVintage (slotImage (siSlot s)) }

theorem upd_loadStart (s : State) : (loadStart s).upd = s.upd := upd_settleHeld _

theorem wholeLoadOp_eq (s : State) : wholeLoadOp s =
    if (wholeVerdict s).code = cIMAGE_OK then loadDone (slotRun s) (loadStart s)
    else loadFailed (wholeVerdict s) (slotImage (siSlot s)) (loadStart s) := by
  simp only [slotRun, wholeVerdict, ← siSlot_congr (upd_loadStart s), wholeLoadOp, beq_iff_eq]
  rfl

/-- Prior mode is decided as the whole load begins, whatever becomes of the image (R9, R485). -/
theorem active_wholeLoadOp (s : State) : (wholeLoadOp s).sys.active = (s.sys.strap || s.sys.prior) := by
  rw [← boot_active]
  simp only [wholeLoadOp]
  split <;> simp [boot_loadDone]

theorem notLoaded_wholeLoadOp {s : State} (h : (wholeVerdict s).code ≠ cIMAGE_OK) : NotLoaded (wholeVerdict s) s (wholeLoadOp s) := by
  rw [wholeLoadOp_eq, if_neg h]
  have hn := notLoaded_loadFailed (wholeVerdict s) (slotImage (siSlot s)) (loadStart s)
  rwa [NotLoaded, upd_loadStart] at hn

theorem loadedWith_wholeLoadOp {s : State} (h : (wholeVerdict s).code = cIMAGE_OK) : LoadedWith (slotRun s) (wholeLoadOp s) := by
  rw [wholeLoadOp_eq, if_pos h]
  exact loadedWith_loadDone ..

/-- Settles O35: a whole image that fails leaves the state that loadFailed gives, one that passes the state that loadDone gives. -/
theorem wholeLoadFromActiveSlot : Obligations.WholeLoadFromActiveSlot := by
  refine ⟨fun s h => ?_, fun s h => ?_, fun s h hh => ⟨fun hs => ?_, settleHeld_scheduled hh, settleHeld_committing hh⟩⟩
  · refine ⟨wholeLoadOp s, by simp [exec, execWholeLoad, h], (pwr_wholeLoadOp s).2, active_wholeLoadOp s, ?_⟩
    by_cases hc : (wholeVerdict s).code = 0
    · exact (if_neg (not_not_intro hc)).mpr (loadedWith_wholeLoadOp hc)
    · exact (if_pos hc).mpr (notLoaded_wholeLoadOp hc)
  · simp [exec, execWholeLoad, h]
  · obtain ⟨d, e⟩ := settleHeld_lost hh hs
    rw [e]
    exact ⟨rfl, rfl, d, mem_record_arising ..⟩

end Sys2Proof.Machine
end

section
/-!
Writes of points by their sources: the one writing source's, and the refused ones (R33, R40, R91, R93).
-/
namespace Sys2Proof.Machine

/-- A refused write changes the count of refusals alone in Trellis (R93). -/
@[simp] theorem trl_refuseWrite (i prov cask : Nat) (s : State) :
    (refuseWrite i prov cask s).trl = { s.trl with wrRefused := satInc s.trl.wrRefused max32 } := by
  simp only [refuseWrite]
  split
  · split <;> rfl
  · rfl

/-- A refused write from the point's own cask only counts. -/
theorem refuseWrite_own {i cask : Nat} {s : State} {p : Point} (h : pt? s i = some p) (hc : cask = p.cask) (prov : Nat) :
    refuseWrite i prov cask s = { s with trl.wrRefused := satInc s.trl.wrRefused max32 } := by
  simp only [pt?] at h
  simp [refuseWrite, pt?, h, hc]

/-- A refused write from another cask is counted and denied under R40. -/
theorem refuseWrite_foreign {i cask : Nat} {s : State} {p : Point} (h : pt? s i = some p) (hc : cask ≠ p.cask) (prov : Nat) :
    refuseWrite i prov cask s =
      denied 0x02 3 i p.cask prov cask { s with trl.wrRefused := satInc s.trl.wrRefused max32 } := by
  simp only [pt?] at h
  simp [refuseWrite, pt?, h, hc]

/-- A write by a source that is not the point's is refused (R33). -/
theorem writeBy_refused {kind idx cask i : Nat} {s : State} {p : Point} (h : pt? s i = some p)
    (hw : isWriter p kind idx cask = false) (v : DWord) (q : Byte) (st : DWord) :
    writeBy kind idx cask i v q st s = refuseWrite i kind cask s := by
  simp [writeBy, h, hw]

/-- A write by the point's source, a bad code carrying the value ON_BAD chooses (R91). -/
theorem writeQ_own {kind idx cask i : Nat} {s : State} {p : Point} (h : pt? s i = some p) (hw : isWriter p kind idx cask = true)
    (v : DWord) (q : Byte) (st : DWord) :
    writeQ kind idx cask i v q st s = putEntry i kind (if isBad q then badValue p else v) q st s := by
  simp only [writeQ, h]
  exact writeBy_own h hw ..

/-- Settles O47: a write by another source is refused, and a refusal counts, with CASK_DENIED when the casks differ. -/
theorem refusedWritesOfPoints : Obligations.RefusedWritesOfPoints := by
  intro kind idx cask i v st q s p h hw
  simp only [writeBy_refused h hw]
  refine ⟨trl_refuseWrite .., fun hc => ?_, fun hc => ?_⟩
  · rw [refuseWrite_own h hc]
    exact ⟨rfl, rfl⟩
  · rw [refuseWrite_foreign h hc]
    exact ⟨⟨_, rfl⟩, rfl⟩

end Sys2Proof.Machine
end

section
/-!
Cells, their groups and the queue of output starts: what each named update of them leaves, and what its reader gives after it
(R79, R85, R106, R107).
-/
namespace Sys2Proof.Machine

@[simp] theorem pt?_updCell (n : Nat) (f : CellSt → CellSt) (s : State) (i : Nat) : pt? (updCell n f s) i = pt? s i := rfl
@[simp] theorem points_updCell (n : Nat) (f : CellSt → CellSt) (s : State) : (updCell n f s).trl.points = s.trl.points := rfl

/-- A change of a cell is seen in that cell. -/
theorem cell_updCell (n : Nat) (f : CellSt → CellSt) (s : State) (j : Nat) :
    cell (updCell n f s) j = if j = n then f (cell s j) else cell s j := by
  split
  · next h => rw [h, cell_updCell_self]
  · next h => exact cell_updCell_ne n f s h

@[simp] theorem cell_beq_cell (i n : Nat) : (StartWho.cell i == StartWho.cell n) = (i == n) := by
  by_cases h : i = n
  · rw [h, beq_self_eq_true, beq_self_eq_true]
  · rw [beq_false_of_ne h, beq_false_of_ne fun e => h (StartWho.cell.inj e)]

@[simp] theorem trl_queueStart (w : StartWho) (s : State) : (queueStart w s).trl = s.trl :=
  (queueStart_same (M := 1048576) (.refl _ s) rfl).trl rfl

@[simp] theorem trl_unqueueStart (w : StartWho) (s : State) : (unqueueStart w s).trl = s.trl := rfl

@[simp] theorem cell_queueStart (w : StartWho) (s : State) (n : Nat) : cell (queueStart w s) n = cell s n := by
  simp only [cell, trl_queueStart]

@[simp] theorem cell_unqueueStart (w : StartWho) (s : State) (n : Nat) : cell (unqueueStart w s) n = cell s n := rfl

@[simp] theorem startQueued_updCell (n : Nat) (f : CellSt → CellSt) (s : State) (v : StartWho) :
    startQueued (updCell n f s) v = startQueued s v := rfl

@[simp] theorem startQueued_queueStart (w v : StartWho) (s : State) :
    startQueued (queueStart w s) v = (startQueued s v || w == v) := by
  unfold queueStart
  split
  · next h =>
    by_cases hv : w = v
    · simp [← hv, h]
    · simp [hv]
  · simp [startQueued]

@[simp] theorem startQueued_unqueueStart (w v : StartWho) (s : State) :
    startQueued (unqueueStart w s) v = (startQueued s v && w != v) := by
  simp only [startQueued, unqueueStart, List.any_filter]
  by_cases hv : w = v
  · subst hv
    simp
  · have : ∀ r : StartReq, (r.who != w && r.who == v) = (r.who == v) := fun r => by
      by_cases h : r.who = v <;> simp [h, Ne.symm hv]
    simp [this, hv]

/-- A fold over indices that changes at each of them its own entry of a table changes so the entries of its indices, and no other. -/
theorem foldl_each {σ α : Type} {view : σ → Nat → α} {step : σ → Nat → σ} {f : α → α}
    (hs : ∀ s i j, view (step s i) j = if j = i then f (view s j) else view s j) {l : List Nat} (hl : l.Nodup) (s : σ) (j : Nat) :
    view (l.foldl step s) j = if j ∈ l then f (view s j) else view s j := by
  induction l generalizing s with
  | nil => simp
  | cons i l ih =>
    obtain ⟨hi, hl⟩ := List.nodup_cons.mp hl
    rw [List.foldl_cons, ih hl, hs]
    by_cases hj : j = i
    · simp [hj, hi]
    · simp [hj]

end Sys2Proof.Machine
end

section
/-!
The frame (R83, R84): the frame count, the next boundary and the groups' supplies are left by everything a frame runs but its own
end and the calibration slots.
-/
namespace Sys2Proof.Machine

/-- What TRELLIS_FRAME itself sets in Trellis: the frame count, the time of the next boundary, and the groups. -/
structure Boundary where
  frame : Nat
  frameAt : Nat
  groups : Tbl Group

/-- The boundary view of a state. -/
def boundary (s : State) : Boundary := ⟨s.trl.frame, s.trl.frameAt, s.trl.groups⟩

@[simp] theorem boundary_frameAt (s : State) : (boundary s).frameAt = s.trl.frameAt := rfl

/-- An operation that leaves Trellis leaves the view. -/
theorem boundary_same {m : Nat} {s t : State} (h : Same m s t) (hm : m.testBit 8 = false) : boundary t = boundary s := by
  simp only [boundary, h.trl hm]

theorem boundary_foldl {α : Type} {f : State → α → State} (hf : ∀ s a, boundary (f s a) = boundary s) (l : List α) (s : State) :
    boundary (l.foldl f s) = boundary s :=
  foldl_keeps (P := fun t => boundary t = boundary s) (fun t a h => (hf t a).trans h) l rfl

@[simp] theorem boundary_ite {c : Prop} [Decidable c] (s t : State) :
    boundary (if c then s else t) = if c then boundary s else boundary t := apply_ite ..

@[simp] theorem boundary_updCell (n : Nat) (f : CellSt → CellSt) (s : State) : boundary (updCell n f s) = boundary s := rfl

@[simp] theorem boundary_record (code cask : Nat) (data : List Byte) (s : State) : boundary (record code cask data s) = boundary s := rfl

/-! ### Writes of points -/

@[simp] theorem boundary_putEntry0 (i prov : Nat) (v : DWord) (q : Byte) (st : DWord) (s : State) :
    boundary (putEntry0 i prov v q st s) = boundary s := by
  cases h : pt? s i with
  | none => simp only [putEntry0, h]
  | some p => simp only [boundary, putEntry0_trl h, setPt]

theorem boundary_openDoor (d : Nat) (r : DoorRec) (s : State) : boundary (openDoor d r s) = boundary s :=
  boundary_putEntry0 ..

theorem boundary_noteRelease (i : Nat) (old new : DWord) (s : State) : boundary (noteRelease i old new s) = boundary s := by
  unfold noteRelease
  split
  · refine boundary_foldl (fun t e => ?_) _ s
    split
    · exact boundary_openDoor e.1 e.2 t
    · rfl
  · rfl

theorem boundary_noteMask (s : State) : boundary (noteMask s) = boundary s := by
  unfold noteMask
  repeat' split
  all_goals simp

theorem boundary_putEntry (i prov : Nat) (v : DWord) (q : Byte) (st : DWord) (s : State) :
    boundary (putEntry i prov v q st s) = boundary s := by
  simp only [putEntry]
  repeat' split
  all_goals simp [boundary_noteMask, boundary_noteRelease]

theorem boundary_refuseWrite (i prov cask : Nat) (s : State) : boundary (refuseWrite i prov cask s) = boundary s := by
  simp only [boundary, trl_refuseWrite]

theorem boundary_writeBy (kind idx cask i : Nat) (v : DWord) (q : Byte) (st : DWord) (s : State) :
    boundary (writeBy kind idx cask i v q st s) = boundary s := by
  unfold writeBy
  repeat' split
  all_goals simp [boundary_putEntry, boundary_refuseWrite]

@[simp] theorem boundary_writeCell (n i : Nat) (v : DWord) (q : Byte) (st : DWord) (s : State) :
    boundary (writeCell n i v q st s) = boundary s := by
  simp only [writeCell, writeQ]
  repeat' split
  all_goals simp [boundary_writeBy, boundary_refuseWrite]

/-! ### The slots of a frame -/

theorem boundary_scanIn (n : Nat) (raw : F64) (s : State) : boundary (scanIn n raw s) = boundary s := by
  simp only [scanIn]
  repeat' split
  all_goals simp

theorem boundary_scanOut (n : Nat) (raw : F64) (s : State) : boundary (scanOut n raw s) = boundary s := by
  simp only [scanOut]
  repeat' split
  all_goals simp

theorem boundary_applyOutput (n : Nat) (s : State) : boundary (applyOutput n s) = boundary s := by
  simp only [applyOutput]
  repeat' split
  all_goals simp

theorem boundary_runSlot (rs : List (Nat × F64)) (n : Nat) (s : State) : boundary (runSlot rs n s) = boundary s := by
  unfold runSlot
  extract_lets r t
  have h : boundary t = boundary s := by
    unfold t
    split
    · rw [boundary_scanOut, boundary_applyOutput]
    · exact boundary_scanIn ..
  split
  · exact h
  · exact h

/-! ### Records and starts at the boundary -/

theorem boundary_activatePending (s : State) : boundary (activatePending s) = boundary s := by
  refine boundary_foldl (fun t e => ?_) _ s
  split
  · simp only [activateCell]
    repeat' split
    all_goals simp [boundary, updCell]
  · rfl

theorem boundary_releaseStarts (k : Nat) (s : State) : boundary (releaseStarts k s) = boundary s := by
  refine boundary_foldl (fun t h => ?_) _ _
  split <;> rfl

theorem boundary_deferStart (r : StartReq) (s : State) : boundary (deferStart r s) = boundary s :=
  boundary_same (deferStart_same (M := 1048592) (.refl _ s) rfl) rfl

theorem boundary_admitStart (k : Nat) (r : StartReq) (s : State) : boundary (admitStart k r s) = boundary s := by
  simp only [admitStart, noteOversize]
  repeat' split
  all_goals rfl

theorem boundary_admitPass (k : Nat) (q : List StartReq) (blocked : List Nat) (s : State) :
    boundary (admitPass k blocked q s) = boundary s := by
  induction q generalizing blocked s with
  | nil => rfl
  | cons r rest ih =>
    unfold admitPass
    split <;> simp [ih, boundary_deferStart, boundary_admitStart]

theorem boundary_startStep (k : Nat) (s : State) : boundary (startStep k s) = boundary s := by
  simp only [startStep]
  split
  · exact boundary_releaseStarts ..
  · rw [boundary_admitPass, boundary_releaseStarts]

/-! ### Calibration -/

theorem boundary_calibrate (n : Nat) (z sp : F64) (s : State) : boundary (calibrate n z sp s) = boundary s := by
  simp only [calibrate]
  repeat' split
  all_goals simp

/-- A group at its next calibration slot, in rotation (R98). -/
def nextSlot (g : Group) : Group := { g with calSlot := (g.calSlot + 1) % 16 }

/-- A calibration slot moves its group's slot on (R98), and leaves the frame count and the boundary. -/
theorem boundary_calibrateGroup (refs : List (Nat × F64 × F64)) (g : Nat) (s : State) :
    boundary (calibrateGroup refs g s) =
      { boundary s with groups := Tbl.put s.trl.groups g (nextSlot (group s g)) } := by
  unfold calibrateGroup
  extract_lets gr n _ t
  have h : ∀ z sp, boundary (calibrate n z sp t) = boundary t := fun z sp => boundary_calibrate n z sp t
  split
  · split
    · exact h ..
    · exact h ..
  · rfl

theorem group_eq_boundary (s : State) (g : Nat) : group s g = Tbl.at (boundary s).groups g {} := rfl

theorem group_calibrateGroup (refs : List (Nat × F64 × F64)) (s : State) (g h : Nat) :
    group (calibrateGroup refs g s) h =
      if h = g then nextSlot (group s h) else group s h := by
  rw [group_eq_boundary, boundary_calibrateGroup]
  split
  · next e => rw [e]; exact Tbl.at_put_self ..
  · next e => exact Tbl.at_put_ne _ _ _ e

end Sys2Proof.Machine
end

section
/-!
TRELLIS_FRAME at its boundary (R83, R84, R332).
-/
namespace Sys2Proof.Machine

/-- The state of a frame once its starts are examined and its due slots run. -/
def slotsDone (rs : List (Nat × F64)) (s : State) : State :=
  slotOrder.foldl (fun t n => if isDue (cell t n) s.trl.frame then runSlot rs n t else t)
    (startStep s.trl.frame (bumpFree (freeReleased (activatePending s))))

/-- The state of a frame once its calibration slots have run too. -/
def calibrated (rs : List (Nat × F64)) (refs : List (Nat × F64 × F64)) (s : State) : State :=
  (List.range 16).foldl (fun t g => calibrateGroup refs g t) (slotsDone rs s)

theorem frameOp_eq (rs : List (Nat × F64)) (refs : List (Nat × F64 × F64)) (s : State) :
    frameOp rs refs s = { calibrated rs refs s with
      trl.frame := s.trl.frame + 1, trl.frameAt := (calibrated rs refs s).trl.frameAt + 1000000 } := by
  unfold calibrated slotsDone
  rfl

theorem boundary_slotsDone (rs : List (Nat × F64)) (s : State) : boundary (slotsDone rs s) = boundary s := by
  have hrun : ∀ (t : State) (n : Nat),
      boundary (if isDue (cell t n) s.trl.frame then runSlot rs n t else t) = boundary t := fun t n => by
    split
    · exact boundary_runSlot ..
    · rfl
  have hfree : ∀ t, boundary (bumpFree (freeReleased t)) = boundary t := fun t =>
    boundary_same (bumpFree_same (M := 131076) (freeReleased_same (.refl _ t) rfl) rfl) rfl
  rw [slotsDone, boundary_foldl hrun, boundary_startStep, hfree, boundary_activatePending]

/-- Calibration slots leave the time of the boundary. -/
theorem frameAt_foldl_calibrateGroup (refs : List (Nat × F64 × F64)) (l : List Nat) (s : State) :
    (l.foldl (fun t g => calibrateGroup refs g t) s).trl.frameAt = s.trl.frameAt :=
  foldl_keeps (P := fun t => t.trl.frameAt = s.trl.frameAt)
    (fun t g h => (congrArg Boundary.frameAt (boundary_calibrateGroup refs g t)).trans h) l rfl

theorem frameAt_calibrated (rs : List (Nat × F64)) (refs : List (Nat × F64 × F64)) (s : State) :
    (calibrated rs refs s).trl.frameAt = s.trl.frameAt := by
  rw [calibrated, frameAt_foldl_calibrateGroup, ← boundary_frameAt, boundary_slotsDone, boundary_frameAt]

/-- Every group's calibration slot moves on by one, and its supply stands. -/
theorem group_calibrated (rs : List (Nat × F64)) (refs : List (Nat × F64 × F64)) (s : State) {g : Nat} (hg : g < 16) :
    group (calibrated rs refs s) g = nextSlot (group s g) := by
  rw [calibrated, foldl_each (view := group) (group_calibrateGroup refs) List.nodup_range, if_pos (List.mem_range.mpr hg),
    group_eq_boundary (slotsDone rs s), boundary_slotsDone, ← group_eq_boundary]

/-- The starts, the slots and the calibration leave NET as the release of flow contexts left it (mask: NET's bit is 0). -/
theorem same_calibrated (rs : List (Nat × F64)) (refs : List (Nat × F64 × F64)) (s : State) :
    Same 0x1181F4 (freeReleased (activatePending s)) (calibrated rs refs s) := by
  refine Same.foldl (fun t g h => calibrateGroup_same h rfl) (Same.foldl (fun t n h => ?_) ?_)
  · split
    · exact runSlot_same h rfl
    · exact h
  · exact startStep_same (bumpFree_same (.refl _ _) rfl) rfl

/-- No released flow context is left after a frame (R332). -/
theorem releasing_frameOp (rs : List (Nat × F64)) (refs : List (Nat × F64 × F64)) (s : State) :
    (frameOp rs refs s).net.releasing = [] := by
  have h : (calibrated rs refs s).net = (freeReleased (activatePending s)).net := (same_calibrated rs refs s).net rfl
  rw [frameOp_eq]
  simp only [h]
  rfl

theorem frameAt_frameOp (rs : List (Nat × F64)) (refs : List (Nat × F64 × F64)) (s : State) :
    (frameOp rs refs s).trl.frameAt = s.trl.frameAt + 1000000 := by
  have h := frameAt_calibrated rs refs s
  rw [frameOp_eq]
  generalize calibrated rs refs s = t at h ⊢
  simp only [h]

theorem group_frameOp (rs : List (Nat × F64)) (refs : List (Nat × F64 × F64)) (s : State) {g : Nat} (hg : g < 16) :
    group (frameOp rs refs s) g = nextSlot (group s g) := by
  have h := group_calibrated rs refs s hg
  rw [frameOp_eq]
  generalize calibrated rs refs s = t at h ⊢
  exact h

/-- What a frame cannot change: memory, the image, the engines, Press, the safety island, the Cellar, the keys and UPD. -/
theorem same_frameOp (rs : List (Nat × F64)) (refs : List (Nat × F64 × F64)) (s : State) : Same 1278260 s (frameOp rs refs s) :=
  frameOp_same (.refl _ s) rfl

theorem exec_trellisFrame_due {s : State} (hr : isRun s .trellis = true) (h : s.trl.frameAt ≤ s.now) (rs : List (Nat × F64))
    (refs : List (Nat × F64 × F64)) : exec (.trellisFrame rs refs) s = .next (frameOp rs refs s) := by
  simp [exec, execTrellisFrame, hr, h]

theorem exec_trellisFrame_early {s : State} (h : s.now < s.trl.frameAt) (rs : List (Nat × F64)) (refs : List (Nat × F64 × F64)) :
    exec (.trellisFrame rs refs) s = .next s := by
  simp [exec, execTrellisFrame, Nat.not_le.mpr h]

end Sys2Proof.Machine
end

section
/-!
The scan of an analogue input (R82, R89, R91, R518).
-/
namespace Sys2Proof.Machine

/-- A write of a point leaves the cells. -/
theorem cell_putEntry0 (i prov : Nat) (v : DWord) (q : Byte) (st : DWord) (s : State) (n : Nat) :
    cell (putEntry0 i prov v q st s) n = cell s n := by
  cases h : pt? s i with
  | none => simp only [putEntry0, h]
  | some p => simp only [cell, putEntry0_trl h, setPt]

/-- A cell that is the source of a plain point writes its entry (R33, R70). -/
theorem writeCell_plain {n i : Nat} {s : State} {p : Point} (h : pt? s i = some p) (hk : p.srcKind = pvCell) (hn : p.srcIndex = n)
    (hp : Plain s i) (v : DWord) (q : Byte) (st : DWord) :
    writeCell n i v q st s = putEntry0 i pvCell (if isBad q then badValue p else v) q st s := by
  simp only [writeCell, h]
  rw [writeQ_own h (by simp [isWriter, hk, hn]), putEntry_plain h hp]

/-- The scan of an analogue input outside a test, its arm of scanIn written out. -/
theorem scanIn_analogue {n : Nat} {s : State} {p : Point} (ha : isAnalogueIn (cell s n).rc.mode = true)
    (ht : testHolds s n = false) (hpt : pt? s (cell s n).rc.point = some p) (raw : F64) :
    scanIn n raw s =
      let r := scanInput (cell s n).rc.mode (corrected (cell s n) raw)
      let l := withSupply s n r.2
      writeCell n (cell s n).rc.point (valueOf p.type r.1) (qualityOf (l ++ (if (cell s n).calFault then [qCal] else [])))
        (slotStamp s n (cell s n).rc.point) (updCell n (fun c => { c with fault := faultOf l }) s) := by
  unfold scanIn
  have ht' : ∀ f, testHolds (updCell n f s) n = false := fun _ => ht
  extract_lets c i
  split
  · next h => simp [c, h, isAnalogueIn] at ha
  · next h => simp [c, h, isAnalogueIn] at ha
  · rw [if_pos ha]
    simp only [ht', Bool.false_eq_true, if_false, pt?_updCell, i, c, hpt]
    rfl

theorem faultOf_eq (l : List Byte) : faultOf l = if l = [] then 0 else qualityOf l := by
  cases l <;> rfl

end Sys2Proof.Machine
end

section
/-!
Digital and counting inputs between their scans (R81).
-/
namespace Sys2Proof.Machine

/-- The state a DI comparator shows at an input voltage, with its hysteresis between 5 V and 15 V. -/
def comparator (mv : Nat) (was : Bool) : Bool := if 15000 ≤ mv then true else if mv ≤ 5000 then false else was

/-- A sample of a DI cell: the first one, one that shows the comparator's present state, or one that shows the other. -/
theorem diSampleOp_eq {n : Nat} {s : State} (hm : (cell s n).rc.mode = .di) (mv : Nat) : diSampleOp n mv s =
    let on := comparator mv (cell s n).cmpOn
    let st := ptStamp s (cell s n).rc.point
    if !(cell s n).sampled then
      updCell n (fun c => { c with sampled := true, cmpOn := on, cmpSince := s.now, cmpStamp := st, filtStamp := st }) s
    else if on == (cell s n).cmpOn then s
    else updCell n (fun c => { c with cmpOn := on, cmpSince := s.now, cmpStamp := st }) s :=
  if_neg (by simp [hm])

/-- What a sample leaves in its cell, whichever of the three it is. -/
theorem cell_diSampleOp {n : Nat} {s : State} (hm : (cell s n).rc.mode = .di) (mv : Nat) :
    (cell (diSampleOp n mv s) n).sampled = true ∧ (cell (diSampleOp n mv s) n).filtOn = (cell s n).filtOn ∧
    (cell (diSampleOp n mv s) n).cmpOn = comparator mv (cell s n).cmpOn ∧
    (comparator mv (cell s n).cmpOn ≠ (cell s n).cmpOn → (cell (diSampleOp n mv s) n).cmpSince = s.now ∧
      (cell (diSampleOp n mv s) n).cmpStamp = ptStamp s (cell s n).rc.point) := by
  rw [diSampleOp_eq hm]
  cases h : (cell s n).sampled with
  | false => simp
  | true =>
    by_cases hc : comparator mv (cell s n).cmpOn = (cell s n).cmpOn
    · simp [h, hc]
    · simp [h, hc]

/-- A sample after the first that leaves the comparator's state changes nothing. -/
theorem diSampleOp_unchanged {n mv : Nat} {s : State} (hm : (cell s n).rc.mode = .di) (hs : (cell s n).sampled = true)
    (h : (cell (diSampleOp n mv s) n).cmpOn = (cell s n).cmpOn) : diSampleOp n mv s = s := by
  obtain ⟨-, -, hc, -⟩ := cell_diSampleOp hm mv
  simp [diSampleOp_eq hm, hs, hc.symm.trans h]

theorem comparator_high {mv : Nat} (h : 15000 ≤ mv) (was : Bool) : comparator mv was = true := if_pos h

theorem comparator_low {mv : Nat} (h : mv ≤ 5000) (was : Bool) : comparator mv was = false := by
  rw [comparator, if_neg (by omega), if_pos h]

theorem comparator_between {mv : Nat} (hl : 5000 < mv) (hh : mv < 15000) (was : Bool) : comparator mv was = was := by
  rw [comparator, if_neg (by omega), if_neg (by omega)]

theorem exec_diSample {s : State} (hr : isRun s .trellis = true) (n : Fin 256) (mv : Nat) :
    exec (.diSample n mv) s = .next (diSampleOp n mv s) := by
  simp [exec, execDiSample, hr]

theorem exec_diSample_other {n : Fin 256} {s : State} (h : (cell s n).rc.mode ≠ .di) (mv : Nat) :
    exec (.diSample n mv) s = .next s := by
  simp [exec, execDiSample, diSampleOp, h]

theorem exec_diFilterElapsed {n : Fin 256} {s : State} (hr : isRun s .trellis = true) (hm : (cell s n).rc.mode = .di)
    (hs : (cell s n).sampled = true) (hc : (cell s n).cmpOn ≠ (cell s n).filtOn)
    (ht : (cell s n).cmpSince + (cell s n).rc.filterMs * 1000000 ≤ s.now) :
    exec (.diFilterElapsed n) s = .next (updCell n (fun c => { c with filtOn := c.cmpOn, filtStamp := c.cmpStamp }) s) := by
  simp [exec, execDiFilterElapsed, hr, hm, hs, hc, ht]

theorem exec_diFilterElapsed_early {n : Fin 256} {s : State}
    (ht : s.now < (cell s n).cmpSince + (cell s n).rc.filterMs * 1000000) : exec (.diFilterElapsed n) s = .next s := by
  simp [exec, execDiFilterElapsed, Nat.not_le.mpr ht]

/-- A pulse of at least 40 us high and low counts. -/
theorem exec_countEdge_long {n : Fin 256} {hi lo : Nat} {s : State} (hr : isRun s .trellis = true)
    (hm : (cell s n).rc.mode = .count) (hh : 40 ≤ hi) (hl : 40 ≤ lo) :
    exec (.countEdge n hi lo) s = .next (updCell n (fun c => { c with count := c.count + 1 }) s) := by
  simp [exec, execCountEdge, countOp, hr, hm, hh, hl]

/-- The glitch filter takes away a pulse shorter than 20 us, high or low. -/
theorem exec_countEdge_glitch {hi lo : Nat} (h : hi < 20 ∨ lo < 20) (n : Fin 256) (s : State) :
    exec (.countEdge n hi lo) s = .next s := by
  have hlong : ¬(40 ≤ hi ∧ 40 ≤ lo) := by omega
  simp [exec, execCountEdge, countOp, h, hlong]

theorem exec_countEdge_other {n : Fin 256} {s : State} (h : (cell s n).rc.mode ≠ .count) (hi lo : Nat) :
    exec (.countEdge n hi lo) s = .next s := by
  simp [exec, execCountEdge, countOp, h]

end Sys2Proof.Machine
end

section
/-!
Snapshots of points and writes by partitions (R71, R76, R93, R108, R109).
-/
namespace Sys2Proof.Machine

@[simp] theorem ptBank_updPtBank (iss : Issuer) (f : PtBank → PtBank) (s : State) :
    ptBank (updPtBank iss f s) iss = f (ptBank s iss) := Tbl.at_upd_self ..

@[simp] theorem points_updPtBank (iss : Issuer) (f : PtBank → PtBank) (s : State) :
    (updPtBank iss f s).trl.points = s.trl.points := rfl

@[simp] theorem ptBank_denied (k b o t d c : Nat) (s : State) (iss : Issuer) : ptBank (denied k b o t d c s) iss = ptBank s iss := rfl

/-- A refusal under R40 is recorded as CASK_DENIED with the issuing cask. -/
theorem mem_denied_arising (k b o t d c : Nat) (s : State) :
    ∃ data, { code := cCASK_DENIED, cask := c, data := data } ∈ (denied k b o t d c s).arising := ⟨_, mem_record_arising ..⟩

/-- A write of a point leaves every bank. -/
theorem ptBank_putEntry0 (i prov : Nat) (v : DWord) (q : Byte) (st : DWord) (s : State) (iss : Issuer) :
    ptBank (putEntry0 i prov v q st s) iss = ptBank s iss := by
  cases h : pt? s i with
  | none => simp only [putEntry0, h]
  | some p => simp only [ptBank, putEntry0_trl h, setPt]

@[simp] theorem ptBank_refuseWrite (i prov cask : Nat) (s : State) (iss : Issuer) :
    ptBank (refuseWrite i prov cask s) iss = ptBank s iss := by
  simp only [ptBank, trl_refuseWrite]

/-- TRL_PT_WR_HI and TRL_PT_WR_LO together are the value written. -/
theorem ofNat_hi_lo (hi lo : Word) : (BitVec.ofNat 64 (hi.toNat * 2 ^ 32 + lo.toNat) : DWord) = hi ++ lo := by
  apply BitVec.eq_of_toNat_eq
  rw [BitVec.toNat_append, ← Nat.shiftLeft_add_eq_or_of_lt lo.isLt, Nat.shiftLeft_eq, BitVec.toNat_ofNat, Nat.mod_eq_of_lt]
  have := hi.isLt
  have := lo.isLt
  omega

/-- An accepted write by a partition is the write of its entry. -/
theorem partWriteOp_ok {iss : Issuer} {i : Nat} {q : Byte} {s : State} {p : Point} (h : pt? s i = some p)
    (hw : partWriteOk iss p q = true) (hp : Plain s i) :
    partWriteOp iss i q s = putEntry0 i pvPartition ((ptBank s iss).wrHi ++ (ptBank s iss).wrLo) q (ptStamp s i)
      (updPtBank iss (fun b => { b with wrRefused := false }) s) := by
  simp only [partWriteOp, h, hw, if_true, ofNat_hi_lo, -Nat.reducePow]
  exact putEntry_plain (s := updPtBank iss _ s) (p := p) h hp ..

/-- The entry and the bank that an accepted write by a partition leaves; every other entry is as it was. -/
theorem partWriteOp_writes {iss : Issuer} {i : Nat} {q : Byte} {s : State} {p : Point} (h : pt? s i = some p)
    (hw : partWriteOk iss p q = true) (hp : Plain s i) :
    pt? (partWriteOp iss i q s) i = some (entryWrite p pvPartition ((ptBank s iss).wrHi ++ (ptBank s iss).wrLo)
      (timeQuality s p q) (ptStamp s i)) ∧
    (ptBank (partWriteOp iss i q s) iss).wrRefused = false ∧
    ∀ k, k ≠ i → pt? (partWriteOp iss i q s) k = pt? s k := by
  have hu : pt? (updPtBank iss (fun b => { b with wrRefused := false }) s) i = some p := h
  rw [partWriteOp_ok h hw hp]
  refine ⟨pt?_putEntry0_self hu .., ?_, fun k hk => pt?_putEntry0_ne hk ..⟩
  rw [ptBank_putEntry0, ptBank_updPtBank]

/-- Any other write by a partition leaves the entries, counts as refused, and its bank says so. -/
theorem partWriteOp_refused {iss : Issuer} {i : Nat} {q : Byte} {s : State}
    (hw : ∀ p, pt? s i = some p → partWriteOk iss p q = false) :
    (partWriteOp iss i q s).trl.points = s.trl.points ∧ (ptBank (partWriteOp iss i q s) iss).wrRefused = true ∧
    (partWriteOp iss i q s).trl.wrRefused = satInc s.trl.wrRefused max32 := by
  have h : partWriteOp iss i q s =
      refuseWrite i pvPartition iss.cask (updPtBank iss (fun b => { b with wrRefused := true }) s) := by
    cases h : pt? s i with
    | none => simp [partWriteOp, h]
    | some p => simp [partWriteOp, h, hw p h]
  rw [h, ptBank_refuseWrite, ptBank_updPtBank, trl_refuseWrite]
  exact ⟨rfl, rfl, rfl⟩

end Sys2Proof.Machine
end

section
/-!
Frames, inputs and point access assembled (R81 to R84, R93, R108, R109, R518).
-/
namespace Sys2Proof.Machine

/-- The entry and the FAULT that a scan of an analogue input outside a test leaves. -/
theorem scanIn_plain {n : Nat} {s : State} {p : Point} (ha : isAnalogueIn (cell s n).rc.mode = true)
    (ht : testHolds s n = false) (hpt : pt? s (cell s n).rc.point = some p) (hk : p.srcKind = pvCell) (hn : p.srcIndex = n)
    (hp : Plain s (cell s n).rc.point) (raw : F64) :
    let r := scanInput (cell s n).rc.mode (corrected (cell s n) raw)
    let l := withSupply s n r.2
    let q := qualityOf (l ++ (if (cell s n).calFault then [qCal] else []))
    pt? (scanIn n raw s) (cell s n).rc.point = some (entryWrite p pvCell (if isBad q then badValue p else valueOf p.type r.1)
      (timeQuality s p q) (slotStamp s n (cell s n).rc.point)) ∧
    (cell (scanIn n raw s) n).fault = (if l = [] then 0 else qualityOf l) := by
  intro r l q
  have hu : pt? (updCell n (fun c => { c with fault := faultOf l }) s) (cell s n).rc.point = some p := hpt
  rw [scanIn_analogue ha ht hpt, writeCell_plain hu hk hn hp]
  refine ⟨pt?_putEntry0_self hu .., ?_⟩
  rw [cell_putEntry0, cell_updCell_self]
  exact faultOf_eq l

/-- Settles O40: the frame by its boundary view, the scan by the entry it writes, the inputs by the comparator, and the accesses
by the bank and the entry each of them sets. -/
theorem trellisFramesInputsAndPointAccess : Obligations.TrellisFramesInputsAndPointAccess := by
  refine ⟨fun rs refs s hr => ⟨fun h => ?frame, fun h => exec_trellisFrame_early h rs refs⟩,
    fun n raw s p ha ht hpt hk hn hp => scanIn_plain ha ht hpt hk hn hp raw,
    fun n mv s hr => ⟨fun hm => ⟨?sample, fun hs hc hf => ?filter, exec_diFilterElapsed_early⟩,
      fun hi lo hm => ⟨fun hh hl => ?count, fun h => exec_countEdge_glitch h n s⟩,
      fun hi lo hm => exec_countEdge_other hm hi lo, fun hm => exec_diSample_other hm mv⟩,
    fun iss i s h => ⟨fun p hpt hread => ?snapshot, fun p hpt hread => ?notReadable, fun hpt => ?undefined⟩,
    fun iss i q s h =>
      ⟨fun p hpt hw hp => answers_regCmd h rfl (partWriteOp_writes (s := { s with reply := .none }) hpt hw hp),
        fun hw => answers_regCmd h rfl (partWriteOp_refused (s := { s with reply := .none }) hw)⟩⟩
  case frame =>
    have hsame := same_frameOp rs refs s
    exact ⟨_, exec_trellisFrame_due hr h rs refs, rfl, frameAt_frameOp rs refs s, releasing_frameOp rs refs s,
      fun g hg => by rw [group_frameOp rs refs s hg]; exact ⟨rfl, rfl⟩,
      hsame.mem rfl, hsame.img rfl, hsame.pge rfl, hsame.lpe rfl, hsame.prs rfl, hsame.saf rfl, hsame.cel rfl, hsame.key rfl,
      hsame.upd rfl⟩
  case sample =>
    obtain ⟨hsamp, hfilt, hcmp, hnew⟩ := cell_diSampleOp hm mv
    refine ⟨_, exec_diSample hr n mv, hsamp, hfilt, fun h => ?_, fun h => ?_, fun hl hh => ?_, diSampleOp_unchanged hm, ?_⟩
    · rw [hcmp, comparator_high h]
    · rw [hcmp, comparator_low h]
    · rw [hcmp, comparator_between hl hh]
    · rw [hcmp]
      exact hnew
  case filter =>
    refine ⟨_, exec_diFilterElapsed hr hm hs hc hf, ?_, ?_, rfl⟩ <;> rw [cell_updCell_self]
  case count => exact ⟨_, exec_countEdge_long hr hm hh hl, by rw [cell_updCell_self], rfl⟩
  case snapshot =>
    refine answers_regCmd h rfl ?_
    have hpt' : pt? { s with reply := .none } i = some p := hpt
    simp [snapshotOp, hpt', hread]
  case notReadable =>
    refine answers_regCmd h rfl ?_
    have hpt' : pt? { s with reply := .none } i = some p := hpt
    simp only [snapshotOp, hpt', hread, Bool.false_eq_true, if_false]
    refine ⟨?_, ?_, rfl, mem_denied_arising ..⟩ <;> rw [ptBank_denied, ptBank_updPtBank]
  case undefined =>
    refine answers_regCmd h rfl ?_
    have hpt' : pt? { s with reply := .none } i = none := hpt
    simp [snapshotOp, hpt']

end Sys2Proof.Machine
end

section
/-!
Outputs between their scans: releases, turn-offs, trips, retries and PWM edges (R80, R82, R85, R105, R107).
-/
namespace Sys2Proof.Machine

theorem exec_startRelease {n : Fin 256} {s : State} {k : Nat} (h : (cell s n).holdTo = some k) :
    exec (.startRelease n) s = .next (if k ≤ s.trl.frame then
      updCell n (fun c => { c with holdTo := none })
        { s with pwr.startHeld := s.pwr.startHeld.filter (fun h => h.who != .cell n.val) } else s) := by
  simp only [exec, execStartRelease, h]

/-- An off command turns its output off and withdraws its queued start. -/
theorem turnOffOp_off {n : Nat} {s : State} (ho : isOutput (cell s n).rc.mode = true) (hc : cmdOn (command s (cell s n)) = false) :
    turnOffOp n s = unqueueStart (.cell n) (updCell n (fun c =>
      { c with drive := 0, driving := false, pwmOn := false, go := false, tripAt := none }) s) := by
  simp [turnOffOp, ho, hc]

/-- An on command turns no DO or PWM output off. -/
theorem turnOffOp_on {n : Nat} {s : State} (hc : cmdOn (command s (cell s n)) = true)
    (hm : (cell s n).rc.mode = .doOut ∨ (cell s n).rc.mode = .pwm) : turnOffOp n s = s := by
  rcases hm with hm | hm <;> simp [turnOffOp, hc, hm, isOutput]

theorem exec_outputTurnOff {s : State} (hr : isRun s .trellis = true) (n : Fin 256) :
    exec (.outputTurnOff n) s = .next (turnOffOp n s) := by
  simp [exec, execOutputTurnOff, hr]

theorem exec_doTripRetry {n : Fin 256} {s : State} {k : Nat} (h : (cell s n).tripAt = some k) (hr : isRun s .trellis = true) :
    exec (.doTripRetry n) s = .next (if k + 1000000000 ≤ s.now ∧ cmdOn (command s (cell s n)) = true then
      queueStart (.cell n) (updCell n (fun c => { c with tripAt := some s.now }) s) else s) := by
  simp [exec, execDoTripRetry, h, hr]

/-- At 1.0 A or more a driving DO or PWM output trips (R80). -/
theorem exec_doShortTrip {n : Fin 256} {ma : Nat} {s : State} (hm : (cell s n).rc.mode = .doOut ∨ (cell s n).rc.mode = .pwm)
    (hd : (cell s n).driving = true) (h : 1000 ≤ ma) :
    exec (.doShortTrip n ma) s = .next (updCell n (fun c =>
      { c with driving := false, pwmOn := false, drive := 0, go := false, tripAt := some s.now }) s) := by
  simp [exec, execDoShortTrip, hm, hd, h]

theorem exec_doShortTrip_below {ma : Nat} (h : ma < 1000) (n : Fin 256) (s : State) : exec (.doShortTrip n ma) s = .next s := by
  simp [exec, execDoShortTrip, Nat.not_le.mpr h]

theorem exec_pwmPhaseEdge {n : Fin 256} {s : State} (hr : isRun s .trellis = true) (hm : (cell s n).rc.mode = .pwm)
    (hd : (cell s n).driving = true) :
    exec (.pwmPhaseEdge n) s = .next (
      if (cell s n).pwmAt + pwmPeriodNs n ≤ s.now then updCell n (fun c => { c with pwmOn := true, pwmAt := s.now }) s
      else if (cell s n).pwmOn = true ∧ (cell s n).pwmAt + pwmOnNs n (cell s n).drive ≤ s.now then
        updCell n (fun c => { c with pwmOn := false }) s
      else s) := by
  simp [exec, execPwmPhaseEdge, pwmEdgeOp, hr, hm, hd]

/-- A PWM period is at least 10 ms and at most 60 s (Table 3.1). -/
theorem pwmPeriodNs_bounds (n : Nat) : 10000000 ≤ pwmPeriodNs n ∧ pwmPeriodNs n ≤ 60000000000 := by
  simp only [pwmPeriodNs]
  omega

end Sys2Proof.Machine
end

section
/-!
The supply of a group of cells (R79).
-/
namespace Sys2Proof.Machine

theorem mem_groupCells {g n : Nat} : n ∈ groupCells g ↔ n / 16 = g := by
  simp only [groupCells, List.mem_map, List.mem_range]
  constructor
  · rintro ⟨i, hi, rfl⟩
    omega
  · intro h
    exact ⟨n % 16, by omega, by omega⟩

theorem nodup_groupCells (g : Nat) : (groupCells g).Nodup :=
  List.Pairwise.map _ (fun _ _ h e => h (Nat.add_left_cancel e)) List.nodup_range

/-- The supply of a group noted as good or low. -/
def setSupply (g : Nat) (ok : Bool) (s : State) : State :=
  { s with trl.groups := Tbl.put s.trl.groups g { group s g with fsupOk := ok } }

@[simp] theorem group_setSupply_self (g : Nat) (ok : Bool) (s : State) :
    group (setSupply g ok s) g = { group s g with fsupOk := ok } := Tbl.at_put_self ..

theorem group_setSupply_ne {g h : Nat} (e : h ≠ g) (ok : Bool) (s : State) : group (setSupply g ok s) h = group s h :=
  Tbl.at_put_ne _ _ _ e

@[simp] theorem cell_setSupply (g : Nat) (ok : Bool) (s : State) (n : Nat) : cell (setSupply g ok s) n = cell s n := rfl

@[simp] theorem startQueued_setSupply (g : Nat) (ok : Bool) (s : State) (w : StartWho) :
    startQueued (setSupply g ok s) w = startQueued s w := rfl

@[simp] theorem wantsStart_setSupply (g : Nat) (ok : Bool) (s : State) (n : Nat) : wantsStart (setSupply g ok s) n = wantsStart s n := rfl

/-! ### FSUP low -/

/-- What a group without its supply does to one of its cells. -/
def unpower (c : CellSt) : CellSt := { c with drive := 0, driving := false, pwmOn := false, go := false, loopOn := false }

/-- A cell whose group loses its supply: its queued start is withdrawn and it is unpowered. -/
def unpowerCell (s : State) (n : Nat) : State := updCell n unpower (unqueueStart (.cell n) s)

theorem fsupLowOp_eq (g : Nat) (s : State) : fsupLowOp g s = (groupCells g).foldl unpowerCell (setSupply g false s) := rfl

theorem cell_fsupLowOp (g : Nat) (s : State) (n : Nat) :
    cell (fsupLowOp g s) n = if n / 16 = g then unpower (cell s n) else cell s n := by
  rw [fsupLowOp_eq, foldl_each (view := cell) (f := unpower) (fun t i j => ?_) (nodup_groupCells g)]
  · simp only [mem_groupCells, cell_setSupply]
  · rw [unpowerCell, cell_updCell, cell_unqueueStart]

@[simp] theorem group_unpowerCell (s : State) (n h : Nat) : group (unpowerCell s n) h = group s h := rfl

theorem group_fsupLowOp (g : Nat) (s : State) (h : Nat) : group (fsupLowOp g s) h = group (setSupply g false s) h := by
  rw [fsupLowOp_eq]
  exact foldl_keeps (P := fun t => group t h = group (setSupply g false s) h) (fun t n e => (group_unpowerCell t n h).trans e) _ rfl

theorem startQueued_foldl_unpowerCell (l : List Nat) (s : State) (n : Nat) :
    startQueued (l.foldl unpowerCell s) (.cell n) = (startQueued s (.cell n) && !l.contains n) := by
  induction l generalizing s with
  | nil => simp
  | cons i l ih =>
    rw [List.foldl_cons, ih, unpowerCell, startQueued_updCell, startQueued_unqueueStart, bne, cell_beq_cell]
    by_cases h : i = n
    · simp [h]
    · simp [beq_false_of_ne h, Ne.symm h]

theorem startQueued_fsupLowOp {g n : Nat} (h : n / 16 = g) (s : State) : startQueued (fsupLowOp g s) (.cell n) = false := by
  rw [fsupLowOp_eq, startQueued_foldl_unpowerCell]
  simp [mem_groupCells, h]

/-! ### FSUP restored -/

/-- A cell of a group whose supply is back: a start is queued if it is wanted on. -/
def resumeCell (s : State) (n : Nat) : State :=
  if wantsStart s n then queueStart (.cell n) (updCell n (fun c => { c with go := false }) s) else s

theorem fsupRestoredOp_eq (g : Nat) (s : State) :
    fsupRestoredOp g s = (groupCells g).foldl resumeCell (setSupply g true s) := rfl

/-- A resumed cell differs at most in the start it had been admitted to. -/
theorem cell_resumeCell (s : State) (i n : Nat) : ∃ b, cell (resumeCell s i) n = { cell s n with go := b } := by
  unfold resumeCell
  split
  · rw [cell_queueStart, cell_updCell]
    split
    · exact ⟨false, rfl⟩
    · exact ⟨_, rfl⟩
  · exact ⟨_, rfl⟩

@[simp] theorem points_resumeCell (s : State) (i : Nat) : (resumeCell s i).trl.points = s.trl.points := by
  unfold resumeCell
  split
  · rw [trl_queueStart]
    rfl
  · rfl

@[simp] theorem group_resumeCell (s : State) (i h : Nat) : group (resumeCell s i) h = group s h := by
  unfold resumeCell
  split
  · simp only [group, trl_queueStart]
    rfl
  · rfl

/-- A command is the points' and the cell's record, whatever start the cell had been admitted to. -/
theorem command_congr {s t : State} (h : t.trl.points = s.trl.points) (c : CellSt) (b : Bool) :
    command t { c with go := b } = command s c := by
  have hraw : rawCommand t { c with go := b } = rawCommand s c := by
    unfold rawCommand
    simp only [pt?, h]
  simp only [command, hraw]

@[simp] theorem wantsStart_resumeCell (s : State) (i n : Nat) : wantsStart (resumeCell s i) n = wantsStart s n := by
  obtain ⟨b, hb⟩ := cell_resumeCell s i n
  simp only [wantsStart, hb, command_congr (points_resumeCell s i)]

theorem startQueued_resumeCell (s : State) (i n : Nat) :
    startQueued (resumeCell s i) (.cell n) = (startQueued s (.cell n) || (i == n && wantsStart s n)) := by
  unfold resumeCell
  by_cases h : i = n
  · subst h
    split <;> simp_all
  · split <;> simp [beq_false_of_ne h]

theorem startQueued_foldl_resumeCell (l : List Nat) (s : State) (n : Nat) :
    startQueued (l.foldl resumeCell s) (.cell n) = (startQueued s (.cell n) || (l.contains n && wantsStart s n)) := by
  induction l generalizing s with
  | nil => simp
  | cons i l ih =>
    rw [List.foldl_cons, ih, startQueued_resumeCell, wantsStart_resumeCell, List.contains_cons, Bool.beq_comm]
    cases startQueued s (.cell n) <;> cases i == n <;> cases wantsStart s n <;> simp

theorem startQueued_fsupRestoredOp {g n : Nat} (h : n / 16 = g) (s : State) :
    startQueued (fsupRestoredOp g s) (.cell n) = (startQueued s (.cell n) || wantsStart s n) := by
  rw [fsupRestoredOp_eq, startQueued_foldl_resumeCell]
  simp [mem_groupCells, h]

theorem driving_fsupRestoredOp (g : Nat) (s : State) (n : Nat) :
    (cell (fsupRestoredOp g s) n).driving = (cell s n).driving := by
  rw [fsupRestoredOp_eq]
  refine foldl_keeps (P := fun t => (cell t n).driving = (cell s n).driving) (fun t i h => ?_) _ rfl
  obtain ⟨b, hb⟩ := cell_resumeCell t i n
  rw [hb]
  exact h

theorem fsupOk_fsupRestoredOp (g : Nat) (s : State) : (group (fsupRestoredOp g s) g).fsupOk = true := by
  rw [fsupRestoredOp_eq]
  exact foldl_keeps (P := fun t => (group t g).fsupOk = true) (fun t i h => by rwa [group_resumeCell]) _ (by simp)

theorem exec_groupFsupLow (g : Fin 16) (mv : Nat) (s : State) :
    exec (.groupFsupLow g mv) s = .next (if mv < 16000 then fsupLowOp g s else s) := rfl

theorem exec_groupFsupRestored {g : Fin 16} {mv ms : Nat} {s : State} (hv : 17000 ≤ mv) (ht : 10 ≤ ms)
    (h : (group s g).fsupOk = false) : exec (.groupFsupRestored g mv ms) s = .next (fsupRestoredOp g s) := by
  simp [exec, execGroupFsupRestored, hv, ht, h]

theorem exec_groupFsupRestored_not {g : Fin 16} {mv ms : Nat} {s : State}
    (h : mv < 17000 ∨ ms < 10 ∨ (group s g).fsupOk = true) : exec (.groupFsupRestored g mv ms) s = .next s := by
  rcases h with h | h | h
  · simp [exec, execGroupFsupRestored, Nat.not_le.mpr h]
  · simp [exec, execGroupFsupRestored, Nat.not_le.mpr h]
  · simp [exec, execGroupFsupRestored, h]

end Sys2Proof.Machine
end

section
/-!
Cell tests: how one starts and how it ends (R90, R100 to R104, R495).
-/
namespace Sys2Proof.Machine

/-- A test ended is done with its code, and the end is recorded with its cell and type. -/
theorem testEnded_endTest (code : Nat) (err : Word) (s : State) : TestEnded code s (endTest code err s) :=
  ⟨rfl, rfl, rfl, mem_record_arising ..⟩

/-- The state in which a start is judged: TRL_TEST_CTRL holds what was written. -/
def testAsked (n type timeout : Nat) (s : State) : State :=
  setCtl .trl 0x0100 (packW [(16, timeout % 64), (8, type % 16), (0, n % 256)]) s

/-- A start of any cask but 0 and 63 does nothing. -/
theorem testStartOp_other {iss : Issuer} (h0 : iss.cask.val ≠ 0) (h63 : iss.cask.val ≠ 63) (n type timeout : Nat) (s : State) :
    testStartOp iss n type timeout s = s := by
  simp [testStartOp, h0, h63]

/-- The state in which a start that no running test refuses names its test. -/
def testNamed (iss : Issuer) (n type timeout : Nat) (s : State) : State :=
  { testAsked n type timeout s with
    trl.test.cell := n, trl.test.type := type, trl.test.timeout := timeout, trl.test.cask := iss.cask.val }

/-- A test that starts runs from now on, and holds its cell's point. -/
def testBegun (iss : Issuer) (n type timeout : Nat) (s : State) : State :=
  { testNamed iss n type timeout s with
    trl.test.state := .running, trl.test.startedAt := s.now, trl.test.err := 0, trl.test.heldCell := some n }

/-- The point held keeps its value, stamp and SEQ under UNDER_TEST (R90, R101). -/
def holdPoint (o : Option Nat) (s : State) : State :=
  match o with
  | some i => match pt? s i with
    | some p => setPt i { p with quality := qTest, prov := pvTrellis } s
    | none => s
  | none => s

/-- A start by cask 0 or 63: refused while a test runs (R100), ended at once where the type does not fit (R102), else begun. -/
theorem testStartOp_eq {iss : Issuer} (hi : iss.cask.val = 0 ∨ iss.cask.val = 63) (n type timeout : Nat) (s : State) :
    testStartOp iss n type timeout s =
      if s.trl.test.state == .running then
        { testAsked n type timeout s with trl.test.code := cTEST_BUSY, reply := .code cTEST_BUSY }
      else if !testFits type (cell s n).rc.mode then endTest cTEST_MODE 0 (testNamed iss n type timeout s)
      else holdPoint (testPoint (cell s n)) (testBegun iss n type timeout s) :=
  if_neg (by rcases hi with hi | hi <;> simp [hi])

@[simp] theorem test_holdPoint (o : Option Nat) (s : State) : (holdPoint o s).trl.test = s.trl.test := by
  unfold holdPoint
  repeat' split
  all_goals rfl

theorem pt?_holdPoint {i : Nat} {s : State} {p : Point} (h : pt? s i = some p) :
    pt? (holdPoint (some i) s) i = some { p with quality := qTest, prov := pvTrellis } := by
  simp only [holdPoint, h, pt?_setPt_self]

/-- While a test runs a start is refused and leaves the test as it is (R100). -/
theorem testStartOp_busy {iss : Issuer} {s : State} (hi : iss.cask.val = 0 ∨ iss.cask.val = 63)
    (hs : s.trl.test.state = .running) (n type timeout : Nat) :
    (testStartOp iss n type timeout s).trl.test = { s.trl.test with code := cTEST_BUSY } ∧
    (testStartOp iss n type timeout s).reply = .code cTEST_BUSY ∧
    (testStartOp iss n type timeout s).trl.points = s.trl.points := by
  rw [testStartOp_eq hi, if_pos (by simp [hs])]
  exact ⟨rfl, rfl, rfl⟩

/-- A type that does not fit the cell's mode ends the test just named (R102). -/
theorem testStartOp_unfit {iss : Issuer} {n type : Nat} {s : State} (hi : iss.cask.val = 0 ∨ iss.cask.val = 63)
    (hs : s.trl.test.state ≠ .running) (hf : testFits type (cell s n).rc.mode = false) (timeout : Nat) :
    TestEnded cTEST_MODE (testNamed iss n type timeout s) (testStartOp iss n type timeout s) := by
  rw [testStartOp_eq hi, if_neg (by simp [hs]), if_pos (by simp [hf])]
  exact testEnded_endTest ..

/-- A type that fits begins the test, which holds the cell's point (R101). -/
theorem testStartOp_begins {iss : Issuer} {n type : Nat} {s : State} (hi : iss.cask.val = 0 ∨ iss.cask.val = 63)
    (hs : s.trl.test.state ≠ .running) (hf : testFits type (cell s n).rc.mode = true) (timeout : Nat) :
    (testStartOp iss n type timeout s).trl.test = (testBegun iss n type timeout s).trl.test ∧
    ∀ i, testPoint (cell s n) = some i → ∀ p, pt? s i = some p →
      pt? (testStartOp iss n type timeout s) i = some { p with quality := qTest, prov := pvTrellis } := by
  rw [testStartOp_eq hi, if_neg (by simp [hs]), if_neg (by simp [hf])]
  refine ⟨test_holdPoint .., fun i hi p hp => ?_⟩
  rw [hi]
  exact pt?_holdPoint hp

theorem testEnded_testStopOp {s : State} (h : s.trl.test.state = .running) : TestEnded cTEST_STOPPED s (testStopOp s) := by
  simp only [testStopOp, h, beq_self_eq_true, if_true]
  exact testEnded_endTest ..

theorem testStopOp_idle {s : State} (h : s.trl.test.state ≠ .running) : testStopOp s = s := by simp [testStopOp, h]

/-- A completed test ends with the code Table 3.9 gives its results. -/
theorem testEnded_testCompleteOp {s : State} (h : s.trl.test.state = .running) (rs : List (F64 × F64)) (wire : Bool) :
    TestEnded
      (if rs.all (resultOk s.trl.test.type (cell s s.trl.test.cell).rc.mode) && (wire || s.trl.test.type != 2) then 0x0300
       else if s.trl.test.type = 1 ∨ s.trl.test.type = 4 then 0x0301 else 0x0302) s (testCompleteOp rs wire s) := by
  simp only [testCompleteOp, h, bne_self_eq_false, Bool.false_eq_true, if_false, Bool.or_eq_true, beq_iff_eq]
  exact testEnded_endTest ..

theorem exec_cellTestComplete {s : State} (hr : isRun s .trellis = true) (rs : List (F64 × F64)) (wire : Bool) :
    exec (.cellTestComplete rs wire) s = .next (testCompleteOp rs wire s) := by
  simp [exec, execCellTestComplete, hr]

theorem testTimeoutS_eq (t : Nat) : testTimeoutS t = if t = 0 ∨ 60 < t then 60 else t := by
  simp [testTimeoutS]

theorem exec_cellTestTimeout {s : State} (h : s.trl.test.state = .running) :
    exec .cellTestTimeout s = .next (if s.trl.test.startedAt + testTimeoutS s.trl.test.timeout * 1000000000 ≤ s.now then
      endTest cTEST_TIMEOUT s.trl.test.err s else s) := by
  simp [exec, execCellTestTimeout, h]

/-- The Trellis abort by cask 0 stops a running test (R494, R495). -/
theorem exec_trellisAbort {iss : Issuer} {s : State} (hi : iss.cask.val = 0) (h : Permits s iss .sys 0x0030 true)
    (hr : isRun s .trellis = true) :
    exec (.trellisAbort iss) s = .next (abortDone 3 (testStopOp { s with reply := .none })) := by
  have hr' : isRun { s with reply := .none } .trellis = true := hr
  simp [exec, execTrellisAbort, abortCmd, regCmd_ok h, isOwner, hi, abortTarget, hr']

end Sys2Proof.Machine
end

section
/-!
Outputs, group supplies and cell tests assembled (R79 to R82, R85, R90, R100 to R107, R495).
-/
namespace Sys2Proof.Machine

/-- Settles O41: each command is its operation at the case in hand; FSUP's two folds over a group's cells are read cell by cell,
and every end of a test is endTest. -/
theorem trellisOutputsSuppliesAndCellTests : Obligations.TrellisOutputsSuppliesAndCellTests := by
  refine ⟨fun n s k hk => ⟨fun h => ?release, fun h => ?held⟩,
    fun n s hr ho => ⟨fun hc => ?turnOff, fun hc hm => ?stayOn, fun k hk ht hc => ?retry, fun k hk h => ?noRetry⟩,
    fun n ma s => ⟨fun hm hd h => ?trip, fun h => exec_doShortTrip_below h n s⟩,
    fun g mv ms s => ⟨fun h => ?fsupLow, fun h => ?fsupStays, fun hv ht h => ?fsupBack, exec_groupFsupRestored_not⟩,
    fun n s hr hm hd => ⟨⟨_, exec_pwmPhaseEdge hr hm hd, ?pwm⟩, pwmPeriodNs_bounds n⟩,
    fun iss n ty tmo s h => ⟨fun h0 h63 => ?startOther, fun hi => ⟨fun hs => ?startBusy, fun hs hf => ?startUnfit, fun hs hf => ?start⟩,
      fun hs => ?stop, fun hs => ?stopIdle⟩,
    fun rs wire s hr hs => ?complete, fun s hs => ⟨fun h => ?timeout, fun h => ?notYet⟩,
    fun iss s hi h hr => ⟨fun hs => ?abort, fun hs => ?abortIdle⟩⟩
  case release =>
    refine ⟨_, (exec_startRelease hk).trans (congrArg _ (if_pos h)), ?_, rfl, ?_⟩ <;> rw [cell_updCell_self]
    rfl
  case held => exact (exec_startRelease hk).trans (congrArg _ (if_neg (Nat.not_le.mpr h)))
  case turnOff =>
    refine ⟨_, exec_outputTurnOff hr n, ?_⟩
    rw [turnOffOp_off ho hc]
    simp
  case stayOn => rw [exec_outputTurnOff hr, turnOffOp_on hc hm]
  case retry =>
    refine ⟨_, (exec_doTripRetry hk hr).trans (congrArg _ (if_pos ⟨ht, hc⟩)), ?_⟩
    simp
  case noRetry =>
    refine (exec_doTripRetry hk hr).trans (congrArg _ (if_neg fun ⟨ht, hc⟩ => ?_))
    rcases h with h | h
    · omega
    · simp [hc] at h
  case trip =>
    refine ⟨_, exec_doShortTrip hm hd h, ?_, ?_, ?_, ?_⟩ <;> rw [cell_updCell_self]
  case fsupLow =>
    refine ⟨_, (exec_groupFsupLow g mv s).trans (congrArg _ (if_pos h)), ?_, fun j hj => ?_, fun n hn => ?_, fun n hn => ?_⟩
    · rw [group_fsupLowOp, group_setSupply_self]
    · rw [group_fsupLowOp, group_setSupply_ne hj]
    · rw [cell_fsupLowOp, if_pos hn, startQueued_fsupLowOp hn]
      exact ⟨rfl, rfl, rfl, rfl⟩
    · rw [cell_fsupLowOp, if_neg hn]
  case fsupStays => exact (exec_groupFsupLow g mv s).trans (congrArg _ (if_neg (Nat.not_lt.mpr h)))
  case fsupBack =>
    refine ⟨_, exec_groupFsupRestored hv ht h, fsupOk_fsupRestoredOp g s, fun n hn => ?_, driving_fsupRestoredOp g s⟩
    rw [startQueued_fsupRestoredOp hn, Bool.or_eq_true]
  case pwm =>
    split
    · rw [cell_updCell_self]
      exact ⟨rfl, rfl⟩
    · split
      · rw [cell_updCell_self]
        exact ⟨rfl, rfl⟩
      · rfl
  case startOther => exact (regCmd_ok h _).trans (congrArg _ (testStartOp_other h0 h63 ..))
  case startBusy => exact answers_regCmd h rfl (testStartOp_busy (s := { s with reply := .none }) hi hs ..)
  case startUnfit => exact answers_regCmd h rfl (testStartOp_unfit (s := { s with reply := .none }) hi hs hf tmo)
  case start =>
    obtain ⟨ht, hp⟩ := testStartOp_begins (s := { s with reply := .none }) hi hs hf tmo
    exact answers_regCmd h rfl ⟨by rw [ht]; rfl, by rw [ht]; rfl, by rw [ht]; rfl, by rw [ht]; rfl, hp⟩
  case stop => exact answers_regCmd h rfl (testEnded_testStopOp (s := { s with reply := .none }) hs)
  case stopIdle => exact (regCmd_ok h _).trans (congrArg _ (testStopOp_idle hs))
  case complete => exact ⟨_, exec_cellTestComplete hr rs wire, testEnded_testCompleteOp hs rs wire⟩
  case timeout =>
    rw [← testTimeoutS_eq] at h
    exact ⟨_, (exec_cellTestTimeout hs).trans (congrArg _ (if_pos h)), testEnded_endTest ..⟩
  case notYet =>
    rw [← testTimeoutS_eq] at h
    exact (exec_cellTestTimeout hs).trans (congrArg _ (if_neg (Nat.not_le.mpr h)))
  case abort => exact ⟨_, exec_trellisAbort hi h hr, testEnded_testStopOp (s := { s with reply := .none }) hs, bitOf_abortDone ..⟩
  case abortIdle =>
    rw [Answers, exec_trellisAbort hi h hr, testStopOp_idle (s := { s with reply := .none }) hs]
    exact ⟨_, rfl, rfl, rfl, bitOf_abortDone ..⟩

end Sys2Proof.Machine
end

section
/-!
What dispatch does to tasks and processors: a processor takes an item, counts cycles for a cask, or lets its item go (R114 to R116,
R145).
-/
namespace Sys2Proof.Machine

@[simp] theorem taskSt_updProc (p : Fin 2) (f : Proc → Proc) (s : State) (n : Nat) : taskSt (updProc p f s) n = taskSt s n := by
  unfold updProc; split <;> rfl

@[simp] theorem proc_updProc_self (p : Fin 2) (f : Proc → Proc) (s : State) : proc (updProc p f s) p = f (proc s p) := by
  by_cases h : p = 0 <;> simp [proc, updProc, h]

@[simp] theorem taskSt_charge (p : Fin 2) (c k : Nat) (s : State) (n : Nat) : taskSt (charge p c k s) n = taskSt s n :=
  taskSt_updProc p _ s n

@[simp] theorem taskSt_freeProc (p : Fin 2) (s : State) (n : Nat) : taskSt (freeProc p s) n = taskSt s n := taskSt_updProc p _ s n

@[simp] theorem taskSt_freeItem (i : Item) (s : State) (n : Nat) : taskSt (freeItem i s) n = taskSt s n := by
  unfold freeItem
  dsimp only
  split <;> split <;> simp

@[simp] theorem running_updTask (n : Nat) (f : TaskSt → TaskSt) (s : State) (p : Fin 2) :
    running (updTask n f s) p = running s p := rfl

@[simp] theorem running_freeProc_self (p : Fin 2) (s : State) : running (freeProc p s) p = none := by simp [running, freeProc]

/-! ### Cycles counted (R114) -/

@[simp] theorem usedBy_updProc (p : Fin 2) (f : Proc → Proc) (s : State) (c : Nat) : usedBy (updProc p f s) c = usedBy s c := by
  unfold updProc; split <;> rfl

@[simp] theorem usedBy_updTask (n : Nat) (f : TaskSt → TaskSt) (s : State) (c : Nat) : usedBy (updTask n f s) c = usedBy s c := rfl

@[simp] theorem usedBy_freeProc (p : Fin 2) (s : State) (c : Nat) : usedBy (freeProc p s) c = usedBy s c := usedBy_updProc p _ s c

@[simp] theorem usedBy_charge_self (p : Fin 2) (c k : Nat) (s : State) : usedBy (charge p c k s) c = usedBy s c + k := by
  by_cases h : p = 0 <;> simp [charge, usedBy, updProc, h]

@[simp] theorem mem_charge (p : Fin 2) (c k : Nat) (s : State) : (charge p c k s).mem = s.mem := updProc_mem p _ s

@[simp] theorem mem_freeProc (p : Fin 2) (s : State) : (freeProc p s).mem = s.mem := updProc_mem p _ s

/-- Cycles counted twice for a cask are counted as their sum. -/
theorem charge_charge (p : Fin 2) (c k l : Nat) (s : State) : charge p c l (charge p c k s) = charge p c (k + l) s := by
  by_cases h : p = 0 <;> simp [charge, updProc, usedBy, h, Nat.add_assoc]

/-! ### A processor takes an item -/

/-- A processor runs the item it takes. -/
@[simp] theorem running_startItem (p : Fin 2) (i : Item) (s : State) : running (startItem p i s) p = some i := by
  obtain ⟨n, work⟩ := i
  cases work <;> simp [running, startItem]

@[simp] theorem mem_startItem (p : Fin 2) (i : Item) (s : State) : (startItem p i s).mem = s.mem := by
  obtain ⟨n, work⟩ := i
  cases work <;> simp [startItem]

@[simp] theorem usedBy_startItem (p : Fin 2) (i : Item) (s : State) (c : Nat) : usedBy (startItem p i s) c = usedBy s c := by
  obtain ⟨n, work⟩ := i
  cases work <;> simp [startItem, updCyc]

/-- Of the task whose work is taken, the processor is noted, and the registers kept for it are in use. -/
theorem taskSt_startItem_work {i : Item} (hw : i.work = true) (p : Fin 2) (s : State) : taskSt (startItem p i s) i.n =
    { taskSt s i.n with exch := { (taskSt s i.n).exch with proc := some p.val, ctx := none } } := by
  simp [startItem, hw]

/-! ### What no switch of a processor changes (R116) -/

/-- What a task keeps when processors take it or let it go: its program, and where its exchange stands. -/
def underDispatch (t : TaskSt) : TaskProg × ExchState × Option Nat := (t.prog, t.exch.st, t.exch.boundaryAt)

theorem underDispatch_updTask (n : Nat) (s : State) (m : Nat) {f : TaskSt → TaskSt}
    (hf : ∀ t, underDispatch (f t) = underDispatch t) :
    underDispatch (taskSt (updTask n f s) m) = underDispatch (taskSt s m) := by
  by_cases h : m = n
  · rw [h, taskSt_updTask_self, hf]
  · rw [taskSt_updTask_ne _ _ _ h]

theorem underDispatch_startItem (p : Fin 2) (i : Item) (s : State) (m : Nat) :
    underDispatch (taskSt (startItem p i s) m) = underDispatch (taskSt s m) := by
  unfold startItem
  dsimp only
  split <;> rw [taskSt_updProc] <;> exact underDispatch_updTask _ s m fun _ => rfl

theorem underDispatch_switchOut (p : Fin 2) (s : State) (m : Nat) :
    underDispatch (taskSt (switchOut p s) m) = underDispatch (taskSt s m) := by
  unfold switchOut
  dsimp only
  split
  · rw [taskSt_updProc]
    split <;> exact underDispatch_updTask _ s m fun _ => rfl
  · rfl

/-- Either nothing is switched, or one processor lets its item go and takes another, at the cost of 24 cycles. -/
theorem maybeSwitch_cases (s : State) :
    maybeSwitch s = s ∨ ∃ p r, maybeSwitch s = startItem p r (charge p (r.n / 32) 24 (switchOut p s)) := by
  unfold maybeSwitch
  split
  · exact .inl rfl
  · split
    · extract_lets p last
      split
      · exact .inr ⟨p, _, rfl⟩
      · exact .inl rfl
    · exact .inl rfl

theorem underDispatch_maybeSwitch (s : State) (m : Nat) : underDispatch (taskSt (maybeSwitch s) m) = underDispatch (taskSt s m) := by
  rcases maybeSwitch_cases s with h | ⟨p, r, h⟩ <;> rw [h]
  rw [underDispatch_startItem, taskSt_charge, underDispatch_switchOut]

/-- While a processor is free none is switched. -/
theorem maybeSwitch_of_free {s : State} (h : running s 0 = none ∨ running s 1 = none) : maybeSwitch s = s := by
  rcases h with h | h <;> simp [maybeSwitch, h]

end Sys2Proof.Machine
end

section
/-!
Program exchange: the boundary, the work, the switch and the failure of a task's exchange (R145 to R156).
-/
namespace Sys2Proof.Machine

@[simp] theorem taskSt_record (code cask : Nat) (data : List Byte) (s : State) (n : Nat) :
    taskSt (record code cask data s) n = taskSt s n := rfl

@[simp] theorem taskSt_updPCask (c : Nat) (f : PCask → PCask) (s : State) (n : Nat) : taskSt (updPCask c f s) n = taskSt s n := rfl

/-- With no release held the end of the work takes none (R146). -/
theorem takeHeld_none {n : Nat} {s : State} (h : (taskSt s n).exch.held = none) : takeHeld n s = s := by simp [takeHeld, h]

/-- A task of a cask names the cask and its number there. -/
theorem mtn_div (c : Fin 63) (k : Fin 32) : mtn c k / 32 = c := by unfold mtn; omega

theorem mtn_mod (c : Fin 63) (k : Fin 32) : mtn c k % 32 = k := by unfold mtn; omega

/-! ### The boundary (R145) -/

/-- A task at its exchange boundary. -/
def atBoundary (now : Nat) (t : TaskSt) : TaskSt := { t with exch.boundaryAt := some now }

theorem exec_exchangeBoundary {c : Fin 63} {k : Fin 32} {s : State} (hr : isRun s .prog = true)
    (hw : (taskSt s (mtn c k)).exch.st = .waiting) (hb : (taskSt s (mtn c k)).exch.boundaryAt = none)
    (hc : (taskSt s (mtn c k)).cyc = none) :
    exec (.exchangeBoundary c k) s = .next (maybeSwitch (updTask (mtn c k) (atBoundary s.now) s)) := by
  simp [exec, execExchangeBoundary, hr, hw, hb, hc]
  rfl

theorem exec_exchangeBoundary_not {c : Fin 63} {k : Fin 32} {s : State}
    (h : (taskSt s (mtn c k)).cyc ≠ none ∨ (taskSt s (mtn c k)).exch.st ≠ .waiting) :
    exec (.exchangeBoundary c k) s = .next s := by
  rcases h with h | h <;> simp [exec, execExchangeBoundary, h]

/-- The boundary is noted, and dispatch changes neither a program nor a point; a free processor needs no switch. -/
theorem exchangeBoundary_reached {n : Nat} {s : State} (hw : (taskSt s n).exch.st = .waiting) :
    let t := maybeSwitch (updTask n (atBoundary s.now) s)
    inWork (taskSt t n) = true ∧ (taskSt t n).exch.boundaryAt = some s.now ∧ (∀ m, (taskSt t m).prog = (taskSt s m).prog) ∧
    t.trl = s.trl ∧ ((running s 0 = none ∨ running s 1 = none) → ∀ m, m ≠ n → taskSt t m = taskSt s m) := by
  intro t
  have keeps := underDispatch_maybeSwitch (updTask n (atBoundary s.now) s)
  obtain ⟨-, hst, hb⟩ : (taskSt t n).prog = (taskSt s n).prog ∧ (taskSt t n).exch.st = .waiting ∧
      (taskSt t n).exch.boundaryAt = some s.now := by simpa [underDispatch, atBoundary, hw] using keeps n
  refine ⟨by simp [inWork, hst, hb], hb, fun m => ?_, (maybeSwitch_same (.refl 512 _) rfl).trl rfl, fun hf m hm => ?_⟩
  · refine (congrArg Prod.fst (keeps m)).trans ?_
    by_cases h : m = n
    · rw [h, taskSt_updTask_self]
      rfl
    · rw [taskSt_updTask_ne _ _ _ h]
      rfl
  · rw [show t = _ from maybeSwitch_of_free hf, taskSt_updTask_ne _ _ _ hm]

/-! ### The work (R147, R150, R154) -/

theorem exec_exchangeWork_taken {p : Fin 2} {s : State} {i : Item} (hr : isRun s .prog = true) (hp : running s p = none)
    (hi : firstItem s (readyItems s) = some i) (hw : i.work = true) :
    exec (.exchangeWork p) s = .next (matchWork p i (startItem p i s)) := by
  simp [exec, execExchangeWork, hr, hp, hi, hw, workOp]

/-- Work whose instances are matched is not matched again. -/
theorem matchWork_matched {i : Item} {s : State} (h : (taskSt s i.n).exch.matched = true) (p : Fin 2) : matchWork p i s = s := by
  simp [matchWork, h]

theorem exec_exchangeWork_idle {p : Fin 2} {s : State} (hp : running s p = none) (hi : firstItem s (readyItems s) = none) :
    exec (.exchangeWork p) s = .next s := by simp [exec, execExchangeWork, hp, hi]

theorem exec_exchangeWork_busy {p : Fin 2} {s : State} {i : Item} (hp : running s p = some i)
    (h : i.work = false ∨ (taskSt s i.n).exch.matched = true) : exec (.exchangeWork p) s = .next s := by
  rcases h with h | h <;> simp [exec, execExchangeWork, hp, h, matchWork_matched]

/-- What is kept costs the 4 cycles of its matching, and nothing of it is written. -/
theorem matchInst_kept {old : List InstRec} {r : InstRec} (h : fateOf old r = .kept) (p : Fin 2) (n : Nat) (s : State) :
    matchInst p n old s r = charge p (n / 32) 4 s := by
  simp [matchInst, h, fateCycles]

theorem foldl_matchInst_kept {old new : List InstRec} (h : ∀ r ∈ new, fateOf old r = .kept) (p : Fin 2) (n k : Nat) (s : State) :
    new.foldl (matchInst p n old) (charge p (n / 32) k s) = charge p (n / 32) (k + 4 * new.length) s := by
  induction new generalizing k with
  | nil => rfl
  | cons r rest ih =>
    obtain ⟨hr, hrest⟩ := List.forall_mem_cons.mp h
    rw [List.foldl_cons, matchInst_kept hr, charge_charge, ih hrest, List.length_cons, Nat.mul_succ, Nat.add_assoc, Nat.add_comm 4]

/-- Work without a migration routine left is done, and its processor free (R152). -/
theorem nextRoutine_nil {n : Nat} {s : State} (h : (taskSt s n).exch.toMigrate = []) (p : Fin 2) :
    nextRoutine p n s = updTask n (fun t => { t with exch.done := true, exch.proc := none }) (freeProc p s) := by
  simp [nextRoutine, h]

/-- Work whose instances are all kept is done once they are matched: 200 cycles, and 4 for each of them (R154). -/
theorem matchWork_kept {i : Item} {s : State} {g : TaskProg} (hm : (taskSt s i.n).exch.matched = false)
    (hg : (taskSt s i.n).exch.staged = some g) (ht : (taskSt s i.n).exch.toMigrate = [])
    (hk : ∀ r ∈ g.insts, fateOf (taskSt s i.n).prog.insts r = .kept) (p : Fin 2) :
    matchWork p i s =
      updTask i.n (fun t => { t with exch.done := true, exch.proc := none }) (freeProc p
        (updTask i.n (fun t => { t with exch.matched := true }) (charge p (i.n / 32) (200 + 4 * g.insts.length) s))) := by
  simp only [matchWork, hm, hg, Bool.false_eq_true, if_false]
  rw [foldl_matchInst_kept hk, nextRoutine_nil (by simpa using ht)]

/-! ### The switch (R147, R153) -/

/-- The program that a switch puts in force. -/
def switchProg (t : TaskSt) : TaskProg := t.exch.staged.getD { rc := t.prog.rc }

/-- Retentive lines of the instances that a switch does not keep. -/
def switchLines (t : TaskSt) : List Nat :=
  ((switchProg t).insts.filter (fun r => match fateOf t.prog.insts r with | .kept => false | _ => true)).foldl
    (fun ls r => (retLines r).foldl (fun d l => addLine l d) ls) []

/-- Output points of the old program that the new one does not carry. -/
def switchGone (t : TaskSt) : List Nat := t.prog.outSlots.filter (fun i => !(switchProg t).outSlots.contains i)

/-- The events of a switch and its journal. -/
def switchJournal (n : Nat) (s : State) : State :=
  let t := taskSt s n
  let u := coldEvents n t.prog.insts (switchProg t).insts s
  if (switchLines t).isEmpty && (hashTable (switchProg t).insts).isEmpty then u
  else journalOp (n / 32) (switchLines t) (pcask u (n / 32)).clk (hashTable (switchProg t).insts) u

/-- A task with the program `new` in force and its exchange ended. -/
def switchedTask (new : TaskProg) (lines : List Nat) (t : TaskSt) : TaskSt :=
  { t with
    exist := !t.exch.remove, prog := new, dirty := t.dirty.filter (fun l => !lines.contains l),
    exch := { t.exch with st := .current, code := cEXCH_DONE, vintage := t.exch.stagedVintage, staged := none, remove := false,
                          boundaryAt := none, proc := none, matched := false, toMigrate := [], done := false, ctx := none } }

/-- The task switched and its cask told. -/
def switchTask (n : Nat) (s : State) : State :=
  updPCask (n / 32) (fun k => { k with lastExch := cEXCH_DONE })
    (updTask n (switchedTask (switchProg (taskSt s n)) (switchLines (taskSt s n))) (switchJournal n s))

/-- A new trigger passes over what was written before it. -/
def switchTrigger (n : Nat) (t : TaskSt) (s : State) : State :=
  if t.exist && t.prog.rc.trigger == (switchProg t).rc.trigger && t.prog.rc.trigPoint == (switchProg t).rc.trigPoint then s
  else passTrigger n s

/-- Points wait for their substitute values. -/
def substLater (is : List Nat) (s : State) : State := { s with stn.toSubst := s.stn.toSubst ++ is }

@[simp] theorem taskSt_substLater (is : List Nat) (s : State) (n : Nat) : taskSt (substLater is s) n = taskSt s n := rfl

/-- A switch is its journal, the task in one step, its trigger, and the points that go. -/
theorem switchOp_eq (n : Nat) (s : State) : switchOp n s =
    takeHeld n (substLater (switchGone (taskSt s n)) (switchTrigger n (taskSt s n) (switchTask n s))) := rfl

/-- What the journal of a switch, which writes ferroelectric memory and events, leaves: the tasks, their data and the points. -/
structure JournalKeeps (s t : State) : Prop where
  tasks : t.pge.tasks = s.pge.tasks
  inst : t.mem.inst = s.mem.inst
  trl : t.trl = s.trl

theorem journalKeeps_switchJournal (n : Nat) (s : State) : JournalKeeps s (switchJournal n s) := by
  have cold := fun old new => coldEvents_same (a0 := n) (a1 := old) (a2 := new) (.refl 16 s) rfl
  have keeps : ∀ old new, JournalKeeps s (coldEvents n old new s) := fun old new =>
    ⟨by rw [(cold old new).pge rfl], by rw [(cold old new).mem rfl], (cold old new).trl rfl⟩
  unfold switchJournal
  dsimp only
  split
  · exact keeps ..
  · obtain ⟨htasks, hinst, htrl⟩ := keeps (taskSt s n).prog.insts (switchProg (taskSt s n)).insts
    exact ⟨htasks, hinst, htrl⟩

/-- A task whose trigger has been looked at. -/
def Looked (t u : TaskSt) : Prop := ∃ q b r, u = { t with seenSeq := q, prev := b, raised := r }

/-- Looking at a trigger notes in the task what was seen, and nothing else. -/
theorem passTrigger_cases (n : Nat) (s : State) :
    passTrigger n s = s ∨ ∃ f, passTrigger n s = updTask n f s ∧ ∀ t, Looked t (f t) := by
  unfold passTrigger seeTrigger
  dsimp only
  split
  · split
    · split
      · exact .inl rfl
      · exact .inr ⟨_, rfl, fun _ => ⟨_, _, _, rfl⟩⟩
    · exact .inl rfl
  · split
    · exact .inr ⟨_, rfl, fun _ => ⟨_, _, _, rfl⟩⟩
    · exact .inl rfl
  · exact .inr ⟨_, rfl, fun _ => ⟨_, _, _, rfl⟩⟩
  · exact .inl rfl

/-- So does the look that a switch takes at a new trigger. -/
theorem switchTrigger_cases (n : Nat) (t : TaskSt) (s : State) :
    switchTrigger n t s = s ∨ ∃ f, switchTrigger n t s = updTask n f s ∧ ∀ t, Looked t (f t) := by
  unfold switchTrigger
  split
  · exact .inl rfl
  · exact passTrigger_cases n s

theorem looked_switchTrigger (n : Nat) (t : TaskSt) (s : State) : Looked (taskSt s n) (taskSt (switchTrigger n t s) n) := by
  rcases switchTrigger_cases n t s with h | ⟨f, h, hf⟩ <;> rw [h]
  · exact ⟨_, _, _, rfl⟩
  · rw [taskSt_updTask_self]
    exact hf _

@[simp] theorem pcask_switchTrigger (n : Nat) (t : TaskSt) (s : State) (c : Nat) : pcask (switchTrigger n t s) c = pcask s c := by
  rcases switchTrigger_cases n t s with h | ⟨f, h, -⟩ <;> rw [h]
  rfl

theorem switchTrigger_same (n : Nat) (t : TaskSt) (s : State) : Same 512 s (switchTrigger n t s) := by
  unfold switchTrigger
  split
  · exact .refl _ s
  · exact passTrigger_same (.refl _ s) rfl

theorem taskSt_switchJournal (n : Nat) (s : State) (m : Nat) : taskSt (switchJournal n s) m = taskSt s m := by
  simp only [taskSt, (journalKeeps_switchJournal n s).tasks]

theorem taskSt_switchTask (n : Nat) (s : State) :
    taskSt (switchTask n s) n = switchedTask (switchProg (taskSt s n)) (switchLines (taskSt s n)) (taskSt s n) := by
  rw [switchTask, taskSt_updPCask, taskSt_updTask_self, taskSt_switchJournal]

theorem pcask_switchTask (n : Nat) (s : State) : (pcask (switchTask n s) (n / 32)).lastExch = cEXCH_DONE := by
  rw [switchTask, pcask_updPCask_self]

theorem exec_exchangeSwitch {c : Fin 63} {k : Fin 32} {s : State} (hr : isRun s .prog = true)
    (hw : (taskSt s (mtn c k)).exch.st = .waiting) (hd : (taskSt s (mtn c k)).exch.done = true) :
    exec (.exchangeSwitch c k) s = .next (switchOp (mtn c k) s) := by simp [exec, execExchangeSwitch, hr, hw, hd]

theorem exec_exchangeSwitch_not {c : Fin 63} {k : Fin 32} {s : State} (hd : (taskSt s (mtn c k)).exch.done = false) :
    exec (.exchangeSwitch c k) s = .next s := by simp [exec, execExchangeSwitch, hd]

/-- The switch puts the staged program in force, ends the exchange, and leaves the gone outputs to be substituted. -/
theorem switchOp_done {n : Nat} {s : State} {new : TaskProg} (hg : (taskSt s n).exch.staged = some new)
    (hh : (taskSt s n).exch.held = none) :
    let t := switchOp n s
    (taskSt t n).prog = new ∧ (taskSt t n).exist = !(taskSt s n).exch.remove ∧ (taskSt t n).exch.st = .current ∧
    (taskSt t n).exch.code = cEXCH_DONE ∧ (taskSt t n).exch.vintage = (taskSt s n).exch.stagedVintage ∧
    (pcask t (n / 32)).lastExch = cEXCH_DONE ∧ t.mem.inst = s.mem.inst ∧ t.trl = s.trl ∧
    ∀ i ∈ (taskSt s n).prog.outSlots, i ∉ new.outSlots → i ∈ t.stn.toSubst := by
  have hp : switchProg (taskSt s n) = new := by simp [switchProg, hg]
  obtain ⟨q, b, r, hl⟩ := looked_switchTrigger n (taskSt s n) (switchTask n s)
  rw [taskSt_switchTask, hp] at hl
  have same := switchTrigger_same n (taskSt s n) (switchTask n s)
  obtain ⟨-, hinst, htrl⟩ := journalKeeps_switchJournal n s
  have hgone : ∀ i ∈ (taskSt s n).prog.outSlots, i ∉ new.outSlots → i ∈ switchGone (taskSt s n) := fun i hi hn =>
    List.mem_filter.mpr ⟨hi, by simp [hp, hn]⟩
  rw [switchOp_eq, takeHeld_none (by rw [taskSt_substLater, hl]; exact hh)]
  refine ⟨congrArg (·.prog) hl, congrArg (·.exist) hl, congrArg (·.exch.st) hl, congrArg (·.exch.code) hl,
    congrArg (·.exch.vintage) hl, ?_, (congrArg (·.inst) (same.mem rfl)).trans hinst, (same.trl rfl).trans htrl,
    fun i hi hni => List.mem_append_right _ (hgone i hi hni)⟩
  exact (congrArg PCask.lastExch (pcask_switchTrigger ..)).trans (pcask_switchTask n s)

/-! ### The time limit (R155, R156) -/

/-- A task whose exchange has failed. -/
def failedTask (code : Nat) (t : TaskSt) : TaskSt :=
  { t with exch := { t.exch with
    st := .failed, code := code, staged := none, remove := false, boundaryAt := none, proc := none, matched := false,
    toMigrate := [], done := false, ctx := none } }

/-- With no release held, a failed exchange frees the processor, marks the task, tells its cask and is recorded. -/
theorem failExchange_eq {n : Nat} {s : State} (h : (taskSt s n).exch.held = none) (code : Nat) : failExchange n code s =
    record code (n / 32) (d1 (n % 32)) (updPCask (n / 32) (fun k => { k with lastExch := code })
      (updTask n (failedTask code) (freeItem { n := n, work := true } s))) :=
  takeHeld_none (by simpa [failedTask] using h)

theorem exec_exchTime {c : Fin 63} {k : Fin 32} {s : State} {b : Nat} (hb : (taskSt s (mtn c k)).exch.boundaryAt = some b)
    (hw : (taskSt s (mtn c k)).exch.st = .waiting) (he : (taskSt s (mtn c k)).exist = true) :
    exec (.exchTime c k) s = .next (if b + wdogNs (taskSt s (mtn c k)).prog.rc < s.now then failExchange (mtn c k) cEXCH_TIME s
      else s) := by
  simp [exec, execExchTime, hb, hw, he]

/-- An exchange out of time fails with EXCH_TIME, the old program staying. -/
theorem failExchange_time {c : Fin 63} {k : Fin 32} {s : State} (hh : (taskSt s (mtn c k)).exch.held = none) :
    let t := failExchange (mtn c k) cEXCH_TIME s
    (taskSt t (mtn c k)).exch.st = .failed ∧ (taskSt t (mtn c k)).exch.code = cEXCH_TIME ∧
    (taskSt t (mtn c k)).exch.staged = none ∧ (taskSt t (mtn c k)).prog = (taskSt s (mtn c k)).prog ∧
    { code := cEXCH_TIME, cask := c, data := d1 k } ∈ t.arising := by
  rw [failExchange_eq hh, mtn_div, mtn_mod]
  simp [failedTask]

end Sys2Proof.Machine
end

section
/-!
The loss of a remote station (R161 to R164).
-/
namespace Sys2Proof.Machine

/-- A station that is lost. -/
def lostStn (bus : Bool) (outs : List Nat) (t : Stn) : Stn :=
  { t with st := .lost, busFault := bus, losses := satInc t.losses 0xFFFF, proved := [], closed := outs }

/-- The station lost, the losses counted, and its input points and status point left to be substituted. -/
def lostCounted (n : Nat) (bus : Bool) (t : Stn) (s : State) : State :=
  let w := updStn n (lostStn bus (stnOutputs s n t)) (withdraw n t s)
  { w with stn := { w.stn with
    lostTotal := satInc w.stn.lostTotal max32,
    lost := Tbl.put w.stn.lost t.cask (satInc (Tbl.at w.stn.lost t.cask 0) max32),
    toSubst := w.stn.toSubst ++ stnInputs s n t ++ [t.statusPoint] } }

/-- The loss of a station that is present or proving is counted and recorded, and its tasks are told. -/
theorem loseStation_eq {n : Nat} {s : State} {t : Stn} (h : Tbl.get? s.stn.tbl n = some t)
    (hst : t.st = .present ∨ t.st = .proving) (bus : Bool) : loseStation n bus s =
    raiseLost n (stnTasks (lostCounted n bus t s) (stnInputs s n t) (stnOutputs s n t))
      (record cSTATION_LOST t.cask (d2 n) (lostCounted n bus t s)) := by
  have live : (t.st == .absent || t.st == .lost) = false := by rcases hst with h | h <;> simp [h]
  simp only [loseStation, h, live, Bool.false_eq_true, if_false]
  rfl

/-- A station that is absent or lost already is not lost. -/
theorem loseStation_not {n : Nat} {s : State} {t : Stn} (h : Tbl.get? s.stn.tbl n = some t)
    (hst : t.st = .absent ∨ t.st = .lost) (bus : Bool) : loseStation n bus s = s := by
  rcases hst with hst | hst <;> simp [loseStation, h, hst]

/-- What the loss of a station does to the stations and the points that wait for their substitute values. -/
theorem stn_loseStation {n : Nat} {s : State} {t : Stn} (h : Tbl.get? s.stn.tbl n = some t)
    (hst : t.st = .present ∨ t.st = .proving) (bus : Bool) : (loseStation n bus s).stn = { s.stn with
      tbl := Tbl.upd s.stn.tbl n {} (lostStn bus (stnOutputs s n t)),
      lostTotal := satInc s.stn.lostTotal max32,
      lost := Tbl.put s.stn.lost t.cask (satInc (Tbl.at s.stn.lost t.cask 0) max32),
      toSubst := s.stn.toSubst ++ stnInputs s n t ++ [t.statusPoint] } := by
  have hw : (withdraw n t s).stn = s.stn := (withdraw_same (.refl 196608 s) rfl).stn rfl
  rw [loseStation_eq h hst, (raiseLost_same (.refl 528 _) rfl).stn rfl]
  simp only [record, lostCounted, updStn, hw]
  rfl

/-- STATION_LOST is recorded with the station's cask. -/
theorem stationLost_arises {n : Nat} {s : State} {t : Stn} (h : Tbl.get? s.stn.tbl n = some t)
    (hst : t.st = .present ∨ t.st = .proving) (bus : Bool) :
    { code := cSTATION_LOST, cask := t.cask, data := d2 n } ∈ (loseStation n bus s).arising := by
  rw [loseStation_eq h hst]
  exact (grows_raiseLost ..).mem (by simp)

theorem trl_loseStation (n : Nat) (bus : Bool) (s : State) : (loseStation n bus s).trl = s.trl :=
  (loseStation_same (.refl 229904 s) rfl).trl rfl

theorem exec_stationLost {n : Fin 1024} {s : State} {t : Stn} (h : Tbl.get? s.stn.tbl n = some t) :
    exec (.stationLost n) s = .next (if t.lastAt + t.wdogMs * 1000000 ≤ s.now then loseStation n false s else s) := by
  simp only [exec, execStationLost, h]

end Sys2Proof.Machine
end

section
/-!
Program exchange and station loss assembled (R145 to R156, R161 to R163).
-/
namespace Sys2Proof.Machine

/-- Settles O45: the boundary by what dispatch leaves of tasks, the work by the cycles of what is kept, the switch by its stages, the
time limit by the failed exchange, and the loss by what it counts and leaves to be substituted. -/
theorem programExchangeAndStationLoss : Obligations.ProgramExchangeAndStationLoss := by
  refine ⟨fun c k s => ⟨fun hr hw hb hc => ?boundary, exec_exchangeBoundary_not, fun new hr hw hd hg hh => ?switch,
      exec_exchangeSwitch_not, fun b hb hw he => ⟨fun h hh => ?time, fun h => ?inTime⟩⟩,
    fun p s i g hr hp hi hw hg => ⟨fun hm => ?resumed, fun hm ht hk => ?kept⟩, fun p s h => ?noWork,
    fun n s x hx => ⟨fun h hst => ?lost, fun h => ?notYet, fun hst => ?notLive⟩⟩
  case boundary => exact ⟨_, exec_exchangeBoundary hr hw hb hc, exchangeBoundary_reached hw⟩
  case switch =>
    have done := switchOp_done hg hh
    rw [show (32 * c.val + k.val) / 32 = c from mtn_div c k] at done
    exact ⟨_, exec_exchangeSwitch hr hw hd, done⟩
  case time => exact ⟨_, (exec_exchTime hb hw he).trans (congrArg _ (if_pos h)), failExchange_time hh⟩
  case inTime => exact (exec_exchTime hb hw he).trans (congrArg _ (if_neg (Nat.not_lt.mpr h)))
  case resumed =>
    have hs := taskSt_startItem_work hw p s
    refine ⟨_, (exec_exchangeWork_taken hr hp hi hw).trans (congrArg _ (matchWork_matched (by rw [hs]; exact hm) p)), ?_⟩
    exact ⟨running_startItem .., mem_startItem .., by rw [hs]⟩
  case kept =>
    have hs := taskSt_startItem_work hw p s
    refine ⟨_, (exec_exchangeWork_taken hr hp hi hw).trans (congrArg _ (matchWork_kept (g := g) (by rw [hs]; exact hm)
      (by rw [hs]; exact hg) (by rw [hs]; exact ht) (by rw [hs]; exact hk) p)), ?_⟩
    simp [Nat.add_assoc]
  case noWork =>
    rcases h with ⟨i, hp, h⟩ | ⟨hp, hi⟩
    · exact exec_exchangeWork_busy hp h
    · exact exec_exchangeWork_idle hp hi
  case lost =>
    refine ⟨_, (exec_stationLost hx).trans (congrArg _ (if_pos h)), ?_⟩
    have hstn := stn_loseStation hx hst false
    refine ⟨⟨_, by rw [hstn]; exact Tbl.get?_upd_self .., ?_⟩, by rw [hstn]; rfl, fun i hi => ?_, ?_,
      stationLost_arises hx hst false, trl_loseStation ..⟩
    · rw [Tbl.at_of_get? hx]
      exact ⟨rfl, rfl, rfl, rfl, rfl⟩
    · rw [hstn]
      simp [hi]
    · rw [hstn]
      simp
  case notYet => exact (exec_stationLost hx).trans (congrArg _ (if_neg (Nat.not_le.mpr h)))
  case notLive =>
    rw [exec_stationLost hx, loseStation_not hx hst, ite_self]

end Sys2Proof.Machine
end

section
/-!
A change of every entry of a table, and a fold that changes nothing.
-/
namespace Sys2Proof

/-- A fold whose every step leaves its start as it is leaves it. -/
theorem foldl_still {α β : Type} {f : β → α → β} {s : β} {l : List α} (h : ∀ e ∈ l, f s e = s) : l.foldl f s = s := by
  induction l with
  | nil => rfl
  | cons e l ih =>
    rw [List.foldl_cons, h e (List.mem_cons_self ..)]
    exact ih fun x hx => h x (List.mem_cons_of_mem _ hx)

/-- A change of every entry is seen in each. -/
theorem Tbl.get?_mapV {α β : Type} (t : Tbl α) (f : Nat → α → β) (k : Nat) : (Tbl.mapV t f).get? k = (t.get? k).map (f k) := by
  induction t with
  | nil => rfl
  | cons e r ih =>
    obtain ⟨j, v⟩ := e
    simp only [Tbl.mapV, List.map_cons, Tbl.get?]
    split
    · next h => simp [h]
    · exact ih

/-- A change that keeps the value read of an unlisted key is seen in what is read of every key. -/
theorem Tbl.at_mapV {α : Type} {f : Nat → α → α} {k : Nat} {d : α} (hd : f k d = d) (t : Tbl α) :
    (Tbl.mapV t f).at k d = f k (t.at k d) := by
  simp only [Tbl.at, Tbl.get?_mapV]
  cases t.get? k with
  | none => exact hd.symm
  | some v => rfl

end Sys2Proof
end

section
/-!
Slots, shadow contexts and captures of the loop engine, and its writes of points: what each operation leaves of them, and what their
readers give after it (R173, R195, R198 to R202).
-/
namespace Sys2Proof.Machine

/-! ### Slots -/

theorem slot?_congr {s t : State} (h : t.lpe = s.lpe) (n : Nat) : slot? t n = slot? s n := by simp only [slot?, h]

theorem updSlot_eq {n : Nat} {s : State} {l : LoopSlot} (h : slot? s n = some l) (f : LoopSlot → LoopSlot) :
    updSlot n f s = { s with lpe.slots := Tbl.put s.lpe.slots n (f l) } := by simp only [updSlot, h]

/-- A change of a slot is seen in that slot. -/
@[simp] theorem slot?_updSlot_self (n : Nat) (f : LoopSlot → LoopSlot) (s : State) :
    slot? (updSlot n f s) n = (slot? s n).map f := by
  cases h : slot? s n with
  | none => simp [updSlot, h]
  | some l => rw [updSlot_eq h]; simp [slot?]

theorem slot?_updSlot_ne {n k : Nat} (hk : k ≠ n) (f : LoopSlot → LoopSlot) (s : State) :
    slot? (updSlot n f s) k = slot? s k := by
  cases h : slot? s n with
  | none => simp only [updSlot, h]
  | some l => rw [updSlot_eq h]; simp [slot?, Tbl.get?_put_ne _ _ hk]

/-- Of the loop engine's state a change of a slot touches the slots alone. -/
theorem lpe_updSlot (n : Nat) (f : LoopSlot → LoopSlot) (s : State) : ∃ x, (updSlot n f s).lpe = { s.lpe with slots := x } := by
  unfold updSlot
  split
  · exact ⟨_, rfl⟩
  · exact ⟨_, rfl⟩

@[simp] theorem due_updSlot (n : Nat) (f : LoopSlot → LoopSlot) (s : State) : (updSlot n f s).lpe.due = s.lpe.due := by
  obtain ⟨x, h⟩ := lpe_updSlot n f s
  rw [h]

@[simp] theorem bufs_updSlot (n : Nat) (f : LoopSlot → LoopSlot) (s : State) : (updSlot n f s).lpe.bufs = s.lpe.bufs := by
  obtain ⟨x, h⟩ := lpe_updSlot n f s
  rw [h]

@[simp] theorem shadow_updSlot (n : Nat) (f : LoopSlot → LoopSlot) (s : State) (c : Nat) :
    shadow (updSlot n f s) c = shadow s c := by
  obtain ⟨x, h⟩ := lpe_updSlot n f s
  simp only [shadow, h]

/-! ### Shadow contexts -/

/-- A change of a slot's running shadows is seen in those, and in no other. -/
theorem shadow_slotShadows (n : Nat) (f : Shadow → Shadow) (s : State) (c : Nat) :
    shadow (slotShadows n f s) c =
      if (shadow s c).state == .running && (shadow s c).slot == n then f (shadow s c) else shadow s c :=
  Tbl.at_mapV (d := {}) (f := fun _ (h : Shadow) => if h.state == .running && h.slot == n then f h else h) rfl s.lpe.shadows

/-- A shadow that is not running is left by what befalls its slot's running ones. -/
theorem shadow_slotShadows_stopped {s : State} {c : Nat} (h : (shadow s c).state ≠ .running) (n : Nat) (f : Shadow → Shadow) :
    shadow (slotShadows n f s) c = shadow s c := by simp [shadow_slotShadows, h]

/-! ### Captures -/

/-- Dropping a capture changes the slots and the buffers alone. -/
theorem lpe_dropCapture (n : Nat) (s : State) : ∃ x y, (dropCapture n s).lpe = { s.lpe with slots := x, bufs := y } := by
  unfold dropCapture
  split
  · next l h =>
    simp only [updSlot_eq h]
    repeat' split
    all_goals exact ⟨_, _, rfl⟩
  · exact ⟨_, _, rfl⟩

@[simp] theorem due_dropCapture (n : Nat) (s : State) : (dropCapture n s).lpe.due = s.lpe.due := by
  obtain ⟨x, y, h⟩ := lpe_dropCapture n s
  rw [h]

@[simp] theorem shadow_dropCapture (n : Nat) (s : State) (c : Nat) : shadow (dropCapture n s) c = shadow s c := by
  obtain ⟨x, y, h⟩ := lpe_dropCapture n s
  simp only [shadow, h]

/-- Of its slot a dropped capture changes the buffer alone. -/
theorem slot?_dropCapture {n : Nat} {s : State} {l : LoopSlot} (h : slot? s n = some l) :
    ∃ b, slot? (dropCapture n s) n = some { l with capBuf := b } := by
  simp only [dropCapture, h]
  split
  · split
    · exact ⟨_, h⟩
    · exact ⟨none, (slot?_updSlot_self ..).trans (by rw [h]; rfl)⟩
  · exact ⟨_, h⟩

/-- Of its slot a sample of a capture changes the history and the buffer alone (R202). -/
theorem slot?_captureStep {n : Nat} {s : State} {l : LoopSlot} (h : slot? s n = some l) (x : CapSample) :
    ∃ y b, slot? (captureStep n x s) n = some { l with hist := y, capBuf := b } := by
  simp only [captureStep, h]
  split
  · exact ⟨_, _, h⟩
  · have hist (y : List CapSample) : slot? (updSlot n (fun l => { l with hist := y }) s) n = some { l with hist := y } := by
      simp [h]
    split
    · split
      · exact ⟨_, _, hist _⟩
      · obtain ⟨b, hb⟩ := slot?_dropCapture (hist _)
        exact ⟨_, _, hb⟩
    · split
      · split
        · exact ⟨_, _, (slot?_updSlot_self ..).trans (congrArg _ (hist _))⟩
        · exact ⟨_, _, hist _⟩
      · exact ⟨_, _, hist _⟩
    · exact ⟨_, _, hist _⟩

@[simp] theorem due_captureStep (n : Nat) (x : CapSample) (s : State) : (captureStep n x s).lpe.due = s.lpe.due := by
  unfold captureStep
  dsimp only
  repeat' split
  all_goals simp

/-! ### Writes of points (R173) -/

/-- Writing a point changes nothing of the loop engine. -/
@[simp] theorem lpe_loopWrite (l : LoopSlot) (i : Nat) (v : DWord) (q : Byte) (s : State) : (loopWrite l i v q s).lpe = s.lpe :=
  (loopWrite_same (.refl 1147184 s) rfl).lpe rfl

@[simp] theorem lpe_writeFe (l : LoopSlot) (b : Bool) (s : State) : (writeFe l b s).lpe = s.lpe :=
  (writeFe_same (.refl 1147184 s) rfl).lpe rfl

theorem isRun_same {m : Nat} {s t : State} (h : Same m s t) (hm : m.testBit 5 = false) (i : Island) : isRun t i = isRun s i := by
  rw [isRun, islState, h.sys hm]
  rfl

theorem viaTrellis_run {s : State} (h : isRun s .trellis = true) (f : State → State) : viaTrellis f s = f s := by
  simp [viaTrellis, h]

theorem lpe_viaTrellis {f : State → State} {s : State} (h : (f s).lpe = s.lpe) : (viaTrellis f s).lpe = s.lpe := by
  unfold viaTrellis
  split
  · exact h
  · rfl

/-- The entry of a plain point after the loop engine's write of it (R87, R91). -/
theorem pt?_loopWrite_self {l : LoopSlot} {i : Nat} {s : State} {p : Point} (h : pt? s i = some p)
    (hw : isWriter p pvLoop l.rc.slot l.rc.cask = true) (hp : Plain s i) (v : DWord) (q : Byte) :
    pt? (loopWrite l i v q s) i =
      some (entryWrite p pvLoop (if isBad q then badValue p else v) (timeQuality s p q) (ptStamp s i)) := by
  rw [loopWrite, writeQ_own h hw, putEntry_plain h hp, pt?_putEntry0_self h]

/-- The doors and the lift group, on which the effects of a write hang, stay. -/
def DoorsKept (s t : State) : Prop := t.fbs.doors = s.fbs.doors ∧ t.fbs.lift = s.fbs.lift

theorem DoorsKept.of_fbs {s t : State} (h : t.fbs = s.fbs) : DoorsKept s t := by rw [DoorsKept, h]; exact ⟨rfl, rfl⟩

theorem DoorsKept.trans {s t u : State} (h : DoorsKept s t) (k : DoorsKept t u) : DoorsKept s u :=
  ⟨k.1.trans h.1, k.2.trans h.2⟩

theorem DoorsKept.plain {s t : State} (h : DoorsKept s t) {i : Nat} (hp : Plain s i) : Plain t i := by
  rw [Plain, h.1, h.2]
  exact hp

/-- An operation that leaves the field buses leaves the plain points plain. -/
theorem plain_same {m : Nat} {s t : State} (h : Same m s t) (hm : m.testBit 16 = false) {i : Nat} (hp : Plain s i) : Plain t i :=
  (DoorsKept.of_fbs (h.fbs hm)).plain hp

theorem doorsKept_noteLevel (i : Nat) (b : Bool) (s : State) : DoorsKept s (noteLevel i b s) := by
  unfold noteLevel
  refine foldl_keeps (P := DoorsKept s) (fun t e h => ?_) _ (.of_fbs rfl)
  dsimp only
  split
  · exact h
  · exact h

theorem doorsKept_noteChange (i : Nat) (p : Point) (s : State) : DoorsKept s (noteChange i p s) := by
  unfold noteChange
  refine foldl_keeps (P := DoorsKept s) (fun t e h => ?_) _ (.of_fbs rfl)
  dsimp only
  split
  · exact h
  · exact h

theorem doorsKept_putEntry0 (i prov : Nat) (v : DWord) (q : Byte) (st : DWord) (s : State) :
    DoorsKept s (putEntry0 i prov v q st s) := by
  unfold putEntry0
  split
  · next p _ =>
    generalize entryWrite p prov v (timeQuality s p q) st = n
    have command : DoorsKept s (noteCommand i (setPt i n s)) :=
      .of_fbs ((noteCommand_same (M := 1048576) (.refl _ (setPt i n s)) rfl).fbs rfl)
    have opened : DoorsKept s (noteOpen i prov p (noteCommand i (setPt i n s))) :=
      command.trans (.of_fbs ((noteOpen_same (M := 32768) (.refl _ _) rfl).fbs rfl))
    exact (opened.trans (doorsKept_noteChange ..)).trans (doorsKept_noteLevel ..)
  · exact .of_fbs rfl

/-- A refused write leaves every entry. -/
@[simp] theorem pt?_refuseWrite (i prov cask : Nat) (s : State) (k : Nat) : pt? (refuseWrite i prov cask s) k = pt? s k := by
  simp [pt?]

/-- The loop engine's write of a plain point, accepted or refused, leaves every other entry. -/
theorem pt?_loopWrite_ne {l : LoopSlot} {i k : Nat} {s : State} (hk : k ≠ i) (hp : Plain s i) (v : DWord) (q : Byte) :
    pt? (loopWrite l i v q s) k = pt? s k := by
  unfold loopWrite
  cases h : pt? s i with
  | none => simp [writeQ, h]
  | some p =>
    cases hw : isWriter p pvLoop l.rc.slot l.rc.cask with
    | true => rw [writeQ_own h hw, putEntry_plain h hp, pt?_putEntry0_ne hk]
    | false => simp only [writeQ, h, writeBy_refused h hw, pt?_refuseWrite]

/-- FE_POINT's write leaves OUT_POINT's entry. -/
theorem pt?_writeFe {l : LoopSlot} {s : State} {k : Nat} (h : ∀ f, l.rc.fe = some f → f ≠ k ∧ Plain s f) (b : Bool) :
    pt? (writeFe l b s) k = pt? s k := by
  unfold writeFe
  split
  · next i hi => exact pt?_loopWrite_ne (h i hi).1.symm (h i hi).2 ..
  · rfl

end Sys2Proof.Machine
end

section
/-!
Frames, snapshots and evaluations of the loop engine (R171 to R173, R182, R193, R208).
-/
namespace Sys2Proof.Machine

/-! ### Frames (R171) -/

/-- With no record and no removal waiting, a frame settles nothing (R208). -/
theorem settleReloads_still {s : State} (h : ∀ e ∈ s.lpe.slots, e.2.next = none ∧ e.2.removing = false) (k : Nat) :
    settleReloads k s = s := by
  refine foldl_still fun e he => ?_
  obtain ⟨next, removing⟩ := h e he
  simp only [next, removing, Option.isSome_none, Bool.false_and, Bool.false_eq_true, if_false, ite_self]

/-- A new frame keeps the cost of the last one and builds its due list. -/
theorem loopFrameOp_new {s : State} (hr : isRun s .loop = true) (hrun : s.lpe.run = true) (hf : s.trl.frame ≠ 0)
    (hn : s.lpe.dueFrame ≠ some (s.trl.frame - 1)) (hd : s.lpe.due = [])
    (h : ∀ e ∈ s.lpe.slots, e.2.next = none ∧ e.2.removing = false) :
    loopFrameOp s = { s with lpe.loads := (s.lpe.used :: s.lpe.loads).take 1000, lpe.used := 0,
                             lpe.dueFrame := some (s.trl.frame - 1), lpe.due := dueSlots s (s.trl.frame - 1), lpe.asked := [] } := by
  simp [loopFrameOp, hr, hrun, hf, hn, hd, settleReloads_still h]

/-! ### Snapshots (R172) -/

theorem loopSnapshotOp_taken {n : Nat} {s : State} {l : LoopSlot} (hr : isRun s .loop = true) (hrun : s.lpe.run = true)
    (ht : isRun s .trellis = true) (hn : nextAsk s = some n) (hl : slot? s n = some l) :
    loopSnapshotOp n s =
      updSlot n (fun l => { l with snap := some (takeSnap s (l.next.getD l.rc)) }) { s with lpe.asked := s.lpe.asked ++ [n] } := by
  unfold loopSnapshotOp
  rw [if_pos (by simp [hr, hrun, hn])]
  extract_lets _ s1
  have hl1 : slot? s1 n = some l := hl
  have ht1 : isRun s1 .trellis = true := ht
  rw [hl1, updSlot_eq hl1]
  dsimp only
  rw [if_pos ht1, updSlot_eq hl1]
  rfl

/-! ### Evaluations -/

/-- The inputs of an evaluation depend on the points and the next free value, and not on the snapshot field. -/
theorem evalInputs_same {s t : State} (h : Same 0x400 s t) (l : LoopSlot) (x : Option Snap) (sn : Snap) (k : Nat) :
    evalInputs t { l with snap := x } sn k = evalInputs s l sn k := by
  simp only [evalInputs, initFrom, forced, freeNow, pt?, h.trl rfl, h.fresh rfl]

theorem outValue_congr {s t : State} (h : t.trl = s.trl) (rc : LoopRec) (u : F64) (q : Bool) :
    outValue t rc u q = outValue s rc u q := by simp only [outValue, pt?, h]

/-- Of its slot the following-error timer's sample changes what belongs to the timer alone (R195). -/
theorem slot?_feStep {n : Nat} {s : State} {l : LoopSlot} (h : slot? s n = some l) (e : EvalIn) (stamp : DWord) (out : F32) :
    ∃ t a, slot? (feStep n e stamp out s) n = some { l with feT0 := t, feAlarm := a, lastStamp := stamp, lastOut := out } := by
  simp only [feStep, slot?_updSlot_self, h, Option.map_some]
  repeat' split
  all_goals exact ⟨_, _, rfl⟩

/-- The slot as a rejected sample leaves it, but for its capture (R193). -/
def sampleRejected (l : LoopSlot) : LoopSlot := { l with pvBad := true, init := some (l.init.getD .pv), missRun := 0 }

/-- With nothing waiting to be taken, a slot in an evaluated mode either rejects its sample or runs its law (R193). -/
theorem evalSlot_runs {n : Nat} {s : State} {l : LoopSlot} (hl : slot? s n = some l) (hn : l.next = none) (hc : l.cmd = none)
    (ha : l.applyWait = none) (hm : l.mode = .manual ∨ l.mode = .auto ∨ l.mode = .track) (sn : Snap) :
    evalSlot n sn s = if inputsFail l sn then
      writeBadOut l (updSlot n sampleRejected (recopy n (dropCapture n s)))
      else runEval n sn s := by
  have reload : reloadSlot n s = s := by simp only [reloadSlot, hl, hn]
  have cmd : takeCmd n s = s := by simp only [takeCmd, hl, hc]
  have apply : takeApply n s = s := by simp only [takeApply, hl, ha]
  simp only [evalSlot, reload, cmd, apply, hl]
  rcases hm with hm | hm | hm <;> simp only [hm] <;> rfl

/-- A slot holds the result of an evaluation proper: the law's new state, its region, and no bad process value and no miss. -/
def Sampled (n : Nat) (st : LawSt) (region : Nat) (s : State) : Prop :=
  ∃ l, slot? s n = some l ∧ l.pvBad = false ∧ l.missRun = 0 ∧ l.st = st ∧ l.region = some region

theorem sampled_updSlot {n region : Nat} {st : LawSt} {f : LoopSlot → LoopSlot} {s : State} {l : LoopSlot} (hl : slot? s n = some l)
    (h : (f l).pvBad = false ∧ (f l).missRun = 0 ∧ (f l).st = st ∧ (f l).region = some region) :
    Sampled n st region (updSlot n f s) :=
  ⟨f l, by rw [slot?_updSlot_self, hl]; rfl, h⟩

theorem sampled_feStep {n region : Nat} {st : LawSt} {s : State} (h : Sampled n st region s) (e : EvalIn) (stamp : DWord)
    (out : F32) : Sampled n st region (feStep n e stamp out s) := by
  obtain ⟨l, hl, h⟩ := h
  obtain ⟨t, a, hf⟩ := slot?_feStep hl e stamp out
  exact ⟨_, hf, h⟩

theorem sampled_captureStep {n region : Nat} {st : LawSt} {s : State} (h : Sampled n st region s) (x : CapSample) :
    Sampled n st region (captureStep n x s) := by
  obtain ⟨l, hl, h⟩ := h
  obtain ⟨y, b, hc⟩ := slot?_captureStep hl x
  exact ⟨_, hc, h⟩

theorem Sampled.congr {n region : Nat} {st : LawSt} {s t : State} (h : Sampled n st region s) (e : t.lpe = s.lpe) :
    Sampled n st region t := by
  rw [Sampled, slot?_congr e]
  exact h

/-- OUT_POINT carries the loop engine's provenance, and with a quality that is not bad the value given. -/
def OutHolds (i : Nat) (q : Byte) (v : DWord) (s : State) : Prop :=
  ∃ e, pt? s i = some e ∧ (isBad q = false → e.value = v) ∧ e.prov = pvLoop

section
variable {n : Nat} {s : State} {l : LoopSlot} {sn : Snap} {p : Point}

/-- An evaluation proper writes its points from a state whose slot holds the result and whose Trellis is as before (R173). -/
theorem runEval_writes (hl : slot? s n = some l)
    (hfin : F64.fin (evalLaw l.rc (liveSets l) l.st (evalInputs s l sn (s.lpe.dueFrame.getD 0)).1).v = true) :
    let ei := evalInputs s l sn (s.lpe.dueFrame.getD 0)
    let o := evalLaw l.rc (liveSets l) l.st ei.1
    ∃ u al x, Same 0x404 s u ∧ u.lpe.due = s.lpe.due ∧ Sampled n o.st ei.1.region u ∧
      runEval n sn s = feedShadows n l.st ei.1 o (captureStep n x (viaTrellis (fun t =>
        writeFe l al (loopWrite l l.rc.out (outValue u l.rc (roundU o.u) o.st.q) (qualityOf ei.2.1) t)) u)) := by
  intro ei o
  simp only [runEval, hl, hfin, Bool.not_true, Bool.false_eq_true, if_false]
  refine ⟨_, _, _, ?same, ?due, ?slot, rfl⟩
  case same => exact feStep_same (updSlot_same (Same.up_lpe (Same.up_fresh (.refl _ s) rfl) rfl) rfl) rfl
  case due => simp [feStep]
  case slot =>
    apply sampled_feStep
    exact sampled_updSlot (l := l) hl ⟨rfl, rfl, rfl, rfl⟩

variable (hp : pt? s l.rc.out = some p) (hw : isWriter p pvLoop l.rc.slot l.rc.cask = true) (hout : Plain s l.rc.out)
include hp hw hout

/-- OUT_POINT and FE_POINT written in one Trellis cycle: OUT_POINT takes the value, whatever becomes of FE_POINT. -/
theorem outHolds_writes (hfe : ∀ f, l.rc.fe = some f → f ≠ l.rc.out ∧ Plain s f) (al : Bool) (v : DWord) (q : Byte) :
    OutHolds l.rc.out q v (writeFe l al (loopWrite l l.rc.out v q s)) := by
  have kept : DoorsKept s (loopWrite l l.rc.out v q s) := by
    rw [loopWrite, writeQ_own hp hw, putEntry_plain hp hout]
    exact doorsKept_putEntry0 ..
  rw [OutHolds, pt?_writeFe (fun f hf => ⟨(hfe f hf).1, kept.plain (hfe f hf).2⟩), pt?_loopWrite_self hp hw hout]
  refine ⟨_, rfl, fun hq => ?_, rfl⟩
  simp [entryWrite, hq]

variable (ht : isRun s .trellis = true)
include ht

/-- What an evaluation proper leaves in its slot, on OUT_POINT and of the due list (R173, R182). -/
theorem runEval_leaves (hl : slot? s n = some l) (hfe : ∀ f, l.rc.fe = some f → f ≠ l.rc.out ∧ Plain s f)
    (hfin : F64.fin (evalLaw l.rc (liveSets l) l.st (evalInputs s l sn (s.lpe.dueFrame.getD 0)).1).v = true) :
    let ei := evalInputs s l sn (s.lpe.dueFrame.getD 0)
    let o := evalLaw l.rc (liveSets l) l.st ei.1
    (runEval n sn s).lpe.due = s.lpe.due ∧ Sampled n o.st ei.1.region (runEval n sn s) ∧
      OutHolds l.rc.out (qualityOf ei.2.1) (outValue s l.rc (roundU o.u) o.st.q) (runEval n sn s) := by
  intro ei o
  obtain ⟨u, al, x, same, due, slot, eq⟩ := runEval_writes hl hfin
  have hu : pt? u l.rc.out = some p := (pt?_same same rfl _).trans hp
  have run : isRun u .trellis = true := (isRun_same same rfl _).trans ht
  have out := outHolds_writes hu hw (plain_same same rfl hout) (fun f hf => ⟨(hfe f hf).1, plain_same same rfl (hfe f hf).2⟩) al
    (outValue u l.rc (roundU o.u) o.st.q) (qualityOf ei.2.1)
  rw [viaTrellis_run run] at eq
  have lpe := (lpe_writeFe l al _).trans (lpe_loopWrite l l.rc.out (outValue u l.rc (roundU o.u) o.st.q) (qualityOf ei.2.1) u)
  rw [eq]
  refine ⟨?_, ?_, ?_⟩
  · exact ((due_captureStep ..).trans (congrArg Lpe.due lpe)).trans due
  · exact sampled_captureStep (slot.congr lpe) x
  · rw [← outValue_congr (same.trl rfl)]
    obtain ⟨e, he, h⟩ := out
    exact ⟨e, (pt?_same (feedShadows_same (captureStep_same (.refl 0x400 _) rfl) rfl) rfl _).trans he, h⟩

/-- What a rejected sample leaves in its slot, on OUT_POINT and of the due list (R193). -/
theorem badSample_leaves (hl : slot? s n = some l) :
    let t := writeBadOut l (updSlot n sampleRejected (recopy n (dropCapture n s)))
    t.lpe.due = s.lpe.due ∧ (∃ l', slot? t n = some l' ∧ l'.pvBad = true ∧ l'.missRun = 0 ∧ l'.st = l.st) ∧
      ∃ e, pt? t l.rc.out = some e ∧ e.value = badValue p ∧ e.quality = qSource ∧ e.prov = pvLoop := by
  obtain ⟨b, hb⟩ := slot?_dropCapture hl
  have slot : slot? (updSlot n sampleRejected (recopy n (dropCapture n s))) n = _ :=
    (slot?_updSlot_self ..).trans (congrArg (Option.map _) hb)
  have due : (updSlot n sampleRejected (recopy n (dropCapture n s))).lpe.due = s.lpe.due :=
    (due_updSlot ..).trans (due_dropCapture n s)
  have same : Same 0x400 s (updSlot n sampleRejected (recopy n (dropCapture n s))) :=
    updSlot_same (recopy_same (dropCapture_same (.refl _ s) rfl) rfl) rfl
  generalize updSlot n sampleRejected (recopy n (dropCapture n s)) = u at slot due same
  have run : isRun u .trellis = true := (isRun_same same rfl _).trans ht
  have hu : pt? u l.rc.out = some p := (pt?_same same rfl _).trans hp
  rw [writeBadOut, viaTrellis_run run]
  refine ⟨(congrArg Lpe.due (lpe_loopWrite ..)).trans due, ⟨_, (slot?_congr (lpe_loopWrite ..) n).trans slot, rfl, rfl, rfl⟩,
    _, pt?_loopWrite_self hu hw (plain_same same rfl hout) .., rfl, ?_, rfl⟩
  simp [entryWrite, timeQuality, qSource, qGood]

end

end Sys2Proof.Machine
end

section
/-!
Due evaluations, the following-error alarm, misses, mode commands and the abort of the loop engine (R178, R180, R193 to R196, R209).
-/
namespace Sys2Proof.Machine

/-! ### A due evaluation -/

/-- A slot whose evaluation starts: it leaves the due list and its snapshot is taken. -/
def evalStarted (n : Nat) (s : State) : State :=
  updSlot n (fun l => { l with snap := none }) { s with lpe.due := s.lpe.due.filter (· != n) }

theorem same_evalStarted (n : Nat) (s : State) : Same 0x400 s (evalStarted n s) :=
  updSlot_same (Same.up_lpe (.refl _ s) rfl) rfl

theorem due_evalStarted (n : Nat) (s : State) : n ∉ (evalStarted n s).lpe.due := by simp [evalStarted]

theorem slot?_evalStarted {n : Nat} {s : State} {l : LoopSlot} (h : slot? s n = some l) :
    slot? (evalStarted n s) n = some { l with snap := none } :=
  (slot?_updSlot_self ..).trans (congrArg (Option.map _) h)

theorem loopEvaluationOp_next {n : Nat} {s : State} {l : LoopSlot} {sn : Snap} (hr : isRun s .loop = true)
    (hrun : s.lpe.run = true) (hd : s.lpe.dueFrame = some (s.trl.frame - 1)) (hn : nextEval s = some n) (hl : slot? s n = some l)
    (hs : l.snap = some sn) : loopEvaluationOp n s = evalSlot n sn (evalStarted n s) := by
  simp [loopEvaluationOp, hr, hrun, hd, hn, hl, hs, evalStarted]

theorem dueFrame_evalStarted (n : Nat) (s : State) : (evalStarted n s).lpe.dueFrame = s.lpe.dueFrame := by
  obtain ⟨x, h⟩ := lpe_updSlot n (fun l => { l with snap := none }) { s with lpe.due := s.lpe.due.filter (· != n) }
  rw [evalStarted, h]

/-! ### The following-error alarm (R195) -/

/-- The slot as the alarm leaves it: FE_ACTION 0b01 puts it in MANUAL at the sample's output. -/
def feAlarmed (l : LoopSlot) : LoopSlot :=
  if l.rc.feManual then { l with feT0 := none, feAlarm := true, mode := .manual, manual := some l.lastOut }
  else { l with feAlarm := true }

/-- In MANUAL nothing compares or captures the slot's samples any more. -/
def alarmEnds (n : Nat) (l : LoopSlot) (s : State) : State :=
  if l.rc.feManual then dropCapture n (endShadows n cLPE_CMD_STATE s) else s

theorem lpeFeOp_raised {n : Nat} {s : State} {l : LoopSlot} {t0 : DWord} (hl : slot? s n = some l) (ht : l.feT0 = some t0)
    (hm : l.mode = .auto) (ha : l.feAlarm = false) (hd : t0.toNat + l.rc.feTimeMs * 1000000 ≤ l.lastStamp.toNat) :
    lpeFeOp n s = record cLPE_FE l.rc.cask (d2 n) (viaTrellis (writeFe l true) (alarmEnds n l (updSlot n feAlarmed s))) := by
  simp only [lpeFeOp, hl, ht]
  rw [if_pos (by simp [hm, ha, hd])]
  rfl

theorem slot?_alarmEnds {n : Nat} {s : State} {l l' : LoopSlot} (h : slot? s n = some l') :
    ∃ b, slot? (alarmEnds n l s) n = some { l' with capBuf := b } := by
  unfold alarmEnds
  split
  · exact slot?_dropCapture (s := endShadows n cLPE_CMD_STATE s) h
  · exact ⟨_, h⟩

/-! ### Misses (R196) -/

/-- A slot that misses fewer than three samples in a row only counts the miss. -/
theorem missSlot_counts {n : Nat} {s : State} {l : LoopSlot} (hl : slot? s n = some l) (h : l.missRun < 2) :
    n ∉ (missSlot n s).lpe.due ∧
    (∃ b, slot? (missSlot n s) n =
      some { l with capBuf := b, misses := satInc l.misses 0xFFFF, missRun := l.missRun + 1, snap := none }) ∧
    { code := cLPE_LATE, cask := l.rc.cask, data := d2 n } ∈ (missSlot n s).arising := by
  obtain ⟨b, hb⟩ := slot?_dropCapture hl
  simp only [missSlot, hl]
  rw [if_neg (by omega)]
  refine ⟨?_, ⟨b, ?_⟩, mem_record_arising ..⟩
  · show n ∉ List.filter _ _
    simp
  · exact (slot?_updSlot_self ..).trans (congrArg (Option.map _) hb)

/-! ### Commands over the registers -/

theorem ownsSlot_of {iss : Issuer} {l : LoopSlot} (h : iss.cask = 0 ∨ iss.cask.val = l.rc.cask) : ownsSlot iss l = true := by
  rcases h with h | h <;> simp [ownsSlot, h]

theorem isOwner_of {iss : Issuer} (h : iss.cask = 0) : isOwner iss = true := by simp [isOwner, h]

/-- The part of LPE_MODE_CMD that is done once the access passes its checks. -/
def modeCmdOp (iss : Issuer) (n : Nat) (m : LoopMode) (s : State) : State :=
  match slot? s n with
  | none => setLpeStatus iss cLPE_CMD_STATE s
  | some l =>
    if ownsSlot iss l then
      setLpeStatus iss (storeCmd n m (Tbl.at s.lpe.modeVal iss.cask 0) s).2 (storeCmd n m (Tbl.at s.lpe.modeVal iss.cask 0) s).1
    else loopDenied iss n l s

theorem loopModeCmd_eq (iss : Issuer) (n : Nat) (m : LoopMode) (s : State) :
    loopModeCmd iss n m s = regCmd iss .lpe 0x0010 (modeCmdOp iss n m) s := rfl

section
variable {iss : Issuer} {n : Nat} {m : LoopMode} {s : State} {l : LoopSlot}

theorem modeCmdOp_stored (hl : slot? s n = some l) (ho : ownsSlot iss l = true) (ht : m = .track → l.rc.track.isSome = true) :
    modeCmdOp iss n m s = setLpeStatus iss cLPE_OK
      (updSlot n (fun l => { l with cmd := some (m, Tbl.at s.lpe.modeVal iss.cask 0) }) s) := by
  have hs : (m == .track && l.rc.track.isNone) = false := by
    cases hm : m == .track with
    | false => rfl
    | true => simpa using ht (eq_of_beq hm)
  simp [modeCmdOp, hl, ho, storeCmd, hs]

/-- TRACK without a track point is refused and changes no slot (R178). -/
theorem modeCmdOp_noTrack (hl : slot? s n = some l) (ho : ownsSlot iss l = true) (hm : m = .track) (ht : l.rc.track = none) :
    modeCmdOp iss n m s = setLpeStatus iss cLPE_CMD_STATE s := by
  simp [modeCmdOp, hl, ho, storeCmd, hm, ht]

theorem modeCmdOp_noSlot (h : slot? s n = none) : modeCmdOp iss n m s = setLpeStatus iss cLPE_CMD_STATE s := by
  simp only [modeCmdOp, h]

end

/-! ### The abort (R209) -/

theorem exec_loopEngineAbort {s : State} {iss : Issuer} (hi : iss.cask = 0) (hp : Permits s iss .sys 0x0030 true)
    (hr : isRun s .loop = true) : exec (.loopEngineAbort iss) s = .next (abortDone 2 (lpeAbortOp { s with reply := .none })) := by
  have hu : isRun { s with reply := .none } .loop = true := hr
  simp [exec, execLoopEngineAbort, abortCmd, regCmd_ok hp, isOwner_of hi, abortTarget, hu]

theorem shadows_lpeAbortOp {s : State} {e : Nat × Shadow} (h : e ∈ (lpeAbortOp s).lpe.shadows) : e.2.state ≠ .running := by
  obtain ⟨x, _, rfl⟩ := List.mem_map.mp h
  dsimp only
  split
  · exact nofun
  · next h => simpa using h

theorem slot?_lpeAbortOp (s : State) (n : Nat) :
    slot? (lpeAbortOp s) n = (slot? s n).map fun l => { l with snap := none, feT0 := none, capBuf := none } :=
  Tbl.get?_mapV (β := LoopSlot) s.lpe.slots (fun _ l => { l with snap := none, feT0 := none, capBuf := none }) n

end Sys2Proof.Machine
end

section
/-!
The loop engine's frames, evaluations and modes assembled (R171 to R209).
-/
namespace Sys2Proof.Machine

/-- Settles O17: each command is its operation at the case in hand. An evaluation starts from a state that differs from `s` in the loop
engine alone, so its inputs, its points and its result are those of `s`. -/
theorem loopFramesEvaluationsAndModes : Obligations.LoopFramesEvaluationsAndModes := by
  refine ⟨fun s hr hrun hf hn hd h => ?frame, fun n s l hr hrun ht hn hl => ?snapshot,
    fun n s l sn p hr hrun ht hd hn hl hs hnx hc ha hm hp hw hout => ?evaluation,
    fun n s l t0 hl ht hm ha hd => ?alarm, fun n s l hn hd hl hmiss => ?late, fun iss n m s hp hm => ?mode,
    fun iss s hp hi => ?resume, fun iss s hp hi hr => ?abort⟩
  case frame => exact congrArg Host.Outcome.next (loopFrameOp_new hr hrun hf hn hd h)
  case snapshot =>
    refine ⟨_, congrArg Host.Outcome.next (loopSnapshotOp_taken hr hrun ht hn hl), ?_, ?_, ?_, fun k hk => ?_⟩
    · exact (slot?_updSlot_self ..).trans (congrArg (Option.map _) hl)
    · obtain ⟨x, h⟩ := lpe_updSlot n (fun l => { l with snap := some (takeSnap s (l.next.getD l.rc)) })
        { s with lpe.asked := s.lpe.asked ++ [n.val] }
      rw [h]
    · exact updSlot_trl ..
    · exact slot?_updSlot_ne hk ..
  case evaluation =>
    have eq := loopEvaluationOp_next hr hrun hd hn hl hs
    have hl' := slot?_evalStarted hl
    have same := same_evalStarted n s
    rw [evalSlot_runs hl' hnx hc ha hm] at eq
    have run : isRun (evalStarted n s) .trellis = true := (isRun_same same rfl _).trans ht
    have hp' : pt? (evalStarted n s) l.rc.out = some p := (pt?_same same rfl _).trans hp
    refine ⟨fun hbad => ?bad, fun hgood hfe => ?good⟩
    case bad =>
      rw [if_pos (show inputsFail { l with snap := none } sn = true from hbad)] at eq
      obtain ⟨due, ⟨l', hl2, hbad, hmiss, hst⟩, e, he, hv, hq, hpr⟩ :=
        badSample_leaves (l := { l with snap := none }) hp' hw (plain_same same rfl hout) run hl'
      exact ⟨_, congrArg Host.Outcome.next eq, due ▸ due_evalStarted n s, l', hl2, hbad, hmiss, hst, e, he, hv, hq, hpr⟩
    case good =>
      intro e o hfin
      rw [if_neg (by rw [show inputsFail { l with snap := none } sn = false from hgood]; decide)] at eq
      have ei : evalInputs (evalStarted n s) { l with snap := none } sn ((evalStarted n s).lpe.dueFrame.getD 0) = e := by
        rw [dueFrame_evalStarted, hd]
        exact evalInputs_same same ..
      have done := runEval_leaves (l := { l with snap := none }) (sn := sn) hp' hw (plain_same same rfl hout) run hl'
        (fun f hf => ⟨(hfe f hf).1, plain_same same rfl (hfe f hf).2⟩) (by rw [ei]; exact hfin)
      simp only [ei, outValue_congr (same.trl rfl)] at done
      obtain ⟨due, ⟨l', h', hbad, hmiss, hst, hreg⟩, q, hq, hv, hpr⟩ := done
      exact ⟨_, congrArg Host.Outcome.next eq, due ▸ due_evalStarted n s, l', h', hbad, hmiss, hst, hreg, q, hq, hv, hpr⟩
  case alarm =>
    have eq := lpeFeOp_raised hl ht hm ha hd
    obtain ⟨b, hb⟩ := slot?_alarmEnds (l := l) ((slot?_updSlot_self n.val feAlarmed s).trans (congrArg (Option.map _) hl))
    refine ⟨_, congrArg Host.Outcome.next eq, _, (slot?_congr (lpe_viaTrellis (lpe_writeFe ..)) n).trans hb, ?_, ?_, ?_,
      mem_record_arising ..⟩
    · unfold feAlarmed; split <;> rfl
    · intro h; simp [feAlarmed, h]
    · intro h; simp [feAlarmed, h, hm]
  case late =>
    obtain ⟨due, ⟨b, hb⟩, ev⟩ := missSlot_counts hl hmiss
    have eq : exec (.lpeLate n) s = .next (missSlot n s) :=
      congrArg Host.Outcome.next (if_pos (by simp [hn, hd]))
    exact ⟨_, eq, due, ⟨_, hb, rfl, fun h => by simp [satInc, h], rfl, rfl⟩, ev⟩
  case mode =>
    intro c
    have eq : exec c s = regCmd iss .lpe 0x0010 (modeCmdOp iss n m) s := by
      cases m with
      | fault => exact absurd rfl hm
      | off => rfl
      | manual => rfl
      | auto => rfl
      | track => rfl
    have hl' {x} (h : slot? s n = x) : slot? { s with reply := .none } n = x := h
    refine ⟨fun l hl ho ht => answers_regCmd hp eq ?stored, fun l hl ho hm ht => answers_regCmd hp eq ?noTrack,
      fun h => answers_regCmd hp eq ?noSlot⟩
    case stored =>
      rw [modeCmdOp_stored (hl' hl) (ownsSlot_of ho) ht, updSlot_eq (hl' hl)]
      exact ⟨Tbl.get?_put_self .., rfl, fun k hk => Tbl.get?_put_ne _ _ hk, rfl⟩
    case noTrack =>
      rw [modeCmdOp_noTrack (hl' hl) (ownsSlot_of ho) hm ht]
      exact ⟨rfl, rfl⟩
    case noSlot =>
      rw [modeCmdOp_noSlot (hl' h)]
      exact ⟨rfl, rfl⟩
  case resume =>
    show regCmd iss .lpe 0x0000 _ s = _
    rw [regCmd_ok hp, isOwner_of hi]
    rfl
  case abort =>
    refine ⟨_, exec_loopEngineAbort hi hp hr, rfl, rfl, fun e => shadows_lpeAbortOp, fun n l h => ?_, mem_record_arising ..⟩
    obtain ⟨x, _, rfl⟩ := Option.map_eq_some_iff.mp ((slot?_lpeAbortOp { s with reply := .none } n).symm.trans h)
    exact ⟨rfl, rfl⟩

end Sys2Proof.Machine
end

section
/-!
Shadow contexts, captures and retuning: the operations at the cases of R176 and R198 to R206.
-/
namespace Sys2Proof.Machine

/-! ### Shadow contexts (R198 to R201) -/

@[simp] theorem shadow_setLpeStatus (iss : Issuer) (code : Nat) (s : State) (c : Nat) :
    shadow (setLpeStatus iss code s) c = shadow s c := rfl

/-- The part of START that is done once the access passes its checks. -/
def shadowStartOp (iss : Issuer) (c : Fin 16) (n : Fin 1024) (count : Byte) (s : State) : State :=
  let s := setCtl .lpe (0x0200 + 16 * c.val) (packW [(16, n.val), (0, count.toNat)]) s
  match slot? s n with
  | none => setLpeStatus iss cLPE_CMD_STATE s
  | some l =>
    if !ownsSlot iss l then loopDenied iss n l s
    else if (shadow s c).state == .running then setLpeStatus iss cLPE_SHD_BUSY s
    else setLpeStatus iss cLPE_OK (updShadow c (fun _ =>
      { state := .running, slot := n, count := if count = 0 then 255 else count.toNat, mode := l.mode }) s)

theorem exec_shadowStart (iss : Issuer) (c : Fin 16) (n : Fin 1024) (count : Byte) (s : State) :
    exec (.shadowStart iss c n count) s = regCmd iss .lpe (0x0200 + 16 * c.val) (shadowStartOp iss c n count) s := rfl

section
variable {iss : Issuer} {c : Fin 16} {n : Fin 1024} {s : State} {l : LoopSlot}

theorem shadowStartOp_idle (hl : slot? s n = some l) (ho : ownsSlot iss l = true) (hs : (shadow s c).state ≠ .running) (k : Byte) :
    shadowStartOp iss c n k s = setLpeStatus iss cLPE_OK (updShadow c (fun _ =>
      { state := .running, slot := n, count := if k = 0 then 255 else k.toNat, mode := l.mode })
      (setCtl .lpe (0x0200 + 16 * c.val) (packW [(16, n.val), (0, k.toNat)]) s)) := by
  unfold shadowStartOp
  extract_lets s1
  have hl1 : slot? s1 n = some l := hl
  have hs1 : (shadow s1 c).state ≠ .running := hs
  simp only [hl1, ho, Bool.not_true, Bool.false_eq_true, if_false, beq_iff_eq, hs1]
  rfl

theorem shadowStartOp_busy (hl : slot? s n = some l) (ho : ownsSlot iss l = true) (hs : (shadow s c).state = .running) (k : Byte) :
    shadowStartOp iss c n k s = setLpeStatus iss cLPE_SHD_BUSY
      (setCtl .lpe (0x0200 + 16 * c.val) (packW [(16, n.val), (0, k.toNat)]) s) := by
  unfold shadowStartOp
  extract_lets s1
  have hl1 : slot? s1 n = some l := hl
  have hs1 : (shadow s1 c).state = .running := hs
  simp only [hl1, ho, Bool.not_true, Bool.false_eq_true, if_false, hs1, beq_self_eq_true, if_true]
  rfl

end

/-- A shadow ended with a code keeps the rest of what it holds, but for the sample it was to evaluate. -/
def shadowEnded (code : Nat) (h : Shadow) : Shadow := { h with state := .done, code := code, job := none }

/-- The part of STOP that is done once the access passes its checks. -/
def shadowStopOp (iss : Issuer) (c : Fin 16) (s : State) : State :=
  match slot? s (shadow s c).slot with
  | none => setLpeStatus iss cLPE_CMD_STATE s
  | some l =>
    if (shadow s c).state != .running then setLpeStatus iss cLPE_CMD_STATE s
    else if ownsSlot iss l then setLpeStatus iss cLPE_OK (updShadow c (shadowEnded cLPE_OK) s)
    else loopDenied iss (shadow s c).slot l s

theorem exec_shadowStop (iss : Issuer) (c : Fin 16) (s : State) :
    exec (.shadowStop iss c) s = regCmd iss .lpe (0x0200 + 16 * c.val) (shadowStopOp iss c) s := rfl

theorem shadowStopOp_running {iss : Issuer} {c : Fin 16} {s : State} {l : LoopSlot} (hl : slot? s (shadow s c).slot = some l)
    (ho : ownsSlot iss l = true) (hs : (shadow s c).state = .running) :
    shadowStopOp iss c s = setLpeStatus iss cLPE_OK (updShadow c (shadowEnded cLPE_OK) s) := by
  simp [shadowStopOp, hl, ho, hs]

/-- With COUNT comparisons made a shadow is DONE. -/
theorem exec_shadowComplete {c : Fin 16} {s : State} (hs : (shadow s c).state = .running)
    (hc : (shadow s c).count ≤ (shadow s c).compared) : exec (.shadowComplete c) s = .next (updShadow c (shadowEnded cLPE_OK) s) :=
  congrArg Host.Outcome.next (if_pos (by simp [hs, hc]))

/-- A slot in FAULT (R197): its mode is FAULT, whatever the write of its points comes to; an ended shadow stays as it is. -/
theorem faultSlot_faults {n : Nat} {s : State} {l : LoopSlot} (hl : slot? s n = some l) (cause : Nat) :
    (∃ l', slot? (faultSlot n cause s) n = some l' ∧ l'.mode = .fault) ∧
    ∀ c, (shadow s c).state ≠ .running → shadow (faultSlot n cause s) c = shadow s c := by
  obtain ⟨b, hb⟩ := slot?_dropCapture (s := endShadows n cLPE_CMD_STATE s) hl
  simp only [faultSlot, hl]
  have writes (u : State) (d : List Byte) : (record cLPE_FAULT l.rc.cask d
      (viaTrellis (fun t => writeFe l false (loopWrite l l.rc.out 0 qSource t)) u)).lpe = u.lpe := lpe_viaTrellis (by simp)
  constructor
  · refine ⟨_, (slot?_congr (writes ..) n).trans ((slot?_updSlot_self ..).trans (congrArg (Option.map _) hb)), rfl⟩
  · intro c hc
    rw [shadow, writes]
    exact (shadow_updSlot ..).trans ((shadow_dropCapture ..).trans (shadow_slotShadows_stopped hc ..))

section
variable {c : Fin 16} {s : State} {l : LoopSlot} {j : ShdJob}
  (hs : (shadow s c).state = .running) (hj : (shadow s c).job = some j) (hl : slot? s (shadow s c).slot = some l)
  (hc : (shadow s c).compared < (shadow s c).count)
include hs hj hl hc

/-- A sample not taken in its frame is skipped, and the live states are copied again (R176, R199). -/
theorem shadowEvaluationOp_late (hk : s.trl.frame - 1 ≠ j.inp.k) : shadowEvaluationOp c s =
    updShadow c (fun h => { h with skipped := satInc h.skipped 255, copy := true, job := none }) s := by
  simp only [shadowEvaluationOp, hs, hj, hl]
  rw [if_neg (Nat.not_le.mpr hc), if_pos (by simpa using hk)]

section
variable (hk : s.trl.frame - 1 = j.inp.k) (hcand : (shadow s c).cand = false)
include hk hcand

/-- An equal output and equal states count a comparison (R200). -/
theorem shadowEvaluationOp_equal
    (h : (evalLaw l.rc (shadowSets (shadow s c) l) (shadow s c).st j.inp).u = j.liveU ∧
      (evalLaw l.rc (shadowSets (shadow s c) l) (shadow s c).st j.inp).st = j.liveSt) :
    shadowEvaluationOp c s = updShadow c (fun x => { x with
      job := none, compared := x.compared + 1, st := (evalLaw l.rc (shadowSets (shadow s c) l) (shadow s c).st j.inp).st }) s := by
  simp only [shadowEvaluationOp, hs, hj, hl]
  rw [if_neg (Nat.not_le.mpr hc), if_neg (by simp [hk]), if_neg (by simp [hcand]), if_pos (by simp [h])]

/-- A difference ends the shadow and puts the slot into FAULT (R200). -/
theorem shadowEvaluationOp_differs
    (h : ¬ ((evalLaw l.rc (shadowSets (shadow s c) l) (shadow s c).st j.inp).u = j.liveU ∧
      (evalLaw l.rc (shadowSets (shadow s c) l) (shadow s c).st j.inp).st = j.liveSt)) :
    shadowEvaluationOp c s = faultSlot (shadow s c).slot 2 (updShadow c (shadowEnded cLPE_SHD_MISMATCH) s) := by
  simp only [shadowEvaluationOp, hs, hj, hl]
  rw [if_neg (Nat.not_le.mpr hc), if_neg (by simp [hk]), if_neg (by simp [hcand]), if_neg (by simpa using h)]
  rfl

end
end

/-! ### Captures (R202, R206) -/

/-- A complete capture is sent: its slot may capture again, and the buffer waits for Vintner. -/
def captureSent (b : Nat) (x : CapBuf) (s : State) : State :=
  { updSlot x.slot (fun l => { l with capBuf := none }) s with lpe.bufs := Tbl.put s.lpe.bufs b { x with sent := true } }

theorem sys_captureSent (b : Nat) (x : CapBuf) (s : State) : (captureSent b x s).sys = s.sys := updSlot_sys ..

theorem exec_captureComplete {b : Fin 16} {s : State} {x : CapBuf} (hx : Tbl.get? s.lpe.bufs b = some x) (hs : x.sent = false)
    (hn : 224 ≤ x.samples.length) (hr : isRun s .cluster = true) :
    exec (.captureComplete b) s = .next (setLaneQ { hc := 4, back := false }
      (laneQ s { hc := 4, back := false } ++ [.capture b]) (captureSent b x s)) := by
  have run : isRun (captureSent b x s) .cluster = true := by rw [isRun, islState, sys_captureSent]; exact hr
  have lane : laneQ (captureSent b x s) { hc := 4, back := false } = laneQ s { hc := 4, back := false } := by
    rw [laneQ, sys_captureSent]; rfl
  rw [← lane, ← present_run run { hc := 4, back := false } .loop (.capture b)]
  simp [exec, execCaptureComplete, hx, hs, hn, captureSent]

/-- A slot whose set `j` is to be reverted: the fallback gains wait for the next sample and the set is locked. -/
def revertWaits (j : Nat) (l : LoopSlot) : LoopSlot :=
  { l with applyWait := some { set := j, kp := (Tbl.at l.rt j {}).fbKp, ki := (Tbl.at l.rt j {}).fbKi, revert := true },
           rt := Tbl.put l.rt j { Tbl.at l.rt j {} with judging := false, locked := true } }

theorem revertOp_eq {n : Nat} {s : State} {l : LoopSlot} (hl : slot? s n = some l) (j : Nat) :
    revertOp n j s = record cLPE_RT_REVERTED l.rc.cask (d2 n ++ d1 j)
      { s with lpe.slots := Tbl.put s.lpe.slots n (revertWaits j l) } := by
  simp only [revertOp, hl, updSlot_eq hl]
  rfl

theorem slot?_revertOp {n : Nat} {s : State} {l : LoopSlot} (hl : slot? s n = some l) (j : Nat) :
    slot? (revertOp n j s) n = some (revertWaits j l) := by
  rw [revertOp_eq hl]
  exact Tbl.get?_put_self ..

@[simp] theorem bufs_revertOp (n j : Nat) (s : State) : (revertOp n j s).lpe.bufs = s.lpe.bufs := by
  unfold revertOp
  split
  · rfl
  · simp

@[simp] theorem lpe_noteClip (n j which : Nat) (b : Bool) (s : State) : (noteClip n j which b s).lpe = s.lpe := by
  unfold noteClip
  split
  · rfl
  · rfl

/-- A fit names the set and its new gains and changes no buffer. -/
@[simp] theorem bufs_fitOp (n j : Nat) (x : CapBuf) (l : LoopSlot) (s : State) : (fitOp n j x l s).lpe.bufs = s.lpe.bufs := by
  unfold fitOp
  dsimp only
  split
  · rfl
  · simp

section
variable {b : Nat} {s : State} {x : CapBuf} (hx : Tbl.get? s.lpe.bufs b = some x) (ha : x.arrived = true)
include hx ha

/-- Every arrived capture frees its buffer. -/
theorem bufs_vintnerFitOp : (vintnerFitOp b s).lpe.bufs = Tbl.del s.lpe.bufs b := by
  simp only [vintnerFitOp, hx, ha, Bool.not_true, Bool.false_eq_true, if_false]
  repeat' split
  all_goals simp

/-- A capture of a set under judgement that did worse reverts it. -/
theorem vintnerFitOp_worse {l : LoopSlot} (hl : slot? s x.slot = some l) (hj : (Tbl.at l.rt (retuneSet l.rc x) {}).judging = true)
    (hw : F64.lt (F64.mul (F64.ofDec 125 2) (Tbl.at l.rt (retuneSet l.rc x) {}).j) (capJ l.rc x) = true) :
    vintnerFitOp b s = revertOp x.slot (retuneSet l.rc x) { s with lpe.bufs := Tbl.del s.lpe.bufs b } := by
  simp only [slot?] at hl
  simp only [vintnerFitOp, hx, ha, slot?, hl, hj, hw, Bool.not_true, Bool.false_eq_true, if_false, Bool.true_or, if_true]

end

/-! ### Retuning (R204 to R206) -/

theorem answers_rtCmd {c : Instr} {s : State} {p : State → Prop} {iss : Issuer} {op : State → State} (hi : iss.cask = 0)
    (h : Permits s iss .lpe 0x030C true) (he : exec c s = rtCmd iss op s) (hp : p (op { s with reply := .none })) :
    Answers c s p := answers_regCmd h he (by rw [isOwner_of hi]; exact hp)

/-- The candidate gains lie within the bounds of R204. -/
def inBounds (s : State) (l : LoopSlot) : Bool :=
  gainOk s.lpe.rtKp (setWord (liveSets l) s.lpe.rtSet 0) l.rc.rtMaxChg l.rc.rtKpMin l.rc.rtKpMax &&
  gainOk s.lpe.rtKi (setWord (liveSets l) s.lpe.rtSet 1) l.rc.rtMaxChg l.rc.rtKiMin l.rc.rtKiMax

section
variable {s : State} {l : LoopSlot} (hl : slot? s s.lpe.rtSlot = some l)
include hl

/-- TRY starts a CANDIDATE shadow of 32 samples in the first free context. -/
theorem tryOp_starts (hlaw : l.rc.law = .pid) (hset : s.lpe.rtSet < l.rc.nreg) {c : Nat}
    (hc : (List.range 16).find? (fun c => (shadow s c).state != .running) = some c) :
    tryOp s = setRtCode cLPE_OK { updShadow c (fun _ =>
      { state := .running, cand := true, slot := s.lpe.rtSlot, count := 32, mode := l.mode,
        set := s.lpe.rtSet, kp := s.lpe.rtKp, ki := s.lpe.rtKi }) s with lpe.rtShadow := c } := by
  simp only [tryOp, hl, hc]
  rw [if_neg (by simp [hlaw, hset])]

variable (hlaw : l.rc.law = .pid) (hset : s.lpe.rtSet < l.rc.nreg)
include hlaw hset

theorem applyOp_bound (hb : inBounds s l = false) : applyOp s = setRtCode cLPE_RT_BOUND s := by
  simp only [applyOp, hl]
  rw [if_neg (by simp [hlaw, hset]), if_pos (by rw [← inBounds, hb]; rfl)]

theorem applyOp_untried (hb : inBounds s l = true) (ht : tried s l = false) : applyOp s = setRtCode cLPE_RT_UNTRIED s := by
  simp only [applyOp, hl]
  rw [if_neg (by simp [hlaw, hset]), if_neg (by rw [← inBounds, hb]; decide), if_pos (by rw [ht]; rfl)]

theorem applyOp_waits (hb : inBounds s l = true) (ht : tried s l = true) (hq : retunesToday s l < l.rc.rtPerDay)
    (hlock : (Tbl.at l.rt s.lpe.rtSet {}).locked = false) (hn : l.next = none) :
    applyOp s = setRtCode cLPE_OK (updSlot s.lpe.rtSlot (fun l => { l with
      applyWait := some { set := s.lpe.rtSet, kp := s.lpe.rtKp, ki := s.lpe.rtKi } }) s) := by
  simp only [applyOp, hl]
  rw [if_neg (by simp [hlaw, hset]), if_neg (by rw [← inBounds, hb]; decide), if_neg (by rw [ht]; decide),
    if_neg (Nat.not_le.mpr hq), if_neg (by rw [hlock, hn]; decide)]

end

theorem revertCmdOp_reverts {s : State} {l : LoopSlot} (hl : slot? s s.lpe.rtSlot = some l) (hn : l.next = none)
    (hr : (Tbl.at l.rt s.lpe.rtSet {}).retuned = true) :
    revertCmdOp s = setRtCode cLPE_OK (revertOp s.lpe.rtSlot s.lpe.rtSet s) := by
  simp only [revertCmdOp, hl, hn, hr, Bool.not_true, Bool.false_eq_true, if_false, Option.isSome_none]

end Sys2Proof.Machine
end

section
/-!
Shadows and retuning assembled (R176, R198 to R206).
-/
namespace Sys2Proof.Machine

/-- Settles O18: each command is its operation at the case in hand. A mismatched shadow has ended before its slot enters FAULT, so the
fault leaves its code. -/
theorem shadowsAndRetuning : Obligations.ShadowsAndRetuning := by
  refine ⟨fun iss c n k s l hp hl ho => ⟨fun hs => answers_regCmd hp (exec_shadowStart ..) ?start,
      fun hs => answers_regCmd hp (exec_shadowStart ..) ?busy⟩,
    fun iss c s l hp hl ho hs => answers_regCmd hp (exec_shadowStop ..) ?stop,
    fun c s l j hr hrun hs hj hl hc => ?evaluate, fun c s => exec_shadowComplete,
    fun b s x hx hs hn hr => ⟨_, exec_captureComplete hx hs hn hr, ?sent⟩,
    fun b s x l hx ha hl => ⟨_, rfl, ?freed, fun hj hw => ?reverts⟩,
    fun iss s l c hp hi hl hlaw hset hc => answers_rtCmd hi hp rfl ?tries,
    fun iss s l hp hi hl hlaw hset => ⟨fun hb => answers_rtCmd hi hp rfl ?bound,
      fun hb ht => answers_rtCmd hi hp rfl ?untried, fun hb ht hq hlock hn => answers_rtCmd hi hp rfl ?waits⟩,
    fun iss s l hp hi hl hn hr => answers_rtCmd hi hp rfl ?revert⟩
  case start =>
    rw [shadowStartOp_idle (s := { s with reply := .none }) hl (ownsSlot_of ho) hs]
    refine ⟨?_, fun d hd => ?_, rfl, rfl⟩
    · rw [shadow_setLpeStatus, shadow_updShadow_self]
    · rw [shadow_setLpeStatus, shadow_updShadow_ne _ _ _ hd]
      rfl
  case busy =>
    rw [shadowStartOp_busy (s := { s with reply := .none }) hl (ownsSlot_of ho) hs]
    exact ⟨rfl, rfl⟩
  case stop =>
    rw [shadowStopOp_running (s := { s with reply := .none }) hl (ownsSlot_of ho) hs]
    exact ⟨shadow_updShadow_self .., fun d hd => shadow_updShadow_ne _ _ _ hd, rfl⟩
  case evaluate =>
    have eq : exec (.shadowEvaluation c) s = .next (shadowEvaluationOp c s) :=
      congrArg Host.Outcome.next (if_pos (by simp [hr, hrun]))
    rw [Answers, eq]
    refine ⟨fun hk => ?late, fun hk hcand => ⟨fun h => ?equal, fun h => ?differs⟩⟩
    case late => exact congrArg Host.Outcome.next (shadowEvaluationOp_late hs hj hl hc hk)
    case equal => exact congrArg Host.Outcome.next (shadowEvaluationOp_equal hs hj hl hc hk hcand h)
    case differs =>
      refine ⟨_, congrArg Host.Outcome.next (shadowEvaluationOp_differs hs hj hl hc hk hcand h), ?_⟩
      obtain ⟨fault, keep⟩ := faultSlot_faults (s := updShadow c (shadowEnded cLPE_SHD_MISMATCH) s) hl 2
      have done := shadow_updShadow_self c (shadowEnded cLPE_SHD_MISMATCH) s
      rw [keep c (by rw [done]; exact nofun), done]
      exact ⟨rfl, rfl, fault⟩
  case sent =>
    refine ⟨Tbl.get?_put_self .., laneQ_setLaneQ_self .., fun l hl => ?_⟩
    exact (slot?_updSlot_self ..).trans (congrArg (Option.map _) hl)
  case freed =>
    rw [bufs_vintnerFitOp hx ha]
    exact Tbl.get?_del_self ..
  case reverts =>
    rw [vintnerFitOp_worse hx ha hl hj hw]
    refine ⟨revertWaits (retuneSet l.rc x) l, slot?_revertOp (s := { s with lpe.bufs := Tbl.del s.lpe.bufs b }) hl _,
      ?_, ?_, rfl⟩
    · simp [revertWaits]
    · simp [revertWaits]
  case tries =>
    rw [tryOp_starts (s := { s with reply := .none }) hl hlaw hset hc]
    have started (h : Shadow) : shadow (updShadow c (fun _ => h) s) c = h := shadow_updShadow_self ..
    refine ⟨rfl, ?_, ?_, ?_, ?_, ?_, ?_, ?_, rfl, rfl⟩
    all_goals exact (congrArg _ (started _)).trans rfl
  case bound =>
    rw [applyOp_bound (s := { s with reply := .none }) hl hlaw hset hb]
    exact ⟨rfl, rfl⟩
  case untried =>
    rw [applyOp_untried (s := { s with reply := .none }) hl hlaw hset hb ht]
    exact ⟨rfl, rfl⟩
  case waits =>
    rw [applyOp_waits (s := { s with reply := .none }) hl hlaw hset hb ht
      (show retunesToday s l < l.rc.rtPerDay by simpa [retunesToday] using hq) hlock hn]
    exact ⟨rfl, (slot?_updSlot_self ..).trans (congrArg (Option.map _) hl)⟩
  case revert =>
    rw [revertCmdOp_reverts (s := { s with reply := .none }) hl hn hr]
    refine ⟨rfl, revertWaits s.lpe.rtSet l, slot?_revertOp (s := { s with reply := .none }) hl _, ?_, rfl, ?_⟩
    · simp [revertWaits]
    · rw [revertOp_eq (s := { s with reply := .none }) hl]
      exact mem_record_arising ..

end Sys2Proof.Machine
end

section
/-!
Press's elements, pulse outputs, tariff groups and snapshot banks: what their readers give after a change of them (R226 to R250).
-/
namespace Sys2Proof.Machine

/-! ### Elements -/

theorem elem?_congr {s t : State} (h : t.prs.elems = s.prs.elems) (n : Nat) : elem? t n = elem? s n := by simp only [elem?, h]

theorem updElem_eq {n : Nat} {s : State} {e : Elem} (h : elem? s n = some e) (f : Elem → Elem) :
    updElem n f s = { s with prs.elems := Tbl.put s.prs.elems n (f e) } := by simp only [updElem, h]

/-- A change of an element is seen in that element. -/
@[simp] theorem elem?_updElem_self (n : Nat) (f : Elem → Elem) (s : State) :
    elem? (updElem n f s) n = (elem? s n).map f := by
  cases h : elem? s n with
  | none => simp [updElem, h]
  | some e => rw [updElem_eq h]; simp [elem?]

theorem elem?_updElem_ne {n k : Nat} (hk : k ≠ n) (f : Elem → Elem) (s : State) :
    elem? (updElem n f s) k = elem? s k := by
  cases h : elem? s n with
  | none => simp only [updElem, h]
  | some e => rw [updElem_eq h]; simp [elem?, Tbl.get?_put_ne _ _ hk]

/-- Of Press's state a change of an element touches the elements alone. -/
theorem prs_updElem (n : Nat) (f : Elem → Elem) (s : State) : ∃ x, (updElem n f s).prs = { s.prs with elems := x } := by
  unfold updElem
  split
  · exact ⟨_, rfl⟩
  · exact ⟨_, rfl⟩

/-! ### Register commands of Press (R29, R247) -/

/-- A command of cask 0's map that passes its checks is carried out by Press in RUN. -/
theorem answers_prsCmd {c : Instr} {s : State} {p : State → Prop} {iss : Issuer} {off : Nat} {op : State → State}
    (hi : iss.cask = 0) (hr : isRun s .press = true) (h : Permits s iss .prs off true) (he : exec c s = prsCmd iss off op s)
    (hp : p (op { s with reply := .none })) : Answers c s p := by
  have run : isRun { s with reply := .none } .press = true := hr
  exact answers_regCmd h he (by simpa only [isOwner_of hi, if_true, toPress, run] using hp)

end Sys2Proof.Machine
end

section
/-!
Pulse outputs (R236 to R240, R256).
-/
namespace Sys2Proof.Machine

/-- Set a pulse output. -/
def setPulse (n : Nat) (p : Pulse) (s : State) : State := { s with prs.pulses := Tbl.put s.prs.pulses n p }

@[simp] theorem pulse_setPulse_self (n : Nat) (p : Pulse) (s : State) : pulse (setPulse n p s) n = p := Tbl.at_put_self ..

theorem pulse_setPulse_ne {n d : Nat} (h : d ≠ n) (p : Pulse) (s : State) : pulse (setPulse n p s) d = pulse s d :=
  Tbl.at_put_ne _ _ _ h

theorem turnLevel_of_not_direction {p : Pulse} (h : p.rc.mode ≠ 2) (now : Nat) : turnLevel p now = p := by simp [turnLevel, h]

/-- With pulses owed, and none of them of the direction shown, the level turns (R240). -/
theorem turnLevel_turns {p : Pulse} (hm : p.rc.mode = 2) (ho : p.owed ≠ []) (hd : ∀ y ∈ p.owed, y.1 ≠ p.dirExport)
    (now : Nat) : turnLevel p now = { p with dirExport := !p.dirExport, dirAt := now } := by
  have none : p.owed.any (fun x => x.1 == p.dirExport) = false := by simpa using hd
  simp [turnLevel, hm, ho, none]

/-- A change of the direction level leaves the pulse, its times, the count and those owed. -/
theorem turnLevel_keeps (p : Pulse) (now : Nat) : (turnLevel p now).on = p.on ∧ (turnLevel p now).until0 = p.until0 ∧
    (turnLevel p now).count = p.count ∧ (turnLevel p now).owed = p.owed := by
  unfold turnLevel
  split
  · exact ⟨rfl, rfl, rfl, rfl⟩
  · exact ⟨rfl, rfl, rfl, rfl⟩

/-- A VIN-fail warning holds the pulses. -/
theorem exec_pulseStart_held {s : State} (h : s.pwr.warn = true) (n : Fin 8) : exec (.pulseStart n) s = .next s := by
  simp [exec, execPulseStart, h]

/-- The pulse `x` may begin: its instant, the times of the pulse before it and those of the direction level have passed. -/
def mayBegin (p : Pulse) (x : Bool × Nat) (now : Nat) : Bool :=
  x.2 ≤ now && p.until0 ≤ now && (p.rc.mode != 2 || p.dirAt == 0 || p.dirAt + pulseWidth p ≤ now)

/-- An output whose owed pulse `x` has begun. -/
def pulseBegun (p : Pulse) (x : Bool × Nat) (now : Nat) : Pulse :=
  { p with on := true, until0 := now + pulseWidth p, count := (p.count + 1) % 2 ^ 32, owed := p.owed.erase x }

/-- PULSE_START of an output that is off: its next pulse begins if it may. -/
theorem exec_pulseStart {n : Fin 8} {s : State} {p : Pulse} {x : Bool × Nat} (hr : isRun s .press = true)
    (hw : s.pwr.warn = false) (hp : turnLevel (pulse s n) s.now = p) (ho : p.on = false) (hm : p.rc.mode = 1 ∨ p.rc.mode = 2)
    (hx : nextPulse p = some x) : exec (.pulseStart n) s =
      .next (setPulse n (if mayBegin p x s.now then pulseBegun p x s.now else p) s) := by
  have runs : (!isRun s .press || s.pwr.warn || p.on || p.rc.mode == 0 || p.rc.mode == 3) = false := by
    rcases hm with hm | hm <;> simp [hr, hw, ho, hm]
  have begins : (if mayBegin p x s.now then setPulse n (pulseBegun p x s.now) s else setPulse n p s) =
      setPulse n (if mayBegin p x s.now then pulseBegun p x s.now else p) s := by split <;> rfl
  refine congrArg Host.Outcome.next (Eq.trans ?_ begins)
  rw [hp, runs, hx]
  rfl

/-- PULSE_END of a pulse whose time is over. -/
theorem exec_pulseEnd {n : Fin 8} {s : State} (ho : (pulse s n).on = true) (hu : (pulse s n).until0 ≤ s.now) :
    exec (.pulseEnd n) s =
      .next (setPulse n (turnLevel { pulse s n with on := false, until0 := s.now + pulseWidth (pulse s n) } s.now) s) :=
  congrArg Host.Outcome.next (if_pos (by simp [ho, hu]))

end Sys2Proof.Machine
end

section
/-!
Tariff queues, accumulator snapshots and the abort of Press (R235, R247 to R250).
-/
namespace Sys2Proof.Machine

/-! ### Tariff queues (R235) -/

/-- A switch at `at0` comes later than the time and than every switch queued, the last being the latest. -/
def SwitchInOrder (at0 now : Nat) (q : List (Nat × Nat)) : Prop := now < at0 ∧ ∀ x, q.getLast? = some x → x.1 < at0

theorem outOfOrder_iff (at0 now : Nat) (q : List (Nat × Nat)) :
    ((!q.isEmpty && decide (at0 ≤ (q.getLast?.map (·.1)).getD 0)) || decide (at0 ≤ now)) = true ↔
      ¬ SwitchInOrder at0 now q := by
  cases h : q.getLast? with
  | none =>
    rw [List.getLast?_eq_none_iff] at h
    simp [SwitchInOrder, h]
  | some x =>
    have hq : q.isEmpty = false := by
      cases q with
      | nil => exact absurd h nofun
      | cons y q => rfl
    simp only [SwitchInOrder, h, hq, Bool.not_false, Bool.true_and, Option.map_some, Option.getD_some, Bool.or_eq_true,
      decide_eq_true_eq, Option.some.injEq, forall_eq']
    omega

/-- The instant that PRS_TRF_g_AT_HI and PRS_TRF_g_AT_LO hold for a group. -/
def switchAt (s : State) (g : Nat) : Nat := (tariff s g).atLo.toNat + 2 ^ 32 * (tariff s g).atHi.toNat

/-- Set a tariff group. -/
def setTariff (g : Nat) (r : Tariff) (s : State) : State := { s with prs.tariffs := Tbl.put s.prs.tariffs g r }

@[simp] theorem tariff_setTariff_self (g : Nat) (r : Tariff) (s : State) : tariff (setTariff g r s) g = r := Tbl.at_put_self ..

theorem tariff_setTariff_ne {g d : Nat} (h : d ≠ g) (r : Tariff) (s : State) : tariff (setTariff g r s) d = tariff s d :=
  Tbl.at_put_ne _ _ _ h

/-- The part of PUSH that is done once the access passes its checks. -/
def tariffPushOp (iss : Issuer) (g : Fin 4) (k : Fin 8) (s : State) : State :=
  let q := (tariff s g).queue
  if (!q.isEmpty && switchAt s g ≤ (q.getLast?.map (·.1)).getD 0) || switchAt s g ≤ localNs s .press 1 then
    setPrsStatus iss cPRS_TRF_ORDER s
  else if 16 ≤ q.length then setPrsStatus iss cPRS_TRF_FULL s
  else setPrsStatus iss cPRS_OK (setTariff g { tariff s g with queue := q ++ [(switchAt s g, k.val)] } s)

theorem exec_tariffPush (iss : Issuer) (g : Fin 4) (k : Fin 8) (s : State) :
    exec (.tariffPush iss g k) s = prsCmd iss (0x0608 + 16 * g.val) (tariffPushOp iss g k) s := rfl

theorem exec_tariffClear (iss : Issuer) (g : Fin 4) (s : State) : exec (.tariffClear iss g) s =
    prsCmd iss (0x0608 + 16 * g.val) (fun s => setPrsStatus iss cPRS_OK (setTariff g { tariff s g with queue := [] } s)) s := rfl

theorem tariffPushOp_disordered {g : Fin 4} {s : State}
    (h : ¬ SwitchInOrder (switchAt s g) (localNs s .press 1) (tariff s g).queue) (iss : Issuer) (k : Fin 8) :
    tariffPushOp iss g k s = setPrsStatus iss cPRS_TRF_ORDER s :=
  if_pos ((outOfOrder_iff ..).mpr h)

section
variable {g : Fin 4} {s : State} (h : SwitchInOrder (switchAt s g) (localNs s .press 1) (tariff s g).queue)
include h

theorem tariffPushOp_full (hf : 16 ≤ (tariff s g).queue.length) (iss : Issuer) (k : Fin 8) :
    tariffPushOp iss g k s = setPrsStatus iss cPRS_TRF_FULL s :=
  (if_neg (fun c => (outOfOrder_iff ..).mp c h)).trans (if_pos hf)

theorem tariffPushOp_queues (hf : (tariff s g).queue.length < 16) (iss : Issuer) (k : Fin 8) :
    tariffPushOp iss g k s = setPrsStatus iss cPRS_OK
      (setTariff g { tariff s g with queue := (tariff s g).queue ++ [(switchAt s g, k.val)] } s) :=
  (if_neg (fun c => (outOfOrder_iff ..).mp c h)).trans (if_neg (Nat.not_le.mpr hf))

end

/-! ### Snapshots (R247, R250) -/

@[simp] theorem snapBank_setSnapBank_self (c : Nat) (b : SnapBank) (s : State) : snapBank (setSnapBank c b s) c = b :=
  Tbl.at_put_self ..

theorem snapBank_setSnapBank_ne {c d : Nat} (h : d ≠ c) (b : SnapBank) (s : State) :
    snapBank (setSnapBank c b s) d = snapBank s d := Tbl.at_put_ne _ _ _ h

/-- The part of PRS_ACC_SEL that is done once the access passes its checks. -/
def accSelOp (iss : Issuer) (n : Fin 64) (s : State) : State :=
  match elem? s n with
  | none => setSnapBank iss.cask { sel := n, undef := true } s
  | some e =>
    if iss.cask.val != 0 && iss.cask.val != e.rc.cask then
      denied 0x05 6 n e.rc.cask 0x0300 iss.cask (setSnapBank iss.cask { sel := n, denied := true } s)
    else toPress (setSnapBank iss.cask
      { snapBank s iss.cask with sel := n, busy := true, denied := false, undef := false, aborted := false }) s

theorem exec_accumulatorSnapshot (iss : Issuer) (n : Fin 64) (s : State) :
    exec (.accumulatorSnapshot iss n) s = regCmd iss .prs 0x0300 (accSelOp iss n) s := rfl

theorem accSelOp_undefined {n : Fin 64} {s : State} (h : elem? s n = none) (iss : Issuer) :
    accSelOp iss n s = setSnapBank iss.cask { sel := n, undef := true } s := by simp only [accSelOp, h]

theorem accSelOp_denied {iss : Issuer} {n : Fin 64} {s : State} {e : Elem} (h : elem? s n = some e) (h0 : iss.cask ≠ 0)
    (hc : iss.cask.val ≠ e.rc.cask) : accSelOp iss n s =
      denied 0x05 6 n e.rc.cask 0x0300 iss.cask (setSnapBank iss.cask { sel := n, denied := true } s) := by
  have h0 : iss.cask.val ≠ 0 := fun c => h0 (Fin.ext c)
  simp only [accSelOp, h]
  exact if_pos (by simp [h0, hc])

theorem accSelOp_requested {iss : Issuer} {n : Fin 64} {s : State} {e : Elem} (h : elem? s n = some e)
    (hc : iss.cask = 0 ∨ iss.cask.val = e.rc.cask) (hr : isRun s .press = true) : accSelOp iss n s =
      setSnapBank iss.cask
        { snapBank s iss.cask with sel := n, busy := true, denied := false, undef := false, aborted := false } s := by
  simp only [accSelOp, h]
  rw [if_neg (by rcases hc with hc | hc <;> simp [hc]), toPress, if_pos hr]

/-- Between two samples a snapshot asked for is complete at once. -/
theorem exec_snapshotComplete {c : Fin 63} {s : State} {e : Elem} (hb : (snapBank s c).busy = true) (hr : isRun s .press = true)
    (he : elem? s (snapBank s c).sel = some e) : exec (.snapshotComplete c) s =
      .next (setSnapBank c { snapBank s c with busy := false, words := snapWords s e } s) := by
  simp [exec, execSnapshotComplete, hb, hr, he]

/-- The first 26 words of a snapshot are the accumulators' integer parts. -/
theorem snapWords_acc (s : State) (e : Elem) {i : Nat} (hi : i < 26) : (snapWords s e)[i]? = some (accInt e.a.acc i) := by
  unfold snapWords
  rw [List.getElem?_append_left (by simpa using hi)]
  simp [hi]

/-! ### Abort (R248) -/

/-- A snapshot in progress ends with ABORTED. -/
def bankAborted (b : SnapBank) : SnapBank := if b.busy then { b with busy := false, aborted := true } else b

theorem bankAborted_ends (b : SnapBank) : (bankAborted b).busy = false ∧ (b.busy = true → (bankAborted b).aborted = true) := by
  unfold bankAborted
  split
  · exact ⟨rfl, fun _ => rfl⟩
  · next h => exact ⟨by simpa using h, fun k => absurd k h⟩

theorem snapBank_pressAbortOp (s : State) (c : Nat) : snapBank (pressAbortOp s) c = bankAborted (snapBank s c) :=
  Tbl.at_mapV (f := fun _ => bankAborted) (d := {}) rfl s.prs.banks

theorem exec_pressAbort {s : State} {iss : Issuer} (hi : iss.cask = 0) (hp : Permits s iss .sys 0x0030 true)
    (hr : isRun s .press = true) :
    exec (.pressAbort iss) s = .next (abortDone 4 (pressAbortOp { s with reply := .none })) := by
  have run : isRun { s with reply := .none } .press = true := hr
  simp [exec, execPressAbort, abortCmd, regCmd_ok hp, isOwner_of hi, abortTarget, run]

end Sys2Proof.Machine
end

section
/-!
Press's pulses, tariffs and snapshots assembled (R232, R235 to R240, R247 to R250, R256).
-/
namespace Sys2Proof.Machine

/-- Settles O20: each command is its operation at the case in hand. A level that has just turned makes no pulse, since WIDTH_US
after the turn has not passed. -/
theorem pressPulsesTariffsAndSnapshots : Obligations.PressPulsesTariffsAndSnapshots := by
  refine ⟨fun n s x rest hr ho hx => ⟨fun hw => exec_pulseStart_held hw n, fun hw hm ht hu => ?starts,
      fun hw hm ht => ?waits, fun hw hm h0 hd hy => ?turns⟩,
    fun n s ho hu => ⟨_, exec_pulseEnd ho hu, ?ends⟩,
    fun iss n s hp hi hr => ⟨fun e he => answers_prsCmd hi hr hp rfl ?reset, fun he => answers_prsCmd hi hr hp rfl ?noElement⟩,
    fun iss g k s hp hi hr => ⟨fun h hf => answers_prsCmd hi hr hp (exec_tariffPush ..) ?pushed,
      fun h hf => answers_prsCmd hi hr hp (exec_tariffPush ..) ?full,
      fun h => answers_prsCmd hi hr hp (exec_tariffPush ..) ?order, answers_prsCmd hi hr hp (exec_tariffClear ..) ?cleared⟩,
    fun iss n s hp => ⟨fun e he hc hr => answers_regCmd hp (exec_accumulatorSnapshot ..) ?requested,
      fun e he h0 hc => answers_regCmd hp (exec_accumulatorSnapshot ..) ?denied,
      fun he => answers_regCmd hp (exec_accumulatorSnapshot ..) ?undefined⟩,
    fun c s e hb hr he => ⟨_, exec_snapshotComplete hb hr he, ?complete⟩,
    fun iss s hp hi hr => ⟨_, exec_pressAbort hi hp hr, ?abort⟩⟩
  case starts =>
    have shown := turnLevel_of_not_direction (p := pulse s n) (by simp [hm]) s.now
    have oldest : nextPulse (pulse s n) = some x := by simp [nextPulse, hm, hx]
    have due : mayBegin (pulse s n) x s.now = true := by simp [mayBegin, ht, hu, hm]
    refine ⟨_, exec_pulseStart hr hw shown ho (.inl hm) oldest, fun d hd => pulse_setPulse_ne hd .., rfl, ?_⟩
    rw [pulse_setPulse_self, if_pos due, pulseBegun, hx, List.erase_cons_head]
    rfl
  case waits =>
    have shown := turnLevel_of_not_direction (p := pulse s n) (by simp [hm]) s.now
    have oldest : nextPulse (pulse s n) = some x := by simp [nextPulse, hm, hx]
    have early : mayBegin (pulse s n) x s.now = false := by
      simp only [mayBegin, Bool.and_eq_false_iff]
      rcases ht with ht | ht
      · exact .inl (.inl (decide_eq_false (Nat.not_le.mpr ht)))
      · exact .inl (.inr (decide_eq_false (Nat.not_le.mpr ht)))
    refine ⟨_, exec_pulseStart hr hw shown ho (.inl hm) oldest, fun d => ?_⟩
    by_cases hd : d = n
    · rw [hd, pulse_setPulse_self, early]
      rfl
    · exact pulse_setPulse_ne hd ..
  case turns =>
    have shown := turnLevel_turns hm (by simp [hx]) hy s.now
    have other : x.1 = !(pulse s n).dirExport := Bool.eq_not_of_ne (hy x (by simp [hx]))
    have oldest : nextPulse { pulse s n with dirExport := !(pulse s n).dirExport, dirAt := s.now } = some x := by
      simp [nextPulse, hm, hx, other]
    have early : mayBegin { pulse s n with dirExport := !(pulse s n).dirExport, dirAt := s.now } x s.now = false := by
      simp only [mayBegin, pulseWidth, hm, Bool.and_eq_false_iff, Bool.or_eq_false_iff]
      exact .inr ⟨⟨rfl, beq_false_of_ne (Nat.ne_of_gt h0)⟩, decide_eq_false (by omega)⟩
    refine ⟨_, exec_pulseStart hr hw shown ho (.inr hm) oldest, ?_⟩
    simp only [early, Bool.false_eq_true, if_false, pulse_setPulse_self]
    exact ⟨ho, trivial, trivial, trivial⟩
  case ends =>
    obtain ⟨on, until0, count, owed⟩ :=
      turnLevel_keeps { pulse s n with on := false, until0 := s.now + pulseWidth (pulse s n) } s.now
    simp only [pulse_setPulse_self]
    exact ⟨on, until0, count, owed, fun d hd => pulse_setPulse_ne hd ..⟩
  case reset =>
    have he' : elem? { s with reply := .none } n = some e := he
    simp only [he']
    exact ⟨(elem?_updElem_self ..).trans (congrArg (Option.map _) he'), rfl, fun d hd => elem?_updElem_ne hd ..⟩
  case noElement =>
    have he' : elem? { s with reply := .none } n = none := he
    simp only [he']
    exact ⟨rfl, rfl⟩
  case pushed =>
    rw [tariffPushOp_queues (s := { s with reply := .none }) h hf]
    exact ⟨rfl, tariff_setTariff_self .., fun d hd => tariff_setTariff_ne hd ..⟩
  case full =>
    rw [tariffPushOp_full (s := { s with reply := .none }) h hf]
    exact ⟨rfl, rfl⟩
  case order =>
    rw [tariffPushOp_disordered (s := { s with reply := .none }) h]
    exact ⟨rfl, rfl⟩
  case cleared => exact ⟨rfl, tariff_setTariff_self .., fun d hd => tariff_setTariff_ne hd ..⟩
  case requested =>
    rw [accSelOp_requested (s := { s with reply := .none }) he hc hr]
    exact ⟨snapBank_setSnapBank_self .., rfl⟩
  case denied =>
    rw [accSelOp_denied (s := { s with reply := .none }) he h0 hc]
    exact ⟨snapBank_setSnapBank_self .., rfl, mem_record_arising ..⟩
  case undefined =>
    rw [accSelOp_undefined (s := { s with reply := .none }) he]
    exact ⟨snapBank_setSnapBank_self .., rfl⟩
  case complete =>
    simp only [snapBank_setSnapBank_self]
    exact ⟨rfl, trivial, fun i hi => snapWords_acc s e hi, rfl, rfl, rfl, rfl, rfl, fun d hd => snapBank_setSnapBank_ne hd ..⟩
  case abort =>
    refine ⟨fun c => ?_, rfl, rfl, rfl, mem_record_arising ..⟩
    have ended := bankAborted_ends (snapBank s c)
    rwa [← snapBank_pressAbortOp] at ended

end Sys2Proof.Machine
end
section
/-!
What sampling leaves of Press's booking, and what becomes of a sample before and after restoration (R212, R224, R258).
-/
namespace Sys2Proof.Machine

/-- What booking, holding and restoration know of Press: samples held and booked, and each element's accumulators. -/
structure Booking where
  restored : Bool
  lastStamp : Option Nat
  held : List HeldSample
  holdFull : Bool
  total : Tbl (Nat × Nat)
  totalN : Nat
  accs : Nat → Option ElemAcc

/-- What a state gives booking, holding and restoration. -/
def booking (s : State) : Booking :=
  ⟨s.prs.restored, s.prs.lastStamp, s.prs.held, s.prs.holdFull, s.prs.total, s.prs.totalN, fun n => (elem? s n).map (·.a)⟩

theorem booking_sampleChans (main guard : List (Nat × Int)) (s : State) :
    booking (sampleChans main guard s).1 = booking s := rfl

theorem booking_updVsys (b : Bool) (f : VSys → VSys) (s : State) : booking (updVsys b f s) = booking s := by
  cases b <;> rfl

theorem booking_sampleSystems (o : Tbl ChOut) (s : State) : booking (sampleSystems o s) = booking s :=
  (booking_updVsys ..).trans (booking_updVsys ..)

/-- An element after a sample: its history and the counts of its phases. -/
def elemSampled (s : State) (o : Tbl ChOut) (e : Elem) : Elem :=
  countPhase e.rc (vsys s e.rc.sysB).n { e with hist := (elemSample e.rc o :: e.hist).take 200 }

theorem elem?_sampleElems (o : Tbl ChOut) (s : State) (n : Nat) :
    elem? (sampleElems o s).1 n = (elem? s n).map (elemSampled s o) := by
  have elems : (sampleElems o s).1.prs.elems = Tbl.mapV s.prs.elems (fun _ => elemSampled s o) := by
    simp only [sampleElems, List.map_map]
    rfl
  rw [elem?, elems]
  exact Tbl.get?_mapV ..

theorem booking_sampleElems (o : Tbl ChOut) (s : State) : booking (sampleElems o s).1 = booking s := by
  have accs : (fun n => (elem? (sampleElems o s).1 n).map (·.a)) = fun n => (elem? s n).map (·.a) := by
    funext n
    rw [elem?_sampleElems, Option.map_map]
    rfl
  rw [booking, accs]
  rfl

theorem booking_tasteSample (o : Tbl ChOut) (ref : F64) (s : State) : booking (tasteSample o ref s) = booking s := by
  unfold tasteSample
  dsimp only
  split
  · rfl
  · rfl

theorem booking_beginRun (ch : Nat) (z c : Int) (s : State) : booking (beginRun ch z c s) = booking s := by
  unfold beginRun
  split
  · rfl
  · rfl

theorem booking_followRun (z c : Int) (s : State) : booking (followRun z c s) = booking s := by
  unfold followRun
  split
  · split
    · exact booking_beginRun ..
    · rfl
  · exact booking_beginRun ..
  · rfl

theorem booking_restartTaste (s : State) : booking (restartTaste s) = booking s := by
  unfold restartTaste
  dsimp only
  split
  · rfl
  · split
    · split
      · exact booking_followRun ..
      · rfl
    · exact booking_followRun ..
    · rfl

/-- A sample leaves the booking as it is until its own fate: booked under its stamp once Press is restored; before, held while
there is room and else added to the restart total. -/
theorem pressSampleOp_cases (main guard : List (Nat × Int)) (ref : F64) (s : State) : ∃ u clipped ms,
    booking u = booking s ∧ pressSampleOp main guard ref s =
      if s.prs.restored then bookSample (localNs s .press 1) clipped ms u
      else if !s.prs.holdFull && s.prs.held.length < 512 then
        { u with prs.held := s.prs.held ++ [{ stamp := localNs s .press 1, clipped := clipped, meas := ms }] }
      else addTotal ms u := by
  let r := sampleChans main guard s
  let r2 := sampleElems r.2 (sampleSystems r.2 r.1)
  let u := bumpFree (restartTaste (tasteSample r.2 ref r2.1))
  have same : booking u = booking s :=
    calc booking u
      _ = booking (tasteSample r.2 ref r2.1) := booking_restartTaste _
      _ = booking r2.1 := booking_tasteSample ..
      _ = booking (sampleSystems r.2 r.1) := booking_sampleElems ..
      _ = booking r.1 := booking_sampleSystems ..
      _ = booking s := booking_sampleChans ..
  refine ⟨u, (r.2.filter (fun x => x.2.clip)).map (·.1), r2.2, same, ?_⟩
  rw [← show u.prs.restored = s.prs.restored from congrArg Booking.restored same,
    ← show u.prs.holdFull = s.prs.holdFull from congrArg Booking.holdFull same,
    ← show u.prs.held = s.prs.held from congrArg Booking.held same]
  rfl

theorem exec_pressSample {s : State} (hr : isRun s .press = true) (main guard : List (Nat × Int)) (ref : F64) :
    exec (.pressSample main guard ref) s = .next (pressSampleOp main guard ref s) := congrArg Host.Outcome.next (if_pos hr)

end Sys2Proof.Machine
end

section
/-!
Gain, crossings, direction and the phases of an element (R213, R214, R219, R226, R228).
-/
namespace Sys2Proof.Machine

/-! ### Gain and hand-over (R213, R214) -/

theorem exec_gainStepUp {ch : Fin 48} {s : State} (hr : isRun s .press = true) (hu : (chan s ch).rc.used = true)
    (ha : (chan s ch).rc.autoGain = true) (hh : (chan s ch).handing = false) (hq : 8 ≤ (chan s ch).quiet)
    (hg : (chan s ch).gain < 3) :
    exec (.gainStepUp ch) s = .next (updChan ch (startHandover ((chan s ch).gain + 1) 3) s) :=
  congrArg Host.Outcome.next (if_pos (by simp [hr, hu, ha, hh, hq, hg]))

theorem exec_handoverEnd {ch : Fin 48} {s : State} (hr : isRun s .press = true) (hh : (chan s ch).handing = true)
    (hl : (chan s ch).handLeft = 0) : exec (.handoverEnd ch) s = .next (updChan ch endHandover s) :=
  congrArg Host.Outcome.next (if_pos (by simp [hr, hh, hl]))

/-! ### Crossings (R219) -/

@[simp] theorem vsys_updVsys_self (b : Bool) (f : VSys → VSys) (s : State) : vsys (updVsys b f s) b = f (vsys s b) := by
  cases b <;> rfl

@[simp] theorem vsys_updVsys_other (b : Bool) (f : VSys → VSys) (s : State) : vsys (updVsys b f s) (!b) = vsys s (!b) := by
  cases b <;> rfl

@[simp] theorem elems_updVsys (b : Bool) (f : VSys → VSys) (s : State) : (updVsys b f s).prs.elems = s.prs.elems := by
  cases b <;> rfl

/-- A system with one more crossing of a phase. -/
def crossed (ph now : Nat) (v : VSys) : VSys := { v with cross := v.cross.set ph ((now :: nthD v.cross ph []).take 11) }

/-- The frequency and cycle length after a crossing of phase `ph`: those of the valid phase when it is `ph`. -/
def refreshed (ph : Nat) (v : VSys) : VSys :=
  match validPhase v with
  | some (i, f) => if i == ph then { v with freq := f, n := cycleLen f } else v
  | none => { v with freq := 0, n := 160 }

theorem zeroCrossOp_eq (b : Bool) (ph : Nat) (s : State) :
    zeroCrossOp b ph s = updVsys b (fun v => refreshed ph (crossed ph s.now v)) s := by
  cases b <;> rfl

@[simp] theorem cross_refreshed (ph : Nat) (v : VSys) : (refreshed ph v).cross = v.cross := by
  unfold refreshed
  split
  · split
    · rfl
    · rfl
  · rfl

theorem refreshed_valid {ph : Nat} {v : VSys} {f : F64} (h : validPhase v = some (ph, f)) :
    (refreshed ph v).freq = f ∧ (refreshed ph v).n = cycleLen f := by simp [refreshed, h]

theorem refreshed_none {ph : Nat} {v : VSys} (h : validPhase v = none) :
    (refreshed ph v).freq = 0 ∧ (refreshed ph v).n = 160 := by simp [refreshed, h]

theorem crossed_self {ph : Nat} {v : VSys} (h : ph < v.cross.length) (now : Nat) :
    nthD (crossed ph now v).cross ph [] = (now :: nthD v.cross ph []).take 11 := by simp [crossed, nthD, h]

theorem crossed_ne {ph k : Nat} (h : k ≠ ph) (v : VSys) (now : Nat) :
    nthD (crossed ph now v).cross k [] = nthD v.cross k [] := by simp [crossed, nthD, List.getElem?_set_ne h.symm]

/-! ### Points of an element (R242) -/

@[simp] theorem chans_updElem (n : Nat) (f : Elem → Elem) (s : State) : (updElem n f s).prs.chans = s.prs.chans := by
  obtain ⟨x, h⟩ := prs_updElem n f s
  rw [h]

/-- Writing the points of a list changes nothing of Press. -/
theorem prs_foldl_writeQ (n cask base : Nat) (q : Byte) (st : DWord) (l : List (Nat × DWord)) (s : State) :
    (l.foldl (fun s x => writeQ pvPress (n * 32 + x.1) cask (base + x.1) x.2 q st s) s).prs = s.prs :=
  foldl_keeps (P := fun t => t.prs = s.prs) (fun t _ h => ((writeQ_same (.refl 1147184 t) rfl).prs rfl).trans h) _ rfl

/-- A write of an element's points notes the time in the element and changes nothing else of it. -/
theorem elem?_writeElem {n : Nat} {s : State} {e : Elem} (h : elem? s n = some e) (stamp : Nat) (f : Nat → Nat → Option DWord) :
    ∃ p l, elem? (writeElem n stamp f s) n = some { e with pubAt := p, lost := l } := by
  simp only [writeElem, h]
  split
  · exact ⟨e.pubAt, e.lost, h⟩
  · split
    · rw [elem?_updElem_self, elem?_congr (congrArg Prs.elems (prs_foldl_writeQ ..)), h]
      exact ⟨_, _, rfl⟩
    · exact ⟨e.pubAt, e.lost, h⟩

@[simp] theorem chans_writeElem (n stamp : Nat) (f : Nat → Nat → Option DWord) (s : State) :
    (writeElem n stamp f s).prs.chans = s.prs.chans := by
  unfold writeElem
  split
  · rfl
  · dsimp only
    split
    · rfl
    · split
      · rw [chans_updElem, prs_foldl_writeQ]
      · rfl

@[simp] theorem chans_publishBlock (n t : Nat) (s : State) : (publishBlock n t s).prs.chans = s.prs.chans := by
  unfold publishBlock
  split
  · rfl
  · dsimp only
    split
    · rfl
    · rw [chans_updElem]
      split
      · exact chans_writeElem ..
      · exact chans_writeElem ..

/-! ### Direction (R226) -/

theorem b2n_not (b : Bool) : b2n (!b) = if b then 0 else 1 := by cases b <;> rfl

/-- An element whose direction has turned. -/
def turned (e : Elem) : Elem :=
  { e with opp := 0, a.isExport := !e.a.isExport, a.dirCnt := satInc e.a.dirCnt max32, a.win.dirs := e.a.win.dirs + 1 }

/-- PRS_DIR_CHANGE: the element turned, its direction's point written, and the event. -/
theorem exec_prsDirChange {n : Fin 48} {s : State} {e : Elem} (hr : isRun s .press = true) (he : elem? s n = some e)
    (ha : e.active = true) (hN : (vsys s e.rc.sysB).n ≤ e.opp) : ∃ u,
    (∃ p l, elem? u n = some { turned e with pubAt := p, lost := l }) ∧
    exec (.prsDirChange n) s = .next (record cPRS_DIR_CHANGE e.rc.cask (d1 n ++ d1 (b2n !e.a.isExport)) u) := by
  have due : (isRun s .press && e.active && (vsys s e.rc.sysB).n ≤ e.opp) = true := by simp [hr, ha, hN]
  have written := elem?_writeElem (e := turned e) (s := { s with prs.elems := Tbl.put s.prs.elems n (turned e) })
    (Tbl.get?_put_self ..) (s.prs.lastStamp.getD 0) (fun b _ => if b == 13 then some (if !e.a.isExport then 1 else 0) else none)
  refine ⟨_, written, ?_⟩
  simp only [exec, execPrsDirChange, he, due, if_true, updElem]
  rfl

/-! ### Phases (R228) -/

/-- A bit that is clear is set by adding its power, and the other bits stay. -/
theorem bitOf_add_two_pow {x i : Nat} (h : bitOf x i = false) (j : Nat) :
    bitOf (x + 2 ^ i) j = if j = i then true else bitOf x j := by
  simp only [bitOf_eq] at h ⊢
  rw [Nat.add_comm]
  rcases Nat.lt_trichotomy j i with hj | hj | hj
  · rw [if_neg (Nat.ne_of_lt hj), Nat.testBit_two_pow_add_gt hj]
  · rw [if_pos hj, hj, Nat.testBit_two_pow_add_eq, h]
    rfl
  · obtain ⟨k, rfl⟩ := Nat.exists_eq_add_of_lt hj
    have even : x / 2 ^ i % 2 ≠ 1 := by simpa [Nat.testBit_eq_decide_div_mod_eq] using h
    have same : (2 ^ i + x) / 2 ^ (i + 1) = x / 2 ^ (i + 1) := by
      rw [Nat.pow_succ, ← Nat.div_div_eq_div_mul, ← Nat.div_div_eq_div_mul, Nat.add_div_left _ (Nat.two_pow_pos i)]
      omega
    rw [if_neg (by omega), show i + k + 1 = k + (i + 1) by omega, Nat.testBit_add, Nat.testBit_add, same]

/-- A bit that is set is cleared by taking its power away, and the other bits stay. -/
theorem bitOf_sub_two_pow {x i : Nat} (h : bitOf x i = true) (j : Nat) :
    bitOf (x - 2 ^ i) j = if j = i then false else bitOf x j := by
  have le : 2 ^ i ≤ x := Nat.ge_two_pow_of_testBit (by rwa [← bitOf_eq])
  obtain ⟨y, rfl⟩ := Nat.exists_eq_add_of_le' le
  have clear : bitOf y i = false := by
    rw [bitOf_eq, Nat.add_comm, Nat.testBit_two_pow_add_eq] at h
    rw [bitOf_eq]
    simpa using h
  rw [Nat.add_sub_cancel, bitOf_add_two_pow clear]
  split
  · next hj => rw [hj, clear]
  · rfl

/-- A window that takes PHASE_LOSS has bit 4 of its flags set (Table 7.7). -/
theorem bitOf_phaseLossFlag (f : Nat) : bitOf (f ||| fPHASE_LOSS) 4 = true := by
  rw [bitOf_eq, Nat.testBit_or, show fPHASE_LOSS.testBit 4 = true by decide, Bool.or_true]

/-- An element with these PHASE_LOSS bits and these flags of its window. -/
def withPhases (e : Elem) (p f : Nat) : Elem := { e with phaseLoss := p, a.win.flags := f }

section
variable {n i : Nat} {s : State} {e : Elem} (he : elem? s n = some e)
include he

/-- A phase low for 10 cycles takes PHASE_LOSS. -/
theorem phaseLossOp_low (hb : bitOf e.phaseLoss i = false) (hl : 10 * (vsys s e.rc.sysB).n ≤ nthD e.low i 0) :
    phaseLossOp n i s = record cPRS_PHASE_LOSS e.rc.cask (d1 n ++ d1 (2 ^ i))
      (updElem n (fun x => withPhases x (e.phaseLoss + 2 ^ i) (e.a.win.flags ||| fPHASE_LOSS)) s) := by
  have lost : elem? (updElem n (fun e => { e with phaseLoss := e.phaseLoss + 2 ^ i }) s) n =
      some { e with phaseLoss := e.phaseLoss + 2 ^ i } := by rw [elem?_updElem_self, he]; rfl
  simp only [phaseLossOp, he, hb, hl, Bool.not_false, decide_true, Bool.and_self, if_true]
  rw [flagWin, updElem_eq lost, updElem_eq he, updElem_eq he, Tbl.put_put]
  rfl

/-- A phase high for 10 cycles loses PHASE_LOSS. -/
theorem phaseLossOp_high (hb : bitOf e.phaseLoss i = true) (hl : 10 * (vsys s e.rc.sysB).n ≤ nthD e.high i 0) :
    phaseLossOp n i s = updElem n (fun x => withPhases x (e.phaseLoss - 2 ^ i) e.a.win.flags) s := by
  simp only [phaseLossOp, he, hb, hl, Bool.not_true, Bool.false_and, Bool.false_eq_true, if_false, decide_true, Bool.and_self,
    if_true]
  rw [updElem_eq he, updElem_eq he]
  rfl

/-- Any other phase keeps its bit. -/
theorem phaseLossOp_other (hl : ¬(bitOf e.phaseLoss i = false ∧ 10 * (vsys s e.rc.sysB).n ≤ nthD e.low i 0))
    (hh : ¬(bitOf e.phaseLoss i = true ∧ 10 * (vsys s e.rc.sysB).n ≤ nthD e.high i 0)) : phaseLossOp n i s = s := by
  simp only [phaseLossOp, he]
  rw [if_neg (by simpa using hl), if_neg (by simpa using hh)]

end

/-- From `s` to `t` the systems are kept, no event is lost, and of element `n` at most PHASE_LOSS bits other than `i` and window
flags change, PHASE_LOSS staying among the flags. -/
def KeepsPhase (n i : Nat) (s t : State) : Prop :=
  vsys t = vsys s ∧ Grows s t ∧ ∀ e, elem? s n = some e → ∃ p f, elem? t n = some (withPhases e p f) ∧
    bitOf p i = bitOf e.phaseLoss i ∧ (bitOf e.a.win.flags 4 = true → bitOf f 4 = true)

theorem KeepsPhase.refl (n i : Nat) (s : State) : KeepsPhase n i s s := ⟨rfl, .refl s, fun _ h => ⟨_, _, h, rfl, id⟩⟩

theorem KeepsPhase.trans {n i : Nat} {s t u : State} (h : KeepsPhase n i s t) (k : KeepsPhase n i t u) : KeepsPhase n i s u := by
  obtain ⟨hv, hg, he⟩ := h
  obtain ⟨kv, kg, ke⟩ := k
  refine ⟨kv.trans hv, hg.trans kg, fun e h => ?_⟩
  obtain ⟨p, f, h, hb, hf⟩ := he e h
  obtain ⟨p', f', k, kb, kf⟩ := ke _ h
  exact ⟨p', f', k, kb.trans hb, fun x => kf (hf x)⟩

theorem vsys_updElem (n : Nat) (f : Elem → Elem) (s : State) : vsys (updElem n f s) = vsys s := by
  obtain ⟨x, h⟩ := prs_updElem n f s
  funext b
  simp only [vsys, h]

theorem grows_updElem (n : Nat) (f : Elem → Elem) (s : State) : Grows s (updElem n f s) :=
  ⟨[], by rw [List.append_nil, updElem_arising]⟩

theorem KeepsPhase.of_elem {n i p f : Nat} {s t : State} {e : Elem} (he : elem? s n = some e)
    (ht : elem? t n = some (withPhases e p f)) (hv : vsys t = vsys s) (hg : Grows s t) (hp : bitOf p i = bitOf e.phaseLoss i)
    (hf : bitOf e.a.win.flags 4 = true → bitOf f 4 = true) : KeepsPhase n i s t := by
  refine ⟨hv, hg, fun e' he' => ?_⟩
  obtain rfl : e = e' := Option.some.inj (he.symm.trans he')
  exact ⟨p, f, ht, hp, hf⟩

/-- The judgement of another phase keeps phase `i`. -/
theorem keepsPhase_phaseLossOp {i j : Nat} (h : j ≠ i) (n : Nat) (s : State) : KeepsPhase n i s (phaseLossOp n j s) := by
  cases he : elem? s n with
  | none =>
    rw [show phaseLossOp n j s = s by simp only [phaseLossOp, he]]
    exact .refl ..
  | some e =>
    have changed (p f : Nat) : elem? (updElem n (fun e => withPhases e p f) s) n = some (withPhases e p f) :=
      (elem?_updElem_self ..).trans (congrArg (Option.map _) he)
    by_cases hl : bitOf e.phaseLoss j = false ∧ 10 * (vsys s e.rc.sysB).n ≤ nthD e.low j 0
    · rw [phaseLossOp_low he hl.1 hl.2]
      refine .of_elem he (changed ..) (vsys_updElem ..) ((grows_updElem ..).trans (grows_record ..)) ?_ fun hf => ?_
      · rw [bitOf_add_two_pow hl.1, if_neg h.symm]
      · rw [bitOf_eq] at hf ⊢
        rw [Nat.testBit_or, hf, Bool.true_or]
    · by_cases hh : bitOf e.phaseLoss j = true ∧ 10 * (vsys s e.rc.sysB).n ≤ nthD e.high j 0
      · rw [phaseLossOp_high he hh.1 hh.2]
        refine .of_elem he (changed ..) (vsys_updElem ..) (grows_updElem ..) ?_ id
        rw [bitOf_sub_two_pow hh.1, if_neg h.symm]
      · rw [phaseLossOp_other he hl hh]
        exact .refl ..

theorem keepsPhase_foldl {i : Nat} {l : List Nat} (h : i ∉ l) (n : Nat) (s : State) :
    KeepsPhase n i s (l.foldl (fun s j => phaseLossOp n j s) s) := by
  induction l generalizing s with
  | nil => exact .refl ..
  | cons j l ih =>
    rw [List.mem_cons, not_or] at h
    exact (keepsPhase_phaseLossOp (Ne.symm h.1) n s).trans (ih h.2 _)

/-- The judgement of phase `i` stands between judgements that keep it. -/
theorem exec_prsPhaseLoss {n : Fin 48} {s : State} {e : Elem} (hr : isRun s .press = true) (he : elem? s n = some e) {i : Nat}
    (hi : i < 3) : ∃ u t p f, exec (.prsPhaseLoss n) s = .next t ∧ vsys u = vsys s ∧ elem? u n = some (withPhases e p f) ∧
      bitOf p i = bitOf e.phaseLoss i ∧ KeepsPhase n i (phaseLossOp n i u) t := by
  obtain ⟨l, r, split⟩ := List.append_of_mem (List.mem_range.mpr hi)
  have nodup : (l ++ i :: r).Nodup := split ▸ List.nodup_range
  obtain ⟨_, hr', hl⟩ := List.nodup_append.mp nodup
  obtain ⟨hv, _, hu⟩ := keepsPhase_foldl (fun h => hl i h i (List.mem_cons_self ..) rfl) n s
  obtain ⟨p, f, hu, hb, _⟩ := hu e he
  refine ⟨_, _, p, f, ?_, hv, hu, hb, keepsPhase_foldl (List.nodup_cons.mp hr').1 n _⟩
  refine congrArg Host.Outcome.next ((if_pos hr).trans ?_)
  rw [split, List.foldl_append, List.foldl_cons]

end Sys2Proof.Machine
end

section
/-!
Points lost, activation and converter faults (R242, R243, R245).
-/
namespace Sys2Proof.Machine

/-! ### Substitute values (R92) -/

section
variable {i : Nat} {s : State} (hp : Plain s i)
include hp

theorem substitute_some {p : Point} (h : pt? s i = some p) :
    substitute i s = putEntry0 i pvTrellis p.subst qSubst (ptStamp s i) s := by
  simp only [substitute, h]
  exact putEntry_plain h hp ..

theorem doorsKept_substitute : DoorsKept s (substitute i s) := by
  cases h : pt? s i with
  | none => rw [show substitute i s = s by simp only [substitute, h]]; exact .of_fbs rfl
  | some p => rw [substitute_some hp h]; exact doorsKept_putEntry0 ..

theorem pt?_substitute_ne {k : Nat} (hk : k ≠ i) : pt? (substitute i s) k = pt? s k := by
  cases h : pt? s i with
  | none => rw [show substitute i s = s by simp only [substitute, h]]
  | some p => rw [substitute_some hp h, pt?_putEntry0_ne hk]

/-- A point substituted holds its substitute value, which it keeps. -/
theorem pt?_substitute_self {p : Point} (h : pt? s i = some p) :
    ∃ q, pt? (substitute i s) i = some q ∧ q.value = p.subst ∧ q.quality = qSubst ∧ q.subst = p.subst := by
  refine ⟨_, (congrArg (pt? · i) (substitute_some hp h)).trans (pt?_putEntry0_self h ..), rfl, ?_, rfl⟩
  have : (qSubst == qGood) = false := by decide
  simp [entryWrite, timeQuality, this]

end

theorem pt?_substituteAll_not_mem {l : List Nat} {s : State} (hp : ∀ i ∈ l, Plain s i) {i : Nat} (hi : i ∉ l) :
    pt? (substituteAll l s) i = pt? s i := by
  induction l generalizing s with
  | nil => rfl
  | cons j l ih =>
    have hj := hp j (List.mem_cons_self ..)
    have plain : ∀ k ∈ l, Plain (substitute j s) k :=
      fun k hk => (doorsKept_substitute hj).plain (hp k (List.mem_cons_of_mem _ hk))
    rw [List.mem_cons, not_or] at hi
    exact (ih plain hi.2).trans (pt?_substitute_ne hj hi.1)

/-- Each of the plain points of a list holds its substitute value. -/
theorem pt?_substituteAll_mem {l : List Nat} {s : State} (hp : ∀ i ∈ l, Plain s i) {i : Nat} (hi : i ∈ l) {p : Point}
    (h : pt? s i = some p) : ∃ q, pt? (substituteAll l s) i = some q ∧ q.value = p.subst ∧ q.quality = qSubst := by
  induction l generalizing s p with
  | nil => exact absurd hi List.not_mem_nil
  | cons j l ih =>
    have hj := hp j (List.mem_cons_self ..)
    have plain : ∀ k ∈ l, Plain (substitute j s) k :=
      fun k hk => (doorsKept_substitute hj).plain (hp k (List.mem_cons_of_mem _ hk))
    by_cases hij : i = j
    · subst hij
      obtain ⟨q, hq, hv, hs, hsub⟩ := pt?_substitute_self hj h
      by_cases hl : i ∈ l
      · obtain ⟨q', hq', hv', hs'⟩ := ih plain hl hq
        exact ⟨q', hq', hv'.trans hsub, hs'⟩
      · exact ⟨q, (pt?_substituteAll_not_mem plain hl).trans hq, hv, hs⟩
    · exact ih plain ((List.mem_cons.mp hi).resolve_left hij) ((pt?_substitute_ne hj hij).trans h)

/-! ### Points without an update (R243) -/

theorem exec_pressPointsLost {n : Fin 48} {s : State} {e : Elem} (hr : isRun s .trellis = true) (he : elem? s n = some e)
    (ha : e.active = true) (hl : e.lost = false) (ht : e.pubAt + 3 * e.rc.pubMs * 1000000 ≤ s.now) :
    exec (.pressPointsLost n) s = .next (substituteAll (elemPoints e) (updElem n (fun e => { e with lost := true }) s)) := by
  simp [exec, execPressPointsLost, he, hr, ha, hl, ht]

/-! ### Activation (R245) -/

/-- Channels that take their records leave the elements. -/
theorem elem?_takeChans (l : List Nat) (s : State) (n : Nat) : elem? (l.foldl (fun s c => takeChan c s) s) n = elem? s n :=
  elem?_congr (foldl_keeps (P := fun t : State => t.prs.elems = s.prs.elems) (f := fun s c => takeChan c s)
    (fun _ _ h => h) l rfl) n

/-- An element activated at stamp `t`: its first window is open from its instant, or from the window's own start if that is
later. -/
theorem elem?_activateElem {n : Nat} {s : State} {e : Elem} (he : elem? s n = some e) (t : Nat) :
    ∃ p b w, elem? (activateElem n t s) n = some { e with active := true, pubAt := p, pub := b, a.win := w } ∧
      w.isOpen = true ∧
      w.start = if e.actAt < t / demandNs e.rc * demandNs e.rc then t / demandNs e.rc * demandNs e.rc else e.actAt := by
  simp only [activateElem, he, newBlock, openWin, elem?_updElem_self, elem?_takeChans, Option.map_some]
  exact ⟨_, _, _, rfl, rfl, rfl⟩

theorem exec_elementActivation {n : Fin 48} {s : State} {e : Elem} (hr : isRun s .press = true) (he : elem? s n = some e)
    (ha : e.active = false) (h0 : e.actAt ≠ 0) (ht : e.actAt ≤ localNs s .press 1) :
    exec (.elementActivation n) s = .next (activateElem n (localNs s .press 1) s) := by
  simp [exec, execElementActivation, elementActivationOp, hr, he, ha, h0, ht]

/-! ### Converter faults (R242) -/

/-- Of the channels a converter fault changes the one named, whatever is published with it. -/
theorem chans_converterFaultOp (ch : Nat) (p : Bool) (s : State) :
    (converterFaultOp ch p s).prs.chans = (updChan ch (fun c => { c with fault := p }) s).prs.chans := by
  unfold converterFaultOp
  refine foldl_keeps (P := fun t : State => t.prs.chans = (updChan ch (fun c => { c with fault := p }) s).prs.chans)
    (fun t e h => ?_) _ rfl
  split
  · exact (chans_publishBlock ..).trans h
  · exact h

theorem chan_converterFaultOp (ch : Nat) (p : Bool) (s : State) (d : Nat) :
    chan (converterFaultOp ch p s) d = chan (updChan ch (fun c => { c with fault := p }) s) d := by
  simp only [chan, chans_converterFaultOp]

theorem exec_pressConverterFault {ch : Fin 54} {p : Bool} {s : State} (hr : isRun s .press = true) (h : (chan s ch).fault ≠ p) :
    exec (.pressConverterFault ch p) s = .next (converterFaultOp ch p s) :=
  congrArg Host.Outcome.next (if_pos (by simp [hr, h]))

end Sys2Proof.Machine
end

section
/-!
Press's samples, channels and elements assembled (R212 to R214, R219, R224, R226, R228, R242 to R245, R258).
-/
namespace Sys2Proof.Machine

/-- Settles O19: each command is its operation at the case in hand. Sampling leaves the booking until the sample's own fate; the
judgement of a phase stands between those of the other phases, which keep its bit. -/
theorem pressSamplesAndElements : Obligations.PressSamplesAndElements := by
  refine ⟨fun main guard ref s hr => ?sample,
    fun ch s hr hu ha hh hq hg => ⟨_, exec_gainStepUp hr hu ha hh hq hg, ?gain⟩,
    fun ch s hr hh hl => ⟨_, exec_handoverEnd hr hh hl, ?handover⟩,
    fun sys ph s hr hc => ⟨zeroCrossOp (sys == 1) ph s, congrArg Host.Outcome.next (if_pos hr), ?crossing⟩,
    fun n s e hr he ha hN hd => ?direction,
    fun n s e i hr he hi => ⟨fun hb hl => ?low, fun hb hl => ?high⟩,
    fun n s e hr he ha hl ht hp => ⟨_, exec_pressPointsLost hr he ha hl ht, ?lost⟩,
    fun n s e hr he ha h0 ht => ⟨_, exec_elementActivation hr he ha h0 ht, ?activation⟩,
    fun ch p s hr h => ⟨_, exec_pressConverterFault hr h, ?fault⟩⟩
  case sample =>
    obtain ⟨u, clipped, ms, same, eq⟩ := pressSampleOp_cases main guard ref s
    have run := exec_pressSample hr main guard ref
    have accs (n : Nat) : (elem? u n).map (·.a) = (elem? s n).map (·.a) := congrFun (congrArg Booking.accs same) n
    refine ⟨fun h => ?booked, fun h hf hl => ?held, fun h hf => ?summed⟩
    case booked =>
      rw [if_pos h] at eq
      exact ⟨_, run.trans (congrArg _ eq), rfl⟩
    case held =>
      rw [if_neg (by simp [h]), if_pos (by simp [hf, hl])] at eq
      exact ⟨_, run.trans (congrArg _ eq), congrArg Booking.lastStamp same, List.length_append,
        ⟨clipped, ms, List.mem_append_right _ (List.mem_singleton_self _)⟩, accs, congrArg Booking.total same⟩
    case summed =>
      rw [if_neg (by simp [h]), if_neg (by simp [hf])] at eq
      exact ⟨_, run.trans (congrArg _ eq), congrArg Booking.held same,
        congrArg (fun b : Booking => b.totalN + 1) same, accs⟩
  case gain =>
    have after := chan_updChan_self ch.val (startHandover ((chan s ch).gain + 1) 3) s
    exact ⟨congrArg Chan.gain after, congrArg Chan.handing after, congrArg Chan.handLeft after, (congrArg Chan.tau after).trans rfl,
      fun d hd => chan_updChan_ne _ _ _ hd, rfl⟩
  case handover =>
    have after := chan_updChan_self ch.val endHandover s
    exact ⟨congrArg Chan.handing after, (congrArg Chan.gain after).trans rfl, fun d hd => chan_updChan_ne _ _ _ hd, rfl⟩
  case crossing =>
    have hph : ph.val < (vsys s (sys == 1)).cross.length := by rw [hc]; exact ph.isLt
    have after : vsys (zeroCrossOp (sys == 1) ph s) (sys == 1) = refreshed ph (crossed ph s.now (vsys s (sys == 1))) := by
      rw [zeroCrossOp_eq, vsys_updVsys_self]
    refine ⟨?_, fun k hk => ?_, ?_, ?_, fun f hf => ?_, fun h => ?_⟩
    · rw [after, cross_refreshed, crossed_self hph]
    · rw [after, cross_refreshed, crossed_ne hk]
    · rw [zeroCrossOp_eq, vsys_updVsys_other]
    · rw [zeroCrossOp_eq, elems_updVsys]
    · rw [after]
      exact refreshed_valid hf
    · rw [after]
      exact refreshed_none h
  case direction =>
    obtain ⟨u, ⟨p, l, hu⟩, eq⟩ := exec_prsDirChange hr he ha hN
    refine ⟨_, eq, ⟨_, hu, rfl, rfl, if_pos hd, rfl⟩, ?_⟩
    rw [b2n_not]
    exact mem_record_arising ..
  case low =>
    obtain ⟨u, t, p, f, eq, hv, hu, hbu, _, grows, ht⟩ := exec_prsPhaseLoss hr he hi
    have clear : bitOf p i = false := hbu.trans hb
    have op := phaseLossOp_low hu clear (by rw [hv]; exact hl)
    rw [op] at grows ht
    obtain ⟨p', f', he', hb', hf'⟩ := ht _ ((elem?_updElem_self ..).trans (congrArg (Option.map _) hu))
    refine ⟨t, eq, ⟨_, he', ?_, rfl, hf' ?_⟩, grows.mem (mem_record_arising ..)⟩
    · exact hb'.trans ((bitOf_add_two_pow clear i).trans (if_pos rfl))
    · exact bitOf_phaseLossFlag f
  case high =>
    obtain ⟨u, t, p, f, eq, hv, hu, hbu, _, _, ht⟩ := exec_prsPhaseLoss hr he hi
    have set : bitOf p i = true := hbu.trans hb
    have op := phaseLossOp_high hu set (by rw [hv]; exact hl)
    rw [op] at ht
    obtain ⟨p', f', he', hb', _⟩ := ht _ ((elem?_updElem_self ..).trans (congrArg (Option.map _) hu))
    exact ⟨t, eq, _, he', hb'.trans ((bitOf_sub_two_pow set i).trans (if_pos rfl)), rfl⟩
  case lost =>
    have marked : elem? (updElem n (fun e => { e with lost := true }) s) n = some { e with lost := true } :=
      (elem?_updElem_self ..).trans (congrArg (Option.map _) he)
    have plain : ∀ i ∈ elemPoints e, Plain (updElem n (fun e => { e with lost := true }) s) i :=
      fun i hi => plain_same (updElem_same (.refl 2048 s) rfl) rfl (hp i hi)
    have points (i : Nat) : pt? (updElem n (fun e => { e with lost := true }) s) i = pt? s i :=
      pt?_same (updElem_same (.refl 2048 s) rfl) rfl i
    refine ⟨?_, fun i hi p h => pt?_substituteAll_mem plain hi ((points i).trans h),
      fun i hi => (pt?_substituteAll_not_mem plain hi).trans (points i)⟩
    exact (elem?_congr (congrArg Prs.elems ((substituteAll_same (.refl 1147152 _) rfl).prs rfl)) n).trans marked
  case activation =>
    obtain ⟨p, b, w, h, hopen, hstart⟩ := elem?_activateElem he (localNs s .press 1)
    refine ⟨_, h, rfl, hopen, ?_, rfl, rfl⟩
    rw [hstart]
    split
    · exact Nat.div_mul_le_self ..
    · exact ht
  case fault =>
    simp only [chan_converterFaultOp]
    exact ⟨congrArg Chan.fault (chan_updChan_self ..), fun d hd => chan_updChan_ne _ _ _ hd⟩

end Sys2Proof.Machine
end

section
/-!
Press's saves: the banks, and how a save begins, is replaced, commits or fails (R251 to R255).
-/
namespace Sys2Proof.Machine

/-- A save begun in `s`: the bank it is written to, and the copy it holds. -/
def saveBegun (final bankB : Bool) (s : State) : Saving :=
  { bankB := bankB, final := final, data := saveCopy s, stamp := s.prs.lastStamp.getD 0, ret := s.prs.ret }

/-- The bank that does not hold the newest valid record, A when none is valid (R252). -/
def spareBank (s : State) : Bool := if (newestBank s).isSome then !newestB s else false

theorem beginSave_spare {s : State} (h : s.prs.saving = none) (final : Bool) :
    beginSave final s = { s with prs.saving := some (saveBegun final (spareBank s) s) } := by
  simp only [beginSave, h]
  rfl

theorem beginSave_over {s : State} {v : Saving} (h : s.prs.saving = some v) (final : Bool) :
    beginSave final s = { s with prs.saving := some (saveBegun final v.bankB s) } := by
  simp only [beginSave, h]
  rfl

/-- Whatever a begun save replaces, it holds the copy of the state it began in. -/
theorem beginSave_eq (final : Bool) (s : State) :
    ∃ b, beginSave final s = { s with prs.saving := some (saveBegun final b s) } ∧ ∀ w, s.prs.saving = some w → b = w.bankB := by
  cases h : s.prs.saving with
  | none => exact ⟨_, beginSave_spare h final, nofun⟩
  | some v => exact ⟨_, beginSave_over h final, fun w hw => congrArg Saving.bankB (Option.some.inj hw)⟩

/-- The second of domain 1 that Press is in. -/
def pressSecond (s : State) : Nat := localNs s .press 1 / 1000000000

section
variable {s : State} (hr : isRun s .press = true) (hs : s.prs.restored = true)
include hr hs

theorem exec_periodicSave_due (hn : s.prs.saving = none) (hd : s.prs.savedSec ≠ some (pressSecond s)) : exec .periodicSave s =
    .next { s with prs.savedSec := some (pressSecond s), prs.saving := some (saveBegun false (spareBank s) s) } := by
  have due : s.prs.savedSec ≠ some (localNs s .press 1 / 1000000000) := hd
  have begun := beginSave_spare (s := { s with prs.savedSec := some (pressSecond s) }) hn false
  exact congrArg Host.Outcome.next ((if_pos (by simp [hr, hs, hn, due])).trans begun)

theorem exec_finalSaveCommand : exec .finalSaveCommand s = .next (finalSaveOp s) :=
  congrArg Host.Outcome.next ((if_pos hr).trans (if_pos hs))

end

theorem exec_periodicSave_done {s : State} (h : s.prs.savedSec = some (pressSecond s)) : exec .periodicSave s = .next s := by
  have done : s.prs.savedSec = some (localNs s .press 1 / 1000000000) := h
  exact congrArg Host.Outcome.next (if_neg (by simp [done]))

/-- The final save stops the tasting run and holds the copy of the state it began in; it takes over the bank of the save it
replaces (R255). -/
theorem finalSaveOp_eq (s : State) : ∃ b, finalSaveOp s =
    { s with prs.taste.run := false, pwr.latchSave := false, prs.saving := some (saveBegun true b s) } ∧
      ∀ w, s.prs.saving = some w → b = w.bankB :=
  beginSave_eq true { s with prs.taste.run := false, pwr.latchSave := false }

/-! ### Commit (R253, R254) -/

/-- Set a bank: true is B. -/
def setBank (b : Bool) (x : SaveBank) (s : State) : State :=
  if b then { s with prs.bankB := x } else { s with prs.bankA := x }

/-- The bank of a letter: true is B. -/
def bankAt (s : State) (b : Bool) : SaveBank := if b then s.prs.bankB else s.prs.bankA

/-- The sequence number a commit gives. -/
def nextSeq (s : State) : Nat := (((newestBank s).map (·.seq)).getD 0 + 1) % 2 ^ 32

theorem exec_saveCommit_ok {s : State} {v : Saving} (h : s.prs.saving = some v) : exec (.saveCommit true) s = .next
    { setBank v.bankB { valid := true, seq := nextSeq s, stamp := v.stamp, final := v.final, data := v.data } s with
      prs.saving := none, prs.ret := reduceRet s.prs.ret v.ret (nextSeq s), pwr.latchSave := v.final } := by
  simp only [exec, execSaveCommit, saveCommitOp, h, setBank]
  cases v.bankB <;> rfl

theorem exec_saveCommit_failed {s : State} {v : Saving} (h : s.prs.saving = some v) : exec (.saveCommit false) s = .next
    (record cPRS_SAVE_FAIL 0 (d1 (b2n v.bankB))
      { setBank v.bankB { bankAt s v.bankB with valid := false } s with prs.saving := none }) := by
  simp only [exec, execSaveCommit, saveCommitOp, h, setBank, bankAt]
  cases v.bankB <;> rfl

theorem setBank_self (b : Bool) (x : SaveBank) (s : State) :
    (if b then (setBank b x s).prs.bankB else (setBank b x s).prs.bankA) = x := by
  cases b <;> rfl

theorem setBank_other (b : Bool) (x : SaveBank) (s : State) :
    if b then (setBank b x s).prs.bankA = s.prs.bankA else (setBank b x s).prs.bankB = s.prs.bankB := by
  cases b <;> rfl

theorem setBank_invalid (b : Bool) (x : SaveBank) (s : State) : (if b then (setBank b { x with valid := false } s).prs.bankB.valid
    else (setBank b { x with valid := false } s).prs.bankA.valid) = false := by
  cases b <;> rfl

theorem ret_setBank (b : Bool) (x : SaveBank) (s : State) : (setBank b x s).prs.ret = s.prs.ret := by
  cases b <;> rfl

/-- PRESS_HOLD_FULL: with 512 samples held no more are. -/
theorem exec_pressHoldFull {s : State} (hr : isRun s .press = true) (hs : s.prs.restored = false) (hl : 512 ≤ s.prs.held.length) :
    exec .pressHoldFull s = .next { s with prs.holdFull := true } :=
  congrArg Host.Outcome.next (if_pos (by simp [hr, hs, hl]))

end Sys2Proof.Machine
end

section
/-!
What a booking leaves of Press, and restoration (R224, R258, R259).
-/
namespace Sys2Proof.Machine

/-- Press without its channels, elements and pulse outputs, the parts that the booking of an element works on. -/
def prsRest (s : State) : Prs := { s.prs with chans := [], elems := [], pulses := [] }

theorem prsRest_of_prs {s t : State} (h : t.prs = s.prs) : prsRest t = prsRest s := by simp only [prsRest, h]

@[simp] theorem prsRest_record (code cask : Nat) (data : List Byte) (s : State) :
    prsRest (record code cask data s) = prsRest s := rfl

@[simp] theorem prsRest_updChan (n : Nat) (f : Chan → Chan) (s : State) : prsRest (updChan n f s) = prsRest s := rfl

@[simp] theorem prsRest_updPulse (n : Nat) (f : Pulse → Pulse) (s : State) : prsRest (updPulse n f s) = prsRest s := rfl

@[simp] theorem prsRest_updElem (n : Nat) (f : Elem → Elem) (s : State) : prsRest (updElem n f s) = prsRest s := by
  obtain ⟨x, h⟩ := prs_updElem n f s
  simp only [prsRest, h]

theorem prsRest_foldl {α : Type} {f : State → α → State} (hf : ∀ s a, prsRest (f s a) = prsRest s) (l : List α) (s : State) :
    prsRest (l.foldl f s) = prsRest s :=
  foldl_keeps (P := fun t => prsRest t = prsRest s) (fun t a h => (hf t a).trans h) l rfl

/-! ### Publication and windows (R229 to R233, R241 to R245) -/

@[simp] theorem prsRest_newBlock (n t : Nat) (s : State) : prsRest (newBlock n t s) = prsRest s := prsRest_updElem ..

@[simp] theorem prsRest_flagWin (n f : Nat) (s : State) : prsRest (flagWin n f s) = prsRest s := prsRest_updElem ..

@[simp] theorem prsRest_openWin (n start t : Nat) (s : State) : prsRest (openWin n start t s) = prsRest s := prsRest_updElem ..

@[simp] theorem prsRest_countSample (n : Nat) (m : Meas) (s : State) : prsRest (countSample n m s) = prsRest s :=
  prsRest_updElem ..

@[simp] theorem prsRest_writeElem (n stamp : Nat) (f : Nat → Nat → Option DWord) (s : State) :
    prsRest (writeElem n stamp f s) = prsRest s := by
  unfold writeElem
  split
  · rfl
  · dsimp only
    split
    · rfl
    · split
      · exact (prsRest_updElem ..).trans (prsRest_of_prs (prs_foldl_writeQ ..))
      · rfl

@[simp] theorem prsRest_publishBlock (n t : Nat) (s : State) : prsRest (publishBlock n t s) = prsRest s := by
  unfold publishBlock
  split
  · rfl
  · dsimp only
    split
    · rfl
    · rw [prsRest_updElem]
      split
      · exact prsRest_writeElem ..
      · exact prsRest_writeElem ..

@[simp] theorem prsRest_stepFlag (n : Nat) (s : State) : prsRest (stepFlag n s) = prsRest s := by
  unfold stepFlag
  split
  · exact prsRest_flagWin ..
  · rfl

@[simp] theorem prsRest_takeChans (l : List Nat) (s : State) :
    prsRest (l.foldl (fun s c => takeChan c s) s) = prsRest s :=
  prsRest_foldl (f := fun s c => takeChan c s) (fun _ _ => rfl) l s

@[simp] theorem prsRest_closeWin (n : Nat) (s : State) : prsRest (closeWin n s) = prsRest s := by
  unfold closeWin
  split
  · rfl
  · refine Eq.trans (b := prsRest (List.foldl _ _ _)) rfl ?_
    rw [prsRest_foldl (fun _ _ => prsRest_updChan ..), prsRest_updElem, prsRest_writeElem, prsRest_updElem]

@[simp] theorem prsRest_zeroElem (n : Nat) (s : State) : prsRest (zeroElem n s) = prsRest s := by
  unfold zeroElem
  split
  · rfl
  · exact prsRest_updElem ..

@[simp] theorem prsRest_changeElem (n : Nat) (s : State) : prsRest (changeElem n s) = prsRest s := by
  unfold changeElem
  split
  · rfl
  · split
    · rfl
    · rw [prsRest_updElem]
      split
      · rfl
      · exact prsRest_zeroElem ..

@[simp] theorem prsRest_removeElem (n : Nat) (s : State) : prsRest (removeElem n s) = prsRest s := by
  unfold removeElem
  split
  · rfl
  · exact (prsRest_of_prs ((substituteAll_same (.refl 1147152 _) rfl).prs rfl)).trans rfl

@[simp] theorem prsRest_rollWin (n t : Nat) (s : State) : prsRest (rollWin n t s) = prsRest s := by
  unfold rollWin
  split
  · rfl
  · dsimp only
    split
    · simp only [prsRest_removeElem, prsRest_takeChans, prsRest_closeWin]
    · split
      · simp only [prsRest_openWin, prsRest_takeChans, prsRest_closeWin]
      · simp only [prsRest_openWin, prsRest_takeChans, prsRest_changeElem, prsRest_closeWin]

@[simp] theorem prsRest_activateElem (n t : Nat) (s : State) : prsRest (activateElem n t s) = prsRest s := by
  unfold activateElem
  split
  · rfl
  · simp only [prsRest_newBlock, prsRest_openWin, prsRest_updElem, prsRest_takeChans]

/-! ### Booking (R224 to R226) -/

@[simp] theorem prsRest_takeMdReset (n : Nat) (s : State) : prsRest (takeMdReset n s) = prsRest s := by
  unfold takeMdReset
  split
  · rfl
  · split
    · exact prsRest_updElem ..
    · rfl

@[simp] theorem prsRest_noteClips (n : Nat) (m : Meas) (o : List Nat) (s : State) : prsRest (noteClips n m o s) = prsRest s := by
  unfold noteClips
  split
  · rfl
  · split
    · rfl
    · refine (prsRest_foldl (fun t c => ?_) ..).trans (prsRest_flagWin ..)
      split
      · rfl
      · rfl

@[simp] theorem prsRest_feedPulse (n : Nat) (dir : Bool) (amt cask : Nat) (s : State) :
    prsRest (feedPulse n dir amt cask s) = prsRest s := by
  unfold feedPulse
  extract_lets +onlyGivenNames p add
  split
  · rfl
  · extract_lets +onlyGivenNames old sum cnt base new owed lag u
    split
    · rfl
    · rfl

@[simp] theorem prsRest_feedPulses (el : Nat) (isExp : Bool) (quad e eq es cask : Nat) (s : State) :
    prsRest (feedPulses el isExp quad e eq es cask s) = prsRest s := by
  refine prsRest_foldl (fun t x => ?_) ..
  split
  · exact prsRest_feedPulse ..
  · rfl

/-- Press's state is restored and its retained record in force. -/
def Restored (s : State) : Prop := s.prs.restored = true ∧ s.prs.ret.valid = true

theorem restored_congr {s t : State} (h : prsRest t = prsRest s) (hs : Restored s) : Restored t :=
  ⟨(congrArg Prs.restored h).trans hs.1, (congrArg (fun p : Prs => p.ret.valid) h).trans hs.2⟩

/-- Booking energy adds to the amounts of the retained record, which stays in force. -/
theorem restored_bookEnergy {n : Nat} {m : Meas} {s : State} (h : Restored s) : Restored (bookEnergy n m s) := by
  unfold bookEnergy
  split
  · exact h
  · split
    · exact h
    · extract_lets +onlyGivenNames ts en eq es isExp t quad u
      have hu : Restored u := restored_congr (prsRest_updElem ..) h
      refine restored_congr (prsRest_feedPulses ..) ?_
      exact hu

theorem restored_bookElem {t prev : Nat} {step restart : Bool} {clipped : List Nat} {m : Meas} {s : State} (h : Restored s) :
    Restored (bookElem t prev step restart clipped m s) := by
  unfold bookElem
  extract_lets +onlyGivenNames n u
  have hu : Restored u := by
    refine restored_congr ?_ h
    dsimp only [u]
    split
    · split
      · exact prsRest_activateElem ..
      · rfl
    · rfl
  clear_value u
  split
  · exact hu
  · split
    · exact hu
    · refine restored_bookEnergy (restored_congr ?_ hu)
      simp only [prsRest_countSample, prsRest_noteClips, prsRest_takeMdReset, apply_ite prsRest, prsRest_flagWin, prsRest_stepFlag,
        prsRest_openWin, prsRest_rollWin, prsRest_newBlock, prsRest_publishBlock, ite_self]

theorem restored_noteRestart {t : Nat} {s : State} (h : Restored s) : Restored (noteRestart t s) := by
  unfold noteRestart
  split
  · exact h
  · exact h

theorem restored_ite {s t : State} (hs : Restored s) (ht : Restored t) (c : Prop) [Decidable c] :
    Restored (if c then s else t) := by
  split
  · exact hs
  · exact ht

theorem restored_bookSample {t : Nat} {clipped : List Nat} {ms : List Meas} {s : State} (h : Restored s) :
    Restored (bookSample t clipped ms s) := by
  have spaced (d : List Nat) (c : Bool) : Restored (takeSwitches t (if c then { s with prs.diffs := d } else s)) :=
    restored_ite (s := { s with prs.diffs := d }) h h (c = true)
  have told (d : List Nat) (c b : Bool) := restored_ite (restored_noteRestart (t := t) (spaced d c)) (spaced d c) (b = true)
  have booked (prev : Nat) (step restart : Bool) {u : State} (hu : Restored u) :
      Restored (ms.foldl (fun s m => bookElem t prev step restart clipped m s) u) :=
    foldl_keeps (fun _ _ k => restored_bookElem k) ms hu
  exact ⟨(booked _ _ _ (told _ _ _)).1, (booked _ _ _ (told _ _ _)).2⟩

end Sys2Proof.Machine
end

section
/-!
Restoration: the bank taken, the retained record begun anew, and the held samples booked (R258, R259).
-/
namespace Sys2Proof.Machine

theorem prsRest_restoreElem (n : Nat) (r : ElemRec) (a : ElemAcc) (s : State) :
    prsRest (restoreElem n r a s) = prsRest s := by
  unfold restoreElem
  split
  · rfl
  · split
    · rfl
    · split
      · exact prsRest_updElem ..
      · rw [prsRest_zeroElem, prsRest_updElem]

theorem prsRest_addUncertain (n imp exp samples : Nat) (est : Bool) (s : State) :
    prsRest (addUncertain n imp exp samples est s) = prsRest s := by
  unfold addUncertain
  split
  · rfl
  · dsimp only
    split
    · exact prsRest_updElem ..
    · exact prsRest_updElem ..

theorem prsRest_settleRet (b other : SaveBank) (s : State) : prsRest (settleRet b other s) = prsRest s := by
  unfold settleRet
  dsimp only
  split
  · exact prsRest_foldl (fun _ _ => prsRest_addUncertain ..) ..
  · refine prsRest_foldl (fun t e => ?_) ..
    split
    · exact prsRest_addUncertain ..
    · exact prsRest_addUncertain ..

/-- What a bank gives besides channels, elements and pulse outputs: the tariffs, and what the first booked sample tells. -/
def withBank (b : SaveBank) (p : Prs) : Prs :=
  { p with tariffs := b.data.tariffs, trfSet := true, lastFinal := b.final, restart := some (b.stamp, b.final, b.seq) }

theorem prsRest_restoreBank (b : SaveBank) (s : State) : prsRest (restoreBank b s) = withBank b (prsRest s) := by
  let s1 := b.data.elems.foldl (fun s e => restoreElem e.1 e.2.1 e.2.2 s) s
  let s2 := b.data.chans.foldl (fun s c => updChan c.1 (fun h => { h with tau := c.2.1, tauAt := c.2.2 }) s) s1
  let s3 := b.data.pulses.foldl (fun s p => updPulse p.1 (fun q =>
    if q.rc == p.2.rc || !s.img.loaded then { p.2 with on := false, until0 := 0 } else q) s) s2
  have kept : prsRest s3 = prsRest s :=
    calc prsRest s3
      _ = prsRest s2 := prsRest_foldl (fun _ _ => prsRest_updPulse ..) ..
      _ = prsRest s1 := prsRest_foldl (fun _ _ => prsRest_updChan ..) ..
      _ = prsRest s := prsRest_foldl (fun _ _ => prsRest_restoreElem ..) ..
  rw [← kept]
  rfl

/-- A lost watch is told once (R265). -/
def lossTold (s : State) : State :=
  if s.prs.lostTell then record cPRS_WATCH_LOST 0 [] { s with prs.lostTell := false } else s

/-- The newest valid bank is restored and the uncertain energy settled against it. -/
def bankTaken (s : State) : State :=
  match newestBank s with
  | none => s
  | some b => settleRet b (if newestB s then s.prs.bankA else s.prs.bankB) (restoreBank b s)

/-- The retained record begins anew under the newest bank's sequence number. -/
def retBegun (s : State) : State :=
  { s with prs.ret := { valid := true, tag := ((newestBank s).map (·.seq)).getD 0 } }

/-- The held samples are booked in order. -/
def heldBooked (s : State) : State := s.prs.held.foldl (fun s h => bookSample h.stamp h.clipped h.meas s) s

/-- The restart total is added as uncertain energy. -/
def totalAdded (s : State) : State :=
  s.prs.total.foldl (fun t x => addUncertain x.1 x.2.1 x.2.2 s.prs.totalN false t) s

/-- Press's state up to the booking of the held samples. -/
def readyToBook (s : State) : State := retBegun (bankTaken (lossTold { s with prs.restored := true }))

theorem restoreOp_eq (s : State) : restoreOp s =
    { totalAdded (heldBooked (readyToBook s)) with prs.held := [], prs.holdFull := false, prs.total := [], prs.totalN := 0 } := rfl

theorem prsRest_totalAdded (s : State) : prsRest (totalAdded s) = prsRest s :=
  prsRest_foldl (fun _ _ => prsRest_addUncertain ..) ..

theorem restored_heldBooked {s : State} (h : Restored s) : Restored (heldBooked s) :=
  foldl_keeps (P := Restored) (fun _ _ k => restored_bookSample k) s.prs.held h

theorem prsRest_lossTold (s : State) : prsRest (lossTold s) = { prsRest s with lostTell := false } := by
  unfold lossTold
  split
  · rfl
  · next h =>
    have clear : (prsRest s).lostTell = false := Bool.eq_false_iff.mpr h
    rw [← clear]

/-- The newest bank is read off the banks. -/
theorem newestBank_congr {s t : State} (ha : t.prs.bankA = s.prs.bankA) (hb : t.prs.bankB = s.prs.bankB) :
    newestBank t = newestBank s := by
  unfold newestBank newestB
  rw [ha, hb]

theorem prsRest_bankTaken {s : State} {b : SaveBank} (h : newestBank s = some b) :
    prsRest (bankTaken s) = withBank b (prsRest s) := by
  simp only [bankTaken, h]
  exact (prsRest_settleRet ..).trans (prsRest_restoreBank ..)

theorem bankTaken_none {s : State} (h : newestBank s = none) : bankTaken s = s := by simp only [bankTaken, h]

theorem restored_readyToBook (s : State) : Restored (readyToBook s) := by
  have told : (lossTold { s with prs.restored := true }).prs.restored = true :=
    congrArg Prs.restored (prsRest_lossTold { s with prs.restored := true })
  refine ⟨?_, rfl⟩
  refine Eq.trans (b := (bankTaken _).prs.restored) rfl ?_
  cases h : newestBank (lossTold { s with prs.restored := true }) with
  | none => rwa [bankTaken_none h]
  | some b => exact (congrArg Prs.restored (prsRest_bankTaken h)).trans told

/-- With a valid bank, what is ready to be booked on has the bank's tariffs and an empty retained record under its sequence
number. -/
theorem readyToBook_bank {s : State} {b : SaveBank} (h : newestBank s = some b) :
    prsRest (readyToBook s) = { withBank b (prsRest s) with
      restored := true, lostTell := false, ret := { valid := true, tag := b.seq } } := by
  have told := prsRest_lossTold { s with prs.restored := true }
  have newest : newestBank (lossTold { s with prs.restored := true }) = some b :=
    (newestBank_congr ((congrArg Prs.bankA told).trans rfl) ((congrArg Prs.bankB told).trans rfl)).trans h
  have taken := prsRest_bankTaken newest
  have still : newestBank (bankTaken (lossTold { s with prs.restored := true })) = some b :=
    (newestBank_congr ((congrArg Prs.bankA taken).trans rfl) ((congrArg Prs.bankB taken).trans rfl)).trans newest
  have begun (u : State) (hu : newestBank u = some b) :
      prsRest (retBegun u) = { prsRest u with ret := { valid := true, tag := b.seq } } := by
    simp only [retBegun, hu]
    rfl
  rw [readyToBook, begun _ still, taken, told]
  rfl

theorem heldBooked_nil {s : State} (h : s.prs.held = []) : heldBooked s = s := by simp only [heldBooked, h, List.foldl_nil]

theorem exec_pressRestoreComplete {s : State} (hr : isRun s .press = true) (hs : s.prs.restored = false) :
    exec .pressRestoreComplete s = .next (restoreOp s) := congrArg Host.Outcome.next (if_pos (by simp [hr, hs]))

end Sys2Proof.Machine
end

section
/-!
The theft watch: its start, its seconds, its end and its loss (R262 to R265).
-/
namespace Sys2Proof

/-- What a table gives at a key is one of its entries. -/
theorem Tbl.mem_of_get? {α : Type} {t : Tbl α} {k : Nat} {v : α} (h : Tbl.get? t k = some v) : (k, v) ∈ t := by
  induction t with
  | nil => exact absurd h nofun
  | cons e r ih =>
    obtain ⟨j, w⟩ := e
    rw [Tbl.get?] at h
    split at h
    · next hj => rw [hj, Option.some.inj h]; exact List.mem_cons_self ..
    · exact List.mem_cons_of_mem _ (ih h)

end Sys2Proof

namespace Sys2Proof.Machine

/-! ### A pass over the elements -/

/-- With voltage systems `v`, `step` changes by `f` the element of each entry that meets `c`, tells it, and changes no other. -/
structure Passes (v : Bool → VSys) (c : Elem → Bool) (f : Elem → Elem) (event : Nat × Elem → Event)
    (step : State → Nat × Elem → State) : Prop where
  idem : ∀ e, f (f e) = f e
  systems : ∀ s x, vsys (step s x) = vsys s
  grows : ∀ s x, Grows s (step s x)
  elem : ∀ s x n, vsys s = v → elem? (step s x) n = if x.1 = n ∧ c x.2 = true then (elem? s n).map f else elem? s n
  tells : ∀ s x, vsys s = v → c x.2 = true → event x ∈ (step s x).arising

section
variable {v : Bool → VSys} {c : Elem → Bool} {f : Elem → Elem} {event : Nat × Elem → Event}
  {step : State → Nat × Elem → State} (hp : Passes v c f event step)
include hp

theorem Passes.systems_foldl (l : List (Nat × Elem)) (s : State) : vsys (l.foldl step s) = vsys s :=
  foldl_keeps (P := fun t => vsys t = vsys s) (fun t x h => (hp.systems t x).trans h) l rfl

/-- A pass changes an element when one of its entries meets the condition. -/
theorem Passes.elem_foldl (l : List (Nat × Elem)) {s : State} (hv : vsys s = v) (n : Nat) : elem? (l.foldl step s) n =
    if ∃ x ∈ l, x.1 = n ∧ c x.2 = true then (elem? s n).map f else elem? s n := by
  induction l generalizing s with
  | nil => simp
  | cons x l ih =>
    rw [List.foldl_cons, ih ((hp.systems s x).trans hv), hp.elem s x n hv]
    have twice : Option.map f (Option.map f (elem? s n)) = (elem? s n).map f := by
      rw [Option.map_map, show f ∘ f = f from funext hp.idem]
    by_cases hx : x.1 = n ∧ c x.2 = true
    · rw [if_pos hx, twice, ite_self]
      exact (if_pos ⟨x, List.mem_cons_self .., hx⟩).symm
    · have tail : (∃ y ∈ x :: l, y.1 = n ∧ c y.2 = true) ↔ ∃ y ∈ l, y.1 = n ∧ c y.2 = true := by
        refine ⟨fun ⟨y, hy, h⟩ => ?_, fun ⟨y, hy, h⟩ => ⟨y, List.mem_cons_of_mem _ hy, h⟩⟩
        rcases List.mem_cons.mp hy with rfl | hy
        · exact absurd h hx
        · exact ⟨y, hy, h⟩
      simp only [hx, if_false, tail]

theorem Passes.tells_foldl {l : List (Nat × Elem)} {x : Nat × Elem} (hx : x ∈ l) (hc : c x.2 = true) {s : State}
    (hv : vsys s = v) : event x ∈ (l.foldl step s).arising := by
  obtain ⟨l, r, rfl⟩ := List.append_of_mem hx
  rw [List.foldl_append, List.foldl_cons]
  exact (Grows.foldl hp.grows r _).mem (hp.tells _ x ((hp.systems_foldl l s).trans hv) hc)

end

theorem elem?_updElem (i : Nat) (f : Elem → Elem) (s : State) (n : Nat) :
    elem? (updElem i f s) n = if i = n then (elem? s n).map f else elem? s n := by
  split
  · next h => rw [← h, elem?_updElem_self]
  · next h => exact elem?_updElem_ne (Ne.symm h) ..

/-- A step that changes its entry's element and records it, and else nothing, is a pass; `mark` is what it changes of Press
besides. -/
theorem passes_of_recorded {c : (Bool → VSys) → Elem → Bool} {f : Elem → Elem} {code : Nat} {data : Nat × Elem → List Byte}
    {step : State → Nat × Elem → State} {mark : State → State} (idem : ∀ e, f (f e) = f e)
    (elems : ∀ s, (mark s).prs.elems = s.prs.elems) (systems : ∀ s, vsys (mark s) = vsys s)
    (arising : ∀ s, (mark s).arising = s.arising)
    (eq : ∀ s x, step s x =
      if c (vsys s) x.2 then record code x.2.rc.cask (data x) (updElem x.1 f (mark s)) else s) (v : Bool → VSys) :
    Passes v (c v) f (fun x => { code := code, cask := x.2.rc.cask, data := data x }) step where
  idem := idem
  systems s x := by
    rw [eq]
    split
    · exact (vsys_updElem ..).trans (systems s)
    · rfl
  grows s x := by
    rw [eq]
    split
    · exact Grows.trans ⟨[], by rw [List.append_nil, updElem_arising, arising]⟩ (grows_record ..)
    · exact .refl s
  elem s x n hv := by
    rw [eq, hv]
    split
    · next h =>
      simp only [h, and_true, ← elem?_congr (elems s) n]
      exact elem?_updElem ..
    · next h => rw [if_neg fun k => h k.2]
  tells s x hv h := by
    rw [eq, hv, if_pos h]
    exact mem_record_arising ..

/-! ### Start (R262) -/

/-- An element whose watch has just started. -/
def watchBegun (e : Elem) : Elem := { e with watch := some {}, suspect := false }

/-- An element of a dark system that takes a watch. -/
def takesWatch (b : Bool) (e : Elem) : Bool := e.active && e.rc.sysB == b && e.watch.isNone

/-- One entry of a system's watches. -/
def startWatch (b : Bool) (s : State) (x : Nat × Elem) : State :=
  if takesWatch b x.2 then
    record cPRS_WATCH_START x.2.rc.cask (d1 x.1) (updElem x.1 watchBegun { s with prs.watchAt := s.now })
  else s

theorem startWatches_eq (b : Bool) (s : State) : startWatches b s = s.prs.elems.foldl (startWatch b) s := rfl

theorem startWatch_passes (b : Bool) (v : Bool → VSys) : Passes v (takesWatch b) watchBegun
    (fun x => { code := cPRS_WATCH_START, cask := x.2.rc.cask, data := d1 x.1 }) (startWatch b) :=
  passes_of_recorded (c := fun _ => takesWatch b) (f := watchBegun) (step := startWatch b)
    (mark := fun s => { s with prs.watchAt := s.now }) (fun _ => rfl) (fun _ => rfl) (fun _ => rfl) (fun _ => rfl)
    (fun _ _ => rfl) v

/-- What a voltage system that may be dark starts. -/
def darkChecked (b : Bool) (s : State) : State :=
  if 10 * (vsys s b).n ≤ (vsys s b).dark then startWatches b s else s

theorem exec_prsWatchStart {s : State} (hr : isRun s .press = true) :
    exec .prsWatchStart s = .next (darkChecked true (darkChecked false s)) := congrArg Host.Outcome.next (if_pos hr)

theorem vsys_darkChecked (b : Bool) (s : State) : vsys (darkChecked b s) = vsys s := by
  unfold darkChecked
  split
  · exact (startWatch_passes b (vsys s)).systems_foldl ..
  · rfl

theorem grows_darkChecked (b : Bool) (s : State) : Grows s (darkChecked b s) := by
  unfold darkChecked
  split
  · exact Grows.foldl (startWatch_passes b (vsys s)).grows _ s
  · exact .refl s

/-- An element none of whose entries is of the system is left as it is. -/
theorem elem?_darkChecked_other {b : Bool} {s : State} {n : Nat} (h : ∀ x ∈ s.prs.elems, x.1 = n → x.2.rc.sysB ≠ b) :
    elem? (darkChecked b s) n = elem? s n := by
  unfold darkChecked
  split
  · rw [startWatches_eq, (startWatch_passes b (vsys s)).elem_foldl _ rfl]
    refine if_neg ?_
    rintro ⟨x, hx, hn, hc⟩
    simp only [takesWatch, Bool.and_eq_true, beq_iff_eq] at hc
    exact h x hx hn hc.1.2
  · rfl

/-- A watch already begun stands as it is. -/
theorem elem?_darkChecked_begun {b : Bool} {s : State} {n : Nat} {e : Elem} (h : elem? s n = some (watchBegun e)) :
    elem? (darkChecked b s) n = some (watchBegun e) := by
  unfold darkChecked
  split
  · rw [startWatches_eq, (startWatch_passes b (vsys s)).elem_foldl _ rfl, h]
    exact ite_self _
  · exact h

/-- A dark system starts the watch of its active element, and tells it. -/
theorem darkChecked_begins {s : State} {n : Nat} {e : Elem} (he : elem? s n = some e) (ha : e.active = true) (hw : e.watch = none)
    (hd : 10 * (vsys s e.rc.sysB).n ≤ (vsys s e.rc.sysB).dark) :
    elem? (darkChecked e.rc.sysB s) n = some (watchBegun e) ∧
      { code := cPRS_WATCH_START, cask := e.rc.cask, data := d1 n } ∈ (darkChecked e.rc.sysB s).arising := by
  have takes : takesWatch e.rc.sysB e = true := by simp [takesWatch, ha, hw]
  have entry := Tbl.mem_of_get? he
  have pass := startWatch_passes e.rc.sysB (vsys s)
  rw [darkChecked, if_pos hd, startWatches_eq]
  refine ⟨?_, pass.tells_foldl entry takes rfl⟩
  rw [pass.elem_foldl _ rfl, if_pos ⟨_, entry, rfl, takes⟩, he]
  rfl

/-- Of the two systems the element's own starts its watch; the other one comes before and has no entry of it, or comes after and
leaves the watch begun. -/
theorem darkChecked_both {s : State} {n : Nat} {e : Elem} (he : elem? s n = some e) (hu : ∀ x ∈ s.prs.elems, x.1 = n → x.2 = e)
    (ha : e.active = true) (hw : e.watch = none) (hd : 10 * (vsys s e.rc.sysB).n ≤ (vsys s e.rc.sysB).dark) :
    elem? (darkChecked true (darkChecked false s)) n = some (watchBegun e) ∧
      { code := cPRS_WATCH_START, cask := e.rc.cask, data := d1 n } ∈ (darkChecked true (darkChecked false s)).arising := by
  cases hb : e.rc.sysB with
  | false =>
    obtain ⟨begun, told⟩ := darkChecked_begins he ha hw hd
    rw [hb] at begun told
    exact ⟨elem?_darkChecked_begun begun, (grows_darkChecked ..).mem told⟩
  | true =>
    have first : elem? (darkChecked false s) n = some e :=
      (elem?_darkChecked_other fun x hx hn => by rw [hu x hx hn, hb]; exact nofun).trans he
    have begins := darkChecked_begins first ha hw (by rw [vsys_darkChecked]; exact hd)
    rwa [hb] at begins

/-! ### A second of the watch (R263) -/

/-- The Irms that a channel has had over the second. -/
def rmsHad (irms : List (Nat × F64)) (s : State) (ch : Nat) : F64 :=
  if ch == 0xFF then 0 else (Tbl.get? irms ch).getD (F64.abs (freeNow s))

/-- An element after a second of its watch, if it has one. -/
def secondWatched (irms : List (Nat × F64)) (s : State) (e : Elem) : Elem :=
  match e.watch with
  | some w =>
    let w := watchStep e.rc (e.rc.iCh.map (rmsHad irms s)) w
    { e with watch := some w, suspect := w.suspect }
  | none => e

theorem exec_watchSecond {s : State} {n : Nat} {e : Elem} {w : Watch} (he : elem? s n = some e) (hw : e.watch = some w)
    (ht : s.prs.watchAt + 1000000000 ≤ s.now) (irms : List (Nat × F64)) : exec (.watchSecond irms) s = .next (bumpFree
      { s with
        prs.watchAt := s.prs.watchAt + 1000000000
        prs.elems := Tbl.mapV s.prs.elems (fun _ => secondWatched irms s) }) := by
  have watched : s.prs.elems.any (fun e => e.2.watch.isSome) = true :=
    List.any_eq_true.mpr ⟨_, Tbl.mem_of_get? he, by simp [hw]⟩
  exact if_pos (by simp [watched, ht])

/-- A second counts the watch on; it is heavy or not, and an element found suspect stays so. -/
theorem watchStep_counts (r : ElemRec) (is : List F64) (w : Watch) :
    (watchStep r is w).secs = w.secs + 1 ∧ (watchStep r is w).unmeasured = w.unmeasured ∧
      w.heavy ≤ (watchStep r is w).heavy ∧ (watchStep r is w).heavy ≤ w.heavy + 1 ∧
      (w.suspect = true → (watchStep r is w).suspect = true) ∧
      (w.unmeasured = false → 10 ≤ (watchStep r is w).heavy → (watchStep r is w).suspect = true) := by
  unfold watchStep
  extract_lets heavy h
  have bounds : w.heavy ≤ h ∧ h ≤ w.heavy + 1 := by
    dsimp only [h]
    split
    · exact ⟨Nat.le_succ _, Nat.le_refl _⟩
    · exact ⟨Nat.le_refl _, Nat.le_succ _⟩
  exact ⟨rfl, rfl, bounds.1, bounds.2, fun k => by simp [k], fun k j => by simp [k, j]⟩

/-! ### End and loss (R264, R265) -/

/-- An element whose watch has ended. -/
def watchEnded (e : Elem) : Elem := { e with watch := none }

/-- Whether a watch ends: unmeasured, or with voltage on the element's system. -/
def endsWatch (v : Bool → VSys) (e : Elem) : Bool :=
  match e.watch with
  | some w => w.unmeasured || 10 * (v e.rc.sysB).n ≤ (v e.rc.sysB).lit
  | none => false

/-- One entry of the watches that end. -/
def endWatch (s : State) (x : Nat × Elem) : State :=
  match x.2.watch with
  | some w =>
    if w.unmeasured || 10 * (vsys s x.2.rc.sysB).n ≤ (vsys s x.2.rc.sysB).lit then
      record cPRS_WATCH_END x.2.rc.cask (watchData x.1 w) (updElem x.1 watchEnded s)
    else s
  | none => s

theorem endWatch_eq (s : State) (x : Nat × Elem) : endWatch s x =
    if endsWatch (vsys s) x.2 then
      record cPRS_WATCH_END x.2.rc.cask (watchData x.1 (x.2.watch.getD {})) (updElem x.1 watchEnded s)
    else s := by
  cases hw : x.2.watch with
  | none => simp [endWatch, endsWatch, hw]
  | some w => simp [endWatch, endsWatch, hw]

theorem endWatch_passes (v : Bool → VSys) : Passes v (endsWatch v) watchEnded
    (fun x => { code := cPRS_WATCH_END, cask := x.2.rc.cask, data := watchData x.1 (x.2.watch.getD {}) }) endWatch :=
  passes_of_recorded (c := endsWatch) (f := watchEnded) (mark := id) (fun _ => rfl) (fun _ => rfl) (fun _ => rfl)
    (fun _ => rfl) endWatch_eq v

theorem exec_prsWatchEnd {s : State} (hr : isRun s .press = true) :
    exec .prsWatchEnd s = .next (s.prs.elems.foldl endWatch s) := congrArg Host.Outcome.next (if_pos hr)

/-- VMB below 3.0 V during an unmeasured watch ends every watch and loses the retained record. -/
theorem exec_prsWatchLost {mv : Nat} {s : State} {x : Nat × Elem} {w : Watch} (hm : mv < 3000) (hx : x ∈ s.prs.elems)
    (hw : x.2.watch = some w) (hu : w.unmeasured = true) : exec (.prsWatchLost mv) s = .next
      { s with
        prs.vmbMv := mv
        prs.ret := {}
        prs.lostTell := true
        prs.elems := Tbl.mapV s.prs.elems (fun _ => watchEnded) } := by
  have lost : s.prs.elems.any (fun e => match e.2.watch with | some w => w.unmeasured | none => false) = true :=
    List.any_eq_true.mpr ⟨x, hx, by simp [hw, hu]⟩
  exact congrArg Host.Outcome.next (if_pos (Bool.and_eq_true_iff.mpr ⟨decide_eq_true hm, lost⟩))

end Sys2Proof.Machine
end

section
/-!
Tasting: judging a run, beginning one, and the commands (R267 to R271).
-/
namespace Sys2Proof.Machine

/-! ### Beginning a run (R267) -/

theorem beginRun_bad {z c : Int} (h : refBad z c = true) (ch : Nat) (s : State) : beginRun ch z c s =
    record cPRS_TASTE_REF 0 (d1 ch)
      { s with prs.taste := { s.prs.taste with state := .halted, code := cPRS_TASTE_REF, run := false } } := if_pos h

theorem beginRun_good {z c : Int} (h : refBad z c = false) (ch : Nat) (s : State) : beginRun ch z c s =
    { s with prs.taste := { s.prs.taste with
        ch := ch, gain := if ch < 48 then (chan s ch).gain else 0, run := true, ok := true,
        n := 0, sumRy := 0, sumYy := 0, sumXx := 0 } } := if_neg (by simp [h])

/-- Beginning a run keeps the channels and the events. -/
theorem beginRun_keeps (ch : Nat) (z c : Int) (s : State) :
    (beginRun ch z c s).prs.chans = s.prs.chans ∧ Grows s (beginRun ch z c s) := by
  cases h : refBad z c with
  | true => rw [beginRun_bad h]; exact ⟨rfl, grows_record ..⟩
  | false => rw [beginRun_good h]; exact ⟨rfl, .refl s⟩

theorem followRun_rotation {s : State} {k : Nat} (hs : s.prs.taste.state = .rotation)
    (hk : nextTaste s s.prs.taste.ch = some k) (z c : Int) : followRun z c s = beginRun k z c s := by
  simp only [followRun, hs, hk]

/-- Whatever run follows, the channels and the events are kept. -/
theorem followRun_keeps (z c : Int) (s : State) :
    (followRun z c s).prs.chans = s.prs.chans ∧ Grows s (followRun z c s) := by
  unfold followRun
  split
  · split
    · exact beginRun_keeps ..
    · exact ⟨rfl, .refl s⟩
  · exact beginRun_keeps ..
  · exact ⟨rfl, .refl s⟩

theorem chan_congr {s t : State} (h : t.prs.chans = s.prs.chans) (d : Nat) : chan t d = chan s d := by simp only [chan, h]

/-! ### A complete run (R268 to R270) -/

/-- A factor moved by one eighth of `rho - 1`, within 0.995 to 1.005 (R269). -/
def movedFactor (old rho : F64) : F64 :=
  lim (F64.mul old (F64.add (F64.ofInt 1) (F64.div (F64.sub rho (F64.ofInt 1)) (F64.ofInt 8)))) (F64.ofDec 995 3) (F64.ofDec 1005 3)

/-- An accepted run moves the factor of its gain and ends the row of rejections. -/
theorem chan_acceptRun (ch g : Nat) (rho : F64) (s : State) : ∃ n f, chan (acceptRun ch g rho s) ch =
    { chan s ch with
      tau := (chan s ch).tau.set g (movedFactor (nthD (chan s ch).tau g (F64.ofInt 1)) rho),
      tauAt := (chan s ch).tauAt.set g s.now, rejected := 0, goodRuns := n, tasteFault := f } := by
  unfold acceptRun
  extract_lets one lo hi old new atLim was t
  refine ⟨if atLim then 0 else (chan s ch).goodRuns + 1,
    if atLim then true else (chan s ch).tasteFault && (if atLim then 0 else (chan s ch).goodRuns + 1) < 4, ?_⟩
  have taken : chan (if atLim && !was then record cPRS_TASTE_LIMIT 0 (d1 ch) t else t) ch = chan t ch := by
    split
    · rfl
    · rfl
  exact taken.trans (chan_updChan_self ..)

/-- A channel with one more rejected run; the third in a row is its fault (R270). -/
def runRejected (c : Chan) : Chan :=
  { c with rejected := c.rejected + 1, faults := c.faults + 1, goodRuns := 0,
           tasteFault := c.tasteFault || (3 ≤ c.rejected + 1 && !c.tasteFault) }

theorem chan_rejectRun (ch : Nat) (s : State) : chan (rejectRun ch s) ch = runRejected (chan s ch) := by
  unfold rejectRun
  extract_lets c fault t
  have taken : chan (if fault then record cPRS_TASTE_FAULT 0 (d1 ch) t else t) ch = chan t ch := by
    split
    · rfl
    · rfl
  exact taken.trans (chan_updChan_self ..)

theorem rejectRun_tells {ch : Nat} {s : State} (h : 2 ≤ (chan s ch).rejected) (hf : (chan s ch).tasteFault = false) :
    { code := cPRS_TASTE_FAULT, data := d1 ch } ∈ (rejectRun ch s).arising := by
  unfold rejectRun
  extract_lets c fault t
  have third : fault = true := by simp [fault, c, hf, h]
  rw [if_pos third]
  exact mem_record_arising ..

theorem runRejected_third {c : Chan} (h : 2 ≤ c.rejected) : (runRejected c).tasteFault = true := by
  simp [runRejected, h]

/-- The ratio a run gives, and the least RMS at which it is judged (R268). -/
def runRho (t : Taste) : F64 := F64.div t.sumRy t.sumYy

def runFloor (t : Taste) : F64 := F64.mul (F64.ofDec 5 2) (F64.div (F64.ofInt 1) (F64.ofInt (4 ^ t.gain : Nat)))

/-- A run off by more than 0.002 (R269). -/
def rhoOff (rho : F64) : Bool := F64.lt (F64.ofDec 2 3) (F64.abs (F64.sub rho (F64.ofInt 1)))

section
variable {s : State} (ho : s.prs.taste.ok = true) (hf : F64.lt (rootMean s.prs.taste.sumXx 16000) (runFloor s.prs.taste) = false)
include ho hf

theorem judgeRun_judged : judgeRun s =
    if rhoOff (runRho s.prs.taste) then rejectRun s.prs.taste.ch { s with prs.taste.rho := runRho s.prs.taste }
    else { acceptRun s.prs.taste.ch s.prs.taste.gain (runRho s.prs.taste) { s with prs.taste.rho := runRho s.prs.taste } with
           prs.taste.code := cPRS_OK } := by
  have valid : (!s.prs.taste.ok || F64.lt (rootMean s.prs.taste.sumXx 16000) (runFloor s.prs.taste)) = false := by simp [ho, hf]
  exact if_neg (Bool.eq_false_iff.mp valid)

theorem judgeRun_rejects (h : rhoOff (runRho s.prs.taste) = true) :
    judgeRun s = rejectRun s.prs.taste.ch { s with prs.taste.rho := runRho s.prs.taste } :=
  (judgeRun_judged ho hf).trans (if_pos h)

theorem judgeRun_accepts (h : rhoOff (runRho s.prs.taste) = false) : judgeRun s =
    { acceptRun s.prs.taste.ch s.prs.taste.gain (runRho s.prs.taste) { s with prs.taste.rho := runRho s.prs.taste } with
      prs.taste.code := cPRS_OK } :=
  (judgeRun_judged ho hf).trans (if_neg (Bool.eq_false_iff.mp h))

end

theorem exec_tastingRunComplete {s : State} (hr : isRun s .press = true) (ht : s.prs.taste.run = true)
    (hn : 16000 ≤ s.prs.taste.n) (z c : Int) : exec (.tastingRunComplete z c) s = .next (followRun z c (judgeRun s)) :=
  congrArg Host.Outcome.next (if_pos (by simp [hr, ht, hn]))

/-! ### Commands (R271) -/

/-- The part of START that is done once the access passes its checks. -/
def tastingStartOp (z c : Int) (s : State) : State :=
  followRun z c (setTasteCode cPRS_OK { s with prs.taste.state := .rotation })

theorem exec_tastingStart (iss : Issuer) (z c : Int) (s : State) :
    exec (.tastingStart iss z c) s = prsCmd iss 0x0810 (tastingStartOp z c) s := rfl

theorem tastingStartOp_begins {s : State} {k : Nat} (hk : nextTaste s s.prs.taste.ch = some k) (z c : Int) :
    tastingStartOp z c s = beginRun k z c (setTasteCode cPRS_OK { s with prs.taste.state := .rotation }) :=
  followRun_rotation (s := setTasteCode cPRS_OK { s with prs.taste.state := .rotation }) rfl hk z c

/-- The part of SINGLE that is done once the access passes its checks. -/
def tastingSingleOp (k : Fin 64) (z c : Int) (s : State) : State :=
  if k.val < 54 && (chan s k).rc.used then
    beginRun k z c (setTasteCode cPRS_OK { s with prs.taste.ctrlCh := k.val, prs.taste.state := .single })
  else setTasteCode cPRS_TST_STATE { s with prs.taste.ctrlCh := k.val }

theorem exec_tastingSingle (iss : Issuer) (k : Fin 64) (z c : Int) (s : State) :
    exec (.tastingSingle iss k z c) s = prsCmd iss 0x0810 (tastingSingleOp k z c) s := rfl

theorem tastingSingleOp_used {k : Fin 64} {s : State} (hk : k.val < 54) (hu : (chan s k).rc.used = true) (z c : Int) :
    tastingSingleOp k z c s =
      beginRun k z c (setTasteCode cPRS_OK { s with prs.taste.ctrlCh := k.val, prs.taste.state := .single }) :=
  if_pos (by simp [hk, hu])

theorem tastingSingleOp_unused {k : Fin 64} {s : State} (h : 54 ≤ k.val ∨ (chan s k).rc.used = false) (z c : Int) :
    tastingSingleOp k z c s = setTasteCode cPRS_TST_STATE { s with prs.taste.ctrlCh := k.val } := by
  refine if_neg ?_
  rcases h with h | h
  · simp [Nat.not_lt.mpr h]
  · simp [h]

end Sys2Proof.Machine
end

section
/-!
Press's saves, restoration, theft watch and tasting assembled (R251 to R255, R258 to R271).
-/
namespace Sys2Proof.Machine

/-- Settles O21: each command is its operation at the case in hand. Restoration is read off what is ready to be booked on, since the
booking of held samples leaves Press restored and its retained record in force; a run's judgement stands before the beginning of
the next, which keeps the channels. -/
theorem pressSavesWatchAndTasting : Obligations.PressSavesWatchAndTasting := by
  refine ⟨fun s hr hs hn => ⟨fun hd => ⟨_, exec_periodicSave_due hr hs hn hd, _, rfl, rfl, rfl, rfl, rfl, rfl, rfl⟩,
      fun hd => exec_periodicSave_done hd⟩,
    fun s v hv => ⟨⟨_, exec_saveCommit_ok hv, ?committed⟩, ⟨_, exec_saveCommit_failed hv, ?failed⟩⟩,
    fun s hr hs => ⟨_, exec_finalSaveCommand hr hs, ?final⟩,
    fun s hr hs hl => exec_pressHoldFull hr hs hl,
    fun s hr hs => ⟨_, exec_pressRestoreComplete hr hs, ?restored⟩,
    fun s n e hr he hu ha hw hd => ⟨_, exec_prsWatchStart hr, ?begun⟩,
    fun irms s n e w he hw ht => ⟨_, exec_watchSecond he hw ht irms, rfl, ?second⟩,
    fun s n e w hr he hw h => ⟨_, exec_prsWatchEnd hr, ?ended⟩,
    fun mv s n e w hm hx hw hu => ⟨_, exec_prsWatchLost hm hx hw hu, rfl, rfl, ?lost⟩,
    fun z c s hr ht hn ho hf => ?judged,
    fun iss z c s hp hi hr => ⟨fun k hk hz => answers_prsCmd hi hr hp (exec_tastingStart ..) ?start,
      fun k hk hz => answers_prsCmd hi hr hp (exec_tastingStart ..) ?halted,
      fun k hk hu hz => answers_prsCmd hi hr hp (exec_tastingSingle ..) ?single,
      fun k hk => answers_prsCmd hi hr hp (exec_tastingSingle ..) ?unused,
      answers_prsCmd hi hr hp rfl ⟨rfl, rfl, rfl, rfl⟩⟩⟩
  case committed => exact ⟨rfl, setBank_self .., setBank_other .., rfl, rfl⟩
  case failed => exact ⟨rfl, setBank_invalid .., ret_setBank .., mem_record_arising ..⟩
  case final =>
    obtain ⟨b, eq, taken⟩ := finalSaveOp_eq s
    rw [eq]
    exact ⟨rfl, rfl, _, rfl, rfl, rfl, taken⟩
  case restored =>
    rw [restoreOp_eq]
    obtain ⟨done, valid⟩ := restored_congr (prsRest_totalAdded _) (restored_heldBooked (restored_readyToBook s))
    refine ⟨done, rfl, rfl, rfl, rfl, valid, fun b hb hh => ?_⟩
    have ready := readyToBook_bank hb
    have none : (readyToBook s).prs.held = [] := (congrArg Prs.held ready).trans hh
    rw [← heldBooked_nil none, ← prsRest_totalAdded] at ready
    exact ⟨congrArg Prs.tariffs ready, congrArg Prs.lastFinal ready, congrArg (fun p : Prs => p.ret.tag) ready,
      congrArg (fun p : Prs => p.ret.samples) ready⟩
  case begun =>
    obtain ⟨begun, told⟩ := darkChecked_both he hu ha hw hd
    exact ⟨⟨_, begun, rfl, rfl, rfl⟩, told⟩
  case second =>
    obtain ⟨secs, unmeasured, low, high, stays, found⟩ := watchStep_counts e.rc (e.rc.iCh.map (rmsHad irms s)) w
    have watched := (Tbl.get?_mapV s.prs.elems (fun _ => secondWatched irms s) n).trans (congrArg (Option.map _) he)
    refine ⟨secondWatched irms s e, _, watched, ?_, secs, unmeasured, low, high, stays,
      found, ?_⟩
    · simp only [secondWatched, hw]
    · simp only [secondWatched, hw]
  case ended =>
    have ends : endsWatch (vsys s) e = true := by simpa [endsWatch, hw] using h
    have entry := Tbl.mem_of_get? he
    have pass := endWatch_passes (vsys s)
    refine ⟨⟨watchEnded e, ?_, rfl, rfl⟩, ?_⟩
    · rw [pass.elem_foldl _ rfl, if_pos ⟨_, entry, rfl, ends⟩, he]
      rfl
    · have told := pass.tells_foldl entry ends rfl
      simp only [hw, Option.getD_some] at told
      exact told
  case lost =>
    intro x hx
    obtain ⟨y, _, rfl⟩ := List.mem_map.mp hx
    rfl
  case judged =>
    intro rho ch g off
    obtain ⟨chans, grows⟩ := followRun_keeps z c (judgeRun s)
    refine ⟨fun hoff hg => ⟨_, exec_tastingRunComplete hr ht hn z c, ?accepted⟩,
      fun hoff => ⟨_, exec_tastingRunComplete hr ht hn z c, ?rejected⟩⟩
    case accepted =>
      have judged := judgeRun_accepts ho hf hoff
      obtain ⟨n, f, eq⟩ := chan_acceptRun ch g rho { s with prs.taste.rho := rho }
      have after : chan (followRun z c (judgeRun s)) ch = _ := (chan_congr chans ch).trans ((congrArg (chan · ch) judged).trans eq)
      exact ⟨(congrArg Chan.rejected after).trans rfl,
        (congrArg (fun c : Chan => c.tau[g]?) after).trans (List.getElem?_set_self hg)⟩
    case rejected =>
      have judged := judgeRun_rejects ho hf hoff
      have after : chan (followRun z c (judgeRun s)) ch = runRejected (chan s ch) :=
        (chan_congr chans ch).trans ((congrArg (chan · ch) judged).trans (chan_rejectRun ..))
      refine ⟨(congrArg Chan.rejected after).trans rfl, (congrArg Chan.tau after).trans rfl,
        fun h2 => ⟨(congrArg Chan.tasteFault after).trans (runRejected_third h2), fun hfault => grows.mem ?_⟩⟩
      rw [judged]
      exact rejectRun_tells (s := { s with prs.taste.rho := rho }) h2 hfault
  case start =>
    rw [tastingStartOp_begins (s := { s with reply := .none }) hk, beginRun_good hz]
    exact ⟨rfl, rfl, rfl, rfl, rfl⟩
  case halted =>
    rw [tastingStartOp_begins (s := { s with reply := .none }) hk, beginRun_bad hz]
    exact ⟨rfl, rfl, rfl, mem_record_arising ..⟩
  case single =>
    rw [tastingSingleOp_used (s := { s with reply := .none }) hk hu, beginRun_good hz]
    exact ⟨rfl, rfl, rfl, rfl, rfl⟩
  case unused =>
    rw [tastingSingleOp_unused (s := { s with reply := .none }) hk]
    exact ⟨rfl, rfl, rfl, rfl⟩

end Sys2Proof.Machine
end
